-- ==== Sys2Proof/Word.lean ====
section
/-! DEFINITION. The word types of the Imkuvel and their plainest arithmetic (R1, R62, R192). -/

namespace Sys2Proof

/-- One byte of memory. -/
abbrev Byte := BitVec 8
/-- A 32-bit word: an accumulator cell, a TSHAPE, FCSR, FLAGS (R28, R31, R63, R67). -/
abbrev W32 := BitVec 32
/-- A 64-bit word: an x register, an e register, a PC (R62, R63). -/
abbrev W64 := BitVec 64
/-- A lane mask m0 to m7 (R63). -/
abbrev W128 := BitVec 128

end Sys2Proof
end

