-- ==== Sys2Proof/Syntax.lean ====
section
/-! DEFINITION. The syntax of the Imkuvel's steps: control-core words (R83 to R85, R192 to R220), engine words
(R86 to R99), and the events of the opcode table that carry no encoding (spec/95). One constructor of `Instr` per
row of the table. -/

namespace Sys2Proof

/-- The memory and barrier scopes of R11 with their codes 0 to 4. -/
inductive Scope where
  | core | quad | die | package | pod
  deriving DecidableEq, Repr, Inhabited

/-- The three control-core contexts of R62. -/
inductive CtxId where
  | ld | cp | st
  deriving DecidableEq, Repr, Inhabited

/-- The three engines of R14. -/
inductive Engine where
  | a | v | c
  deriving DecidableEq, Repr, Inhabited

/-- The guard of a control-core word (R74, R83): it executes when p[gp] is not gs. -/
structure Guard where
  gs : Bool
  gp : Fin 8
  deriving DecidableEq, Repr, Inhabited

/-- The compare conditions of R85 and R196. -/
inductive Cond where
  | eq | ne | lt | ge | ltu | geu
  deriving DecidableEq, Repr, Inhabited

/-- A mask of engines, as JOIN, TWAIT and TPOST write it (R85: A bit 2, V bit 1, C bit 0). -/
structure EngSet where
  a : Bool
  v : Bool
  c : Bool
  deriving DecidableEq, Repr, Inhabited

/-- The special registers of R64. -/
inductive SpecReg where
  | tag | phase | wver | stage | gang | grank | iter | trip | ctxid
  | core | quad | die | pkg | podx | pody | podz
  | cyc | time
  | fcsr | flags
  | hwb | hwl | hwo
  | qbmode
  | pinb (r : Fin 4)
  | pinl (r : Fin 4)
  deriving DecidableEq, Repr, Inhabited

/-- The direction of a tile operand (R68). -/
inductive Dir where
  | r | c | d | b
  deriving DecidableEq, Repr, Inhabited

/-- What the tile number of an operand field names (R87). -/
inductive TileRef where
  | tile (n : Fin 48)
  | acc (n : Fin 4)
  | tz
  deriving DecidableEq, Repr, Inhabited

/-- An operand field of an engine word (R87). -/
structure Opnd where
  dir : Dir
  ref : TileRef
  deriving DecidableEq, Repr, Inhabited

/-- The encoding of all zeros: t0 with DIR R, the value of a field that an instruction does not use (R82). -/
def Opnd.zero : Opnd := ⟨.r, .tile 0⟩

/-- The four operand fields of an engine word (R86). -/
structure Ops4 where
  d : Opnd
  s1 : Opnd
  s2 : Opnd
  s3 : Opnd
  deriving DecidableEq, Repr, Inhabited

/-- The token fields of an engine word (R86): bits 2, 1, 0 name the other agents in the order K, A, V, C. -/
structure Tok where
  wt : Fin 8
  pt : Fin 8
  deriving DecidableEq, Repr, Inhabited

/-- MOD layout AM (R92). -/
structure ModAM where
  fa : Fin 16
  fb : Fin 16
  kn : Fin 128
  mr : Fin 64
  nc : Fin 64
  ra : Fin 128
  rb : Fin 128
  sel : Fin 4
  za : Bool
  deriving DecidableEq, Repr, Inhabited

/-- MOD layout AT (R93). -/
structure ModAT where
  fa : Fin 16
  fb : Fin 16
  tf : Fin 16
  sub : Fin 32
  ncode : Bool
  ds : Fin 64
  nc : Fin 64
  ra : Fin 128
  rb : Fin 128
  deriving DecidableEq, Repr, Inhabited

/-- MOD layout AR (R94). -/
structure ModAR where
  tie : Bool
  cin : Bool
  idxinc : Bool
  idxe : Fin 32
  aint : Bool
  mr : Fin 64
  nc : Fin 64
  rd : Fin 128
  deriving DecidableEq, Repr, Inhabited

/-- MOD layout AD (R95). -/
structure ModAD where
  dfmt : Fin 16
  rm : Fin 8
  sat : Bool
  bias : Bool
  clamp : Fin 4
  clr : Bool
  mr : Fin 64
  nc : Fin 64
  rd : Fin 128
  cle : Fin 32
  eadr : Fin 32
  oc : Fin 16
  deriving DecidableEq, Repr, Inhabited

/-- MOD layout AS (R96). -/
structure ModAS where
  fmt : Fin 16
  rm : Fin 8
  sat : Bool
  mr : Fin 64
  nc : Fin 64
  ra : Fin 128
  rb : Fin 128
  deriving DecidableEq, Repr, Inhabited

/-- MOD layout VG (R97). -/
structure ModVG where
  fmt : Fin 16
  dfmt : Fin 16
  rm : Fin 8
  sat : Bool
  men : Bool
  msk : Fin 8
  mdst : Fin 8
  e : Fin 32
  nv : Fin 128
  row : Fin 128
  imm : Fin 1024
  deriving DecidableEq, Repr, Inhabited

/-- MOD layout CG (R98). -/
structure ModCG where
  fmt : Fin 16
  dfmt : Fin 16
  oc : Fin 16
  ea : Fin 32
  eb : Fin 32
  ec : Fin 32
  nr : Fin 128
  row : Fin 128
  zp : Bool
  evf : Bool
  cx : Fin 32
  deriving DecidableEq, Repr, Inhabited

/-- A word of layout AM. -/
structure AmWord where
  tok : Tok
  ops : Ops4
  mod : ModAM
  deriving DecidableEq, Repr, Inhabited

/-- A word of layout AT. -/
structure AtWord where
  tok : Tok
  ops : Ops4
  mod : ModAT
  deriving DecidableEq, Repr, Inhabited

/-- A word of layout AR. -/
structure ArWord where
  tok : Tok
  ops : Ops4
  mod : ModAR
  deriving DecidableEq, Repr, Inhabited

/-- A word of layout AD. -/
structure AdWord where
  tok : Tok
  ops : Ops4
  mod : ModAD
  deriving DecidableEq, Repr, Inhabited

/-- A word of layout AS. -/
structure AsWord where
  tok : Tok
  ops : Ops4
  mod : ModAS
  deriving DecidableEq, Repr, Inhabited

/-- A word of layout VG. -/
structure VgWord where
  tok : Tok
  ops : Ops4
  mod : ModVG
  deriving DecidableEq, Repr, Inhabited

/-- A word of layout CG. -/
structure CgWord where
  tok : Tok
  ops : Ops4
  mod : ModCG
  deriving DecidableEq, Repr, Inhabited

/-- The conditions of ESKIP (R99). -/
inductive SkipCond where
  | eqz | nez | ltz | gez | first | last | nfirst | nlast
  deriving DecidableEq, Repr, Inhabited

/-- The decode faults of R81 in their order of report: which code a word that cannot be decoded raises. -/
inductive DecodeFault where
  | illegalOpcode
  | illegalOperand
  deriving DecidableEq, Repr, Inhabited

/-- A request that a peer package makes of this package's memory, or the peer's answer to a request of ours (R147, R353). -/
inductive RemoteMsg where
  /-- a peer's read of `len` bytes at device address `addr`, made for incarnation `inc` of this package -/
  | inRead (src inc addr len : Nat)
  /-- a peer's write of `data` at device address `addr`, made for incarnation `inc` of this package, with the runs of it that are
  poisoned -/
  | inWrite (src inc addr : Nat) (data : List Byte) (bad : List (Nat × Nat))
  /-- the target performed the outstanding read `id` of this package and returned `data`, with the poison bit -/
  | readDone (id : Nat) (data : List Byte) (poisoned : Bool)
  /-- the target performed the outstanding write `id` of this package -/
  | writeDone (id : Nat)
  deriving DecidableEq, Repr, Inhabited

/-- The operators of AMO, RED and CBAT with the codes of R204. -/
inductive AtomicOp where
  | swap | add | and | or | xor | min | max | minu | maxu | fadd | cas
  deriving DecidableEq, Repr, Inhabited

/-- One row of a CBAT batch as it travels (R361): address and elements. -/
structure BatchRow where
  addr : Nat
  elems : List W32
  deriving DecidableEq, Repr, Inhabited

/-- What one member of a group contributes to a CRING (R370): its decoded elements and the flags its decode raised. -/
structure RingTerms where
  rank : Nat
  elems : List W32
  deriving DecidableEq, Repr, Inhabited

/-- One record on the move in Drift (R375): its source rank, its index there, and its bytes. -/
structure DriftRec where
  src : Nat
  idx : Nat
  bytes : List Byte
  deriving DecidableEq, Repr, Inhabited

/-- The sensors that the power controller reads (R426, R427): module power in W, temperatures in 1/16 °C. -/
structure Sensors where
  power : Nat
  dieTemp : List Int
  stackTemp : List Int
  d2dOver : Bool
  deriving DecidableEq, Repr, Inhabited

/-- What brings a line to Neve (R293, R294): a read of it, a write of a core at a virtual address, or a write of Firn, a tier engine or a
Calving copy. -/
inductive NeveUse where
  | read (line : Nat)
  | store (core va : Nat)
  | engine (line : Nat)
  deriving DecidableEq, Repr, Inhabited

/-- The member of a group or of a spanning stage that a message comes from, and the incarnation of this package that it was made for
(R176, R358, R389). -/
structure Sender where
  member : Nat
  inc : Nat
  deriving DecidableEq, Repr

/-- The steps of a spanning stage that a member says have retired or faulted (R176, R177). -/
structure EndedSteps where
  retired : List Nat
  faulted : List Nat
  deriving DecidableEq, Repr

/-- What a pick of member 0 runs with: its phase, the weight version and the variant (R176). -/
structure PickTerms where
  phase : Nat
  wver : Nat
  var : Nat
  deriving DecidableEq, Repr

/-- An error that a check has found: its source (R304), the core that met it, whether a transfer differs from what was sent, and the
bits that are flipped (R296, R302). -/
structure FoundError where
  src : Nat
  core : Nat
  mismatch : Bool
  flips : List Nat
  deriving DecidableEq, Repr

/-- The sending end of a message: its channel, its word 0, and the incarnation that the message was made for (R364, R389). -/
structure SendingEnd where
  ch : Nat
  inc : Nat
  w0 : W64
  deriving DecidableEq, Repr

/-- What a member of a CREPART says of its own buffers and destinations (R375, R376). -/
structure DriftMarks where
  overflow : Bool
  badDest : Bool
  deriving DecidableEq, Repr

/-- An error in a sector as its check finds it: the sector and the flipped bits (R296). -/
structure SectorError where
  sector : Nat
  flips : List Nat
  deriving DecidableEq, Repr

/-- What a trip comes from: its cause, and the sensors (R428). -/
structure TripSigns where
  cause : Nat
  sensors : Sensors
  deriving DecidableEq, Repr

/-- The steps of the machine: one constructor per row of the opcode table. -/
inductive Instr where
  -- ALU-R group (R192, R193)
  | add (g : Guard) (rd ra rb : Fin 32)
  | sub (g : Guard) (rd ra rb : Fin 32)
  | and (g : Guard) (rd ra rb : Fin 32)
  | or (g : Guard) (rd ra rb : Fin 32)
  | xor (g : Guard) (rd ra rb : Fin 32)
  | sll (g : Guard) (rd ra rb : Fin 32)
  | srl (g : Guard) (rd ra rb : Fin 32)
  | sra (g : Guard) (rd ra rb : Fin 32)
  | mul (g : Guard) (rd ra rb : Fin 32)
  | mulh (g : Guard) (rd ra rb : Fin 32)
  | mulhu (g : Guard) (rd ra rb : Fin 32)
  | div (g : Guard) (rd ra rb : Fin 32)
  | divu (g : Guard) (rd ra rb : Fin 32)
  | rem (g : Guard) (rd ra rb : Fin 32)
  | remu (g : Guard) (rd ra rb : Fin 32)
  | min (g : Guard) (rd ra rb : Fin 32)
  | max (g : Guard) (rd ra rb : Fin 32)
  | minu (g : Guard) (rd ra rb : Fin 32)
  | maxu (g : Guard) (rd ra rb : Fin 32)
  | clz (g : Guard) (rd ra : Fin 32)
  | popc (g : Guard) (rd ra : Fin 32)
  | andn (g : Guard) (rd ra rb : Fin 32)
  -- immediates (R194, R195)
  | addi (g : Guard) (rd ra : Fin 32) (imm : BitVec 12)
  | andi (g : Guard) (rd ra : Fin 32) (imm : BitVec 12)
  | ori (g : Guard) (rd ra : Fin 32) (imm : BitVec 12)
  | xori (g : Guard) (rd ra : Fin 32) (imm : BitVec 12)
  | slli (g : Guard) (rd ra : Fin 32) (sh : Fin 64)
  | srli (g : Guard) (rd ra : Fin 32) (sh : Fin 64)
  | srai (g : Guard) (rd ra : Fin 32) (sh : Fin 64)
  | liu (g : Guard) (rd : Fin 32) (imm : BitVec 17)
  | addpc (g : Guard) (rd : Fin 32) (imm : BitVec 17)
  -- compares, predicates, selection (R196), branches (R197)
  | cmp (g : Guard) (pd : Fin 8) (ra rb : Fin 32) (c : Cond)
  | cmpi (g : Guard) (c : Cond) (pd : Fin 8) (ra : Fin 32) (imm : BitVec 12)
  | plog (g : Guard) (pd pa pb : Fin 8) (t : BitVec 4)
  | sel (g : Guard) (rd ra rb : Fin 32) (pc : Fin 8)
  | br (g : Guard) (off : BitVec 22)
  | jal (g : Guard) (off : BitVec 22)
  | jalr (g : Guard) (rd ra : Fin 32) (imm : BitVec 12)
  -- loads and stores (R198), full-empty accesses (R199)
  | ldb (g : Guard) (rd ra : Fin 32) (cls : Fin 16) (imm : BitVec 8)
  | ldh (g : Guard) (rd ra : Fin 32) (cls : Fin 16) (imm : BitVec 8)
  | ldw (g : Guard) (rd ra : Fin 32) (cls : Fin 16) (imm : BitVec 8)
  | ldd (g : Guard) (rd ra : Fin 32) (cls : Fin 16) (imm : BitVec 8)
  | ldbu (g : Guard) (rd ra : Fin 32) (cls : Fin 16) (imm : BitVec 8)
  | ldhu (g : Guard) (rd ra : Fin 32) (cls : Fin 16) (imm : BitVec 8)
  | ldwu (g : Guard) (rd ra : Fin 32) (cls : Fin 16) (imm : BitVec 8)
  | ldfeW (g : Guard) (rd ra : Fin 32) (cls : Fin 16) (imm : BitVec 6)
  | ldfeE (g : Guard) (rd ra : Fin 32) (cls : Fin 16) (imm : BitVec 6)
  | ldfeN (g : Guard) (rd ra : Fin 32) (cls : Fin 16) (imm : BitVec 6)
  | stb (g : Guard) (rs ra : Fin 32) (cls : Fin 16) (imm : BitVec 8)
  | sth (g : Guard) (rs ra : Fin 32) (cls : Fin 16) (imm : BitVec 8)
  | stw (g : Guard) (rs ra : Fin 32) (cls : Fin 16) (imm : BitVec 8)
  | std (g : Guard) (rs ra : Fin 32) (cls : Fin 16) (imm : BitVec 8)
  | stfeF (g : Guard) (rs ra : Fin 32) (cls : Fin 16) (imm : BitVec 6)
  | stfeWe (g : Guard) (rs ra : Fin 32) (cls : Fin 16) (imm : BitVec 6)
  | feqQ (g : Guard) (rd ra : Fin 32) (cls : Fin 16) (imm : BitVec 6)
  | feqClr (g : Guard) (ra : Fin 32) (cls : Fin 16) (imm : BitVec 6)
  | feqSet (g : Guard) (ra : Fin 32) (cls : Fin 16) (imm : BitVec 6)
  -- cache range operations (R201), fences (R202, R203)
  | invr (g : Guard) (ra rb : Fin 32)
  | wbr (g : Guard) (ra rb : Fin 32)
  | wbinvr (g : Guard) (ra rb : Fin 32)
  | invi (g : Guard)
  | fenceCls (g : Guard) (mask : BitVec 16)
  | fenceRel (g : Guard) (sc : Scope) (mask : BitVec 16)
  | fenceAcq (g : Guard) (sc : Scope) (mask : BitVec 16)
  | fenceAr (g : Guard) (sc : Scope) (mask : BitVec 16)
  -- atomics and reductions (R204)
  | amoSwap (g : Guard) (rd ra rb : Fin 32) (cls : Fin 4) (dbl : Bool)
  | amoAdd (g : Guard) (rd ra rb : Fin 32) (cls : Fin 4) (dbl : Bool)
  | amoAnd (g : Guard) (rd ra rb : Fin 32) (cls : Fin 4) (dbl : Bool)
  | amoOr (g : Guard) (rd ra rb : Fin 32) (cls : Fin 4) (dbl : Bool)
  | amoXor (g : Guard) (rd ra rb : Fin 32) (cls : Fin 4) (dbl : Bool)
  | amoMin (g : Guard) (rd ra rb : Fin 32) (cls : Fin 4) (dbl : Bool)
  | amoMax (g : Guard) (rd ra rb : Fin 32) (cls : Fin 4) (dbl : Bool)
  | amoMinu (g : Guard) (rd ra rb : Fin 32) (cls : Fin 4) (dbl : Bool)
  | amoMaxu (g : Guard) (rd ra rb : Fin 32) (cls : Fin 4) (dbl : Bool)
  | amoFadd (g : Guard) (rd ra rb : Fin 32) (cls : Fin 4)
  | amoCas (g : Guard) (rd ra rb : Fin 32) (cls : Fin 4) (dbl : Bool)
  | redAdd (g : Guard) (ra rb : Fin 32) (cls : Fin 4) (dbl : Bool)
  | redAnd (g : Guard) (ra rb : Fin 32) (cls : Fin 4) (dbl : Bool)
  | redOr (g : Guard) (ra rb : Fin 32) (cls : Fin 4) (dbl : Bool)
  | redXor (g : Guard) (ra rb : Fin 32) (cls : Fin 4) (dbl : Bool)
  | redMin (g : Guard) (ra rb : Fin 32) (cls : Fin 4) (dbl : Bool)
  | redMax (g : Guard) (ra rb : Fin 32) (cls : Fin 4) (dbl : Bool)
  | redMinu (g : Guard) (ra rb : Fin 32) (cls : Fin 4) (dbl : Bool)
  | redMaxu (g : Guard) (ra rb : Fin 32) (cls : Fin 4) (dbl : Bool)
  | redFadd (g : Guard) (ra rb : Fin 32) (cls : Fin 4)
  -- software queues (R208), role rings (R210)
  | qpush (g : Guard) (pd : Fin 8) (ra rb : Fin 32) (cls : Fin 16)
  | qpop (g : Guard) (rd ra : Fin 32) (pd : Fin 8) (cls : Fin 16)
  | racqP (g : Guard) (rd : Fin 32) (n : Fin 4)
  | racqC (g : Guard) (rd : Fin 32) (n : Fin 4)
  | rrelP (g : Guard) (n : Fin 4)
  | rrelC (g : Guard) (n : Fin 4)
  -- driving the engines (R211 to R215)
  | fork (g : Guard) (ra : Fin 32) (e : Engine)
  | join (g : Guard) (m : EngSet)
  | sete (g : Guard) (e ra : Fin 32)
  | gete (g : Guard) (rd e : Fin 32)
  | twait (g : Guard) (m : EngSet)
  | tpost (g : Guard) (m : EngSet)
  | setts (g : Guard) (ra : Fin 32) (t : Fin 48)
  | getts (g : Guard) (rd : Fin 32) (t : Fin 48)
  -- barriers and termination (R216, R217)
  | barA (g : Guard) (sc : Scope)
  | barW (g : Guard) (sc : Scope)
  | barAw (g : Guard) (sc : Scope)
  | barTry (g : Guard) (sc : Scope) (pd : Fin 8)
  | trmSend (g : Guard) (ra : Fin 32)
  | trmIdle (g : Guard)
  | trmBusy (g : Guard)
  | trmTest (g : Guard) (pd : Fin 8)
  -- special registers, traps, part ends (R218 to R220)
  | movs (g : Guard) (rd : Fin 32) (sel : SpecReg)
  | movts (g : Guard) (ra : Fin 32) (sel : SpecReg)
  | trap (g : Guard) (code : BitVec 12)
  | yield (g : Guard)
  | done (g : Guard)
  -- fetch and the common engine words (R99, R185)
  | instructionFetch (core : Nat) (c : CtxId)
  | enop (t : Tok)
  | ehalt (t : Tok)
  | eskip (t : Tok) (e : Fin 32) (cond : SkipCond) (n : Fin 256)
  | eflag (t : Tok) (e : Fin 32)
  | sectionFetch (core : Nat) (g : Engine)
  | sectionExecute (core : Nat) (g : Engine)
  | engineWordComplete (core : Nat) (g : Engine)
  -- array engine (R230 to R245)
  | azero (w : AsWord)
  | amma (w : AmWord)
  | ammas (w : AmWord)
  | ammaz (w : AmWord)
  | atbld (w : AtWord)
  | atmma (w : AmWord)
  | adist (w : AmWord)
  | aargmin (w : ArWord)
  | adrain (w : AdWord)
  | adrainm (w : AdWord)
  | adrainmStoresAccepted (core : Nat)
  | ascacc (w : AsWord)
  | acent (w : AmWord)
  | acdiv (w : AsWord)
  | aaccld (w : AsWord)
  | aaccst (w : AsWord)
  | amova (w : AsWord)
  -- vector engine (R254 to R279)
  | vadd (w : VgWord)
  | vsub (w : VgWord)
  | vmul (w : VgWord)
  | vfma (w : VgWord)
  | vmin (w : VgWord)
  | vmax (w : VgWord)
  | vabs (w : VgWord)
  | vneg (w : VgWord)
  | vrcp (w : VgWord)
  | vrsq (w : VgWord)
  | vexp2 (w : VgWord)
  | vlog2 (w : VgWord)
  | vscale (w : VgWord)
  | vclamp (w : VgWord)
  | vcmp (w : VgWord)
  | vclass (w : VgWord)
  | viadd (w : VgWord)
  | visub (w : VgWord)
  | vimul (w : VgWord)
  | vimin (w : VgWord)
  | vimax (w : VgWord)
  | vand (w : VgWord)
  | vor (w : VgWord)
  | vxor (w : VgWord)
  | vshl (w : VgWord)
  | vshr (w : VgWord)
  | vpopc (w : VgWord)
  | vicmp (w : VgWord)
  | viota (w : VgWord)
  | vcvt (w : VgWord)
  | vquant (w : VgWord)
  | vbmax (w : VgWord)
  | vpack (w : VgWord)
  | vunpk (w : VgWord)
  | vspars (w : VgWord)
  | vzbm (w : VgWord)
  | vrsum (w : VgWord)
  | vrmax (w : VgWord)
  | vrmin (w : VgWord)
  | vramax (w : VgWord)
  | vcsum (w : VgWord)
  | vscan (w : VgWord)
  | vmov (w : VgWord)
  | vtrans (w : VgWord)
  | vbcast (w : VgWord)
  | vshuf (w : VgWord)
  | vrot (w : VgWord)
  | vsel (w : VgWord)
  | vext (w : VgWord)
  | vins (w : VgWord)
  | vfill (w : VgWord)
  | vmlog (w : VgWord)
  | vmpop (w : VgWord)
  | vmfirst (w : VgWord)
  | vsfc (w : VgWord)
  | vhist (w : VgWord)
  -- copy engine (R326 to R342, R361 to R377)
  | cld (w : CgWord)
  | cst (w : CgWord)
  | ccpy (w : CgWord)
  | cfill (w : CgWord)
  | cwin (w : CgWord)
  | cadv (w : CgWord)
  | windowGranuleLand (core idx : Nat)
  | cgath (w : CgWord)
  | cscat (w : CgWord)
  | copyDataReturn (core idx : Nat)
  | copyWriteAccept (core idx : Nat)
  | cdec (w : CgWord)
  | cenc (w : CgWord)
  | cxfm (w : CgWord)
  | cstash (w : CgWord)
  | cunst (w : CgWord)
  | csdrop (w : CgWord)
  | cbat (w : CgWord)
  | csend (w : CgWord)
  | crecv (w : CgWord)
  | cchstStat (w : CgWord)
  | cchstGrant (w : CgWord)
  | cringSum (w : CgWord)
  | cringMax (w : CgWord)
  | cringBcast (w : CgWord)
  | crepart (w : CgWord)
  | cpin (w : CgWord)
  | cunpin (w : CgWord)
  | cpref (w : CgWord)
  | cflush (w : CgWord)
  | cmetaRead (w : CgWord)
  | cmetaWrite (w : CgWord)
  -- queues and nodes (R113 to R129)
  | kick (q : Nat)
  | tailReadReturn (q : Nat)
  | queueEnable (q : Nat)
  | queueDisable (q : Nat)
  | recordEnter (q : Nat)
  | nop (q idx : Nat)
  | task (q idx : Nat)
  | stage (q idx : Nat)
  | xform (q idx : Nat)
  | coll (q idx : Nat)
  | signal (q idx : Nat)
  | wait (q idx : Nat)
  | waitPoll (q idx : Nat)
  | waitTimeout (q idx : Nat)
  | nodeComplete (q idx : Nat)
  | cplheadReread (q : Nat)
  | msixUnmask (entry : Nat)
  -- leases and notices (R133 to R145)
  | leasePhase (q idx : Nat)
  | noticeackRetry (nid : Nat)
  | noticeackFail (nid : Nat)
  | nqcfgWrite (v : W64)
  | nqheadWrite (v : W32)
  | tlbInvalidate (v : W32)
  | tlbInvalidateDone
  | atsInvalidate (pasid va len : Nat)
  -- host accesses (R106, R109)
  | bar4Read (off len : Nat)
  | bar4Write (off : Nat) (data : List Byte)
  | registerWrite (off : Nat) (v : W64)
  -- placement, parts, retirement, faults (R149 to R153, R187, R384 to R399)
  | placeNode
  | placementReserve (cand : Nat)
  | preemptTimeout (cand : Nat)
  | contextSave (ctxid : Nat)
  | contextResume (ctxid : Nat)
  | partStart (core : Nat)
  | rendezvous (core : Nat)
  | iterLong (core : Nat)
  | retire (ctxid : Nat)
  | faultTeardown (ctxid : Nat)
  | frheadWrite (v : W32)
  | podBarrierArrival (group : Nat) (sender : Sender)
  | trmTokenPass (ctxid : Nat)
  -- microbatch scheduler and Firn (R159 to R177, R168 to R172)
  | mbsEvaluate (stage : Nat)
  | starveExpiry (stage row : Nat)
  | spanReportReceive (stage : Nat) (sender : Sender) (fwd bwd : List Nat) (ended : EndedSteps) (free : List Nat)
  | spanPickReceive (stage inc gang tag : Nat) (pick : PickTerms) (t : Nat) (adv : Bool)
  | spanStartTime (stage : Nat)
  | spanMemberLost (stage member : Nat)
  | firnWriteDone (slot : Nat)
  | firnFillDone (slot : Nat)
  -- on-chip memory and the memory side (R284 to R317)
  | bankSwitchComplete (quad bank : Nat)
  | neveDisplace (x : NeveUse) (pline sectors coding : Nat)
  | poisonDetect (sector : Nat) (error : FoundError)
  | memoryEventRecord
  | rowActivation (row : Nat) (checkFails : Bool)
  | rowRefresh (row : Nat)
  | promoteCount (tier region : Nat)
  | acreset (v : W64)
  | tierHigh (tier : Nat)
  | tierLow (tier : Nat)
  | rgcmd (v : W64)
  | rgcmdDone
  | tmcmd (v : W64)
  | tierMoveDone
  | calvctlGo (v : W64)
  | calvMapLoaded
  | calvLineCopy (uncorrectable : Bool)
  | calvMoveDone
  | calvSettleDone
  | phase (core : Nat) (agent : Nat) (addr : Nat) (stamp : Nat)
  -- channels, batches, remote requests (R353 to R368, R389)
  | channelEndOpen (c : Nat) (w0 : W64)
  | channelEndClose (c : Nat) (w0 : W64)
  | messageDelivered (c src : Nat) (end_ : SendingEnd) (n tag : Nat) (rows : List (List Byte)) (held cancel : Bool)
  | messageConfirm (c n : Nat)
  | ackReceive (c aseq : Nat)
  | channelBroken (c : Nat)
  | batchReceive (src inc id : Nat) (op : AtomicOp) (rows : List BatchRow)
  | batchReply (target id : Nat) (old : List (List W32))
  | batchResend (target id : Nat)
  | remoteRequest (m : RemoteMsg)
  | resetNak (pkg id inc : Nat)
  | remoteTimeout (pkg id : Nat)
  | incarnationAnnounce (pkg inc : Nat)
  -- collectives (R369 to R377)
  | ringChunkReceive (group : Nat) (sender : Sender) (terms : RingTerms) (agrees : Bool)
  | driftLoadsReceive (group : Nat) (sender : Sender) (loads : List Nat) (agrees : Bool)
  | driftOfferReceive (group : Nat) (sender : Sender) (count : Nat)
  | driftRecordsReceive (group : Nat) (sender : Sender) (recs : List DriftRec) (refused : Nat) (marks : DriftMarks) (written : Bool)
  -- power, firmware, resets (R426 to R435)
  | powerControlTick (x : Sensors)
  | trip (signs : TripSigns)
  | linkRetrain
  | parkRequest
  | parkedEnter
  | parkClear
  | correctedError (error : SectorError)
  | stackWarnWindow (stack : Nat)
  | load
  | commit
  | enrol
  | unenrol
  | quote
  | coldReset
  | warmReset
  | illegalOpcode (f : DecodeFault)
  | torusPortDown (port : Nat)
  | torusPortUp (port : Nat)
  | powerLoss
  | fwcmdComplete
  | firmwareError
  deriving DecidableEq, Repr, Inhabited

end Sys2Proof
end

