-- ==== Sys2Proof/Config.lean ====
section
/-! DEFINITION. What an implementation fixes, and the free values: opaque constants with no body, so that no proof can see
what they are. A claim is true whatever they are. -/

namespace Sys2Proof

/-- What one turn of the schedule does: an agent of a core takes its next step, an event of the table happens, or the
environment makes a choice that no rule orders (log entries 2, 3). -/
inductive Act where
  /-- a context of a core issues its next word -/
  | context (core : Nat) (c : CtxId)
  /-- an engine of a core issues its next word -/
  | engine (core : Nat) (e : Engine)
  /-- an event happens -/
  | event (i : Instr)
  /-- the scheduler of a stage evaluates (R161) -/
  | evaluate (stage : Nat)
  /-- a line of a core's data L1 is evicted (R190: replacement is not architectural) -/
  | evictD (core line : Nat)
  /-- a line of a core's instruction L1 is dropped (R185, R186) -/
  | evictI (core line : Nat)
  /-- an entry of a core's or of a quad's TLB is dropped (R143: replacement is not architectural) -/
  | evictTlb (core k : Nat)
  | evictQuadTlb (quad k : Nat)
  /-- an access of a core at a virtual address allocates its line in a way of a bank of the quad's second-level cache (R288) -/
  | allocate (core va bank way : Nat) (evf : Bool)
  /-- the host reads BAR0 at an offset, or a queue's page of BAR2 (R105, R109, R115, R148) -/
  | hostRead (off : Nat)
  | kickRead (q off : Nat)
  /-- the host sets Enable and Function Mask of MSI-X, or the size of BAR4 (R105, R125) -/
  | setMsix (on mask : Bool)
  | sizeBar4 (log2 : Nat)
  deriving DecidableEq, Repr, Inhabited

/-- One turn: how far CYC and TIME advance first, and what then happens (R16, R64). -/
structure Turn where
  cycles : Nat
  ns : Nat
  act : Act
  deriving DecidableEq, Repr, Inhabited

namespace Config

/-- FREE VALUE (log entry 2): the turn that the machine takes when State names none. -/
opaque freeTurn : Nat → Turn

/-- FREE VALUE (log entry 13): the bits of a value that the manual calls undefined (R4, R61, R223, R241). -/
opaque freeBits : Nat → Nat

/-- FREE VALUE (log entry 14): a choice between outcomes of which the manual promises neither (R384). -/
opaque freeBool : Nat → Bool

/-- FREE VALUE (log entry 86): the set of a physical line of Neve, and the set of a line in the second-level cache (R283, R295). -/
opaque neveSet : Nat → Nat
opaque cacheSet : Nat → Nat

/-- FREE VALUE (log entry 15): the signature that the management controller makes with a key and a leaf (R433, R434). -/
opaque lmsSign : Nat → Nat → List Byte → List Byte

/-- FREE VALUE (log entry 11): the image in flash at manufacture, and its version, SVN and hash (R426, R431). -/
opaque factoryImage : List Byte
opaque factoryVersion : Nat
opaque factorySvn : Nat
opaque factoryHash : List Byte

/-- FREE VALUE (log entry 16): the ATS translation of a host address page under a PASID, none where it fails (R145). -/
opaque atsTranslate : Nat → Nat → Nat → Option Nat

/-- FREE VALUE (log entry 15): the root key of Klohatex that the I/O die fuses by its hash (R431). -/
opaque rootKey : List Byte

/-- FREE VALUE (log entry 15): the module's serial number (R433). -/
opaque moduleSerial : List Byte

/-- FREE VALUE (log entry 85): the PKG that the cabling joins to the ring-east port (R369). -/
opaque ringEast : Nat

/-- FREE VALUE (log entry 88): of the dimensions in which two packages differ and its two directions, those in which a request sets out
(R390). -/
opaque route : Nat → Nat → Nat

/-- Bytes of populated HBM4E per stack (R10). -/
def stackBytes : Nat := 64 * 2 ^ 30
/-- Bytes of LPDDR 6 (R10). -/
def lpddrBytes : Nat := 2 ^ 40
/-- First device address of LPDDR 6 (R306). -/
def lpddrBase : Nat := 0x10000000000
/-- Microseconds to nanoseconds. -/
def usNs : Nat := 1000

end Config
end Sys2Proof
end

