-- ==== Sys2Proof/Machine/Num.lean ====
section
/-! DEFINITION. Number formats and arithmetic (R21 to R60): formats to the bit, ROUND, flushing, conversions and the exact
values that every rounded step is formed from. -/

namespace Sys2Proof.Machine

/-- The element formats of R21. -/
inductive Fmt where
  | fp32 | bf16 | fp16 | k8 | k8w | int32 | int16 | int8 | uint8 | int4 | ix4 | ix8 | bit1
  deriving DecidableEq, Repr, Inhabited

/-- The format of a 4-bit code; 0xD to 0xF are reserved (R21). -/
def Fmt.ofCode (n : Nat) : Option Fmt :=
  match n with
  | 0 => some .fp32 | 1 => some .bf16 | 2 => some .fp16 | 3 => some .k8 | 4 => some .k8w | 5 => some .int32
  | 6 => some .int16 | 7 => some .int8 | 8 => some .uint8 | 9 => some .int4 | 10 => some .ix4 | 11 => some .ix8
  | 12 => some .bit1 | _ => none

/-- Element width in bits (R21). -/
def Fmt.width : Fmt → Nat
  | .fp32 | .int32 => 32
  | .bf16 | .fp16 | .int16 => 16
  | .k8 | .k8w | .int8 | .uint8 | .ix8 => 8
  | .int4 | .ix4 => 4
  | .bit1 => 1

/-- Elements of a 128-byte row (R21). -/
def Fmt.lanes (f : Fmt) : Nat := 1024 / f.width

def Fmt.isFloat : Fmt → Bool
  | .fp32 | .bf16 | .fp16 | .k8 | .k8w => true
  | _ => false
def Fmt.isNarrowFloat : Fmt → Bool
  | .bf16 | .fp16 | .k8 | .k8w => true
  | _ => false
def Fmt.isInt : Fmt → Bool
  | .int32 | .int16 | .int8 | .uint8 | .int4 => true
  | _ => false
def Fmt.isIndex : Fmt → Bool
  | .ix4 | .ix8 => true
  | _ => false
def Fmt.isK : Fmt → Bool
  | .k8 | .k8w => true
  | _ => false

/-- Signed integer formats (R26). -/
def Fmt.isSigned : Fmt → Bool
  | .int32 | .int16 | .int8 | .int4 => true
  | _ => false

/-- The fields of a floating-point format (R22). -/
structure FSpec where
  ebits : Nat
  fbits : Nat
  bias : Int
  inf : Bool
  deriving DecidableEq, Repr

def Fmt.spec : Fmt → FSpec
  | .bf16 => ⟨8, 7, 127, true⟩
  | .fp16 => ⟨5, 10, 15, true⟩
  | .k8 => ⟨4, 3, 8, false⟩
  | .k8w => ⟨5, 2, 16, false⟩
  | _ => ⟨8, 23, 127, true⟩

/-- The exponent of the largest finite value (R22). -/
def FSpec.maxExp (s : FSpec) : Int := if s.inf then s.bias else 2 ^ s.ebits - 1 - s.bias
/-- The exponent of the smallest normal value (R22). -/
def FSpec.minExp (s : FSpec) : Int := 1 - s.bias

/-- A floating-point value: a finite value is (-1)^neg * m * 2^e. -/
inductive FVal where
  | nan
  | inf (neg : Bool)
  | fin (neg : Bool) (m : Nat) (e : Int)
  deriving DecidableEq, Repr, Inhabited

/-- The sticky flags of R31, in their places in FLAGS. -/
abbrev Fl := W32
def flNF : Fl := 0x20#32
def flNX : Fl := 0x10#32
def flUF : Fl := 0x08#32
def flOF : Fl := 0x04#32
def flDZ : Fl := 0x02#32
def flNV : Fl := 0x01#32
def flIf (c : Bool) (f : Fl) : Fl := if c then f else 0

/-- The rounding modes of R29. -/
inductive Rm where
  | rne | rtz | rup | rdn | rna
  deriving DecidableEq, Repr, Inhabited

/-- Codes 5 and 6 are reserved and 7 is no mode of FCSR (R29). -/
def Rm.ofCode (n : Nat) : Option Rm :=
  match n with
  | 0 => some .rne | 1 => some .rtz | 2 => some .rup | 3 => some .rdn | 4 => some .rna | _ => none

/-- What an operation reads of FCSR besides the mode (R28). -/
structure NumEnv where
  ftzn : Bool
  ftz32 : Bool
  deriving DecidableEq, Repr, Inhabited

/-- The value of an encoding (R23). -/
def FVal.ofBits (f : Fmt) (b : Nat) : FVal :=
  let s := f.spec
  let neg := b / 2 ^ (s.ebits + s.fbits) % 2 == 1
  let e := b / 2 ^ s.fbits % 2 ^ s.ebits
  let fr := b % 2 ^ s.fbits
  if f.isK && e == 0 && fr == 0 then (if neg then .nan else .fin false 0 0)
  else if e == 0 then .fin neg fr (s.minExp - s.fbits)
  else if s.inf && e == 2 ^ s.ebits - 1 then (if fr == 0 then .inf neg else .nan)
  else .fin neg (2 ^ s.fbits + fr) ((e : Int) - s.bias - s.fbits)

/-- An encoding with exponent field zero and fraction nonzero (R34, R35). -/
def isSubnormalBits (f : Fmt) (b : Nat) : Bool :=
  let s := f.spec
  b / 2 ^ s.fbits % 2 ^ s.ebits == 0 && b % 2 ^ s.fbits != 0

/-- Decoding an operand under FTZ32 and FTZN (R34, R35): a flushed subnormal is a zero of its sign. -/
def decodeFloat (env : NumEnv) (f : Fmt) (b : Nat) : FVal :=
  let s := f.spec
  let flush := if f == .fp32 then env.ftz32 else env.ftzn
  if flush && isSubnormalBits f b then .fin (b / 2 ^ (s.ebits + s.fbits) % 2 == 1) 0 0
  else FVal.ofBits f b

/-- The canonical NaN of a format (R24). -/
def canonNaN : Fmt → Nat
  | .fp32 => 0x7FC00000 | .bf16 => 0x7FC0 | .fp16 => 0x7E00 | _ => 0x80

/-- The largest finite value's bits without a sign (R24). -/
def maxFinite : Fmt → Nat
  | .fp32 => 0x7F7FFFFF | .bf16 => 0x7F7F | .fp16 => 0x7BFF | _ => 0x7F

/-- Infinity's bits without a sign (R24). -/
def infBits : Fmt → Nat
  | .fp32 => 0x7F800000 | .bf16 => 0x7F80 | _ => 0x7C00

def signBit (f : Fmt) (neg : Bool) : Nat := if neg then 2 ^ (f.width - 1) else 0

def FVal.isNaN : FVal → Bool
  | .nan => true | _ => false
def FVal.isInf : FVal → Bool
  | .inf _ => true | _ => false
def FVal.nonFinite : FVal → Bool
  | .fin .. => false | _ => true
def FVal.isZero : FVal → Bool
  | .fin _ 0 _ => true | _ => false
def FVal.neg? : FVal → Bool
  | .nan => false | .inf n => n | .fin n _ _ => n

/-- A numerator and a denominator for m * 2^e / d. -/
def ratOf (m : Nat) (e : Int) (d : Nat) : Nat × Nat := (m * 2 ^ e.toNat, d * 2 ^ (-e).toNat)

/-- floor(log2(num / den)) for nonzero num and den. -/
def floorLog2 (num den : Nat) : Int :=
  let k : Int := (Nat.log2 num : Int) - (Nat.log2 den : Int)
  if den * 2 ^ k.toNat ≤ num * 2 ^ (-k).toNat then k else k - 1

/-- Whether a truncated magnitude n with remainder r / den goes up by one unit (R29). -/
def roundsUp (rm : Rm) (neg : Bool) (n r den : Nat) : Bool :=
  match rm with
  | .rne => decide (den < 2 * r) || (2 * r == den && n % 2 == 1)
  | .rtz => false
  | .rup => r != 0 && !neg
  | .rdn => r != 0 && neg
  | .rna => decide (den ≤ 2 * r)

/-- The bits of a magnitude n * 2^q of a format, with n at most 2^(F + 1) (R22, R23). -/
def packBits (f : Fmt) (neg : Bool) (n : Nat) (q : Int) : Nat :=
  let s := f.spec
  let mag :=
    if n < 2 ^ s.fbits then n
    else if n = 2 ^ (s.fbits + 1) then (q + 1 + s.fbits + s.bias).toNat * 2 ^ s.fbits
    else (q + s.fbits + s.bias).toNat * 2 ^ s.fbits + (n - 2 ^ s.fbits)
  if f.isK && mag == 0 then 0 else mag + signBit f neg

/-- What overflow delivers (R37). -/
def overflowBits (f : Fmt) (rm : Rm) (sat neg : Bool) : Nat × Fl :=
  let mx := maxFinite f + signBit f neg
  let inf := infBits f + signBit f neg
  if sat then (mx, flOF ||| flNX)
  else if f.isK then (0x80, flOF ||| flNX ||| flNF)
  else match rm with
    | .rne | .rna => (inf, flOF ||| flNX ||| flNF)
    | .rtz => (mx, flOF ||| flNX)
    | .rup => if neg then (mx, flOF ||| flNX) else (inf, flOF ||| flNX ||| flNF)
    | .rdn => if neg then (inf, flOF ||| flNX ||| flNF) else (mx, flOF ||| flNX)

/-- ROUND of the finite value num / den of a sign (R33), without the FTZ32 output rule. -/
def roundRat (f : Fmt) (rm : Rm) (sat neg : Bool) (num den : Nat) : Nat × Fl :=
  if num = 0 then (packBits f neg 0 0, 0)
  else
    let s := f.spec
    let q : Int := max (floorLog2 num den - s.fbits) (s.minExp - s.fbits)
    let nu := num * 2 ^ (-q).toNat
    let de := den * 2 ^ q.toNat
    let n := nu / de
    let r := nu % de
    let n' := if roundsUp rm neg n r de then n + 1 else n
    if s.maxExp - s.fbits < q ∨ (q = s.maxExp - s.fbits ∧ 2 ^ (s.fbits + 1) ≤ n') then overflowBits f rm sat neg
    else (packBits f neg n' q, if r = 0 then 0 else flNX ||| flIf (n < 2 ^ s.fbits) flUF)

/-- The FTZ32 output rule: an FP32 result that is subnormal after rounding becomes a zero of its sign (R34). -/
def ftzOut (env : NumEnv) (f : Fmt) (r : Nat × Fl) : Nat × Fl :=
  if f == .fp32 && env.ftz32 && isSubnormalBits f r.1 then (r.1 / 2 ^ 31 * 2 ^ 31, r.2 ||| flUF ||| flNX) else r

/-- ROUND (R33): NaN, infinity, overflow, the subnormal grid, rounding, and for FP32 the output rule of FTZ32. -/
def roundTo (env : NumEnv) (f : Fmt) (rm : Rm) (sat : Bool) (v : FVal) : Nat × Fl :=
  match v with
  | .nan => (canonNaN f, flNF)
  | .inf neg =>
    if f.isK then (if sat then maxFinite f + signBit f neg else 0x80, flNF)
    else (infBits f + signBit f neg, flNF)
  | .fin neg m e => let r := ratOf m e 1; ftzOut env f (roundRat f rm sat neg r.1 r.2)

/-- RNE32 (R33). -/
def rne32 (env : NumEnv) (v : FVal) : W32 × Fl :=
  let r := roundTo env .fp32 .rne false v
  (BitVec.ofNat 32 r.1, r.2)

/-- An FP32 cell read as an operand (R34, R228). -/
def val32 (env : NumEnv) (x : W32) : FVal := decodeFloat env .fp32 x.toNat

def FVal.negate : FVal → FVal
  | .nan => .nan | .inf n => .inf (!n) | .fin n m e => .fin (!n) m e
def FVal.abs : FVal → FVal
  | .nan => .nan | .inf _ => .inf false | .fin _ m e => .fin false m e

/-- The signed integer m * 2^(e - base). -/
def scaledInt (neg : Bool) (m : Nat) (e base : Int) : Int :=
  let a : Int := (m * 2 ^ (e - base).toNat : Nat)
  if neg then -a else a

/-- The exact sum; an exact zero of opposite signs is +0, or -0 under RDN (R33, R43). -/
def exactAdd (rm : Rm) (x y : FVal) : FVal × Fl :=
  match x, y with
  | .nan, _ => (.nan, flNF)
  | _, .nan => (.nan, flNF)
  | .inf a, .inf b => if a == b then (.inf a, flNF) else (.nan, flNF ||| flNV)
  | .inf a, .fin .. => (.inf a, flNF)
  | .fin .., .inf b => (.inf b, flNF)
  | .fin n1 m1 e1, .fin n2 m2 e2 =>
    let b := min e1 e2
    let t := scaledInt n1 m1 e1 b + scaledInt n2 m2 e2 b
    if t = 0 then (.fin (if n1 == n2 then n1 else rm == .rdn) 0 0, 0)
    else (.fin (t < 0) t.natAbs b, 0)

def exactSub (rm : Rm) (x y : FVal) : FVal × Fl := exactAdd rm x y.negate

/-- The exact product (R43). -/
def exactMul (x y : FVal) : FVal × Fl :=
  match x, y with
  | .nan, _ => (.nan, flNF)
  | _, .nan => (.nan, flNF)
  | .inf a, .inf b => (.inf (a != b), flNF)
  | .inf a, .fin b m _ => if m = 0 then (.nan, flNF ||| flNV) else (.inf (a != b), flNF)
  | .fin a m _, .inf b => if m = 0 then (.nan, flNF ||| flNV) else (.inf (a != b), flNF)
  | .fin a m e, .fin b m' e' => (.fin (a != b) (m * m') (e + e'), 0)

/-- RNE32(x + y) (R45, R52). -/
def add32 (env : NumEnv) (x y : FVal) : W32 × Fl :=
  let v := exactAdd .rne x y
  let r := rne32 env v.1
  (r.1, r.2 ||| v.2)
def sub32 (env : NumEnv) (x y : FVal) : W32 × Fl := add32 env x y.negate
/-- RNE32(x * y). -/
def mul32 (env : NumEnv) (x y : FVal) : W32 × Fl :=
  let v := exactMul x y
  let r := rne32 env v.1
  (r.1, r.2 ||| v.2)
/-- RNE32(c + a * b), the product exact (R43, R45). -/
def fma32 (env : NumEnv) (c a b : FVal) : W32 × Fl :=
  let p := exactMul a b
  let r := add32 env c p.1
  (r.1, r.2 ||| p.2)
/-- RNE32(x / d) for a positive integer d (R244). -/
def divNat32 (env : NumEnv) (x : FVal) (d : Nat) : W32 × Fl :=
  match x with
  | .nan => (BitVec.ofNat 32 (canonNaN .fp32), flNF)
  | .inf n => (BitVec.ofNat 32 (infBits .fp32 + signBit .fp32 n), flNF)
  | .fin n m e =>
    let q := ratOf m e d
    let r := ftzOut env .fp32 (roundRat .fp32 .rne false n q.1 q.2)
    (BitVec.ofNat 32 r.1, r.2)

/-- Numeric comparison of values that are no NaN: negative, zero or positive as x < y, x = y, x > y; -0 equals +0 (R44). -/
def cmpNum (x y : FVal) : Ordering :=
  match x, y with
  | .fin n1 m1 e1, .fin n2 m2 e2 =>
    let b := min e1 e2
    compare (scaledInt n1 m1 e1 b) (scaledInt n2 m2 e2 b)
  | .inf a, .inf b => if a == b then .eq else if a then .lt else .gt
  | .inf a, _ => if a then .lt else .gt
  | _, .inf b => if b then .gt else .lt
  | _, _ => .eq

/-- The order of R44: NaN above every number, all NaNs equal. -/
def cmpR44 (x y : FVal) : Ordering :=
  match x.isNaN, y.isNaN with
  | true, true => .eq
  | true, false => .gt
  | false, true => .lt
  | false, false => cmpNum x y

/-- The integer of an integer, index or bit format (R26). -/
def intOfBits (f : Fmt) (b : Nat) : Int :=
  let w := f.width
  let u := b % 2 ^ w
  if f.isSigned && 2 ^ (w - 1) ≤ u then (u : Int) - 2 ^ w else u

def bitsOfInt (w : Nat) (i : Int) : Nat := (i % (2 ^ w : Int)).toNat

/-- The range of an integer or index format (R26). -/
def Fmt.minInt (f : Fmt) : Int := if f.isSigned then -(2 ^ (f.width - 1)) else 0
def Fmt.maxInt (f : Fmt) : Int := if f.isSigned then 2 ^ (f.width - 1) - 1 else 2 ^ f.width - 1

/-- The value of an integer as an exact floating-point value (R41). -/
def FVal.ofInt (i : Int) : FVal := .fin (i < 0) i.natAbs 0

/-- SAT32 (R47). -/
def sat32 (i : Int) : W32 × Fl :=
  if i < -(2 ^ 31) then (0x80000000#32, flOF)
  else if 2 ^ 31 - 1 < i then (0x7FFFFFFF#32, flOF)
  else (BitVec.ofInt 32 i, 0)

/-- A finite value rounded to an integer, with whether it was inexact (R40). -/
def roundToInt (rm : Rm) (neg : Bool) (m : Nat) (e : Int) : Int × Bool :=
  let q := ratOf m e 1
  let n := q.1 / q.2
  let r := q.1 % q.2
  let n' := if roundsUp rm neg n r q.2 then n + 1 else n
  (if neg then -(n' : Int) else n', r != 0)

/-- Float-to-integer rule (R40). -/
def floatToInt (f : Fmt) (rm : Rm) (v : FVal) : Nat × Fl :=
  match v with
  | .nan => (0, flNV ||| flNF)
  | .inf n => (bitsOfInt f.width (if n then f.minInt else f.maxInt), flNV ||| flNF)
  | .fin n m e =>
    let k := roundToInt rm n m e
    let nx := flIf k.2 flNX
    if k.1 < f.minInt then (bitsOfInt f.width f.minInt, nx ||| flNV)
    else if f.maxInt < k.1 then (bitsOfInt f.width f.maxInt, nx ||| flNV)
    else (bitsOfInt f.width k.1, nx)

/-- Integer rule (R42). -/
def intToInt (dst : Fmt) (sat : Bool) (i : Int) : Nat × Fl :=
  if dst.minInt ≤ i ∧ i ≤ dst.maxInt then (bitsOfInt dst.width i, 0)
  else if sat then (bitsOfInt dst.width (if i < dst.minInt then dst.minInt else dst.maxInt), flOF)
  else (bitsOfInt dst.width i, 0)

/-- The pairs that R38 allows. -/
def convOk (src dst : Fmt) : Bool :=
  if src == dst then true
  else if src == .bit1 || dst == .bit1 then false
  else if src.isFloat then dst.isFloat || dst.isInt
  else if src.isInt then true
  else dst.isInt || dst.isIndex

/-- Conversion of a value that has been decoded to FP32 or is exact, to a floating-point format by R39. -/
def convFloat (env : NumEnv) (dst : Fmt) (rm : Rm) (sat : Bool) (v : FVal) : Nat × Fl := roundTo env dst rm sat v

/-- Conversion between formats (R38 to R42): equal formats copy bits. -/
def convert (env : NumEnv) (src dst : Fmt) (rm : Rm) (sat : Bool) (b : Nat) : Nat × Fl :=
  if src == dst then (b % 2 ^ src.width, 0)
  else if src.isFloat then
    let v := decodeFloat env src b
    if dst.isFloat then convFloat env dst rm sat v else floatToInt dst rm v
  else if dst.isFloat then roundTo env dst rm sat (FVal.ofInt (intOfBits src b))
  else intToInt dst sat (intOfBits src b)

/-- Whether a pair of formats makes a word round (R91, R325). -/
def roundsPair (a b : Fmt) : Bool := a.isFloat || b.isFloat

/-- Any element read as an exact value: floats decoded under R34 and R35, integers exactly. -/
def decodeAny (env : NumEnv) (f : Fmt) (b : Nat) : FVal :=
  if f.isFloat then decodeFloat env f b else FVal.ofInt (intOfBits f b)

end Sys2Proof.Machine
end

