-- ==== Sys2Proof/Machine/Sparse.lean ====
section
/-! DEFINITION. Sparse data by key: a list of key and value pairs in one canonical form (keys strictly rising, no value
equal to what an unlisted key reads as). Memory, tiles, tables and directories are held so. -/

namespace Sys2Proof.Machine

/-- The value at a key; `d` where the key is not listed. -/
def sget {α : Type} (d : α) : List (Nat × α) → Nat → α
  | [], _ => d
  | (k, v) :: t, a => if a = k then v else sget d t a

/-- Puts a pair in its place by key. -/
def sinsert {α : Type} (a : Nat) (v : α) : List (Nat × α) → List (Nat × α)
  | [] => [(a, v)]
  | (k, w) :: t => if a < k then (a, v) :: (k, w) :: t else (k, w) :: sinsert a v t

/-- The list without a key. -/
def serase {α : Type} (a : Nat) (l : List (Nat × α)) : List (Nat × α) := l.filter (fun p => p.1 != a)

/-- Writes a value at a key, keeping the canonical form: writing `d` removes the entry. -/
def sset {α : Type} [DecidableEq α] (d : α) (l : List (Nat × α)) (a : Nat) (v : α) : List (Nat × α) :=
  if v = d then serase a l else sinsert a v (serase a l)

/-- The list without the keys from `lo` up to `hi - 1`: those keys then read as the unlisted value. -/
def sclear {α : Type} (lo hi : Nat) (l : List (Nat × α)) : List (Nat × α) :=
  l.filter (fun p => p.1 < lo || hi ≤ p.1)

/-- Keys strictly rising. -/
def ssorted {α : Type} : List (Nat × α) → Bool
  | [] => true
  | (k, _) :: t => t.all (fun p => k < p.1) && ssorted t

/-- The canonical form. -/
def swf {α : Type} [DecidableEq α] (d : α) (l : List (Nat × α)) : Bool :=
  ssorted l && l.all (fun p => p.2 != d)

/-- Writes a run of values from a key upward. -/
def ssetRun {α : Type} [DecidableEq α] (d : α) (l : List (Nat × α)) (a : Nat) : List α → List (Nat × α)
  | [] => l
  | v :: vs => ssetRun d (sset d l a v) (a + 1) vs

/-- Reads a run of `n` values from a key upward. -/
def sgetRun {α : Type} (d : α) (l : List (Nat × α)) (a : Nat) : Nat → List α
  | 0 => []
  | n + 1 => sget d l a :: sgetRun d l (a + 1) n

/-- A finite set of keys held as a rising list. -/
def kmem (l : List Nat) (a : Nat) : Bool := l.contains a
def kadd (a : Nat) : List Nat → List Nat
  | [] => [a]
  | k :: t => if a < k then a :: k :: t else if a = k then k :: t else k :: kadd a t
def kdel (a : Nat) (l : List Nat) : List Nat := l.filter (fun k => k != a)
def kdelRange (lo hi : Nat) (l : List Nat) : List Nat := l.filter (fun k => k < lo || hi ≤ k)

/-- Changes the first element that satisfies `p`. -/
def updFirst {α : Type} (p : α → Bool) (f : α → α) : List α → List α
  | [] => []
  | x :: t => if p x then f x :: t else x :: updFirst p f t

/-- The element at a position, or a default. -/
def nth {α : Type} (d : α) (l : List α) (i : Nat) : α := (l[i]?).getD d

end Sys2Proof.Machine
end

