-- ==== Sys2Proof/Machine/CoreState.lean ====
section
/-! DEFINITION. The state of one core: contexts, engines, shared registers, tiles, windows, the caches of the control core,
and what the sequencer keeps (R14, R61 to R70, R187, R190, R209 to R217, R290, R318). -/

namespace Sys2Proof.Machine

/-- The fault codes of R379. -/
inductive FCode where
  | illegalOpcode | illegalOperand | illegalOverlap | tokenOverflow | tokenResidue | align
  | lease | perm | grade | heapLimit | uncorrectable | remoteStale | remoteLost | phase
  | decodeLength | decodeCycles | decodeFormat | iterLong | gangAbort | trap | stashGone | wver | channel
  deriving DecidableEq, Repr, Inhabited

/-- The 8-bit code (R379). -/
def FCode.toNat : FCode → Nat
  | .illegalOpcode => 0x01 | .illegalOperand => 0x02 | .illegalOverlap => 0x03 | .tokenOverflow => 0x04
  | .tokenResidue => 0x05 | .align => 0x06 | .lease => 0x10 | .perm => 0x11 | .grade => 0x12 | .heapLimit => 0x13
  | .uncorrectable => 0x18 | .remoteStale => 0x1A | .remoteLost => 0x1B | .phase => 0x1C
  | .decodeLength => 0x20 | .decodeCycles => 0x21 | .decodeFormat => 0x22 | .iterLong => 0x30 | .gangAbort => 0x31
  | .trap => 0x32 | .stashGone => 0x38 | .wver => 0x39 | .channel => 0x3A

/-- A fault as an access or a word raises it: code, ADDR and INFO (R381). -/
structure Trap where
  code : FCode
  addr : W64
  info : W64
  deriving DecidableEq, Repr, Inhabited

def Trap.plain (c : FCode) : Trap := ⟨c, 0, 0⟩
def Trap.at (c : FCode) (a : W64) : Trap := ⟨c, a, 0⟩

/-- A fault held by a core until teardown writes its record (R380, R383): who raised it, where and when. -/
structure FaultInfo where
  trap : Trap
  /-- AGENT of R380: 0 LD, 1 CP, 2 ST, 3 A, 4 V, 5 C, 6 Firn, 7 sequencer, 8 command processor -/
  agent : Nat
  loc : W64
  cyc : Nat
  time : Nat
  flags : W32
  iter : W32
  stamp : Nat
  deriving DecidableEq, Repr, Inhabited

/-- What a context or an engine is doing within its part (R187). -/
inductive Run where
  | idle | running | ended
  deriving DecidableEq, Repr, Inhabited

/-- What a request to another package came back with: bytes, poisoned data (R301), or a loss (R389). -/
inductive Answer where
  | bytes (l : List Byte)
  | poisoned
  | lost (t : Trap)
  deriving DecidableEq, Repr, Inhabited

/-- A context's access to a remote page that is under way (R147, R190): the request's number and the answer once it is there. -/
structure RemoteWait where
  id : Nat
  data : Option Answer
  deriving DecidableEq, Repr, Inhabited

/-- What a context waits on at its word, once it has come there. -/
inductive CtxWait where
  /-- LDFE.w on the granule of a scratchpad offset: its address and destination (R200) -/
  | load (q : Fin 32) (off : Nat) (ea : W64) (rd : Fin 32)
  /-- LDFE.e or STFE.we on a granule (R200) -/
  | pad (q : Fin 32) (off : Nat)
  /-- TWAIT for tokens of the engines named (R214) -/
  | tokens (m : EngSet)
  /-- RACQ on a side of a ring (R210) -/
  | ring (n : Fin 4) (consumer : Bool)
  deriving DecidableEq, Repr, Inhabited

/-- One of the three contexts (R62). -/
structure Ctx where
  x : Vector W64 32
  p : Vector Bool 8
  pc : W64
  run : Run
  /-- arrival count A of this context at core scope (R216) -/
  arrive : W32
  /-- an arrival of BAR.aw has been made and the wait is under way (R216) -/
  arrived : Bool
  /-- what the context has found its word waiting on (R200, R210, R214) -/
  waits : Option CtxWait
  /-- a word fetched ahead, with its address (R185, R186) -/
  ahead : Option (W64 × W32)
  /-- the load of the present word from a remote page -/
  remote : Option RemoteWait
  /-- the fetch of the word at an address from a remote page -/
  fetch : Option (W64 × RemoteWait)
  deriving DecidableEq, Repr

def Ctx.reset : Ctx :=
  ⟨Vector.replicate 32 0, (Vector.replicate 8 false).set 0 true, 0, .idle, 0, false, none, none, none, none⟩

/-- A section header (R100). -/
structure Header where
  secnum : Nat
  nwords : Nat
  repimm : Nat
  repsrc : Bool
  repe : Fin 32
  steps : Nat
  rowstep : Nat
  deriving DecidableEq, Repr, Inhabited

/-- A section as an engine fetched it whole (R101): its header and words, or why it cannot execute and where. -/
structure Fetched where
  addr : W64
  hdr : Header
  words : List (BitVec 96)
  /-- a fault of the fetch, raised when the engine comes to execute the section: SECNUM and WORD of R103, and the fault -/
  bad : Option (Nat × Nat × Trap)
  deriving DecidableEq, Repr, Inhabited

/-- A section under execution (R102). -/
structure Exec where
  sec : Fetched
  reps : Nat
  r : Nat
  w : Nat
  deriving DecidableEq, Repr, Inhabited

/-- A stream that CDEC decodes (R333): what is left of it, where the output stands, and where the status goes. -/
structure DecState where
  src : W64
  left : Nat
  dst : W64
  cap : Nat
  chunk : Nat
  written : Nat
  factor : Nat
  ec : Fin 32
  fov : Bool
  deriving DecidableEq, Repr, Inhabited

/-- What becomes of bytes that are read whole and written to memory (R327, R334, R335). -/
inductive Xfer where
  /-- CCPY and `.cvt`: `n` elements converted with the mode, SAT and environment taken at issue -/
  | convert (dst : W64) (n : Nat) (fs fd : Fmt) (rm : Rm) (sat : Bool) (env : NumEnv) (ccpy : Bool)
  | trans (dst : W64) (w rows cols : Nat)
  | spars (dst : W64) (f : Fmt) (rows k n : Nat) (env : NumEnv)
  | encode (dst : W64) (cap : Nat) (ec : Fin 32)
  deriving DecidableEq, Repr, Inhabited

/-- Where bytes that a copy request reads go (R326 to R335, R291). -/
inductive Place where
  /-- tile `t`, row `row`: `n` elements of `src` converted to `dst` with the mode and SAT taken at issue -/
  | row (t row n : Nat) (src dst : Fmt) (rm : Rm) (sat : Bool) (env : NumEnv)
  /-- the slot of tensor row `t` of window `w` at a scratchpad offset of the core's quad, granule by granule: those that have
  landed, and whether the slot is written as zeros (R291, R301) -/
  | window (w t off : Nat) (landed : List Nat) (zeroed : Bool)
  | xfer (x : Xfer)
  /-- the header, then the payload, of a chunk -/
  | head (d : DecState)
  | body (d : DecState) (header : List Byte)
  deriving DecidableEq, Repr, Inhabited

/-- A Drift descriptor (R373). -/
structure DriftDesc where
  sbuf : Nat
  rbuf : Nat
  obuf : Nat
  nrec : Nat
  rcap : Nat
  ocap : Nat
  rsize : Nat
  xoff : Nat
  yoff : Nat
  zoff : Nat
  woff : Nat
  koff : Nat
  kout : Bool
  wgt : Bool
  group : Nat
  bb : Nat
  order : Nat
  kmode : Nat
  d3 : Bool
  cfmt : Nat
  res : Nat
  deriving DecidableEq, Repr, Inhabited

/-- What one request of a copy word does (R318, R320, R324). -/
inductive ReqKind where
  | read (ea : W64) (len : Nat) (zp : Bool) (pl : Place)
  /-- a read whose value is fixed and still to be delivered (R330, R347): its bytes, the runs of them that are poisoned, and the first
  poisoned sector -/
  | fixed (ea : W64) (len : Nat) (zp : Bool) (pl : Place) (bytes : List Byte) (bad : List (Nat × Nat)) (sec : Option Nat)
  /-- `bad`: the runs of the data that poisoned data feeds -/
  | write (ea : W64) (data : List Byte) (bad : List (Nat × Nat))
  /-- a status register is written once the requests before are done -/
  | setE (e : Fin 32) (v : W64)
  /-- a fault once the requests before are done -/
  | fail (t : Trap)
  /-- metadata of `n` sectors into tile `t` from row `row`, whose last row and column are given -/
  | metaRead (ea : W64) (n t row rows cols : Nat) (zp : Bool)
  | metaWrite (ea : W64) (vals : List W64)
  | flush (ea : W64) (len : Nat) (inv : Bool)
  /-- Firn slot `slot` into rows of tile `t`, with the status register (R337) -/
  | unstash (slot t row n : Nat) (zp : Bool) (ec : Fin 32)
  /-- a message of a channel end, and one read into rows of tile `t` (R365, R366) -/
  | send (ch tag : Nat) (rows : List (List Byte))
  | recv (ch t row n : Nat) (ack : Bool) (ec : Fin 32)
  /-- a batch: the address of each row, none without a request, with its elements, and where the old values go (R361) -/
  | batch (op : AtomicOp) (rows : List (Option W64 × List W32)) (ret : Option W64)
  /-- a ring collective: operation, formats, count, addresses, group, FTZN at issue (R369, R370) -/
  | ring (op : Nat) (fs fd : Fmt) (n : Nat) (src dst : W64) (group : Nat) (ftzn : Bool)
  /-- Drift by its descriptor, with the status register; then with the descriptor as read (R373) -/
  | drift (desc : W64) (ec : Fin 32)
  | driftRun (d : DriftDesc) (ec : Fin 32)
  /-- word to the members whose records this one has written (R377) -/
  | collTell (id : Nat)
  /-- the end of a collective at this member (R371, R377) -/
  | collEnd (id : Nat)
  deriving DecidableEq, Repr, Inhabited

/-- A request in the address or the data stage (R324, R330): its ordering class; the offset and number of a piece asked of
another package; and the bytes by offset that have come in so far from there or from a FIFO (R287, R353). -/
structure Req where
  cls : Nat
  kind : ReqKind
  asked : Option (Nat × Nat)
  got : List (Nat × List Byte)
  /-- runs of those bytes that came in poisoned -/
  bad : List (Nat × Nat)
  /-- MPHASE as the request was admitted (R315) -/
  stamp : Nat
  deriving DecidableEq, Repr, Inhabited

/-- What a copy word waits on that no request of its own answers (R361 to R377). -/
inductive Wait where
  | none
  /-- a batch of CBAT, by its target and number (R361, R362) -/
  | batch (target id : Nat)
  /-- a message of CSEND on a channel end, by its number (R365) -/
  | message (ch n : Nat)
  /-- a collective, by its number (R369, R373) -/
  | coll (id : Nat)
  deriving DecidableEq, Repr, Inhabited

/-- An issued engine word that is not complete (R224, R247, R318, R320). -/
structure Flight where
  upc : W64
  pt : Fin 8
  /-- ordering class of a copy word's accesses (R324) -/
  cls : Nat
  /-- tiles read and written, e registers written: what R319 holds later words for -/
  rd : List Nat
  wr : List Nat
  we : List Nat
  reqs : List Req
  wait : Wait
  /-- its writes through remote pages that are not performed yet, by number (R320, R347) -/
  out : List Nat
  /-- rows zeroed under `.zp` so far and the first poisoned sector met (R301) -/
  zrows : Nat
  zsector : Option (Nat × Nat)
  /-- FLAGS bits that the word sets when it completes (R320) -/
  flags : W32
  deriving DecidableEq, Repr, Inhabited

/-- One engine (R63, R99 to R103, R211). -/
structure Eng where
  /-- a stream is running, and whether it is the part's own -/
  run : Bool
  part : Bool
  next : W64
  buf : Option Fetched
  cur : Option Exec
  flight : List Flight
  /-- contexts whose FORK waits for the stream before it, in order (R211) -/
  forks : List CtxId
  /-- what came of reading section bytes through remote pages for the section at `next`, by address, and the request under way -/
  got : List (W64 × Answer)
  asked : Option (Nat × W64)
  deriving DecidableEq, Repr

def Eng.reset : Eng := ⟨false, false, 0, none, none, [], [], [], none⟩

/-- The counts of a role ring (R210). -/
structure Ring where
  pacq : W32
  prel : W32
  cacq : W32
  crel : W32
  deriving DecidableEq, Repr

/-- A scratchpad window (R290, R291). -/
structure Window where
  loaded : Bool
  tbase : W64
  pitch : W64
  nrows : Nat
  start : Nat
  log2sz : Nat
  log2n : Nat
  ring : Nat
  rowb : Nat
  head : Nat
  next : Nat
  deriving DecidableEq, Repr

def Window.reset : Window := ⟨false, 0, 0, 0, 0, 0, 0, 0, 0, 0, 0⟩

/-- The termination state of a core (R217). `round`: the token that the core holds has come round. -/
structure Trm where
  busy : Bool
  black : Bool
  token : Bool
  tokenBlack : Bool
  round : Bool
  term : Bool
  deriving DecidableEq, Repr

def Trm.reset : Trm := ⟨true, false, false, false, false, false⟩

/-- A line of the data L1 (R190, R301): where it lives, the virtual line it was reached by, its valid bytes by offset with
their dirty bits, and the offsets of its sectors that came in poisoned. -/
structure DLine where
  pa : Nat
  va : W64
  bytes : List (Nat × (Byte × Bool))
  poison : List Nat
  deriving DecidableEq, Repr

/-- A line of the instruction L1 (R185), with the offsets of its sectors that came in poisoned (R301). -/
structure ILine where
  pa : Nat
  bytes : List Byte
  poison : List Nat
  deriving DecidableEq, Repr

/-- A leaf of the page tables (R141). -/
structure Leaf where
  ma : Nat
  rmt : Bool
  host : Bool
  cmp : Bool
  grade : Nat
  x : Bool
  w : Bool
  r : Bool
  deriving DecidableEq, Repr, Inhabited

/-- A TLB entry, tagged by PASID and page size (R143). -/
structure TlbEntry where
  pasid : Nat
  base : Nat
  log2 : Nat
  leaf : Leaf
  deriving DecidableEq, Repr, Inhabited

/-- A range of the range checker (R133, R137). -/
structure LeaseRange where
  base : Nat
  len : Nat
  rw : Bool
  deriving DecidableEq, Repr, Inhabited

/-- The special registers that dispatch and resume set (R64). -/
structure Disp where
  tag : BitVec 16
  phase : BitVec 2
  wver : BitVec 4
  stage : BitVec 16
  gang : BitVec 16
  grank : BitVec 7
  iter : W32
  trip : W32
  ctxid : W32
  hwb : W64
  hwl : W64
  hwo : W64
  deriving DecidableEq, Repr

def Disp.reset : Disp := ⟨0, 0, 0, 0, 0, 0, 0, 0, 0, 0, 0, 0⟩

/-- What the sequencer of a core is doing (R187, R392). -/
inductive Seq where
  /-- no instance -/
  | free
  /-- all cores of the gang have it, and it is about to start the named part -/
  | ready
  /-- running a part since the given TIME -/
  | running (since : Nat)
  /-- stopped at the chosen boundary, with the TIME from which its watchdog runs (R394) -/
  | stopped (since : Nat)
  /-- every part has ended -/
  | complete
  /-- held by an instance in teardown, save or resume -/
  | held
  deriving DecidableEq, Repr, Inhabited

/-- The parts of a task record (R187). -/
inductive Part where
  | prologue | kernel | epilogue
  deriving DecidableEq, Repr, Inhabited

/-- Lines of each L1 of a core: 64 KiB in lines of 128 bytes (R185, R190). -/
def l1Lines : Nat := 512
/-- Entries of a core's TLB and of a quad's (R143). -/
def coreTlb : Nat := 256
def quadTlb : Nat := 4096

/-- One core (R14, R62, R63). -/
structure Core where
  ld : Ctx
  cp : Ctx
  st : Ctx
  a : Eng
  v : Eng
  c : Eng
  e : Vector W64 32
  tshape : Vector W32 48
  /-- tile bytes: tile * 16384 + row * 128 + byte; unlisted 0 -/
  tiles : List (Nat × Byte)
  /-- accumulator cells: acc * 4096 + row * 64 + column; unlisted +0 -/
  acc : List (Nat × W32)
  m : Vector W128 8
  /-- table store bytes; unlisted 0 -/
  table : List (Nat × Byte)
  counts : Vector W32 64
  /-- token counters: from * 4 + to, with K 0, A 1, V 2, C 3 -/
  tok : Vector (BitVec 4) 16
  fcsr : W32
  flags : W32
  disp : Disp
  rings : Vector Ring 4
  /-- arrival counts A at quad, die, package, pod, and completed counts P at core to pod (R216) -/
  barA : Vector W32 4
  barP : Vector W32 5
  windows : Vector Window 8
  trm : Trm
  /-- the two L1s, at most l1Lines lines each, and the TLB, at most coreTlb entries (R143, R185, R190) -/
  dl1 : List DLine
  il1 : List ILine
  tlb : List TlbEntry
  /-- PASID, lease ranges and right to write QBMODE of the instance, and its number in the command processor -/
  pasid : Nat
  ranges : List LeaseRange
  qbGrant : Bool
  inst : Option Nat
  part : Part
  seq : Seq
  fault : Option FaultInfo
  deriving DecidableEq, Repr

def Core.reset : Core where
  ld := .reset
  cp := .reset
  st := .reset
  a := .reset
  v := .reset
  c := .reset
  e := Vector.replicate 32 0
  tshape := Vector.replicate 48 0
  tiles := []
  acc := []
  m := Vector.replicate 8 (BitVec.allOnes 128)
  table := []
  counts := Vector.replicate 64 0
  tok := Vector.replicate 16 0
  fcsr := 0
  flags := 0
  disp := .reset
  rings := Vector.replicate 4 ⟨0, 0, 0, 0⟩
  barA := Vector.replicate 4 0
  barP := Vector.replicate 5 0
  windows := Vector.replicate 8 .reset
  trm := .reset
  dl1 := []
  il1 := []
  tlb := []
  pasid := 0
  ranges := []
  qbGrant := false
  inst := none
  part := .prologue
  seq := .free
  fault := none

/-- A line of a quad's second-level cache (R283, R288): its device line, the address and PASID of the access that allocated it, its
place, and whether it is its set's next victim. -/
structure L2Line where
  line : Nat
  va : Nat
  pasid : Nat
  bank : Nat
  set : Nat
  way : Nat
  next : Bool
  deriving DecidableEq, Repr, Inhabited

/-- The state of one quad: bank modes, full bits, FIFOs, switches, retention registers (R283 to R289). -/
structure Quad where
  /-- QBMODE: two bits per bank -/
  mode : W64
  /-- granules whose full bit is 1, by offset / 16, rising -/
  full : List Nat
  /-- FIFO contents by bank, oldest first; unlisted empty -/
  fifo : List (Nat × List W64)
  /-- banks whose switch is under way, with the mode they take (R285) -/
  switching : List (Nat × Nat)
  pinb : Vector W64 4
  pinl : Vector W64 4
  /-- PASID under which each retention register was set (R339) -/
  pinPasid : Vector Nat 4
  lastPasid : Option Nat
  /-- the TLB that the cores of the quad share, at most quadTlb entries (R143) -/
  tlb : List TlbEntry
  /-- the lines of its second-level cache -/
  l2 : List L2Line
  deriving DecidableEq, Repr

def Quad.reset : Quad :=
  ⟨0, [], [], [], Vector.replicate 4 0, Vector.replicate 4 0, Vector.replicate 4 0, none, [], []⟩

end Sys2Proof.Machine
end

