-- ==== Sys2Proof/Machine/CmdState.lean ====
section
/-! DEFINITION. The state of the command processor: queues, nodes, leases, notices, instances, and their registers
(R109 to R153, R378 to R397). -/

namespace Sys2Proof.Machine

/-- A completion record's contents before it is written (R120). -/
structure Completion where
  idx : Nat
  kind : Nat
  status : Nat
  userdata : Nat
  ctxid : Nat
  fcode : Nat
  frec : Nat
  tstart : Nat
  tend : Nat
  flags : W32
  irq : Bool
  deriving DecidableEq, Repr, Inhabited

/-- A queue block and what the device keeps of the queue (R112 to R123). -/
structure Queue where
  qbase : W64
  qcb : W64
  cbase : W64
  qcfg : W64
  en : Bool
  ringerr : Bool
  cfgerr : Bool
  kickerr : Bool
  tail : W32
  head : W32
  cpltail : W32
  /-- a TAIL read is outstanding, and a further one is to follow (R115) -/
  reading : Bool
  again : Bool
  /-- completions that wait for space (R122) -/
  waiting : List Completion
  /-- statuses of the records completed since the queue was enabled, by index (R117, R127) -/
  hist : List (Nat × Nat)
  /-- TIME of the last read of CPLHEAD (R122) -/
  cplRead : Nat
  deriving DecidableEq, Repr, Inhabited

def Queue.reset : Queue := ⟨0, 0, 0, 0, false, false, false, false, 0, 0, 0, false, false, [], [], 0⟩

/-- A task record as the command processor read it (R130 to R132). -/
structure TaskRec where
  /-- the eighteen addresses: LD, CP, ST, A, V, C by prologue, kernel, epilogue -/
  agents : List W64
  trip : W32
  tripmem : Bool
  qbgrant : Bool
  fallback : Bool
  level : Nat
  count : Nat
  live : W64
  /-- used save ranges: base and length (R131) -/
  saves : List (Nat × Nat)
  leases : List LeaseRange
  deriving DecidableEq, Repr, Inhabited

/-- A command record's fields (R116, R118). -/
structure Cmd where
  kind : Nat
  cplirq : Bool
  nocpl : Bool
  userdata : Nat
  /-- the 32 bytes of payload as a little-endian number -/
  payload : Nat
  deriving DecidableEq, Repr, Inhabited

/-- How far the translation of a lease has come (R133): the next range and unit, the device pages found, and whether a page
without the rights was met. -/
structure LeaseWalk where
  range : Nat
  unit : Nat
  pages : List Nat
  bad : Option Nat
  deriving DecidableEq, Repr, Inhabited

def LeaseWalk.start : LeaseWalk := ⟨0, 0, [], none⟩

/-- How a node ended (R120, R121). -/
structure Ending where
  status : Nat
  fcode : Nat
  frec : Nat
  flags : W32
  deriving DecidableEq, Repr, Inhabited

/-- What the command processor has under way through remote pages for a node or an instance (R147): what has come in, by virtual
address, with its poison mark; the read under way, by number and virtual address; and the writes not performed yet. -/
structure CpIo where
  got : List (Nat × List Byte × Bool)
  asked : Option (Nat × Nat)
  out : List Nat
  deriving DecidableEq, Repr, Inhabited

def CpIo.reset : CpIo := ⟨[], none, []⟩

/-- Where a node stands (R127, R133, R151). -/
inductive NodePhase where
  /-- its counter is not zero (R127) -/
  | counting
  /-- its counter is zero and its kind's own step is next -/
  | due
  /-- a notice is out for a record, descriptor (`desc`) or lease unit, with the notice's number (R135, R136) -/
  | notice (nid : Nat) (desc : Bool)
  /-- a notice is held back until the notification queue has room (R135) -/
  | noticeHeld (type va len : Nat) (desc : Bool)
  /-- in the lease phase (R133) -/
  | leasing
  /-- leased, and waiting to be placed or run since the given TIME (R151) -/
  | ready (since : Nat)
  /-- dispatched: a task instance, or a collective -/
  | running
  | armed
  /-- WAIT reads its word since the given TIME (R119) -/
  | polling (since : Nat)
  /-- its work is done: NODE_COMPLETE is next -/
  | ended (e : Ending)
  /-- it faulted, and its record waits for room in the fault ring (R382, R383) -/
  | faulted (e : Ending)
  deriving DecidableEq, Repr, Inhabited

/-- A node of the task graph (R126, R127). `preds`: predecessors not yet completed. `orphan`: its completion is not written
(R123). A node that outlives the enabling of its queue anew keeps its index plus a multiple of 2^32. -/
structure Node where
  q : Nat
  idx : Nat
  pasid : Nat
  cmd : Cmd
  preds : List Nat
  phase : NodePhase
  trec : Option TaskRec
  ranges : List LeaseRange
  walk : LeaseWalk
  pins : List Nat
  leased : Bool
  tstart : Nat
  ctxid : Nat
  orphan : Bool
  /-- a collective descriptor as it was read (R372) -/
  desc : Nat
  io : CpIo
  deriving DecidableEq, Repr, Inhabited

/-- What an instance is doing (R20, R384, R392, R396). -/
inductive InstPhase where
  /-- on its cores while its trip count is read from another package (R130, R147) -/
  | reading
  | running
  /-- a pre-emption has been requested, for the boundary after the given iteration (R392) -/
  | stopping (boundary : Nat)
  | suspended (since : Nat)
  /-- placed for its resume, and in its lease phase (R396) -/
  | placed
  | notice (nid : Nat)
  | noticeHeld (type va len : Nat)
  /-- taken down by a fault, its records waiting for room in the fault ring (R382) -/
  | faulted
  deriving DecidableEq, Repr, Inhabited

/-- A task instance (R6, R20). -/
structure Inst where
  ctxid : Nat
  pasid : Nat
  prio : Nat
  /-- the TASK node, or the stage and gang number whose step it is -/
  node : Option (Nat × Nat)
  stage : Option (Nat × Nat)
  tag : Nat
  phase : Nat
  wver : Nat
  var : Nat
  /-- of a step of a spanning stage, how often it has been picked (R177) -/
  run : Nat
  trec : TaskRec
  base : Nat
  ncores : Nat
  trip : Nat
  wdog : Nat
  ranges : List LeaseRange
  walk : LeaseWalk
  pins : List Nat
  leased : Bool
  state : InstPhase
  resumed : Bool
  tstart : Nat
  /-- pool slots by rank (R393), taken at the request -/
  slots : List Nat
  /-- the fault that ended it: code, address of the primary record, FLAGS (R120, R382) -/
  ending : Option Ending
  io : CpIo
  /-- the quad of the core whose fault took the gang down, until its cores are free (R384) -/
  faultQuad : Option (Fin 32)
  deriving DecidableEq, Repr, Inhabited

/-- What waits to be placed (R151, R152, R178). -/
inductive Waiter where
  | node (q idx : Nat)
  | inst (ctxid : Nat)
  | gang (stage g : Nat)
  deriving DecidableEq, Repr, Inhabited

/-- A reservation of a placement (R152). -/
structure Reservation where
  who : Waiter
  prio : Nat
  base : Nat
  ncores : Nat
  deriving DecidableEq, Repr, Inhabited

/-- What a fault record is of (R383): an instance, a stage by its key, or a node. -/
inductive RecordFor where
  | inst (ctxid : Nat)
  | stage (key : Nat)
  | node (q idx : Nat)
  deriving DecidableEq, Repr, Inhabited

/-- A fault record that waits for room in the fault ring (R382), and whether it is the primary record. -/
structure PendingRecord where
  who : RecordFor
  primary : Bool
  bytes : List Byte
  deriving DecidableEq, Repr, Inhabited

/-- A notice of the memory side that is kept or held back (R135, R310). -/
structure Kept where
  type : Nat
  va : Nat
  len : Nat
  deriving DecidableEq, Repr, Inhabited

/-- The command processor (R9, R109, R112, R378). -/
structure CmdProc where
  incarn : Nat
  pasidtb : W64
  pasidsz : W32
  apbase : W64
  nqbase : W64
  nqcfg : W64
  nqtail : W32
  nqhead : W32
  /-- aperture words by entry * 4 + word; unlisted 0 (R146): as written, and as the last read of the entry found them, which govern
  requests (R148) -/
  apt : List (Nat × W64)
  aptLive : List (Nat × W64)
  /-- the binary logarithm of BAR4's size, 30 to 41 (R105) -/
  bar4 : Nat
  queues : List (Nat × Queue)
  nodes : List Node
  insts : List Inst
  nextCtx : Nat
  /-- per priority, the queue served last (R151) -/
  served : Vector Nat 4
  reservations : List Reservation
  kept : List Kept
  /-- MSI-X: dwords 0 to 2 of each entry by entry * 4 + dword, entries not masked, pending bits (R125) -/
  msix : List (Nat × W32)
  unmasked : List Nat
  pba : List Nat
  /-- Enable and Function Mask of the MSI-X capability (R125) -/
  msixOn : Bool
  msixMask : Bool
  frbase : W64
  frcfg : W64
  frtail : W32
  frhead : W32
  frwait : List PendingRecord
  wddef : W32
  ctxbase : W64
  ctxcfg : W64
  slotsUsed : List Nat
  deriving DecidableEq, Repr

/-- The command processor after reset (R109, R112, R378, R435). -/
def CmdProc.reset : CmdProc where
  incarn := 1
  pasidtb := 0
  pasidsz := 0
  apbase := 0
  nqbase := 0
  nqcfg := 0
  nqtail := 0
  nqhead := 0
  apt := []
  aptLive := []
  bar4 := 30
  queues := []
  nodes := []
  insts := []
  nextCtx := 1
  served := Vector.replicate 4 4095
  reservations := []
  kept := []
  msix := []
  unmasked := []
  pba := []
  msixOn := false
  msixMask := false
  frbase := 0
  frcfg := 0
  frtail := 0
  frhead := 0
  frwait := []
  wddef := 2000
  ctxbase := 0
  ctxcfg := 0
  slotsUsed := []

end Sys2Proof.Machine
end

