-- ==== Sys2Proof/Machine/FabricState.lean ====
section
/-! DEFINITION. The state of the fabric: groups, channel ends, batches, remote requests, collectives, and the messages that
leave the package (R353 to R377, R389, R390). -/

namespace Sys2Proof.Machine

/-- STATE of a channel end (R363). -/
inductive EndState where
  | idle | opened | broken
  deriving DecidableEq, Repr, Inhabited

/-- A message at a receiving end (R365 to R367, R391): its number, tag, number of rows, whether the sending step has
retired, whether it was cancelled, read, released. -/
structure Msg where
  n : Nat
  tag : Nat
  rows : Nat
  held : Bool
  cancelled : Bool
  read : Bool
  released : Bool
  deriving DecidableEq, Repr, Inhabited

/-- A message of a sending end (R365, R391): its number, the core and instance that sent it, whether its delivery has been
confirmed, and whether it is held until the step retires. -/
structure Sent where
  n : Nat
  /-- the number by which REMOTE_TIMEOUT and RESET_NAK name the message, and the TIME it was sent (R389) -/
  serial : Nat
  time : Nat
  core : Nat
  ctxid : Nat
  confirmed : Bool
  held : Bool
  deriving DecidableEq, Repr, Inhabited

/-- A channel end (R363). -/
structure ChEnd where
  /-- configuration bits of word 0 and RBASE of word 1 as written -/
  w0 : W64
  w1 : W64
  state : EndState
  sseq : W32
  aseq : W32
  rdseq : W32
  msgs : List Msg
  sent : List Sent
  deriving DecidableEq, Repr, Inhabited

def ChEnd.reset : ChEnd := ⟨0, 0, .idle, 0, 0, 0, [], []⟩

/-- A batch without a reply (R361, R362): its number for its target, the number by which REMOTE_TIMEOUT and RESET_NAK name it, its
rows, and the times of its first and its last sending. -/
structure Batch where
  id : Nat
  serial : Nat
  target : Nat
  inc : Nat
  core : Nat
  upc : W64
  ea : W64
  op : AtomicOp
  rows : List BatchRow
  /-- for each row of the word, how many of `rows` carry it: 0 without a request -/
  parts : List Nat
  cols : Nat
  /-- address of the return image, where RET = 1 -/
  ret : Option W64
  cls : Nat
  first : Nat
  last : Nat
  deriving DecidableEq, Repr, Inhabited

/-- An entry of a replay table (R362). -/
structure Replay where
  src : Nat
  id : Nat
  reply : List (List W32)
  deriving DecidableEq, Repr, Inhabited

/-- Who waits for a remote request (R147, R353). -/
inductive RemoteFor where
  /-- a context's load or store -/
  | context (c : CtxId)
  /-- a context's fetch of its next word -/
  | fetch (c : CtxId)
  /-- a request of a copy word or of ADRAINM -/
  | copy
  /-- an access of a node of the command processor (R147, R372) -/
  | node (q idx : Nat)
  /-- the read of the trip count of an instance (R130, R147) -/
  | inst (ctxid : Nat)
  /-- a section fetch of an engine -/
  | stream (e : Engine)
  deriving DecidableEq, Repr, Inhabited

/-- An outstanding request to another package (R147, R389, R390), with the PASID whose translation it used (R144). -/
structure RemoteReq where
  id : Nat
  core : Nat
  ctxid : Nat
  pasid : Nat
  who : RemoteFor
  loc : W64
  ea : W64
  cls : Nat
  target : Nat
  inc : Nat
  addr : Nat
  len : Nat
  write : Bool
  sent : Nat
  deriving DecidableEq, Repr, Inhabited

/-- A CRING under way (R370): operation, formats, count, destination, and the terms of the members that have come. -/
structure RingRun where
  op : Nat
  fs : Fmt
  fd : Fmt
  n : Nat
  src : W64
  dst : W64
  terms : List RingTerms
  deriving DecidableEq, Repr, Inhabited

/-- What another member of a Drift said last (R375): how many of this member's records it refused, whether it refused any record,
whether it had a record with no destination. -/
structure DriftReply where
  member : Nat
  refused : Nat
  overflow : Bool
  baddest : Bool
  deriving DecidableEq, Repr, Inhabited

/-- A CREPART under way (R375): the descriptor, this member's records with their bins (the destination rank for KMODE 3), the loads
and offers of the members by rank, the records that have come, and the members' replies. -/
structure DriftRun where
  desc : DriftDesc
  recs : List (List Byte)
  bins : List Nat
  loads : List (Nat × List Nat)
  offers : List (Nat × Nat)
  arrived : List DriftRec
  replies : List DriftReply
  /-- this member's results are written, and the members have been told (R377) -/
  told : Bool
  /-- members that have written this one's records -/
  written : List Nat
  deriving DecidableEq, Repr, Inhabited

/-- A collective under way at this member (R358, R369 to R377): its number, its group with this member's rank and the members less
one, the core and status register of its word or its COLL node, and its work. -/
structure Coll where
  id : Nat
  group : Nat
  rank : Nat
  nmem : Nat
  core : Option (Nat × Fin 32)
  node : Option (Nat × Nat)
  pasid : Nat
  ranges : List LeaseRange
  upc : W64
  cls : Nat
  ring : Option RingRun
  drift : Option DriftRun
  /-- the writes of a COLL node have been made -/
  wrote : Bool
  deriving DecidableEq, Repr, Inhabited

/-- What leaves the package: requests, replies, messages, notices of state, interrupts (R125, R145, R147, R176, R357 to
R377, R389). -/
inductive OutMsg where
  | remoteRead (id target inc addr len : Nat)
  /-- with the runs of the data that are poisoned (R301) -/
  | remoteWrite (id target inc addr : Nat) (data : List Byte) (bad : List (Nat × Nat))
  | remoteReply (target : Nat) (data : List Byte) (poisoned : Bool)
  | remoteRefused (target addr : Nat)
  | resetNak (target inc : Nat)
  | announce (inc : Nat)
  | batch (target inc id : Nat) (op : AtomicOp) (rows : List BatchRow)
  /-- fewer old values than rows say that a poisoned sector stopped the batch -/
  | batchReply (target id : Nat) (old : List (List W32))
  /-- with the destination's channel and word 0 of the sending end, by which the ends are compared (R364); `id` and the incarnation
  are those of a request (R389) -/
  | message (id target inc ch srcCh : Nat) (w0 : W64) (n tag : Nat) (rows : List (List Byte)) (held : Bool)
  | confirm (target ch n : Nat)
  | refusal (target ch n : Nat)
  | ack (target ch aseq : Nat)
  | commit (target ch n : Nat)
  | cancel (target ch n : Nat)
  /-- messages to the members of a group: `dest`, its member by rank, with the incarnation known of it (R389) -/
  | podArrival (group dest inc : Nat)
  | ringTerms (group dest inc : Nat) (terms : RingTerms)
  | driftLoads (group dest inc : Nat) (loads : List Nat)
  | driftOffer (group dest inc count : Nat)
  | driftRecords (group dest inc : Nat) (recs : List DriftRec)
  | driftRefused (group dest inc count : Nat) (overflow baddest : Bool)
  | driftWritten (group dest inc : Nat)
  | spanReport (stage dest inc : Nat) (fwd bwd retired faulted free : List Nat)
  | spanPick (stage dest inc gang tag phase wver var start : Nat) (adv : Bool)
  | interrupt (addr data : Nat)
  | atsDone (pasid va len : Nat)
  /-- the value of a register read by the host (R109, R115) -/
  | hostData (v : Nat)
  | bar4Data (data : List Byte) (poisoned : Bool)
  | poisonedHostWrite (addr : Nat)
  | linkDropped
  | management (data : List Byte)
  deriving DecidableEq, Repr, Inhabited

/-- The number by which REMOTE_TIMEOUT and RESET_NAK name what a message carries. -/
def OutMsg.number : OutMsg → Option Nat
  | .remoteRead id .. | .remoteWrite id .. | .message id .. => some id
  | _ => none

/-- The fabric of the package (R353 to R377, R389, R390). -/
structure Fabric where
  /-- group words by entry * 8 + word; unlisted 0 (R357) -/
  groups : List (Nat × W64)
  /-- completed pod phases by group, or by the key of a step of a spanning stage (R359); unlisted 0 -/
  groupP : List (Nat × Nat)
  /-- words 0 and 1 of the entry of each group whose phase after P is under way, as they stood when it began (R358) -/
  groupAt : List (Nat × (W64 × W64))
  /-- members that have arrived at the phase after P: key * 4096 + rank -/
  arrived : List Nat
  /-- cores of this package that have arrived at the phase after P: key * 128 + core -/
  coreArrived : List Nat
  channels : Vector ChEnd 32
  /-- next batch id by target; unlisted 0 -/
  batchId : List (Nat × Nat)
  batches : List Batch
  replay : List Replay
  remote : List RemoteReq
  nextRemote : Nat
  /-- incarnation last announced by each PKG, this package's own among them; unlisted 0 (R389, log entry 72) -/
  incs : List (Nat × Nat)
  portsDown : List Nat
  /-- what waits for a torus port, oldest first: its target, whether it has FALLBACK, and the message (R390) -/
  parked : List (Nat × Bool × OutMsg)
  /-- PKG at the other end of the ring-east port (R369) -/
  ringEast : Nat
  colls : List Coll
  deriving DecidableEq, Repr

def Fabric.reset : Fabric where
  groups := []
  groupP := []
  groupAt := []
  arrived := []
  coreArrived := []
  channels := Vector.replicate 32 .reset
  batchId := []
  batches := []
  replay := []
  remote := []
  nextRemote := 0
  incs := [(0, 1)]
  portsDown := []
  parked := []
  ringEast := Config.ringEast
  colls := []

end Sys2Proof.Machine
end

