-- ==== Sys2Proof/Machine/MemState.lean ====
section
/-! DEFINITION. The state of the memory side: contents, poison, metadata, grades, pins, translations, tiers, Calving, the
event log and their registers (R139 to R145, R293 to R317). -/

namespace Sys2Proof.Machine

/-- An ATC entry: PASID, 64 KiB page of the host address, and the page it translates to (R145). -/
structure AtcEntry where
  pasid : Nat
  page : Nat
  dest : Nat
  deriving DecidableEq, Repr, Inhabited

/-- An event on its way to the memory event log (R303, R304). -/
structure MemEvent where
  type : Nat
  src : Nat
  count : Nat
  ctxid : Nat
  addr : Nat
  info : W64
  time : Nat
  deriving DecidableEq, Repr, Inhabited

/-- A line resident in Neve: the physical line it shares, its sectors, its dirty state and its coding, 0 where it is not compressed
(R293). -/
structure NeveLine where
  stack : Nat
  pline : Nat
  line : Nat
  sectors : Nat
  dirty : Bool
  coding : Nat
  deriving DecidableEq, Repr, Inhabited

/-- The states of a retirement of a stack (R313). -/
inductive CalvState where
  | stable | prepare | move | settle
  deriving DecidableEq, Repr, Inhabited

/-- A slice on the move: its number (bucket * 8 + chunk) and its new home (R313). -/
structure SliceMove where
  slice : Nat
  stack : Nat
  frame : Nat
  deriving DecidableEq, Repr, Inhabited

/-- The memory side (R293 to R317). Bytes are held by flat address: device address a at a, the scratchpad of quad q at
2^52 + q * 2^25, host address h at 2^64 + h. -/
structure MemSide where
  cells : List Host.Cell
  /-- poisoned sectors, by flat address / 64, rising -/
  poison : List Nat
  /-- metadata bits by sector; unlisted 0 -/
  side : List (Nat × Nat)
  /-- region grades by tier * 2^19 + region; unlisted 3, NONE -/
  grades : List (Nat × Nat)
  /-- pin counts by 64 KiB device page; unlisted 0 -/
  pins : List (Nat × Nat)
  atc : List AtcEntry
  atsEpoch : Nat
  tlbinva : W64
  tlbinvl : W64
  tlbinvc : W32
  /-- the invalidation under way: PASID, every address or a range (R144) -/
  tlbRun : Option (Nat × Bool × Nat × Nat)
  /-- row activation counters by row; unlisted 0 -/
  rows : List (Nat × Nat)
  /-- access counters by region: LPDDR region address / 2 MiB, or 2^40 + i for HACTi; unlisted 0 -/
  access : List (Nat × Nat)
  queued : List Nat
  pending : List Nat
  hact : List (Nat × W64)
  neve : List NeveLine
  /-- physical lines of the stacks' Neves in the order of their last use, the latest first (R295) -/
  neveUse : List (Nat × Nat)
  memcap : Nat
  mphase : Nat
  live : BitVec 8
  calv : CalvState
  refuse : Nat
  calvctl : W64
  /-- the stack under retirement (R313) -/
  victim : Nat
  /-- SLICEMAP where it differs from its reset value: slice, stack, frame -/
  slices : List SliceMove
  moves : List SliceMove
  /-- the next line of the first moving slice to copy (R313) -/
  cursor : Nat
  rgcmd : W64
  /-- the region that RGCMD is setting, by its key, and its grade (R297) -/
  rgRun : Option (Nat × Nat)
  tmsrc : W64
  tmdst : W64
  tmlen : W64
  tmcmd : W64
  tocc2 : W64
  thigh : Vector W64 3
  tlow : Vector W64 3
  promth : Vector W64 3
  /-- a tier is above its high watermark and has not fallen to the low one since (R307) -/
  above : Vector Bool 3
  /-- crossings whose notice is to be posted, oldest first: whether of the high watermark, the tier, TOCC at the crossing (R307) -/
  crossed : List (Bool × Nat × Nat)
  overflow : Bool
  mevbase : W64
  mevcfg : W64
  mevtail : W32
  mevhead : W32
  mevlost : W32
  mevq : List MemEvent
  zpcount : Vector W64 4
  cecount : Vector W64 4
  racth : W32
  deriving DecidableEq, Repr

/-- The memory side after reset (R297, R306 to R317, R435). -/
def MemSide.reset : MemSide where
  cells := []
  poison := []
  side := []
  grades := []
  pins := []
  atc := []
  atsEpoch := 0
  tlbinva := 0
  tlbinvl := 0
  tlbinvc := 0
  tlbRun := none
  rows := []
  access := []
  queued := []
  pending := []
  hact := []
  neve := []
  neveUse := []
  memcap := 0x8000000000
  mphase := 0
  live := 0xFF
  calv := .stable
  refuse := 0
  calvctl := 0
  victim := 0
  slices := []
  moves := []
  cursor := 0
  rgcmd := 0
  rgRun := none
  tmsrc := 0
  tmdst := 0
  tmlen := 0
  tmcmd := 0
  tocc2 := 0
  thigh := Vector.replicate 3 (BitVec.allOnes 64)
  tlow := Vector.replicate 3 (BitVec.allOnes 64)
  promth := Vector.replicate 3 0x0100
  above := Vector.replicate 3 false
  crossed := []
  overflow := false
  mevbase := 0
  mevcfg := 0
  mevtail := 0
  mevhead := 0
  mevlost := 0
  mevq := []
  zpcount := Vector.replicate 4 0
  cecount := Vector.replicate 4 0
  racth := 0x0800

end Sys2Proof.Machine
end

