-- ==== Sys2Proof/Machine/MgmtState.lean ====
section
/-! DEFINITION. The state of the management controller (R426 to R435). -/

namespace Sys2Proof.Machine

/-- PSTATE (R426, R429). -/
inductive PState where
  | active | parking | parked
  deriving DecidableEq, Repr, Inhabited

/-- The management controller (R426 to R435). -/
structure Mgmt where
  pwr : Nat
  plim : Nat
  clkmhz : Nat
  throt : BitVec 3
  temp : List Int
  stemp : List Int
  parkReq : Bool
  pstate : PState
  swth : W32
  retired : BitVec 8
  mcerr : W64
  mcerrcnt : W32
  fwver : Nat
  fwsvn : Nat
  fwhash : List Byte
  hostLoaded : Bool
  ownerKey : Option (List Byte)
  fwcmd : Nat
  /-- the command that BUSY is for -/
  fwrun : Nat
  fwbusy : Bool
  fwstatus : Nat
  /-- the status that FWCMD takes when BUSY clears -/
  fwnext : Nat
  fwarg : W64
  fwlen : W64
  /-- the image slot in flash, the fused minimum SVN, the nonce of UNENROL, the leaf counter of the attestation key -/
  slot : List Byte
  minSvn : Nat
  nonce : Option Nat
  leaf : Nat
  hostLoad : Bool
  powered : Bool
  /-- the incarnation counter is exhausted (R435) -/
  exhausted : Bool
  /-- corrected errors in the present hour window of each stack, and whether its notice has been posted (R430) -/
  windowStart : Vector Nat 8
  windowCount : Vector Nat 8
  windowPosted : Vector Bool 8
  /-- the clock was lowered for heat and is not to rise yet (R427) -/
  hot : Bool
  lastTick : Nat
  deriving DecidableEq, Repr

/-- The management controller after the first boot of the factory image (R426, R431, R435). -/
def Mgmt.reset : Mgmt where
  pwr := 0
  plim := 2400
  clkmhz := 4000
  throt := 0
  temp := [0, 0, 0, 0, 0]
  stemp := [0, 0, 0, 0, 0, 0, 0, 0]
  parkReq := false
  pstate := .active
  swth := 1000
  retired := 0
  mcerr := 0
  mcerrcnt := 0
  fwver := Config.factoryVersion
  fwsvn := Config.factorySvn
  fwhash := Config.factoryHash
  hostLoaded := false
  ownerKey := none
  fwcmd := 0
  fwrun := 0
  fwbusy := false
  fwstatus := 0
  fwnext := 0
  fwarg := 0
  fwlen := 0
  slot := Config.factoryImage
  minSvn := Config.factorySvn
  nonce := none
  leaf := 0
  hostLoad := false
  powered := true
  exhausted := false
  windowStart := Vector.replicate 8 0
  windowCount := Vector.replicate 8 0
  windowPosted := Vector.replicate 8 false
  hot := false
  lastTick := 0

end Sys2Proof.Machine
end

