-- ==== Sys2Proof/Machine/StageState.lean ====
section
/-! DEFINITION. The state of stages, their microbatch schedulers, and Firn (R154 to R179). -/

namespace Sys2Proof.Machine

/-- A policy row (R157). -/
structure PolicyRow where
  v : Bool
  ph : Nat
  q : Nat
  adv : Bool
  pref : Nat
  qmin : Nat
  inflmax : Nat
  inflmin : Nat
  lastc : Nat
  lastp : Nat
  emptyq : Nat
  starve : Nat
  deriving DecidableEq, Repr, Inhabited

/-- A schedule variant with the task records it names (R156). -/
structure Variant where
  foot : Nat
  recs : List TaskRec
  rows : List PolicyRow
  deriving DecidableEq, Repr, Inhabited

/-- An entry of an arrival queue (R159): its tag, arrival time, taken mark, and its message on the channel. -/
structure Entry where
  tag : Nat
  time : Nat
  taken : Bool
  msg : Option Nat
  deriving DecidableEq, Repr, Inhabited

/-- What the scheduler keeps of a tag (R160, R163). -/
structure TagState where
  tag : Nat
  fRetired : Bool
  inflight : Bool
  var : Nat
  ver : Nat
  deriving DecidableEq, Repr, Inhabited

/-- A gang of a stage (R149, R158, R178). -/
structure Gang where
  core0 : Nat
  level : Nat
  count : Nat
  base : Nat
  bound : Bool
  deriving DecidableEq, Repr, Inhabited

/-- A faulted step that awaits re-issue (R177). -/
structure Reissue where
  tag : Nat
  phase : Nat
  wver : Nat
  var : Nat
  deriving DecidableEq, Repr, Inhabited

/-- A pick that a member of a spanning stage is to start at a TIME, or a step that retired, with its CTXID in that place (R176). -/
structure SpanPick where
  gang : Nat
  tag : Nat
  phase : Nat
  wver : Nat
  var : Nat
  start : Nat
  /-- it starts an ADV step, and how often the step has been picked, its re-issues included -/
  adv : Bool
  run : Nat
  deriving DecidableEq, Repr, Inhabited

/-- What member 0 knows of another member (R176, R177): tags in its queues, its steps that retired and those that faulted, its free
gangs. -/
structure SpanReport where
  member : Nat
  fwd : List Nat
  bwd : List Nat
  /-- each as its step key * 65536 + its run -/
  retired : List Nat
  /-- each as (step key * 65536 + its run) * 256 + the code of the fault -/
  faulted : List Nat
  free : List Nat
  deriving DecidableEq, Repr, Inhabited

/-- The fields of a stage descriptor that the scheduler uses (R154, R155). -/
structure StageDesc where
  num : Nat
  fallback : Bool
  latest : Bool
  wdefer : Bool
  last : Bool
  first : Bool
  nver : Nat
  retry : Nat
  tag0 : Nat
  fwdch : Nat
  bwdch : Nat
  tagcount : Nat
  wbase : Nat
  wstride : Nat
  kpool : Nat
  klen : Nat
  spool : Nat
  slen : Nat
  resv : Nat
  share : Nat
  startlead : Nat
  span : List Nat
  leases : List LeaseRange
  deriving DecidableEq, Repr, Inhabited

/-- A stage from its STAGE command to its completion (R154 to R179). -/
structure Stage where
  /-- what tells the stages of the package apart, whatever their numbers (R158) -/
  key : Nat
  q : Nat
  idx : Nat
  pasid : Nat
  prio : Nat
  desc : StageDesc
  variants : List Variant
  gangs : List Gang
  armed : Bool
  /-- an event of this cycle can change a pick: the scheduler is to evaluate (R161) -/
  dirty : Bool
  newQ : List Entry
  fwdQ : List Entry
  bwdQ : List Entry
  wgtQ : List Entry
  /-- arrivals so far, by queue * 65536 + tag (R160) -/
  seen : List Nat
  tags : List TagState
  entered : Nat
  finished : Nat
  cur : Nat
  hold : List Nat
  lastphase : Option Nat
  /-- the tag whose W step with ADV runs (R163) -/
  adv : Option Nat
  budget : Nat
  reissues : List Reissue
  /-- faults by tag * 4 + phase (R177) -/
  faults : List (Nat × Nat)
  /-- the fault that ends the stage, its record waiting for room (R382) -/
  ending : Option Ending
  reports : List SpanReport
  picks : List SpanPick
  /-- steps retired here: at member 0 those not yet retired at every member, elsewhere all of them (R176) -/
  spanRetired : List SpanPick
  /-- steps that faulted here, elsewhere than at member 0, as a report lists them (R177) -/
  spanFaulted : List Nat
  /-- how often each step has been picked, by step key; unlisted 0 -/
  runs : List (Nat × Nat)
  deriving DecidableEq, Repr, Inhabited

/-- Cores of a unit of a level, and of a gang (R149). -/
def levelSize (l : Nat) : Nat :=
  match l with
  | 0 => 1 | 1 => 4 | 2 => 32 | _ => 128
def gangSize (level count : Nat) : Nat := (count + 1) * levelSize level

/-- What names a step within its stage: tag and phase. -/
def tagKey (tag phase : Nat) : Nat := tag * 4 + phase

/-- Whether a stage spans packages (R176). -/
def Stage.spans (st : Stage) : Bool := decide (2 ≤ st.desc.span.length)

/-- The states of a Firn slot (R169). -/
inductive SlotState where
  | empty | writing | kept | spilled | filling | dropped
  deriving DecidableEq, Repr, Inhabited

/-- What a slot holds (R168 to R171): its data rows; the runs of the keep pool and of the spill pool that their stored form fills, by
offset and length; and what stands for a store that is not made: the rows known to be poisoned. -/
structure Held where
  rows : List (List Byte)
  keep : List (Nat × Nat)
  spill : List (Nat × Nat)
  bad : List Nat
  deriving DecidableEq, Repr, Inhabited

def Held.none : Held := ⟨[], [], [], []⟩

/-- A Firn slot (R168 to R171): its name, its state and what it holds. -/
structure Slot where
  stage : Nat
  tag : Nat
  slot : Nat
  grank : Nat
  state : SlotState
  held : Held
  /-- while WRITING: the new rows, and whether they are to be spilled -/
  newRows : List (List Byte)
  toSpill : Bool
  /-- the instance whose step wrote the slot and has not retired, and the state and contents before that step (R171) -/
  writer : Option Nat
  before : Option (SlotState × Held)
  deriving DecidableEq, Repr, Inhabited

/-- A CSDROP mark (R338): instance, stage, tag, slot, rank. -/
structure DropMark where
  ctxid : Nat
  stage : Nat
  tag : Nat
  slot : Nat
  grank : Nat
  deriving DecidableEq, Repr, Inhabited

/-- Stages and Firn of the package. -/
structure Stages where
  /-- the key of the next stage -/
  next : Nat
  list : List Stage
  slots : List Slot
  marks : List DropMark
  deriving DecidableEq, Repr

def Stages.reset : Stages := ⟨0, [], [], []⟩

end Sys2Proof.Machine
end

