-- ==== Sys2Proof/Machine/State.lean ====
section
/-! DEFINITION. The state of the machine as plain data, and the machine right after reset. -/

namespace Sys2Proof.Machine

/-- Why a step stops. -/
inductive Fault where
  /-- The module is without power (R428: after a trip, until a cold reset; R433: after a power loss) and the turn is no cold
  reset. Raised by `step` only. Safe: nothing of the package runs. -/
  | moduleOff
  deriving DecidableEq, Repr

/-- Why an instruction has no meaning in the state it is given. -/
inductive Refusal where
  /-- No meaning written yet. Raised by an arm of `exec` only. Safe. -/
  | notModelled (mnemonic : String)
  /-- `exec` was given an instruction word while `cur` names no agent that issues such words: a context for a
  control-core word, the owning engine for an engine word (R88). `step` never does so. Safe. -/
  | wrongAgent
  deriving DecidableEq, Repr

/-- The agent whose word `exec` runs. -/
inductive Cur where
  | none
  | context (core : Fin 128) (c : CtxId)
  | engine (core : Fin 128) (e : Engine)
  deriving DecidableEq, Repr, Inhabited

/-- The whole package. -/
structure State where
  cores : Vector Core 128
  quads : Vector Quad 32
  mem : MemSide
  cmd : CmdProc
  stages : Stages
  fab : Fabric
  mgmt : Mgmt
  /-- PODX, PODY, PODZ of the package (R12) -/
  pod : Fin 16 × Fin 16 × Fin 16
  /-- CYC and TIME (R16, R64) -/
  cyc : W64
  time : Nat
  /-- The model's own: the turns to come, oldest first; when there is none, Config.freeTurn gives the turn (log entry 2). -/
  turns : List Turn
  /-- The model's own: where the last turn stood in its cycle (log entry 2). -/
  place : Nat
  /-- The model's own: the agent whose word is being run. -/
  cur : Cur
  /-- What has left the package, oldest first. -/
  outbox : List OutMsg
  /-- The model's own: how many free values have been taken, and how many turns (log entries 2, 13). -/
  freeCtr : Nat
  tick : Nat
  deriving DecidableEq, Repr

/-- The machine right after reset: the first boot of the module (R431, R435). -/
def State.reset : State where
  cores := Vector.replicate 128 .reset
  quads := Vector.replicate 32 .reset
  mem := .reset
  cmd := .reset
  stages := .reset
  fab := .reset
  mgmt := .reset
  pod := (0, 0, 0)
  cyc := 0
  time := 0
  turns := []
  place := 0
  cur := .none
  outbox := []
  freeCtr := 0
  tick := 0

/-- The canonical form of memory: addresses strictly rising, and no entry equal to 0, what an unlisted address reads as
(log entry 8). -/
def Memory.wf (m : List Host.Cell) : Bool := swf (0 : Byte) m

end Sys2Proof.Machine
end

