-- ==== Sys2Proof/Machine/Flags.lean ====
section
/-! DEFINITION. The flag computations: FLAGS is a sticky OR (R31, R32), and the conditions and predicates of the control core
(R196). The control core's integer instructions set no flag (R31). -/

namespace Sys2Proof.Machine

/-- FLAGS after a set: the OR of what it held and the new flags (R32). -/
def orFlags (old new : W32) : W32 := old ||| new

/-- A compare of R196: signed except for the unsigned conditions. -/
def condHolds (c : Cond) (a b : W64) : Bool :=
  match c with
  | .eq => a == b
  | .ne => a != b
  | .lt => a.slt b
  | .ge => !(a.slt b)
  | .ltu => a.ult b
  | .geu => !(a.ult b)

/-- PLOG (R196): the bit of the table at 2 * pa + pb. -/
def plogBit (t : BitVec 4) (pa pb : Bool) : Bool :=
  t.getLsbD ((if pa then 2 else 0) + (if pb then 1 else 0))

/-- The floating-point environment that a word reads of FCSR at issue (R28, R30). -/
def numEnv (fcsr : W32) : NumEnv := ⟨fcsr.getLsbD 5, fcsr.getLsbD 4⟩

/-- FCSR.RM as read at issue (R28). -/
def fcsrRm (fcsr : W32) : Nat := (fcsr &&& 7).toNat

/-- The bits of FCSR and FLAGS that a MOVTS writes; the reserved ones are ignored (R28, R31, R65). -/
def fcsrMask : W32 := 0x37#32
def flagsMask : W32 := 0x3F#32

end Sys2Proof.Machine
end

