-- ==== Sys2Proof/Machine/Ops.lean ====
section
/-! DEFINITION. The named operations over the state: cores, contexts, engines, registers, memory bytes, poison, and taking
a fault. -/

namespace Sys2Proof.Machine

/-- The outcome of a meaning. -/
abbrev Out := Host.Outcome State Fault Refusal

/-! ### Cores, quads, contexts, engines -/

def State.core (s : State) (k : Fin 128) : Core := s.cores[k]
def State.setCore (s : State) (k : Fin 128) (c : Core) : State := { s with cores := s.cores.set k c }
def State.quad (s : State) (q : Fin 32) : Quad := s.quads[q]
def State.setQuad (s : State) (q : Fin 32) (x : Quad) : State := { s with quads := s.quads.set q x }
def State.setMem (s : State) (m : MemSide) : State := { s with mem := m }
def State.setCmd (s : State) (c : CmdProc) : State := { s with cmd := c }
def State.setFab (s : State) (f : Fabric) : State := { s with fab := f }
def State.setStages (s : State) (x : Stages) : State := { s with stages := x }
def State.setMgmt (s : State) (x : Mgmt) : State := { s with mgmt := x }
/-- A message leaves the package. -/
def State.send (s : State) (m : OutMsg) : State := { s with outbox := s.outbox ++ [m] }

/-! ### Torus ports (R17, R390): +X, -X, +Y, -Y, +Z, -Z -/

/-- PKG of this package (R12). -/
def State.pkg (s : State) : Nat := s.pod.1.val + 16 * s.pod.2.1.val + 256 * s.pod.2.2.val

/-- The port by which a request for a package sets out (log entry 88). -/
def State.outPort (s : State) (target : Nat) : Nat :=
  let here := s.pkg
  let dims := [0, 1, 2].filter fun d => here / 16 ^ d % 16 != target / 16 ^ d % 16
  let r := Config.route here target
  nth 0 dims (r / 2 % dims.length) * 2 + r % 2

/-- The port at the other end of the same dimension. -/
def oppositePort (p : Nat) : Nat := p / 2 * 2 + (1 - p % 2)

/-- Whether a request can leave (R390): by its port, or with FALLBACK by the opposite one. -/
def State.portOpen (s : State) (fb : Bool) (target : Nat) : Bool :=
  let p := s.outPort target
  target == s.pkg || !s.fab.portsDown.contains p || (fb && !s.fab.portsDown.contains (oppositePort p))

/-- A message leaves over the torus, or waits for a port (R390). -/
def State.sendOut (s : State) (fb : Bool) (target : Nat) (m : OutMsg) : State :=
  if s.portOpen fb target then s.send m else s.setFab { s.fab with parked := s.fab.parked ++ [(target, fb, m)] }

/-- Whether a message still waits for a port. -/
def State.waitsOut (s : State) (m : OutMsg) : Bool := s.fab.parked.any fun x => x.2.2 == m

/-- FALLBACK of the record or the descriptor of an instance (R131, R155, R390). -/
def State.fallsBack (s : State) (ctxid : Nat) : Bool :=
  s.cmd.insts.any fun i => i.ctxid == ctxid && (i.trec.fallback || match i.stage with
    | some (key, _) => s.stages.list.any fun st => st.key == key && st.desc.fallback
    | none => false)

/-- A core by number; numbers wrap at 128. -/
def coreIx (n : Nat) : Fin 128 := Fin.ofNat 128 n
def quadIx (n : Nat) : Fin 32 := Fin.ofNat 32 n
/-- QUAD and DIE of a core (R12). -/
def quadOf (k : Fin 128) : Fin 32 := quadIx (k.val / 4)
def dieOf (k : Fin 128) : Fin 4 := Fin.ofNat 4 (k.val / 32)

def State.coreFalls (s : State) (k : Fin 128) : Bool := (s.core k).inst.any s.fallsBack

def Core.ctx (c : Core) : CtxId → Ctx
  | .ld => c.ld | .cp => c.cp | .st => c.st
def Core.setCtx (c : Core) (i : CtxId) (x : Ctx) : Core :=
  match i with
  | .ld => { c with ld := x }
  | .cp => { c with cp := x }
  | .st => { c with st := x }
def Core.eng (c : Core) : Engine → Eng
  | .a => c.a | .v => c.v | .c => c.c
def Core.setEng (c : Core) (i : Engine) (x : Eng) : Core :=
  match i with
  | .a => { c with a := x }
  | .v => { c with v := x }
  | .c => { c with c := x }

def State.ctx (s : State) (k : Fin 128) (c : CtxId) : Ctx := (s.core k).ctx c
def State.setCtx (s : State) (k : Fin 128) (c : CtxId) (x : Ctx) : State := s.setCore k ((s.core k).setCtx c x)
def State.eng (s : State) (k : Fin 128) (e : Engine) : Eng := (s.core k).eng e
def State.setEng (s : State) (k : Fin 128) (e : Engine) (x : Eng) : State := s.setCore k ((s.core k).setEng e x)

/-- The issue slot order and AGENT of a context (R66, R380). -/
def ctxAgent : CtxId → Nat
  | .ld => 0 | .cp => 1 | .st => 2
/-- AGENT of an engine (R380). -/
def engAgent : Engine → Nat
  | .a => 3 | .v => 4 | .c => 5
def allCtx : List CtxId := [.ld, .cp, .st]
def allEng : List Engine := [.a, .v, .c]
/-- Agents in the order K, A, V, C of the token counters (R70). -/
def tokNum : Engine → Nat
  | .a => 1 | .v => 2 | .c => 3

/-! ### Registers of a context -/

/-- x0 reads as zero (R62). -/
def Ctx.getX (c : Ctx) (r : Fin 32) : W64 := if r = 0 then 0 else c.x[r]
/-- A write to x0 is discarded (R62). -/
def Ctx.setX (c : Ctx) (r : Fin 32) (v : W64) : Ctx := if r = 0 then c else { c with x := c.x.set r v }
/-- p0 reads as true (R62). -/
def Ctx.getP (c : Ctx) (r : Fin 8) : Bool := if r = 0 then true else c.p[r]
/-- A write to p0 is discarded (R62). -/
def Ctx.setP (c : Ctx) (r : Fin 8) (v : Bool) : Ctx := if r = 0 then c else { c with p := c.p.set r v }
def Ctx.setPc (c : Ctx) (v : W64) : Ctx := { c with pc := v }
/-- The next word of the context (R182). -/
def Ctx.step (c : Ctx) : Ctx := c.setPc (c.pc + 4)

/-- The guard of R74: the word executes when p[GP] is not GS. -/
def Ctx.guard (c : Ctx) (g : Guard) : Bool := c.getP g.gp != g.gs

/-- The word has done its work: the context goes on to the next one. -/
def State.advance (s : State) (k : Fin 128) (c : CtxId) : State := s.setCtx k c (s.ctx k c).step
/-- The word writes x[rd] and the context goes on. -/
def State.retX (s : State) (k : Fin 128) (c : CtxId) (rd : Fin 32) (v : W64) : State :=
  s.setCtx k c ((s.ctx k c).setX rd v).step
/-- The word writes p[pd] and the context goes on. -/
def State.retP (s : State) (k : Fin 128) (c : CtxId) (pd : Fin 8) (v : Bool) : State :=
  s.setCtx k c ((s.ctx k c).setP pd v).step

/-! ### Taking a fault (R81, R188, R383)

A fault stops its core: the core holds it until teardown takes the gang down and writes its record (R384). Among faults
raised in one cycle on one core, the first agent in the order of AGENT holds; a later fault of the core is not recorded. -/

/-- What a fault record takes of the core at the fault (R380). -/
def State.faultInfo (s : State) (k : Fin 128) (agent : Nat) (loc : W64) (t : Trap) (stamp : Nat) : FaultInfo :=
  ⟨t, agent, loc, s.cyc.toNat, s.time, (s.core k).flags, (s.core k).disp.iter, stamp⟩

/-- Whether a new fault takes the place of the one that the core holds (R383). -/
def faultWins (old : Option FaultInfo) (cyc agent : Nat) : Bool :=
  match old with
  | none => true
  | some f => f.cyc == cyc && decide (agent < f.agent)

/-- A fault is raised on a core (R383). -/
def State.raise (s : State) (k : Fin 128) (agent : Nat) (loc : W64) (t : Trap) : State :=
  if faultWins (s.core k).fault s.cyc.toNat agent then
    s.setCore k { s.core k with fault := some (s.faultInfo k agent loc t s.mem.mphase) }
  else s

/-- A context's word faults: LOC is its address (R380). -/
def State.raiseCtx (s : State) (k : Fin 128) (c : CtxId) (t : Trap) : State :=
  s.raise k (ctxAgent c) (s.ctx k c).pc t

/-! ### Running a control-core word -/

/-- A control-core word under its guard (R74, R188): a word whose guard fails only passes. -/
def ctl (s : State) (g : Guard) (body : Fin 128 → CtxId → Ctx → Out) : Out :=
  match s.cur with
  | .context k c =>
    if (s.ctx k c).guard g then body k c (s.ctx k c) else .next (s.advance k c)
  | _ => .refused .wrongAgent

/-- A word that writes a general register from the registers of its context and does nothing else. -/
def ctlX (s : State) (g : Guard) (rd : Fin 32) (f : Ctx → W64) : Out :=
  ctl s g fun k c x => .next (s.retX k c rd (f x))

/-- A word that writes a predicate from the registers of its context and does nothing else. -/
def ctlP (s : State) (g : Guard) (pd : Fin 8) (f : Ctx → Bool) : Out :=
  ctl s g fun k c x => .next (s.retP k c pd (f x))

/-! ### Memory by flat address -/

/-- Where scratchpads and host memory lie among flat addresses. -/
def sramBase : Nat := 2 ^ 52
def sramFlat (q : Fin 32) (off : Nat) : Nat := sramBase + q.val * 2 ^ 25 + off
def hostBase : Nat := 2 ^ 64
def hostFlat (h : Nat) : Nat := hostBase + h

/-- One byte of memory (R1); a byte that nothing has written reads 0 (log entry 8). -/
def MemSide.byte (m : MemSide) (a : Nat) : Byte := sget (0 : Byte) m.cells a
def MemSide.read (m : MemSide) (a n : Nat) : List Byte := sgetRun (0 : Byte) m.cells a n

/-- Whether a list of bytes from an address upward covers a sector whole. -/
def coversSector (a n sector : Nat) : Bool := decide (a ≤ sector * 64) && decide (sector * 64 + 64 ≤ a + n)

/-- Bytes are written; a write of a whole sector clears its poison, a write of part leaves it (R300). -/
def MemSide.write (m : MemSide) (a : Nat) (bs : List Byte) : MemSide :=
  { m with
    cells := ssetRun (0 : Byte) m.cells a bs
    poison := m.poison.filter fun p => !coversSector a bs.length p }

/-- The first poisoned sector that an access touches (R301). -/
def MemSide.poisonedAt (m : MemSide) (a n : Nat) : Option Nat :=
  m.poison.find? fun p => decide (a < p * 64 + 64) && decide (p * 64 < a + n)

/-- A sector becomes poisoned (R300). -/
def MemSide.addPoison (m : MemSide) (sector : Nat) : MemSide := { m with poison := kadd sector m.poison }

/-- Little-endian value of bytes (R1). -/
def leNum : List Byte → Nat
  | [] => 0
  | b :: t => b.toNat + 256 * leNum t
/-- The low `n` bytes of a value, little-endian (R1). -/
def leBytesOf : Nat → Nat → List Byte
  | 0, _ => []
  | n + 1, v => BitVec.ofNat 8 v :: leBytesOf n (v / 256)

def MemSide.num (m : MemSide) (a n : Nat) : Nat := leNum (m.read a n)
def MemSide.setNum (m : MemSide) (a n v : Nat) : MemSide := m.write a (leBytesOf n v)

/-- Sign extension of the low `w` bits to 64. -/
def sext64 (w v : Nat) : W64 := (BitVec.ofNat w v).signExtend 64

/-! ### Tile bytes and rows (R63) -/

def tileKey (t row byte : Nat) : Nat := t * 16384 + row * 128 + byte
def Core.tileByte (c : Core) (t row byte : Nat) : Byte := sget (0 : Byte) c.tiles (tileKey t row byte)
/-- A run of bytes of a tile row. -/
def Core.tileBytes (c : Core) (t row byte n : Nat) : List Byte := sgetRun (0 : Byte) c.tiles (tileKey t row byte) n
def Core.setTileBytes (c : Core) (t row byte : Nat) (bs : List Byte) : Core :=
  { c with tiles := ssetRun (0 : Byte) c.tiles (tileKey t row byte) bs }

/-! ### Token counters (R70) -/

def tokIx (src dst : Nat) : Fin 16 := Fin.ofNat 16 (src * 4 + dst)
def Core.getTok (c : Core) (src dst : Nat) : Nat := (c.tok[tokIx src dst]).toNat
def Core.addTok (c : Core) (src dst : Nat) : Core :=
  { c with tok := c.tok.set (tokIx src dst) (c.tok[tokIx src dst] + 1) }
def Core.subTok (c : Core) (src dst : Nat) : Core :=
  { c with tok := c.tok.set (tokIx src dst) (c.tok[tokIx src dst] - 1) }

/-- Consumes one token of each counter (x, self); none where one of them is zero (R70, R214). -/
def Core.consume (c : Core) (self : Nat) (srcs : List Nat) : Option Core :=
  if srcs.all fun x => c.getTok x self != 0 then some (srcs.foldl (fun d x => d.subTok x self) c) else none

/-- Posts one token to each counter (self, x), or names the first agent whose counter holds 15 (R70, R214). -/
def Core.post (c : Core) (self : Nat) (dsts : List Nat) : Except Nat Core :=
  match dsts.find? fun x => c.getTok self x == 15 with
  | some x => .error x
  | none => .ok (dsts.foldl (fun d x => d.addTok self x) c)

/-- INFO of a token fault (R381). -/
def tokInfo (src dst : Nat) : W64 := BitVec.ofNat 64 (src * 4 + dst)

/-- The agents that a token field of an engine word names, in the order K, A, V, C (R70). -/
def tokAgents (e : Engine) (f : Fin 8) : List Nat :=
  let pick (b : Bool) (n : Nat) : List Nat := if b then [n] else []
  let b2 := f.val / 4 % 2 == 1
  let b1 := f.val / 2 % 2 == 1
  let b0 := f.val % 2 == 1
  match e with
  | .a => pick b2 0 ++ pick b1 2 ++ pick b0 3
  | .v => pick b2 0 ++ pick b1 1 ++ pick b0 3
  | .c => pick b2 0 ++ pick b1 1 ++ pick b0 2

/-- The engines that a mask of JOIN, TWAIT or TPOST names, as agent numbers (R212, R214). -/
def engSetAgents (m : EngSet) : List Nat :=
  (if m.a then [1] else []) ++ (if m.v then [2] else []) ++ (if m.c then [3] else [])
def engSetEngines (m : EngSet) : List Engine :=
  (if m.a then [.a] else []) ++ (if m.v then [.v] else []) ++ (if m.c then [.c] else [])

end Sys2Proof.Machine
end

