-- ==== Sys2Proof/Machine/Access.lean ====
section
/-! DEFINITION. The path of an access: address spaces, leases, the heap window, TLBs and page walks, grades, remote pages,
the scratchpad, and the data L1 (R137 to R147, R188 to R191, R281 to R301). -/

namespace Sys2Proof.Machine

/-- What a checked access comes to: done, a fault, or it waits. -/
inductive Acc (α : Type) where
  | ok (a : α)
  | trap (t : Trap)
  | wait
  deriving Repr

def Acc.bind {α β : Type} (x : Acc α) (f : α → Acc β) : Acc β :=
  match x with
  | .ok a => f a
  | .trap t => .trap t
  | .wait => .wait

def Acc.ofExcept {α : Type} (x : Except Trap α) : Acc α :=
  match x with
  | .ok a => .ok a
  | .error t => .trap t

/-- Rights an access needs (R133, R139), and the pages on which it faults PERM: an atomic on a host page or a remote page (R205), a
batch on a host page (R361). -/
structure Need where
  r : Bool
  w : Bool
  x : Bool
  noHost : Bool
  noRemote : Bool
  deriving DecidableEq, Repr

def Need.none : Need := ⟨false, false, false, false, false⟩
def Need.read : Need := ⟨true, false, false, false, false⟩
def Need.write : Need := ⟨false, true, false, false, false⟩
def Need.both : Need := ⟨true, true, false, false, false⟩
def Need.batch : Need := ⟨true, true, false, true, false⟩
def Need.atomic : Need := ⟨true, true, false, true, true⟩
def Need.fetch : Need := ⟨false, false, true, false, false⟩
def Need.section : Need := ⟨true, false, true, false, false⟩

/-- Where an access goes after translation: bytes of this package or of host memory by flat address, or another package. -/
inductive Dest where
  | here (flat : Nat) (host : Bool)
  | remote (target inc addr : Nat)
  deriving DecidableEq, Repr, Inhabited

def bitsNat (v lo n : Nat) : Nat := v / 2 ^ lo % 2 ^ n

/-! ### Regions and grades (R296 to R298, R306) -/

def gradeNone : Nat := 3

/-- The key of a region in the grade tables: tier * 2^19 + index (R297); none for an address in no tier (R306). -/
def MemSide.regionKey (m : MemSide) (a : Nat) : Option Nat :=
  if a < m.memcap then some (a / 2 ^ 21)
  else if Config.lpddrBase ≤ a ∧ a < Config.lpddrBase + Config.lpddrBytes then some (2 ^ 19 + (a - Config.lpddrBase) / 2 ^ 21)
  else none

/-- The grade of the region of a device address; NONE in no tier (R298). -/
def MemSide.gradeAt (m : MemSide) (a : Nat) : Nat :=
  match m.regionKey a with
  | some r => sget gradeNone m.grades r
  | none => gradeNone

/-! ### PASID entries and walks (R138, R140 to R143) -/

/-- An entry of the PASID table (R138). -/
structure PasidEntry where
  root : Nat
  hwb : Nat
  hwl : Nat
  hwo : Nat
  ats : Bool
  hwcmp : Bool
  hwgrade : Nat
  deriving DecidableEq, Repr

/-- The entry of a PASID; none where it is not valid or not below PASIDSZ (R138). -/
def State.pasidEntry (s : State) (pasid : Nat) : Option PasidEntry :=
  let a := s.cmd.pasidtb.toNat + 64 * pasid
  if s.cmd.pasidsz.toNat ≤ pasid then none
  else
    let root := s.mem.num a 8
    let hwb := s.mem.num (a + 8) 8
    let hwl := s.mem.num (a + 16) 8
    let hwo := s.mem.num (a + 24) 8
    let fl := s.mem.num (a + 32) 8
    let rest := s.mem.num (a + 40) 24
    if root % 2 = 0 ∨ bitsNat root 1 14 ≠ 0 ∨ bitsNat root 48 16 ≠ 0 ∨ fl / 16 ≠ 0 ∨ rest ≠ 0
        ∨ hwb % 65536 ≠ 0 ∨ hwl % 65536 ≠ 0 ∨ hwl < hwb then none
    else some ⟨bitsNat root 15 33 * 2 ^ 15, hwb, hwl, hwo, fl % 2 == 1, bitsNat fl 1 1 == 1, bitsNat fl 2 2⟩

/-- What a walk finds. -/
inductive Walk where
  | leaf (log2 : Nat) (l : Leaf)
  | invalid
  /-- an entry lies in a NONE region (R298) -/
  | noRegion (a : Nat)
  deriving DecidableEq, Repr

/-- The leaf of an entry at a level whose page has 2^log2 bytes; none where R142 finds it invalid. -/
def leafOf (e log2 : Nat) : Option Leaf :=
  let ma := bitsNat e 16 41 * 2 ^ 16
  let rmt := bitsNat e 11 1 == 1
  let host := bitsNat e 10 1 == 1
  let grade := bitsNat e 6 2
  if bitsNat e 57 7 ≠ 0 ∨ bitsNat e 12 4 ≠ 0 ∨ bitsNat e 9 1 ≠ 0 ∨ bitsNat e 2 1 ≠ 0 then none
  else if ma % 2 ^ log2 ≠ 0 then none
  else if !host && decide (2 ^ 48 ≤ ma) then none
  else if host && rmt then none
  else if grade = 3 ∨ (grade ≠ 0 ∧ (host || rmt) = true) then none
  else some ⟨ma, rmt, host, bitsNat e 8 1 == 1, grade, bitsNat e 5 1 == 1, bitsNat e 4 1 == 1, bitsNat e 3 1 == 1⟩

/-- The levels of R140: lowest address bit and number of index bits. -/
def walkLevels : List (Nat × Nat) := [(45, 12), (34, 11), (29, 5), (21, 8), (16, 5)]

/-- A walk of the page tables from a table at a level on (R140 to R142). -/
def MemSide.walk (m : MemSide) (va : Nat) : List (Nat × Nat) → Nat → Walk
  | [], _ => .invalid
  | (lo, n) :: rest, table =>
    let a := table + 8 * bitsNat va lo n
    if m.gradeAt a = gradeNone then .noRegion a
    else
      let e := m.num a 8
      if e % 2 = 0 then .invalid
      else if bitsNat e 1 1 = 1 then
        if lo = 45 then .invalid
        else match leafOf e lo with
          | some l => .leaf lo l
          | none => .invalid
      else if rest.isEmpty then .invalid
      else if bitsNat e 57 7 ≠ 0 ∨ bitsNat e 2 6 ≠ 0 ∨ bitsNat e 48 9 ≠ 0 then .invalid
      else m.walk va rest (bitsNat e 8 40 * 2 ^ 8)

def TlbEntry.covers (t : TlbEntry) (pasid va : Nat) : Bool :=
  t.pasid == pasid && decide (t.base ≤ va) && decide (va < t.base + 2 ^ t.log2)

/-- The entry that translates an address for a core: its own TLB's, else its quad's (R143). -/
def State.heldLeaf (s : State) (k : Fin 128) (pasid va : Nat) : Option TlbEntry :=
  match (s.core k).tlb.find? (·.covers pasid va) with
  | some t => some t
  | none => (s.quad (quadOf k)).tlb.find? (·.covers pasid va)

/-- An entry comes into the TLBs of a core and of its quad; a full TLB loses its last one (R143, log entry 82). -/
def State.holdLeaf (s : State) (k : Fin 128) (t : TlbEntry) : State :=
  let c := s.core k
  let q := s.quad (quadOf k)
  (s.setCore k { c with tlb := (t :: c.tlb).take coreTlb }).setQuad (quadOf k) { q with tlb := (t :: q.tlb).take quadTlb }

/-- A translation (R139, R143): a TLB entry, or a walk whose leaf enters the TLBs. An agent outside the cores walks each time. -/
def State.translate (s : State) (k : Option (Fin 128)) (pasid va : Nat) : Walk × State :=
  match k.bind fun k => s.heldLeaf k pasid va with
  | some t => (.leaf t.log2 t.leaf, s)
  | none =>
    match s.pasidEntry pasid with
    | none => (.invalid, s)
    | some p =>
      match s.mem.walk va walkLevels p.root with
      | .leaf n l =>
        (.leaf n l, match k with
          | some k => s.holdLeaf k ⟨pasid, va / 2 ^ n * 2 ^ n, n, l⟩
          | none => s)
      | w => (w, s)

/-- The ATS translation of a host address under a PASID, held in the ATC (R145); none where it fails or where the PASID
entry permits none (R138). -/
def State.ats (s : State) (pasid addr : Nat) : Option Nat × State :=
  let page := addr / 65536
  match s.mem.atc.find? fun t => t.pasid == pasid && t.page == page with
  | some t => (some (t.dest * 65536 + addr % 65536), s)
  | none =>
    match s.pasidEntry pasid with
    | some p =>
      if p.ats then
        match Config.atsTranslate s.mem.atsEpoch pasid page with
        | some dest => (some (dest * 65536 + addr % 65536), s.setMem { s.mem with atc := ⟨pasid, page, dest⟩ :: s.mem.atc })
        | none => (none, s)
      else (none, s)
    | none => (none, s)

/-! ### Leases (R137) -/

def LeaseRange.has (r : LeaseRange) (a : Nat) : Bool := decide (r.base ≤ a) && decide (a < r.base + r.len)

/-- The first byte of an access that lies outside every range, or in a read-only range where the access writes (R137). The
walk over the ranges ends after at most one visit of each. -/
def leaseGap (ranges : List LeaseRange) (w : Bool) : Nat → Nat → Nat → Option Nat
  | 0, a, stop => if a < stop then some a else none
  | fuel + 1, a, stop =>
    if stop ≤ a then none
    else match ranges.find? (·.has a) with
      | none => some a
      | some r => if w && !r.rw then some a else leaseGap ranges w fuel (r.base + r.len) stop

def leaseFault (ranges : List LeaseRange) (w : Bool) (a n : Nat) : Option Nat :=
  leaseGap ranges w (ranges.length + 1) a (a + n)

/-! ### Virtual accesses (R139) -/

def w64 (n : Nat) : W64 := BitVec.ofNat 64 n

/-- A GRADE fault: INFO holds the region grade and the grade carried (R381). -/
def gradeTrap (va region carried : Nat) : Trap := ⟨.grade, w64 va, w64 (region + 4 * carried)⟩

/-- The grade check of a device address (R298). -/
def State.gradeCheck (s : State) (va a carried : Nat) : Except Trap Unit :=
  let g := s.mem.gradeAt a
  if g = gradeNone ∨ g ≠ carried then .error (gradeTrap va g carried) else .ok ()

/-- A word of an aperture entry as requests use it (R146, R148): what the last read of the entry found. -/
def State.apt (s : State) (entry word : Nat) : Nat := (sget (0 : W64) s.cmd.aptLive (entry * 4 + word)).toNat

/-- The incarnation last announced by a package (R389). -/
def State.incOf (s : State) (pkg : Nat) : Nat := sget 0 s.fab.incs pkg

/-- An access through a remote page (R147). A PERM fault names the first byte that fails (R381): the first past TLEN, where that is
what fails. -/
def State.aperture (s : State) (va o entry n : Nat) (w : Bool) : Except Trap Dest :=
  let w0 := s.apt entry 0
  let target := bitsNat w0 32 12
  let tinc := w0 % 2 ^ 32
  let tlen := bitsNat (s.apt entry 2) 0 42
  if bitsNat w0 63 1 = 0 ∨ (w && bitsNat w0 62 1 == 1) = true then .error (.at .perm (w64 va))
  else if tlen < o + n then .error (.at .perm (w64 (va + (tlen - o))))
  else if tinc < s.incOf target then
    .error ⟨.remoteStale, w64 va, w64 (target * 2 ^ 32 + s.incOf target)⟩
  else .ok (.remote target tinc (bitsNat (s.apt entry 1) 0 48 + o))

/-- One piece of a virtual access, within one page and one region: translation, rights and grade (R139 steps 3 and 4), and for an
atomic the page's kind (R205). -/
def State.pageDest (s : State) (k : Option (Fin 128)) (pasid va n : Nat) (need : Need) : Except Trap (Dest × State) :=
  match s.translate k pasid va with
  | (.invalid, _) => .error (.at .lease (w64 va))
  | (.noRegion _, _) => .error (gradeTrap va gradeNone 0)
  | (.leaf log2 l, s1) =>
    if (need.r && !l.r) || (need.w && !l.w) || (need.x && !l.x) || (need.noHost && l.host) || (need.noRemote && l.rmt) then .error (.at .perm (w64 va))
    else
      let a := l.ma + va % 2 ^ log2
      if l.host then
        match s1.ats pasid a with
        | (some h, s2) => .ok (.here (hostFlat h) true, s2)
        | (none, _) => .error (.at .lease (w64 va))
      else if l.rmt then
        match s1.aperture va (a % 2 ^ 42) (bitsNat a 42 6) n need.w with
        | .ok d => .ok (d, s1)
        | .error t => .error t
      else match s1.gradeCheck va a l.grade with
        | .ok _ => .ok (.here a false, s1)
        | .error t => .error t

/-- One piece of an access in the heap window (R139 step 2, R298). -/
def State.windowDest (s : State) (pasid va : Nat) (hwo : W64) : Except Trap (Dest × State) :=
  let a := (va + hwo.toNat) % 2 ^ 48
  let carried := match s.pasidEntry pasid with
    | some p => p.hwgrade
    | none => 0
  match s.gradeCheck va a carried with
  | .ok _ => .ok (.here a false, s)
  | .error t => .error t

/-- Pieces of a virtual access, checked one after another in rising order (log entry 83), none crossing a multiple of 64 KiB of the address that `off` brings it to. -/
def pieces (off : Nat) : Nat → Nat → Nat → List (Nat × Nat)
  | 0, _, _ => []
  | fuel + 1, va, n =>
    if n = 0 then []
    else
      let k := min n (65536 - (va + off) % 65536)
      (va, k) :: pieces off fuel (va + k) (n - k)

def State.destAll (s : State) (f : State → Nat → Nat → Except Trap (Dest × State)) :
    List (Nat × Nat) → Except Trap (List (Dest × Nat) × State)
  | [] => .ok ([], s)
  | (va, n) :: t =>
    match f s va n with
    | .error e => .error e
    | .ok (d, s1) =>
      match s1.destAll f t with
      | .error e => .error e
      | .ok (ds, s2) => .ok ((d, n) :: ds, s2)

/-- The checks of R139 on an access to the virtual space by the instance of a core, and where its pieces lead. -/
def State.virtual (s : State) (k : Fin 128) (va n : Nat) (need : Need) : Except Trap (List (Dest × Nat) × State) :=
  let c := s.core k
  match leaseFault c.ranges need.w va n with
  | some a => .error (.at .lease (w64 a))
  | none =>
    let hwb := c.disp.hwb.toNat
    let hwl := c.disp.hwl.toNat
    let fuel := n / 65536 + 2
    if hwb ≤ va ∧ va < hwl then
      if need.x then .error (.at .perm (w64 va))
      else if va + n ≤ hwl then
        s.destAll (fun s1 a _ => s1.windowDest c.pasid a c.disp.hwo) (pieces c.disp.hwo.toNat fuel va n)
      else .error (.at .heapLimit (w64 hwl))
    else s.destAll (fun s1 a m => s1.pageDest (some k) c.pasid a m need) (pieces 0 fuel va n)

/-! ### Address spaces and the scratchpad (R189) -/

inductive Space where
  | virt (va : Nat)
  | sram (q : Fin 32) (off : Nat)
  deriving DecidableEq, Repr

/-- The space of an effective address (R189); none where it lies in no space. -/
def spaceOf (k : Fin 128) (ea : W64) : Option Space :=
  let a := ea.toNat
  if a < 2 ^ 57 then some (.virt a)
  else if bitsNat a 56 8 = 0xFE then (if bitsNat a 25 31 = 0 then some (.sram (quadOf k) (a % 2 ^ 25)) else none)
  else if bitsNat a 56 8 = 0xFD then
    (if bitsNat a 30 26 = 0 then some (.sram (quadIx (bitsNat a 25 5)) (a % 2 ^ 25)) else none)
  else none

/-- The mode of a bank (R64, R283). -/
def Quad.bankMode (q : Quad) (b : Nat) : Nat := bitsNat q.mode.toNat (2 * b) 2
def modeCache : Nat := 0
def modePad : Nat := 1
def modeFifo : Nat := 2
def bankOf (off : Nat) : Nat := off / 2 ^ 20
def Quad.isSwitching (q : Quad) (b : Nat) : Bool := q.switching.any (·.1 == b)

/-- Whether a core's instance has a core in a quad (R189). -/
def State.gangInQuad (s : State) (k : Fin 128) (q : Fin 32) : Bool :=
  q == quadOf k ||
    ((s.core k).inst.isSome && [0, 1, 2, 3].any fun j => (s.core (coreIx (q.val * 4 + j))).inst == (s.core k).inst)

/-- The checks of R189 on a scratchpad access: it stalls while a bank switches (R285). -/
def State.padCheck (s : State) (k : Fin 128) (ea : W64) (q : Fin 32) (off n : Nat) : Acc Unit :=
  let x := s.quad q
  let last := off + n - 1
  if !s.gangInQuad k q then .trap (.at .perm ea)
  else if 2 ^ 25 ≤ last then .trap (.at .perm (ea + w64 (2 ^ 25 - off)))
  else
    let banks := (List.range (bankOf last - bankOf off + 1)).map fun i => bankOf off + i
    if banks.any x.isSwitching then .wait
    else match banks.find? fun b => x.bankMode b != modePad with
      | some b => .trap (.at .perm (if b = bankOf off then ea else ea + w64 (b * 2 ^ 20 - off)))
      | none => .ok ()

/-- UNCORRECTABLE (R301, R381): INFO is the device memory address of the sector, 0 where the sector is no device memory
(log entry 19). -/
def poisonTrap (ea : W64) (sector : Nat) : Trap :=
  ⟨.uncorrectable, ea, if sector * 64 < 2 ^ 48 then w64 (sector * 64) else 0⟩

/-- Stands for a poisoned sector of another package, which has no device address here. -/
def remoteSector : Nat := 2 ^ 60

/-! ### The data L1 (R190, R301) -/

def DLine.get (l : DLine) (o : Nat) : Option (Byte × Bool) := sget none (l.bytes.map fun p => (p.1, some p.2)) o
def DLine.put (l : DLine) (o : Nat) (v : Byte) (d : Bool) : DLine :=
  { l with bytes := sinsert o (v, d) (serase o l.bytes) }
def DLine.has (l : DLine) (o n : Nat) : Bool := (List.range n).all fun i => (l.get (o + i)).isSome

/-- Whether every byte of a sector of the line is dirty: its write-back writes the sector whole (R300). -/
def DLine.sectorDirty (l : DLine) (sec : Nat) : Bool :=
  (List.range 64).all fun i => match l.get (sec * 64 + i) with
    | some (_, d) => d
    | none => false

/-- Fills the bytes that the line lacks from memory; a sector with a byte from a poisoned sector is marked (R190, R301). -/
def DLine.fill (l : DLine) (m : MemSide) : DLine :=
  let missing := (List.range 128).filter fun o => (l.get o).isNone
  let l1 := missing.foldl (fun x o => x.put o (m.byte (l.pa + o)) false) l
  { l1 with poison := [0, 1].filter fun sec =>
      l.poison.contains sec || (missing.any (fun o => o / 64 == sec) && kmem m.poison (l.pa / 64 + sec)) }

/-- Writes the dirty bytes of a line back (R190): the line's bytes are then clean. -/
def MemSide.writeBack (m : MemSide) (l : DLine) : MemSide :=
  let m1 := l.bytes.foldl (fun (x : MemSide) p => if p.2.2 then { x with cells := sset (0 : Byte) x.cells (l.pa + p.1) p.2.1 } else x) m
  { m1 with poison := m1.poison.filter fun p =>
      !((p == l.pa / 64 && l.sectorDirty 0) || (p == l.pa / 64 + 1 && l.sectorDirty 1)) }

def DLine.clean (l : DLine) : DLine := { l with bytes := l.bytes.map fun p => (p.1, (p.2.1, false)) }

def Core.dline (c : Core) (pa : Nat) : Option DLine := c.dl1.find? fun l => l.pa == pa
def Core.setDline (c : Core) (l : DLine) : Core := { c with dl1 := l :: c.dl1.filter fun x => x.pa != l.pa }
/-- Whether the data L1 holds the line at `pa` or can take one more (R190). -/
def Core.hasRoom (c : Core) (pa : Nat) : Bool := (c.dline pa).isSome || decide (c.dl1.length < l1Lines)

/-- Writes one core's lines that satisfy `p` back, and drops those that also satisfy `q` (R190, R201, R203). -/
def State.flushLines (s : State) (k : Fin 128) (p q : DLine → Bool) : State :=
  let c := s.core k
  let m := (c.dl1.filter p).foldl (fun x l => x.writeBack l) s.mem
  (s.setMem m).setCore k { c with dl1 := (c.dl1.filter fun l => !q l).map fun l => if p l then l.clean else l }

/-- Every dirty line is written back and every line dropped. -/
def State.dropL1 (s : State) (k : Fin 128) : State := s.flushLines k (fun _ => true) (fun _ => true)

/-- Bytes of one line of the data L1, `va` the virtual address of the first (R190, R301): a miss allocates the line, and waits for
an eviction where the L1 is full; a sector that came in poisoned faults with the address of the access `ea`. -/
def State.l1Part (s : State) (k : Fin 128) (ea va : W64) (flat n : Nat) : Acc (List Byte × State) :=
  let c := s.core k
  let pa := flat / 128 * 128
  let o := flat % 128
  let l0 := (c.dline pa).getD ⟨pa, va - w64 o, [], []⟩
  let l := if l0.has o n then l0 else l0.fill s.mem
  if !c.hasRoom pa then .wait
  else match [o / 64, (o + n - 1) / 64].find? fun sec => l.poison.contains sec && !l.sectorDirty sec with
  | some sec => .trap (poisonTrap ea (flat / 128 * 2 + sec))
  | none => .ok ((List.range n).map fun i => match l.get (o + i) with
    | some (v, _) => v
    | none => 0, s.setCore k (c.setDline l))

/-- A load through the data L1 (R190): of two lines where the heap window's offset brings an access across their border
(R138, R139). -/
def State.l1Load (s : State) (k : Fin 128) (va : W64) (flat n : Nat) : Acc (List Byte × State) :=
  let m := 128 - flat % 128
  if n ≤ m then s.l1Part k va va flat n
  else (s.l1Part k va va flat m).bind fun p =>
    (p.2.l1Part k va (va + w64 m) (flat + m) (n - m)).bind fun q => .ok (p.1 ++ q.1, q.2)

/-- Bytes go into one line of the data L1 (R190): a miss allocates the line and writes only these bytes; it waits for an eviction
where the L1 is full. -/
def State.l1Put (s : State) (k : Fin 128) (va : W64) (flat : Nat) (bs : List Byte) : Acc State :=
  let c := s.core k
  let pa := flat / 128 * 128
  let o := flat % 128
  let l0 := (c.dline pa).getD ⟨pa, va - w64 o, [], []⟩
  let l := (bs.zipIdx).foldl (fun x p => x.put (o + p.2) p.1 true) l0
  if !c.hasRoom pa then .wait
  else .ok (s.setCore k (c.setDline { l with poison := l.poison.filter fun sec => !l.sectorDirty sec }))

/-- A store through the data L1 (R190). -/
def State.l1Store (s : State) (k : Fin 128) (va : W64) (flat : Nat) (bs : List Byte) : Acc State :=
  let m := 128 - flat % 128
  if bs.length ≤ m then s.l1Put k va flat bs
  else (s.l1Put k va flat (bs.take m)).bind fun t => t.l1Put k (va + w64 m) (flat + m) (bs.drop m)

/-! ### Remote pages (R147, R190, R353) -/

/-- A request leaves for another package (R353, R389); a write carries the runs of its data that are poisoned (R301). -/
def State.sendRemote (s : State) (k : Fin 128) (who : RemoteFor) (loc ea : W64) (cls target inc addr len : Nat)
    (data : Option (List Byte × List (Nat × Nat))) : Nat × State :=
  let id := s.fab.nextRemote
  let c := s.core k
  let r : RemoteReq := ⟨id, k.val, c.disp.ctxid.toNat, c.pasid, who, loc, ea, cls, target, inc, addr, len, data.isSome, s.time⟩
  let s1 := s.setFab { s.fab with nextRemote := id + 1, remote := s.fab.remote ++ [r] }
  (id, s1.sendOut (s.coreFalls k) target (match data with
    | some d => .remoteWrite id target inc addr d.1 d.2
    | none => .remoteRead id target inc addr len))

/-- Whether the context has a store under way in a class named (R203, R347). -/
def storesPending (s : State) (k : Fin 128) (c : CtxId) (has : Nat → Bool) : Bool :=
  s.fab.remote.any fun r => r.core == k.val && r.who == .context c && r.write && has r.cls

/-- Whether the context has a store under way to bytes of another package that an access touches (R191, R346). -/
def storesTouch (s : State) (k : Fin 128) (c : CtxId) (target addr n : Nat) : Bool :=
  s.fab.remote.any fun r => r.core == k.val && r.who == .context c && r.write && r.target == target &&
    decide (r.addr < addr + n) && decide (addr < r.addr + r.len)

/-- A load through a remote page leaves, and the context waits for the target's answer. -/
def State.remoteLoad (s : State) (k : Fin 128) (c : CtxId) (ea : W64) (cls target inc addr n : Nat) : State :=
  let r := s.sendRemote k (.context c) (s.ctx k c).pc ea cls target inc addr n none
  r.2.setCtx k c { s.ctx k c with remote := some ⟨r.1, none⟩ }

/-! ### Bytes of loads and stores by a context (R188 to R191, R287) -/

/-- What an access of a context comes to: bytes, a fault, or a wait in a state that may have changed. -/
inductive Got (α : Type) where
  | ok (a : α) (s : State)
  | trap (t : Trap)
  | wait (s : State)

/-- A FIFO bank's entries (R287). -/
def Quad.entries (q : Quad) (b : Nat) : List W64 := sget [] q.fifo b
def Quad.setEntries (q : Quad) (b : Nat) (l : List W64) : Quad := { q with fifo := sset [] q.fifo b l }
def fifoCap : Nat := 131072

/-- The FIFO bank and its bank offset that an access of a context of `n` bytes reaches, where it reaches one (R189, R287). -/
def State.fifoOf (s : State) (q : Fin 32) (off : Nat) : Option (Nat × Nat) :=
  let b := bankOf off
  if !(s.quad q).isSwitching b && (s.quad q).bankMode b == modeFifo then some (b, off % 2 ^ 20) else none

/-- A load of `n` bytes at ea by a context, aligned (R188, R189, R190, R287). A load that has been sent to another package takes
the answer, whatever has become of the aperture since (R148). -/
def State.loadBytes (s : State) (k : Fin 128) (c : CtxId) (ea : W64) (cls n : Nat) : Got (List Byte) :=
  match (s.ctx k c).remote with
  | some ⟨_, some (.bytes d)⟩ => .ok d (s.setCtx k c { s.ctx k c with remote := none })
  | some _ => .wait s
  | none =>
  if storesPending s k c (· == cls) then .wait s
  else match spaceOf k ea with
  | none => .trap (.at .perm ea)
  | some (.sram q off) =>
    (match s.fifoOf q off with
    | some (b, o) =>
      let x := s.quad q
      if n ≠ 8 then .trap (.at .align ea)
      else if !s.gangInQuad k q || (o != 0 && o != 8) then .trap (.at .perm ea)
      else if o = 8 then .ok (leBytesOf 8 (x.entries b).length) s
      else (match x.entries b with
        | [] => .wait s
        | v :: t => .ok (leBytesOf 8 v.toNat) (s.setQuad q (x.setEntries b t)))
    | none =>
      match s.padCheck k ea q off n with
      | .trap t => .trap t
      | .wait => .wait s
      | .ok _ =>
        match s.mem.poisonedAt (sramFlat q off) n with
        | some sec => .trap (poisonTrap ea sec)
        | none => .ok (s.mem.read (sramFlat q off) n) s)
  | some (.virt va) =>
    match s.virtual k va n .read with
    | .error t => .trap t
    | .ok (ds, s1) =>
      match ds with
      | (.here flat _, _) :: _ =>
        (match s1.l1Load k ea flat n with
        | .ok (bs, s2) => .ok bs s2
        | .trap t => .trap t
        | .wait => .wait s1)
      | (.remote target inc addr, _) :: _ =>
        .wait (if storesTouch s k c target addr n then s1 else s1.remoteLoad k c ea cls target inc addr n)
      | [] => .ok [] s1

/-- A store of bytes at ea by a context, aligned (R188, R189, R190, R287, R300). It waits, as a load does, for the context's earlier
stores through remote pages in its class or to its bytes (R346). -/
def State.storeBytes (s : State) (k : Fin 128) (c : CtxId) (ea : W64) (cls : Nat) (bs : List Byte) : Got Unit :=
  if storesPending s k c (· == cls) then .wait s
  else match spaceOf k ea with
  | none => .trap (.at .perm ea)
  | some (.sram q off) =>
    (match s.fifoOf q off with
    | some (b, o) =>
      let x := s.quad q
      if bs.length ≠ 8 then .trap (.at .align ea)
      else if !s.gangInQuad k q || o != 0 then .trap (.at .perm ea)
      else if fifoCap ≤ (x.entries b).length then .wait s
      else .ok () (s.setQuad q (x.setEntries b (x.entries b ++ [w64 (leNum bs)])))
    | none =>
      match s.padCheck k ea q off bs.length with
      | .trap t => .trap t
      | .wait => .wait s
      | .ok _ => .ok () (s.setMem (s.mem.write (sramFlat q off) bs)))
  | some (.virt va) =>
    match s.virtual k va bs.length .write with
    | .error t => .trap t
    | .ok (ds, s1) =>
      match ds with
      | (.here flat _, _) :: _ =>
        (match s1.l1Store k ea flat bs with
        | .ok s2 => .ok () s2
        | .trap t => .trap t
        | .wait => .wait s1)
      | (.remote target inc addr, _) :: _ =>
        if storesTouch s k c target addr bs.length then .wait s1
        else .ok () (s1.sendRemote k (.context c) (s1.ctx k c).pc ea cls target inc addr bs.length (some (bs, []))).2
      | [] => .ok () s1

/-- Runs an access of a context: a fault is raised on the word, a wait leaves the context at its word. -/
def Got.run {α : Type} (g : Got α) (s : State) (k : Fin 128) (c : CtxId) (f : α → State → Out) : Out :=
  match g with
  | .ok a s1 => f a s1
  | .trap t => .next (s.raiseCtx k c t)
  | .wait s1 => .next s1

end Sys2Proof.Machine
end

