-- ==== Sys2Proof/Machine/Operands.lean ====
section
/-! DEFINITION. The operand forms of control-core words (R84, R198, R199): immediates and effective addresses. The tile
operands of engine words stand in Machine/Tiles.lean. -/

namespace Sys2Proof.Machine

/-- sext(imm12) (R84). -/
def imm64 (i : BitVec 12) : W64 := i.signExtend 64
/-- sext(imm17) << 12 (R195). -/
def immU (i : BitVec 17) : W64 := i.signExtend 64 <<< 12
/-- 4 * sext(off22) (R197). -/
def immB (i : BitVec 22) : W64 := i.signExtend 64 <<< 2
/-- x[rs1] + sext(imm8) * size (R198). -/
def eaM (x : Ctx) (ra : Fin 32) (imm : BitVec 8) (size : Nat) : W64 :=
  x.getX ra + imm.signExtend 64 * w64 size
/-- x[rs1] + sext(imm6) * 8 (R199). -/
def eaFE (x : Ctx) (ra : Fin 32) (imm : BitVec 6) : W64 := x.getX ra + imm.signExtend 64 * 8

/-- Whether an address is a multiple of a power of two. -/
def isAligned (a : W64) (n : Nat) : Bool := a.toNat % n == 0

/-- The instance of a core (R187). -/
def State.instOf (s : State) (k : Fin 128) : Option Inst :=
  match (s.core k).inst with
  | some n => s.cmd.insts.find? (·.ctxid == n)
  | none => none

/-- The cores of a core's gang; a core that holds no instance is alone. -/
def State.gangOf (s : State) (k : Fin 128) : List (Fin 128) :=
  match s.instOf k with
  | some i => (List.range i.ncores).map fun j => coreIx (i.base + j)
  | none => [k]

/-- Whether a task record gives an agent (0 to 5: LD, CP, ST, A, V, C) a part (R130, R187). -/
def TaskRec.addr (r : TaskRec) (agent part : Nat) : W64 := nth 0 r.agents (agent * 3 + part)
def TaskRec.hasPart (r : TaskRec) (agent part : Nat) : Bool := r.addr agent part != 0
def TaskRec.hasAny (r : TaskRec) (agent : Nat) : Bool := r.hasPart agent 0 || r.hasPart agent 1 || r.hasPart agent 2
def Part.num : Part → Nat
  | .prologue => 0 | .kernel => 1 | .epilogue => 2

end Sys2Proof.Machine
end

