-- ==== Sys2Proof/Machine/Alu.lean ====
section
/-! DEFINITION. Integer arithmetic, compares, predicates and branches of the control core (R192 to R197). -/

namespace Sys2Proof.Machine

/-! ### Integer arithmetic (R192, R193) -/

/-- The shift amount b<5:0> (R192). -/
def shAmt (b : W64) : Nat := b.toNat % 64
/-- Bits [127:64] of the signed and of the unsigned product (R192). -/
def mulHigh (a b : W64) : W64 := BitVec.ofInt 64 ((a.toInt * b.toInt) / 2 ^ 64)
def mulHighU (a b : W64) : W64 := BitVec.ofNat 64 (a.toNat * b.toNat / 2 ^ 64)
/-- Division never traps (R193). -/
def divS (a b : W64) : W64 := if b = 0 then BitVec.allOnes 64 else BitVec.ofInt 64 (a.toInt.tdiv b.toInt)
def divU (a b : W64) : W64 := if b = 0 then BitVec.allOnes 64 else BitVec.ofNat 64 (a.toNat / b.toNat)
def remS (a b : W64) : W64 := if b = 0 then a else BitVec.ofInt 64 (a.toInt.tmod b.toInt)
def remU (a b : W64) : W64 := if b = 0 then a else BitVec.ofNat 64 (a.toNat % b.toNat)
def minS (a b : W64) : W64 := if b.slt a then b else a
def maxS (a b : W64) : W64 := if a.slt b then b else a
def minU (a b : W64) : W64 := if b.ult a then b else a
def maxU (a b : W64) : W64 := if a.ult b then b else a
/-- Number of leading zero bits, 0 to 64 (R192). -/
def clz64 (a : W64) : W64 := if a = 0 then 64 else BitVec.ofNat 64 (63 - Nat.log2 a.toNat)
/-- Number of one bits (R192). -/
def popc64 (a : W64) : W64 := BitVec.ofNat 64 ((List.range 64).filter fun i => a.getLsbD i).length

/-- A word of the ALU-R group with two sources (R192). -/
def aluR (f : W64 → W64 → W64) (g : Guard) (rd ra rb : Fin 32) (s : State) : Out :=
  ctlX s g rd fun x => f (x.getX ra) (x.getX rb)
/-- A word of the ALU-R group with one source (R192). -/
def aluR1 (f : W64 → W64) (g : Guard) (rd ra : Fin 32) (s : State) : Out := ctlX s g rd fun x => f (x.getX ra)

def execAdd (g : Guard) (rd ra rb : Fin 32) (s : State) : Out := aluR (fun a b => a + b) g rd ra rb s
def execSub (g : Guard) (rd ra rb : Fin 32) (s : State) : Out := aluR (fun a b => a - b) g rd ra rb s
def execAnd (g : Guard) (rd ra rb : Fin 32) (s : State) : Out := aluR (fun a b => a &&& b) g rd ra rb s
def execOr (g : Guard) (rd ra rb : Fin 32) (s : State) : Out := aluR (fun a b => a ||| b) g rd ra rb s
def execXor (g : Guard) (rd ra rb : Fin 32) (s : State) : Out := aluR (fun a b => a ^^^ b) g rd ra rb s
def execSll (g : Guard) (rd ra rb : Fin 32) (s : State) : Out := aluR (fun a b => a <<< shAmt b) g rd ra rb s
def execSrl (g : Guard) (rd ra rb : Fin 32) (s : State) : Out := aluR (fun a b => a >>> shAmt b) g rd ra rb s
def execSra (g : Guard) (rd ra rb : Fin 32) (s : State) : Out := aluR (fun a b => a.sshiftRight (shAmt b)) g rd ra rb s
def execMul (g : Guard) (rd ra rb : Fin 32) (s : State) : Out := aluR (fun a b => a * b) g rd ra rb s
def execMulh (g : Guard) (rd ra rb : Fin 32) (s : State) : Out := aluR (fun a b => mulHigh a b) g rd ra rb s
def execMulhu (g : Guard) (rd ra rb : Fin 32) (s : State) : Out := aluR (fun a b => mulHighU a b) g rd ra rb s
def execDiv (g : Guard) (rd ra rb : Fin 32) (s : State) : Out := aluR (fun a b => divS a b) g rd ra rb s
def execDivu (g : Guard) (rd ra rb : Fin 32) (s : State) : Out := aluR (fun a b => divU a b) g rd ra rb s
def execRem (g : Guard) (rd ra rb : Fin 32) (s : State) : Out := aluR (fun a b => remS a b) g rd ra rb s
def execRemu (g : Guard) (rd ra rb : Fin 32) (s : State) : Out := aluR (fun a b => remU a b) g rd ra rb s
def execMin (g : Guard) (rd ra rb : Fin 32) (s : State) : Out := aluR (fun a b => minS a b) g rd ra rb s
def execMax (g : Guard) (rd ra rb : Fin 32) (s : State) : Out := aluR (fun a b => maxS a b) g rd ra rb s
def execMinu (g : Guard) (rd ra rb : Fin 32) (s : State) : Out := aluR (fun a b => minU a b) g rd ra rb s
def execMaxu (g : Guard) (rd ra rb : Fin 32) (s : State) : Out := aluR (fun a b => maxU a b) g rd ra rb s
def execClz (g : Guard) (rd ra : Fin 32) (s : State) : Out := aluR1 clz64 g rd ra s
def execPopc (g : Guard) (rd ra : Fin 32) (s : State) : Out := aluR1 popc64 g rd ra s
def execAndn (g : Guard) (rd ra rb : Fin 32) (s : State) : Out := aluR (fun a b => a &&& ~~~b) g rd ra rb s

/-! ### Immediates (R194, R195) -/

/-- A word with a signed 12-bit immediate (R194). -/
def aluI (f : W64 → W64 → W64) (g : Guard) (rd ra : Fin 32) (imm : BitVec 12) (s : State) : Out :=
  ctlX s g rd fun x => f (x.getX ra) (imm64 imm)

def execAddi (g : Guard) (rd ra : Fin 32) (imm : BitVec 12) (s : State) : Out := aluI (fun a b => a + b) g rd ra imm s
def execAndi (g : Guard) (rd ra : Fin 32) (imm : BitVec 12) (s : State) : Out := aluI (fun a b => a &&& b) g rd ra imm s
def execOri (g : Guard) (rd ra : Fin 32) (imm : BitVec 12) (s : State) : Out := aluI (fun a b => a ||| b) g rd ra imm s
def execXori (g : Guard) (rd ra : Fin 32) (imm : BitVec 12) (s : State) : Out := aluI (fun a b => a ^^^ b) g rd ra imm s
def execSlli (g : Guard) (rd ra : Fin 32) (sh : Fin 64) (s : State) : Out := ctlX s g rd fun x => x.getX ra <<< sh.val
def execSrli (g : Guard) (rd ra : Fin 32) (sh : Fin 64) (s : State) : Out := ctlX s g rd fun x => x.getX ra >>> sh.val
def execSrai (g : Guard) (rd ra : Fin 32) (sh : Fin 64) (s : State) : Out := ctlX s g rd fun x => (x.getX ra).sshiftRight sh.val
def execLiu (g : Guard) (rd : Fin 32) (imm : BitVec 17) (s : State) : Out := ctlX s g rd fun _ => immU imm
/-- PC is the address of the ADDPC word (R195). -/
def execAddpc (g : Guard) (rd : Fin 32) (imm : BitVec 17) (s : State) : Out := ctlX s g rd fun x => x.pc + immU imm

/-! ### Compares, predicates and selection (R196) -/

def execCmp (g : Guard) (pd : Fin 8) (ra rb : Fin 32) (c : Cond) (s : State) : Out :=
  ctlP s g pd fun x => condHolds c (x.getX ra) (x.getX rb)
def execCmpi (g : Guard) (c : Cond) (pd : Fin 8) (ra : Fin 32) (imm : BitVec 12) (s : State) : Out :=
  ctlP s g pd fun x => condHolds c (x.getX ra) (imm64 imm)
def execPlog (g : Guard) (pd pa pb : Fin 8) (t : BitVec 4) (s : State) : Out :=
  ctlP s g pd fun x => plogBit t (x.getP pa) (x.getP pb)
def execSel (g : Guard) (rd ra rb : Fin 32) (pc : Fin 8) (s : State) : Out :=
  ctlX s g rd fun x => if x.getP pc then x.getX ra else x.getX rb

/-! ### Branches (R197) -/

def execBr (g : Guard) (off : BitVec 22) (s : State) : Out :=
  ctl s g fun k c x => .next (s.setCtx k c (x.setPc (x.pc + immB off)))
/-- The link goes into x31 (R197). -/
def execJal (g : Guard) (off : BitVec 22) (s : State) : Out :=
  ctl s g fun k c x => .next (s.setCtx k c ((x.setX 31 (x.pc + 4)).setPc (x.pc + immB off)))
/-- x[rs1] is read before x[rd] is written; a target that is no multiple of 4 faults ALIGN (R197). -/
def execJalr (g : Guard) (rd ra : Fin 32) (imm : BitVec 12) (s : State) : Out :=
  ctl s g fun k c x =>
    let t := x.getX ra + imm64 imm
    if !isAligned t 4 then .next (s.raiseCtx k c (.at .align t))
    else .next (s.setCtx k c ((x.setX rd (x.pc + 4)).setPc t))

end Sys2Proof.Machine
end

