-- ==== Sys2Proof/WellFormed.lean ====
section
/-! DEFINITION. Which instructions have words: the bounds of R82, R83, R85 and R98 that the types of Syntax.lean do not
already say. -/

namespace Sys2Proof

/-- GS = 1 with GP = 0 is no guard (R83). -/
def Guard.wf (g : Guard) : Bool := !(g.gs && g.gp == 0)

/-- CMPI takes the four conditions of its two-bit field (R85). -/
def Cond.immediate : Cond → Bool
  | .eq | .ne | .lt | .ge => true
  | .ltu | .geu => false

/-- A mask of engines of JOIN, TWAIT and TPOST is not empty (R85). -/
def EngSet.wf (m : EngSet) : Bool := m.a || m.v || m.c

/-- The special registers that MOVTS may write (R64, R65). -/
def SpecReg.writable : SpecReg → Bool
  | .fcsr | .flags | .qbmode => true
  | _ => false

/-- An accumulator or tz takes DIR 0b00 only (R68, R87). -/
def Opnd.wf (o : Opnd) : Bool :=
  match o.ref with
  | .tile _ => true
  | .acc _ | .tz => o.dir == .r

/-- Which of the operand fields D, S1, S2, S3 an instruction names (R89, R322, R360). -/
structure Uses where
  d : Bool
  s1 : Bool
  s2 : Bool
  s3 : Bool
  deriving DecidableEq, Repr

/-- A used field holds an operand; an unused one is zero (R82, R87). -/
def Ops4.wf (u : Uses) (o : Ops4) : Bool :=
  (if u.d then o.d.wf else o.d == .zero) && (if u.s1 then o.s1.wf else o.s1 == .zero) &&
  (if u.s2 then o.s2.wf else o.s2 == .zero) && (if u.s3 then o.s3.wf else o.s3 == .zero)

def Uses.none : Uses := ⟨false, false, false, false⟩
def Uses.d1 : Uses := ⟨true, false, false, false⟩
def Uses.ds : Uses := ⟨true, true, false, false⟩
def Uses.dss : Uses := ⟨true, true, true, false⟩
def Uses.dsss : Uses := ⟨true, true, true, true⟩
def Uses.s : Uses := ⟨false, true, false, false⟩
def Uses.ss : Uses := ⟨false, true, true, false⟩

/-- The bounds that an instruction's words obey. An event of the table has no word: it is well formed as it stands. -/
def Instr.wf : Instr → Bool
  | .add g _ _ _ => g.wf
  | .sub g _ _ _ => g.wf
  | .and g _ _ _ => g.wf
  | .or g _ _ _ => g.wf
  | .xor g _ _ _ => g.wf
  | .sll g _ _ _ => g.wf
  | .srl g _ _ _ => g.wf
  | .sra g _ _ _ => g.wf
  | .mul g _ _ _ => g.wf
  | .mulh g _ _ _ => g.wf
  | .mulhu g _ _ _ => g.wf
  | .div g _ _ _ => g.wf
  | .divu g _ _ _ => g.wf
  | .rem g _ _ _ => g.wf
  | .remu g _ _ _ => g.wf
  | .min g _ _ _ => g.wf
  | .max g _ _ _ => g.wf
  | .minu g _ _ _ => g.wf
  | .maxu g _ _ _ => g.wf
  | .clz g _ _ => g.wf
  | .popc g _ _ => g.wf
  | .andn g _ _ _ => g.wf
  | .addi g _ _ _ => g.wf
  | .andi g _ _ _ => g.wf
  | .ori g _ _ _ => g.wf
  | .xori g _ _ _ => g.wf
  | .slli g _ _ _ => g.wf
  | .srli g _ _ _ => g.wf
  | .srai g _ _ _ => g.wf
  | .liu g _ _ => g.wf
  | .addpc g _ _ => g.wf
  | .cmp g _ _ _ _ => g.wf
  | .cmpi g c _ _ _ => g.wf && c.immediate
  | .plog g _ _ _ _ => g.wf
  | .sel g _ _ _ _ => g.wf
  | .br g _ => g.wf
  | .jal g _ => g.wf
  | .jalr g _ _ _ => g.wf
  | .ldb g _ _ _ _ => g.wf
  | .ldh g _ _ _ _ => g.wf
  | .ldw g _ _ _ _ => g.wf
  | .ldd g _ _ _ _ => g.wf
  | .ldbu g _ _ _ _ => g.wf
  | .ldhu g _ _ _ _ => g.wf
  | .ldwu g _ _ _ _ => g.wf
  | .ldfeW g _ _ _ _ => g.wf
  | .ldfeE g _ _ _ _ => g.wf
  | .ldfeN g _ _ _ _ => g.wf
  | .stb g _ _ _ _ => g.wf
  | .sth g _ _ _ _ => g.wf
  | .stw g _ _ _ _ => g.wf
  | .std g _ _ _ _ => g.wf
  | .stfeF g _ _ _ _ => g.wf
  | .stfeWe g _ _ _ _ => g.wf
  | .feqQ g _ _ _ _ => g.wf
  | .feqClr g _ _ _ => g.wf
  | .feqSet g _ _ _ => g.wf
  | .invr g _ _ => g.wf
  | .wbr g _ _ => g.wf
  | .wbinvr g _ _ => g.wf
  | .invi g => g.wf
  | .fenceCls g _ => g.wf
  | .fenceRel g _ _ => g.wf
  | .fenceAcq g _ _ => g.wf
  | .fenceAr g _ _ => g.wf
  | .amoSwap g _ _ _ _ _ => g.wf
  | .amoAdd g _ _ _ _ _ => g.wf
  | .amoAnd g _ _ _ _ _ => g.wf
  | .amoOr g _ _ _ _ _ => g.wf
  | .amoXor g _ _ _ _ _ => g.wf
  | .amoMin g _ _ _ _ _ => g.wf
  | .amoMax g _ _ _ _ _ => g.wf
  | .amoMinu g _ _ _ _ _ => g.wf
  | .amoMaxu g _ _ _ _ _ => g.wf
  | .amoFadd g _ _ _ _ => g.wf
  | .amoCas g _ _ _ _ _ => g.wf
  | .redAdd g _ _ _ _ => g.wf
  | .redAnd g _ _ _ _ => g.wf
  | .redOr g _ _ _ _ => g.wf
  | .redXor g _ _ _ _ => g.wf
  | .redMin g _ _ _ _ => g.wf
  | .redMax g _ _ _ _ => g.wf
  | .redMinu g _ _ _ _ => g.wf
  | .redMaxu g _ _ _ _ => g.wf
  | .redFadd g _ _ _ => g.wf
  | .qpush g _ _ _ _ => g.wf
  | .qpop g _ _ _ _ => g.wf
  | .racqP g _ _ => g.wf
  | .racqC g _ _ => g.wf
  | .rrelP g _ => g.wf
  | .rrelC g _ => g.wf
  | .fork g _ _ => g.wf
  | .join g m => g.wf && m.wf
  | .sete g _ _ => g.wf
  | .gete g _ _ => g.wf
  | .twait g m => g.wf && m.wf
  | .tpost g m => g.wf && m.wf
  | .setts g _ _ => g.wf
  | .getts g _ _ => g.wf
  | .barA g _ => g.wf
  | .barW g _ => g.wf
  | .barAw g _ => g.wf
  | .barTry g _ _ => g.wf
  | .trmSend g _ => g.wf
  | .trmIdle g => g.wf
  | .trmBusy g => g.wf
  | .trmTest g _ => g.wf
  | .movs g _ _ => g.wf
  | .movts g _ r => g.wf && r.writable
  | .trap g _ => g.wf
  | .yield g => g.wf
  | .done g => g.wf
  | .instructionFetch .. | .enop .. | .ehalt .. => true
  | .eskip _ e cond n => n != 0 && (e == 0 || cond == .eqz || cond == .nez || cond == .ltz || cond == .gez)
  | .eflag .. | .sectionFetch .. | .sectionExecute .. | .engineWordComplete .. => true
  | .azero w => w.ops.wf .d1
  | .amma w => w.ops.wf .dss
  | .ammas w => w.ops.wf .dsss
  | .ammaz w => w.ops.wf .dsss
  | .atbld w => w.ops.wf .ss
  | .atmma w => w.ops.wf .ds
  | .adist w => w.ops.wf .dss
  | .aargmin w => w.ops.wf .ds
  | .adrain w => w.ops.wf .dss
  | .adrainm w => w.ops.wf .ss
  | .adrainmStoresAccepted _ => true
  | .ascacc w => w.ops.wf .dsss
  | .acent w => w.ops.wf .dss
  | .acdiv w => w.ops.wf .ds
  | .aaccld w => w.ops.wf .ds
  | .aaccst w => w.ops.wf .ds
  | .amova w => w.ops.wf .ds
  | .vadd w => w.ops.wf .dss
  | .vsub w => w.ops.wf .dss
  | .vmul w => w.ops.wf .dss
  | .vfma w => w.ops.wf .dsss
  | .vmin w => w.ops.wf .dss
  | .vmax w => w.ops.wf .dss
  | .vabs w => w.ops.wf .ds
  | .vneg w => w.ops.wf .ds
  | .vrcp w => w.ops.wf .ds
  | .vrsq w => w.ops.wf .ds
  | .vexp2 w => w.ops.wf .ds
  | .vlog2 w => w.ops.wf .ds
  | .vscale w => w.ops.wf .ds
  | .vclamp w => w.ops.wf .ds
  | .vcmp w => w.ops.wf .ss
  | .vclass w => w.ops.wf .s
  | .viadd w => w.ops.wf .dss
  | .visub w => w.ops.wf .dss
  | .vimul w => w.ops.wf .dss
  | .vimin w => w.ops.wf .dss
  | .vimax w => w.ops.wf .dss
  | .vand w => w.ops.wf .dss
  | .vor w => w.ops.wf .dss
  | .vxor w => w.ops.wf .dss
  | .vshl w => w.ops.wf .ds
  | .vshr w => w.ops.wf .ds
  | .vpopc w => w.ops.wf .ds
  | .vicmp w => w.ops.wf .ss
  | .viota w => w.ops.wf .d1
  | .vcvt w => w.ops.wf .ds
  | .vquant w => w.ops.wf .ds
  | .vbmax w => w.ops.wf .ds
  | .vpack w => w.ops.wf .dss
  | .vunpk w => w.ops.wf .ds
  | .vspars w => w.ops.wf .dss
  | .vzbm w => w.ops.wf .ds
  | .vrsum w => w.ops.wf .ds
  | .vrmax w => w.ops.wf .ds
  | .vrmin w => w.ops.wf .ds
  | .vramax w => w.ops.wf .ds
  | .vcsum w => w.ops.wf .ds
  | .vscan w => w.ops.wf .ds
  | .vmov w => w.ops.wf .ds
  | .vtrans w => w.ops.wf .ds
  | .vbcast w => w.ops.wf .ds
  | .vshuf w => w.ops.wf .dss
  | .vrot w => w.ops.wf .ds
  | .vsel w => w.ops.wf .dss
  | .vext w => w.ops.wf .s
  | .vins w => w.ops.wf .d1
  | .vfill w => w.ops.wf .d1
  | .vmlog w => w.ops.wf .none
  | .vmpop w => w.ops.wf .none
  | .vmfirst w => w.ops.wf .none
  | .vsfc w => w.ops.wf .dsss
  | .vhist w => w.ops.wf .dss
  | .cld w => w.ops.wf .d1
  | .cst w => w.ops.wf .s
  | .ccpy w => w.ops.wf .none
  | .cfill w => w.ops.wf .none
  | .cwin w => w.ops.wf .none
  | .cadv w => w.ops.wf .none
  | .windowGranuleLand _ _ => true
  | .cgath w => w.ops.wf .ds
  | .cscat w => w.ops.wf .ss
  | .copyDataReturn .. | .copyWriteAccept .. => true
  | .cdec w => w.ops.wf .none
  | .cenc w => w.ops.wf .none
  | .cxfm w => w.ops.wf .none
  | .cstash w => w.ops.wf .s
  | .cunst w => w.ops.wf .d1
  | .csdrop w => w.ops.wf .none
  | .cbat w => w.ops.wf .ss
  | .csend w => w.ops.wf .s
  | .crecv w => w.ops.wf .d1
  | .cchstStat w => w.ops.wf .none && w.mod.dfmt.val % 4 == 0
  | .cchstGrant w => w.ops.wf .none && w.mod.dfmt.val % 4 == 1
  | .cringSum w => w.ops.wf .none && w.mod.cx.val % 4 == 0
  | .cringMax w => w.ops.wf .none && w.mod.cx.val % 4 == 1
  | .cringBcast w => w.ops.wf .none && w.mod.cx.val % 4 == 2
  | .crepart w => w.ops.wf .none
  | .cpin w => w.ops.wf .none
  | .cunpin w => w.ops.wf .none
  | .cpref w => w.ops.wf .none
  | .cflush w => w.ops.wf .none
  | .cmetaRead w => w.ops.wf .d1 && w.mod.cx.val % 2 == 0
  | .cmetaWrite w => w.ops.wf .s && w.mod.cx.val % 2 == 1
  | .kick .. | .tailReadReturn .. | .queueEnable .. | .queueDisable .. | .recordEnter .. | .nop .. | .task .. | .stage ..
  | .xform .. | .coll .. | .signal .. | .wait .. | .waitPoll .. | .waitTimeout .. | .nodeComplete .. | .cplheadReread ..
  | .msixUnmask .. | .leasePhase .. | .noticeackRetry .. | .noticeackFail .. | .nqcfgWrite .. | .nqheadWrite ..
  | .tlbInvalidate .. | .tlbInvalidateDone | .atsInvalidate .. | .bar4Read .. | .bar4Write .. | .registerWrite ..
  | .placeNode | .placementReserve .. | .preemptTimeout .. | .contextSave .. | .contextResume .. | .partStart ..
  | .rendezvous .. | .iterLong .. | .retire .. | .faultTeardown .. | .frheadWrite .. | .podBarrierArrival ..
  | .trmTokenPass .. | .mbsEvaluate .. | .starveExpiry .. | .spanReportReceive .. | .spanPickReceive .. | .spanStartTime ..
  | .spanMemberLost .. | .firnWriteDone .. | .firnFillDone .. | .bankSwitchComplete .. | .neveDisplace .. | .poisonDetect ..
  | .memoryEventRecord | .rowActivation .. | .rowRefresh .. | .promoteCount .. | .acreset .. | .tierHigh .. | .tierLow ..
  | .rgcmd .. | .rgcmdDone | .tmcmd .. | .tierMoveDone | .calvctlGo .. | .calvMapLoaded | .calvLineCopy .. | .calvMoveDone
  | .calvSettleDone | .phase .. | .channelEndOpen .. | .channelEndClose .. | .messageDelivered .. | .messageConfirm ..
  | .ackReceive .. | .channelBroken .. | .batchReceive .. | .batchReply .. | .batchResend .. | .remoteRequest ..
  | .resetNak .. | .remoteTimeout .. | .incarnationAnnounce .. | .ringChunkReceive .. | .driftLoadsReceive ..
  | .driftOfferReceive .. | .driftRecordsReceive .. | .powerControlTick .. | .trip .. | .linkRetrain | .parkRequest
  | .parkedEnter | .parkClear | .correctedError .. | .stackWarnWindow .. | .load | .commit | .enrol | .unenrol | .quote
  | .coldReset | .warmReset | .illegalOpcode .. | .torusPortDown .. | .torusPortUp .. | .powerLoss | .fwcmdComplete
  | .firmwareError => true

end Sys2Proof
end

