-- ==== Sys2Proof/Decode.lean ====
section
/-! DEFINITION. The decoder of both instruction words, total and rejecting by name (R81 to R103), and after it the
encoder written from the same tables. -/

namespace Sys2Proof

/-- The field of `len` bits of `w` from bit `lo` (R1). -/
def bitsAt (w lo len : Nat) : Nat := w / 2 ^ lo % 2 ^ len

def Guard.ofNat (gs gp : Nat) : Guard := ⟨gs == 1, Fin.ofNat 8 gp⟩
def Guard.toNat (g : Guard) : Nat := (if g.gs then 2 ^ 31 else 0) + g.gp.val * 2 ^ 28

/-- The condition codes of CMP (R85). -/
def Cond.ofCode : Nat → Option Cond
  | 0 => some .eq | 1 => some .ne | 2 => some .lt | 3 => some .ge | 4 => some .ltu | 5 => some .geu | _ => none
def Cond.toCode : Cond → Nat
  | .eq => 0 | .ne => 1 | .lt => 2 | .ge => 3 | .ltu => 4 | .geu => 5

/-- The scope codes of R11; 5 to 7 are unassigned. -/
def Scope.ofCode : Nat → Option Scope
  | 0 => some .core | 1 => some .quad | 2 => some .die | 3 => some .package | 4 => some .pod | _ => none
def Scope.toCode : Scope → Nat
  | .core => 0 | .quad => 1 | .die => 2 | .package => 3 | .pod => 4

/-- The engine codes of FORK and of a section header (R85, R100). -/
def Engine.ofCode : Nat → Option Engine
  | 1 => some .a | 2 => some .v | 3 => some .c | _ => none
def Engine.toCode : Engine → Nat
  | .a => 1 | .v => 2 | .c => 3

def EngSet.ofNat (m : Nat) : EngSet := ⟨m / 4 % 2 == 1, m / 2 % 2 == 1, m % 2 == 1⟩
def EngSet.toNat (m : EngSet) : Nat := (if m.a then 4 else 0) + (if m.v then 2 else 0) + (if m.c then 1 else 0)

/-- The selectors of the special registers (R64). -/
def SpecReg.ofSel (n : Nat) : Option SpecReg :=
  match n with
  | 0x000 => some .tag | 0x001 => some .phase | 0x002 => some .wver | 0x003 => some .stage
  | 0x004 => some .gang | 0x005 => some .grank | 0x006 => some .iter | 0x007 => some .trip
  | 0x008 => some .ctxid | 0x010 => some .core | 0x011 => some .quad | 0x012 => some .die
  | 0x013 => some .pkg | 0x014 => some .podx | 0x015 => some .pody | 0x016 => some .podz
  | 0x020 => some .cyc | 0x021 => some .time | 0x030 => some .fcsr | 0x031 => some .flags
  | 0x040 => some .hwb | 0x041 => some .hwl | 0x042 => some .hwo | 0x050 => some .qbmode
  | 0x060 => some (.pinb 0) | 0x061 => some (.pinb 1) | 0x062 => some (.pinb 2) | 0x063 => some (.pinb 3)
  | 0x068 => some (.pinl 0) | 0x069 => some (.pinl 1) | 0x06A => some (.pinl 2) | 0x06B => some (.pinl 3)
  | _ => none

def SpecReg.toSel : SpecReg → Nat
  | .tag => 0x000 | .phase => 0x001 | .wver => 0x002 | .stage => 0x003 | .gang => 0x004 | .grank => 0x005
  | .iter => 0x006 | .trip => 0x007 | .ctxid => 0x008 | .core => 0x010 | .quad => 0x011 | .die => 0x012
  | .pkg => 0x013 | .podx => 0x014 | .pody => 0x015 | .podz => 0x016 | .cyc => 0x020 | .time => 0x021
  | .fcsr => 0x030 | .flags => 0x031 | .hwb => 0x040 | .hwl => 0x041 | .hwo => 0x042 | .qbmode => 0x050
  | .pinb r => 0x060 + r.val | .pinl r => 0x068 + r.val

/-- An answer when `c` holds, ILLEGAL_OPCODE otherwise (R82: a nonzero unused field of a control-core word). -/
def orOpcode (c : Bool) (i : Instr) : Except DecodeFault Instr :=
  if c then .ok i else .error .illegalOpcode

def optOpcode {α : Type} (o : Option α) (f : α → Except DecodeFault Instr) : Except DecodeFault Instr :=
  match o with
  | some x => f x
  | none => .error .illegalOpcode

/-- The ALU-R group, by fn7 (R85). -/
def decodeAluR (g : Guard) (rd ra rb : Fin 32) (fn : Nat) : Except DecodeFault Instr :=
  match fn with
  | 0x00 => .ok (.add g rd ra rb)
  | 0x01 => .ok (.sub g rd ra rb)
  | 0x02 => .ok (.and g rd ra rb)
  | 0x03 => .ok (.or g rd ra rb)
  | 0x04 => .ok (.xor g rd ra rb)
  | 0x05 => .ok (.sll g rd ra rb)
  | 0x06 => .ok (.srl g rd ra rb)
  | 0x07 => .ok (.sra g rd ra rb)
  | 0x08 => .ok (.mul g rd ra rb)
  | 0x09 => .ok (.mulh g rd ra rb)
  | 0x0A => .ok (.mulhu g rd ra rb)
  | 0x0B => .ok (.div g rd ra rb)
  | 0x0C => .ok (.divu g rd ra rb)
  | 0x0D => .ok (.rem g rd ra rb)
  | 0x0E => .ok (.remu g rd ra rb)
  | 0x0F => .ok (.min g rd ra rb)
  | 0x10 => .ok (.max g rd ra rb)
  | 0x11 => .ok (.minu g rd ra rb)
  | 0x12 => .ok (.maxu g rd ra rb)
  | 0x13 => orOpcode (rb == 0) (.clz g rd ra)
  | 0x14 => orOpcode (rb == 0) (.popc g rd ra)
  | 0x15 => .ok (.andn g rd ra rb)
  | _ => .error .illegalOpcode

/-- AMO, by the operation of fn7[3:0] (R85). -/
def decodeAmo (g : Guard) (rd ra rb : Fin 32) (cls : Fin 4) (dbl : Bool) (op : Nat) : Except DecodeFault Instr :=
  match op with
  | 0 => .ok (.amoSwap g rd ra rb cls dbl)
  | 1 => .ok (.amoAdd g rd ra rb cls dbl)
  | 2 => .ok (.amoAnd g rd ra rb cls dbl)
  | 3 => .ok (.amoOr g rd ra rb cls dbl)
  | 4 => .ok (.amoXor g rd ra rb cls dbl)
  | 5 => .ok (.amoMin g rd ra rb cls dbl)
  | 6 => .ok (.amoMax g rd ra rb cls dbl)
  | 7 => .ok (.amoMinu g rd ra rb cls dbl)
  | 8 => .ok (.amoMaxu g rd ra rb cls dbl)
  | 9 => orOpcode (!dbl) (.amoFadd g rd ra rb cls)
  | 10 => .ok (.amoCas g rd ra rb cls dbl)
  | _ => .error .illegalOpcode

/-- RED, by the operation of fn7[3:0]; SWAP and CAS are unassigned and rd is RSV (R85). -/
def decodeRed (g : Guard) (ra rb : Fin 32) (cls : Fin 4) (dbl : Bool) (op : Nat) : Except DecodeFault Instr :=
  match op with
  | 1 => .ok (.redAdd g ra rb cls dbl)
  | 2 => .ok (.redAnd g ra rb cls dbl)
  | 3 => .ok (.redOr g ra rb cls dbl)
  | 4 => .ok (.redXor g ra rb cls dbl)
  | 5 => .ok (.redMin g ra rb cls dbl)
  | 6 => .ok (.redMax g ra rb cls dbl)
  | 7 => .ok (.redMinu g ra rb cls dbl)
  | 8 => .ok (.redMaxu g ra rb cls dbl)
  | 9 => orOpcode (!dbl) (.redFadd g ra rb cls)
  | _ => .error .illegalOpcode

/-- FENCE, by its kind (R85): class-mask takes scope 0 only. -/
def decodeFence (g : Guard) (kind scope rsv : Nat) (mask : BitVec 16) : Except DecodeFault Instr :=
  if rsv != 0 then .error .illegalOpcode
  else match kind with
  | 0 => orOpcode (scope == 0) (.fenceCls g mask)
  | 1 => optOpcode (Scope.ofCode scope) fun sc => .ok (.fenceRel g sc mask)
  | 2 => optOpcode (Scope.ofCode scope) fun sc => .ok (.fenceAcq g sc mask)
  | _ => optOpcode (Scope.ofCode scope) fun sc => .ok (.fenceAr g sc mask)

/-- BAR, by its kind (R85). -/
def decodeBar (g : Guard) (kind scope mid pd low : Nat) : Except DecodeFault Instr :=
  if mid != 0 || low != 0 then .error .illegalOpcode
  else optOpcode (Scope.ofCode scope) fun sc =>
    match kind with
    | 0 => orOpcode (pd == 0) (.barA g sc)
    | 1 => orOpcode (pd == 0) (.barW g sc)
    | 2 => orOpcode (pd == 0) (.barAw g sc)
    | _ => .ok (.barTry g sc (Fin.ofNat 8 pd))

/-- TRM, by its operation (R85). -/
def decodeTrm (g : Guard) (op mid : Nat) (ra : Fin 32) (pd low : Nat) : Except DecodeFault Instr :=
  if mid != 0 || low != 0 then .error .illegalOpcode
  else match op with
  | 0 => orOpcode (pd == 0) (.trmSend g ra)
  | 1 => orOpcode (ra == 0 && pd == 0) (.trmIdle g)
  | 2 => orOpcode (ra == 0 && pd == 0) (.trmBusy g)
  | _ => orOpcode (ra == 0) (.trmTest g (Fin.ofNat 8 pd))

/-- A tile number of SETTS or GETTS above 47 faults ILLEGAL_OPERAND (R85). -/
def decodeTs (rsv : Bool) (n : Nat) (f : Fin 48 → Instr) : Except DecodeFault Instr :=
  if rsv then .error .illegalOpcode
  else if n < 48 then .ok (f (Fin.ofNat 48 n)) else .error .illegalOperand

/-- MOVS and MOVTS selectors (R65, R188). -/
def decodeMovs (rsv : Bool) (sel : Nat) (f : SpecReg → Instr) : Except DecodeFault Instr :=
  if rsv then .error .illegalOpcode
  else match SpecReg.ofSel sel with
  | some r => .ok (f r)
  | none => .error .illegalOperand

def decodeMovts (rsv : Bool) (sel : Nat) (f : SpecReg → Instr) : Except DecodeFault Instr :=
  if rsv then .error .illegalOpcode
  else match SpecReg.ofSel sel with
  | some r => if r.writable then .ok (f r) else .error .illegalOperand
  | none => .error .illegalOperand

/-- A control-core word by its major opcode (R85), under its guard; `b lo len` is the field of `len` bits from bit `lo`. -/
def decodeMajor (g : Guard) (b : Nat → Nat → Nat) (major : Nat) : Except DecodeFault Instr :=
  let rd := Fin.ofNat 32 (b 17 5)
  let ra := Fin.ofNat 32 (b 12 5)
  let rb := Fin.ofNat 32 (b 7 5)
  let fn := b 0 7
  let imm := BitVec.ofNat 12 (b 0 12)
  let cls := Fin.ofNat 16 (b 8 4)
  let imm8 := BitVec.ofNat 8 (b 0 8)
  let imm6 := BitVec.ofNat 6 (b 0 6)
  let low12 := b 0 12
  let pd := Fin.ofNat 8 (b 17 3)
  let rsvD := b 20 2 != 0
  match major with
  | 0x00 => decodeAluR g rd ra rb fn
  | 0x01 => .ok (.addi g rd ra imm)
  | 0x02 => .ok (.andi g rd ra imm)
  | 0x03 => .ok (.ori g rd ra imm)
  | 0x04 => .ok (.xori g rd ra imm)
  | 0x05 =>
    if b 6 4 != 0 then .error .illegalOpcode
    else match b 10 2 with
    | 0 => .ok (.slli g rd ra (Fin.ofNat 64 (b 0 6)))
    | 1 => .ok (.srli g rd ra (Fin.ofNat 64 (b 0 6)))
    | 2 => .ok (.srai g rd ra (Fin.ofNat 64 (b 0 6)))
    | _ => .error .illegalOpcode
  | 0x06 => .ok (.liu g rd (BitVec.ofNat 17 (b 0 17)))
  | 0x07 => .ok (.addpc g rd (BitVec.ofNat 17 (b 0 17)))
  | 0x08 =>
    if rsvD || b 3 4 != 0 then .error .illegalOpcode
    else optOpcode (Cond.ofCode (b 0 3)) fun c => .ok (.cmp g pd ra rb c)
  | 0x09 => optOpcode (Cond.ofCode (b 20 2)) fun c => .ok (.cmpi g c pd ra imm)
  | 0x0A => orOpcode (!rsvD && b 15 2 == 0 && b 10 2 == 0 && b 4 3 == 0)
      (.plog g pd (Fin.ofNat 8 (b 12 3)) (Fin.ofNat 8 (b 7 3)) (BitVec.ofNat 4 (b 0 4)))
  | 0x0B => orOpcode (b 3 4 == 0) (.sel g rd ra rb (Fin.ofNat 8 (b 0 3)))
  | 0x0C => .ok (.br g (BitVec.ofNat 22 (b 0 22)))
  | 0x0D => .ok (.jal g (BitVec.ofNat 22 (b 0 22)))
  | 0x0E => .ok (.jalr g rd ra imm)
  | 0x10 => .ok (.ldb g rd ra cls imm8)
  | 0x11 => .ok (.ldh g rd ra cls imm8)
  | 0x12 => .ok (.ldw g rd ra cls imm8)
  | 0x13 => .ok (.ldd g rd ra cls imm8)
  | 0x14 => .ok (.ldbu g rd ra cls imm8)
  | 0x15 => .ok (.ldhu g rd ra cls imm8)
  | 0x16 => .ok (.ldwu g rd ra cls imm8)
  | 0x17 => match b 6 2 with
    | 0 => .ok (.ldfeW g rd ra cls imm6)
    | 1 => .ok (.ldfeE g rd ra cls imm6)
    | 2 => .ok (.ldfeN g rd ra cls imm6)
    | _ => .error .illegalOpcode
  | 0x18 => .ok (.stb g rd ra cls imm8)
  | 0x19 => .ok (.sth g rd ra cls imm8)
  | 0x1A => .ok (.stw g rd ra cls imm8)
  | 0x1B => .ok (.std g rd ra cls imm8)
  | 0x1C => match b 6 2 with
    | 0 => .ok (.stfeF g rd ra cls imm6)
    | 1 => .ok (.stfeWe g rd ra cls imm6)
    | _ => .error .illegalOpcode
  | 0x1D => match b 6 2 with
    | 0 => .ok (.feqQ g rd ra cls imm6)
    | 1 => orOpcode (rd == 0) (.feqClr g ra cls imm6)
    | 2 => orOpcode (rd == 0) (.feqSet g ra cls imm6)
    | _ => .error .illegalOpcode
  | 0x1E =>
    if rd != 0 || b 2 5 != 0 then .error .illegalOpcode
    else match b 0 2 with
    | 0 => .ok (.invr g ra rb)
    | 1 => .ok (.wbr g ra rb)
    | 2 => .ok (.wbinvr g ra rb)
    | _ => orOpcode (ra == 0 && rb == 0) (.invi g)
  | 0x1F => decodeFence g (b 20 2) (b 17 3) (b 16 1) (BitVec.ofNat 16 (b 0 16))
  | 0x20 => decodeAmo g rd ra rb (Fin.ofNat 4 (b 5 2)) (b 4 1 == 1) (b 0 4)
  | 0x21 =>
    if rd != 0 then .error .illegalOpcode
    else decodeRed g ra rb (Fin.ofNat 4 (b 5 2)) (b 4 1 == 1) (b 0 4)
  | 0x22 => orOpcode (!rsvD && b 4 3 == 0) (.qpush g pd ra rb (Fin.ofNat 16 (b 0 4)))
  | 0x23 => orOpcode (b 10 2 == 0 && b 4 3 == 0)
      (.qpop g rd ra (Fin.ofNat 8 (b 7 3)) (Fin.ofNat 16 (b 0 4)))
  | 0x24 =>
    if ra != 0 || b 3 9 != 0 then .error .illegalOpcode
    else if b 2 1 == 0 then .ok (.racqP g rd (Fin.ofNat 4 (b 0 2)))
    else .ok (.racqC g rd (Fin.ofNat 4 (b 0 2)))
  | 0x25 =>
    if rd != 0 || ra != 0 || b 3 9 != 0 then .error .illegalOpcode
    else if b 2 1 == 0 then .ok (.rrelP g (Fin.ofNat 4 (b 0 2)))
    else .ok (.rrelC g (Fin.ofNat 4 (b 0 2)))
  | 0x28 =>
    if rd != 0 || b 2 10 != 0 then .error .illegalOpcode
    else optOpcode (Engine.ofCode (b 0 2)) fun e => .ok (.fork g ra e)
  | 0x29 => orOpcode (rd == 0 && ra == 0 && b 3 9 == 0 && b 0 3 != 0) (.join g (EngSet.ofNat (b 0 3)))
  | 0x2A => orOpcode (low12 == 0) (.sete g rd ra)
  | 0x2B => orOpcode (low12 == 0) (.gete g rd ra)
  | 0x2C => orOpcode (rd == 0 && ra == 0 && b 3 9 == 0 && b 0 3 != 0) (.twait g (EngSet.ofNat (b 0 3)))
  | 0x2D => orOpcode (rd == 0 && ra == 0 && b 3 9 == 0 && b 0 3 != 0) (.tpost g (EngSet.ofNat (b 0 3)))
  | 0x2E => decodeTs (rd != 0) low12 (fun t => .setts g ra t)
  | 0x2F => decodeTs (ra != 0) low12 (fun t => .getts g rd t)
  | 0x30 => decodeBar g (b 20 2) (b 17 3) (b 12 5) (b 9 3) (b 0 9)
  | 0x31 => decodeTrm g (b 20 2) (b 17 3) ra (b 9 3) (b 0 9)
  | 0x38 => decodeMovs (ra != 0) low12 (fun r => .movs g rd r)
  | 0x39 => decodeMovts (rd != 0) low12 (fun r => .movts g ra r)
  | 0x3A => orOpcode (rd == 0 && ra == 0) (.trap g imm)
  | 0x3B => orOpcode (b 0 22 == 0) (.yield g)
  | 0x3C => orOpcode (b 0 22 == 0) (.done g)
  | _ => .error .illegalOpcode

/-- A control-core word (R83 to R85). -/
def decodeControl (w : Nat) : Except DecodeFault Instr :=
  let g := Guard.ofNat (bitsAt w 31 1) (bitsAt w 28 3)
  if !g.wf then .error .illegalOpcode else decodeMajor g (bitsAt w) (bitsAt w 22 6)

/-! ### Engine words -/

def Dir.ofCode (n : Nat) : Dir :=
  match n with
  | 0 => .r | 1 => .c | 2 => .d | _ => .b
def Dir.toCode : Dir → Nat
  | .r => 0 | .c => 1 | .d => 2 | .b => 3

/-- A tile number (R87): 52 to 55 and 57 to 63 name nothing. -/
def TileRef.ofNat (n : Nat) : Option TileRef :=
  if n < 48 then some (.tile (Fin.ofNat 48 n))
  else if n < 52 then some (.acc (Fin.ofNat 4 (n - 48)))
  else if n = 56 then some .tz else none
def TileRef.toNat : TileRef → Nat
  | .tile n => n.val | .acc n => 48 + n.val | .tz => 56

/-- An operand field (R87). -/
def Opnd.ofNat (b : Nat) : Option Opnd :=
  match TileRef.ofNat (bitsAt b 0 6) with
  | some r => if (Opnd.mk (Dir.ofCode (bitsAt b 6 2)) r).wf then some ⟨Dir.ofCode (bitsAt b 6 2), r⟩ else none
  | none => none
def Opnd.toNat (o : Opnd) : Nat := o.dir.toCode * 64 + o.ref.toNat

/-- A field that the instruction names is an operand; one that it does not name is zero (R82). -/
def useField (u : Bool) (b : Nat) : Option Opnd :=
  if u then Opnd.ofNat b else if b = 0 then some .zero else none

/-- The four operand fields of a word (R86, R89). -/
def Ops4.ofNat (u : Uses) (w : Nat) : Option Ops4 :=
  match useField u.d (bitsAt w 72 8), useField u.s1 (bitsAt w 64 8), useField u.s2 (bitsAt w 56 8), useField u.s3 (bitsAt w 48 8) with
  | some d, some s1, some s2, some s3 => some ⟨d, s1, s2, s3⟩
  | _, _, _, _ => none
def Ops4.toNat (o : Ops4) : Nat :=
  o.d.toNat * 2 ^ 72 + o.s1.toNat * 2 ^ 64 + o.s2.toNat * 2 ^ 56 + o.s3.toNat * 2 ^ 48

def Tok.ofNat (w : Nat) : Tok := ⟨Fin.ofNat 8 (bitsAt w 85 3), Fin.ofNat 8 (bitsAt w 82 3)⟩
def Tok.toNat (t : Tok) : Nat := t.wt.val * 2 ^ 85 + t.pt.val * 2 ^ 82

def b01 (b : Bool) : Nat := if b then 1 else 0

/-- Layout AM (R92); none where a reserved bit is nonzero (R82). -/
def ModAM.ofNat (w : Nat) : Option ModAM :=
  if bitsAt w 0 4 ≠ 0 then none else
  some ⟨Fin.ofNat 16 (bitsAt w 44 4), Fin.ofNat 16 (bitsAt w 40 4), Fin.ofNat 128 (bitsAt w 33 7), Fin.ofNat 64 (bitsAt w 27 6), Fin.ofNat 64 (bitsAt w 21 6), Fin.ofNat 128 (bitsAt w 14 7), Fin.ofNat 128 (bitsAt w 7 7), Fin.ofNat 4 (bitsAt w 5 2), bitsAt w 4 1 == 1⟩
def ModAM.toNat (m : ModAM) : Nat :=
  m.fa.val * 2 ^ 44 + m.fb.val * 2 ^ 40 + m.kn.val * 2 ^ 33 + m.mr.val * 2 ^ 27 + m.nc.val * 2 ^ 21 + m.ra.val * 2 ^ 14 + m.rb.val * 2 ^ 7 + m.sel.val * 2 ^ 5 + b01 m.za * 2 ^ 4

/-- A word of layout AM under the operand use of R89, or ILLEGAL_OPERAND (R82). -/
def AmWord.decode (u : Uses) (w : Nat) (f : AmWord → Instr) : Except DecodeFault Instr :=
  if bitsAt w 80 2 ≠ 0 then .error .illegalOperand else
  match Ops4.ofNat u w, ModAM.ofNat w with
  | some o, some m => .ok (f ⟨Tok.ofNat w, o, m⟩)
  | _, _ => .error .illegalOperand
def AmWord.encode (x : AmWord) (opc : Nat) : Nat :=
  opc * 2 ^ 88 + x.tok.toNat + x.ops.toNat + x.mod.toNat

/-- Layout AT (R93); none where a reserved bit is nonzero (R82). -/
def ModAT.ofNat (w : Nat) : Option ModAT :=
  if bitsAt w 0 4 ≠ 0 then none else
  some ⟨Fin.ofNat 16 (bitsAt w 44 4), Fin.ofNat 16 (bitsAt w 40 4), Fin.ofNat 16 (bitsAt w 36 4), Fin.ofNat 32 (bitsAt w 31 5), bitsAt w 30 1 == 1, Fin.ofNat 64 (bitsAt w 24 6), Fin.ofNat 64 (bitsAt w 18 6), Fin.ofNat 128 (bitsAt w 11 7), Fin.ofNat 128 (bitsAt w 4 7)⟩
def ModAT.toNat (m : ModAT) : Nat :=
  m.fa.val * 2 ^ 44 + m.fb.val * 2 ^ 40 + m.tf.val * 2 ^ 36 + m.sub.val * 2 ^ 31 + b01 m.ncode * 2 ^ 30 + m.ds.val * 2 ^ 24 + m.nc.val * 2 ^ 18 + m.ra.val * 2 ^ 11 + m.rb.val * 2 ^ 4

/-- A word of layout AT under the operand use of R89, or ILLEGAL_OPERAND (R82). -/
def AtWord.decode (u : Uses) (w : Nat) (f : AtWord → Instr) : Except DecodeFault Instr :=
  if bitsAt w 80 2 ≠ 0 then .error .illegalOperand else
  match Ops4.ofNat u w, ModAT.ofNat w with
  | some o, some m => .ok (f ⟨Tok.ofNat w, o, m⟩)
  | _, _ => .error .illegalOperand
def AtWord.encode (x : AtWord) (opc : Nat) : Nat :=
  opc * 2 ^ 88 + x.tok.toNat + x.ops.toNat + x.mod.toNat

/-- Layout AR (R94); none where a reserved bit is nonzero (R82). -/
def ModAR.ofNat (w : Nat) : Option ModAR :=
  if bitsAt w 33 6 ≠ 0 ∨ bitsAt w 0 14 ≠ 0 then none else
  some ⟨bitsAt w 47 1 == 1, bitsAt w 46 1 == 1, bitsAt w 45 1 == 1, Fin.ofNat 32 (bitsAt w 40 5), bitsAt w 39 1 == 1, Fin.ofNat 64 (bitsAt w 27 6), Fin.ofNat 64 (bitsAt w 21 6), Fin.ofNat 128 (bitsAt w 14 7)⟩
def ModAR.toNat (m : ModAR) : Nat :=
  b01 m.tie * 2 ^ 47 + b01 m.cin * 2 ^ 46 + b01 m.idxinc * 2 ^ 45 + m.idxe.val * 2 ^ 40 + b01 m.aint * 2 ^ 39 + m.mr.val * 2 ^ 27 + m.nc.val * 2 ^ 21 + m.rd.val * 2 ^ 14

/-- A word of layout AR under the operand use of R89, or ILLEGAL_OPERAND (R82). -/
def ArWord.decode (u : Uses) (w : Nat) (f : ArWord → Instr) : Except DecodeFault Instr :=
  if bitsAt w 80 2 ≠ 0 then .error .illegalOperand else
  match Ops4.ofNat u w, ModAR.ofNat w with
  | some o, some m => .ok (f ⟨Tok.ofNat w, o, m⟩)
  | _, _ => .error .illegalOperand
def ArWord.encode (x : ArWord) (opc : Nat) : Nat :=
  opc * 2 ^ 88 + x.tok.toNat + x.ops.toNat + x.mod.toNat

/-- Layout AD (R95); none where a reserved bit is nonzero (R82). -/
def ModAD.ofNat (w : Nat) : Option ModAD :=
  if bitsAt w 33 3 ≠ 0 then none else
  some ⟨Fin.ofNat 16 (bitsAt w 44 4), Fin.ofNat 8 (bitsAt w 41 3), bitsAt w 40 1 == 1, bitsAt w 39 1 == 1, Fin.ofNat 4 (bitsAt w 37 2), bitsAt w 36 1 == 1, Fin.ofNat 64 (bitsAt w 27 6), Fin.ofNat 64 (bitsAt w 21 6), Fin.ofNat 128 (bitsAt w 14 7), Fin.ofNat 32 (bitsAt w 9 5), Fin.ofNat 32 (bitsAt w 4 5), Fin.ofNat 16 (bitsAt w 0 4)⟩
def ModAD.toNat (m : ModAD) : Nat :=
  m.dfmt.val * 2 ^ 44 + m.rm.val * 2 ^ 41 + b01 m.sat * 2 ^ 40 + b01 m.bias * 2 ^ 39 + m.clamp.val * 2 ^ 37 + b01 m.clr * 2 ^ 36 + m.mr.val * 2 ^ 27 + m.nc.val * 2 ^ 21 + m.rd.val * 2 ^ 14 + m.cle.val * 2 ^ 9 + m.eadr.val * 2 ^ 4 + m.oc.val

/-- A word of layout AD under the operand use of R89, or ILLEGAL_OPERAND (R82). -/
def AdWord.decode (u : Uses) (w : Nat) (f : AdWord → Instr) : Except DecodeFault Instr :=
  if bitsAt w 80 2 ≠ 0 then .error .illegalOperand else
  match Ops4.ofNat u w, ModAD.ofNat w with
  | some o, some m => .ok (f ⟨Tok.ofNat w, o, m⟩)
  | _, _ => .error .illegalOperand
def AdWord.encode (x : AdWord) (opc : Nat) : Nat :=
  opc * 2 ^ 88 + x.tok.toNat + x.ops.toNat + x.mod.toNat

/-- Layout AS (R96); none where a reserved bit is nonzero (R82). -/
def ModAS.ofNat (w : Nat) : Option ModAS :=
  if bitsAt w 33 7 ≠ 0 ∨ bitsAt w 0 7 ≠ 0 then none else
  some ⟨Fin.ofNat 16 (bitsAt w 44 4), Fin.ofNat 8 (bitsAt w 41 3), bitsAt w 40 1 == 1, Fin.ofNat 64 (bitsAt w 27 6), Fin.ofNat 64 (bitsAt w 21 6), Fin.ofNat 128 (bitsAt w 14 7), Fin.ofNat 128 (bitsAt w 7 7)⟩
def ModAS.toNat (m : ModAS) : Nat :=
  m.fmt.val * 2 ^ 44 + m.rm.val * 2 ^ 41 + b01 m.sat * 2 ^ 40 + m.mr.val * 2 ^ 27 + m.nc.val * 2 ^ 21 + m.ra.val * 2 ^ 14 + m.rb.val * 2 ^ 7

/-- A word of layout AS under the operand use of R89, or ILLEGAL_OPERAND (R82). -/
def AsWord.decode (u : Uses) (w : Nat) (f : AsWord → Instr) : Except DecodeFault Instr :=
  if bitsAt w 80 2 ≠ 0 then .error .illegalOperand else
  match Ops4.ofNat u w, ModAS.ofNat w with
  | some o, some m => .ok (f ⟨Tok.ofNat w, o, m⟩)
  | _, _ => .error .illegalOperand
def AsWord.encode (x : AsWord) (opc : Nat) : Nat :=
  opc * 2 ^ 88 + x.tok.toNat + x.ops.toNat + x.mod.toNat

/-- Layout VG (R97); none where a reserved bit is nonzero (R82). -/
def ModVG.ofNat (w : Nat) : Option ModVG :=
  some ⟨Fin.ofNat 16 (bitsAt w 44 4), Fin.ofNat 16 (bitsAt w 40 4), Fin.ofNat 8 (bitsAt w 37 3), bitsAt w 36 1 == 1, bitsAt w 35 1 == 1, Fin.ofNat 8 (bitsAt w 32 3), Fin.ofNat 8 (bitsAt w 29 3), Fin.ofNat 32 (bitsAt w 24 5), Fin.ofNat 128 (bitsAt w 17 7), Fin.ofNat 128 (bitsAt w 10 7), Fin.ofNat 1024 (bitsAt w 0 10)⟩
def ModVG.toNat (m : ModVG) : Nat :=
  m.fmt.val * 2 ^ 44 + m.dfmt.val * 2 ^ 40 + m.rm.val * 2 ^ 37 + b01 m.sat * 2 ^ 36 + b01 m.men * 2 ^ 35 + m.msk.val * 2 ^ 32 + m.mdst.val * 2 ^ 29 + m.e.val * 2 ^ 24 + m.nv.val * 2 ^ 17 + m.row.val * 2 ^ 10 + m.imm.val

/-- A word of layout VG under the operand use of R89, or ILLEGAL_OPERAND (R82). -/
def VgWord.decode (u : Uses) (w : Nat) (f : VgWord → Instr) : Except DecodeFault Instr :=
  if bitsAt w 80 2 ≠ 0 then .error .illegalOperand else
  match Ops4.ofNat u w, ModVG.ofNat w with
  | some o, some m => .ok (f ⟨Tok.ofNat w, o, m⟩)
  | _, _ => .error .illegalOperand
def VgWord.encode (x : VgWord) (opc : Nat) : Nat :=
  opc * 2 ^ 88 + x.tok.toNat + x.ops.toNat + x.mod.toNat

/-- Layout CG (R98); none where a reserved bit is nonzero (R82). -/
def ModCG.ofNat (w : Nat) : Option ModCG :=
  some ⟨Fin.ofNat 16 (bitsAt w 44 4), Fin.ofNat 16 (bitsAt w 40 4), Fin.ofNat 16 (bitsAt w 36 4), Fin.ofNat 32 (bitsAt w 31 5), Fin.ofNat 32 (bitsAt w 26 5), Fin.ofNat 32 (bitsAt w 21 5), Fin.ofNat 128 (bitsAt w 14 7), Fin.ofNat 128 (bitsAt w 7 7), bitsAt w 6 1 == 1, bitsAt w 5 1 == 1, Fin.ofNat 32 (bitsAt w 0 5)⟩
def ModCG.toNat (m : ModCG) : Nat :=
  m.fmt.val * 2 ^ 44 + m.dfmt.val * 2 ^ 40 + m.oc.val * 2 ^ 36 + m.ea.val * 2 ^ 31 + m.eb.val * 2 ^ 26 + m.ec.val * 2 ^ 21 + m.nr.val * 2 ^ 14 + m.row.val * 2 ^ 7 + b01 m.zp * 2 ^ 6 + b01 m.evf * 2 ^ 5 + m.cx.val

/-- A word of layout CG under the operand use of R89, or ILLEGAL_OPERAND (R82). -/
def CgWord.decode (u : Uses) (w : Nat) (f : CgWord → Instr) : Except DecodeFault Instr :=
  if bitsAt w 80 2 ≠ 0 then .error .illegalOperand else
  match Ops4.ofNat u w, ModCG.ofNat w with
  | some o, some m => .ok (f ⟨Tok.ofNat w, o, m⟩)
  | _, _ => .error .illegalOperand
def CgWord.encode (x : CgWord) (opc : Nat) : Nat :=
  opc * 2 ^ 88 + x.tok.toNat + x.ops.toNat + x.mod.toNat

/-- The skip conditions of ESKIP (R99). -/
def SkipCond.ofCode (n : Nat) : SkipCond :=
  match n with
  | 0 => .eqz | 1 => .nez | 2 => .ltz | 3 => .gez | 4 => .first | 5 => .last | 6 => .nfirst | _ => .nlast
def SkipCond.toCode : SkipCond → Nat
  | .eqz => 0 | .nez => 1 | .ltz => 2 | .gez => 3 | .first => 4 | .last => 5 | .nfirst => 6 | .nlast => 7

/-- The common engine words (R99): D, S1, S2, S3 zero; N = 0 faults; conditions 4 to 7 require E = 0. -/
def decodeCommon (opc w : Nat) : Except DecodeFault Instr :=
  if bitsAt w 48 34 ≠ 0 then .error .illegalOperand
  else match opc with
  | 0 => if bitsAt w 0 48 = 0 then .ok (.enop (Tok.ofNat w)) else .error .illegalOperand
  | 1 => if bitsAt w 0 48 = 0 then .ok (.ehalt (Tok.ofNat w)) else .error .illegalOperand
  | 2 =>
    let i := Instr.eskip (Tok.ofNat w) (Fin.ofNat 32 (bitsAt w 43 5)) (SkipCond.ofCode (bitsAt w 40 3)) (Fin.ofNat 256 (bitsAt w 32 8))
    if bitsAt w 0 32 = 0 && i.wf then .ok i else .error .illegalOperand
  | _ => if bitsAt w 0 43 = 0 then .ok (.eflag (Tok.ofNat w) (Fin.ofNat 32 (bitsAt w 43 5))) else .error .illegalOperand

/-- How the word of an opcode is laid out, which operand fields it uses, and its instruction (R89). -/
inductive Row where
  | am (u : Uses) (f : AmWord → Instr)
  | at (u : Uses) (f : AtWord → Instr)
  | ar (u : Uses) (f : ArWord → Instr)
  | ad (u : Uses) (f : AdWord → Instr)
  | as (u : Uses) (f : AsWord → Instr)
  | vg (u : Uses) (f : VgWord → Instr)
  | cg (u : Uses) (f : CgWord → Instr)
  /-- a form that is not assigned: ILLEGAL_OPERAND -/
  | bad

def Row.decode (l : Row) (w : Nat) : Except DecodeFault Instr :=
  match l with
  | .am u f => AmWord.decode u w f
  | .at u f => AtWord.decode u w f
  | .ar u f => ArWord.decode u w f
  | .ad u f => AdWord.decode u w f
  | .as u f => AsWord.decode u w f
  | .vg u f => VgWord.decode u w f
  | .cg u f => CgWord.decode u w f
  | .bad => .error .illegalOperand

/-- The array opcodes (R88, R89). -/
def arrayRow (opc : Nat) : Option Row :=
  match opc with
  | 0x10 => some (.as .d1 .azero)
  | 0x11 => some (.am .dss .amma)
  | 0x12 => some (.am .dsss .ammas)
  | 0x13 => some (.am .dsss .ammaz)
  | 0x14 => some (.at .ss .atbld)
  | 0x15 => some (.am .ds .atmma)
  | 0x16 => some (.am .dss .adist)
  | 0x17 => some (.ar .ds .aargmin)
  | 0x18 => some (.ad .dss .adrain)
  | 0x19 => some (.ad .ss .adrainm)
  | 0x1A => some (.as .dsss .ascacc)
  | 0x1B => some (.am .dss .acent)
  | 0x1C => some (.as .ds .acdiv)
  | 0x1D => some (.as .ds .aaccld)
  | 0x1E => some (.as .ds .aaccst)
  | 0x1F => some (.as .ds .amova)
  | _ => none

/-- The vector opcodes (R88, R89). -/
def vectorRow (opc : Nat) : Option Row :=
  match opc with
  | 0x40 => some (.vg .dss .vadd)
  | 0x41 => some (.vg .dss .vsub)
  | 0x42 => some (.vg .dss .vmul)
  | 0x43 => some (.vg .dsss .vfma)
  | 0x44 => some (.vg .dss .vmin)
  | 0x45 => some (.vg .dss .vmax)
  | 0x46 => some (.vg .ds .vabs)
  | 0x47 => some (.vg .ds .vneg)
  | 0x48 => some (.vg .ds .vrcp)
  | 0x49 => some (.vg .ds .vrsq)
  | 0x4A => some (.vg .ds .vexp2)
  | 0x4B => some (.vg .ds .vlog2)
  | 0x4C => some (.vg .ds .vscale)
  | 0x4D => some (.vg .ds .vclamp)
  | 0x4E => some (.vg .ss .vcmp)
  | 0x4F => some (.vg .s .vclass)
  | 0x50 => some (.vg .dss .viadd)
  | 0x51 => some (.vg .dss .visub)
  | 0x52 => some (.vg .dss .vimul)
  | 0x53 => some (.vg .dss .vimin)
  | 0x54 => some (.vg .dss .vimax)
  | 0x55 => some (.vg .dss .vand)
  | 0x56 => some (.vg .dss .vor)
  | 0x57 => some (.vg .dss .vxor)
  | 0x58 => some (.vg .ds .vshl)
  | 0x59 => some (.vg .ds .vshr)
  | 0x5A => some (.vg .ds .vpopc)
  | 0x5B => some (.vg .ss .vicmp)
  | 0x5C => some (.vg .d1 .viota)
  | 0x60 => some (.vg .ds .vcvt)
  | 0x61 => some (.vg .ds .vquant)
  | 0x62 => some (.vg .ds .vbmax)
  | 0x63 => some (.vg .dss .vpack)
  | 0x64 => some (.vg .ds .vunpk)
  | 0x65 => some (.vg .dss .vspars)
  | 0x66 => some (.vg .ds .vzbm)
  | 0x68 => some (.vg .ds .vrsum)
  | 0x69 => some (.vg .ds .vrmax)
  | 0x6A => some (.vg .ds .vrmin)
  | 0x6B => some (.vg .ds .vramax)
  | 0x6C => some (.vg .ds .vcsum)
  | 0x6D => some (.vg .ds .vscan)
  | 0x70 => some (.vg .ds .vmov)
  | 0x71 => some (.vg .ds .vtrans)
  | 0x72 => some (.vg .ds .vbcast)
  | 0x73 => some (.vg .dss .vshuf)
  | 0x74 => some (.vg .ds .vrot)
  | 0x75 => some (.vg .dss .vsel)
  | 0x76 => some (.vg .s .vext)
  | 0x77 => some (.vg .d1 .vins)
  | 0x78 => some (.vg .d1 .vfill)
  | 0x7C => some (.vg .none .vmlog)
  | 0x7D => some (.vg .none .vmpop)
  | 0x7E => some (.vg .none .vmfirst)
  | 0x80 => some (.vg .dsss .vsfc)
  | 0x81 => some (.vg .dss .vhist)
  | _ => none

/-- The forms of CCHST, of CRING and of CMETA, by their fields. -/
def cchstRow (form : Nat) : Row :=
  match form with
  | 0 => .cg .none .cchstStat
  | 1 => .cg .none .cchstGrant
  | _ => .bad
def cringRow (form : Nat) : Row :=
  match form with
  | 0 => .cg .none .cringSum
  | 1 => .cg .none .cringMax
  | 2 => .cg .none .cringBcast
  | _ => .bad
def cmetaRow (form : Nat) : Row :=
  match form with
  | 0 => .cg .d1 .cmetaRead
  | _ => .cg .s .cmetaWrite

/-- The copy opcodes (R88, R322, R360), with the bits that tell their forms apart. -/
def copyRow (opc cchst cring cmeta : Nat) : Option Row :=
  match opc with
  | 0xB0 => some (.cg .d1 .cld)
  | 0xB1 => some (.cg .s .cst)
  | 0xB2 => some (.cg .none .ccpy)
  | 0xB3 => some (.cg .none .cfill)
  | 0xB4 => some (.cg .none .cwin)
  | 0xB5 => some (.cg .none .cadv)
  | 0xB8 => some (.cg .ds .cgath)
  | 0xB9 => some (.cg .ss .cscat)
  | 0xBA => some (.cg .none .cdec)
  | 0xBB => some (.cg .none .cenc)
  | 0xBC => some (.cg .none .cxfm)
  | 0xC0 => some (.cg .s .cstash)
  | 0xC1 => some (.cg .d1 .cunst)
  | 0xC2 => some (.cg .none .csdrop)
  | 0xC4 => some (.cg .ss .cbat)
  | 0xC8 => some (.cg .s .csend)
  | 0xC9 => some (.cg .d1 .crecv)
  | 0xCD => some (.cg .none .crepart)
  | 0xD0 => some (.cg .none .cpin)
  | 0xD1 => some (.cg .none .cunpin)
  | 0xD2 => some (.cg .none .cpref)
  | 0xD3 => some (.cg .none .cflush)
  | 0xCA => some (cchstRow cchst)
  | 0xCC => some (cringRow cring)
  | 0xD4 => some (cmetaRow cmeta)
  | _ => none

def decodeArray (opc w : Nat) : Except DecodeFault Instr := optOpcode (arrayRow opc) (·.decode w)
def decodeVector (opc w : Nat) : Except DecodeFault Instr := optOpcode (vectorRow opc) (·.decode w)
def decodeCopy (opc w : Nat) : Except DecodeFault Instr :=
  optOpcode (copyRow opc (bitsAt w 40 2) (bitsAt w 0 2) (bitsAt w 0 1)) (·.decode w)

/-- An engine word as engine `e` decodes it: an opcode assigned to another engine, or to none, is ILLEGAL_OPCODE (R88). -/
def decodeEngine (e : Engine) (w : Nat) : Except DecodeFault Instr :=
  let opc := bitsAt w 88 8
  if opc < 4 then decodeCommon opc w
  else match e with
  | .a => decodeArray opc w
  | .v => decodeVector opc w
  | .c => decodeCopy opc w

/-- Which engine owns an opcode (R88); the common words are read as the array engine's. -/
def ownerOf (opc : Nat) : Engine :=
  if opc < 0x40 then .a else if opc < 0xB0 then .v else .c

/-- The words of one section header (R100). -/
structure Header where
  secnum : Nat
  nwords : Nat
  repimm : Nat
  repsrc : Bool
  repe : Fin 32
  stepD : Nat
  stepS1 : Nat
  stepS2 : Nat
  stepS3 : Nat
  rowstep : Nat
  deriving DecidableEq, Repr, Inhabited

/-- A two-bit step code of STEPS: none, one tile, two, four (R79, R100). -/
def stepOf (c : Nat) : Nat :=
  match c with
  | 0 => 0 | 1 => 1 | 2 => 2 | _ => 4

/-- The section header (R100); none where a value faults DECODE_FORMAT. -/
def decodeHeader (e : Engine) (h : Nat) : Option Header :=
  let nwords := bitsAt h 30 12
  let repsrc := bitsAt h 21 1 == 1
  let repe := bitsAt h 16 5
  if bitsAt h 60 4 = 0xA ∧ Engine.ofCode (bitsAt h 58 2) = some e ∧ 1 ≤ nwords ∧ nwords ≤ 2730 ∧ (repsrc = true ∨ repe = 0) then
    some { secnum := bitsAt h 42 16, nwords, repimm := bitsAt h 22 8, repsrc, repe := Fin.ofNat 32 repe,
           stepD := stepOf (bitsAt h 14 2), stepS1 := stepOf (bitsAt h 12 2), stepS2 := stepOf (bitsAt h 10 2),
           stepS3 := stepOf (bitsAt h 8 2), rowstep := bitsAt h 0 8 }
  else none

/-! ### Reading an instruction from bytes -/

/-- Little-endian value of bytes (R1). -/
def leNat : List Byte → Nat
  | [] => 0
  | b :: bs => b.toNat + 256 * leNat bs

/-- The `n` little-endian bytes of a value (R1). -/
def leBytes : Nat → Nat → List Byte
  | 0, _ => []
  | n + 1, v => BitVec.ofNat 8 (v % 256) :: leBytes n (v / 256)

/-- A control-core word from its four bytes; fewer bytes are no word (R83). -/
def decodeControlBytes (bs : List Byte) : Except DecodeFault Instr :=
  if bs.length = 4 then decodeControl (leNat bs) else .error .illegalOpcode

/-- An engine word from its twelve bytes (R86). -/
def decodeEngineBytes (e : Engine) (bs : List Byte) : Except DecodeFault Instr :=
  if bs.length = 12 then decodeEngine e (leNat bs) else .error .illegalOpcode

/-- What the decoder reads from a table word: up to 32 bits a control-core word, beyond that an engine word, its bytes laid
out as R83 and R86 store them. -/
def decodeTableWord (nbits w : Nat) : Option Instr :=
  let r := if nbits ≤ 32 then decodeControlBytes (leBytes 4 w)
    else decodeEngineBytes (ownerOf (bitsAt w 88 8)) (leBytes 12 w)
  match r with
  | .ok i => some i
  | .error _ => none

/-! ### The encoder -/

def encR (g : Guard) (major rd ra rb fn : Nat) : Nat :=
  g.toNat + major * 2 ^ 22 + rd * 2 ^ 17 + ra * 2 ^ 12 + rb * 2 ^ 7 + fn
def encI (g : Guard) (major rd ra imm : Nat) : Nat :=
  g.toNat + major * 2 ^ 22 + rd * 2 ^ 17 + ra * 2 ^ 12 + imm
def encM (g : Guard) (major rd ra cls imm : Nat) : Nat :=
  g.toNat + major * 2 ^ 22 + rd * 2 ^ 17 + ra * 2 ^ 12 + cls * 2 ^ 8 + imm
def encB (g : Guard) (major off : Nat) : Nat := g.toNat + major * 2 ^ 22 + off

/-- The word of an instruction, with its width in bits (R84, R86); none for an event, which has no word. -/
def encode : Instr → Option (Nat × Nat)
  | .add g rd ra rb => some (32, encR g 0x00 rd ra rb 0)
  | .sub g rd ra rb => some (32, encR g 0x00 rd ra rb 1)
  | .and g rd ra rb => some (32, encR g 0x00 rd ra rb 2)
  | .or g rd ra rb => some (32, encR g 0x00 rd ra rb 3)
  | .xor g rd ra rb => some (32, encR g 0x00 rd ra rb 4)
  | .sll g rd ra rb => some (32, encR g 0x00 rd ra rb 5)
  | .srl g rd ra rb => some (32, encR g 0x00 rd ra rb 6)
  | .sra g rd ra rb => some (32, encR g 0x00 rd ra rb 7)
  | .mul g rd ra rb => some (32, encR g 0x00 rd ra rb 8)
  | .mulh g rd ra rb => some (32, encR g 0x00 rd ra rb 9)
  | .mulhu g rd ra rb => some (32, encR g 0x00 rd ra rb 10)
  | .div g rd ra rb => some (32, encR g 0x00 rd ra rb 11)
  | .divu g rd ra rb => some (32, encR g 0x00 rd ra rb 12)
  | .rem g rd ra rb => some (32, encR g 0x00 rd ra rb 13)
  | .remu g rd ra rb => some (32, encR g 0x00 rd ra rb 14)
  | .min g rd ra rb => some (32, encR g 0x00 rd ra rb 15)
  | .max g rd ra rb => some (32, encR g 0x00 rd ra rb 16)
  | .minu g rd ra rb => some (32, encR g 0x00 rd ra rb 17)
  | .maxu g rd ra rb => some (32, encR g 0x00 rd ra rb 18)
  | .clz g rd ra => some (32, encR g 0x00 rd ra 0 0x13)
  | .popc g rd ra => some (32, encR g 0x00 rd ra 0 0x14)
  | .andn g rd ra rb => some (32, encR g 0x00 rd ra rb 0x15)
  | .addi g rd ra imm => some (32, encI g 1 rd ra imm.toNat)
  | .andi g rd ra imm => some (32, encI g 2 rd ra imm.toNat)
  | .ori g rd ra imm => some (32, encI g 3 rd ra imm.toNat)
  | .xori g rd ra imm => some (32, encI g 4 rd ra imm.toNat)
  | .slli g rd ra sh => some (32, encI g 0x05 rd ra (0 * 2 ^ 10 + sh.val))
  | .srli g rd ra sh => some (32, encI g 0x05 rd ra (1 * 2 ^ 10 + sh.val))
  | .srai g rd ra sh => some (32, encI g 0x05 rd ra (2 * 2 ^ 10 + sh.val))
  | .liu g rd imm => some (32, g.toNat + 0x06 * 2 ^ 22 + rd.val * 2 ^ 17 + imm.toNat)
  | .addpc g rd imm => some (32, g.toNat + 0x07 * 2 ^ 22 + rd.val * 2 ^ 17 + imm.toNat)
  | .cmp g pd ra rb c => some (32, encR g 0x08 pd ra rb c.toCode)
  | .cmpi g c pd ra imm => some (32, encI g 0x09 (c.toCode * 8 + pd.val) ra imm.toNat)
  | .plog g pd pa pb t => some (32, encR g 0x0A pd pa pb t.toNat)
  | .sel g rd ra rb pc => some (32, encR g 0x0B rd ra rb pc)
  | .br g off => some (32, encB g 0x0C off.toNat)
  | .jal g off => some (32, encB g 0x0D off.toNat)
  | .jalr g rd ra imm => some (32, encI g 0x0E rd ra imm.toNat)
  | .ldb g rd ra cls imm => some (32, encM g 0x10 rd ra cls imm.toNat)
  | .ldh g rd ra cls imm => some (32, encM g 0x11 rd ra cls imm.toNat)
  | .ldw g rd ra cls imm => some (32, encM g 0x12 rd ra cls imm.toNat)
  | .ldd g rd ra cls imm => some (32, encM g 0x13 rd ra cls imm.toNat)
  | .ldbu g rd ra cls imm => some (32, encM g 0x14 rd ra cls imm.toNat)
  | .ldhu g rd ra cls imm => some (32, encM g 0x15 rd ra cls imm.toNat)
  | .ldwu g rd ra cls imm => some (32, encM g 0x16 rd ra cls imm.toNat)
  | .ldfeW g rd ra cls imm => some (32, encM g 0x17 rd ra cls (0 * 64 + imm.toNat))
  | .ldfeE g rd ra cls imm => some (32, encM g 0x17 rd ra cls (1 * 64 + imm.toNat))
  | .ldfeN g rd ra cls imm => some (32, encM g 0x17 rd ra cls (2 * 64 + imm.toNat))
  | .stb g rs ra cls imm => some (32, encM g 0x18 rs ra cls imm.toNat)
  | .sth g rs ra cls imm => some (32, encM g 0x19 rs ra cls imm.toNat)
  | .stw g rs ra cls imm => some (32, encM g 0x1A rs ra cls imm.toNat)
  | .std g rs ra cls imm => some (32, encM g 0x1B rs ra cls imm.toNat)
  | .stfeF g rs ra cls imm => some (32, encM g 0x1C rs ra cls (0 * 64 + imm.toNat))
  | .stfeWe g rs ra cls imm => some (32, encM g 0x1C rs ra cls (1 * 64 + imm.toNat))
  | .feqQ g rd ra cls imm => some (32, encM g 0x1D rd ra cls imm.toNat)
  | .feqClr g ra cls imm => some (32, encM g 0x1D 0 ra cls (1 * 64 + imm.toNat))
  | .feqSet g ra cls imm => some (32, encM g 0x1D 0 ra cls (2 * 64 + imm.toNat))
  | .invr g ra rb => some (32, encR g 0x1E 0 ra rb 0)
  | .wbr g ra rb => some (32, encR g 0x1E 0 ra rb 1)
  | .wbinvr g ra rb => some (32, encR g 0x1E 0 ra rb 2)
  | .invi g => some (32, encR g 0x1E 0 0 0 3)
  | .fenceCls g mask => some (32, encB g 0x1F mask.toNat)
  | .fenceRel g sc mask => some (32, encB g 0x1F (1 * 2 ^ 20 + sc.toCode * 2 ^ 17 + mask.toNat))
  | .fenceAcq g sc mask => some (32, encB g 0x1F (2 * 2 ^ 20 + sc.toCode * 2 ^ 17 + mask.toNat))
  | .fenceAr g sc mask => some (32, encB g 0x1F (3 * 2 ^ 20 + sc.toCode * 2 ^ 17 + mask.toNat))
  | .amoSwap g rd ra rb cls dbl => some (32, encR g 0x20 rd ra rb (cls.val * 32 + b01 dbl * 16 + 0))
  | .amoAdd g rd ra rb cls dbl => some (32, encR g 0x20 rd ra rb (cls.val * 32 + b01 dbl * 16 + 1))
  | .amoAnd g rd ra rb cls dbl => some (32, encR g 0x20 rd ra rb (cls.val * 32 + b01 dbl * 16 + 2))
  | .amoOr g rd ra rb cls dbl => some (32, encR g 0x20 rd ra rb (cls.val * 32 + b01 dbl * 16 + 3))
  | .amoXor g rd ra rb cls dbl => some (32, encR g 0x20 rd ra rb (cls.val * 32 + b01 dbl * 16 + 4))
  | .amoMin g rd ra rb cls dbl => some (32, encR g 0x20 rd ra rb (cls.val * 32 + b01 dbl * 16 + 5))
  | .amoMax g rd ra rb cls dbl => some (32, encR g 0x20 rd ra rb (cls.val * 32 + b01 dbl * 16 + 6))
  | .amoMinu g rd ra rb cls dbl => some (32, encR g 0x20 rd ra rb (cls.val * 32 + b01 dbl * 16 + 7))
  | .amoMaxu g rd ra rb cls dbl => some (32, encR g 0x20 rd ra rb (cls.val * 32 + b01 dbl * 16 + 8))
  | .amoFadd g rd ra rb cls => some (32, encR g 0x20 rd ra rb (cls.val * 32 + 9))
  | .amoCas g rd ra rb cls dbl => some (32, encR g 0x20 rd ra rb (cls.val * 32 + b01 dbl * 16 + 10))
  | .redAdd g ra rb cls dbl => some (32, encR g 0x21 0 ra rb (cls.val * 32 + b01 dbl * 16 + 1))
  | .redAnd g ra rb cls dbl => some (32, encR g 0x21 0 ra rb (cls.val * 32 + b01 dbl * 16 + 2))
  | .redOr g ra rb cls dbl => some (32, encR g 0x21 0 ra rb (cls.val * 32 + b01 dbl * 16 + 3))
  | .redXor g ra rb cls dbl => some (32, encR g 0x21 0 ra rb (cls.val * 32 + b01 dbl * 16 + 4))
  | .redMin g ra rb cls dbl => some (32, encR g 0x21 0 ra rb (cls.val * 32 + b01 dbl * 16 + 5))
  | .redMax g ra rb cls dbl => some (32, encR g 0x21 0 ra rb (cls.val * 32 + b01 dbl * 16 + 6))
  | .redMinu g ra rb cls dbl => some (32, encR g 0x21 0 ra rb (cls.val * 32 + b01 dbl * 16 + 7))
  | .redMaxu g ra rb cls dbl => some (32, encR g 0x21 0 ra rb (cls.val * 32 + b01 dbl * 16 + 8))
  | .redFadd g ra rb cls => some (32, encR g 0x21 0 ra rb (cls.val * 32 + 9))
  | .qpush g pd ra rb cls => some (32, encR g 0x22 pd ra rb cls)
  | .qpop g rd ra pd cls => some (32, encR g 0x23 rd ra pd cls)
  | .racqP g rd n => some (32, encI g 0x24 rd 0 n)
  | .racqC g rd n => some (32, encI g 0x24 rd 0 (4 + n.val))
  | .rrelP g n => some (32, encI g 0x25 0 0 n)
  | .rrelC g n => some (32, encI g 0x25 0 0 (4 + n.val))
  | .fork g ra e => some (32, encI g 0x28 0 ra e.toCode)
  | .join g m => some (32, encI g 0x29 0 0 m.toNat)
  | .sete g e ra => some (32, encI g 0x2A e ra 0)
  | .gete g rd e => some (32, encI g 0x2B rd e 0)
  | .twait g m => some (32, encI g 0x2C 0 0 m.toNat)
  | .tpost g m => some (32, encI g 0x2D 0 0 m.toNat)
  | .setts g ra t => some (32, encI g 0x2E 0 ra t)
  | .getts g rd t => some (32, encI g 0x2F rd 0 t)
  | .barA g sc => some (32, encB g 0x30 (0 * 2 ^ 20 + sc.toCode * 2 ^ 17))
  | .barW g sc => some (32, encB g 0x30 (1 * 2 ^ 20 + sc.toCode * 2 ^ 17))
  | .barAw g sc => some (32, encB g 0x30 (2 * 2 ^ 20 + sc.toCode * 2 ^ 17))
  | .barTry g sc pd => some (32, encB g 0x30 (3 * 2 ^ 20 + sc.toCode * 2 ^ 17 + pd.val * 2 ^ 9))
  | .trmSend g ra => some (32, encB g 0x31 (ra.val * 2 ^ 12))
  | .trmIdle g => some (32, encB g 0x31 (2 ^ 20))
  | .trmBusy g => some (32, encB g 0x31 (2 * 2 ^ 20))
  | .trmTest g pd => some (32, encB g 0x31 (3 * 2 ^ 20 + pd.val * 2 ^ 9))
  | .movs g rd r => some (32, encI g 0x38 rd 0 r.toSel)
  | .movts g ra r => some (32, encI g 0x39 0 ra r.toSel)
  | .trap g code => some (32, encI g 0x3A 0 0 code.toNat)
  | .yield g => some (32, encB g 0x3B 0)
  | .done g => some (32, encB g 0x3C 0)
  | .instructionFetch _ _ => none
  | .enop t => some (96, t.toNat)
  | .ehalt t => some (96, 2 ^ 88 + t.toNat)
  | .eskip t e cond n => some (96, 2 * 2 ^ 88 + t.toNat + e.val * 2 ^ 43 + cond.toCode * 2 ^ 40 + n.val * 2 ^ 32)
  | .eflag t e => some (96, 3 * 2 ^ 88 + t.toNat + e.val * 2 ^ 43)
  | .sectionFetch .. | .sectionExecute .. | .engineWordComplete .. => none
  | .azero w => some (96, w.encode 0x10)
  | .amma w => some (96, w.encode 0x11)
  | .ammas w => some (96, w.encode 0x12)
  | .ammaz w => some (96, w.encode 0x13)
  | .atbld w => some (96, w.encode 0x14)
  | .atmma w => some (96, w.encode 0x15)
  | .adist w => some (96, w.encode 0x16)
  | .aargmin w => some (96, w.encode 0x17)
  | .adrain w => some (96, w.encode 0x18)
  | .adrainm w => some (96, w.encode 0x19)
  | .adrainmStoresAccepted _ => none
  | .ascacc w => some (96, w.encode 0x1A)
  | .acent w => some (96, w.encode 0x1B)
  | .acdiv w => some (96, w.encode 0x1C)
  | .aaccld w => some (96, w.encode 0x1D)
  | .aaccst w => some (96, w.encode 0x1E)
  | .amova w => some (96, w.encode 0x1F)
  | .vadd w => some (96, w.encode 0x40)
  | .vsub w => some (96, w.encode 0x41)
  | .vmul w => some (96, w.encode 0x42)
  | .vfma w => some (96, w.encode 0x43)
  | .vmin w => some (96, w.encode 0x44)
  | .vmax w => some (96, w.encode 0x45)
  | .vabs w => some (96, w.encode 0x46)
  | .vneg w => some (96, w.encode 0x47)
  | .vrcp w => some (96, w.encode 0x48)
  | .vrsq w => some (96, w.encode 0x49)
  | .vexp2 w => some (96, w.encode 0x4A)
  | .vlog2 w => some (96, w.encode 0x4B)
  | .vscale w => some (96, w.encode 0x4C)
  | .vclamp w => some (96, w.encode 0x4D)
  | .vcmp w => some (96, w.encode 0x4E)
  | .vclass w => some (96, w.encode 0x4F)
  | .viadd w => some (96, w.encode 0x50)
  | .visub w => some (96, w.encode 0x51)
  | .vimul w => some (96, w.encode 0x52)
  | .vimin w => some (96, w.encode 0x53)
  | .vimax w => some (96, w.encode 0x54)
  | .vand w => some (96, w.encode 0x55)
  | .vor w => some (96, w.encode 0x56)
  | .vxor w => some (96, w.encode 0x57)
  | .vshl w => some (96, w.encode 0x58)
  | .vshr w => some (96, w.encode 0x59)
  | .vpopc w => some (96, w.encode 0x5A)
  | .vicmp w => some (96, w.encode 0x5B)
  | .viota w => some (96, w.encode 0x5C)
  | .vcvt w => some (96, w.encode 0x60)
  | .vquant w => some (96, w.encode 0x61)
  | .vbmax w => some (96, w.encode 0x62)
  | .vpack w => some (96, w.encode 0x63)
  | .vunpk w => some (96, w.encode 0x64)
  | .vspars w => some (96, w.encode 0x65)
  | .vzbm w => some (96, w.encode 0x66)
  | .vrsum w => some (96, w.encode 0x68)
  | .vrmax w => some (96, w.encode 0x69)
  | .vrmin w => some (96, w.encode 0x6A)
  | .vramax w => some (96, w.encode 0x6B)
  | .vcsum w => some (96, w.encode 0x6C)
  | .vscan w => some (96, w.encode 0x6D)
  | .vmov w => some (96, w.encode 0x70)
  | .vtrans w => some (96, w.encode 0x71)
  | .vbcast w => some (96, w.encode 0x72)
  | .vshuf w => some (96, w.encode 0x73)
  | .vrot w => some (96, w.encode 0x74)
  | .vsel w => some (96, w.encode 0x75)
  | .vext w => some (96, w.encode 0x76)
  | .vins w => some (96, w.encode 0x77)
  | .vfill w => some (96, w.encode 0x78)
  | .vmlog w => some (96, w.encode 0x7C)
  | .vmpop w => some (96, w.encode 0x7D)
  | .vmfirst w => some (96, w.encode 0x7E)
  | .vsfc w => some (96, w.encode 0x80)
  | .vhist w => some (96, w.encode 0x81)
  | .cld w => some (96, w.encode 0xB0)
  | .cst w => some (96, w.encode 0xB1)
  | .ccpy w => some (96, w.encode 0xB2)
  | .cfill w => some (96, w.encode 0xB3)
  | .cwin w => some (96, w.encode 0xB4)
  | .cadv w => some (96, w.encode 0xB5)
  | .windowGranuleLand _ _ => none
  | .cgath w => some (96, w.encode 0xB8)
  | .cscat w => some (96, w.encode 0xB9)
  | .copyDataReturn .. | .copyWriteAccept .. => none
  | .cdec w => some (96, w.encode 0xBA)
  | .cenc w => some (96, w.encode 0xBB)
  | .cxfm w => some (96, w.encode 0xBC)
  | .cstash w => some (96, w.encode 0xC0)
  | .cunst w => some (96, w.encode 0xC1)
  | .csdrop w => some (96, w.encode 0xC2)
  | .cbat w => some (96, w.encode 0xC4)
  | .csend w => some (96, w.encode 0xC8)
  | .crecv w => some (96, w.encode 0xC9)
  | .cchstStat w => some (96, w.encode 0xCA)
  | .cchstGrant w => some (96, w.encode 0xCA)
  | .cringSum w => some (96, w.encode 0xCC)
  | .cringMax w => some (96, w.encode 0xCC)
  | .cringBcast w => some (96, w.encode 0xCC)
  | .crepart w => some (96, w.encode 0xCD)
  | .cpin w => some (96, w.encode 0xD0)
  | .cunpin w => some (96, w.encode 0xD1)
  | .cpref w => some (96, w.encode 0xD2)
  | .cflush w => some (96, w.encode 0xD3)
  | .cmetaRead w => some (96, w.encode 0xD4)
  | .cmetaWrite w => some (96, w.encode 0xD4)
  | .kick .. | .tailReadReturn .. | .queueEnable .. | .queueDisable .. | .recordEnter .. | .nop .. | .task .. | .stage ..
  | .xform .. | .coll .. | .signal .. | .wait .. | .waitPoll .. | .waitTimeout .. | .nodeComplete .. | .cplheadReread ..
  | .msixUnmask .. | .leasePhase .. | .noticeackRetry .. | .noticeackFail .. | .nqcfgWrite .. | .nqheadWrite ..
  | .tlbInvalidate .. | .tlbInvalidateDone | .atsInvalidate .. | .bar4Read .. | .bar4Write .. | .registerWrite ..
  | .placeNode | .placementReserve .. | .preemptTimeout .. | .contextSave .. | .contextResume .. | .partStart ..
  | .rendezvous .. | .iterLong .. | .retire .. | .faultTeardown .. | .frheadWrite .. | .podBarrierArrival ..
  | .trmTokenPass .. | .mbsEvaluate .. | .starveExpiry .. | .spanReportReceive .. | .spanPickReceive .. | .spanStartTime ..
  | .spanMemberLost .. | .firnWriteDone .. | .firnFillDone .. | .bankSwitchComplete .. | .neveDisplace .. | .poisonDetect ..
  | .memoryEventRecord | .rowActivation .. | .rowRefresh .. | .promoteCount .. | .acreset .. | .tierHigh .. | .tierLow ..
  | .rgcmd .. | .rgcmdDone | .tmcmd .. | .tierMoveDone | .calvctlGo .. | .calvMapLoaded | .calvLineCopy .. | .calvMoveDone
  | .calvSettleDone | .phase .. | .channelEndOpen .. | .channelEndClose .. | .messageDelivered .. | .messageConfirm ..
  | .ackReceive .. | .channelBroken .. | .batchReceive .. | .batchReply .. | .batchResend .. | .remoteRequest ..
  | .resetNak .. | .remoteTimeout .. | .incarnationAnnounce .. | .ringChunkReceive .. | .driftLoadsReceive ..
  | .driftOfferReceive .. | .driftRecordsReceive .. | .powerControlTick .. | .trip .. | .linkRetrain | .parkRequest
  | .parkedEnter | .parkClear | .correctedError .. | .stackWarnWindow .. | .load | .commit | .enrol | .unenrol | .quote
  | .coldReset | .warmReset | .illegalOpcode .. | .torusPortDown .. | .torusPortUp .. | .powerLoss | .fwcmdComplete
  | .firmwareError => none

/-- The bytes of an instruction as they stand in memory, lowest address first (R83, R86). -/
def encodeBytes (i : Instr) : Option (List Byte) :=
  match encode i with
  | some (n, w) => some (leBytes (n / 8) w)
  | none => none

end Sys2Proof
end

