-- ==== Sys2Proof/Machine/LoadStore.lean ====
section
/-! DEFINITION. Loads, stores and full-empty accesses of the control core (R198 to R200). -/

namespace Sys2Proof.Machine

/-- A load of `size` bytes (R198): ALIGN first, then the checks of R188; the bytes are little-endian. -/
def loadWord (size : Nat) (ext : Nat → W64) (g : Guard) (rd ra : Fin 32) (cls : Fin 16) (imm : BitVec 8) (s : State) : Out :=
  ctl s g fun k c x =>
    let ea := eaM x ra imm size
    if !isAligned ea size then .next (s.raiseCtx k c (.at .align ea))
    else (s.loadBytes k c ea cls.val size).run s k c fun bs s1 => .next (s1.retX k c rd (ext (leNum bs)))

/-- A store of the low `size` bytes of x[rs] (R198). -/
def storeWord (size : Nat) (g : Guard) (rs ra : Fin 32) (cls : Fin 16) (imm : BitVec 8) (s : State) : Out :=
  ctl s g fun k c x =>
    let ea := eaM x ra imm size
    if !isAligned ea size then .next (s.raiseCtx k c (.at .align ea))
    else (s.storeBytes k c ea cls.val (leBytesOf size (x.getX rs).toNat)).run s k c fun _ s1 => .next (s1.advance k c)

def execLdb (g : Guard) (rd ra : Fin 32) (cls : Fin 16) (imm : BitVec 8) (s : State) : Out := loadWord 1 (sext64 8) g rd ra cls imm s
def execLdh (g : Guard) (rd ra : Fin 32) (cls : Fin 16) (imm : BitVec 8) (s : State) : Out := loadWord 2 (sext64 16) g rd ra cls imm s
def execLdw (g : Guard) (rd ra : Fin 32) (cls : Fin 16) (imm : BitVec 8) (s : State) : Out := loadWord 4 (sext64 32) g rd ra cls imm s
def execLdd (g : Guard) (rd ra : Fin 32) (cls : Fin 16) (imm : BitVec 8) (s : State) : Out := loadWord 8 (w64) g rd ra cls imm s
def execLdbu (g : Guard) (rd ra : Fin 32) (cls : Fin 16) (imm : BitVec 8) (s : State) : Out := loadWord 1 (w64) g rd ra cls imm s
def execLdhu (g : Guard) (rd ra : Fin 32) (cls : Fin 16) (imm : BitVec 8) (s : State) : Out := loadWord 2 (w64) g rd ra cls imm s
def execLdwu (g : Guard) (rd ra : Fin 32) (cls : Fin 16) (imm : BitVec 8) (s : State) : Out := loadWord 4 (w64) g rd ra cls imm s
def execStb (g : Guard) (rs ra : Fin 32) (cls : Fin 16) (imm : BitVec 8) (s : State) : Out := storeWord 1 g rs ra cls imm s
def execSth (g : Guard) (rs ra : Fin 32) (cls : Fin 16) (imm : BitVec 8) (s : State) : Out := storeWord 2 g rs ra cls imm s
def execStw (g : Guard) (rs ra : Fin 32) (cls : Fin 16) (imm : BitVec 8) (s : State) : Out := storeWord 4 g rs ra cls imm s
def execStd (g : Guard) (rs ra : Fin 32) (cls : Fin 16) (imm : BitVec 8) (s : State) : Out := storeWord 8 g rs ra cls imm s

/-! ### Full-empty accesses (R199, R200) -/

/-- The granule of a scratchpad offset and its full bit (R199, R289). -/
def granule (off : Nat) : Nat := off / 16
def Quad.isFull (q : Quad) (off : Nat) : Bool := kmem q.full (granule off)
def Quad.setFull (q : Quad) (off : Nat) (b : Bool) : Quad :=
  { q with full := if b then kadd (granule off) q.full else kdel (granule off) q.full }

/-- Whether an address lies in the range of scratchpad space, its bits that must be zero aside (R189). -/
def inPadSpace (ea : W64) : Bool := let u := bitsNat ea.toNat 56 8; u == 0xFD || u == 0xFE

/-- An access that must lie in scratchpad space (R188, R189, R199, R208): outside it ILLEGAL_OPERAND; in it ALIGN, then the checks of
R189. -/
def padAccess (s : State) (k : Fin 128) (c : CtxId) (ea : W64) (n size : Nat) (body : Fin 32 → Nat → Out) : Out :=
  if !inPadSpace ea then .next (s.raiseCtx k c (.plain .illegalOperand))
  else if !isAligned ea n then .next (s.raiseCtx k c (.at .align ea))
  else match spaceOf k ea with
    | some (.sram q off) =>
      (match s.padCheck k ea q off size with
      | .trap t => .next (s.raiseCtx k c t)
      | .wait => .next s
      | .ok _ => body q off)
    | _ => .next (s.raiseCtx k c (.at .perm ea))

/-- The checks of a full-empty access (R188, R199): ALIGN, then those of `padAccess`; it waits for the context's earlier stores through
remote pages in its class (R346). -/
def feAccess (s : State) (g : Guard) (ra : Fin 32) (cls : Fin 16) (imm : BitVec 6)
    (body : Fin 128 → CtxId → Ctx → W64 → Fin 32 → Nat → Out) : Out :=
  ctl s g fun k c x =>
    let ea := eaFE x ra imm
    if !isAligned ea 8 then .next (s.raiseCtx k c (.at .align ea))
    else if storesPending s k c (· == cls.val) then .next s
    else padAccess s k c ea 8 8 fun q off => body k c x ea q off

/-- The context stands at its word, waiting. -/
def hold (s : State) (k : Fin 128) (c : CtxId) (w : CtxWait) : Out := .next (s.setCtx k c { s.ctx k c with waits := some w })

/-- The context's word has waited enough. -/
def Ctx.go (x : Ctx) : Ctx := { x with waits := none }

/-- Reads the 8 bytes at ea of a scratchpad into x[rd], and the context goes on (R199, R301). -/
def feRead (s : State) (k : Fin 128) (c : CtxId) (ea : W64) (q : Fin 32) (off : Nat) (rd : Fin 32) : State :=
  match s.mem.poisonedAt (sramFlat q off) 8 with
  | some sec => s.raiseCtx k c (poisonTrap ea sec)
  | none => s.setCtx k c (((s.ctx k c).go.setX rd (w64 (s.mem.num (sramFlat q off) 8))).step)

/-- The contexts that wait at a word, of cores that no fault holds. -/
def State.waiters (s : State) (p : CtxWait → Bool) : List (Fin 128 × CtxId) :=
  s.cores.toList.zipIdx.flatMap fun x =>
    if x.1.fault.isSome then [] else (allCtx.filter fun c => (x.1.ctx c).waits.any p).map fun c => (coreIx x.2, c)

/-- An LDFE.w that waits returns its value (R200). -/
def serveLoad (s : State) (k : Fin 128) (c : CtxId) : State :=
  match (s.ctx k c).waits with
  | some (.load q off ea rd) => feRead s k c ea q off rd
  | _ => s

/-- Whether a wait is that of an LDFE.w on a granule. -/
def CtxWait.loads (w : CtxWait) (q : Fin 32) (off : Nat) : Bool :=
  match w with
  | .load p o _ _ => p == q && granule o == granule off
  | _ => false

/-- Every waiting LDFE.w on a granule is satisfied (R200). -/
def serveLoads (s : State) (q : Fin 32) (off : Nat) : State :=
  (s.waiters (·.loads q off)).foldl (fun t p => serveLoad t p.1 p.2) s

/-- Whether a wait is that of an LDFE or STFE on a granule of a bank (R200, R285). -/
def CtxWait.inBank (w : CtxWait) (q : Fin 32) (b : Nat) : Bool :=
  match w with
  | .load p o _ _ => p == q && bankOf o == b
  | .pad p o => p == q && bankOf o == b
  | _ => false

/-- The full bit of a granule is set (R199, R200): where it was 0, every LDFE.w that waits for it is satisfied at once. -/
def State.fillGranule (s : State) (q : Fin 32) (off : Nat) : State :=
  let t := s.setQuad q ((s.quad q).setFull off true)
  if (s.quad q).isFull off then t else serveLoads t q off
def State.emptyGranule (s : State) (q : Fin 32) (off : Nat) : State := s.setQuad q ((s.quad q).setFull off false)

/-- Reads the 8 bytes at ea of a scratchpad (R199, R301), and leaves the granule in the state `f` gives. -/
def feLoad (s : State) (k : Fin 128) (c : CtxId) (ea : W64) (q : Fin 32) (off : Nat) (rd : Fin 32) (f : State → State) : Out :=
  match s.mem.poisonedAt (sramFlat q off) 8 with
  | some sec => .next (s.raiseCtx k c (poisonTrap ea sec))
  | none => .next (f (feRead s k c ea q off rd))

/-- Writes the 8 bytes at ea, the context goes on, and the full bit is set (R199). -/
def feStore (s : State) (k : Fin 128) (c : CtxId) (x : Ctx) (q : Fin 32) (off : Nat) (rs : Fin 32) : Out :=
  .next (((s.setMem (s.mem.write (sramFlat q off) (leBytesOf 8 (x.getX rs).toNat))).setCtx k c x.go.step).fillGranule q off)

def execLdfeW (g : Guard) (rd ra : Fin 32) (cls : Fin 16) (imm : BitVec 6) (s : State) : Out :=
  feAccess s g ra cls imm fun k c _ ea q off =>
    if (s.quad q).isFull off then feLoad s k c ea q off rd id else hold s k c (.load q off ea rd)
def execLdfeE (g : Guard) (rd ra : Fin 32) (cls : Fin 16) (imm : BitVec 6) (s : State) : Out :=
  feAccess s g ra cls imm fun k c _ ea q off =>
    if (s.quad q).isFull off then feLoad s k c ea q off rd (·.emptyGranule q off) else hold s k c (.pad q off)
def execLdfeN (g : Guard) (rd ra : Fin 32) (cls : Fin 16) (imm : BitVec 6) (s : State) : Out :=
  feAccess s g ra cls imm fun k c _ ea q off => feLoad s k c ea q off rd id
def execStfeF (g : Guard) (rs ra : Fin 32) (cls : Fin 16) (imm : BitVec 6) (s : State) : Out :=
  feAccess s g ra cls imm fun k c x _ q off => feStore s k c x q off rs
def execStfeWe (g : Guard) (rs ra : Fin 32) (cls : Fin 16) (imm : BitVec 6) (s : State) : Out :=
  feAccess s g ra cls imm fun k c x _ q off =>
    if (s.quad q).isFull off then hold s k c (.pad q off) else feStore s k c x q off rs
def execFeqQ (g : Guard) (rd ra : Fin 32) (cls : Fin 16) (imm : BitVec 6) (s : State) : Out :=
  feAccess s g ra cls imm fun k c _ _ q off => .next (s.retX k c rd (if (s.quad q).isFull off then 1 else 0))
def execFeqClr (g : Guard) (ra : Fin 32) (cls : Fin 16) (imm : BitVec 6) (s : State) : Out :=
  feAccess s g ra cls imm fun k c _ _ q off => .next ((s.advance k c).emptyGranule q off)
def execFeqSet (g : Guard) (ra : Fin 32) (cls : Fin 16) (imm : BitVec 6) (s : State) : Out :=
  feAccess s g ra cls imm fun k c _ _ q off => .next ((s.advance k c).fillGranule q off)

end Sys2Proof.Machine
end

