-- ==== Sys2Proof/Machine/Drive.lean ====
section
/-! DEFINITION. Driving the engines from a context: FORK, JOIN, SETE, GETE, TWAIT, TPOST, SETTS, GETTS (R211 to R215). -/

namespace Sys2Proof.Machine

/-- An engine starts fetching a stream at an address (R187, R211). -/
def Eng.start (e : Eng) (a : W64) (part : Bool) : Eng :=
  { e with run := true, part := part, next := a, buf := none, cur := none }

/-- FORK (R211): ALIGN, then it waits while the engine runs a stream or another context's FORK stands before it. -/
def execFork (g : Guard) (ra : Fin 32) (e : Engine) (s : State) : Out :=
  ctl s g fun k c x =>
    let a := x.getX ra
    let y := s.eng k e
    if !isAligned a 16 then .next (s.raiseCtx k c (.at .align a))
    else if !y.run && (y.forks.head?.getD c == c) then
      .next ((s.setEng k e ({ y with forks := y.forks.filter (· != c) }.start a false)).advance k c)
    else if y.forks.contains c then .next s
    else .next (s.setEng k e { y with forks := y.forks ++ [c] })

/-- JOIN waits until each named engine has no stream running and no FORK waiting (R212). -/
def execJoin (g : Guard) (m : EngSet) (s : State) : Out :=
  ctl s g fun k c _ =>
    if (engSetEngines m).all fun e => !(s.eng k e).run && (s.eng k e).forks.isEmpty then .next (s.advance k c)
    else .next s

def setE (c : Core) (n : Fin 32) (v : W64) : Core := { c with e := c.e.set n v }

def execSete (g : Guard) (e ra : Fin 32) (s : State) : Out :=
  ctl s g fun k c x => .next ((s.setCore k (setE (s.core k) e (x.getX ra))).advance k c)
def execGete (g : Guard) (rd e : Fin 32) (s : State) : Out :=
  ctl s g fun k c _ => .next (s.retX k c rd (s.core k).e[e])

/-- A TWAIT of a context takes its tokens where it waits for them and they are there (R214). -/
def Core.takeFirst (d : Core) (c : CtxId) : Core :=
  match (d.ctx c).waits with
  | some (.tokens m) => (d.consume 0 (engSetAgents m)).getD d
  | _ => d

/-- What lower slots that wait leave of the token counters (R214). -/
def Core.afterLower (d : Core) (c : CtxId) : Core :=
  (allCtx.filter fun j => decide (ctxAgent j < ctxAgent c)).foldl Core.takeFirst d

/-- TWAIT waits until every named (agent, K) counter is nonzero, then decrements them all (R214); a lower slot that waits for the same
tokens is served first. -/
def execTwait (g : Guard) (m : EngSet) (s : State) : Out :=
  ctl s g fun k c _ =>
    match ((s.core k).afterLower c).consume 0 (engSetAgents m), (s.core k).consume 0 (engSetAgents m) with
    | some _, some d => .next ((s.setCore k d).setCtx k c (d.ctx c).go.step)
    | _, _ => hold s k c (.tokens m)

/-- TPOST waits until a switch of the quad's banks is complete, then increments every named (K, agent) counter, or faults
TOKEN_OVERFLOW when one of them holds 15 (R214). -/
def execTpost (g : Guard) (m : EngSet) (s : State) : Out :=
  ctl s g fun k c _ =>
    if !(s.quad (quadOf k)).switching.isEmpty then .next s
    else match (s.core k).post 0 (engSetAgents m) with
    | .ok d => .next ((s.setCore k d).advance k c)
    | .error x => .next (s.raiseCtx k c ⟨.tokenOverflow, 0, tokInfo 0 x⟩)

/-- TSHAPEn takes bits [31:10] of the source over ten zero bits (R67, R215). -/
def tshapeOf (v : W64) : W32 := (v.setWidth 32) &&& 0xFFFFFC00#32

def execSetts (g : Guard) (ra : Fin 32) (t : Fin 48) (s : State) : Out :=
  ctl s g fun k c x =>
    .next ((s.setCore k { s.core k with tshape := (s.core k).tshape.set t (tshapeOf (x.getX ra)) }).advance k c)
def execGetts (g : Guard) (rd : Fin 32) (t : Fin 48) (s : State) : Out :=
  ctl s g fun k c _ => .next (s.retX k c rd ((s.core k).tshape[t].setWidth 64))

end Sys2Proof.Machine
end

