-- ==== Sys2Proof/Machine/Engine.lean ====
section
/-! DEFINITION. Fetching: words of the control core (R185), sections of the engines (R100 to R103), and issuing and completing
engine words with the common words ENOP, EHALT, ESKIP and EFLAG (R70, R99). -/

namespace Sys2Proof.Machine

/-! ### Instruction fetch (R185) -/

/-- A word read from a line of the instruction L1. -/
def ILine.word (l : ILine) (o : Nat) : W32 := BitVec.ofNat 32 (leNum ((l.bytes.drop o).take 4))

/-- A word of a line of the instruction L1; a poisoned sector faults (R301). -/
def ILine.fetch (l : ILine) (pc : W64) (o : Nat) (s : State) : Got W32 :=
  if l.poison.contains (o / 64) then .trap (poisonTrap pc (l.pa / 64 + o / 64)) else .ok (l.word o) s

/-- A line of the instruction L1 as memory has it (R185, R301). -/
def MemSide.iline (m : MemSide) (pa : Nat) : ILine := ⟨pa, m.read pa 128, [0, 1].filter fun x => kmem m.poison (pa / 64 + x)⟩

/-- The word at a PC, through the instruction L1 (R185, R301): the accesses need the X right. A word of another package's page is
asked for once, and the answer is taken for its address only (R147). -/
def State.fetchWord (s : State) (k : Fin 128) (c : CtxId) : Got W32 :=
  let x := s.ctx k c
  match x.ahead with
  | some (a, w) => if a = x.pc then .ok w s else fetchMem s k c x
  | none => fetchMem s k c x
where
  fetchMem (s : State) (k : Fin 128) (c : CtxId) (x : Ctx) : Got W32 :=
    match spaceOf k x.pc with
    | some (.virt va) =>
      (match s.virtual k va 4 .fetch with
      | .error t => .trap t
      | .ok (ds, s1) =>
        match ds with
        | (.here flat _, _) :: _ =>
          let pa := flat / 128 * 128
          (match (s1.core k).il1.find? (·.pa == pa) with
          | some l => l.fetch x.pc (flat % 128) s1
          | none =>
            let l := s1.mem.iline pa
            l.fetch x.pc (flat % 128) (s1.setCore k { s1.core k with il1 := (l :: (s1.core k).il1).take l1Lines }))
        | (.remote target inc addr, _) :: _ =>
          (match x.fetch with
          | some (a, ⟨_, some r⟩) =>
            if a = x.pc then
              (match r with
              | .bytes bs => .ok (BitVec.ofNat 32 (leNum bs)) (s1.setCtx k c { s1.ctx k c with fetch := none })
              | .poisoned => .trap (poisonTrap x.pc remoteSector)
              | .lost t => .trap t)
            else .wait (s1.setCtx k c { s1.ctx k c with fetch := none })
          | some (_, ⟨_, none⟩) => .wait s1
          | none =>
            let r := s1.sendRemote k (.fetch c) x.pc x.pc 0 target inc addr 4 none
            .wait (r.2.setCtx k c { r.2.ctx k c with fetch := some (x.pc, ⟨r.1, none⟩) }))
        | [] => .trap (.at .lease x.pc))
    | _ => .trap (.at .perm x.pc)

/-- A context fetches its next word ahead; a fetch that fails raises nothing (R185). -/
def execInstructionFetch (core : Nat) (c : CtxId) (s : State) : Out :=
  let k := coreIx core
  let x := s.ctx k c
  if core < 128 ∧ x.run = .running ∧ (s.core k).fault = none then
    match s.fetchWord k c with
    | .ok w s1 => .next (s1.setCtx k c { s1.ctx k c with ahead := some (x.pc, w) })
    | .wait s1 => .next s1
    | .trap _ => .next s
  else .next s

/-! ### Sections (R100, R101) -/

def engCode : Engine → Nat
  | .a => 1 | .v => 2 | .c => 3

/-- The micro-program counter (R103). -/
def mkUpc (e : Engine) (secnum word rep : Nat) : W64 :=
  w64 (secnum % 65536 * 2 ^ 48 + word % 4096 * 2 ^ 36 + engCode e * 2 ^ 34 + rep % 2 ^ 32)

/-- The header of a value (R100), and whether it is well formed for an engine. -/
def readHeader (v : Nat) : Header :=
  ⟨bitsNat v 42 16, bitsNat v 30 12, bitsNat v 22 8, bitsNat v 21 1 == 1, Fin.ofNat 32 (bitsNat v 16 5), bitsNat v 8 8, bitsNat v 0 8⟩
def headerOk (e : Engine) (v : Nat) : Bool :=
  let h := readHeader v
  bitsNat v 60 4 == 0xA && bitsNat v 58 2 == engCode e && decide (1 ≤ h.nwords) && decide (h.nwords ≤ 2730)
    && (h.repsrc || h.repe == 0)

/-- Bytes of a stream (R101): virtual space only, R and X on every page; through a remote page the request is sent and
awaited. -/
def State.streamPieces (s : State) (k : Fin 128) (e : Engine) (a : W64) :
    List (Dest × Nat) → Nat → Got (List Byte)
  | [], _ => .ok [] s
  | (d, n) :: t, off =>
    let ea := a + w64 off
    let here : Got (List Byte) :=
      match d with
      | .here flat _ =>
        (match s.mem.poisonedAt flat n with
        | some sec => .trap (poisonTrap a sec)
        | none => .ok (s.mem.read flat n) s)
      | .remote target inc addr =>
        let y := s.eng k e
        match y.got.find? fun p => p.1 == ea with
        | some (_, .poisoned) => .trap (poisonTrap a remoteSector)
        | some (_, .lost t) => .trap t
        | some (_, .bytes l) => .ok (l.take n) s
        | none =>
          if y.asked.isSome then .wait s
          else
            let r := s.sendRemote k (.stream e) (mkUpc e 0xFFFF 0xFFF 0) ea 0 target inc addr n none
            .wait (r.2.setEng k e { y with asked := some (r.1, ea) })
    match here with
    | .trap tr => .trap tr
    | .wait s1 => .wait s1
    | .ok bs _ =>
      match s.streamPieces k e a t (off + n) with
      | .ok rest s2 => .ok (bs ++ rest) s2
      | .trap tr => .trap tr
      | .wait s2 => .wait s2

def State.streamBytes (s : State) (k : Fin 128) (e : Engine) (a : W64) (n : Nat) : Got (List Byte) :=
  match spaceOf k a with
  | some (.virt va) =>
    (match s.virtual k va n .section with
    | .error t => .trap t
    | .ok (ds, s1) => s1.streamPieces k e a ds 0)
  | _ => .trap (.at .perm a)

/-- The words of a section from word i on; a word that cannot be read stops with its index (R103). -/
def State.streamWords (s : State) (k : Fin 128) (e : Engine) (a : W64) : Nat → Nat → Got (List (BitVec 96) × Option (Nat × Trap))
  | 0, _ => .ok ([], none) s
  | n + 1, i =>
    match s.streamBytes k e (a + w64 (8 + 12 * i)) 12 with
    | .trap t => .ok ([], some (i, t)) s
    | .wait s1 => .wait s1
    | .ok bs s1 =>
      match s1.streamWords k e a n (i + 1) with
      | .ok (ws, b) s2 => .ok (BitVec.ofNat 96 (leNum bs) :: ws, b) s2
      | .trap t => .trap t
      | .wait s2 => .wait s2

/-- A section fetched whole (R101, R103). -/
def State.fetchSection (s : State) (k : Fin 128) (e : Engine) (a : W64) : Got Fetched :=
  match s.streamBytes k e a 8 with
  | .trap t => .ok ⟨a, default, [], some (0xFFFF, 0xFFF, t)⟩ s
  | .wait s1 => .wait s1
  | .ok bs s1 =>
    let v := leNum bs
    let h := readHeader v
    if !headerOk e v then .ok ⟨a, h, [], some (h.secnum, 0xFFF, .at .decodeFormat a)⟩ s1
    else match s1.streamWords k e a h.nwords 0 with
      | .ok (ws, none) s2 => .ok ⟨a, h, ws, none⟩ s2
      | .ok (ws, some (i, t)) s2 => .ok ⟨a, h, ws, some (h.secnum, i, t)⟩ s2
      | .trap t => .trap t
      | .wait s2 => .wait s2

/-- The first multiple of 16 at or above header address + 8 + 12 * NWORDS (R100). -/
def nextHeader (a : W64) (nwords : Nat) : W64 :=
  let b := a.toNat + 8 + 12 * nwords
  w64 ((b + 15) / 16 * 16)

/-- Bytes of the stream buffer (R14) and what a section takes of them: its header and its words. -/
def streamBuffer : Nat := 32768
def Fetched.size (f : Fetched) : Nat := 8 + 12 * f.words.length
def Eng.curSize (y : Eng) : Nat := match y.cur with
  | some x => x.sec.size
  | none => 0

/-- An engine fetches its next section into the stream buffer (R101), once there is room beside the section under execution (R14); a
fault of the fetch waits there. -/
def execSectionFetch (core : Nat) (g : Engine) (s : State) : Out :=
  let k := coreIx core
  let y := s.eng k g
  if core < 128 ∧ y.run = true ∧ y.buf = none ∧ (s.core k).fault = none then
    match s.fetchSection k g y.next with
    | .ok f s1 =>
      if streamBuffer < y.curSize + f.size then .next s
      else .next (s1.setEng k g { s1.eng k g with buf := some f, next := nextHeader y.next f.hdr.nwords, got := [], asked := none })
    | .wait s1 => .next s1
    | .trap _ => .next s
  else .next s

/-- An engine comes to execute the section in its stream buffer (R101, R102): its repetition count is taken once. -/
def execSectionExecute (core : Nat) (g : Engine) (s : State) : Out :=
  let k := coreIx core
  let y := s.eng k g
  if core < 128 ∧ y.run = true ∧ y.cur = none ∧ (s.core k).fault = none then
    match y.buf with
    | none => .next s
    | some f =>
      match f.bad with
      | some (sec, word, t) => .next (s.raise k (engAgent g) (mkUpc g sec word 0) t)
      | none =>
        let reps := if f.hdr.repsrc then ((s.core k).e[f.hdr.repe]).toNat % 2 ^ 32 else f.hdr.repimm + 1
        .next (s.setEng k g { y with buf := none, cur := if reps = 0 then none else some ⟨f, reps, 0, 0⟩ })
  else .next s

/-! ### Issue (R66, R70, R81, R99, R102) -/

/-- What an engine word reads at issue. -/
structure Issue where
  k : Fin 128
  eng : Engine
  /-- the core with the word's WT tokens consumed -/
  c : Core
  r : Nat
  reps : Nat
  rowoff : Nat
  steps : Nat
  upc : W64

def Issue.env (i : Issue) : NumEnv := numEnv i.c.fcsr

/-- What the issue of a word comes to. -/
inductive Iss where
  /-- the word issues: the state with its effects, and its entry among the words in flight -/
  | ok (s : State) (f : Flight)
  | trap (t : Trap)
  /-- the word is held -/
  | hold

def Flight.plain (upc : W64) (pt : Fin 8) : Flight := ⟨upc, pt, 0, [], [], [], [], .none, [], 0, none, 0⟩

/-- A request of a class as it is admitted (R315). -/
def State.newReq (s : State) (cls : Nat) (k : ReqKind) : Req := ⟨cls, k, none, [], [], s.mem.mphase⟩

/-- A word's effects are complete (R320): no request is left, nothing is waited for, and its writes are performed. -/
def Flight.complete (f : Flight) : Bool := f.reqs.isEmpty && f.wait == .none && f.out.isEmpty

/-- After a word that issued: the next word, the next repetition, or the end of the section (R102). `n` words are passed over
(ESKIP). -/
def Exec.advance (x : Exec) (n : Nat) : Option Exec :=
  let w := x.w + 1 + n
  if w < x.sec.hdr.nwords then some { x with w := w }
  else if x.r + 1 < x.reps then some { x with r := x.r + 1, w := 0 } else none

/-- The repetition under way; a word run with no section under way is repetition 0 of 1. -/
def Eng.exec (y : Eng) : Exec := y.cur.getD ⟨⟨0, ⟨0, 1, 0, false, 0, 0, 0⟩, [], none⟩, 1, 0, 0⟩

def engIssue (s : State) (k : Fin 128) (e : Engine) (c : Core) : Issue :=
  let x := (s.eng k e).exec
  ⟨k, e, c, x.r, x.reps, x.r * x.sec.hdr.rowstep, x.sec.hdr.steps, mkUpc e x.sec.hdr.secnum x.w x.r⟩

/-- An engine word (R70, R81, R88): it waits for its tokens, a fault consumes none, and an issued word is in flight until
ENGINE_WORD_COMPLETE. `own` says on which engines the opcode is assigned. -/
def engWord (s : State) (own : Engine → Bool) (t : Tok) (skip : Issue → Nat) (body : Issue → State → Iss) : Out :=
  match s.cur with
  | .engine k e =>
    if !own e then .refused .wrongAgent
    else match (s.core k).consume (tokNum e) (tokAgents e t.wt) with
      | none => .next s
      | some c =>
        let i := engIssue s k e c
        match body i (s.setCore k c) with
        | .trap tr => .next (s.raise k (engAgent e) i.upc tr)
        | .hold => .next s
        | .ok s1 f =>
          let y := s1.eng k e
          .next (s1.setEng k e { y with flight := y.flight ++ [f], cur := y.cur.bind (·.advance (skip i)) })
  | _ => .refused .wrongAgent

def anyEngine (_ : Engine) : Bool := true
def onEngine (g : Engine) (e : Engine) : Bool := e == g

/-- A per-repetition step of an operand field: 0, 1, 2 or 4 tiles by the two bits of STEPS (R100). -/
def stepSize (steps field : Nat) : Nat :=
  match bitsNat steps (6 - 2 * field) 2 with
  | 0 => 0 | 1 => 1 | 2 => 2 | _ => 4

/-- A used operand field after stepping (R102): field 0 is D, 1 to 3 are S1 to S3. -/
def Issue.opnd (i : Issue) (field : Nat) (o : Opnd) : Except Trap Opnd :=
  let st := stepSize i.steps field
  match o.ref with
  | .tz => if st ≠ 0 then .error (.plain .illegalOperand) else .ok o
  | .tile n => if h : n.val + i.r * st < 48 then .ok ⟨o.dir, .tile ⟨n.val + i.r * st, h⟩⟩ else .error (.plain .illegalOperand)
  | .acc n => if h : n.val + i.r * st < 4 then .ok ⟨o.dir, .acc ⟨n.val + i.r * st, h⟩⟩ else .error (.plain .illegalOperand)

/-- A word that cannot be decoded raises ILLEGAL_OPCODE or ILLEGAL_OPERAND, whatever its guard; it consumes no token
(R81, R85, R88). -/
def execIllegalOpcode (f : DecodeFault) (s : State) : Out :=
  let t : Trap := match f with
    | .illegalOpcode => .plain .illegalOpcode
    | .illegalOperand => .plain .illegalOperand
  match s.cur with
  | .context k c => .next (s.raiseCtx k c t)
  | .engine k e => .next (s.raise k (engAgent e) (engIssue s k e (s.core k)).upc t)
  | .none => .refused .wrongAgent

/-! ### The common engine words (R99) -/

def noSkip (_ : Issue) : Nat := 0

def execEnop (t : Tok) (s : State) : Out :=
  engWord s anyEngine t noSkip fun i s1 => .ok s1 (.plain i.upc t.pt)

/-- EHALT waits until every earlier word has completed, then posts its tokens and ends the engine's part (R99). -/
def execEhalt (t : Tok) (s : State) : Out :=
  match s.cur with
  | .engine k e =>
    let y := s.eng k e
    if !y.flight.isEmpty then .next s
    else match (s.core k).consume (tokNum e) (tokAgents e t.wt) with
      | none => .next s
      | some c =>
        match c.post (tokNum e) (tokAgents e t.pt) with
        | .error x => .next (s.raise k (engAgent e) (engIssue s k e c).upc ⟨.tokenOverflow, 0, tokInfo (tokNum e) x⟩)
        | .ok d => .next ((s.setCore k d).setEng k e { y with run := false, buf := none, cur := none, got := [], asked := none })
  | _ => .refused .wrongAgent

/-- The conditions of ESKIP (R99). -/
def skipHolds (c : SkipCond) (v : W64) (r reps : Nat) : Bool :=
  match c with
  | .eqz => v == 0
  | .nez => v != 0
  | .ltz => v.slt 0
  | .gez => !(v.slt 0)
  | .first => r == 0
  | .last => r + 1 == reps
  | .nfirst => r != 0
  | .nlast => r + 1 != reps

/-- Whether an earlier copy word that is not complete writes an e register (R319). -/
def eBusy (c : Core) (n : Nat) : Bool := c.c.flight.any fun f => !f.complete && f.we.contains n

/-- ESKIP (R99); in a copy stream it is held while an earlier copy word is to write its e register (R319). -/
def execEskip (t : Tok) (e : Fin 32) (cond : SkipCond) (n : Fin 256) (s : State) : Out :=
  engWord s anyEngine t
    (fun i => if skipHolds cond i.c.e[e] i.r i.reps then n.val else 0)
    (fun i s1 =>
      if n = 0 then .trap (.plain .illegalOperand)
      else if i.eng == .c && eBusy i.c e.val then .hold
      else .ok s1 (.plain i.upc t.pt))

/-- EFLAG waits until every earlier word has completed, then e[E] := FLAGS (R99). -/
def execEflag (t : Tok) (e : Fin 32) (s : State) : Out :=
  engWord s anyEngine t noSkip fun i s1 =>
    if !(s1.eng i.k i.eng).flight.isEmpty then .hold
    else .ok (s1.setCore i.k (setE (s1.core i.k) e ((s1.core i.k).flags.setWidth 64))) (.plain i.upc t.pt)

/-- The word that completes next: of the copy engine the oldest in flight, since its words post in stream order (R320); of another
engine the oldest whose effects are complete (R224, R247). -/
def Eng.completing (y : Eng) (g : Engine) : Option Flight :=
  match g with
  | .c => y.flight.head?.filter (·.complete)
  | _ => y.flight.find? (·.complete)

/-- A word completes: its flags reach FLAGS, then it posts its tokens (R70, R320). -/
def execEngineWordComplete (core : Nat) (g : Engine) (s : State) : Out :=
  let k := coreIx core
  let y := s.eng k g
  match y.completing g with
  | none => .next s
  | some f =>
    if core < 128 ∧ (s.core k).fault = none then
      let c := { s.core k with flags := orFlags (s.core k).flags f.flags }
      match c.post (tokNum g) (tokAgents g f.pt) with
      | .error x => .next ((s.setCore k c).raise k (engAgent g) f.upc ⟨.tokenOverflow, 0, tokInfo (tokNum g) x⟩)
      | .ok d => .next ((s.setCore k d).setEng k g { y with flight := y.flight.erase f })
    else .next s

end Sys2Proof.Machine
end

