-- ==== Sys2Proof/Machine/Port.lean ====
section
/-! DEFINITION. Accesses of engines: where the bytes lie, reading and writing them with poison, FIFO banks and remote pages,
and the memory event log (R137 to R147, R188, R189, R281, R287, R300 to R304, R324, R353). -/

namespace Sys2Proof.Machine

/-- Where an engine access leads (R189, R287). -/
inductive PortAt where
  | bytes (ds : List (Dest × Nat))
  /-- the queue of a FIFO bank -/
  | fifo (q : Fin 32) (b : Nat)
  /-- the entry count of a FIFO bank -/
  | count (q : Fin 32) (b : Nat)
  deriving Repr

/-- A FIFO bank reached by an engine (R287): offset 0x0, or 0x8 to read the count. -/
def fifoAt (q : Fin 32) (off n : Nat) (ea : W64) (w : Bool) : Acc PortAt :=
  let o := off % 2 ^ 20
  if o = 0 then (if n % 8 = 0 then .ok (.fifo q (bankOf off)) else .trap (.at .align ea))
  else if o = 8 ∧ w = false then (if n = 8 then .ok (.count q (bankOf off)) else .trap (.at .align ea))
  else .trap (.at .perm ea)

/-- The checks of R189 and R139 on an access of `n` bytes by an engine of a core, and where it leads. -/
def State.portAt (s : State) (k : Fin 128) (ea : W64) (n : Nat) (need : Need) : Got PortAt :=
  match spaceOf k ea with
  | none => .trap (.at .perm ea)
  | some (.sram q off) =>
    let x := s.quad q
    if s.gangInQuad k q && !x.isSwitching (bankOf off) && x.bankMode (bankOf off) == modeFifo then
      match fifoAt q off n ea need.w with
      | .ok p => .ok p s
      | .trap t => .trap t
      | .wait => .wait s
    else match s.padCheck k ea q off n with
      | .trap t => .trap t
      | .wait => .wait s
      | .ok _ => .ok (.bytes [(.here (sramFlat q off) false, n)]) s
  | some (.virt va) =>
    match s.virtual k va n need with
    | .error t => .trap t
    | .ok (ds, s1) => .ok (.bytes ds) s1

/-- The checks that need no memory access (R324): the space and the quad of R189, the lease of R137 and the heap limit. -/
def State.issueCheck (s : State) (k : Fin 128) (ea : W64) (n : Nat) (w : Bool) : Option Trap :=
  match spaceOf k ea with
  | none => some (.at .perm ea)
  | some (.sram q off) =>
    if !s.gangInQuad k q then some (.at .perm ea)
    else if 2 ^ 25 < off + n then some (.at .perm (ea + w64 (2 ^ 25 - off))) else none
  | some (.virt va) =>
    let c := s.core k
    match leaseFault c.ranges w va n with
    | some a => some (.at .lease (w64 a))
    | none =>
      if c.disp.hwb.toNat ≤ va ∧ va < c.disp.hwl.toNat ∧ c.disp.hwl.toNat < va + n then some (.at .heapLimit c.disp.hwl) else none

/-- The first fault that a list of accesses meets at issue. -/
def State.issueChecks (s : State) (k : Fin 128) (w : Bool) : List (W64 × Nat) → Option Trap
  | [] => none
  | (ea, n) :: t => match s.issueCheck k ea n w with
    | some tr => some tr
    | none => s.issueChecks k w t

/-! ### Reading -/

/-- The bytes of pieces from offset `off` on; none while a piece of another package has not come in. -/
def gatherPieces (m : MemSide) (got : List (Nat × List Byte)) : List (Dest × Nat) → Nat → Option (List Byte)
  | [], _ => some []
  | (d, n) :: t, off =>
    let here := match d with
      | .here flat _ => some (m.read flat n)
      | .remote .. => (got.find? (·.1 == off)).map (·.2)
    match here, gatherPieces m got t (off + n) with
    | some a, some b => some (a ++ b)
    | _, _ => none

/-- The first piece of another package that has not come in: its offset, length, target, incarnation and address. -/
def firstMissing (got : List (Nat × List Byte)) : List (Dest × Nat) → Nat → Option (Nat × Nat × Nat × Nat × Nat)
  | [], _ => none
  | (d, n) :: t, off =>
    match d with
    | .here .. => firstMissing got t (off + n)
    | .remote target inc addr =>
      if got.any (·.1 == off) then firstMissing got t (off + n) else some (off, n, target, inc, addr)

/-- The first poisoned sector of the pieces (R301). -/
def firstPoison (m : MemSide) : List (Dest × Nat) → Option Nat
  | [] => none
  | (.here flat _, n) :: t => match m.poisonedAt flat n with
    | some sec => some sec
    | none => firstPoison m t
  | (.remote .., _) :: t => firstPoison m t

/-- The runs of bytes, by offset and length, that lie in poisoned sectors. -/
def poisonRuns (m : MemSide) : List (Dest × Nat) → Nat → List (Nat × Nat)
  | [], _ => []
  | (d, n) :: t, off =>
    let here := match d with
      | .here flat _ =>
        (m.poison.filter fun p => decide (flat < p * 64 + 64) && decide (p * 64 < flat + n)).map fun p =>
          let lo := max flat (p * 64)
          let hi := min (flat + n) (p * 64 + 64)
          (off + (lo - flat), hi - lo)
      | .remote .. => []
    here ++ poisonRuns m t (off + n)

/-- The bytes that a FIFO bank yields towards `want` of them, oldest entry first (R287), and the bank after. -/
def popBytes (q : Quad) (b want : Nat) : List Byte × Quad :=
  let l := q.entries b
  let n := min (want / 8) l.length
  ((l.take n).flatMap (fun v => leBytesOf 8 v.toNat), q.setEntries b (l.drop n))

/-- Eight bytes at a time as FIFO entries. -/
def fifoWords : Nat → List Byte → List W64
  | 0, _ => []
  | n + 1, bs => w64 (leNum (bs.take 8)) :: fifoWords n (bs.drop 8)

/-! ### Writing -/

/-- Whether a run of the data overlaps bytes `off` to `off + n - 1` of it, and where. -/
def runsIn (bad : List (Nat × Nat)) (off n : Nat) : List (Nat × Nat) :=
  (bad.filter fun r => decide (r.1 < off + n) && decide (off < r.1 + r.2)).map fun r =>
    let lo := max off r.1
    let hi := min (off + n) (r.1 + r.2)
    (lo - off, hi - lo)

/-- The sectors that runs of bytes at an address touch. -/
def sectorsOf (flat : Nat) (runs : List (Nat × Nat)) : List Nat :=
  runs.flatMap fun r => (List.range ((flat + r.1 + r.2 - 1) / 64 - (flat + r.1) / 64 + 1)).map fun i => (flat + r.1) / 64 + i

/-- The pieces of an engine's write are performed (R300, R301): poisoned data poisons the sectors it feeds; into host memory
the write carries the poisoned-data bit, and into another package the runs. -/
def State.writePieces (s : State) (k : Fin 128) (loc ea : W64) (cls : Nat) (data : List Byte) (bad : List (Nat × Nat)) :
    List (Dest × Nat) → Nat → State
  | [], _ => s
  | (d, n) :: t, off =>
    let bs := (data.drop off).take n
    let runs := runsIn bad off n
    let s1 := match d with
      | .here flat host =>
        let m := s.mem.write flat bs
        if host then
          let s2 := s.setMem m
          if runs.isEmpty then s2 else s2.send (.poisonedHostWrite (flat - hostBase))
        else s.setMem ((sectorsOf flat runs).foldl (fun x p => x.addPoison p) m)
      | .remote target inc addr =>
        (s.sendRemote k .copy loc (ea + w64 off) cls target inc addr n (some (bs, runs))).2
    s1.writePieces k loc ea cls data bad t (off + n)

/-- What a write of an engine comes to: accepted, with what is left of the data (FIFO), a fault, or a wait. -/
def State.portWrite (s : State) (k : Fin 128) (loc ea : W64) (cls : Nat) (data : List Byte) (bad : List (Nat × Nat)) :
    Got (List Byte) :=
  match s.portAt k ea data.length .write with
  | .trap t => .trap t
  | .wait s1 => .wait s1
  | .ok (.bytes ds) s1 => .ok [] (s1.writePieces k loc ea cls data bad ds 0)
  | .ok (.fifo q b) s1 =>
    let l := (s1.quad q).entries b
    let n := min (data.length / 8) (fifoCap - l.length)
    .ok (data.drop (n * 8)) (s1.setQuad q ((s1.quad q).setEntries b (l ++ fifoWords n data)))
  | .ok (.count ..) _ => .trap (.at .perm ea)

/-- The numbers of the requests to other packages that leave between two states. -/
def sentBetween (s t : State) : List Nat := (List.range (t.fab.nextRemote - s.fab.nextRemote)).map (s.fab.nextRemote + ·)

/-! ### The event log (R303, R304) -/

/-- The 1 KiB granule of R311: bucket, chunk and the granule's index in its slice. -/
def bucketOf (a : Nat) : Nat :=
  bitsNat a 10 8 ^^^ bitsNat a 18 8 ^^^ bitsNat a 26 8 ^^^ bitsNat a 34 8 ^^^ bitsNat a 42 6
def chunkOf (a : Nat) : Nat := bitsNat a 36 3
def sliceOf (a : Nat) : Nat := bucketOf a * 8 + chunkOf a

/-- SLICEMAP (R311): its reset value where no retirement has changed it. -/
def MemSide.home (m : MemSide) (slice : Nat) : Nat × Nat :=
  match m.slices.find? (·.slice == slice) with
  | some x => (x.stack, x.frame)
  | none => (slice / 8 % 8, 8 * (slice / 8 / 8) + slice % 8)

/-- The granule of an address within its slice, and its 128-byte line there (R311). -/
def granuleOf (a : Nat) : Nat := bitsNat a 18 18
def sliceLineOf (a : Nat) : Nat := granuleOf a * 8 + a / 128 % 8

/-- The stack and frame that hold an address (R311, R315): of the slice under copy, lines below the cursor are at the new home. -/
def MemSide.homeAt (m : MemSide) (a : Nat) : Nat × Nat :=
  match m.calv, m.moves with
  | .move, x :: _ => if x.slice = sliceOf a ∧ sliceLineOf a < m.cursor then (x.stack, x.frame) else m.home (sliceOf a)
  | _, _ => m.home (sliceOf a)

/-- The local address in its stack (R311). -/
def MemSide.localAt (m : MemSide) (a : Nat) : Nat := (m.homeAt a).2 * 2 ^ 28 + granuleOf a * 2 ^ 10 + a % 2 ^ 10

/-- SRC and ADDR of an event about a sector by its flat address (R304): a stack, LPDDR 6, cluster SRAM, or host memory; the
scratchpad has no device address (log entry 19). -/
def MemSide.eventAt (m : MemSide) (sector : Nat) : Nat × Nat :=
  let a := sector * 64
  if sector = remoteSector then (10, 0)
  else if hostBase ≤ a then (11, (a - hostBase) % 2 ^ 63 + 2 ^ 63)
  else if sramBase ≤ a then (9, 0)
  else if Config.lpddrBase ≤ a then (8, a)
  else ((m.homeAt a).1, a)

/-- Whether records are kept (R303). -/
def MemSide.logging (m : MemSide) : Bool := bitsNat m.mevcfg.toNat 0 1 == 1 && decide (4 ≤ bitsNat m.mevcfg.toNat 4 4)

/-- An event goes to the log; while logging is off it is dropped (R303). -/
def State.logEvent (s : State) (type src count ctxid addr : Nat) (info : W64) : State :=
  if s.mem.logging then s.setMem { s.mem with mevq := s.mem.mevq ++ [⟨type, src, count, ctxid, addr, info, s.time⟩] } else s

/-- Rows zeroed under `.zp` are counted for the die (R301, R317). -/
def State.countZero (s : State) (k : Fin 128) (n : Nat) : State :=
  s.setMem { s.mem with zpcount := s.mem.zpcount.set (dieOf k) (s.mem.zpcount[dieOf k] + w64 n) }

/-- `n` free bytes. -/
def State.freeBytes (s : State) (n : Nat) : List Byte × State :=
  ((List.range n).map fun i => BitVec.ofNat 8 (Config.freeBits (s.freeCtr + i)), { s with freeCtr := s.freeCtr + n })

/-- `n` free values of 32 bits. -/
def State.free32 (s : State) (n : Nat) : List W32 × State :=
  ((List.range n).map fun i => BitVec.ofNat 32 (Config.freeBits (s.freeCtr + i)), { s with freeCtr := s.freeCtr + n })

end Sys2Proof.Machine
end

