-- ==== Sys2Proof/Machine/Tiles.lean ====
section
/-! DEFINITION. Tiles and accumulators as operands of engine words: TSHAPE, directions, elements, matrix layouts (R27, R63,
R67 to R69, R87, R102, R225, R226). -/

namespace Sys2Proof.Machine

/-- ILLEGAL_OPERAND (R379). -/
def badOperand : Trap := .plain .illegalOperand

/-- TSHAPE (R67): format, rows less one, columns less one. -/
structure TShape where
  fmt : Fmt
  rows : Nat
  cols : Nat
  deriving DecidableEq, Repr, Inhabited

/-- The shape that a TSHAPE register gives; none where a word that names its tile faults (R67). -/
def shapeOf (v : W32) : Option TShape :=
  let n := v.toNat
  match Fmt.ofCode (bitsNat n 28 4) with
  | none => none
  | some f =>
    let rows := bitsNat n 20 8
    let cols := bitsNat n 10 10
    if 127 < rows ∨ 1024 < (cols + 1) * f.width then none else some ⟨f, rows, cols⟩

/-- A tile operand after stepping: the tile, or none for tz, with its shape and direction. -/
structure TileOp where
  tile : Option (Fin 48)
  sh : TShape
  dir : Dir
  deriving DecidableEq, Repr

/-- A tile operand of an instruction: it takes the directions `dirs`; tz takes DIR R and has the format `f` (R68, R87,
R225). `fmts` are the formats that the tile's TSHAPE may hold. -/
def Issue.tileOp (i : Issue) (field : Nat) (o : Opnd) (dirs : List Dir) (fmts : List Fmt) (f : Fmt) : Option TileOp :=
  match i.opnd field o with
  | .error _ => none
  | .ok p =>
    if !dirs.contains p.dir then none
    else match p.ref with
      | .acc _ => none
      | .tz => some ⟨none, ⟨f, 127, f.lanes - 1⟩, p.dir⟩
      | .tile n => match shapeOf i.c.tshape[n] with
        | some sh => if fmts.contains sh.fmt then some ⟨some n, sh, p.dir⟩ else none
        | none => none

/-- The accumulator that an operand field names after stepping; none where it names no accumulator (R231). -/
def Issue.accOp (i : Issue) (field : Nat) (o : Opnd) : Option (Fin 4) :=
  match i.opnd field o with
  | .ok ⟨.r, .acc n⟩ => some n
  | _ => none

/-! ### Elements (R27, R69) -/

/-- The 1,024 bits of a tile row. -/
def Core.rowBits (c : Core) (t row : Nat) : Nat := leNum (c.tileBytes t row 0 128)

/-- The bits of a tile row inside the extent; positions outside it read as zero (R69). -/
def Core.rowIn (c : Core) (o : TileOp) (row : Nat) : Nat :=
  match o.tile with
  | none => 0
  | some t => if o.sh.rows < row then 0 else c.rowBits t.val row % 2 ^ ((o.sh.cols + 1) * o.sh.fmt.width)

/-- An element of a row (R27). -/
def elemOf (row w i : Nat) : Nat := bitsNat row (i * w) w

/-- Elements of a row take new values. -/
def putElems (w : Nat) (row : Nat) (l : List (Nat × Nat)) : Nat :=
  l.foldl (fun v p => v - elemOf v w p.1 * 2 ^ (p.1 * w) + p.2 % 2 ^ w * 2 ^ (p.1 * w)) row

def Core.setRowBits (c : Core) (t row v : Nat) : Core := c.setTileBytes t row 0 (leBytesOf 128 v)

/-- Elements of a tile row are written; those outside the extent are discarded, and so is a write to tz (R68, R69). -/
def Core.writeElems (c : Core) (o : TileOp) (row : Nat) (l : List (Nat × Nat)) : Core :=
  match o.tile with
  | none => c
  | some t =>
    if o.sh.rows < row then c
    else c.setRowBits t.val row (putElems o.sh.fmt.width (c.rowBits t.val row) (l.filter fun p => decide (p.1 ≤ o.sh.cols)))

/-! ### Matrices (R226) -/

/-- Whether every tile row and element index that a matrix of `n` rows of `m` elements from `row0` forms is in bounds (R225, R226); of tz
only the TSHAPE is not looked at (log entry 33). -/
def TileOp.fits (o : TileOp) (row0 n m : Nat) : Bool :=
  let f := o.sh.fmt
  if o.dir == .c then decide (row0 + m ≤ 128) && decide (n ≤ f.lanes)
  else if f.width = 32 then decide (m ≤ 64) && decide (row0 + 2 * (n - 1) + (m - 1) / 32 ≤ 127)
  else decide (row0 + n ≤ 128) && decide (m ≤ f.lanes)

/-- Row i of a matrix as `m` elements. -/
def Core.matRow (c : Core) (o : TileOp) (row0 i m : Nat) : List Nat :=
  let w := o.sh.fmt.width
  if o.dir == .c then (List.range m).map fun e => elemOf (c.rowIn o (row0 + e)) w i
  else if w = 32 then
    let a := c.rowIn o (row0 + 2 * i)
    let b := c.rowIn o (row0 + 2 * i + 1)
    (List.range m).map fun e => if e < 32 then elemOf a 32 e else elemOf b 32 (e - 32)
  else
    let a := c.rowIn o (row0 + i)
    (List.range m).map fun e => elemOf a w e

/-- A matrix of `n` rows of `m` elements. -/
def Core.mat (c : Core) (o : TileOp) (row0 n m : Nat) : List (List Nat) :=
  (List.range n).map fun i => c.matRow o row0 i m

/-- Row i of a matrix is written. -/
def Core.writeMatRow (c : Core) (o : TileOp) (row0 i : Nat) (vals : List Nat) : Core :=
  if o.sh.fmt.width = 32 then
    let c1 := c.writeElems o (row0 + 2 * i) ((vals.take 32).zipIdx.map fun p => (p.2, p.1))
    if (vals.drop 32).isEmpty then c1
    else c1.writeElems o (row0 + 2 * i + 1) ((vals.drop 32).zipIdx.map fun p => (p.2, p.1))
  else c.writeElems o (row0 + i) (vals.zipIdx.map fun p => (p.2, p.1))

/-- A matrix is written from its first row on. -/
def Core.writeMat (c : Core) (o : TileOp) (row0 : Nat) (vals : List (List Nat)) : Core :=
  vals.zipIdx.foldl (fun x p => x.writeMatRow o row0 p.2 p.1) c

/-! ### Accumulators (R222) -/

def accKey (a : Fin 4) (i j : Nat) : Nat := a.val * 4096 + i * 64 + j
def Core.cell (c : Core) (a : Fin 4) (i j : Nat) : W32 := sget (0 : W32) c.acc (accKey a i j)
def Core.setCell (c : Core) (a : Fin 4) (i j : Nat) (v : W32) : Core := { c with acc := sset (0 : W32) c.acc (accKey a i j) v }

/-- The cells of a block of `n` rows of `m` columns take new values, computed from row and column, with the flags of all. -/
def Core.mapCells (c : Core) (a : Fin 4) (n m : Nat) (f : Nat → Nat → W32 × Fl) : Core × Fl :=
  (List.range n).foldl (fun x i => (List.range m).foldl (fun y j =>
    let r := f i j
    (y.1.setCell a i j r.1, y.2 ||| r.2)) x) (c, 0)

/-- A block is zeroed. -/
def Core.zeroCells (c : Core) (a : Fin 4) (n m : Nat) : Core := (c.mapCells a n m fun _ _ => (0, 0)).1

/-! ### Rounding overrides (R29, R91) -/

/-- The effective rounding mode of an override field; none where it is 5, 6 or 7. -/
def effRm (field fcsr : Nat) : Option Rm := if field = 7 then Rm.ofCode fcsr else Rm.ofCode field

/-- The mode of a word that rounds where `rounds` holds; its RM is zero where it does not round (R91). -/
def Issue.rm (i : Issue) (field : Fin 8) (rounds : Bool) : Option Rm :=
  if rounds then effRm field.val (fcsrRm i.c.fcsr) else if field = 0 then some .rne else none

/-- A word that has its effect on the core at issue: the new core and the flags that it sets. -/
def Issue.done (i : Issue) (s : State) (pt : Fin 8) (r : Core × Fl) : Iss :=
  .ok (s.setCore i.k r.1) { Flight.plain i.upc pt with flags := r.2 }

end Sys2Proof.Machine
end

