-- ==== Sys2Proof/Machine/Array.lean ====
section
/-! DEFINITION. The array engine (R222 to R245): products, sparse products, tables, distances, drains, scaling, centroids and
accumulator moves. Effects reach the core at issue; the flags of a word reach FLAGS when it completes. -/

namespace Sys2Proof.Machine

/-! ### Sums (R43 to R51) -/

/-- The order of a product by its formats (R230). -/
inductive SumOrder where
  | chain | pairs | sat
  deriving DecidableEq, Repr

def isHalf (f : Fmt) : Bool := f == .bf16 || f == .fp16
def isByteInt (f : Fmt) : Bool := f == .int8 || f == .uint8

/-- The format pairs of R230 and their orders. -/
def sumOrder (fa fb : Fmt) : Option SumOrder :=
  if isHalf fa && (isHalf fb || fb.isK) then some .chain
  else if fa.isK && isHalf fb then some .chain
  else if fa.isK && fb.isK then some .pairs
  else if (isByteInt fa && (isByteInt fb || fb == .int4)) || (fa == .int4 && (isByteInt fb || fb == .int4)) then some .sat
  else none

/-- R45: one rounding for each product. -/
def sumChain (env : NumEnv) (fa fb : Fmt) : W32 × Fl → List (Nat × Nat) → W32 × Fl
  | x, [] => x
  | x, (a, b) :: t =>
    let r := fma32 env (val32 env x.1) (decodeFloat env fa a) (decodeFloat env fb b)
    sumChain env fa fb (r.1, x.2 ||| r.2) t

/-- R46: products in pairs, an odd last one completed by +0. -/
def sumPairs (env : NumEnv) (fa fb : Fmt) : W32 × Fl → List (Nat × Nat) → W32 × Fl
  | x, [] => x
  | x, [(a, b)] => pairStep x (exactMul (decodeFloat env fa a) (decodeFloat env fb b)) (.fin false 0 0, 0)
  | x, (a, b) :: (a', b') :: t =>
    sumPairs env fa fb
      (pairStep x (exactMul (decodeFloat env fa a) (decodeFloat env fb b)) (exactMul (decodeFloat env fa a') (decodeFloat env fb b'))) t
where
  pairStep (x : W32 × Fl) (p q : FVal × Fl) : W32 × Fl :=
    let s := add32 env p.1 q.1
    let r := add32 env (val32 env x.1) (val32 env s.1)
    (r.1, x.2 ||| p.2 ||| q.2 ||| s.2 ||| r.2)

/-- R47: exact steps, saturated. -/
def sumSat (fa fb : Fmt) : W32 × Fl → List (Nat × Nat) → W32 × Fl
  | x, [] => x
  | x, (a, b) :: t =>
    let r := sat32 (x.1.toInt + intOfBits fa a * intOfBits fb b)
    sumSat fa fb (r.1, x.2 ||| r.2) t

/-- The sum of a cell over its present terms (R45 to R48). -/
def sumTerms (env : NumEnv) (o : SumOrder) (fa fb : Fmt) (x : W32) (l : List (Nat × Nat)) : W32 × Fl :=
  match o with
  | .chain => sumChain env fa fb (x, 0) l
  | .pairs => sumPairs env fa fb (x, 0) l
  | .sat => sumSat fa fb (x, 0) l

/-- The value that a cell starts from: +0 under ZA (R230). -/
def startCell (c : Core) (a : Fin 4) (za : Bool) (i j : Nat) : W32 := if za then 0 else c.cell a i j

/-- A format of a word; none where the code is reserved or not in a list (R225). -/
def fmtIn (code : Nat) (l : List Fmt) : Option Fmt :=
  match Fmt.ofCode code with
  | some f => if l.contains f then some f else none
  | none => none

def floats16 : List Fmt := [.bf16, .fp16, .k8, .k8w]
def prodFmts : List Fmt := [.bf16, .fp16, .k8, .k8w, .int8, .uint8, .int4]

/-! ### Products (R230 to R233) -/

/-- What AMMA, AMMAS and AMMAZ share: formats, order, accumulator, A and B. -/
structure ProdOps where
  fa : Fmt
  fb : Fmt
  order : SumOrder
  acc : Fin 4
  a : TileOp
  b : TileOp

/-- The formats and operands of a product; none where the word faults (R225, R230 to R233). -/
def prodOps (i : Issue) (w : AmWord) (dirsA : List Dir) : Option ProdOps :=
  match fmtIn w.mod.fa.val prodFmts, fmtIn w.mod.fb.val prodFmts with
  | some fa, some fb =>
    (match sumOrder fa fb, i.accOp 0 w.ops.d, i.tileOp 1 w.ops.s1 dirsA [fa] fa, i.tileOp 2 w.ops.s2 [.r, .c] [fb] fb with
    | some o, some d, some a, some b => some ⟨fa, fb, o, d, a, b⟩
    | _, _, _, _ => none)
  | _, _ => none

/-- B's columns: element b(k, j) for column j (R230). -/
def bColumns (c : Core) (b : TileOp) (row0 kn cols : Nat) : List (List Nat) :=
  -- with DIR C the matrix of R226 gives element (k, j) from tile row row0 + j, element k
  let rows := c.mat b row0 kn cols
  (List.range cols).map fun j => rows.map fun r => nth 0 r j

/-- The result block of a product from the present terms of each row: positions k with A elements (R48). -/
def prodCells (i : Issue) (p : ProdOps) (w : AmWord) (terms : Nat → List (Nat × Nat)) (cols : List (List Nat)) : Core × Fl :=
  i.c.mapCells p.acc (w.mod.mr.val + 1) (w.mod.nc.val + 1) fun r j =>
    let col := nth [] cols j
    sumTerms i.env p.order p.fa p.fb (startCell i.c p.acc w.mod.za r j) ((terms r).map fun t => (t.2, nth 0 col t.1))

def execAmma (w : AmWord) (s : State) : Out :=
  engWord s (onEngine .a) w.tok noSkip fun i s1 =>
    match prodOps i w [.r, .c] with
    | none => .trap badOperand
    | some p =>
      let kn := w.mod.kn.val + 1
      let n := w.mod.mr.val + 1
      let m := w.mod.nc.val + 1
      let ra := w.mod.ra.val + i.rowoff
      let rb := w.mod.rb.val + i.rowoff
      if w.mod.sel ≠ 0 ∨ p.a.fits ra n kn = false ∨ p.b.fits rb kn m = false then .trap badOperand
      else
        let rows := i.c.mat p.a ra n kn
        i.done s1 w.tok.pt (prodCells i p w (fun r => (nth [] rows r).zipIdx.map fun e => (e.2, e.1)) (bColumns i.c p.b rb kn m))

/-- Whether a list of positions rises strictly (R232). -/
def rising : List Nat → Bool
  | [] => true
  | [_] => true
  | a :: b :: t => decide (a < b) && rising (b :: t)

/-- The 3-bit positions of group g of a metadata row (R232). -/
def groupPos (meta_ n g : Nat) : List Nat := (List.range n).map fun x => bitsNat meta_ (3 * (g * n + x)) 3

def execAmmas (w : AmWord) (s : State) : Out :=
  engWord s (onEngine .a) w.tok noSkip fun i s1 =>
    match prodOps i w [.r], i.tileOp 3 w.ops.s3 [.r] [.uint8] .uint8 with
    | some p, some md =>
      let kn := w.mod.kn.val + 1
      let per := match w.mod.sel.val with
        | 0 => 4 | 1 => 2 | _ => 1
      let groups := kn / 8
      let n := w.mod.mr.val + 1
      let m := w.mod.nc.val + 1
      let ra := w.mod.ra.val + i.rowoff
      let rb := w.mod.rb.val + i.rowoff
      if p.order == .sat || w.mod.sel == 3 || decide (kn % 8 ≠ 0) || !p.a.fits ra n (groups * per) || !p.b.fits rb kn m
          || !md.fits ra n 1 then .trap badOperand
      else
        let positions := (List.range n).map fun r =>
          (List.range groups).map fun g => groupPos (i.c.rowIn md (ra + r)) per g
        if positions.any fun row => row.any fun l => !rising l then .trap badOperand
        else
          let rows := i.c.mat p.a ra n (groups * per)
          let terms (r : Nat) : List (Nat × Nat) :=
            let ks := ((nth [] positions r).zipIdx).flatMap fun g => g.1.map fun x => 8 * g.2 + x
            ks.zip (nth [] rows r)
          i.done s1 w.tok.pt (prodCells i p w terms (bColumns i.c p.b rb kn m))
    | _, _ => .trap badOperand

def execAmmaz (w : AmWord) (s : State) : Out :=
  engWord s (onEngine .a) w.tok noSkip fun i s1 =>
    match prodOps i w [.r], i.tileOp 3 w.ops.s3 [.r] [.bit1] .bit1 with
    | some p, some z =>
      let kn := w.mod.kn.val + 1
      let n := w.mod.mr.val + 1
      let m := w.mod.nc.val + 1
      let ra := w.mod.ra.val + i.rowoff
      let rb := w.mod.rb.val + i.rowoff
      if w.mod.sel ≠ 0 ∨ p.a.fits ra n kn = false ∨ p.b.fits rb kn m = false ∨ z.fits ra n kn = false then .trap badOperand
      else
        let rows := i.c.mat p.a ra n kn
        let maps := (List.range n).map fun r => i.c.rowIn z (ra + r)
        let terms (r : Nat) : List (Nat × Nat) :=
          ((nth [] rows r).zipIdx.map fun e => (e.2, e.1)).filter fun e => bitsNat (nth 0 maps r) e.1 1 == 1
        i.done s1 w.tok.pt (prodCells i p w terms (bColumns i.c p.b rb kn m))
    | _, _ => .trap badOperand

/-! ### Tables (R234 to R236) -/

def tableFmts : List Fmt := [.fp32, .bf16, .fp16]

/-- The byte offset of entry (s, c, j) (R234). -/
def tableAt (ncodes z s c j : Nat) : Nat := ((s * ncodes + c) * 64 + j) * z
/-- Whether subspaces 0 to `s` fit the store (R234). -/
def tableFits (ncodes z s : Nat) : Bool := decide ((s + 1) * ncodes * 64 * z ≤ 65536)

/-- The entry of code c, column j: a sum over the dimensions, rounded to the table format (R235). -/
def tableEntry (env : NumEnv) (fa fb tf : Fmt) (terms : List (Nat × Nat)) : Nat × Fl :=
  let t := sumChain env fa fb (0, 0) terms
  if tf == .fp32 then (t.1.toNat, t.2)
  else
    let r := roundTo env tf .rne false (val32 env t.1)
    (r.1, t.2 ||| r.2)

def execAtbld (w : AtWord) (s : State) : Out :=
  engWord s (onEngine .a) w.tok noSkip fun i s1 =>
    let m := w.mod
    match fmtIn m.fa.val floats16, fmtIn m.fb.val floats16, fmtIn m.tf.val tableFmts with
    | some fa, some fb, some tf =>
      (match i.tileOp 1 w.ops.s1 [.r] [fa] fa, i.tileOp 2 w.ops.s2 [.r] [fb] fb with
      | some cb, some wt =>
        let ncodes := if m.ncode then 256 else 16
        let z := tf.width / 8
        let dims := m.ds.val + 1
        let cols := m.nc.val + 1
        let ra := m.ra.val + i.rowoff
        let rb := m.rb.val + i.rowoff
        -- the second tile of a 256-code codebook (R227, R235); with tz its number would pass 47
        let second : Option TileOp :=
          if !m.ncode then some cb
          else match cb.tile with
            | none => none
            | some t =>
              if h : t.val + 1 < 48 then
                (match shapeOf i.c.tshape[t.val + 1] with
                | some sh => if sh.fmt == fa then some ⟨some ⟨t.val + 1, h⟩, sh, .r⟩ else none
                | none => none)
              else none
        match second with
        | none => .trap badOperand
        | some cb2 =>
          let fits1 := if m.ncode then decide (ra = 0) && cb.fits 0 128 dims && cb2.fits 0 128 dims else cb.fits ra 16 dims
          if !fits1 || !wt.fits rb dims cols || !tableFits ncodes z m.sub.val then .trap badOperand
          else if m.ncode && wt.tile.isSome && (wt.tile == cb.tile || wt.tile == cb2.tile) then .trap (.plain .illegalOverlap)
          else
            let wcols := bColumns i.c wt rb dims cols
            let row (c : Nat) : List Nat :=
              if m.ncode then (if c < 128 then i.c.matRow cb 0 c dims else i.c.matRow cb2 0 (c - 128) dims)
              else i.c.matRow cb ra c dims
            let r := (List.range ncodes).foldl (fun (x : List (Nat × Byte) × Fl) c =>
              let codes := row c
              (List.range cols).foldl (fun y j =>
                let e := tableEntry i.env fa fb tf (codes.zip (nth [] wcols j))
                (ssetRun (0 : Byte) y.1 (tableAt ncodes z m.sub.val c j) (leBytesOf z e.1), y.2 ||| e.2)) x) (i.c.table, (0 : Fl))
            i.done s1 w.tok.pt ({ i.c with table := r.1 }, r.2)
      | _, _ => .trap badOperand)
    | _, _, _ => .trap badOperand

/-- The table part of R49 for one cell: entries added in turn. -/
def sumTable (env : NumEnv) (tf : Fmt) : W32 × Fl → List Nat → W32 × Fl
  | x, [] => x
  | x, e :: t =>
    let r := add32 env (val32 env x.1) (decodeFloat env tf e)
    sumTable env tf (r.1, x.2 ||| r.2) t

def execAtmma (w : AmWord) (s : State) : Out :=
  engWord s (onEngine .a) w.tok noSkip fun i s1 =>
    match fmtIn w.mod.fa.val [.ix4, .ix8], fmtIn w.mod.fb.val tableFmts with
    | some fx, some tf =>
      (match i.accOp 0 w.ops.d, i.tileOp 1 w.ops.s1 [.r] [fx] fx with
      | some d, some codes =>
        let ncodes := if fx == .ix4 then 16 else 256
        let z := tf.width / 8
        let n := w.mod.mr.val + 1
        let ra := w.mod.ra.val + i.rowoff
        let s0 := w.mod.rb.val
        let nsub := w.mod.kn.val + 1
        if w.mod.sel ≠ 0 ∨ codes.fits ra n 1 = false ∨ fx.lanes < s0 + nsub ∨ tableFits ncodes z (s0 + nsub - 1) = false then
          .trap badOperand
        else
          let rows := i.c.mat codes ra n (s0 + nsub)
          i.done s1 w.tok.pt (i.c.mapCells d n (w.mod.nc.val + 1) fun r j =>
            let es := (List.range nsub).map fun x =>
              leNum (sgetRun (0 : Byte) i.c.table (tableAt ncodes z (s0 + x) (nth 0 (nth [] rows r) (s0 + x)) j) z)
            sumTable i.env tf (startCell i.c d w.mod.za r j, 0) es)
      | _, _ => .trap badOperand)
    | _, _ => .trap badOperand

/-! ### Distances (R237, R238) -/

/-- One step of R50. -/
def distStep (env : NumEnv) (metric : Nat) (x : W32 × Fl) (a b : FVal) : W32 × Fl :=
  let c := val32 env x.1
  match metric with
  | 0 =>
    let d := sub32 env a b
    let r := add32 env c (val32 env d.1).abs
    (r.1, x.2 ||| d.2 ||| r.2)
  | 1 =>
    let d := sub32 env a b
    let q := mul32 env (val32 env d.1) (val32 env d.1)
    let r := add32 env c (val32 env q.1)
    (r.1, x.2 ||| d.2 ||| q.2 ||| r.2)
  | _ =>
    let r := fma32 env c a.negate b
    (r.1, x.2 ||| r.2)

def sumDist (env : NumEnv) (metric : Nat) (fa fb : Fmt) : W32 × Fl → List (Nat × Nat) → W32 × Fl
  | x, [] => x
  | x, (a, b) :: t => sumDist env metric fa fb (distStep env metric x (decodeAny env fa a) (decodeAny env fb b)) t

/-- Number of 1 bits of a 64-bit word. -/
def popNat (n : Nat) : Nat := ((List.range 64).filter fun b => bitsNat n b 1 == 1).length

def sumHamming : W32 × Fl → List (Nat × Nat) → W32 × Fl
  | x, [] => x
  | x, (a, b) :: t =>
    let r := sat32 (x.1.toInt + popNat (a ^^^ b))
    sumHamming (r.1, x.2 ||| r.2) t

def distFmts : List Fmt := [.bf16, .fp16, .k8, .k8w, .int8, .uint8]

def execAdist (w : AmWord) (s : State) : Out :=
  engWord s (onEngine .a) w.tok noSkip fun i s1 =>
    let ham := w.mod.sel == 3
    let fs := if ham then [.bit1] else distFmts
    match fmtIn w.mod.fa.val fs, fmtIn w.mod.fb.val fs with
    | some fa, some fb =>
      (match i.accOp 0 w.ops.d, i.tileOp 1 w.ops.s1 [.r] [fa] fa, i.tileOp 2 w.ops.s2 [.r] [fb] fb with
      | some d, some q, some v =>
        let kn := w.mod.kn.val + 1
        let n := w.mod.mr.val + 1
        let m := w.mod.nc.val + 1
        let ra := w.mod.ra.val + i.rowoff
        let rb := w.mod.rb.val + i.rowoff
        let ne := if ham then 64 * kn else kn
        if fa.lanes < ne ∨ fb.lanes < ne ∨ q.fits ra n ne = false ∨ v.fits rb m ne = false then .trap badOperand
        else
          let row (o : TileOp) (r : Nat) : List Nat :=
            if ham then (List.range kn).map fun x => bitsNat (i.c.rowIn o r) (64 * x) 64 else i.c.matRow o r 0 kn
          let as := (List.range n).map fun r => row q (ra + r)
          let bs := (List.range m).map fun r => row v (rb + r)
          i.done s1 w.tok.pt (i.c.mapCells d n m fun r j =>
            let x := (startCell i.c d w.mod.za r j, (0 : Fl))
            let l := (nth [] as r).zip (nth [] bs j)
            if ham then sumHamming x l else sumDist i.env w.mod.sel.val fa fb x l)
      | _, _, _ => .trap badOperand)
    | _, _ => .trap badOperand

/-- The bits of a distance as it is read (R34, R228, R238): under FTZ32 a subnormal FP32 operand is a zero of its sign. -/
def seenDist (env : NumEnv) (int : Bool) (x : W32) : W32 :=
  if int then x
  else match val32 env x with
    | .fin _ 0 _ => x &&& 0x80000000
    | _ => x

/-- Distances in the order of the comparator chain (R44, R238). -/
def distCmp (env : NumEnv) (int : Bool) (x y : W32) : Ordering :=
  if int then compare x.toInt y.toInt else cmpR44 (val32 env x) (val32 env y)

/-- better (R238): whether candidate x takes the place of y. -/
def better (env : NumEnv) (int hi : Bool) (x y : W32 × W32) : Bool :=
  match distCmp env int x.2 y.2 with
  | .lt => true
  | .gt => false
  | .eq => if hi then y.1.ult x.1 else x.1.ult y.1

/-- The best of a row of candidates, after a carry-in where there is one (R238). -/
def bestOf (env : NumEnv) (int hi : Bool) : Option (W32 × W32) → List (W32 × W32) → W32 × W32
  | none, [] => (0, 0)
  | some b, [] => b
  | none, x :: t => bestOf env int hi (some x) t
  | some b, x :: t => bestOf env int hi (some (if better env int hi x b then x else b)) t

def execAargmin (w : ArWord) (s : State) : Out :=
  engWord s (onEngine .a) w.tok noSkip fun i s1 =>
    let m := w.mod
    match i.tileOp 0 w.ops.d [.r] [.fp32, .int32] .fp32, i.accOp 1 w.ops.s1 with
    | some d, some a =>
      let rd := m.rd.val + i.rowoff
      let n := m.mr.val + 1
      if d.sh.cols < 1 ∨ 127 < rd + m.mr.val then .trap badOperand
      else
        let off : W32 := i.c.e[m.idxe].setWidth 32
        let nonFin (x : W32) : Bool := !m.aint && (val32 i.env x).nonFinite
        let r := (List.range n).foldl (fun (x : Core × Fl) q =>
          let row := i.c.rowIn d (rd + q)
          let carry : Option (W32 × W32) :=
            if m.cin then some (BitVec.ofNat 32 (elemOf row 32 0), seenDist i.env m.aint (BitVec.ofNat 32 (elemOf row 32 1))) else none
          let cands := (List.range (m.nc.val + 1)).map fun j => (off + BitVec.ofNat 32 j, seenDist i.env m.aint (i.c.cell a q j))
          let b := bestOf i.env m.aint m.tie carry cands
          let nf := cands.any (fun c => nonFin c.2) || (match carry with | some c => nonFin c.2 | none => false)
          (x.1.writeElems d (rd + q) [(0, b.1.toNat), (1, b.2.toNat)], x.2 ||| flIf nf flNF)) (i.c, (0 : Fl))
        let c := if m.idxinc then
            setE r.1 m.idxe (w64 ((i.c.e[m.idxe]).toNat / 2 ^ 32 * 2 ^ 32 + (off + BitVec.ofNat 32 (m.nc.val + 1)).toNat))
          else r.1
        i.done s1 w.tok.pt (c, r.2)
    | _, _ => .trap badOperand

/-! ### Drains (R239 to R241) -/

def drainFmts : List Fmt := [.fp32, .bf16, .fp16, .k8, .k8w, .int32, .int16, .int8, .uint8, .int4]

/-- What a drain does to each cell. -/
structure DrainOps where
  f : Fmt
  rm : Rm
  acc : Fin 4
  biasFmt : Fmt
  bias : List Nat

/-- The bias row (R239): DIR B, its row `rowoff`. -/
def drainBias (i : Issue) (w : AdWord) (f : Fmt) : Option (Fmt × List Nat) :=
  if !w.mod.bias then (if w.ops.s2 = .zero then some (.fp32, []) else none)
  else
    match i.tileOp 2 w.ops.s2 [.b] (if f.isFloat then tableFmts else [.int32]) .fp32 with
    | none => none
    | some o =>
      let m := w.mod.nc.val + 1
      if o.fits i.rowoff 1 m then some (o.sh.fmt, i.c.matRow o i.rowoff 0 m) else none

/-- The checks that ADRAIN and ADRAINM share; none where the word faults ILLEGAL_OPERAND (R95, R239). -/
def drainOps (i : Issue) (w : AdWord) : Option DrainOps :=
  match fmtIn w.mod.dfmt.val drainFmts with
  | none => none
  | some f =>
    if w.mod.clamp = 3 ∨ (w.mod.clamp ≠ 2 ∧ w.mod.cle ≠ 0) then none
    else match i.rm w.mod.rm f.isFloat, i.accOp 1 w.ops.s1, drainBias i w f with
      | some rm, some a, some b => some ⟨f, rm, a, b.1, b.2⟩
      | _, _, _ => none

/-- The clamps of a float drain on a value (R239): a NaN stays NaN, an equal bound keeps the value; the bounds are operands
of the step (R228). -/
def clampFloat (mode : Nat) (v lo hi : FVal) : FVal × Fl :=
  match mode with
  | 1 => (if v.isNaN || cmpR44 v (.fin false 0 0) == .gt then v else .fin false 0 0, flIf v.nonFinite flNF)
  | 2 =>
    let x := if !v.isNaN && cmpR44 v lo == .lt then lo else v
    let y := if !v.isNaN && cmpR44 x hi == .gt then hi else x
    (y, flIf (v.nonFinite || lo.nonFinite || hi.nonFinite) flNF)
  | _ => (v, 0)

def clampInt (mode : Nat) (v lo hi : Int) : Int :=
  match mode with
  | 1 => max v 0
  | 2 => min (max v lo) hi
  | _ => v

/-- The value of a drained cell (R239). -/
def drainCell (env : NumEnv) (p : DrainOps) (w : AdWord) (bounds : W64) (x : W32) (j : Nat) : Nat × Fl :=
  let lo : W32 := bounds.setWidth 32
  let hi : W32 := (bounds >>> 32).setWidth 32
  if p.f.isFloat then
    let v : FVal × Fl :=
      if w.mod.bias then
        let r := add32 env (val32 env x) (decodeFloat env p.biasFmt (nth 0 p.bias j))
        (val32 env r.1, r.2)
      else (val32 env x, 0)
    let c := clampFloat w.mod.clamp.val v.1 (val32 env lo) (val32 env hi)
    let r := roundTo env p.f p.rm w.mod.sat c.1
    (r.1, v.2 ||| c.2 ||| r.2)
  else
    let v : Int × Fl :=
      if w.mod.bias then
        let r := sat32 (x.toInt + intOfBits .int32 (nth 0 p.bias j))
        (r.1.toInt, r.2)
      else (x.toInt, 0)
    let r := intToInt p.f w.mod.sat (clampInt w.mod.clamp.val v.1 lo.toInt hi.toInt)
    (r.1, v.2 ||| r.2)

/-- The drained block by rows, with its flags. -/
def drainBlock (i : Issue) (p : DrainOps) (w : AdWord) : List (List Nat) × Fl :=
  let b := i.c.e[w.mod.cle]
  let cells := (List.range (w.mod.mr.val + 1)).map fun r =>
    (List.range (w.mod.nc.val + 1)).map fun j => drainCell i.env p w b (i.c.cell p.acc r j) j
  (cells.map fun r => r.map (·.1), cells.foldl (fun f r => r.foldl (fun g x => g ||| x.2) f) 0)

/-- CLR (R239): the drained cells become +0 after every read. -/
def drainClear (c : Core) (p : DrainOps) (w : AdWord) : Core :=
  if w.mod.clr then c.zeroCells p.acc (w.mod.mr.val + 1) (w.mod.nc.val + 1) else c

def execAdrain (w : AdWord) (s : State) : Out :=
  engWord s (onEngine .a) w.tok noSkip fun i s1 =>
    match drainOps i w with
    | none => .trap badOperand
    | some p =>
      match i.tileOp 0 w.ops.d [.r] [p.f] p.f with
      | none => .trap badOperand
      | some d =>
        let rd := w.mod.rd.val + i.rowoff
        if w.mod.eadr ≠ 0 ∨ w.mod.oc ≠ 0 ∨ d.fits rd (w.mod.mr.val + 1) (w.mod.nc.val + 1) = false then .trap badOperand
        else
          let b := drainBlock i p w
          i.done s1 w.tok.pt ((drainClear i.c p w).writeMat d rd b.1, b.2)

/-- `n` elements packed into bytes (R27). -/
def packRow (w : Nat) (l : List Nat) : List Byte :=
  leBytesOf ((l.length * w + 7) / 8) (putElems w 0 (l.zipIdx.map fun p => (p.2, p.1)))

/-- ADRAINM (R240, R241): the drained values stand in the drain buffer as stores in flight; the accumulator is free. -/
def execAdrainm (w : AdWord) (s : State) : Out :=
  engWord s (onEngine .a) w.tok noSkip fun i s1 =>
    match drainOps i w with
    | none => .trap badOperand
    | some p =>
      if h : w.mod.rd = 0 ∧ w.mod.eadr.val + 1 < 32 then
        let base := i.c.e[w.mod.eadr]
        let pitch := i.c.e[w.mod.eadr.val + 1]'h.2
        if !isAligned base 16 then .trap (.at .align base)
        else if !isAligned pitch 16 then .trap (.at .align (base + pitch))
        else
          let b := drainBlock i p w
          let reqs := b.1.zipIdx.map fun r =>
            s1.newReq w.mod.oc.val (.write (base + w64 r.2 * pitch) (packRow p.f.width r.1) [])
          .ok (s1.setCore i.k (drainClear i.c p w))
            { Flight.plain i.upc w.tok.pt with flags := b.2, reqs := reqs, wr := [48 + p.acc.val] }
      else .trap badOperand

/-- The rows of a word in flight are written in turn as far as their ports accept them (R240, R287): what is left of them, and the
fault that stopped them. -/
def acceptRows (s : State) (k : Fin 128) (upc : W64) : List Req → State × List Req × Option Trap
  | [] => (s, [], none)
  | r :: t =>
    match r.kind with
    | .write ea data bad =>
      (match s.portWrite k upc ea r.cls data bad with
      | .ok [] s1 => acceptRows s1 k upc t
      | .ok rest s1 => (s1, { r with kind := .write ea rest [] } :: t, none)
      | .wait s1 => (s1, r :: t, none)
      | .trap tr => (s, r :: t, some tr))
    | _ => (s, r :: t, none)

/-- The accumulator that a word in flight drained becomes undefined (R241). -/
def State.freeAcc (s : State) (k : Fin 128) (a : Nat) : State :=
  let c := s.core k
  let acc := (List.range 4096).foldl (fun l n =>
    sset (0 : W32) l (a * 4096 + n) (BitVec.ofNat 32 (Config.freeBits (s.freeCtr + n)))) c.acc
  { s.setCore k { c with acc := acc } with freeCtr := s.freeCtr + 4096 }

/-- The oldest ADRAINM with stores left has them accepted (R241), those through remote pages once their targets have performed them
(R347); a fault of a store is raised on its word, and the accumulator's contents are then undefined. -/
def execAdrainmStoresAccepted (core : Nat) (s : State) : Out :=
  let k := coreIx core
  if core < 128 ∧ (s.core k).fault = none then
    match (s.eng k .a).flight.find? (fun f => !f.reqs.isEmpty) with
    | none => .next s
    | some f =>
      let x := acceptRows s k f.upc f.reqs
      let s1 := x.1
      let y := s1.eng k .a
      let s2 := s1.setEng k .a { y with
        flight := updFirst (fun g => !g.reqs.isEmpty) (fun g => { g with reqs := x.2.1, out := g.out ++ sentBetween s s1 }) y.flight }
      match x.2.2 with
      | none => .next s2
      | some t => .next ((s2.freeAcc k (nth 48 f.wr 0 - 48)).raise k 3 f.upc t)
  else .next s

/-! ### Scaling and centroids (R242 to R244) -/

/-- One cell of R51. -/
def scaleStep (env : NumEnv) (x p sr sc : W32) : W32 × Fl :=
  let a := mul32 env (val32 env p) (val32 env sr)
  let b := mul32 env (val32 env a.1) (val32 env sc)
  let r := add32 env (val32 env x) (val32 env b.1)
  (r.1, a.2 ||| b.2 ||| r.2)

/-- P of ASCACC: an accumulator, or an FP32 tile in paired-row layout from the section row offset (R242). -/
inductive PSrc where
  | acc (a : Fin 4)
  | tile (t : TileOp)

def ascaccSrc (i : Issue) (w : AsWord) : Option PSrc :=
  match i.accOp 1 w.ops.s1 with
  | some a => some (.acc a)
  | none => match i.tileOp 1 w.ops.s1 [.r] [.fp32] .fp32 with
    | some t => if t.fits i.rowoff (w.mod.mr.val + 1) (w.mod.nc.val + 1) then some (.tile t) else none
    | none => none

def execAscacc (w : AsWord) (s : State) : Out :=
  engWord s (onEngine .a) w.tok noSkip fun i s1 =>
    let n := w.mod.mr.val + 1
    let m := w.mod.nc.val + 1
    match i.accOp 0 w.ops.d, ascaccSrc i w, i.tileOp 2 w.ops.s2 [.r] [.fp32] .fp32, i.tileOp 3 w.ops.s3 [.r] [.fp32] .fp32 with
    | some d, some p, some tr, some tc =>
      let ra := w.mod.ra.val + i.rowoff
      let rb := w.mod.rb.val + i.rowoff
      if w.mod.fmt ≠ 0 ∨ w.mod.rm ≠ 0 ∨ w.mod.sat = true ∨ tr.fits ra 1 n = false ∨ tc.fits rb 1 m = false then .trap badOperand
      else
        let sr := i.c.matRow tr ra 0 n
        let sc := i.c.matRow tc rb 0 m
        let ps : List (List Nat) := match p with
          | .acc a => (List.range n).map fun r => (List.range m).map fun j => (i.c.cell a r j).toNat
          | .tile t => i.c.mat t i.rowoff n m
        i.done s1 w.tok.pt (i.c.mapCells d n m fun r j =>
          scaleStep i.env (i.c.cell d r j) (BitVec.ofNat 32 (nth 0 (nth [] ps r) j)) (BitVec.ofNat 32 (nth 0 sr r)) (BitVec.ofNat 32 (nth 0 sc j)))
    | _, _, _, _ => .trap badOperand

def assignFmts : List Fmt := [.int32, .int16, .uint8, .ix8, .ix4]

/-- The assignments of ACENT (R243): a row vector, or with DIR C the first element of each row. -/
def assignments (c : Core) (o : TileOp) (rb n : Nat) : List Int :=
  let f := o.sh.fmt
  let bits := if o.dir == .c then (List.range n).map fun p => elemOf (c.rowIn o (rb + p)) f.width 0 else c.matRow o rb 0 n
  bits.map (intOfBits f)

/-- One point is added into the sum row of its centroid and counted (R243). -/
def addPoint (env : NumEnv) (fa : Fmt) (a : Fin 4) (x : Core × Fl) (p : Int × List Nat) : Core × Fl :=
  if 0 ≤ p.1 ∧ p.1 ≤ 63 then
    let c := p.1.toNat
    let y := p.2.zipIdx.foldl (fun (z : Core × Fl) e =>
      let r := add32 env (val32 env (z.1.cell a c e.2)) (decodeFloat env fa e.1)
      (z.1.setCell a c e.2 r.1, z.2 ||| r.2)) x
    let ix : Fin 64 := Fin.ofNat 64 c
    let n := y.1.counts[ix]
    ({ y.1 with counts := if n = BitVec.allOnes 32 then y.1.counts else y.1.counts.set ix (n + 1) }, y.2)
  else x

def execAcent (w : AmWord) (s : State) : Out :=
  engWord s (onEngine .a) w.tok noSkip fun i s1 =>
    match fmtIn w.mod.fa.val [.fp32, .bf16, .fp16, .k8, .k8w], fmtIn w.mod.fb.val assignFmts with
    | some fa, some fb =>
      (match i.accOp 0 w.ops.d, i.tileOp 1 w.ops.s1 [.r] [fa] fa, i.tileOp 2 w.ops.s2 [.r, .c] [fb] fb with
      | some d, some pt, some as =>
        let n := w.mod.mr.val + 1
        let m := w.mod.nc.val + 1
        let ra := w.mod.ra.val + i.rowoff
        let rb := w.mod.rb.val + i.rowoff
        let fitsA := if as.dir == .c then decide (rb + n ≤ 128) else as.fits rb 1 n
        if w.mod.kn ≠ 0 ∨ w.mod.sel ≠ 0 ∨ pt.fits ra n m = false ∨ fitsA = false then .trap badOperand
        else
          let start : Core := if w.mod.za then { i.c.zeroCells d 64 m with counts := Vector.replicate 64 0 } else i.c
          i.done s1 w.tok.pt (((assignments i.c as rb n).zip (i.c.mat pt ra n m)).foldl (addPoint i.env fa d) (start, 0))
      | _, _, _ => .trap badOperand)
    | _, _ => .trap badOperand

def execAcdiv (w : AsWord) (s : State) : Out :=
  engWord s (onEngine .a) w.tok noSkip fun i s1 =>
    match fmtIn w.mod.fmt.val [.fp32, .bf16, .fp16, .k8, .k8w] with
    | none => .trap badOperand
    | some f =>
      match i.tileOp 0 w.ops.d [.r] [f] f, i.accOp 1 w.ops.s1, i.rm w.mod.rm true with
      | some d, some a, some rm =>
        let n := w.mod.mr.val + 1
        let m := w.mod.nc.val + 1
        let ra := w.mod.ra.val + i.rowoff
        if w.mod.rb ≠ 0 ∨ d.fits ra n m = false then .trap badOperand
        else
          i.done s1 w.tok.pt ((List.range n).foldl (fun (x : Core × Fl) c =>
            let cnt := i.c.counts[Fin.ofNat 64 c]
            if cnt = 0 then x
            else
              let row := (List.range m).map fun j =>
                let q := divNat32 i.env (val32 i.env (i.c.cell a c j)) cnt.toNat
                let r := roundTo i.env f rm w.mod.sat (val32 i.env q.1)
                (r.1, q.2 ||| r.2)
              (x.1.writeMatRow d ra c (row.map (·.1)), row.foldl (fun g e => g ||| e.2) x.2)) (i.c, 0))
      | _, _, _ => .trap badOperand

/-! ### Accumulator moves (R245) -/

/-- The fields that are zero in a move (R96, R245). -/
def moveZero (w : AsWord) : Bool := w.mod.rm == 0 && !w.mod.sat && w.mod.rb == 0

def execAzero (w : AsWord) (s : State) : Out :=
  engWord s (onEngine .a) w.tok noSkip fun i s1 =>
    match i.accOp 0 w.ops.d with
    | some d =>
      if moveZero w = false ∨ w.mod.fmt ≠ 0 ∨ w.mod.ra ≠ 0 then .trap badOperand
      else i.done s1 w.tok.pt (i.c.zeroCells d (w.mod.mr.val + 1) (w.mod.nc.val + 1), 0)
    | none => .trap badOperand

def execAaccld (w : AsWord) (s : State) : Out :=
  engWord s (onEngine .a) w.tok noSkip fun i s1 =>
    match fmtIn w.mod.fmt.val [.fp32, .int32] with
    | none => .trap badOperand
    | some f =>
      match i.accOp 0 w.ops.d, i.tileOp 1 w.ops.s1 [.r] [f] f with
      | some d, some t =>
        let n := w.mod.mr.val + 1
        let m := w.mod.nc.val + 1
        let ra := w.mod.ra.val + i.rowoff
        if moveZero w = false ∨ t.fits ra n m = false then .trap badOperand
        else
          let rows := i.c.mat t ra n m
          i.done s1 w.tok.pt (i.c.mapCells d n m fun r j => (BitVec.ofNat 32 (nth 0 (nth [] rows r) j), 0))
      | _, _ => .trap badOperand

def execAaccst (w : AsWord) (s : State) : Out :=
  engWord s (onEngine .a) w.tok noSkip fun i s1 =>
    match fmtIn w.mod.fmt.val [.fp32, .int32] with
    | none => .trap badOperand
    | some f =>
      match i.tileOp 0 w.ops.d [.r] [f] f, i.accOp 1 w.ops.s1 with
      | some t, some a =>
        let n := w.mod.mr.val + 1
        let m := w.mod.nc.val + 1
        let ra := w.mod.ra.val + i.rowoff
        if moveZero w = false ∨ t.fits ra n m = false then .trap badOperand
        else
          let rows := (List.range n).map fun r => (List.range m).map fun j => (i.c.cell a r j).toNat
          i.done s1 w.tok.pt (i.c.writeMat t ra rows, 0)
      | _, _ => .trap badOperand

def execAmova (w : AsWord) (s : State) : Out :=
  engWord s (onEngine .a) w.tok noSkip fun i s1 =>
    match i.accOp 0 w.ops.d, i.accOp 1 w.ops.s1 with
    | some d, some a =>
      if moveZero w = false ∨ w.mod.fmt ≠ 0 ∨ w.mod.ra ≠ 0 then .trap badOperand
      else i.done s1 w.tok.pt (i.c.mapCells d (w.mod.mr.val + 1) (w.mod.nc.val + 1) fun r j => (i.c.cell a r j, 0))
    | _, _ => .trap badOperand

end Sys2Proof.Machine
end

