-- ==== Sys2Proof/Machine/Cache.lean ====
section
/-! DEFINITION. Cache range operations and fences (R186, R201 to R203). -/

namespace Sys2Proof.Machine

/-- Whether a line lies wholly inside, or overlaps, the range of `n` bytes from `a` (R201), by the virtual address that
allocated it (log entry 20). -/
def lineOverlaps (a n : Nat) (l : DLine) : Bool :=
  decide (0 < n) && decide (a < l.va.toNat + 128) && decide (l.va.toNat < a + n)
def lineInside (a n : Nat) (l : DLine) : Bool := decide (a ≤ l.va.toNat) && decide (l.va.toNat + 128 ≤ a + n)

/-- A range operation (R201): which lines it writes back and which it drops. -/
def rangeOp (g : Guard) (ra rb : Fin 32) (wb drop : Nat → Nat → DLine → Bool) (s : State) : Out :=
  ctl s g fun k c x =>
    let a := (x.getX ra).toNat
    let n := (x.getX rb).toNat
    .next ((s.flushLines k (wb a n) (drop a n)).advance k c)

/-- A line wholly inside is dropped and its dirty bytes lost; one partly inside is written back, then dropped (R201). -/
def execInvr (g : Guard) (ra rb : Fin 32) (s : State) : Out :=
  rangeOp g ra rb (fun a n l => lineOverlaps a n l && !lineInside a n l) lineOverlaps s
def execWbr (g : Guard) (ra rb : Fin 32) (s : State) : Out := rangeOp g ra rb lineOverlaps (fun _ _ _ => false) s
def execWbinvr (g : Guard) (ra rb : Fin 32) (s : State) : Out := rangeOp g ra rb lineOverlaps lineOverlaps s

/-- INVI drops every line of the instruction L1 and what the three contexts have fetched ahead (R186). -/
def dropIL1 (c : Core) : Core :=
  { c with
    il1 := []
    ld := { c.ld with ahead := none }
    cp := { c.cp with ahead := none }
    st := { c.st with ahead := none } }

def execInvi (g : Guard) (s : State) : Out :=
  ctl s g fun k c _ => .next ((s.setCore k (dropIL1 (s.core k))).advance k c)

/-! ### Fences (R202, R203)

Each access of a context is performed within its step, but for a store through a remote page, which is performed when
its target answers. A fence holds the context until its stores through remote pages in the classes named are performed. -/

/-- The classes that a mask names: all sixteen for mask 0 in the kinds other than cls (R203). -/
def maskHas (all : Bool) (m : BitVec 16) (cls : Nat) : Bool := (all && m == 0) || m.getLsbD cls

def atLeastQuad : Scope → Bool
  | .core => false | _ => true

/-- A fence over classes: it waits for the stores it covers, then acts on the data L1 and the context goes on (R203). -/
def fence (g : Guard) (has : Nat → Bool) (f : State → Fin 128 → State) (s : State) : Out :=
  ctl s g fun k c _ => if storesPending s k c has then .next s else .next ((f s k).advance k c)

/-- At scope quad or wider a release writes back every dirty line; an acquire also drops every line (R203). -/
def relLines (sc : Scope) (s : State) (k : Fin 128) : State :=
  if atLeastQuad sc then s.flushLines k (fun _ => true) (fun _ => false) else s
def acqLines (sc : Scope) (s : State) (k : Fin 128) : State := if atLeastQuad sc then s.dropL1 k else s

def execFenceCls (g : Guard) (mask : BitVec 16) (s : State) : Out := fence g (maskHas false mask) (fun s _ => s) s
def execFenceRel (g : Guard) (sc : Scope) (mask : BitVec 16) (s : State) : Out := fence g (maskHas true mask) (relLines sc) s
def execFenceAcq (g : Guard) (sc : Scope) (_mask : BitVec 16) (s : State) : Out := fence g (fun _ => false) (acqLines sc) s
def execFenceAr (g : Guard) (sc : Scope) (mask : BitVec 16) (s : State) : Out := fence g (maskHas true mask) (acqLines sc) s

end Sys2Proof.Machine
end

