-- ==== Sys2Proof/Machine/Atomic.lean ====
section
/-! DEFINITION. Atomics and reductions, software queues and role rings (R204 to R210, R355, R356). -/

namespace Sys2Proof.Machine

/-! ### The operators (R204, R206) -/

/-- FADD at a port (R206): RNE, subnormals kept, the canonical NaN, no flag. -/
def portFadd (a b : W32) : W32 := (add32 ⟨false, false⟩ (FVal.ofBits .fp32 a.toNat) (FVal.ofBits .fp32 b.toNat)).1

/-- The new memory value for operands of `w` bits: m the memory operand, b the source, e the expected value of CAS (R204). -/
def atomicOp (op : AtomicOp) (w : Nat) (m b e : Nat) : Nat :=
  let x := BitVec.ofNat w m
  let y := BitVec.ofNat w b
  (match op with
  | .swap => y
  | .add => x + y
  | .and => x &&& y
  | .or => x ||| y
  | .xor => x ^^^ y
  | .min => if y.slt x then y else x
  | .max => if x.slt y then y else x
  | .minu => if y.ult x then y else x
  | .maxu => if x.ult y then y else x
  | .fadd => BitVec.ofNat w (portFadd (BitVec.ofNat 32 m) (BitVec.ofNat 32 b)).toNat
  | .cas => if x == BitVec.ofNat w e then y else x).toNat

/-- Where an atomic is performed (R205): a scratchpad bank or device memory; a host or remote page faults PERM. -/
def atomicDest (s : State) (k : Fin 128) (ea : W64) (n : Nat) : Got Nat :=
  match spaceOf k ea with
  | none => .trap (.at .perm ea)
  | some (.sram q off) =>
    (match s.padCheck k ea q off n with
    | .trap t => .trap t
    | .wait => .wait s
    | .ok _ => .ok (sramFlat q off) s)
  | some (.virt va) =>
    match s.virtual k va n .atomic with
    | .error t => .trap t
    | .ok (ds, s1) =>
      match ds with
      | (.here flat false, _) :: _ => .ok flat s1
      | _ => .trap (.at .perm ea)

/-- A line of the data L1 that holds an address of the access is written back and dropped first (R205). -/
def dropLineAt (s : State) (k : Fin 128) (flat n : Nat) : State :=
  let at_ (l : DLine) : Bool := decide (l.pa < flat + n) && decide (flat < l.pa + 128)
  s.flushLines k at_ at_

/-- An atomic at its port (R205, R301): ALIGN, the checks, poison, then one action on memory; it waits for the context's earlier stores
through remote pages in its class (R346). -/
def atomic (op : AtomicOp) (g : Guard) (ra rb : Fin 32) (cls : Fin 4) (dbl : Bool) (exp : Ctx → Nat) (s : State)
    (ret : State → Fin 128 → CtxId → Nat → State) : Out :=
  ctl s g fun k c x =>
    let n := if dbl then 8 else 4
    let ea := x.getX ra
    if !isAligned ea n then .next (s.raiseCtx k c (.at .align ea))
    else if storesPending s k c (· == cls.val) then .next s
    else (atomicDest s k ea n).run s k c fun flat s1 =>
      match (dropLineAt s1 k flat n).mem.poisonedAt flat n with
      | some sec => .next (s.raiseCtx k c (poisonTrap ea sec))
      | none =>
        let s2 := dropLineAt s1 k flat n
        let m := s2.mem.num flat n
        .next (ret (s2.setMem (s2.mem.setNum flat n (atomicOp op (8 * n) m (x.getX rb).toNat (exp x)))) k c m)

/-- AMO writes the old value into x[rd], zero-extended (R204). -/
def amo (op : AtomicOp) (g : Guard) (rd ra rb : Fin 32) (cls : Fin 4) (dbl : Bool) (s : State) : Out :=
  atomic op g ra rb cls dbl (fun x => (x.getX rd).toNat) s fun s1 k c m => s1.retX k c rd (w64 m)
/-- RED writes no register (R204). -/
def red (op : AtomicOp) (g : Guard) (ra rb : Fin 32) (cls : Fin 4) (dbl : Bool) (s : State) : Out :=
  atomic op g ra rb cls dbl (fun _ => 0) s fun s1 k c _ => s1.advance k c

def execAmoSwap (g : Guard) (rd ra rb : Fin 32) (cls : Fin 4) (dbl : Bool) (s : State) : Out := amo .swap g rd ra rb cls dbl s
def execAmoAdd (g : Guard) (rd ra rb : Fin 32) (cls : Fin 4) (dbl : Bool) (s : State) : Out := amo .add g rd ra rb cls dbl s
def execAmoAnd (g : Guard) (rd ra rb : Fin 32) (cls : Fin 4) (dbl : Bool) (s : State) : Out := amo .and g rd ra rb cls dbl s
def execAmoOr (g : Guard) (rd ra rb : Fin 32) (cls : Fin 4) (dbl : Bool) (s : State) : Out := amo .or g rd ra rb cls dbl s
def execAmoXor (g : Guard) (rd ra rb : Fin 32) (cls : Fin 4) (dbl : Bool) (s : State) : Out := amo .xor g rd ra rb cls dbl s
def execAmoMin (g : Guard) (rd ra rb : Fin 32) (cls : Fin 4) (dbl : Bool) (s : State) : Out := amo .min g rd ra rb cls dbl s
def execAmoMax (g : Guard) (rd ra rb : Fin 32) (cls : Fin 4) (dbl : Bool) (s : State) : Out := amo .max g rd ra rb cls dbl s
def execAmoMinu (g : Guard) (rd ra rb : Fin 32) (cls : Fin 4) (dbl : Bool) (s : State) : Out := amo .minu g rd ra rb cls dbl s
def execAmoMaxu (g : Guard) (rd ra rb : Fin 32) (cls : Fin 4) (dbl : Bool) (s : State) : Out := amo .maxu g rd ra rb cls dbl s
def execAmoFadd (g : Guard) (rd ra rb : Fin 32) (cls : Fin 4) (s : State) : Out := amo .fadd g rd ra rb cls false s
def execAmoCas (g : Guard) (rd ra rb : Fin 32) (cls : Fin 4) (dbl : Bool) (s : State) : Out := amo .cas g rd ra rb cls dbl s
def execRedAdd (g : Guard) (ra rb : Fin 32) (cls : Fin 4) (dbl : Bool) (s : State) : Out := red .add g ra rb cls dbl s
def execRedAnd (g : Guard) (ra rb : Fin 32) (cls : Fin 4) (dbl : Bool) (s : State) : Out := red .and g ra rb cls dbl s
def execRedOr (g : Guard) (ra rb : Fin 32) (cls : Fin 4) (dbl : Bool) (s : State) : Out := red .or g ra rb cls dbl s
def execRedXor (g : Guard) (ra rb : Fin 32) (cls : Fin 4) (dbl : Bool) (s : State) : Out := red .xor g ra rb cls dbl s
def execRedMin (g : Guard) (ra rb : Fin 32) (cls : Fin 4) (dbl : Bool) (s : State) : Out := red .min g ra rb cls dbl s
def execRedMax (g : Guard) (ra rb : Fin 32) (cls : Fin 4) (dbl : Bool) (s : State) : Out := red .max g ra rb cls dbl s
def execRedMinu (g : Guard) (ra rb : Fin 32) (cls : Fin 4) (dbl : Bool) (s : State) : Out := red .minu g ra rb cls dbl s
def execRedMaxu (g : Guard) (ra rb : Fin 32) (cls : Fin 4) (dbl : Bool) (s : State) : Out := red .maxu g ra rb cls dbl s
def execRedFadd (g : Guard) (ra rb : Fin 32) (cls : Fin 4) (s : State) : Out := red .fadd g ra rb cls false s

/-! ### Software memory queues (R207, R208) -/

/-- A queue descriptor (R207). -/
structure QDesc where
  head : W32
  tail : W32
  cap : Nat
  slots : Nat
  deriving DecidableEq, Repr

/-- The descriptor at a flat address; none where a reserved field is nonzero or a field is out of range (R207, R208). -/
def readQDesc (m : MemSide) (a : Nat) : Option QDesc :=
  let w := m.num (a + 8) 4
  let log := bitsNat w 24 5
  let slots := bitsNat w 0 20
  if bitsNat w 29 3 ≠ 0 ∨ bitsNat w 20 4 ≠ 0 ∨ m.num (a + 12) 4 ≠ 0 ∨ 17 < log ∨ slots % 8 ≠ 0
      ∨ 2 ^ 20 < slots + 8 * 2 ^ log then none
  else some ⟨BitVec.ofNat 32 (m.num a 4), BitVec.ofNat 32 (m.num (a + 4) 4), 2 ^ log, slots⟩

/-- A queue operation at the bank controller, one action on descriptor and slot (R208): checks, then `f` with the address of
slot i. -/
def queueOp (g : Guard) (ra : Fin 32) (cls : Fin 16) (s : State)
    (f : Fin 128 → CtxId → Ctx → Nat → QDesc → (Nat → Nat) → Out) : Out :=
  ctl s g fun k c x =>
    let ea := x.getX ra
    if storesPending s k c (· == cls.val) then .next s
    else padAccess s k c ea 16 16 fun q off =>
      let a := sramFlat q off
      match s.mem.poisonedAt a 16 with
      | some sec => .next (s.raiseCtx k c (poisonTrap ea sec))
      | none =>
        match readQDesc s.mem a with
        | none => .next (s.raiseCtx k c (.plain .illegalOperand))
        | some d => f k c x a d fun i => sramFlat q (bankOf off * 2 ^ 20 + d.slots + 8 * (i % d.cap))

/-- QPUSH: when there is room, the slot at TAIL and TAIL + 1, and success; else only failure (R208). -/
def execQpush (g : Guard) (pd : Fin 8) (ra rb : Fin 32) (cls : Fin 16) (s : State) : Out :=
  queueOp g ra cls s fun k c x a d slot =>
    if (d.tail - d.head).toNat < d.cap then
      let m := (s.mem.setNum (slot d.tail.toNat) 8 (x.getX rb).toNat).setNum (a + 4) 4 (d.tail + 1).toNat
      .next ((s.setMem m).retP k c pd true)
    else .next (s.retP k c pd false)

/-- QPOP: the slot at HEAD and HEAD + 1, or 0 and failure when the queue is empty (R208). -/
def execQpop (g : Guard) (rd ra : Fin 32) (pd : Fin 8) (cls : Fin 16) (s : State) : Out :=
  queueOp g ra cls s fun k c x a d slot =>
    if d.tail ≠ d.head then
      match s.mem.poisonedAt (slot d.head.toNat) 8 with
      | some sec => .next (s.raiseCtx k c (poisonTrap (x.getX ra) sec))
      | none =>
        let v := w64 (s.mem.num (slot d.head.toNat) 8)
        let s1 := s.setMem (s.mem.setNum a 4 (d.head + 1).toNat)
        .next (s1.setCtx k c (((x.setX rd v).setP pd true).step))
    else .next (s.setCtx k c (((x.setX rd 0).setP pd false).step))

/-! ### Role rings (R209, R210) -/

/-- The layout of ring n in e[28 + n] (R209): number of slots, log2 of their size, base; none where a field breaks R209. -/
def ringLayout (e : W64) : Option (Nat × Nat × Nat) :=
  let v := e.toNat
  let ln := bitsNat v 36 4
  let ls := bitsNat v 32 4
  let base := bitsNat v 0 25
  -- LOG2S runs from 4 to 16 in a 4-bit field, so 16 cannot be written
  if bitsNat v 40 24 ≠ 0 ∨ bitsNat v 25 7 ≠ 0 ∨ 6 < ln ∨ ls < 4 ∨ base % 2 ^ ls ≠ 0
      ∨ 2 ^ 25 < base + 2 ^ ln * 2 ^ ls then none
  else some (2 ^ ln, ls, base)

/-- Who may use a side of a ring (R210): on ring 0 LD produces and CP consumes, on ring 1 CP produces and ST consumes. -/
def ringAllowed (n : Fin 4) (consumer : Bool) (c : CtxId) : Bool :=
  match n.val, consumer with
  | 0, false => c == .ld
  | 0, true => c == .cp
  | 1, false => c == .cp
  | 1, true => c == .st
  | _, _ => true

def slotAddr (ls base i : Nat) : W64 := w64 (0xFE * 2 ^ 56 + base + i * 2 ^ ls)

def ringOp (g : Guard) (n : Fin 4) (consumer : Bool) (s : State)
    (f : Fin 128 → CtxId → Ring → Nat × Nat × Nat → Out) : Out :=
  ctl s g fun k c _ =>
    if !ringAllowed n consumer c then .next (s.raiseCtx k c (.plain .illegalOperand))
    else match ringLayout ((s.core k).e[28 + n.val]'(by omega)) with
      | none => .next (s.raiseCtx k c (.plain .illegalOperand))
      | some l => f k c (s.core k).rings[n] l

def setRing (s : State) (k : Fin 128) (n : Fin 4) (r : Ring) : State :=
  s.setCore k { s.core k with rings := (s.core k).rings.set n r }

/-- How many contexts of lower slots wait on a side of a ring (R210). -/
def Core.lowerWaits (d : Core) (c : CtxId) (n : Fin 4) (consumer : Bool) : Nat :=
  (allCtx.filter fun j => decide (ctxAgent j < ctxAgent c) && (d.ctx j).waits == some (.ring n consumer)).length

/-- RACQ takes slot `i` where `avail` slots are there for those that wait; lower slots are served first (R210). -/
def racq (s : State) (k : Fin 128) (c : CtxId) (rd : Fin 32) (n : Fin 4) (consumer : Bool) (avail : Nat) (addr : W64) (r : Ring) : Out :=
  if (s.core k).lowerWaits c n consumer < avail then
    .next ((setRing s k n r).setCtx k c (((s.ctx k c).go.setX rd addr).step))
  else hold s k c (.ring n consumer)

def execRacqP (g : Guard) (rd : Fin 32) (n : Fin 4) (s : State) : Out :=
  ringOp g n false s fun k c r l =>
    racq s k c rd n false (l.1 - (r.pacq - r.crel).toNat) (slotAddr l.2.1 l.2.2 (r.pacq.toNat % l.1)) { r with pacq := r.pacq + 1 }
def execRacqC (g : Guard) (rd : Fin 32) (n : Fin 4) (s : State) : Out :=
  ringOp g n true s fun k c r l =>
    racq s k c rd n true ((r.prel - r.cacq).toInt.toNat) (slotAddr l.2.1 l.2.2 (r.cacq.toNat % l.1)) { r with cacq := r.cacq + 1 }

/-- RREL is a release at core scope over all classes (R203, R210): it waits until the context's stores through remote pages are
performed. -/
def rrel (s : State) (k : Fin 128) (c : CtxId) (n : Fin 4) (none_ : Bool) (r : Ring) : Out :=
  if none_ then .next (s.raiseCtx k c (.plain .illegalOperand))
  else if storesPending s k c fun _ => true then .next s
  else .next ((setRing s k n r).advance k c)

def execRrelP (g : Guard) (n : Fin 4) (s : State) : Out :=
  ringOp g n false s fun k c r _ => rrel s k c n (r.prel == r.pacq) { r with prel := r.prel + 1 }
def execRrelC (g : Guard) (n : Fin 4) (s : State) : Out :=
  ringOp g n true s fun k c r _ => rrel s k c n (r.crel == r.cacq) { r with crel := r.crel + 1 }

end Sys2Proof.Machine
end

