-- ==== Sys2Proof/Machine/Barrier.lean ====
section
/-! DEFINITION. Barriers and termination detection (R216, R217, R359). -/

namespace Sys2Proof.Machine

/-! ### Spans and counts -/

/-- The index of A and P at a scope from quad up (R216). -/
def scopeIx : Scope → Nat
  | .core => 0 | .quad => 1 | .die => 2 | .package => 3 | .pod => 4

/-- A word of a group entry (R357). -/
def State.groupWord (s : State) (g w : Nat) : Nat := (sget (0 : W64) s.fab.groups (g * 8 + w)).toNat

/-- The PKG of a member, from an MLIST at a device address (R357). -/
def State.listPkg (s : State) (mlist rank : Nat) : Nat := s.mem.num (bitsNat mlist 0 48 + 2 * rank) 2
def State.memberPkg (s : State) (g rank : Nat) : Nat := s.listPkg (s.groupWord g 1) rank

/-- A request that a peer made for an incarnation of this package: with another one it is answered by a reset NAK and not performed
(R389). -/
def State.fromPeer (s : State) (src inc : Nat) (f : State → State) : State :=
  if inc ≠ s.cmd.incarn then s.send (.resetNak src s.cmd.incarn) else f s

/-- CHANNEL of a group check (R358, R381). -/
def groupTrap : Trap := ⟨.channel, 0, 0xFF⟩

/-- How a pod-scope barrier of a core acts (R359). -/
inductive PodSpan where
  /-- with no group, at package scope -/
  | package
  /-- under a group: its number, this package's rank, members, cores that arrive -/
  | group (g rank members cores : Nat)
  /-- a step of a spanning stage: a key of its own, this member, the members' packages, the gang's cores -/
  | step (key rank : Nat) (pkgs : List Nat) (cores : Nat)
  deriving DecidableEq, Repr

/-- The key of the pod barrier of a step of a spanning stage, by the stage's number, the tag, the phase and the run of the step: keys
below 16 are groups. It is the same at every member, and stays the step's under pre-emption (R359). -/
def stepKey (num tag phase run : Nat) : Nat := 16 + (num * 2 ^ 18 + tag % 2 ^ 16 * 4 + phase % 4) * 2 ^ 16 + run % 2 ^ 16

/-- Words 0 and 1 of a group entry for its pod barrier: those that the phase under way began with (R358). -/
def State.barrierWord (s : State) (g w : Nat) : Nat :=
  match s.fab.groupAt.find? (·.1 == g) with
  | some (_, w0, w1) => (if w = 0 then w0 else w1).toNat
  | none => s.groupWord g w

/-- The lowest-numbered group that is the span of a PASID (R359). -/
def State.spanGroup (s : State) (pasid : Nat) : Option Nat :=
  (List.range 16).find? fun g =>
    let w := s.barrierWord g 0
    bitsNat w 63 1 == 1 && bitsNat w 62 1 == 1 && bitsNat w 32 20 == pasid

/-- A stage by its key (R158). -/
def State.stageOf (s : State) (key : Nat) : Option Stage := s.stages.list.find? (·.key == key)

/-- The span of a group, as its pod barrier's present phase has it (R359). -/
def State.groupSpan (s : State) (g : Nat) : PodSpan :=
  let w := s.barrierWord g 0
  .group g (bitsNat w 20 12) (bitsNat w 8 12 + 1) (bitsNat w 0 7 + 1)

/-- The span of a step of a spanning stage; none for another instance (R359). -/
def State.stepSpan (s : State) (i : Inst) : Option PodSpan :=
  match i.stage with
  | some (key, _) =>
    (match s.stageOf key with
    | some st => if st.desc.span.isEmpty then none
        else some (.step (stepKey st.desc.num i.tag i.phase i.run) (st.desc.span.findIdx (· == s.pkg)) st.desc.span i.ncores)
    | none => none)
  | none => none

def State.podSpan (s : State) (k : Fin 128) : PodSpan :=
  match (s.instOf k).bind s.stepSpan with
  | some p => p
  | none => match s.spanGroup (s.core k).pasid with
    | some g => s.groupSpan g
    | none => .package

/-- Whether a pod-scope barrier of a core faults CHANNEL: MLIST[RANK] of its group is another package (R358). -/
def State.spanRefused (s : State) (k : Fin 128) : Bool :=
  match s.podSpan k with
  | .group g rank _ _ => s.listPkg (s.barrierWord g 1) rank != s.pkg
  | _ => false

/-- The scope at which a barrier of a core acts: pod without a span is package (R216, R359). -/
def State.actScope (s : State) (k : Fin 128) (sc : Scope) : Scope :=
  if sc == .pod && s.podSpan k == .package then .package else sc

/-- Arrival count A of a participant (R216). -/
def arriveCount (x : Core) (c : CtxId) (sc : Scope) : W32 :=
  match sc with
  | .core => (x.ctx c).arrive
  | .quad => x.barA[0] | .die => x.barA[1] | .package => x.barA[2] | .pod => x.barA[3]
def setArrive (x : Core) (c : CtxId) (sc : Scope) (v : W32) : Core :=
  match sc with
  | .core => x.setCtx c { x.ctx c with arrive := v }
  | .quad => { x with barA := x.barA.set 0 v }
  | .die => { x with barA := x.barA.set 1 v }
  | .package => { x with barA := x.barA.set 2 v }
  | .pod => { x with barA := x.barA.set 3 v }
/-- Completed count P as a core sees it (R216). -/
def doneCount (x : Core) (sc : Scope) : W32 :=
  match sc with
  | .core => x.barP[0] | .quad => x.barP[1] | .die => x.barP[2] | .package => x.barP[3] | .pod => x.barP[4]
def setDone (x : Core) (sc : Scope) (v : W32) : Core :=
  match sc with
  | .core => { x with barP := x.barP.set 0 v }
  | .quad => { x with barP := x.barP.set 1 v }
  | .die => { x with barP := x.barP.set 2 v }
  | .package => { x with barP := x.barP.set 3 v }
  | .pod => { x with barP := x.barP.set 4 v }

/-- The contexts that take part in a core's barriers: those with a part of the record (R216). -/
def State.partContexts (s : State) (k : Fin 128) : List CtxId :=
  match s.instOf k with
  | some i => allCtx.filter fun c => i.trec.hasAny (ctxAgent c)
  | none => allCtx.filter fun c => (s.ctx k c).run != .idle

/-- The cores of the gang within the scope instance of a core (R216). -/
def State.scopeCores (s : State) (k : Fin 128) (sc : Scope) : List (Fin 128) :=
  (s.gangOf k).filter fun j =>
    match sc with
    | .core => j == k
    | .quad => quadOf j == quadOf k
    | .die => dieOf j == dieOf k
    | .package => true
    | .pod => true

def State.updCores (s : State) (ks : List (Fin 128)) (f : Core → Core) : State :=
  ks.foldl (fun t j => t.setCore j (f (t.core j))) s

/-! ### Phases -/

/-- A phase completes when every participant of the scope instance has A at least P + 1 (R216). -/
def State.completePhase (s : State) (k : Fin 128) (sc : Scope) : State :=
  let p := doneCount (s.core k) sc + 1
  let all := match sc with
    | .core => (s.partContexts k).all fun c => p.toNat ≤ (arriveCount (s.core k) c sc).toNat
    | _ => (s.scopeCores k sc).all fun j => p.toNat ≤ (arriveCount (s.core j) .ld sc).toNat
  if all then s.updCores (s.scopeCores k sc) fun x => setDone x sc p else s

/-- The cores whose pod count is that of a span. -/
def State.spanCores (s : State) (sp : PodSpan) : List (Fin 128) :=
  ((List.range 128).map coreIx).filter fun j => (s.core j).inst.isSome && s.podSpan j == sp

/-- The phase of a span completes when all its members have arrived (R359). -/
def State.completeSpan (s : State) (key members : Nat) (sp : PodSpan) : State :=
  let ranks := (List.range members).map fun r => key * 4096 + r
  if ranks.all fun r => s.fab.arrived.contains r then
    let p := sget 0 s.fab.groupP key + 1
    let f := { s.fab with
      arrived := ranks.foldl (fun l r => l.erase r) s.fab.arrived
      coreArrived := s.fab.coreArrived.filter fun x => x / 128 != key
      groupAt := serase key s.fab.groupAt
      groupP := sset 0 s.fab.groupP key p }
    (s.setFab f).updCores (s.spanCores sp) fun x => setDone x .pod (BitVec.ofNat 32 p)
  else s

/-- The phase after P of a group is under way from its first arrival on, with its entry as it stands (R358). -/
def State.beginPhase (s : State) (key : Nat) : State :=
  if 16 ≤ key ∨ (s.fab.groupAt.any (·.1 == key)) = true then s
  else s.setFab { s.fab with groupAt := sinsert key (sget 0 s.fab.groups (key * 8), sget 0 s.fab.groups (key * 8 + 1)) s.fab.groupAt }

/-- Members of a span, and the package of each. -/
def PodSpan.members : PodSpan → Nat
  | .package => 0
  | .group _ _ n _ => n
  | .step _ _ l _ => l.length
def State.spanPkg (s : State) (sp : PodSpan) (rank : Nat) : Nat :=
  match sp with
  | .package => s.pkg
  | .group g _ _ _ => s.listPkg (s.barrierWord g 1) rank
  | .step _ _ l _ => nth 0 l rank

/-- This member's arrival is told to the others (R359, R389). -/
def State.tellSpan (s : State) (fb : Bool) (key rank : Nat) (sp : PodSpan) : State :=
  ((List.range sp.members).filter (· != rank)).foldl (fun (t : State) r =>
    let p := t.spanPkg sp r
    t.sendOut fb p (.podArrival key r (t.incOf p))) s

/-- A core of this package arrives at the next pod phase; the member arrives with the last of the cores it needs, and tells
the other members (R359). -/
def State.podArrive (s : State) (k : Fin 128) (key rank cores : Nat) (sp : PodSpan) : State :=
  let arr := kadd (key * 128 + k.val) s.fab.coreArrived
  let before := (s.fab.coreArrived.filter fun x => x / 128 == key).length
  let now := (arr.filter fun x => x / 128 == key).length
  let s0 := s.beginPhase key
  let s1 := s0.setFab { s0.fab with coreArrived := arr }
  if before < cores ∧ cores ≤ now then
    let s2 := (s1.setFab { s1.fab with arrived := s1.fab.arrived ++ [key * 4096 + rank] }).tellSpan (s.coreFalls k) key rank sp
    s2.completeSpan key sp.members sp
  else s1

/-- An arrival of a participant (R216, R359): A := A + 1, and the phase completes when it was the last. -/
def State.arrive (s : State) (k : Fin 128) (c : CtxId) (sc : Scope) : State :=
  let x := s.core k
  let a := arriveCount x c sc + 1
  let s1 := s.setCore k (setArrive x c sc a)
  match sc with
  | .pod =>
    (match s.podSpan k with
    | .group g rank members cores =>
      if a == doneCount x .pod + 1 then s1.podArrive k g rank cores (.group g rank members cores) else s1
    | .step key rank pkgs cores =>
      if a == doneCount x .pod + 1 then s1.podArrive k key rank cores (.step key rank pkgs cores) else s1
    | .package => s1)
  | _ => s1.completePhase k sc

/-- An arrival waits while the participant has arrived at a phase that is not complete (R216). -/
def mustWait (x : Core) (c : CtxId) (sc : Scope) : Bool := arriveCount x c sc == doneCount x sc + 1
/-- wait: until P is at least A (R216). -/
def passed (x : Core) (c : CtxId) (sc : Scope) : Bool := decide ((arriveCount x c sc).toNat ≤ (doneCount x sc).toNat)

/-- A barrier word: at pod scope its span is checked (R358). -/
def barrier (s : State) (g : Guard) (sc : Scope) (body : Fin 128 → CtxId → Ctx → Scope → Out) : Out :=
  ctl s g fun k c x =>
    if sc == .pod && s.spanRefused k then .next (s.raiseCtx k c groupTrap) else body k c x (s.actScope k sc)

def execBarA (g : Guard) (sc : Scope) (s : State) : Out :=
  barrier s g sc fun k c _ a =>
    if mustWait (s.core k) c a then .next s else .next ((s.arrive k c a).advance k c)
def execBarW (g : Guard) (sc : Scope) (s : State) : Out :=
  barrier s g sc fun k c _ a => if passed (s.core k) c a then .next (s.advance k c) else .next s
/-- arrive, then wait: between the two the context stays at its word (R216). -/
def execBarAw (g : Guard) (sc : Scope) (s : State) : Out :=
  barrier s g sc fun k c x a =>
    if x.arrived then
      if passed (s.core k) c a then .next ((s.setCtx k c { x with arrived := false }).advance k c) else .next s
    else if mustWait (s.core k) c a then .next s
    else
      let s1 := s.arrive k c a
      if passed (s1.core k) c a then .next (s1.advance k c)
      else .next (s1.setCtx k c { s1.ctx k c with arrived := true })
def execBarTry (g : Guard) (sc : Scope) (pd : Fin 8) (s : State) : Out :=
  barrier s g sc fun k c _ a => .next (s.retP k c pd (passed (s.core k) c a))

/-- The span of a group, or of the step of a spanning stage with that key that is here (R359). -/
def State.spanOf (s : State) (key : Nat) : Option PodSpan :=
  if key < 16 then some (s.groupSpan key)
  else (s.cmd.insts.filterMap s.stepSpan).find? fun p =>
    match p with
    | .step x _ _ _ => x == key
    | _ => false

/-- A member of a span has arrived, as its message made for an incarnation of this package says (R359, R389): groups are 0 to 15, steps
of spanning stages take their own keys. -/
def execPodBarrierArrival (group : Nat) (sender : Sender) (s : State) : Out :=
  let src := match s.spanOf group with
    | some sp => s.spanPkg sp sender.member
    | none => 0
  .next (s.fromPeer src sender.inc fun t =>
    let s0 := t.beginPhase group
    let s1 := s0.setFab { s0.fab with arrived := s0.fab.arrived ++ [group * 4096 + sender.member] }
    match s1.spanOf group with
    | some sp => s1.completeSpan group sp.members sp
    | none => s1)

/-- What the barriers of a step of a spanning stage have left goes with the step (R359). -/
def State.dropSpan (s : State) (key : Nat) : State :=
  s.setFab { s.fab with
    groupP := serase key s.fab.groupP
    arrived := s.fab.arrived.filter fun x => x / 4096 != key
    coreArrived := s.fab.coreArrived.filter fun x => x / 128 != key }

/-! ### Termination detection (R217) -/

/-- TERM of the core's gang. -/
def trmDo (g : Guard) (s : State) (f : Fin 128 → CtxId → Ctx → Trm → Out) : Out :=
  ctl s g fun k c x => f k c x (s.core k).trm
def setTrm (s : State) (k : Fin 128) (t : Trm) : State := s.setCore k { s.core k with trm := t }

/-- SEND turns the core BLACK when its target has a lower rank; a rank outside the gang faults (R217). -/
def execTrmSend (g : Guard) (ra : Fin 32) (s : State) : Out :=
  trmDo g s fun k c x t =>
    let n := (x.getX ra).toNat
    if (s.gangOf k).length ≤ n then .next (s.raiseCtx k c (.plain .illegalOperand))
    else if !t.term && decide (n < (s.core k).disp.grank.toNat) then .next ((setTrm s k { t with black := true }).advance k c)
    else .next (s.advance k c)
def execTrmIdle (g : Guard) (s : State) : Out :=
  trmDo g s fun k c _ t => .next ((if t.term then s else setTrm s k { t with busy := false }).advance k c)
def execTrmBusy (g : Guard) (s : State) : Out :=
  trmDo g s fun k c _ t => .next ((if t.term then s else setTrm s k { t with busy := true }).advance k c)
def execTrmTest (g : Guard) (pd : Fin 8) (s : State) : Out :=
  trmDo g s fun k c _ t => .next (s.retP k c pd t.term)

/-- The token of a gang that is on its cores moves, where its holder is IDLE (R217). -/
def execTrmTokenPass (ctxid : Nat) (s : State) : Out :=
  match s.cmd.insts.find? (·.ctxid == ctxid) with
  | none => .next s
  | some i =>
    let ks := (List.range i.ncores).map fun j => coreIx (i.base + j)
    if !(ks.all fun j => (s.core j).inst == some ctxid) then .next s
    else match ks.find? fun j => (s.core j).trm.token with
    | none => .next s
    | some k =>
      let t := (s.core k).trm
      let n := i.ncores
      let r := (s.core k).disp.grank.toNat
      if t.busy || t.term then .next s
      else if r = 0 ∧ t.round = true ∧ t.tokenBlack = false ∧ t.black = false then
        .next (s.updCores ks fun x => { x with trm := { x.trm with term := true } })
      else
        -- rank 0 starts a WHITE round; another rank darkens the token if it is BLACK
        let black := if r = 0 then false else t.tokenBlack || t.black
        let dst := coreIx (i.base + (r + 1) % n)
        let s1 := setTrm s k { t with black := false, token := false, tokenBlack := false, round := false }
        .next (setTrm s1 dst { (s1.core dst).trm with token := true, tokenBlack := black, round := decide ((r + 1) % n = 0) })

end Sys2Proof.Machine
end

