-- ==== Sys2Proof/Machine/Lanes.lean ====
section
/-! DEFINITION. Lanes and vectors of vector words: addressing, masks, extents, checks and packed results (R246 to R252). -/

namespace Sys2Proof.Machine

/-- How a vector word addresses its operands (R246): lanes, starting row or column, diagonal offset, vectors less one,
whether formats below 8 bits are taken in byte lanes, and whether they are taken element by element, each governed by the mask bit of
its byte (log entry 90). -/
structure VCtx where
  lanes : Nat
  row0 : Nat
  off : Nat
  nv : Nat
  bytes : Bool
  single : Bool
  deriving DecidableEq, Repr

/-- A vector word with lanes of `w` bits; `own` where IMM is the instruction's own field (R97, R246). -/
def mkV (i : Issue) (m : ModVG) (w : Nat) (own bytes : Bool) : VCtx :=
  ⟨1024 / w, m.row.val + i.rowoff, if own then 0 else m.imm.val, m.nv.val, bytes, false⟩

/-- A bitwise word or VMOV (R246): whole bytes in lanes of at least 8 bits; with an operand in DIR C or D, a format below 8 bits is taken
by the elements 0 to L - 1 of each vector, in their own format (log entry 90). -/
def mkByte (i : Issue) (m : ModVG) (w : Nat) (ops : List TileOp) : VCtx :=
  if w < 8 ∧ (ops.any fun o => o.dir == .c || o.dir == .d) = true then { mkV i m 8 false false with single := true }
  else mkV i m (max 8 w) false true

/-- The mask bit that governs a lane (R246, R248). -/
def VCtx.maskBit (v : VCtx) (o : TileOp) (q : Nat) : Nat := if v.single then q * o.sh.fmt.width / 8 else q

/-- The width at which an operand is read and written. -/
def VCtx.lw (v : VCtx) (o : TileOp) : Nat := if v.bytes then max 8 o.sh.fmt.width else o.sh.fmt.width

/-- The elements of one row in its extent, counted in lane widths. -/
def VCtx.cols (v : VCtx) (o : TileOp) : Nat := ((o.sh.cols + 1) * o.sh.fmt.width + v.lw o - 1) / v.lw o

/-- Row and column of element i of vector n (R68). -/
def VCtx.pos (v : VCtx) (o : TileOp) (n i : Nat) : Nat × Nat :=
  match o.dir with
  | .r => (v.row0 + n, i)
  | .c => (i, v.row0 + n)
  | .d => (v.row0 + i, (i + v.off + n) % v.cols o)
  | .b => (v.row0, i)

/-- The index bounds of R246 on an operand. -/
def VCtx.fits (v : VCtx) (o : TileOp) : Bool :=
  match o.dir with
  | .r => decide (v.row0 + v.nv ≤ 127)
  | .c => decide (v.lanes ≤ 128) && decide (v.row0 + v.nv < 1024 / v.lw o)
  | .d => decide (v.row0 + v.lanes ≤ 128)
  | .b => decide (v.row0 ≤ 127)

/-- Vector n of an operand: its lanes, zero outside the extent (R69). -/
def VCtx.read (v : VCtx) (c : Core) (o : TileOp) (n : Nat) : List Nat :=
  let w := v.lw o
  match o.dir with
  | .r => let row := c.rowIn o (v.row0 + n); (List.range v.lanes).map fun i => elemOf row w i
  | .b => let row := c.rowIn o v.row0; (List.range v.lanes).map fun i => elemOf row w i
  | _ => (List.range v.lanes).map fun i => let p := v.pos o n i; elemOf (c.rowIn o p.1) w p.2

/-- Whether a position lies inside the extent; tz has none to leave (R248). -/
def VCtx.inside (v : VCtx) (o : TileOp) (n i : Nat) : Bool :=
  o.tile.isNone || (let p := v.pos o n i; decide (p.1 ≤ o.sh.rows) && decide (p.2 < v.cols o))

/-- Elements of a row take new values inside the extent; bits outside it stay (R69, R246). -/
def Core.writeLanes (c : Core) (o : TileOp) (row w : Nat) (l : List (Nat × Nat)) : Core :=
  match o.tile with
  | none => c
  | some t =>
    if o.sh.rows < row then c
    else
      let old := c.rowBits t.val row
      let ext := 2 ^ ((o.sh.cols + 1) * o.sh.fmt.width)
      c.setRowBits t.val row (putElems w old l % ext + old / ext * ext)

/-- Lanes of vector n of a destination are written. -/
def VCtx.write (v : VCtx) (c : Core) (o : TileOp) (n : Nat) (l : List (Nat × Nat)) : Core :=
  let w := v.lw o
  match o.dir with
  | .r => c.writeLanes o (v.row0 + n) w l
  | _ => l.foldl (fun x p => let q := v.pos o n p.1; x.writeLanes o q.1 w [(q.2, p.2)]) c

/-- Whether a lane takes part (R248). -/
def laneOn (c : Core) (m : ModVG) (i : Nat) : Bool := !m.men || (c.m[m.msk]).getLsbD i

/-- A lane-wise word (R248, R250): vector by vector, each source vector read whole before the destination vector is written;
lanes that do not take part, and those outside D's extent, are not computed. -/
def vlanes (i : Issue) (m : ModVG) (v : VCtx) (d : TileOp) (srcs : List TileOp) (every : Bool)
    (f : Nat → Nat → List (List Nat) → Nat × Fl) : Core × Fl :=
  (List.range (v.nv + 1)).foldl (fun (x : Core × Fl) n =>
    let vs := srcs.map fun o => v.read x.1 o n
    let on := (List.range v.lanes).filter fun q => (every || laneOn i.c m (v.maskBit d q)) && v.inside d n q
    let rs := on.map fun q => (q, f n q vs)
    (v.write x.1 d n (rs.map fun r => (r.1, r.2.1)), rs.foldl (fun g r => g ||| r.2.2) x.2)) (i.c, 0)

/-- The lane values of sources one, two and three at lane q. -/
def lane (vs : List (List Nat)) (k q : Nat) : Nat := nth 0 (nth [] vs k) q

/-! ### Checks (R248, R249) -/

inductive MaskUse where
  | opt | no | req
  deriving DecidableEq, Repr

/-- Which fields of VG an instruction uses. -/
structure VUse where
  dfmt : Bool := false
  rm : Bool := false
  sat : Bool := false
  e : Bool := false
  mdst : Bool := false
  own : Bool := false
  mask : MaskUse := .opt
  deriving DecidableEq, Repr

/-- The field checks of R248 and R249: a field that the instruction does not use is zero; IMM is zero without a D operand
unless it is the instruction's own. -/
def vuse (u : VUse) (m : ModVG) (ops : List TileOp) : Bool :=
  (match u.mask with
    | .opt => m.men || m.msk == 0
    | .no => !m.men && m.msk == 0
    | .req => m.men) &&
  (u.dfmt || m.dfmt == 0) && (u.rm || m.rm == 0) && (u.sat || !m.sat) && (u.e || m.e == 0) && (u.mdst || m.mdst == 0) &&
  (u.own || m.imm == 0 || ops.any (·.dir == .d))

def srcDirs : List Dir := [.r, .c, .d, .b]
def dstDirs : List Dir := [.r, .c, .d]

/-- A source and a destination of an assigned format (R249). -/
def Issue.vsrc (i : Issue) (field : Nat) (o : Opnd) (f : Fmt) : Option TileOp := i.tileOp field o srcDirs [f] f
def Issue.vdst (i : Issue) (o : Opnd) (f : Fmt) : Option TileOp := i.tileOp 0 o dstDirs [f] f
/-- A tile operand that takes DIR R only. -/
def Issue.rowOp (i : Issue) (field : Nat) (o : Opnd) (f : Fmt) : Option TileOp := i.tileOp field o [.r] [f] f

/-- A vector word (R247): its checks and operands give what it does, none where it faults ILLEGAL_OPERAND. -/
def vectorWord (w : VgWord) (s : State) (body : Issue → ModVG → Ops4 → Option (Core × Fl)) : Out :=
  engWord s (onEngine .v) w.tok noSkip fun i s1 =>
    match body i w.mod w.ops with
    | none => .trap badOperand
    | some r => i.done s1 w.tok.pt r

/-! ### Packed results (R252) -/

/-- Whether `count` packed results fit below row 128. -/
def packFits (d : TileOp) (row0 count : Nat) : Bool :=
  decide (row0 + (count - 1) / d.sh.fmt.lanes ≤ 127)

/-- Whether r_e lies inside D's extent. -/
def packInside (d : TileOp) (row0 e : Nat) : Bool :=
  d.tile.isNone || (decide (row0 + e / d.sh.fmt.lanes ≤ d.sh.rows) && decide (e % d.sh.fmt.lanes ≤ d.sh.cols))

/-- Results are written in packed layout, those inside D's extent; the flags of all that are given count (R252, R267, log entry 31). -/
def packWrite (c : Core) (d : TileOp) (row0 : Nat) (rs : List (Nat × (Nat × Fl))) : Core × Fl :=
  rs.foldl (fun x r =>
    (if packInside d row0 r.1 then x.1.writeElems d (row0 + r.1 / d.sh.fmt.lanes) [(r.1 % d.sh.fmt.lanes, r.2.1)] else x.1, x.2 ||| r.2.2))
    (c, 0)

end Sys2Proof.Machine
end

