-- ==== Sys2Proof/Machine/Transc.lean ====
section
/-! DEFINITION. The four transcendental algorithms (R55 to R60), to the bit. -/

namespace Sys2Proof.Machine

/-- RCPSEED (R57). -/
def rcpSeed (i : Nat) : Nat := nthNat [0x3F71, 0x3F58, 0x3F43, 0x3F32, 0x3F24, 0x3F18, 0x3F0D, 0x3F04] i
where
  nthNat (l : List Nat) (i : Nat) : Nat := (l[i]?).getD 0
/-- RSQSEED (R58). -/
def rsqSeed (i : Nat) : Nat := rcpSeed.nthNat [0x3F71, 0x3F5A, 0x3F49, 0x3F3B, 0x3F2B, 0x3F1A, 0x3F0E, 0x3F04] i

/-- FP32 bits as a value with no flush: the constants and inner values of the algorithms. -/
def c32 (b : Nat) : FVal := FVal.ofBits .fp32 b
def v32 (x : W32) : FVal := FVal.ofBits .fp32 x.toNat

/-- A nonzero magnitude normalised: the 24-bit significand of m in [1, 2) and the exponent (R57, R58, R60). -/
def normalise (m : Nat) (e : Int) : Nat × Int :=
  let k := Nat.log2 m
  if k ≤ 23 then (m * 2 ^ (23 - k), e + k) else (m / 2 ^ (k - 23), e + k)

/-- One refinement of VRCP: y * RNE32(2 - RNE32(m * y)). -/
def rcpStep (env : NumEnv) (m : FVal) (s : W32 × Fl) : W32 × Fl :=
  let t := mul32 env m (v32 s.1)
  let d := sub32 env (c32 0x40000000) (v32 t.1)
  let y := mul32 env (v32 s.1) (v32 d.1)
  (y.1, s.2 ||| t.2 ||| d.2 ||| y.2)

/-- VRCP of a nonzero finite operand (R57). -/
def rcpCore (env : NumEnv) (neg : Bool) (m : Nat) (e : Int) : W32 × Fl :=
  let n := normalise m e
  let i := n.1 / 2 ^ 20 % 8
  let mv := FVal.fin false n.1 (-23)
  let y0 : W32 × Fl := (BitVec.ofNat 32 (rcpSeed i * 2 ^ 16), 0)
  let y := rcpStep env mv (rcpStep env mv (rcpStep env mv y0))
  match v32 y.1 with
  | .fin _ ym ye => let r := rne32 env (.fin neg ym (ye - n.2)); (r.1, y.2 ||| r.2)
  | v => let r := rne32 env v; (r.1, y.2 ||| r.2)

/-- One refinement of VRSQ. -/
def rsqStep (env : NumEnv) (h : FVal) (s : W32 × Fl) : W32 × Fl :=
  let t := mul32 env (v32 s.1) (v32 s.1)
  let t2 := mul32 env h (v32 t.1)
  let d := sub32 env (c32 0x3FC00000) (v32 t2.1)
  let y := mul32 env (v32 s.1) (v32 d.1)
  (y.1, s.2 ||| t.2 ||| t2.2 ||| d.2 ||| y.2)

/-- VRSQ of a positive finite operand (R58). -/
def rsqCore (env : NumEnv) (m : Nat) (e : Int) : W32 × Fl :=
  let n := normalise m e
  let even := n.2 % 2 == 0
  let k := if even then n.2 / 2 else (n.2 - 1) / 2
  let i := (if even then 0 else 4) + n.1 / 2 ^ 21 % 4
  let h := FVal.fin false n.1 (if even then -24 else -23)
  let y0 : W32 × Fl := (BitVec.ofNat 32 (rsqSeed i * 2 ^ 16), 0)
  let y := rsqStep env h (rsqStep env h (rsqStep env h y0))
  match v32 y.1 with
  | .fin s ym ye => let r := rne32 env (.fin s ym (ye - k)); (r.1, y.2 ||| r.2)
  | v => let r := rne32 env v; (r.1, y.2 ||| r.2)

/-- EXPT (R59), by j from -2 to 2. -/
def expT (j : Int) : FVal :=
  if j = -2 then c32 0x3F3504F3 else if j = -1 then c32 0x3F5744FD else if j = 0 then c32 0x3F800000
  else if j = 1 then c32 0x3F9837F0 else c32 0x3FB504F3

/-- RNE32(RNE32(p * g) + c), one step of a Horner scheme (R59, R60). -/
def hornerStep (env : NumEnv) (g : FVal) (p : W32 × Fl) (c : Nat) : W32 × Fl :=
  let t := mul32 env (v32 p.1) g
  let s := add32 env (v32 t.1) (c32 c)
  (s.1, p.2 ||| t.2 ||| s.2)

/-- min(max(x, -160), 160) of a finite value (R59). -/
def clamp160 (x : FVal) : FVal :=
  let lo := FVal.fin true 160 0
  let hi := FVal.fin false 160 0
  let y := if cmpNum x lo == .lt then lo else x
  if cmpNum y hi == .gt then hi else y

/-- VEXP2 of a finite operand (R59). -/
def exp2Core (env : NumEnv) (x : FVal) : W32 × Fl :=
  match clamp160 x with
  | .fin neg m e =>
    let n := (roundToInt .rne neg m e).1
    let f := (exactSub .rne (.fin neg m e) (FVal.ofInt n)).1
    match f with
    | .fin fn fm fe =>
      let j := (roundToInt .rne fn fm (fe + 2)).1
      let g := (exactSub .rne f (match FVal.ofInt j with | .fin a b c => .fin a b (c - 2) | v => v)).1
      let p0 : W32 × Fl := (0x3AAEC3FF#32, 0)
      let p4 := hornerStep env g p0 0x3C1D955B
      let p3 := hornerStep env g p4 0x3D635847
      let p2 := hornerStep env g p3 0x3E75FDF0
      let p1 := hornerStep env g p2 0x3F317218
      let p := mul32 env (v32 p1.1) g
      let ep := mul32 env (expT j) (v32 p.1)
      let q := add32 env (expT j) (v32 ep.1)
      match v32 q.1 with
      | .fin qn qm qe => let r := rne32 env (.fin qn qm (qe + n)); (r.1, p1.2 ||| p.2 ||| ep.2 ||| q.2 ||| r.2)
      | v => let r := rne32 env v; (r.1, p1.2 ||| p.2 ||| ep.2 ||| q.2 ||| r.2)
    | v => rne32 env v
  | v => rne32 env v

/-- VLOG2 of a positive finite operand (R60). -/
def log2Core (env : NumEnv) (m : Nat) (e : Int) : W32 × Fl :=
  let n := normalise m e
  let big := 0xB504F3 < n.1
  let k := if big then n.2 + 1 else n.2
  let me : Int := if big then -24 else -23
  let one := FVal.fin false 1 0
  let mv := FVal.fin false n.1 me
  let num := (exactSub .rne mv one).1
  let den := (exactAdd .rne mv one).1
  let s : W32 × Fl := match num, den with
    | .fin nn nm ne, .fin _ dm de =>
      let q := ratOf nm (ne - de) dm
      let r := ftzOut env .fp32 (roundRat .fp32 .rne false nn q.1 q.2)
      (BitVec.ofNat 32 r.1, r.2)
    | _, _ => (0, 0)
  let z := mul32 env (v32 s.1) (v32 s.1)
  let p0 : W32 × Fl := (0x3EA4258A#32, 0)
  let p7 := hornerStep env (v32 z.1) p0 0x3ED30BB1
  let p5 := hornerStep env (v32 z.1) p7 0x3F13BB63
  let p3 := hornerStep env (v32 z.1) p5 0x3F76384F
  let p1 := hornerStep env (v32 z.1) p3 0x4038AA3B
  let l := mul32 env (v32 p1.1) (v32 s.1)
  let r := add32 env (FVal.ofInt k) (v32 l.1)
  (r.1, s.2 ||| z.2 ||| p1.2 ||| l.2 ||| r.2)

/-- The four functions (R55). -/
inductive Transc where
  | rcp | rsq | exp2 | log2
  deriving DecidableEq, Repr

def nan32 : W32 := 0x7FC00000#32
def inf32 (neg : Bool) : W32 := if neg then 0xFF800000#32 else 0x7F800000#32

/-- The special results of R56 and otherwise the algorithm. -/
def transc (env : NumEnv) (t : Transc) (x : FVal) : W32 × Fl :=
  match t, x with
  | _, .nan => (nan32, flNF)
  | .rcp, .inf n => (if n then 0x80000000#32 else 0, flNF)
  | .rsq, .inf n => if n then (nan32, flNV ||| flNF) else (0, flNF)
  | .exp2, .inf n => if n then (0, flNF) else (inf32 false, flNF)
  | .log2, .inf n => if n then (nan32, flNV ||| flNF) else (inf32 false, flNF)
  | .rcp, .fin n m e => if m = 0 then (inf32 n, flDZ ||| flNF) else rcpCore env n m e
  | .rsq, .fin n m e =>
    if m = 0 then (inf32 n, flDZ ||| flNF) else if n then (nan32, flNV ||| flNF) else rsqCore env m e
  | .exp2, .fin n m e => exp2Core env (.fin n m e)
  | .log2, .fin n m e =>
    if m = 0 then (inf32 true, flDZ ||| flNF) else if n then (nan32, flNV ||| flNF) else log2Core env m e

end Sys2Proof.Machine
end

