-- ==== Sys2Proof/Machine/Vector.lean ====
section
/-! DEFINITION. The lane-wise words of the vector engine: floating-point arithmetic, integers and bits, conversion and
quantisation (R254 to R266, R268). -/

namespace Sys2Proof.Machine

def f3 : List Fmt := [.fp32, .bf16, .fp16]
def f5 : List Fmt := [.fp32, .bf16, .fp16, .k8, .k8w]
def i4 : List Fmt := [.int32, .int16, .int8, .uint8]
def allFmts : List Fmt :=
  [.fp32, .bf16, .fp16, .k8, .k8w, .int32, .int16, .int8, .uint8, .int4, .ix4, .ix8, .bit1]
/-- Formats of 8 bits or more. -/
def wideFmts : List Fmt := allFmts.filter fun f => decide (8 ≤ f.width)

/-- NF where an operand is an infinity or NaN (R254, R255). -/
def nfOf (l : List FVal) : Fl := flIf (l.any (·.nonFinite)) flNF

/-- One rounding of an exact value, with the NaN and infinity rules of R254. -/
def roundOp (env : NumEnv) (f : Fmt) (rm : Rm) (sat : Bool) (ops : List FVal) (v : FVal × Fl) : Nat × Fl :=
  if ops.any (·.isNaN) then (canonNaN f, flNF)
  else
    let r := roundTo env f rm sat v.1
    (r.1, v.2 ||| r.2 ||| nfOf ops)

/-! ### Floating-point arithmetic (R254 to R261) -/

/-- VADD, VSUB and VMUL: two sources, one rounding. -/
def float2 (w : VgWord) (s : State) (op : Rm → FVal → FVal → FVal × Fl) : Out :=
  vectorWord w s fun i m o =>
    match fmtIn m.fmt.val f3 with
    | none => none
    | some f =>
      match i.rm m.rm true, i.vdst o.d f, i.vsrc 1 o.s1 f, i.vsrc 2 o.s2 f with
      | some rm, some d, some a, some b =>
        let v := mkV i m f.width false false
        if vuse { rm := true, sat := true } m [d, a, b] && v.fits d && v.fits a && v.fits b then
          some (vlanes i m v d [a, b] false fun _ q vs =>
            let x := decodeFloat i.env f (lane vs 0 q)
            let y := decodeFloat i.env f (lane vs 1 q)
            roundOp i.env f rm m.sat [x, y] (op rm x y))
        else none
      | _, _, _, _ => none

def execVadd (w : VgWord) (s : State) : Out := float2 w s exactAdd
def execVsub (w : VgWord) (s : State) : Out := float2 w s exactSub
def execVmul (w : VgWord) (s : State) : Out := float2 w s fun _ x y => exactMul x y

def execVfma (w : VgWord) (s : State) : Out :=
  vectorWord w s fun i m o =>
    match fmtIn m.fmt.val f3 with
    | none => none
    | some f =>
      match i.rm m.rm true, i.vdst o.d f, i.vsrc 1 o.s1 f, i.vsrc 2 o.s2 f, i.vsrc 3 o.s3 f with
      | some rm, some d, some a, some b, some c =>
        let v := mkV i m f.width false false
        if vuse { rm := true, sat := true } m [d, a, b, c] && v.fits d && v.fits a && v.fits b && v.fits c then
          some (vlanes i m v d [a, b, c] false fun _ q vs =>
            let x := decodeFloat i.env f (lane vs 0 q)
            let y := decodeFloat i.env f (lane vs 1 q)
            let z := decodeFloat i.env f (lane vs 2 q)
            let p := exactMul x y
            let r := exactAdd rm p.1 z
            roundOp i.env f rm m.sat [x, y, z] (r.1, p.2 ||| r.2))
        else none
      | _, _, _, _, _ => none

/-- A value of a format re-encoded without rounding (R255). -/
def reencode (f : Fmt) (v : FVal) : Nat := (roundTo ⟨false, false⟩ f .rne false v).1

/-- Whether x counts as below y in VMIN and VMAX: numeric order, -0 below +0 (R255). -/
def belowMin (x y : FVal) : Bool :=
  match cmpNum x y with
  | .lt => true
  | .gt => false
  | .eq => x.neg? && !y.neg?

/-- What VMIN and VMAX deliver (R255). -/
def minMaxLane (f : Fmt) (max : Bool) (x y : FVal) : Nat × Fl :=
  let r := if x.isNaN then (if y.isNaN then .nan else y)
    else if y.isNaN then x
    else if max then (if belowMin x y then y else x) else (if belowMin y x then y else x)
  (reencode f r, nfOf [x, y])

def floatMinMax (w : VgWord) (s : State) (max : Bool) : Out :=
  vectorWord w s fun i m o =>
    match fmtIn m.fmt.val f5 with
    | none => none
    | some f =>
      match i.vdst o.d f, i.vsrc 1 o.s1 f, i.vsrc 2 o.s2 f with
      | some d, some a, some b =>
        let v := mkV i m f.width false false
        if vuse {} m [d, a, b] && v.fits d && v.fits a && v.fits b then
          some (vlanes i m v d [a, b] false fun _ q vs =>
            minMaxLane f max (decodeFloat i.env f (lane vs 0 q)) (decodeFloat i.env f (lane vs 1 q)))
        else none
      | _, _, _ => none

def execVmin (w : VgWord) (s : State) : Out := floatMinMax w s false
def execVmax (w : VgWord) (s : State) : Out := floatMinMax w s true

/-- A word of one source and a destination of one format. -/
def unary (w : VgWord) (s : State) (fs : List Fmt) (u : VUse) (extra : ModVG → Fmt → Bool)
    (f1 : Issue → ModVG → Fmt → Rm → Nat → Nat × Fl) : Out :=
  vectorWord w s fun i m o =>
    match fmtIn m.fmt.val fs with
    | none => none
    | some f =>
      match i.rm m.rm (u.rm && f.isFloat), i.vdst o.d f, i.vsrc 1 o.s1 f with
      | some rm, some d, some a =>
        let v := mkV i m f.width u.own false
        if vuse u m [d, a] && extra m f && v.fits d && v.fits a then
          some (vlanes i m v d [a] false fun _ q vs => f1 i m f rm (lane vs 0 q))
        else none
      | _, _, _ => none

def noExtra (_ : ModVG) (_ : Fmt) : Bool := true

def execVabs (w : VgWord) (s : State) : Out :=
  unary w s f3 {} noExtra fun i _ f _ x => let v := decodeFloat i.env f x; (reencode f v.abs, nfOf [v])
def execVneg (w : VgWord) (s : State) : Out :=
  unary w s f3 {} noExtra fun i _ f _ x => let v := decodeFloat i.env f x; (reencode f v.negate, nfOf [v])

/-- A transcendental lane (R55, R257): the algorithm in FP32, then the conversion. -/
def transcLane (t : Transc) (i : Issue) (m : ModVG) (f : Fmt) (rm : Rm) (x : Nat) : Nat × Fl :=
  let r := transc i.env t (decodeFloat i.env f x)
  let o := roundTo i.env f rm m.sat (val32 i.env r.1)
  (o.1, r.2 ||| o.2)

def execVrcp (w : VgWord) (s : State) : Out := unary w s f3 { rm := true, sat := true } noExtra (transcLane .rcp)
def execVrsq (w : VgWord) (s : State) : Out := unary w s f3 { rm := true, sat := true } noExtra (transcLane .rsq)
def execVexp2 (w : VgWord) (s : State) : Out := unary w s f3 { rm := true, sat := true } noExtra (transcLane .exp2)
def execVlog2 (w : VgWord) (s : State) : Out := unary w s f3 { rm := true, sat := true } noExtra (transcLane .log2)

/-- A word from FMT to DFMT, lanes of the wider (R246). -/
def convWord (w : VgWord) (s : State) (u : VUse) (ok : Fmt → Fmt → Bool)
    (f1 : Issue → ModVG → Fmt → Fmt → Rm → Nat → Nat × Fl) : Out :=
  vectorWord w s fun i m o =>
    match fmtIn m.fmt.val allFmts, fmtIn m.dfmt.val allFmts with
    | some f, some g =>
      (match i.rm m.rm (f.isFloat || g.isFloat), i.vdst o.d g, i.vsrc 1 o.s1 f with
      | some rm, some d, some a =>
        let v := mkV i m (max f.width g.width) false false
        if ok f g && vuse u m [d, a] && v.fits d && v.fits a then
          some (vlanes i m v d [a] false fun _ q vs => f1 i m f g rm (lane vs 0 q))
        else none
      | _, _, _ => none)
    | _, _ => none

def scaleFmts : List Fmt := f5 ++ i4

def execVscale (w : VgWord) (s : State) : Out :=
  convWord w s { dfmt := true, rm := true, sat := true, e := true } (fun f g => scaleFmts.contains f && f3.contains g)
    fun i m f g rm x =>
      let a := decodeAny i.env f x
      let k := val32 i.env (i.c.e[m.e].setWidth 32)
      roundOp i.env g rm m.sat [a, k] (exactMul a k)

def execVclamp (w : VgWord) (s : State) : Out :=
  unary w s f3 { rm := true, sat := true, e := true } noExtra fun i m f rm x =>
    let lo := val32 i.env (i.c.e[m.e].setWidth 32)
    let hi := val32 i.env ((i.c.e[m.e] >>> 32).setWidth 32)
    let t := clampFloat 2 (decodeFloat i.env f x) lo hi
    let r := roundTo i.env f rm m.sat t.1
    (r.1, t.2 ||| r.2)

/-- A word that writes a mask (R260, R261, R263): bits of lanes that do not take part, and those past L, are 0. -/
def maskWord (w : VgWord) (s : State) (fs : List Fmt) (u : VUse) (two : Bool) (ok : ModVG → Bool)
    (f : Issue → ModVG → Fmt → Nat → Nat → Bool × Fl) : Out :=
  vectorWord w s fun i m o =>
    match fmtIn m.fmt.val fs with
    | none => none
    | some ft =>
      match i.vsrc 1 o.s1 ft, (if two then i.vsrc 2 o.s2 ft else i.vsrc 1 o.s1 ft) with
      | some a, some b =>
        let v := mkV i m ft.width u.own false
        if ok m && m.nv == 0 && vuse u m [a, b] && v.fits a && v.fits b then
          let xs := v.read i.c a 0
          let ys := v.read i.c b 0
          let rs := ((List.range v.lanes).filter (laneOn i.c m)).map fun q => (q, f i m ft (nth 0 xs q) (nth 0 ys q))
          let bits := rs.foldl (fun n r => if r.2.1 then n + 2 ^ r.1 else n) 0
          some ({ i.c with m := i.c.m.set m.mdst (BitVec.ofNat 128 bits) }, rs.foldl (fun g r => g ||| r.2.2) 0)
        else none
      | _, _ => none

/-- The predicates of VCMP (R260). -/
def floatPred (p : Nat) (x y : FVal) : Bool :=
  let nan := x.isNaN || y.isNaN
  let c := cmpNum x y
  match p with
  | 0 => !nan && c == .eq
  | 1 => nan || c != .eq
  | 2 => !nan && c == .lt
  | 3 => !nan && c != .gt
  | 4 => !nan && c == .gt
  | 5 => !nan && c != .lt
  | 6 => !nan
  | _ => nan

def execVcmp (w : VgWord) (s : State) : Out :=
  maskWord w s f5 { mdst := true, own := true } true (fun m => decide (m.imm.val < 8)) fun i m f x y =>
    let a := decodeFloat i.env f x
    let b := decodeFloat i.env f y
    (floatPred m.imm.val a b, nfOf [a, b])

/-- The class of raw bits (R261). -/
def classOf (f : Fmt) (b : Nat) : Nat :=
  let sp := f.spec
  let neg := b / 2 ^ (sp.ebits + sp.fbits) % 2 == 1
  match FVal.ofBits f b with
  | .nan => 8
  | .inf n => if n then 0 else 7
  | .fin _ m _ =>
    if m = 0 then (if neg then 3 else 4)
    else if isSubnormalBits f b then (if neg then 2 else 5)
    else if neg then 1 else 6

def execVclass (w : VgWord) (s : State) : Out :=
  maskWord w s f5 { mdst := true, e := true } false (fun _ => true) fun i m f x _ =>
    ((i.c.e[m.e]).getLsbD (classOf f x), 0)

/-! ### Integers and bits (R262 to R264) -/

/-- An exact integer result delivered in a format: clamped with OF under SAT, else its low bits (R262). -/
def intOut (f : Fmt) (sat : Bool) (v : Int) : Nat × Fl := intToInt f sat v

/-- An integer word of two sources (R262). -/
def int2 (w : VgWord) (s : State) (sat : Bool) (op : Int → Int → Int) : Out :=
  vectorWord w s fun i m o =>
    match fmtIn m.fmt.val i4 with
    | none => none
    | some f =>
      match i.vdst o.d f, i.vsrc 1 o.s1 f, i.vsrc 2 o.s2 f with
      | some d, some a, some b =>
        let v := mkV i m f.width false false
        if vuse { sat := sat } m [d, a, b] && v.fits d && v.fits a && v.fits b then
          some (vlanes i m v d [a, b] false fun _ q vs =>
            intOut f m.sat (op (intOfBits f (lane vs 0 q)) (intOfBits f (lane vs 1 q))))
        else none
      | _, _, _ => none

def execViadd (w : VgWord) (s : State) : Out := int2 w s true (· + ·)
def execVisub (w : VgWord) (s : State) : Out := int2 w s true (· - ·)
def execVimul (w : VgWord) (s : State) : Out := int2 w s true (· * ·)
def execVimin (w : VgWord) (s : State) : Out := int2 w s false fun a b => if a ≤ b then a else b
def execVimax (w : VgWord) (s : State) : Out := int2 w s false fun a b => if a ≤ b then b else a

/-- A bitwise word of two sources in lanes of at least 8 bits (R246, R262). -/
def bit2 (w : VgWord) (s : State) (op : Nat → Nat → Nat) : Out :=
  vectorWord w s fun i m o =>
    match fmtIn m.fmt.val allFmts with
    | none => none
    | some f =>
      match i.vdst o.d f, i.vsrc 1 o.s1 f, i.vsrc 2 o.s2 f with
      | some d, some a, some b =>
        let v := mkByte i m f.width [d, a, b]
        if vuse {} m [d, a, b] && v.fits d && v.fits a && v.fits b then
          some (vlanes i m v d [a, b] false fun _ q vs => (op (lane vs 0 q) (lane vs 1 q), 0))
        else none
      | _, _, _ => none

def execVand (w : VgWord) (s : State) : Out := bit2 w s (· &&& ·)
def execVor (w : VgWord) (s : State) : Out := bit2 w s (· ||| ·)
def execVxor (w : VgWord) (s : State) : Out := bit2 w s (· ^^^ ·)

/-- VSHL: the low w bits of the shifted lane (R262). -/
def execVshl (w : VgWord) (s : State) : Out :=
  unary w s i4 { own := true } (fun m f => decide (m.imm.val < 64) && decide (m.imm.val < f.width)) fun _ m f _ x =>
    (x * 2 ^ m.imm.val % 2 ^ f.width, 0)

/-- VSHR: IMM[6] is `.sra` (R262). -/
def execVshr (w : VgWord) (s : State) : Out :=
  unary w s i4 { own := true } (fun m f => decide (m.imm.val < 128) && decide (m.imm.val % 64 < f.width)) fun _ m f _ x =>
    let n := m.imm.val % 64
    if 64 ≤ m.imm.val then
      let top := x / 2 ^ (f.width - 1) == 1
      (bitsOfInt f.width (((x : Int) - (if top then 2 ^ f.width else 0)) / 2 ^ n), 0)
    else (x / 2 ^ n, 0)

def execVpopc (w : VgWord) (s : State) : Out := unary w s i4 {} noExtra fun _ _ _ _ x => (popNat x, 0)

/-- The predicates of VICMP (R263). -/
def intPred (p : Nat) (f : Fmt) (x y : Nat) : Bool :=
  let a := intOfBits f x
  let b := intOfBits f y
  match p with
  | 0 => x == y
  | 1 => x != y
  | 2 => decide (a < b)
  | 3 => decide (a ≤ b)
  | 4 => decide (b < a)
  | 5 => decide (b ≤ a)
  | 6 => decide (x < y)
  | _ => decide (y ≤ x)

def execVicmp (w : VgWord) (s : State) : Out :=
  maskWord w s i4 { mdst := true, own := true } true (fun m => decide (m.imm.val < 8)) fun _ m f x y =>
    (intPred m.imm.val f x y, 0)

/-- A word with a destination and no source, lanes of max(8, w) bits where `bytes` (R264, R273). -/
def fillWord (w : VgWord) (s : State) (fs : List Fmt) (bytes : Bool) (f : Issue → ModVG → VCtx → Nat → Nat → Nat → Nat) : Out :=
  vectorWord w s fun i m o =>
    match fmtIn m.fmt.val fs with
    | none => none
    | some ft =>
      match i.vdst o.d ft with
      | some d =>
        let lw := if bytes then max 8 ft.width else ft.width
        let v := mkV i m lw false bytes
        if vuse { e := true } m [d] && v.fits d then
          some (vlanes i m v d [] false fun n q _ => (f i m v lw n q % 2 ^ lw, 0))
        else none
      | none => none

def execViota (w : VgWord) (s : State) : Out :=
  fillWord w s i4 false fun i m v _ n q => (i.c.e[m.e]).toNat + n * v.lanes + q

/-! ### Conversion and quantisation (R265, R266, R268) -/

def execVcvt (w : VgWord) (s : State) : Out :=
  convWord w s { dfmt := true, rm := true, sat := true }
    (fun f g => convOk f g && f != .bit1 && g != .bit1 && !(decide (f.width < 8) && decide (g.width < 8)))
    fun i m f g rm x => convert i.env f g rm m.sat x

/-- The integer part of VQUANT (R266). -/
def quantInt (g : Fmt) (rm : Rm) (sat : Bool) (t : FVal) : Nat × Fl :=
  match t with
  | .fin n m e =>
    let k := roundToInt rm n m e
    let nx := flIf k.2 flNX
    if k.1 < g.minInt then (bitsOfInt g.width g.minInt, nx ||| (if sat then flOF else flNV))
    else if g.maxInt < k.1 then (bitsOfInt g.width g.maxInt, nx ||| (if sat then flOF else flNV))
    else (bitsOfInt g.width k.1, nx)
  | v => floatToInt g rm v

def quantFmts : List Fmt := [.k8, .k8w, .int16, .int8, .uint8, .int4]

def execVquant (w : VgWord) (s : State) : Out :=
  convWord w s { dfmt := true, rm := true, sat := true, e := true } (fun f g => f3.contains f && quantFmts.contains g)
    fun i m f g rm x =>
      let a := decodeFloat i.env f x
      let k := val32 i.env (i.c.e[m.e].setWidth 32)
      let t := mul32 i.env a k
      let v := val32 i.env t.1
      let r := if g.isK then roundTo i.env g rm m.sat v else quantInt g rm m.sat v
      (r.1, t.2 ||| nfOf [a, k] ||| r.2)

/-- The mode of a packing word: it rounds where a format is floating-point (R91). -/
def execVpack (w : VgWord) (s : State) : Out :=
  vectorWord w s fun i m o =>
    match fmtIn m.fmt.val allFmts, fmtIn m.dfmt.val allFmts with
    | some f, some g =>
      (match i.rm m.rm (f.isFloat || g.isFloat), i.rowOp 0 o.d g, i.vsrc 1 o.s1 f, i.vsrc 2 o.s2 f with
      | some rm, some d, some a, some b =>
        let v := mkV i m f.width false false
        if convOk f g && f.width == 2 * g.width && vuse { dfmt := true, rm := true, sat := true, mask := .no } m [d, a, b]
            && v.fits d && v.fits a && v.fits b then
          let l := v.lanes
          -- D has twice the lanes: its elements L and above come from S2
          let v2 : VCtx := { v with lanes := 2 * l }
          some ((List.range (v.nv + 1)).foldl (fun (x : Core × Fl) n =>
            let xs := v.read x.1 a n ++ v.read x.1 b n
            let rs := ((List.range (2 * l)).filter (v2.inside d n)).map fun q => (q, convert i.env f g rm m.sat (nth 0 xs q))
            (v2.write x.1 d n (rs.map fun r => (r.1, r.2.1)), rs.foldl (fun h r => h ||| r.2.2) x.2)) (i.c, 0))
        else none
      | _, _, _, _ => none)
    | _, _ => none

/-- VUNPK: D occupies tiles D and D + 1, with D at most t46 (R250, R268). -/
def execVunpk (w : VgWord) (s : State) : Out :=
  engWord s (onEngine .v) w.tok noSkip fun i s1 =>
    let m := w.mod
    match fmtIn m.fmt.val allFmts, fmtIn m.dfmt.val allFmts with
    | some f, some g =>
      (match i.rm m.rm (f.isFloat || g.isFloat), i.rowOp 0 w.ops.d g, i.rowOp 1 w.ops.s1 f with
      | some rm, some d, some a =>
        let v := mkV i m g.width false false
        (match d.tile with
        | none => .trap badOperand
        | some t =>
          if h : t.val + 1 < 48 then
            match shapeOf i.c.tshape[t.val + 1] with
            | none => .trap badOperand
            | some sh2 =>
              let d2 : TileOp := ⟨some ⟨t.val + 1, h⟩, sh2, .r⟩
              if !(convOk f g && g.width == 2 * f.width && sh2.fmt == g
                  && vuse { dfmt := true, rm := true, sat := true, mask := .no } m [d, a] && v.fits d && v.fits a) then
                .trap badOperand
              else if a.tile == d.tile || a.tile == d2.tile then .trap (.plain .illegalOverlap)
              else
                let l := v.lanes
                let half (x : Core × Fl) (o : TileOp) (n : Nat) (xs : List Nat) : Core × Fl :=
                  let rs := ((List.range l).filter (v.inside o n)).map fun q => (q, convert i.env f g rm m.sat (nth 0 xs q))
                  (v.write x.1 o n (rs.map fun r => (r.1, r.2.1)), rs.foldl (fun e r => e ||| r.2.2) x.2)
                i.done s1 w.tok.pt ((List.range (v.nv + 1)).foldl (fun (x : Core × Fl) n =>
                  let xs := ({ v with lanes := 2 * l } : VCtx).read x.1 a n
                  half (half x d n (xs.take l)) d2 n (xs.drop l)) (i.c, 0))
          else .trap badOperand)
      | _, _, _ => .trap badOperand)
    | _, _ => .trap badOperand

end Sys2Proof.Machine
end

