-- ==== Sys2Proof/Machine/VectorMove.lean ====
section
/-! DEFINITION. The vector words that gather lanes: block maxima, sparsity metadata, bitmaps, reductions, scans, moves,
shuffles, masks, keys and histograms (R267, R269 to R279). -/

namespace Sys2Proof.Machine

/-! ### Block maxima, sparsity metadata, bitmaps (R267, R269, R270) -/

/-- The largest magnitude of a list under R44; NaN lies above every number. -/
def maxAbs : FVal → List FVal → FVal
  | m, [] => m
  | m, x :: t => maxAbs (if cmpR44 m x.abs == .lt then x.abs else m) t

/-- m of a block from its present elements (R267). -/
def blockMax (l : List FVal) : FVal := maxAbs (.fin false 0 0) l

def execVbmax (w : VgWord) (s : State) : Out :=
  vectorWord w s fun i m o =>
    match fmtIn m.fmt.val f5, fmtIn m.dfmt.val f3 with
    | some f, some g =>
      (match i.rm m.rm true, i.rowOp 0 o.d g, i.vsrc 1 o.s1 f with
      | some rm, some d, some a =>
        let v := mkV i m f.width true false
        let bs := 8 * 2 ^ m.imm.val
        let nb := (v.lanes + bs - 1) / bs
        if 4 < m.imm.val || !vuse { dfmt := true, rm := true, sat := true, own := true } m [d, a] || !v.fits a
            || !packFits d v.row0 ((v.nv + 1) * nb) then none
        else
          let rs := (List.range (v.nv + 1)).flatMap fun n =>
            let xs := v.read i.c a n
            (List.range nb).map fun b =>
              let present := ((List.range (min v.lanes ((b + 1) * bs) - b * bs)).map (b * bs + ·)).filter fun q =>
                laneOn i.c m q && v.inside a n q
              let vs := present.map fun q => decodeFloat i.env f (nth 0 xs q)
              let r := roundTo i.env g rm m.sat (blockMax vs)
              (n * nb + b, (r.1, r.2 ||| nfOf vs))
          some (packWrite i.c d v.row0 rs)
      | _, _, _ => none)
    | _, _ => none

/-- Position q is chosen of a group when fewer than `n` others come before it: larger in magnitude, or equal and lower
(R269). -/
def chosen (mags : List FVal) (n q : Nat) : Bool :=
  let x := nth .nan mags q
  let before := (List.range mags.length).filter fun p =>
    match cmpR44 (nth .nan mags p) x with
    | .gt => true
    | .eq => decide (p < q)
    | .lt => false
  decide (before.length < n)

/-- The positions chosen of a group of eight, in increasing order (R269). -/
def choose8 (env : NumEnv) (f : Fmt) (n : Nat) (grp : List Nat) : List Nat :=
  let mags := grp.map fun b => (decodeFloat env f b).abs
  (List.range 8).filter (chosen mags n)

/-- The values and positions that VSPARS keeps of a row of elements: element index, bits, position (R269). -/
def sparsRow (env : NumEnv) (f : Fmt) (n : Nat) (xs : List Nat) : List (Nat × Nat × Nat) :=
  (List.range (xs.length / 8)).flatMap fun g =>
    let grp := (xs.drop (8 * g)).take 8
    ((choose8 env f n grp).zipIdx).map fun p => (g * n + p.2, nth 0 grp p.1, p.1)

def execVspars (w : VgWord) (s : State) : Out :=
  engWord s (onEngine .v) w.tok noSkip fun i s1 =>
    let m := w.mod
    match fmtIn m.fmt.val floats16 with
    | none => .trap badOperand
    | some f =>
      match i.rowOp 0 w.ops.d f, i.rowOp 1 w.ops.s1 f, i.rowOp 2 w.ops.s2 .uint8 with
      | some d, some a, some md =>
        let v := mkV i m f.width true false
        if 2 < m.imm.val || !vuse { own := true, mask := .no } m [d, a, md] || !v.fits d || !v.fits a || !v.fits md then
          .trap badOperand
        else
          let same (x y : TileOp) : Bool := x.tile.isSome && x.tile == y.tile
          if same d md || same d a || same md a then .trap (.plain .illegalOverlap)
          else
            let n := match m.imm.val with
              | 0 => 4 | 1 => 2 | _ => 1
            i.done s1 w.tok.pt ((List.range (v.nv + 1)).foldl (fun (c : Core) q =>
              let ks := sparsRow i.env f n (v.read c a q)
              let c1 := v.write c d q (ks.map fun e => (e.1, e.2.1))
              c1.writeLanes md (v.row0 + q) 3 (ks.map fun e => (e.1, e.2.2))) i.c, 0)
      | _, _, _ => .trap badOperand

/-- Whether an element is not zero, judged from its bits (R270). -/
def nonzeroBits (f : Fmt) (b : Nat) : Bool :=
  if f.isFloat && !f.isK then b % 2 ^ (f.width - 1) != 0 else b != 0

def execVzbm (w : VgWord) (s : State) : Out :=
  vectorWord w s fun i m o =>
    match fmtIn m.fmt.val wideFmts with
    | none => none
    | some f =>
      match i.rowOp 0 o.d .bit1, i.vsrc 1 o.s1 f with
      | some d, some a =>
        let v := mkV i m f.width false false
        if vuse {} m [d, a] && v.fits d && v.fits a then
          some (vlanes i m v d [a] false fun _ q vs => (if nonzeroBits f (lane vs 0 q) then 1 else 0, 0))
        else none
      | _, _ => none

/-! ### Lane reductions (R52, R271) -/

/-- One level of the tree (R52). -/
def pairUp {α : Type} (op : α → α → α × Fl) : List (Option α) → List (Option α) × Fl
  | [] => ([], 0)
  | [x] => ([x], 0)
  | a :: b :: t =>
    let r := pairUp op t
    match a, b with
    | some x, some y => let z := op x y; (some z.1 :: r.1, z.2 ||| r.2)
    | some x, none => (some x :: r.1, r.2)
    | none, y => (y :: r.1, r.2)

/-- The levels of the tree over a power of two of lanes (R52). -/
def treeUp {α : Type} (op : α → α → α × Fl) : Nat → List (Option α) × Fl → Option α × Fl
  | 0, x => (x.1.headD none, x.2)
  | n + 1, x => let r := pairUp op x.1; treeUp op n (r.1, x.2 ||| r.2)

inductive Red where
  | sum | max | min | amax
  deriving DecidableEq, Repr

/-- op over FP32 values (R52). -/
def redFloat (env : NumEnv) (k : Red) (x y : FVal) : FVal × Fl :=
  match k with
  | .sum => let r := add32 env x y; (val32 env r.1, r.2)
  | .max | .amax => (if cmpR44 x y == .lt then y else x, 0)
  | .min => (if cmpR44 x y == .gt then y else x, 0)

/-- The result with no lane present (R52, R271). -/
def redFloatNone : Red → FVal
  | .sum | .amax => .fin false 0 0
  | .max => .inf true
  | .min => .inf false

def redInt (k : Red) (x y : Int) : Int × Fl :=
  match k with
  | .sum => let r := sat32 (x + y); (r.1.toInt, r.2)
  | .max | .amax => (if x < y then y else x, 0)
  | .min => (if y < x then y else x, 0)

def redIntNone : Red → Int
  | .sum | .amax => 0
  | .max => -(2 ^ 31)
  | .min => 2 ^ 31 - 1

/-- A lane reduction of the present lanes of one vector, converted (R271). -/
def reduceLanes (env : NumEnv) (k : Red) (f g : Fmt) (rm : Rm) (sat : Bool) (l : List (Option Nat)) : Nat × Fl :=
  if f.isFloat then
    let vs := l.map (·.map fun b => let v := decodeFloat env f b; if k == .amax then v.abs else v)
    let t := treeUp (redFloat env k) 7 (vs, nfOf (vs.filterMap id))
    let r := roundTo env g rm sat (t.1.getD (redFloatNone k))
    (r.1, t.2 ||| r.2)
  else
    let vs := l.map (·.map fun b =>
      let v := intOfBits f b
      if k == .amax then (let r := sat32 (if v < 0 then -v else v); (r.1.toInt, r.2)) else (v, (0 : Fl)))
    let fl := (vs.filterMap id).foldl (fun h r => h ||| r.2) 0
    let t := treeUp (redInt k) 7 (vs.map (·.map (·.1)), fl)
    let r := intToInt g sat (t.1.getD (redIntNone k))
    (r.1, t.2 ||| r.2)

/-- DFMT of the reductions: FP32, BF16, FP16 for a float FMT, and the integer formats for an integer one (R271). -/
def redFmtOk (f g : Fmt) : Bool := (f5.contains f && f3.contains g) || (i4.contains f && i4.contains g)

def redUse : VUse := { dfmt := true, rm := true, sat := true }

def reduceWord (w : VgWord) (s : State) (k : Red) : Out :=
  vectorWord w s fun i m o =>
    match fmtIn m.fmt.val (f5 ++ i4), fmtIn m.dfmt.val (f3 ++ i4) with
    | some f, some g =>
      (match i.rm m.rm (f.isFloat || g.isFloat), i.rowOp 0 o.d g, i.vsrc 1 o.s1 f with
      | some rm, some d, some a =>
        let v := mkV i m f.width false false
        if redFmtOk f g && vuse redUse m [d, a] && v.fits a && packFits d v.row0 (v.nv + 1) then
          let rs := (List.range (v.nv + 1)).map fun n =>
            let xs := v.read i.c a n
            let l := (List.range v.lanes).map fun q => if laneOn i.c m q && v.inside a n q then some (nth 0 xs q) else none
            (n, reduceLanes i.env k f g rm m.sat l)
          some (packWrite i.c d v.row0 rs)
        else none
      | _, _, _ => none)
    | _, _ => none

def execVrsum (w : VgWord) (s : State) : Out := reduceWord w s .sum
def execVrmax (w : VgWord) (s : State) : Out := reduceWord w s .max
def execVrmin (w : VgWord) (s : State) : Out := reduceWord w s .min
def execVramax (w : VgWord) (s : State) : Out := reduceWord w s .amax

/-! ### Column sums and scans (R53, R272) -/

/-- A running sum takes one element: RNE32, or SAT32 for integers (R53). -/
def runAdd (env : NumEnv) (f : Fmt) (x : W32 × Fl) (b : Nat) : W32 × Fl :=
  let r := if f.isFloat then add32 env (val32 env x.1) (decodeFloat env f b) else sat32 (x.1.toInt + intOfBits f b)
  (r.1, x.2 ||| r.2)

/-- A running sum converted to the destination (R272). -/
def runOut (env : NumEnv) (f g : Fmt) (rm : Rm) (sat : Bool) (x : W32) : Nat × Fl :=
  if f.isFloat then roundTo env g rm sat (val32 env x) else intToInt g sat x.toInt

def execVcsum (w : VgWord) (s : State) : Out :=
  vectorWord w s fun i m o =>
    match fmtIn m.fmt.val (f5 ++ i4), fmtIn m.dfmt.val (f3 ++ i4) with
    | some f, some g =>
      (match i.rm m.rm (f.isFloat || g.isFloat), i.rowOp 0 o.d g, i.vsrc 1 o.s1 f with
      | some rm, some d, some a =>
        let v := mkV i m f.width false false
        if redFmtOk f g && vuse redUse m [d, a] && v.fits a && packFits d v.row0 v.lanes then
          let vecs := (List.range (v.nv + 1)).map fun n => v.read i.c a n
          let rs := ((List.range v.lanes).filter fun q => laneOn i.c m q && packInside d v.row0 q).map fun q =>
            let t := vecs.foldl (fun x xs => runAdd i.env f x (nth 0 xs q)) (0, 0)
            let r := runOut i.env f g rm m.sat t.1
            (q, (r.1, t.2 ||| r.2))
          some (packWrite i.c d v.row0 rs)
        else none
      | _, _, _ => none)
    | _, _ => none

/-- Inclusive prefixes in lane order (R53, R272): the lanes given add to the running sum and take it. -/
def scanLanes (env : NumEnv) (f : Fmt) (rm : Rm) (sat : Bool) : W32 → List (Nat × Nat) → List (Nat × Nat × Fl)
  | _, [] => []
  | x, (q, b) :: t =>
    let r := runAdd env f (x, 0) b
    let o := runOut env f f rm sat r.1
    (q, o.1, r.2 ||| o.2) :: scanLanes env f rm sat r.1 t

def execVscan (w : VgWord) (s : State) : Out :=
  vectorWord w s fun i m o =>
    match fmtIn m.fmt.val (f5 ++ i4) with
    | none => none
    | some f =>
      match i.rm m.rm f.isFloat, i.vdst o.d f, i.vsrc 1 o.s1 f with
      | some rm, some d, some a =>
        let v := mkV i m f.width false false
        if m.dfmt == m.fmt && redFmtOk f f && vuse redUse m [d, a] && v.fits d && v.fits a then
          some ((List.range (v.nv + 1)).foldl (fun (x : Core × Fl) n =>
            let xs := v.read x.1 a n
            let on := (List.range v.lanes).filter fun q => laneOn i.c m q && v.inside a n q && v.inside d n q
            let rs := scanLanes i.env f rm m.sat 0 (on.map fun q => (q, nth 0 xs q))
            (v.write x.1 d n (rs.map fun r => (r.1, r.2.1)), rs.foldl (fun h r => h ||| r.2.2) x.2)) (i.c, 0))
        else none
      | _, _, _ => none

/-! ### Moves and shuffles (R273 to R276) -/

/-- A move of one source in lanes of max(8, w) bits: lane q of the destination from the source's lanes (R273). -/
def moveWord (w : VgWord) (s : State) (u : VUse) (fs : List Fmt) (bytes : Bool) (ok : Issue → ModVG → VCtx → Bool)
    (f : Issue → ModVG → VCtx → Nat → List Nat → Nat) : Out :=
  vectorWord w s fun i m o =>
    match fmtIn m.fmt.val fs with
    | none => none
    | some ft =>
      match i.vdst o.d ft, i.vsrc 1 o.s1 ft with
      | some d, some a =>
        let v := mkV i m (if bytes then max 8 ft.width else ft.width) u.own bytes
        if vuse u m [d, a] && ok i m v && v.fits d && v.fits a then
          some (vlanes i m v d [a] false fun _ q vs => (f i m v q (nth [] vs 0), 0))
        else none
      | _, _ => none

/-- VMOV (R246, R273). -/
def execVmov (w : VgWord) (s : State) : Out :=
  vectorWord w s fun i m o =>
    match fmtIn m.fmt.val allFmts with
    | none => none
    | some f =>
      match i.vdst o.d f, i.vsrc 1 o.s1 f with
      | some d, some a =>
        let v := mkByte i m f.width [d, a]
        if vuse {} m [d, a] && v.fits d && v.fits a then some (vlanes i m v d [a] false fun _ q vs => (lane vs 0 q, 0)) else none
      | _, _ => none

/-- The lane that VBCAST copies: e[E]<6:0> (R273). -/
def bcastLane (i : Issue) (m : ModVG) : Nat := (i.c.e[m.e]).toNat % 128

def execVbcast (w : VgWord) (s : State) : Out :=
  moveWord w s { e := true } allFmts true (fun i m v => decide (bcastLane i m < v.lanes)) fun i m _ _ xs =>
    nth 0 xs (bcastLane i m)

def execVrot (w : VgWord) (s : State) : Out :=
  moveWord w s { own := true } wideFmts false (fun _ m v => decide (m.imm.val < v.lanes)) fun _ m v q xs =>
    nth 0 xs ((q + m.imm.val) % v.lanes)

def execVfill (w : VgWord) (s : State) : Out := fillWord w s allFmts true fun i m _ _ _ _ => (i.c.e[m.e]).toNat

def execVshuf (w : VgWord) (s : State) : Out :=
  vectorWord w s fun i m o =>
    match fmtIn m.fmt.val wideFmts with
    | none => none
    | some f =>
      match i.vdst o.d f, i.vsrc 1 o.s1 f, i.vsrc 2 o.s2 .uint8 with
      | some d, some a, some x =>
        let v := mkV i m f.width false false
        if vuse {} m [d, a, x] && v.fits d && v.fits a && v.fits x then
          some (vlanes i m v d [a, x] false fun _ q vs => (nth 0 (nth [] vs 0) (lane vs 1 q), 0))
        else none
      | _, _, _ => none

/-- VSEL: the mask is a source, and every lane is written (R248, R275). -/
def execVsel (w : VgWord) (s : State) : Out :=
  vectorWord w s fun i m o =>
    match fmtIn m.fmt.val wideFmts with
    | none => none
    | some f =>
      match i.vdst o.d f, i.vsrc 1 o.s1 f, i.vsrc 2 o.s2 f with
      | some d, some a, some b =>
        let v := mkV i m f.width false false
        if vuse { mask := .req } m [d, a, b] && v.fits d && v.fits a && v.fits b then
          some (vlanes i m v d [a, b] true fun _ q vs =>
            (if (i.c.m[m.msk]).getLsbD q then lane vs 0 q else lane vs 1 q, 0))
        else none
      | _, _, _ => none

/-- VTRANS: blocks of 32 by 32 (R274). -/
def execVtrans (w : VgWord) (s : State) : Out :=
  vectorWord w s fun i m o =>
    match fmtIn m.fmt.val (wideFmts) with
    | none => none
    | some f =>
      match i.rowOp 0 o.d f, i.rowOp 1 o.s1 f with
      | some d, some a =>
        let row0 := m.row.val + i.rowoff
        let nb := m.nv.val + 1
        if vuse { mask := .no } m [d, a] && decide (32 * nb ≤ f.lanes) && decide (row0 + 31 ≤ 127) then
          some ((List.range nb).foldl (fun (c : Core) b =>
            let src := (List.range 32).map fun j => c.rowIn a (row0 + j)
            (List.range 32).foldl (fun x r =>
              x.writeElems d (row0 + r) ((List.range 32).map fun j => (32 * b + j, elemOf (nth 0 src j) f.width (32 * b + r)))) c) i.c, 0)
        else none
      | _, _ => none

def execVext (w : VgWord) (s : State) : Out :=
  vectorWord w s fun i m o =>
    match fmtIn m.fmt.val wideFmts with
    | none => none
    | some f =>
      match i.vsrc 1 o.s1 f with
      | some a =>
        let v := mkV i m f.width true false
        if m.nv == 0 && decide (m.imm.val < v.lanes) && vuse { e := true, own := true, mask := .no } m [a] && v.fits a then
          some (setE i.c m.e (w64 (nth 0 (v.read i.c a 0) m.imm.val)), 0)
        else none
      | none => none

def execVins (w : VgWord) (s : State) : Out :=
  vectorWord w s fun i m o =>
    match fmtIn m.fmt.val wideFmts with
    | none => none
    | some f =>
      match i.vdst o.d f with
      | some d =>
        let v := mkV i m f.width true false
        if m.nv == 0 && decide (m.imm.val < v.lanes) && vuse { e := true, own := true, mask := .no } m [d] && v.fits d then
          some (if v.inside d 0 m.imm.val then v.write i.c d 0 [(m.imm.val, (i.c.e[m.e]).toNat % 2 ^ f.width)] else i.c, 0)
        else none
      | none => none

/-! ### Masks (R277) -/

/-- The fields that are zero in the mask instructions: FMT, NV and ROW besides those of VUse (R277). -/
def maskFields (m : ModVG) (u : VUse) : Bool :=
  m.fmt == 0 && m.nv == 0 && m.row == 0 && vuse { u with mask := .req } m []

def execVmlog (w : VgWord) (s : State) : Out :=
  vectorWord w s fun i m _ =>
    if maskFields m { mdst := true, own := true } && decide (m.imm.val < 128) then
      let a := i.c.m[m.msk]
      let b := i.c.m[Fin.ofNat 8 (m.imm.val / 16)]
      let t := BitVec.ofNat 4 m.imm.val
      let bits := (List.range 128).foldl (fun n j => if plogBit t (a.getLsbD j) (b.getLsbD j) then n + 2 ^ j else n) 0
      some ({ i.c with m := i.c.m.set m.mdst (BitVec.ofNat 128 bits) }, 0)
    else none

/-- The one bits of a mask, lowest first. -/
def onesOf (x : W128) : List Nat := (List.range 128).filter fun j => x.getLsbD j

def execVmpop (w : VgWord) (s : State) : Out :=
  vectorWord w s fun i m _ =>
    if maskFields m { e := true } then some (setE i.c m.e (w64 (onesOf i.c.m[m.msk]).length), 0) else none

def execVmfirst (w : VgWord) (s : State) : Out :=
  vectorWord w s fun i m _ =>
    if maskFields m { e := true, mdst := true } then
      match onesOf i.c.m[m.msk] with
      | [] => some ({ setE i.c m.e 128 with m := i.c.m.set m.mdst 0 }, 0)
      | j :: _ => some ({ setE i.c m.e (w64 j) with m := i.c.m.set m.mdst (BitVec.ofNat 128 (2 ^ j)) }, 0)
    else none

/-! ### Keys and histograms (R278, R279) -/

/-- The first loop of the Hilbert transform at one q, over coordinates a = 0 to nd - 1 (R278). -/
def hilbertStep (q : Nat) (x : List Nat) (a : Nat) : List Nat :=
  let x0 := nth 0 x 0
  let xa := nth 0 x a
  if xa &&& q ≠ 0 then x.set 0 (x0 ^^^ (q - 1))
  else
    let t := (x0 ^^^ xa) &&& (q - 1)
    let y := x.set 0 (x0 ^^^ t)
    y.set a (nth 0 y a ^^^ t)

/-- The powers of two from 2^(k-1) down to 2. -/
def qsDown (k : Nat) : List Nat := ((List.range (k - 1)).reverse).map fun b => 2 ^ (b + 1)

/-- The Hilbert transform of coordinates of k bits (R278). -/
def hilbert (k nd : Nat) (x : List Nat) : List Nat :=
  let x1 := (qsDown k).foldl (fun y q => (List.range nd).foldl (hilbertStep q) y) x
  let x2 := (List.range (nd - 1)).foldl (fun y a => y.set (a + 1) (nth 0 y (a + 1) ^^^ nth 0 y a)) x1
  let t := (qsDown k).foldl (fun t q => if nth 0 x2 (nd - 1) &&& q ≠ 0 then t ^^^ (q - 1) else t) 0
  x2.map (· ^^^ t)

/-- The key of coordinates: bit nd * b + nd - 1 - a is bit b of coordinate a (R278). -/
def sfcKey (k nd : Nat) (x : List Nat) : Nat :=
  (List.range k).foldl (fun n b => (List.range nd).foldl (fun y a =>
    y + bitsNat (nth 0 x a) b 1 * 2 ^ (nd * b + nd - 1 - a)) n) 0

def execVsfc (w : VgWord) (s : State) : Out :=
  vectorWord w s fun i m o =>
    match fmtIn m.fmt.val [.uint8, .int16, .int32], fmtIn m.dfmt.val [.int32] with
    | some f, some _ =>
      let three := m.imm.val / 2 % 2 == 1
      let k := m.imm.val / 4 % 16 + 1
      let zOp : Option (List TileOp) :=
        if three then (match i.vsrc 3 o.s3 f with | some t => some [t] | none => none)
        else if o.s3 = .zero then some [] else none
      (match i.vdst o.d .int32, i.vsrc 1 o.s1 f, i.vsrc 2 o.s2 f, zOp with
      | some d, some x, some y, some z =>
        let v := mkV i m 32 true false
        let srcs := [x, y] ++ z
        if decide (m.imm.val < 64) && (!three || decide (k ≤ 10)) && vuse { dfmt := true, own := true } m (d :: srcs)
            && v.fits d && srcs.all v.fits then
          some (vlanes i m v d srcs false fun _ q vs =>
            let cs := vs.map fun l => nth 0 l q % 2 ^ k
            let nd := cs.length
            (sfcKey k nd (if m.imm.val % 2 == 1 then hilbert k nd cs else cs), 0))
        else none
      | _, _, _, _ => none)
    | _, _ => none

/-- One weight goes into its bin (R279): bins by number with the flags so far. -/
def histAdd (env : NumEnv) (g : Fmt) (b : Nat) (x : List Nat × Fl) (p : Int × Nat) : List Nat × Fl :=
  if 0 ≤ p.1 ∧ p.1 < b then
    let r := runAdd env g (BitVec.ofNat 32 (nth 0 x.1 p.1.toNat), 0) p.2
    (x.1.set p.1.toNat r.1.toNat, x.2 ||| r.2)
  else x

def execVhist (w : VgWord) (s : State) : Out :=
  vectorWord w s fun i m o =>
    match fmtIn m.fmt.val [.int32, .int16, .uint8], fmtIn m.dfmt.val [.int32, .fp32] with
    | some f, some g =>
      (match i.rowOp 0 o.d g, i.vsrc 1 o.s1 f, i.vsrc 2 o.s2 g with
      | some d, some kx, some wt =>
        let v := mkV i m 32 true false
        let b := m.imm.val + 1
        if decide (m.imm.val < 128) && vuse { dfmt := true, own := true } m [d, kx, wt] && v.fits kx && v.fits wt
            && packFits d v.row0 b then
          let terms := (List.range (v.nv + 1)).flatMap fun n =>
            let ks := v.read i.c kx n
            let ws := v.read i.c wt n
            ((List.range 32).filter fun q => laneOn i.c m q && v.inside kx n q && v.inside wt n q).map fun q =>
              (intOfBits f (nth 0 ks q), nth 0 ws q)
          -- bins outside D's extent are not computed (R248)
          let live := terms.filter fun p => decide (p.1 < 0) || packInside d v.row0 p.1.toNat
          let bins := (List.range b).map fun c => elemOf (i.c.rowIn d (v.row0 + c / 32)) 32 (c % 32)
          let r := live.foldl (histAdd i.env g b) (bins, 0)
          let c := (packWrite i.c d v.row0 (r.1.zipIdx.map fun p => (p.2, (p.1, (0 : Fl))))).1
          some (c, r.2)
        else none
      | _, _, _ => none)
    | _, _ => none

end Sys2Proof.Machine
end

