-- ==== Sys2Proof/Machine/Codec.lean ====
section
/-! DEFINITION. Block streams and transforms on bytes: decoding and encoding chunks, and the layout transforms (R327, R331 to
R335). -/

namespace Sys2Proof.Machine

/-! ### Decoding (R331 to R333) -/

/-- A chunk header (R331). -/
structure ChunkHdr where
  magic : Nat
  coding : Nat
  cfl : Nat
  outlen : Nat
  inlen : Nat
  check : Nat
  deriving DecidableEq, Repr

def chunkHdr (bs : List Byte) : ChunkHdr :=
  let v := leNum bs
  ⟨bitsNat v 0 16, bitsNat v 16 8, bitsNat v 24 8, bitsNat v 32 32, bitsNat v 64 32, bitsNat v 96 32⟩

def stFormat : Nat := 0x22
def stLength : Nat := 0x20
def stCycles : Nat := 0x21

/-- The checks of a header that need no payload, in the order of R333; `left` bytes of stream from the header on, `room`
bytes of capacity. -/
def headStatus (h : ChunkHdr) (left room : Nat) : Nat :=
  if left < 16 + h.inlen ∨ h.magic ≠ 0x4E46 ∨ 3 < h.coding ∨ 1 < h.cfl ∨ (h.coding = 3 ∧ h.inlen % 32 ≠ 0) then stFormat
  else if h.outlen % 16 ≠ 0 ∨ h.outlen < 16 ∨ 65536 < h.outlen ∨ (h.coding = 0 ∧ h.inlen ≠ h.outlen) ∨ room < h.outlen then stLength
  else 0

/-- Bytes of the bitmap of G granules, padded (R332). -/
def bitmapLen (g : Nat) : Nat := ((g + 7) / 8 + 15) / 16 * 16

/-- The granules of a ZG payload: the next value where the bit is 1, else zero (R332). -/
def zgGranules (bits : Nat) : Nat → Nat → List Byte → List (List Byte)
  | 0, _, _ => []
  | n + 1, g, vals =>
    if bitsNat bits g 1 = 1 then (vals.take 16) :: zgGranules bits n (g + 1) (vals.drop 16)
    else List.replicate 16 0 :: zgGranules bits n (g + 1) vals

def xorBytes (a b : List Byte) : List Byte := (a.zip b).map fun p => p.1 ^^^ p.2

/-- XZG: each granule is its difference from the one before (R332). -/
def xorChain : List Byte → List (List Byte) → List (List Byte)
  | _, [] => []
  | prev, d :: t => let g := xorBytes d prev; g :: xorChain g t

/-- ZG and XZG: the decoded bytes, or none where a rule of R332 is broken. -/
def decodeZG (xor : Bool) (g : Nat) (payload : List Byte) : Option (List Byte) :=
  let bm := bitmapLen g
  let bits := leNum (payload.take bm)
  let ones := ((List.range g).filter fun j => bitsNat bits j 1 == 1).length
  if payload.length < bm ∨ 2 ^ g ≤ bits ∨ payload.length ≠ bm + 16 * ones then none
  else
    let gs := zgGranules bits g 0 (payload.drop bm)
    some ((if xor then xorChain (List.replicate 16 0) gs else gs).flatten)

/-- RUN (R332, R333): entry by entry, with the cycles left: the bytes decoded and the status. An entry takes a cycle for each
four granules, and at least one (log entry 21). -/
def decodeRun : Nat → Nat → Nat → List Byte → List Byte × Nat
  | 0, room, _, _ => ([], if room = 0 then 0 else stLength)
  | fuel + 1, room, cyc, payload =>
    if payload.isEmpty then ([], if room = 0 then 0 else stLength)
    else
      let e := leNum (payload.take 16)
      let count := e % 2 ^ 32
      if e / 2 ^ 32 ≠ 0 then ([], stFormat)
      else
        let cost := max 1 ((count + 3) / 4)
        let inTime := if cost ≤ cyc then count else 4 * cyc
        let n := min inTime room
        let bytes := (List.replicate n ((payload.drop 16).take 16)).flatten
        if room < inTime then (bytes, stLength)
        else if cyc < cost then (bytes, stCycles)
        else
          let r := decodeRun fuel (room - n) (cyc - cost) (payload.drop 32)
          (bytes ++ r.1, r.2)

/-- The sum of little-endian 32-bit words (R331). -/
def checkSum : Nat → List Byte → Nat
  | 0, _ => 0
  | n + 1, bs => (leNum (bs.take 4) + checkSum n (bs.drop 4)) % 2 ^ 32

/-- A chunk's output and status, its header having passed (R333). -/
def decodeChunk (h : ChunkHdr) (factor : Nat) (payload : List Byte) : List Byte × Nat :=
  let g := h.outlen / 16
  let raw : List Byte × Nat :=
    match h.coding with
    | 0 => (payload, 0)
    | 1 => (match decodeZG false g payload with | some o => (o, 0) | none => ([], stFormat))
    | 2 => (match decodeZG true g payload with | some o => (o, 0) | none => ([], stFormat))
    | _ => decodeRun (payload.length / 32) g (factor * (h.outlen / 64 + 1)) payload
  if raw.2 ≠ 0 then raw
  else if checkSum (raw.1.length / 4) raw.1 ≠ h.check then (raw.1, stFormat)
  else raw

/-- The status word of CDEC and CENC (R333). -/
def streamStatus (written chunk code : Nat) : W64 := w64 (written % 2 ^ 32 * 2 ^ 32 + chunk % 65536 * 65536 + code)

/-- How a stream ends (R333): with FOV = 0 its status is written, with FOV = 1 a status that is not 0 is a fault. -/
def decStop (d : DecState) (code : Nat) : List ReqKind :=
  if d.fov = false then [.setE d.ec (streamStatus d.written d.chunk code)]
  else if code = 0 then []
  else [.fail ⟨if code = stFormat then .decodeFormat else if code = stLength then .decodeLength else .decodeCycles, d.src, w64 d.chunk⟩]
/-- The request for the next header of a stream, or how the stream stops where none fits (R333). -/
def decNext (d : DecState) : List ReqKind := if d.left < 16 then decStop d stFormat else [.read d.src 16 false (.head d)]

/-- What follows a header that has come in (R333). -/
def decHead (d : DecState) (bs : List Byte) : List ReqKind :=
  let h := chunkHdr bs
  let st := headStatus h d.left d.cap
  if st ≠ 0 then decStop d st
  else if h.inlen = 0 then decChunk d h bs []
  else [.read (d.src + 16) h.inlen false (.body d bs)]
where
  /-- What follows a chunk's payload: its output is written, and the stream goes on or stops. -/
  decChunk (d : DecState) (h : ChunkHdr) (_ : List Byte) (payload : List Byte) : List ReqKind :=
    let r := decodeChunk h d.factor payload
    let w : List ReqKind := if r.1.isEmpty then [] else [.write d.dst r.1 []]
    let n := r.1.length
    let d1 := { d with dst := d.dst + w64 n, cap := d.cap - n, written := d.written + n }
    if r.2 ≠ 0 then w ++ decStop d1 r.2
    else
      let d2 := { d1 with chunk := d.chunk + 1, src := d.src + w64 (16 + h.inlen), left := d.left - (16 + h.inlen) }
      w ++ (if h.cfl = 1 then decStop d2 0 else decNext d2)

def decBody (d : DecState) (hdr payload : List Byte) : List ReqKind := decHead.decChunk d (chunkHdr hdr) hdr payload

/-! ### Encoding (R334) -/

/-- Bytes in pieces of `n`. -/
def piecesOf (n : Nat) : Nat → List Byte → List (List Byte)
  | 0, _ => []
  | fuel + 1, bs => if bs.isEmpty then [] else bs.take n :: piecesOf n fuel (bs.drop n)

/-- Runs of equal granules: count and pattern. -/
def runsOf : List (List Byte) → List (Nat × List Byte)
  | [] => []
  | g :: t => match runsOf t with
    | (n, p) :: r => if p = g then (n + 1, p) :: r else (1, g) :: (n, p) :: r
    | [] => [(1, g)]

def isZeroGranule (g : List Byte) : Bool := g.all (· == 0)

/-- A ZG payload of granules or differences (R332). -/
def encodeZG (gs : List (List Byte)) : List Byte :=
  let bits := gs.zipIdx.foldl (fun n p => if isZeroGranule p.1 then n else n + 2 ^ p.2) 0
  leBytesOf (bitmapLen gs.length) bits ++ (gs.filter fun g => !isZeroGranule g).flatten

/-- The differences of XZG. -/
def diffChain : List Byte → List (List Byte) → List (List Byte)
  | _, [] => []
  | prev, g :: t => xorBytes g prev :: diffChain g t

def encodeRun (gs : List (List Byte)) : List Byte :=
  (runsOf gs).flatMap fun r => leBytesOf 16 r.1 ++ r.2

/-- The smallest of the four payloads, ties to the lower coding (R334). -/
def bestPayload (chunk : List Byte) : Nat × List Byte :=
  let gs := piecesOf 16 (chunk.length / 16) chunk
  let cands := [chunk, encodeZG gs, encodeZG (diffChain (List.replicate 16 0) gs), encodeRun gs]
  cands.zipIdx.foldl (fun (b : Nat × List Byte) p => if p.1.length < b.2.length then (p.2, p.1) else b) (0, chunk)

/-- A chunk encoded with its header (R331, R334). -/
def encodeChunk (chunk : List Byte) (last : Bool) : List Byte :=
  let b := bestPayload chunk
  leBytesOf 2 0x4E46 ++ leBytesOf 1 b.1 ++ leBytesOf 1 (if last then 1 else 0) ++ leBytesOf 4 chunk.length ++
    leBytesOf 4 b.2.length ++ leBytesOf 4 (checkSum (chunk.length / 4) chunk) ++ b.2

/-- The chunks that fit a capacity, with their number and whether all fit (R334). -/
def fitChunks (cap : Nat) : List (List Byte) → List Byte × Nat × Bool
  | [] => ([], 0, true)
  | e :: t =>
    if cap < e.length then ([], 0, false)
    else let r := fitChunks (cap - e.length) t; (e ++ r.1, r.2.1 + 1, r.2.2)

/-- CENC of a source: the stream and the status (R334). -/
def encodeStream (src : List Byte) (cap : Nat) : List Byte × W64 :=
  let cs := piecesOf 65536 (src.length / 65536 + 1) src
  let r := fitChunks cap (cs.zipIdx.map fun c => encodeChunk c.1 (c.2 + 1 == cs.length))
  (r.1, streamStatus r.1.length r.2.1 (if r.2.2 then 0 else stLength))

/-! ### Conversions and transforms (R325, R327, R335) -/

/-- Packed elements as numbers (R27). -/
def unpackRow (w n : Nat) (bs : List Byte) : List Nat :=
  let v := leNum bs
  (List.range n).map fun i => elemOf v w i

def rowLen (f : Fmt) (n : Nat) : Nat := (n * f.width + 7) / 8

/-- `n` packed elements converted and packed (R325). -/
def convertRow (env : NumEnv) (fs fd : Fmt) (rm : Rm) (sat : Bool) (n : Nat) (bs : List Byte) : List Byte × Fl :=
  let r := (unpackRow fs.width n bs).map (convert env fs fd rm sat)
  (packRow fd.width (r.map (·.1)), r.foldl (fun f x => f ||| x.2) 0)

/-- Elements that a run of bytes touches. -/
def elemsIn (w : Nat) (r : Nat × Nat) : Nat × Nat := (r.1 * 8 / w, ((r.1 + r.2) * 8 + w - 1) / w)

/-- What a transform writes: its data, flags, and the runs of it that poisoned runs of the source feed (R301, R335). -/
structure XferOut where
  dst : W64
  data : List Byte
  flags : Fl
  bad : List (Nat × Nat)
  status : Option (Fin 32 × W64)

def bitRun (lo hi w : Nat) : Nat × Nat := (lo * w / 8, (hi * w + 7) / 8 - lo * w / 8)

def runXfer (x : Xfer) (src : List Byte) (bad : List (Nat × Nat)) : XferOut :=
  match x with
  | .convert dst n fs fd rm sat env _ =>
    let r := convertRow env fs fd rm sat n src
    ⟨dst, r.1, r.2, bad.map fun b => let e := elemsIn fs.width b; bitRun e.1 (min e.2 n) fd.width, none⟩
  | .trans dst w rows cols =>
    let es := unpackRow w (rows * cols) src
    let out := (List.range cols).flatMap fun j => (List.range rows).map fun i => nth 0 es (i * cols + j)
    ⟨dst, packRow w out, 0, bad.flatMap fun b =>
      let e := elemsIn w b
      (List.range (e.2 - e.1)).map fun d => let q := e.1 + d; bitRun (q % cols * rows + q / cols) (q % cols * rows + q / cols + 1) w, none⟩
  | .spars dst f rows k n env =>
    let es := unpackRow f.width (rows * k) src
    let kept := (List.range rows).map fun i => sparsRow env f n ((es.drop (i * k)).take k)
    let vals := kept.flatMap fun l => leBytesOf 128 (putElems f.width 0 (l.map fun e => (e.1, e.2.1)))
    let metas := kept.flatMap fun l => leBytesOf 128 (putElems 3 0 (l.map fun e => (e.1, e.2.2)))
    ⟨dst, vals ++ metas, 0, bad.flatMap fun b =>
      let e := elemsIn f.width b
      -- the groups of eight that a run touches, with their values and their positions
      (List.range ((e.2 + 7) / 8 - e.1 / 8)).flatMap fun d =>
        let g := e.1 / 8 + d
        let i := g / (k / 8)
        let q := g % (k / 8)
        let v := bitRun (q * n) ((q + 1) * n) f.width
        let m := bitRun (q * n) ((q + 1) * n) 3
        [(i * 128 + v.1, v.2), (rows * 128 + i * 128 + m.1, m.2)], none⟩
  | .encode dst cap ec =>
    let r := encodeStream src cap
    ⟨dst, r.1, 0, [], some (ec, r.2)⟩

/-- Whether poison in the source faults rather than travels (R334). -/
def Xfer.faultsOnPoison : Xfer → Bool
  | .encode .. => true
  | _ => false

end Sys2Proof.Machine
end

