-- ==== Sys2Proof/Machine/Copy.lean ====
section
/-! DEFINITION. Issuing copy words (R318 to R342): loads, stores, copies, fills, windows, gathers, scatters, streams,
transforms, retention, prefetch, flushes and metadata. The requests that a word makes are performed one by one by
Machine/CopyData.lean. -/

namespace Sys2Proof.Machine

/-! ### Fields and checks (R319, R322, R323) -/

/-- Which fields of CG an instruction uses (R322). -/
structure CUse where
  fmt : Bool := false
  dfmt : Bool := false
  oc : Bool := false
  evf : Bool := false
  ea : Bool := false
  eb : Bool := false
  ec : Bool := false
  nr : Bool := false
  row : Bool := false
  zp : Bool := false
  deriving DecidableEq, Repr

/-- A field that the instruction does not use is zero (R322). -/
def cuse (u : CUse) (m : ModCG) : Bool :=
  (u.fmt || m.fmt == 0) && (u.dfmt || m.dfmt == 0) && (u.oc || m.oc == 0) && (u.evf || !m.evf) && (u.ea || m.ea == 0) &&
  (u.eb || m.eb == 0) && (u.ec || m.ec == 0) && (u.nr || m.nr == 0) && (u.row || m.row == 0) && (u.zp || !m.zp)

/-- Tiles and e registers that a word reads and writes, for R319. -/
structure CDeps where
  rd : List Nat := []
  wr : List Nat := []
  re : List (Fin 32) := []
  we : List (Fin 32) := []

/-- Whether R319 holds the word behind one that is in flight. A later writer of the same e register waits too, which keeps
the effect of R318. -/
def heldBy (f : Flight) (d : CDeps) : Bool :=
  d.rd.any (fun t => f.wr.contains t) || d.re.any (fun e => f.we.contains e.val) ||
  d.wr.any (fun t => f.wr.contains t || f.rd.contains t) || d.we.any (fun e => f.we.contains e.val)

/-- A message, or a batch, that has not been sent: its word is still in the address stage (R318, R362, R365). -/
def Req.waitsAtStage (r : Req) : Bool :=
  match r.kind with
  | .send .. | .batch .. => true
  | _ => false

/-- Whether the address stage holds a word behind an earlier one that is not complete (R318, R319). -/
def copyHeld (c : Core) (d : CDeps) : Bool :=
  c.c.flight.any fun f => !f.complete && (heldBy f d || f.reqs.any (·.waitsAtStage))

/-! ### The order of accesses (R324, R346, R349) -/

def Req.isAccess (r : Req) : Bool :=
  match r.kind with
  | .setE .. | .fail _ | .unstash .. | .collTell _ | .collEnd _ | .fixed .. => false
  | _ => true

/-- A request whose completion is an acquire for the copy engine's later words (R367, R371, R377). -/
def Req.acquires (r : Req) : Bool :=
  match r.kind with
  | .recv .. | .ring .. | .drift .. | .driftRun .. | .collTell _ | .collEnd _ => true
  | _ => false

/-- What a word waits on that orders the later accesses of its class (R361), and of every class (R371, R377). -/
def Wait.isBatch : Wait → Bool
  | .batch .. => true
  | _ => false
def Wait.isColl : Wait → Bool
  | .coll _ => true
  | _ => false

/-- Whether a word in flight keeps a later word's accesses of a class waiting (R324, R346): it has an access of the class to perform
or a write of it under way, or it is an acquire not yet made. -/
def Flight.holds (f : Flight) (cls : Nat) : Bool :=
  f.wait.isColl || f.reqs.any (·.acquires) ||
    (f.cls == cls && (f.wait.isBatch || !f.out.isEmpty || f.reqs.any (·.isAccess)))

/-- The place of a tile operand in CDeps. -/
def TileOp.deps (o : TileOp) : List Nat :=
  match o.tile with
  | some t => [t.val]
  | none => []

/-- What a copy word is at issue: its registers, what it does, or why it faults. -/
inductive CIss where
  /-- the word's new core, flags and requests -/
  | go (c : Core) (flags : Fl) (reqs : List Req)
  | trap (t : Trap)
  | hold

/-- A copy word's entry among the words in flight. -/
def copyFlight (s : State) (m : ModCG) (upc : W64) (pt : Fin 8) (reqs : List Req) : Flight :=
  { Flight.plain upc pt with cls := m.oc.val, reqs := reqs.map fun r => { r with stamp := s.mem.mphase } }

/-- A copy word (R318 to R321): held under R319, checked, then its requests stand in flight. -/
def copyWord (w : CgWord) (s : State) (deps : Issue → CDeps) (body : Issue → State → CIss) : Out :=
  engWord s (onEngine .c) w.tok noSkip fun i s1 =>
    if copyHeld i.c (deps i) then .hold
    else match body i s1 with
      | .trap t => .trap t
      | .hold => .hold
      | .go c fl reqs =>
        let d := deps i
        .ok (s1.setCore i.k c)
          { copyFlight s1 w.mod i.upc w.tok.pt reqs with rd := d.rd, wr := d.wr, we := d.we.map (·.val), flags := fl }

/-- The tile numbers of an operand field, as R319 sees them. -/
def fieldTiles (i : Issue) (field : Nat) (o : Opnd) : List Nat :=
  match i.opnd field o with
  | .ok ⟨_, .tile n⟩ => [n.val]
  | _ => []

/-- A tile as a copy word takes it: DIR R, of a format; a destination is no tz (R322). -/
def Issue.cdst (i : Issue) (o : Opnd) (f : Fmt) : Option TileOp :=
  match i.rowOp 0 o f with
  | some t => if t.tile.isSome then some t else none
  | none => none

/-- Bytes that an address of a format must be a multiple of (R324). -/
def elemBytes (f : Fmt) : Nat := max 1 (f.width / 8)

/-- The fault of a base or a pitch that is not aligned; the misaligned address is that of the first row the pitch brings to
one (R324, R381). -/
def rowAlign (base pitch : W64) (n : Nat) : Option Trap :=
  if !isAligned base n then some (.at .align base)
  else if !isAligned pitch n then some (.at .align (base + pitch))
  else none

/-- The mode of R325: read only where the formats differ and one is floating-point. -/
def Issue.copyRm (i : Issue) (f g : Fmt) : Option Rm :=
  if f == g || !(f.isFloat || g.isFloat) then some .rne else Rm.ofCode (fcsrRm i.c.fcsr)

/-- The memory rows of a word that moves rows: address and index (R324). -/
def memRows (i : Issue) (base pitch : W64) (n : Nat) : List (W64 × Nat) :=
  (List.range n).map fun r => (base + w64 (i.rowoff + r) * pitch, r)

def mkReq (m : ModCG) (k : ReqKind) : Req := ⟨m.oc.val, k, none, [], [], 0⟩

/-- Requests after the checks of R324 that need no memory access. -/
def goChecked (s : State) (i : Issue) (w : Bool) (acc : List (W64 × Nat)) (c : Core) (fl : Fl) (reqs : List Req) : CIss :=
  match s.issueChecks i.k w acc with
  | some t => .trap t
  | none => .go c fl reqs

def illegal : CIss := .trap badOperand

/-! ### Loads, stores, copies and fills (R326, R327) -/

def execCld (w : CgWord) (s : State) : Out :=
  let m := w.mod
  copyWord w s (fun i => { wr := fieldTiles i 0 w.ops.d, re := [m.ea, m.eb] }) fun i s1 =>
    match fmtIn m.fmt.val allFmts, fmtIn m.dfmt.val allFmts with
    | some f, some g =>
      (match i.cdst w.ops.d g, i.copyRm f g with
      | some d, some rm =>
        let row0 := m.row.val + i.rowoff
        let n := m.nr.val + 1
        let u : CUse := { fmt := true, dfmt := true, oc := true, evf := true, ea := true, eb := true, nr := true, row := true, zp := true }
        if !cuse u m || 1 < m.cx.val || !convOk f g || 128 < row0 + n then illegal
        else
          let base := i.c.e[m.ea]
          let pitch := i.c.e[m.eb]
          match rowAlign base pitch (elemBytes f) with
          | some t => .trap t
          | none =>
            let cnt := d.sh.cols + 1
            let rows := memRows i base pitch n
            let len := rowLen f cnt
            goChecked s1 i false (rows.map fun r => (r.1, len)) i.c 0 (rows.map fun r =>
              mkReq m (.read r.1 len m.zp (.row (d.deps.headD 0) (row0 + r.2) cnt f g rm (m.cx == 1) i.env)))
      | _, _ => illegal)
    | _, _ => illegal

/-- Elements 0 to n - 1 of a tile row whatever its extent; zeros of tz (R322, R326). -/
def rawRow (c : Core) (o : TileOp) (row n : Nat) : List Nat :=
  match o.tile with
  | none => List.replicate n 0
  | some t => let v := c.rowBits t.val row; (List.range n).map fun e => elemOf v o.sh.fmt.width e

/-- The same row as the extent gives it: rows beyond ROWS read as zero (R69). -/
def extentRow (c : Core) (o : TileOp) (row n : Nat) : List Nat :=
  if row ≤ o.sh.rows then rawRow c o row n else List.replicate n 0

def execCst (w : CgWord) (s : State) : Out :=
  let m := w.mod
  copyWord w s (fun i => { rd := fieldTiles i 1 w.ops.s1, re := [m.ea, m.eb] }) fun i s1 =>
    match fmtIn m.fmt.val allFmts, fmtIn m.dfmt.val allFmts with
    | some f, some g =>
      (match i.rowOp 1 w.ops.s1 g, i.copyRm f g with
      | some a, some rm =>
        let row0 := m.row.val + i.rowoff
        let n := m.nr.val + 1
        let u : CUse := { fmt := true, dfmt := true, oc := true, evf := true, ea := true, eb := true, nr := true, row := true }
        if !cuse u m || 1 < m.cx.val || !convOk g f || 128 < row0 + n then illegal
        else
          let base := i.c.e[m.ea]
          let pitch := i.c.e[m.eb]
          match rowAlign base pitch (elemBytes f) with
          | some t => .trap t
          | none =>
            let cnt := a.sh.cols + 1
            let rows := (memRows i base pitch n).map fun r =>
              let es := (rawRow i.c a (row0 + r.2) cnt).map (convert i.env g f rm (m.cx == 1))
              (r.1, packRow f.width (es.map (·.1)), es.foldl (fun h x => h ||| x.2) (0 : Fl))
            goChecked s1 i true (rows.map fun r => (r.1, r.2.1.length)) i.c (rows.foldl (fun h r => h ||| r.2.2) 0)
              (rows.map fun r => mkReq m (.write r.1 r.2.1 []))
      | _, _ => illegal)
    | _, _ => illegal

def execCcpy (w : CgWord) (s : State) : Out :=
  let m := w.mod
  copyWord w s (fun _ => { re := [m.ea, m.eb, m.ec] }) fun i s1 =>
    match fmtIn m.fmt.val allFmts, fmtIn m.dfmt.val allFmts with
    | some f, some g =>
      (match i.copyRm f g with
      | some rm =>
        let u : CUse := { fmt := true, dfmt := true, oc := true, evf := true, ea := true, eb := true, ec := true }
        if !cuse u m || 1 < m.cx.val || !convOk f g then illegal
        else
          let src := i.c.e[m.ea]
          let dst := i.c.e[m.eb]
          let n := (i.c.e[m.ec]).toNat % 2 ^ 32
          if !isAligned src (elemBytes f) then .trap (.at .align src)
          else if !isAligned dst (elemBytes g) then .trap (.at .align dst)
          else if n = 0 then .go i.c 0 []
          else match s1.issueCheck i.k src (rowLen f n) false, s1.issueCheck i.k dst (rowLen g n) true with
            | some t, _ => .trap t
            | none, some t => .trap t
            | none, none =>
              .go i.c 0 [mkReq m (.read src (rowLen f n) false (.xfer (.convert dst n f g rm (m.cx == 1) i.env true)))]
      | none => illegal)
    | _, _ => illegal

def execCfill (w : CgWord) (s : State) : Out :=
  let m := w.mod
  copyWord w s (fun _ => { re := [m.ea, m.eb, m.ec] }) fun i s1 =>
    match fmtIn m.fmt.val allFmts with
    | some f =>
      let u : CUse := { fmt := true, oc := true, evf := true, ea := true, eb := true, ec := true }
      if !cuse u m || m.cx != 0 then illegal
      else
        let dst := i.c.e[m.ea]
        let n := (i.c.e[m.ec]).toNat % 2 ^ 32
        if !isAligned dst (elemBytes f) then .trap (.at .align dst)
        else if n = 0 then .go i.c 0 []
        else
          let v := (i.c.e[m.eb]).toNat % 2 ^ f.width
          let data := packRow f.width (List.replicate n v)
          goChecked s1 i true [(dst, data.length)] i.c 0 [mkReq m (.write dst data [])]
    | none => illegal

/-! ### Windows (R290, R291, R328) -/

def slotOff (x : Window) (t : Nat) : Nat := x.ring + t % 2 ^ x.log2n * 2 ^ x.log2sz

/-- The full bits of every granule of a run of scratchpad become 0. -/
def Quad.clearFull (q : Quad) (off n : Nat) : Quad := { q with full := kdelRange (off / 16) ((off + n) / 16) q.full }

/-- The checks of R189 on a run of a core's own scratchpad: it stalls while a bank switches (R285). -/
def State.ringCheck (s : State) (k : Fin 128) (off n : Nat) : Acc Unit :=
  s.padCheck k (w64 (0xFE * 2 ^ 56 + off)) (quadOf k) off n

/-- The same checks on slots of `n` bytes at several offsets. -/
def State.ringChecks (s : State) (k : Fin 128) (n : Nat) : List Nat → Acc Unit
  | [] => .ok ()
  | off :: t => (s.ringCheck k off n).bind fun _ => s.ringChecks k n t

/-- Granules of a scratchpad are written and then have their full bits set (R291). -/
def State.landRow (s : State) (q : Fin 32) (off : Nat) (bs : List Byte) : State :=
  (List.range (bs.length / 16)).foldl (fun (t : State) g => t.fillGranule q (off + 16 * g)) (s.setMem (s.mem.write (sramFlat q off) bs))

/-- fill() (R291): the rows to request, with their slots; rows beyond NROWS are written as zeros at once. -/
def windowFill (s : State) (k : Fin 128) (x : Window) : State × List (W64 × Nat × Nat) × Window :=
  let ts := (List.range (x.head + 2 ^ x.log2n - x.next)).map (x.next + ·)
  let s1 := (ts.filter fun t => decide (x.nrows ≤ t)).foldl (fun (y : State) t =>
    y.landRow (quadOf k) (slotOff x t) (List.replicate x.rowb 0)) s
  (s1, (ts.filter fun t => decide (t < x.nrows)).map (fun t => (x.tbase + w64 t * x.pitch, t, slotOff x t)),
    { x with next := max x.next (x.head + 2 ^ x.log2n) })

/-- The requests of a window's rows, one for each row, whose granules land one by one. -/
def windowReqs (m : ModCG) (w rowb : Nat) (rows : List (W64 × Nat × Nat)) : List Req :=
  if rowb = 0 then [] else rows.map fun r => mkReq m (.read r.1 rowb m.zp (.window w r.2.1 r.2.2 [] false))

/-- Whether a fetch of a window is in flight. -/
def windowBusy (c : Core) (w : Nat) : Bool :=
  c.c.flight.any fun f => f.reqs.any fun r =>
    match r.kind with
    | .read _ _ _ (.window x _ _ _ _) => x == w
    | _ => false

/-- A descriptor's 32 bytes as a window (R290). -/
def readWindow (bs : List Byte) (rowb : Nat) : Window :=
  let v := leNum bs
  let y := bitsNat v 192 64
  ⟨true, w64 (bitsNat v 0 64), w64 (bitsNat v 64 64), bitsNat v 128 32, bitsNat v 160 32, bitsNat y 32 4, bitsNat y 29 3,
    bitsNat y 0 25, rowb, bitsNat v 160 32, bitsNat v 160 32⟩

/-- The rules of R290 on a descriptor and ROWB, and that the ring lies in scratchpad-mode banks. -/
def windowOk (q : Quad) (bs : List Byte) (x : Window) : Bool :=
  let y := bitsNat (leNum bs) 192 64
  let size := 2 ^ x.log2n * 2 ^ x.log2sz
  let banks := (List.range ((x.ring + size - 1) / 2 ^ 20 - x.ring / 2 ^ 20 + 1)).map (x.ring / 2 ^ 20 + ·)
  isAligned x.tbase 16 && isAligned x.pitch 16 && decide (1 ≤ x.nrows) && bitsNat y 36 28 == 0 && bitsNat y 25 4 == 0 &&
  decide (4 ≤ x.log2sz) && decide (x.log2sz ≤ 16) && decide (x.ring % 2 ^ x.log2sz = 0) && decide (x.ring + size ≤ 2 ^ 25) &&
  decide (x.rowb % 16 = 0) && decide (x.rowb ≤ 2 ^ x.log2sz) && banks.all fun b => q.bankMode b == modePad

/-- The descriptor of CWIN, read at issue (R328): held while an earlier word keeps accesses of its class waiting, or while a remote
page has not answered. Being aligned, it lies in one page. -/
def readDesc (s : State) (i : Issue) (m : ModCG) (ea : W64) : Got (List Byte) :=
  let y := s.eng i.k .c
  if y.flight.any (·.holds m.oc.val) then .wait s
  else match y.got.find? fun g => g.1 == ea with
    | some (_, .bytes bs) => .ok bs (s.setEng i.k .c { y with got := y.got.filter fun g => g.1 != ea })
    | some (_, .poisoned) => .trap (poisonTrap ea remoteSector)
    | some (_, .lost t) => .trap t
    | none =>
      match s.portAt i.k ea 32 .read with
      | .trap t => .trap t
      | .wait s1 => .wait s1
      | .ok (.bytes ((.remote target inc addr, _) :: _)) s1 =>
        if y.asked.isSome then .wait s1
        else
          let r := s1.sendRemote i.k (.stream .c) i.upc ea m.oc.val target inc addr 32 none
          .wait (r.2.setEng i.k .c { r.2.eng i.k .c with asked := some (r.1, ea) })
      | .ok (.bytes ds) s1 =>
        (match firstPoison s1.mem ds, gatherPieces s1.mem [] ds 0 with
        | some sec, _ => .trap (poisonTrap ea sec)
        | none, some bs => .ok bs s1
        | none, none => .wait s1)
      | .ok (.fifo q b) s1 =>
        let r := popBytes (s1.quad q) b 32
        if r.1.length = 32 then .ok r.1 (s1.setQuad q r.2) else .wait s1
      | .ok (.count ..) _ => .trap (.at .align ea)

/-- A copy word whose issue may send a request and then be held. -/
def execCwin (w : CgWord) (s : State) : Out :=
  let m := w.mod
  match s.cur with
  | .engine k .c =>
    (match (s.core k).consume (tokNum .c) (tokAgents .c w.tok.wt) with
    | none => .next s
    | some c0 =>
      let i := engIssue s k .c c0
      let base := i.c.e[m.ea]
      let rowb := (i.c.e[m.eb]).toNat
      if copyHeld i.c { re := [m.ea, m.eb] } || windowBusy i.c m.cx.val then .next s
      else if !cuse { oc := true, evf := true, ea := true, eb := true, zp := true } m || 7 < m.cx.val || 2 ^ 32 ≤ rowb then
        .next (s.raise k 5 i.upc badOperand)
      else if !isAligned base 32 then .next (s.raise k 5 i.upc (.at .align base))
      else match readDesc s i m base with
        | .trap t => .next (s.raise k 5 i.upc t)
        | .wait s1 => .next s1
        | .ok bs s1 =>
          let x := readWindow bs rowb
          let q := quadOf k
          if !windowOk (s1.quad q) bs x then .next (s1.raise k 5 i.upc badOperand)
          else match s1.ringCheck k x.ring (2 ^ x.log2n * 2 ^ x.log2sz) with
          | .wait => .next s
          | .trap t => .next (s1.raise k 5 i.upc t)
          | .ok _ =>
            let s2 := s1.setQuad q ((s1.quad q).clearFull x.ring (2 ^ x.log2n * 2 ^ x.log2sz))
            let f := windowFill s2 k x
            match s2.issueChecks k false (if rowb = 0 then [] else f.2.1.map fun r => (r.1, rowb)) with
            | some t => .next (s.raise k 5 i.upc t)
            | none =>
              engWord f.1 (onEngine .c) w.tok noSkip fun j s3 =>
                .ok (s3.setCore k { j.c with windows := j.c.windows.set (Fin.ofNat 8 m.cx.val) f.2.2 })
                  (copyFlight s3 m j.upc w.tok.pt (windowReqs m m.cx.val rowb f.2.1)))
  | _ => .refused .wrongAgent

def execCadv (w : CgWord) (s : State) : Out :=
  let m := w.mod
  engWord s (onEngine .c) w.tok noSkip fun i s1 =>
    let wi : Fin 8 := Fin.ofNat 8 m.cx.val
    let x := i.c.windows[wi]
    let n := m.nr.val + 1
    if copyHeld i.c {} then .hold
    else if !cuse { oc := true, evf := true, nr := true, zp := true } m || 7 < m.cx.val || !x.loaded || 2 ^ x.log2n < n then .trap badOperand
    else match s1.ringChecks i.k (2 ^ x.log2sz) ((List.range n).map fun t => slotOff x (x.head + t)) with
    | .wait => .hold
    | .trap t => .trap t
    | .ok _ =>
      let q := quadOf i.k
      let y := (List.range n).foldl (fun (z : Quad) t => z.clearFull (slotOff x (x.head + t)) (2 ^ x.log2sz)) (s1.quad q)
      let f := windowFill (s1.setQuad q y) i.k { x with head := x.head + n }
      match s1.issueChecks i.k false (if x.rowb = 0 then [] else f.2.1.map fun r => (r.1, x.rowb)) with
      | some t => .trap t
      | none =>
        .ok (f.1.setCore i.k { f.1.core i.k with windows := i.c.windows.set wi f.2.2 })
          (copyFlight f.1 m i.upc w.tok.pt (windowReqs m m.cx.val x.rowb f.2.1))

/-! ### Gathers and scatters (R329) -/

def indexFmts : List Fmt := [.int32, .int16, .int8, .uint8]

/-- The indices of a gather or scatter, or none where an index row passes 127; tz gives every index 0 (R322, R329). -/
def indexVals (i : Issue) (o : TileOp) (n : Nat) : Option (List Int) :=
  let f := o.sh.fmt
  if o.tile.isNone then some (List.replicate n 0)
  else if 128 * f.lanes < i.rowoff + n then none
  else some ((List.range n).map fun k =>
    let q := i.rowoff + k
    intOfBits f (elemOf (i.c.rowIn o (q / f.lanes)) f.width (q % f.lanes)))

def cgUse : CUse :=
  { fmt := true, dfmt := true, oc := true, evf := true, ea := true, eb := true, ec := true, nr := true, row := true, zp := true }

/-- The checks that a gather and a scatter share: the table rows that the indices name, or none outside the table. -/
def gatherRows (i : Issue) (m : ModCG) (o : Option TileOp) (data : TileOp) : Except Trap (List (Option W64)) :=
  match o with
  | none => .error badOperand
  | some ix =>
    match indexVals i ix (m.nr.val + 1) with
    | none => .error badOperand
    | some xs =>
      let base := i.c.e[m.ea]
      let pitch := i.c.e[m.eb]
      let cap : Int := (i.c.e[m.ec]).toNat % 2 ^ 32
      match rowAlign base pitch (elemBytes data.sh.fmt) with
      | some t => .error t
      | none => .ok (xs.map fun x => if 0 ≤ x ∧ x < cap then some (base + w64 x.toNat * pitch) else none)

def execCgath (w : CgWord) (s : State) : Out :=
  let m := w.mod
  copyWord w s (fun i => { wr := fieldTiles i 0 w.ops.d, rd := fieldTiles i 1 w.ops.s1, re := [m.ea, m.eb, m.ec] }) fun i s1 =>
    match fmtIn m.fmt.val allFmts with
    | none => illegal
    | some f =>
      match i.cdst w.ops.d f with
      | none => illegal
      | some d =>
        let row0 := m.row.val + i.rowoff
        let n := m.nr.val + 1
        if !cuse cgUse m || m.cx != 0 || m.dfmt != m.fmt || 128 < row0 + n then illegal
        else match gatherRows i m (i.tileOp 1 w.ops.s1 [.r] indexFmts .int32) d with
          | .error t => .trap t
          | .ok rows =>
            let cnt := d.sh.cols + 1
            let len := rowLen f cnt
            let t := d.deps.headD 0
            let room (j : Nat) : Nat := if row0 + j ≤ d.sh.rows then cnt else 0
            let c := rows.zipIdx.foldl (fun (x : Core) r =>
              match r.1 with
              | some _ => x
              | none => x.setRowBits t (row0 + r.2)
                  (putElems f.width (x.rowBits t (row0 + r.2)) ((List.range (room r.2)).map fun e => (e, 0)))) i.c
            let reqs := rows.zipIdx.filterMap fun r => r.1.map fun a => (a, r.2)
            goChecked s1 i false (reqs.map fun r => (r.1, len)) c 0 (reqs.map fun r =>
              mkReq m (.read r.1 len m.zp (.row t (row0 + r.2) (room r.2) f f .rne false i.env)))

def execCscat (w : CgWord) (s : State) : Out :=
  let m := w.mod
  copyWord w s (fun i => { rd := fieldTiles i 1 w.ops.s1 ++ fieldTiles i 2 w.ops.s2, re := [m.ea, m.eb, m.ec] }) fun i s1 =>
    match fmtIn m.fmt.val allFmts with
    | none => illegal
    | some f =>
      match i.rowOp 1 w.ops.s1 f with
      | none => illegal
      | some a =>
        let row0 := m.row.val + i.rowoff
        let n := m.nr.val + 1
        if !cuse { cgUse with zp := false } m || m.cx != 0 || m.dfmt != m.fmt || 128 < row0 + n then illegal
        else match gatherRows i m (i.tileOp 2 w.ops.s2 [.r] indexFmts .int32) a with
          | .error t => .trap t
          | .ok rows =>
            let cnt := a.sh.cols + 1
            let outs := rows.zipIdx.filterMap fun r => r.1.map fun ad => (ad, packRow f.width (extentRow i.c a (row0 + r.2) cnt))
            goChecked s1 i true (outs.map fun r => (r.1, r.2.length)) i.c 0 (outs.map fun r => mkReq m (.write r.1 r.2 []))

/-! ### Streams and transforms (R331 to R335) -/

/-- A register and the one after it; none for register 31 (R322). -/
def ePair (c : Core) (e : Fin 32) : Option (W64 × W64) :=
  if h : e.val + 1 < 32 then some (c.e[e], c.e[e.val + 1]) else none

def pairRegs (e : Fin 32) : List (Fin 32) := [e, Fin.ofNat 32 (e.val + 1)]

def streamUse : CUse := { oc := true, evf := true, ea := true, eb := true, ec := true }

def execCdec (w : CgWord) (s : State) : Out :=
  let m := w.mod
  copyWord w s (fun _ => { re := pairRegs m.ea ++ pairRegs m.eb ++ [m.ec], we := if m.cx = 0 then [m.ec] else [] }) fun i s1 =>
    match ePair i.c m.ea, ePair i.c m.eb with
    | some (src, len), some (dst, cap) =>
      if !cuse streamUse m || 1 < m.cx.val then illegal
      else if !isAligned src 16 then .trap (.at .align src)
      else if !isAligned dst 16 then .trap (.at .align dst)
      else
        let f := (i.c.e[m.ec]).toNat % 256
        let d : DecState := ⟨src, len.toNat, dst, cap.toNat, 0, 0, if f = 0 then 4 else f, m.ec, m.cx == 1⟩
        if len.toNat < 16 then
          match decStop d stFormat with
          | [.fail t] => .trap t
          | [.setE e v] => .go (setE i.c e v) 0 []
          | _ => .go i.c 0 []
        else goChecked s1 i false [(src, 16)] i.c 0 ((decNext d).map (mkReq m))
    | _, _ => illegal

def execCenc (w : CgWord) (s : State) : Out :=
  let m := w.mod
  copyWord w s (fun _ => { re := pairRegs m.ea ++ pairRegs m.eb, we := [m.ec] }) fun i s1 =>
    match ePair i.c m.ea, ePair i.c m.eb with
    | some (src, len), some (dst, cap) =>
      if !cuse streamUse m || m.cx != 0 || len == 0 || len.toNat % 16 != 0 then illegal
      else if !isAligned src 16 then .trap (.at .align src)
      else if !isAligned dst 16 then .trap (.at .align dst)
      else goChecked s1 i false [(src, len.toNat)] i.c 0 [mkReq m (.read src len.toNat false (.xfer (.encode dst cap.toNat m.ec)))]
    | _, _ => illegal

/-- A transform from its code, formats, length and parameter, with its result's length; none where a rule of R335 fails. `dyn`
is the mode that code 7 means. -/
def xformOf (env : NumEnv) (code : Nat) (f g : Fmt) (len : Nat) (param : Nat) (dst : W64) (dyn : Option Rm) : Option (Xfer × Nat) :=
  match code with
  | 0 =>
    let n := len * 8 / f.width
    let rounds := !(f == g || !(f.isFloat || g.isFloat))
    let rm : Option Rm := if !rounds then some .rne else if bitsNat param 1 3 = 7 then dyn else Rm.ofCode (bitsNat param 1 3)
    if param / 16 ≠ 0 ∨ convOk f g = false then none
    else match rm with
      | some r => some (.convert dst n f g r (param % 2 == 1) env false, rowLen g n)
      | none => none
  | 1 =>
    let r := bitsNat param 0 32
    let c := bitsNat param 32 32
    if f ≠ g ∨ f.width < 8 ∨ r = 0 ∨ c = 0 ∨ len ≠ r * c * f.width / 8 then none else some (.trans dst f.width r c, len)
  | 2 =>
    let r := bitsNat param 0 32
    let k := 8 * (bitsNat param 32 8 + 1)
    let n := match bitsNat param 40 2 with
      | 0 => 4 | 1 => 2 | _ => 1
    if f ≠ g ∨ floats16.contains f = false ∨ 1024 < k * f.width ∨ bitsNat param 40 2 = 3 ∨ param / 2 ^ 42 ≠ 0 ∨ len ≠ r * k * f.width / 8 then
      none
    else some (.spars dst f r k n env, 256 * r)
  | _ => none

def execCxfm (w : CgWord) (s : State) : Out :=
  let m := w.mod
  copyWord w s (fun _ => { re := pairRegs m.ea ++ [m.eb, m.ec] }) fun i s1 =>
    match fmtIn m.fmt.val allFmts, fmtIn m.dfmt.val allFmts, ePair i.c m.ea with
    | some f, some g, some (src, len) =>
      let dst := i.c.e[m.eb]
      (match xformOf i.env m.cx.val f g len.toNat (i.c.e[m.ec]).toNat dst (Rm.ofCode (fcsrRm i.c.fcsr)) with
      | none => illegal
      | some (x, outLen) =>
        if !cuse { streamUse with fmt := true, dfmt := true } m then illegal
        else if !isAligned src (elemBytes f) then .trap (.at .align src)
        else if !isAligned dst (elemBytes g) then .trap (.at .align dst)
        else if outLen = 0 then .go i.c 0 []
        else match s1.issueCheck i.k src len.toNat false, s1.issueCheck i.k dst outLen true with
          | some t, _ => .trap t
          | none, some t => .trap t
          | none, none => .go i.c 0 [mkReq m (.read src len.toNat false (.xfer x))])
    | _, _, _ => illegal

/-! ### Caches and metadata (R339 to R342) -/

def setPin (q : Quad) (r : Fin 4) (b l : W64) (pasid : Nat) : Quad :=
  { q with pinb := q.pinb.set r b, pinl := q.pinl.set r l, pinPasid := q.pinPasid.set r pasid }

/-- The range of a cache word: virtual, within the lease, with the access that `w` says (R339, R341). -/
def leaseRange (c : Core) (k : Fin 128) (ea : W64) (n : Nat) : Option Trap :=
  match spaceOf k ea with
  | none => some (.at .perm ea)
  | some (.sram ..) => if n = 0 then none else some (.at .lease ea)
  | some (.virt va) => (leaseFault c.ranges false va n).map fun a => .at .lease (w64 a)

def execCpin (w : CgWord) (s : State) : Out :=
  let m := w.mod
  engWord s (onEngine .c) w.tok noSkip fun i s1 =>
    if copyHeld i.c { re := [m.ea, m.eb] } then .hold
    else if !cuse { ea := true, eb := true } m || 3 < m.cx.val then .trap badOperand
    else
      let b := i.c.e[m.ea]
      let l := i.c.e[m.eb]
      if !isAligned b 128 then .trap (.at .align b)
      else if !isAligned l 128 then .trap (.at .align (b + l))
      else match leaseRange i.c i.k b l.toNat with
        | some t => .trap t
        | none =>
          let q := quadOf i.k
          let r : Fin 4 := Fin.ofNat 4 m.cx.val
          .ok (s1.setQuad q (if l = 0 then setPin (s1.quad q) r 0 0 0 else setPin (s1.quad q) r b l i.c.pasid)) (.plain i.upc w.tok.pt)

def execCunpin (w : CgWord) (s : State) : Out :=
  engWord s (onEngine .c) w.tok noSkip fun i s1 =>
    if copyHeld i.c {} then .hold
    else if !cuse {} w.mod || 3 < w.mod.cx.val then .trap badOperand
    else
      let q := quadOf i.k
      .ok (s1.setQuad q (setPin (s1.quad q) (Fin.ofNat 4 w.mod.cx.val) 0 0 0)) (.plain i.upc w.tok.pt)

/-- CPREF completes at issue and changes no value (R340): which lines are cached is not architectural. -/
def execCpref (w : CgWord) (s : State) : Out :=
  copyWord w s (fun _ => { re := [w.mod.ea, w.mod.eb] }) fun i _ =>
    if !cuse { oc := true, ea := true, eb := true } w.mod || 1 < w.mod.cx.val then illegal else .go i.c 0 []

def execCflush (w : CgWord) (s : State) : Out :=
  let m := w.mod
  copyWord w s (fun _ => { re := [m.ea, m.eb] }) fun i _ =>
    if !cuse { oc := true, ea := true, eb := true } m || 1 < m.cx.val then illegal
    else
      let b := i.c.e[m.ea]
      let n := (i.c.e[m.eb]).toNat
      match leaseRange i.c i.k b n with
      | some t => .trap t
      | none => if n = 0 then .go i.c 0 [] else .go i.c 0 [mkReq m (.flush b n (m.cx == 1))]

/-- The checks of CMETA (R342): its address, its count of sectors and first tile row. -/
def metaArgs (i : Issue) (s : State) (m : ModCG) (wr : Bool) : Except Trap (W64 × Nat × Nat) :=
  let ea := i.c.e[m.ea]
  let n := (i.c.e[m.eb]).toNat % 2 ^ 32
  let row0 := m.row.val + i.rowoff
  let sram := match spaceOf i.k ea with
    | some (.sram ..) => true
    | _ => false
  if 127 < row0 ∨ n = 0 ∨ 16 * (128 - row0) < n ∨ sram = true then .error badOperand
  else if !isAligned ea 64 then .error (.at .align ea)
  else match s.issueCheck i.k ea (64 * n) wr with
    | some t => .error t
    | none => .ok (ea, n, row0)

def execCmetaRead (w : CgWord) (s : State) : Out :=
  let m := w.mod
  copyWord w s (fun i => { wr := fieldTiles i 0 w.ops.d, re := [m.ea, m.eb] }) fun i s1 =>
    match i.cdst w.ops.d .int32 with
    | none => illegal
    | some d =>
      if !cuse { oc := true, ea := true, eb := true, row := true, zp := true } m || m.cx != 0 then illegal
      else match metaArgs i s1 m false with
        | .error t => .trap t
        | .ok (ea, n, row0) => .go i.c 0 [mkReq m (.metaRead ea n (d.deps.headD 0) row0 d.sh.rows d.sh.cols m.zp)]

def execCmetaWrite (w : CgWord) (s : State) : Out :=
  let m := w.mod
  copyWord w s (fun i => { rd := fieldTiles i 1 w.ops.s1, re := [m.ea, m.eb] }) fun i s1 =>
    match i.rowOp 1 w.ops.s1 .int32 with
    | none => illegal
    | some a =>
      if !cuse { oc := true, ea := true, eb := true, row := true } m || m.cx != 1 then illegal
      else match metaArgs i s1 m true with
        | .error t => .trap t
        | .ok (ea, n, row0) =>
          let vals := (List.range n).map fun k => w64 (elemOf (i.c.rowIn a (row0 + k / 16)) 64 (k % 16))
          .go i.c 0 [mkReq m (.metaWrite ea vals)]

end Sys2Proof.Machine
end

