-- ==== Sys2Proof/Machine/Queue.lean ====
section
/-! DEFINITION. Queues and the task graph: a queue's own accesses, kicks, entering records, completions and their cascade, MSI-X,
enabling and disabling (R112 to R129). -/

namespace Sys2Proof.Machine

/-! ### Accesses under a PASID with no lease (R119, R123, R132, R135) -/

/-- Why such an access fails: its address has no translation (`host`: ATS failed), or it is refused (`right`: a page lacks a
right). -/
inductive OwnFail where
  | missing (va : Nat) (host : Bool)
  | refused (va : Nat) (right : Bool)
  deriving DecidableEq, Repr

/-- A grade check of a device address with the grade that the page carries (R298). -/
def gradeOk (m : MemSide) (a carried : Nat) : Bool := m.gradeAt a != gradeNone && m.gradeAt a == carried

/-- One piece, within one page, under a PASID, by its page tables alone (R112, R140 to R142, R298; log entry 22). -/
def State.ownPiece (s : State) (pasid va : Nat) (need : Need) : Except OwnFail (Dest × State) :=
  match s.translate none pasid va with
  | (.invalid, _) => .error (.missing va false)
  | (.noRegion _, _) => .error (.refused va false)
  | (.leaf log2 l, s1) =>
    let a := l.ma + va % 2 ^ log2
    if (need.r && !l.r) || (need.w && !l.w) then .error (.refused va true)
    else if l.rmt then .error (.refused va false)
    else if l.host then
      match s1.ats pasid a with
      | (some h, s2) => .ok (.here (hostFlat h) true, s2)
      | (none, _) => .error (.missing va true)
    else if gradeOk s1.mem a l.grade then .ok (.here a false, s1) else .error (.refused va false)

def State.ownAll (s : State) (pasid : Nat) (need : Need) : List (Nat × Nat) → Except OwnFail (List (Dest × Nat) × State)
  | [] => .ok ([], s)
  | (va, n) :: t =>
    match s.ownPiece pasid va need with
    | .error e => .error e
    | .ok (d, s1) =>
      match s1.ownAll pasid need t with
      | .error e => .error e
      | .ok (ds, s2) => .ok ((d, n) :: ds, s2)

/-- The pieces of an access; a poisoned sector refuses it (R119, R123). -/
def State.ownDests (s : State) (pasid va n : Nat) (need : Need) : Except OwnFail (List (Dest × Nat) × State) :=
  match s.ownAll pasid need (pieces 0 (n / 65536 + 2) va n) with
  | .error e => .error e
  | .ok (ds, s1) => if (firstPoison s1.mem ds).isSome then .error (.refused va false) else .ok (ds, s1)

def State.ownRead (s : State) (pasid va n : Nat) : Except OwnFail (List Byte × State) :=
  match s.ownDests pasid va n .read with
  | .error e => .error e
  | .ok (ds, s1) => .ok ((gatherPieces s1.mem [] ds 0).getD [], s1)

def writeHere (m : MemSide) (bs : List Byte) : List (Dest × Nat) → MemSide
  | [] => m
  | (.here flat _, n) :: t => writeHere (m.write flat (bs.take n)) (bs.drop n) t
  | (.remote .., n) :: t => writeHere m (bs.drop n) t

def State.ownWrite (s : State) (pasid va : Nat) (bs : List Byte) : Except OwnFail State :=
  match s.ownDests pasid va bs.length .write with
  | .error e => .error e
  | .ok (ds, s1) => .ok (s1.setMem (writeHere s1.mem bs ds))

/-! ### Queue blocks (R112) -/

def Queue.pasid (q : Queue) : Nat := bitsNat q.qcfg.toNat 44 20
def Queue.qsize (q : Queue) : Nat := 2 ^ (bitsNat q.qcfg.toNat 40 4 + 6)
def Queue.csize (q : Queue) : Nat := 2 ^ (bitsNat q.qcfg.toNat 36 4 + 6)
def Queue.prio (q : Queue) : Nat := bitsNat q.qcfg.toNat 34 2
def Queue.irqen (q : Queue) : Bool := bitsNat q.qcfg.toNat 33 1 == 1
def Queue.vec (q : Queue) : Nat := bitsNat q.qcfg.toNat 22 11

def State.queue (s : State) (q : Nat) : Queue := sget .reset s.cmd.queues q
def State.setQueue (s : State) (q : Nat) (x : Queue) : State := s.setCmd { s.cmd with queues := sset .reset s.cmd.queues q x }

def Node.is (n : Node) (q idx : Nat) : Bool := n.q == q && n.idx == idx
def State.node? (s : State) (q idx : Nat) : Option Node := s.cmd.nodes.find? (·.is q idx)
def State.updNode (s : State) (q idx : Nat) (f : Node → Node) : State :=
  s.setCmd { s.cmd with nodes := updFirst (·.is q idx) f s.cmd.nodes }
def State.setPhase (s : State) (q idx : Nat) (p : NodePhase) : State := s.updNode q idx fun n => { n with phase := p }

/-- Whether a node has been dispatched (R113, R123). -/
def NodePhase.dispatched : NodePhase → Bool
  | .running | .armed | .ended _ | .faulted _ => true
  | _ => false

/-! ### Pins (R133) -/

/-- Pin counts of the pages of a lease rise, or fall. -/
def MemSide.pin (m : MemSide) (ps : List Nat) : MemSide :=
  { m with pins := ps.foldl (fun l p => sset 0 l p (sget 0 l p + 1)) m.pins }
def MemSide.unpin (m : MemSide) (ps : List Nat) : MemSide :=
  { m with pins := ps.foldl (fun l p => sset 0 l p (sget 0 l p - 1)) m.pins }

/-- Leases held in the package: of nodes and of instances (R133). -/
def State.leasesHeld (s : State) : Nat :=
  (s.cmd.nodes.filter (·.leased)).length + (s.cmd.insts.filter (·.leased)).length

/-! ### MSI-X (R124, R125) -/

/-- A message of a table entry: sent, or pending while the entry or the function is masked or MSI-X is not enabled (R125, log entry 84). -/
def State.raiseMsix (s : State) (v : Nat) : State :=
  if s.cmd.msixOn && !s.cmd.msixMask && s.cmd.unmasked.contains v then
    let w (d : Nat) : Nat := (sget (0 : W32) s.cmd.msix (v * 4 + d)).toNat
    s.send (.interrupt (w 0 + w 1 * 2 ^ 32) (w 2))
  else s.setCmd { s.cmd with pba := kadd v s.cmd.pba }

/-- Unmasking an entry sends its pending message (R125). -/
def execMsixUnmask (entry : Nat) (s : State) : Out :=
  if entry < 2048 then
    let s1 := s.setCmd { s.cmd with unmasked := kadd entry s.cmd.unmasked }
    if s.cmd.msixOn && !s.cmd.msixMask && s.cmd.pba.contains entry then .next ((s1.setCmd { s1.cmd with pba := kdel entry s1.cmd.pba }).raiseMsix entry) else .next s1
  else .next s

/-- The host sets Enable and Function Mask of the MSI-X capability: the pending messages of unmasked entries are sent once both permit
(R125). -/
def State.setMsix (s : State) (on mask : Bool) : State :=
  let s1 := s.setCmd { s.cmd with msixOn := on, msixMask := mask }
  if !on || mask then s1
  else (s1.cmd.pba.filter s1.cmd.unmasked.contains).foldl (fun t v =>
    (t.setCmd { t.cmd with pba := kdel v t.cmd.pba }).raiseMsix v) s1

/-! ### A queue that fails (R123) -/

/-- A node and what is kept for it go: its pins, its reservations, and its stage. -/
def State.dropNode (s : State) (q idx : Nat) : State :=
  match s.node? q idx with
  | none => s
  | some n =>
    let s1 := if n.leased then s.setMem (s.mem.unpin n.pins) else s
    let c := s1.cmd
    let keys := (s1.stages.list.filter fun x => x.q == q && x.idx == idx).map (·.key)
    let s2 := s1.setCmd { c with
      nodes := c.nodes.filter fun x => !x.is q idx
      reservations := c.reservations.filter fun r => match r.who with
        | .gang key _ => !keys.contains key
        | w => w != .node q idx }
    s2.setStages { s2.stages with list := s2.stages.list.filter fun x => !(x.q == q && x.idx == idx) }

/-- The queue stops (R123): nodes not dispatched are discarded, dispatched ones go on and write no completion. -/
def State.ringError (s : State) (q : Nat) : State :=
  let x := s.queue q
  let s1 := s.setQueue q { x with en := false, ringerr := true, reading := false, again := false, waiting := [] }
  let mine := s1.cmd.nodes.filter fun n => n.q == q
  let s2 := (mine.filter fun n => !n.phase.dispatched).foldl (fun t n => t.dropNode q n.idx) s1
  let s3 := s2.setCmd { s2.cmd with nodes := s2.cmd.nodes.map fun n => if n.q == q then { n with orphan := true } else n }
  if x.irqen then s3.raiseMsix x.vec else s3

/-! ### Completions (R120 to R122, R124) -/

/-- The bytes of a completion record (R120); `t` is the completion's free-running index. -/
def Completion.bytes (c : Completion) (t size : Nat) : List Byte :=
  leBytesOf 4 c.idx ++ leBytesOf 2 c.kind ++ leBytesOf 2 c.status ++ leBytesOf 8 c.userdata ++ leBytesOf 4 c.ctxid ++
  leBytesOf 1 c.fcode ++ leBytesOf 3 0 ++ leBytesOf 8 c.frec ++ leBytesOf 8 c.tstart ++ leBytesOf 8 c.tend ++
  leBytesOf 4 c.flags.toNat ++ leBytesOf 8 0 ++ leBytesOf 4 (if t / size % 2 = 0 then 2 ^ 31 else 0)

/-- Completions that wait are written while the ring has room (R122): the record, then CPLTAIL, then the message of R124. -/
def State.drainCompletions (q : Nat) : Nat → State → State
  | 0, s => s
  | fuel + 1, s =>
    let x := s.queue q
    match x.waiting with
    | [] => s
    | c :: rest =>
      match s.ownRead x.pasid (x.qcb.toNat + 8) 4 with
      | .error _ => s.ringError q
      | .ok (bs, s1) =>
        if (x.cpltail - BitVec.ofNat 32 (leNum bs)).toNat = x.csize then
          s1.setQueue q { x with cplRead := s.time }
        else
          let t := x.cpltail.toNat
          match s1.ownWrite x.pasid (x.cbase.toNat + 64 * (t % x.csize)) (c.bytes t x.csize) with
          | .error _ => s1.ringError q
          | .ok s2 =>
            match s2.ownWrite x.pasid (x.qcb.toNat + 12) (leBytesOf 4 (x.cpltail + 1).toNat) with
            | .error _ => s2.ringError q
            | .ok s3 =>
              let s4 := s3.setQueue q { x with cpltail := x.cpltail + 1, waiting := rest, cplRead := s.time }
              let s5 := if x.irqen && c.irq then s4.raiseMsix x.vec else s4
              State.drainCompletions q fuel s5

/-- A completion goes to the ring, behind those that wait (R122). -/
def State.pushCompletion (s : State) (q : Nat) (c : Completion) : State :=
  let x := s.queue q
  let s1 := s.setQueue q { x with waiting := x.waiting ++ [c] }
  if x.waiting.isEmpty then s1.drainCompletions q 1 else s1

/-- A status enters the queue's history (R117, R127). -/
def State.record (s : State) (q idx status : Nat) : State :=
  let x := s.queue q
  s.setQueue q { x with hist := (idx, status) :: x.hist }

/-- A node leaves the graph with an ending: its record is written unless NOCPL is set and it is OK, or the queue had stopped
(R122, R123). -/
def State.closeNode (s : State) (n : Node) (e : Ending) : State :=
  let s1 := s.dropNode n.q n.idx
  if n.orphan then s1
  else
    let s2 := if n.idx < 2 ^ 32 then s1.record n.q n.idx e.status else s1
    if n.cmd.nocpl && e.status == 0 then s2
    else s2.pushCompletion n.q
      { idx := n.idx % 2 ^ 32, kind := n.cmd.kind, status := e.status, userdata := n.cmd.userdata, ctxid := n.ctxid
        fcode := e.fcode, frec := e.frec, tstart := n.tstart, tend := s.time, flags := e.flags
        irq := e.status != 0 || n.cmd.cplirq }

def Ending.status! (n : Nat) : Ending := ⟨n, 0, 0, 0⟩
def stOk : Nat := 0
def stFault : Nat := 1
def stPredFailed : Nat := 2
def stBadCommand : Nat := 3
def stBadSeq : Nat := 4
def stUnknownKind : Nat := 5
def stBadRecord : Nat := 6
def stUnmapped : Nat := 7
def stLeasePerm : Nat := 8
def stWaitTimeout : Nat := 9
def stAborted : Nat := 10
def stTranslation : Nat := 11
def stUnplaceable : Nat := 12

/-- The nodes that fail with one that failed, in index order (R128): those that name a failed one. -/
def failClosure (q : Nat) : List Nat → List Node → List Node
  | _, [] => []
  | failed, n :: t =>
    if n.q == q && n.preds.any failed.contains then n :: failClosure q (n.idx :: failed) t else failClosure q failed t

/-- Nodes leave the graph one after the other, those that are still there. -/
def State.closeAll (s : State) (l : List (Nat × Nat)) (e : Ending) : State :=
  l.foldl (fun t x => match t.node? x.1 x.2 with
    | some n => t.closeNode n e
    | none => t) s

/-- A node completes (R127, R128): OK lowers the counters of its successors; another status fails them in a cascade. -/
def State.completeNode (s : State) (q idx : Nat) (e : Ending) : State :=
  match s.node? q idx with
  | none => s
  | some n =>
    let s1 := s.closeNode n e
    if e.status = stOk then
      s1.setCmd { s1.cmd with nodes := s1.cmd.nodes.map fun x =>
        if x.q == q && x.preds.contains idx then
          let p := x.preds.filter (· != idx)
          { x with preds := p, phase := if p.isEmpty && x.phase == .counting then .due else x.phase }
        else x }
    else s1.closeAll ((failClosure q [idx] s1.cmd.nodes).map fun x => (q, x.idx)) (.status! stPredFailed)

/-- A node whose work is done, with its writes performed, completes (R127, R353). -/
def execNodeComplete (q idx : Nat) (s : State) : Out :=
  match s.node? q idx with
  | some n => match n.phase with
    | .ended e => .next (if n.io.out.isEmpty then s.completeNode q idx e else s)
    | _ => .next s
  | none => .next s

/-- While a completion waits, the device reads CPLHEAD again (R122). -/
def State.retryCompletions (s : State) (q : Nat) : State := s.drainCompletions q (s.queue q).waiting.length
def execCplheadReread (q : Nat) (s : State) : Out := .next (if q < 4096 then s.retryCompletions q else s)

/-! ### Kicks and entering (R115 to R117, R126, R127) -/

/-- A kick of an enabled queue asks for a TAIL read; kicks during one are merged into one further read (R115). It also retries
completions that wait (R122). -/
def execKick (q : Nat) (s : State) : Out :=
  if q < 4096 ∧ (s.queue q).en = true then
    let x := s.queue q
    let s1 := s.setQueue q (if x.reading then { x with again := true } else { x with reading := true })
    .next (s1.retryCompletions q)
  else .next s

/-- The TAIL read returns (R115). -/
def execTailReadReturn (q : Nat) (s : State) : Out :=
  let x := s.queue q
  if q < 4096 ∧ x.en = true ∧ x.reading = true then
    match s.ownRead x.pasid (x.qcb.toNat + 4) 4 with
    | .error _ => .next (s.ringError q)
    | .ok (bs, s1) =>
      let tail : W32 := BitVec.ofNat 32 (leNum bs)
      let y := { x with reading := x.again, again := false }
      let far := (tail - x.head).toNat
      if far ≤ x.qsize ∧ (tail - x.tail).toNat ≤ far then .next (s1.setQueue q { y with tail := tail })
      else .next (s1.setQueue q { y with kickerr := true })
  else .next s

def noBits (v lo n : Nat) : Bool := bitsNat v lo n == 0

/-- Whether the reserved parts of a payload are zero (R118); `p` is the 32 bytes as a number. -/
def payloadOk (kind p : Nat) : Bool :=
  match kind with
  | 0 => p == 0
  | 1 => noBits p 80 16 && noBits p 128 128
  | 2 => noBits p 64 192
  | 3 => noBits p 176 16
  | 4 => noBits p 64 192
  | 5 => bitsNat p 0 64 % 8 == 0 && decide (bitsNat p 128 8 ≤ 1) && noBits p 136 120
  | 6 => bitsNat p 0 64 % 8 == 0 && decide (bitsNat p 128 8 ≤ 2) && noBits p 136 24
  | _ => true

/-- The status of a record that is not entered (R117), or OK. -/
def State.recordStatus (s : State) (q : Nat) (idx : W32) (v : Nat) : Nat :=
  let kind := bitsNat v 0 16
  let npred := bitsNat v 24 8
  let seq : W32 := BitVec.ofNat 32 (bitsNat v 32 32)
  let preds := (List.range 4).map fun i => bitsNat v (64 + 32 * i) 32
  let known (p : Nat) : Bool := (s.queue q).hist.any (·.1 == p) || (s.node? q p).isSome
  if seq ≠ idx then stBadSeq
  else if 4 < npred ∨ noBits v 19 5 = false ∨ (preds.drop npred).any (· != 0) = true ∨ payloadOk kind (bitsNat v 256 256) = false
      ∨ ((preds.take npred).any fun p =>
          let d := (seq - BitVec.ofNat 32 p).toNat
          d == 0 || decide (4096 < d) || !known p) = true then stBadCommand
  else if 6 < kind then stUnknownKind
  else stOk

/-- A record enters as a node (R127), or completes at once (R117). -/
def State.enterRecord (s : State) (q : Nat) (v : Nat) : State :=
  let x := s.queue q
  let idx := x.head.toNat
  let cmd : Cmd := ⟨bitsNat v 0 16, bitsNat v 16 1 == 1, bitsNat v 17 1 == 1, bitsNat v 192 64, bitsNat v 256 256⟩
  let st := s.recordStatus q x.head v
  let listed := (List.range (min 4 (bitsNat v 24 8))).map fun i => bitsNat v (64 + 32 * i) 32
  let mine := (s.cmd.nodes.filter fun n => n.q == q && decide (n.idx < 2 ^ 32)).map (·.idx)
  let ps := (if bitsNat v 18 1 = 1 then listed ++ mine else listed).eraseDups
  let open_ := ps.filter mine.contains
  let n : Node := ⟨q, idx, x.pasid, cmd, open_, if open_.isEmpty then .due else .counting, none, [], .start, [], false, 0, 0, false, 0, .reset⟩
  if st ≠ stOk then s.closeNode n (.status! st)
  else
    let s1 := s.setCmd { s.cmd with nodes := s.cmd.nodes ++ [n] }
    if ps.any fun p => (x.hist.find? fun h => h.1 == p).any fun h => h.2 != stOk then s1.completeNode q idx (.status! stPredFailed) else s1

/-- The device enters the next record of a queue (R116, R122, R126). -/
def execRecordEnter (q : Nat) (s : State) : Out :=
  let x := s.queue q
  if q < 4096 ∧ x.en = true ∧ x.head ≠ x.tail ∧ x.waiting = [] ∧ (s.cmd.nodes.filter fun n => n.q == q).length < 4096
      ∧ s.cmd.nodes.length < 65536 then
    match s.ownRead x.pasid (x.qbase.toNat + 64 * (x.head.toNat % x.qsize)) 64 with
    | .error _ => .next (s.ringError q)
    | .ok (bs, s1) =>
      let s2 := s1.enterRecord q (leNum bs)
      let y := s2.queue q
      if y.en = false then .next s2
      else
        let s3 := s2.setQueue q { y with head := y.head + 1 }
        match s3.ownWrite y.pasid y.qcb.toNat (leBytesOf 4 (y.head + 1).toNat) with
        | .error _ => .next (s3.ringError q)
        | .ok s4 => .next s4
  else .next s

/-! ### Enabling and disabling (R113) -/

/-- Whether enabling is refused (R113). -/
def State.enableRefused (s : State) (x : Queue) : Bool :=
  decide (10 < bitsNat x.qcfg.toNat 40 4) || decide (10 < bitsNat x.qcfg.toNat 36 4) || (s.pasidEntry x.pasid).isNone ||
  x.qbase.toNat % 4096 != 0 || x.qcb.toNat % 64 != 0 || x.cbase.toNat % 4096 != 0

/-- QCTL.EN from 0 to 1 (R113): indices start at 0; nodes that are still out keep an index of their own and write no completion (log
entry 47). In host-load mode the queue blocks do not answer (R432). -/
def execQueueEnable (q : Nat) (s : State) : Out :=
  let x := s.queue q
  if q < 4096 ∧ x.en = false ∧ s.mgmt.hostLoad = false then
    if s.enableRefused x then .next (s.setQueue q { x with cfgerr := true })
    else
      let old (i : Nat) : Nat := i + 2 ^ 32
      let s1 := s.setCmd { s.cmd with
        nodes := s.cmd.nodes.map fun n => if n.q == q then { n with idx := old n.idx, preds := n.preds.map old, orphan := true } else n
        insts := s.cmd.insts.map fun i => match i.node with
          | some (p, k) => if p = q then { i with node := some (p, old k) } else i
          | none => i
        frwait := s.cmd.frwait.map fun r => match r.who with
          | .node p k => if p = q then { r with who := .node p (old k) } else r
          | _ => r }
      let s2 := s1.setStages { s1.stages with list := s1.stages.list.map fun g => if g.q == q then { g with idx := old g.idx } else g }
      let s3 := s2.setFab { s2.fab with
        colls := s2.fab.colls.map fun c => match c.node with
          | some (p, k) => if p = q then { c with node := some (p, old k) } else c
          | none => c
        remote := s2.fab.remote.map fun r => match r.who with
          | .node p k => if p = q then { r with who := .node p (old k) } else r
          | _ => r }
      let s4 := s3.setQueue q { x with en := true, tail := 0, head := 0, cpltail := 0, reading := false, again := false, waiting := [], hist := [] }
      match s4.ownWrite x.pasid x.qcb.toNat (leBytesOf 4 0) with
      | .error _ => .next (s4.ringError q)
      | .ok s5 =>
        match s5.ownWrite x.pasid (x.qcb.toNat + 12) (leBytesOf 4 0) with
        | .error _ => .next (s5.ringError q)
        | .ok s6 => .next s6
  else .next s

/-- Nodes not dispatched complete with ABORTED, one after the other (R113, R129). -/
def State.abortNodes (s : State) (q : Nat) : State :=
  s.closeAll ((s.cmd.nodes.filter fun n => n.q == q && !n.phase.dispatched).map fun n => (q, n.idx)) (.status! stAborted)

/-- QCTL.EN from 1 to 0 (R113). -/
def execQueueDisable (q : Nat) (s : State) : Out :=
  let x := s.queue q
  if q < 4096 ∧ x.en = true then
    let s1 := s.setQueue q { x with en := false, reading := false, again := false }
    .next (s1.abortNodes q)
  else .next s

/-! ### NOP, SIGNAL, WAIT (R118, R119) -/

/-- Whether a node of a kind has a counter of zero and its own step next. -/
def Node.isDue (n : Node) (kind : Nat) : Bool := n.cmd.kind == kind && n.phase == .due

def execNop (q idx : Nat) (s : State) : Out :=
  match s.node? q idx with
  | some n => .next (if n.isDue 0 then s.setPhase q idx (.ended (.status! stOk)) else s)
  | none => .next s

/-- SIGNAL: one 64-bit store or add at ADDR, with the R and W rights (R119). -/
def execSignal (q idx : Nat) (s : State) : Out :=
  match s.node? q idx with
  | none => .next s
  | some n =>
    if !n.isDue 5 then .next s
    else
      let a := bitsNat n.cmd.payload 0 64
      let v := bitsNat n.cmd.payload 64 64
      match s.ownDests n.pasid a 8 .both with
      | .error _ => .next (s.completeNode q idx (.status! stTranslation))
      | .ok (ds, s1) =>
        let old := leNum ((gatherPieces s1.mem [] ds 0).getD [])
        let new := if bitsNat n.cmd.payload 128 8 = 1 then old + v else v
        let s2 := s1.setMem (writeHere s1.mem (leBytesOf 8 new) ds)
        .next (s2.setPhase q idx (.ended (.status! stOk)))

/-- The conditions of WAIT (R118). -/
def waitHolds (cond v want : Nat) : Bool :=
  match cond with
  | 0 => v == want
  | 1 => decide (want ≤ v)
  | _ => v != want

/-- WAIT reads its word (R119). -/
def State.waitRead (s : State) (n : Node) : State :=
  match s.ownRead n.pasid (bitsNat n.cmd.payload 0 64) 8 with
  | .error _ => s.completeNode n.q n.idx (.status! stTranslation)
  | .ok (bs, s1) =>
    if waitHolds (bitsNat n.cmd.payload 128 8) (leNum bs) (bitsNat n.cmd.payload 64 64) then
      s1.setPhase n.q n.idx (.ended (.status! stOk))
    else s1

def execWait (q idx : Nat) (s : State) : Out :=
  match s.node? q idx with
  | some n => .next (if n.isDue 6 then (s.setPhase q idx (.polling s.time)).waitRead n else s)
  | none => .next s

def execWaitPoll (q idx : Nat) (s : State) : Out :=
  match s.node? q idx with
  | some n => match n.phase with
    | .polling _ => .next (s.waitRead n)
    | _ => .next s
  | none => .next s

/-- TIMEOUT microseconds have passed (R119). -/
def execWaitTimeout (q idx : Nat) (s : State) : Out :=
  match s.node? q idx with
  | some n => match n.phase with
    | .polling t0 =>
      let us := bitsNat n.cmd.payload 160 32
      .next (if us ≠ 0 ∧ t0 + us * Config.usNs ≤ s.time then s.completeNode q idx (.status! stWaitTimeout) else s)
    | _ => .next s
  | none => .next s

end Sys2Proof.Machine
end

