-- ==== Sys2Proof/Machine/FirnStore.lean ====
section
/-! DEFINITION. What Firn keeps in a stage's pools: the stored form of a slot, where it lies, storing it and reading it back (R168,
R169, R298, R301). -/

namespace Sys2Proof.Machine

/-! ### Names (R168) -/

/-- A Firn slot by its name, its stage by key. -/
def Slot.named (x : Slot) (stage tag slot grank : Nat) : Bool :=
  x.stage == stage && x.tag == tag && x.slot == slot && x.grank == grank

/-- The key of the stage of a core's step, none outside a stage. -/
def State.stepKeyOf (s : State) (k : Fin 128) : Option Nat := (s.instOf k).bind fun i => i.stage.map (·.1)

def State.slotOf (s : State) (k : Fin 128) (slot : Nat) : Option Slot :=
  let d := (s.core k).disp
  (s.stepKeyOf k).bind fun key => s.stages.slots.find? (·.named key d.tag.toNat slot d.grank.toNat)

/-! ### The stored form (R168) -/

/-- The block stream of rows, where the data shrinks under it. -/
def streamOf (rows : List (List Byte)) : Option (List Byte) :=
  let bs := rows.flatten
  let e := (encodeStream bs (2 * bs.length + 64)).1
  if !bs.isEmpty && decide (e.length < bs.length) then some e else none

/-- Bytes of the header of rows that are stored uncompressed. -/
def plainHeader : Nat := 64

/-- Bytes a slot of rows holds in a pool. -/
def storedSize (rows : List (List Byte)) : Nat :=
  match streamOf rows with
  | some e => e.length
  | none => rows.flatten.length + plainHeader

/-- The stored form; what the header of uncompressed rows holds is free (log entry 79). -/
def State.storedForm (s : State) (rows : List (List Byte)) : List Byte × State :=
  match streamOf rows with
  | some e => (e, s)
  | none => let f := s.freeBytes plainHeader; (f.1 ++ rows.flatten, f.2)

/-! ### Room in a pool (R169) -/

def runsLength (l : List (Nat × Nat)) : Nat := (l.map (·.2)).foldl (· + ·) 0

/-- Runs in rising order. -/
def insertRun (r : Nat × Nat) : List (Nat × Nat) → List (Nat × Nat)
  | [] => [r]
  | x :: t => if r.1 < x.1 then r :: x :: t else x :: insertRun r t

/-- The runs from an offset to the end of a pool that rising runs leave free. -/
def freeRuns (len : Nat) : Nat → List (Nat × Nat) → List (Nat × Nat)
  | lo, [] => if lo < len then [(lo, len - lo)] else []
  | lo, (o, n) :: t => (if lo < o then [(lo, o - lo)] else []) ++ freeRuns len (max lo (o + n)) t

/-- The runs from a point on, then those before it. -/
def runsFrom (p : Nat) (l : List (Nat × Nat)) : List (Nat × Nat) :=
  let cut := l.flatMap fun r => if r.1 < p && decide (p < r.1 + r.2) then [(r.1, p - r.1), (p, r.1 + r.2 - p)] else [r]
  (cut.filter fun r => decide (p ≤ r.1)) ++ cut.filter fun r => decide (r.1 < p)

/-- The first `n` bytes of runs. -/
def takeRuns : Nat → List (Nat × Nat) → List (Nat × Nat)
  | _, [] => []
  | n, (o, m) :: t => if n = 0 then [] else if n ≤ m then [(o, n)] else (o, m) :: takeRuns (n - m) t

/-- The runs that slots of a stage fill in its keep pool and in its spill pool. -/
def poolRuns (l : List Slot) (stage : Nat) : List (Nat × Nat) × List (Nat × Nat) :=
  let mine := l.filter fun x => x.stage == stage
  (mine.flatMap (·.held.keep), mine.flatMap (·.held.spill))

/-- Runs for `n` bytes in a pool of `len` bytes beside the used ones; where in the pool is free (log entry 79). -/
def State.allocRuns (s : State) (used : List (Nat × Nat)) (len n : Nat) : List (Nat × Nat) × State :=
  let p := Config.freeBits s.freeCtr % (len + 1)
  (takeRuns n (runsFrom p (freeRuns len 0 (used.foldl (fun l r => insertRun r l) []))), { s with freeCtr := s.freeCtr + 1 })

/-! ### Reaching the pools (R298) -/

/-- Where a piece of a pool lies: Firn's requests carry no grade, and a NONE region faults them (R298). -/
def State.poolPiece (s : State) (pasid va : Nat) : Except Trap (Dest × State) :=
  match s.translate none pasid va with
  | (.leaf log2 l, s1) =>
    let a := l.ma + va % 2 ^ log2
    if l.rmt then .error (.at .perm (w64 va))
    else if l.host then
      match s1.ats pasid a with
      | (some h, s2) => .ok (.here (hostFlat h) true, s2)
      | (none, _) => .error (.at .lease (w64 va))
    else if s1.mem.gradeAt a = gradeNone then .error (gradeTrap va gradeNone 0)
    else .ok (.here a false, s1)
  | (.noRegion _, _) => .error (gradeTrap va gradeNone 0)
  | (.invalid, _) => .error (.at .lease (w64 va))

/-- The bytes of runs of a pool, in order. -/
def State.poolDests (s : State) (pasid base : Nat) (runs : List (Nat × Nat)) : Except Trap (List (Dest × Nat) × State) :=
  s.destAll (fun t a _ => t.poolPiece pasid a) (runs.flatMap fun r => pieces 0 (r.2 / 65536 + 2) (base + r.1) r.2)

/-- Poisoned sectors among pieces, each with the offset and length of what lies in it. -/
def poisonedAmong (m : MemSide) : List (Dest × Nat) → Nat → List (Nat × Nat × Nat)
  | [], _ => []
  | (.here flat _, n) :: t, off =>
    ((m.poison.filter fun p => decide (flat < p * 64 + 64) && decide (p * 64 < flat + n)).map fun p =>
      let lo := max flat (p * 64)
      (off + (lo - flat), min (flat + n) (p * 64 + 64) - lo, p)) ++ poisonedAmong m t (off + n)
  | (.remote .., n) :: t, off => poisonedAmong m t (off + n)

/-- The first poisoned sector that a stored row lies in: of a block stream every row depends on every byte (log entry 79). -/
def rowPoison (rows : List (List Byte)) (bad : List (Nat × Nat × Nat)) (i : Nat) : Option Nat :=
  match streamOf rows with
  | some _ => (bad.head?).map (·.2.2)
  | none =>
    let lo := plainHeader + 128 * i
    (bad.find? fun b => decide (b.1 < lo + 128) && decide (lo < b.1 + b.2.1)).map (·.2.2)

/-! ### Storing and reading -/

/-- The stored form of rows is written to runs of a pool, and those of them that are known to be poisoned stay so (R301). -/
def State.storeRows (s : State) (pasid base : Nat) (runs : List (Nat × Nat)) (rows : List (List Byte)) (bad : List Nat) : Except Trap State :=
  match s.poolDests pasid base runs with
  | .error t => .error t
  | .ok (ds, s1) =>
    let f := s1.storedForm rows
    let m := writeHere f.2.mem f.1 ds
    let lo (i : Nat) : Nat := if (streamOf rows).isSome then 0 else plainHeader + 128 * i
    let n : Nat := if (streamOf rows).isSome then f.1.length else 128
    let secs (i : Nat) : List Nat := (sectorsAt ds 0).filterMap fun x => if x.1 < lo i + n && decide (lo i < x.1 + x.2.1) then some x.2.2 else none
    .ok (f.2.setMem ((bad.flatMap secs).foldl (fun x p => x.addPoison p) m))
where
  /-- the sectors of pieces, each with the offset and length of what lies in it -/
  sectorsAt : List (Dest × Nat) → Nat → List (Nat × Nat × Nat)
    | [], _ => []
    | (.here flat _, n) :: t, off =>
      ((List.range ((flat + n + 63) / 64 - flat / 64)).map fun j =>
        let p := flat / 64 + j
        let lo := max flat (p * 64)
        (off + (lo - flat), min (flat + n) (p * 64 + 64) - lo, p)) ++ sectorsAt t (off + n)
    | (.remote .., n) :: t, off => sectorsAt t (off + n)

/-- What a slot's pool gives back: its rows, and the poisoned ones with a sector of each. Rows whose block stream another agent has
overwritten are free (log entry 79). -/
def State.heldRows (s : State) (pasid base : Nat) (runs : List (Nat × Nat)) (rows : List (List Byte)) :
    Except Trap (List (List Byte) × List (Nat × Nat) × State) :=
  match s.poolDests pasid base runs with
  | .error t => .error t
  | .ok (ds, s1) =>
    let bs := (gatherPieces s1.mem [] ds 0).getD []
    let hit := poisonedAmong s1.mem ds 0
    let bad := (List.range rows.length).filterMap fun i => (rowPoison rows hit i).map fun p => (i, p)
    match streamOf rows with
    | none => .ok ((List.range rows.length).map fun i => (bs.drop (plainHeader + 128 * i)).take 128, bad, s1)
    | some e =>
      if bs == e then .ok (rows, bad, s1)
      else
        let f := s1.freeBytes (128 * rows.length)
        .ok ((List.range rows.length).map fun i => (f.1.drop (128 * i)).take 128, bad, f.2)

/-- The pool that holds a slot's data: its base and the slot's runs (R169). -/
def Slot.source (x : Slot) (d : StageDesc) : Nat × List (Nat × Nat) :=
  if x.state == .kept then (d.kpool, x.held.keep) else (d.spool, x.held.spill)

/-- The virtual address at which a slot's stored form begins. -/
def State.slotVa (s : State) (x : Slot) : Nat :=
  match s.stageOf x.stage with
  | some st => let p := x.source st.desc; p.1 + ((p.2.head?).map (·.1)).getD 0
  | none => 0

/-- A slot is read back (R169): its rows, and the poisoned ones. -/
def State.readSlot (s : State) (x : Slot) : Except Trap (List (List Byte) × List (Nat × Nat) × State) :=
  match s.stageOf x.stage with
  | none => .ok (x.held.rows, [], s)
  | some st => let p := x.source st.desc; s.heldRows st.pasid p.1 p.2 x.held.rows

/-- Rows come to stand in a pool of a stage beside what the slots given hold: what their slot holds then. -/
def State.putRows (s : State) (slots : List Slot) (st : Stage) (toSpill : Bool) (rows : List (List Byte)) (bad : List Nat) : Except Trap (Held × State) :=
  let used := poolRuns slots st.key
  let a := s.allocRuns (if toSpill then used.2 else used.1) (if toSpill then st.desc.slen else st.desc.klen) (storedSize rows)
  match a.2.storeRows st.pasid (if toSpill then st.desc.spool else st.desc.kpool) a.1 rows bad with
  | .error t => .error t
  | .ok s1 => .ok (if toSpill then ⟨rows, [], a.1, []⟩ else ⟨rows, a.1, [], []⟩, s1)

/-- What a step wrote is discarded: a slot takes what it held before (R171), stored anew where its space was given up. -/
def State.discardSlot (s : State) (ctxid : Nat) (x : Slot) : Option Slot × State :=
  if x.writer != some ctxid then (some x, s)
  else
    let back (st : SlotState) (h : Held) : Option Slot :=
      some { x with state := st, held := h, newRows := [], toSpill := false, writer := none, before := none }
    match x.before with
    | none => (none, s)
    | some (.dropped, _) => (back .dropped .none, s)
    | some (st, h) =>
      if x.state == .writing && (x.held.keep == h.keep && x.held.spill == h.spill) then (back st { h with bad := [] }, s)
      else match s.stageOf x.stage with
        | none => (back st h, s)
        | some g => match s.putRows (s.stages.slots.filter fun y => !y.named x.stage x.tag x.slot x.grank) g (st == .spilled) h.rows h.bad with
          | .ok (h2, s1) => (back st h2, s1)
          | .error _ => (back st h, s)

/-- Firn forgets what the step of an instance wrote, and the marks it made (R171, R338). -/
def State.discardFirn (s : State) (ctxid : Nat) : State :=
  let one (t : State) (x : Slot) : State :=
    let name (y : Slot) : Bool := y.named x.stage x.tag x.slot x.grank
    match t.discardSlot ctxid x with
    | (some y, t1) => t1.setStages { t1.stages with slots := t1.stages.slots.map fun z => if name z then y else z }
    | (none, t1) => t1.setStages { t1.stages with slots := t1.stages.slots.filter fun z => !name z }
  let s1 := (s.stages.slots.filter fun x => x.writer == some ctxid).foldl one s
  s1.setStages { s1.stages with marks := s1.stages.marks.filter fun m => m.ctxid != ctxid }

end Sys2Proof.Machine
end

