-- ==== Sys2Proof/Machine/CopyData.lean ====
section
/-! DEFINITION. Performing the requests of copy words (R291, R301, R320, R321, R324, R341, R342): data that returns, granules
of windows that land, and writes that are accepted. -/

namespace Sys2Proof.Machine

/-! ### Which request (R324) -/

/-- Where a request stands among the words in flight. -/
structure ReqAt where
  f : Nat
  r : Nat
  flight : Flight
  req : Req

/-- The requests of the copy engine of a core, in stream order. -/
def copyReqs (y : Eng) : List ReqAt :=
  y.flight.zipIdx.flatMap fun f => f.1.reqs.zipIdx.map fun r => ⟨f.2, r.2, f.1, r.1⟩

def Req.isWindow (r : Req) : Bool :=
  match r.kind with
  | .read _ _ _ (.window ..) => true
  | _ => false

def Req.isSend (r : Req) : Bool :=
  match r.kind with
  | .send .. => true
  | _ => false

/-- Whether a request stands before another in the stream, as R324 orders accesses: the rows of one window word land in any order
(R291). -/
def ReqAt.before (b a : ReqAt) : Bool :=
  decide (b.f < a.f) || (b.f == a.f && decide (b.r < a.r) && !(a.req.isWindow && b.req.isWindow))

/-- Accesses of one class perform in stream order, and none before an acquire of an earlier word (R324, R346, R349): a request waits for
what an earlier word holds it for, for the accesses of its own word before it, and for that word's writes under way; a message for the
messages before it (R365). -/
def reqBlocked (s : State) (k : Fin 128) (a : ReqAt) : Bool :=
  let earlier := (s.eng k .c).flight.take a.f
  earlier.any (·.holds a.req.cls) || !a.flight.out.isEmpty ||
    (a.flight.reqs.take a.r).any (fun b => b.isAccess && !(a.req.isWindow && b.isWindow)) ||
    (a.req.isSend && earlier.any fun f => f.reqs.any (·.isSend))

/-- Changes a word in flight of the copy engine. -/
def State.updFlight (s : State) (k : Fin 128) (f : Nat) (g : Flight → Flight) : State :=
  let y := s.eng k .c
  s.setEng k .c { y with flight := y.flight.modify f g }
def State.updReq (s : State) (k : Fin 128) (a : ReqAt) (g : Req → Req) : State :=
  s.updFlight k a.f fun f => { f with reqs := f.reqs.modify a.r g }
/-- The request gives way to what follows it. -/
def State.replaceReq (s : State) (k : Fin 128) (a : ReqAt) (ks : List ReqKind) : State :=
  s.updFlight k a.f fun f =>
    { f with reqs := f.reqs.take a.r ++ ks.map (s.newReq a.req.cls) ++ f.reqs.drop (a.r + 1) }

/-- The request at the head of a word that nothing before it keeps back. -/
def Flight.next (x : Flight) : Option ReqKind := if x.out.isEmpty then (x.reqs.head?).map (·.kind) else none

def State.updColl (s : State) (id : Nat) (f : Coll → Coll) : State :=
  s.setFab { s.fab with colls := updFirst (fun c => c.id == id) f s.fab.colls }

/-- A message to another member of a collective, with the incarnation known of its package (R389). -/
def State.tellMember (s : State) (c : Coll) (rank : Nat) (m : Nat → OutMsg) : State :=
  let p := s.memberPkg c.group rank
  s.sendOut (c.core.any fun x => s.coreFalls (coreIx x.1)) p (m (s.incOf p))

/-- This member has written what it accepted, and says so to the other members (R377). -/
def State.tellWritten (s : State) (id : Nat) : State :=
  match s.fab.colls.find? (·.id == id) with
  | none => s
  | some c =>
    ((List.range (c.nmem + 1)).filter (· != c.rank)).foldl
      (fun (t : State) r => t.tellMember c r fun inc => .driftWritten c.group r inc)
      (s.updColl id fun y => { y with drift := y.drift.map fun x => { x with told := true } })

/-- Whether a collective may end here (R371, R377): of a Drift, once every other member has written this one's records. -/
def State.collDone (s : State) (id : Nat) : Bool :=
  match s.fab.colls.find? (·.id == id) with
  | some c => c.drift.all fun x => x.told && ((List.range (c.nmem + 1)).filter (· != c.rank)).all fun r => x.written.contains r
  | none => true

def State.dropColl (s : State) (id : Nat) : State := s.setFab { s.fab with colls := s.fab.colls.filter fun c => c.id != id }

/-- One step of settling: none where nothing is left to settle. -/
def State.settleOne (s : State) (k : Fin 128) (f : Nat) : Option State :=
  let pop (t : State) : State := t.updFlight k f fun y => { y with reqs := y.reqs.drop 1 }
  match (s.eng k .c).flight[f]?.bind (·.next) with
  | some (.setE e v) => some (pop (s.setCore k (setE (s.core k) e v)))
  | some (.collTell id) => some (pop (s.tellWritten id))
  | some (.collEnd id) => if s.collDone id then some (pop (s.dropColl id)) else none
  | _ => none

/-- A word with no request left logs what it zeroed (R301), and its flags reach FLAGS once it is complete (R320); one whose next request
is a fault faults (R333). -/
def State.settleEnd (s : State) (k : Fin 128) (f : Nat) : State :=
  match (s.eng k .c).flight[f]? with
  | none => s
  | some x =>
    match x.reqs with
    | [] =>
      let s1 := match x.zsector with
        | some (_, sec) =>
          let at_ := s.mem.eventAt sec
          (s.logEvent 2 at_.1 x.zrows (s.core k).disp.ctxid.toNat at_.2 x.upc).updFlight k f fun y => { y with zrows := 0, zsector := none }
        | none => s
      if x.complete then
        (s1.setCore k { s1.core k with flags := orFlags (s1.core k).flags x.flags }).updFlight k f fun y => { y with flags := 0 }
      else s1
    | _ => match x.next with
      | some (.fail t) => s.raise k 5 x.upc t
      | _ => s

/-- Status registers, faults and the ends of collectives that nothing precedes take effect; a word with no request left logs what it
zeroed, and its flags reach FLAGS (R301, R320, R333). -/
def State.settle (s : State) (k : Fin 128) (f : Nat) : State :=
  let go (t : State) : State := (t.settleOne k f).getD t
  (go (go (go s))).settleEnd k f

/-- A write through a remote page is performed (R147, R347): the word it belongs to goes on. -/
def State.writePerformed (s : State) (k : Fin 128) (id : Nat) : State :=
  let drop (y : Eng) : Eng := { y with flight := y.flight.map fun f => { f with out := f.out.filter (· != id) } }
  let s1 := s.setEng k .a (drop (s.eng k .a))
  match (s1.eng k .c).flight.findIdx? (·.out.contains id) with
  | some f => (s1.setEng k .c (drop (s1.eng k .c))).settle k f
  | none => s1

/-- A row is zeroed under `.zp` for a poisoned sector (R301): it is counted, and the lowest row's sector is kept. -/
def State.zeroRow (s : State) (k : Fin 128) (f row sec : Nat) : State :=
  (s.countZero k 1).updFlight k f fun y =>
    { y with
      zrows := y.zrows + 1
      zsector := match y.zsector with
        | some (r, q) => if row < r then some (row, sec) else some (r, q)
        | none => some (row, sec) }

/-! ### Reading (R189, R287, R301, R324) -/

/-- What has come in of a request's bytes. -/
inductive Come where
  /-- all of them, the runs of them that are poisoned, and the first poisoned sector -/
  | all (bs : List Byte) (bad : List (Nat × Nat)) (sec : Option Nat) (s : State)
  | wait (s : State)
  | trap (t : Trap)

def State.readReq (s : State) (k : Fin 128) (a : ReqAt) (ea : W64) (len : Nat) : Come :=
  match s.portAt k ea len .read with
  | .trap t => .trap t
  | .wait s1 => .wait s1
  | .ok (.count q b) s1 => .all (leBytesOf 8 ((s1.quad q).entries b).length) [] none s1
  | .ok (.fifo q b) s1 =>
    let have_ := a.req.got.flatMap (·.2)
    let p := popBytes (s1.quad q) b (len - have_.length)
    let s2 := s1.setQuad q p.2
    let bs := have_ ++ p.1
    if bs.length = len then .all bs [] none s2
    else .wait (s2.updReq k a fun r => { r with got := r.got ++ [(have_.length, p.1)] })
  | .ok (.bytes ds) s1 =>
    match firstMissing a.req.got ds 0 with
    | some (off, n, target, inc, addr) =>
      if a.req.asked.isSome then .wait s1
      else
        let r := s1.sendRemote k .copy a.flight.upc (ea + w64 off) a.req.cls target inc addr n none
        .wait (r.2.updReq k a fun q => { q with asked := some (off, r.1) })
    | none =>
      match gatherPieces s1.mem a.req.got ds 0 with
      | some bs =>
        let sec := match firstPoison s1.mem ds with
          | some p => some p
          | none => if a.req.bad.isEmpty then none else some remoteSector
        .all bs (poisonRuns s1.mem ds 0 ++ a.req.bad) sec s1
      | none => .wait s1

/-- A tile row takes `n` elements in format `f`; the elements above stay (R326). -/
def Core.putRow (c : Core) (t row : Nat) (f : Fmt) (l : List Nat) : Core :=
  c.setRowBits t row (putElems f.width (c.rowBits t row) (l.zipIdx.map fun p => (p.2, p.1)))

/-- Ranges of effective addresses that overlap: the first byte of the second range that does, and how many (R327). -/
def overlapOf (a n b m : Nat) : Nat × Nat :=
  let lo := max a b
  let hi := min (a + n) (b + m)
  (lo - b, hi - lo)

def Xfer.isCopy : Xfer → Bool
  | .convert _ _ _ _ _ _ _ b => b
  | _ => false
def Xfer.mayOverlap : Xfer → Bool
  | .encode .. => false
  | _ => true

/-- What R327 and R335 do not promise of a result whose range overlaps its source: free bytes (log entry 13). -/
def State.openOverlap (s : State) (x : Xfer) (src len dst : Nat) (data : List Byte) : List Byte × State :=
  let o := overlapOf src len dst data.length
  if o.2 = 0 || !x.mayOverlap then (data, s)
  else if x.isCopy then
    let f := s.freeBytes o.2
    (data.take o.1 ++ f.1 ++ data.drop (o.1 + o.2), f.2)
  else s.freeBytes data.length

/-- Bytes that have come in whole are put where they go. -/
def State.placeData (s : State) (k : Fin 128) (a : ReqAt) (ea : W64) (len : Nat) (zp : Bool) (pl : Place) (bs : List Byte)
    (bad : List (Nat × Nat)) (sec : Option Nat) : State :=
  let fault (p : Nat) : State := s.raise k 5 a.flight.upc (poisonTrap ea p)
  match pl with
  | .row t row n f g rm sat env =>
    (match sec, zp with
    | some p, false => fault p
    | some p, true =>
      let s1 := s.setCore k ((s.core k).putRow t row g (List.replicate n 0))
      ((s1.zeroRow k a.f row p).replaceReq k a []).settle k a.f
    | none, _ =>
      let es := (unpackRow f.width n bs).map (convert env f g rm sat)
      let s1 := s.setCore k ((s.core k).putRow t row g (es.map (·.1)))
      let s2 := s1.updFlight k a.f fun y => { y with flags := es.foldl (fun h e => h ||| e.2) y.flags }
      (s2.replaceReq k a []).settle k a.f)
  | .window .. => s
  | .xfer x =>
    (match sec, x.faultsOnPoison with
    | some p, true => fault p
    | _, _ =>
      let o := runXfer x bs bad
      let d := s.openOverlap x ea.toNat len o.dst.toNat o.data
      let s1 := d.2.updFlight k a.f fun y => { y with flags := y.flags ||| o.flags }
      let w : List ReqKind := if d.1.isEmpty then [] else [.write o.dst d.1 o.bad]
      let st : List ReqKind := match o.status with
        | some (e, v) => [.setE e v]
        | none => []
      (s1.replaceReq k a (w ++ st)).settle k a.f)
  | .head d => match sec with
    | some p => fault p
    | none => (s.replaceReq k a (decHead d bs)).settle k a.f
  | .body d h => match sec with
    | some p => fault p
    | none => (s.replaceReq k a (decBody d h bs)).settle k a.f

/-- The first access that stands before a request and keeps it waiting (R324). -/
def State.firstBefore (s : State) (k : Fin 128) (a : ReqAt) : Option ReqAt :=
  (copyReqs (s.eng k .c)).find? fun b => b.before a && b.req.isAccess && b.req.cls == a.req.cls

/-- Rows return in any order (R330), and their values are fixed in stream order (R324, R347): the values of the rows before a request
are fixed, as far as they can be; whether the request may then perform. -/
def State.fixBefore (k : Fin 128) (a : ReqAt) : Nat → State → State × Bool
  | 0, s => (s, !reqBlocked s k a)
  | fuel + 1, s =>
    if !reqBlocked s k a then (s, true)
    else match s.firstBefore k a with
      | none => (s, false)
      | some b =>
        match b.req.kind with
        | .read ea len zp (.row t row n f g rm sat env) =>
          if reqBlocked s k b then (s, false)
          else (match s.readReq k b ea len with
            | .trap tr => (s.raise k 5 b.flight.upc tr, false)
            | .wait s1 => (s1, false)
            | .all bs bad sec s1 =>
              State.fixBefore k a fuel (s1.updReq k b fun r => { r with kind := .fixed ea len zp (.row t row n f g rm sat env) bs bad sec }))
        | _ => (s, false)

/-! ### Metadata (R299, R342) -/

/-- Metadata bits of a sector by the grade of its region (R296). -/
def gradeBits (g : Nat) : Nat :=
  if g = 0 then 56 else if g = 1 then 24 else 0

/-- The metadata of a sector (R299, R342). -/
def MemSide.meta (m : MemSide) (sector : Nat) : Nat := sget 0 m.side sector % 2 ^ gradeBits (m.gradeAt (sector * 64))
def MemSide.setMeta (m : MemSide) (sector v : Nat) : MemSide :=
  { m with side := sset 0 m.side sector (v % 2 ^ gradeBits (m.gradeAt (sector * 64))) }

/-- The sectors of a range of metadata: device memory only, otherwise PERM (R342). -/
def State.metaSectors (s : State) (k : Fin 128) (ea : W64) (n : Nat) (need : Need) : Got (List Nat) :=
  match s.portAt k ea (64 * n) need with
  | .trap t => .trap t
  | .wait s1 => .wait s1
  | .ok (.bytes ds) s1 =>
    if ds.all fun d => match d.1 with
      | .here _ host => !host
      | .remote .. => false
    then .ok (ds.flatMap fun d => match d.1 with
      | .here flat _ => (List.range (d.2 / 64)).map (flat / 64 + ·)
      | .remote .. => []) s1
    else .trap (.at .perm ea)
  | .ok _ _ => .trap (.at .perm ea)

/-- One tile row of metadata: the values of up to sixteen sectors within the tile's columns (R342). -/
def Core.putMeta (c : Core) (t row cols : Nat) (vals : List Nat) : Core :=
  let es := (vals.flatMap fun v => [v % 2 ^ 32, v / 2 ^ 32]).zipIdx
  c.setRowBits t row (putElems 32 (c.rowBits t row) ((es.filter fun e => decide (e.2 ≤ cols)).map fun e => (e.2, e.1)))

/-- Rows of metadata: a poisoned sector reads as 0 under `.zp`, and each row that meets one counts (R301, R342). -/
def State.metaRows (s : State) (k : Fin 128) (f t rows cols : Nat) : Nat → Nat → List Nat → State
  | 0, _, _ => s
  | fuel + 1, row, secs =>
    if secs.isEmpty then s
    else
      let mine := secs.take 16
      let vals := mine.map fun p => if kmem s.mem.poison p then 0 else s.mem.meta p
      let s1 := if rows < row then s else s.setCore k ((s.core k).putMeta t row cols vals)
      let s2 := match mine.find? fun p => kmem s.mem.poison p with
        | some p => s1.zeroRow k f row p
        | none => s1
      s2.metaRows k f t rows cols fuel (row + 1) (secs.drop 16)

/-! ### Firn (R168, R169, R337) -/

/-- Rows of a slot go to a tile: 128 bytes each, zeros beyond what is stored, and a poisoned row as zeros under `.zp` (R301,
R337). -/
def State.unstashRows (s : State) (k : Fin 128) (f t row n : Nat) (rows : List (List Byte)) (bad : List (Nat × Nat)) : State :=
  (List.range n).foldl (fun (u : State) i =>
    let put (bs : List Byte) : State := u.setCore k ((u.core k).setTileBytes t (row + i) 0 bs)
    match bad.find? (·.1 == i) with
    | some (_, p) => (put (List.replicate 128 0)).zeroRow k f (row + i) p
    | none => put ((rows[i]?).getD (List.replicate 128 0))) s

def State.unstash (s : State) (k : Fin 128) (a : ReqAt) (slot t row n : Nat) (zp : Bool) (ec : Fin 32) : State :=
  match s.slotOf k slot with
  | none => s.raise k 5 a.flight.upc ⟨.stashGone, 0, w64 slot⟩
  | some x =>
    match x.state with
    | .empty => s.raise k 5 a.flight.upc ⟨.stashGone, 0, w64 slot⟩
    | .writing => s
    | .dropped => ((s.setCore k (setE (s.core k) ec 1)).replaceReq k a []).settle k a.f
    | _ =>
      match s.readSlot x with
      | .error tr => s.raise k 5 a.flight.upc tr
      | .ok (rows, bad, s1) =>
        match zp, bad.find? fun b => decide (b.1 < n) with
        | false, some (_, p) => s1.raise k 5 a.flight.upc (poisonTrap (w64 (s.slotVa x)) p)
        | _, _ =>
          let s2 := s1.unstashRows k a.f t row n rows bad
          ((s2.setCore k (setE (s2.core k) ec 0)).replaceReq k a []).settle k a.f

/-- One request that reads. -/
def State.returnData (s : State) (k : Fin 128) (a : ReqAt) : State :=
  match a.req.kind with
  | .read ea len zp pl =>
    if a.req.isWindow then s
    else match s.readReq k a ea len with
      | .trap t => s.raise k 5 a.flight.upc t
      | .wait s1 => s1
      | .all bs bad sec s1 => s1.placeData k a ea len zp pl bs bad sec
  | .fixed ea len zp pl bs bad sec => s.placeData k a ea len zp pl bs bad sec
  | .metaRead ea n t row rows cols zp =>
    match s.metaSectors k ea n .read with
    | .trap tr => s.raise k 5 a.flight.upc tr
    | .wait s1 => s1
    | .ok secs s1 =>
      (match secs.find? fun p => kmem s1.mem.poison p, zp with
      | some p, false => s1.raise k 5 a.flight.upc (poisonTrap ea p)
      | _, _ => (((s1.metaRows k a.f t rows cols (secs.length + 1) row secs).replaceReq k a []).settle k a.f))
  | .unstash slot t row n zp ec => s.unstash k a slot t row n zp ec
  | _ => s

/-! ### Windows (R291) -/

/-- Granules of window rows that have not landed, in stream order. -/
def openGranules (y : Eng) : List (ReqAt × Nat) :=
  (copyReqs y).flatMap fun a =>
    match a.req.kind with
    | .read _ len _ (.window _ _ _ landed _) => ((List.range (len / 16)).filter fun g => !landed.contains g).map fun g => (a, g)
    | _ => []

/-- The whole of a slot's row is written as zeros where it has landed (R301). -/
def zeroLanded (m : MemSide) (q : Fin 32) (off : Nat) (landed : List Nat) : MemSide :=
  landed.foldl (fun x g => x.write (sramFlat q (off + 16 * g)) (List.replicate 16 0)) m

/-- A granule lands: it is written, then its full bit is set, as one action (R291). -/
def State.landGranule (s : State) (k : Fin 128) (a : ReqAt) (g : Nat) (ea : W64) (len : Nat) (zp : Bool) (w t off : Nat)
    (landed : List Nat) (zeroed : Bool) : State :=
  let q := quadOf k
  match s.padCheck k (BitVec.ofNat 64 (0xFE * 2 ^ 56 + off)) q off len with
  | .wait => s
  | .trap tr => s.raise k 5 a.flight.upc tr
  | .ok _ =>
    match s.readReq k a ea len with
    | .trap tr => s.raise k 5 a.flight.upc tr
    | .wait s1 => s1
    | .all bs bad sec s1 =>
      let granule := (bs.drop (16 * g)).take 16
      let hit := bad.any fun r => decide (r.1 < 16 * g + 16) && decide (16 * g < r.1 + r.2)
      match sec, zp with
      | some p, false => if hit then s1.raise k 5 a.flight.upc (poisonTrap ea p) else land s1 q granule zeroed
      | some p, true =>
        let z := s1.zeroRow k a.f t p
        let s2 := if zeroed then s1 else z.setMem (zeroLanded z.mem q off landed)
        land s2 q (List.replicate 16 0) true
      | none, _ => land s1 q (if zeroed then List.replicate 16 0 else granule) zeroed
where
  land (x : State) (q : Fin 32) (bs : List Byte) (z : Bool) : State :=
    let y1 := x.landRow q (off + 16 * g) bs
    if landed.length + 1 = len / 16 then (y1.replaceReq k a []).settle k a.f
    else y1.updReq k a fun r => { r with kind := .read ea len zp (.window w t off (landed ++ [g]) z) }

def execWindowGranuleLand (core idx : Nat) (s : State) : Out :=
  let k := coreIx core
  if core < 128 ∧ (s.core k).fault = none then
    match (openGranules (s.eng k .c))[idx]? with
    | some (a, g) =>
      if reqBlocked s k a then .next s
      else
        (match a.req.kind with
        | .read ea len zp (.window w t off landed zeroed) => .next (s.landGranule k a g ea len zp w t off landed zeroed)
        | _ => .next s)
    | none => .next s
  else .next s

/-! ### Writes and flushes (R300, R301, R341) -/

/-- The resident lines of the pieces become clean, or are dropped (R341). -/
def MemSide.flushNeve (m : MemSide) (ds : List (Dest × Nat)) (inv : Bool) : MemSide :=
  let inRange (l : NeveLine) : Bool := ds.any fun d => match d.1 with
    | .here flat host => !host && decide (flat < l.line * 128 + 128) && decide (l.line * 128 < flat + d.2)
    | .remote .. => false
  { m with neve := if inv then m.neve.filter fun l => !inRange l
      else m.neve.map fun l => if inRange l then { l with dirty := false } else l }

/-- One request that writes. -/
def State.acceptWrite (s : State) (k : Fin 128) (a : ReqAt) : State :=
  match a.req.kind with
  | .write ea data bad =>
    match s.portWrite k a.flight.upc ea a.req.cls data bad with
    | .trap t => s.raise k 5 a.flight.upc t
    | .wait s1 => s1
    | .ok rest s1 =>
      let s2 := s1.updFlight k a.f fun f => { f with out := f.out ++ sentBetween s s1 }
      if rest.isEmpty then (s2.replaceReq k a []).settle k a.f
      else s2.updReq k a fun r => { r with kind := .write ea rest [] }
  | .metaWrite ea vals =>
    match s.metaSectors k ea vals.length .write with
    | .trap t => s.raise k 5 a.flight.upc t
    | .wait s1 => s1
    | .ok secs s1 =>
      let m := (secs.zip vals).foldl (fun (x : MemSide) p => x.setMeta p.1 p.2.toNat) s1.mem
      (((s1.setMem m).replaceReq k a []).settle k a.f)
  | .flush ea len inv =>
    match s.virtual k ea.toNat len .none with
    | .error t => s.raise k 5 a.flight.upc t
    | .ok (ds, s1) => (((s1.setMem (s1.mem.flushNeve ds inv)).replaceReq k a []).settle k a.f)
  | _ => s

end Sys2Proof.Machine
end

