-- ==== Sys2Proof/Machine/Teardown.lean ====
section
/-! DEFINITION. Fault records, taking a faulted instance down, and how instances and stages end (R171, R177, R179, R363 to R367,
R380 to R386, R391). -/

namespace Sys2Proof.Machine

/-! ### Channel ends (R363, R367) -/

def ChEnd.isSend (c : ChEnd) : Bool := bitsNat c.w0.toNat 62 1 == 1
def ChEnd.pasid (c : ChEnd) : Nat := bitsNat c.w0.toNat 32 20
def ChEnd.peer (c : ChEnd) : Nat := bitsNat c.w0.toNat 20 12
def ChEnd.pch (c : ChEnd) : Nat := bitsNat c.w0.toNat 15 5
def ChEnd.slotBytes (c : ChEnd) : Nat := 2 ^ bitsNat c.w0.toNat 11 4
def ChEnd.window (c : ChEnd) : Nat := bitsNat c.w0.toNat 4 7 + 1
def ChEnd.rbase (c : ChEnd) : Nat := bitsNat c.w1.toNat 0 48

def chIx (n : Nat) : Fin 32 := Fin.ofNat 32 n
def State.chan (s : State) (c : Fin 32) : ChEnd := s.fab.channels[c]
def State.setChan (s : State) (c : Fin 32) (x : ChEnd) : State := s.setFab { s.fab with channels := s.fab.channels.set c x }

/-- ASEQ advances over the run of released messages that starts at it (R367). -/
def advanceAcks : Nat → W32 → List Msg → W32 × List Msg
  | 0, a, l => (a, l)
  | fuel + 1, a, l =>
    match l.find? fun m => m.n == a.toNat with
    | some m => if m.released then advanceAcks fuel (a + 1) (l.filter fun x => x.n != m.n) else (a, l)
    | none => (a, l)

/-- SSEQ of a receiving end is the number of messages delivered in order and not held (R365, R391). -/
def advanceDelivered : Nat → W32 → List Msg → W32
  | 0, q, _ => q
  | fuel + 1, q, l =>
    match l.find? fun m => m.n == q.toNat with
    | some m => if m.held then q else advanceDelivered fuel (q + 1) l
    | none => q

/-- Changes a message of a receiving end, then lets SSEQ and ASEQ advance; the sender learns a new ASEQ (R367). -/
def State.updMsg (s : State) (c : Fin 32) (n : Nat) (f : Msg → Msg) : State :=
  let x := s.chan c
  let l := x.msgs.map fun m => if m.n = n then f m else m
  let sseq := advanceDelivered (l.length + 1) x.sseq l
  let r := advanceAcks (l.length + 1) x.aseq l
  let s1 := s.setChan c { x with msgs := r.2, sseq := sseq, aseq := r.1 }
  if r.1 = x.aseq then s1 else s1.send (.ack x.peer x.pch r.1.toNat)

/-- The messages of an instance are held no more; those that are confirmed need no further note. -/
def settleSent (ctxid : Nat) (l : List Sent) : List Sent :=
  (l.map fun m => if m.ctxid = ctxid then { m with held := false } else m).filter fun m => !m.confirmed || m.held

/-- Messages that an instance sent and that are held are cancelled (R391). -/
def State.cancelSent (s : State) (ctxid : Nat) : State :=
  (List.range 32).foldl (fun (t : State) i =>
    let c := chIx i
    let x := t.chan c
    let mine := x.sent.filter fun m => m.ctxid == ctxid && m.held
    let t1 := t.setChan c { x with sent := settleSent ctxid x.sent }
    mine.foldl (fun (u : State) m => u.sendOut (s.fallsBack ctxid) x.peer (.cancel x.peer x.pch m.n)) t1) s

/-! ### Fault records (R380 to R382) -/

/-- The contents of a fault record (R380). -/
structure Record where
  code : Nat
  agent : Nat
  primary : Bool
  step : Bool
  resumed : Bool
  ctxid : Nat
  loc : Nat
  addr : Nat
  pasid : Nat
  core : Nat
  stamp : Nat
  flags : Nat
  iter : Nat
  tag : Nat
  phase : Nat
  wver : Nat
  stage : Nat
  gang : Nat
  time : Nat
  info : Nat

def Record.bytes (r : Record) : List Byte :=
  leBytesOf 1 r.code ++ leBytesOf 1 r.agent ++
  leBytesOf 2 ((if r.primary then 1 else 0) + (if r.step then 2 else 0) + (if r.resumed then 4 else 0)) ++
  leBytesOf 4 r.ctxid ++ leBytesOf 8 r.loc ++ leBytesOf 8 r.addr ++ leBytesOf 4 r.pasid ++ leBytesOf 1 r.core ++ leBytesOf 1 0 ++
  leBytesOf 2 r.stamp ++ leBytesOf 4 r.flags ++ leBytesOf 4 r.iter ++ leBytesOf 2 r.tag ++ leBytesOf 1 r.phase ++
  leBytesOf 1 r.wver ++ leBytesOf 2 r.stage ++ leBytesOf 2 r.gang ++ leBytesOf 8 r.time ++ leBytesOf 8 r.info

/-- The record of a core that raised a fault. -/
def State.coreRecord (s : State) (i : Inst) (k : Fin 128) (f : FaultInfo) (primary : Bool) : Record :=
  let d := (s.core k).disp
  { code := f.trap.code.toNat, agent := f.agent, primary := primary, step := i.stage.isSome, resumed := i.resumed
    ctxid := i.ctxid, loc := if f.agent ≤ 5 then f.loc.toNat else 0, addr := f.trap.addr.toNat, pasid := i.pasid, core := k.val
    stamp := f.stamp, flags := f.flags.toNat, iter := f.iter.toNat, tag := d.tag.toNat, phase := d.phase.toNat
    wver := d.wver.toNat, stage := d.stage.toNat, gang := d.gang.toNat, time := f.time, info := f.trap.info.toNat }

/-- STAGE of an instance (R64): the number of the stage whose step it is. -/
def State.stageNum (s : State) (i : Inst) : Nat :=
  match i.stage.bind fun g => s.stageOf g.1 with
  | some st => st.desc.num
  | none => 0xFFFF

/-- The record of a fault that the command processor finds for an instance, with no core involved (R383). -/
def State.cpRecord (s : State) (i : Inst) (t : Trap) : Record :=
  { code := t.code.toNat, agent := 8, primary := true, step := i.stage.isSome, resumed := i.resumed, ctxid := i.ctxid, loc := 0
    addr := t.addr.toNat, pasid := i.pasid, core := 0xFF, stamp := s.mem.mphase, flags := 0, iter := 0, tag := i.tag
    phase := i.phase, wver := i.wver, stage := s.stageNum i
    gang := i.base, time := s.time, info := t.info.toNat }

/-- The records of a gang: the primary's first, then the others by core (R383). -/
def State.gangRecords (s : State) (i : Inst) (p : Fin 128) (f : FaultInfo) (ks : List (Fin 128)) : List Record :=
  s.coreRecord i p f true :: (ks.filter (· != p)).map fun k =>
    match (s.core k).fault with
    | some g => if g.cyc = f.cyc then s.coreRecord i k g false else abort k
    | none => abort k
where
  abort (k : Fin 128) : Record :=
    s.coreRecord i k (s.faultInfo k 7 0 ⟨.gangAbort, 0, w64 (p.val + 256 * f.trap.code.toNat)⟩ s.mem.mphase) false

/-- The primary fault of a gang: the first raised, and among those of one cycle the lowest core's (R383). -/
def primaryOf (s : State) (ks : List (Fin 128)) : Option (Fin 128 × FaultInfo) :=
  ks.foldl (fun best k =>
    match (s.core k).fault, best with
    | some f, some (_, g) => if f.cyc < g.cyc then some (k, f) else best
    | some f, none => some (k, f)
    | none, _ => best) none

/-! ### Freeing cores (R149, R384, R399) -/

/-- A core that no instance holds: its registers are fresh and its instruction L1 stays (R186). -/
def Core.freed (c : Core) : Core := { Core.reset with il1 := c.il1 }

def Inst.cores (i : Inst) : List (Fin 128) := (List.range i.ncores).map fun j => coreIx (i.base + j)

/-- The instance's lease is released (R133). -/
def State.releaseLease (s : State) (i : Inst) : State := if i.leased then s.setMem (s.mem.unpin i.pins) else s

/-- Requests, batches, collectives and barrier arrivals of cores are forgotten. -/
def State.forgetCores (s : State) (ks : List (Fin 128)) : State :=
  let has (n : Nat) : Bool := ks.any fun k => k.val == n
  let f := s.fab
  s.setFab { f with
    remote := f.remote.filter fun r => !has r.core
    batches := f.batches.filter fun b => !has b.core
    colls := f.colls.filter fun c => !(c.core.any fun x => has x.1)
    coreArrived := f.coreArrived.filter fun x => !has (x % 128) }

/-- The cores of an instance become free. -/
def State.freeCores (s : State) (ks : List (Fin 128)) : State := (s.forgetCores ks).updCores ks Core.freed

/-- Writes that were sent and not accepted when a gang is taken down: whether each is performed is free (R384, log entry 14). -/
def State.drainWrites (s : State) (k : Fin 128) : State :=
  let ws : List (W64 × W64 × Nat × List Byte × List (Nat × Nat)) := (allEng.flatMap fun e => (s.eng k e).flight).flatMap fun f =>
    f.reqs.filterMap fun r => match r.kind with
      | .write ea d bad => some (f.upc, ea, r.cls, d, bad)
      | _ => none
  ws.foldl (fun (t : State) w =>
    let t1 := { t with freeCtr := t.freeCtr + 1 }
    if Config.freeBool t.freeCtr then
      match t1.portWrite k w.1 w.2.1 w.2.2.1 w.2.2.2.1 w.2.2.2.2 with
      | .ok _ t2 => t2
      | _ => t1
    else t1) s

/-- Steps 1 to 5 of R384 for a gang: its words end, its writes drain, its messages are cancelled, Firn forgets what it wrote, and
each data L1 is written back and dropped. The cores stay held. -/
def State.stopGang (s : State) (i : Inst) : State :=
  let ks := i.cores
  let s1 := ks.foldl (fun (t : State) k => t.drainWrites k) s
  let s2 := (s1.cancelSent i.ctxid).discardFirn i.ctxid
  let s3 := ks.foldl (fun (t : State) k => t.dropL1 k) s2
  (s3.forgetCores ks).updCores ks fun c => { c.freed with inst := some i.ctxid, seq := .held, pasid := i.pasid }

def State.updInst (s : State) (ctxid : Nat) (f : Inst → Inst) : State :=
  s.setCmd { s.cmd with insts := updFirst (·.ctxid == ctxid) f s.cmd.insts }
def State.inst? (s : State) (ctxid : Nat) : Option Inst := s.cmd.insts.find? (·.ctxid == ctxid)

/-- Whether an instance holds its cores (R149). -/
def Inst.holdsCores (i : Inst) : Bool :=
  match i.state with
  | .suspended _ => false
  | _ => true

def State.updStage (s : State) (key : Nat) (f : Stage → Stage) : State :=
  s.setStages { s.stages with list := updFirst (·.key == key) f s.stages.list }

/-- The scheduler of a stage is to evaluate at the end of the cycle (R161). -/
def State.mark (s : State) (key : Nat) : State := s.updStage key fun x => { x with dirty := true }

/-- An instance leaves the package: its lease, cores and pool slots are released, and what its barriers left over packages goes. -/
def State.removeInst (s : State) (i : Inst) : State :=
  let s0 := match s.stepSpan i with
    | some (.step key _ _ _) => s.dropSpan key
    | _ => s
  let s1 := (match i.stage with
    | some (key, _) => s0.mark key
    | none => s0).releaseLease i
  let s2 := if i.holdsCores then s1.freeCores i.cores else s1
  s2.setCmd { s2.cmd with
    insts := s2.cmd.insts.filter fun x => x.ctxid != i.ctxid
    slotsUsed := s2.cmd.slotsUsed.filter fun x => !i.slots.contains x
    reservations := s2.cmd.reservations.filter fun r => r.who != .inst i.ctxid }

/-! ### Ending a stage (R177, R179) -/

/-- This package's place among the members of a spanning stage (R176). -/
def State.member (s : State) (st : Stage) : Option Nat := st.desc.span.findIdx? (· == s.pkg)

/-- A gang is taken by a step that holds its cores, or by a pick that is still to start; member 0 keeps it for a step that has not
retired at every member. -/
def State.gangTaken (s : State) (st : Stage) (g : Nat) : Bool :=
  (s.cmd.insts.any fun i => i.stage == some (st.key, g) && i.holdsCores) || (st.picks.any fun p => p.gang == g) ||
  (s.member st == some 0 && st.spanRetired.any fun p => p.gang == g)

/-- Whether the quad of a core belongs to a core that has faulted, in an instance whose cores are not free yet (R384). -/
def State.quadHeld (s : State) (c : Nat) : Bool :=
  let q := quadOf (coreIx c)
  (s.cmd.insts.any fun i => i.faultQuad == some q) || [0, 1, 2, 3].any fun j => (s.core (coreIx (q.val * 4 + j))).fault.isSome

/-- Bound gangs that are free, by number (R161). -/
def State.freeGangs (s : State) (st : Stage) : List Nat :=
  (st.gangs.zipIdx.filter fun g => g.1.bound && !s.gangTaken st g.2 &&
    !((List.range (gangSize g.1.level g.1.count)).any fun j => s.quadHeld (g.1.base + j))).map (·.2)

/-- A member other than 0 sends its arrivals, retirements, faults and free gangs to member 0 (R176, R177); while parking it reports no
gang free (R429). -/
def State.report (s : State) (key : Nat) : State :=
  match s.stageOf key with
  | some st =>
    if st.spans && st.armed && (s.member st).any (· != 0) then
      let tags (q : Nat) : List Nat := (st.seen.filter fun x => x / 65536 == q).map (· % 65536)
      s.sendOut st.desc.fallback (nth 0 st.desc.span 0) (.spanReport st.desc.num 0 (s.incOf (nth 0 st.desc.span 0)) (tags 1) (tags 2)
        (st.spanRetired.map fun p => tagKey p.tag p.phase * 65536 + p.run) st.spanFaulted
        (if s.mgmt.pstate = .active then s.freeGangs st else []))
    else s
  | none => s

/-- An instance is stopped and discarded (R171, R177, R384). -/
def State.discardInst (s : State) (i : Inst) : State :=
  (if i.holdsCores then s.stopGang i else (s.cancelSent i.ctxid).discardFirn i.ctxid).removeInst i

/-- The steps of a stage that are left are stopped and discarded; its slots and entries go, and its node completes (R177, R179). -/
def State.closeStage (s : State) (st : Stage) (e : Ending) : State :=
  let mine := s.cmd.insts.filter fun i => i.stage.any fun g => g.1 == st.key
  let s1 := mine.foldl (fun (t : State) i => t.discardInst i) s
  let s2 := s1.setStages { s1.stages with
    slots := s1.stages.slots.filter fun x => x.stage != st.key
    marks := s1.stages.marks.filter fun m => m.stage != st.key }
  let ack (t : State) (ch : Nat) (x : Entry) : State :=
    match x.msg with
    | some n => if ch < 32 then t.updMsg (chIx ch) n fun m => { m with released := true } else t
    | none => t
  let s3 := st.fwdQ.foldl (fun t x => ack t st.desc.fwdch x) s2
  let s4 := st.bwdQ.foldl (fun t x => ack t st.desc.bwdch x) s3
  let s5 := s4.setCmd { s4.cmd with reservations := s4.cmd.reservations.filter fun r => match r.who with
    | .gang n _ => n != st.key
    | _ => true }
  s5.completeNode st.q st.idx e

/-! ### The fault ring (R382) -/

def State.ringOff (s : State) : Bool := bitsNat s.cmd.frcfg.toNat 0 1 == 0 || decide (10 < bitsNat s.cmd.frcfg.toNat 4 4)
def State.ringSize (s : State) : Nat := 2 ^ (bitsNat s.cmd.frcfg.toNat 4 4 + 6)

/-- A step has faulted once more here, or at another member: it awaits re-issue, or ends the stage when its tag and phase have faulted
RETRY + 1 times (R177). A member of a spanning stage other than 0 reports it, and member 0 re-issues it. -/
def State.countFault (s : State) (st : Stage) (r : Reissue) (run : Nat) (e : Ending) : State :=
  let t := tagKey r.tag r.phase
  let n := sget 0 st.faults t + 1
  let limit := (if st.desc.retry = 0 then 3 else st.desc.retry) + 1
  let away := st.spans && s.member st != some 0
  let s1 := s.updStage st.key fun x => { x with
    dirty := true
    faults := sset 0 x.faults t n
    reissues := if away then x.reissues else x.reissues ++ [r]
    spanFaulted := if away then x.spanFaulted ++ [(t * 65536 + run) * 256 + e.fcode] else x.spanFaulted }
  if limit ≤ n then (s1.report st.key).closeStage st { e with flags := 0 } else s1

/-- A step whose instance is gone by a fault (R177). -/
def State.stepFaulted (s : State) (key : Nat) (i : Inst) (e : Ending) : State :=
  match s.stageOf key with
  | none => s
  | some st => s.countFault st ⟨i.tag, i.phase, i.wver, i.var⟩ i.run e

/-- Step 7 of R384 once every record of the instance is written: it is gone, and its node or its stage goes on. -/
def State.finishFault (s : State) (ctxid : Nat) : State :=
  match s.inst? ctxid with
  | none => s
  | some i =>
    match i.ending with
    | none => s
    | some e =>
      let s1 := s.removeInst i
      match i.node, i.stage with
      | some (q, idx), _ => s1.completeNode q idx e
      | none, some (key, _) => s1.stepFaulted key i e
      | none, none => s1

/-- What follows a record that is written (or dropped, with the ring off) at an address. -/
def State.recordDone (s : State) (r : PendingRecord) (addr : Nat) : State :=
  match r.who with
  | .inst c =>
    let s1 := s.updInst c fun i => { i with ending := i.ending.map fun e => if r.primary then { e with frec := addr } else e }
    if s1.cmd.frwait.any fun x => x.who == .inst c then s1 else s1.finishFault c
  | .stage key =>
    (match s.stageOf key with
    | some st => match st.ending with
      | some e => s.closeStage st { e with frec := addr }
      | none => s
    | none => s)
  | .node q idx =>
    match s.node? q idx with
    | some n => match n.phase with
      | .faulted e => s.completeNode q idx { e with frec := addr }
      | _ => s
    | none => s

/-- Records are written in order while the ring has room (R382). -/
def State.drainRecords : Nat → State → State
  | 0, s => s
  | fuel + 1, s =>
    match s.cmd.frwait with
    | [] => s
    | r :: rest =>
      let s0 := s.setCmd { s.cmd with frwait := rest }
      if s.ringOff then State.drainRecords fuel (s0.recordDone r 0)
      else if (s.cmd.frtail - s.cmd.frhead).toNat = s.ringSize then s
      else
        let a := s.cmd.frbase.toNat + 64 * (s.cmd.frtail.toNat % s.ringSize)
        let s1 := s0.setMem (s0.mem.write a r.bytes)
        State.drainRecords fuel ((s1.setCmd { s1.cmd with frtail := s1.cmd.frtail + 1 }).recordDone r a)

def State.postRecords (s : State) (rs : List PendingRecord) : State :=
  let s1 := s.setCmd { s.cmd with frwait := s.cmd.frwait ++ rs }
  s1.drainRecords s1.cmd.frwait.length

def State.ctxLog2 (s : State) : Nat := bitsNat s.cmd.ctxcfg.toNat 0 5

/-- Device address of a slot of the context pool (R393). -/
def State.ctxAddr (s : State) (slot : Nat) : Nat := s.cmd.ctxbase.toNat + slot * 2 ^ s.ctxLog2

/-- FLAGS in the area of a slot (R395, R398). -/
def State.savedFlags (s : State) (slot : Nat) : W32 := BitVec.ofNat 32 (s.mem.num (s.ctxAddr slot + 0x24) 4) &&& flagsMask

/-- An instance ends by a fault that the command processor found (R383, R396). FLAGS of the cores of one that is not restored stand in
its slots (R120, R398, log entry 96). -/
def State.failInst (s : State) (i : Inst) (t : Trap) : State :=
  let fl := i.slots.foldl (fun f n => f ||| s.savedFlags n) 0
  let s1 := if i.holdsCores then s.stopGang i else (s.cancelSent i.ctxid).discardFirn i.ctxid
  let s2 := s1.updInst i.ctxid fun x => { x with state := .faulted, ending := some ⟨stFault, t.code.toNat, 0, fl⟩ }
  s2.postRecords [⟨.inst i.ctxid, true, (s.cpRecord i t).bytes⟩]

/-- A stage ends by a fault with no core involved: an arrival error, a broken channel, a member lost (R160, R176, R364). -/
def State.failStage (s : State) (st : Stage) (tag : Nat) (t : Trap) : State :=
  if st.ending.isSome then s
  else
    let r : Record :=
      { code := t.code.toNat, agent := 8, primary := true, step := false, resumed := false, ctxid := 0, loc := 0, addr := t.addr.toNat
        pasid := st.pasid, core := 0xFF, stamp := s.mem.mphase, flags := 0, iter := 0, tag := tag, phase := 3, wver := 0
        stage := st.desc.num, gang := 0, time := s.time, info := t.info.toNat }
    let s1 := s.updStage st.key fun x => { x with ending := some ⟨stFault, t.code.toNat, 0, 0⟩ }
    s1.postRecords [⟨.stage st.key, true, r.bytes⟩]

/-- A node ends by a fault: its record is written, then its completion (R119, R372, R382, R383). -/
def State.failNode (s : State) (q idx pasid : Nat) (t : Trap) : State :=
  let r : Record :=
    { code := t.code.toNat, agent := 8, primary := true, step := false, resumed := false, ctxid := 0, loc := 0, addr := t.addr.toNat
      pasid := pasid, core := 0xFF, stamp := s.mem.mphase, flags := 0, iter := 0, tag := 0, phase := 3, wver := 0
      stage := 0xFFFF, gang := 0, time := s.time, info := t.info.toNat }
  (s.setPhase q idx (.faulted ⟨stFault, t.code.toNat, 0, 0⟩)).postRecords [⟨.node q idx, true, r.bytes⟩]

/-- FLAGS of a gang: the OR over its cores (R120). -/
def State.gangFlags (s : State) (ks : List (Fin 128)) : W32 := ks.foldl (fun f k => f ||| (s.core k).flags) 0

/-- Whether an instance runs on its cores. -/
def Inst.onCores (i : Inst) : Bool :=
  match i.state with
  | .running | .stopping _ => true
  | _ => false

/-- A gang with a faulted core is taken down (R383, R384). -/
def execFaultTeardown (ctxid : Nat) (s : State) : Out :=
  match s.inst? ctxid with
  | none => .next s
  | some i =>
    if !i.onCores then .next s
    else match primaryOf s i.cores with
      | none => .next s
      | some (p, f) =>
        let recs := s.gangRecords i p f i.cores
        let flags := s.gangFlags i.cores
        let s1 := s.stopGang i
        let s2 := s1.updInst ctxid fun x => { x with state := .faulted, ending := some ⟨stFault, f.trap.code.toNat, 0, flags⟩, faultQuad := some (quadOf p) }
        .next (s2.postRecords (recs.map fun r => ⟨.inst ctxid, r.primary, r.bytes⟩))

/-- The driver advances FRHEAD: records that wait are written (R382). -/
def execFrheadWrite (v : W32) (s : State) : Out :=
  let s1 := s.setCmd { s.cmd with frhead := v }
  .next (s1.drainRecords s1.cmd.frwait.length)

end Sys2Proof.Machine
end

