-- ==== Sys2Proof/Machine/Lease.lean ====
section
/-! DEFINITION. The lease phase, notices and their answers, and invalidation of translations (R133 to R145, R309, R310). -/

namespace Sys2Proof.Machine

/-! ### Notices (R135, R310) -/

/-- What posting a notice comes to. -/
inductive Posted where
  | written (nid : Nat) (s : State)
  | full
  /-- notices are off, or the write failed and they are off from now on -/
  | off (s : State)

def State.nqEn (s : State) : Bool := bitsNat s.cmd.nqcfg.toNat 0 1 == 1
def State.nqFull (s : State) : Bool := decide (1024 ≤ (s.cmd.nqtail - s.cmd.nqhead).toNat)

def noticeBytes (type pasid va len nid : Nat) : List Byte :=
  leBytesOf 2 type ++ leBytesOf 2 0 ++ leBytesOf 4 pasid ++ leBytesOf 8 va ++ leBytesOf 8 len ++ leBytesOf 4 nid ++ leBytesOf 4 0

/-- The device writes a notice, then NQTAIL; a failed write clears EN and sets NQERR (R135). -/
def State.postNotice (s : State) (type pasid va len : Nat) : Posted :=
  if !s.nqEn then .off s
  else if s.nqFull then .full
  else
    let nid := s.cmd.nqtail.toNat
    match s.ownWrite (bitsNat s.cmd.nqcfg.toNat 44 20) (s.cmd.nqbase.toNat + 32 * (nid % 1024)) (noticeBytes type pasid va len nid) with
    | .error _ => .off (s.setCmd { s.cmd with nqcfg := (s.cmd.nqcfg &&& ~~~1#64) ||| 2 })
    | .ok s1 => .written nid (s1.setCmd { s1.cmd with nqtail := s1.cmd.nqtail + 1 })

/-- A notice of the memory side that cannot be written is kept; a later one of its type and tier or stack replaces it (R135). -/
def State.keepNotice (s : State) (type va len : Nat) : State :=
  s.setCmd { s.cmd with kept := s.cmd.kept.filter (fun x => !(x.type == type && x.va == va)) ++ [⟨type, va, len⟩] }

def State.memNotice (s : State) (type va len : Nat) : State :=
  match s.postNotice type 0 va len with
  | .written _ s1 => s1
  | .full => s.keepNotice type va len
  | .off s1 => s1.keepNotice type va len

/-- The key of an access region as a notice names it (R309, R310): LPDDR by address, host entries by index. -/
def State.regionVa (s : State) (g : Nat) : Nat :=
  if g < 2 ^ 40 then g * 2 ^ 21 else bitsNat (sget (0 : W64) s.mem.hact (g - 2 ^ 40)).toNat 21 43 * 2 ^ 21 % 2 ^ 63 + 2 ^ 63

/-- A PROMOTE notice for a region (R309, R310). -/
def State.postPromote (s : State) (g : Nat) : Posted := s.postNotice 0x12 0 (s.regionVa g) (sget 0 s.mem.access g)

def typePage : Nat := 1
def typeHost : Nat := 2
def typeDesc : Nat := 3

/-- A lease notice is answered FAIL (R136): UNMAPPED, or TRANSLATION for a record or descriptor. -/
def State.failNotice (s : State) (q idx : Nat) (desc : Bool) : State :=
  s.completeNode q idx (.status! (if desc then stTranslation else stUnmapped))

/-- A notice for a node is posted, held back, or answered FAIL at once (R135). -/
def State.nodeNotice (s : State) (q idx type pasid va len : Nat) (desc : Bool) : State :=
  match s.postNotice type pasid va len with
  | .written nid s1 => s1.setPhase q idx (.notice nid desc)
  | .full => s.setPhase q idx (.noticeHeld type va len desc)
  | .off s1 => s1.failNotice q idx desc

/-- The address at which the lease of an instance stopped. -/
def walkVa (ranges : List LeaseRange) (w : LeaseWalk) : Nat :=
  match ranges[w.range]? with
  | some r => r.base / 65536 * 65536 + w.unit * 65536
  | none => 0

/-- A grant that fails on resume discards the instance (R396). -/
def State.failResume (s : State) (i : Inst) : State :=
  s.failInst { i with resumed := true } (.at .lease (w64 (walkVa i.ranges i.walk)))

/-- With notices off, those held back are answered FAIL (R135). -/
def State.failHeld : Nat → State → State
  | 0, s => s
  | fuel + 1, s =>
    match s.cmd.nodes.findSome? fun n => match n.phase with
      | .noticeHeld _ _ _ d => some (n.q, n.idx, d)
      | _ => none with
    | some (q, idx, d) => State.failHeld fuel (s.failNotice q idx d)
    | none =>
      match s.cmd.insts.find? fun i => match i.state with
        | .noticeHeld .. => true
        | _ => false with
      | some i => State.failHeld fuel (s.failResume i)
      | none => s

/-- One notice that waits is written (R135, R309): lease notices first, then those kept, then PENDING regions. None where
nothing waits, or no more can be written. -/
def State.serveOne (s : State) : Option State :=
  if !s.nqEn || s.nqFull then none
  else match s.cmd.nodes.findSome? fun n => match n.phase with
    | .noticeHeld t va len d => some (n, t, va, len, d)
    | _ => none with
  | some (n, t, va, len, d) =>
    (match s.postNotice t n.pasid va len with
    | .written nid s1 => some (s1.setPhase n.q n.idx (.notice nid d))
    | .full => none
    | .off s1 => some (s1.failHeld (s1.cmd.nodes.length + s1.cmd.insts.length)))
  | none =>
    match s.cmd.insts.findSome? fun i => match i.state with
      | .noticeHeld t va len => some (i, t, va, len)
      | _ => none with
    | some (i, t, va, len) =>
      (match s.postNotice t i.pasid va len with
      | .written nid s1 => some (s1.updInst i.ctxid fun x => { x with state := .notice nid })
      | .full => none
      | .off s1 => some (s1.failHeld (s1.cmd.nodes.length + s1.cmd.insts.length)))
    | none =>
      match s.cmd.kept with
      | x :: rest =>
        (match s.postNotice x.type 0 x.va x.len with
        | .written _ s1 => some (s1.setCmd { s1.cmd with kept := rest })
        | .full => none
        | .off s1 => some s1)
      | [] =>
        match s.mem.pending with
        | [] => none
        | g :: rest =>
          match s.postPromote g with
          | .written _ s1 => some (s1.setMem { s1.mem with pending := rest, queued := kadd g s1.mem.queued })
          | .full => none
          | .off s1 => some s1

def State.serve : Nat → State → State
  | 0, s => s
  | fuel + 1, s =>
    match s.serveOne with
    | some s1 => State.serve fuel s1
    | none => s

/-- Writing NQCFG (R109, R135): PASID and EN; NQERR is cleared by writing 1. -/
def execNqcfgWrite (v : W64) (s : State) : Out :=
  let keep := s.cmd.nqcfg &&& 2 &&& ~~~v
  let s1 := s.setCmd { s.cmd with nqcfg := (v &&& 0xFFFFF00000000001#64) ||| keep }
  .next (if s1.nqEn then s1.serve 1025 else s1.failHeld (s1.cmd.nodes.length + s1.cmd.insts.length))

/-- The driver advances NQHEAD (R135, R309). -/
def execNqheadWrite (v : W32) (s : State) : Out := .next ((s.setCmd { s.cmd with nqhead := v }).serve 1025)

/-- The driver answers RETRY: translation starts again from VA, or the record is read again (R136). -/
def execNoticeackRetry (nid : Nat) (s : State) : Out :=
  match s.cmd.nodes.findSome? fun n => match n.phase with
    | .notice k d => if k = nid then some (n, d) else none
    | _ => none with
  | some (n, d) => .next (s.setPhase n.q n.idx (if d then .due else .leasing))
  | none =>
    match s.cmd.insts.find? fun i => i.state == .notice nid with
    | some i => .next (s.updInst i.ctxid fun x => { x with state := .placed })
    | none => .next s

/-- The driver answers FAIL (R136, R396). -/
def execNoticeackFail (nid : Nat) (s : State) : Out :=
  match s.cmd.nodes.findSome? fun n => match n.phase with
    | .notice k d => if k = nid then some (n, d) else none
    | _ => none with
  | some (n, d) => .next (s.failNotice n.q n.idx d)
  | none =>
    match s.cmd.insts.find? fun i => i.state == .notice nid with
    | some i => .next (s.failResume i)
    | none => .next s

/-! ### The lease phase (R133) -/

/-- A 64 KiB unit of a lease: the device pages it covers and its R and W rights. -/
structure UnitPages where
  pages : List Nat
  r : Bool
  w : Bool

/-- Translates one unit (R133 step 2). -/
def State.unitPages (s : State) (pasid va : Nat) : Except OwnFail (UnitPages × State) :=
  match s.pasidEntry pasid with
  | none => .error (.missing va false)
  | some p =>
    if p.hwb ≤ va ∧ va < p.hwl then
      let a := (va + p.hwo) % 2 ^ 48
      .ok (⟨if a % 65536 = 0 then [a / 65536] else [a / 65536, (a + 65535) % 2 ^ 48 / 65536], true, true⟩, s)
    else match s.translate none pasid va with
      | (.leaf log2 l, s1) =>
        let a := l.ma + va % 2 ^ log2
        if l.host then
          match s1.ats pasid a with
          | (some _, s2) => .ok (⟨[], l.r, l.w⟩, s2)
          | (none, _) => .error (.missing va true)
        else .ok (⟨if l.rmt then [] else [a / 65536], l.r, l.w⟩, s1)
      | _ => .error (.missing va false)

/-- The units of ranges: range, unit, address, whether it is written, and the end of the range. -/
def leaseUnits (ranges : List LeaseRange) : List (Nat × Nat × Nat × Bool × Nat) :=
  ranges.zipIdx.flatMap fun r =>
    let lo := r.1.base / 65536 * 65536
    (List.range ((r.1.base + r.1.len - lo + 65535) / 65536)).map fun u => (r.2, u, lo + 65536 * u, r.1.rw, r.1.base + r.1.len)

/-- What the walk over a lease's units comes to. -/
inductive Walked where
  | done (w : LeaseWalk) (s : State)
  /-- a unit has no translation: where, whether ATS failed, and the bytes to the end of its range -/
  | missing (w : LeaseWalk) (va len : Nat) (host : Bool) (s : State)

def State.walkLease (s : State) (pasid : Nat) (w : LeaseWalk) : List (Nat × Nat × Nat × Bool × Nat) → Walked
  | [] => .done w s
  | (ri, u, va, wr, stop) :: t =>
    if ri < w.range ∨ (ri = w.range ∧ u < w.unit) then s.walkLease pasid w t
    else match s.unitPages pasid va with
      | .error (.missing a host) => .missing { w with range := ri, unit := u } a (stop - a) host s
      | .error (.refused a _) => .missing { w with range := ri, unit := u } a (stop - a) false s
      | .ok (p, s1) =>
        let bad := !p.r || (wr && !p.w)
        s1.walkLease pasid { range := ri, unit := u + 1, pages := w.pages ++ p.pages, bad := if w.bad.isNone && bad then some va else w.bad } t

/-- A node in its lease phase (R133): its ranges are translated, checked, pinned and granted. -/
def execLeasePhase (q idx : Nat) (s : State) : Out :=
  match s.node? q idx with
  | none => .next s
  | some n =>
    if n.phase != .leasing then .next s
    else
      let pasid := n.pasid
      match s.walkLease pasid n.walk (leaseUnits n.ranges) with
      | .missing w va len host s1 =>
        .next ((s1.updNode q idx fun x => { x with walk := w }).nodeNotice q idx (if host then typeHost else typePage) pasid va len false)
      | .done w s1 =>
        if w.bad.isSome then .next (s1.completeNode q idx (.status! stLeasePerm))
        else if 4096 ≤ s1.leasesHeld then .next s
        else
          .next ((s1.setMem (s1.mem.pin w.pages)).updNode q idx fun x => { x with pins := w.pages, leased := true, phase := .ready s.time })

/-! ### Invalidation (R144, R145) -/

/-- Writing TLBINVC (R144). -/
def execTlbInvalidate (v : W32) (s : State) : Out :=
  let m := s.mem
  let busy := m.tlbinvc.getLsbD 31
  let err := if busy && v.getLsbD 28 then true else m.tlbinvc.getLsbD 30 && !v.getLsbD 30
  let flag (b : Bool) (n : Nat) : W32 := if b then 1 <<< n else 0
  if v.getLsbD 28 && !busy then
    .next (s.setMem { m with
      tlbinvc := (v &&& 0x200FFFFF) ||| flag true 31 ||| flag err 30
      tlbRun := some (bitsNat v.toNat 0 20, v.getLsbD 29, m.tlbinva.toNat, m.tlbinvl.toNat) })
  else if v.getLsbD 28 then .next (s.setMem { m with tlbinvc := (m.tlbinvc &&& 0x200FFFFF) ||| flag busy 31 ||| flag err 30 })
  else .next (s.setMem { m with tlbinvc := (v &&& 0x200FFFFF) ||| flag busy 31 ||| flag err 30 })

/-- What an invalidation reaches (R144): its PASID, and every address or a range. -/
def hitBy (r : Nat × Bool × Nat × Nat) (pasid a n : Nat) : Bool :=
  pasid == r.1 && (r.2.1 || (decide (a < r.2.2.1 + r.2.2.2) && decide (r.2.2.1 < a + n)))

/-- Requests to other packages that used a translation an invalidation drops and have not been performed (R144). -/
def State.usersOf (s : State) (r : Nat × Bool × Nat × Nat) : Bool :=
  (s.fab.remote.any fun x => hitBy r x.pasid x.ea.toNat x.len) ||
    s.fab.batches.any fun b => (s.core (coreIx b.core)).pasid == r.1

/-- Stores that stand in the data L1s and used a dropped translation are performed: their lines are written back (R144, R145, R347). -/
def State.performLines (s : State) (p : Core → DLine → Bool) (drop : Bool) : State :=
  ((List.range 128).map coreIx).foldl (fun t k =>
    if (t.core k).dl1.isEmpty then t else t.flushLines k (p (t.core k)) fun l => drop && p (t.core k) l) s

/-- TLB entries that an invalidation leaves. -/
def dropTlb (r : Nat × Bool × Nat × Nat) (l : List TlbEntry) : List TlbEntry := l.filter fun t => !hitBy r t.pasid t.base (2 ^ t.log2)

/-- The invalidation ends (R144): every entry of the PASID that overlaps the range is dropped from every TLB, with the PASID's ATC
entries, once every access that used one has performed. -/
def execTlbInvalidateDone (s : State) : Out :=
  match s.mem.tlbRun with
  | none => .next s
  | some r =>
    if s.usersOf r then .next s
    else
      let s1 := s.performLines (fun c l => hitBy r c.pasid l.va.toNat 128) false
      .next { s1 with
        cores := s1.cores.map fun c => { c with tlb := dropTlb r c.tlb }
        quads := s1.quads.map fun q => { q with tlb := dropTlb r q.tlb }
        mem := { s1.mem with
          atc := s1.mem.atc.filter fun t => t.pasid != r.1
          tlbRun := none
          tlbinvc := s1.mem.tlbinvc &&& 0x7FFFFFFF } }

/-- The host invalidates ATS translations; the device answers once the stores that used them are performed (R145). -/
def execAtsInvalidate (pasid va len : Nat) (s : State) : Out :=
  let hit (t : AtcEntry) : Bool := t.pasid == pasid && decide (t.page * 65536 < va + len) && decide (va < (t.page + 1) * 65536)
  let pages := (s.mem.atc.filter hit).map fun t => hostFlat (t.dest * 65536) / 65536
  let s1 := s.performLines (fun c l => c.pasid == pasid && pages.contains (l.pa / 65536)) true
  let m := { s1.mem with atc := s1.mem.atc.filter fun t => !hit t, atsEpoch := s1.mem.atsEpoch + 1 }
  .next ((s1.setMem m).send (.atsDone pasid va len))

end Sys2Proof.Machine
end

