-- ==== Sys2Proof/Machine/Records.lean ====
section
/-! DEFINITION. Task records, stage descriptors and transforms of nodes: the TASK, STAGE and XFORM commands (R119, R130 to R132,
R149, R154 to R158). -/

namespace Sys2Proof.Machine

/-! ### Gang shapes (R131, R149) -/

/-- Placements of a gang in the order of R149: the first core of each. -/
def placements (core0 level count : Nat) : List Nat :=
  let size := levelSize level
  let n := count + 1
  if core0 = 0xFFFF then (List.range (128 / size + 1 - n)).map (· * size)
  else if core0 % size = 0 ∧ core0 / size + n ≤ 128 / size then [core0] else []

/-! ### Task records (R130 to R132) -/

/-- A lease entry (R132); none where it is unused. -/
def leaseEntry (v : Nat) : Option LeaseRange :=
  if bitsNat v 41 22 = 0 then none else some ⟨bitsNat v 0 41 * 65536, bitsNat v 41 22 * 65536, bitsNat v 63 1 == 1⟩

def rangesOverlap : List LeaseRange → Bool
  | [] => false
  | r :: t => (t.any fun x => decide (r.base < x.base + x.len) && decide (x.base < r.base + r.len)) || rangesOverlap t

/-- A task record that passes the checks of R132. `step`: the LEASE0 of the stage whose step record it is, whose GANG field is not
checked and which may use no lease entry (R158). -/
def parseTask (v : Nat) (step : Option (Option LeaseRange)) : Option TaskRec :=
  let parts := (List.range 18).map fun i => bitsNat v (64 * i) 64
  let trip := bitsNat v 0x480 32
  let rflags := bitsNat v 0x4A0 16
  let gang := bitsNat v 0x4B0 16
  let live := bitsNat v 0x4C0 64
  let saves := ((List.range 4).map fun i => bitsNat v (0x500 + 64 * i) 64).filter fun x => bitsNat x 32 32 != 0
  let entries := (List.range 8).map fun i => leaseEntry (bitsNat v (0x600 + 64 * i) 64)
  let leases := entries.filterMap id
  let lease0 := match step with
    | some l => l
    | none => (entries.headD none)
  let level := bitsNat gang 14 2
  let count := bitsNat gang 7 7
  let tripmem := bitsNat rflags 0 1 == 1
  let bad :=
    rflags / 8 != 0 || live / 2 ^ 52 != 0 ||
    (step.isNone && (bitsNat gang 0 7 != 0 || decide (128 < gangSize level count))) ||
    ((parts.zipIdx).any fun p => p.1 % (if p.2 < 9 then 4 else 16) != 0) ||
    (trip != 0 && (List.range 6).all fun a => nth 0 parts (a * 3 + 1) == 0) ||
    (tripmem && match lease0 with
      | none => true
      | some l => decide (l.len < trip + 4)) ||
    (saves.any fun x => let b := bitsNat x 0 32; let n := bitsNat x 32 32
      b % 16 != 0 || n % 16 != 0 || decide (2 ^ 25 < b + n)) ||
    rangesOverlap leases || (step.isSome && !leases.isEmpty)
  if bad then none
  else some
    { agents := parts.map w64, trip := BitVec.ofNat 32 trip, tripmem := tripmem, qbgrant := bitsNat rflags 1 1 == 1
      fallback := bitsNat rflags 2 1 == 1, level := level, count := count, live := w64 live
      saves := saves.map fun x => (bitsNat x 0 32, bitsNat x 32 32), leases := leases }

/-- What reading a record or descriptor comes to (R132). -/
inductive Fetch where
  | got (v : Nat) (s : State)
  /-- no translation: DESC_MISSING at the address -/
  | missing (va : Nat)
  | failed

def State.fetchOwn (s : State) (pasid va n : Nat) : Fetch :=
  match s.ownRead pasid va n with
  | .ok (bs, s1) => .got (leNum bs) s1
  | .error (.missing a false) => .missing a
  | .error _ => .failed

/-- How a failed read ends the node, or has it wait for an answer (R132). -/
def State.fetchFail (s : State) (q idx pasid : Nat) (f : Fetch) (va n : Nat) : State :=
  match f with
  | .missing a => s.nodeNotice q idx typeDesc pasid a (va + n - a) true
  | _ => s.completeNode q idx (.status! stTranslation)

/-- A node goes to its lease phase with its ranges. -/
def State.toLease (s : State) (q idx : Nat) (ranges : List LeaseRange) : State :=
  s.updNode q idx fun n => { n with phase := .leasing, ranges := ranges, walk := .start }

/-- TASK (R132): the record is read and checked before the lease phase. -/
def execTask (q idx : Nat) (s : State) : Out :=
  match s.node? q idx with
  | none => .next s
  | some n =>
    if !n.isDue 1 then .next s
    else
      let va := bitsNat n.cmd.payload 0 64
      if va % 256 ≠ 0 then .next (s.completeNode q idx (.status! stBadRecord))
      else match s.fetchOwn n.pasid va 256 with
        | .got v s1 =>
          (match parseTask v none with
          | none => .next (s1.completeNode q idx (.status! stBadRecord))
          | some r =>
            if (placements (bitsNat n.cmd.payload 64 16) r.level r.count).isEmpty then
              .next (s1.completeNode q idx (.status! stUnplaceable))
            else .next ((s1.updNode q idx fun x => { x with trec := some r }).toLease q idx r.leases))
        | f => .next (s.fetchFail q idx n.pasid f va 256)

/-! ### Stage descriptors (R154 to R158) -/

/-- A policy row (R157), none where a rule of R158 fails. -/
def parseRow (w0 w1 : Nat) (first : Bool) (nver : Nat) : Option PolicyRow :=
  let r : PolicyRow :=
    { v := bitsNat w0 63 1 == 1, ph := bitsNat w0 61 2, q := bitsNat w0 59 2, adv := bitsNat w0 58 1 == 1, pref := bitsNat w0 56 2
      qmin := bitsNat w0 50 6, inflmax := bitsNat w0 43 7, inflmin := bitsNat w0 36 7, lastc := bitsNat w0 34 2
      lastp := bitsNat w0 32 2, emptyq := bitsNat w0 28 4, starve := bitsNat w1 32 32 }
  let pair := (r.ph == 0 && decide (r.q ≤ 1)) || (r.ph == 1 && r.q == 2) || (r.ph == 2 && r.q == 3)
  if bitsNat w0 0 28 ≠ 0 ∨ bitsNat w1 0 32 ≠ 0 then none
  else if r.v && (!pair || (r.q == 0 && !first) || (r.adv && (r.ph != 2 || nver == 1)) || r.lastc == 3 || (r.lastc != 0 && r.lastp == 3)) then
    none
  else some r

/-- Outcome of reading a part of a descriptor. -/
inductive Parse (α : Type) where
  | ok (a : α) (s : State)
  | bad
  | fetch (f : Fetch) (va n : Nat)

/-- Reads task records by address; address 0 gives none. -/
def State.stepRecords (s : State) (pasid : Nat) (lease0 : Option LeaseRange) : List Nat → Parse (List TaskRec)
  | [] => .ok [] s
  | va :: t =>
    if va % 256 ≠ 0 then .bad
    else match s.fetchOwn pasid va 256 with
      | .got v s1 =>
        (match parseTask v (some lease0) with
        | none => .bad
        | some r => match s1.stepRecords pasid lease0 t with
          | .ok rs s2 => .ok (r :: rs) s2
          | .bad => .bad
          | .fetch f a n => .fetch f a n)
      | f => .fetch f va 256

/-- One variant block (R156). -/
def State.variant (s : State) (pasid va : Nat) (first wdefer : Bool) (nver : Nat) (lease0 : Option LeaseRange) : Parse Variant :=
  if va % 64 ≠ 0 then .bad
  else match s.fetchOwn pasid va 64 with
    | .got v s1 =>
      let nrows := bitsNat v 256 8
      let recs := (List.range 3).map fun i => bitsNat v (64 + 64 * i) 64
      if nrows = 0 ∨ 32 < nrows ∨ bitsNat v 264 248 ≠ 0 ∨ nth 0 recs 0 = 0 ∨ nth 0 recs 1 = 0 ∨ (nth 0 recs 2 != 0) ≠ wdefer then .bad
      else
        (match s1.fetchOwn pasid (va + 64) (16 * nrows) with
        | .got rv s2 =>
          let rows := (List.range nrows).map fun i => parseRow (bitsNat rv (128 * i) 64) (bitsNat rv (128 * i + 64) 64) first nver
          if rows.any (·.isNone) then .bad
          else
            (match s2.stepRecords pasid lease0 (recs.filter (· != 0)) with
            | .ok rs s3 => .ok ⟨bitsNat v 0 64, rs, rows.filterMap id⟩ s3
            | .bad => .bad
            | .fetch f a n => .fetch f a n)
        | f => .fetch f (va + 64) (16 * nrows))
    | f => .fetch f va 64

def State.variants (s : State) (pasid : Nat) (first wdefer : Bool) (nver : Nat) (lease0 : Option LeaseRange) : List Nat → Parse (List Variant)
  | [] => .ok [] s
  | va :: t =>
    match s.variant pasid va first wdefer nver lease0 with
    | .ok x s1 => (match s1.variants pasid first wdefer nver lease0 t with
      | .ok xs s2 => .ok (x :: xs) s2
      | .bad => .bad
      | .fetch f a n => .fetch f a n)
    | .bad => .bad
    | .fetch f a n => .fetch f a n

def footsRise : List Nat → Bool
  | a :: b :: t => decide (a ≤ b) && footsRise (b :: t)
  | _ => true

/-- The fixed fields of a descriptor (R154, R155) with its gangs and the addresses of its variants; none where a rule of R158 on
them fails. -/
def parseDesc (v : Nat) : Option (StageDesc × List Gang × List Nat × Option LeaseRange) :=
  let f (off n : Nat) : Nat := bitsNat v (8 * off) n
  let sf := f 0x02 16
  let ngang := f 0x04 8
  let nvar := f 0x05 8
  let nver := f 0x06 8
  let spann := f 0x4A 8
  let spans := (List.range 16).map fun i => f (0x50 + 2 * i) 16
  let gangs := (List.range 8).map fun i => f (0x70 + 4 * i) 32
  let entries := (List.range 8).map fun i => leaseEntry (f (0x90 + 8 * i) 64)
  let vars := (List.range 4).map fun i => f (0xD0 + 8 * i) 64
  let first := bitsNat sf 0 1 == 1
  let last := bitsNat sf 1 1 == 1
  let fwdch := f 0x0A 8
  let bwdch := f 0x0B 8
  let d : StageDesc :=
    { num := f 0x00 16, fallback := bitsNat sf 4 1 == 1, latest := bitsNat sf 3 1 == 1, wdefer := bitsNat sf 2 1 == 1, last := last
      first := first, nver := nver, retry := f 0x07 8, tag0 := f 0x08 16, fwdch := fwdch, bwdch := bwdch, tagcount := f 0x0C 32
      wbase := f 0x10 64, wstride := f 0x18 64, kpool := f 0x20 64, klen := f 0x28 64, spool := f 0x30 64, slen := f 0x38 64
      resv := f 0x40 64, share := f 0x48 16, startlead := if f 0x4C 32 = 0 then 2000 else f 0x4C 32, span := spans.take spann
      leases := entries.filterMap id }
  let weights : LeaseRange := ⟨d.wbase, nver * d.wstride, true⟩
  let gs := (gangs.take ngang).map fun g => (⟨bitsNat g 16 16, bitsNat g 14 2, bitsNat g 7 7, 0, false⟩ : Gang)
  let bad :=
    d.num == 0xFFFF || sf / 32 != 0 || ngang == 0 || decide (8 < ngang) || nvar == 0 || decide (4 < nvar) || nver == 0 ||
    decide (16 < nver) || d.tagcount == 0 || decide (65535 < d.tagcount) || f 0x4B 8 != 0 || f 0xF0 128 != 0 ||
    spann == 1 || decide (16 < spann) || ((spans.drop spann).any (· != 0)) || ((gangs.drop ngang).any (· != 0)) ||
    ((vars.drop nvar).any (· != 0)) || (gangs.any fun g => bitsNat g 0 7 != 0) ||
    (gs.any fun g => decide (128 < gangSize g.level g.count)) ||
    ([d.wbase, d.wstride, d.kpool, d.klen, d.spool, d.slen].any fun x => x % 65536 != 0) ||
    (if first then fwdch != 0xFF else decide (31 < fwdch)) || (if last then bwdch != 0xFF else decide (31 < bwdch)) ||
    rangesOverlap (d.leases ++ (if weights.len = 0 then [] else [weights]))
  if bad then none else some (d, gs, vars.take nvar, entries.headD none)

/-- The ranges that every step of a stage runs under (R158). -/
def StageDesc.ranges (d : StageDesc) : List LeaseRange :=
  d.leases ++ (if d.nver * d.wstride = 0 then [] else [⟨d.wbase, d.nver * d.wstride, true⟩])

/-- What the stage's lease translates and pins: its ranges and the pools (R158). -/
def StageDesc.pinned (d : StageDesc) : List LeaseRange :=
  d.ranges ++ (if d.klen = 0 then [] else [⟨d.kpool, d.klen, true⟩]) ++ (if d.slen = 0 then [] else [⟨d.spool, d.slen, true⟩])

/-- STAGE (R158): the descriptor, its variants and their records are read and checked before the lease phase. -/
def execStage (q idx : Nat) (s : State) : Out :=
  match s.node? q idx with
  | none => .next s
  | some n =>
    if !n.isDue 2 then .next s
    else
      let va := bitsNat n.cmd.payload 0 64
      let pasid := n.pasid
      let refuse (t : State) (st : Nat) : Out := .next (t.completeNode q idx (.status! st))
      if va % 256 ≠ 0 then refuse s stBadRecord
      else match s.fetchOwn pasid va 256 with
        | .got v s1 =>
          (match parseDesc v with
          | none => refuse s1 stBadRecord
          | some (d, gs, vars, lease0) =>
            match s1.variants pasid d.first d.wdefer d.nver lease0 vars with
            | .bad => refuse s1 stBadRecord
            | .fetch f a m => .next (s1.fetchFail q idx n.pasid f a m)
            | .ok vs s2 =>
              if !footsRise (vs.map (·.foot)) then refuse s2 stBadRecord
              else if gs.any fun g => (placements g.core0 g.level g.count).isEmpty then refuse s2 stUnplaceable
              else
                let st : Stage :=
                  { key := s2.stages.next, q := q, idx := idx, pasid := pasid, prio := (s.queue q).prio, desc := d, variants := vs, gangs := gs
                    armed := false, dirty := false, newQ := [], fwdQ := [], bwdQ := [], wgtQ := [], seen := [], tags := [], entered := 0, finished := 0, cur := 0
                    hold := List.replicate d.nver 0, lastphase := none, adv := none, budget := 0, reissues := [], faults := []
                    ending := none, reports := [], picks := [], spanRetired := [], spanFaulted := [], runs := [] }
                let s3 := s2.setStages { s2.stages with list := s2.stages.list ++ [st], next := s2.stages.next + 1 }
                .next (s3.toLease q idx d.pinned))
        | f => .next (s.fetchFail q idx n.pasid f va 256)

/-! ### Accesses of the command processor under a lease (R119, R130, R147, R372) -/

/-- The checks of R139 for an access under a lease and PASID with no core. -/
def State.virtualAs (s : State) (pasid : Nat) (ranges : List LeaseRange) (va n : Nat) (need : Need) :
    Except Trap (List (Dest × Nat) × State) :=
  if 2 ^ 57 ≤ va then .error (.at .perm (w64 va))
  else match leaseFault ranges need.w va n with
    | some a => .error (.at .lease (w64 a))
    | none =>
      let fuel := n / 65536 + 2
      let page := s.destAll (fun s1 a m => s1.pageDest none pasid a m need) (pieces 0 fuel va n)
      match s.pasidEntry pasid with
      | none => .error (.at .lease (w64 va))
      | some p =>
        if p.hwb ≤ va ∧ va < p.hwl then
          if va + n ≤ p.hwl then s.destAll (fun s1 a _ => s1.windowDest pasid a (w64 p.hwo)) (pieces p.hwo fuel va n)
          else .error (.at .heapLimit (w64 p.hwl))
        else page

/-- What a node or an instance has under way through remote pages. -/
def State.ioOf (s : State) (who : RemoteFor) : CpIo :=
  match who with
  | .node q idx => ((s.node? q idx).map (·.io)).getD .reset
  | .inst c => ((s.inst? c).map (·.io)).getD .reset
  | _ => .reset
def State.setIo (s : State) (who : RemoteFor) (f : CpIo → CpIo) : State :=
  match who with
  | .node q idx => s.updNode q idx fun n => { n with io := f n.io }
  | .inst c => s.updInst c fun i => { i with io := f i.io }
  | _ => s

/-- A request of the command processor leaves for another package. -/
def State.sendCp (s : State) (who : RemoteFor) (pasid va target inc addr n : Nat) (data : Option (List Byte × List (Nat × Nat))) :
    Nat × State :=
  let id := s.fab.nextRemote
  let r : RemoteReq := ⟨id, 128, 0, pasid, who, 0, w64 va, 0, target, inc, addr, n, data.isSome, s.time⟩
  let s1 := s.setFab { s.fab with nextRemote := id + 1, remote := s.fab.remote ++ [r] }
  (id, s1.sendOut false target (match data with
    | some d => .remoteWrite id target inc addr d.1 d.2
    | none => .remoteRead id target inc addr n))

/-- What has come of an access's reads. -/
inductive CpRead where
  /-- the bytes, the runs of them that are poisoned, and the first poisoned sector -/
  | all (bs : List Byte) (bad : List (Nat × Nat)) (sec : Option Nat) (s : State)
  | wait (s : State)

/-- The bytes at a virtual address are read from where its pieces lead: those of other packages one after the other, then the rest. -/
def State.readAs (s : State) (who : RemoteFor) (pasid va : Nat) (ds : List (Dest × Nat)) : CpRead :=
  let io := s.ioOf who
  let mine := (io.got.filter fun g => decide (va ≤ g.1)).map fun g => (g.1 - va, g.2.1, g.2.2)
  let got := mine.map fun g => (g.1, g.2.1)
  match firstMissing got ds 0 with
  | some (off, n, target, inc, addr) =>
    if io.asked.isSome then .wait s
    else
      let r := s.sendCp who pasid (va + off) target inc addr n none
      .wait (r.2.setIo who fun x => { x with asked := some (r.1, va + off) })
  | none =>
    let away := (mine.filter (·.2.2)).map fun g => (g.1, g.2.1.length)
    let sec := match firstPoison s.mem ds with
      | some p => some p
      | none => if away.isEmpty then none else some remoteSector
    .all ((gatherPieces s.mem got ds 0).getD []) (poisonRuns s.mem ds 0 ++ away) sec s

/-- Bytes are written to where the pieces of a virtual address lead (R147, R300, R301): what goes to another package is out until it is
performed there. -/
def State.writeAs (s : State) (who : RemoteFor) (pasid va : Nat) (bs : List Byte) (bad : List (Nat × Nat)) :
    List (Dest × Nat) → Nat → State
  | [], _ => s
  | (d, n) :: t, off =>
    let mine := (bs.drop off).take n
    let runs := runsIn bad off n
    let s1 := match d with
      | .here flat host =>
        let m := s.mem.write flat mine
        if host then (if runs.isEmpty then s.setMem m else (s.setMem m).send (.poisonedHostWrite (flat - hostBase)))
        else s.setMem ((sectorsOf flat runs).foldl (fun x p => x.addPoison p) m)
      | .remote target inc addr =>
        let r := s.sendCp who pasid (va + off) target inc addr n (some (mine, runs))
        r.2.setIo who fun x => { x with out := x.out ++ [r.1] }
    s1.writeAs who pasid va bs bad t (off + n)

/-! ### XFORM (R119, R335) -/

/-- A format by its code among all, as XFMT names it. -/
def xformat (code : Nat) : Option Fmt := fmtIn code allFmts

structure XformArgs where
  src : Nat
  dst : Nat
  len : Nat
  x : Xfer
  outLen : Nat

/-- The arguments of an XFORM command; none where CXFM would refuse them. -/
def xformArgs (p : Nat) : Option XformArgs :=
  let src := bitsNat p 0 64
  let dst := bitsNat p 64 64
  let len := bitsNat p 128 32
  match xformat (bitsNat p 168 4), xformat (bitsNat p 172 4) with
  | some f, some g =>
    if src % elemBytes f ≠ 0 ∨ dst % elemBytes g ≠ 0 then none
    else (xformOf (numEnv 0) (bitsNat p 160 8) f g len (bitsNat p 192 64) (w64 dst) (some .rne)).map fun r => ⟨src, dst, len, r.1, r.2⟩
  | _, _ => none

/-- The transform runs under its lease, once its source has come in; none while it has not. -/
def State.runXform (s : State) (who : RemoteFor) (pasid : Nat) (ranges : List LeaseRange) (a : XformArgs) : Except Trap (Bool × State) :=
  if a.outLen = 0 then .ok (true, s)
  else match s.virtualAs pasid ranges a.src a.len .read with
    | .error t => .error t
    | .ok (ds, s1) =>
      match s1.readAs who pasid a.src ds with
      | .wait s2 => .ok (false, s2)
      | .all bs bad _ s2 =>
        let o := runXfer a.x bs bad
        let d := s2.openOverlap a.x a.src a.len a.dst o.data
        match d.2.virtualAs pasid ranges a.dst d.1.length .write with
        | .error t => .error t
        | .ok (es, s3) => .ok (true, s3.writeAs who pasid a.dst d.1 o.bad es 0)

/-- XFORM: to its lease phase once its counter is zero; then it is checked and runs (R119). -/
def execXform (q idx : Nat) (s : State) : Out :=
  match s.node? q idx with
  | none => .next s
  | some n =>
    if n.cmd.kind ≠ 3 then .next s
    else
      let args := xformArgs n.cmd.payload
      let src : List LeaseRange := if bitsNat n.cmd.payload 128 32 = 0 then [] else [⟨bitsNat n.cmd.payload 0 64, bitsNat n.cmd.payload 128 32, false⟩]
      let run (t : State) (a : XformArgs) : Out :=
        match t.runXform (.node q idx) n.pasid n.ranges a with
        | .error tr => .next (t.failNode q idx n.pasid tr)
        | .ok (true, t1) => .next (t1.setPhase q idx (.ended (.status! stOk)))
        | .ok (false, t1) => .next t1
      match n.phase, args with
      | .due, _ =>
        let dst : List LeaseRange := match args with
          | some a => if a.outLen = 0 then [] else [⟨a.dst, a.outLen, true⟩]
          | none => []
        .next (s.toLease q idx (src ++ dst))
      | .ready _, none => if s.mgmt.pstate != .active then .next s else .next (s.completeNode q idx (.status! stBadCommand))
      | .ready _, some a =>
        if s.mgmt.pstate != .active then .next s
        else run (s.updNode q idx fun x => { x with phase := .running, tstart := s.time }) a
      | .running, some a => run s a
      | _, _ => .next s

end Sys2Proof.Machine
end

