-- ==== Sys2Proof/Machine/Gang.lean ====
section
/-! DEFINITION. Gangs: dispatching an instance, starting its parts, the rendezvous and the iteration watchdog (R61 to R64, R150,
R187, R286, R392, R394). -/

namespace Sys2Proof.Machine

/-! ### Clearing a quad for a new PASID (R286, R339) -/

/-- Scratchpad banks read as zero with full bits 0, FIFO banks are empty, retention registers are clear; modes stay. -/
def clearQuad (s : State) (qi : Fin 32) (pasid : Nat) : State :=
  let q := s.quad qi
  if q.lastPasid == some pasid then s
  else
    let pads := (List.range 32).filter fun b => q.bankMode b == modePad
    let m := pads.foldl (fun (x : MemSide) b =>
      let lo := sramFlat qi (b * 2 ^ 20)
      let hi := lo + 2 ^ 20
      { x with cells := sclear lo hi x.cells, poison := kdelRange (lo / 64) (hi / 64) x.poison }) s.mem
    (s.setMem m).setQuad qi { q with
      full := []
      fifo := []
      pinb := Vector.replicate 4 0
      pinl := Vector.replicate 4 0
      pinPasid := Vector.replicate 4 0
      lastPasid := some pasid }

/-- The quads of cores, in increasing number. -/
def quadsOf (ks : List (Fin 128)) : List (Fin 32) := (ks.map quadOf).eraseDups

def State.clearQuads (s : State) (ks : List (Fin 128)) (pasid : Nat) : State := (quadsOf ks).foldl (fun t q => clearQuad t q pasid) s

/-! ### Starting parts (R187) -/

/-- A context starts a part, or takes no part in it. -/
def Ctx.startPart (c : Ctx) (r : TaskRec) (agent part : Nat) : Ctx :=
  if r.hasPart agent part then
    { c with pc := r.addr agent part, run := .running, arrived := false, waits := none, ahead := none, remote := none, fetch := none }
  else { c with run := .idle }

def Eng.startPart (e : Eng) (r : TaskRec) (agent part : Nat) : Eng :=
  if r.hasPart agent part then e.start (r.addr agent part) true else e

/-- The sequencer starts every agent of the named part at the given TIME. -/
def Core.startPart (c : Core) (r : TaskRec) (now : Nat) : Core :=
  let p := c.part.num
  { c with
    ld := c.ld.startPart r 0 p
    cp := c.cp.startPart r 1 p
    st := c.st.startPart r 2 p
    a := c.a.startPart r 3 p
    v := c.v.startPart r 4 p
    c := c.c.startPart r 5 p
    seq := .running now }

/-- The sequencer of a core that is ready starts the agents of its part (R187). -/
def execPartStart (core : Nat) (s : State) : Out :=
  let k := coreIx core
  match s.instOf k with
  | some i =>
    if core < 128 ∧ (s.core k).seq = .ready ∧ (s.core k).fault = none then .next (s.setCore k ((s.core k).startPart i.trec s.time))
    else .next s
  | none => .next s

/-! ### Dispatch (R61 to R64, R150) -/

/-- The special registers of a core of rank `r` (R64). -/
def dispOf (i : Inst) (stage : Nat) (w : W64 × W64 × W64) (r : Nat) : Disp :=
  { tag := BitVec.ofNat 16 i.tag, phase := BitVec.ofNat 2 i.phase, wver := BitVec.ofNat 4 i.wver
    stage := BitVec.ofNat 16 stage
    gang := BitVec.ofNat 16 i.base, grank := BitVec.ofNat 7 r, iter := 0, trip := BitVec.ofNat 32 i.trip
    ctxid := BitVec.ofNat 32 i.ctxid, hwb := w.1, hwl := w.2.1, hwo := w.2.2 }

/-- HWB, HWL and HWO of a PASID (R138). -/
def State.windowOf (s : State) (pasid : Nat) : W64 × W64 × W64 :=
  match s.pasidEntry pasid with
  | some p => (w64 p.hwb, w64 p.hwl, w64 p.hwo)
  | none => (0, 0, 0)

/-- The PC of a context of a fresh instance: its first part (R62); 0 where it has none. -/
def TaskRec.firstPc (r : TaskRec) (agent : Nat) : W64 := nth 0 ((r.agents.drop (agent * 3)).take 3 |>.filter (· != 0)) 0

/-- A core of rank `r` of a fresh instance, before its prologue. -/
def State.freshCore (s : State) (i : Inst) (r : Nat) (old : Core) : Core :=
  { old.freed with
    disp := dispOf i (s.stageNum i) (s.windowOf i.pasid) r
    pasid := i.pasid
    ranges := i.ranges
    qbGrant := i.trec.qbgrant
    inst := some i.ctxid
    part := .prologue
    seq := .ready
    ld := Ctx.reset.setPc (i.trec.firstPc 0)
    cp := Ctx.reset.setPc (i.trec.firstPc 1)
    st := Ctx.reset.setPc (i.trec.firstPc 2)
    trm := { Trm.reset with token := decide (r = 0), round := decide (r = 0 ∧ i.ncores = 1) } }

/-- A and P at pod scope start at the count of the core's group span (R359). -/
def State.joinSpan (s : State) (k : Fin 128) : State :=
  match s.podSpan k with
  | .group g .. =>
    let p : W32 := BitVec.ofNat 32 (sget 0 s.fab.groupP g)
    s.setCore k (setDone (setArrive (s.core k) .ld .pod p) .pod p)
  | _ => s

/-- What reading the trip count comes to. -/
inductive TripRead where
  | count (n : Nat) (s : State)
  | wait (s : State)
  | bad (t : Trap)

/-- The trip count (R130, R158): TRIP, or a word read at dispatch under the lease. -/
def State.readTrip (s : State) (i : Inst) : TripRead :=
  if !i.trec.tripmem then .count i.trec.trip.toNat s
  else
    let va := (i.ranges.headD ⟨0, 0, false⟩).base + i.trec.trip.toNat
    match s.virtualAs i.pasid i.ranges va 4 .read with
    | .error t => .bad t
    | .ok (ds, s1) =>
      match s1.readAs (.inst i.ctxid) i.pasid va ds with
      | .wait s2 => .wait s2
      | .all _ _ (some sec) _ => .bad (poisonTrap (w64 va) sec)
      | .all bs _ none s2 => .count (leNum bs) s2

/-- The next CTXID (log entry 10). -/
def State.takeCtxid (s : State) : Nat × State :=
  let n := s.cmd.nextCtx
  (n, s.setCmd { s.cmd with nextCtx := if n + 1 < 2 ^ 32 then n + 1 else 1 })

/-- The cores of an instance have it, before its prologues. -/
def State.placeCores (s : State) (i : Inst) : State :=
  (i.cores.zipIdx).foldl (fun u p => u.setCore p.1 (u.freshCore i p.2 (u.core p.1))) s

/-- An instance starts on its cores once its trip count is read, all prologues together (R150); a trip count that cannot be read is a
fault of the command processor (log entry 23). -/
def State.begin (s : State) (i : Inst) : State :=
  match s.readTrip i with
  | .bad t => (s.placeCores i).failInst i t
  | .wait s1 =>
    (s1.updInst i.ctxid fun x => { x with state := .reading }).updCores i.cores fun c =>
      { c.freed with inst := some i.ctxid, seq := .held, pasid := i.pasid }
  | .count n s1 =>
    let s2 := (s1.updInst i.ctxid fun x => { x with trip := n, state := .running }).placeCores { i with trip := n }
    (i.cores.foldl (fun u k => u.joinSpan k) s2).updCores i.cores fun c => c.startPart i.trec s.time

/-- A fresh instance takes its cores: their quads are cleared for its PASID, and it starts (R150, R286). -/
def State.launch (s : State) (i : Inst) : State :=
  ((s.setCmd { s.cmd with insts := s.cmd.insts ++ [i] }).clearQuads i.cores i.pasid).begin i

/-! ### The rendezvous (R70, R187, R392) -/

/-- Whether every agent that runs has ended its part, and every stream that FORK started has executed EHALT (R187). -/
def Core.partEnded (c : Core) : Bool :=
  c.ld.run != .running && c.cp.run != .running && c.st.run != .running &&
  [c.a, c.v, c.c].all fun e => !e.run && e.forks.isEmpty && e.flight.isEmpty

/-- The nonzero token counter lowest in (from, to) order (R70). -/
def Core.residue (c : Core) : Option Nat := (List.range 16).find? fun n => c.getTok (n / 4) (n % 4) != 0

/-- The TIME at which the part that runs began. -/
def Core.since (c : Core) : Nat :=
  match c.seq with
  | .running t => t
  | _ => 0

/-- Where a core goes after a part of an instance with a trip count, and whether it stops there for a pre-emption (R187, R392). -/
def Core.nextPart (c : Core) (trip : Nat) (boundary : Option Nat) : Core :=
  let it := c.disp.iter.toNat
  let kernel (n : Nat) (q : Seq) : Core := { c with part := .kernel, seq := q, disp := { c.disp with iter := BitVec.ofNat 32 n } }
  let epilogue (q : Seq) : Core := { c with part := .epilogue, seq := q, disp := { c.disp with iter := BitVec.ofNat 32 trip } }
  match c.part with
  | .prologue => if trip = 0 then epilogue .ready else kernel 0 .ready
  | .kernel =>
    let q : Seq := if boundary == some it then .stopped c.since else .ready
    if it + 1 < trip then kernel (it + 1) q else epilogue q
  | .epilogue => { c with seq := .complete }

/-- All agents of a part have ended: the token counters are checked and the core goes on (R70, R187). -/
def execRendezvous (core : Nat) (s : State) : Out :=
  let k := coreIx core
  let c := s.core k
  match c.seq, s.instOf k with
  | .running _, some i =>
    if core < 128 ∧ c.partEnded = true ∧ c.fault = none then
      match c.residue with
      | some n => .next (s.raise k 7 0 ⟨.tokenResidue, 0, w64 n⟩)
      | none =>
        let b := match i.state with
          | .stopping n => some n
          | _ => none
        let idle (x : Ctx) : Ctx := { x with run := .idle }
        .next (s.setCore k ({ c with ld := idle c.ld, cp := idle c.cp, st := idle c.st }.nextPart i.trip b))
    else .next s
  | _, _ => .next s

/-! ### The iteration watchdog (R394) -/

/-- WDOG, or WDDEF, in microseconds: values outside 1 to 10,000 are taken as 10,000 (R378, R394). -/
def wdogOf (wdog : Nat) (wddef : W32) : Nat :=
  let d := bitsNat wddef.toNat 0 14
  if wdog ≠ 0 then min wdog 10000 else if d = 0 ∨ 10000 < d then 10000 else d

/-- Agents that have not ended their part: bit 0 LD to bit 5 C (R381). -/
def Core.unended (c : Core) : Nat :=
  (if c.ld.run == .running then 1 else 0) + (if c.cp.run == .running then 2 else 0) + (if c.st.run == .running then 4 else 0) +
  (if c.a.run then 8 else 0) + (if c.v.run then 16 else 0) + (if c.c.run then 32 else 0)

/-- The TIME from which the watchdog of a core runs: a part's beginning, until its rendezvous or, for a core that waits at the boundary
of a pre-emption, until the gang is saved (R394, log entry 58). -/
def Core.watched (c : Core) : Option Nat :=
  match c.seq with
  | .running t => some t
  | .stopped t => some t
  | _ => none

/-- The part that the watchdog of a core bounds. -/
def Core.watchedPart (c : Core) : Nat :=
  match c.seq with
  | .stopped _ => Part.kernel.num
  | _ => c.part.num

/-- A part has run, or waited for the boundary, longer than its watchdog (R394). -/
def execIterLong (core : Nat) (s : State) : Out :=
  let k := coreIx core
  let c := s.core k
  match c.watched, s.instOf k with
  | some t, some i =>
    if core < 128 ∧ c.fault = none ∧ t + i.wdog * Config.usNs < s.time then
      .next (s.raise k 7 0 ⟨.iterLong, 0, w64 (c.unended + 256 * c.watchedPart)⟩)
    else .next s
  | _, _ => .next s

end Sys2Proof.Machine
end

