-- ==== Sys2Proof/Machine/Special.lean ====
section
/-! DEFINITION. Special registers, traps and part ends (R64, R65, R218 to R220). -/

namespace Sys2Proof.Machine

/-- The value of a special register, zero-extended (R12, R64). -/
def State.special (s : State) (k : Fin 128) (r : SpecReg) : W64 :=
  let c := s.core k
  let d := c.disp
  match r with
  | .tag => d.tag.setWidth 64
  | .phase => d.phase.setWidth 64
  | .wver => d.wver.setWidth 64
  | .stage => d.stage.setWidth 64
  | .gang => d.gang.setWidth 64
  | .grank => d.grank.setWidth 64
  | .iter => d.iter.setWidth 64
  | .trip => d.trip.setWidth 64
  | .ctxid => d.ctxid.setWidth 64
  | .core => w64 k.val
  | .quad => w64 (k.val / 4)
  | .die => w64 (k.val / 32)
  | .pkg => w64 s.pkg
  | .podx => w64 s.pod.1.val
  | .pody => w64 s.pod.2.1.val
  | .podz => w64 s.pod.2.2.val
  | .cyc => s.cyc
  | .time => w64 s.time
  | .fcsr => c.fcsr.setWidth 64
  | .flags => c.flags.setWidth 64
  | .hwb => d.hwb
  | .hwl => d.hwl
  | .hwo => d.hwo
  | .qbmode => (s.quad (quadOf k)).mode
  | .pinb i => (s.quad (quadOf k)).pinb[i]
  | .pinl i => (s.quad (quadOf k)).pinl[i]

def execMovs (g : Guard) (rd : Fin 32) (sel : SpecReg) (s : State) : Out :=
  ctl s g fun k c _ => .next (s.retX k c rd (s.special k sel))

/-- Banks whose field of a new QBMODE differs from their mode, with the mode they take (R65, R284). -/
def Quad.switches (q : Quad) (v : W64) : List (Nat × Nat) :=
  ((List.range 32).filter fun b => bitsNat v.toNat (2 * b) 2 != q.bankMode b).map fun b => (b, bitsNat v.toNat (2 * b) 2)

/-- A FIFO bank that is not empty cannot switch (R284). -/
def Quad.switchRefused (q : Quad) (l : List (Nat × Nat)) : Bool :=
  l.any fun p => q.bankMode p.1 == modeFifo && !(q.entries p.1).isEmpty

/-- A MOVTS to QBMODE (R65, R284, R285): the grant before the value, the value before the FIFOs; it waits while an earlier
switch of the quad is under way, then every differing bank begins to switch. -/
def movtsQbmode (s : State) (k : Fin 128) (c : CtxId) (v : W64) : Out :=
  let q := s.quad (quadOf k)
  if !(s.core k).qbGrant then .next (s.raiseCtx k c (.plain .perm))
  else if (List.range 32).any fun b => bitsNat v.toNat (2 * b) 2 == 3 then .next (s.raiseCtx k c (.plain .illegalOperand))
  else if !q.switching.isEmpty then .next s
  else if q.switchRefused (q.switches v) then .next (s.raiseCtx k c (.plain .illegalOperand))
  else .next ((s.setQuad (quadOf k) { q with switching := q.switches v }).advance k c)

/-- MOVTS writes the low bits of x[rs1] to a writable register; reserved bits of FCSR and FLAGS are ignored (R64, R65). A
register marked RO faults at decode (R65, R188). -/
def execMovts (g : Guard) (ra : Fin 32) (sel : SpecReg) (s : State) : Out :=
  ctl s g fun k c x =>
    let v := x.getX ra
    match sel with
    | .fcsr => .next ((s.setCore k { s.core k with fcsr := v.setWidth 32 &&& fcsrMask }).advance k c)
    | .flags => .next ((s.setCore k { s.core k with flags := v.setWidth 32 &&& flagsMask }).advance k c)
    | .qbmode => movtsQbmode s k c v
    | _ => .next (s.raiseCtx k c (.plain .illegalOperand))

/-- The contents and full bits of a bank as it leaves one mode for another (R284). -/
def switchBank (s : State) (qi : Fin 32) (b mode : Nat) : State :=
  let q := s.quad qi
  let lo := sramFlat qi (b * 2 ^ 20)
  let hi := lo + 2 ^ 20
  let old := q.bankMode b
  let m := if old = modeFifo then s.mem
    else { s.mem with cells := sclear lo hi s.mem.cells, poison := kdelRange (lo / 64) (hi / 64) s.mem.poison }
  let v := q.mode.toNat - bitsNat q.mode.toNat (2 * b) 2 * 2 ^ (2 * b) + mode * 2 ^ (2 * b)
  (s.setMem m).setQuad qi { q with
    mode := w64 v
    full := kdelRange (b * 65536) ((b + 1) * 65536) q.full
    fifo := serase b q.fifo
    switching := q.switching.filter (·.1 != b)
    l2 := q.l2.filter (·.bank != b) }

/-- Every LDFE and STFE that waits on a granule of a bank faults: the bank leaves scratchpad mode (R200, R285). -/
def failWaiters (s : State) (q : Fin 32) (b : Nat) : State :=
  (s.waiters (·.inBank q b)).foldl (fun t p => t.raiseCtx p.1 p.2 (.plain .illegalOperand)) s

/-- A switch completes (R284, R285). -/
def execBankSwitchComplete (quad bank : Nat) (s : State) : Out :=
  match (s.quad (quadIx quad)).switching.find? (·.1 == bank) with
  | some (b, mode) =>
    if quad < 32 ∧ bank < 32 then .next (failWaiters (switchBank s (quadIx quad) b mode) (quadIx quad) b) else .next s
  | none => .next s

/-- TRAP: the code goes into INFO (R219, R381). -/
def execTrap (g : Guard) (code : BitVec 12) (s : State) : Out :=
  ctl s g fun k c _ => .next (s.raiseCtx k c ⟨.trap, 0, code.setWidth 64⟩)

/-- The context ends its part and waits at the rendezvous (R187, R220). -/
def endPart (s : State) (k : Fin 128) (c : CtxId) : State :=
  s.setCtx k c { s.ctx k c with run := .ended, ahead := none }

/-- YIELD in the epilogue faults; DONE faults outside it (R220). -/
def execYield (g : Guard) (s : State) : Out :=
  ctl s g fun k c _ =>
    if (s.core k).part == .epilogue then .next (s.raiseCtx k c (.plain .illegalOperand)) else .next (endPart s k c)
def execDone (g : Guard) (s : State) : Out :=
  ctl s g fun k c _ =>
    if (s.core k).part != .epilogue then .next (s.raiseCtx k c (.plain .illegalOperand)) else .next (endPart s k c)

end Sys2Proof.Machine
end

