-- ==== Sys2Proof/Machine/Context.lean ====
section
/-! DEFINITION. Saving a pre-empted instance and resuming it: the context pool, the context area, CONTEXT_SAVE and CONTEXT_RESUME
(R61, R392 to R397). -/

namespace Sys2Proof.Machine

/-! ### The pool (R378, R393) -/

def State.ctxCount (s : State) : Nat := bitsNat s.cmd.ctxcfg.toNat 16 16
def State.ctxUsable (s : State) : Bool := decide (16 ≤ s.ctxLog2) && decide (s.ctxLog2 ≤ 30)

/-- Free slots in increasing number. -/
def State.ctxFree (s : State) : List Nat := (List.range s.ctxCount).filter fun n => !s.cmd.slotsUsed.contains n

/-- Live tiles and accumulators of a record (R130, R395). -/
def TaskRec.liveTiles (r : TaskRec) : List Nat := (List.range 48).filter fun n => r.live.getLsbD n
def TaskRec.liveAccs (r : TaskRec) : List Nat := (List.range 4).filter fun n => r.live.getLsbD (48 + n)

/-- Bytes of the full bits of a range, padded (R395). -/
def fullBytes (len : Nat) : Nat := (len / 128 + (if len % 128 = 0 then 0 else 1) + 15) / 16 * 16

/-- Whether the core of a rank holds its quad's ranges: the lowest rank in the quad (R395). -/
def quadSaver (base r : Nat) : Bool := r == 0 || (base + r) % 4 == 0

/-- Bytes of a context area (R395). -/
def areaSize (t : TaskRec) (saver : Bool) : Nat :=
  0x1000 + 0x4000 * (t.liveTiles.length + t.liveAccs.length) +
    (if saver then (t.saves.map fun x => x.2 + fullBytes x.2).foldl (· + ·) 0 else 0)

/-- Whether an instance can be pre-empted as far as the pool goes (R393). -/
def State.poolTakes (s : State) (i : Inst) : Bool :=
  s.ctxUsable && decide (i.ncores ≤ s.ctxFree.length) &&
    (List.range i.ncores).all fun r => decide (areaSize i.trec (quadSaver i.base r) ≤ 2 ^ s.ctxLog2)

/-! ### Placements of a resume (R396) -/

/-- Whether two placements divide the ranks among quads alike. -/
def sameDivision (old new n : Nat) : Bool :=
  (List.range n).all fun r => (old + r) / 4 - old / 4 == (new + r) / 4 - new / 4

/-- The first rank and its core for each quad of a placement, in increasing number. -/
def quadRanks (base n : Nat) : List (Nat × Fin 32) :=
  ((List.range n).filter (quadSaver base)).map fun r => (r, quadOf (coreIx (base + r)))

/-- QBMODE that was saved for the quad of a rank (R395). -/
def State.savedMode (s : State) (i : Inst) (r : Nat) : W64 := w64 (s.mem.num (s.ctxAddr (nth 0 i.slots r) + 0x6F0) 8)

/-- Whether a resume at a core would have to switch a FIFO bank that is not empty, once step 3 has cleared the quads of another PASID
(R396). -/
def State.resumeSwitches (s : State) (i : Inst) (base : Nat) : Bool :=
  !i.trec.saves.isEmpty &&
    (quadRanks base i.ncores).any fun q => let x := s.quad q.2
      x.lastPasid == some i.pasid && x.switchRefused (x.switches (s.savedMode i q.1))

def State.resumeQualifies (s : State) (i : Inst) (base : Nat) : Bool :=
  sameDivision i.base base i.ncores && !s.resumeSwitches i base

/-- A suspended instance takes cores: they are held while its lease is granted again (R396). -/
def State.bindResume (s : State) (i : Inst) (base : Nat) (stage : Option (Nat × Nat)) : State :=
  let j := { i with base := base, stage := stage, state := .placed, walk := .start }
  let s0 := s.setCmd { s.cmd with reservations := s.cmd.reservations.filter fun r => r.who != .inst i.ctxid }
  (s0.updInst i.ctxid fun _ => j).updCores j.cores fun c =>
    { c.freed with inst := some i.ctxid, seq := .held, pasid := i.pasid }

/-! ### Writing an area (R395) -/

def zeros (n : Nat) : List Byte := List.replicate n 0

def windowBytes (w : Window) : List Byte :=
  leBytesOf 8 w.tbase.toNat ++ leBytesOf 8 w.pitch.toNat ++ leBytesOf 4 w.nrows ++ leBytesOf 4 w.start ++
  leBytesOf 8 (w.ring + w.log2n * 2 ^ 29 + w.log2sz * 2 ^ 32) ++ leBytesOf 4 w.rowb ++ leBytesOf 4 w.head ++
  leBytesOf 4 w.next ++ leBytesOf 4 (if w.loaded then 1 else 0) ++ zeros 16

def Trm.bits (t : Trm) : Nat :=
  (if t.busy then 1 else 0) + (if t.black then 2 else 0) + (if t.token then 4 else 0) + (if t.tokenBlack then 8 else 0) +
  (if t.term then 16 else 0)

def predBits (c : Ctx) : Nat := ((List.range 8).map fun n => if c.getP (Fin.ofNat 8 n) then 2 ^ n else 0).foldl (· + ·) 0

/-- The first 4 KiB of an area. -/
def areaHead (i : Inst) (r : Nat) (c : Core) (saver : Bool) (qbmode : W64) : List Byte :=
  let x (k : Ctx) : List Byte := (List.range 32).flatMap fun n => leBytesOf 8 (k.getX (Fin.ofNat 32 n)).toNat
  leBytesOf 4 1 ++ leBytesOf 4 i.ctxid ++ leBytesOf 1 r ++ leBytesOf 1 (if saver then 1 else 0) ++ zeros 6 ++
  leBytesOf 8 i.trec.live.toNat ++ leBytesOf 4 c.disp.iter.toNat ++ leBytesOf 4 (if c.part = .epilogue then 1 else 0) ++
  leBytesOf 4 c.fcsr.toNat ++ leBytesOf 4 c.flags.toNat ++ zeros 216 ++
  c.e.toList.flatMap (fun v => leBytesOf 8 v.toNat) ++
  x c.ld ++ x c.cp ++ x c.st ++
  leBytesOf 1 (predBits c.ld) ++ leBytesOf 1 (predBits c.cp) ++ leBytesOf 1 (predBits c.st) ++ zeros 61 ++
  c.tshape.toList.flatMap (fun v => leBytesOf 4 v.toNat) ++
  c.m.toList.flatMap (fun v => leBytesOf 16 v.toNat) ++
  c.rings.toList.flatMap (fun g => leBytesOf 4 g.pacq.toNat ++ leBytesOf 4 g.prel.toNat ++ leBytesOf 4 g.cacq.toNat ++ leBytesOf 4 g.crel.toNat) ++
  [c.ld, c.cp, c.st].flatMap (fun k => leBytesOf 4 k.arrive.toNat) ++
  c.barA.toList.flatMap (fun v => leBytesOf 4 v.toNat) ++
  c.barP.toList.flatMap (fun v => leBytesOf 4 v.toNat) ++
  leBytesOf 8 (if saver then qbmode.toNat else 0) ++ leBytesOf 4 c.trm.bits ++ zeros 4 ++
  c.windows.toList.flatMap windowBytes ++ zeros 1792

def Core.accBytes (c : Core) (a : Nat) : List Byte := (List.range 4096).flatMap fun n => leBytesOf 4 (sget (0 : W32) c.acc (a * 4096 + n)).toNat

/-- A byte of a save range, and whether it is poisoned: zero where its bank is not in scratchpad mode (R396). -/
def State.saveByte (s : State) (q : Fin 32) (off : Nat) : Byte :=
  if (s.quad q).bankMode (bankOf off) = modePad then s.mem.byte (sramFlat q off) else 0
def State.savePoison (s : State) (q : Fin 32) (off : Nat) : Bool :=
  (s.quad q).bankMode (bankOf off) == modePad && kmem s.mem.poison (sramFlat q off / 64)
def State.saveFull (s : State) (q : Fin 32) (granule : Nat) : Bool :=
  (s.quad q).bankMode (bankOf (granule * 16)) == modePad && kmem (s.quad q).full granule

/-- Bits packed into bytes, the first in bit 0. -/
def boolBytes : Nat → List Bool → List Byte
  | 0, _ => []
  | n + 1, l =>
    BitVec.ofNat 8 (((l.take 8).zipIdx.map fun p => if p.1 then 2 ^ p.2 else 0).foldl (· + ·) 0) :: boolBytes n (l.drop 8)

/-- A save range with its full bits (R395). -/
def State.rangeBytes (s : State) (q : Fin 32) (x : Nat × Nat) : List Byte :=
  ((List.range x.2).map fun o => s.saveByte q (x.1 + o)) ++
    boolBytes (fullBytes x.2) ((List.range (x.2 / 16)).map fun g => s.saveFull q (x.1 / 16 + g))

/-- One core's area, and the offsets in it of bytes that are poisoned. -/
def State.areaBytes (s : State) (i : Inst) (r : Nat) : List Byte × List Nat :=
  let k := coreIx (i.base + r)
  let c := s.core k
  let q := quadOf k
  let saver := quadSaver i.base r
  let own := areaHead i r c saver (s.quad q).mode ++ i.trec.liveTiles.flatMap (fun t => c.tileBytes t 0 0 16384) ++
    i.trec.liveAccs.flatMap c.accBytes
  if saver then
    i.trec.saves.foldl (fun (a : List Byte × List Nat) x =>
      (a.1 ++ s.rangeBytes q x, a.2 ++ ((List.range x.2).filter fun o => s.savePoison q (x.1 + o)).map (a.1.length + ·))) (own, [])
  else (own, [])

/-- The area of a rank is written to its slot. -/
def State.saveArea (s : State) (i : Inst) (r : Nat) : State :=
  let a := s.areaBytes i r
  let at_ := s.ctxAddr (nth 0 i.slots r)
  s.setMem (a.2.foldl (fun x o => x.addPoison ((at_ + o) / 64)) (s.mem.write at_ a.1))

/-- Whether requests of an instance to other packages are still out. -/
def State.remoteOut (s : State) (ks : List (Fin 128)) : Bool :=
  (s.fab.remote.any fun r => ks.any fun k => k.val == r.core) || s.fab.batches.any fun b => ks.any fun k => k.val == b.core

def Core.isStopped (c : Core) : Bool :=
  match c.seq with
  | .stopped _ => true
  | _ => false

/-- A gang that has stopped at the boundary is saved and its cores become free (R396). -/
def execContextSave (ctxid : Nat) (s : State) : Out :=
  match s.inst? ctxid with
  | none => .next s
  | some i =>
    match i.state with
    | .stopping _ =>
      let ks := i.cores
      if (ks.all fun k => (s.core k).isStopped && (s.core k).fault.isNone) && !s.remoteOut ks then
        let s1 := ks.foldl (fun (t : State) k => t.dropL1 k) s
        let s2 := (List.range i.ncores).foldl (fun t r => t.saveArea i r) s1
        let s3 := (s2.releaseLease i).freeCores ks
        let s4 := s3.updInst ctxid fun x => { x with state := .suspended s.time, leased := false, pins := [] }
        .next (match i.stage with
          | some (n, g) => s4.updStage n fun st => { st with dirty := true, gangs := st.gangs.modify g fun x => { x with bound := false } }
          | none => s4)
      else .next s
    | _ => .next s

/-! ### Reading an area back (R396) -/

def readX (v : Nat) : Vector W64 32 := Vector.ofFn fun n => if n.val = 0 then 0 else w64 (bitsNat v (64 * n.val) 64)
def readP (v : Nat) : Vector Bool 8 := Vector.ofFn fun n => n.val == 0 || bitsNat v n.val 1 == 1
def readW32 (n : Nat) (v : Nat) : Vector W32 n := Vector.ofFn fun i => BitVec.ofNat 32 (bitsNat v (32 * i.val) 32)

def windowOf (v : Nat) : Window :=
  let y := bitsNat v 192 64
  ⟨bitsNat v 352 1 == 1, w64 (bitsNat v 0 64), w64 (bitsNat v 64 64), bitsNat v 128 32, bitsNat v 160 32, bitsNat y 32 4,
    bitsNat y 29 3, bitsNat y 0 25, bitsNat v 256 32, bitsNat v 288 32, bitsNat v 320 32⟩

/-- A core with the contents of the first 4 KiB of its area, given as a number; reserved bits of FCSR, FLAGS and TSHAPE stay zero
(R28, R31, R67). -/
def Core.readHead (c : Core) (v : Nat) : Core :=
  let f (off n : Nat) : Nat := bitsNat v (8 * off) n
  let ctx (x : Ctx) (n : Nat) : Ctx :=
    { x with
      x := readX (f (0x200 + 0x100 * n) 2048), p := readP (f (0x500 + n) 8), arrive := BitVec.ofNat 32 (f (0x6C0 + 4 * n) 32) }
  { c with
    ld := ctx c.ld 0
    cp := ctx c.cp 1
    st := ctx c.st 2
    e := Vector.ofFn fun n => w64 (f (0x100 + 8 * n.val) 64)
    tshape := (readW32 48 (f 0x540 1536)).map fun v => v &&& 0xFFFFFC00#32
    m := Vector.ofFn fun n => BitVec.ofNat 128 (f (0x600 + 16 * n.val) 128)
    fcsr := BitVec.ofNat 32 (f 0x20 32) &&& fcsrMask
    flags := BitVec.ofNat 32 (f 0x24 32) &&& flagsMask
    disp := { c.disp with iter := BitVec.ofNat 32 (f 0x18 32) }
    part := if f 0x1C 1 = 1 then .epilogue else .kernel
    rings := Vector.ofFn fun n => let g := readW32 4 (f (0x680 + 16 * n.val) 128); ⟨g[0], g[1], g[2], g[3]⟩
    barA := readW32 4 (f 0x6CC 128)
    barP := readW32 5 (f 0x6DC 160)
    windows := Vector.ofFn fun n => windowOf (f (0x700 + 64 * n.val) 512)
    trm := { busy := f 0x6F8 1 == 1, black := f 0x6F8 2 / 2 == 1, token := f 0x6F8 3 / 4 == 1, tokenBlack := f 0x6F8 4 / 8 == 1
             round := false, term := f 0x6F8 5 / 16 == 1 } }

/-- Free bytes from a key upward, in the canonical form. -/
def freeRun (ctr key n : Nat) : List (Nat × Byte) :=
  ((List.range n).map fun i => (key + i, BitVec.ofNat 8 (Config.freeBits (ctr + i)))).filter fun p => p.2 != 0

/-- Tiles and accumulators: the live ones from the area, the others undefined (R61); what is not saved is undefined too. -/
def State.restoreBulk (s : State) (k : Fin 128) (i : Inst) (a : Nat) : State :=
  let t := i.trec
  let nt := t.liveTiles.length
  let src (n : Nat) : Nat := a + 0x1000 + 0x4000 * n
  let f0 := s.freeCtr
  let tiles := (List.range 48).flatMap fun n =>
    match t.liveTiles.findIdx? (· == n) with
    | some p => ((List.range 16384).map fun o => (n * 16384 + o, s.mem.byte (src p + o))).filter fun e => e.2 != 0
    | none => freeRun (f0 + n * 16384) (n * 16384) 16384
  let f1 := f0 + 48 * 16384
  let acc := (List.range 4).flatMap fun n =>
    ((List.range 4096).map fun o => (n * 4096 + o, match t.liveAccs.findIdx? (· == n) with
      | some p => BitVec.ofNat 32 (s.mem.num (src (nt + p) + 4 * o) 4)
      | none => BitVec.ofNat 32 (Config.freeBits (f1 + n * 4096 + o)))).filter fun e => e.2 != 0
  let f2 := f1 + 4 * 4096
  let c := s.core k
  { s.setCore k { c with
      tiles := tiles
      acc := acc
      table := freeRun f2 0 65536
      counts := Vector.ofFn fun n => BitVec.ofNat 32 (Config.freeBits (f2 + 65536 + n.val)) } with
    freeCtr := f2 + 65536 + 64 }

/-- One save range comes back at its offset, with its full bits (R396); a sector that it covers is no longer poisoned (R300). -/
def State.restoreRange (s : State) (q : Fin 32) (a : Nat) (x : Nat × Nat) : State :=
  let pad (off : Nat) : Bool := (s.quad q).bankMode (bankOf off) == modePad
  let m0 := (List.range x.2).foldl (fun (m : MemSide) o =>
    if pad (x.1 + o) then { m with cells := sset (0 : Byte) m.cells (sramFlat q (x.1 + o)) (m.byte (a + o)) } else m) s.mem
  let whole (p : Nat) : Bool := decide (sramFlat q x.1 ≤ p * 64) && decide (p * 64 + 64 ≤ sramFlat q (x.1 + x.2)) && pad (p * 64 - sramFlat q 0)
  let m := { m0 with poison := m0.poison.filter fun p => !whole p }
  let full := (List.range (x.2 / 16)).foldl (fun l g =>
    let n := x.1 / 16 + g
    if pad (16 * n) && (s.mem.byte (a + x.2 + g / 8)).getLsbD (g % 8) then kadd n l else kdel n l) (s.quad q).full
  (s.setMem m).setQuad q { s.quad q with full := full }

/-- A core of rank `r` takes its state back (R396 steps 4 to 7). -/
def State.restoreCore (s : State) (i : Inst) (r : Nat) : State :=
  let k := coreIx (i.base + r)
  let q := quadOf k
  let a := s.ctxAddr (nth 0 i.slots r)
  let c0 := (s.freshCore i r (s.core k)).readHead (s.mem.num a 0x1000)
  let c := { c0 with trm := { c0.trm with round := c0.trm.token && decide (i.ncores = 1) } }
  let s1 := s.setCore k c
  let s2 := match s1.podSpan k with
    | .group g .. => s1.setCore k (setDone (s1.core k) .pod (BitVec.ofNat 32 (sget 0 s1.fab.groupP g)))
    | .step key .. => s1.setCore k (setDone (s1.core k) .pod (BitVec.ofNat 32 (sget 0 s1.fab.groupP key)))
    | _ => s1
  let s3 := s2.restoreBulk k i a
  if quadSaver i.base r && !i.trec.saves.isEmpty then
    let s4 := ((s3.quad q).switches (s3.savedMode i r)).foldl (fun t b => failWaiters (switchBank t q b.1 b.2) q b.1) s3
    let at0 := a + areaSize i.trec false
    (i.trec.saves.foldl (fun (t : State × Nat) x => (t.1.restoreRange q t.2 x, t.2 + x.2 + fullBytes x.2)) (s4, at0)).1
  else s3

/-- The first poisoned sector of the areas, with its rank. -/
def State.areaPoison (s : State) (i : Inst) : Option (Nat × Nat) :=
  (List.range i.ncores).findSome? fun r =>
    (s.mem.poisonedAt (s.ctxAddr (nth 0 i.slots r)) (areaSize i.trec (quadSaver i.base r))).map fun p => (r, p)

/-- The gang is restored and every core starts the saved iteration, or the epilogue, together (R396). Where an area cannot be read back,
the cores report FLAGS and ITER as saved (log entry 96). -/
def State.restart (s : State) (i : Inst) : State :=
  let s1 := s.updInst i.ctxid fun x => { x with state := .running, resumed := true, slots := [] }
  let s2 := s1.setCmd { s1.cmd with slotsUsed := s1.cmd.slotsUsed.filter fun n => !i.slots.contains n }
  let s3 := s2.clearQuads i.cores i.pasid
  match s.areaPoison i with
  | some (r, p) =>
    let k := coreIx (i.base + r)
    (i.cores.zipIdx.foldl (fun (t : State) c =>
      let f := t.freshCore i c.2 (t.core c.1)
      let n := nth 0 i.slots c.2
      t.setCore c.1 { f with flags := s.savedFlags n, disp := { f.disp with iter := BitVec.ofNat 32 (s.mem.num (s.ctxAddr n + 0x18) 4) } }) s3).raise k 7 0
      (poisonTrap (w64 (s.ctxAddr (nth 0 i.slots r))) p)
  | none =>
    let s4 := (List.range i.ncores).foldl (fun t r => t.restoreCore i r) s3
    s4.updCores i.cores fun c => c.startPart i.trec s.time

/-- A notice for an instance whose lease is granted again (R135, R396). -/
def State.resumeNotice (s : State) (i : Inst) (type va len : Nat) : State :=
  match s.postNotice type i.pasid va len with
  | .written nid s1 => s1.updInst i.ctxid fun x => { x with state := .notice nid }
  | .full => s.updInst i.ctxid fun x => { x with state := .noticeHeld type va len }
  | .off s1 => s1.failResume i

/-- Whether step 4 of a resume cannot take place yet: a bank of its quads is switching, or one that it has to switch is a FIFO that is not
empty (R284, R285, R396). -/
def State.resumeHeld (s : State) (i : Inst) : Bool :=
  s.resumeSwitches i i.base || (!i.trec.saves.isEmpty &&
    (quadRanks i.base i.ncores).any fun q => !(s.quad q.2).switching.isEmpty)

/-- A placed instance takes its lease again and is restored (R396). A step runs under its stage's lease, which was kept. -/
def execContextResume (ctxid : Nat) (s : State) : Out :=
  match s.inst? ctxid with
  | none => .next s
  | some i =>
    if i.state != .placed then .next s
    else if i.stage.isSome then .next (if s.resumeHeld i then s else s.restart i)
    else
      match s.walkLease i.pasid i.walk (leaseUnits i.ranges) with
      | .missing w va len host s1 =>
        let s2 := s1.updInst ctxid fun x => { x with walk := w }
        .next (s2.resumeNotice { i with walk := w } (if host then typeHost else typePage) va len)
      | .done w s1 =>
        match w.bad with
        | some va => .next (s1.failInst { i with resumed := true } (.at .perm (w64 va)))
        | none =>
          if s1.resumeHeld i || decide (4096 ≤ s1.leasesHeld) then .next s
          else
            let j := { i with pins := w.pages, leased := true }
            .next (((s1.setMem (s1.mem.pin w.pages)).updInst ctxid fun _ => j).restart j)

end Sys2Proof.Machine
end

