-- ==== Sys2Proof/Machine/Firn.lean ====
section
/-! DEFINITION. Firn: the stash words CSTASH, CUNST and CSDROP, storing and filling slots, and what retirement and picks do to
them (R168 to R172, R336 to R338). -/

namespace Sys2Proof.Machine

/-! ### Sizes (R170) -/

/-- Bytes that a slot counts against its tag's reservation (R170). -/
def boundSize (rows : List (List Byte)) : Nat := 128 * rows.length + 64
def Slot.bound (x : Slot) : Nat :=
  match x.state with
  | .empty | .dropped => 0
  | .writing => boundSize x.newRows + (if x.held.rows.isEmpty then 0 else boundSize x.held.rows)
  | _ => boundSize x.held.rows

/-! ### The words (R336 to R338) -/

/-- The stage of a core's step, none outside a stage. -/
def State.stepStage (s : State) (k : Fin 128) : Option Stage := (s.stepKeyOf k).bind s.stageOf

/-- What a slot's data is while its replacement is WRITING: a copy on its way into the keep pool is given up. -/
def Slot.oldHeld (x : Slot) : Held := if x.state == .filling then { x.held with keep := [] } else x.held

/-- What a slot held before the step that writes it now (R171), with its rows that are poisoned. -/
def Slot.beforeFor (x : Slot) (ctxid : Nat) (bad : List Nat) : Option (SlotState × Held) :=
  if x.writer == some ctxid then x.before
  else if x.state == .empty then none
  else some (if x.state == .filling then .spilled else x.state, { x.oldHeld with bad := bad })

/-- A CSTASH reaches Firn (R169, R170): the slot is WRITING, or DROPPED. `bad`: the rows of its old data that are poisoned. -/
def stashSlot (slots : List Slot) (resv stage tag slot grank ctxid : Nat) (rows : List (List Byte)) (policy : Nat) (bad : List Nat) :
    List Slot :=
  let name (x : Slot) : Bool := x.named stage tag slot grank
  let old := slots.find? name
  let held := ((slots.filter fun x => x.stage == stage && x.tag == tag).map Slot.bound).foldl (· + ·) 0
  let drop := policy == 2 || decide (resv < held + boundSize rows)
  let before := old.bind fun x => x.beforeFor ctxid bad
  let new : Slot :=
    if drop then ⟨stage, tag, slot, grank, .dropped, .none, [], false, some ctxid, before.map fun b => (b.1, { b.2 with keep := [], spill := [] })⟩
    else ⟨stage, tag, slot, grank, .writing, (old.map Slot.oldHeld).getD .none, rows, policy == 1, some ctxid, before⟩
  (slots.filter fun x => !name x) ++ [new]

/-- Whether an earlier CUNST of a slot has not read it yet: the words' effects are those of their order (R318). -/
def unstashing (c : Core) (slot : Nat) : Bool :=
  c.c.flight.any fun f => f.reqs.any fun r => match r.kind with
    | .unstash x .. => x == slot
    | _ => false

/-- A word that hands rows to Firn or marks a slot: issued once R319 lets it and no earlier word is to read the slot, and complete at
issue but for its tokens. -/
def firnWord (w : CgWord) (s : State) (deps : Issue → CDeps) (body : Issue → State → Option Stages) : Out :=
  engWord s (onEngine .c) w.tok noSkip fun i s1 =>
    if copyHeld i.c (deps i) || unstashing i.c w.mod.cx.val then .hold
    else match body i s1 with
      | none => .trap badOperand
      | some x => .ok (s1.setStages x) { Flight.plain i.upc w.tok.pt with rd := (deps i).rd }

/-- CSTASH (R336): whole tile rows to the slot; the word completes once Firn holds a copy of them. -/
def execCstash (w : CgWord) (s : State) : Out :=
  let m := w.mod
  firnWord w s (fun i => { rd := fieldTiles i 1 w.ops.s1 }) fun i s1 =>
    let row0 := m.row.val + i.rowoff
    let n := m.nr.val + 1
    match s1.stepStage i.k, i.opnd 1 w.ops.s1 with
    | some st, .ok ⟨.r, ref⟩ =>
      if !cuse { dfmt := true, nr := true, row := true } m || 15 < m.cx.val || 2 < m.dfmt.val || 128 < row0 + n then none
      else
        let d := i.c.disp
        let bad : List Nat := match (s1.slotOf i.k m.cx.val).map s1.readSlot with
          | some (.ok (_, b, _)) => b.map (·.1)
          | _ => []
        let out (rows : List (List Byte)) : Option Stages :=
          some { s1.stages with
            slots := stashSlot s1.stages.slots st.desc.resv st.key d.tag.toNat m.cx.val d.grank.toNat d.ctxid.toNat rows m.dfmt.val bad }
        match ref with
        | .acc _ => none
        | .tz => out (List.replicate n (List.replicate 128 0))
        | .tile t => out ((List.range n).map fun j => i.c.tileBytes t.val (row0 + j) 0 128)
    | _, _ => none

/-- CUNST (R337): the slot's rows come back; it waits while the slot is WRITING. -/
def execCunst (w : CgWord) (s : State) : Out :=
  let m := w.mod
  copyWord w s (fun i => { wr := fieldTiles i 0 w.ops.d, we := [m.ec] }) fun i s1 =>
    let row0 := m.row.val + i.rowoff
    let n := m.nr.val + 1
    match s1.stepStage i.k, i.opnd 0 w.ops.d with
    | some _, .ok ⟨.r, .tile t⟩ =>
      if !cuse { ec := true, nr := true, row := true, zp := true } m || 15 < m.cx.val || 128 < row0 + n || (shapeOf i.c.tshape[t]).isNone then
        illegal
      else .go i.c 0 [mkReq m (.unstash m.cx.val t.val row0 n m.zp m.ec)]
    | _, _ => illegal

/-- CSDROP (R338): a mark on a slot that is not EMPTY. -/
def execCsdrop (w : CgWord) (s : State) : Out :=
  let m := w.mod
  firnWord w s (fun _ => {}) fun i s1 =>
    let d := i.c.disp
    match s1.stepStage i.k with
    | none => none
    | some st =>
      if !cuse {} m || 15 < m.cx.val then none
      else if (s1.slotOf i.k m.cx.val).any (·.state != .empty) then
        some { s1.stages with marks := s1.stages.marks ++ [⟨d.ctxid.toNat, st.key, d.tag.toNat, m.cx.val, d.grank.toNat⟩] }
      else some s1.stages

/-! ### Storing and filling (R169, R172) -/

/-- Whether the data of a slot whose rows have all arrived goes to the spill pool (R169): by its policy where that pool has room beside
every slot's data, the slot's own old data too. -/
def State.goesToSpill (s : State) (d : StageDesc) (x : Slot) : Bool :=
  let used := poolRuns s.stages.slots x.stage
  let n := storedSize x.newRows
  if x.toSpill then decide (runsLength used.2 + n ≤ d.slen) else decide (d.klen < runsLength used.1 + n)

/-- The core whose step wrote a slot. -/
def State.writerCore (s : State) (x : Slot) : Option (Fin 128) :=
  (x.writer.bind s.inst?).map fun i => coreIx (i.base + x.grank)

/-- Firn has stored the data of a slot (R169): the new rows take the place of the old, whose space is freed. A NONE region faults the
step with GRADE (R298). -/
def execFirnWriteDone (slot : Nat) (s : State) : Out :=
  match s.stages.slots[slot]? with
  | some x =>
    if x.state = .writing then
      match s.stageOf x.stage with
      | none => .next s
      | some st =>
        let sp := s.goesToSpill st.desc x
        match s.putRows s.stages.slots st sp x.newRows [] with
        | .error t => .next (match s.writerCore x with
          | some k => s.raise k 6 0 t
          | none => s)
        | .ok (h, s1) =>
          let y := { x with
            state := if sp then .spilled else .kept, held := h, newRows := []
            before := x.before.map fun b => (b.1, { b.2 with keep := [], spill := [] }) }
          .next (s1.setStages { s1.stages with slots := s1.stages.slots.set slot y })
    else .next s
  | none => .next s

/-- The copy into the keep pool is complete and the spill space freed (R169, R301); where a pool cannot be reached the slot stays SPILLED
(log entry 79). -/
def execFirnFillDone (slot : Nat) (s : State) : Out :=
  match s.stages.slots[slot]?, (s.stages.slots[slot]?).bind fun x => s.stageOf x.stage with
  | some x, some st =>
    if x.state = .filling then
      let back : State := s.setStages { s.stages with slots := s.stages.slots.set slot { x with state := .spilled, held := { x.held with keep := [] } } }
      match s.readSlot x with
      | .error _ => .next back
      | .ok (rows, bad, s1) =>
        match s1.storeRows st.pasid st.desc.kpool x.held.keep rows (bad.map (·.1)) with
        | .error _ => .next back
        | .ok s2 =>
          .next (s2.setStages { s2.stages with slots := s2.stages.slots.set slot { x with state := .kept, held := { x.held with rows := rows, spill := [] } } })
    else .next s
  | _, _ => .next s

/-- SPILLED slots of the tags start FILLING while the keep pool has room outside `reserved` bytes (R172). -/
def State.prefetchSlots (st : Stage) (tags : List Nat) (reserved : Nat) : Nat → Nat → State → State
  | 0, _, s => s
  | fuel + 1, n, s =>
    let s1 := match s.stages.slots[n]? with
      | some x =>
        let used := (poolRuns s.stages.slots st.key).1
        let size := storedSize x.held.rows
        if x.stage == st.key && tags.contains x.tag && x.state == .spilled && decide (max (runsLength used) reserved + size ≤ st.desc.klen) then
          let a := s.allocRuns used st.desc.klen size
          a.2.setStages { a.2.stages with slots := a.2.stages.slots.set n { x with state := .filling, held := { x.held with keep := a.1 } } }
        else s
      | none => s
    State.prefetchSlots st tags reserved fuel (n + 1) s1

/-! ### Retirement (R163, R338) -/

/-- What the step of an instance wrote stays, its marks take effect, and the last step of a tag releases the tag's slots. -/
def retireSlots (x : Stages) (ctxid stage tag : Nat) (last : Bool) : Stages :=
  let mine := x.marks.filter fun m => m.ctxid == ctxid
  let marked (y : Slot) : Bool := mine.any fun m => y.named m.stage m.tag m.slot m.grank
  { x with
    marks := x.marks.filter fun m => m.ctxid != ctxid
    slots := ((x.slots.filter fun y => !marked y && !(last && y.stage == stage && y.tag == tag)).map fun y =>
      if y.writer == some ctxid then { y with writer := none, before := none } else y) }

end Sys2Proof.Machine
end

