-- ==== Sys2Proof/Machine/Mbs.lean ====
section
/-! DEFINITION. The microbatch scheduler: arrival queues, the decision procedure, weight versions, retirement of steps, variants and
the budget, stages that span packages (R159 to R167, R172 to R179). -/

namespace Sys2Proof.Machine

/-! ### Arrival queues (R159, R160) -/

def Stage.entries (st : Stage) (q : Nat) : List Entry :=
  match q with
  | 0 => st.newQ | 1 => st.fwdQ | 2 => st.bwdQ | _ => st.wgtQ

def Stage.setEntries (st : Stage) (q : Nat) (l : List Entry) : Stage :=
  match q with
  | 0 => { st with newQ := l } | 1 => { st with fwdQ := l } | 2 => { st with bwdQ := l } | _ => { st with wgtQ := l }

/-- The queue that a phase takes its tags from (R157, R158). -/
def Stage.queueOf (st : Stage) (phase : Nat) : Nat :=
  if phase = 0 then (if st.desc.first then 0 else 1) else if phase = 1 then 2 else 3

def Stage.tagState (st : Stage) (tag : Nat) : Option TagState := st.tags.find? (·.tag == tag)
def Stage.updTag (st : Stage) (tag : Nat) (f : TagState → TagState) : Stage :=
  { st with tags := updFirst (·.tag == tag) f st.tags }

/-- An entry enters a queue at a TIME. -/
def Stage.enter (st : Stage) (q tag now : Nat) (msg : Option Nat) : Stage :=
  (st.setEntries q (st.entries q ++ [⟨tag, now, false, msg⟩])) |> fun x => { x with seen := (q * 65536 + tag) :: x.seen }

/-- Fresh tags enter NEW while it holds fewer than 64 entries (R159). -/
def Stage.fillNew : Nat → Stage → Nat → Stage
  | 0, st, _ => st
  | fuel + 1, st, now =>
    if st.desc.first && decide (st.newQ.length < 64) && decide (st.entered < st.desc.tagcount) then
      let x := st.enter 0 ((st.desc.tag0 + st.entered) % 65536) now none
      Stage.fillNew fuel { x with entered := st.entered + 1 } now
    else st

/-- The last phase of a tag (R160). -/
def Stage.lastPhase (st : Stage) : Nat := if st.desc.wdefer then 2 else 1
def Stage.inFlight (st : Stage) : Nat := (st.tags.filter (·.inflight)).length

/-! ### Members of a spanning stage (R176) -/

/-- Whether every other member has reported that `p` holds of it. -/
def Stage.everywhere (st : Stage) (p : SpanReport → Bool) : Bool :=
  (List.range (st.desc.span.length - 1)).all fun m => st.reports.any fun r => r.member == m + 1 && p r

/-- free_gang() for picks: at member 0 a gang must be free at every member (R176). -/
def State.freeGang (s : State) (st : Stage) : Option Nat :=
  (s.freeGangs st).find? fun g => !st.spans || st.everywhere fun r => r.free.contains g

/-! ### Arrivals (R160) -/

/-- A message's tag arrives in FWD (1) or BWD (2); an arrival that R160 calls an error ends the stage. -/
def State.arriveTag (s : State) (key q tag ch : Nat) (msg : Option Nat) : State :=
  match s.stageOf key with
  | none => s
  | some st =>
    if st.ending.isSome || !st.armed then s
    else if st.desc.tagcount ≤ (tag + 65536 - st.desc.tag0) % 65536 ∨ st.seen.contains (q * 65536 + tag) = true then
      s.failStage st tag ⟨.channel, 0, w64 (ch + tag * 65536)⟩
    else if q == 2 && (st.tagState tag).isNone then s.failStage st tag ⟨.wver, 0, w64 tag⟩
    else s.updStage key fun x => { x.enter q tag s.time msg with dirty := true }

/-- The armed stage that a receiving end is bound to, with the queue it fills (R363). -/
def State.boundStage (s : State) (c : Fin 32) : Option (Stage × Nat) :=
  s.stages.list.findSome? fun st =>
    if !st.armed then none
    else if st.desc.fwdch = c.val then some (st, 1)
    else if st.desc.bwdch = c.val then some (st, 2) else none

/-! ### The budget (R173 to R175) -/

def State.memAvail (s : State) : Nat := if s.mem.above[0] then (s.mem.tlow[0]).toNat else s.mem.memcap

def State.budgetOf (s : State) (st : Stage) : Nat := st.desc.share * s.memAvail / 65536

/-- The budget of every armed stage is computed again. -/
def State.rebudget (s : State) : State :=
  s.setStages { s.stages with list := s.stages.list.map fun st => if st.armed then { st with budget := s.budgetOf st, dirty := true } else st }

/-- The scheduler of every armed stage is to evaluate. -/
def State.markAll (s : State) : State :=
  s.setStages { s.stages with list := s.stages.list.map fun st => if st.armed then { st with dirty := true } else st }

/-- The current variant, and whether the stage is restricted (R174, R175). -/
def Stage.current (st : Stage) : Nat × Bool :=
  match (st.variants.zipIdx.filter fun v => decide (v.1.foot ≤ st.budget)).getLast? with
  | some v => (v.2, false)
  | none => (0, true)

def Stage.rows (st : Stage) : List PolicyRow :=
  match st.variants[st.current.1]? with
  | some v => v.rows
  | none => []

/-! ### Choosing (R161, R162) -/

/-- Eligible entries of a queue (R160); at member 0 those eligible at every member (R176). -/
def Stage.eligible (st : Stage) (q : Nat) : List Entry :=
  (st.entries q).filter fun e =>
    !e.taken && (q != 2 || (st.tagState e.tag).any (·.fRetired)) &&
    (!st.spans || (match q with
      | 1 => st.everywhere fun r => r.fwd.contains e.tag
      | 2 => st.desc.last || st.everywhere fun r => r.bwd.contains e.tag
      | _ => true))

def older (a b : Entry) : Bool := decide (a.time < b.time) || (a.time == b.time && decide (a.tag < b.tag))

/-- The oldest of entries (R160). -/
def oldestOf : List Entry → Option Entry
  | [] => none
  | e :: t => match oldestOf t with
    | some x => if older x e then some x else some e
    | none => some e

/-- The oldest `k` of entries, oldest first. -/
def oldestTags : Nat → List Entry → List Nat
  | 0, _ => []
  | k + 1, l => match oldestOf l with
    | some e => e.tag :: oldestTags k (l.filter fun x => x.tag != e.tag)
    | none => []

/-- holds(r) (R162). -/
def Stage.rowHolds (st : Stage) (r : PolicyRow) : Bool :=
  let n := st.inFlight
  let count (q : Nat) : Nat := (st.eligible q).length
  let d := st.desc
  r.v && decide (r.qmin + 1 ≤ count r.q) && (r.inflmax == 0 || decide (n < r.inflmax)) && decide (r.inflmin ≤ n) &&
  (r.lastc != 1 || st.lastphase == some r.lastp) && (r.lastc != 2 || st.lastphase != some r.lastp) &&
  ((List.range 4).all fun q => bitsNat r.emptyq (3 - q) 1 == 0 || count q == 0) &&
  (r.ph != 0 || (decide (n * d.resv + d.resv ≤ d.klen + d.slen) && !(st.current.2 && n != 0))) &&
  (!((r.ph == 0 && !d.latest) || d.latest) || nth 0 st.hold st.cur != 127) &&
  (!r.adv || (st.adv.isNone && nth 0 st.hold ((st.cur + 1) % d.nver) == 0))

/-- Whether a row is raised (R161). -/
def Stage.raised (st : Stage) (now : Nat) (r : PolicyRow) : Bool :=
  r.starve != 0 && (oldestOf (st.eligible r.q)).any fun e => decide (e.time + r.starve * 1000 ≤ now)

/-- choose() (R161). -/
def Stage.choose (st : Stage) (now : Nat) : Option PolicyRow :=
  match st.rows.find? fun r => st.raised now r && st.rowHolds r with
  | some r => some r
  | none => st.rows.find? fun r => !st.raised now r && st.rowHolds r

/-! ### Starting steps (R163) -/

/-- The bookkeeping of a pick: the entry is taken, and the tag, holds and the ADV step are noted. -/
def Stage.take (st : Stage) (p : SpanPick) : Stage :=
  let q := st.queueOf p.phase
  let x := st.setEntries q ((st.entries q).map fun e => if e.tag = p.tag then { e with taken := true } else e)
  let hold := if st.desc.latest || p.phase == 0 then x.hold.modify p.wver (· + 1) else x.hold
  { x with
    lastphase := some p.phase
    tags := if p.phase = 0 then x.tags ++ [⟨p.tag, false, true, p.var, p.wver⟩] else x.tags
    hold := hold
    adv := if p.adv then some p.tag else x.adv }

/-- How often a step has been picked, with one pick more. -/
def Stage.nextRun (st : Stage) (tag phase : Nat) : Nat := sget 0 st.runs (tagKey tag phase) + 1
def Stage.countRun (st : Stage) (p : SpanPick) : Stage := { st with runs := sset 0 st.runs (tagKey p.tag p.phase) p.run }

/-- The task record of a phase in a variant. -/
def Stage.record (st : Stage) (p : SpanPick) : Option TaskRec := (st.variants[p.var]?).bind fun v => v.recs[p.phase]?

/-- A step's record is dispatched on a gang as a new instance (R161, R163); its shape is the gang's (R158). -/
def State.dispatchStep (s : State) (key : Nat) (p : SpanPick) : State :=
  match s.stageOf key with
  | none => s
  | some st =>
    match st.record p, st.gangs[p.gang]? with
    | some r, some g =>
      let c := s.takeCtxid
      c.2.launch
        { ctxid := c.1, pasid := st.pasid, prio := st.prio, node := none, stage := some (key, p.gang), tag := p.tag, phase := p.phase
          wver := p.wver, var := p.var, run := p.run, trec := { r with level := g.level, count := g.count }, base := g.base
          ncores := gangSize g.level g.count, trip := 0, wdog := wdogOf 0 s.cmd.wddef, ranges := st.desc.ranges, walk := .start, pins := []
          leased := false, state := .running, resumed := false, tstart := s.time, slots := [], ending := none, io := .reset
          faultQuad := none }
    | _, _ => s

/-- A step starts at once, or at every member at TIME plus STARTLEAD (R176). -/
def State.startStep (s : State) (st : Stage) (p : SpanPick) : State :=
  if st.spans then
    let t := s.time + st.desc.startlead
    let s1 := s.updStage st.key fun x => { x.countRun p with picks := x.picks ++ [{ p with start := t }] }
    ((List.range st.desc.span.length).filter (· != 0)).foldl (fun (u : State) m =>
      u.sendOut st.desc.fallback (nth 0 st.desc.span m) (.spanPick st.desc.num m (u.incOf (nth 0 st.desc.span m)) p.gang p.tag p.phase p.wver p.var t p.adv)) s1
  else s.dispatchStep st.key p

/-- Firn prefetches for the next tags (R172). -/
def State.prefetch (s : State) (key phase pref : Nat) : State :=
  match s.stageOf key with
  | none => s
  | some st =>
    let tags := oldestTags pref (st.eligible (if phase = 1 then 3 else 2))
    s.prefetchSlots st tags (st.inFlight * st.desc.resv) s.stages.slots.length 0

/-- start(r, e, g) (R163). -/
def State.start (s : State) (st : Stage) (r : PolicyRow) (e : Entry) (g : Nat) : State :=
  let var := if r.ph = 0 then st.current.1 else match st.tagState e.tag with
    | some t => t.var
    | none => 0
  let ver := match st.tagState e.tag with
    | some t => t.ver
    | none => st.cur
  let v := if r.adv || st.desc.latest || r.ph == 0 then st.cur else ver
  let p : SpanPick := ⟨g, e.tag, r.ph, v, var, 0, r.adv, st.nextRun e.tag r.ph⟩
  let s1 := (s.updStage st.key fun x => x.take p).startStep st p
  s1.prefetch st.key r.ph r.pref

/-! ### evaluate() (R161) -/

/-- Steps that await re-issue restart on free gangs, oldest fault first: of a spanning stage on every member (R177). -/
def State.restarts : Nat → State → Nat → State
  | 0, s, _ => s
  | fuel + 1, s, key =>
    match s.stageOf key with
    | none => s
    | some st =>
      match st.reissues, s.freeGang st with
      | r :: t, some g =>
        let p : SpanPick := ⟨g, r.tag, r.phase, r.wver, r.var, 0, false, st.nextRun r.tag r.phase⟩
        State.restarts fuel ((s.updStage key fun x => { x with reissues := t }).startStep st p) key
      | _, _ => s

/-- TIME since which an instance is suspended. -/
def Inst.since (i : Inst) : Option Nat :=
  match i.state with
  | .suspended t => some t
  | _ => none

/-- The suspended instance that has waited longest. -/
def oldestSuspended : List Inst → Option Inst
  | [] => none
  | i :: t => match i.since, oldestSuspended t with
    | none, x => x
    | some _, none => some i
    | some a, some x => if x.since.any (· < a) then some x else some i

/-- Whether a bound gang's placement is one of a step's shape on which it may resume (R396). -/
def State.gangQualifies (s : State) (i : Inst) (g : Gang) : Bool :=
  decide (gangSize g.level g.count = i.ncores) && (placements 0xFFFF i.trec.level i.trec.count).contains g.base && s.resumeQualifies i g.base

/-- Suspended steps of a stage, oldest first, resume on the lowest free bound gang that qualifies. -/
def State.resumes : Nat → State → List Inst → Nat → State
  | 0, s, _, _ => s
  | fuel + 1, s, l, key =>
    match oldestSuspended l, s.stageOf key with
    | some i, some st =>
      let free := s.freeGangs st
      let s1 := match st.gangs.zipIdx.find? fun g => free.contains g.2 && s.gangQualifies i g.1 with
        | some (x, g) => s.bindResume i x.base (some (key, g))
        | none => s
      State.resumes fuel s1 (l.filter fun x => x.ctxid != i.ctxid) key
    | _, _ => s

/-- Picks while a gang is free and a row holds. -/
def State.picks : Nat → State → Nat → State
  | 0, s, _ => s
  | fuel + 1, s, key =>
    match s.stageOf key with
    | none => s
    | some st =>
      match s.freeGang st, st.choose s.time with
      | some g, some r => (match oldestOf (st.eligible r.q) with
        | some e => State.picks fuel (s.start st r e g) key
        | none => s)
      | _, _ => s

/-- Whether a package decides for a stage: alone, or as member 0 (R176). -/
def State.decides (s : State) (st : Stage) : Bool := !st.spans || s.member st == some 0

/-- One evaluation: restarts, resumes, and picks, which member 0 makes for a spanning stage and none makes while the package
parks; another member then reports to member 0 (R161, R176, R177, R429). -/
def State.evaluate (s : State) (key : Nat) : State :=
  match s.stageOf key with
  | none => s
  | some st =>
    let s0 := s.updStage key fun x => { x with dirty := false }
    if !st.armed || st.ending.isSome then s0
    else if s.mgmt.pstate == .parked then s0.report key
    else
      let s1 := if s.decides st then s0.restarts st.reissues.length key else s0
      let mine := s1.cmd.insts.filter fun i => i.stage.any fun g => g.1 == key
      let s2 := s1.resumes mine.length mine key
      let s3 := if s2.mgmt.pstate == .active && s.decides st then s2.picks st.gangs.length key else s2
      (s3.updStage key fun x => { x with dirty := false }).report key

def execMbsEvaluate (stage : Nat) (s : State) : Out := .next (s.evaluate stage)

/-- A row is raised: what is tried at an evaluation changes (R161, R180). -/
def execStarveExpiry (stage row : Nat) (s : State) : Out :=
  match s.stageOf stage with
  | some st => match st.rows[row]? with
    | some r => .next (if st.raised s.time r then s.evaluate stage else s)
    | none => .next s
  | none => .next s

/-! ### Arming (R158, R159) -/

/-- A stage all of whose gangs are bound is armed: its budget is set, NEW fills, and messages that its channels already hold arrive
(R158, R159, R173; log entry 24). A bound end that is BROKEN ends it (R364). -/
def State.arm (s : State) (key : Nat) : State :=
  match s.stageOf key with
  | none => s
  | some st =>
    if st.armed || !(st.gangs.all (·.bound)) then s
    else
      let s1 := s.updStage key fun x => Stage.fillNew 64 { x with armed := true, dirty := true, budget := s.budgetOf x } s.time
      let s2 := s1.updNode st.q st.idx fun n => { n with phase := .armed, tstart := s.time }
      let chans := [(st.desc.fwdch, 1), (st.desc.bwdch, 2)].filter fun c => decide (c.1 < 32)
      match chans.find? fun c => (s.chan (chIx c.1)).state == .broken with
      | some c => s2.failStage st 0 ⟨.channel, 0, w64 c.1⟩
      | none =>
        chans.foldl (fun (t : State) c =>
          ((t.chan (chIx c.1)).msgs.filter fun m => !m.held && !m.cancelled && !m.released).foldl
            (fun u m => u.arriveTag key c.2 m.tag c.1 (some m.n)) t) s2

/-! ### Retirement of a step (R163, R179) -/

/-- Actions 1, 4, 5 and 6 of R163 on the stage, action 3 without the acknowledgement. -/
def Stage.retire (st : Stage) (p : SpanPick) (now : Nat) : Stage :=
  let last := p.phase == st.lastPhase
  let ver := match st.tagState p.tag with
    | some t => t.ver
    | none => 0
  let hold := if st.desc.latest then st.hold.modify p.wver (· - 1) else if last then st.hold.modify ver (· - 1) else st.hold
  let q := st.queueOf p.phase
  let st1 := { st with hold := hold } |> fun x => x.setEntries q ((x.entries q).filter fun e => e.tag != p.tag)
  let st2 := st1.updTag p.tag fun t => { t with fRetired := t.fRetired || p.phase == 0, inflight := t.inflight && !last }
  let st3 := if p.phase = 0 && st.desc.last then st2.enter 2 p.tag now none
    else if p.phase = 1 && st.desc.wdefer then st2.enter 3 p.tag now none else st2
  let st4 := Stage.fillNew 64 st3 now
  let st5 := if st4.adv = some p.tag && p.phase = 2 then { st4 with cur := (p.wver + 1) % st.desc.nver, adv := none } else st4
  if last then { st5 with finished := st5.finished + 1 } else st5

/-- The receive slot of the entry that a step took is acknowledged (R159, R367). -/
def State.ackEntry (s : State) (st : Stage) (p : SpanPick) : State :=
  let q := st.queueOf p.phase
  let ch := if q = 1 then st.desc.fwdch else if q = 2 then st.desc.bwdch else 0xFF
  match (st.entries q).find? (·.tag == p.tag) with
  | some e => match e.msg with
    | some n => if ch < 32 then s.updMsg (chIx ch) n fun m => { m with released := true } else s
    | none => s
  | none => s

/-- A retired step is applied: R163's actions in order; the evaluation follows at the end of the cycle (R161), or the stage ends
(R179). A step that R177 had run once more at a member that had applied it gives Firn alone anything to do. -/
def State.applyRetired (s : State) (key ctxid : Nat) (p : SpanPick) (again : Bool) : State :=
  match s.stageOf key with
  | none => s
  | some st =>
    let s1 := s.setStages (retireSlots s.stages ctxid key p.tag (p.phase == st.lastPhase))
    if again then s1.mark key
    else
      let s2 := (s1.ackEntry st p).updStage key fun x => { x.retire p s.time with dirty := true }
      match s2.stageOf key with
      | none => s2
      | some st2 => if st2.ending.isNone && decide (st2.desc.tagcount ≤ st2.finished) then (s2.report key).closeStage st2 (.status! stOk) else s2

/-- Retirements that every member has reported are applied (R176). -/
def State.applySpan : Nat → State → Nat → State
  | 0, s, _ => s
  | fuel + 1, s, key =>
    match s.stageOf key with
    | none => s
    | some st =>
      match st.spanRetired.find? fun p => st.everywhere fun r => r.retired.contains (tagKey p.tag p.phase * 65536 + p.run) with
      | none => s
      | some p =>
        let s1 := s.updStage key fun x => { x with spanRetired := x.spanRetired.filter (· != p) }
        State.applySpan fuel (s1.applyRetired key p.start p false) key

/-- A step of a stage has retired (R163); at member 0 of a spanning stage it is applied once every member has retired it (R176). -/
def State.stepRetired (s : State) (key : Nat) (i : Inst) (g : Nat) : State :=
  match s.stageOf key with
  | none => s
  | some st =>
    let p : SpanPick := ⟨g, i.tag, i.phase, i.wver, i.var, i.ctxid, st.adv == some i.tag && i.phase == 2, i.run⟩
    if !st.spans then s.applyRetired key i.ctxid p false
    else
      let again := s.member st != some 0 && st.spanRetired.any fun y => y.tag == p.tag && y.phase == p.phase
      let s1 := s.updStage key fun x => { x with dirty := true, spanRetired := x.spanRetired ++ [p] }
      if s.member st == some 0 then s1.applySpan 1 key else s1.applyRetired key i.ctxid p again

/-! ### Spanning stages (R176, R177) -/

/-- The spanning stage of a number: messages between members name stages by their numbers. -/
def State.spanStage (s : State) (num : Nat) : Option Stage :=
  s.stages.list.find? fun st => st.desc.num == num && st.spans && st.ending.isNone

/-- What is under way here of a step of a spanning stage: its pick, its instance, or its retirement that is not applied. -/
def State.stepHere (s : State) (st : Stage) (tag phase : Nat) : Option Reissue :=
  match (st.picks ++ st.spanRetired).find? fun p => p.tag == tag && p.phase == phase with
  | some p => some ⟨tag, phase, p.wver, p.var⟩
  | none => (s.cmd.insts.find? fun i => (i.stage.any fun g => g.1 == st.key) && i.tag == tag && i.phase == phase).map fun i => ⟨tag, phase, i.wver, i.var⟩

/-- The instances of a step are stopped and discarded: it is to run again on every member (R177). -/
def State.dropStep (s : State) (st : Stage) (tag phase : Nat) : State :=
  (s.cmd.insts.filter fun i => (i.stage.any fun g => g.1 == st.key) && i.tag == tag && i.phase == phase).foldl (fun (u : State) i => u.discardInst i) s

/-- Another member reports that a run of a step has faulted there: member 0 counts it and is to re-issue the step (R177). -/
def State.memberFault (s : State) (key f : Nat) : State :=
  let run := f / 256 % 65536
  let tag := f / 256 / 65536 / 4
  let phase := f / 256 / 65536 % 4
  match s.stageOf key with
  | none => s
  | some st =>
    if sget 0 st.runs (tagKey tag phase) ≠ run ∨ (st.reissues.any fun r => r.tag == tag && r.phase == phase) = true then s
    else match s.stepHere st tag phase with
      | none => s
      | some r =>
        let other (p : SpanPick) : Bool := !(p.tag == tag && p.phase == phase)
        ((s.dropStep st tag phase).updStage key fun x => { x with picks := x.picks.filter other, spanRetired := x.spanRetired.filter other }).countFault
          st r run ⟨stFault, f % 256, 0, 0⟩

/-- Member 0 receives a member's arrivals, retirements, faults and free gangs, as a message made for an incarnation of this package
(R176, R177, R389): lists of all arrivals, retirements and faults so far, and of the gangs that are free. -/
def execSpanReportReceive (stage : Nat) (sender : Sender) (fwd bwd : List Nat) (ended : EndedSteps) (free : List Nat) (s : State) : Out :=
  let member := sender.member
  match s.spanStage stage with
  | none => .next s
  | some st =>
    if s.member st != some 0 || member == 0 || decide (st.desc.span.length ≤ member) then .next s
    else
      .next (s.fromPeer (nth 0 st.desc.span member) sender.inc fun t =>
        let known := ((st.reports.find? (·.member == member)).map (·.faulted)).getD []
        let t1 := t.updStage st.key fun x => { x with
          dirty := true, reports := x.reports.filter (fun r => r.member != member) ++ [⟨member, fwd, bwd, ended.retired, ended.faulted, free⟩] }
        ((ended.faulted.filter fun f => !known.contains f).foldl (fun u f => u.memberFault st.key f) t1).applySpan st.spanRetired.length st.key)

/-- Picks whose TIME has come start, if their gang is free and the package is not PARKED (R176, R429). -/
def State.startDue : Nat → State → Nat → State
  | 0, s, _ => s
  | fuel + 1, s, key =>
    match s.stageOf key with
    | none => s
    | some st =>
      let free := s.freeGangs { st with picks := [], spanRetired := [] }
      match st.picks.find? fun p => decide (p.start ≤ s.time) && free.contains p.gang && s.mgmt.pstate != .parked with
      | none => s
      | some p =>
        State.startDue fuel ((s.updStage key fun x => { x with picks := x.picks.filter (· != p) }).dispatchStep key p) key

def execSpanStartTime (stage : Nat) (s : State) : Out :=
  match s.stageOf stage with
  | some st => .next (if st.ending.isSome then s else s.startDue st.picks.length stage)
  | none => .next s

/-- A member receives a pick (R176, R389): it mirrors the bookkeeping, and starts the step at T, or at once where T has passed. A step of
the same tag and phase that ran here before is discarded: the pick is its re-issue (R177). -/
def execSpanPickReceive (stage inc gang tag : Nat) (pick : PickTerms) (t : Nat) (adv : Bool) (s : State) : Out :=
  match s.spanStage stage with
  | none => .next s
  | some st =>
    if !(s.member st).any (· != 0) || !st.armed then .next s
    else
      .next (s.fromPeer (nth 0 st.desc.span 0) inc fun u =>
        let p : SpanPick := ⟨gang, tag, pick.phase, pick.wver, pick.var, t, adv, st.nextRun tag pick.phase⟩
        let first (x : Stage) : Stage := { x.take p with cur := if pick.phase = 0 || st.desc.latest then pick.wver else x.cur }
        let u1 := (u.dropStep st tag pick.phase).updStage st.key fun x =>
          let y := (if p.run = 1 then first x else x).countRun p
          { y with picks := y.picks.filter (fun r => !(r.tag == tag && r.phase == pick.phase)) ++ [p] }
        u1.startDue (st.picks.length + 1) st.key)

/-- A member that cannot be reached for 20 µs ends the stage (R176). -/
def execSpanMemberLost (stage member : Nat) (s : State) : Out :=
  match s.stageOf stage with
  | none => .next s
  | some st =>
    match st.desc.span[member]? with
    | some pkg =>
      if st.spans && s.member st != some member then
        .next (s.failStage st 0 ⟨.remoteLost, 0, w64 (pkg * 2 ^ 32 + s.incOf pkg)⟩)
      else .next s
    | none => .next s

end Sys2Proof.Machine
end

