-- ==== Sys2Proof/Machine/Place.lean ====
section
/-! DEFINITION. Placing ready nodes, suspended instances and stage gangs; reservations, pre-emption, and retirement (R149 to R153,
R178, R392, R393, R399). -/

namespace Sys2Proof.Machine

/-! ### What waits for cores (R149, R151) -/

/-- Something that waits for cores: its priority, its queue and index, whether it is suspended work, since when it waits, the first
cores of its placements in the order of R149, those of the placements that it may reserve, its size, and the waiters whose reservations
serve it. -/
structure Cand where
  who : Waiter
  prio : Nat
  q : Nat
  idx : Nat
  suspended : Bool
  since : Nat
  bases : List Nat
  wants : List Nat
  ncores : Nat
  own : List Waiter

/-- A core is free, and its quad holds no core of a gang that is being taken down (R149, R384). -/
def State.coreFree (s : State) (c : Nat) : Bool :=
  !(s.cmd.insts.any fun i => i.holdsCores && decide (i.base ≤ c) && decide (c < i.base + i.ncores)) &&
  !(s.stages.list.any fun st => st.gangs.any fun g =>
    g.bound && decide (g.base ≤ c) && decide (c < g.base + gangSize g.level g.count)) && !s.quadHeld c

/-- The placements that R396 admits for a suspended instance, as though every core were free. -/
def Inst.admitted (i : Inst) : List Nat :=
  (placements 0xFFFF i.trec.level i.trec.count).filter fun b => sameDivision i.base b i.ncores

/-- The suspended steps of a stage. -/
def State.suspendedSteps (s : State) (st : Stage) : List Inst :=
  s.cmd.insts.filter fun i => (i.stage.any fun g => g.1 == st.key) && i.since.isSome

/-- A gang of a stage that is to be placed (R158, R178): with suspended steps, as suspended work that has waited as long as they. -/
def State.gangCands (s : State) (st : Stage) (since : Nat) (suspended : Bool) : List Cand :=
  let steps := s.suspendedSteps st
  (st.gangs.zipIdx.filter fun g => !g.1.bound).map fun g =>
    let bases := placements g.1.core0 g.1.level g.1.count
    { who := .gang st.key g.2, prio := st.prio, q := st.q, idx := st.idx, suspended := suspended
      since := if suspended then (steps.filterMap Inst.since).foldl min since else since
      bases := bases, wants := if suspended then [] else bases, ncores := gangSize g.1.level g.1.count
      own := .gang st.key g.2 :: steps.map fun i => .inst i.ctxid }

/-- A node that is ready: a TASK node, not while the package parks (R429), or the gangs of a stage. -/
def State.nodeCands (s : State) (n : Node) : List Cand :=
  match n.phase with
  | .ready since =>
    if n.cmd.kind = 1 then
      match n.trec with
      | some r =>
        let bases := placements (bitsNat n.cmd.payload 64 16) r.level r.count
        if s.mgmt.pstate == .active then
          [{ who := .node n.q n.idx, prio := (s.queue n.q).prio, q := n.q, idx := n.idx, suspended := false, since := since
             bases := bases, wants := bases, ncores := gangSize r.level r.count, own := [.node n.q n.idx] }]
        else []
      | none => []
    else if n.cmd.kind = 2 then
      match s.stages.list.find? fun st => st.q == n.q && st.idx == n.idx with
      | some st => s.gangCands st since false
      | none => []
    else []
  | _ => []

/-- A suspended instance (R151 rule 4, R152, R396): a step of a stage is placed by its stage's gangs, and reserves for itself. -/
def Inst.cand (i : Inst) : Option Cand :=
  i.since.map fun t =>
    { who := .inst i.ctxid, prio := i.prio, q := 0, idx := i.ctxid, suspended := true, since := t
      bases := if i.stage.isNone then i.admitted else [], wants := i.admitted, ncores := i.ncores, own := [.inst i.ctxid] }

/-- The order of R151: priority, suspended work (the longest waiting first), then queues round-robin, then index, which runs free over
32 bits (R114). -/
def State.before (s : State) (a b : Cand) : Bool :=
  let served (p : Nat) : Nat := if h : p < 4 then s.cmd.served[p] else 0
  let turn (c : Cand) : Nat := (c.q + 4095 - served c.prio) % 4096
  if a.prio ≠ b.prio then decide (b.prio < a.prio)
  else if a.suspended != b.suspended then a.suspended
  else if a.suspended then decide (a.since < b.since)
  else if turn a ≠ turn b then decide (turn a < turn b)
  else decide (0 < (BitVec.ofNat 32 b.idx - BitVec.ofNat 32 a.idx).toNat ∧ (BitVec.ofNat 32 b.idx - BitVec.ofNat 32 a.idx).toNat < 2 ^ 31)

def State.insertCand (s : State) (c : Cand) : List Cand → List Cand
  | [] => [c]
  | x :: t => if s.before c x then c :: x :: t else x :: s.insertCand c t

/-- Everything that waits, in the order of R151; nothing is placed in PARKED (R429). -/
def State.cands (s : State) : List Cand :=
  if s.mgmt.pstate == .parked then []
  else
    let armed := s.stages.list.flatMap fun st => if st.armed && st.ending.isNone then s.gangCands st s.time true else []
    (s.cmd.nodes.flatMap s.nodeCands ++ s.cmd.insts.filterMap Inst.cand ++ armed).foldl (fun l c => s.insertCand c l) []

/-! ### Reservations (R152) -/

/-- Whether a reservation keeps a candidate from cores: one of equal or higher priority made before the candidate's own. -/
def reserved (c : Cand) (base : Nat) : List Reservation → Bool
  | [] => false
  | r :: t =>
    if c.own.contains r.who then false
    else (decide (c.prio ≤ r.prio) && decide (r.base < base + c.ncores) && decide (base < r.base + r.ncores)) || reserved c base t

/-- Whether a resume would have to switch a FIFO bank that is not empty, which counts as busy (R396). -/
def State.fifoBusy (s : State) (c : Cand) (base : Nat) : Bool :=
  match c.who with
  | .inst n => match s.inst? n with
    | some i => s.resumeSwitches i base
    | none => true
  | _ => false

def State.fits (s : State) (c : Cand) (base : Nat) : Bool :=
  ((List.range c.ncores).all fun j => s.coreFree (base + j)) && !reserved c base s.cmd.reservations && !s.fifoBusy c base

def State.dropReservation (s : State) (w : Waiter) : State :=
  s.setCmd { s.cmd with reservations := s.cmd.reservations.filter fun r => r.who != w }

/-- A candidate that has waited 1 ms reserves its lowest placement (R152). -/
def execPlacementReserve (cand : Nat) (s : State) : Out :=
  match s.cands[cand]? with
  | some c =>
    (match c.wants with
    | b :: _ =>
      if c.since + 1000 * Config.usNs ≤ s.time ∧ s.cmd.reservations.all (fun r => r.who != c.who) = true then
        .next (s.setCmd { s.cmd with reservations := s.cmd.reservations ++ [⟨c.who, c.prio, b, c.ncores⟩] })
      else .next s
    | [] => .next s)
  | none => .next s

/-! ### Placing (R149 to R151) -/

/-- The queue served last at a priority (R151). -/
def State.serveQueue (s : State) (c : Cand) : State :=
  if h : c.prio < 4 then (if c.suspended then s else s.setCmd { s.cmd with served := s.cmd.served.set c.prio c.q }) else s

/-- A TASK node becomes an instance (R150): the instance takes over the node's lease. -/
def State.placeTask (s : State) (q idx base n : Nat) : State :=
  match s.node? q idx with
  | some x =>
    (match x.trec with
    | some r =>
      let c := s.takeCtxid
      let s1 := c.2.updNode q idx fun y => { y with phase := .running, leased := false, pins := [], ctxid := c.1, tstart := s.time }
      s1.launch
        { ctxid := c.1, pasid := x.pasid, prio := (s.queue q).prio, node := some (q, idx), stage := none, tag := 0, phase := 3
          wver := 0, var := 0, run := 0, trec := r, base := base, ncores := n, trip := 0
          wdog := wdogOf (bitsNat x.cmd.payload 96 32) s.cmd.wddef, ranges := x.ranges, walk := .start, pins := x.pins, leased := x.leased
          state := .running, resumed := false, tstart := s.time, slots := [], ending := none, io := .reset, faultQuad := none }
    | none => s)
  | none => s

def State.placeCand (s : State) (c : Cand) (base : Nat) : State :=
  let s1 := (s.serveQueue c).dropReservation c.who
  match c.who with
  | .node q idx => s1.placeTask q idx base c.ncores
  | .inst n => match s1.inst? n with
    | some i => s1.bindResume i base none
    | none => s1
  | .gang key g =>
    (s1.updStage key fun st => { st with dirty := true, gangs := st.gangs.modify g fun x => { x with base := base, bound := true } }).arm key

/-- The command processor places the first candidate that fits, on its lowest placement (R149, R151). -/
def execPlaceNode (s : State) : Out :=
  .next (match s.cands.findSome? fun c => (c.bases.find? (s.fits c)).map fun b => (c, b) with
    | some (c, b) => s.placeCand c b
    | none => s)

/-! ### Pre-emption (R153, R392, R393) -/

/-- What a core reports of its iteration, plus one: 0 in the prologue (R392); none in the epilogue. -/
def Core.reported (c : Core) : Option Nat :=
  let it := c.disp.iter.toNat
  match c.part, c.seq with
  | .prologue, _ => some 0
  | .kernel, .ready => some it
  | .kernel, _ => some (it + 1)
  | .epilogue, .ready => some it
  | .epilogue, _ => none

/-- The boundary of a request (R392); none where the request is dropped. -/
def State.boundary (s : State) (i : Inst) : Option Nat :=
  let l := i.cores.map fun k => (s.core k).reported
  if i.trip = 0 ∨ l.any (·.isNone) = true then none else some ((l.map fun x => x.getD 0).foldl max 0 - 1)

/-- A request stops the gang at one boundary (R392): a core that has just passed it stops at once. -/
def State.requestStop (s : State) (i : Inst) : State :=
  match i.state, s.boundary i with
  | .running, some b =>
    let slots := s.ctxFree.take i.ncores
    let s1 := s.updInst i.ctxid fun x => { x with state := .stopping b, slots := slots }
    let s2 := s1.setCmd { s1.cmd with slotsUsed := s1.cmd.slotsUsed ++ slots }
    s2.updCores i.cores fun c => if c.seq == .ready && c.reported == some (b + 1) then { c with seq := .stopped s.time } else c
  | _, _ => s

/-- The instances on a placement, where each of its busy cores is held by one of lower priority that runs, or is stopping
already; none where another holds one (R153). -/
def State.victims (s : State) (c : Cand) (base : Nat) : Option (List Inst) :=
  let on (i : Inst) : Bool := i.holdsCores && decide (i.base < base + c.ncores) && decide (base < i.base + i.ncores)
  let l := s.cmd.insts.filter on
  let covered (x : Nat) : Bool := s.coreFree x || l.any fun i => decide (i.base ≤ x) && decide (x < i.base + i.ncores)
  if l.all (fun i => i.onCores && decide (i.prio < c.prio)) && (List.range c.ncores).all fun j => covered (base + j) then some l else none

/-- Whether the pool takes every instance that is to be stopped (R393). -/
def State.poolTakesAll (s : State) (l : List Inst) : Bool :=
  let run := l.filter fun i => i.state == .running
  run.all s.poolTakes && decide ((run.map (·.ncores)).foldl (· + ·) 0 ≤ s.ctxFree.length)

/-- A ready node that has waited 100 µs has lower-priority work pre-empted (R153). -/
def execPreemptTimeout (cand : Nat) (s : State) : Out :=
  match s.cands[cand]? with
  | some c =>
    if c.suspended || decide (s.time < c.since + 100 * Config.usNs) then .next s
    else
      let pick (b : Nat) : Option (List Inst) :=
        if reserved c b s.cmd.reservations then none
        else match s.victims c b with
          | some l => if s.poolTakesAll l then some l else none
          | none => none
      (match c.bases.findSome? pick with
      | some l => .next (l.foldl (fun t i => t.requestStop i) s)
      | none => .next s)
  | none => .next s

/-! ### Retirement (R399) -/

/-- Messages that an instance sent and that are held are committed, in message order (R391). -/
def State.commitSent (s : State) (ctxid : Nat) : State :=
  (List.range 32).foldl (fun (t : State) i =>
    let c := chIx i
    let x := t.chan c
    let mine := x.sent.filter fun m => m.ctxid == ctxid && m.held
    let t1 := t.setChan c { x with sent := settleSent ctxid x.sent }
    mine.foldl (fun (u : State) m => u.sendOut (s.fallsBack ctxid) x.peer (.commit x.peer x.pch m.n)) t1) s

/-- An instance retires once every core is complete, its writes are performed and its Firn slots stored (R399). -/
def execRetire (ctxid : Nat) (s : State) : Out :=
  match s.inst? ctxid with
  | none => .next s
  | some i =>
    let ks := i.cores
    let writing := s.stages.slots.any fun x => x.writer == some ctxid && x.state == .writing
    if i.onCores && (ks.all fun k => (s.core k).seq == .complete && (s.core k).fault.isNone) && !writing && !s.remoteOut ks then
      let flags := s.gangFlags ks
      let s1 := ks.foldl (fun (t : State) k => t.dropL1 k) s
      let s2 := (s1.commitSent ctxid).removeInst i
      match i.node, i.stage with
      | some (q, idx), _ => .next (s2.completeNode q idx ⟨stOk, 0, 0, flags⟩)
      | none, some (key, g) => .next (s2.stepRetired key i g)
      | none, none => .next s2
    else .next s

end Sys2Proof.Machine
end

