-- ==== Sys2Proof/Machine/Channel.lean ====
section
/-! DEFINITION. Tensor channels: CSEND, CRECV, CCHST, and the events of channel ends (R363 to R368, R391). -/

namespace Sys2Proof.Machine

/-- CHANNEL with the number of the end in INFO (R381). -/
def chanTrap (ch : Nat) : Trap := ⟨.channel, 0, w64 ch⟩

/-- A copy word that does all its work at issue (R320); `held` holds it beside what R319 asks. -/
def copyNow (w : CgWord) (s : State) (deps : Issue → CDeps) (held : Issue → Bool) (body : Issue → State → Except Trap State) : Out :=
  engWord s (onEngine .c) w.tok noSkip fun i s1 =>
    if copyHeld i.c (deps i) || held i then .hold
    else match body i s1 with
      | .error t => .trap t
      | .ok s2 => .ok s2 (.plain i.upc w.tok.pt)

/-! ### The words (R365, R366, R368) -/

/-- Whether a core may send on an end, or receive on one (R364 to R366). -/
def State.mayUse (s : State) (k : Fin 128) (ch : Nat) (send : Bool) : Bool :=
  let x := s.chan (chIx ch)
  x.isSend == send && (x.state == .opened || (!send && x.state == .broken)) && x.pasid == (s.core k).pasid

/-- A tile whose rows a word moves whole: the tile, or none for tz; DIR R, no accumulator, and a TSHAPE that holds (R67, R322). -/
def Issue.rawOpnd (i : Issue) (field : Nat) (o : Opnd) : Option (Option (Fin 48)) :=
  match i.opnd field o with
  | .ok ⟨.r, .tz⟩ => some none
  | .ok ⟨.r, .tile t⟩ => if (shapeOf i.c.tshape[t]).isSome then some (some t) else none
  | _ => none

/-- CSEND (R365): the channel is checked at issue, and the rows stand ready to be sent. -/
def execCsend (w : CgWord) (s : State) : Out :=
  let m := w.mod
  copyWord w s (fun i => { rd := fieldTiles i 1 w.ops.s1, re := [m.ea] }) fun i s1 =>
    let row0 := m.row.val + i.rowoff
    let n := m.nr.val + 1
    match i.rawOpnd 1 w.ops.s1 with
    | some ref =>
      if !cuse { oc := true, ea := true, nr := true, row := true } m || 128 < row0 + n then illegal
      else if !s1.mayUse i.k m.cx.val true then .trap (chanTrap m.cx.val)
      else if (s1.chan (chIx m.cx.val)).slotBytes / 128 < n then illegal
      else
        let out (rows : List (List Byte)) : CIss := .go i.c 0 [mkReq m (.send m.cx.val ((i.c.e[m.ea]).toNat % 65536) rows)]
        (match ref with
        | none => out (List.replicate n (List.replicate 128 0))
        | some t => out ((List.range n).map fun j => i.c.tileBytes t.val (row0 + j) 0 128))
    | none => illegal

/-- CRECV (R366). -/
def execCrecv (w : CgWord) (s : State) : Out :=
  let m := w.mod
  copyWord w s (fun i => { wr := fieldTiles i 0 w.ops.d, we := [m.ec] }) fun i s1 =>
    let row0 := m.row.val + i.rowoff
    let n := m.nr.val + 1
    match i.rawOpnd 0 w.ops.d with
    | some (some t) =>
      if !cuse { dfmt := true, oc := true, ec := true, nr := true, row := true } m || 1 < m.dfmt.val || 128 < row0 + n then illegal
      else if !s1.mayUse i.k m.cx.val false then .trap (chanTrap m.cx.val)
      else if m.dfmt = 1 ∧ (s1.boundStage (chIx m.cx.val)).isSome = true then illegal
      else .go i.c 0 [mkReq m (.recv m.cx.val t.val row0 n (m.dfmt == 1) m.ec)]
    | _ => illegal

/-- The word that CCHST writes (R368). -/
def ChEnd.status (x : ChEnd) : W64 :=
  let st := match x.state with
    | .idle => 0 | .opened => 1 | .broken => 2
  let room := if x.isSend then x.window - (x.sseq - x.aseq).toNat else (x.msgs.filter fun m => !m.held && !m.cancelled && !m.read).length
  let out := if x.isSend then (x.sseq - x.aseq).toNat else (x.msgs.filter fun m => m.read && !m.released).length
  w64 (st * 2 ^ 62 + (if x.isSend then 2 ^ 61 else 0) + room % 256 * 2 ^ 40 + out % 256 * 2 ^ 32 + x.aseq.toNat)

/-- Whether an earlier CRECV of a channel has not read its message yet: the words' effects are those of their order (R318). -/
def receiving (c : Core) (ch : Nat) : Bool :=
  c.c.flight.any fun f => f.reqs.any fun r => match r.kind with
    | .recv x .. => x == ch
    | _ => false

def execCchstStat (w : CgWord) (s : State) : Out :=
  let m := w.mod
  copyNow w s (fun _ => { we := [m.ec] }) (fun i => receiving i.c m.cx.val) fun i s1 =>
    if !cuse { dfmt := true, ec := true } m || 3 < m.dfmt.val then .error badOperand
    else .ok (s1.setCore i.k (setE (s1.core i.k) m.ec (s1.chan (chIx m.cx.val)).status))

/-- The oldest messages read and not released are released (R367, R368). -/
def State.releaseOldest : Nat → State → Fin 32 → State
  | 0, s, _ => s
  | k + 1, s, c =>
    match (s.chan c).msgs.find? fun m => m.read && !m.released with
    | some m => State.releaseOldest k (s.updMsg c m.n fun x => { x with released := true }) c
    | none => s

def execCchstGrant (w : CgWord) (s : State) : Out :=
  let m := w.mod
  copyNow w s (fun _ => { re := [m.eb], we := [m.ec] }) (fun i => receiving i.c m.cx.val) fun i s1 =>
    let c := chIx m.cx.val
    let x := s1.chan c
    let k := (i.c.e[m.eb]).toNat % 128
    if !cuse { dfmt := true, eb := true, ec := true } m || 3 < m.dfmt.val || x.isSend || (s1.boundStage c).isSome || k == 0 ||
        decide ((x.rdseq - x.aseq).toNat < k) then .error badOperand
    else
      let s2 := s1.releaseOldest k c
      .ok (s2.setCore i.k (setE (s2.core i.k) m.ec (s2.chan c).status))

/-! ### Sending and reading -/

/-- Whether a request writes memory, at once or once its data has come in. -/
def Req.mayWrite (r : Req) : Bool :=
  match r.kind with
  | .write .. | .metaWrite .. | .batch .. | .flush .. => true
  | .read _ _ _ (.window ..) | .read _ _ _ (.xfer _) | .read _ _ _ (.head _) | .read _ _ _ (.body ..) => true
  | _ => false

/-- A release at pod scope waits for the writes of the copy engine before it and for every write of the core through remote pages (R350,
R367, R371). -/
def State.releaseHeld (s : State) (k : Fin 128) (a : ReqAt) : Bool :=
  (((s.eng k .c).flight.take a.f).any fun f => !f.complete && (f.wait.isBatch || f.reqs.any (·.mayWrite))) ||
  (s.fab.remote.any fun r => r.core == k.val && r.write) || s.fab.batches.any fun b => b.core == k.val

/-- Whether a core runs a step of a stage: its messages are held (R391). -/
def State.inStep (s : State) (k : Fin 128) : Bool := (s.instOf k).any (·.stage.isSome)

/-- A message takes its number and leaves once the window has room (R365). -/
def State.sendMessage (s : State) (k : Fin 128) (a : ReqAt) (ch tag : Nat) (rows : List (List Byte)) : State :=
  let c := chIx ch
  let x := s.chan c
  if !s.mayUse k ch true then s.raise k 5 a.flight.upc (chanTrap ch)
  else if s.releaseHeld k a || decide (x.window ≤ (x.sseq - x.aseq).toNat) then s
  else
    let n := x.sseq.toNat
    let held := s.inStep k
    let id := s.fab.nextRemote
    let s0 := s.setFab { s.fab with nextRemote := id + 1 }
    let s1 := s0.setChan c { x with
      sseq := x.sseq + 1, sent := x.sent ++ [⟨n, id, s.time, k.val, (s.core k).disp.ctxid.toNat, false, held⟩] }
    let s2 := s1.sendOut (s.coreFalls k) x.peer (.message id x.peer (s.incOf x.peer) x.pch ch x.w0 n tag rows held)
    (s2.replaceReq k a []).updFlight k a.f fun f => { f with wait := .message ch n }

/-- The message that a CRECV of a core reads next, by R366: on a bound end the delivered one with the step's tag, otherwise message
RDSEQ, passing over cancelled ones. -/
def State.nextMessage (s : State) (k : Fin 128) (c : Fin 32) (bound : Bool) : Option Msg :=
  let x := s.chan c
  x.msgs.find? fun m => !m.held && !m.cancelled &&
    (if bound then !m.released && m.tag == (s.core k).disp.tag.toNat
    else decide ((BitVec.ofNat 32 m.n - x.rdseq).toNat < (x.sseq - x.rdseq).toNat))

def State.recvMessage (s : State) (k : Fin 128) (a : ReqAt) (ch t row n : Nat) (ack : Bool) (ec : Fin 32) : State :=
  let c := chIx ch
  let x := s.chan c
  let bound := (s.boundStage c).isSome
  if x.state == .idle then s.raise k 5 a.flight.upc (chanTrap ch)
  else match s.nextMessage k c bound with
    | none => if bound || x.state == .broken then s.raise k 5 a.flight.upc (chanTrap ch) else s
    | some m =>
      let at_ := x.rbase + m.n % x.window * x.slotBytes
      match s.mem.poisonedAt at_ (128 * m.rows) with
      | some p => s.raise k 5 a.flight.upc (poisonTrap (w64 at_) p)
      | none =>
        let rowOf (j : Nat) : List Byte := if j < m.rows then s.mem.read (at_ + 128 * j) 128 else List.replicate 128 0
        let core := (List.range n).foldl (fun (y : Core) j => y.setTileBytes t (row + j) 0 (rowOf j)) (s.core k)
        let s1 := s.setCore k (setE core ec (w64 (m.tag * 65536 + (m.rows - 1) * 256)))
        let s2 := if bound then s1 else s1.setChan c { s1.chan c with rdseq := BitVec.ofNat 32 (m.n + 1) }
        ((s2.updMsg c m.n fun y => { y with read := true, released := y.released || ack }).replaceReq k a []).settle k a.f

/-! ### Events (R363 to R367, R391) -/

/-- An end breaks (R364): words that wait for a confirmation fault, and a stage bound to it ends. -/
def State.breakEnd (s : State) (c : Fin 32) : State :=
  let s1 := s.setChan c { s.chan c with state := .broken }
  let waits (f : Flight) : Bool := match f.wait with
    | .message ch _ => ch == c.val
    | _ => false
  let s2 := (List.range 128).foldl (fun (t : State) n =>
    let k := coreIx n
    match (t.eng k .c).flight.find? waits with
    | some f => t.raise k 5 f.upc (chanTrap c.val)
    | none => t) s1
  match s2.boundStage c with
  | some (st, _) => s2.failStage st 0 (chanTrap c.val)
  | none => s2

def execChannelBroken (c : Nat) (s : State) : Out :=
  .next (if c < 32 ∧ (s.chan (chIx c)).state = .opened then s.breakEnd (chIx c) else s)

/-- The bits of word 0 that a write sets (R363). -/
def chMask : W64 := 0xC00FFFFFFFFFFFF0#64

/-- Writing V = 1: the end is OPEN and its counts are 0 (R363). -/
def execChannelEndOpen (c : Nat) (w0 : W64) (s : State) : Out :=
  .next (if c < 32 ∧ w0.getLsbD 63 = true then
    s.setChan (chIx c) { s.chan (chIx c) with
      w0 := w0 &&& chMask, state := .opened, sseq := 0, aseq := 0, rdseq := 0, msgs := [], sent := [] }
  else s)

/-- Writing V = 0: the end is IDLE (R363). -/
def execChannelEndClose (c : Nat) (w0 : W64) (s : State) : Out :=
  .next (if c < 32 ∧ w0.getLsbD 63 = false then
    s.setChan (chIx c) { s.chan (chIx c) with w0 := w0 &&& chMask, state := .idle }
  else s)

/-- A message is delivered and no longer held: it enters the arrival queue of the stage that the end is bound to (R159, R391). -/
def State.arriveMessage (s : State) (c : Fin 32) (n tag : Nat) : State :=
  match s.boundStage c with
  | some (st, q) => s.arriveTag st.key q tag c.val (some n)
  | none => s

/-- A held message is committed, or cancelled: then it counts at once as delivered and released (R391). -/
def State.settleMessage (s : State) (c : Fin 32) (m : Msg) (cancel : Bool) : State :=
  if cancel then
    let s1 := s.updMsg c m.n fun x => { x with held := false, cancelled := true, released := true }
    let x := s1.chan c
    if (x.aseq - x.rdseq).toNat < 2 ^ 31 then s1.setChan c { x with rdseq := x.aseq } else s1
  else (s.updMsg c m.n fun x => { x with held := false }).arriveMessage c m.n m.tag

/-- Whether the two ends of a channel agree (R364): PASID, LOG2SZ, NSLOT, roles and channel numbers. `w0` is word 0 of the sending end,
which is end `srcCh` of package `src`. -/
def State.endsAgree (s : State) (c : Fin 32) (src srcCh : Nat) (w0 : W64) : Bool :=
  let x := s.chan c
  let y : ChEnd := { x with w0 := w0 }
  y.isSend && !x.isSend && y.pasid == x.pasid && y.slotBytes == x.slotBytes && y.window == x.window &&
    x.peer == src && x.pch == srcCh && y.peer == s.pkg && y.pch == c.val

/-- A new message (R364, R365): its rows are written to its slot and its delivery is confirmed. An end that is not OPEN refuses it;
ends that disagree break. -/
def State.newMessage (s : State) (c : Fin 32) (src srcCh : Nat) (w0 : W64) (n tag : Nat) (rows : List (List Byte)) (held : Bool) : State :=
  let x := s.chan c
  let refuse (t : State) : State := t.send (.refusal src srcCh n)
  if x.state ≠ .opened then refuse s
  else if !s.endsAgree c src srcCh w0 then refuse (s.breakEnd c)
  else if BitVec.ofNat 32 n ≠ x.aseq + BitVec.ofNat 32 x.msgs.length ∨ rows.isEmpty = true ∨ x.slotBytes / 128 < rows.length
      ∨ rows.any (fun r => r.length != 128) = true then s
  else
    let s1 := s.setMem (s.mem.write (x.rbase + n % x.window * x.slotBytes) rows.flatten)
    let s2 := s1.setChan c { x with msgs := x.msgs ++ [⟨n, tag, rows.length, held, false, false, false⟩] }
    let s3 := (s2.updMsg c n id).send (.confirm src srcCh n)
    if held then s3 else s3.arriveMessage c n tag

/-- Something reaches a receiving end from the package and channel named, made for an incarnation of this package (R365, R389, R391): a
new message, with word 0 of its sending end; or, for a message that is held, its commit (not `held`), or its cancellation. -/
def execMessageDelivered (c src : Nat) (end_ : SendingEnd) (n tag : Nat) (rows : List (List Byte)) (held cancel : Bool) (s : State) : Out :=
  if 32 ≤ c then .next s
  else
    let ci := chIx c
    .next (s.fromPeer src end_.inc fun t =>
      match (t.chan ci).msgs.find? fun m => m.n == n && m.held with
      | some m =>
        if (t.chan ci).peer == src && (t.chan ci).pch == end_.ch && (!held || cancel) then t.settleMessage ci m cancel else t
      | none => if cancel then t else t.newMessage ci src end_.ch end_.w0 n tag rows held)

/-- Delivery is confirmed to the sender, and the CSEND is complete (R365). -/
def execMessageConfirm (c n : Nat) (s : State) : Out :=
  if 32 ≤ c then .next s
  else
    let x := s.chan (chIx c)
    match x.sent.find? (·.n == n) with
    | none => .next s
    | some m =>
      let l := (x.sent.map fun y => if y.n = n then { y with confirmed := true } else y).filter fun y => !y.confirmed || y.held
      let s1 := s.setChan (chIx c) { x with sent := l }
      let k := coreIx m.core
      let y := s1.eng k .c
      .next (s1.setEng k .c { y with
        flight := y.flight.map fun f => if f.wait = .message c n then { f with wait := .none } else f })

/-- The sender learns a new ASEQ (R367). -/
def execAckReceive (c aseq : Nat) (s : State) : Out :=
  if 32 ≤ c then .next s
  else
    let x := s.chan (chIx c)
    let a : W32 := BitVec.ofNat 32 aseq
    .next (if x.isSend ∧ (a - x.aseq).toNat ≤ (x.sseq - x.aseq).toNat then s.setChan (chIx c) { x with aseq := a } else s)

end Sys2Proof.Machine
end

