-- ==== Sys2Proof/Machine/Batch.lean ====
section
/-! DEFINITION. Batched remote atomics (R361, R362). -/

namespace Sys2Proof.Machine

/-- The operator of a code (R361). -/
def batchOp (code : Nat) : Option AtomicOp :=
  match code with
  | 0 => some .swap | 1 => some .add | 2 => some .and | 3 => some .or | 4 => some .xor
  | 5 => some .min | 6 => some .max | 7 => some .minu | 8 => some .maxu | 9 => some .fadd | _ => none

/-- The pairings of format and operator (R361). -/
def batchPair (f : Fmt) (op : AtomicOp) : Bool :=
  match f with
  | .int32 => op != .fadd
  | .fp32 => op == .fadd || op == .swap
  | _ => false

/-- A misaligned base, stride or return address (R361). -/
def batchAlign (i : Issue) (m : ModCG) (ret : Bool) : Option Trap :=
  match rowAlign i.c.e[m.ea] i.c.e[m.eb] 4 with
  | some t => some t
  | none => if ret && !isAligned i.c.e[m.ec] 128 then some (.at .align i.c.e[m.ec]) else none

/-- CBAT (R361): operands and addresses are taken at issue. -/
def execCbat (w : CgWord) (s : State) : Out :=
  let m := w.mod
  copyWord w s (fun i => { rd := fieldTiles i 1 w.ops.s1 ++ fieldTiles i 2 w.ops.s2, re := [m.ea, m.eb, m.ec] }) fun i s1 =>
    let row0 := m.row.val + i.rowoff
    let n := m.nr.val + 1
    let ret := m.cx.val / 16 == 1
    match fmtIn m.fmt.val [.int32, .fp32], batchOp (m.cx.val % 16) with
    | some f, some op =>
      (match i.rowOp 1 w.ops.s1 f, i.tileOp 2 w.ops.s2 [.r] indexFmts .int32 with
      | some a, some ix =>
        if !cuse { fmt := true, oc := true, ea := true, eb := true, ec := true, nr := true, row := true } m || !batchPair f op ||
            64 < n || 128 < row0 + n then illegal
        else match indexVals i ix n, batchAlign i m ret with
          | none, _ => illegal
          | some _, some t => .trap t
          | some xs, none =>
            let cols := a.sh.cols + 1
            let rows : List (Option W64 × List W32) := xs.zipIdx.map fun x =>
              (if x.1 < 0 then none else some (i.c.e[m.ea] + w64 x.1.toNat * i.c.e[m.eb]),
                (extentRow i.c a (row0 + x.2) cols).map (BitVec.ofNat 32))
            let acc := rows.filterMap fun r => r.1.map fun ad => (ad, 4 * cols)
            let img : W64 := i.c.e[m.ec]
            let out := if ret then (List.range n).map fun k => (img + w64 (128 * k), 4 * cols) else []
            goChecked s1 i true (acc ++ out) i.c 0 [mkReq m (.batch op rows (if ret then some img else none))]
      | _, _ => illegal)
    | _, _ => illegal

/-! ### Where the rows lie (R361) -/

/-- The aperture entry of a virtual address, none on a page that is not remote. -/
def State.entryOf (s : State) (k : Fin 128) (va : Nat) : Option Nat :=
  match (s.translate (some k) (s.core k).pasid va).1 with
  | .leaf log2 l => if l.rmt then some (bitsNat (l.ma + va % 2 ^ log2) 42 6) else none
  | _ => none

/-- Where a batch goes: this package, or another one by its aperture entry, with the target and its incarnation. -/
inductive BatchTo where
  | here
  | remote (entry target inc : Nat)
  deriving DecidableEq, Repr

/-- The pieces of one row: where each goes, its address there, and how many elements it takes. -/
def State.rowPieces (s : State) (k : Fin 128) (ea : W64) : List (Dest × Nat) → Nat → Except Trap (List (BatchTo × Nat × Nat))
  | [], _ => .ok []
  | (d, n) :: t, off =>
    match s.rowPieces k ea t (off + n) with
    | .error e => .error e
    | .ok l =>
      match d with
      | .here flat false => .ok ((.here, flat, n / 4) :: l)
      | .here _ true => .error (.at .perm ea)
      | .remote target inc addr =>
        match s.entryOf k (ea.toNat + off) with
        | some e => .ok ((.remote e target inc, addr, n / 4) :: l)
        | none => .error (.at .perm ea)

/-- The rows as they travel: the one place they go to, and for each row of the word its pieces. -/
def State.batchRows (s : State) (k : Fin 128) (dst : Option BatchTo) :
    List (Option W64 × List W32) → Except Trap (Option BatchTo × List (List BatchRow) × State)
  | [] => .ok (dst, [], s)
  | (none, _) :: t =>
    match s.batchRows k dst t with
    | .ok (d, l, s1) => .ok (d, [] :: l, s1)
    | .error e => .error e
  | (some ea, es) :: t =>
    match spaceOf k ea with
    | some (.virt va) =>
      (match s.virtual k va (4 * es.length) .batch with
      | .error e => .error e
      | .ok (ds, s1) =>
        match s1.rowPieces k ea ds 0 with
        | .error e => .error e
        | .ok ps =>
          let first := match dst with
            | some d => d
            | none => match ps with
              | p :: _ => p.1
              | [] => .here
          if ps.all fun p => p.1 == first then
            match s1.batchRows k (some first) t with
            | .ok (d, l, s2) => .ok (d, cut es ps :: l, s2)
            | .error e => .error e
          else .error (.at .perm ea))
    | _ => .error (.at .perm ea)
where
  cut (es : List W32) : List (BatchTo × Nat × Nat) → List BatchRow
    | [] => []
    | (_, a, n) :: t => ⟨a, es.take n⟩ :: cut (es.drop n) t

/-! ### Applying rows (R355, R361) -/

/-- The elements of a row are applied in order; none where one is poisoned. -/
def applyElems (op : AtomicOp) (m : MemSide) (a : Nat) : List W32 → Option (List W32 × MemSide)
  | [] => some ([], m)
  | e :: t =>
    if (m.poisonedAt a 4).isSome then none
    else
      let old := m.num a 4
      match applyElems op (m.setNum a 4 (atomicOp op 32 old e.toNat 0)) (a + 4) t with
      | some (l, m2) => some (BitVec.ofNat 32 old :: l, m2)
      | none => none

/-- Rows are applied in order up to the first that meets poison: the old values of those applied, and that row's address. -/
def applyRows (op : AtomicOp) (m : MemSide) : List BatchRow → List (List W32) × MemSide × Option Nat
  | [] => ([], m, none)
  | r :: t =>
    match applyElems op m r.addr r.elems with
    | none => ([], m, some r.addr)
    | some (old, m1) =>
      let x := applyRows op m1 t
      (old :: x.1, x.2.1, x.2.2)

/-- The return image: for each row the old values of its pieces, zeros without a request (R361). -/
def imageRows (cols : Nat) : List Nat → List (List W32) → List (List W32)
  | [], _ => []
  | 0 :: t, l => List.replicate cols 0 :: imageRows cols t l
  | n :: t, l => (l.take n).flatten :: imageRows cols t (l.drop n)

/-- The writes of a return image. -/
def imageWrites (ret : Option W64) (rows : List (List W32)) : List ReqKind :=
  match ret with
  | none => []
  | some a => rows.zipIdx.map fun r => .write (a + w64 (128 * r.2)) (r.1.flatMap fun v => leBytesOf 4 v.toNat) []

/-- The next batch id for a target (R362). -/
def State.takeBatchId (s : State) (target : Nat) : Nat × State :=
  let n := sget 0 s.fab.batchId target
  (n, s.setFab { s.fab with batchId := sset 0 s.fab.batchId target ((n + 1) % 2 ^ 32) })

/-- A batch is applied here, or sent once fewer than 256 to its target lack a reply (R361, R362). -/
def State.sendBatch (s : State) (k : Fin 128) (a : ReqAt) (op : AtomicOp) (rows : List (Option W64 × List W32)) (ret : Option W64) : State :=
  match s.batchRows k none rows with
  | .error t => s.raise k 5 a.flight.upc t
  | .ok (dst, parts, s1) =>
    let counts := parts.map (·.length)
    let cols := (rows.headD (none, [])).2.length
    let ea := (rows.findSome? (·.1)).getD 0
    match dst with
    | some (.remote _ target inc) =>
      if 256 ≤ (s1.fab.batches.filter fun b => b.target == target).length then s1
      else
        let r := s1.takeBatchId target
        let b : Batch :=
          { id := r.1, serial := r.2.fab.nextRemote, target := target, inc := inc, core := k.val, upc := a.flight.upc, ea := ea, op := op
            rows := parts.flatten, parts := counts, cols := cols, ret := ret, cls := a.req.cls, first := s.time, last := s.time }
        let s2 := (r.2.setFab { r.2.fab with nextRemote := r.2.fab.nextRemote + 1, batches := r.2.fab.batches ++ [b] }).sendOut (s.coreFalls k) target
          (.batch target inc r.1 op b.rows)
        (s2.replaceReq k a []).updFlight k a.f fun f => { f with wait := .batch target r.1 }
    | _ =>
      let x := applyRows op s1.mem parts.flatten
      let s2 := s1.setMem x.2.1
      match x.2.2 with
      | some at_ => s2.raise k 5 a.flight.upc (poisonTrap ea (at_ / 64))
      | none => (s2.replaceReq k a (imageWrites ret (imageRows cols counts x.1))).settle k a.f

/-! ### Events (R362) -/

/-- The target's side: a batch is applied once, and answered from the replay table when it comes again (R362, R389); a row in a
NONE region is refused (R298). -/
def execBatchReceive (src inc id : Nat) (op : AtomicOp) (rows : List BatchRow) (s : State) : Out :=
  .next (s.fromPeer src inc fun s =>
    match s.fab.replay.find? fun r => r.src == src && r.id % 256 == id % 256 && r.id == id with
    | some r => s.send (.batchReply src id r.reply)
    | none =>
      match rows.find? fun r => s.mem.gradeAt r.addr == gradeNone with
      | some r => s.send (.remoteRefused src r.addr)
      | none =>
        let x := applyRows op s.mem rows
        let s1 := s.setMem x.2.1
        (s1.setFab { s1.fab with
          replay := s1.fab.replay.filter (fun r => !(r.src == src && r.id % 256 == id % 256)) ++ [⟨src, id, x.1⟩] }).send
            (.batchReply src id x.1))

def State.dropBatch (s : State) (b : Batch) : State :=
  s.setFab { s.fab with batches := s.fab.batches.filter fun x => x.serial != b.serial }

/-- The reply arrives (R361): the return image stands to be written, or the word faults at a poisoned sector. -/
def execBatchReply (target id : Nat) (old : List (List W32)) (s : State) : Out :=
  match s.fab.batches.find? fun b => b.target == target && b.id == id && !s.waitsOut (.batch target b.inc id b.op b.rows) with
  | none => .next s
  | some b =>
    let k := coreIx b.core
    let s1 := s.dropBatch b
    if old.length < b.rows.length then .next (s1.raise k 5 b.upc (poisonTrap b.ea remoteSector))
    else
      let ws := (imageWrites b.ret (imageRows b.cols b.parts old)).map fun x => s1.newReq b.cls x
      let y := s1.eng k .c
      .next (s1.setEng k .c { y with
        flight := y.flight.map fun f => if f.wait = .batch target id then { f with wait := .none, reqs := f.reqs ++ ws } else f })

/-- A batch that has had no reply for 5 µs is sent again under its id (R362). -/
def execBatchResend (target id : Nat) (s : State) : Out :=
  match s.fab.batches.find? fun b => b.target == target && b.id == id with
  | none => .next s
  | some b =>
    if s.time < b.last + 5 * Config.usNs || s.waitsOut (.batch target b.inc id b.op b.rows) then .next s
    else
      let s1 := s.setFab { s.fab with batches := s.fab.batches.map fun x => if x.serial = b.serial then { x with last := s.time } else x }
      .next (s1.sendOut (s.coreFalls (coreIx b.core)) target (.batch target b.inc id b.op b.rows))

end Sys2Proof.Machine
end

