-- ==== Sys2Proof/Machine/Ring.lean ====
section
/-! DEFINITION. Groups and the data-parallel ring: what a collective at this member is, and CRING (R357, R358, R369 to R371). -/

namespace Sys2Proof.Machine

/-! ### Groups (R357, R358) -/

/-- The checks of R358 on the use of a group under a PASID: this member's rank and the members less one. -/
def State.groupUse (s : State) (pasid g : Nat) : Except Trap (Nat × Nat) :=
  let w := s.groupWord g 0
  let rank := bitsNat w 20 12
  if bitsNat w 63 1 = 0 ∨ bitsNat w 32 20 ≠ pasid then .error (.plain .perm)
  else if s.memberPkg g rank ≠ s.pkg then .error groupTrap
  else .ok (rank, bitsNat w 8 12)

/-- The rank after this one holds the package at the ring-east port (R369). -/
def State.ringEastOk (s : State) (g rank nmem : Nat) : Bool :=
  nmem == 0 || s.memberPkg g ((rank + 1) % (nmem + 1)) == s.fab.ringEast

/-- The checks of R358 and R369 on the use of a group by a CRING. -/
def State.ringUse (s : State) (pasid g : Nat) : Except Trap (Nat × Nat) :=
  match s.groupUse pasid g with
  | .error t => .error t
  | .ok (rank, nmem) => if s.ringEastOk g rank nmem then .ok (rank, nmem) else .error groupTrap

/-! ### Collectives at this member -/

/-- A member runs one collective of a group at a time (R358). -/
def State.groupColl (s : State) (g : Nat) : Option Coll := s.fab.colls.find? (·.group == g)

/-- A new collective takes a number. -/
def State.openColl (s : State) (c : Coll) : State :=
  s.setFab { s.fab with nextRemote := s.fab.nextRemote + 1, colls := s.fab.colls ++ [{ c with id := s.fab.nextRemote }] }

/-- A collective ends at this member by a fault of its word or its node (R358, R371, R372). -/
def State.failColl (s : State) (c : Coll) (t : Trap) : State :=
  let s1 := s.setFab { s.fab with colls := s.fab.colls.filter fun x => x.id != c.id }
  match c.core, c.node with
  | some (k, _), _ => s1.raise (coreIx k) 5 c.upc t
  | none, some (q, idx) => s1.failNode q idx c.pasid t
  | none, none => s1

/-- Writes of a collective that go one after the other: address and data. -/
abbrev CollWrites := List (W64 × List Byte)

/-- The writes of a COLL node under its lease (R372). -/
def State.nodeWrites (s : State) (who : RemoteFor) (pasid : Nat) (ranges : List LeaseRange) : CollWrites → Except Trap State
  | [] => .ok s
  | (a, bs) :: t =>
    match s.virtualAs pasid ranges a.toNat bs.length .write with
    | .error e => .error e
    | .ok (ds, s1) => (s1.writeAs who pasid a.toNat bs [] ds 0).nodeWrites who pasid ranges t

/-- A COLL node whose writes are made and performed tells the members of a Drift, and ends once they have written its records (R372,
R377). -/
def State.settleColl (s : State) (c : Coll) (q idx : Nat) : State :=
  if !c.wrote || !(s.ioOf (.node q idx)).out.isEmpty then s
  else
    let s1 := if c.drift.any (!·.told) then s.tellWritten c.id else s
    if s1.collDone c.id then (s1.dropColl c.id).setPhase q idx (.ended (.status! stOk)) else s1

/-- A word whose end waits for the members of a Drift goes on (R377). -/
def State.settleWord (s : State) (k : Fin 128) (id : Nat) : State :=
  let ends (r : Req) : Bool := match r.kind with
    | .collEnd n => n == id
    | _ => false
  match (s.eng k .c).flight.findIdx? fun f => f.reqs.any ends with
  | some f => s.settle k f
  | none => s

/-- What a change of a collective lets its word or its node do. -/
def State.collProgress (s : State) (id : Nat) : State :=
  match s.fab.colls.find? (·.id == id) with
  | none => s
  | some c =>
    match c.core, c.node with
    | some (k, _), _ => s.settleWord (coreIx k) id
    | none, some (q, idx) => s.settleColl c q idx
    | none, none => s

/-- A collective has its results: its word is left with the writes to make, its flags, and the status (R371, R377); a COLL node's are
made at once, and it goes on once they are performed (R372). -/
def State.endColl (s : State) (c : Coll) (ws : CollWrites) (flags : Fl) (status : Option W64) : State :=
  match c.core, c.node with
  | some (k, ec), _ =>
    let st : List ReqKind := match status with
      | some v => [.setE ec v]
      | none => []
    let tell : List ReqKind := if c.drift.isSome then [.collTell c.id] else []
    let ks : List ReqKind := ws.map (fun w => .write w.1 w.2 []) ++ tell ++ [.collEnd c.id] ++ st
    let y := s.eng (coreIx k) .c
    s.setEng (coreIx k) .c { y with
      flight := y.flight.map fun f => if f.wait = .coll c.id then
        { f with wait := .none, flags := f.flags ||| flags, reqs := f.reqs ++ ks.map (s.newReq c.cls) } else f }
  | none, some (q, idx) =>
    (match s.nodeWrites (.node q idx) c.pasid c.ranges ws with
    | .error t => s.failColl c t
    | .ok s1 => (s1.updColl c.id fun x => { x with wrote := true }).collProgress c.id)
  | none, none => s

/-! ### CRING (R369, R370) -/

def ringFmts : List Fmt := [.fp32, .bf16, .fp16, .int32]

/-- The pairs of formats of R369. -/
def ringPair (op : Nat) (f g : Fmt) : Bool :=
  if op = 2 then f == g else if f == .int32 then g == .int32 else [Fmt.fp32, .bf16, .fp16].contains g

/-- The checks of a CRING on its fields and on e[EC] (R369): count and group. -/
def ringArgs (op cx : Nat) (f g : Fmt) (ec : Nat) : Option (Nat × Nat) :=
  let n := bitsNat ec 0 32
  if cx ≠ op ∨ ringPair op f g = false ∨ ec / 2 ^ 36 ≠ 0 ∨ n = 0 ∨ 2 ^ 31 ≤ n then none else some (n, bitsNat ec 32 4)

/-- CRING (R369): operands are taken at issue. -/
def ringWord (op : Nat) (w : CgWord) (s : State) : Out :=
  let m := w.mod
  copyWord w s (fun _ => { re := [m.ea, m.eb, m.ec] }) fun i s1 =>
    match fmtIn m.fmt.val ringFmts, fmtIn m.dfmt.val ringFmts with
    | some f, some g =>
      let src := i.c.e[m.ea]
      let dst := i.c.e[m.eb]
      (match ringArgs op m.cx.val f g (i.c.e[m.ec]).toNat with
      | none => illegal
      | some (n, group) =>
        if !cuse { fmt := true, dfmt := true, oc := true, ea := true, eb := true, ec := true } m then illegal
        else if !isAligned src (elemBytes f) then .trap (.at .align src)
        else if !isAligned dst (elemBytes g) then .trap (.at .align dst)
        else match s1.issueCheck i.k src (rowLen f n) false, s1.issueCheck i.k dst (rowLen g n) true with
          | some t, _ => .trap t
          | none, some t => .trap t
          | none, none => .go i.c 0 [mkReq m (.ring op f g n src dst group i.env.ftzn)])
    | _, _ => illegal

def execCringSum (w : CgWord) (s : State) : Out := ringWord 0 w s
def execCringMax (w : CgWord) (s : State) : Out := ringWord 1 w s
def execCringBcast (w : CgWord) (s : State) : Out := ringWord 2 w s

/-- FTZ32 plays no part in CRING, and FTZN only in decoding a member's own source (R370). -/
def ringEnv : NumEnv := ⟨false, false⟩

/-- The elements of a source decoded to FP32, or INT32 (R370). -/
def ringDecode (ftzn : Bool) (f : Fmt) (n : Nat) (bs : List Byte) : List W32 :=
  (unpackRow f.width n bs).map fun b => BitVec.ofNat 32 (convert { ringEnv with ftzn := ftzn } f (if f == .int32 then .int32 else .fp32) .rne false b).1

/-- One step of the running value (R370): of two equal values under `.max` the running one stays (log entry 25). -/
def ringStep (op : Nat) (f : Fmt) (v x : W32) : W32 × Fl :=
  if op = 2 then (v, 0)
  else if f == .int32 then (if op = 0 then sat32 (v.toInt + x.toInt) else (if v.toInt < x.toInt then x else v, 0))
  else
    let a := val32 ringEnv v
    let b := val32 ringEnv x
    if op = 0 then add32 ringEnv a b
    else
      let r := if cmpR44 a b == .lt then x else v
      (if (val32 ringEnv r).isNaN then BitVec.ofNat 32 (canonNaN .fp32) else r, flIf (a.nonFinite || b.nonFinite) flNF)

/-- The running values after the terms of every member, in rank order (R370). -/
def ringFold (op : Nat) (f : Fmt) : List W32 × Fl → List (List W32) → List W32 × Fl
  | x, [] => x
  | (v, fl), l :: t =>
    let r := (v.zip l).map fun p => ringStep op f p.1 p.2
    ringFold op f (r.map (·.1), r.foldl (fun h e => h ||| e.2) fl) t

/-- The values of rank 0 to P - 1 in order. -/
def ringTermsOf (l : List RingTerms) (members : Nat) : List (List W32) :=
  (List.range members).map fun r => ((l.find? (·.rank == r)).map (·.elems)).getD []

/-- The destination's bytes and the flags of the whole collective (R370). -/
def ringResult (x : RingRun) (members : Nat) : List Byte × Fl :=
  match ringTermsOf x.terms members with
  | [] => ([], 0)
  | t0 :: t =>
    let v := ringFold x.op x.fs (t0, 0) t
    let es := v.1.map fun b => convert ringEnv (if x.fs == .int32 then .int32 else .fp32) x.fd .rne false b.toNat
    (packRow x.fd.width (es.map (·.1)), es.foldl (fun h e => h ||| e.2) v.2)

/-- A collective ends once the terms of every member have come (R370, R371). -/
def State.ringProgress (s : State) (id : Nat) : State :=
  match s.fab.colls.find? (·.id == id) with
  | none => s
  | some c =>
    match c.ring with
    | none => s
    | some x =>
      if (List.range (c.nmem + 1)).all fun r => x.terms.any (·.rank == r) then
        let o := ringResult x (c.nmem + 1)
        s.endColl c [(x.dst, o.1)] o.2 none
      else s

/-- Terms go to the ring-east neighbour (R369, R370). -/
def State.sendEast (s : State) (c : Coll) (x : RingTerms) : State :=
  let east := (c.rank + 1) % (c.nmem + 1)
  if c.nmem = 0 then s else s.send (.ringTerms c.group east (s.incOf (s.memberPkg c.group east)) x)

/-- A CRING begins at this member with its own terms, which travel east (R370). -/
def State.beginRing (s : State) (c : Coll) (x : RingRun) (ftzn : Bool) (bs : List Byte) : State :=
  let own : RingTerms := ⟨c.rank, ringDecode ftzn x.fs x.n bs⟩
  let id := s.fab.nextRemote
  let s1 := s.openColl { c with ring := some { x with terms := [own] } }
  (s1.sendEast c own).ringProgress id

/-- The source of a CRING word is read (R358, R371): after the core's writes before it, and once the group's collective before it has
completed here. -/
def State.startRing (s : State) (k : Fin 128) (a : ReqAt) (op : Nat) (fs fd : Fmt) (n : Nat) (src dst : W64) (group : Nat) (ftzn : Bool) :
    State :=
  if s.releaseHeld k a || (s.groupColl group).isSome then s
  else match s.ringUse (s.core k).pasid group with
    | .error t => s.raise k 5 a.flight.upc t
    | .ok (rank, nmem) =>
      match s.readReq k a src (rowLen fs n) with
      | .trap t => s.raise k 5 a.flight.upc t
      | .wait s1 => s1
      | .all _ _ (some sec) s1 => s1.raise k 5 a.flight.upc (poisonTrap src sec)
      | .all bs _ none s1 =>
        let id := s1.fab.nextRemote
        let s2 := (s1.replaceReq k a []).updFlight k a.f fun f => { f with wait := .coll id }
        let c : Coll := ⟨0, group, rank, nmem, some (k.val, 0), none, (s.core k).pasid, [], a.flight.upc, a.req.cls, none, none, false⟩
        s2.beginRing c ⟨op, fs, fd, n, src, dst, []⟩ ftzn bs

/-- The terms of a member come from the ring-west neighbour, in a message made for an incarnation of this package: they are kept, and
pass on until every member has them (R370, R389). A neighbour out of order, or a collective that differs, faults CHANNEL (R358, R369,
R371). -/
def execRingChunkReceive (group : Nat) (sender : Sender) (terms : RingTerms) (agrees : Bool) (s : State) : Out :=
  .next (s.fromPeer (s.memberPkg group sender.member) sender.inc fun s =>
    match s.groupColl group with
    | none => s
    | some c =>
      match c.ring with
      | none => s.failColl c groupTrap
      | some x =>
        if agrees = false ∨ sender.member ≠ (c.rank + c.nmem) % (c.nmem + 1) ∨ terms.elems.length ≠ x.n ∨ c.nmem < terms.rank then
          s.failColl c groupTrap
        else if x.terms.any (·.rank == terms.rank) then s
        else
          let s1 := s.updColl c.id fun y => { y with ring := some { x with terms := x.terms ++ [terms] } }
          let s2 := if terms.rank = (c.rank + 1) % (c.nmem + 1) then s1 else s1.sendEast c terms
          s2.ringProgress c.id)

end Sys2Proof.Machine
end

