-- ==== Sys2Proof/Machine/Drift.lean ====
section
/-! DEFINITION. Drift: CREPART, and its exchange with the other members (R373 to R377). -/

namespace Sys2Proof.Machine

/-! ### The descriptor (R373, R374) -/

/-- The 64 bytes of a descriptor as a number. -/
def readDrift (v : Nat) : DriftDesc :=
  let f (off n : Nat) : Nat := bitsNat v (8 * off) n
  let cfg := f 0x30 32
  { sbuf := f 0x00 64, rbuf := f 0x08 64, obuf := f 0x10 64, nrec := f 0x18 32, rcap := f 0x1C 32, ocap := f 0x20 32, rsize := f 0x24 16
    xoff := f 0x26 16, yoff := f 0x28 16, zoff := f 0x2A 16, woff := f 0x2C 16, koff := f 0x2E 16, kout := bitsNat cfg 31 1 == 1
    wgt := bitsNat cfg 30 1 == 1, group := bitsNat cfg 26 4, bb := bitsNat cfg 22 4, order := bitsNat cfg 18 4, kmode := bitsNat cfg 16 2
    d3 := bitsNat cfg 15 1 == 1, cfmt := bitsNat cfg 11 4, res := f 0x38 64 }

/-- Bytes of a coordinate; 0 for a format that is none (R373). -/
def DriftDesc.coordBytes (d : DriftDesc) : Nat :=
  match fmtIn d.cfmt [.uint8, .int16, .int32] with
  | some f => f.width / 8
  | none => 0

def DriftDesc.dims (d : DriftDesc) : Nat := if d.d3 then 3 else 2
/-- The curve order and the key width W (R374). -/
def DriftDesc.k (d : DriftDesc) : Nat := d.order + 1
def DriftDesc.width (d : DriftDesc) : Nat := if d.kmode ≤ 1 then d.dims * d.k else 32
def DriftDesc.bins (d : DriftDesc) : Nat := 2 ^ (d.bb + 1)

/-- A field of a record is aligned to its size and lies within the record. -/
def DriftDesc.fieldOk (d : DriftDesc) (off n : Nat) : Bool := off % n == 0 && decide (off + n ≤ d.rsize)

/-- Whether two runs of bytes overlap. -/
def runsMeet (a n b m : Nat) : Bool := decide (a < b + m) && decide (b < a + n)

/-- The rules of R374. -/
def DriftDesc.ok (d : DriftDesc) (v : Nat) : Bool :=
  let sn := d.nrec * d.rsize
  let rn := d.rcap * d.rsize
  let on := d.ocap * d.rsize
  bitsNat v (8 * 0x30) 11 == 0 && bitsNat v (8 * 0x34) 32 == 0 && d.rsize % 16 == 0 && decide (16 ≤ d.rsize) && decide (d.rsize ≤ 4096) &&
  (decide (1 < d.kmode) || (d.coordBytes != 0 && d.fieldOk d.xoff d.coordBytes && d.fieldOk d.yoff d.coordBytes &&
    (!d.d3 || d.fieldOk d.zoff d.coordBytes) && (!d.d3 || decide (d.k ≤ 10)))) &&
  (!d.wgt || d.fieldOk d.woff 4) && (!(d.kout || decide (1 < d.kmode)) || d.fieldOk d.koff 4) &&
  (d.kmode == 3 || decide (d.bb + 1 ≤ d.width)) && !(d.kout && decide (1 < d.kmode)) &&
  d.sbuf % 16 == 0 && d.rbuf % 16 == 0 && d.obuf % 16 == 0 &&
  !(sn != 0 && rn != 0 && runsMeet d.sbuf sn d.rbuf rn) && !(sn != 0 && on != 0 && runsMeet d.sbuf sn d.obuf on) &&
  !(rn != 0 && on != 0 && runsMeet d.rbuf rn d.obuf on)

/-- Bytes of the result block for P members (R376). -/
def resBytes (members : Nat) : Nat := 0x40 + 4 * members + 4 * (members - 1)

/-- The ranges that Drift writes: three buffers and the result block (R374). -/
def DriftDesc.areas (d : DriftDesc) (members : Nat) : List (W64 × Nat) :=
  [(w64 d.sbuf, d.nrec * d.rsize), (w64 d.rbuf, d.rcap * d.rsize), (w64 d.obuf, d.ocap * d.rsize)].filter (·.2 != 0) ++
    [(w64 d.res, resBytes members)]

/-- The checks of a descriptor once it is read (R358, R374): this member's rank and the members less one. -/
def State.driftCheck (s : State) (pasid : Nat) (d : DriftDesc) (v : Nat) (area : W64 × Nat → Option Trap) : Except Trap (Nat × Nat) :=
  if !d.ok v then .error badOperand
  else if d.res % 64 ≠ 0 then .error (.at .align (w64 d.res))
  else match s.groupUse pasid d.group with
    | .error t => .error t
    | .ok (rank, nmem) =>
      match (d.areas (nmem + 1)).findSome? area with
      | some t => .error t
      | none => .ok (rank, nmem)

/-! ### CREPART (R373) -/

def execCrepart (w : CgWord) (s : State) : Out :=
  let m := w.mod
  copyWord w s (fun _ => { re := [m.ea], we := [m.ec] }) fun i s1 =>
    let a := i.c.e[m.ea]
    if !cuse { oc := true, ea := true, ec := true } m || m.cx != 0 then illegal
    else if !isAligned a 64 then .trap (.at .align a)
    else goChecked s1 i false [(a, 64)] i.c 0 [mkReq m (.drift a m.ec)]

/-! ### Keys, loads and splitters (R375 steps 1 to 4) -/

/-- A field of a record. -/
def recField (bs : List Byte) (off n : Nat) : Nat := leNum ((bs.drop off).take n)

/-- The key of a record, bit-identical to VSFC's (R278, R375). -/
def DriftDesc.key (d : DriftDesc) (bs : List Byte) : Nat :=
  if d.kmode ≤ 1 then
    let n := d.coordBytes
    let cs := ([d.xoff, d.yoff] ++ (if d.d3 then [d.zoff] else [])).map fun o => recField bs o n % 2 ^ d.k
    sfcKey d.k d.dims (if d.kmode = 1 then hilbert d.k d.dims cs else cs)
  else recField bs d.koff 4

/-- The record with its key written at KOFF. -/
def DriftDesc.withKey (d : DriftDesc) (bs : List Byte) : List Byte :=
  if d.kout then bs.take d.koff ++ leBytesOf 4 (d.key bs) ++ bs.drop (d.koff + 4) else bs

/-- The bin of a record; for KMODE 3 its destination. -/
def DriftDesc.bin (d : DriftDesc) (bs : List Byte) : Nat :=
  if d.kmode = 3 then d.key bs else d.key bs / 2 ^ (d.width - d.bb - 1)

def DriftDesc.weight (d : DriftDesc) (bs : List Byte) : Nat := if d.wgt then recField bs d.woff 4 else 1

/-- Records of a run of bytes. -/
def cutRecords (size : Nat) : Nat → List Byte → List (List Byte)
  | 0, _ => []
  | n + 1, bs => bs.take size :: cutRecords size n (bs.drop size)

/-- This member's loads by bin; none are taken for KMODE 3. -/
def DriftDesc.localLoads (d : DriftDesc) (recs : List (List Byte)) : List Nat :=
  if d.kmode = 3 then []
  else (recs.foldl (fun (h : Array Nat) r => h.modify (d.bin r) (· + d.weight r)) (Array.replicate d.bins 0)).toList

def addLoads : List Nat → List Nat → List Nat
  | a :: s, b :: t => ((a + b) % 2 ^ 64) :: addLoads s t
  | [], t => t
  | s, [] => s

/-- The global loads H (R375). -/
def DriftRun.global (x : DriftRun) : List Nat := x.loads.foldl (fun h l => addLoads h l.2) (List.replicate (if x.desc.kmode = 3 then 0 else x.desc.bins) 0)

/-- C(b) for b = 0 on. -/
def cumulate : Nat → List Nat → List Nat
  | c, [] => [c]
  | c, h :: t => c :: cumulate (c + h) t

/-- s[p] for p = 1 to P - 1 (R375): the smallest b with C(b) * P at least p * T. -/
def DriftRun.splits (x : DriftRun) (members : Nat) : List Nat :=
  if x.desc.kmode = 3 then List.replicate (members - 1) 0
  else
    let h := x.global
    let t := h.foldl (· + ·) 0
    let c := cumulate 0 h
    (List.range (members - 1)).map fun p => c.findIdx fun v => decide ((p + 1) * t ≤ v * members)

/-- dest of each record in order (R375 step 4). -/
def DriftRun.dests (x : DriftRun) (members : Nat) : List Nat :=
  if x.desc.kmode = 3 then x.bins
  else
    let sp := x.splits members
    x.bins.map fun b => (sp.filter fun v => decide (v ≤ b)).length

/-- The indices of this member's records for a rank, in order. -/
def DriftRun.forRank (x : DriftRun) (members r : Nat) : List Nat :=
  ((x.dests members).zipIdx.filter fun p => p.1 == r).map (·.2)

def DriftRun.badDest (x : DriftRun) (members : Nat) : Bool := (x.dests members).any fun p => decide (members ≤ p)

/-! ### Offers and acceptance (R375 steps 5 and 6) -/

def DriftRun.allLoads (x : DriftRun) (members : Nat) : Bool := (List.range members).all fun r => x.loads.any (·.1 == r)

/-- What each rank offers to this member of rank q. -/
def DriftRun.offer (x : DriftRun) (members q r : Nat) : Nat :=
  if r = q then (x.forRank members q).length else ((x.offers.find? (·.1 == r)).map (·.2)).getD 0

def DriftRun.allOffers (x : DriftRun) (members q : Nat) : Bool :=
  x.allLoads members && (List.range members).all fun r => r == q || x.offers.any (·.1 == r)

/-- Offered records of the ranks before r. -/
def DriftRun.before (x : DriftRun) (members q r : Nat) : Nat := ((List.range r).map (x.offer members q)).foldl (· + ·) 0

/-- How many records of a rank this member accepts. -/
def DriftRun.accepted (x : DriftRun) (members q r : Nat) : Nat :=
  min (x.offer members q r) (x.desc.rcap + x.desc.ocap - x.before members q r)
def DriftRun.refused (x : DriftRun) (members q r : Nat) : Nat := x.offer members q r - x.accepted members q r

/-- Whether this member refused a record. -/
def DriftRun.over (x : DriftRun) (members q : Nat) : Bool := (List.range members).any fun r => x.refused members q r != 0

/-- The records of this member, of rank q, that rank r accepts, once it has said how many it refuses. -/
def DriftRun.toSend (x : DriftRun) (members q r refused : Nat) : List DriftRec :=
  let l := x.forRank members r
  (l.take (l.length - refused)).map fun i => ⟨q, i, nth [] x.recs i⟩

/-! ### The end (R375 step 8, R376, R377) -/

/-- How many of this member's records each rank refused. -/
def DriftRun.refusedBy (x : DriftRun) (members q r : Nat) : Nat :=
  if r = q then x.refused members q q else ((x.replies.find? (·.member == r)).map (·.refused)).getD 0

/-- The indices of the records that stay, in order (R375 step 8). -/
def DriftRun.staying (x : DriftRun) (members q : Nat) : List Nat :=
  let gone := (List.range members).flatMap fun r => let l := x.forRank members r; l.take (l.length - x.refusedBy members q r)
  (List.range x.recs.length).filter fun i => !gone.contains i

/-- A record goes into a list that rises by index. -/
def insertRec (r : DriftRec) : List DriftRec → List DriftRec
  | [] => [r]
  | y :: t => if y.idx < r.idx then y :: insertRec r t else r :: y :: t

/-- Accepted records in the order of acceptance. -/
def DriftRun.placed (x : DriftRun) (members q : Nat) : List (List Byte) :=
  (List.range members).flatMap fun r =>
    if r = q then ((x.forRank members q).take (x.accepted members q q)).map (nth [] x.recs)
    else ((x.arrived.filter fun y => y.src == r).foldr insertRec []).map (·.bytes)

def DriftRun.complete (x : DriftRun) (members q : Nat) : Bool :=
  x.allOffers members q && (List.range members).all fun r =>
    r == q || (x.replies.any (·.member == r) && (x.arrived.filter fun y => y.src == r).length == x.accepted members q r)

/-- STATUS (R376): the same at every member. -/
def DriftRun.status (x : DriftRun) (members q : Nat) : Nat :=
  (if x.over members q || x.replies.any (·.overflow) then 1 else 0) + (if x.badDest members || x.replies.any (·.baddest) then 2 else 0)

/-- The result block (R376). -/
def DriftRun.resultBytes (x : DriftRun) (members q : Nat) : List Byte :=
  let got := (x.placed members q).length
  let t := x.global.foldl (· + ·) 0
  leBytesOf 4 (x.status members q) ++ leBytesOf 4 (min got x.desc.rcap) ++ leBytesOf 4 (got - x.desc.rcap) ++
    leBytesOf 4 (x.staying members q).length ++ leBytesOf 8 t ++ List.replicate 40 0 ++
    ((List.range members).flatMap fun r => leBytesOf 4 (x.refused members q r)) ++ ((x.splits members).flatMap (leBytesOf 4))

/-- The writes of a Drift that is complete at this member: placed records, what stays in SBUF, the result block. -/
def DriftRun.writes (x : DriftRun) (members q : Nat) : CollWrites :=
  let d := x.desc
  let p := x.placed members q
  let rb := (p.take d.rcap).flatten
  let ob := (p.drop d.rcap).flatten
  let sb := ((x.staying members q).map (nth [] x.recs)).flatten
  ([(w64 d.rbuf, rb), (w64 d.obuf, ob), (w64 d.sbuf, sb)].filter fun w => !w.2.isEmpty) ++ [(w64 d.res, x.resultBytes members q)]

/-! ### Steps of the exchange -/

/-- A message to every other member, by rank and the incarnation known of it. -/
def State.tellOthers (s : State) (c : Coll) (m : Nat → Nat → OutMsg) : State :=
  ((List.range (c.nmem + 1)).filter (· != c.rank)).foldl (fun (t : State) r => t.tellMember c r (m r)) s

/-- Offers go out once every member's loads are here (R375 step 5). -/
def State.sendOffers (s : State) (c : Coll) (x : DriftRun) : State :=
  s.tellOthers c fun r inc => .driftOffer c.group r inc (x.forRank (c.nmem + 1) r).length

/-- Refusals go out once every offer is here (R375 step 6). -/
def State.sendRefusals (s : State) (c : Coll) (x : DriftRun) : State :=
  let p := c.nmem + 1
  s.tellOthers c fun r inc => .driftRefused c.group r inc (x.refused p c.rank r) (x.over p c.rank) (x.badDest p)

/-- What a change of the exchange lets this member do next. -/
def State.driftMove (s : State) (c : Coll) (old new : DriftRun) : State :=
  let p := c.nmem + 1
  let s1 := s.updColl c.id fun y => { y with drift := some new }
  let s2 := if new.allLoads p && !old.allLoads p then s1.sendOffers c new else s1
  let s3 := if new.allOffers p c.rank && !old.allOffers p c.rank then s2.sendRefusals c new else s2
  if new.complete p c.rank && !old.complete p c.rank then
    s3.endColl { c with drift := some new } (new.writes p c.rank) 0 (some (w64 (new.status p c.rank)))
  else s3.collProgress c.id

/-- Drift begins at this member with its records: its loads go to every other member (R375 steps 1 and 2). -/
def State.beginDrift (s : State) (c : Coll) (d : DriftDesc) (bs : List Byte) : State :=
  let recs := (cutRecords d.rsize d.nrec bs).map d.withKey
  let loads := d.localLoads recs
  let x0 : DriftRun := ⟨d, recs, recs.map d.bin, [], [], [], [], false, []⟩
  let id := s.fab.nextRemote
  let s1 := s.openColl { c with drift := some x0 }
  (s1.tellOthers c fun r inc => .driftLoads c.group r inc loads).driftMove { c with id := id } x0 { x0 with loads := [(c.rank, loads)] }

/-- A descriptor of a CREPART word is read and checked (R374). -/
def State.readDriftDesc (s : State) (k : Fin 128) (a : ReqAt) (desc : W64) (ec : Fin 32) : State :=
  if s.releaseHeld k a then s
  else match s.readReq k a desc 64 with
    | .trap t => s.raise k 5 a.flight.upc t
    | .wait s1 => s1
    | .all _ _ (some sec) s1 => s1.raise k 5 a.flight.upc (poisonTrap desc sec)
    | .all bs _ none s1 =>
      let d := readDrift (leNum bs)
      match s1.driftCheck (s1.core k).pasid d (leNum bs) fun r => s1.issueCheck k r.1 r.2 true with
      | .error t => s1.raise k 5 a.flight.upc t
      | .ok _ => s1.replaceReq k a [.driftRun d ec]

/-- Its records are read once the group's collective before it has completed here (R358, R375). -/
def State.startDrift (s : State) (k : Fin 128) (a : ReqAt) (d : DriftDesc) (ec : Fin 32) : State :=
  if (s.groupColl d.group).isSome then s
  else match s.groupUse (s.core k).pasid d.group with
    | .error t => s.raise k 5 a.flight.upc t
    | .ok (rank, nmem) =>
      let go (t : State) (bs : List Byte) : State :=
        let id := t.fab.nextRemote
        let t1 := (t.replaceReq k a []).updFlight k a.f fun f => { f with wait := .coll id }
        t1.beginDrift ⟨0, d.group, rank, nmem, some (k.val, ec), none, (t.core k).pasid, [], a.flight.upc, a.req.cls, none, none, false⟩ d bs
      if d.nrec = 0 then go s []
      else match s.readReq k a (w64 d.sbuf) (d.nrec * d.rsize) with
        | .trap t => s.raise k 5 a.flight.upc t
        | .wait s1 => s1
        | .all _ _ (some sec) s1 => s1.raise k 5 a.flight.upc (poisonTrap (w64 d.sbuf) sec)
        | .all bs _ none s1 => go s1 bs

/-- A message of a Drift from another member, made for an incarnation of this package (R389): it acts on the group's Drift here, waits
while there is none, and faults CHANNEL where the group runs a CRING (R358). -/
def driftEvent (group : Nat) (sender : Sender) (s : State) (f : State → Coll → DriftRun → State) : Out :=
  .next (s.fromPeer (s.memberPkg group sender.member) sender.inc fun t =>
    match t.groupColl group with
    | none => t
    | some c =>
      match c.drift with
      | none => t.failColl c groupTrap
      | some x => if sender.member = c.rank ∨ c.nmem < sender.member then t else f t c x)

/-- Another member's loads (R375 step 2); members that disagree fault CHANNEL (R374). -/
def execDriftLoadsReceive (group : Nat) (sender : Sender) (loads : List Nat) (agrees : Bool) (s : State) : Out :=
  driftEvent group sender s fun t c x =>
    if agrees = false ∨ loads.length ≠ (if x.desc.kmode = 3 then 0 else x.desc.bins) then t.failColl c groupTrap
    else if x.loads.any (·.1 == sender.member) then t
    else t.driftMove c x { x with loads := x.loads ++ [(sender.member, loads)] }

/-- What another member offers to this one (R375 step 5). -/
def execDriftOfferReceive (group : Nat) (sender : Sender) (count : Nat) (s : State) : Out :=
  driftEvent group sender s fun t c x =>
    if x.offers.any (·.1 == sender.member) then t else t.driftMove c x { x with offers := x.offers ++ [(sender.member, count)] }

/-- What another member says of this one's records, its records that this one accepted, and whether it has written this one's (R375
steps 6 and 7, R377): the first word of the member sends it what it accepts; records come with it or later. -/
def execDriftRecordsReceive (group : Nat) (sender : Sender) (recs : List DriftRec) (refused : Nat) (marks : DriftMarks) (written : Bool)
    (s : State) : Out :=
  let member := sender.member
  driftEvent group sender s fun t c x =>
    let p := c.nmem + 1
    if !x.allLoads p then t
    else
      let isNew := !x.replies.any (·.member == member)
      let rs := recs.filter fun r => r.src == member && r.bytes.length == x.desc.rsize && !x.arrived.any fun y => y.src == member && y.idx == r.idx
      let room := if x.allOffers p c.rank then
          x.accepted p c.rank member - (x.arrived.filter fun y => y.src == member).length else 0
      let x1 := { x with
        replies := if isNew then x.replies ++ [⟨member, refused, marks.overflow, marks.badDest⟩] else x.replies
        arrived := x.arrived ++ rs.take room
        written := if written && !x.written.contains member then x.written ++ [member] else x.written }
      let out := x.toSend p c.rank member refused
      let t1 := if isNew && !out.isEmpty then t.tellMember c member fun i => .driftRecords group member i out else t
      t1.driftMove c x x1

end Sys2Proof.Machine
end

