-- ==== Sys2Proof/Machine/Collective.lean ====
section
/-! DEFINITION. COLL nodes (R372), and the one place where the requests of copy words are performed (R318, R320, R324). -/

namespace Sys2Proof.Machine

/-! ### Performing a request of a copy word -/

/-- Data of a copy word returns and is written to its destination (R318, R320, R330); a message is read, and a collective reads its
source (R366, R370, R375). -/
def execCopyDataReturn (core idx : Nat) (s : State) : Out :=
  let k := coreIx core
  if core < 128 ∧ (s.core k).fault = none then
    match (copyReqs (s.eng k .c))[idx]? with
    | none => .next s
    | some a =>
      match a.req.kind with
      | .fixed .. => .next (s.returnData k a)
      | _ =>
        let p := State.fixBefore k a (copyReqs (s.eng k .c)).length s
        if !p.2 then .next p.1
        else match a.req.kind with
          | .recv ch t row n ack ec => .next (p.1.recvMessage k a ch t row n ack ec)
          | .ring op fs fd n src dst g ftzn => .next (p.1.startRing k a op fs fd n src dst g ftzn)
          | .drift desc ec => .next (p.1.readDriftDesc k a desc ec)
          | .driftRun d ec => .next (p.1.startDrift k a d ec)
          | _ => .next (p.1.returnData k a)
  else .next s

/-- A write of a copy word is accepted by its memory port (R320); a message or a batch is sent (R361, R365). -/
def execCopyWriteAccept (core idx : Nat) (s : State) : Out :=
  let k := coreIx core
  if core < 128 ∧ (s.core k).fault = none then
    match (copyReqs (s.eng k .c))[idx]? with
    | none => .next s
    | some a =>
      if reqBlocked s k a then .next s
      else match a.req.kind with
        | .send ch tag rows => .next (s.sendMessage k a ch tag rows)
        | .batch op rows ret => .next (s.sendBatch k a op rows ret)
        | _ => .next (s.acceptWrite k a)
  else .next s

/-! ### COLL (R119, R372) -/

/-- The lease ranges of a collective descriptor; none where it is malformed. -/
def collRanges (v : Nat) : Option (List LeaseRange) :=
  let rs := ((List.range 4).map fun i => leaseEntry (bitsNat v (8 * 0x20 + 64 * i) 64)).filterMap id
  let opc := bitsNat v 0 8
  if (opc ≠ 0xCC ∧ opc ≠ 0xCD) ∨ bitsNat v 24 40 ≠ 0 ∨ rangesOverlap rs = true then none else some rs

/-- What reading for a node's collective comes to. -/
inductive CollRead where
  | got (bs : List Byte) (s : State)
  | wait (s : State)
  | bad (t : Trap)

/-- Bytes that a collective of a node reads under its lease (R147, R372). -/
def State.collRead (s : State) (n : Node) (a len : Nat) : CollRead :=
  match s.virtualAs n.pasid n.ranges a len .read with
  | .error t => .bad t
  | .ok (ds, s1) =>
    match s1.readAs (.node n.q n.idx) n.pasid a ds with
    | .wait s2 => .wait s2
    | .all _ _ (some sec) _ => .bad (poisonTrap (w64 a) sec)
    | .all bs _ none s2 => .got bs s2

/-- A write range outside the lease of a node. -/
def collArea (ranges : List LeaseRange) (r : W64 × Nat) : Option Trap :=
  (leaseFault ranges true r.1.toNat r.2).map fun a => .at .lease (w64 a)

/-- A node's collective before it begins. -/
def collOf (n : Node) (group rank nmem : Nat) : Coll :=
  ⟨0, group, rank, nmem, none, some (n.q, n.idx), n.pasid, n.ranges, 0, 0, none, none, false⟩

/-- The collective of a node begins, once what it reads has come in and the group's collective before it has ended here (R358); a check
that would fault the word faults the node (R372). -/
def State.beginColl (s : State) (n : Node) : Except Trap State :=
  let v := n.desc
  let cx := bitsNat v 8 8
  let va := bitsNat v 64 64
  let vb := bitsNat v 128 64
  let vc := bitsNat v 192 64
  let start (t : State) : State := t.updNode n.q n.idx fun x => { x with phase := .running, tstart := t.time }
  if bitsNat v 0 8 = 0xCC then
    match fmtIn (bitsNat v 16 4) ringFmts, fmtIn (bitsNat v 20 4) ringFmts with
    | some f, some g =>
      (match if cx < 3 then ringArgs cx cx f g vc else none with
      | none => .error badOperand
      | some (cnt, group) =>
        if va % elemBytes f ≠ 0 then .error (.at .align (w64 va))
        else if vb % elemBytes g ≠ 0 then .error (.at .align (w64 vb))
        else match collArea n.ranges (w64 vb, rowLen g cnt), s.ringUse n.pasid group with
          | some t, _ => .error t
          | none, .error t => .error t
          | none, .ok (rank, nmem) =>
            if (s.groupColl group).isSome then .ok s
            else match s.collRead n va (rowLen f cnt) with
              | .bad t => .error t
              | .wait s1 => .ok s1
              | .got bs s1 => .ok ((start s1).beginRing (collOf n group rank nmem) ⟨cx, f, g, cnt, w64 va, w64 vb, []⟩ false bs))
    | _, _ => .error badOperand
  else if bitsNat v 8 16 ≠ 0 then .error badOperand
  else if va % 64 ≠ 0 then .error (.at .align (w64 va))
  else match s.collRead n va 64 with
    | .bad t => .error t
    | .wait s1 => .ok s1
    | .got bs s1 =>
      let d := readDrift (leNum bs)
      match s1.driftCheck n.pasid d (leNum bs) (collArea n.ranges) with
      | .error t => .error t
      | .ok (rank, nmem) =>
        if (s1.groupColl d.group).isSome then .ok s1
        else match s1.collRead n d.sbuf (d.nrec * d.rsize) with
          | .bad t => .error t
          | .wait s2 => .ok s2
          | .got rs s2 => .ok ((start s2).beginDrift (collOf n d.group rank nmem) d rs)

/-- COLL: the descriptor is read before the lease phase; after the grant the collective begins, not while the package parks (R372,
R429). -/
def execColl (q idx : Nat) (s : State) : Out :=
  match s.node? q idx with
  | none => .next s
  | some n =>
    if n.cmd.kind ≠ 4 then .next s
    else match n.phase with
      | .due =>
        let va := bitsNat n.cmd.payload 0 64
        if va % 64 ≠ 0 then .next (s.completeNode q idx (.status! stBadRecord))
        else (match s.fetchOwn n.pasid va 64 with
          | .got v s1 =>
            (match collRanges v with
            | none => .next (s1.completeNode q idx (.status! stBadRecord))
            | some rs => .next ((s1.updNode q idx fun x => { x with desc := v }).toLease q idx rs))
          | _ => .next (s.completeNode q idx (.status! stTranslation)))
      | .ready _ =>
        if s.mgmt.pstate != .active then .next s
        else (match s.beginColl n with
          | .error t => .next (s.failNode q idx n.pasid t)
          | .ok s1 => .next s1)
      | _ => .next s

end Sys2Proof.Machine
end

