-- ==== Sys2Proof/Machine/Hash.lean ====
section
/-! DEFINITION. SHA-256 and the LMS signatures of type LMS_SHA256_M32_H15 with LMOTS_SHA256_N32_W8 that R431 names; their algorithms are
those of FIPS 180-4 and RFC 8554 (log entry 15). -/

namespace Sys2Proof.Machine

/-! ### SHA-256 -/

abbrev Word32 := BitVec 32

def shaK : List Word32 :=
  [0x428a2f98, 0x71374491, 0xb5c0fbcf, 0xe9b5dba5, 0x3956c25b, 0x59f111f1, 0x923f82a4, 0xab1c5ed5,
   0xd807aa98, 0x12835b01, 0x243185be, 0x550c7dc3, 0x72be5d74, 0x80deb1fe, 0x9bdc06a7, 0xc19bf174,
   0xe49b69c1, 0xefbe4786, 0x0fc19dc6, 0x240ca1cc, 0x2de92c6f, 0x4a7484aa, 0x5cb0a9dc, 0x76f988da,
   0x983e5152, 0xa831c66d, 0xb00327c8, 0xbf597fc7, 0xc6e00bf3, 0xd5a79147, 0x06ca6351, 0x14292967] ++
  [0x27b70a85, 0x2e1b2138, 0x4d2c6dfc, 0x53380d13, 0x650a7354, 0x766a0abb, 0x81c2c92e, 0x92722c85,
   0xa2bfe8a1, 0xa81a664b, 0xc24b8b70, 0xc76c51a3, 0xd192e819, 0xd6990624, 0xf40e3585, 0x106aa070,
   0x19a4c116, 0x1e376c08, 0x2748774c, 0x34b0bcb5, 0x391c0cb3, 0x4ed8aa4a, 0x5b9cca4f, 0x682e6ff3,
   0x748f82ee, 0x78a5636f, 0x84c87814, 0x8cc70208, 0x90befffa, 0xa4506ceb, 0xbef9a3f7, 0xc67178f2]

def shaStart : List Word32 :=
  [0x6a09e667, 0xbb67ae85, 0x3c6ef372, 0xa54ff53a, 0x510e527f, 0x9b05688c, 0x1f83d9ab, 0x5be0cd19]

/-- Bytes of a number, the most significant first. -/
def beBytes (n v : Nat) : List Byte := (leBytesOf n v).reverse
/-- Words of four bytes, the most significant first. -/
def beWords : Nat → List Byte → List Word32
  | 0, _ => []
  | n + 1, bs => BitVec.ofNat 32 (leNum (bs.take 4).reverse) :: beWords n (bs.drop 4)

/-- A message with its padding: a one bit, zeros, and its length in bits. -/
def shaPad (m : List Byte) : List Byte :=
  let n := m.length
  m ++ [0x80] ++ List.replicate ((119 - n % 64) % 64) 0 ++ beBytes 8 (8 * n)

def rotr (x : Word32) (n : Nat) : Word32 := x.rotateRight n

/-- The message schedule, the latest word first. -/
def shaSchedule : Nat → List Word32 → List Word32
  | 0, w => w
  | n + 1, w =>
    let a := nth 0 w 14
    let b := nth 0 w 1
    let s0 := rotr a 7 ^^^ rotr a 18 ^^^ (a >>> 3)
    let s1 := rotr b 17 ^^^ rotr b 19 ^^^ (b >>> 10)
    shaSchedule n ((s1 + nth 0 w 6 + s0 + nth 0 w 15) :: w)

/-- One round on the eight working words. -/
def shaRound (v : List Word32) (kw : Word32) : List Word32 :=
  match v with
  | [a, b, c, d, e, f, g, h] =>
    let t1 := h + (rotr e 6 ^^^ rotr e 11 ^^^ rotr e 25) + ((e &&& f) ^^^ (~~~e &&& g)) + kw
    let t2 := (rotr a 2 ^^^ rotr a 13 ^^^ rotr a 22) + ((a &&& b) ^^^ (a &&& c) ^^^ (b &&& c))
    [t1 + t2, a, b, c, d + t1, e, f, g]
  | _ => v

def shaBlock (h : List Word32) (block : List Byte) : List Word32 :=
  let w := (shaSchedule 48 (beWords 16 block).reverse).reverse
  let v := ((shaK.zip w).map fun p => p.1 + p.2).foldl shaRound h
  (h.zip v).map fun p => p.1 + p.2

def shaBlocks : Nat → List Word32 → List Byte → List Word32
  | 0, h, _ => h
  | n + 1, h, m => shaBlocks n (shaBlock h (m.take 64)) (m.drop 64)

def sha256 (m : List Byte) : List Byte :=
  let p := shaPad m
  (shaBlocks (p.length / 64) shaStart p).flatMap fun w => beBytes 4 w.toNat

/-! ### LMS -/

def lmsHeight : Nat := 15
def lmsType : Nat := 7
def otsType : Nat := 4
def otsChains : Nat := 34

/-- Bytes of a signature and of a public key. -/
def lmsSigBytes : Nat := 1612
def lmsKeyBytes : Nat := 56

def beNum (bs : List Byte) : Nat := leNum bs.reverse
def slice (bs : List Byte) (off n : Nat) : List Byte := (bs.drop off).take n

/-- A chain of one-time hashes from step `a` on. -/
def otsChain (pre : List Byte) (i : Nat) : Nat → Nat → List Byte → List Byte
  | 0, _, y => y
  | n + 1, a, y => otsChain pre i n (a + 1) (sha256 (pre ++ beBytes 2 i ++ beBytes 1 a ++ y))

/-- The digits of a message hash with their checksum. -/
def otsDigits (q : List Byte) : List Nat :=
  let d := q.map (·.toNat)
  d ++ (beBytes 2 ((d.map (255 - ·)).foldl (· + ·) 0)).map (·.toNat)

/-- The one-time public key that a one-time signature on a message gives. -/
def otsCandidate (pre msg sig : List Byte) : List Byte :=
  let q := sha256 (pre ++ [0x81, 0x81] ++ slice sig 4 32 ++ msg)
  let zs := (otsDigits q).zipIdx.flatMap fun d => otsChain pre d.2 (255 - d.1) d.1 (slice sig (36 + 32 * d.2) 32)
  sha256 (pre ++ [0x80, 0x80] ++ zs)

/-- The root that a path leads to from a node. -/
def lmsClimb (id : List Byte) : List (List Byte) → Nat → List Byte → List Byte
  | [], _, x => x
  | p :: t, node, x =>
    let pair := if node % 2 = 1 then p ++ x else x ++ p
    lmsClimb id t (node / 2) (sha256 (id ++ beBytes 4 (node / 2) ++ [0x83, 0x83] ++ pair))

/-- Whether an LMS signature of a message verifies under a public key. -/
def lmsVerifies (key msg sig : List Byte) : Bool :=
  let id := slice key 8 16
  let q := beNum (slice sig 0 4)
  let pre := id ++ slice sig 0 4
  let ots := slice sig 4 (36 + 32 * otsChains)
  let path := (List.range lmsHeight).map fun i => slice sig (1132 + 32 * i) 32
  let node := 2 ^ lmsHeight + q
  let leaf := sha256 (id ++ beBytes 4 node ++ [0x82, 0x82] ++ otsCandidate pre msg ots)
  key.length == lmsKeyBytes && beNum (slice key 0 4) == lmsType && beNum (slice key 4 4) == otsType &&
    sig.length == lmsSigBytes && beNum (slice sig 4 4) == otsType && beNum (slice sig 1128 4) == lmsType && decide (q < 2 ^ lmsHeight) &&
    lmsClimb id path node leaf == slice key 24 32

end Sys2Proof.Machine
end

