-- ==== Sys2Proof/Machine/Tiers.lean ====
section
/-! DEFINITION. The memory side: Neve, poison and the event log, row counters, tiers and promotion, region grades, tier moves, and
Calving (R293 to R317). -/

namespace Sys2Proof.Machine

/-! ### The second-level cache (R283, R288) -/

/-- Whether a line lies in a retention range of the quad (R288, R339). -/
def Quad.retains (q : Quad) (x : L2Line) : Bool :=
  (List.finRange 4).any fun r => q.pinl[r] != 0 && q.pinPasid[r] == x.pasid && decide (q.pinb[r].toNat ≤ x.va) &&
    decide (x.va < q.pinb[r].toNat + q.pinl[r].toNat)

/-- Ways 0 to 3 are reserved while a retention range is set. -/
def Quad.reserves (q : Quad) : Bool := (List.finRange 4).any fun r => q.pinl[r] != 0

/-- Whether a line may take its place (R288): a retained one a reserved way while one of its set holds no retained line; otherwise none
a reserved way; and of the ways left the next victim's, where the set has one. -/
def Quad.mayAllocate (q : Quad) (x : L2Line) : Bool :=
  let mine := q.l2.filter (·.set == x.set)
  let kept (bank way : Nat) : Bool := mine.any fun y => y.bank == bank && y.way == way && q.retains y
  let open_ (bank : Nat) : Bool := q.bankMode bank == modeCache && (List.range 4).any fun w => !kept bank w
  if q.retains x && (List.range 32).any open_ then decide (x.way < 4) && !kept x.bank x.way
  else
    let next := mine.filter fun y => y.next && (!q.reserves || decide (4 ≤ y.way))
    (!q.reserves || decide (4 ≤ x.way)) && (next.isEmpty || next.any fun y => y.bank == x.bank && y.way == x.way)

/-- An access to device memory allocates its line (R283, R288): evict-first makes it its set's next victim, unless it is retained. -/
def State.allocate (s : State) (k : Fin 128) (va bank way : Nat) (evf : Bool) : State :=
  let q := s.quad (quadOf k)
  match s.virtual k va 1 .none with
  | .ok ((.here flat false, _) :: _, s1) =>
    let x : L2Line := ⟨flat / 128, va, (s.core k).pasid, bank, Config.cacheSet (flat / 128) % 1024, way, false⟩
    let y : L2Line := { x with next := evf && !q.retains x }
    if 32 ≤ bank ∨ 8 ≤ way ∨ q.bankMode bank ≠ modeCache ∨ q.isSwitching bank = true ∨ (q.l2.any (·.line == x.line)) = true
        ∨ q.mayAllocate x = false then s
    else s1.setQuad (quadOf k) { s1.quad (quadOf k) with l2 := y :: q.l2.filter fun z => !(z.set == x.set && z.bank == bank && z.way == way) }
  | _ => s

/-! ### Neve (R293 to R295) -/

/-- Physical lines of a stack's Neve, and the sectors of each (R293). -/
def neveLines : Nat := 131072
def neveSectors : Nat := 4

/-- A physical line is used. -/
def MemSide.useNeve (m : MemSide) (stack pline : Nat) : MemSide :=
  { m with neveUse := (stack, pline) :: m.neveUse.filter (· != (stack, pline)) }

/-- A line takes its place; where its sectors do not fit, the others of the physical line are displaced (R295). -/
def MemSide.takeNeve (m : MemSide) (x : NeveLine) : MemSide × List NeveLine :=
  let rest := m.neve.filter fun y => !(y.stack == x.stack && y.line == x.line)
  let here (y : NeveLine) : Bool := y.stack == x.stack && y.pline == x.pline
  let others := rest.filter here
  let out := neveSectors < (others.map (·.sectors)).foldl (· + ·) x.sectors
  ({ m with neve := x :: (if out then rest.filter (fun y => !here y) else rest) }.useNeve x.stack x.pline, if out then others else [])

/-- The least recently used physical line of a set: one that has never been used, whichever (log entry 86), or the last of the
others. -/
def MemSide.oldestLine (m : MemSide) (ctr stack set : Nat) : Nat :=
  let fresh := (List.range neveLines).filter fun p => Config.neveSet p == set && !m.neveUse.contains (stack, p)
  match fresh with
  | [] => ((m.neveUse.filter fun u => u.1 == stack && Config.neveSet u.2 == set).getLast?.map (·.2)).getD 0
  | _ :: _ => nth 0 fresh (Config.freeBits ctr % fresh.length)

/-- A chain of displacements (R295): each displaced line goes to the least recently used physical line of its set, and may displace
lines there in turn. The one displaced when `fuel` is used up is written back and dropped. -/
def MemSide.settleNeve (ctr : Nat) : Nat → MemSide → List NeveLine → MemSide
  | 0, m, _ => m
  | fuel + 1, m, out => out.foldl (fun u x =>
      let r := u.takeNeve { x with pline := u.oldestLine (ctr + fuel) x.stack (Config.neveSet x.pline) }
      MemSide.settleNeve ctr fuel r.1 r.2) m

/-- The device line of a write of a task and whether it carries permission (R294): HWCMP in the heap window, else CMP of the leaf that
translated it. -/
def State.storeLine (s : State) (k : Fin 128) (va : Nat) : Option (Nat × Bool) :=
  let c := s.core k
  match s.virtual k va 1 .write with
  | .ok ((.here flat false, _) :: _, _) =>
    let may := if c.disp.hwb.toNat ≤ va ∧ va < c.disp.hwl.toNat then (s.pasidEntry c.pasid).any (·.hwcmp)
      else match (s.translate (some k) c.pasid va).1 with
        | .leaf _ l => l.cmp
        | _ => false
    some (flat / 128, may)
  | _ => none

/-- What an access to Neve is: the line, whether it is written, and whether it may be compressed. -/
def State.neveUse (s : State) : NeveUse → Option (Nat × Bool × Bool)
  | .read line => some (line, false, false)
  | .store core va => if core < 128 then (s.storeLine (coreIx core) va).map fun x => (x.1, true, x.2) else none
  | .engine line => some (line, true, true)

/-- An access makes its line resident in the Neve of its home (R293 to R295): a write in the sectors that it then needs, fewer than four
and with a coding only where it carries permission; a read in the four of the line in DRAM, where it is not yet resident. Neve changes
capacity and latency and never a value. -/
def execNeveDisplace (x : NeveUse) (pline sectors coding : Nat) (s : State) : Out :=
  match s.neveUse x with
  | none => .next s
  | some (line, w, may) =>
    let a := line * 128
    let stack := (s.mem.homeAt a).1
    let old := s.mem.neve.find? fun y => y.stack == stack && y.line == line
    if s.mem.memcap ≤ a ∨ neveLines ≤ pline ∨ sectors = 0 ∨ neveSectors < sectors ∨ (coding = 0) ≠ (sectors = neveSectors)
        ∨ (may = false ∧ coding ≠ 0) then .next s
    else
      match w, old with
      | false, some y => .next (s.setMem (s.mem.useNeve stack y.pline))
      | _, _ =>
        let at_ := (old.map (·.pline)).getD pline
        let r := s.mem.takeNeve ⟨stack, at_, line, sectors, w, coding⟩
        .next { s.setMem (MemSide.settleNeve s.freeCtr 3 r.1 r.2) with freeCtr := s.freeCtr + 3 }

/-! ### Checks and poison (R296, R300, R302) -/

def evUncorrectable : Nat := 1
def evRowSat : Nat := 3
def evRowBad : Nat := 4
def evMismatch : Nat := 5
def evCalvPoison : Nat := 6
def evPhase : Nat := 7

/-- The part of a sector that one check covers, by bit of the 512 bits of data and the check bits after them (R296): an 8-byte word, a
128-bit word, a 16-bit symbol. -/
def checkWord (grade bit : Nat) : Nat :=
  match grade with
  | 0 => if bit < 512 then bit / 64 else bit - 512
  | 1 => if bit < 512 then bit / 128 else (bit - 512) / 9
  | _ => bit / 16

/-- Whether the check of a grade corrects an error of these flipped bits (R296): none under P, one bit of each word under D, one symbol
under S. -/
def corrects (grade : Nat) (flips : List Nat) : Bool :=
  let ws := flips.eraseDups.map (checkWord grade)
  match grade with
  | 0 => flips.isEmpty
  | 1 => ws.eraseDups.length == ws.length
  | 2 => decide (ws.eraseDups.length ≤ 1)
  | _ => false

/-- A check finds an error that it cannot correct: the sector is poisoned and the event logged with the instance of the core that met
it (R300, R304): UNCORRECTABLE for data from a stack, from LPDDR 6 or from the host, of flipped bits that its grade does not correct;
CHECK_MISMATCH for a transfer, of whatever store or link (R302). -/
def execPoisonDetect (sector : Nat) (error : FoundError) (s : State) : Out :=
  let at_ := s.mem.eventAt sector
  let own := at_.1 == error.src || (error.src == 10 && error.mismatch)
  let found := error.mismatch || error.src == 11 || (decide (error.src < 9) && !corrects (s.mem.gradeAt (sector * 64)) error.flips)
  if !own || !found then .next s
  else
    let id := if error.core < 128 ∧ (s.core (coreIx error.core)).inst.isSome = true then (s.core (coreIx error.core)).disp.ctxid.toNat else 0
    .next ((s.setMem (s.mem.addPoison sector)).logEvent (if error.mismatch then evMismatch else evUncorrectable) error.src 1 id at_.2 0)

/-! ### The event log (R303, R304) -/

def MemEvent.bytes (e : MemEvent) : List Byte :=
  leBytesOf 1 e.type ++ leBytesOf 1 (e.src % 16) ++ leBytesOf 2 e.count ++ leBytesOf 4 e.ctxid ++ leBytesOf 8 e.addr ++
  leBytesOf 8 e.info.toNat ++ leBytesOf 8 e.time

def MemSide.mevSize (m : MemSide) : Nat := 2 ^ bitsNat m.mevcfg.toNat 4 4

/-- The oldest event is written, then MEVTAIL; with the ring full it is dropped and counted, and with logging off dropped (R303). -/
def execMemoryEventRecord (s : State) : Out :=
  let m := s.mem
  match m.mevq with
  | [] => .next s
  | e :: rest =>
    let m1 := { m with mevq := rest }
    if !m.logging then .next (s.setMem m1)
    else if (m.mevtail - m.mevhead).toNat = m.mevSize then .next (s.setMem { m1 with mevlost := m.mevlost + 1 })
    else
      let m2 := m1.write (m.mevbase.toNat + 32 * (m.mevtail.toNat % m.mevSize)) e.bytes
      .next (s.setMem { m2 with mevtail := m.mevtail + 1 })

/-! ### Row counters (R305): a row is named by its device address -/

/-- RACTH, where 0 is taken as 1 (R317). -/
def MemSide.racThreshold (m : MemSide) : Nat := max 1 (m.racth.toNat % 2 ^ 16)

/-- A row is activated: the check, then the count of the precharge that ends this activation (R305). -/
def execRowActivation (row : Nat) (checkFails : Bool) (s : State) : Out :=
  let m := s.mem
  let c := sget 0 m.rows row
  let above := checkFails || c == 0xFFFF || decide (m.racThreshold ≤ c)
  let count := min 0xFFFF ((if above then 0 else c) + 1)
  let at_ := m.eventAt (row / 64)
  let s1 := s.setMem { m with rows := sset 0 m.rows row count }
  .next (if checkFails then s1.logEvent evRowBad at_.1 1 0 at_.2 0
    else if c = 0xFFFF then s1.logEvent evRowSat at_.1 1 0 at_.2 0 else s1)

def execRowRefresh (row : Nat) (s : State) : Out := .next (s.setMem { s.mem with rows := sset 0 s.mem.rows row 0 })

/-! ### Tiers (R306, R307) -/

def regionBytes : Nat := 2 ^ 21
/-- The first address of a region by its key (R297, R306). -/
def regionBase (key : Nat) : Nat := if key < 2 ^ 19 then key * regionBytes else Config.lpddrBase + (key - 2 ^ 19) * regionBytes

/-- TOCC (R307). -/
def MemSide.tocc (m : MemSide) (t : Nat) : Nat :=
  match t with
  | 0 => (m.grades.filter fun g => decide (g.1 < 2 ^ 19)).length * regionBytes
  | 1 => (m.grades.filter fun g => decide (2 ^ 19 ≤ g.1)).length * regionBytes
  | _ => m.tocc2.toNat

/-- The crossings that a change of a tier's occupancy makes (R307): above THIGH once, then at or below TLOW once. -/
def State.occupancy (s : State) (t : Fin 3) (old : Nat) : State :=
  let m := s.mem
  let v := m.tocc t
  if !m.above[t] && decide (old < v) && decide ((m.thigh[t]).toNat < v) then
    (s.setMem { m with above := m.above.set t true, crossed := m.crossed ++ [(true, t.val, v)] }).rebudget
  else if m.above[t] && decide (v < old) && decide (v ≤ (m.tlow[t]).toNat) then
    (s.setMem { m with above := m.above.set t false, crossed := m.crossed ++ [(false, t.val, v)] }).rebudget
  else s

def typeTierHigh : Nat := 0x10
def typeTierLow : Nat := 0x11
def typePromote : Nat := 0x12
def typeStackWarn : Nat := 0x13
def typeCalvDone : Nat := 0x14

/-- The oldest crossing of a tier is posted (R307, R310). -/
def State.postCrossing (s : State) (high : Bool) (tier : Nat) : State :=
  match s.mem.crossed.find? fun x => x.2.1 == tier with
  | some (h, t, v) =>
    if h = high then
      (s.setMem { s.mem with crossed := s.mem.crossed.erase (h, t, v) }).memNotice (if high then typeTierHigh else typeTierLow) tier v
    else s
  | none => s

def execTierHigh (tier : Nat) (s : State) : Out := .next (s.postCrossing true tier)
def execTierLow (tier : Nat) (s : State) : Out := .next (s.postCrossing false tier)

/-! ### Promotion (R309) -/

/-- The counter of a region: of LPDDR 6 by its index in the tier, or of a valid host entry. -/
def MemSide.accessKey (m : MemSide) (tier region : Nat) : Option Nat :=
  if tier = 1 ∧ region < Config.lpddrBytes / regionBytes then some (Config.lpddrBase / regionBytes + region)
  else if tier = 2 ∧ region < 8192 ∧ (sget (0 : W64) m.hact region).getLsbD 0 = true then some (2 ^ 40 + region)
  else none

/-- PROMTH of a tier: the low 16 bits (R317). -/
def MemSide.promoteAt (m : MemSide) (t : Fin 3) : Nat := (m.promth[t]).toNat % 2 ^ 16

/-- A region's counter adds one; at the threshold its notice is written, or it is PENDING (R309). -/
def execPromoteCount (tier region : Nat) (s : State) : Out :=
  match s.mem.accessKey tier region with
  | none => .next s
  | some g =>
    let c := min 0xFFFF (sget 0 s.mem.access g + 1)
    let m := { s.mem with access := sset 0 s.mem.access g c }
    let s1 := s.setMem m
    if c < m.promoteAt (Fin.ofNat 3 tier) || m.queued.contains g || m.pending.contains g then .next s1
    else
      let wait (t : State) : State := t.setMem { t.mem with pending := kadd g t.mem.pending, overflow := true }
      if !m.pending.isEmpty then .next (wait s1)
      else match s1.postPromote g with
        | .written _ s2 => .next (s2.setMem { s2.mem with queued := kadd g s2.mem.queued })
        | .full => .next (wait s1)
        | .off s2 => .next (wait s2)

/-- The counters that an address written to ACRESET names: a host region with bit 63 set (R309). -/
def MemSide.resetKeys (m : MemSide) (v : W64) : List Nat :=
  if v.getLsbD 63 then
    (m.hact.filter fun h => h.2.getLsbD 0 && bitsNat h.2.toNat 21 42 == bitsNat v.toNat 21 42).map fun h => 2 ^ 40 + h.1
  else if Config.lpddrBase ≤ v.toNat ∧ v.toNat < Config.lpddrBase + Config.lpddrBytes then [v.toNat / regionBytes] else []

def execAcreset (v : W64) (s : State) : Out :=
  let ks := s.mem.resetKeys v
  .next (s.setMem { s.mem with
    access := ks.foldl (fun l g => sset 0 l g 0) s.mem.access
    queued := ks.foldl (fun l g => kdel g l) s.mem.queued
    pending := ks.foldl (fun l g => kdel g l) s.mem.pending })

/-! ### Region grades (R297) -/

/-- A page of a run of device memory has a nonzero pin count. -/
def MemSide.pinned (m : MemSide) (a n : Nat) : Bool := m.pins.any fun p => decide (p.1 * 65536 < a + n) && decide (a < (p.1 + 1) * 65536)

/-- Contents, poison and metadata of a run of device memory are gone. -/
def MemSide.discard (m : MemSide) (a n : Nat) : MemSide :=
  { m with cells := sclear a (a + n) m.cells, poison := kdelRange (a / 64) ((a + n) / 64) m.poison, side := sclear (a / 64) ((a + n) / 64) m.side }

def bitBusy : W64 := 0x4000000000000000#64
def bitErr : W64 := 0x2000000000000000#64

/-- The fields of RGCMD that a write sets (R317). -/
def rgFields : W64 := 0x1E0000000007FFFF#64

/-- Writing RGCMD (R297, R317): a GO sets the region's grade, or is refused; while BUSY a GO is ignored, and with it the rest of that
write (log entry 87). -/
def execRgcmd (v : W64) (s : State) : Out :=
  let m := s.mem
  let busy := m.rgcmd &&& bitBusy
  let err := m.rgcmd &&& bitErr &&& ~~~v
  if busy ≠ 0 then
    .next (if v.getLsbD 63 then s else s.setMem { m with rgcmd := (v &&& rgFields) ||| busy ||| err })
  else if v.getLsbD 63 = false then .next (s.setMem { m with rgcmd := (v &&& rgFields) ||| err })
  else
    let tier := bitsNat v.toNat 57 2
    let grade := bitsNat v.toNat 59 2
    let key := tier * 2 ^ 19 + bitsNat v.toNat 0 19
    let base := regionBase key
    let refused := decide (1 < tier) || (tier == 0 && decide (2 ^ 18 ≤ key)) || m.calv != .stable || m.pinned base regionBytes ||
      (tier == 0 && decide (m.memcap ≤ base) && grade != gradeNone)
    if refused then .next (s.setMem { m with rgcmd := (v &&& rgFields) ||| bitErr })
    else
      let t : Fin 3 := Fin.ofNat 3 tier
      let m1 := { m with grades := sset gradeNone m.grades key grade, rgRun := some (key, grade), rgcmd := (v &&& rgFields) ||| bitBusy ||| err }
      let m2 := if grade = gradeNone then m1.discard base regionBytes else m1
      .next ((s.setMem m2).occupancy t (m.tocc t.val))

/-- The region is written with zeros, and BUSY clears (R297). -/
def execRgcmdDone (s : State) : Out :=
  match s.mem.rgRun with
  | none => .next s
  | some (key, _) =>
    .next (s.setMem { s.mem.discard (regionBase key) regionBytes with rgRun := none, rgcmd := s.mem.rgcmd &&& ~~~bitBusy })

/-! ### Tier moves (R308) -/

/-- An end of a move: its flat address, and whether it is in host memory. -/
def moveEnd (v : W64) : Nat × Bool := if v.getLsbD 63 then (hostFlat (v.toNat % 2 ^ 63), true) else (v.toNat, false)

/-- Whether a run lies within one tier. -/
def MemSide.inTier (m : MemSide) (v : W64) (n : Nat) : Bool :=
  let a := v.toNat % 2 ^ 63
  if v.getLsbD 63 then decide (a + n ≤ 2 ^ 63)
  else decide (a + n ≤ m.memcap) || (decide (Config.lpddrBase ≤ a) && decide (a + n ≤ Config.lpddrBase + Config.lpddrBytes))

/-- The regions of a device run that have grade NONE. -/
def MemSide.anyNone (m : MemSide) (v : W64) (n : Nat) : Bool :=
  !v.getLsbD 63 && (List.range ((n + 65535) / 65536)).any fun i => m.gradeAt (v.toNat + 65536 * i) == gradeNone

/-- STATUS of a move at its GO (R308); a run that is no multiple of 64 KiB is in no tier (log entry 27), and a source region of grade
NONE is no better than a destination (R298). -/
def MemSide.moveStatus (m : MemSide) : Nat :=
  let n := m.tmlen.toNat
  let dev (v : W64) : Bool := !v.getLsbD 63 && m.pinned v.toNat n
  if dev m.tmsrc || dev m.tmdst then 1
  else if n % 65536 ≠ 0 ∨ m.tmsrc.toNat % 65536 ≠ 0 ∨ m.tmdst.toNat % 65536 ≠ 0 ∨ m.inTier m.tmsrc n = false ∨ m.inTier m.tmdst n = false then 2
  else if m.anyNone m.tmsrc n || m.anyNone m.tmdst n then 3
  else 0

/-- Writing TMCMD: a GO starts the move, or is refused; while BUSY it is ignored (R308, R317). -/
def execTmcmd (v : W64) (s : State) : Out :=
  let m := s.mem
  if v.getLsbD 63 = false ∨ m.tmcmd &&& bitBusy ≠ 0 then .next s
  else
    let st := m.moveStatus
    .next (s.setMem { m with tmcmd := if st = 0 then bitBusy else w64 st })

/-- Poison and metadata of the sectors of a run go with its bytes (R299, R301). -/
def MemSide.moveSide (m old : MemSide) (src dst sectors : Nat) : MemSide :=
  let moved := (old.poison.filter fun p => decide (src ≤ p) && decide (p < src + sectors)).map fun p => p - src + dst
  let clean := kdelRange dst (dst + sectors) m.poison
  let meta_ := (old.side.filter fun p => decide (src ≤ p.1) && decide (p.1 < src + sectors)).map fun p => (p.1 - src + dst, old.meta p.1)
  let m1 := { m with poison := moved.foldl (fun l p => kadd p l) clean, side := sclear dst (dst + sectors) m.side }
  meta_.foldl (fun x p => x.setMeta p.1 p.2) m1

/-- The cells of a run move. -/
def MemSide.moveCells (m : MemSide) (src dst n : Nat) : MemSide :=
  let moved := (m.cells.filter fun c => decide (src ≤ c.1) && decide (c.1 < src + n)).map fun c => (c.1 - src + dst, c.2)
  { m with cells := moved.foldl (fun l c => sset (0 : Byte) l c.1 c.2) (sclear dst (dst + n) m.cells) }

/-- The move completes (R299, R301, R308): bytes, poison, and metadata between device regions; poisoned data written to host memory
carries the PCIe bit. -/
def execTierMoveDone (s : State) : Out :=
  let m := s.mem
  if m.tmcmd &&& bitBusy = 0 then .next s
  else
    let src := moveEnd m.tmsrc
    let dst := moveEnd m.tmdst
    let n := m.tmlen.toNat
    let m1 := m.moveCells src.1 dst.1 n
    let m2 := { m1 with tmcmd := 0 }
    if dst.2 then
      let bad := m.poison.filter fun p => decide (src.1 / 64 ≤ p) && decide (p < (src.1 + n) / 64)
      .next (bad.foldl (fun (t : State) p => t.send (.poisonedHostWrite (p * 64 - src.1 + dst.1 - hostBase))) (s.setMem m2))
    else .next (s.setMem (m2.moveSide m (src.1 / 64) (dst.1 / 64) (n / 64)))

/-! ### Calving (R311 to R316) -/

def stackSpan : Nat := 64 * 2 ^ 30
def MemSide.liveStacks (m : MemSide) : List Nat := (List.range 8).filter fun n => m.live.getLsbD n
/-- Chunks that are mapped: chunk c from 0 while c * 64 GiB is below MEMCAP (R312, R313). -/
def mappedChunks (memcap : Nat) : Nat := memcap / stackSpan

/-- Slices of mapped chunks in ascending (bucket, chunk) order. -/
def slicesBelow (chunks : Nat) : List Nat := (List.range 256).flatMap fun b => (List.range chunks).map fun c => b * 8 + c

/-- Free frames of a stack: those that no mapped slice holds (R313). -/
def MemSide.freeFrames (m : MemSide) (chunks stack : Nat) : List Nat :=
  let used := (slicesBelow chunks).filterMap fun x => let h := m.home x; if h.1 = stack then some h.2 else none
  (List.range 256).filter fun f => !used.contains f

/-- The next stack of the deal that has a free frame: the stacks in turn, each with its free frames. -/
def dealOne : Nat → List (Nat × List Nat) → Option (Nat × Nat × List (Nat × List Nat))
  | 0, _ => none
  | _, [] => none
  | _ + 1, (st, f :: fs) :: t => some (st, f, t ++ [(st, fs)])
  | fuel + 1, (st, []) :: t => dealOne fuel (t ++ [(st, [])])

/-- The victim's slices dealt round-robin (R313). -/
def deal : List Nat → List (Nat × List Nat) → List SliceMove
  | [], _ => []
  | x :: t, sts =>
    match dealOne (sts.length + 1) sts with
    | some (st, f, rest) => ⟨x, st, f⟩ :: deal t rest
    | none => []

/-- The moves of a retirement with MEMCAP lowered (R313). -/
def MemSide.retireMoves (m : MemSide) (victim chunks : Nat) : List SliceMove :=
  let mine := (slicesBelow chunks).filter fun x => (m.home x).1 == victim
  deal mine ((m.liveStacks.filter (· != victim)).map fun st => (st, m.freeFrames chunks st))

/-- REFUSE of a GO (R314); 0 where it is accepted. -/
def MemSide.refuses (m : MemSide) (victim : Nat) : Nat :=
  let low := m.memcap - stackSpan
  if m.calv != .stable then 1
  else if m.live.getLsbD victim = false then 2
  else if m.liveStacks.length ≤ 1 then 3
  else if m.pins.any fun p => decide (low < (p.1 + 1) * 65536) && decide (p.1 * 65536 < Config.lpddrBase) then 4
  else if m.grades.any fun g => decide (g.1 < 2 ^ 19) && decide (low ≤ g.1 * regionBytes) then 5
  else 0

/-- Writing CALVCTL: VICTIM is set, and a GO starts the retirement of that stack with PREPARE, or is refused (R313, R314). -/
def execCalvctlGo (v : W64) (s : State) : Out :=
  let m := { s.mem with calvctl := w64 (bitsNat v.toNat 0 3) }
  let victim := bitsNat v.toNat 0 3
  if v.getLsbD 63 = false then .next (s.setMem m)
  else
    let r := m.refuses victim
    if r ≠ 0 then .next (s.setMem { m with refuse := r })
    else
      let cap := m.memcap - stackSpan
      .next ((s.setMem { m with
        refuse := 0, victim := victim, memcap := cap, calv := .prepare, mphase := (m.mphase + 1) % 2 ^ 16
        moves := m.retireMoves victim (mappedChunks cap), cursor := 0 }).rebudget)

/-- The new map is loaded everywhere (R313). -/
def execCalvMapLoaded (s : State) : Out :=
  .next (if s.mem.calv = .prepare then s.setMem { s.mem with calv := .move } else s)

/-- Lines of 128 bytes of a slice (R311). -/
def sliceLines : Nat := 2 ^ 21

/-- The device address of a line of a slice: the inverse of the interleave (R311). -/
def lineAddr (slice line : Nat) : Nat :=
  let u := line / 8
  let hi := u * 2 ^ 18 + (slice % 8) * 2 ^ 36
  hi + ((slice / 8) ^^^ bucketOf hi) * 2 ^ 10 + line % 8 * 128

/-- A line leaves the Neve of its old home for that of the new one, where it is dirty (R313); the physical line that it takes is not
given (log entry 86). -/
def MemSide.moveNeve (m : MemSide) (ctr line stack : Nat) : MemSide :=
  let y : NeveLine := ((m.neve.find? (·.line == line)).getD ⟨stack, 0, line, neveSectors, true, 0⟩)
  let r := { m with neve := m.neve.filter (·.line != line) }.takeNeve { y with stack := stack, pline := Config.freeBits ctr % neveLines, dirty := true }
  MemSide.settleNeve (ctr + 1) 3 r.1 r.2

/-- A line of the first moving slice is copied behind the cursor, through the victim's Neve into the new home's (R313, R315); an
uncorrectable one is poisoned at its new home. -/
def execCalvLineCopy (uncorrectable : Bool) (s : State) : Out :=
  let m := s.mem
  match m.calv, m.moves with
  | .move, x :: rest =>
    let a := lineAddr x.slice m.cursor
    let m1 := if uncorrectable then (m.addPoison (a / 64)).addPoison (a / 64 + 1) else m
    let m2 := m1.moveNeve s.freeCtr (a / 128) x.stack
    let m3 := if m.cursor + 1 = sliceLines then
        { m2 with slices := m2.slices.filter (·.slice != x.slice) ++ [x], moves := rest, cursor := 0 }
      else { m2 with cursor := m.cursor + 1 }
    let s1 := { s.setMem m3 with freeCtr := s.freeCtr + 4 }
    .next (if uncorrectable then s1.logEvent evCalvPoison (m.home x.slice).1 1 0 a 0 else s1)
  | _, _ => .next s

/-- Every slice is copied; the victim's Neve is written back (R313). -/
def execCalvMoveDone (s : State) : Out :=
  .next (if s.mem.calv = .move ∧ s.mem.moves = [] then
    s.setMem { s.mem with calv := .settle, neve := s.mem.neve.filter (·.stack != s.mem.victim) } else s)

/-- Whether a request that was admitted in a phase is not complete (R313, R315). -/
def State.stamped (s : State) (phase : Nat) : Bool :=
  (List.finRange 128).any fun k => (s.eng k .c).flight.any fun f => f.reqs.any (·.stamp == phase)

/-- Requests of the phase before have completed: the victim is powered down, and CALV_DONE is posted (R313, R426). -/
def execCalvSettleDone (s : State) : Out :=
  let m := s.mem
  if m.calv = .settle ∧ s.stamped ((m.mphase + 2 ^ 16 - 1) % 2 ^ 16) = false then
    let s1 := s.setMem { m with calv := .stable, live := m.live &&& ~~~(1#8 <<< m.victim) }
    let s2 := s1.setMgmt { s1.mgmt with retired := s1.mgmt.retired ||| (1#8 <<< m.victim) }
    .next (s2.memNotice typeCalvDone m.victim m.memcap)
  else .next s

/-- Where a virtual address lies for an event: its device address, 0 where it has none. -/
def State.eventAddr (s : State) (k : Fin 128) (va : Nat) : Nat × Nat :=
  match s.virtual k va 1 .none with
  | .ok ((.here flat _, _) :: _, _) => s.mem.eventAt (flat / 64)
  | _ => (0, 0)

/-- The address of a request. -/
def ReqKind.address : ReqKind → W64
  | .read ea .. | .fixed ea .. | .write ea .. | .metaRead ea .. | .metaWrite ea .. | .flush ea .. | .drift ea .. => ea
  | .ring _ _ _ _ src .. => src
  | .batch _ rows _ => ((rows.find? (·.1.isSome)).bind (·.1)).getD 0
  | .setE .. | .fail .. | .unstash .. | .send .. | .recv .. | .driftRun .. | .collTell .. | .collEnd .. => 0

/-- A request under way whose stamp is older than MPHASE - 2 faults PHASE, and a record is logged (R315). Accesses of contexts and words
of the other engines are performed as they are admitted, with the stamp of the day. -/
def execPhase (core agent addr stamp : Nat) (s : State) : Out :=
  let k := coreIx core
  let late (f : Flight) : Bool := f.reqs.any fun r => r.stamp == stamp && r.kind.address == w64 addr
  match (s.eng k .c).flight.find? late with
  | some f =>
    if core < 128 ∧ agent = 5 ∧ (s.core k).inst.isSome = true ∧ 2 < (s.mem.mphase + 2 ^ 16 - stamp % 2 ^ 16) % 2 ^ 16 then
      let t : Trap := ⟨.phase, w64 addr, w64 s.mem.mphase⟩
      let at_ := s.eventAddr k addr
      let s1 := s.logEvent evPhase at_.1 1 (s.core k).disp.ctxid.toNat at_.2 0
      let x := s1.faultInfo k agent f.upc t (stamp % 2 ^ 16)
      .next (if faultWins (s1.core k).fault s1.cyc.toNat agent then s1.setCore k { s1.core k with fault := some x } else s1)
    else .next s
  | none => .next s

end Sys2Proof.Machine
end

