-- ==== Sys2Proof/Machine/Remote.lean ====
section
/-! DEFINITION. Requests between packages: those of peers, answers to this package's own, resets and losses of peers, and torus ports
(R147, R298, R353, R362, R364, R389, R390). -/

namespace Sys2Proof.Machine

/-! ### Requests of peers (R147, R298, R389) -/

/-- Whether a run of device addresses meets a NONE region. -/
def MemSide.meetsNone (m : MemSide) (a n : Nat) : Bool :=
  (List.range (n / 65536 + 2)).any fun i => let b := min (a + 65536 * i) (a + n - 1); m.gradeAt b == gradeNone

/-- A request of another package, made for an incarnation of this one: with another it is answered by a reset NAK and not performed;
one that meets a NONE region is refused (R298, R389). -/
def State.servePeer (s : State) (src inc addr len : Nat) (f : State → State) : State :=
  if inc ≠ s.cmd.incarn then s.send (.resetNak src s.cmd.incarn)
  else if s.mem.meetsNone addr len then s.send (.remoteRefused src addr)
  else f s

/-! ### Answers to requests of this package -/

def State.dropRemote (s : State) (id : Nat) : State :=
  s.setFab { s.fab with remote := s.fab.remote.filter fun r => r.id != id }

/-- The engine of a micro-program counter (R103), as an AGENT. -/
def upcAgent (loc : W64) : Nat :=
  match allEng.find? fun e => engCode e == bitsNat loc.toNat 34 2 with
  | some e => engAgent e
  | none => 5

def RemoteReq.agent (r : RemoteReq) : Nat :=
  match r.who with
  | .context c => ctxAgent c
  | .fetch c => ctxAgent c
  | .copy => upcAgent r.loc
  | .stream e => engAgent e
  | .node .. | .inst _ => 8

/-- An answer to a request of a copy word. -/
def Req.answer (q : Req) (id : Nat) (data : List Byte) (poisoned : Bool) : Req :=
  match q.asked with
  | some (off, n) =>
    if n = id then { q with asked := none, got := q.got ++ [(off, data)], bad := if poisoned then q.bad ++ [(off, data.length)] else q.bad }
    else q
  | none => q

/-- What the read of a context or of a stream came back with: a load faults at once; what was fetched ahead stands until its word or
its section is come to (R101, R185). -/
def State.takeAnswer (s : State) (r : RemoteReq) (a : Answer) : State :=
  let k := coreIx r.core
  match r.who with
  | .context c =>
    let x := s.ctx k c
    (match a with
    | .bytes _ =>
      (match x.remote with
      | some w => if w.id = r.id then s.setCtx k c { x with remote := some ⟨w.id, some a⟩ } else s
      | none => s)
    | .poisoned => s.raise k (ctxAgent c) r.loc (poisonTrap r.ea remoteSector)
    | .lost t => s.raise k (ctxAgent c) r.loc t)
  | .fetch c =>
    let x := s.ctx k c
    (match x.fetch with
    | some (pc, w) => if w.id = r.id then s.setCtx k c { x with fetch := some (pc, ⟨w.id, some a⟩) } else s
    | none => s)
  | .stream e =>
    let y := s.eng k e
    (match y.asked with
    | some (id, ea) => if id = r.id then s.setEng k e { y with asked := none, got := y.got ++ [(ea, a)] } else s
    | none => s)
  | .copy | .node .. | .inst _ => s

/-- What the command processor read comes in; an instance whose trip count it is starts (R130, R147). -/
def CpIo.take (x : CpIo) (id : Nat) (data : List Byte) (poisoned : Bool) : CpIo :=
  match x.asked with
  | some (n, va) => if n = id then { x with asked := none, got := x.got ++ [(va, data, poisoned)] } else x
  | none => x

/-- The bytes of a read come in for whoever asked (R301, R353). -/
def State.takeRead (s : State) (r : RemoteReq) (data : List Byte) (poisoned : Bool) : State :=
  let k := coreIx r.core
  let io := s.setIo r.who fun x => x.take r.id data poisoned
  match r.who with
  | .copy =>
    let y := s.eng k .c
    s.setEng k .c { y with flight := y.flight.map fun f => { f with reqs := f.reqs.map fun q => q.answer r.id data poisoned } }
  | .node .. => io
  | .inst c =>
    (match io.inst? c with
    | some i => if i.state == .reading then io.begin i else io
    | none => io)
  | .context _ | .fetch _ | .stream _ => s.takeAnswer r (if poisoned then .poisoned else .bytes data)

/-- A write is performed at its target (R347): its word or its node has one less to wait for. -/
def State.takeWritten (s : State) (r : RemoteReq) : State :=
  match r.who with
  | .copy => s.writePerformed (coreIx r.core) r.id
  | .node q idx =>
    let s1 := s.setIo r.who fun x => { x with out := x.out.filter (· != r.id) }
    (match s1.fab.colls.find? fun c => c.node == some (q, idx) with
    | some c => s1.collProgress c.id
    | none => s1)
  | .context _ | .fetch _ | .stream _ | .inst _ => s

/-- The outstanding request of a number; it cannot be answered while it waits for a torus port (R390). -/
def State.answered (s : State) (id : Nat) (write : Bool) : Option RemoteReq :=
  if s.fab.parked.any fun x => x.2.2.number == some id then none else s.fab.remote.find? fun r => r.id == id && r.write == write

/-- A request of a peer is performed here, or a request of this package has been performed at its target (R147, R353). -/
def execRemoteRequest (m : RemoteMsg) (s : State) : Out :=
  match m with
  | .inRead src inc addr len =>
    .next (s.servePeer src inc addr len fun t => t.send (.remoteReply src (t.mem.read addr len) (t.mem.poisonedAt addr len).isSome))
  | .inWrite src inc addr data bad =>
    .next (s.servePeer src inc addr data.length fun t =>
      t.setMem ((sectorsOf addr (runsIn bad 0 data.length)).foldl (fun x p => x.addPoison p) (t.mem.write addr data)))
  | .readDone id data poisoned =>
    (match s.answered id false with
    | some r => .next (if data.length = r.len then (s.dropRemote id).takeRead r data poisoned else s)
    | none => .next s)
  | .writeDone id =>
    (match s.answered id true with
    | some r => .next ((s.dropRemote id).takeWritten r)
    | none => .next s)

/-! ### Resets and losses of peers (R364, R371, R377, R389) -/

/-- REMOTE_LOST (R381). -/
def lostTrap (ea : W64) (pkg inc : Nat) : Trap := ⟨.remoteLost, ea, w64 (pkg * 2 ^ 32 + inc)⟩

/-- Whether a package is a member of the group of a collective (R357). -/
def State.collMember (s : State) (c : Coll) (pkg : Nat) : Bool :=
  pkg != s.pkg && (List.range (c.nmem + 1)).any fun r => s.memberPkg c.group r == pkg

/-- Whether every core of a core's gang has completed: then no fault is possible any more (R385, R399). -/
def State.gangComplete (s : State) (k : Fin 128) : Bool := (s.gangOf k).all fun j => (s.core j).seq == .complete

/-- A request of a core or of the command processor fails (R389): what was fetched ahead only when its word or section is come to. -/
def State.failRequest (s : State) (r : RemoteReq) (t : Trap) : State :=
  let k := coreIx r.core
  match r.who with
  | .node q idx =>
    (match s.fab.colls.find? fun c => c.node == some (q, idx) with
    | some c => s.failColl c t
    | none => s.failNode q idx r.pasid t)
  | .inst c =>
    (match s.inst? c with
    | some i => s.failInst i t
    | none => s)
  | .copy => s.raise k r.agent r.loc t
  | .context _ | .fetch _ | .stream _ =>
    if !r.write then s.takeAnswer r (.lost t) else if s.gangComplete k then s else s.raise k r.agent r.loc t

/-- A message on a channel is lost: its CSEND faults, and the end is of no more use (R364, R389, log entry 89). -/
def State.loseMessage (s : State) (c : Fin 32) (m : Sent) (t : Trap) : State :=
  let waits (f : Flight) : Bool := f.wait == .message c.val m.n
  let s1 := match (s.eng (coreIx m.core) .c).flight.find? waits with
    | some f => s.raise (coreIx m.core) 5 f.upc t
    | none => s
  s1.breakEnd c

/-- The end and the message of a number sent to a package at a TIME or before, and not confirmed. -/
def State.messageOf (s : State) (pkg id old : Nat) : Option (Fin 32 × Sent) :=
  ((List.range 32).map chIx).findSome? fun c =>
    if (s.chan c).peer = pkg then
      ((s.chan c).sent.find? fun m => m.serial == id && !m.confirmed && decide (m.time ≤ old)).map fun m => (c, m)
    else none

/-- A request, batch, message or collective fails with REMOTE_LOST; `old`: only one first sent at that TIME or before. -/
def State.loseRequest (s0 : State) (pkg id old : Nat) : State :=
  let inc := s0.incOf pkg
  let s := s0.setFab { s0.fab with parked := s0.fab.parked.filter fun x => x.2.2.number != some id }
  match s.fab.remote.find? fun r => r.id == id && r.target == pkg && decide (r.sent ≤ old) with
  | some r => (s.dropRemote id).failRequest r (lostTrap r.ea pkg inc)
  | none =>
    match s.fab.batches.find? fun b => b.serial == id && b.target == pkg && decide (b.first ≤ old) with
    | some b => (s.dropBatch b).raise (coreIx b.core) 5 b.upc (lostTrap b.ea pkg inc)
    | none =>
      match s.messageOf pkg id old with
      | some (c, m) => s.loseMessage c m (lostTrap 0 pkg inc)
      | none =>
        match s.fab.colls.find? fun c => c.id == id && s.collMember c pkg with
        | some c => s.failColl c (lostTrap 0 pkg inc)
        | none => s0

/-- A new incarnation of a package is recorded (R389). -/
def State.recordInc (s : State) (pkg inc : Nat) : State :=
  if s.incOf pkg < inc then s.setFab { s.fab with incs := sset 0 s.fab.incs pkg inc } else s

/-- A reset NAK (R389): the new incarnation is recorded, and the request faults. -/
def execResetNak (pkg id inc : Nat) (s : State) : Out := .next ((s.recordInc pkg inc).loseRequest pkg id s.time)

/-- 20 µs without an answer since the first sending (R362, R389). -/
def lostAfter : Nat := 20 * Config.usNs

def execRemoteTimeout (pkg id : Nat) (s : State) : Out :=
  .next (if lostAfter ≤ s.time then s.loseRequest pkg id (s.time - lostAfter) else s)

/-- Receiving and sending ends whose other end is on a package. -/
def State.endsTo (s : State) (pkg : Nat) : List (Fin 32) :=
  ((List.range 32).map chIx).filter fun c => (s.chan c).state == .opened && (s.chan c).peer == pkg

/-- A package announces a new incarnation (R362, R364, R371, R389): its replay table here goes, channels to it break, and collectives
and spanning stages with it fail. -/
def execIncarnationAnnounce (pkg inc : Nat) (s : State) : Out :=
  if pkg = s.pkg ∨ inc ≤ s.incOf pkg then .next s
  else
    let s1 := s.recordInc pkg inc
    let s2 := s1.setFab { s1.fab with replay := s1.fab.replay.filter fun r => r.src != pkg }
    let s3 := (s2.endsTo pkg).foldl (fun (t : State) c => t.breakEnd c) s2
    let s4 := (s3.fab.colls.filter fun c => s3.collMember c pkg).foldl (fun (t : State) c => t.failColl c (lostTrap 0 pkg inc)) s3
    .next ((s4.stages.list.filter fun st => st.desc.span.contains pkg).foldl (fun (t : State) st => t.failStage st 0 (lostTrap 0 pkg inc)) s4)

/-! ### Torus ports (R390) -/

def execTorusPortDown (port : Nat) (s : State) : Out :=
  .next (if port < 6 then s.setFab { s.fab with portsDown := kadd port s.fab.portsDown } else s)

/-- Whether what a message carries is still waited for. -/
def State.wanted (s : State) (m : OutMsg) : Bool :=
  match m with
  | .remoteRead id .. | .remoteWrite id .. => s.fab.remote.any fun r => r.id == id
  | .batch target _ id .. => s.fab.batches.any fun b => b.target == target && b.id == id
  | _ => true

/-- What waited for a port and can leave now does, in order. -/
def execTorusPortUp (port : Nat) (s : State) : Out :=
  let s1 := s.setFab { s.fab with portsDown := kdel port s.fab.portsDown }
  let go (x : Nat × Bool × OutMsg) : Bool := s1.portOpen x.2.1 x.1
  let s2 := s1.setFab { s1.fab with parked := s1.fab.parked.filter fun x => !go x }
  .next ((s1.fab.parked.filter fun x => go x && s1.wanted x.2.2).foldl (fun (t : State) x => t.send x.2.2) s2)

end Sys2Proof.Machine
end

