-- ==== Sys2Proof/Machine/Registers.lean ====
section
/-! DEFINITION. Accesses of the host: BAR4, and the registers of BAR0 (R2, R105 to R112, R125, R144, R146, R317, R357, R363, R378,
R426). -/

namespace Sys2Proof.Machine

/-! ### BAR4 (R106, R298, R301) -/

/-- A byte through BAR4: all ones in a NONE region and in no tier. -/
def MemSide.bar4Byte (m : MemSide) (a : Nat) : Byte := if m.gradeAt a = gradeNone then 0xFF else m.byte a

/-- Poison that a read through BAR4 meets. -/
def MemSide.bar4Poison (m : MemSide) (a n : Nat) : Bool :=
  m.poison.any fun p => decide (a < p * 64 + 64) && decide (p * 64 < a + n) && m.gradeAt (p * 64) != gradeNone

/-- Bytes of BAR4 (R105). -/
def CmdProc.bar4Size (c : CmdProc) : Nat := 2 ^ c.bar4

/-- A host read of device memory; the completion carries the poisoned-data bit (R106, R301). In host-load mode only the management
region answers (R432). -/
def execBar4Read (off len : Nat) (s : State) : Out :=
  if s.mgmt.hostLoad = true ∨ s.cmd.bar4Size < off + len then .next s
  else
    let a := s.cmd.apbase.toNat + off
    .next (s.send (.bar4Data ((List.range len).map fun i => s.mem.bar4Byte (a + i)) (s.mem.bar4Poison a len)))

/-- Bytes written through BAR4 piece by piece; a piece in a NONE region or in no tier is discarded. -/
def MemSide.bar4Write (m : MemSide) (data : List Byte) : List (Nat × Nat) → MemSide
  | [] => m
  | (a, n) :: t => (if m.gradeAt a = gradeNone then m else m.write a (data.take n)).bar4Write (data.drop n) t

/-- A host write of device memory (R106, R298). -/
def execBar4Write (off : Nat) (data : List Byte) (s : State) : Out :=
  if s.mgmt.hostLoad = true ∨ s.cmd.bar4Size < off + data.length then .next s
  else
    let a := s.cmd.apbase.toNat + off
    .next (s.setMem (s.mem.bar4Write data (pieces 0 (data.length / 65536 + 2) a data.length)))

/-! ### Reading a register -/

def bit (b : Bool) (n : Nat) : Nat := if b then 2 ^ n else 0

/-- QSTAT (R112). -/
def State.qstat (s : State) (q : Nat) : Nat :=
  let x := s.queue q
  let nout := (s.cmd.nodes.filter fun n => n.q == q).length
  let reading := x.en && x.head != x.tail && x.waiting.isEmpty
  nout * 2 ^ 16 + bit x.ringerr 4 + bit x.cfgerr 3 + bit x.kickerr 2 + bit (!x.waiting.isEmpty) 1 +
    bit (nout == 0 && !reading) 0

/-- A register of a queue block (R112). -/
def State.queueReg (s : State) (q off : Nat) : Nat :=
  let x := s.queue q
  match off with
  | 0x00 => x.qbase.toNat
  | 0x08 => x.qcb.toNat
  | 0x10 => x.cbase.toNat
  | 0x18 => x.qcfg.toNat
  | 0x20 => bit x.en 0
  | 0x24 => s.qstat q
  | 0x28 => x.tail.toNat
  | 0x2C => x.head.toNat
  | _ => 0

def calvCode : CalvState → Nat
  | .stable => 0 | .prepare => 1 | .move => 2 | .settle => 3

/-- A register of the memory side (R317). -/
def State.memReg (s : State) (off : Nat) : Nat :=
  let m := s.mem
  match off with
  | 0x90000 => m.memcap
  | 0x90008 => m.mphase
  | 0x90010 => m.calvctl.toNat
  | 0x90018 => m.live.toNat * 2 ^ 8 + m.refuse * 2 ^ 4 + calvCode m.calv
  | 0x90020 => m.moves.length
  | 0x90040 => m.rgcmd.toNat
  | 0x90060 => m.tmsrc.toNat
  | 0x90068 => m.tmdst.toNat
  | 0x90070 => m.tmlen.toNat
  | 0x90078 => m.tmcmd.toNat
  | 0x90180 => bit m.overflow 63 + m.pending.length
  | 0x90200 => m.mevbase.toNat
  | 0x90208 => m.mevcfg.toNat
  | 0x90210 => m.mevtail.toNat
  | 0x90214 => m.mevhead.toNat
  | 0x90218 => m.mevlost.toNat
  | 0x90280 => m.racth.toNat
  | _ =>
    if 0x90100 ≤ off ∧ off < 0x90160 then
      let t : Fin 3 := Fin.ofNat 3 ((off - 0x90100) / 0x20)
      match off % 0x20 with
      | 0x00 => m.tocc t.val
      | 0x08 => (m.thigh[t]).toNat
      | 0x10 => (m.tlow[t]).toNat
      | 0x18 => if t = 0 then 0 else (m.promth[t]).toNat
      | _ => 0
    else if 0x90240 ≤ off ∧ off < 0x90260 then (m.zpcount[Fin.ofNat 4 ((off - 0x90240) / 8)]).toNat
    else if 0x90260 ≤ off ∧ off < 0x90280 then (m.cecount[Fin.ofNat 4 ((off - 0x90260) / 8)]).toNat
    else if 0xC0000 ≤ off ∧ off < 0xD0000 then (sget (0 : W64) m.hact ((off - 0xC0000) / 8)).toNat
    else 0

def endCode : EndState → Nat
  | .idle => 0 | .opened => 1 | .broken => 2

/-- A word of a channel end (R363). -/
def ChEnd.word (x : ChEnd) (w : Nat) : Nat :=
  match w with
  | 0 => x.w0.toNat + endCode x.state * 2 ^ 59
  | 1 => if x.isSend then 0 else x.w1.toNat
  | 2 => x.sseq.toNat * 2 ^ 32 + x.aseq.toNat
  | 3 => if x.isSend then 0 else x.rdseq.toNat * 2 ^ 32
  | _ => 0

def parkCode : PState → Nat
  | .active => 0 | .parking => 1 | .parked => 2

/-- A register of the management controller (R426). -/
def State.mgmtReg (s : State) (off : Nat) : Nat :=
  let g := s.mgmt
  match off with
  | 0x80000 => g.pwr
  | 0x80004 => g.plim
  | 0x80008 => g.clkmhz
  | 0x8000C => g.throt.toNat
  | 0x80050 => bit g.parkReq 0 + parkCode g.pstate * 2 ^ 4
  | 0x80060 => g.swth.toNat
  | 0x80064 => g.retired.toNat
  | 0x80068 => g.mcerr.toNat
  | 0x80070 => g.mcerrcnt.toNat
  | 0x80080 => g.fwver
  | 0x80084 => g.fwsvn
  | 0x80088 => bit g.hostLoaded 0 + bit g.ownerKey.isSome 1
  | 0x800C0 => bit g.fwbusy 62 + g.fwstatus % 64 * 2 ^ 56 + g.fwcmd
  | 0x800C8 => g.fwarg.toNat
  | 0x800D0 => g.fwlen.toNat
  | _ =>
    if 0x80010 ≤ off ∧ off < 0x80024 then bitsOfInt 16 (nth 0 g.temp ((off - 0x80010) / 4))
    else if 0x80030 ≤ off ∧ off < 0x80050 then bitsOfInt 16 (nth 0 g.stemp ((off - 0x80030) / 4))
    else if 0x800A0 ≤ off ∧ off < 0x800C0 then leNum ((g.fwhash.drop (off - 0x800A0)).take 8)
    else 0

/-- A register of the command processor (R109, R378). -/
def State.cqiReg (s : State) (off : Nat) : Nat :=
  let c := s.cmd
  match off with
  | 0x0000 => 0x00010000
  | 0x0008 => 0x7F
  | 0x0010 => 4096
  | 0x0014 => c.incarn
  | 0x0018 => c.pasidtb.toNat
  | 0x0020 => c.pasidsz.toNat
  | 0x0028 => c.apbase.toNat
  | 0x0040 => c.nqbase.toNat
  | 0x0048 => c.nqcfg.toNat
  | 0x0050 => c.nqtail.toNat
  | 0x0054 => c.nqhead.toNat
  | 0x0070 => s.mem.tlbinva.toNat
  | 0x0078 => s.mem.tlbinvl.toNat
  | 0x0080 => s.mem.tlbinvc.toNat
  | 0xB0000 => c.frbase.toNat
  | 0xB0008 => c.frcfg.toNat
  | 0xB0010 => c.frtail.toNat
  | 0xB0014 => c.frhead.toNat
  | 0xB0020 => c.wddef.toNat
  | 0xB0040 => c.ctxbase.toNat
  | 0xB0048 => c.ctxcfg.toNat
  | 0xB0050 => s.ctxFree.length
  | _ => 0

/-- A dword of the MSI-X table and of its pending bits (R125). -/
def State.msixReg (s : State) (off : Nat) : Nat :=
  if 0xD0000 ≤ off ∧ off < 0xD8000 then
    let e := (off - 0xD0000) / 16
    if off / 4 % 4 = 3 then bit (!s.cmd.unmasked.contains e) 0 else (sget (0 : W32) s.cmd.msix (e * 4 + off / 4 % 4)).toNat
  else if 0xD8000 ≤ off ∧ off < 0xD8100 then
    ((List.range 32).map fun i => bit (s.cmd.pba.contains ((off - 0xD8000) / 4 * 32 + i)) i).foldl (· + ·) 0
  else 0

/-- A word of an aperture entry as written (R146). -/
def State.aptReg (s : State) (entry word : Nat) : Nat := (sget (0 : W64) s.cmd.apt (entry * 4 + word)).toNat

/-- What the register at an offset of BAR0 reads as; an offset not listed reads as 0 (R109). In host-load mode only the management
region answers (R432). -/
def State.readReg (s : State) (off : Nat) : Nat :=
  if off < 0x80000 ∧ s.mgmt.hostLoad = true then 0
  else if 0x100 ≤ off ∧ off < 0x900 then s.aptReg ((off - 0x100) / 32) (off % 32 / 8)
  else if 0x10000 ≤ off ∧ off < 0x50000 then s.queueReg ((off - 0x10000) / 64) (off % 64)
  else if 0x80000 ≤ off ∧ off < 0x90000 then s.mgmtReg off
  else if 0x90000 ≤ off ∧ off < 0xA0000 then s.memReg off
  else if 0xA0000 ≤ off ∧ off < 0xA0400 then s.groupWord ((off - 0xA0000) / 64) (off % 64 / 8)
  else if 0xA0400 ≤ off ∧ off < 0xA0C00 then (s.chan (chIx ((off - 0xA0400) / 64))).word (off % 64 / 8)
  else if 0xC0000 ≤ off ∧ off < 0xD0000 then s.memReg off
  else if 0xD0000 ≤ off then s.msixReg off
  else s.cqiReg off

/-- A read of an aperture entry: from here on requests use its contents (R148). -/
def State.liveApt (s : State) (e : Nat) : State :=
  s.setCmd { s.cmd with
    aptLive := [0, 1, 2, 3].foldl (fun l w => sset (0 : W64) l (e * 4 + w) (sget 0 s.cmd.apt (e * 4 + w))) s.cmd.aptLive }

/-- The host reads BAR0 at an offset (R2, R109): the completion carries the register's value. -/
def hostRead (off : Nat) (s : State) : State :=
  let s1 := s.send (.hostData (s.readReg off))
  if 0x100 ≤ off ∧ off < 0x900 ∧ s.mgmt.hostLoad = false then s1.liveApt ((off - 0x100) / 32) else s1

/-- The host reads the BAR2 page of a queue: the tail at offset 0, and 0 elsewhere (R105, R115). -/
def kickRead (q off : Nat) (s : State) : State :=
  if q < 4096 ∧ s.mgmt.hostLoad = false then s.send (.hostData (if off = 0 then (s.queue q).tail.toNat else 0)) else s

/-- The host sizes BAR4, 1 GiB to 2 TiB (R105). -/
def sizeBar4 (log2 : Nat) (s : State) : State := if 30 ≤ log2 ∧ log2 ≤ 41 then s.setCmd { s.cmd with bar4 := log2 } else s

/-! ### Writing a register -/

def lo32 (v : W64) : W32 := BitVec.ofNat 32 v.toNat

/-- A queue block (R112): the rings and QCFG ignore writes while EN = 1; error bits are cleared by writing 1. -/
def State.writeQueue (s : State) (q off : Nat) (v : W64) : State :=
  let x := s.queue q
  let put (y : Queue) : State := if x.en then s else s.setQueue q y
  match off with
  | 0x00 => put { x with qbase := v }
  | 0x08 => put { x with qcb := v }
  | 0x10 => put { x with cbase := v }
  | 0x18 => put { x with qcfg := v &&& 0xFFFFFFFFFFC00000#64 }
  | 0x24 => s.setQueue q { x with
      ringerr := x.ringerr && !v.getLsbD 4, cfgerr := x.cfgerr && !v.getLsbD 3, kickerr := x.kickerr && !v.getLsbD 2 }
  | _ => s

/-- A watermark, threshold or occupancy of a tier (R307, R317). -/
def State.writeTier (s : State) (t : Fin 3) (off : Nat) (v : W64) : State :=
  let m := s.mem
  match off with
  | 0x00 => if t = 2 then (s.setMem { m with tocc2 := v }).occupancy 2 (m.tocc 2) else s
  | 0x08 => s.setMem { m with thigh := m.thigh.set t v }
  | 0x10 => s.setMem { m with tlow := m.tlow.set t v }
  | 0x18 => if t = 0 then s else s.setMem { m with promth := m.promth.set t (v &&& 0xFFFF) }
  | _ => s

/-- A register of the memory side (R317): the move registers ignore writes while a move is BUSY. -/
def State.writeMem (s : State) (off : Nat) (v : W64) : State :=
  let m := s.mem
  let still := m.tmcmd &&& bitBusy = 0
  match off with
  | 0x90060 => if still then s.setMem { m with tmsrc := v } else s
  | 0x90068 => if still then s.setMem { m with tmdst := v } else s
  | 0x90070 => if still then s.setMem { m with tmlen := v } else s
  | 0x90180 => s.setMem { m with overflow := m.overflow && !v.getLsbD 63 }
  | 0x90200 => s.setMem { m with mevbase := v }
  | 0x90208 => s.setMem { m with mevcfg := v &&& 0xF1 }
  | 0x90214 => s.setMem { m with mevhead := lo32 v }
  | 0x90218 => s.setMem { m with mevlost := 0 }
  | 0x90280 => s.setMem { m with racth := lo32 v &&& 0xFFFF }
  | _ =>
    if 0x90100 ≤ off ∧ off < 0x90160 then s.writeTier (Fin.ofNat 3 ((off - 0x90100) / 0x20)) (off % 0x20) v
    else if 0xC0000 ≤ off ∧ off < 0xD0000 ∧ off % 8 = 0 then
      s.setMem { m with hact := sset (0 : W64) m.hact ((off - 0xC0000) / 8) (v &&& 0xFFFFFFFFFFE00001#64) }
    else s

/-- A word of a group entry (R357): a write of V = 0 during a collective of the group faults it (R358). -/
def State.writeGroup (s : State) (g w : Nat) (v : W64) : State :=
  let put (mask : W64) : State := s.setFab { s.fab with groups := sset (0 : W64) s.fab.groups (g * 8 + w) (v &&& mask) }
  match w with
  | 0 =>
    let s1 := put 0xC00FFFFFFFFFFF7F#64
    if v.getLsbD 63 then s1
    else match s1.groupColl g with
      | some c => s1.failColl c groupTrap
      | none => s1
  | 1 => put 0x0000FFFFFFFFFFFF#64
  | _ => s

/-- A word of a remote-aperture entry (R146), which requests use once it has been read (R148). -/
def State.writeApt (s : State) (e w : Nat) (v : W64) : State :=
  let mask : W64 := match w with
    | 0 => 0xC0000FFFFFFFFFFF#64
    | 1 => 0x0000FFFFFFFFFFFF#64
    | 2 => 0x000003FFFFFFFFFF#64
    | _ => 0
  s.setCmd { s.cmd with apt := sset (0 : W64) s.cmd.apt (e * 4 + w) (v &&& mask) }

/-- A register of the command processor without behaviour of its own (R109, R378); turning the fault ring off lets what waits for it
go on (R382). -/
def State.writeCqi (s : State) (off : Nat) (v : W64) : State :=
  let c := s.cmd
  match off with
  | 0x0018 => s.setCmd { c with pasidtb := v }
  | 0x0020 => s.setCmd { c with pasidsz := lo32 v }
  | 0x0028 => s.setCmd { c with apbase := v }
  | 0x0040 => s.setCmd { c with nqbase := v }
  | 0x0070 => s.setMem { s.mem with tlbinva := v }
  | 0x0078 => s.setMem { s.mem with tlbinvl := v }
  | 0xB0000 => s.setCmd { c with frbase := v }
  | 0xB0008 => let s1 := s.setCmd { c with frcfg := v &&& 0xF1 }; s1.drainRecords s1.cmd.frwait.length
  | 0xB0020 => s.setCmd { c with wddef := lo32 v &&& 0x3FFF }
  | 0xB0040 => s.setCmd { c with ctxbase := v }
  | 0xB0048 => s.setCmd { c with ctxcfg := v &&& 0xFFFF001F }
  | _ => s

/-- A register of the management controller without behaviour of its own (R426): FWARG and FWLEN ignore writes while BUSY. -/
def State.writeMgmt (s : State) (off : Nat) (v : W64) : State :=
  let g := s.mgmt
  match off with
  | 0x80004 => s.setMgmt { g with plim := v.toNat % 2 ^ 16 }
  | 0x8000C => s.setMgmt { g with throt := g.throt &&& ~~~(BitVec.ofNat 3 v.toNat) }
  | 0x80060 => s.setMgmt { g with swth := lo32 v }
  | 0x80070 => s.setMgmt { g with mcerrcnt := 0 }
  | 0x800C0 => if v.getLsbD 63 then s else s.setMgmt { g with fwcmd := v.toNat % 256 }
  | 0x800C8 => if g.fwbusy then s else s.setMgmt { g with fwarg := v }
  | 0x800D0 => if g.fwbusy then s else s.setMgmt { g with fwlen := v }
  | _ => s

/-- A dword of the MSI-X table; setting the mask bit masks the entry (R125). -/
def State.writeMsix (s : State) (off : Nat) (v : W64) : State :=
  let e := (off - 0xD0000) / 16
  if 0xD8000 ≤ off then s
  else if off / 4 % 4 = 3 then (if v.getLsbD 0 then s.setCmd { s.cmd with unmasked := kdel e s.cmd.unmasked } else s)
  else s.setCmd { s.cmd with msix := sset (0 : W32) s.cmd.msix (e * 4 + off / 4 % 4) (lo32 v) }

/-- A write to a register that has no behaviour of its own (R2): reserved and read-only bits, and offsets not listed, ignore it; a
register whose writes are steps of their own is left to them. -/
def execRegisterWrite (off : Nat) (v : W64) (s : State) : Out :=
  if off < 0x80000 ∧ s.mgmt.hostLoad = true then .next s
  else if 0x100 ≤ off ∧ off < 0x900 then .next (if off % 8 = 0 then s.writeApt ((off - 0x100) / 32) (off % 32 / 8) v else s)
  else if 0x10000 ≤ off ∧ off < 0x50000 then .next (s.writeQueue ((off - 0x10000) / 64) (off % 64) v)
  else if 0x80000 ≤ off ∧ off < 0x90000 then .next (s.writeMgmt off v)
  else if 0x90000 ≤ off ∧ off < 0xA0000 then .next (s.writeMem off v)
  else if 0xA0000 ≤ off ∧ off < 0xA0400 ∧ off % 8 = 0 then .next (s.writeGroup ((off - 0xA0000) / 64) (off % 64 / 8) v)
  else if 0xA0400 ≤ off ∧ off < 0xA0C00 then
    if off % 64 = 8 then
      let c := chIx ((off - 0xA0400) / 64)
      -- RBASE is a field of receiving ends only (R2, R363)
      .next (if (s.chan c).isSend then s else s.setChan c { s.chan c with w1 := v &&& 0x0000FFFFFFFFFFFF#64 })
    else .next s
  else if 0xC0000 ≤ off ∧ off < 0xD0000 then .next (s.writeMem off v)
  else if 0xD0000 ≤ off ∧ off < 0xE0000 then .next (s.writeMsix off v)
  else .next (s.writeCqi off v)

end Sys2Proof.Machine
end

