-- ==== Sys2Proof/Machine/Manage.lean ====
section
/-! DEFINITION. The management controller: power and heat, parking, corrected errors, firmware commands, and resets (R426 to R436). -/

namespace Sys2Proof.Machine

/-! ### Power and heat (R427, R428) -/

/-- PLIM as it acts (R426). -/
def Mgmt.limit (g : Mgmt) : Nat := max 1200 (min 2400 g.plim)

def hotSensor (x : Sensors) (die stack : Int) : Bool := x.dieTemp.any (fun t => decide (die ≤ t)) || x.stackTemp.any fun t => decide (stack ≤ t)

/-- MCERR takes a cause and TIME in µs, and the errors are counted (R426, R428). -/
def State.logError (s : State) (cause : Nat) : State :=
  s.setMgmt { s.mgmt with mcerr := w64 (cause % 256 * 2 ^ 56 + s.time / Config.usNs % 2 ^ 56), mcerrcnt := s.mgmt.mcerrcnt + 1 }

/-- A trip: nothing of the package runs on until a cold reset (R428). -/
def State.tripped (s : State) (cause : Nat) : State :=
  let s1 := (s.logError cause).send .linkDropped
  s1.setMgmt { s1.mgmt with powered := false }

/-- A die at 110 °C or a stack at 100 °C (R428). -/
def tripSensor (x : Sensors) : Bool := hotSensor x (110 * 16) (100 * 16)

/-- The power controller's step, every 10 µs (R427): the clock goes down or up by one step of 125 MHz (log entry 28); sensors at the
limits of R428 are a trip. -/
def execPowerControlTick (x : Sensors) (s : State) : Out :=
  let g := s.mgmt
  if s.time < g.lastTick + 10 * Config.usNs then .next s
  else
    let above := decide (g.limit < x.power)
    let heat := hotSensor x (100 * 16) (90 * 16)
    let hot := heat || (g.hot && hotSensor x (95 * 16 + 1) (85 * 16 + 1))
    let clk :=
      if above || heat then max 1000 (g.clkmhz - 125)
      else if decide (100 * x.power < 95 * g.limit) && !hot then min 4000 (g.clkmhz + 125) else g.clkmhz
    let causes : BitVec 3 := (if above then 1 else 0) ||| (if heat then 2 else 0) ||| (if x.d2dOver then 4 else 0)
    let s1 := s.setMgmt { g with
      pwr := x.power % 2 ^ 16, temp := (x.dieTemp ++ List.replicate 5 0).take 5, stemp := (x.stackTemp ++ List.replicate 8 0).take 8
      clkmhz := clk, throt := g.throt ||| causes, hot := hot, lastTick := s.time }
    .next (if tripSensor x then s1.tripped 1 else s1)

/-- A trip (R428): cause 1 THERMAL, by what the sensors show, or 2 SUPPLY, by a supply fault. -/
def execTrip (signs : TripSigns) (s : State) : Out :=
  .next (if (signs.cause = 1 ∧ tripSensor signs.sensors = true) ∨ signs.cause = 2 then s.tripped signs.cause else s)

def execLinkRetrain (s : State) : Out := .next (s.logError 3)
def execFirmwareError (s : State) : Out := .next (s.logError 4)

/-! ### Parking (R429) -/

/-- PARK is written 1: every scheduler evaluates, and members of spanning stages report no gang free. -/
def execParkRequest (s : State) : Out :=
  let g := s.mgmt
  .next (s.setMgmt { g with parkReq := true, pstate := if g.pstate = .active then .parking else g.pstate }).markAll

/-- No instance is left, and no Calving or tier move is under way. -/
def execParkedEnter (s : State) : Out :=
  .next (if s.mgmt.pstate = .parking ∧ s.cmd.insts.isEmpty = true ∧ s.mem.calv = .stable ∧ s.mem.tmcmd &&& bitBusy = 0 then
    s.setMgmt { s.mgmt with pstate := .parked } else s)

/-- PARK is written 0: every armed stage evaluates. -/
def execParkClear (s : State) : Out := .next (s.setMgmt { s.mgmt with parkReq := false, pstate := .active }).markAll

/-! ### Corrected errors (R300, R430) -/

def hourNs : Nat := 3600 * 10 ^ 9

/-- A window of one hour that has passed gives way to the next. -/
def Mgmt.newWindow (g : Mgmt) (st : Fin 8) (now : Nat) : Mgmt :=
  if g.windowStart[st] + hourNs ≤ now then
    { g with windowStart := g.windowStart.set st now, windowCount := g.windowCount.set st 0, windowPosted := g.windowPosted.set st false }
  else g

def execStackWarnWindow (stack : Nat) (s : State) : Out :=
  .next (if stack < 8 then s.setMgmt (s.mgmt.newWindow (Fin.ofNat 8 stack) s.time) else s)

/-- An error of flipped bits that the grade's check corrects, in a sector of a stack (R296, R300): CECOUNT of its die, the window's
count, and once in a window STACK_WARN with that count (log entry 29). -/
def execCorrectedError (error : SectorError) (s : State) : Out :=
  let a := error.sector * 64
  if s.mem.memcap ≤ a ∨ error.flips = [] ∨ corrects (s.mem.gradeAt a) error.flips = false then .next s
  else
    let stack := (s.mem.homeAt a).1
    let st : Fin 8 := Fin.ofNat 8 stack
    let die : Fin 4 := Fin.ofNat 4 (stack / 2)
    let g := s.mgmt.newWindow st s.time
    let n := g.windowCount[st] + 1
    let post := g.swth != 0 && decide (g.swth.toNat ≤ n) && !g.windowPosted[st]
    let s1 := s.setMem { s.mem with cecount := s.mem.cecount.set die (s.mem.cecount[die] + 1) }
    let s2 := s1.setMgmt { g with windowCount := g.windowCount.set st n, windowPosted := if post then g.windowPosted.set st true else g.windowPosted }
    .next (if post then s2.memNotice typeStackWarn stack n else s2)

/-! ### Images (R431 to R433) -/

def fwOk : Nat := 0
def fwBadSig : Nat := 1
def fwRollback : Nat := 2
def fwState : Nat := 3
def fwExhausted : Nat := 4
def fwFlash : Nat := 5
def fwFormat : Nat := 6

def headerBytes : Nat := 4096

/-- An image's header: magic, version, SVN and length of 32 bits each, then the hash (log entry 15). -/
structure Image where
  magic : Nat
  version : Nat
  svn : Nat
  len : Nat
  hash : List Byte
  header : List Byte
  body : List Byte
  sig1 : List Byte
  sig2 : List Byte

def readImage (bs : List Byte) : Image :=
  let f (o : Nat) : Nat := leNum ((bs.drop o).take 4)
  let n := f 12
  let rest := bs.drop (headerBytes + n)
  ⟨f 0, f 4, f 8, n, (bs.drop 16).take 32, bs.take headerBytes, (bs.drop headerBytes).take n, rest.take lmsSigBytes,
    (rest.drop lmsSigBytes).take lmsSigBytes⟩

/-- Steps 2 to 5 of R431 as a STATUS. -/
def Mgmt.verify (g : Mgmt) (bs : List Byte) : Nat :=
  let i := readImage bs
  if i.magic ≠ 0x4B465749 ∨ bs.length < headerBytes + i.len + lmsSigBytes ∨ sha256 i.body ≠ i.hash then fwFormat
  else if !lmsVerifies Config.rootKey i.header i.sig1 then fwBadSig
  else if (match g.ownerKey with
    | some k => !lmsVerifies k i.header i.sig2
    | none => false) then fwBadSig
  else if i.svn < g.minSvn then fwRollback
  else fwOk

/-- The management controller with an image running (R431 steps 5 and 6). -/
def Mgmt.run (g : Mgmt) (bs : List Byte) (host : Bool) : Mgmt :=
  let i := readImage bs
  { g with fwver := i.version, fwsvn := i.svn, fwhash := i.hash, hostLoaded := host, minSvn := max g.minSvn i.svn
           hostLoad := false }

/-- What the management controller keeps over a reset: flash, fuses, keys, counters and its retained store (R428, R431 to R435). -/
def Mgmt.kept (g : Mgmt) : Mgmt :=
  { Mgmt.reset with slot := g.slot, minSvn := g.minSvn, ownerKey := g.ownerKey, nonce := g.nonce, leaf := g.leaf, mcerr := g.mcerr
                    exhausted := g.exhausted, hostLoad := true, hostLoaded := true }

/-- In host-load mode with a STATUS (R431, R432). -/
def Mgmt.waiting (g : Mgmt) (st : Nat) : Mgmt := { g with hostLoad := true, hostLoaded := true, fwstatus := st }

/-! ### Resets (R431, R435) -/

/-- The package after a reset under a management controller; host memory is not part of it. -/
def State.fresh (s : State) (g : Mgmt) (incarn : Nat) : State :=
  { State.reset with
    mem := { MemSide.reset with
      cells := s.mem.cells.filter fun c => decide (hostBase ≤ c.1)
      poison := s.mem.poison.filter fun p => decide (hostBase / 64 ≤ p)
      atsEpoch := s.mem.atsEpoch }
    cmd := { CmdProc.reset with incarn := incarn }
    fab := { Fabric.reset with incs := sset 0 [] s.pkg incarn }
    mgmt := g
    pod := s.pod, time := s.time, turns := s.turns, outbox := s.outbox, freeCtr := s.freeCtr, tick := s.tick }

def incarnMax : Nat := 0xFFFFFFFF

/-- Step 6 of R431: INCARN advances and is announced; a counter that is exhausted leaves the module in host-load mode (R435). -/
def State.bootImage (s : State) (g : Mgmt) : State :=
  if s.cmd.incarn = incarnMax then s.fresh ({ g with exhausted := true }.waiting fwExhausted) incarnMax
  else (s.fresh g (s.cmd.incarn + 1)).send (.announce (s.cmd.incarn + 1))

/-- Cold reset: secure boot in full (R431). -/
def execColdReset (s : State) : Out :=
  let g := s.mgmt.kept
  let st := g.verify g.slot
  .next (if g.exhausted then s.fresh (g.waiting fwExhausted) s.cmd.incarn
    else if st = fwOk then s.bootImage (g.run g.slot false) else s.fresh (g.waiting st) s.cmd.incarn)

/-- Warm reset: the verified image runs again from step 6; with none, the module stays in host-load mode (R435). -/
def execWarmReset (s : State) : Out :=
  let g := s.mgmt
  let k := { g.kept with retired := g.retired }
  .next (if g.hostLoad then s.fresh (k.waiting g.fwstatus) s.cmd.incarn
    else s.bootImage { k with fwver := g.fwver, fwsvn := g.fwsvn, fwhash := g.fwhash, hostLoaded := g.hostLoaded, hostLoad := false })

/-- Module power is lost (R435): a COMMIT that is writing leaves the slot failing step 2 (R433). -/
def execPowerLoss (s : State) : Out :=
  let g := s.mgmt
  .next (s.setMgmt { g with powered := false, slot := if g.fwbusy && g.fwrun == 2 && g.fwnext == fwOk then [] else g.slot })

/-! ### Firmware commands (R432 to R434) -/

/-- A GO of a command: the outcome is in STATUS once BUSY clears; a GO while BUSY is ignored (R426), and with it the CMD of that write
(log entry 87). -/
def fwCommand (s : State) (cmd : Nat) (f : State → Nat × State) : Out :=
  if s.mgmt.fwbusy then .next s
  else
    let r := f s
    .next (r.2.setMgmt { r.2.mgmt with fwcmd := cmd, fwrun := cmd, fwbusy := true, fwnext := r.1 })

/-- The buffer at FWARG, with no PASID and no translation (R426). -/
def State.fwRead (s : State) (off n : Nat) : List Byte := s.mem.read (hostFlat (s.mgmt.fwarg.toNat + off)) n

/-- The image in the buffer; none where the buffer breaks the bounds of R426. -/
def State.fwImage (s : State) : Option (List Byte) :=
  if s.mgmt.fwarg.toNat % 4096 ≠ 0 ∨ 2 ^ 23 < s.mgmt.fwlen.toNat then none else some (s.fwRead 0 s.mgmt.fwlen.toNat)

/-- LOAD (R432): the image runs from step 6, and flash is not changed. -/
def execLoad (s : State) : Out :=
  fwCommand s 1 fun t =>
    let g := t.mgmt
    if !g.hostLoad then (fwState, t)
    else if g.exhausted || t.cmd.incarn == incarnMax then (fwExhausted, t)
    else match t.fwImage with
      | none => (fwFormat, t)
      | some bs =>
        let st := g.verify bs
        if st = fwOk then (fwOk, t.bootImage ({ g.kept with retired := g.retired }.run bs true)) else (st, t)

/-- COMMIT (R433): the image is verified and written to the slot; whether flash takes it is free, and where it does not the slot fails
(log entry 30). -/
def execCommit (s : State) : Out :=
  fwCommand s 2 fun t =>
    match t.fwImage with
    | none => (fwFormat, t)
    | some bs =>
      let st := t.mgmt.verify bs
      if st ≠ fwOk then (st, t)
      else
        let good := Config.freeBool t.freeCtr
        let t1 := { t with freeCtr := t.freeCtr + 1 }
        (if good then fwOk else fwFlash, t1.setMgmt { t1.mgmt with slot := if good then bs else [] })

/-- ENROL (R433). -/
def execEnrol (s : State) : Out :=
  fwCommand s 3 fun t =>
    let key := t.fwRead 0 lmsKeyBytes
    if t.mgmt.ownerKey.isSome then (fwState, t)
    else if lmsVerifies Config.rootKey (Config.moduleSerial ++ key) (t.fwRead lmsKeyBytes lmsSigBytes) then
      (fwOk, t.setMgmt { t.mgmt with ownerKey := some key })
    else (fwBadSig, t)

/-- UNENROL (R433): an attempt without a nonce gives one in FWLEN with STATUS 3. -/
def execUnenrol (s : State) : Out :=
  fwCommand s 4 fun t =>
    match t.mgmt.ownerKey, t.mgmt.nonce with
    | none, _ => (fwState, t)
    | some _, none =>
      let n := Config.freeBits t.freeCtr % 2 ^ 32
      let t1 := { t with freeCtr := t.freeCtr + 1 }
      (fwState, t1.setMgmt { t1.mgmt with nonce := some n, fwlen := (t1.mgmt.fwlen &&& 0xFFFFFFFF00000000#64) ||| w64 n })
    | some k, some n =>
      if lmsVerifies k (Config.moduleSerial ++ leBytesOf 4 n) (t.fwRead 0 lmsSigBytes) then
        (fwOk, t.setMgmt { t.mgmt with ownerKey := none, nonce := none })
      else (fwBadSig, t)

/-- Attestation keys give 32,768 signatures (R434). -/
def lmsLeaves : Nat := 32768

/-- QUOTE (R433, R434): the leaf counter advances before the signature. -/
def execQuote (s : State) : Out :=
  fwCommand s 5 fun t =>
    let g := t.mgmt
    if lmsLeaves ≤ g.leaf then (fwExhausted, t)
    else
      let owner := match g.ownerKey with
        | some k => sha256 k
        | none => List.replicate 32 0
      let msg := g.fwhash ++ leBytesOf 4 g.fwsvn ++ leBytesOf 4 t.cmd.incarn ++ owner ++ t.fwRead 0 32
      let out := (msg ++ Config.lmsSign 0 g.leaf msg).take 8192
      (fwOk, (t.setMgmt { g with leaf := g.leaf + 1 }).setMem (t.mem.write (hostFlat (g.fwarg.toNat + 32)) out))

/-- The command finishes: STATUS is written and BUSY clears (R433). -/
def execFwcmdComplete (s : State) : Out :=
  let g := s.mgmt
  .next (if g.fwbusy then s.setMgmt { g with fwbusy := false, fwstatus := g.fwnext } else s)

end Sys2Proof.Machine
end

