-- ==== Sys2Proof/Machine/Dispatch.lean ====
section
/-! DEFINITION. One arm per constructor of Instr: its meaning, or its rejection by name. -/

namespace Sys2Proof.Machine

/-- What a step of the opcode table does in a state. -/
def exec (i : Instr) (s : State) : Host.Outcome State Fault Refusal :=
  match i with
  | .add g rd ra rb => Sys2Proof.Machine.execAdd g rd ra rb s
  | .sub g rd ra rb => Sys2Proof.Machine.execSub g rd ra rb s
  | .and g rd ra rb => Sys2Proof.Machine.execAnd g rd ra rb s
  | .or g rd ra rb => Sys2Proof.Machine.execOr g rd ra rb s
  | .xor g rd ra rb => Sys2Proof.Machine.execXor g rd ra rb s
  | .sll g rd ra rb => Sys2Proof.Machine.execSll g rd ra rb s
  | .srl g rd ra rb => Sys2Proof.Machine.execSrl g rd ra rb s
  | .sra g rd ra rb => Sys2Proof.Machine.execSra g rd ra rb s
  | .mul g rd ra rb => Sys2Proof.Machine.execMul g rd ra rb s
  | .mulh g rd ra rb => Sys2Proof.Machine.execMulh g rd ra rb s
  | .mulhu g rd ra rb => Sys2Proof.Machine.execMulhu g rd ra rb s
  | .div g rd ra rb => Sys2Proof.Machine.execDiv g rd ra rb s
  | .divu g rd ra rb => Sys2Proof.Machine.execDivu g rd ra rb s
  | .rem g rd ra rb => Sys2Proof.Machine.execRem g rd ra rb s
  | .remu g rd ra rb => Sys2Proof.Machine.execRemu g rd ra rb s
  | .min g rd ra rb => Sys2Proof.Machine.execMin g rd ra rb s
  | .max g rd ra rb => Sys2Proof.Machine.execMax g rd ra rb s
  | .minu g rd ra rb => Sys2Proof.Machine.execMinu g rd ra rb s
  | .maxu g rd ra rb => Sys2Proof.Machine.execMaxu g rd ra rb s
  | .clz g rd ra => Sys2Proof.Machine.execClz g rd ra s
  | .popc g rd ra => Sys2Proof.Machine.execPopc g rd ra s
  | .andn g rd ra rb => Sys2Proof.Machine.execAndn g rd ra rb s
  | .addi g rd ra imm => Sys2Proof.Machine.execAddi g rd ra imm s
  | .andi g rd ra imm => Sys2Proof.Machine.execAndi g rd ra imm s
  | .ori g rd ra imm => Sys2Proof.Machine.execOri g rd ra imm s
  | .xori g rd ra imm => Sys2Proof.Machine.execXori g rd ra imm s
  | .slli g rd ra sh => Sys2Proof.Machine.execSlli g rd ra sh s
  | .srli g rd ra sh => Sys2Proof.Machine.execSrli g rd ra sh s
  | .srai g rd ra sh => Sys2Proof.Machine.execSrai g rd ra sh s
  | .liu g rd imm => Sys2Proof.Machine.execLiu g rd imm s
  | .addpc g rd imm => Sys2Proof.Machine.execAddpc g rd imm s
  | .cmp g pd ra rb c => Sys2Proof.Machine.execCmp g pd ra rb c s
  | .cmpi g c pd ra imm => Sys2Proof.Machine.execCmpi g c pd ra imm s
  | .plog g pd pa pb t => Sys2Proof.Machine.execPlog g pd pa pb t s
  | .sel g rd ra rb pc => Sys2Proof.Machine.execSel g rd ra rb pc s
  | .br g off => Sys2Proof.Machine.execBr g off s
  | .jal g off => Sys2Proof.Machine.execJal g off s
  | .jalr g rd ra imm => Sys2Proof.Machine.execJalr g rd ra imm s
  | .ldb g rd ra cls imm => Sys2Proof.Machine.execLdb g rd ra cls imm s
  | .ldh g rd ra cls imm => Sys2Proof.Machine.execLdh g rd ra cls imm s
  | .ldw g rd ra cls imm => Sys2Proof.Machine.execLdw g rd ra cls imm s
  | .ldd g rd ra cls imm => Sys2Proof.Machine.execLdd g rd ra cls imm s
  | .ldbu g rd ra cls imm => Sys2Proof.Machine.execLdbu g rd ra cls imm s
  | .ldhu g rd ra cls imm => Sys2Proof.Machine.execLdhu g rd ra cls imm s
  | .ldwu g rd ra cls imm => Sys2Proof.Machine.execLdwu g rd ra cls imm s
  | .ldfeW g rd ra cls imm => Sys2Proof.Machine.execLdfeW g rd ra cls imm s
  | .ldfeE g rd ra cls imm => Sys2Proof.Machine.execLdfeE g rd ra cls imm s
  | .ldfeN g rd ra cls imm => Sys2Proof.Machine.execLdfeN g rd ra cls imm s
  | .stb g rs ra cls imm => Sys2Proof.Machine.execStb g rs ra cls imm s
  | .sth g rs ra cls imm => Sys2Proof.Machine.execSth g rs ra cls imm s
  | .stw g rs ra cls imm => Sys2Proof.Machine.execStw g rs ra cls imm s
  | .std g rs ra cls imm => Sys2Proof.Machine.execStd g rs ra cls imm s
  | .stfeF g rs ra cls imm => Sys2Proof.Machine.execStfeF g rs ra cls imm s
  | .stfeWe g rs ra cls imm => Sys2Proof.Machine.execStfeWe g rs ra cls imm s
  | .feqQ g rd ra cls imm => Sys2Proof.Machine.execFeqQ g rd ra cls imm s
  | .feqClr g ra cls imm => Sys2Proof.Machine.execFeqClr g ra cls imm s
  | .feqSet g ra cls imm => Sys2Proof.Machine.execFeqSet g ra cls imm s
  | .invr g ra rb => Sys2Proof.Machine.execInvr g ra rb s
  | .wbr g ra rb => Sys2Proof.Machine.execWbr g ra rb s
  | .wbinvr g ra rb => Sys2Proof.Machine.execWbinvr g ra rb s
  | .invi g => Sys2Proof.Machine.execInvi g s
  | .fenceCls g mask => Sys2Proof.Machine.execFenceCls g mask s
  | .fenceRel g sc mask => Sys2Proof.Machine.execFenceRel g sc mask s
  | .fenceAcq g sc mask => Sys2Proof.Machine.execFenceAcq g sc mask s
  | .fenceAr g sc mask => Sys2Proof.Machine.execFenceAr g sc mask s
  | .amoSwap g rd ra rb cls dbl => Sys2Proof.Machine.execAmoSwap g rd ra rb cls dbl s
  | .amoAdd g rd ra rb cls dbl => Sys2Proof.Machine.execAmoAdd g rd ra rb cls dbl s
  | .amoAnd g rd ra rb cls dbl => Sys2Proof.Machine.execAmoAnd g rd ra rb cls dbl s
  | .amoOr g rd ra rb cls dbl => Sys2Proof.Machine.execAmoOr g rd ra rb cls dbl s
  | .amoXor g rd ra rb cls dbl => Sys2Proof.Machine.execAmoXor g rd ra rb cls dbl s
  | .amoMin g rd ra rb cls dbl => Sys2Proof.Machine.execAmoMin g rd ra rb cls dbl s
  | .amoMax g rd ra rb cls dbl => Sys2Proof.Machine.execAmoMax g rd ra rb cls dbl s
  | .amoMinu g rd ra rb cls dbl => Sys2Proof.Machine.execAmoMinu g rd ra rb cls dbl s
  | .amoMaxu g rd ra rb cls dbl => Sys2Proof.Machine.execAmoMaxu g rd ra rb cls dbl s
  | .amoFadd g rd ra rb cls => Sys2Proof.Machine.execAmoFadd g rd ra rb cls s
  | .amoCas g rd ra rb cls dbl => Sys2Proof.Machine.execAmoCas g rd ra rb cls dbl s
  | .redAdd g ra rb cls dbl => Sys2Proof.Machine.execRedAdd g ra rb cls dbl s
  | .redAnd g ra rb cls dbl => Sys2Proof.Machine.execRedAnd g ra rb cls dbl s
  | .redOr g ra rb cls dbl => Sys2Proof.Machine.execRedOr g ra rb cls dbl s
  | .redXor g ra rb cls dbl => Sys2Proof.Machine.execRedXor g ra rb cls dbl s
  | .redMin g ra rb cls dbl => Sys2Proof.Machine.execRedMin g ra rb cls dbl s
  | .redMax g ra rb cls dbl => Sys2Proof.Machine.execRedMax g ra rb cls dbl s
  | .redMinu g ra rb cls dbl => Sys2Proof.Machine.execRedMinu g ra rb cls dbl s
  | .redMaxu g ra rb cls dbl => Sys2Proof.Machine.execRedMaxu g ra rb cls dbl s
  | .redFadd g ra rb cls => Sys2Proof.Machine.execRedFadd g ra rb cls s
  | .qpush g pd ra rb cls => Sys2Proof.Machine.execQpush g pd ra rb cls s
  | .qpop g rd ra pd cls => Sys2Proof.Machine.execQpop g rd ra pd cls s
  | .racqP g rd n => Sys2Proof.Machine.execRacqP g rd n s
  | .racqC g rd n => Sys2Proof.Machine.execRacqC g rd n s
  | .rrelP g n => Sys2Proof.Machine.execRrelP g n s
  | .rrelC g n => Sys2Proof.Machine.execRrelC g n s
  | .fork g ra e => Sys2Proof.Machine.execFork g ra e s
  | .join g m => Sys2Proof.Machine.execJoin g m s
  | .sete g e ra => Sys2Proof.Machine.execSete g e ra s
  | .gete g rd e => Sys2Proof.Machine.execGete g rd e s
  | .twait g m => Sys2Proof.Machine.execTwait g m s
  | .tpost g m => Sys2Proof.Machine.execTpost g m s
  | .setts g ra t => Sys2Proof.Machine.execSetts g ra t s
  | .getts g rd t => Sys2Proof.Machine.execGetts g rd t s
  | .barA g sc => Sys2Proof.Machine.execBarA g sc s
  | .barW g sc => Sys2Proof.Machine.execBarW g sc s
  | .barAw g sc => Sys2Proof.Machine.execBarAw g sc s
  | .barTry g sc pd => Sys2Proof.Machine.execBarTry g sc pd s
  | .trmSend g ra => Sys2Proof.Machine.execTrmSend g ra s
  | .trmIdle g => Sys2Proof.Machine.execTrmIdle g s
  | .trmBusy g => Sys2Proof.Machine.execTrmBusy g s
  | .trmTest g pd => Sys2Proof.Machine.execTrmTest g pd s
  | .movs g rd sel => Sys2Proof.Machine.execMovs g rd sel s
  | .movts g ra sel => Sys2Proof.Machine.execMovts g ra sel s
  | .trap g code => Sys2Proof.Machine.execTrap g code s
  | .yield g => Sys2Proof.Machine.execYield g s
  | .done g => Sys2Proof.Machine.execDone g s
  | .instructionFetch core c => Sys2Proof.Machine.execInstructionFetch core c s
  | .enop t => Sys2Proof.Machine.execEnop t s
  | .ehalt t => Sys2Proof.Machine.execEhalt t s
  | .eskip t e cond n => Sys2Proof.Machine.execEskip t e cond n s
  | .eflag t e => Sys2Proof.Machine.execEflag t e s
  | .sectionFetch core g => Sys2Proof.Machine.execSectionFetch core g s
  | .sectionExecute core g => Sys2Proof.Machine.execSectionExecute core g s
  | .engineWordComplete core g => Sys2Proof.Machine.execEngineWordComplete core g s
  | .azero w => Sys2Proof.Machine.execAzero w s
  | .amma w => Sys2Proof.Machine.execAmma w s
  | .ammas w => Sys2Proof.Machine.execAmmas w s
  | .ammaz w => Sys2Proof.Machine.execAmmaz w s
  | .atbld w => Sys2Proof.Machine.execAtbld w s
  | .atmma w => Sys2Proof.Machine.execAtmma w s
  | .adist w => Sys2Proof.Machine.execAdist w s
  | .aargmin w => Sys2Proof.Machine.execAargmin w s
  | .adrain w => Sys2Proof.Machine.execAdrain w s
  | .adrainm w => Sys2Proof.Machine.execAdrainm w s
  | .adrainmStoresAccepted core => Sys2Proof.Machine.execAdrainmStoresAccepted core s
  | .ascacc w => Sys2Proof.Machine.execAscacc w s
  | .acent w => Sys2Proof.Machine.execAcent w s
  | .acdiv w => Sys2Proof.Machine.execAcdiv w s
  | .aaccld w => Sys2Proof.Machine.execAaccld w s
  | .aaccst w => Sys2Proof.Machine.execAaccst w s
  | .amova w => Sys2Proof.Machine.execAmova w s
  | .vadd w => Sys2Proof.Machine.execVadd w s
  | .vsub w => Sys2Proof.Machine.execVsub w s
  | .vmul w => Sys2Proof.Machine.execVmul w s
  | .vfma w => Sys2Proof.Machine.execVfma w s
  | .vmin w => Sys2Proof.Machine.execVmin w s
  | .vmax w => Sys2Proof.Machine.execVmax w s
  | .vabs w => Sys2Proof.Machine.execVabs w s
  | .vneg w => Sys2Proof.Machine.execVneg w s
  | .vrcp w => Sys2Proof.Machine.execVrcp w s
  | .vrsq w => Sys2Proof.Machine.execVrsq w s
  | .vexp2 w => Sys2Proof.Machine.execVexp2 w s
  | .vlog2 w => Sys2Proof.Machine.execVlog2 w s
  | .vscale w => Sys2Proof.Machine.execVscale w s
  | .vclamp w => Sys2Proof.Machine.execVclamp w s
  | .vcmp w => Sys2Proof.Machine.execVcmp w s
  | .vclass w => Sys2Proof.Machine.execVclass w s
  | .viadd w => Sys2Proof.Machine.execViadd w s
  | .visub w => Sys2Proof.Machine.execVisub w s
  | .vimul w => Sys2Proof.Machine.execVimul w s
  | .vimin w => Sys2Proof.Machine.execVimin w s
  | .vimax w => Sys2Proof.Machine.execVimax w s
  | .vand w => Sys2Proof.Machine.execVand w s
  | .vor w => Sys2Proof.Machine.execVor w s
  | .vxor w => Sys2Proof.Machine.execVxor w s
  | .vshl w => Sys2Proof.Machine.execVshl w s
  | .vshr w => Sys2Proof.Machine.execVshr w s
  | .vpopc w => Sys2Proof.Machine.execVpopc w s
  | .vicmp w => Sys2Proof.Machine.execVicmp w s
  | .viota w => Sys2Proof.Machine.execViota w s
  | .vcvt w => Sys2Proof.Machine.execVcvt w s
  | .vquant w => Sys2Proof.Machine.execVquant w s
  | .vbmax w => Sys2Proof.Machine.execVbmax w s
  | .vpack w => Sys2Proof.Machine.execVpack w s
  | .vunpk w => Sys2Proof.Machine.execVunpk w s
  | .vspars w => Sys2Proof.Machine.execVspars w s
  | .vzbm w => Sys2Proof.Machine.execVzbm w s
  | .vrsum w => Sys2Proof.Machine.execVrsum w s
  | .vrmax w => Sys2Proof.Machine.execVrmax w s
  | .vrmin w => Sys2Proof.Machine.execVrmin w s
  | .vramax w => Sys2Proof.Machine.execVramax w s
  | .vcsum w => Sys2Proof.Machine.execVcsum w s
  | .vscan w => Sys2Proof.Machine.execVscan w s
  | .vmov w => Sys2Proof.Machine.execVmov w s
  | .vtrans w => Sys2Proof.Machine.execVtrans w s
  | .vbcast w => Sys2Proof.Machine.execVbcast w s
  | .vshuf w => Sys2Proof.Machine.execVshuf w s
  | .vrot w => Sys2Proof.Machine.execVrot w s
  | .vsel w => Sys2Proof.Machine.execVsel w s
  | .vext w => Sys2Proof.Machine.execVext w s
  | .vins w => Sys2Proof.Machine.execVins w s
  | .vfill w => Sys2Proof.Machine.execVfill w s
  | .vmlog w => Sys2Proof.Machine.execVmlog w s
  | .vmpop w => Sys2Proof.Machine.execVmpop w s
  | .vmfirst w => Sys2Proof.Machine.execVmfirst w s
  | .vsfc w => Sys2Proof.Machine.execVsfc w s
  | .vhist w => Sys2Proof.Machine.execVhist w s
  | .cld w => Sys2Proof.Machine.execCld w s
  | .cst w => Sys2Proof.Machine.execCst w s
  | .ccpy w => Sys2Proof.Machine.execCcpy w s
  | .cfill w => Sys2Proof.Machine.execCfill w s
  | .cwin w => Sys2Proof.Machine.execCwin w s
  | .cadv w => Sys2Proof.Machine.execCadv w s
  | .windowGranuleLand core idx => Sys2Proof.Machine.execWindowGranuleLand core idx s
  | .cgath w => Sys2Proof.Machine.execCgath w s
  | .cscat w => Sys2Proof.Machine.execCscat w s
  | .copyDataReturn core idx => Sys2Proof.Machine.execCopyDataReturn core idx s
  | .copyWriteAccept core idx => Sys2Proof.Machine.execCopyWriteAccept core idx s
  | .cdec w => Sys2Proof.Machine.execCdec w s
  | .cenc w => Sys2Proof.Machine.execCenc w s
  | .cxfm w => Sys2Proof.Machine.execCxfm w s
  | .cstash w => Sys2Proof.Machine.execCstash w s
  | .cunst w => Sys2Proof.Machine.execCunst w s
  | .csdrop w => Sys2Proof.Machine.execCsdrop w s
  | .cbat w => Sys2Proof.Machine.execCbat w s
  | .csend w => Sys2Proof.Machine.execCsend w s
  | .crecv w => Sys2Proof.Machine.execCrecv w s
  | .cchstStat w => Sys2Proof.Machine.execCchstStat w s
  | .cchstGrant w => Sys2Proof.Machine.execCchstGrant w s
  | .cringSum w => Sys2Proof.Machine.execCringSum w s
  | .cringMax w => Sys2Proof.Machine.execCringMax w s
  | .cringBcast w => Sys2Proof.Machine.execCringBcast w s
  | .crepart w => Sys2Proof.Machine.execCrepart w s
  | .cpin w => Sys2Proof.Machine.execCpin w s
  | .cunpin w => Sys2Proof.Machine.execCunpin w s
  | .cpref w => Sys2Proof.Machine.execCpref w s
  | .cflush w => Sys2Proof.Machine.execCflush w s
  | .cmetaRead w => Sys2Proof.Machine.execCmetaRead w s
  | .cmetaWrite w => Sys2Proof.Machine.execCmetaWrite w s
  | .kick q => Sys2Proof.Machine.execKick q s
  | .tailReadReturn q => Sys2Proof.Machine.execTailReadReturn q s
  | .queueEnable q => Sys2Proof.Machine.execQueueEnable q s
  | .queueDisable q => Sys2Proof.Machine.execQueueDisable q s
  | .recordEnter q => Sys2Proof.Machine.execRecordEnter q s
  | .nop q idx => Sys2Proof.Machine.execNop q idx s
  | .task q idx => Sys2Proof.Machine.execTask q idx s
  | .stage q idx => Sys2Proof.Machine.execStage q idx s
  | .xform q idx => Sys2Proof.Machine.execXform q idx s
  | .coll q idx => Sys2Proof.Machine.execColl q idx s
  | .signal q idx => Sys2Proof.Machine.execSignal q idx s
  | .wait q idx => Sys2Proof.Machine.execWait q idx s
  | .waitPoll q idx => Sys2Proof.Machine.execWaitPoll q idx s
  | .waitTimeout q idx => Sys2Proof.Machine.execWaitTimeout q idx s
  | .nodeComplete q idx => Sys2Proof.Machine.execNodeComplete q idx s
  | .cplheadReread q => Sys2Proof.Machine.execCplheadReread q s
  | .msixUnmask entry => Sys2Proof.Machine.execMsixUnmask entry s
  | .leasePhase q idx => Sys2Proof.Machine.execLeasePhase q idx s
  | .noticeackRetry nid => Sys2Proof.Machine.execNoticeackRetry nid s
  | .noticeackFail nid => Sys2Proof.Machine.execNoticeackFail nid s
  | .nqcfgWrite v => Sys2Proof.Machine.execNqcfgWrite v s
  | .nqheadWrite v => Sys2Proof.Machine.execNqheadWrite v s
  | .tlbInvalidate v => Sys2Proof.Machine.execTlbInvalidate v s
  | .tlbInvalidateDone => Sys2Proof.Machine.execTlbInvalidateDone s
  | .atsInvalidate pasid va len => Sys2Proof.Machine.execAtsInvalidate pasid va len s
  | .bar4Read off len => Sys2Proof.Machine.execBar4Read off len s
  | .bar4Write off data => Sys2Proof.Machine.execBar4Write off data s
  | .registerWrite off v => Sys2Proof.Machine.execRegisterWrite off v s
  | .placeNode => Sys2Proof.Machine.execPlaceNode s
  | .placementReserve cand => Sys2Proof.Machine.execPlacementReserve cand s
  | .preemptTimeout cand => Sys2Proof.Machine.execPreemptTimeout cand s
  | .contextSave ctxid => Sys2Proof.Machine.execContextSave ctxid s
  | .contextResume ctxid => Sys2Proof.Machine.execContextResume ctxid s
  | .partStart core => Sys2Proof.Machine.execPartStart core s
  | .rendezvous core => Sys2Proof.Machine.execRendezvous core s
  | .iterLong core => Sys2Proof.Machine.execIterLong core s
  | .retire ctxid => Sys2Proof.Machine.execRetire ctxid s
  | .faultTeardown ctxid => Sys2Proof.Machine.execFaultTeardown ctxid s
  | .frheadWrite v => Sys2Proof.Machine.execFrheadWrite v s
  | .podBarrierArrival group sender => Sys2Proof.Machine.execPodBarrierArrival group sender s
  | .trmTokenPass ctxid => Sys2Proof.Machine.execTrmTokenPass ctxid s
  | .mbsEvaluate stage => Sys2Proof.Machine.execMbsEvaluate stage s
  | .starveExpiry stage row => Sys2Proof.Machine.execStarveExpiry stage row s
  | .spanReportReceive stage sender fwd bwd ended free => Sys2Proof.Machine.execSpanReportReceive stage sender fwd bwd ended free s
  | .spanPickReceive stage inc gang tag pick t adv => Sys2Proof.Machine.execSpanPickReceive stage inc gang tag pick t adv s
  | .spanStartTime stage => Sys2Proof.Machine.execSpanStartTime stage s
  | .spanMemberLost stage member => Sys2Proof.Machine.execSpanMemberLost stage member s
  | .firnWriteDone slot => Sys2Proof.Machine.execFirnWriteDone slot s
  | .firnFillDone slot => Sys2Proof.Machine.execFirnFillDone slot s
  | .bankSwitchComplete quad bank => Sys2Proof.Machine.execBankSwitchComplete quad bank s
  | .neveDisplace x pline sectors coding => Sys2Proof.Machine.execNeveDisplace x pline sectors coding s
  | .poisonDetect sector error => Sys2Proof.Machine.execPoisonDetect sector error s
  | .memoryEventRecord => Sys2Proof.Machine.execMemoryEventRecord s
  | .rowActivation row checkFails => Sys2Proof.Machine.execRowActivation row checkFails s
  | .rowRefresh row => Sys2Proof.Machine.execRowRefresh row s
  | .promoteCount tier region => Sys2Proof.Machine.execPromoteCount tier region s
  | .acreset v => Sys2Proof.Machine.execAcreset v s
  | .tierHigh tier => Sys2Proof.Machine.execTierHigh tier s
  | .tierLow tier => Sys2Proof.Machine.execTierLow tier s
  | .rgcmd v => Sys2Proof.Machine.execRgcmd v s
  | .rgcmdDone => Sys2Proof.Machine.execRgcmdDone s
  | .tmcmd v => Sys2Proof.Machine.execTmcmd v s
  | .tierMoveDone => Sys2Proof.Machine.execTierMoveDone s
  | .calvctlGo v => Sys2Proof.Machine.execCalvctlGo v s
  | .calvMapLoaded => Sys2Proof.Machine.execCalvMapLoaded s
  | .calvLineCopy uncorrectable => Sys2Proof.Machine.execCalvLineCopy uncorrectable s
  | .calvMoveDone => Sys2Proof.Machine.execCalvMoveDone s
  | .calvSettleDone => Sys2Proof.Machine.execCalvSettleDone s
  | .phase core agent addr stamp => Sys2Proof.Machine.execPhase core agent addr stamp s
  | .channelEndOpen c w0 => Sys2Proof.Machine.execChannelEndOpen c w0 s
  | .channelEndClose c w0 => Sys2Proof.Machine.execChannelEndClose c w0 s
  | .messageDelivered c src end_ n tag rows held cancel => Sys2Proof.Machine.execMessageDelivered c src end_ n tag rows held cancel s
  | .messageConfirm c n => Sys2Proof.Machine.execMessageConfirm c n s
  | .ackReceive c aseq => Sys2Proof.Machine.execAckReceive c aseq s
  | .channelBroken c => Sys2Proof.Machine.execChannelBroken c s
  | .batchReceive src inc id op rows => Sys2Proof.Machine.execBatchReceive src inc id op rows s
  | .batchReply target id old => Sys2Proof.Machine.execBatchReply target id old s
  | .batchResend target id => Sys2Proof.Machine.execBatchResend target id s
  | .remoteRequest m => Sys2Proof.Machine.execRemoteRequest m s
  | .resetNak pkg id inc => Sys2Proof.Machine.execResetNak pkg id inc s
  | .remoteTimeout pkg id => Sys2Proof.Machine.execRemoteTimeout pkg id s
  | .incarnationAnnounce pkg inc => Sys2Proof.Machine.execIncarnationAnnounce pkg inc s
  | .ringChunkReceive group sender terms agrees => Sys2Proof.Machine.execRingChunkReceive group sender terms agrees s
  | .driftLoadsReceive group sender loads agrees => Sys2Proof.Machine.execDriftLoadsReceive group sender loads agrees s
  | .driftOfferReceive group sender count => Sys2Proof.Machine.execDriftOfferReceive group sender count s
  | .driftRecordsReceive group sender recs refused marks written => Sys2Proof.Machine.execDriftRecordsReceive group sender recs refused marks written s
  | .powerControlTick x => Sys2Proof.Machine.execPowerControlTick x s
  | .trip signs => Sys2Proof.Machine.execTrip signs s
  | .linkRetrain => Sys2Proof.Machine.execLinkRetrain s
  | .parkRequest => Sys2Proof.Machine.execParkRequest s
  | .parkedEnter => Sys2Proof.Machine.execParkedEnter s
  | .parkClear => Sys2Proof.Machine.execParkClear s
  | .correctedError error => Sys2Proof.Machine.execCorrectedError error s
  | .stackWarnWindow stack => Sys2Proof.Machine.execStackWarnWindow stack s
  | .load => Sys2Proof.Machine.execLoad s
  | .commit => Sys2Proof.Machine.execCommit s
  | .enrol => Sys2Proof.Machine.execEnrol s
  | .unenrol => Sys2Proof.Machine.execUnenrol s
  | .quote => Sys2Proof.Machine.execQuote s
  | .coldReset => Sys2Proof.Machine.execColdReset s
  | .warmReset => Sys2Proof.Machine.execWarmReset s
  | .illegalOpcode f => Sys2Proof.Machine.execIllegalOpcode f s
  | .torusPortDown port => Sys2Proof.Machine.execTorusPortDown port s
  | .torusPortUp port => Sys2Proof.Machine.execTorusPortUp port s
  | .powerLoss => Sys2Proof.Machine.execPowerLoss s
  | .fwcmdComplete => Sys2Proof.Machine.execFwcmdComplete s
  | .firmwareError => Sys2Proof.Machine.execFirmwareError s

end Sys2Proof.Machine
end

