-- ==== Sys2Proof/Machine/Turn.lean ====
section
/-! DEFINITION. The turns of the schedule (log entry 2): where a turn stands in its cycle, which turn is next, and what it does. -/

namespace Sys2Proof.Machine

/-! ### The order within one cycle (R65, R66, R161, R164, R182, R214)

A turn of a cycle stands at a place; places of one cycle never fall. Retirements and teardowns stand at 0, arrivals at 1, what a core
issues and what completes in it from 16 on, in the order of cores and there in the order LD, CP (two slots), ST, A, V, C, and the
evaluation of the microbatch schedulers last. Other events stand anywhere before the evaluation. -/

def corePlace (core slot : Nat) : Nat := 16 + core * 8 + slot
def evalPlace : Nat := 3000

/-- The place of an engine among its core's. -/
def engPlace (core : Nat) (e : Engine) : Nat := corePlace core (engAgent e + 1)

/-- The places an event may take, lowest first; none where any will do. -/
def eventPlaces : Instr → List Nat
  | .retire _ | .faultTeardown _ | .contextSave _ => [0]
  | .messageDelivered .. | .spanReportReceive .. | .spanPickReceive .. | .spanMemberLost .. => [1]
  | .sectionExecute k e | .engineWordComplete k e => [engPlace k e]
  | .adrainmStoresAccepted k => [engPlace k .a]
  | .copyDataReturn k _ | .copyWriteAccept k _ | .windowGranuleLand k _ => [engPlace k .c]
  | .mbsEvaluate _ | .starveExpiry .. => [evalPlace]
  | _ => []

def placesOf : Act → List Nat
  | .context k .ld => [corePlace k 0]
  | .context k .cp => [corePlace k 1, corePlace k 2]
  | .context k .st => [corePlace k 3]
  | .engine k e => [engPlace k e]
  | .event i => eventPlaces i
  | .evaluate _ => [evalPlace]
  | _ => []

/-- Whether a context takes the turn: each slot issues one word in a cycle (R182). -/
def oneSlot : Act → Bool
  | .context .. => true
  | _ => false

/-- Whether an act is an event. -/
def isEvent : Act → Bool
  | .event _ => true
  | _ => false

/-- The place an act takes in a cycle whose last turn stood at `last`; none where the cycle has no place left for it. -/
def placeIn (last : Nat) (a : Act) : Option Nat :=
  match placesOf a with
  | [] => if evalPlace ≤ last && isEvent a then none else some last
  | ps => ps.find? fun p => decide (last < p) || (!oneSlot a && last == p)

/-- Whether a turn begins a new cycle. -/
def State.opens (s : State) (t : Turn) : Bool := t.cycles != 0 || (placeIn s.place t.act).isNone

/-- CYC and TIME advance by what the turn carries (R16, R64); a turn for which the cycle has no place left begins the next one. -/
def State.pass (s : State) (t : Turn) : State :=
  if s.opens t then
    { s with cyc := s.cyc + BitVec.ofNat 64 (max t.cycles 1), time := s.time + t.ns, place := (placesOf t.act).headD 0 }
  else { s with time := s.time + t.ns, place := (placeIn s.place t.act).getD 0 }

/-- The oldest turn of the schedule, or a free one (log entry 2). -/
def State.peekTurn (s : State) : Turn × State :=
  match s.turns with
  | t :: rest => (t, { s with turns := rest })
  | [] => (Config.freeTurn s.tick, { s with tick := s.tick + 1 })

/-- The turn to take: at the end of a cycle the scheduler of a stage that an event of the cycle concerns evaluates first (R161). -/
def State.nextTurn (s : State) : Turn × State :=
  let n := s.peekTurn
  match s.opens n.1, s.stages.list.find? (·.dirty) with
  | true, some st => (⟨0, 0, .evaluate st.key⟩, s)
  | _, _ => n

/-! ### What a turn does -/

/-- A decoded word is run; a word that cannot be decoded raises its decode fault (R81). -/
def runDecoded (r : Except DecodeFault Instr) (s : State) : Out :=
  match r with
  | .ok i => exec i s
  | .error f => execIllegalOpcode f s

/-- Whether a core issues words: no fault holds it from an earlier cycle (R384). -/
def State.issues (s : State) (k : Fin 128) : Bool :=
  match (s.core k).fault with
  | none => true
  | some f => f.cyc == s.cyc.toNat

/-- A context issues its next word (R182, R185): it is fetched, decoded and run. -/
def stepContext (s : State) (k : Fin 128) (c : CtxId) : Out :=
  if (s.ctx k c).run = .running ∧ s.issues k = true then
    match s.fetchWord k c with
    | .ok w s1 => runDecoded (decodeControl w.toNat) { s1 with cur := .context k c }
    | .trap t => .next (s.raiseCtx k c t)
    | .wait s1 => .next s1
  else .next s

/-- An engine issues its next word (R102). -/
def stepEngine (s : State) (k : Fin 128) (e : Engine) : Out :=
  match (s.eng k e).run, (s.eng k e).cur with
  | true, some x =>
    if s.issues k then
      match x.sec.words[x.w]? with
      | some w => runDecoded (decodeEngine e w.toNat) { s with cur := .engine k e }
      | none => .next s
    else .next s
  | _, _ => .next s

/-- Line number `n` of a core's data L1 is evicted: its dirty bytes are written back (R190). -/
def evictLine (s : State) (k : Fin 128) (n : Nat) : State :=
  match (s.core k).dl1[n]? with
  | some l => s.flushLines k (fun x => x.pa == l.pa) (fun x => x.pa == l.pa)
  | none => s

/-- A change of one core, by number; a number that no core has changes nothing. -/
def State.onCore (s : State) (k : Nat) (f : Core → Core) : State :=
  if k < 128 then s.setCore (coreIx k) (f (s.core (coreIx k))) else s
def State.onQuad (s : State) (q : Nat) (f : Quad → Quad) : State :=
  if q < 32 then s.setQuad (quadIx q) (f (s.quad (quadIx q))) else s

/-- What a turn does. -/
def runAct (s : State) (a : Act) : Out :=
  match a with
  | .context k c => if k < 128 then stepContext s (coreIx k) c else .next s
  | .engine k e => if k < 128 then stepEngine s (coreIx k) e else .next s
  | .event i => exec i { s with cur := .none }
  | .evaluate n => execMbsEvaluate n { s with cur := .none }
  | .allocate k va bank way evf => .next (if k < 128 then s.allocate (coreIx k) va bank way evf else s)
  | .evictD k n => .next (if k < 128 then evictLine s (coreIx k) n else s)
  | .evictI k n => .next (s.onCore k fun c => { c with il1 := c.il1.eraseIdx n })
  | .evictTlb k n => .next (s.onCore k fun c => { c with tlb := c.tlb.eraseIdx n })
  | .evictQuadTlb q n => .next (s.onQuad q fun x => { x with tlb := x.tlb.eraseIdx n })
  | .hostRead off => .next (hostRead off s)
  | .kickRead q off => .next (kickRead q off s)
  | .setMsix on mask => .next (s.setMsix on mask)
  | .sizeBar4 n => .next (sizeBar4 n s)

def Act.isColdReset : Act → Bool
  | .event .coldReset => true
  | _ => false

end Sys2Proof.Machine
end

