-- ==== Sys2Proof/Machine/Step.lean ====
section
/-! DEFINITION. One step of the machine: the next turn of the schedule (log entry 2), and placing an instruction where the
next step runs it. -/

namespace Sys2Proof.Machine

/-- One step of the machine. Without power only a cold reset is taken (R428). -/
def step (s : State) : Host.Outcome State Fault Refusal :=
  let n := s.nextTurn
  let s1 := n.2.pass n.1
  if !s1.mgmt.powered && !Act.isColdReset n.1.act then .fault .moduleOff
  else runAct s1 n.1.act

end Sys2Proof.Machine

namespace Sys2Proof.Machine
/-- The virtual address at which a placed control-core word stands. -/
def placedAt : Nat := 0x10000

/-- A control-core word at PC placedAt of CP of core 0: CP runs, the word's page is leased and translated with every right,
and its line is in memory and in a region of grade P. -/
def State.placeControl (s : State) (w : Nat) : State :=
  let c := s.core 0
  let l : Leaf := ⟨0x10000, false, false, false, 0, true, true, true⟩
  let s1 := s.setCore 0 { c with
    cp := { c.cp with pc := w64 placedAt, run := .running, waits := none, ahead := none, remote := none, fetch := none }
    ranges := ⟨placedAt, 65536, true⟩ :: c.ranges
    il1 := []
    tlb := ⟨c.pasid, placedAt, 16, l⟩ :: c.tlb
    fault := none }
  let m := s1.mem
  { s1 with
    mem := { m.write 0x10000 (leBytesOf 4 w) with grades := sset gradeNone m.grades 0 0 }
    turns := [⟨0, 0, .context 0 .cp⟩]
    place := 0 }

/-- An engine word as the one word of a section under execution on the engine of core 0 that owns its opcode. -/
def State.placeEngine (s : State) (w : Nat) : State :=
  let e := ownerOf (bitsAt w 88 8)
  let y := s.eng 0 e
  let f : Fetched := ⟨w64 placedAt, ⟨0, 1, 0, false, 0, 0, 0⟩, [BitVec.ofNat 96 w], none⟩
  let s1 := s.setEng 0 e { y with run := true, cur := some ⟨f, 1, 0, 0⟩, flight := [] }
  { s1.setCore 0 { s1.core 0 with fault := none } with turns := [⟨0, 0, .engine 0 e⟩], place := 0 }

/-- The machine with an instruction stored where the next step fetches it (log entry 1): a word of up to 32 bits for CP of
core 0, a longer one in the stream buffer of its engine on core 0. -/
def State.withFetchWord (s : State) (nbits w : Nat) : State :=
  let s1 := { s with mgmt := { s.mgmt with powered := true } }
  if nbits ≤ 32 then s1.placeControl w else s1.placeEngine w

end Sys2Proof.Machine
end

