-- ==== Sys2Proof/Safety.lean ====
section
/-! DEFINITION. What a safe run is, and the conditions and frames in whose terms claims are stated. -/

namespace Sys2Proof.Safety

open Sys2Proof.Machine

/-- A step that answers a state. -/
def StepsTo (s t : State) : Prop := step s = .next t

/-- What a run reaches. -/
inductive Reaches : State → State → Prop where
  | refl (s : State) : Reaches s s
  | tail {s t u : State} (h : Reaches s t) (g : StepsTo t u) : Reaches s u

/-- A property that every step keeps, from every state that has it. -/
def Kept (P : State → Prop) : Prop := ∀ s t, P s → step s = .next t → P t

/-- The only stop of a run is a module without power (R428, R435). -/
def StopsOnlyOff (s : State) : Prop :=
  ∀ t, Reaches s t → (∃ u, step t = .next u) ∨ (step t = .fault .moduleOff ∧ t.mgmt.powered = false)

/-! ### When a word runs -/

/-- Context `c` of core `k` runs a word whose guard holds (R74). -/
def Runs (s : State) (k : Fin 128) (c : CtxId) (g : Guard) : Prop := s.cur = .context k c ∧ (s.ctx k c).guard g = true

/-- Engine `e` of core `k` issues a word whose tokens are there (R70); `d` is the core without them. -/
def Issues (s : State) (k : Fin 128) (e : Engine) (t : Tok) (d : Core) : Prop :=
  s.cur = .engine k e ∧ (s.core k).consume (tokNum e) (tokAgents e t.wt) = some d

/-- The state in which a word of engine `e` has issued: core `k` is `c`, the word is in flight as `f`, and the engine goes on
to its next word, `n` words being passed over (R70, R102). -/
def issued (s : State) (k : Fin 128) (e : Engine) (c : Core) (f : Flight) (n : Nat) : State :=
  s.setCore k (c.setEng e { c.eng e with flight := (c.eng e).flight ++ [f], cur := (c.eng e).cur.bind (·.advance n) })

/-! ### What an engine word does at issue -/

/-- An array or vector word issues with an effect on its core: the core is then `c`, and the word is in flight with the FLAGS bits
`fl`, which reach FLAGS when it completes (R70, R224, R247). -/
def IssuesWith (ins : Instr) (s : State) (k : Fin 128) (e : Engine) (t : Tok) (d c : Core) (fl : Fl) : Prop :=
  exec ins s = .next (issued s k e c { Flight.plain (engIssue s k e d).upc t.pt with flags := fl } 0)

/-- Cells of accumulator `a` in the block of `n` rows and `m` columns take new values; nothing else of the core changes. -/
def CellsBecome (d c : Core) (a : Fin 4) (n m : Nat) (f : Nat → Nat → W32) : Prop :=
  c = { d with acc := c.acc } ∧
  ∀ b r j, r < 64 → j < 64 → c.cell b r j = if b = a ∧ r < n ∧ j < m then f r j else d.cell b r j

/-- A FLAGS bit is set exactly where one of the results of a block sets it. -/
def FlagsOf (fl : Fl) (n m : Nat) (f : Nat → Nat → Fl) : Prop :=
  ∀ b, fl.getLsbD b = true ↔ ∃ r j, r < n ∧ j < m ∧ (f r j).getLsbD b = true

/-- Rows of a tile from `row0` on: bits of the tile after a write of values of `w` bits at (row, column) positions. Bits inside the
written elements and the tile's extent are those of the values; every other bit of every tile is as it was, and so is the rest of the
core (R68, R69). -/
def ElementsBecome (d c : Core) (o : TileOp) (w : Nat) (written : Nat → Nat → Option Nat) : Prop :=
  c = { d with tiles := c.tiles } ∧
  ∀ (t : Fin 48) (row b : Nat), row < 128 → b < 1024 →
    (c.rowBits t.val row).testBit b =
      match (if o.tile = some t ∧ row ≤ o.sh.rows ∧ b < (o.sh.cols + 1) * o.sh.fmt.width then written row (b / w) else none) with
      | some v => v.testBit (b % w)
      | none => (d.rowBits t.val row).testBit b

/-- Steps 0 to n - 1 in turn. -/
def Chain {α : Type} (step : Nat → α → α → Prop) : Nat → α → α → Prop
  | 0, x, y => x = y
  | n + 1, x, z => ∃ y, Chain step n x y ∧ step n y z

/-- Lanes of vector `n` of a destination are written (R246, R248): the live ones, each with its value; every other bit of every tile
is as it was. The flags are those of the live lanes. -/
def WritesLanes (v : VCtx) (o : TileOp) (n : Nat) (live : Nat → Prop) (val : Nat → Nat × Fl) (x y : Core × Fl) : Prop :=
  (∃ written : Nat → Nat → Option Nat, ElementsBecome x.1 y.1 o (v.lw o) written ∧
    (∀ q, live q → written (v.pos o n q).1 (v.pos o n q).2 = some (val q).1) ∧
    (∀ row j u, written row j = some u → ∃ q, live q ∧ v.pos o n q = (row, j))) ∧
  ∀ b, y.2.getLsbD b = true ↔ x.2.getLsbD b = true ∨ ∃ q, live q ∧ (val q).2.getLsbD b = true

/-- One vector of a lane-wise word (R246, R248, R250): the sources are read whole, then each lane that takes part and lies inside the
extent of D is written with its value. -/
def VectorStep (v : VCtx) (o : TileOp) (srcs : List TileOp) (on : Nat → Bool) (f : Nat → Nat → List (List Nat) → Nat × Fl) (n : Nat)
    (x y : Core × Fl) : Prop :=
  WritesLanes v o n (fun q => q < v.lanes ∧ on q = true ∧ v.inside o n q = true) (fun q => f n q (srcs.map fun a => v.read x.1 a n)) x y

/-- A word of packed results (R252): result `e` of `count` goes into element `e` of rows from `row0` on where `has e`; the
flags are those of all the results (log entry 31). -/
def PackedWord (ins : Instr) (s : State) (k : Fin 128) (t : Tok) (d : Core) (o : TileOp) (row0 count : Nat) (has : Nat → Bool)
    (res : Nat → Nat × Fl) : Prop :=
  ∃ c fl, IssuesWith ins s k .v t d c fl ∧
    ElementsBecome d c o o.sh.fmt.width (fun row j =>
      let e := (row - row0) * o.sh.fmt.lanes + j
      if row0 ≤ row ∧ j < o.sh.fmt.lanes ∧ e < count ∧ has e = true then some (res e).1 else none) ∧
    ∀ b, fl.getLsbD b = true ↔ ∃ e, e < count ∧ has e = true ∧ (res e).2.getLsbD b = true

/-- A lane-wise word issues, its vectors done in turn (R248, R250). -/
def LaneWord (ins : Instr) (s : State) (k : Fin 128) (t : Tok) (d : Core) (v : VCtx) (o : TileOp) (srcs : List TileOp) (on : Nat → Bool)
    (f : Nat → Nat → List (List Nat) → Nat × Fl) : Prop :=
  ∃ c fl, IssuesWith ins s k .v t d c fl ∧ Chain (VectorStep v o srcs on f) (v.nv + 1) (d, 0) (c, fl)

/-- The guard of a control-core word; none for any other step. -/
def guardOf : Instr → Option Guard
  | .add g _ _ _ => some g
  | .sub g _ _ _ => some g
  | .and g _ _ _ => some g
  | .or g _ _ _ => some g
  | .xor g _ _ _ => some g
  | .sll g _ _ _ => some g
  | .srl g _ _ _ => some g
  | .sra g _ _ _ => some g
  | .mul g _ _ _ => some g
  | .mulh g _ _ _ => some g
  | .mulhu g _ _ _ => some g
  | .div g _ _ _ => some g
  | .divu g _ _ _ => some g
  | .rem g _ _ _ => some g
  | .remu g _ _ _ => some g
  | .min g _ _ _ => some g
  | .max g _ _ _ => some g
  | .minu g _ _ _ => some g
  | .maxu g _ _ _ => some g
  | .clz g _ _ => some g
  | .popc g _ _ => some g
  | .andn g _ _ _ => some g
  | .addi g _ _ _ => some g
  | .andi g _ _ _ => some g
  | .ori g _ _ _ => some g
  | .xori g _ _ _ => some g
  | .slli g _ _ _ => some g
  | .srli g _ _ _ => some g
  | .srai g _ _ _ => some g
  | .liu g _ _ => some g
  | .addpc g _ _ => some g
  | .cmp g _ _ _ _ => some g
  | .cmpi g _ _ _ _ => some g
  | .plog g _ _ _ _ => some g
  | .sel g _ _ _ _ => some g
  | .br g _ => some g
  | .jal g _ => some g
  | .jalr g _ _ _ => some g
  | .ldb g _ _ _ _ => some g
  | .ldh g _ _ _ _ => some g
  | .ldw g _ _ _ _ => some g
  | .ldd g _ _ _ _ => some g
  | .ldbu g _ _ _ _ => some g
  | .ldhu g _ _ _ _ => some g
  | .ldwu g _ _ _ _ => some g
  | .ldfeW g _ _ _ _ => some g
  | .ldfeE g _ _ _ _ => some g
  | .ldfeN g _ _ _ _ => some g
  | .stb g _ _ _ _ => some g
  | .sth g _ _ _ _ => some g
  | .stw g _ _ _ _ => some g
  | .std g _ _ _ _ => some g
  | .stfeF g _ _ _ _ => some g
  | .stfeWe g _ _ _ _ => some g
  | .feqQ g _ _ _ _ => some g
  | .feqClr g _ _ _ => some g
  | .feqSet g _ _ _ => some g
  | .invr g _ _ => some g
  | .wbr g _ _ => some g
  | .wbinvr g _ _ => some g
  | .invi g => some g
  | .fenceCls g _ => some g
  | .fenceRel g _ _ => some g
  | .fenceAcq g _ _ => some g
  | .fenceAr g _ _ => some g
  | .amoSwap g _ _ _ _ _ => some g
  | .amoAdd g _ _ _ _ _ => some g
  | .amoAnd g _ _ _ _ _ => some g
  | .amoOr g _ _ _ _ _ => some g
  | .amoXor g _ _ _ _ _ => some g
  | .amoMin g _ _ _ _ _ => some g
  | .amoMax g _ _ _ _ _ => some g
  | .amoMinu g _ _ _ _ _ => some g
  | .amoMaxu g _ _ _ _ _ => some g
  | .amoFadd g _ _ _ _ => some g
  | .amoCas g _ _ _ _ _ => some g
  | .redAdd g _ _ _ _ => some g
  | .redAnd g _ _ _ _ => some g
  | .redOr g _ _ _ _ => some g
  | .redXor g _ _ _ _ => some g
  | .redMin g _ _ _ _ => some g
  | .redMax g _ _ _ _ => some g
  | .redMinu g _ _ _ _ => some g
  | .redMaxu g _ _ _ _ => some g
  | .redFadd g _ _ _ => some g
  | .qpush g _ _ _ _ => some g
  | .qpop g _ _ _ _ => some g
  | .racqP g _ _ => some g
  | .racqC g _ _ => some g
  | .rrelP g _ => some g
  | .rrelC g _ => some g
  | .fork g _ _ => some g
  | .join g _ => some g
  | .sete g _ _ => some g
  | .gete g _ _ => some g
  | .twait g _ => some g
  | .tpost g _ => some g
  | .setts g _ _ => some g
  | .getts g _ _ => some g
  | .barA g _ => some g
  | .barW g _ => some g
  | .barAw g _ => some g
  | .barTry g _ _ => some g
  | .trmSend g _ => some g
  | .trmIdle g => some g
  | .trmBusy g => some g
  | .trmTest g _ => some g
  | .movs g _ _ => some g
  | .movts g _ _ => some g
  | .trap g _ => some g
  | .yield g => some g
  | .done g => some g
  | _ => none

/-! ### Where an access leads -/

/-- `n` bytes at `ea` lie at offset `off` of the scratchpad of quad `q`, where core `k` has access: its gang has a core in
the quad, the bytes end inside the scratchpad, and every bank they touch is in scratchpad mode and not switching (R189,
R285). -/
def PadAt (s : State) (k : Fin 128) (ea : W64) (n : Nat) (q : Fin 32) (off : Nat) : Prop :=
  spaceOf k ea = some (.sram q off) ∧ s.gangInQuad k q = true ∧ off + n ≤ 2 ^ 25 ∧
  ∀ b, off / 2 ^ 20 ≤ b → b ≤ (off + n - 1) / 2 ^ 20 →
    (s.quad q).isSwitching b = false ∧ bitsNat (s.quad q).mode.toNat (2 * b) 2 = 1

/-- `ea` is the data address (8 bytes in, offset 0) or the count address (offset 8) of a FIFO bank `b` of quad `q` (R287). -/
def FifoAt (s : State) (k : Fin 128) (ea : W64) (q : Fin 32) (b off : Nat) : Prop :=
  spaceOf k ea = some (.sram q (b * 2 ^ 20 + off)) ∧ b < 32 ∧ off < 2 ^ 20 ∧ s.gangInQuad k q = true ∧
  (s.quad q).isSwitching b = false ∧ bitsNat (s.quad q).mode.toNat (2 * b) 2 = 2

/-- Context `c` has no store of class `cls` under way to another package (R346). -/
def NoStores (s : State) (k : Fin 128) (c : CtxId) (cls : Nat) : Prop :=
  ∀ r ∈ s.fab.remote, ¬ (r.core = k.val ∧ r.who = .context c ∧ r.write = true ∧ r.cls = cls)

/-- An LDFE.w of some core waits on the granule of a scratchpad offset (R200). -/
def LoadWaits (s : State) (q : Fin 32) (off : Nat) : Prop :=
  ∃ j d, (s.core j).fault = none ∧ ∃ o ea rd, (s.ctx j d).waits = some (.load q o ea rd) ∧ o / 16 = off / 16

/-- The lines of the data L1 that `n` bytes from `flat` on touch, for an access of at most 128 bytes. -/
def linesAt (flat n : Nat) : List Nat :=
  if flat % 128 + n ≤ 128 then [flat / 128 * 128] else [flat / 128 * 128, flat / 128 * 128 + 128]

/-- The data L1 has room for the lines of an access that it does not hold (R190). -/
def Room (s : State) (k : Fin 128) (flat n : Nat) : Prop :=
  ((linesAt flat n).filter fun p => ((s.core k).dline p).isNone).length + (s.core k).dl1.length ≤ l1Lines

/-- `n` bytes at the virtual address `ea` lead, through the checks of R139, to the bytes of this package or of host memory from
`flat` on; `u` is the state with the translations that the checks took. -/
def HereAt (s : State) (k : Fin 128) (ea : W64) (n : Nat) (need : Need) (flat : Nat) (u : State) : Prop :=
  ∃ host m l, spaceOf k ea = some (.virt ea.toNat) ∧ s.virtual k ea.toNat n need = .ok ((.here flat host, m) :: l, u)

/-- A byte as core `k` sees it through its data L1 (R190): the line's where the line holds it, else memory's. -/
def seen (s : State) (k : Fin 128) (a : Nat) : Byte :=
  ((((s.core k).dline (a / 128 * 128)).bind (·.get (a % 128))).map (·.1)).getD (s.mem.byte a)

/-- No byte of `n` from `flat` lies in a poisoned sector, of memory or of the lines of core `k` (R300, R301). -/
def NoPoison (s : State) (k : Fin 128) (flat n : Nat) : Prop :=
  ∀ i, i < n → kmem s.mem.poison ((flat + i) / 64) = false ∧
    ∀ l, (s.core k).dline ((flat + i) / 128 * 128) = some l → l.poison = []

/-- Little-endian value of the `n` bytes that core `k` sees from `flat` on (R1). -/
def seenNum (s : State) (k : Fin 128) (flat n : Nat) : Nat := leNum ((List.range n).map fun i => seen s k (flat + i))

/-- Where an atomic of `n` bytes acts (R205): in a scratchpad bank, or in device memory; `u` is the state with the translations
taken. -/
def AtomicAt (s : State) (k : Fin 128) (ea : W64) (n : Nat) (flat : Nat) (u : State) : Prop :=
  (∃ q off, PadAt s k ea n q off ∧ flat = sramFlat q off ∧ u = s) ∨
  (∃ m l, spaceOf k ea = some (.virt ea.toNat) ∧ s.virtual k ea.toNat n .atomic = .ok ((.here flat false, m) :: l, u))

/-- A dirty byte of a line of the data L1, at a flat address (R190). -/
def DirtyAt (l : DLine) (a : Nat) (v : Byte) : Prop := ∃ p ∈ l.bytes, l.pa + p.1 = a ∧ p.2 = (v, true)

/-- Memory after the dirty bytes of the lines of core `k` that satisfy `p` have been written back, and nothing else (R190). -/
def WrittenBack (s t : State) (k : Fin 128) (p : DLine → Prop) : Prop :=
  (∀ a, (¬ ∃ l ∈ (s.core k).dl1, ∃ v, p l ∧ DirtyAt l a v) → t.mem.byte a = s.mem.byte a) ∧
  (∀ a, (∃ l ∈ (s.core k).dl1, ∃ v, p l ∧ DirtyAt l a v) → ∃ l ∈ (s.core k).dl1, p l ∧ DirtyAt l a (t.mem.byte a))

/-- Of a run of `n` bytes from `a`, whether a line overlaps it or lies wholly inside, by the line's virtual address (R201). -/
def Overlaps (a n : Nat) (l : DLine) : Prop := 0 < n ∧ a < l.va.toNat + 128 ∧ l.va.toNat < a + n
def Inside (a n : Nat) (l : DLine) : Prop := a ≤ l.va.toNat ∧ l.va.toNat + 128 ≤ a + n

/-- A state with the data L1 and memory of another (R190): nothing else differs. -/
def OnlyL1 (s t : State) (k : Fin 128) : Prop :=
  t = (s.setMem { s.mem with cells := t.mem.cells, poison := t.mem.poison }).setCore k { s.core k with dl1 := (t.core k).dl1 }

/-- The general register that a control-core word writes. -/
def destX : Instr → Option (Fin 32)
  | .add _ rd _ _ => some rd
  | .sub _ rd _ _ => some rd
  | .and _ rd _ _ => some rd
  | .or _ rd _ _ => some rd
  | .xor _ rd _ _ => some rd
  | .sll _ rd _ _ => some rd
  | .srl _ rd _ _ => some rd
  | .sra _ rd _ _ => some rd
  | .mul _ rd _ _ => some rd
  | .mulh _ rd _ _ => some rd
  | .mulhu _ rd _ _ => some rd
  | .div _ rd _ _ => some rd
  | .divu _ rd _ _ => some rd
  | .rem _ rd _ _ => some rd
  | .remu _ rd _ _ => some rd
  | .min _ rd _ _ => some rd
  | .max _ rd _ _ => some rd
  | .minu _ rd _ _ => some rd
  | .maxu _ rd _ _ => some rd
  | .andn _ rd _ _ => some rd
  | .clz _ rd _ => some rd
  | .popc _ rd _ => some rd
  | .addi _ rd _ _ => some rd
  | .andi _ rd _ _ => some rd
  | .ori _ rd _ _ => some rd
  | .xori _ rd _ _ => some rd
  | .slli _ rd _ _ => some rd
  | .srli _ rd _ _ => some rd
  | .srai _ rd _ _ => some rd
  | .jalr _ rd _ _ => some rd
  | .liu _ rd _ => some rd
  | .addpc _ rd _ => some rd
  | .sel _ rd _ _ _ => some rd
  | .jal _ _ => some 31
  | .ldb _ rd _ _ _ => some rd
  | .ldh _ rd _ _ _ => some rd
  | .ldw _ rd _ _ _ => some rd
  | .ldd _ rd _ _ _ => some rd
  | .ldbu _ rd _ _ _ => some rd
  | .ldhu _ rd _ _ _ => some rd
  | .ldwu _ rd _ _ _ => some rd
  | .ldfeW _ rd _ _ _ => some rd
  | .ldfeE _ rd _ _ _ => some rd
  | .ldfeN _ rd _ _ _ => some rd
  | .feqQ _ rd _ _ _ => some rd
  | .amoSwap _ rd _ _ _ _ => some rd
  | .amoAdd _ rd _ _ _ _ => some rd
  | .amoAnd _ rd _ _ _ _ => some rd
  | .amoOr _ rd _ _ _ _ => some rd
  | .amoXor _ rd _ _ _ _ => some rd
  | .amoMin _ rd _ _ _ _ => some rd
  | .amoMax _ rd _ _ _ _ => some rd
  | .amoMinu _ rd _ _ _ _ => some rd
  | .amoMaxu _ rd _ _ _ _ => some rd
  | .amoFadd _ rd _ _ _ => some rd
  | .amoCas _ rd _ _ _ _ => some rd
  | .qpop _ rd _ _ _ => some rd
  | .racqP _ rd _ => some rd
  | .racqC _ rd _ => some rd
  | .gete _ rd _ => some rd
  | .getts _ rd _ => some rd
  | .movs _ rd _ => some rd
  | _ => none

/-- The predicate that a control-core word writes. -/
def destP : Instr → Option (Fin 8)
  | .cmp _ pd _ _ _ => some pd
  | .cmpi _ _ pd _ _ => some pd
  | .plog _ pd _ _ _ => some pd
  | .qpush _ pd _ _ _ => some pd
  | .qpop _ _ _ pd _ => some pd
  | .barTry _ _ pd => some pd
  | .trmTest _ pd => some pd
  | _ => none

/-- Where a store writes: its effective address and how many bytes. -/
def storeAt (i : Instr) (x : Ctx) : Option (W64 × Nat) :=
  match i with
  | .stb _ _ ra _ imm => some (x.getX ra + imm.signExtend 64 * 1, 1)
  | .sth _ _ ra _ imm => some (x.getX ra + imm.signExtend 64 * 2, 2)
  | .stw _ _ ra _ imm => some (x.getX ra + imm.signExtend 64 * 4, 4)
  | .std _ _ ra _ imm => some (x.getX ra + imm.signExtend 64 * 8, 8)
  | .stfeF _ _ ra _ imm => some (x.getX ra + imm.signExtend 64 * 8, 8)
  | .stfeWe _ _ ra _ imm => some (x.getX ra + imm.signExtend 64 * 8, 8)
  | _ => none

/-- The address register of an atomic or a reduction and how many bytes it acts on. -/
def atomicAddr : Instr → Option (Fin 32 × Nat)
  | .amoSwap _ _ ra _ _ d => some (ra, if d then 8 else 4)
  | .amoAdd _ _ ra _ _ d => some (ra, if d then 8 else 4)
  | .amoAnd _ _ ra _ _ d => some (ra, if d then 8 else 4)
  | .amoOr _ _ ra _ _ d => some (ra, if d then 8 else 4)
  | .amoXor _ _ ra _ _ d => some (ra, if d then 8 else 4)
  | .amoMin _ _ ra _ _ d => some (ra, if d then 8 else 4)
  | .amoMax _ _ ra _ _ d => some (ra, if d then 8 else 4)
  | .amoMinu _ _ ra _ _ d => some (ra, if d then 8 else 4)
  | .amoMaxu _ _ ra _ _ d => some (ra, if d then 8 else 4)
  | .amoCas _ _ ra _ _ d => some (ra, if d then 8 else 4)
  | .amoFadd _ _ ra _ _ => some (ra, 4)
  | .redAdd _ ra _ _ d => some (ra, if d then 8 else 4)
  | .redAnd _ ra _ _ d => some (ra, if d then 8 else 4)
  | .redOr _ ra _ _ d => some (ra, if d then 8 else 4)
  | .redXor _ ra _ _ d => some (ra, if d then 8 else 4)
  | .redMin _ ra _ _ d => some (ra, if d then 8 else 4)
  | .redMax _ ra _ _ d => some (ra, if d then 8 else 4)
  | .redMinu _ ra _ _ d => some (ra, if d then 8 else 4)
  | .redMaxu _ ra _ _ d => some (ra, if d then 8 else 4)
  | .redFadd _ ra _ _ => some (ra, 4)
  | _ => none

/-- Whether a control-core word stores, acts on memory, or writes lines of the data L1 back. -/
def actsOnMemory (i : Instr) : Bool :=
  (storeAt i .reset).isSome || (atomicAddr i).isSome ||
    match i with
    | .qpush _ _ _ _ _ => true
    | .qpop _ _ _ _ _ => true
    | .invr _ _ _ => true
    | .wbr _ _ _ => true
    | .wbinvr _ _ _ => true
    | .fenceRel _ _ _ => true
    | .fenceAcq _ _ _ => true
    | .fenceAr _ _ _ => true
    | _ => false

/-! ### Frames -/

/-- The engine of an array or vector word (R230 to R279); none for any other step. -/
def computesOn : Instr → Option Engine
  | .azero _ => some .a
  | .amma _ => some .a
  | .ammas _ => some .a
  | .ammaz _ => some .a
  | .atbld _ => some .a
  | .atmma _ => some .a
  | .adist _ => some .a
  | .aargmin _ => some .a
  | .adrain _ => some .a
  | .adrainm _ => some .a
  | .ascacc _ => some .a
  | .acent _ => some .a
  | .acdiv _ => some .a
  | .aaccld _ => some .a
  | .aaccst _ => some .a
  | .amova _ => some .a
  | .vadd _ => some .v
  | .vsub _ => some .v
  | .vmul _ => some .v
  | .vfma _ => some .v
  | .vmin _ => some .v
  | .vmax _ => some .v
  | .vabs _ => some .v
  | .vneg _ => some .v
  | .vrcp _ => some .v
  | .vrsq _ => some .v
  | .vexp2 _ => some .v
  | .vlog2 _ => some .v
  | .vscale _ => some .v
  | .vclamp _ => some .v
  | .vcmp _ => some .v
  | .vclass _ => some .v
  | .viadd _ => some .v
  | .visub _ => some .v
  | .vimul _ => some .v
  | .vimin _ => some .v
  | .vimax _ => some .v
  | .vand _ => some .v
  | .vor _ => some .v
  | .vxor _ => some .v
  | .vshl _ => some .v
  | .vshr _ => some .v
  | .vpopc _ => some .v
  | .vicmp _ => some .v
  | .viota _ => some .v
  | .vcvt _ => some .v
  | .vquant _ => some .v
  | .vbmax _ => some .v
  | .vpack _ => some .v
  | .vunpk _ => some .v
  | .vspars _ => some .v
  | .vzbm _ => some .v
  | .vrsum _ => some .v
  | .vrmax _ => some .v
  | .vrmin _ => some .v
  | .vramax _ => some .v
  | .vcsum _ => some .v
  | .vscan _ => some .v
  | .vmov _ => some .v
  | .vtrans _ => some .v
  | .vbcast _ => some .v
  | .vshuf _ => some .v
  | .vrot _ => some .v
  | .vsel _ => some .v
  | .vext _ => some .v
  | .vins _ => some .v
  | .vfill _ => some .v
  | .vmlog _ => some .v
  | .vmpop _ => some .v
  | .vmfirst _ => some .v
  | .vsfc _ => some .v
  | .vhist _ => some .v
  | _ => none

/-- The array and vector words that write an e register (R238, R276, R277). -/
def writesE : Instr → Bool
  | .aargmin _ => true
  | .vext _ => true
  | .vmpop _ => true
  | .vmfirst _ => true
  | _ => false

/-- The vector words that write a mask (R260, R261, R263, R277). -/
def writesMask : Instr → Bool
  | .vcmp _ => true
  | .vclass _ => true
  | .vicmp _ => true
  | .vmlog _ => true
  | .vmfirst _ => true
  | _ => false

/-- The array words that write an accumulator (R230 to R245). -/
def writesAcc : Instr → Bool
  | .azero _ => true
  | .amma _ => true
  | .ammas _ => true
  | .ammaz _ => true
  | .atmma _ => true
  | .adist _ => true
  | .adrain _ => true
  | .adrainm _ => true
  | .ascacc _ => true
  | .acent _ => true
  | .aaccld _ => true
  | .amova _ => true
  | _ => false

/-- The array and vector words that write a tile (R238 to R279). -/
def writesTile : Instr → Bool
  | .aargmin _ => true
  | .adrain _ => true
  | .acdiv _ => true
  | .aaccst _ => true
  | .vadd _ => true
  | .vsub _ => true
  | .vmul _ => true
  | .vfma _ => true
  | .vmin _ => true
  | .vmax _ => true
  | .vabs _ => true
  | .vneg _ => true
  | .vrcp _ => true
  | .vrsq _ => true
  | .vexp2 _ => true
  | .vlog2 _ => true
  | .vscale _ => true
  | .vclamp _ => true
  | .viadd _ => true
  | .visub _ => true
  | .vimul _ => true
  | .vimin _ => true
  | .vimax _ => true
  | .vand _ => true
  | .vor _ => true
  | .vxor _ => true
  | .vshl _ => true
  | .vshr _ => true
  | .vpopc _ => true
  | .viota _ => true
  | .vcvt _ => true
  | .vquant _ => true
  | .vbmax _ => true
  | .vpack _ => true
  | .vunpk _ => true
  | .vspars _ => true
  | .vzbm _ => true
  | .vrsum _ => true
  | .vrmax _ => true
  | .vrmin _ => true
  | .vramax _ => true
  | .vcsum _ => true
  | .vscan _ => true
  | .vmov _ => true
  | .vtrans _ => true
  | .vbcast _ => true
  | .vshuf _ => true
  | .vrot _ => true
  | .vsel _ => true
  | .vins _ => true
  | .vfill _ => true
  | .vsfc _ => true
  | .vhist _ => true
  | _ => false

/-- Nothing changes outside core `k`. -/
def OnlyCore (s t : State) (k : Fin 128) : Prop := t = s.setCore k (t.core k)

/-- Nothing changes outside context `c` of core `k`: no other context, engine, tile, accumulator, special register, flag, and
nothing of memory. -/
def OnlyCtx (s t : State) (k : Fin 128) (c : CtxId) : Prop := t = s.setCtx k c (t.ctx k c)

/-- A core takes a fault and changes nothing else of it (R188, R383). -/
def TakesFault (s t : State) (k : Fin 128) (agent : Nat) (loc : W64) (tr : Trap) : Prop :=
  t = s.setCore k { s.core k with fault := some (s.faultInfo k agent loc tr s.mem.mphase) }

/-- The general and predicate registers of a context but x[rd] and p[pd] stay. -/
def KeepsRegs (x y : Ctx) (rd : Option (Fin 32)) (pd : Option (Fin 8)) : Prop :=
  (∀ r, rd ≠ some r → y.getX r = x.getX r) ∧ (∀ r, pd ≠ some r → y.getP r = x.getP r)

/-! ### Copy words (R318 to R324) -/

/-- No copy word in flight that is not complete holds a word with these tiles and e registers (R319): it reads no tile or e register that
such a word is to write, and writes none that such a word is to write or, of the tiles, to read; nor has an earlier word a message or a
batch to send (R318, R362, R365). -/
def NoHazard (s : State) (k : Fin 128) (rd wr : List Nat) (re we : List (Fin 32)) : Prop :=
  ∀ f ∈ (s.eng k .c).flight, f.complete = true ∨ (∀ r ∈ f.reqs, r.waitsAtStage = false) ∧ (∀ t ∈ rd, t ∉ f.wr) ∧ (∀ e ∈ re, e.val ∉ f.we) ∧ (∀ t ∈ wr, t ∉ f.wr ∧ t ∉ f.rd) ∧ (∀ e ∈ we, e.val ∉ f.we)

/-- A copy word `w` issues as `ins` (R318, R320): its core is then `c`, and the word is in flight with the requests that do `kinds`, in
its class and with the present phase (R315, R324), and with the tiles and e registers that it reads and writes. -/
def CopyIssues (ins : Instr) (s : State) (k : Fin 128) (w : CgWord) (d c : Core) (rd wr : List Nat) (we : List (Fin 32)) (fl : Fl)
    (kinds : List ReqKind) : Prop :=
  exec ins s = .next (issued s k .c c { Flight.plain (engIssue s k .c d).upc w.tok.pt with
    cls := w.mod.oc.val, rd := rd, wr := wr, we := we.map (·.val), flags := fl, reqs := kinds.map (s.newReq w.mod.oc.val) } 0)

/-- A request that does `x`, and of which nothing has been asked for or has come in. -/
def Asks (r : Req) (x : ReqKind) : Prop := r = { r with kind := x, asked := none, got := [], bad := [] }

/-- The checks of R324 that need no access to memory pass for each of a word's accesses. -/
def MayAccess (s : State) (k : Fin 128) (w : Bool) (l : List (W64 × Nat)) : Prop := ∀ p ∈ l, s.issueCheck k p.1 p.2 w = none

/-- An access of an engine leads to one run of bytes of this package from `flat` on (R189, R139); `u` is the state with the
translations that its checks took. -/
def EngineAt (s : State) (k : Fin 128) (ea : W64) (n : Nat) (need : Need) (flat : Nat) (u : State) : Prop :=
  s.portAt k ea n need = .ok (.bytes [(.here flat false, n)]) u

/-- A request of the copy engine that is next to be performed: the core is not stopped, and nothing of the request's class stands
before it (R324). -/
def Performs (s : State) (k : Fin 128) (idx : Nat) (a : ReqAt) (x : ReqKind) : Prop :=
  (s.core k).fault = none ∧ (copyReqs (s.eng k .c))[idx]? = some a ∧ reqBlocked s k a = false ∧
  Asks a.req x

/-- The state in which request `a` is done: it stands in flight no more, and what it held back takes effect. -/
def performed (s : State) (k : Fin 128) (a : ReqAt) : State := (s.replaceReq k a []).settle k a.f

/-- Bytes that a write of `bs` at `flat` leaves, and the sectors that are poisoned then (R300). -/
def Wrote (m m' : MemSide) (flat : Nat) (bs : List Byte) : Prop :=
  m' = { m with cells := m'.cells, poison := m'.poison } ∧
  (∀ a, m'.byte a = if flat ≤ a ∧ a < flat + bs.length then nth 0 bs (a - flat) else m.byte a) ∧
  (∀ p, p ∈ m'.poison ↔ p ∈ m.poison ∧ ¬ (flat ≤ p * 64 ∧ p * 64 + 64 ≤ flat + bs.length))

/-! ### Accesses of the package itself (R115, R123, R135) -/

/-- An access of the package under a PASID leads to one run of bytes from `flat` on, through the translations that `u` then holds. -/
def OwnAt (s : State) (pasid va n : Nat) (need : Need) (flat : Nat) (u : State) : Prop :=
  ∃ host, s.ownDests pasid va n need = .ok ([(.here flat host, n)], u)

/-- The state after a write of `bs` at `flat`. -/
def wrote (s : State) (flat : Nat) (bs : List Byte) : State := s.setMem (s.mem.write flat bs)

/-- An event step answers `t`. -/
def Goes (i : Instr) (s t : State) : Prop := exec i s = .next t

end Sys2Proof.Safety
end

