-- ==== Sys2Proof/Certificates/Slice0/Obligations.lean ====
section
/-! DEFINITION. The statements for the provers. -/

open Sys2Proof Sys2Proof.Machine Sys2Proof.Safety

/-- R192 to R196: ALU-R, immediates, compares, PLOG and SEL. -/
def Obligations.AluAndCompareResults : Prop :=
  -- R192, R193: the ALU-R group.
  (∀ (s : State) (k : Fin 128) (c : CtxId) (g : Guard) (rd ra rb : Fin 32), Runs s k c g →
    let a := (s.ctx k c).getX ra
    let b := (s.ctx k c).getX rb
    let sh := b.toNat % 64
    let gives (i : Instr) (v : W64) : Prop := exec i s = .next (s.retX k c rd v)
    gives (.add g rd ra rb) (a + b) ∧ gives (.sub g rd ra rb) (a - b) ∧
    gives (.and g rd ra rb) (a &&& b) ∧ gives (.or g rd ra rb) (a ||| b) ∧ gives (.xor g rd ra rb) (a ^^^ b) ∧
    gives (.andn g rd ra rb) (a &&& ~~~b) ∧
    gives (.sll g rd ra rb) (a <<< sh) ∧ gives (.srl g rd ra rb) (a >>> sh) ∧ gives (.sra g rd ra rb) (a.sshiftRight sh) ∧
    gives (.mul g rd ra rb) (a * b) ∧
    gives (.mulh g rd ra rb) ((a.signExtend 128 * b.signExtend 128).extractLsb' 64 64) ∧
    gives (.mulhu g rd ra rb) ((a.setWidth 128 * b.setWidth 128).extractLsb' 64 64) ∧
    gives (.div g rd ra rb) (if b = 0 then 0xFFFFFFFFFFFFFFFF else a.sdiv b) ∧
    gives (.divu g rd ra rb) (if b = 0 then 0xFFFFFFFFFFFFFFFF else a / b) ∧
    gives (.rem g rd ra rb) (if b = 0 then a else a.srem b) ∧
    gives (.remu g rd ra rb) (if b = 0 then a else a % b) ∧
    gives (.min g rd ra rb) (if a.toInt ≤ b.toInt then a else b) ∧
    gives (.max g rd ra rb) (if a.toInt ≤ b.toInt then b else a) ∧
    gives (.minu g rd ra rb) (if a ≤ b then a else b) ∧
    gives (.maxu g rd ra rb) (if a ≤ b then b else a) ∧
    (∃ n : Nat, gives (.clz g rd ra) (BitVec.ofNat 64 n) ∧ n ≤ 64 ∧ (∀ i, 64 - n ≤ i → a.getLsbD i = false) ∧
      (n < 64 → a.getLsbD (63 - n) = true)) ∧
    gives (.popc g rd ra) (BitVec.ofNat 64 ((List.range 64).countP a.getLsbD))) ∧
  -- R194, R195: immediates.
  (∀ (s : State) (k : Fin 128) (c : CtxId) (g : Guard) (rd ra : Fin 32) (imm : BitVec 12) (n : Fin 64) (up : BitVec 17), Runs s k c g →
    let a := (s.ctx k c).getX ra
    let gives (i : Instr) (v : W64) : Prop := exec i s = .next (s.retX k c rd v)
    gives (.addi g rd ra imm) (a + imm.signExtend 64) ∧ gives (.andi g rd ra imm) (a &&& imm.signExtend 64) ∧
    gives (.ori g rd ra imm) (a ||| imm.signExtend 64) ∧ gives (.xori g rd ra imm) (a ^^^ imm.signExtend 64) ∧
    gives (.slli g rd ra n) (a <<< n.val) ∧ gives (.srli g rd ra n) (a >>> n.val) ∧ gives (.srai g rd ra n) (a.sshiftRight n.val) ∧
    gives (.liu g rd up) (up.signExtend 64 <<< 12) ∧ gives (.addpc g rd up) ((s.ctx k c).pc + up.signExtend 64 <<< 12)) ∧
  -- R196: compares, PLOG and SEL.
  (∀ (s : State) (k : Fin 128) (c : CtxId) (g : Guard) (pd pa pb q : Fin 8) (rd ra rb : Fin 32) (imm : BitVec 12) (tab : BitVec 4),
    Runs s k c g →
    let x := s.ctx k c
    let holds (cd : Cond) (a b : W64) : Prop :=
      match cd with
      | .eq => a = b
      | .ne => a ≠ b
      | .lt => a.toInt < b.toInt
      | .ge => b.toInt ≤ a.toInt
      | .ltu => a.toNat < b.toNat
      | .geu => b.toNat ≤ a.toNat
    (∀ cd : Cond, ∃ v : Bool, (v = true ↔ holds cd (x.getX ra) (x.getX rb)) ∧
      exec (.cmp g pd ra rb cd) s = .next (s.retP k c pd v)) ∧
    (∀ cd : Cond, ∃ v : Bool, (v = true ↔ holds cd (x.getX ra) (imm.signExtend 64)) ∧
      exec (.cmpi g cd pd ra imm) s = .next (s.retP k c pd v)) ∧
    exec (.plog g pd pa pb tab) s = .next (s.retP k c pd (tab.getLsbD (2 * (x.getP pa).toNat + (x.getP pb).toNat))) ∧
    exec (.sel g rd ra rb q) s = .next (s.retX k c rd (if x.getP q = true then x.getX ra else x.getX rb)))

/-- R197, R219, R220: branches, TRAP, YIELD and DONE. -/
def Obligations.BranchesTrapsAndPartEnds : Prop :=
  -- R197: branches.
  (∀ (s : State) (k : Fin 128) (c : CtxId) (g : Guard) (off : BitVec 22) (rd ra : Fin 32) (imm : BitVec 12), Runs s k c g →
    let x := s.ctx k c
    let t := x.getX ra + imm.signExtend 64
    exec (.br g off) s = .next (s.setCtx k c (x.setPc (x.pc + 4 * off.signExtend 64))) ∧
    exec (.jal g off) s = .next (s.setCtx k c ((x.setX 31 (x.pc + 4)).setPc (x.pc + 4 * off.signExtend 64))) ∧
    (t.toNat % 4 = 0 → exec (.jalr g rd ra imm) s = .next (s.setCtx k c ((x.setX rd (x.pc + 4)).setPc t))) ∧
    (t.toNat % 4 ≠ 0 → exec (.jalr g rd ra imm) s = .next (s.raiseCtx k c (.at .align t)))) ∧
  -- R187, R219, R220, R381: TRAP, YIELD and DONE.
  (∀ (s : State) (k : Fin 128) (c : CtxId) (g : Guard) (code : BitVec 12), Runs s k c g →
    let ended : State := s.setCtx k c { s.ctx k c with run := .ended, ahead := none }
    let illegal : State := s.raiseCtx k c (.plain .illegalOperand)
    let agent : Nat := match c with
      | .ld => 0
      | .cp => 1
      | .st => 2
    ((s.core k).fault = none → ∃ t, exec (.trap g code) s = .next t ∧
      TakesFault s t k agent (s.ctx k c).pc ⟨.trap, 0, code.setWidth 64⟩) ∧
    ((s.core k).part ≠ .epilogue → exec (.yield g) s = .next ended ∧ exec (.done g) s = .next illegal) ∧
    ((s.core k).part = .epilogue → exec (.yield g) s = .next illegal ∧ exec (.done g) s = .next ended))

/-- R74: a word whose guard fails has no effect but that the context goes on. -/
def Obligations.GuardedWordPasses : Prop :=
  ∀ (i : Instr) (s : State) (k : Fin 128) (c : CtxId) (g : Guard), guardOf i = some g → s.cur = .context k c →
    (s.ctx k c).guard g = false → exec i s = .next (s.advance k c)

/-- R189, R190, R198: loads. -/
def Obligations.LoadResults : Prop :=
  -- R198, R189: loads from a scratchpad.
  (∀ (s : State) (k : Fin 128) (c : CtxId) (g : Guard) (rd ra : Fin 32) (cls : Fin 16) (imm : BitVec 8) (q : Fin 32) (off : Nat),
    Runs s k c g →
    let gives (i : Instr) (n : Nat) (ext : Nat → W64) : Prop :=
      let ea := (s.ctx k c).getX ra + imm.signExtend 64 * BitVec.ofNat 64 n
      (ea.toNat % n ≠ 0 → exec i s = .next (s.raiseCtx k c (.at .align ea))) ∧
      (ea.toNat % n = 0 → (s.ctx k c).remote = none → ¬ NoStores s k c cls.val → exec i s = .next s) ∧
      (ea.toNat % n = 0 → (s.ctx k c).remote = none → NoStores s k c cls.val → PadAt s k ea n q off →
        s.mem.poisonedAt (sramFlat q off) n = none → exec i s = .next (s.retX k c rd (ext (s.mem.num (sramFlat q off) n))))
    gives (.ldb g rd ra cls imm) 1 (fun v => (BitVec.ofNat 8 v).signExtend 64) ∧
    gives (.ldh g rd ra cls imm) 2 (fun v => (BitVec.ofNat 16 v).signExtend 64) ∧
    gives (.ldw g rd ra cls imm) 4 (fun v => (BitVec.ofNat 32 v).signExtend 64) ∧
    gives (.ldd g rd ra cls imm) 8 (BitVec.ofNat 64) ∧ gives (.ldbu g rd ra cls imm) 1 (BitVec.ofNat 64) ∧
    gives (.ldhu g rd ra cls imm) 2 (BitVec.ofNat 64) ∧ gives (.ldwu g rd ra cls imm) 4 (BitVec.ofNat 64)) ∧
  -- R198, R190: loads from the virtual space go through the data L1.
  (∀ (s : State) (k : Fin 128) (c : CtxId) (g : Guard) (rd ra : Fin 32) (cls : Fin 16) (imm : BitVec 8) (flat : Nat) (u : State),
    Runs s k c g →
    let gives (i : Instr) (n : Nat) (ext : Nat → W64) : Prop :=
      let ea := (s.ctx k c).getX ra + imm.signExtend 64 * BitVec.ofNat 64 n
      ea.toNat % n = 0 → (s.ctx k c).remote = none → NoStores s k c cls.val → HereAt s k ea n .read flat u →
        -- the line must have a place
        (flat % 128 + n ≤ 128 → (u.core k).hasRoom (flat / 128 * 128) = false → exec i s = .next u) ∧
        (NoPoison u k flat n → Room u k flat n →
          ∃ t, exec i s = .next (t.retX k c rd (ext (seenNum u k flat n))) ∧ OnlyL1 u t k ∧
            t.mem = u.mem ∧ (∀ a, seen t k a = seen s k a) ∧ (∀ a, t.mem.byte a = s.mem.byte a))
    gives (.ldb g rd ra cls imm) 1 (fun v => (BitVec.ofNat 8 v).signExtend 64) ∧
    gives (.ldh g rd ra cls imm) 2 (fun v => (BitVec.ofNat 16 v).signExtend 64) ∧
    gives (.ldw g rd ra cls imm) 4 (fun v => (BitVec.ofNat 32 v).signExtend 64) ∧
    gives (.ldd g rd ra cls imm) 8 (BitVec.ofNat 64) ∧ gives (.ldbu g rd ra cls imm) 1 (BitVec.ofNat 64) ∧
    gives (.ldhu g rd ra cls imm) 2 (BitVec.ofNat 64) ∧ gives (.ldwu g rd ra cls imm) 4 (BitVec.ofNat 64))

/-- R198, R189, R190: stores. -/
def Obligations.StoreResults : Prop :=
  ∀ (s : State) (k : Fin 128) (c : CtxId) (g : Guard) (rs ra : Fin 32) (cls : Fin 16) (imm : BitVec 8) (q : Fin 32) (off flat : Nat)
    (u : State), Runs s k c g →
    let v := (s.ctx k c).getX rs
    let gives (i : Instr) (n : Nat) : Prop :=
      let ea := (s.ctx k c).getX ra + imm.signExtend 64 * BitVec.ofNat 64 n
      (ea.toNat % n ≠ 0 → exec i s = .next (s.raiseCtx k c (.at .align ea))) ∧
      (ea.toNat % n = 0 → ¬ NoStores s k c cls.val → exec i s = .next s) ∧
      (ea.toNat % n = 0 → NoStores s k c cls.val → PadAt s k ea n q off → ∃ m, exec i s = .next ((s.setMem m).advance k c) ∧
        ∀ a, m.byte a = if sramFlat q off ≤ a ∧ a < sramFlat q off + n then v.extractLsb' (8 * (a - sramFlat q off)) 8 else s.mem.byte a) ∧
      (ea.toNat % n = 0 → NoStores s k c cls.val → HereAt s k ea n .write flat u → flat % 128 + n ≤ 128 →
        (u.core k).hasRoom (flat / 128 * 128) = false → exec i s = .next u) ∧
      (ea.toNat % n = 0 → NoStores s k c cls.val → HereAt s k ea n .write flat u → Room u k flat n →
        ∃ t, exec i s = .next (t.advance k c) ∧ OnlyL1 u t k ∧
        (∀ a, t.mem.byte a = s.mem.byte a) ∧
        ∀ a, seen t k a = if flat ≤ a ∧ a < flat + n then v.extractLsb' (8 * (a - flat)) 8 else seen s k a)
    gives (.stb g rs ra cls imm) 1 ∧ gives (.sth g rs ra cls imm) 2 ∧ gives (.stw g rs ra cls imm) 4 ∧ gives (.std g rs ra cls imm) 8

/-- R199, R200, R287: FIFO banks and full-empty accesses. -/
def Obligations.FifoAndFullEmptyAccesses : Prop :=
  -- R287: loads and stores of a FIFO bank.
  (∀ (s : State) (k : Fin 128) (c : CtxId) (g : Guard) (rd rs ra : Fin 32) (cls : Fin 16) (imm : BitVec 8) (q : Fin 32) (b : Nat),
    Runs s k c g →
    let ea := (s.ctx k c).getX ra + imm.signExtend 64 * 8
    let l := (s.quad q).entries b
    let ea4 := (s.ctx k c).getX ra + imm.signExtend 64 * 4
    (s.ctx k c).remote = none → NoStores s k c cls.val →
    -- another size faults ALIGN, another offset PERM
    (∀ off, ea4.toNat % 4 = 0 → FifoAt s k ea4 q b off → exec (.ldwu g rd ra cls imm) s = .next (s.raiseCtx k c (.at .align ea4)) ∧
      exec (.stw g rs ra cls imm) s = .next (s.raiseCtx k c (.at .align ea4))) ∧
    (∀ off, ea.toNat % 8 = 0 → FifoAt s k ea q b off →
      (off ≠ 0 → off ≠ 8 → exec (.ldd g rd ra cls imm) s = .next (s.raiseCtx k c (.at .perm ea))) ∧
      (off ≠ 0 → exec (.std g rs ra cls imm) s = .next (s.raiseCtx k c (.at .perm ea)))) ∧
    (FifoAt s k ea q b 8 → exec (.ldd g rd ra cls imm) s = .next (s.retX k c rd (BitVec.ofNat 64 l.length))) ∧
    (FifoAt s k ea q b 0 → l = [] → exec (.ldd g rd ra cls imm) s = .next s) ∧
    (∀ v r, FifoAt s k ea q b 0 → l = v :: r →
      ∃ t, exec (.ldd g rd ra cls imm) s = .next ((s.setQuad q t).retX k c rd v) ∧ t.entries b = r ∧
        (∀ b', b' ≠ b → t.entries b' = (s.quad q).entries b')) ∧
    (FifoAt s k ea q b 0 → l.length < 131072 →
      ∃ t, exec (.std g rs ra cls imm) s = .next ((s.setQuad q t).advance k c) ∧ t.entries b = l ++ [(s.ctx k c).getX rs] ∧
        (∀ b', b' ≠ b → t.entries b' = (s.quad q).entries b')) ∧
    (FifoAt s k ea q b 0 → 131072 ≤ l.length → exec (.std g rs ra cls imm) s = .next s)) ∧
  -- R199, R200: full-empty accesses.
  (∀ (s : State) (k : Fin 128) (c : CtxId) (g : Guard) (rd ra : Fin 32) (cls : Fin 16) (imm : BitVec 6) (q : Fin 32) (off : Nat),
    Runs s k c g →
    let x := s.ctx k c
    let ea := x.getX ra + imm.signExtend 64 * 8
    let full := kmem (s.quad q).full (off / 16)
    let s0 : State := s.setCtx k c { x with waits := none }
    let waits (w : CtxWait) : State := s.setCtx k c { x with waits := some w }
    let bytesOf (v : W64) (m : MemSide) : Prop := ∀ a, m.byte a =
      if sramFlat q off ≤ a ∧ a < sramFlat q off + 8 then v.extractLsb' (8 * (a - sramFlat q off)) 8 else s.mem.byte a
    ea.toNat % 8 = 0 → NoStores s k c cls.val → PadAt s k ea 8 q off → s.mem.poisonedAt (sramFlat q off) 8 = none →
    let old : W64 := BitVec.ofNat 64 (s.mem.num (sramFlat q off) 8)
    (full = false → exec (.ldfeW g rd ra cls imm) s = .next (waits (.load q off ea rd)) ∧
      exec (.ldfeE g rd ra cls imm) s = .next (waits (.pad q off))) ∧
    (full = true → exec (.ldfeW g rd ra cls imm) s = .next (s0.retX k c rd old)) ∧
    (full = true → ∃ t, exec (.ldfeE g rd ra cls imm) s = .next ((s0.setQuad q t).retX k c rd old) ∧
      t = { s.quad q with full := t.full } ∧ ∀ n, kmem t.full n = (kmem (s.quad q).full n && n != off / 16)) ∧
    exec (.ldfeN g rd ra cls imm) s = .next (s0.retX k c rd old) ∧
    exec (.feqQ g rd ra cls imm) s = .next (s.retX k c rd (if full then 1 else 0)) ∧
    (∃ t, exec (.feqClr g ra cls imm) s = .next ((s.setQuad q t).advance k c) ∧
      t = { s.quad q with full := t.full } ∧ ∀ n, kmem t.full n = (kmem (s.quad q).full n && n != off / 16)) ∧
    (¬ LoadWaits s q off ∨ full = true → ∃ t, exec (.feqSet g ra cls imm) s = .next ((s.setQuad q t).advance k c) ∧
      t = { s.quad q with full := t.full } ∧ ∀ n, kmem t.full n = (kmem (s.quad q).full n || n == off / 16)) ∧
    (full = true → exec (.stfeWe g rd ra cls imm) s = .next (waits (.pad q off))) ∧
    (∀ i, i = .stfeF g rd ra cls imm ∨ (i = .stfeWe g rd ra cls imm ∧ full = false) →
      (¬ LoadWaits s q off ∨ full = true → ∃ m t, exec i s = .next (((s0.setMem m).setQuad q t).advance k c) ∧ bytesOf (x.getX rd) m ∧
        t = { s.quad q with full := t.full } ∧ ∀ n, kmem t.full n = (kmem (s.quad q).full n || n == off / 16)) ∧
      -- R200: every LDFE.w that waits on the granule returns at once
      (∀ j d o ea' rd', (j, d) ≠ (k, c) → (s.core j).fault = none → full = false → (s.ctx j d).waits = some (.load q o ea' rd') →
        o / 16 = off / 16 → ∃ t m, exec i s = .next t ∧
          bytesOf (x.getX rd) m ∧
          t.ctx j d = (({ s.ctx j d with waits := none } : Ctx).setX rd' (BitVec.ofNat 64 (m.num (sramFlat q o) 8))).step)) ∧
    (∀ j d o ea' rd', (j, d) ≠ (k, c) → (s.core j).fault = none → full = false → (s.ctx j d).waits = some (.load q o ea' rd') →
      o / 16 = off / 16 → ∃ t, exec (.feqSet g ra cls imm) s = .next t ∧
        t.ctx j d = (({ s.ctx j d with waits := none } : Ctx).setX rd' (BitVec.ofNat 64 (s.mem.num (sramFlat q o) 8))).step))

/-- R186, R201, R203: ranges of the data L1, INVI, and fences. -/
def Obligations.CacheRangesAndFences : Prop :=
  -- R201, R186: operations on ranges of the data L1, and on the instruction L1.
  (∀ (s : State) (k : Fin 128) (c : CtxId) (g : Guard) (ra rb : Fin 32), Runs s k c g →
    let a := ((s.ctx k c).getX ra).toNat
    let n := ((s.ctx k c).getX rb).toNat
    (∃ t, exec (.invr g ra rb) s = .next (t.advance k c) ∧ OnlyL1 s t k ∧
      WrittenBack s t k (fun l => Overlaps a n l ∧ ¬ Inside a n l) ∧
      (∀ l, l ∈ (t.core k).dl1 ↔ l ∈ (s.core k).dl1 ∧ ¬ Overlaps a n l)) ∧
    (∃ t, exec (.wbinvr g ra rb) s = .next (t.advance k c) ∧ OnlyL1 s t k ∧ WrittenBack s t k (Overlaps a n) ∧
      (∀ l, l ∈ (t.core k).dl1 ↔ l ∈ (s.core k).dl1 ∧ ¬ Overlaps a n l)) ∧
    (∃ t, exec (.wbr g ra rb) s = .next (t.advance k c) ∧ OnlyL1 s t k ∧ WrittenBack s t k (Overlaps a n) ∧
      (t.core k).dl1.map (fun l => (l.pa, l.bytes.map fun p => (p.1, p.2.1))) =
        (s.core k).dl1.map (fun l => (l.pa, l.bytes.map fun p => (p.1, p.2.1))) ∧
      (∀ l ∈ (t.core k).dl1, Overlaps a n l → ∀ p ∈ l.bytes, p.2.2 = false)) ∧
    (∃ d, exec (.invi g) s = .next ((s.setCore k d).advance k c) ∧ d.il1 = [] ∧ (∀ x, (d.ctx x).ahead = none) ∧
      d = { s.core k with il1 := [], ld := { (s.core k).ld with ahead := none }, cp := { (s.core k).cp with ahead := none },
                          st := { (s.core k).st with ahead := none } })) ∧
  -- R203: fences.
  (∀ (s : State) (k : Fin 128) (c : CtxId) (g : Guard) (sc : Scope) (mask : BitVec 16), Runs s k c g →
    let mine (r : RemoteReq) : Prop := r ∈ s.fab.remote ∧ r.core = k.val ∧ r.who = .context c ∧ r.write = true
    let clsHeld := ∃ r, mine r ∧ mask.getLsbD r.cls = true
    let relHeld := ∃ r, mine r ∧ (mask = 0 ∨ mask.getLsbD r.cls = true)
    (clsHeld → exec (.fenceCls g mask) s = .next s) ∧
    (¬ clsHeld → exec (.fenceCls g mask) s = .next (s.advance k c)) ∧
    (relHeld → exec (.fenceRel g sc mask) s = .next s ∧ exec (.fenceAr g sc mask) s = .next s) ∧
    (¬ relHeld → sc = .core → exec (.fenceRel g sc mask) s = .next (s.advance k c) ∧
      exec (.fenceAr g sc mask) s = .next (s.advance k c)) ∧
    (¬ relHeld → sc ≠ .core → ∃ t, exec (.fenceRel g sc mask) s = .next (t.advance k c) ∧ OnlyL1 s t k ∧
      WrittenBack s t k (fun _ => True) ∧ (t.core k).dl1 = (s.core k).dl1.map DLine.clean) ∧
    (¬ relHeld → sc ≠ .core → ∃ t, exec (.fenceAr g sc mask) s = .next (t.advance k c) ∧ OnlyL1 s t k ∧
      WrittenBack s t k (fun _ => True) ∧ (t.core k).dl1 = []) ∧
    (sc = .core → exec (.fenceAcq g sc mask) s = .next (s.advance k c)) ∧
    (sc ≠ .core → ∃ t, exec (.fenceAcq g sc mask) s = .next (t.advance k c) ∧ OnlyL1 s t k ∧
      WrittenBack s t k (fun _ => True) ∧ (t.core k).dl1 = []))

/-- R204 to R206: atomics and reductions. -/
def Obligations.AtomicResults : Prop :=
  ∀ (s : State) (k : Fin 128) (c : CtxId) (g : Guard) (rd ra rb : Fin 32) (cls : Fin 4) (dbl : Bool) (flat : Nat) (u : State),
    Runs s k c g →
    let x := s.ctx k c
    let ea := x.getX ra
    let acts (d : Bool) (amo red : Option Instr) (new : (w : Nat) → BitVec w → BitVec w → BitVec w) : Prop :=
      let n := if d then 8 else 4
      let u' := dropLineAt u k flat n
      let old := u'.mem.num flat n
      let v := u'.setMem (u'.mem.setNum flat n (new (8 * n) (BitVec.ofNat (8 * n) old) (BitVec.ofNat (8 * n) (x.getX rb).toNat)).toNat)
      (ea.toNat % n ≠ 0 → ∀ i, amo = some i ∨ red = some i → exec i s = .next (s.raiseCtx k c (.at .align ea))) ∧
      (ea.toNat % n = 0 → ¬ NoStores s k c cls.val → ∀ i, amo = some i ∨ red = some i → exec i s = .next s) ∧
      (ea.toNat % n = 0 → NoStores s k c cls.val → AtomicAt s k ea n flat u → u'.mem.poisonedAt flat n = none →
        (∀ i, amo = some i → exec i s = .next (v.retX k c rd (BitVec.ofNat 64 old))) ∧
        (∀ i, red = some i → exec i s = .next (v.advance k c)))
    let fadd (w : Nat) (m b : BitVec w) : BitVec w := BitVec.ofNat w (portFadd (BitVec.ofNat 32 m.toNat) (BitVec.ofNat 32 b.toNat)).toNat
    acts dbl (some (.amoSwap g rd ra rb cls dbl)) none (fun _ _ b => b) ∧
    acts dbl (some (.amoAdd g rd ra rb cls dbl)) (some (.redAdd g ra rb cls dbl)) (fun _ m b => m + b) ∧
    acts dbl (some (.amoAnd g rd ra rb cls dbl)) (some (.redAnd g ra rb cls dbl)) (fun _ m b => m &&& b) ∧
    acts dbl (some (.amoOr g rd ra rb cls dbl)) (some (.redOr g ra rb cls dbl)) (fun _ m b => m ||| b) ∧
    acts dbl (some (.amoXor g rd ra rb cls dbl)) (some (.redXor g ra rb cls dbl)) (fun _ m b => m ^^^ b) ∧
    acts dbl (some (.amoMin g rd ra rb cls dbl)) (some (.redMin g ra rb cls dbl)) (fun _ m b => if m.toInt ≤ b.toInt then m else b) ∧
    acts dbl (some (.amoMax g rd ra rb cls dbl)) (some (.redMax g ra rb cls dbl)) (fun _ m b => if m.toInt ≤ b.toInt then b else m) ∧
    acts dbl (some (.amoMinu g rd ra rb cls dbl)) (some (.redMinu g ra rb cls dbl)) (fun _ m b => if m ≤ b then m else b) ∧
    acts dbl (some (.amoMaxu g rd ra rb cls dbl)) (some (.redMaxu g ra rb cls dbl)) (fun _ m b => if m ≤ b then b else m) ∧
    acts false (some (.amoFadd g rd ra rb cls)) (some (.redFadd g ra rb cls)) fadd ∧
    acts dbl (some (.amoCas g rd ra rb cls dbl)) none (fun w m b => if m = BitVec.ofNat w (x.getX rd).toNat then b else m)

/-- R207 to R210: software queues and role rings. -/
def Obligations.SoftwareQueuesAndRings : Prop :=
  -- R207, R208: software queues.
  (∀ (s : State) (k : Fin 128) (c : CtxId) (g : Guard) (rd ra rb : Fin 32) (pd : Fin 8) (cls : Fin 16) (q : Fin 32) (off : Nat),
    Runs s k c g →
    let x := s.ctx k c
    let ea := x.getX ra
    let m := s.mem
    let a := sramFlat q off
    let head : W32 := BitVec.ofNat 32 (m.num a 4)
    let tail : W32 := BitVec.ofNat 32 (m.num (a + 4) 4)
    let log := bitsNat (m.num (a + 8) 4) 24 5
    let slots := bitsNat (m.num (a + 8) 4) 0 20
    let slot (i : W32) : Nat := sramFlat q (off / 2 ^ 20 * 2 ^ 20 + slots + 8 * (i.toNat % 2 ^ log))
    -- a descriptor that keeps R207
    let valid := bitsNat (m.num (a + 8) 4) 29 3 = 0 ∧ bitsNat (m.num (a + 8) 4) 20 4 = 0 ∧ m.num (a + 12) 4 = 0 ∧ log ≤ 17 ∧
      slots % 8 = 0 ∧ slots + 8 * 2 ^ log ≤ 2 ^ 20
    ea.toNat % 16 = 0 → NoStores s k c cls.val → PadAt s k ea 16 q off → m.poisonedAt a 16 = none →
    (¬ valid → exec (.qpush g pd ra rb cls) s = .next (s.raiseCtx k c (.plain .illegalOperand)) ∧
      exec (.qpop g rd ra pd cls) s = .next (s.raiseCtx k c (.plain .illegalOperand))) ∧
    (valid → (tail - head).toNat < 2 ^ log →
      exec (.qpush g pd ra rb cls) s =
        .next ((s.setMem ((m.setNum (slot tail) 8 (x.getX rb).toNat).setNum (a + 4) 4 (tail + 1).toNat)).retP k c pd true)) ∧
    (valid → 2 ^ log ≤ (tail - head).toNat → exec (.qpush g pd ra rb cls) s = .next (s.retP k c pd false)) ∧
    (valid → tail = head → exec (.qpop g rd ra pd cls) s = .next (s.setCtx k c (((x.setX rd 0).setP pd false).step))) ∧
    (valid → tail ≠ head → m.poisonedAt (slot head) 8 = none →
      exec (.qpop g rd ra pd cls) s = .next ((s.setMem (m.setNum a 4 (head + 1).toNat)).setCtx k c
        (((x.setX rd (BitVec.ofNat 64 (m.num (slot head) 8))).setP pd true).step)))) ∧
  -- R209, R210: role rings.
  (∀ (s : State) (k : Fin 128) (c : CtxId) (g : Guard) (rd : Fin 32) (n : Fin 4), Runs s k c g →
    let r := (s.core k).rings[n]
    let v := ((s.core k).e[28 + n.val]'(by omega)).toNat
    let slots := 2 ^ bitsNat v 36 4
    let size := 2 ^ bitsNat v 32 4
    let base := bitsNat v 0 25
    let slot (i : W32) : W64 := BitVec.ofNat 64 (0xFE * 2 ^ 56 + base + i.toNat % slots * size)
    let set (r' : Ring) : State := s.setCore k { s.core k with rings := (s.core k).rings.set n r' }
    -- the slot `a` is taken, or the context waits; lower slots that wait on the side come first
    let takes (r' : Ring) (a : W64) : State := (set r').setCtx k c (({ s.ctx k c with waits := none } : Ctx).setX rd a).step
    let waits (consumer : Bool) : State := s.setCtx k c { s.ctx k c with waits := some (.ring n consumer) }
    let lower (consumer : Bool) : Nat := (allCtx.filter fun j => decide (ctxAgent j < ctxAgent c) && (s.ctx k j).waits == some (.ring n consumer)).length
    let stored := ∃ r, r ∈ s.fab.remote ∧ r.core = k.val ∧ r.who = .context c ∧ r.write = true
    -- a layout that keeps R209
    let layout := bitsNat v 40 24 = 0 ∧ bitsNat v 25 7 = 0 ∧ bitsNat v 36 4 ≤ 6 ∧ 4 ≤ bitsNat v 32 4 ∧ base % size = 0 ∧
      base + slots * size ≤ 2 ^ 25
    let illegal (i : Instr) : Prop := exec i s = .next (s.raiseCtx k c (.plain .illegalOperand))
    let produces := (n = 0 → c = .ld) ∧ (n = 1 → c = .cp)
    let consumes := (n = 0 → c = .cp) ∧ (n = 1 → c = .st)
    (¬ (layout ∧ produces) → illegal (.racqP g rd n) ∧ illegal (.rrelP g n)) ∧
    (¬ (layout ∧ consumes) → illegal (.racqC g rd n) ∧ illegal (.rrelC g n)) ∧
    (layout → produces →
      (lower false + (r.pacq - r.crel).toNat < slots → exec (.racqP g rd n) s = .next (takes { r with pacq := r.pacq + 1 } (slot r.pacq))) ∧
      (slots ≤ lower false + (r.pacq - r.crel).toNat → exec (.racqP g rd n) s = .next (waits false)) ∧
      (r.prel = r.pacq → illegal (.rrelP g n)) ∧
      (r.prel ≠ r.pacq → stored → exec (.rrelP g n) s = .next s) ∧
      (r.prel ≠ r.pacq → ¬ stored → exec (.rrelP g n) s = .next ((set { r with prel := r.prel + 1 }).advance k c))) ∧
    (layout → consumes →
      ((lower true : Int) < (r.prel - r.cacq).toInt →
        exec (.racqC g rd n) s = .next (takes { r with cacq := r.cacq + 1 } (slot r.cacq))) ∧
      ((r.prel - r.cacq).toInt ≤ lower true → exec (.racqC g rd n) s = .next (waits true)) ∧
      (r.crel = r.cacq → illegal (.rrelC g n)) ∧
      (r.crel ≠ r.cacq → stored → exec (.rrelC g n) s = .next s) ∧
      (r.crel ≠ r.cacq → ¬ stored → exec (.rrelC g n) s = .next ((set { r with crel := r.crel + 1 }).advance k c))))

/-- R70, R211 to R215: FORK, JOIN, e registers, shapes, and tokens of contexts. -/
def Obligations.DrivingEnginesAndTokens : Prop :=
  -- R211, R212, R213, R215: FORK, JOIN, and the registers that the engines share with the contexts.
  (∀ (s : State) (k : Fin 128) (c : CtxId) (g : Guard) (rd ra e : Fin 32) (en : Engine) (m : EngSet) (t : Fin 48), Runs s k c g →
    let a := (s.ctx k c).getX ra
    let y := s.eng k en
    let named (x : Engine) : Prop := match x with
      | .a => m.a = true
      | .v => m.v = true
      | .c => m.c = true
    let mine := y.run = false ∧ (y.forks = [] ∨ ∃ r, y.forks = c :: r)
    (a.toNat % 16 ≠ 0 → exec (.fork g ra en) s = .next (s.raiseCtx k c (.at .align a))) ∧
    (a.toNat % 16 = 0 → mine → exec (.fork g ra en) s =
      .next ((s.setEng k en { y with forks := y.forks.filter (· != c), run := true, part := false, next := a, buf := none,
                                     cur := none }).advance k c)) ∧
    (a.toNat % 16 = 0 → ¬ mine → c ∈ y.forks → exec (.fork g ra en) s = .next s) ∧
    (a.toNat % 16 = 0 → ¬ mine → c ∉ y.forks →
      exec (.fork g ra en) s = .next (s.setEng k en { y with forks := y.forks ++ [c] })) ∧
    ((∀ x, named x → (s.eng k x).run = false ∧ (s.eng k x).forks = []) → exec (.join g m) s = .next (s.advance k c)) ∧
    ((∃ x, named x ∧ ((s.eng k x).run = true ∨ (s.eng k x).forks ≠ [])) → exec (.join g m) s = .next s) ∧
    exec (.sete g e ra) s = .next ((s.setCore k { s.core k with e := (s.core k).e.set e a }).advance k c) ∧
    exec (.gete g rd e) s = .next (s.retX k c rd (s.core k).e[e]) ∧
    exec (.setts g ra t) s = .next ((s.setCore k { s.core k with
      tshape := (s.core k).tshape.set t ((a.extractLsb' 10 22) ++ (0 : BitVec 10)) }).advance k c) ∧
    exec (.getts g rd t) s = .next (s.retX k c rd ((s.core k).tshape[t].setWidth 64))) ∧
  -- R214, R70: TWAIT and TPOST.
  (∀ (s : State) (k : Fin 128) (c : CtxId) (g : Guard) (m : EngSet), Runs s k c g →
    -- agents A 1, V 2, C 3 of the order of R70; K is 0
    let named (x : Nat) : Prop := (x = 1 ∧ m.a = true) ∨ (x = 2 ∧ m.v = true) ∨ (x = 3 ∧ m.c = true)
    let core := s.core k
    -- what TWAITs of lower slots that wait leave of the counters
    let left := core.afterLower c
    ((∀ j, ctxAgent j < ctxAgent c → ∀ m', (s.ctx k j).waits ≠ some (.tokens m')) → left = core) ∧
    ((∀ x, named x → core.getTok x 0 ≠ 0 ∧ left.getTok x 0 ≠ 0) → ∃ d,
      exec (.twait g m) s = .next ((s.setCore k d).setCtx k c ({ s.ctx k c with waits := none } : Ctx).step) ∧
      d = { core with tok := d.tok } ∧
      ∀ x y, x < 4 → y < 4 → (named x → d.getTok x 0 + 1 = core.getTok x 0) ∧ (¬ (named x ∧ y = 0) → d.getTok x y = core.getTok x y)) ∧
    ((∃ x, named x ∧ (core.getTok x 0 = 0 ∨ left.getTok x 0 = 0)) →
      exec (.twait g m) s = .next (s.setCtx k c { s.ctx k c with waits := some (.tokens m) })) ∧
    ((s.quad (quadOf k)).switching ≠ [] → exec (.tpost g m) s = .next s) ∧
    ((s.quad (quadOf k)).switching = [] → (∀ x, named x → core.getTok 0 x ≠ 15) →
      ∃ d, exec (.tpost g m) s = .next ((s.setCore k d).advance k c) ∧ d = { core with tok := d.tok } ∧
      ∀ x y, x < 4 → y < 4 → (named y → d.getTok 0 y = core.getTok 0 y + 1) ∧ (¬ (x = 0 ∧ named y) → d.getTok x y = core.getTok x y)) ∧
    (∀ x, (s.quad (quadOf k)).switching = [] → named x → core.getTok 0 x = 15 → (∀ y, y < x → named y → core.getTok 0 y ≠ 15) →
      exec (.tpost g m) s = .next (s.raiseCtx k c ⟨.tokenOverflow, 0, BitVec.ofNat 64 x⟩)))

/-- R216, R217: barriers and termination detection by a core. -/
def Obligations.BarriersAndTermination : Prop :=
  -- R216: barriers.
  (∀ (s : State) (k : Fin 128) (c : CtxId) (g : Guard) (sc0 : Scope) (pd : Fin 8), Runs s k c g →
    -- with no span set, a pod-scope barrier is a package-scope one
    let sc := if sc0 = .pod ∧ s.podSpan k = .package then .package else sc0
    let A (t : State) := arriveCount (t.core k) c sc
    let P (t : State) := doneCount (t.core k) sc
    let held := A s = P s + 1
    let ready (t : State) := (A t).toNat ≤ (P t).toNat
    let t := s.arrive k c sc
    -- R358: a pod-scope barrier whose group does not have this package at its rank
    let refused := sc0 = .pod ∧ s.spanRefused k = true
    let faults (i : Instr) : Prop := exec i s = .next (s.raiseCtx k c ⟨.channel, 0, 0xFF⟩)
    (refused → faults (.barA g sc0) ∧ faults (.barW g sc0) ∧ faults (.barAw g sc0) ∧ faults (.barTry g sc0 pd)) ∧
    (¬ refused → (held → exec (.barA g sc0) s = .next s) ∧
    (¬ held → exec (.barA g sc0) s = .next (t.advance k c)) ∧
    (A t = A s + 1) ∧
    -- the last participant's arrival completes the phase
    (∀ j ∈ s.scopeCores k sc, sc ≠ .pod → sc ≠ .core → doneCount (t.core j) sc =
      if ∀ i ∈ s.scopeCores k sc, (P s + 1).toNat ≤ (arriveCount (t.core i) c sc).toNat then P s + 1 else doneCount (s.core j) sc) ∧
    (∀ j ∈ s.scopeCores k sc, sc = .core → doneCount (t.core j) sc =
      if ∀ x ∈ s.partContexts k, (P s + 1).toNat ≤ (arriveCount (t.core k) x .core).toNat then P s + 1 else doneCount (s.core j) sc) ∧
    (ready s → exec (.barW g sc0) s = .next (s.advance k c)) ∧ (¬ ready s → exec (.barW g sc0) s = .next s) ∧
    (∃ v : Bool, (v = true ↔ ready s) ∧ exec (.barTry g sc0 pd) s = .next (s.retP k c pd v)) ∧
    ((s.ctx k c).arrived = false → held → exec (.barAw g sc0) s = .next s) ∧
    ((s.ctx k c).arrived = false → ¬ held → ready t → exec (.barAw g sc0) s = .next (t.advance k c)) ∧
    ((s.ctx k c).arrived = false → ¬ held → ¬ ready t →
      exec (.barAw g sc0) s = .next (t.setCtx k c { t.ctx k c with arrived := true })) ∧
    ((s.ctx k c).arrived = true → ready s →
      exec (.barAw g sc0) s = .next ((s.setCtx k c { s.ctx k c with arrived := false }).advance k c)) ∧
    ((s.ctx k c).arrived = true → ¬ ready s → exec (.barAw g sc0) s = .next s))) ∧
  -- R217: termination detection by a core.
  (∀ (s : State) (k : Fin 128) (c : CtxId) (g : Guard) (ra : Fin 32) (pd : Fin 8), Runs s k c g →
    let n := ((s.ctx k c).getX ra).toNat
    let t := (s.core k).trm
    let set (t' : Trm) : State := s.setCore k { s.core k with trm := t' }
    ((s.gangOf k).length ≤ n → exec (.trmSend g ra) s = .next (s.raiseCtx k c (.plain .illegalOperand))) ∧
    (n < (s.gangOf k).length → t.term = false → n < (s.core k).disp.grank.toNat →
      exec (.trmSend g ra) s = .next ((set { t with black := true }).advance k c)) ∧
    (n < (s.gangOf k).length → (s.core k).disp.grank.toNat ≤ n ∨ t.term = true →
      exec (.trmSend g ra) s = .next (s.advance k c)) ∧
    (t.term = false → exec (.trmIdle g) s = .next ((set { t with busy := false }).advance k c) ∧
      exec (.trmBusy g) s = .next ((set { t with busy := true }).advance k c)) ∧
    (t.term = true → exec (.trmIdle g) s = .next (s.advance k c) ∧ exec (.trmBusy g) s = .next (s.advance k c)) ∧
    exec (.trmTest g pd) s = .next (s.retP k c pd t.term))

/-- R12, R64, R65, R284, R285: MOVS, MOVTS and the switch of a bank. -/
def Obligations.SpecialRegistersAndBanks : Prop :=
  -- R12, R64: what MOVS reads.
  (∀ (s : State) (k : Fin 128) (c : CtxId) (g : Guard) (rd : Fin 32), Runs s k c g →
    let x := s.core k
    let q := s.quad (quadOf k)
    let reads (r : SpecReg) (v : Nat) : Prop := exec (.movs g rd r) s = .next (s.retX k c rd (BitVec.ofNat 64 v))
    reads .tag x.disp.tag.toNat ∧ reads .phase x.disp.phase.toNat ∧ reads .wver x.disp.wver.toNat ∧
    reads .stage x.disp.stage.toNat ∧ reads .gang x.disp.gang.toNat ∧ reads .grank x.disp.grank.toNat ∧
    reads .iter x.disp.iter.toNat ∧ reads .trip x.disp.trip.toNat ∧ reads .ctxid x.disp.ctxid.toNat ∧
    reads .core k.val ∧ reads .quad (k.val / 4) ∧ reads .die (k.val / 32) ∧
    reads .pkg (s.pod.1.val + 16 * s.pod.2.1.val + 256 * s.pod.2.2.val) ∧
    reads .podx s.pod.1.val ∧ reads .pody s.pod.2.1.val ∧ reads .podz s.pod.2.2.val ∧
    reads .cyc s.cyc.toNat ∧ reads .time s.time ∧ reads .fcsr x.fcsr.toNat ∧ reads .flags x.flags.toNat ∧
    reads .hwb x.disp.hwb.toNat ∧ reads .hwl x.disp.hwl.toNat ∧ reads .hwo x.disp.hwo.toNat ∧
    reads .qbmode q.mode.toNat ∧ (∀ i : Fin 4, reads (.pinb i) q.pinb[i].toNat ∧ reads (.pinl i) q.pinl[i].toNat)) ∧
  -- R64, R65, R284, R285: what MOVTS writes, and the end of a bank's switch.
  (∀ (s : State) (k : Fin 128) (c : CtxId) (g : Guard) (ra : Fin 32) (r : SpecReg), Runs s k c g →
    let v := (s.ctx k c).getX ra
    let q := s.quad (quadOf k)
    let field (b : Nat) : Nat := bitsNat v.toNat (2 * b) 2
    let mode (b : Nat) : Nat := bitsNat q.mode.toNat (2 * b) 2
    exec (.movts g ra .fcsr) s =
      .next ((s.setCore k { s.core k with fcsr := v.setWidth 32 &&& 0x37 }).advance k c) ∧
    exec (.movts g ra .flags) s =
      .next ((s.setCore k { s.core k with flags := v.setWidth 32 &&& 0x3F }).advance k c) ∧
    (r ≠ .fcsr → r ≠ .flags → r ≠ .qbmode → exec (.movts g ra r) s = .next (s.raiseCtx k c (.plain .illegalOperand))) ∧
    ((s.core k).qbGrant = false → exec (.movts g ra .qbmode) s = .next (s.raiseCtx k c (.plain .perm))) ∧
    ((s.core k).qbGrant = true → (∃ b, b < 32 ∧ field b = 3) →
      exec (.movts g ra .qbmode) s = .next (s.raiseCtx k c (.plain .illegalOperand))) ∧
    ((s.core k).qbGrant = true → (∀ b, b < 32 → field b ≠ 3) → q.switching ≠ [] → exec (.movts g ra .qbmode) s = .next s) ∧
    ((s.core k).qbGrant = true → (∀ b, b < 32 → field b ≠ 3) → q.switching = [] →
      (∃ b, b < 32 ∧ field b ≠ mode b ∧ mode b = 2 ∧ q.entries b ≠ []) →
      exec (.movts g ra .qbmode) s = .next (s.raiseCtx k c (.plain .illegalOperand))) ∧
    ((s.core k).qbGrant = true → (∀ b, b < 32 → field b ≠ 3) → q.switching = [] →
      (∀ b, b < 32 → field b ≠ mode b → mode b = 2 → q.entries b = []) →
      ∃ l, exec (.movts g ra .qbmode) s = .next ((s.setQuad (quadOf k) { q with switching := l }).advance k c) ∧
        ∀ b m, (b, m) ∈ l ↔ b < 32 ∧ field b ≠ mode b ∧ m = field b)) ∧
  -- R284, R285: a bank's switch is complete.
  (∀ (s : State) (q : Fin 32) (b m : Nat), b < 32 → m < 3 → (s.quad q).switching.find? (·.1 == b) = some (b, m) →
    -- R200, R285: what waits on a granule of the bank faults
    (∀ j d, (s.core j).fault = none → (∃ w, (s.ctx j d).waits = some w ∧ w.inBank q b = true) →
      ∃ t f, exec (.bankSwitchComplete q.val b) s = .next t ∧ (t.core j).fault = some f ∧ f.trap = .plain .illegalOperand) ∧
    ∃ x n, ((∀ j d, (s.core j).fault = none → ∀ w, (s.ctx j d).waits = some w → w.inBank q b = false) →
        exec (.bankSwitchComplete q.val b) s = .next ((s.setMem n).setQuad q x)) ∧
      (∃ t, exec (.bankSwitchComplete q.val b) s = .next t ∧ t.mem = n ∧ t.quad q = x) ∧
      (∀ b', b' < 32 → bitsNat x.mode.toNat (2 * b') 2 = if b' = b then m else bitsNat (s.quad q).mode.toNat (2 * b') 2) ∧
      (∀ o, o < 2 ^ 20 → kmem x.full ((b * 2 ^ 20 + o) / 16) = false) ∧
      (∀ j, j / 65536 ≠ b → kmem x.full j = kmem (s.quad q).full j) ∧
      ((s.quad q).bankMode b ≠ 2 → ∀ o, o < 2 ^ 20 → n.byte (sramFlat q (b * 2 ^ 20 + o)) = 0) ∧
      (∀ a, a < sramFlat q (b * 2 ^ 20) ∨ sramFlat q (b * 2 ^ 20) + 2 ^ 20 ≤ a → n.byte a = s.mem.byte a) ∧
      x.entries b = [] ∧ (∀ b', b' ≠ b → x.entries b' = (s.quad q).entries b') ∧ x.isSwitching b = false)

/-- R62, R65, R74, R198 to R217: what a control-core word leaves unchanged. -/
def Obligations.ControlWordFrame : Prop :=
  -- R62, R74: a control-core word changes no general register and no predicate of any context but those that it names.
  (∀ (i : Instr) (s t : State) (k : Fin 128) (c : CtxId), (guardOf i).isSome = true → s.cur = .context k c → exec i s = .next t →
    (∀ j d, (j, d) ≠ (k, c) → (t.ctx j d).p = (s.ctx j d).p ∧
      -- an LDFE.w that waits may return (R200)
      ∀ r, (∀ q off ea, (s.ctx j d).waits ≠ some (.load q off ea r)) → (t.ctx j d).getX r = (s.ctx j d).getX r) ∧
    (∀ r, destX i ≠ some r → (t.ctx k c).getX r = (s.ctx k c).getX r) ∧
    (∀ r, destP i ≠ some r → (t.ctx k c).getP r = (s.ctx k c).getP r)) ∧
  -- R65, R213, R215: a control-core word changes no tile, accumulator, mask, table, window, shape or status register, no state of the command processor, of stages or of the module, but what its own rule names.
  (∀ (i : Instr) (s t : State) (k : Fin 128) (c : CtxId), (guardOf i).isSome = true → s.cur = .context k c → exec i s = .next t →
    t.cmd = s.cmd ∧ t.stages = s.stages ∧ t.mgmt = s.mgmt ∧ t.pod = s.pod ∧ t.cyc = s.cyc ∧ t.time = s.time ∧
    ∀ j, (t.core j).tiles = (s.core j).tiles ∧ (t.core j).acc = (s.core j).acc ∧ (t.core j).m = (s.core j).m ∧
      (t.core j).table = (s.core j).table ∧ (t.core j).counts = (s.core j).counts ∧ (t.core j).windows = (s.core j).windows ∧
      (t.core j).disp = (s.core j).disp ∧
      ((t.core j).e = (s.core j).e ∨ j = k ∧ ∃ g e ra, i = .sete g e ra) ∧
      ((t.core j).tshape = (s.core j).tshape ∨ j = k ∧ ∃ g ra n, i = .setts g ra n) ∧
      ((t.core j).fcsr = (s.core j).fcsr ∨ j = k ∧ ∃ g ra, i = .movts g ra .fcsr) ∧
      ((t.core j).flags = (s.core j).flags ∨ j = k ∧ ∃ g ra, i = .movts g ra .flags)) ∧
  -- R198 to R208: a control-core word other than those that store, write back or act on memory changes no byte of memory.
  (∀ (i : Instr) (s t : State) (k : Fin 128) (c : CtxId), (guardOf i).isSome = true → actsOnMemory i = false →
    s.cur = .context k c → exec i s = .next t → ∀ a, t.mem.byte a = s.mem.byte a)

/-- R198, R199, R204, R205: the bytes that a store, an atomic or a reduction leaves unchanged. -/
def Obligations.StoreAndAtomicFrame : Prop :=
  -- R198, R199: a store changes no byte but those at its effective address.
  (∀ (i : Instr) (s t : State) (k : Fin 128) (c : CtxId) (n : Nat) (ea : W64), s.cur = .context k c →
    storeAt i (s.ctx k c) = some (ea, n) → exec i s = .next t →
    (∀ a, (∀ q off, spaceOf k ea = some (.sram q off) → a < sramFlat q off ∨ sramFlat q off + n ≤ a) →
      t.mem.byte a = s.mem.byte a) ∧
    (∀ a, (∀ q off, spaceOf k ea = some (.sram q off) → a < sramFlat q off ∨ sramFlat q off + n ≤ a) →
      (∀ flat u, HereAt s k ea n .write flat u → a < flat ∨ flat + n ≤ a) → seen t k a = seen s k a)) ∧
  -- R204, R205: an atomic or a reduction changes no byte but those of its operand and the dirty ones of a line of the data L1 that holds them, which it writes back.
  (∀ (i : Instr) (s t : State) (k : Fin 128) (c : CtxId) (n : Nat) (ra : Fin 32), s.cur = .context k c →
    atomicAddr i = some (ra, n) → exec i s = .next t → ∀ a,
    (∀ flat u, AtomicAt s k ((s.ctx k c).getX ra) n flat u →
      (a < flat ∨ flat + n ≤ a) ∧ ∀ l ∈ (s.core k).dl1, l.pa < flat + n → flat < l.pa + 128 → ∀ v, ¬ DirtyAt l a v) →
    t.mem.byte a = s.mem.byte a)

/-- R100 to R103, R185: fetching words and sections, and coming to execute a section. -/
def Obligations.SectionsAndFetch : Prop :=
  ∀ (s u v : State) (k : Fin 128) (c : CtxId) (e : Engine) (flat : Nat) (bs : List Byte) (ws : List (BitVec 96)),
    (s.core k).fault = none →
    let x := s.ctx k c
    let y := s.eng k e
    let h := leNum bs
    let hdr : Sys2Proof.Machine.Header := ⟨bitsNat h 42 16, bitsNat h 30 12, bitsNat h 22 8, bitsNat h 21 1 == 1, Fin.ofNat 32 (bitsNat h 16 5), bitsNat h 8 8, bitsNat h 0 8⟩
    let named := bitsNat h 60 4 = 0xA ∧ bitsNat h 58 2 = (match e with
      | .a => 1
      | .v => 2
      | .c => 3)
    let good := named ∧ 1 ≤ hdr.nwords ∧ hdr.nwords ≤ 2730 ∧ (hdr.repsrc = true ∨ hdr.repe = 0)
    -- a context fetches its next word ahead, through the instruction L1
    (x.run = .running → (∀ a w, x.ahead = some (a, w) → a ≠ x.pc) → HereAt s k x.pc 4 .fetch flat u → flat % 4 = 0 →
      (∀ l, (u.core k).il1.find? (·.pa == flat / 128 * 128) = some l →
        (flat % 128 / 64 ∉ l.poison → exec (.instructionFetch k.val c) s =
          .next (u.setCtx k c { u.ctx k c with ahead := some (x.pc, l.word (flat % 128)) })) ∧
        (flat % 128 / 64 ∈ l.poison → exec (.instructionFetch k.val c) s = .next s)) ∧
      ((u.core k).il1.find? (·.pa == flat / 128 * 128) = none →
        (kmem u.mem.poison (flat / 64) = false →
          ∃ l, exec (.instructionFetch k.val c) s =
              .next ((u.setCore k { u.core k with il1 := (l :: (u.core k).il1).take 512 }).setCtx k c
                { u.ctx k c with ahead := some (x.pc, BitVec.ofNat 32 (u.mem.num flat 4)) }) ∧
            l.pa = flat / 128 * 128 ∧ l.bytes = u.mem.read (flat / 128 * 128) 128 ∧
            ∀ j, j ∈ l.poison ↔ j < 2 ∧ kmem u.mem.poison (flat / 128 * 2 + j) = true) ∧
        (kmem u.mem.poison (flat / 64) = true → exec (.instructionFetch k.val c) s = .next s))) ∧
    -- an engine fetches its next section whole, once the stream buffer has room for it
    let room (n : Nat) : Prop := y.curSize + (8 + 12 * n) ≤ 32768
    (y.run = true → y.buf = none → s.streamBytes k e y.next 8 = .ok bs u →
      (good → u.streamWords k e y.next hdr.nwords 0 = .ok (ws, none) v → ¬ room ws.length →
        exec (.sectionFetch k.val e) s = .next s) ∧
      (good → room ws.length → u.streamWords k e y.next hdr.nwords 0 = .ok (ws, none) v → exec (.sectionFetch k.val e) s =
        .next (v.setEng k e { v.eng k e with
          buf := some ⟨y.next, hdr, ws, none⟩, next := BitVec.ofNat 64 ((y.next.toNat + 8 + 12 * hdr.nwords + 15) / 16 * 16),
          got := [], asked := none })) ∧
      (¬ good → room 0 → ∃ n, exec (.sectionFetch k.val e) s = .next (u.setEng k e { u.eng k e with
          buf := some ⟨y.next, hdr, [], some (hdr.secnum, 0xFFF, .at .decodeFormat y.next)⟩, next := n, got := [], asked := none }))) ∧
    -- and comes to execute it: its repetition count is taken once
    (∀ f, y.run = true → y.cur = none → y.buf = some f → f.bad = none →
      let reps := if f.hdr.repsrc = true then ((s.core k).e[f.hdr.repe]).toNat % 2 ^ 32 else f.hdr.repimm + 1
      (reps ≠ 0 → exec (.sectionExecute k.val e) s = .next (s.setEng k e { y with buf := none, cur := some ⟨f, reps, 0, 0⟩ })) ∧
      (reps = 0 → exec (.sectionExecute k.val e) s = .next (s.setEng k e { y with buf := none, cur := none })))

/-- R70, R99: the common engine words, and the completion of an engine word. -/
def Obligations.CommonEngineWords : Prop :=
  ∀ (s : State) (k : Fin 128) (e : Engine) (t : Tok) (d : Core) (r : Fin 32) (cond : SkipCond) (n : Fin 256),
    let self : Nat := match e with
      | .a => 1
      | .v => 2
      | .c => 3
    let upc := (engIssue s k e d).upc
    let x := (engIssue s k e d).r
    let reps := (engIssue s k e d).reps
    let val := d.e[r]
    let holds : Prop := match cond with
      | .eqz => val = 0
      | .nez => val ≠ 0
      | .ltz => val.toInt < 0
      | .gez => 0 ≤ val.toInt
      | .first => x = 0
      | .last => x + 1 = reps
      | .nfirst => x ≠ 0
      | .nlast => x + 1 ≠ reps
    -- posting tokens: each counter named rises by one
    let posts (a b : Core) (l : List Nat) : Prop := b = { a with tok := b.tok } ∧
      ∀ p q, p < 4 → q < 4 → b.getTok p q = if p = self ∧ q ∈ l then a.getTok p q + 1 else a.getTok p q
    -- a word waits for its tokens
    ((s.cur = .engine k e → (s.core k).consume self (tokAgents e t.wt) = none →
      exec (.enop t) s = .next s ∧ exec (.eskip t r cond n) s = .next s ∧ exec (.eflag t r) s = .next s)) ∧
    (Issues s k e t d →
      exec (.enop t) s = .next (issued s k e d (Flight.plain upc t.pt) 0) ∧
      (n = 0 → exec (.eskip t r cond n) s = .next (s.raise k (engAgent e) upc (.plain .illegalOperand))) ∧
      (n ≠ 0 → e = .c → (∃ f ∈ (s.eng k e).flight, f.complete = false ∧ r.val ∈ f.we) → exec (.eskip t r cond n) s = .next s) ∧
      (n ≠ 0 → (∀ f ∈ (s.eng k e).flight, e = .c → f.complete = false → r.val ∉ f.we) → ∀ m, (holds → m = n.val) → (¬ holds → m = 0) →
        exec (.eskip t r cond n) s = .next (issued s k e d (Flight.plain upc t.pt) m)) ∧
      ((s.eng k e).flight = [] → exec (.eflag t r) s =
        .next (issued s k e { d with e := d.e.set r (d.flags.setWidth 64) } (Flight.plain upc t.pt) 0)) ∧
      ((s.eng k e).flight ≠ [] → exec (.eflag t r) s = .next s ∧ exec (.ehalt t) s = .next s) ∧
      ((s.eng k e).flight = [] → (∀ q ∈ tokAgents e t.pt, d.getTok self q ≠ 15) → ∃ b, posts d b (tokAgents e t.pt) ∧
        exec (.ehalt t) s = .next ((s.setCore k b).setEng k e { s.eng k e with
          run := false, buf := none, cur := none, got := [], asked := none }))) ∧
    -- a word whose effects are complete completes: its FLAGS bits, then its tokens; copy words in stream order
    (∀ f pre l, (s.eng k e).flight = pre ++ f :: l → f.reqs = [] → f.wait = .none → f.out = [] → (∀ x ∈ pre, x.complete = false) →
      (e = .c → pre = []) → (s.core k).fault = none →
      (∀ q ∈ tokAgents e f.pt, (s.core k).getTok self q ≠ 15) → ∃ b,
        posts { s.core k with flags := (s.core k).flags ||| f.flags } b (tokAgents e f.pt) ∧
        exec (.engineWordComplete k.val e) s = .next ((s.setCore k b).setEng k e { s.eng k e with flight := pre ++ l }))

/-- R230 to R233: matrix products. -/
def Obligations.ArrayProducts : Prop :=
  ∀ (s : State) (k : Fin 128) (w : AmWord) (d : Core) (p : ProdOps), Issues s k .a w.tok d →
    let i := engIssue s k .a d
    let m := w.mod
    let n := m.mr.val + 1
    let cols := m.nc.val + 1
    let kn := m.kn.val + 1
    let ra := m.ra.val + i.rowoff
    let rb := m.rb.val + i.rowoff
    -- a(r, x) and b(x, j), of a matrix A with `ka` columns
    let a (ka r x : Nat) : Nat := nth 0 (d.matRow p.a ra r ka) x
    let b (x j : Nat) : Nat := nth 0 (d.matRow p.b rb x cols) j
    let start (r j : Nat) : W32 := if m.za = true then 0 else d.cell p.acc r j
    let gives (ins : Instr) (terms : Nat → Nat → List (Nat × Nat)) : Prop :=
      let f (r j : Nat) := sumTerms i.env p.order p.fa p.fb (start r j) (terms r j)
      ∃ c fl, IssuesWith ins s k .a w.tok d c fl ∧ CellsBecome d c p.acc n cols (fun r j => (f r j).1) ∧
        FlagsOf fl n cols (fun r j => (f r j).2)
    let faults (ins : Instr) : Prop := exec ins s = .next (s.raise k 3 i.upc (.plain .illegalOperand))
    -- AMMA: every position
    (prodOps i w [.r, .c] = some p → m.sel = 0 → p.a.fits ra n kn = true → p.b.fits rb kn cols = true →
      gives (.amma w) fun r j => (List.range kn).map fun x => (a kn r x, b x j)) ∧
    (prodOps i w [.r, .c] = none → faults (.amma w)) ∧
    -- AMMAS: of each group of eight, the positions that its metadata names, in increasing order
    (∀ md : TileOp, prodOps i w [.r] = some p → i.tileOp 3 w.ops.s3 [.r] [.uint8] .uint8 = some md →
      let per := match m.sel.val with
        | 0 => 4
        | 1 => 2
        | _ => 1
      let pos (r g x : Nat) : Nat := bitsNat (d.rowIn md (ra + r)) (3 * (g * per + x)) 3
      p.order ≠ .sat → m.sel ≠ 3 → kn % 8 = 0 → p.a.fits ra n (kn / 8 * per) = true → p.b.fits rb kn cols = true →
      md.fits ra n 1 = true → (∀ r g x, r < n → g < kn / 8 → x + 1 < per → pos r g x < pos r g (x + 1)) →
      gives (.ammas w) fun r j => (List.range (kn / 8)).flatMap fun g => (List.range per).map fun x =>
        (a (kn / 8 * per) r (g * per + x), b (8 * g + pos r g x) j)) ∧
    -- AMMAZ: the positions whose bit in the bitmap is 1
    (∀ z : TileOp, prodOps i w [.r] = some p → i.tileOp 3 w.ops.s3 [.r] [.bit1] .bit1 = some z → m.sel = 0 →
      p.a.fits ra n kn = true → p.b.fits rb kn cols = true → z.fits ra n kn = true →
      gives (.ammaz w) fun r j => ((List.range kn).filter fun x => (d.rowIn z (ra + r)).testBit x).map fun x => (a kn r x, b x j))

/-- R245: accumulator moves. -/
def Obligations.AccumulatorMoves : Prop :=
  ∀ (s : State) (k : Fin 128) (w : AsWord) (d : Core) (acc src : Fin 4) (f : Fmt) (t : TileOp), Issues s k .a w.tok d →
    let i := engIssue s k .a d
    let m := w.mod
    let n := m.mr.val + 1
    let cols := m.nc.val + 1
    let ra := m.ra.val + i.rowoff
    let zero := m.rm = 0 ∧ m.sat = false ∧ m.rb = 0
    (i.accOp 0 w.ops.d = some acc → zero → m.fmt = 0 → m.ra = 0 →
      ∃ c, IssuesWith (.azero w) s k .a w.tok d c 0 ∧ CellsBecome d c acc n cols (fun _ _ => 0)) ∧
    (i.accOp 0 w.ops.d = some acc → i.accOp 1 w.ops.s1 = some src → zero → m.fmt = 0 → m.ra = 0 →
      ∃ c, IssuesWith (.amova w) s k .a w.tok d c 0 ∧ CellsBecome d c acc n cols (fun r j => d.cell src r j)) ∧
    (fmtIn m.fmt.val [.fp32, .int32] = some f → i.accOp 0 w.ops.d = some acc → i.tileOp 1 w.ops.s1 [.r] [f] f = some t → zero →
      t.fits ra n cols = true →
      ∃ c, IssuesWith (.aaccld w) s k .a w.tok d c 0 ∧
        CellsBecome d c acc n cols (fun r j => BitVec.ofNat 32 (elemOf (d.rowIn t (ra + 2 * r + j / 32)) 32 (j % 32)))) ∧
    (fmtIn m.fmt.val [.fp32, .int32] = some f → i.tileOp 0 w.ops.d [.r] [f] f = some t → i.accOp 1 w.ops.s1 = some src → zero →
      t.fits ra n cols = true →
      ∃ c, IssuesWith (.aaccst w) s k .a w.tok d c 0 ∧
        ElementsBecome d c t 32 (fun row j => if ra ≤ row ∧ (row - ra) / 2 < n ∧ j < 32 ∧ (row - ra) % 2 * 32 + j < cols
          then some (d.cell src ((row - ra) / 2) ((row - ra) % 2 * 32 + j)).toNat else none))

/-- R234 to R236: lookup tables. -/
def Obligations.TableProducts : Prop :=
  ∀ (s : State) (k : Fin 128) (d : Core), 
    (∀ (w : AtWord) (fa fb tf : Fmt) (cb wt : TileOp), Issues s k .a w.tok d →
      let i := engIssue s k .a d
      let m := w.mod
      let z := tf.width / 8
      let dims := m.ds.val + 1
      let cols := m.nc.val + 1
      let ra := m.ra.val + i.rowoff
      let rb := m.rb.val + i.rowoff
      -- the table of subspace SUB for `n` codes, code q being the row `row q`
      let gives (n : Nat) (row : Nat → List Nat) : Prop :=
        let at_ (q j : Nat) : Nat := ((m.sub.val * n + q) * 64 + j) * z
        (m.sub.val + 1) * n * 64 * z ≤ 65536 →
        ∃ c fl, IssuesWith (.atbld w) s k .a w.tok d c fl ∧ c = { d with table := c.table } ∧
          (∀ q j, q < n → j < cols → sgetRun (0 : Byte) c.table (at_ q j) z =
            leBytesOf z (tableEntry i.env fa fb tf ((List.range dims).map fun x =>
              (nth 0 (row q) x, nth 0 (d.matRow wt rb x cols) j))).1) ∧
          (∀ a, (∀ q j, q < n → j < cols → a < at_ q j ∨ at_ q j + z ≤ a) → sget (0 : Byte) c.table a = sget (0 : Byte) d.table a)
      fmtIn m.fa.val [.bf16, .fp16, .k8, .k8w] = some fa → fmtIn m.fb.val [.bf16, .fp16, .k8, .k8w] = some fb →
      fmtIn m.tf.val [.fp32, .bf16, .fp16] = some tf →
      i.tileOp 1 w.ops.s1 [.r] [fa] fa = some cb → i.tileOp 2 w.ops.s2 [.r] [fb] fb = some wt → wt.fits rb dims cols = true →
      (m.ncode = false → cb.fits ra 16 dims = true → gives 16 fun q => d.matRow cb ra q dims) ∧
      (∀ (t u : Fin 48) (sh : TShape), m.ncode = true → ra = 0 → cb.tile = some t → u.val = t.val + 1 →
        shapeOf d.tshape[u] = some sh → sh.fmt = fa → cb.fits 0 128 dims = true →
        (⟨some u, sh, .r⟩ : TileOp).fits 0 128 dims = true → wt.tile ≠ some t → wt.tile ≠ some u →
        gives 256 fun q => if q < 128 then d.matRow cb 0 q dims else d.matRow ⟨some u, sh, .r⟩ 0 (q - 128) dims)) ∧
    (∀ (w : AmWord) (fx tf : Fmt) (acc : Fin 4) (codes : TileOp), Issues s k .a w.tok d →
      let i := engIssue s k .a d
      let m := w.mod
      let z := tf.width / 8
      let ncodes := if fx = .ix4 then 16 else 256
      let nsub := m.kn.val + 1
      let ra := m.ra.val + i.rowoff
      let code (r x : Nat) : Nat := nth 0 (d.matRow codes ra r (m.rb.val + nsub)) x
      let entry (x c j : Nat) : Nat := leNum (sgetRun (0 : Byte) d.table (((x * ncodes + c) * 64 + j) * z) z)
      let f (r j : Nat) : W32 × Fl := sumTable i.env tf (if m.za = true then 0 else d.cell acc r j, 0)
        ((List.range nsub).map fun x => entry (m.rb.val + x) (code r (m.rb.val + x)) j)
      fmtIn m.fa.val [.ix4, .ix8] = some fx → fmtIn m.fb.val [.fp32, .bf16, .fp16] = some tf → i.accOp 0 w.ops.d = some acc →
      i.tileOp 1 w.ops.s1 [.r] [fx] fx = some codes → m.sel = 0 → codes.fits ra (m.mr.val + 1) 1 = true →
      m.rb.val + nsub ≤ fx.lanes → (m.rb.val + nsub) * ncodes * 64 * z ≤ 65536 →
      ∃ c fl, IssuesWith (.atmma w) s k .a w.tok d c fl ∧
        CellsBecome d c acc (m.mr.val + 1) (m.nc.val + 1) (fun r j => (f r j).1) ∧
        FlagsOf fl (m.mr.val + 1) (m.nc.val + 1) (fun r j => (f r j).2))

/-- R237, R238: distances and the best of a row. -/
def Obligations.DistancesAndMinima : Prop :=
  ∀ (s : State) (k : Fin 128) (d : Core),
    (∀ (w : AmWord) (fa fb : Fmt) (acc : Fin 4) (a b : TileOp), Issues s k .a w.tok d →
      let i := engIssue s k .a d
      let m := w.mod
      let ham := m.sel = 3
      let kn := m.kn.val + 1
      let ne := if ham then 64 * kn else kn
      let fs : List Fmt := if ham then [.bit1] else [.bf16, .fp16, .k8, .k8w, .int8, .uint8]
      let ra := m.ra.val + i.rowoff
      let rb := m.rb.val + i.rowoff
      let terms (r j : Nat) : List (Nat × Nat) := (List.range kn).map fun x =>
        if ham then (bitsNat (d.rowIn a (ra + r)) (64 * x) 64, bitsNat (d.rowIn b (rb + j)) (64 * x) 64)
        else (nth 0 (d.matRow a (ra + r) 0 kn) x, nth 0 (d.matRow b (rb + j) 0 kn) x)
      let start (r j : Nat) : W32 × Fl := (if m.za = true then 0 else d.cell acc r j, 0)
      let f (r j : Nat) : W32 × Fl := if ham then sumHamming (start r j) (terms r j) else sumDist i.env m.sel.val fa fb (start r j) (terms r j)
      fmtIn m.fa.val fs = some fa → fmtIn m.fb.val fs = some fb → i.accOp 0 w.ops.d = some acc →
      i.tileOp 1 w.ops.s1 [.r] [fa] fa = some a → i.tileOp 2 w.ops.s2 [.r] [fb] fb = some b → ne ≤ fa.lanes → ne ≤ fb.lanes →
      a.fits ra (m.mr.val + 1) ne = true → b.fits rb (m.nc.val + 1) ne = true →
      ∃ c fl, IssuesWith (.adist w) s k .a w.tok d c fl ∧
        CellsBecome d c acc (m.mr.val + 1) (m.nc.val + 1) (fun r j => (f r j).1) ∧
        FlagsOf fl (m.mr.val + 1) (m.nc.val + 1) (fun r j => (f r j).2)) ∧
    (∀ (w : ArWord) (t : TileOp) (acc : Fin 4), Issues s k .a w.tok d →
      let i := engIssue s k .a d
      let m := w.mod
      let rd := m.rd.val + i.rowoff
      let off : W32 := (d.e[m.idxe]).setWidth 32
      let carry (q : Nat) : Option (W32 × W32) := if m.cin = true then
        some (BitVec.ofNat 32 (elemOf (d.rowIn t (rd + q)) 32 0), BitVec.ofNat 32 (elemOf (d.rowIn t (rd + q)) 32 1)) else none
      let cands (q : Nat) := (List.range (m.nc.val + 1)).map fun j => (off + BitVec.ofNat 32 j, d.cell acc q j)
      -- under FTZ32 a subnormal operand is a zero of its sign (R228)
      let seenAs (x : W32) : W32 := if m.aint = false ∧ i.env.ftz32 = true ∧ x.toNat % 2 ^ 31 < 2 ^ 23 then x &&& 0x80000000 else x
      let best (q : Nat) : W32 × W32 :=
        bestOf i.env m.aint m.tie ((carry q).map fun x => (x.1, seenAs x.2)) ((cands q).map fun x => (x.1, seenAs x.2))
      i.tileOp 0 w.ops.d [.r] [.fp32, .int32] .fp32 = some t → i.accOp 1 w.ops.s1 = some acc → 1 ≤ t.sh.cols →
      rd + m.mr.val ≤ 127 →
      ∃ c fl, IssuesWith (.aargmin w) s k .a w.tok d c fl ∧
        ElementsBecome { d with e := c.e } c t 32 (fun row j => if rd ≤ row ∧ row - rd ≤ m.mr.val then
          (if j = 0 then some (best (row - rd)).1.toNat else if j = 1 then some (best (row - rd)).2.toNat else none) else none) ∧
        (m.aint = true → fl = 0) ∧ (m.idxinc = false → c.e = d.e) ∧
        (m.idxinc = true → c.e = d.e.set m.idxe ((d.e[m.idxe]).extractLsb' 32 32 ++ (off + BitVec.ofNat 32 (m.nc.val + 1)))))

/-- R239 to R241: drains. -/
def Obligations.Drains : Prop :=
  ∀ (s : State) (k : Fin 128) (w : AdWord) (d : Core) (p : DrainOps) (t : TileOp), Issues s k .a w.tok d →
    let i := engIssue s k .a d
    let m := w.mod
    let n := m.mr.val + 1
    let cols := m.nc.val + 1
    let rd := m.rd.val + i.rowoff
    let val (r j : Nat) : Nat × Fl := drainCell i.env p w d.e[m.cle] (d.cell p.acc r j) j
    let cleared (c : Core) : Prop := ∀ b r j, r < 64 → j < 64 →
      c.cell b r j = if m.clr = true ∧ b = p.acc ∧ r < n ∧ j < cols then 0 else d.cell b r j
    drainOps i w = some p →
    (i.tileOp 0 w.ops.d [.r] [p.f] p.f = some t → m.eadr = 0 → m.oc = 0 → t.fits rd n cols = true →
      ∃ c fl, IssuesWith (.adrain w) s k .a w.tok d c fl ∧ cleared c ∧ FlagsOf fl n cols (fun r j => (val r j).2) ∧
        ElementsBecome { d with acc := c.acc } c t p.f.width (fun row j =>
          if p.f.width = 32 then
            (if rd ≤ row ∧ (row - rd) / 2 < n ∧ j < 32 ∧ (row - rd) % 2 * 32 + j < cols
              then some (val ((row - rd) / 2) ((row - rd) % 2 * 32 + j)).1 else none)
          else if rd ≤ row ∧ row - rd < n ∧ j < cols then some (val (row - rd) j).1 else none)) ∧
    (∀ h : m.eadr.val + 1 < 32, m.rd = 0 →
      let base := d.e[m.eadr]
      let pitch := d.e[m.eadr.val + 1]
      (base.toNat % 16 ≠ 0 → exec (.adrainm w) s = .next (s.raise k 3 i.upc (.at .align base))) ∧
      (base.toNat % 16 = 0 → pitch.toNat % 16 ≠ 0 → exec (.adrainm w) s = .next (s.raise k 3 i.upc (.at .align (base + pitch)))) ∧
      (base.toNat % 16 = 0 → pitch.toNat % 16 = 0 → ∃ c fl, exec (.adrainm w) s = .next (issued s k .a c
          { Flight.plain i.upc w.tok.pt with
            flags := fl
            wr := [48 + p.acc.val]
            reqs := (List.range n).map fun r => ⟨m.oc.val, .write (base + BitVec.ofNat 64 r * pitch)
              (packRow p.f.width ((List.range cols).map fun j => (val r j).1)) [], none, [], [], s.mem.mphase⟩ } 0) ∧
        c = { d with acc := c.acc } ∧ cleared c ∧ FlagsOf fl n cols (fun r j => (val r j).2)))

/-- R242 to R244: scaling and centroids. -/
def Obligations.ScalingAndCentroids : Prop :=
  ∀ (s : State) (k : Fin 128) (d : Core) (acc : Fin 4) (fa fb : Fmt),
    (∀ (w : AsWord) (p : PSrc) (tr tc : TileOp), Issues s k .a w.tok d →
      let i := engIssue s k .a d
      let m := w.mod
      let n := m.mr.val + 1
      let cols := m.nc.val + 1
      let ra := m.ra.val + i.rowoff
      let rb := m.rb.val + i.rowoff
      let pv (r j : Nat) : W32 := match p with
        | .acc a => d.cell a r j
        | .tile t => BitVec.ofNat 32 (elemOf (d.rowIn t (i.rowoff + 2 * r + j / 32)) 32 (j % 32))
      let f (r j : Nat) : W32 × Fl := scaleStep i.env (d.cell acc r j) (pv r j)
        (BitVec.ofNat 32 (nth 0 (d.matRow tr ra 0 n) r)) (BitVec.ofNat 32 (nth 0 (d.matRow tc rb 0 cols) j))
      i.accOp 0 w.ops.d = some acc → ascaccSrc i w = some p → i.tileOp 2 w.ops.s2 [.r] [.fp32] .fp32 = some tr →
      i.tileOp 3 w.ops.s3 [.r] [.fp32] .fp32 = some tc → m.fmt = 0 → m.rm = 0 → m.sat = false → tr.fits ra 1 n = true →
      tc.fits rb 1 cols = true →
      ∃ c fl, IssuesWith (.ascacc w) s k .a w.tok d c fl ∧ CellsBecome d c acc n cols (fun r j => (f r j).1) ∧
        FlagsOf fl n cols (fun r j => (f r j).2)) ∧
    (∀ (w : AmWord) (pt as : TileOp), Issues s k .a w.tok d →
      let i := engIssue s k .a d
      let m := w.mod
      let n := m.mr.val + 1
      let cols := m.nc.val + 1
      let ra := m.ra.val + i.rowoff
      let rb := m.rb.val + i.rowoff
      let elt (q j : Nat) : FVal := decodeFloat i.env fa (nth 0 (d.matRow pt ra q cols) j)
      let centroid (q : Nat) : Int := (assignments d as rb n).getD q 0
      -- point q goes into the sum row of its centroid, which counts it
      let step (q : Nat) (x y : Core × Fl) : Prop :=
        (∀ z : Fin 64, centroid q = z.val →
          (∀ b r j, r < 64 → j < 64 → y.1.cell b r j = if b = acc ∧ r = z.val ∧ j < cols
            then (add32 i.env (val32 i.env (x.1.cell acc r j)) (elt q j)).1 else x.1.cell b r j) ∧
          (∀ z' : Fin 64, y.1.counts[z'] = if z' = z ∧ x.1.counts[z] ≠ BitVec.allOnes 32 then x.1.counts[z] + 1 else x.1.counts[z']) ∧
          y.1 = { x.1 with acc := y.1.acc, counts := y.1.counts }) ∧
        ((∀ z : Fin 64, centroid q ≠ z.val) → y = x)
      fmtIn m.fa.val [.fp32, .bf16, .fp16, .k8, .k8w] = some fa → fmtIn m.fb.val [.int32, .int16, .uint8, .ix8, .ix4] = some fb →
      i.accOp 0 w.ops.d = some acc → i.tileOp 1 w.ops.s1 [.r] [fa] fa = some pt → i.tileOp 2 w.ops.s2 [.r, .c] [fb] fb = some as →
      m.kn = 0 → m.sel = 0 → pt.fits ra n cols = true →
      (as.tile.isSome = true → (as.dir = .c → rb + n ≤ 128) ∧ (as.dir ≠ .c → as.fits rb 1 n = true)) →
      ∃ b c fl, (m.za = false → b = d) ∧
        (m.za = true → b = { d with acc := b.acc, counts := Vector.replicate 64 0 } ∧
          ∀ a r j, r < 64 → j < 64 → b.cell a r j = if a = acc ∧ j < cols then 0 else d.cell a r j) ∧
        Chain step n (b, 0) (c, fl) ∧ IssuesWith (.acent w) s k .a w.tok d c fl) ∧
    (∀ (w : AsWord) (t : TileOp) (rm : Rm), Issues s k .a w.tok d →
      let i := engIssue s k .a d
      let m := w.mod
      let n := m.mr.val + 1
      let cols := m.nc.val + 1
      let ra := m.ra.val + i.rowoff
      let quot (r j : Nat) : Nat :=
        (roundTo i.env fa rm m.sat (val32 i.env (divNat32 i.env (val32 i.env (d.cell acc r j)) d.counts[Fin.ofNat 64 r].toNat).1)).1
      let row (r j : Nat) : Option Nat := if r < n ∧ j < cols ∧ d.counts[Fin.ofNat 64 r] ≠ 0 then some (quot r j) else none
      fmtIn m.fmt.val [.fp32, .bf16, .fp16, .k8, .k8w] = some fa → i.tileOp 0 w.ops.d [.r] [fa] fa = some t →
      i.accOp 1 w.ops.s1 = some acc → i.rm m.rm true = some rm → m.rb = 0 → t.fits ra n cols = true →
      ∃ c fl, IssuesWith (.acdiv w) s k .a w.tok d c fl ∧
        ElementsBecome d c t fa.width (fun r j =>
          if r < ra then none
          else if fa.width = 32 then (if j < 32 then row ((r - ra) / 2) ((r - ra) % 2 * 32 + j) else none)
          else row (r - ra) j))

/-- R254 to R261: floating-point arithmetic in lanes. -/
def Obligations.VectorFloats : Prop :=
  ∀ (s : State) (k : Fin 128) (w : VgWord) (d : Core) (f g : Fmt) (rm : Rm) (o a b c : TileOp), Issues s k .v w.tok d →
    let i := engIssue s k .v d
    let m := w.mod
    let takes (q : Nat) : Bool := !m.men || (d.m[m.msk]).getLsbD q
    let v (width : Nat) : VCtx := ⟨1024 / width, m.row.val + i.rowoff, m.imm.val, m.nv.val, false, false⟩
    let x (h : Fmt) (vs : List (List Nat)) (n q : Nat) : FVal := decodeFloat i.env h (lane vs n q)
    let lo : FVal := val32 i.env (d.e[m.e].setWidth 32)
    let hi : FVal := val32 i.env ((d.e[m.e] >>> 32).setWidth 32)
    let three := fmtIn m.fmt.val [.fp32, .bf16, .fp16] = some f
    -- words of one, two and three sources in one format
    let one (ins : Instr) (u : VUse) (h : Nat → List (List Nat) → Nat × Fl) : Prop :=
      i.vdst w.ops.d f = some o → i.vsrc 1 w.ops.s1 f = some a → vuse u m [o, a] = true → (v f.width).fits o = true →
      (v f.width).fits a = true → LaneWord ins s k w.tok d (v f.width) o [a] takes fun _ q vs => h q vs
    let two (ins : Instr) (u : VUse) (h : Nat → List (List Nat) → Nat × Fl) : Prop :=
      i.vdst w.ops.d f = some o → i.vsrc 1 w.ops.s1 f = some a → i.vsrc 2 w.ops.s2 f = some b → vuse u m [o, a, b] = true →
      (v f.width).fits o = true → (v f.width).fits a = true → (v f.width).fits b = true →
      LaneWord ins s k w.tok d (v f.width) o [a, b] takes fun _ q vs => h q vs
    let arith : VUse := { rm := true, sat := true }
    (three → i.rm m.rm true = some rm →
      two (.vadd w) arith (fun q vs => roundOp i.env f rm m.sat [x f vs 0 q, x f vs 1 q] (exactAdd rm (x f vs 0 q) (x f vs 1 q))) ∧
      two (.vsub w) arith (fun q vs => roundOp i.env f rm m.sat [x f vs 0 q, x f vs 1 q] (exactSub rm (x f vs 0 q) (x f vs 1 q))) ∧
      two (.vmul w) arith (fun q vs => roundOp i.env f rm m.sat [x f vs 0 q, x f vs 1 q] (exactMul (x f vs 0 q) (x f vs 1 q))) ∧
      (i.vdst w.ops.d f = some o → i.vsrc 1 w.ops.s1 f = some a → i.vsrc 2 w.ops.s2 f = some b → i.vsrc 3 w.ops.s3 f = some c →
        vuse arith m [o, a, b, c] = true → (v f.width).fits o = true → (v f.width).fits a = true → (v f.width).fits b = true →
        (v f.width).fits c = true → LaneWord (.vfma w) s k w.tok d (v f.width) o [a, b, c] takes fun _ q vs =>
          let p := exactMul (x f vs 0 q) (x f vs 1 q)
          let r := exactAdd rm p.1 (x f vs 2 q)
          roundOp i.env f rm m.sat [x f vs 0 q, x f vs 1 q, x f vs 2 q] (r.1, p.2 ||| r.2)) ∧
      one (.vrcp w) arith (fun q vs => transcLane .rcp i m f rm (lane vs 0 q)) ∧
      one (.vrsq w) arith (fun q vs => transcLane .rsq i m f rm (lane vs 0 q)) ∧
      one (.vexp2 w) arith (fun q vs => transcLane .exp2 i m f rm (lane vs 0 q)) ∧
      one (.vlog2 w) arith (fun q vs => transcLane .log2 i m f rm (lane vs 0 q)) ∧
      one (.vclamp w) { arith with e := true } (fun q vs =>
        let t := clampFloat 2 (x f vs 0 q) lo hi
        let r := roundTo i.env f rm m.sat t.1
        (r.1, t.2 ||| r.2))) ∧
    (three → m.rm = 0 →
      one (.vabs w) {} (fun q vs => (reencode f (x f vs 0 q).abs, nfOf [x f vs 0 q])) ∧
      one (.vneg w) {} (fun q vs => (reencode f (x f vs 0 q).negate, nfOf [x f vs 0 q]))) ∧
    (fmtIn m.fmt.val [.fp32, .bf16, .fp16, .k8, .k8w] = some f →
      two (.vmin w) {} (fun q vs => minMaxLane f false (x f vs 0 q) (x f vs 1 q)) ∧
      two (.vmax w) {} (fun q vs => minMaxLane f true (x f vs 0 q) (x f vs 1 q))) ∧
    (fmtIn m.fmt.val [.fp32, .bf16, .fp16, .k8, .k8w, .int32, .int16, .int8, .uint8] = some f →
      fmtIn m.dfmt.val [.fp32, .bf16, .fp16] = some g → i.rm m.rm true = some rm → i.vdst w.ops.d g = some o →
      i.vsrc 1 w.ops.s1 f = some a → vuse { dfmt := true, rm := true, sat := true, e := true } m [o, a] = true →
      (v (max f.width g.width)).fits o = true → (v (max f.width g.width)).fits a = true →
      LaneWord (.vscale w) s k w.tok d (v (max f.width g.width)) o [a] takes fun _ q vs =>
        roundOp i.env g rm m.sat [decodeAny i.env f (lane vs 0 q), lo] (exactMul (decodeAny i.env f (lane vs 0 q)) lo))

/-- R262 to R264: integers and bits in lanes, and the words that write a mask (R260, R261, R263). -/
def Obligations.VectorIntegersAndCompares : Prop :=
  ∀ (s : State) (k : Fin 128) (w : VgWord) (d : Core) (f : Fmt) (o a b : TileOp), Issues s k .v w.tok d →
    let i := engIssue s k .v d
    let m := w.mod
    let takes (q : Nat) : Bool := !m.men || (d.m[m.msk]).getLsbD q
    let v (width off : Nat) (bytes : Bool) : VCtx := ⟨1024 / width, m.row.val + i.rowoff, off, m.nv.val, bytes, false⟩
    let ints := fmtIn m.fmt.val [.int32, .int16, .int8, .uint8] = some f
    let any := fmtIn m.fmt.val [.fp32, .bf16, .fp16, .k8, .k8w, .int32, .int16, .int8, .uint8, .int4, .ix4, .ix8, .bit1] = some f
    let n (vs : List (List Nat)) (j q : Nat) : Int := intOfBits f (lane vs j q)
    let two (ins : Instr) (u : VUse) (y : VCtx) (h : Nat → List (List Nat) → Nat × Fl) : Prop :=
      i.vdst w.ops.d f = some o → i.vsrc 1 w.ops.s1 f = some a → i.vsrc 2 w.ops.s2 f = some b → vuse u m [o, a, b] = true →
      y.fits o = true → y.fits a = true → y.fits b = true → LaneWord ins s k w.tok d y o [a, b]
        (fun q => takes (if y.single = true then q * f.width / 8 else q)) fun _ q vs => h q vs
    let one (ins : Instr) (u : VUse) (y : VCtx) (h : Nat → List (List Nat) → Nat) : Prop :=
      i.vdst w.ops.d f = some o → i.vsrc 1 w.ops.s1 f = some a → vuse u m [o, a] = true → y.fits o = true → y.fits a = true →
      LaneWord ins s k w.tok d y o [a] takes fun _ q vs => (h q vs, 0)
    -- a word that writes mask MDST: bits of lanes that do not take part, and those past L, are 0
    let mask (ins : Instr) (y : VCtx) (pred : Nat → Nat → Bool) (fl : Nat → Nat → Fl) : Prop :=
      m.nv = 0 → y.fits a = true → y.fits b = true → ∃ x g,
        IssuesWith ins s k .v w.tok d { d with m := d.m.set m.mdst x } g ∧
        (∀ q, q < 128 → (x.getLsbD q = true ↔ q < y.lanes ∧ takes q = true ∧ pred (nth 0 (y.read d a 0) q) (nth 0 (y.read d b 0) q) = true)) ∧
        (∀ t, g.getLsbD t = true ↔ ∃ q, q < y.lanes ∧ takes q = true ∧ (fl (nth 0 (y.read d a 0) q) (nth 0 (y.read d b 0) q)).getLsbD t = true)
    (ints →
      let y := v f.width m.imm.val false
      let out (z : Int) : Nat × Fl := intToInt f m.sat z
      two (.viadd w) { sat := true } y (fun q vs => out (n vs 0 q + n vs 1 q)) ∧
      two (.visub w) { sat := true } y (fun q vs => out (n vs 0 q - n vs 1 q)) ∧
      two (.vimul w) { sat := true } y (fun q vs => out (n vs 0 q * n vs 1 q)) ∧
      two (.vimin w) {} y (fun q vs => out (min (n vs 0 q) (n vs 1 q))) ∧
      two (.vimax w) {} y (fun q vs => out (max (n vs 0 q) (n vs 1 q))) ∧
      (m.rm = 0 → one (.vpopc w) {} y fun q vs => (List.range f.width).countP fun t => (lane vs 0 q).testBit t) ∧
      (m.rm = 0 → m.imm.val < f.width → one (.vshl w) { own := true } (v f.width 0 false) fun q vs =>
        lane vs 0 q * 2 ^ m.imm.val % 2 ^ f.width) ∧
      (m.rm = 0 → m.imm.val < f.width → m.imm.val < 64 → one (.vshr w) { own := true } (v f.width 0 false) fun q vs =>
        lane vs 0 q / 2 ^ m.imm.val) ∧
      (m.rm = 0 → 64 ≤ m.imm.val → m.imm.val - 64 < f.width → one (.vshr w) { own := true } (v f.width 0 false) fun q vs =>
        -- `.sra`: the lane's bits as a two's complement number
        bitsOfInt f.width ((if 2 ^ (f.width - 1) ≤ lane vs 0 q then (lane vs 0 q : Int) - 2 ^ f.width else lane vs 0 q) / 2 ^ (m.imm.val - 64))) ∧
      (i.vdst w.ops.d f = some o → vuse { e := true } m [o] = true → y.fits o = true →
        LaneWord (.viota w) s k w.tok d y o [] takes fun n q _ =>
          (((d.e[m.e]).toNat + n * (1024 / f.width) + q) % 2 ^ f.width, 0)) ∧
      (i.vsrc 1 w.ops.s1 f = some a → i.vsrc 2 w.ops.s2 f = some b → vuse { mdst := true, own := true } m [a, b] = true → m.imm.val < 8 →
        mask (.vicmp w) (v f.width 0 false) (fun p q => intPred m.imm.val f p q) (fun _ _ => 0))) ∧
    (∀ y : VCtx, any →
      -- whole bytes; or, with an operand in DIR C or D, a format below 8 bits element by element (log entry 90)
      let single := f.width < 8 ∧ ∃ p ∈ [o, a, b], p.dir = .c ∨ p.dir = .d
      (¬ single → y = v (max 8 f.width) m.imm.val true) →
      (single → y = ⟨128, m.row.val + i.rowoff, m.imm.val, m.nv.val, false, true⟩) →
      two (.vand w) {} y (fun q vs => (lane vs 0 q &&& lane vs 1 q, 0)) ∧
      two (.vor w) {} y (fun q vs => (lane vs 0 q ||| lane vs 1 q, 0)) ∧
      two (.vxor w) {} y (fun q vs => (lane vs 0 q ^^^ lane vs 1 q, 0))) ∧
    (fmtIn m.fmt.val [.fp32, .bf16, .fp16, .k8, .k8w] = some f → i.vsrc 1 w.ops.s1 f = some a →
      (i.vsrc 2 w.ops.s2 f = some b → vuse { mdst := true, own := true } m [a, b] = true → m.imm.val < 8 →
        mask (.vcmp w) (v f.width 0 false)
          (fun p q => floatPred m.imm.val (decodeFloat i.env f p) (decodeFloat i.env f q))
          (fun p q => nfOf [decodeFloat i.env f p, decodeFloat i.env f q])) ∧
      (b = a → vuse { mdst := true, e := true } m [a, b] = true →
        mask (.vclass w) (v f.width m.imm.val false) (fun p _ => (d.e[m.e]).getLsbD (classOf f p)) (fun _ _ => 0)))

/-- R265 to R270: conversion, quantisation, packing, block maxima and sparsity. -/
def Obligations.VectorConversions : Prop :=
  ∀ (s : State) (k : Fin 128) (w : VgWord) (d : Core) (f g : Fmt) (rm : Rm) (o a b md : TileOp), Issues s k .v w.tok d →
    let i := engIssue s k .v d
    let m := w.mod
    let takes (q : Nat) : Bool := !m.men || (d.m[m.msk]).getLsbD q
    let row0 := m.row.val + i.rowoff
    let v (width : Nat) (off : Nat) : VCtx := ⟨1024 / width, row0, off, m.nv.val, false, false⟩
    let all : List Fmt := [.fp32, .bf16, .fp16, .k8, .k8w, .int32, .int16, .int8, .uint8, .int4, .ix4, .ix8, .bit1]
    let conv : VUse := { dfmt := true, rm := true, sat := true }
    let pack : VUse := { dfmt := true, rm := true, sat := true, mask := .no }
    let wide := v (max f.width g.width) m.imm.val
    (fmtIn m.fmt.val all = some f → fmtIn m.dfmt.val all = some g → i.rm m.rm (f.isFloat || g.isFloat) = some rm →
      i.vsrc 1 w.ops.s1 f = some a →
      (i.vdst w.ops.d g = some o → convOk f g = true → f ≠ .bit1 → g ≠ .bit1 → (8 ≤ f.width ∨ 8 ≤ g.width) → vuse conv m [o, a] = true →
        wide.fits o = true → wide.fits a = true →
        LaneWord (.vcvt w) s k w.tok d wide o [a] takes fun _ q vs => convert i.env f g rm m.sat (lane vs 0 q)) ∧
      (i.vdst w.ops.d g = some o → f ∈ [Fmt.fp32, .bf16, .fp16] → g ∈ [Fmt.k8, .k8w, .int16, .int8, .uint8, .int4] →
        vuse { conv with e := true } m [o, a] = true → wide.fits o = true → wide.fits a = true →
        LaneWord (.vquant w) s k w.tok d wide o [a] takes fun _ q vs =>
          let x := decodeFloat i.env f (lane vs 0 q)
          let y := val32 i.env (d.e[m.e].setWidth 32)
          let t := mul32 i.env x y
          let r := if g.isK = true then roundTo i.env g rm m.sat (val32 i.env t.1) else quantInt g rm m.sat (val32 i.env t.1)
          (r.1, t.2 ||| nfOf [x, y] ||| r.2)) ∧
      -- VPACK: the lanes of S1, then those of S2, in half the width
      (i.rowOp 0 w.ops.d g = some o → i.vsrc 2 w.ops.s2 f = some b → convOk f g = true → f.width = 2 * g.width → vuse pack m [o, a, b] = true →
        (v f.width m.imm.val).fits o = true → (v f.width m.imm.val).fits a = true → (v f.width m.imm.val).fits b = true →
        let y := v f.width m.imm.val
        let y2 : VCtx := { y with lanes := 2 * y.lanes }
        ∃ c fl, IssuesWith (.vpack w) s k .v w.tok d c fl ∧
          Chain (fun n p q => WritesLanes y2 o n (fun j => j < 2 * y.lanes ∧ y2.inside o n j = true)
            (fun j => convert i.env f g rm m.sat (nth 0 (y.read p.1 a n ++ y.read p.1 b n) j)) p q) (m.nv.val + 1) (d, 0) (c, fl)) ∧
      -- VUNPK: the lanes of S1 into D and the tile after it, in twice the width
      (∀ (t u : Fin 48) (sh : TShape), i.rowOp 0 w.ops.d g = some o → i.rowOp 1 w.ops.s1 f = some a → o.tile = some t → u.val = t.val + 1 →
        shapeOf d.tshape[u] = some sh → sh.fmt = g → convOk f g = true → g.width = 2 * f.width → vuse pack m [o, a] = true →
        let y := v g.width m.imm.val
        let y2 : VCtx := { y with lanes := 2 * y.lanes }
        let o2 : TileOp := ⟨some u, sh, .r⟩
        y.fits o = true → y.fits a = true → a.tile ≠ some t → a.tile ≠ some u →
        ∃ c fl, IssuesWith (.vunpk w) s k .v w.tok d c fl ∧
          Chain (fun n p r => ∃ q,
            WritesLanes y o n (fun j => j < y.lanes ∧ y.inside o n j = true)
              (fun j => convert i.env f g rm m.sat (nth 0 (y2.read p.1 a n) j)) p q ∧
            WritesLanes y o2 n (fun j => j < y.lanes ∧ y.inside o2 n j = true)
              (fun j => convert i.env f g rm m.sat (nth 0 (y2.read p.1 a n) (y.lanes + j))) q r) (m.nv.val + 1) (d, 0) (c, fl))) ∧
    -- VBMAX: the largest magnitude of each block of 8 * 2^IMM lanes
    (fmtIn m.fmt.val [.fp32, .bf16, .fp16, .k8, .k8w] = some f → fmtIn m.dfmt.val [.fp32, .bf16, .fp16] = some g →
      i.rm m.rm true = some rm → i.rowOp 0 w.ops.d g = some o → i.vsrc 1 w.ops.s1 f = some a → m.imm.val ≤ 4 →
      vuse { conv with own := true } m [o, a] = true →
      let y := v f.width 0
      let bs := 8 * 2 ^ m.imm.val
      let nb := (y.lanes + bs - 1) / bs
      y.fits a = true → packFits o row0 ((m.nv.val + 1) * nb) = true →
      PackedWord (.vbmax w) s k w.tok d o row0 ((m.nv.val + 1) * nb) (fun _ => true) fun e =>
        let n := e / nb
        let present := (List.range y.lanes).filter fun q => q / bs == e % nb && takes q && y.inside a n q
        let vals := present.map fun q => decodeFloat i.env f (nth 0 (y.read d a n) q)
        let r := roundTo i.env g rm m.sat (blockMax vals)
        (r.1, r.2 ||| nfOf vals)) ∧
    -- VZBM: one bit for each element
    (fmtIn m.fmt.val [.fp32, .bf16, .fp16, .k8, .k8w, .int32, .int16, .int8, .uint8, .ix8] = some f →
      i.rowOp 0 w.ops.d .bit1 = some o → i.vsrc 1 w.ops.s1 f = some a → vuse {} m [o, a] = true →
      (v f.width m.imm.val).fits o = true → (v f.width m.imm.val).fits a = true →
      LaneWord (.vzbm w) s k w.tok d (v f.width m.imm.val) o [a] takes fun _ q vs => (if nonzeroBits f (lane vs 0 q) = true then 1 else 0, 0)) ∧
    -- VSPARS: of each group of eight the largest in magnitude into D, their positions into M
    (fmtIn m.fmt.val [.bf16, .fp16, .k8, .k8w] = some f → i.rowOp 0 w.ops.d f = some o → i.rowOp 1 w.ops.s1 f = some a →
      i.rowOp 2 w.ops.s2 .uint8 = some md → m.imm.val ≤ 2 → vuse { own := true, mask := .no } m [o, a, md] = true →
      let y := v f.width 0
      let keep := match m.imm.val with
        | 0 => 4
        | 1 => 2
        | _ => 1
      y.fits o = true → y.fits a = true → y.fits md = true →
      (o.tile ≠ md.tile ∨ o.tile = none) → (o.tile ≠ a.tile ∨ o.tile = none) → (md.tile ≠ a.tile ∨ a.tile = none) →
      let pos (xs : List Nat) (e : Nat) : Option Nat := (choose8 i.env f keep ((xs.drop (8 * (e / keep))).take 8))[e % keep]?
      ∃ c, IssuesWith (.vspars w) s k .v w.tok d c 0 ∧
        Chain (fun n p r => ∃ q,
          ElementsBecome p q o f.width (fun row e => if row = row0 + n ∧ e < y.lanes / 8 * keep
            then (pos (y.read p a n) e).map fun x => nth 0 (y.read p a n) (8 * (e / keep) + x) else none) ∧
          ElementsBecome q r md 3 (fun row e => if row = row0 + n ∧ e < y.lanes / 8 * keep then pos (y.read p a n) e else none))
          (m.nv.val + 1) d c)

/-- R52, R53, R271, R272: reductions, column sums and scans. -/
def Obligations.VectorReductions : Prop :=
  ∀ (s : State) (k : Fin 128) (w : VgWord) (d : Core) (f g : Fmt) (rm : Rm) (o a : TileOp), Issues s k .v w.tok d →
    let i := engIssue s k .v d
    let m := w.mod
    let takes (q : Nat) : Bool := !m.men || (d.m[m.msk]).getLsbD q
    let row0 := m.row.val + i.rowoff
    let y : VCtx := ⟨1024 / f.width, row0, m.imm.val, m.nv.val, false, false⟩
    let use : VUse := { dfmt := true, rm := true, sat := true }
    let red (kind : Red) (n : Nat) : Nat × Fl := reduceLanes i.env kind f g rm m.sat
      ((List.range y.lanes).map fun q => if takes q && y.inside a n q then some (nth 0 (y.read d a n) q) else none)
    -- FMT and DFMT are both floating-point or both integer (R271)
    let fmts := (f ∈ [Fmt.fp32, .bf16, .fp16, .k8, .k8w] ∧ g ∈ [Fmt.fp32, .bf16, .fp16]) ∨
      (f ∈ [Fmt.int32, .int16, .int8, .uint8] ∧ g ∈ [Fmt.int32, .int16, .int8, .uint8])
    (Fmt.ofCode m.fmt.val = some f → Fmt.ofCode m.dfmt.val = some g → fmts → i.rm m.rm (f.isFloat || g.isFloat) = some rm →
      i.rowOp 0 w.ops.d g = some o → i.vsrc 1 w.ops.s1 f = some a → vuse use m [o, a] = true → y.fits a = true →
      (packFits o row0 (m.nv.val + 1) = true →
        PackedWord (.vrsum w) s k w.tok d o row0 (m.nv.val + 1) (fun _ => true) (red .sum) ∧
        PackedWord (.vrmax w) s k w.tok d o row0 (m.nv.val + 1) (fun _ => true) (red .max) ∧
        PackedWord (.vrmin w) s k w.tok d o row0 (m.nv.val + 1) (fun _ => true) (red .min) ∧
        PackedWord (.vramax w) s k w.tok d o row0 (m.nv.val + 1) (fun _ => true) (red .amax)) ∧
      (packFits o row0 y.lanes = true →
        PackedWord (.vcsum w) s k w.tok d o row0 y.lanes (fun q => takes q && packInside o row0 q) fun q =>
          let t := (List.range (m.nv.val + 1)).foldl (fun x n => runAdd i.env f x (nth 0 (y.read d a n) q)) (0, 0)
          let r := runOut i.env f g rm m.sat t.1
          (r.1, t.2 ||| r.2))) ∧
    -- VSCAN: each present lane takes the sum of the present lanes up to it
    (Fmt.ofCode m.fmt.val = some f → m.dfmt = m.fmt → f ∈ [Fmt.fp32, .bf16, .fp16, .int32, .int16, .int8, .uint8] →
      i.rm m.rm f.isFloat = some rm → i.vdst w.ops.d f = some o → i.vsrc 1 w.ops.s1 f = some a → vuse use m [o, a] = true →
      y.fits o = true → y.fits a = true → ∃ c fl, IssuesWith (.vscan w) s k .v w.tok d c fl ∧
        Chain (fun n p r =>
          let on (q : Nat) : Bool := takes q && y.inside a n q && y.inside o n q
          WritesLanes y o n (fun q => q < y.lanes ∧ on q = true) (fun q =>
            let t := ((List.range (q + 1)).filter on).foldl (fun x j => runAdd i.env f x (nth 0 (y.read p.1 a n) j)) (0, 0)
            let u := runOut i.env f f rm m.sat t.1
            (u.1, t.2 ||| u.2)) p r) (m.nv.val + 1) (d, 0) (c, fl))

/-- R273 to R276: moves and shuffles. -/
def Obligations.VectorMoves : Prop :=
  ∀ (s : State) (k : Fin 128) (w : VgWord) (d : Core) (f : Fmt) (o a b : TileOp), Issues s k .v w.tok d →
    let i := engIssue s k .v d
    let m := w.mod
    let takes (q : Nat) : Bool := !m.men || (d.m[m.msk]).getLsbD q
    let row0 := m.row.val + i.rowoff
    let v (width off : Nat) (bytes : Bool) : VCtx := ⟨1024 / width, row0, off, m.nv.val, bytes, false⟩
    let lane8 := v (max 8 f.width) m.imm.val true
    let y := v f.width m.imm.val false
    let z := v f.width 0 false
    let copied := (d.e[m.e]).toNat % 128
    let any := fmtIn m.fmt.val [.fp32, .bf16, .fp16, .k8, .k8w, .int32, .int16, .int8, .uint8, .int4, .ix4, .ix8, .bit1] = some f
    let wide := fmtIn m.fmt.val [.fp32, .bf16, .fp16, .k8, .k8w, .int32, .int16, .int8, .uint8, .ix8] = some f
    (any → i.vdst w.ops.d f = some o →
      (∀ x : VCtx, i.vsrc 1 w.ops.s1 f = some a → vuse {} m [o, a] = true →
        -- as for VAND: whole bytes, or element by element (log entry 90)
        let single := f.width < 8 ∧ ∃ p ∈ [o, a], p.dir = .c ∨ p.dir = .d
        (¬ single → x = lane8) → (single → x = ⟨128, row0, m.imm.val, m.nv.val, false, true⟩) → x.fits o = true → x.fits a = true →
        LaneWord (.vmov w) s k w.tok d x o [a] (fun q => takes (if x.single = true then q * f.width / 8 else q))
          fun _ q vs => (lane vs 0 q, 0)) ∧
      (i.vsrc 1 w.ops.s1 f = some a → vuse { e := true } m [o, a] = true → copied < 1024 / max 8 f.width → lane8.fits o = true →
        lane8.fits a = true → LaneWord (.vbcast w) s k w.tok d lane8 o [a] takes fun _ _ vs => (lane vs 0 copied, 0)) ∧
      (vuse { e := true } m [o] = true → lane8.fits o = true →
        LaneWord (.vfill w) s k w.tok d lane8 o [] takes fun _ _ _ => ((d.e[m.e]).toNat % 2 ^ max 8 f.width, 0))) ∧
    (wide → i.vdst w.ops.d f = some o → i.vsrc 1 w.ops.s1 f = some a →
      (vuse { own := true } m [o, a] = true → m.imm.val < 1024 / f.width → z.fits o = true → z.fits a = true →
        LaneWord (.vrot w) s k w.tok d z o [a] takes fun _ q vs => (lane vs 0 ((q + m.imm.val) % (1024 / f.width)), 0)) ∧
      (i.vsrc 2 w.ops.s2 .uint8 = some b → vuse {} m [o, a, b] = true → y.fits o = true → y.fits a = true → y.fits b = true →
        LaneWord (.vshuf w) s k w.tok d y o [a, b] takes fun _ q vs => (lane vs 0 (lane vs 1 q), 0)) ∧
      (i.vsrc 2 w.ops.s2 f = some b → m.men = true → vuse { mask := .req } m [o, a, b] = true → y.fits o = true → y.fits a = true →
        y.fits b = true → LaneWord (.vsel w) s k w.tok d y o [a, b] (fun _ => true) fun _ q vs =>
          (if (d.m[m.msk]).getLsbD q = true then lane vs 0 q else lane vs 1 q, 0))) ∧
    (wide → i.rowOp 0 w.ops.d f = some o → i.rowOp 1 w.ops.s1 f = some a → vuse { mask := .no } m [o, a] = true →
      32 * (m.nv.val + 1) ≤ 1024 / f.width → row0 + 31 ≤ 127 →
      ∃ c, IssuesWith (.vtrans w) s k .v w.tok d c 0 ∧ ElementsBecome d c o f.width (fun row x =>
        if row0 ≤ row ∧ row < row0 + 32 ∧ x < 32 * (m.nv.val + 1)
          then some (elemOf (d.rowIn a (row0 + x % 32)) f.width (x / 32 * 32 + (row - row0))) else none)) ∧
    (wide → i.vsrc 1 w.ops.s1 f = some a → m.nv = 0 → m.imm.val < 1024 / f.width →
      vuse { e := true, own := true, mask := .no } m [a] = true → z.fits a = true →
      IssuesWith (.vext w) s k .v w.tok d { d with e := d.e.set m.e (BitVec.ofNat 64 (nth 0 (z.read d a 0) m.imm.val)) } 0) ∧
    (wide → i.vdst w.ops.d f = some o → m.nv = 0 → m.imm.val < 1024 / f.width →
      vuse { e := true, own := true, mask := .no } m [o] = true → z.fits o = true →
      ∃ c, IssuesWith (.vins w) s k .v w.tok d c 0 ∧
        WritesLanes z o 0 (fun q => q = m.imm.val ∧ z.inside o 0 q = true) (fun _ => ((d.e[m.e]).toNat % 2 ^ f.width, 0)) (d, 0) (c, 0))

/-- R277 to R279: masks, space-filling keys and histograms. -/
def Obligations.VectorMasksKeysHistograms : Prop :=
  ∀ (s : State) (k : Fin 128) (w : VgWord) (d : Core) (f g : Fmt) (o a b c : TileOp), Issues s k .v w.tok d →
    let i := engIssue s k .v d
    let m := w.mod
    let takes (q : Nat) : Bool := !m.men || (d.m[m.msk]).getLsbD q
    let row0 := m.row.val + i.rowoff
    let v (off : Nat) : VCtx := ⟨32, row0, off, m.nv.val, false, false⟩
    let src := d.m[m.msk]
    -- the fields that the mask words do not use are zero
    let fields (u : VUse) := m.fmt = 0 ∧ m.nv = 0 ∧ m.row = 0 ∧ vuse { u with mask := .req } m [] = true
    (fields { mdst := true, own := true } → m.imm.val < 128 →
      ∃ x, IssuesWith (.vmlog w) s k .v w.tok d { d with m := d.m.set m.mdst x } 0 ∧
        ∀ j, j < 128 → x.getLsbD j = (BitVec.ofNat 4 m.imm.val).getLsbD
          (2 * (src.getLsbD j).toNat + ((d.m[Fin.ofNat 8 (m.imm.val / 16)]).getLsbD j).toNat)) ∧
    (fields { e := true } → IssuesWith (.vmpop w) s k .v w.tok d
      { d with e := d.e.set m.e (BitVec.ofNat 64 ((List.range 128).countP src.getLsbD)) } 0) ∧
    (fields { e := true, mdst := true } →
      (src = 0 → IssuesWith (.vmfirst w) s k .v w.tok d { d with e := d.e.set m.e 128, m := d.m.set m.mdst 0 } 0) ∧
      (∀ j, j < 128 → src.getLsbD j = true → (∀ l, l < j → src.getLsbD l = false) →
        IssuesWith (.vmfirst w) s k .v w.tok d
          { d with e := d.e.set m.e (BitVec.ofNat 64 j), m := d.m.set m.mdst (BitVec.ofNat 128 (2 ^ j)) } 0)) ∧
    -- VSFC: the key of two or three coordinates of K bits, Morton or Hilbert
    (fmtIn m.fmt.val [.uint8, .int16, .int32] = some f → fmtIn m.dfmt.val [.int32] = some .int32 → m.imm.val < 64 →
      i.vdst w.ops.d .int32 = some o → i.vsrc 1 w.ops.s1 f = some a → i.vsrc 2 w.ops.s2 f = some b →
      let kb := m.imm.val / 4 % 16 + 1
      let key (nd : Nat) (vs : List (List Nat)) (q : Nat) : Nat × Fl :=
        let x := vs.map fun l => nth 0 l q % 2 ^ kb
        (sfcKey kb nd (if m.imm.val % 2 = 1 then hilbert kb nd x else x), 0)
      (m.imm.val / 2 % 2 = 0 → w.ops.s3 = .zero → vuse { dfmt := true, own := true } m [o, a, b] = true → (v 0).fits o = true →
        (v 0).fits a = true → (v 0).fits b = true →
        LaneWord (.vsfc w) s k w.tok d (v 0) o [a, b] takes fun _ q vs => key 2 vs q) ∧
      (m.imm.val / 2 % 2 = 1 → kb ≤ 10 → i.vsrc 3 w.ops.s3 f = some c → vuse { dfmt := true, own := true } m [o, a, b, c] = true →
        (v 0).fits o = true → (v 0).fits a = true → (v 0).fits b = true → (v 0).fits c = true →
        LaneWord (.vsfc w) s k w.tok d (v 0) o [a, b, c] takes fun _ q vs => key 3 vs q)) ∧
    -- VHIST: each weight is added into its bin
    (fmtIn m.fmt.val [.int32, .int16, .uint8] = some f → fmtIn m.dfmt.val [.int32, .fp32] = some g → m.imm.val < 128 →
      i.rowOp 0 w.ops.d g = some o → i.vsrc 1 w.ops.s1 f = some a → i.vsrc 2 w.ops.s2 g = some b →
      vuse { dfmt := true, own := true } m [o, a, b] = true → (v 0).fits a = true → (v 0).fits b = true →
      packFits o row0 (m.imm.val + 1) = true →
      let weights (bin : Nat) : List Nat := (List.range (m.nv.val + 1)).flatMap fun n =>
        ((List.range 32).filter fun q => takes q && (v 0).inside a n q && (v 0).inside b n q &&
          intOfBits f (nth 0 ((v 0).read d a n) q) == (bin : Int)).map fun q => nth 0 ((v 0).read d b n) q
      PackedWord (.vhist w) s k w.tok d o row0 (m.imm.val + 1) (fun _ => true) fun bin =>
        let r := (weights bin).foldl (runAdd i.env g) (BitVec.ofNat 32 (elemOf (d.rowIn o (row0 + bin / 32)) 32 (bin % 32)), 0)
        (r.1.toNat, r.2))

/-- R319, R322 to R327, R329: issuing the copy words that move rows, elements and values. -/
def Obligations.CopyWordsIssue : Prop :=
  ∀ (s : State) (k : Fin 128) (w : CgWord) (d : Core) (f g : Fmt) (o ix : TileOp) (rm : Rm), Issues s k .c w.tok d →
    let i := engIssue s k .c d
    let m := w.mod
    let row0 := m.row.val + i.rowoff
    let n := m.nr.val + 1
    let cnt := o.sh.cols + 1
    let ea := d.e[m.ea]
    let eb := d.e[m.eb]
    -- memory row r of a word that moves rows
    let at_ (r : Nat) : W64 := ea + BitVec.ofNat 64 (i.rowoff + r) * eb
    let traps (ins : Instr) (t : Trap) : Prop := exec ins s = .next (s.raise k 5 i.upc t)
    -- a base or a pitch that is no multiple of an element's bytes
    let misaligned (ins : Instr) (h : Fmt) : Prop :=
      (ea.toNat % elemBytes h ≠ 0 → traps ins (.at .align ea)) ∧
      (ea.toNat % elemBytes h = 0 → eb.toNat % elemBytes h ≠ 0 → traps ins (.at .align (ea + eb)))
    let aligned (h : Fmt) : Prop := ea.toNat % elemBytes h = 0 ∧ eb.toNat % elemBytes h = 0
    let conv (a b : Fmt) (x : Nat) : Nat × Fl := convert i.env a b rm (m.cx == 1) x
    let fmts := fmtIn m.fmt.val allFmts = some f ∧ fmtIn m.dfmt.val allFmts = some g ∧ i.copyRm f g = some rm
    -- CLD: elements of format FMT in memory, DFMT in the tile
    (fmts → convOk f g = true → i.cdst w.ops.d g = some o → m.ec = 0 → m.cx.val ≤ 1 → row0 + n ≤ 128 →
      (¬ NoHazard s k [] o.deps [m.ea, m.eb] [] → exec (.cld w) s = .next s) ∧
      (NoHazard s k [] o.deps [m.ea, m.eb] [] → misaligned (.cld w) f ∧
        (aligned f → MayAccess s k false ((List.range n).map fun r => (at_ r, rowLen f cnt)) →
          CopyIssues (.cld w) s k w d d [] o.deps [] 0 ((List.range n).map fun r =>
            .read (at_ r) (rowLen f cnt) m.zp (.row (o.deps.headD 0) (row0 + r) cnt f g rm (m.cx == 1) i.env))))) ∧
    -- CST: the elements are taken at issue
    (fmts → convOk g f = true → i.rowOp 1 w.ops.s1 g = some o → m.ec = 0 → m.zp = false → m.cx.val ≤ 1 → row0 + n ≤ 128 →
      (¬ NoHazard s k o.deps [] [m.ea, m.eb] [] → exec (.cst w) s = .next s) ∧
      (NoHazard s k o.deps [] [m.ea, m.eb] [] → misaligned (.cst w) f ∧
        (aligned f → MayAccess s k true ((List.range n).map fun r => (at_ r, rowLen f cnt)) →
          let elt (r j : Nat) : Nat × Fl := conv g f (nth 0 (rawRow d o (row0 + r) cnt) j)
          ∃ fl, FlagsOf fl n cnt (fun r j => (elt r j).2) ∧ CopyIssues (.cst w) s k w d d o.deps [] [] fl
            ((List.range n).map fun r => .write (at_ r) (packRow f.width ((List.range cnt).map fun j => (elt r j).1)) [])))) ∧
    -- CCPY: e[EC] elements from e[EA] to e[EB]
    (fmts → convOk f g = true → m.nr = 0 → m.row = 0 → m.zp = false → m.cx.val ≤ 1 → NoHazard s k [] [] [m.ea, m.eb, m.ec] [] →
      let len := (d.e[m.ec]).toNat % 2 ^ 32
      ea.toNat % elemBytes f = 0 → eb.toNat % elemBytes g = 0 → MayAccess s k false [(ea, rowLen f len)] →
      MayAccess s k true [(eb, rowLen g len)] → CopyIssues (.ccpy w) s k w d d [] [] [] 0
        (if len = 0 then [] else [.read ea (rowLen f len) false (.xfer (.convert eb len f g rm (m.cx == 1) i.env true))])) ∧
    -- CFILL: e[EC] elements of the low bits of e[EB] from e[EA] on
    (fmtIn m.fmt.val allFmts = some f → m.dfmt = 0 → m.nr = 0 → m.row = 0 → m.zp = false → m.cx = 0 →
      NoHazard s k [] [] [m.ea, m.eb, m.ec] [] →
      let len := (d.e[m.ec]).toNat % 2 ^ 32
      let data := packRow f.width (List.replicate len (eb.toNat % 2 ^ f.width))
      ea.toNat % elemBytes f = 0 → MayAccess s k true [(ea, data.length)] →
      CopyIssues (.cfill w) s k w d d [] [] [] 0 (if len = 0 then [] else [.write ea data []])) ∧
    -- CGATH and CSCAT: row r of the tile and the table row that index r names, if it is below e[EC]; rows beyond the extent are not
    -- written, and are zeros as they are read (R69)
    (∀ xs : List Int, fmtIn m.fmt.val allFmts = some f → m.dfmt = m.fmt → m.cx = 0 → row0 + n ≤ 128 → indexVals i ix n = some xs →
      let place (r : Nat) : Option W64 := if 0 ≤ nth 0 xs r ∧ nth 0 xs r < ((d.e[m.ec]).toNat % 2 ^ 32 : Nat)
        then some (ea + BitVec.ofNat 64 (nth 0 xs r).toNat * eb) else none
      let room (r : Nat) : Nat := if row0 + r ≤ o.sh.rows then cnt else 0
      (i.cdst w.ops.d f = some o → i.tileOp 1 w.ops.s1 [.r] [.int32, .int16, .int8, .uint8] .int32 = some ix →
        NoHazard s k ix.deps o.deps [m.ea, m.eb, m.ec] [] → misaligned (.cgath w) f ∧
        (aligned f → MayAccess s k false ((List.range n).filterMap fun r => (place r).map fun a => (a, rowLen f cnt)) →
          ∃ c, c = { d with tiles := c.tiles } ∧
            (∀ (t : Fin 48) (row b : Nat), row < 128 → b < 1024 → (c.rowBits t.val row).testBit b =
              if o.tile = some t ∧ row0 ≤ row ∧ row < row0 + n ∧ place (row - row0) = none ∧ b < room (row - row0) * f.width then false
              else (d.rowBits t.val row).testBit b) ∧
            CopyIssues (.cgath w) s k w d c ix.deps o.deps [] 0 ((List.range n).filterMap fun r => (place r).map fun a =>
              .read a (rowLen f cnt) m.zp (.row (o.deps.headD 0) (row0 + r) (room r) f f .rne false i.env)))) ∧
      (i.rowOp 1 w.ops.s1 f = some o → i.tileOp 2 w.ops.s2 [.r] [.int32, .int16, .int8, .uint8] .int32 = some ix → m.zp = false →
        NoHazard s k (o.deps ++ ix.deps) [] [m.ea, m.eb, m.ec] [] → misaligned (.cscat w) f ∧
        (aligned f → MayAccess s k true ((List.range n).filterMap fun r => (place r).map fun a => (a, rowLen f cnt)) →
          CopyIssues (.cscat w) s k w d d (o.deps ++ ix.deps) [] [] 0 ((List.range n).filterMap fun r => (place r).map fun a =>
            .write a (packRow f.width (if row0 + r ≤ o.sh.rows then rawRow d o (row0 + r) cnt else List.replicate cnt 0)) []))))

/-- R190, R241, R291, R300, R301, R318, R320, R324: the requests of copy words are performed one by one, and those of drains. -/
def Obligations.CopyRequests : Prop :=
  ∀ (s u : State) (k : Fin 128) (idx : Nat) (a : ReqAt) (ea : W64) (len flat : Nat) (data : List Byte) (zp : Bool),
    let raised (t : State) (x : Trap) : State := t.raise k 5 a.flight.upc x
    -- a request waits for those of its class before it, unless they are rows whose values can be fixed (R324, R330)
    ((s.core k).fault = none → (copyReqs (s.eng k .c))[idx]? = some a → reqBlocked s k a = true →
      exec (.copyWriteAccept k.val idx) s = .next s ∧
      ((∀ e n z p bs bad sec, a.req.kind ≠ .fixed e n z p bs bad sec) →
        (∀ b, s.firstBefore k a = some b → ∀ e n z t r c f g rm sat env, b.req.kind ≠ .read e n z (.row t r c f g rm sat env)) →
        exec (.copyDataReturn k.val idx) s = .next s)) ∧
    -- a row whose value is fixed comes in whatever stands before it (R330)
    (∀ (t : Fin 48) (row n : Nat) (f g : Fmt) (rm : Rm) (sat : Bool) (env : NumEnv), (s.core k).fault = none →
      (copyReqs (s.eng k .c))[idx]? = some a →
      a.req.kind = .fixed ea len zp (.row t.val row n f g rm sat env) data [] none → row < 128 → ∃ c fl,
        let elt (j : Nat) : Nat × Fl := convert env f g rm sat (elemOf (leNum data) f.width j)
        exec (.copyDataReturn k.val idx) s =
          .next (performed ((s.setCore k c).updFlight k a.f fun y => { y with flags := y.flags ||| fl }) k a) ∧
        c = { s.core k with tiles := c.tiles } ∧
        (∀ (t' : Fin 48) (row' b : Nat), row' < 128 → b < 1024 → (c.rowBits t'.val row').testBit b =
          if t' = t ∧ row' = row ∧ b < n * g.width then (elt (b / g.width)).1.testBit (b % g.width)
          else ((s.core k).rowBits t'.val row').testBit b) ∧
        (∀ b, fl.getLsbD b = true ↔ ∃ j, j < n ∧ (elt j).2.getLsbD b = true)) ∧
    -- a row of a tile: its elements are converted, and nothing else of the core changes but the flags that the word is to set
    (∀ (t : Fin 48) (row n : Nat) (f g : Fmt) (rm : Rm) (sat : Bool) (env : NumEnv),
      Performs s k idx a (.read ea len zp (.row t.val row n f g rm sat env)) → EngineAt s k ea len .read flat u → row < 128 →
      let elt (j : Nat) : Nat × Fl := convert env f g rm sat (elemOf (leNum (u.mem.read flat len)) f.width j)
      (u.mem.poisonedAt flat len = none → ∃ c fl,
        exec (.copyDataReturn k.val idx) s =
          .next (performed ((u.setCore k c).updFlight k a.f fun y => { y with flags := y.flags ||| fl }) k a) ∧
        c = { u.core k with tiles := c.tiles } ∧
        (∀ (t' : Fin 48) (row' b : Nat), row' < 128 → b < 1024 → (c.rowBits t'.val row').testBit b =
          if t' = t ∧ row' = row ∧ b < n * g.width then (elt (b / g.width)).1.testBit (b % g.width)
          else ((u.core k).rowBits t'.val row').testBit b) ∧
        (∀ b, fl.getLsbD b = true ↔ ∃ j, j < n ∧ (elt j).2.getLsbD b = true)) ∧
      -- a poisoned sector faults, or under `.zp` the row is written as zeros and counted
      (∀ p, u.mem.poisonedAt flat len = some p → zp = false →
        exec (.copyDataReturn k.val idx) s = .next (raised u ⟨.uncorrectable, ea, (poisonTrap ea p).info⟩)) ∧
      (∀ p, u.mem.poisonedAt flat len = some p → zp = true → ∃ c,
        exec (.copyDataReturn k.val idx) s = .next (performed ((u.setCore k c).zeroRow k a.f row p) k a) ∧
        c = { u.core k with tiles := c.tiles } ∧
        ∀ (t' : Fin 48) (row' b : Nat), row' < 128 → b < 1024 → (c.rowBits t'.val row').testBit b =
          if t' = t ∧ row' = row ∧ b < n * g.width then false else ((u.core k).rowBits t'.val row').testBit b)) ∧
    -- bytes that are read whole are transformed and stand to be written
    (∀ x : Xfer, Performs s k idx a (.read ea len zp (.xfer x)) → EngineAt s k ea len .read flat u → u.mem.poisonedAt flat len = none →
      let r := runXfer x (u.mem.read flat len) []
      (r.dst.toNat + r.data.length ≤ ea.toNat ∨ ea.toNat + len ≤ r.dst.toNat) →
      exec (.copyDataReturn k.val idx) s = .next
        (((u.updFlight k a.f fun y => { y with flags := y.flags ||| r.flags }).replaceReq k a
          ((if r.data = [] then [] else [.write r.dst r.data r.bad]) ++
            match r.status with
            | some (e, v) => [.setE e v]
            | none => [])).settle k a.f)) ∧
    -- a write is accepted by its memory port
    (Performs s k idx a (.write ea data []) → EngineAt s k ea data.length .write flat u → ∃ m, Wrote u.mem m flat data ∧
      exec (.copyWriteAccept k.val idx) s = .next (performed (u.setMem m) k a)) ∧
    (∀ t, Performs s k idx a (.write ea data []) → s.portAt k ea data.length .write = .trap t →
      exec (.copyWriteAccept k.val idx) s = .next (raised s t)) ∧
    -- a row of ADRAINM is stored: the oldest one of a drain, which its fault would stop
    (∀ f cls, (s.core k).fault = none → (s.eng k .a).flight.find? (fun f => !f.reqs.isEmpty) = some f →
      (∃ r : Req, f.reqs = [r] ∧ r.kind = .write ea data [] ∧ r.cls = cls) → EngineAt s k ea data.length .write flat u → ∃ m, Wrote u.mem m flat data ∧
        exec (.adrainmStoresAccepted k.val) s = .next ((u.setMem m).setEng k .a { u.eng k .a with
          flight := updFirst (fun g => !g.reqs.isEmpty) (fun g => { g with reqs := [] }) (u.eng k .a).flight }))

/-- R290, R291, R328: scratchpad windows. -/
def Obligations.ScratchpadWindows : Prop :=
  ∀ (s u : State) (k : Fin 128) (w : CgWord) (d : Core), 
    (Issues s k .c w.tok d →
      let i := engIssue s k .c d
      let m := w.mod
      let q := quadOf k
      let cx : Fin 8 := Fin.ofNat 8 m.cx.val
      let base := d.e[m.ea]
      let rowb := (d.e[m.eb]).toNat
      -- the rows of window `x` that a fill asks for, and what it leaves: rows beyond NROWS are written as zeros, with full bits 1
      let fills (t v : State) (x y : Window) (reqs : List ReqKind) : Prop :=
        y = { x with next := max x.next (x.head + 2 ^ x.log2n) } ∧
        reqs = (if x.rowb = 0 then [] else ((List.range (x.head + 2 ^ x.log2n - x.next)).map (x.next + ·)).filterMap fun r =>
          if r < x.nrows then some (.read (x.tbase + BitVec.ofNat 64 r * x.pitch) x.rowb m.zp
            (.window m.cx.val r (x.ring + r % 2 ^ x.log2n * 2 ^ x.log2sz) [] false)) else none) ∧
        v.core k = t.core k ∧
        ∀ r j, x.next ≤ r → r < x.head + 2 ^ x.log2n → x.nrows ≤ r → j < x.rowb →
          v.mem.byte (sramFlat q (x.ring + r % 2 ^ x.log2n * 2 ^ x.log2sz + j)) = 0
      -- no LDFE.w waits on a granule of the ring (R200: it would return as the granule is filled)
      let unread (x : Window) : Prop := ∀ j, j < 2 ^ x.log2n * 2 ^ x.log2sz → ¬ LoadWaits s q (x.ring + j)
      let ringAt (off n : Nat) : Prop := PadAt s k (BitVec.ofNat 64 (0xFE * 2 ^ 56 + off)) n q off
      let inFlight (reqs : List ReqKind) : Flight :=
        { Flight.plain i.upc w.tok.pt with cls := m.oc.val, reqs := reqs.map (s.newReq m.oc.val) }
      -- CWIN: the descriptor is read at issue
      (∀ ds bs, NoHazard s k [] [] [m.ea, m.eb] [] → windowBusy d m.cx.val = false → m.fmt = 0 → m.dfmt = 0 → m.ec = 0 → m.nr = 0 →
        m.row = 0 → m.cx.val ≤ 7 → rowb < 2 ^ 32 → base.toNat % 32 = 0 →
        (∀ f ∈ (s.eng k .c).flight, f.holds m.oc.val = false) → (s.eng k .c).got = [] →
        s.portAt k base 32 .read = .ok (.bytes ds) u → firstPoison u.mem ds = none → gatherPieces u.mem [] ds 0 = some bs →
        let v := leNum bs
        let x : Window := ⟨true, BitVec.ofNat 64 (bitsNat v 0 64), BitVec.ofNat 64 (bitsNat v 64 64), bitsNat v 128 32, bitsNat v 160 32,
          bitsNat v 224 4, bitsNat v 221 3, bitsNat v 192 25, rowb, bitsNat v 160 32, bitsNat v 160 32⟩
        windowOk (u.quad q) bs x = true → ringAt x.ring (2 ^ x.log2n * 2 ^ x.log2sz) → unread x →
        let t := u.setQuad q ((u.quad q).clearFull x.ring (2 ^ x.log2n * 2 ^ x.log2sz))
        (∀ r, x.next ≤ r → r < x.head + 2 ^ x.log2n → r < x.nrows → 0 < rowb →
          t.issueCheck k (x.tbase + BitVec.ofNat 64 r * x.pitch) rowb false = none) →
        ∃ v y reqs, fills t v x y reqs ∧ exec (.cwin w) s = .next (issued v k .c { d with windows := d.windows.set cx y }
          (inFlight reqs) 0)) ∧
      -- CADV: the oldest slots are freed, and those after the last are filled
      (NoHazard s k [] [] [] [] → m.fmt = 0 → m.dfmt = 0 → m.ea = 0 → m.eb = 0 → m.ec = 0 → m.row = 0 → m.cx.val ≤ 7 →
        d.windows[cx].loaded = true → m.nr.val + 1 ≤ 2 ^ d.windows[cx].log2n → unread d.windows[cx] →
        (∀ r, r ≤ m.nr.val → ringAt (slotOff d.windows[cx] (d.windows[cx].head + r)) (2 ^ d.windows[cx].log2sz)) →
        let x := { d.windows[cx] with head := d.windows[cx].head + m.nr.val + 1 }
        let t := (s.setCore k d).setQuad q ((List.range (m.nr.val + 1)).foldl (fun (z : Quad) r =>
          z.clearFull (x.ring + (d.windows[cx].head + r) % 2 ^ x.log2n * 2 ^ x.log2sz) (2 ^ x.log2sz)) (s.quad q))
        (∀ r, x.next ≤ r → r < x.head + 2 ^ x.log2n → r < x.nrows → 0 < x.rowb →
          t.issueCheck k (x.tbase + BitVec.ofNat 64 r * x.pitch) x.rowb false = none) →
        ∃ v y reqs, fills t v x y reqs ∧ exec (.cadv w) s = .next (issued v k .c { d with windows := d.windows.set cx y }
          (inFlight reqs) 0)) ∧
      (NoHazard s k [] [] [] [] → m.cx.val ≤ 7 → (d.windows[cx].loaded = false ∨ 2 ^ d.windows[cx].log2n < m.nr.val + 1) →
        exec (.cadv w) s = .next (s.raise k 5 i.upc (.plain .illegalOperand)))) ∧
    -- a granule lands: its bytes are written, then its full bit is set, as one action
    (∀ (idx : Nat) (a : ReqAt) (g len flat cx r off : Nat) (ea : W64) (zp : Bool) (landed : List Nat),
      let q := quadOf k
      (s.core k).fault = none → (openGranules (s.eng k .c))[idx]? = some (a, g) → reqBlocked s k a = false →
      Asks a.req (.read ea len zp (.window cx r off landed false)) →
      PadAt s k (BitVec.ofNat 64 (0xFE * 2 ^ 56 + off)) len q off → EngineAt s k ea len .read flat u →
      -- one that came from a poisoned sector faults (R301)
      (∀ p, zp = false → u.mem.poisonedAt flat len = some p → u.mem.poisonedAt (flat + 16 * g) 16 ≠ none →
        exec (.windowGranuleLand k.val idx) s = .next (u.raise k 5 a.flight.upc (poisonTrap ea p))) ∧
      (u.mem.poisonedAt flat len = none → ¬ LoadWaits s q (off + 16 * g) → ∃ m x, Wrote u.mem m (sramFlat q (off + 16 * g)) (((u.mem.read flat len).drop (16 * g)).take 16) ∧
        x = { u.quad q with full := x.full } ∧
        (∀ j, kmem x.full j = (kmem (u.quad q).full j || j == (off + 16 * g) / 16)) ∧
        let v := (u.setMem m).setQuad q x
        exec (.windowGranuleLand k.val idx) s = .next (if landed.length + 1 = len / 16 then performed v k a
          else v.updReq k a fun y => { y with kind := .read ea len zp (.window cx r off (landed ++ [g]) false) })))

/-- R331 to R335, R339 to R342: issuing the words for streams, transforms, retention, prefetch, flushes and metadata, and the
requests of flushes and of metadata. R299, R301, R341, R342: what the requests of flushes and of metadata do. -/
def Obligations.StreamCacheAndMetadataWords : Prop :=
  -- R331 to R335, R339 to R342: issuing the words for streams, transforms, retention, prefetch, flushes and metadata, and the requests of flushes and of metadata.
  (∀ (s : State) (k : Fin 128) (w : CgWord) (d : Core), Issues s k .c w.tok d →
    let i := engIssue s k .c d
    let m := w.mod
    let q := quadOf k
    let ea := d.e[m.ea]
    let eb := d.e[m.eb]
    let after (r : Fin 32) : Fin 32 := Fin.ofNat 32 (r.val + 1)
    let free (rd wr : List Nat) (re we : List (Fin 32)) : Prop := NoHazard s k rd wr re we
    let issues (ins : Instr) (rd wr : List Nat) (we : List (Fin 32)) (kinds : List ReqKind) : Prop :=
      CopyIssues ins s k w d d rd wr we 0 kinds
    let plain : Prop := m.fmt = 0 ∧ m.dfmt = 0 ∧ m.nr = 0 ∧ m.row = 0 ∧ m.zp = false
    -- CDEC and CENC take their source and destination from pairs of registers
    (∀ (src len dst cap : W64), plain → ePair d m.ea = some (src, len) → ePair d m.eb = some (dst, cap) → src.toNat % 16 = 0 →
      dst.toNat % 16 = 0 →
      (m.cx.val ≤ 1 → free [] [] [m.ea, after m.ea, m.eb, after m.eb, m.ec] (if m.cx = 0 then [m.ec] else []) →
        let f := (d.e[m.ec]).toNat % 256
        (16 ≤ len.toNat → MayAccess s k false [(src, 16)] → issues (.cdec w) [] [] (if m.cx = 0 then [m.ec] else [])
          [.read src 16 false (.head ⟨src, len.toNat, dst, cap.toNat, 0, 0, if f = 0 then 4 else f, m.ec, m.cx == 1⟩)]) ∧
        -- no header fits: DECODE_FORMAT, as a status or as a fault (R333)
        (len.toNat < 16 → m.cx = 0 →
          CopyIssues (.cdec w) s k w d { d with e := d.e.set m.ec 0x22 } [] [] [m.ec] 0 []) ∧
        (len.toNat < 16 → m.cx = 1 → exec (.cdec w) s = .next (s.raise k 5 i.upc ⟨.decodeFormat, src, 0⟩))) ∧
      (m.cx = 0 → len ≠ 0 → len.toNat % 16 = 0 → MayAccess s k false [(src, len.toNat)] →
        free [] [] [m.ea, after m.ea, m.eb, after m.eb] [m.ec] →
        issues (.cenc w) [] [] [m.ec] [.read src len.toNat false (.xfer (.encode dst cap.toNat m.ec))])) ∧
    -- CXFM
    (∀ (src len : W64) (f g : Fmt) (x : Xfer) (n : Nat), fmtIn m.fmt.val allFmts = some f → fmtIn m.dfmt.val allFmts = some g →
      m.nr = 0 → m.row = 0 → m.zp = false → ePair d m.ea = some (src, len) →
      xformOf i.env m.cx.val f g len.toNat (d.e[m.ec]).toNat eb (Rm.ofCode (fcsrRm d.fcsr)) = some (x, n) →
      src.toNat % elemBytes f = 0 → eb.toNat % elemBytes g = 0 → MayAccess s k false [(src, len.toNat)] → MayAccess s k true [(eb, n)] →
      free [] [] [m.ea, after m.ea, m.eb, m.ec] [] →
      issues (.cxfm w) [] [] [] (if n = 0 then [] else [.read src len.toNat false (.xfer x)])) ∧
    -- CPIN and CUNPIN: a retention register of the quad
    (∀ r : Fin 4, plain → m.cx.val = r.val → m.oc = 0 → m.ec = 0 → m.evf = false →
      (free [] [] [m.ea, m.eb] [] →
        (ea.toNat % 128 ≠ 0 → exec (.cpin w) s = .next (s.raise k 5 i.upc (.at .align ea))) ∧
        (ea.toNat % 128 = 0 → eb.toNat % 128 = 0 → leaseRange d k ea eb.toNat = none → ∃ x,
          exec (.cpin w) s = .next (issued (s.setQuad q x) k .c d (Flight.plain i.upc w.tok.pt) 0) ∧
          x = { s.quad q with pinb := x.pinb, pinl := x.pinl, pinPasid := x.pinPasid } ∧
          (∀ j : Fin 4, x.pinb[j] = (if j = r then (if eb = 0 then 0 else ea) else (s.quad q).pinb[j]) ∧
            x.pinl[j] = (if j = r then eb else (s.quad q).pinl[j]) ∧
            x.pinPasid[j] = (if j = r then (if eb = 0 then 0 else d.pasid) else (s.quad q).pinPasid[j])))) ∧
      (m.ea = 0 → m.eb = 0 → free [] [] [] [] → exec (.cunpin w) s = .next (issued (s.setQuad q { s.quad q with
        pinb := (s.quad q).pinb.set r 0, pinl := (s.quad q).pinl.set r 0, pinPasid := (s.quad q).pinPasid.set r 0 }) k .c d
          (Flight.plain i.upc w.tok.pt) 0))) ∧
    -- CPREF changes no value; CFLUSH is one request
    (plain → m.ec = 0 → m.evf = false → m.cx.val ≤ 1 → free [] [] [m.ea, m.eb] [] → issues (.cpref w) [] [] [] [] ∧
      (leaseRange d k ea eb.toNat = none →
        issues (.cflush w) [] [] [] (if eb = 0 then [] else [.flush ea eb.toNat (m.cx == 1)]))) ∧
    -- CMETA
    (∀ (t : Fin 48) (o : TileOp) (n row0 : Nat), m.fmt = 0 → m.dfmt = 0 → m.ec = 0 → m.nr = 0 → m.evf = false → o.tile = some t →
      n = eb.toNat % 2 ^ 32 → row0 = m.row.val + i.rowoff → row0 ≤ 127 → n ≠ 0 → n ≤ 16 * (128 - row0) → ea.toNat % 64 = 0 →
      (∃ va, spaceOf k ea = some (.virt va)) →
      (i.cdst w.ops.d .int32 = some o → m.cx = 0 → MayAccess s k false [(ea, 64 * n)] → free [] [t.val] [m.ea, m.eb] [] →
        issues (.cmetaRead w) [] [t.val] [] [.metaRead ea n t.val row0 o.sh.rows o.sh.cols m.zp]) ∧
      (i.rowOp 1 w.ops.s1 .int32 = some o → m.cx = 1 → m.zp = false → MayAccess s k true [(ea, 64 * n)] →
        free [t.val] [] [m.ea, m.eb] [] → issues (.cmetaWrite w) [t.val] [] [] [.metaWrite ea
          ((List.range n).map fun j => BitVec.ofNat 64 (elemOf (d.rowIn o (row0 + j / 16)) 64 (j % 16)))]))) ∧
  -- R299, R301, R341, R342: what the requests of flushes and of metadata do.
  (∀ (s u : State) (k : Fin 128) (idx : Nat) (a : ReqAt) (ea : W64) (flat n : Nat),
    -- the sectors of the range lie in device memory from `flat` on
    let sectors := (List.range n).map fun j => flat / 64 + j
    let width (j : Nat) : Nat := match u.mem.gradeAt ((flat / 64 + j) * 64) with
      | 0 => 56
      | 1 => 24
      | _ => 0
    (∀ (t : Fin 48) (row rows cols : Nat), Performs s k idx a (.metaRead ea n t.val row rows cols false) →
      EngineAt s k ea (64 * n) .read flat u → flat % 64 = 0 → row < 128 → n ≤ 16 * (128 - row) →
      (∀ p ∈ sectors, kmem u.mem.poison p = false) → ∃ c, exec (.copyDataReturn k.val idx) s = .next (performed (u.setCore k c) k a) ∧
        c = { u.core k with tiles := c.tiles } ∧
        ∀ (t' : Fin 48) (r b : Nat), r < 128 → b < 1024 → (c.rowBits t'.val r).testBit b =
          let j := 16 * (r - row) + b / 64
          if t' = t ∧ row ≤ r ∧ r ≤ rows ∧ j < n ∧ b / 32 ≤ cols then (u.mem.meta (flat / 64 + j)).testBit (b % 64)
          else ((u.core k).rowBits t'.val r).testBit b) ∧
    (∀ (vals : List W64), vals.length = n → Performs s k idx a (.metaWrite ea vals) → EngineAt s k ea (64 * n) .write flat u →
      flat % 64 = 0 → ∃ m, exec (.copyWriteAccept k.val idx) s = .next (performed (u.setMem m) k a) ∧ m = { u.mem with side := m.side } ∧
        (∀ j, j < n → m.meta (flat / 64 + j) = (nth 0 vals j).toNat % 2 ^ width j) ∧
        (∀ p, p ∉ sectors → m.meta p = u.mem.meta p)) ∧
    -- a flush changes no value
    (∀ inv ds, Performs s k idx a (.flush ea n inv) → s.virtual k ea.toNat n .none = .ok (ds, u) →
      exec (.copyWriteAccept k.val idx) s = .next (performed (u.setMem { u.mem with neve := (u.mem.flushNeve ds inv).neve }) k a)))

/-- R331 to R334: a chunk that CENC encodes, CDEC decodes to what it was, in time, and the coding never lengthens the payload. -/
def Obligations.CodecRoundTrip : Prop :=
  ∀ (chunk : List Byte) (last : Bool) (factor : Nat), chunk.length % 16 = 0 → 16 ≤ chunk.length → chunk.length ≤ 65536 → 4 ≤ factor →
    let e := encodeChunk chunk last
    let h := chunkHdr (e.take 16)
    e.length ≤ 16 + chunk.length ∧ h.inlen + 16 = e.length ∧ h.outlen = chunk.length ∧ h.cfl = (if last = true then 1 else 0) ∧
    headStatus h e.length chunk.length = 0 ∧ decodeChunk h factor (e.drop 16) = (chunk, 0)

/-- R168 to R171, R336 to R338: Firn. -/
def Obligations.FirnWords : Prop :=
  ∀ (s : State) (k : Fin 128) (st : Stage), s.stepStage k = some st →
    let own := (s.core k).disp
    let named (n : Nat) (x : Slot) : Prop :=
      x.stage = st.key ∧ x.tag = own.tag.toNat ∧ x.slot = n ∧ x.grank = own.grank.toNat
    (∀ (w : CgWord) (d : Core), Issues s k .c w.tok d →
      let i := engIssue s k .c d
      let m := w.mod
      let n := m.nr.val + 1
      let row0 := m.row.val + i.rowoff
      let field (r : Nat) (o : Opnd) (t : Option (Fin 48)) : Prop := match t with
        | some t => i.opnd r o = .ok ⟨.r, .tile t⟩
        | none => i.opnd r o = .ok ⟨.r, .tz⟩
      let plain : Prop := m.fmt = 0 ∧ m.oc = 0 ∧ m.evf = false ∧ m.ea = 0 ∧ m.eb = 0 ∧ m.cx.val ≤ 15
      -- CSTASH: the slot takes the rows, or is DROPPED where the reservation of its tag would be exceeded
      (∀ t : Option (Fin 48), field 1 w.ops.s1 t → plain → m.ec = 0 → m.zp = false → m.dfmt.val ≤ 2 → row0 + n ≤ 128 →
        NoHazard s k (t.map (·.val)).toList [] [] [] → unstashing d m.cx.val = false →
        let rows : List (List Byte) := (List.range n).map fun j => match t with
          | some t => d.tileBytes t.val (row0 + j) 0 128
          | none => List.replicate 128 0
        let held := ((s.stages.slots.filter fun x => x.stage == st.key && x.tag == own.tag.toNat).map Slot.bound).foldl (· + ·) 0
        ∃ x l, l = (s.stages.slots.filter fun x => !x.named st.key own.tag.toNat m.cx.val own.grank.toNat) ++ [x] ∧
          named m.cx.val x ∧ x.writer = some own.ctxid.toNat ∧
          (m.dfmt.val = 2 ∨ st.desc.resv < held + (128 * n + 64) → x.state = .dropped ∧ x.held.rows = []) ∧
          (¬ (m.dfmt.val = 2 ∨ st.desc.resv < held + (128 * n + 64)) →
            x.state = .writing ∧ x.newRows = rows ∧ x.toSpill = (m.dfmt.val == 1)) ∧
          exec (.cstash w) s = .next (issued (s.setStages { s.stages with slots := l }) k .c d
            { Flight.plain i.upc w.tok.pt with rd := (t.map (·.val)).toList } 0)) ∧
      -- CUNST asks Firn for a slot
      (∀ t : Fin 48, field 0 w.ops.d (some t) → plain → m.dfmt = 0 → row0 + n ≤ 128 → (shapeOf d.tshape[t]).isSome = true →
        NoHazard s k [] [t.val] [] [m.ec] → CopyIssues (.cunst w) s k w d d [] [t.val] [m.ec] 0 [.unstash m.cx.val t.val row0 n m.zp m.ec]) ∧
      -- CSDROP marks a slot that holds something
      (plain → m.dfmt = 0 → m.ec = 0 → m.zp = false → m.nr = 0 → m.row = 0 → NoHazard s k [] [] [] [] → unstashing d m.cx.val = false →
        ((∃ x, s.slotOf k m.cx.val = some x ∧ x.state ≠ .empty) → exec (.csdrop w) s = .next (issued (s.setStages { s.stages with
          marks := s.stages.marks ++ [⟨own.ctxid.toNat, st.key, own.tag.toNat, m.cx.val, own.grank.toNat⟩] }) k .c d
            (Flight.plain i.upc w.tok.pt) 0)) ∧
        ((∀ x, s.slotOf k m.cx.val = some x → x.state = .empty) →
          exec (.csdrop w) s = .next (issued s k .c d (Flight.plain i.upc w.tok.pt) 0)))) ∧
    -- Firn answers CUNST by the state of the slot
    (∀ (idx n row slot : Nat) (a : ReqAt) (t : Fin 48) (zp : Bool) (ec : Fin 32),
      Performs s k idx a (.unstash slot t.val row n zp ec) → row + n ≤ 128 →
      let go (x : State) : Prop := exec (.copyDataReturn k.val idx) s = .next x
      ((∀ x, s.slotOf k slot = some x → x.state = .empty) → go (s.raise k 5 a.flight.upc ⟨.stashGone, 0, BitVec.ofNat 64 slot⟩)) ∧
      (∀ x, s.slotOf k slot = some x → x.state = .writing → go s) ∧
      (∀ x, s.slotOf k slot = some x → x.state = .dropped →
        go (performed (s.setCore k { s.core k with e := (s.core k).e.set ec 1 }) k a)) ∧
      -- the rows come back from the pool that holds them; a poisoned one faults but under `.zp` (R169, R298, R301)
      (∀ x tr, s.slotOf k slot = some x → x.state ∈ [SlotState.kept, .spilled, .filling] → s.readSlot x = .error tr →
        go (s.raise k 5 a.flight.upc tr)) ∧
      (∀ x rows j p bad u, s.slotOf k slot = some x → x.state ∈ [SlotState.kept, .spilled, .filling] → zp = false → j < n →
        s.readSlot x = .ok (rows, (j, p) :: bad, u) → go (u.raise k 5 a.flight.upc (poisonTrap (BitVec.ofNat 64 (s.slotVa x)) p))) ∧
      (∀ x rows u, s.slotOf k slot = some x → x.state ∈ [SlotState.kept, .spilled, .filling] → s.readSlot x = .ok (rows, [], u) →
        (∀ bs ∈ rows, bs.length = 128) → ∃ c,
        go (performed (u.setCore k c) k a) ∧ c = { u.core k with tiles := c.tiles, e := (u.core k).e.set ec 0 } ∧
        ∀ (t' : Fin 48) (r j : Nat), r < 128 → j < 128 → c.tileByte t'.val r j =
          if t' = t ∧ row ≤ r ∧ r < row + n then
            (match rows[r - row]? with
            | some bs => nth 0 bs j
            | none => 0)
          else (u.core k).tileByte t'.val r j)) ∧
    -- Firn has stored a slot in the pool that its policy and the room in the pools give, or filled it
    (∀ (j : Nat) (x : Slot) (g : Stage) (h : Held) (u : State), s.stages.slots[j]? = some x → s.stageOf x.stage = some g →
      let used := poolRuns s.stages.slots x.stage
      let size := storedSize x.newRows
      let sp : Bool := if x.toSpill = true then runsLength used.2 + size ≤ g.desc.slen else g.desc.klen < runsLength used.1 + size
      (x.state = .writing → s.putRows s.stages.slots g sp x.newRows [] = .ok (h, u) → ∃ b,
        exec (.firnWriteDone j) s = .next (u.setStages { u.stages with slots := u.stages.slots.set j { x with
          state := if sp = true then .spilled else .kept, held := h, newRows := [], before := b } })) ∧
      (∀ rows bad v, x.state = .filling → s.readSlot x = .ok (rows, bad, u) →
        u.storeRows g.pasid g.desc.kpool x.held.keep rows (bad.map (·.1)) = .ok v →
        exec (.firnFillDone j) s = .next (v.setStages { v.stages with
          slots := v.stages.slots.set j { x with state := .kept, held := { x.held with rows := rows, spill := [] } } })) ∧
      (x.state ≠ .writing → exec (.firnWriteDone j) s = .next s) ∧ (x.state ≠ .filling → exec (.firnFillDone j) s = .next s))

/-- R361, R363, R365, R366, R368, R369, R373: issuing the words for batches, channels and collectives. -/
def Obligations.FabricWords : Prop :=
  ∀ (s : State) (k : Fin 128) (w : CgWord) (d : Core), Issues s k .c w.tok d →
    let i := engIssue s k .c d
    let m := w.mod
    let ch : Fin 32 := m.cx
    let x := s.chan ch
    let n := m.nr.val + 1
    let row0 := m.row.val + i.rowoff
    let ea := d.e[m.ea]
    let eb := d.e[m.eb]
    let closed (ins : Instr) : Prop := exec ins s = .next (s.raise k 5 i.upc ⟨.channel, 0, BitVec.ofNat 64 ch.val⟩)
    let field (r : Nat) (o : Opnd) (t : Option (Fin 48)) : Prop := match t with
      | some t => i.opnd r o = .ok ⟨.r, .tile t⟩
      | none => i.opnd r o = .ok ⟨.r, .tz⟩
    -- CSEND: the end is a sending one, OPEN, of the core's PASID, and the rows fit its slots
    (∀ t : Option (Fin 48), field 1 w.ops.s1 t → m.fmt = 0 → m.dfmt = 0 → m.evf = false → m.eb = 0 → m.ec = 0 → m.zp = false →
      row0 + n ≤ 128 → (∀ u, t = some u → (shapeOf d.tshape[u]).isSome = true) → NoHazard s k (t.map (·.val)).toList [] [m.ea] [] →
      (x.isSend = true → x.state = .opened → x.pasid = (s.core k).pasid → 128 * n ≤ x.slotBytes →
        CopyIssues (.csend w) s k w d d (t.map (·.val)).toList [] [] 0 [.send ch.val (ea.toNat % 65536)
          ((List.range n).map fun j => match t with
            | some t => d.tileBytes t.val (row0 + j) 0 128
            | none => List.replicate 128 0)]) ∧
      ((x.isSend = false ∨ x.state ≠ .opened ∨ x.pasid ≠ (s.core k).pasid) → closed (.csend w))) ∧
    -- CRECV: the end is a receiving one, not IDLE, of the core's PASID
    (∀ t : Fin 48, field 0 w.ops.d (some t) → m.fmt = 0 → m.evf = false → m.ea = 0 → m.eb = 0 → m.zp = false → m.dfmt.val ≤ 1 →
      row0 + n ≤ 128 → (shapeOf d.tshape[t]).isSome = true → NoHazard s k [] [t.val] [] [m.ec] →
      (x.isSend = false → x.state ≠ .idle → x.pasid = (s.core k).pasid → (m.dfmt = 1 → s.boundStage ch = none) →
        CopyIssues (.crecv w) s k w d d [] [t.val] [m.ec] 0 [.recv ch.val t.val row0 n (m.dfmt == 1) m.ec]) ∧
      ((x.isSend = true ∨ x.state = .idle ∨ x.pasid ≠ (s.core k).pasid) → closed (.crecv w))) ∧
    -- CCHST reads the state of an end into e[EC], once the messages of earlier words have been read (R318)
    (m.fmt = 0 → m.dfmt.val ≤ 3 → m.oc = 0 → m.evf = false → m.ea = 0 → m.nr = 0 → m.row = 0 → m.zp = false → receiving d m.cx.val = false →
      let room (y : ChEnd) : Nat := if y.isSend = true then y.window - (y.sseq - y.aseq).toNat
        else y.msgs.countP fun z => !z.held && !z.cancelled && !z.read
      let out (y : ChEnd) : Nat := if y.isSend = true then (y.sseq - y.aseq).toNat else y.msgs.countP fun z => z.read && !z.released
      let status (y : ChEnd) : W64 := BitVec.ofNat 64 ((match y.state with
          | .idle => 0
          | .opened => 1
          | .broken => 2) * 2 ^ 62 + (if y.isSend = true then 2 ^ 61 else 0) + room y % 256 * 2 ^ 40 + out y % 256 * 2 ^ 32 + y.aseq.toNat)
      (m.eb = 0 → NoHazard s k [] [] [] [m.ec] → exec (.cchstStat w) s =
        .next (issued s k .c { d with e := d.e.set m.ec (status x) } (Flight.plain i.upc w.tok.pt) 0)) ∧
      -- `.grant` releases the oldest e[EB] messages that were read and not released
      (x.isSend = false → s.boundStage ch = none → NoHazard s k [] [] [m.eb] [m.ec] →
        let g := eb.toNat % 128
        g ≠ 0 → g ≤ (x.rdseq - x.aseq).toNat → ∃ v, v = State.releaseOldest g (s.setCore k d) ch ∧ v.core k = d ∧
          exec (.cchstGrant w) s = .next (issued v k .c { d with e := d.e.set m.ec (status (v.chan ch)) } (Flight.plain i.upc w.tok.pt) 0))) ∧
    -- DFMT of a CCHST beyond 3 is ILLEGAL_OPERAND (R360)
    (3 < m.dfmt.val → NoHazard s k [] [] [m.eb] [m.ec] → receiving d m.cx.val = false →
      exec (.cchstStat w) s = .next (s.raise k 5 i.upc (.plain .illegalOperand)) ∧
      exec (.cchstGrant w) s = .next (s.raise k 5 i.upc (.plain .illegalOperand))) ∧
    -- CBAT: one request that carries every row
    (∀ (f : Fmt) (op : AtomicOp) (o ix : TileOp) (xs : List Int), fmtIn m.fmt.val [.int32, .fp32] = some f →
      batchOp (m.cx.val % 16) = some op → batchPair f op = true → i.rowOp 1 w.ops.s1 f = some o →
      i.tileOp 2 w.ops.s2 [.r] [.int32, .int16, .int8, .uint8] .int32 = some ix → m.dfmt = 0 → m.evf = false → m.zp = false → n ≤ 64 →
      row0 + n ≤ 128 → indexVals i ix n = some xs → ea.toNat % 4 = 0 → eb.toNat % 4 = 0 →
      NoHazard s k (o.deps ++ ix.deps) [] [m.ea, m.eb, m.ec] [] →
      let img := d.e[m.ec]
      let ret := m.cx.val / 16 = 1
      let place (r : Nat) : Option W64 := if nth 0 xs r < 0 then none else some (ea + BitVec.ofNat 64 (nth 0 xs r).toNat * eb)
      (ret → img.toNat % 128 = 0) →
      MayAccess s k true (((List.range n).filterMap fun r => (place r).map fun a => (a, 4 * (o.sh.cols + 1))) ++
        if ret then (List.range n).map fun r => (img + BitVec.ofNat 64 (128 * r), 4 * (o.sh.cols + 1)) else []) →
      CopyIssues (.cbat w) s k w d d (o.deps ++ ix.deps) [] [] 0 [.batch op
        ((List.range n).map fun r => (place r, (extentRow d o (row0 + r) (o.sh.cols + 1)).map (BitVec.ofNat 32)))
        (if ret then some img else none)]) ∧
    -- CRING and CREPART: the collective is one request
    (∀ (f g : Fmt) (cnt group : Nat), fmtIn m.fmt.val [.fp32, .bf16, .fp16, .int32] = some f →
      fmtIn m.dfmt.val [.fp32, .bf16, .fp16, .int32] = some g → m.evf = false → m.nr = 0 → m.row = 0 → m.zp = false →
      ea.toNat % elemBytes f = 0 → eb.toNat % elemBytes g = 0 → NoHazard s k [] [] [m.ea, m.eb, m.ec] [] →
      (d.e[m.ec]).toNat = cnt + group * 2 ^ 32 → 0 < cnt → cnt < 2 ^ 31 → group < 16 →
      MayAccess s k false [(ea, rowLen f cnt)] → MayAccess s k true [(eb, rowLen g cnt)] →
      let issues (ins : Instr) (op : Nat) : Prop := m.cx.val = op → (op = 2 → f = g) → (op ≠ 2 → f = .int32 → g = .int32) →
        (op ≠ 2 → f ≠ .int32 → g ≠ .int32) →
        CopyIssues ins s k w d d [] [] [] 0 [.ring op f g cnt ea eb group i.env.ftzn]
      issues (.cringSum w) 0 ∧ issues (.cringMax w) 1 ∧ issues (.cringBcast w) 2) ∧
    (m.fmt = 0 → m.dfmt = 0 → m.evf = false → m.eb = 0 → m.nr = 0 → m.row = 0 → m.zp = false → m.cx = 0 → ea.toNat % 64 = 0 →
      NoHazard s k [] [] [m.ea] [m.ec] → MayAccess s k false [(ea, 64)] →
      CopyIssues (.crepart w) s k w d d [] [] [m.ec] 0 [.drift ea m.ec])

/-- R113, R115 to R117, R122, R123, R126 to R128: queues. R125: unmasking an entry of the MSI-X table sends the message that is
pending. -/
def Obligations.QueueStepsAndInterrupts : Prop :=
  -- R113, R115 to R117, R122, R123, R126 to R128: queues.
  (∀ (s : State) (q : Nat), q < 4096 →
    let x := s.queue q
    -- a kick asks for a read of TAIL, or for one more; one of a queue that is off does nothing
    (x.en = true → x.waiting = [] →
      Goes (.kick q) s (s.setQueue q (if x.reading = true then { x with again := true } else { x with reading := true }))) ∧
    (x.en = false → Goes (.kick q) s s) ∧
    -- TAIL has been read: it is taken if it goes forward and no further than the ring
    (∀ (u : State) (flat : Nat), x.en = true → x.reading = true → OwnAt s x.pasid (x.qcb.toNat + 4) 4 .read flat u →
      let tail : W32 := BitVec.ofNat 32 (leNum (u.mem.read flat 4))
      let y := { x with reading := x.again, again := false }
      let legal : Prop := (tail - x.head).toNat ≤ x.qsize ∧ (tail - x.tail).toNat ≤ (tail - x.head).toNat
      (legal → Goes (.tailReadReturn q) s (u.setQueue q { y with tail := tail })) ∧
      (¬ legal → Goes (.tailReadReturn q) s (u.setQueue q { y with kickerr := true }))) ∧
    -- a failed access stops the queue
    (∀ e, x.en = true → x.reading = true → s.ownDests x.pasid (x.qcb.toNat + 4) 4 .read = .error e → ∃ t,
      Goes (.tailReadReturn q) s t ∧ (t.queue q).en = false ∧ (t.queue q).ringerr = true ∧
      ∀ n ∈ t.cmd.nodes, n.q = q → n.phase.dispatched = true ∧ n.orphan = true) ∧
    -- a record is entered: it becomes a node that waits for those of its predecessors that are not complete, and HEAD is written
    (∀ (u w : State) (flat f2 : Nat), x.en = true → x.head ≠ x.tail → x.waiting = [] →
      (s.cmd.nodes.filter fun n => n.q == q).length < 4096 → s.cmd.nodes.length < 65536 →
      OwnAt s x.pasid (x.qbase.toNat + 64 * (x.head.toNat % x.qsize)) 64 .read flat u →
      let v := leNum (u.mem.read flat 64)
      let npred := bitsNat v 24 8
      let pred (i : Nat) : Nat := bitsNat v (64 + 32 * i) 32
      let mine := (s.cmd.nodes.filter fun n => n.q == q && decide (n.idx < 2 ^ 32)).map (·.idx)
      let ps := ((List.range npred).map pred ++ (if bitsNat v 18 1 = 1 then mine else [])).eraseDups.filter fun i => mine.contains i
      let cmd : Cmd := ⟨bitsNat v 0 16, bitsNat v 16 1 == 1, bitsNat v 17 1 == 1, bitsNat v 192 64, bitsNat v 256 256⟩
      bitsNat v 32 32 = x.head.toNat → bitsNat v 0 16 ≤ 6 → bitsNat v 19 5 = 0 → npred ≤ 4 → payloadOk cmd.kind cmd.payload = true →
      (∀ i, i < 4 → npred ≤ i → pred i = 0) →
      (∀ i, i < npred → 1 ≤ (x.head - BitVec.ofNat 32 (pred i)).toNat ∧ (x.head - BitVec.ofNat 32 (pred i)).toNat ≤ 4096 ∧
        (pred i ∈ mine ∨ (pred i, 0) ∈ x.hist)) →
      (∀ h ∈ x.hist, h.2 = 0) →
      let n : Node := ⟨q, x.head.toNat, x.pasid, cmd, ps, if ps = [] then .due else .counting, none, [], .start, [], false, 0, 0, false, 0, .reset⟩
      let t := (u.setCmd { u.cmd with nodes := u.cmd.nodes ++ [n] }).setQueue q { x with head := x.head + 1 }
      OwnAt t x.pasid x.qcb.toNat 4 .write f2 w → Goes (.recordEnter q) s (wrote w f2 (leBytesOf 4 (x.head + 1).toNat))) ∧
    -- a node completes once its writes through remote pages are performed: it is gone, its successors wait for one node less, and those
    -- of a failed node fail too
    (∀ (n : Node) (e : Ending), s.node? q n.idx = some n → n.phase = .ended e → n.io.out ≠ [] → Goes (.nodeComplete q n.idx) s s) ∧
    (∀ (n : Node) (e : Ending), s.node? q n.idx = some n → n.phase = .ended e → n.io.out = [] → ∃ t, Goes (.nodeComplete q n.idx) s t ∧
      t.node? q n.idx = none ∧
      (e.status ≠ 0 → ∀ y ∈ t.cmd.nodes, y.q = q → n.idx ∉ y.preds) ∧
      (e.status = 0 → n.cmd.nocpl = true → t.cmd.nodes = (s.cmd.nodes.filter fun y => !y.is q n.idx).map fun y =>
        if y.q = q ∧ n.idx ∈ y.preds then
          let p := y.preds.filter (· != n.idx)
          { y with preds := p, phase := if p = [] ∧ y.phase = .counting then .due else y.phase }
        else y)) ∧
    -- its completion record is written where the ring has room, then CPLTAIL
    (∀ (n : Node) (e : Ending) (u v w : State) (f1 f2 f3 : Nat), s.node? q n.idx = some n → n.phase = .ended e → n.io.out = [] →
      n.idx < 2 ^ 32 → n.orphan = false → n.leased = false → (n.cmd.nocpl = false ∨ e.status ≠ 0) → (∀ y ∈ s.cmd.nodes, y.q = q → n.idx ∉ y.preds) →
      (∀ r ∈ s.cmd.reservations, r.who ≠ .node q n.idx) → (∀ g ∈ s.stages.list, ¬ (g.q = q ∧ g.idx = n.idx)) →
      x.waiting = [] →
      let c : Completion := ⟨n.idx, n.cmd.kind, e.status, n.cmd.userdata, n.ctxid, e.fcode, e.frec, n.tstart, s.time, e.flags,
        e.status != 0 || n.cmd.cplirq⟩
      let y := { x with hist := (n.idx, e.status) :: x.hist }
      let t := (s.setCmd { s.cmd with nodes := s.cmd.nodes.filter fun z => !z.is q n.idx }).setQueue q { y with waiting := [c] }
      OwnAt t x.pasid (x.qcb.toNat + 8) 4 .read f1 u →
      let used := (x.cpltail - BitVec.ofNat 32 (leNum (u.mem.read f1 4))).toNat
      (used = x.csize → Goes (.nodeComplete q n.idx) s (u.setQueue q { y with waiting := [c], cplRead := s.time })) ∧
      (used ≠ x.csize → OwnAt u x.pasid (x.cbase.toNat + 64 * (x.cpltail.toNat % x.csize)) 64 .write f2 v →
        OwnAt (wrote v f2 (c.bytes x.cpltail.toNat x.csize)) x.pasid (x.qcb.toNat + 12) 4 .write f3 w →
        let z := (wrote w f3 (leBytesOf 4 (x.cpltail + 1).toNat)).setQueue q { y with cpltail := x.cpltail + 1, waiting := [], cplRead := s.time }
        Goes (.nodeComplete q n.idx) s (if x.irqen = true ∧ c.irq = true then z.raiseMsix x.vec else z))) ∧
    -- while one waits, CPLHEAD is read again
    (∀ (c : Completion) (u v w : State) (f1 f2 f3 : Nat), x.waiting = [c] → OwnAt s x.pasid (x.qcb.toNat + 8) 4 .read f1 u →
      let used := (x.cpltail - BitVec.ofNat 32 (leNum (u.mem.read f1 4))).toNat
      (used = x.csize → Goes (.cplheadReread q) s (u.setQueue q { x with cplRead := s.time })) ∧
      (used ≠ x.csize → OwnAt u x.pasid (x.cbase.toNat + 64 * (x.cpltail.toNat % x.csize)) 64 .write f2 v →
        OwnAt (wrote v f2 (c.bytes x.cpltail.toNat x.csize)) x.pasid (x.qcb.toNat + 12) 4 .write f3 w →
        let z := (wrote w f3 (leBytesOf 4 (x.cpltail + 1).toNat)).setQueue q { x with cpltail := x.cpltail + 1, waiting := [], cplRead := s.time }
        Goes (.cplheadReread q) s (if x.irqen = true ∧ c.irq = true then z.raiseMsix x.vec else z))) ∧
    -- a queue is enabled with its indices at 0, or refused
    (x.en = false → s.mgmt.hostLoad = false → (∀ n ∈ s.cmd.nodes, n.q ≠ q) → (∀ i ∈ s.cmd.insts, ∀ k, i.node ≠ some (q, k)) →
      (∀ g ∈ s.stages.list, g.q ≠ q) → (∀ c ∈ s.fab.colls, ∀ k, c.node ≠ some (q, k)) →
      (∀ r ∈ s.fab.remote, ∀ k, r.who ≠ .node q k) → (∀ r ∈ s.cmd.frwait, ∀ k, r.who ≠ .node q k) →
      let bad : Prop := 10 < bitsNat x.qcfg.toNat 40 4 ∨ 10 < bitsNat x.qcfg.toNat 36 4 ∨ s.pasidEntry x.pasid = none ∨
        x.qbase.toNat % 4096 ≠ 0 ∨ x.qcb.toNat % 64 ≠ 0 ∨ x.cbase.toNat % 4096 ≠ 0
      let t := s.setQueue q { x with en := true, tail := 0, head := 0, cpltail := 0, reading := false, again := false, waiting := [], hist := [] }
      (bad → Goes (.queueEnable q) s (s.setQueue q { x with cfgerr := true })) ∧
      (∀ (u v : State) (f1 f2 : Nat), ¬ bad → OwnAt t x.pasid x.qcb.toNat 4 .write f1 u →
        OwnAt (wrote u f1 [0, 0, 0, 0]) x.pasid (x.qcb.toNat + 12) 4 .write f2 v →
        Goes (.queueEnable q) s (wrote v f2 [0, 0, 0, 0]))) ∧
    -- a queue is disabled: the nodes that have not been dispatched complete with ABORTED
    (x.en = true → ∃ t, Goes (.queueDisable q) s t ∧ (t.queue q).en = false ∧ (t.queue q).reading = false ∧
      (∀ n ∈ t.cmd.nodes, n.q = q → n.phase.dispatched = true) ∧
      ((∀ n ∈ s.cmd.nodes, n.q = q → n.phase.dispatched = true) →
        t = s.setQueue q { x with en := false, reading := false, again := false }))) ∧
  -- R125: unmasking an entry of the MSI-X table sends the message that is pending.
  (∀ (s : State) (v : Nat), v < 2048 →
    let w (d : Nat) : Nat := (sget (0 : W32) s.cmd.msix (v * 4 + d)).toNat
    let t := s.setCmd { s.cmd with unmasked := kadd v s.cmd.unmasked, pba := kdel v s.cmd.pba }
    (v ∉ s.cmd.pba → Goes (.msixUnmask v) s (s.setCmd { s.cmd with unmasked := kadd v s.cmd.unmasked })) ∧
    (s.cmd.msixOn = false ∨ s.cmd.msixMask = true → Goes (.msixUnmask v) s (s.setCmd { s.cmd with unmasked := kadd v s.cmd.unmasked })) ∧
    (v ∈ s.cmd.pba → s.cmd.msixOn = true → s.cmd.msixMask = false →
      Goes (.msixUnmask v) s (t.send (.interrupt (w 0 + w 1 * 2 ^ 32) (sget (0 : W32) s.cmd.msix (v * 4 + 2)).toNat))))

/-- R118, R119, R130 to R132, R149, R158: the commands of nodes. -/
def Obligations.NodeCommands : Prop :=
  ∀ (s u : State) (q idx : Nat) (n : Node) (flat : Nat), s.node? q idx = some n →
    let pasid := n.pasid
    let p := n.cmd.payload
    let addr := bitsNat p 0 64
    let due (kind : Nat) : Prop := n.cmd.kind = kind ∧ n.phase = .due
    let ends (t : State) (status : Nat) : State := t.completeNode q idx ⟨status, 0, 0, 0⟩
    let done (t : State) : State := t.setPhase q idx (.ended ⟨0, 0, 0, 0⟩)
    -- NOP
    (due 0 → Goes (.nop q idx) s (done s)) ∧
    -- SIGNAL stores VALUE, or adds it to the 64-bit word at ADDR; it needs both rights
    (due 5 → OwnAt s pasid addr 8 .both flat u →
      (bitsNat p 128 8 = 0 → Goes (.signal q idx) s (done (wrote u flat (leBytesOf 8 (bitsNat p 64 64))))) ∧
      (bitsNat p 128 8 = 1 → Goes (.signal q idx) s
        (done (wrote u flat (leBytesOf 8 (leNum (u.mem.read flat 8) + bitsNat p 64 64)))))) ∧
    (∀ e, due 5 → s.ownDests pasid addr 8 .both = .error e → Goes (.signal q idx) s (ends s 11)) ∧
    -- WAIT reads its word at once and then again and again, until the condition holds or TIMEOUT microseconds are over
    (let holds (v : Nat) : Prop := match bitsNat p 128 8 with
        | 0 => v = bitsNat p 64 64
        | 1 => bitsNat p 64 64 ≤ v
        | _ => v ≠ bitsNat p 64 64
      let reads (i : Instr) (t : State) : Prop :=
        (OwnAt t pasid addr 8 .read flat u →
          (holds (leNum (u.mem.read flat 8)) → Goes i s (done u)) ∧ (¬ holds (leNum (u.mem.read flat 8)) → Goes i s u)) ∧
        ∀ e, t.ownDests pasid addr 8 .read = .error e → Goes i s (ends t 11)
      (due 6 → reads (.wait q idx) (s.setPhase q idx (.polling s.time))) ∧
      (∀ t0, n.phase = .polling t0 → reads (.waitPoll q idx) s ∧
        (bitsNat p 160 32 ≠ 0 → t0 + bitsNat p 160 32 * 1000 ≤ s.time → Goes (.waitTimeout q idx) s (ends s 9)) ∧
        (bitsNat p 160 32 = 0 ∨ s.time < t0 + bitsNat p 160 32 * 1000 → Goes (.waitTimeout q idx) s s))) ∧
    -- TASK reads its record, and goes to its lease phase with the ranges that the record names
    (due 1 → addr % 256 ≠ 0 → Goes (.task q idx) s (ends s 6)) ∧
    (due 1 → addr % 256 = 0 → OwnAt s pasid addr 256 .read flat u →
      let v := leNum (u.mem.read flat 256)
      let at_ (off bits : Nat) : Nat := bitsNat v (8 * off) bits
      let bad (status : Nat) : Prop := Goes (.task q idx) s (ends u status)
      -- an address that no word or step can have, a kernel without work, a reserved bit, a gang of more than 128 cores
      ((∃ i, i < 18 ∧ at_ (8 * i) 64 % (if i < 9 then 4 else 16) ≠ 0) → bad 6) ∧
      (at_ 0x90 32 ≠ 0 → (∀ a, a < 6 → at_ (24 * a + 8) 64 = 0) → bad 6) ∧
      (at_ 0x94 16 / 8 ≠ 0 ∨ at_ 0x96 16 % 128 ≠ 0 ∨ 2 ^ 52 ≤ at_ 0x98 64 → bad 6) ∧
      (128 < gangSize (at_ 0x96 16 / 2 ^ 14) (at_ 0x96 16 / 2 ^ 7 % 2 ^ 7) → bad 6) ∧
      (∀ r, parseTask v none = some r →
        (∀ i, i < 18 → nth 0 r.agents i = w64 (at_ (8 * i) 64)) ∧ r.trip.toNat = at_ 0x90 32 ∧
        r.tripmem = (at_ 0x94 16 % 2 == 1) ∧ r.level = at_ 0x96 16 / 2 ^ 14 ∧ r.count = at_ 0x96 16 / 2 ^ 7 % 2 ^ 7 ∧
        r.leases = ((List.range 8).map fun i => at_ (0xC0 + 8 * i) 64).filterMap (fun e =>
          if e / 2 ^ 41 % 2 ^ 22 = 0 then none else some ⟨e % 2 ^ 41 * 65536, e / 2 ^ 41 % 2 ^ 22 * 65536, e / 2 ^ 63 == 1⟩) ∧
        let size := levelSize r.level
        let core0 := bitsNat p 64 16
        -- a gang that no placement can ever have is UNPLACEABLE
        (core0 ≠ 0xFFFF → (core0 % size ≠ 0 ∨ 128 < core0 + gangSize r.level r.count) → bad 12) ∧
        ((core0 = 0xFFFF ∨ core0 % size = 0 ∧ core0 + gangSize r.level r.count ≤ 128) →
          Goes (.task q idx) s (u.updNode q idx fun x =>
            { x with trec := some r, phase := .leasing, ranges := r.leases, walk := .start })))) ∧
    (∀ va, due 1 → addr % 256 = 0 → s.ownDests pasid addr 256 .read = .error (.missing va false) →
      Goes (.task q idx) s (s.nodeNotice q idx 3 pasid va (addr + 256 - va) true)) ∧
    -- STAGE reads its descriptor, its variants and their records
    (due 2 → addr % 256 ≠ 0 → Goes (.stage q idx) s (ends s 6)) ∧
    (due 2 → addr % 256 = 0 → OwnAt s pasid addr 256 .read flat u →
      let v := leNum (u.mem.read flat 256)
      (parseDesc v = none → Goes (.stage q idx) s (ends u 6)) ∧
      (∀ d gs vars l0 vs w, parseDesc v = some (d, gs, vars, l0) → u.variants pasid d.first d.wdefer d.nver l0 vars = .ok vs w →
        (∀ i j, i < j → j < vs.length → nth 0 (vs.map (·.foot)) i ≤ nth 0 (vs.map (·.foot)) j) →
        (∀ g ∈ gs, placements g.core0 g.level g.count ≠ []) → ∃ st,
          st.key = w.stages.next ∧ st.q = q ∧ st.idx = idx ∧ st.pasid = pasid ∧ st.prio = (s.queue q).prio ∧ st.desc = d ∧ st.variants = vs ∧ st.gangs = gs ∧
          st.armed = false ∧ st.newQ = [] ∧ st.fwdQ = [] ∧ st.bwdQ = [] ∧ st.wgtQ = [] ∧ st.tags = [] ∧ st.cur = 0 ∧
          Goes (.stage q idx) s ((w.setStages { w.stages with list := w.stages.list ++ [st], next := w.stages.next + 1 }).updNode q idx fun x =>
            { x with phase := .leasing, ranges := d.pinned, walk := .start }))) ∧
    -- XFORM
    (∀ a, n.cmd.kind = 3 → xformArgs p = some a → 0 < a.outLen → bitsNat p 128 32 ≠ 0 →
      (n.phase = .due → Goes (.xform q idx) s (s.updNode q idx fun x => { x with
        phase := .leasing, ranges := [⟨addr, bitsNat p 128 32, false⟩, ⟨bitsNat p 64 64, a.outLen, true⟩], walk := .start })) ∧
      -- it runs as soon as its source has come in, which is read from another package where it lies there
      (let runs (t : State) : Prop :=
        (∀ w, t.runXform (.node q idx) pasid n.ranges a = .ok (true, w) → Goes (.xform q idx) s (done w)) ∧
        (∀ w, t.runXform (.node q idx) pasid n.ranges a = .ok (false, w) → Goes (.xform q idx) s w) ∧
        (∀ x, t.runXform (.node q idx) pasid n.ranges a = .error x → Goes (.xform q idx) s (t.failNode q idx pasid x))
      (∀ t0, n.phase = .ready t0 → s.mgmt.pstate = .active →
        runs (s.updNode q idx fun x => { x with phase := .running, tstart := s.time })) ∧
      (n.phase = .running → runs s))) ∧
    (∀ t0, n.cmd.kind = 3 → n.phase = .ready t0 → s.mgmt.pstate = .active → xformArgs p = none → Goes (.xform q idx) s (ends s 3))

/-- R133, R135, R136, R309: the lease phase, and notices with their answers. R144, R145: invalidation of translations. -/
def Obligations.LeasesNoticesAndInvalidation : Prop :=
  -- R133, R135, R136, R309: the lease phase, and notices with their answers.
  (∀ (s u : State),
    -- the ranges of a node are translated unit by unit
    (∀ (q idx : Nat) (n : Node), s.node? q idx = some n → n.phase = .leasing →
      let pasid := n.pasid
      let walked := s.walkLease pasid n.walk (leaseUnits n.ranges)
      (∀ w, walked = .done w u → w.bad = none → u.leasesHeld < 4096 → Goes (.leasePhase q idx) s
        ((u.setMem (u.mem.pin w.pages)).updNode q idx fun x => { x with pins := w.pages, leased := true, phase := .ready s.time })) ∧
      (∀ w a, walked = .done w u → w.bad = some a → Goes (.leasePhase q idx) s (u.completeNode q idx ⟨8, 0, 0, 0⟩)) ∧
      (∀ w, walked = .done w u → w.bad = none → 4096 ≤ u.leasesHeld → Goes (.leasePhase q idx) s s) ∧
      (∀ w va len host, walked = .missing w va len host u → Goes (.leasePhase q idx) s
        ((u.updNode q idx fun x => { x with walk := w }).nodeNotice q idx (if host = true then 2 else 1) pasid va len false))) ∧
    -- a notice goes into the ring while there is room, is held back while there is none, and counts as FAIL while notices are off
    (∀ (q idx type pasid va len flat : Nat) (desc : Bool),
      let nid := s.cmd.nqtail
      let rec_ := leBytesOf 2 type ++ leBytesOf 2 0 ++ leBytesOf 4 pasid ++ leBytesOf 8 va ++ leBytesOf 8 len ++ leBytesOf 4 nid.toNat ++ leBytesOf 4 0
      let on : Prop := s.cmd.nqcfg.getLsbD 0 = true
      let full : Prop := 1024 ≤ (nid - s.cmd.nqhead).toNat
      (on → ¬ full → OwnAt s (s.cmd.nqcfg.toNat / 2 ^ 44) (s.cmd.nqbase.toNat + 32 * (nid.toNat % 1024)) 32 .write flat u →
        s.nodeNotice q idx type pasid va len desc =
          ((wrote u flat rec_).setCmd { u.cmd with nqtail := u.cmd.nqtail + 1 }).setPhase q idx (.notice nid.toNat desc)) ∧
      (on → full → s.nodeNotice q idx type pasid va len desc = s.setPhase q idx (.noticeHeld type va len desc)) ∧
      (¬ on → s.nodeNotice q idx type pasid va len desc = s.completeNode q idx ⟨if desc = true then 11 else 7, 0, 0, 0⟩)) ∧
    -- RETRY: translation goes on from VA, or the record is read again; FAIL: the node completes
    (∀ (n : Node) (nid : Nat) (desc : Bool), n ∈ s.cmd.nodes → n.phase = .notice nid desc →
      (∀ x ∈ s.cmd.nodes, x ≠ n → ∀ d, x.phase ≠ .notice nid d) →
      Goes (.noticeackRetry nid) s (s.setPhase n.q n.idx (if desc = true then .due else .leasing)) ∧
      Goes (.noticeackFail nid) s (s.completeNode n.q n.idx ⟨if desc = true then 11 else 7, 0, 0, 0⟩)) ∧
    -- a resume awaits its answer in the same way
    (∀ (i : Inst) (nid : Nat), s.cmd.insts.find? (fun x => x.state == .notice nid) = some i →
      (∀ x ∈ s.cmd.nodes, ∀ d, x.phase ≠ .notice nid d) →
      Goes (.noticeackRetry nid) s (s.updInst i.ctxid fun x => { x with state := .placed })) ∧
    -- NQCFG and NQHEAD: what waits is written as soon as it can be
    (∀ (v : W64) (h : W32),
      let cfg := (v &&& 0xFFFFF00000000001#64) ||| (s.cmd.nqcfg &&& 2 &&& ~~~v)
      let t := s.setCmd { s.cmd with nqcfg := cfg }
      let idle (x : State) : Prop := (∀ n ∈ x.cmd.nodes, ∀ ty va len d, n.phase ≠ .noticeHeld ty va len d) ∧
        (∀ i ∈ x.cmd.insts, ∀ ty va len, i.state ≠ .noticeHeld ty va len)
      (idle s → s.cmd.kept = [] → s.mem.pending = [] → Goes (.nqcfgWrite v) s t ∧
        Goes (.nqheadWrite h) s (s.setCmd { s.cmd with nqhead := h })) ∧
      (v.getLsbD 0 = false → (∀ i ∈ s.cmd.insts, ∀ ty va len, i.state ≠ .noticeHeld ty va len) → ∃ x, Goes (.nqcfgWrite v) s x ∧ x.cmd.nqcfg = cfg ∧ idle x) ∧
      -- the notice of a node that is held back is the first to go
      (∀ n q ty va len d flat, s.cmd.nodes.filter (fun x => match x.phase with
          | .noticeHeld .. => true
          | _ => false) = [n] → n.phase = .noticeHeld ty va len d → s.node? q n.idx = some n →
        (∀ i ∈ s.cmd.insts, ∀ ty va len, i.state ≠ .noticeHeld ty va len) → s.cmd.kept = [] → s.mem.pending = [] →
        s.cmd.nqcfg.getLsbD 0 = true → (s.cmd.nqtail - h).toNat < 1024 →
        OwnAt (s.setCmd { s.cmd with nqhead := h }) (s.cmd.nqcfg.toNat / 2 ^ 44) (s.cmd.nqbase.toNat + 32 * (s.cmd.nqtail.toNat % 1024)) 32 .write
          flat u → ∃ x, Goes (.nqheadWrite h) s x ∧
          x.mem.read flat 32 = leBytesOf 2 ty ++ leBytesOf 2 0 ++ leBytesOf 4 n.pasid ++ leBytesOf 8 va ++ leBytesOf 8 len ++
            leBytesOf 4 s.cmd.nqtail.toNat ++ leBytesOf 4 0 ∧
          x.cmd.nqtail = s.cmd.nqtail + 1 ∧ x.cmd.nqhead = h ∧ ∃ n', x.node? q n.idx = some n' ∧
            n' = { n with phase := .notice s.cmd.nqtail.toNat d }))) ∧
  -- R144, R145: invalidation of translations.
  (∀ (s : State) (v : W32),
    let m := s.mem
    let go := v.getLsbD 28
    let busy := m.tlbinvc.getLsbD 31
    -- TLBINVC starts an invalidation of one PASID: of all its translations, or of those of a range
    (go = true → busy = false → ∃ c, Goes (.tlbInvalidate v) s (s.setMem { m with
        tlbinvc := c, tlbRun := some (v.toNat % 2 ^ 20, v.getLsbD 29, m.tlbinva.toNat, m.tlbinvl.toNat) }) ∧
      c.getLsbD 31 = true ∧ c.getLsbD 28 = false ∧ c.getLsbD 30 = (m.tlbinvc.getLsbD 30 && !v.getLsbD 30) ∧
      c.toNat % 2 ^ 20 = v.toNat % 2 ^ 20) ∧
    -- one that is started during another is refused with ERR
    (go = true → busy = true → ∃ c, Goes (.tlbInvalidate v) s (s.setMem { m with tlbinvc := c }) ∧
      c.getLsbD 31 = true ∧ c.getLsbD 30 = true ∧ c.toNat % 2 ^ 20 = m.tlbinvc.toNat % 2 ^ 20) ∧
    -- it is not over while an access through a remote page that used an entry has not been performed
    (∀ pasid all base len r, m.tlbRun = some (pasid, all, base, len) → r ∈ s.fab.remote → r.pasid = pasid →
      (all = true ∨ r.ea.toNat < base + len ∧ base < r.ea.toNat + r.len) → Goes (.tlbInvalidateDone) s s) ∧
    -- once it is over, no entry that it names is left in the TLB of a core or of a quad
    (∀ pasid all base len, m.tlbRun = some (pasid, all, base, len) → (∀ r ∈ s.fab.remote, r.pasid ≠ pasid) →
      (∀ b ∈ s.fab.batches, (s.core (coreIx b.core)).pasid ≠ pasid) → ∃ t, Goes (.tlbInvalidateDone) s t ∧
      let left (e : TlbEntry) : Prop := e.pasid = pasid → all = false ∧ (base + len ≤ e.base ∨ e.base + 2 ^ e.log2 ≤ base)
      (∀ k e, e ∈ (t.core k).tlb ↔ e ∈ (s.core k).tlb ∧ left e) ∧ (∀ q e, e ∈ (t.quad q).tlb ↔ e ∈ (s.quad q).tlb ∧ left e) ∧
      (∀ e, e ∈ t.mem.atc ↔ e ∈ m.atc ∧ e.pasid ≠ pasid) ∧ t.mem.tlbRun = none ∧ t.mem.tlbinvc.getLsbD 31 = false ∧
      (∀ b, b < 31 → t.mem.tlbinvc.getLsbD b = m.tlbinvc.getLsbD b) ∧
      ((∀ k, (s.core k).dl1 = []) → t = { s with
        cores := t.cores, quads := t.quads, mem := { m with atc := t.mem.atc, tlbRun := none, tlbinvc := t.mem.tlbinvc } })) ∧
    -- the host takes back address translations; the answer goes out after it
    (∀ pasid va len, ∃ t, Goes (.atsInvalidate pasid va len) s (t.send (.atsDone pasid va len)) ∧
      (∀ e, e ∈ t.mem.atc ↔ e ∈ m.atc ∧ (e.pasid = pasid → va + len ≤ e.page * 65536 ∨ (e.page + 1) * 65536 ≤ va)) ∧
      ((∀ k, (s.core k).dl1 = []) → t = s.setMem { m with atc := t.mem.atc, atsEpoch := t.mem.atsEpoch })))

/-- R106, R298, R301, R432: device memory through BAR4. R109, R112, R125, R146, R298, R317, R357, R363, R378, R426: a register
takes what is written to it, but for its reserved and its read-only bits, and nothing else changes. -/
def Obligations.HostAccesses : Prop :=
  -- R106, R298, R301, R432: device memory through BAR4.
  (∀ (s : State) (off len : Nat) (data : List Byte), s.mgmt.hostLoad = false →
    let a := s.cmd.apbase.toNat + off
    -- only within the BAR as the host has sized it
    (2 ^ s.cmd.bar4 < off + len → Goes (.bar4Read off len) s s) ∧
    (2 ^ s.cmd.bar4 < off + data.length → Goes (.bar4Write off data) s s) ∧
    -- a read: bytes of a NONE region are all ones, and poison that is not in one marks the completion
    (off + len ≤ 2 ^ s.cmd.bar4 → ∃ bs bad, Goes (.bar4Read off len) s (s.send (.bar4Data bs bad)) ∧ bs.length = len ∧
      (∀ i, i < len → nth 0 bs i = if s.mem.gradeAt (a + i) = gradeNone then 0xFF else s.mem.byte (a + i)) ∧
      (bad = true ↔ ∃ p ∈ s.mem.poison, a < p * 64 + 64 ∧ p * 64 < a + len ∧ s.mem.gradeAt (p * 64) ≠ gradeNone)) ∧
    -- a write within one region of the tiers
    (off + data.length ≤ 2 ^ s.cmd.bar4 → a / 65536 = (a + data.length - 1) / 65536 → 0 < data.length →
      (s.mem.gradeAt a ≠ gradeNone → Goes (.bar4Write off data) s (wrote s a data)) ∧
      (s.mem.gradeAt a = gradeNone → Goes (.bar4Write off data) s s))) ∧
  -- R109, R112, R125, R146, R298, R317, R357, R363, R378, R426: a register takes what is written to it, but for its reserved and its read-only bits, and nothing else changes.
  (∀ (s : State) (v : W64), s.mgmt.hostLoad = false →
    let c := s.cmd
    let m := s.mem
    let g := s.mgmt
    let w32 : W32 := BitVec.ofNat 32 v.toNat
    let writes (off : Nat) (t : State) : Prop := Goes (.registerWrite off v) s t
    -- the command processor
    (writes 0x18 (s.setCmd { c with pasidtb := v }) ∧ writes 0x20 (s.setCmd { c with pasidsz := w32 }) ∧
      writes 0x28 (s.setCmd { c with apbase := v }) ∧ writes 0x40 (s.setCmd { c with nqbase := v }) ∧
      writes 0x70 (s.setMem { m with tlbinva := v }) ∧ writes 0x78 (s.setMem { m with tlbinvl := v }) ∧
      writes 0xB0000 (s.setCmd { c with frbase := v }) ∧ writes 0xB0040 (s.setCmd { c with ctxbase := v }) ∧
      (c.frwait = [] → writes 0xB0008 (s.setCmd { c with frcfg := v &&& 0xF1 })) ∧
      writes 0xB0020 (s.setCmd { c with wddef := w32 &&& 0x3FFF })) ∧
    -- the block of a queue: its rings and QCFG only while it is off
    (∀ q, q < 4096 →
      let x := s.queue q
      let at_ (o : Nat) : Nat := 0x10000 + 64 * q + o
      (x.en = false → writes (at_ 0) (s.setQueue q { x with qbase := v }) ∧ writes (at_ 8) (s.setQueue q { x with qcb := v }) ∧
        writes (at_ 0x10) (s.setQueue q { x with cbase := v }) ∧
        writes (at_ 0x18) (s.setQueue q { x with qcfg := v &&& 0xFFFFFFFFFFC00000#64 })) ∧
      (x.en = true → writes (at_ 0) s ∧ writes (at_ 8) s ∧ writes (at_ 0x10) s ∧ writes (at_ 0x18) s) ∧
      writes (at_ 0x24) (s.setQueue q { x with
        ringerr := x.ringerr && !v.getLsbD 4, cfgerr := x.cfgerr && !v.getLsbD 3, kickerr := x.kickerr && !v.getLsbD 2 })) ∧
    -- remote apertures and groups
    (∀ e, e < 64 → writes (0x100 + 32 * e + 8) (s.setCmd { c with apt := sset 0 c.apt (e * 4 + 1) (v &&& 0x0000FFFFFFFFFFFF#64) })) ∧
    (∀ e, e < 16 → v.getLsbD 63 = true →
      writes (0xA0000 + 64 * e) (s.setFab { s.fab with groups := sset 0 s.fab.groups (e * 8) (v &&& 0xC00FFFFFFFFFFF7F#64) })) ∧
    -- RBASE of a channel end is reserved at a sending one
    (∀ e : Fin 32, writes (0xA0400 + 64 * e.val + 8) (if (s.chan e).isSend = true then s
      else s.setChan e { s.chan e with w1 := v &&& 0x0000FFFFFFFFFFFF#64 })) ∧
    -- the memory side: the registers of a move only while none is under way
    ((m.tmcmd.getLsbD 62 = false → writes 0x90060 (s.setMem { m with tmsrc := v }) ∧ writes 0x90068 (s.setMem { m with tmdst := v }) ∧
        writes 0x90070 (s.setMem { m with tmlen := v })) ∧
      (m.tmcmd.getLsbD 62 = true → writes 0x90060 s ∧ writes 0x90068 s ∧ writes 0x90070 s) ∧
      writes 0x90200 (s.setMem { m with mevbase := v }) ∧ writes 0x90208 (s.setMem { m with mevcfg := v &&& 0xF1 }) ∧
      writes 0x90214 (s.setMem { m with mevhead := w32 }) ∧ writes 0x90218 (s.setMem { m with mevlost := 0 }) ∧
      writes 0x90280 (s.setMem { m with racth := w32 &&& 0xFFFF }) ∧
      (∀ t : Fin 3, writes (0x90108 + 0x20 * t.val) (s.setMem { m with thigh := m.thigh.set t v }) ∧
        writes (0x90110 + 0x20 * t.val) (s.setMem { m with tlow := m.tlow.set t v }))) ∧
    -- the management controller: THROT is cleared by writing ones
    (writes 0x80004 (s.setMgmt { g with plim := v.toNat % 2 ^ 16 }) ∧ writes 0x80060 (s.setMgmt { g with swth := w32 }) ∧
      writes 0x8000C (s.setMgmt { g with throt := g.throt &&& ~~~(BitVec.ofNat 3 v.toNat) }) ∧
      -- a write of FWCMD without GO sets CMD, also while BUSY
      (v.getLsbD 63 = false → writes 0x800C0 (s.setMgmt { g with fwcmd := v.toNat % 256 })) ∧
      (g.fwbusy = false → writes 0x800C8 (s.setMgmt { g with fwarg := v }) ∧ writes 0x800D0 (s.setMgmt { g with fwlen := v })) ∧
      (g.fwbusy = true → writes 0x800C8 s ∧ writes 0x800D0 s)) ∧
    -- what is read only or is not listed ignores a write
    (writes 0x0 s ∧ writes 0x8 s ∧ writes 0x14 s ∧ writes 0x80000 s ∧ writes 0x90000 s ∧ writes 0x90008 s ∧ writes 0xB0010 s) ∧
    -- a masked entry of the MSI-X table
    (∀ e, e < 2048 → v.getLsbD 0 = true →
      writes (0xD0000 + 16 * e + 12) (s.setCmd { c with unmasked := kdel e c.unmasked })))

/-- R70, R187, R392, R394: the parts of an instance on a core. -/
def Obligations.PartsOfInstances : Prop :=
  ∀ (s : State) (k : Fin 128) (i : Inst), s.instOf k = some i → (s.core k).fault = none →
    let c := s.core k
    let r := i.trec
    -- every agent that has the part starts at its address; its registers stay
    (c.seq = .ready → ∃ d, Goes (.partStart k.val) s (s.setCore k d) ∧ d.seq = .running s.time ∧
      (∀ x : CtxId, let a := nth 0 r.agents (3 * ctxAgent x + c.part.num)
        (d.ctx x).x = (c.ctx x).x ∧ (d.ctx x).p = (c.ctx x).p ∧
        (a ≠ 0 → (d.ctx x).pc = a ∧ (d.ctx x).run = .running) ∧ (a = 0 → (d.ctx x).run = .idle)) ∧
      (∀ e : Engine, let a := nth 0 r.agents (3 * engAgent e + c.part.num)
        (a ≠ 0 → (d.eng e).run = true ∧ (d.eng e).part = true ∧ (d.eng e).next = a) ∧ (a = 0 → d.eng e = c.eng e))) ∧
    (∀ since, c.seq = .running since →
      let ended : Prop := (∀ x : CtxId, (c.ctx x).run ≠ .running) ∧
        ∀ e : Engine, (c.eng e).run = false ∧ (c.eng e).forks = [] ∧ (c.eng e).flight = []
      let raises (t : Trap) (ins : Instr) : Prop := Goes ins s (s.raise k 7 0 t)
      (¬ ended → Goes (.rendezvous k.val) s s) ∧
      -- at the end of a part every token counter is to be zero
      (∀ n, n < 16 → ended → c.getTok (n / 4) (n % 4) ≠ 0 → (∀ m, m < n → c.getTok (m / 4) (m % 4) = 0) →
        raises ⟨.tokenResidue, 0, BitVec.ofNat 64 n⟩ (.rendezvous k.val)) ∧
      -- and the core goes on: prologue, TRIP iterations of the kernel, epilogue; it stops where a pre-emption is to stop it
      (ended → (∀ m, m < 16 → c.getTok (m / 4) (m % 4) = 0) → ∃ d, Goes (.rendezvous k.val) s (s.setCore k d) ∧
        (∀ x : CtxId, d.ctx x = { c.ctx x with run := .idle }) ∧ d.e = c.e ∧ d.tiles = c.tiles ∧ d.acc = c.acc ∧
        (c.part = .prologue → d.seq = .ready ∧ (i.trip = 0 → d.part = .epilogue) ∧
          (i.trip ≠ 0 → d.part = .kernel ∧ d.disp.iter = 0)) ∧
        (c.part = .kernel → let it := c.disp.iter.toNat
          (it + 1 < i.trip → d.part = .kernel ∧ d.disp.iter = BitVec.ofNat 32 (it + 1)) ∧
          (i.trip ≤ it + 1 → d.part = .epilogue ∧ d.disp.iter = BitVec.ofNat 32 i.trip) ∧
          d.seq = if i.state = .stopping it then .stopped since else .ready) ∧
        (c.part = .epilogue → d.seq = .complete)) ∧
      -- the watchdog
      (since + i.wdog * 1000 < s.time →
        raises ⟨.iterLong, 0, BitVec.ofNat 64 (c.unended + 256 * c.part.num)⟩ (.iterLong k.val)) ∧
      (s.time ≤ since + i.wdog * 1000 → Goes (.iterLong k.val) s s)) ∧
    -- it runs on while a core waits at the boundary of a pre-emption (R394)
    (∀ since, c.seq = .stopped since → since + i.wdog * 1000 < s.time →
      Goes (.iterLong k.val) s (s.raise k 7 0 ⟨.iterLong, 0, BitVec.ofNat 64 (c.unended + 256)⟩))

/-- R64, R149 to R153, R392, R393: placing, reserving, and pre-empting. -/
def Obligations.PlacingAndPreempting : Prop :=
  ∀ (s : State),
    -- what waits stands in the order of R151
    (∀ (i j : Nat) (a b : Cand), i < j → s.cands[i]? = some a → s.cands[j]? = some b → b.prio ≤ a.prio ∧
      (a.prio = b.prio → b.suspended = true → a.suspended = true ∧ a.since ≤ b.since)) ∧
    ((∀ c ∈ s.cands, ∀ b ∈ c.bases, s.fits c b = false) → Goes .placeNode s s) ∧
    -- the first that fits is placed, on the first of its placements that fits
    (∀ (before after : List Cand) (c : Cand) (bl br : List Nat) (base : Nat), s.cands = before ++ c :: after → (∀ x ∈ before, ∀ b ∈ x.bases, s.fits x b = false) →
      c.bases = bl ++ base :: br → (∀ b ∈ bl, s.fits c b = false) → s.fits c base = true → base + c.ncores ≤ 128 →
      -- a TASK node becomes a running instance with fresh cores
      (∀ (q idx : Nat) (x : Node) (r : TaskRec), c.who = .node q idx → s.node? q idx = some x → x.trec = some r → r.tripmem = false →
        (∀ j ∈ s.cmd.insts, j.ctxid ≠ s.cmd.nextCtx) → ∃ t i, Goes .placeNode s t ∧ t.cmd.insts = s.cmd.insts ++ [i] ∧
        i.ctxid = s.cmd.nextCtx ∧ i.pasid = x.pasid ∧ i.prio = (s.queue q).prio ∧ i.node = some (q, idx) ∧ i.stage = none ∧
        i.trec = r ∧ i.base = base ∧ i.ncores = c.ncores ∧ i.trip = r.trip.toNat ∧ i.ranges = x.ranges ∧ i.pins = x.pins ∧
        i.state = .running ∧ (∃ y, t.node? q idx = some y ∧ y = { x with
          phase := .running, leased := false, pins := [], ctxid := s.cmd.nextCtx, tstart := s.time }) ∧
        (∀ n, n < c.ncores → let d := t.core (coreIx (base + n))
          d.disp.grank = BitVec.ofNat 7 n ∧ d.disp.iter = 0 ∧ d.disp.trip = r.trip ∧ d.disp.ctxid = BitVec.ofNat 32 s.cmd.nextCtx ∧
          d.disp.gang = BitVec.ofNat 16 base ∧ d.disp.stage = 0xFFFF ∧ d.pasid = x.pasid ∧ d.ranges = x.ranges ∧
          d.inst = some s.cmd.nextCtx ∧ d.part = .prologue ∧ d.seq = .running s.time ∧ d.fault = none ∧ d.flags = 0 ∧ d.fcsr = 0 ∧
          (∀ z : CtxId, (∀ j, (d.ctx z).getX j = 0) ∧ (∀ j : Fin 8, j ≠ 0 → (d.ctx z).getP j = false) ∧
            ((nth 0 r.agents (3 * ctxAgent z)) ≠ 0 → (d.ctx z).pc = nth 0 r.agents (3 * ctxAgent z) ∧ (d.ctx z).run = .running)) ∧
          (∀ j : Fin 32, d.e[j] = 0) ∧ d.dl1 = []) ∧
        (∀ k : Fin 128, (k.val < base ∨ base + c.ncores ≤ k.val) → t.core k = s.core k)) ∧
      -- a suspended instance takes the cores
      (∀ (n : Nat) (i : Inst), c.who = .inst n → s.inst? n = some i → i.ctxid = n → ∃ t, Goes .placeNode s t ∧
        t.inst? n = some { i with base := base, stage := none, state := .placed, walk := .start })) ∧
    -- what has waited 1 ms reserves the first of the placements that it may take
    (∀ (j : Nat) (c : Cand) (b : Nat) (br : List Nat), s.cands[j]? = some c → c.wants = b :: br →
      (c.since + 1000000 ≤ s.time → (∀ r ∈ s.cmd.reservations, r.who ≠ c.who) → Goes (.placementReserve j) s
        (s.setCmd { s.cmd with reservations := s.cmd.reservations ++ [⟨c.who, c.prio, b, c.ncores⟩] })) ∧
      (s.time < c.since + 1000000 → Goes (.placementReserve j) s s)) ∧
    -- what is ready for 100 µs has work of lower priority stopped, at the iteration that the fastest of its cores is in
    (∀ (j : Nat) (c : Cand) (b : Nat) (br : List Nat) (i : Inst), s.cands[j]? = some c → c.suspended = false → c.bases = b :: br → c.since + 100000 ≤ s.time →
      reserved c b s.cmd.reservations = false → s.victims c b = some [i] → i.state = .running → s.inst? i.ctxid = some i →
      s.poolTakes i = true → i.trip ≠ 0 →
      (∀ k ∈ i.cores, (s.core k).part = .kernel ∧ ∃ since, (s.core k).seq = .running since) → ∃ t m, Goes (.preemptTimeout j) s t ∧
        (∀ k ∈ i.cores, (s.core k).disp.iter.toNat ≤ m) ∧ (i.ncores = 0 ∨ ∃ k ∈ i.cores, (s.core k).disp.iter.toNat = m) ∧
        t.inst? i.ctxid = some { i with state := .stopping m, slots := s.ctxFree.take i.ncores } ∧
        t.cmd.slotsUsed = s.cmd.slotsUsed ++ s.ctxFree.take i.ncores ∧ ∀ k, t.core k = s.core k) ∧
    (∀ (j : Nat) (c : Cand), s.cands[j]? = some c → s.time < c.since + 100000 → Goes (.preemptTimeout j) s s)

/-- R380 to R384, R395, R396, R399: how instances retire, are taken down by faults, are saved and resumed. R382: with FRHEAD
advanced, records that wait go into the fault ring. -/
def Obligations.InstancesEndAndRecords : Prop :=
  -- R380 to R384, R395, R396, R399: how instances retire, are taken down by faults, are saved and resumed.
  (∀ (s : State) (i : Inst), s.inst? i.ctxid = some i →
    let fresh (t : State) : Prop := ∀ k ∈ i.cores, t.core k = { Core.reset with il1 := (s.core k).il1 }
    let k := coreIx i.base
    let c := s.core k
    (∀ q idx n, i.node = some (q, idx) → i.stage = none → i.onCores = true → s.node? q idx = some n → n.orphan = false → idx < 2 ^ 32 →
      -- a completion of the queue waits already, so that this one waits too
      (s.queue q).waiting ≠ [] →
      -- every core is complete, and nothing of the instance is under way
      ((∀ k ∈ i.cores, (s.core k).seq = .complete ∧ (s.core k).fault = none) → s.remoteOut i.cores = false →
        (∀ x ∈ s.stages.slots, ¬ (x.writer = some i.ctxid ∧ x.state = .writing)) → n.cmd.nocpl = false → ∃ t fl,
        Goes (.retire i.ctxid) s t ∧ t.inst? i.ctxid = none ∧ fresh t ∧ t.node? q idx = none ∧
        (t.queue q).waiting = (s.queue q).waiting ++
          [⟨idx, n.cmd.kind, 0, n.cmd.userdata, n.ctxid, 0, 0, n.tstart, s.time, fl, n.cmd.cplirq⟩] ∧
        ∀ b, fl.getLsbD b = true ↔ ∃ k ∈ i.cores, (s.core k).flags.getLsbD b = true) ∧
      -- a fault: its record goes into the ring, and the node completes with FAULT
      (∀ f, i.ncores = 1 → c.fault = some f → s.cmd.frcfg.getLsbD 0 = true → bitsNat s.cmd.frcfg.toNat 4 4 ≤ 10 →
        let size := 2 ^ (bitsNat s.cmd.frcfg.toNat 4 4 + 6)
        let a := s.cmd.frbase.toNat + 64 * (s.cmd.frtail.toNat % size)
        (s.cmd.frtail - s.cmd.frhead).toNat ≠ size → s.cmd.frwait = [] → ∃ t more,
        Goes (.faultTeardown i.ctxid) s t ∧ t.inst? i.ctxid = none ∧ fresh t ∧ t.node? q idx = none ∧ t.cmd.frtail = s.cmd.frtail + 1 ∧
        t.mem.read a 64 = leBytesOf 1 f.trap.code.toNat ++ leBytesOf 1 f.agent ++ leBytesOf 2 (if i.resumed = true then 5 else 1) ++
          leBytesOf 4 i.ctxid ++ leBytesOf 8 (if f.agent ≤ 5 then f.loc.toNat else 0) ++ leBytesOf 8 f.trap.addr.toNat ++
          leBytesOf 4 i.pasid ++ leBytesOf 1 k.val ++ [0] ++ leBytesOf 2 f.stamp ++ leBytesOf 4 f.flags.toNat ++
          leBytesOf 4 f.iter.toNat ++ leBytesOf 2 c.disp.tag.toNat ++ leBytesOf 1 c.disp.phase.toNat ++
          leBytesOf 1 c.disp.wver.toNat ++ leBytesOf 2 c.disp.stage.toNat ++ leBytesOf 2 c.disp.gang.toNat ++ leBytesOf 8 f.time ++
          leBytesOf 8 f.trap.info.toNat ∧
        (t.queue q).waiting = (s.queue q).waiting ++
          ⟨idx, n.cmd.kind, 1, n.cmd.userdata, n.ctxid, f.trap.code.toNat, a, n.tstart, s.time, c.flags, true⟩ :: more)) ∧
    -- a gang of one core that has stopped is saved to its area, and its core is free
    (∀ b, i.ncores = 1 → i.state = .stopping b → c.isStopped = true → c.fault = none → s.remoteOut i.cores = false → c.dl1 = [] →
      let a := s.ctxAddr (nth 0 i.slots 0)
      ∃ t, Goes (.contextSave i.ctxid) s t ∧ fresh t ∧
        t.inst? i.ctxid = some { i with state := .suspended s.time, leased := false, pins := [] } ∧
        (∀ (x : CtxId) (r : Fin 32), t.mem.num (a + 0x200 + 0x100 * ctxAgent x + 8 * r.val) 8 = ((c.ctx x).getX r).toNat) ∧
        (∀ r : Fin 32, t.mem.num (a + 0x100 + 8 * r.val) 8 = c.e[r].toNat) ∧
        t.mem.num (a + 0x18) 4 = c.disp.iter.toNat ∧ t.mem.num (a + 0x20) 4 = c.fcsr.toNat ∧ t.mem.num (a + 0x24) 4 = c.flags.toNat ∧
        (∀ p n o, i.trec.liveTiles[p]? = some n → o < 16384 →
          t.mem.byte (a + 0x1000 + 0x4000 * p + o) = c.tileByte n (o / 128) (o % 128)) ∧
        (∀ p n o, i.trec.liveAccs[p]? = some n → o < 4096 →
          t.mem.num (a + 0x1000 + 0x4000 * (i.trec.liveTiles.length + p) + 4 * o) 4 = (sget (0 : W32) c.acc (n * 4096 + o)).toNat)) ∧
    -- and a placed step takes its state back and goes on where it stopped
    (i.ncores = 1 → i.state = .placed → i.stage ≠ none → i.trec.saves = [] → (s.quad (quadOf k)).lastPasid = some i.pasid →
      let a := s.ctxAddr (nth 0 i.slots 0)
      s.mem.poisonedAt a (areaSize i.trec (quadSaver i.base 0)) = none →
      ∃ t, Goes (.contextResume i.ctxid) s t ∧ t.inst? i.ctxid = some { i with state := .running, resumed := true, slots := [] } ∧
        let d := t.core k
        d.seq = .running s.time ∧ d.inst = some i.ctxid ∧ d.pasid = i.pasid ∧ d.ranges = i.ranges ∧ d.fault = none ∧
        (∀ (x : CtxId) (r : Fin 32), r ≠ 0 → ((d.ctx x).getX r).toNat = s.mem.num (a + 0x200 + 0x100 * ctxAgent x + 8 * r.val) 8) ∧
        (∀ r : Fin 32, d.e[r].toNat = s.mem.num (a + 0x100 + 8 * r.val) 8) ∧
        d.disp.iter.toNat = s.mem.num (a + 0x18) 4 ∧ d.fcsr.toNat = s.mem.num (a + 0x20) 4 &&& 0x37 ∧
        (∀ n ∈ s.cmd.slotsUsed, n ∈ t.cmd.slotsUsed ↔ n ∉ i.slots))) ∧
  -- R382: with FRHEAD advanced, records that wait go into the fault ring.
  (∀ (s : State) (v : W32),
    (s.cmd.frwait = [] → Goes (.frheadWrite v) s (s.setCmd { s.cmd with frhead := v })) ∧
    (∀ r i e q idx n, s.cmd.frwait = [r] → r.who = .inst i.ctxid → s.inst? i.ctxid = some i → i.ending = some e → i.node = some (q, idx) →
      s.node? q idx = some n → (s.queue q).waiting ≠ [] → r.bytes.length = 64 → s.cmd.frcfg.getLsbD 0 = true →
      bitsNat s.cmd.frcfg.toNat 4 4 ≤ 10 →
      let size := 2 ^ (bitsNat s.cmd.frcfg.toNat 4 4 + 6)
      (s.cmd.frtail - v).toNat ≠ size → ∃ t, Goes (.frheadWrite v) s t ∧ t.cmd.frhead = v ∧ t.cmd.frtail = s.cmd.frtail + 1 ∧
        t.cmd.frwait = [] ∧ t.inst? i.ctxid = none ∧ t.node? q idx = none ∧
        t.mem.read (s.cmd.frbase.toNat + 64 * (s.cmd.frtail.toNat % size)) 64 = r.bytes))

/-- R161 to R163, R176: the microbatch scheduler picks steps, and the members of a stage that spans packages work together. -/
def Obligations.SchedulerSteps : Prop :=
  ∀ (s : State) (st : Stage), s.stageOf st.key = some st → st.ending = none →
    let key := st.key
    let num := st.desc.num
    let spans : Prop := st.spans = true
    -- a step of the record `r` of gang `g` is the newest instance
    let started (t : State) (p : SpanPick) : Prop := ∃ i, t.cmd.insts = s.cmd.insts ++ [i] ∧ i.ctxid = s.cmd.nextCtx ∧
      i.stage = some (key, p.gang) ∧ i.node = none ∧ i.tag = p.tag ∧ i.phase = p.phase ∧ i.wver = p.wver ∧ i.var = p.var ∧
      i.run = p.run ∧ i.pasid = st.pasid ∧ i.state = .running ∧ ∃ r g, (st.variants[p.var]?).bind (fun v => v.recs[p.phase]?) = some r ∧
      st.gangs[p.gang]? = some g ∧ i.trec = { r with level := g.level, count := g.count } ∧ i.base = g.base
    let startable (p : SpanPick) (g : Gang) : Prop := st.gangs[p.gang]? = some g ∧ (∀ j ∈ s.cmd.insts, j.ctxid ≠ s.cmd.nextCtx) ∧
      ∃ r, ((st.variants[p.var]?).bind fun v => v.recs[p.phase]?) = some r ∧ r.tripmem = false
    (st.armed = true → ¬ spans → s.mgmt.pstate = .active → st.reissues = [] →
      (∀ i ∈ s.cmd.insts, ∀ g, i.stage = some (key, g) → ∀ t0, i.state ≠ .suspended t0) →
      ((s.freeGang st = none ∨ ∀ r ∈ st.rows, st.rowHolds r = false) →
        Goes (.mbsEvaluate key) s (s.updStage key fun x => { x with dirty := false })) ∧
      -- with a gang free: the first raised row that holds, else the first other that holds, and its oldest entry
      (∀ (l1 l2 : List PolicyRow) (r : PolicyRow) (e : Entry) (g : Gang), st.gangs = [g] → s.freeGang st = some 0 →
        st.rows = l1 ++ r :: l2 → st.rowHolds r = true →
        (st.raised s.time r = true → ∀ x ∈ l1, st.raised s.time x = true → st.rowHolds x = false) →
        (st.raised s.time r = false → (∀ x ∈ st.rows, st.raised s.time x = true → st.rowHolds x = false) ∧
          ∀ x ∈ l1, st.rowHolds x = false) →
        e ∈ st.eligible r.q → (∀ x ∈ st.eligible r.q, x ≠ e → e.time < x.time ∨ e.time = x.time ∧ e.tag < x.tag) →
        let mine := st.tags.find? fun t => t.tag == e.tag
        let ver := if r.adv = true ∨ st.desc.latest = true ∨ r.ph = 0 then st.cur else (mine.map (·.ver)).getD st.cur
        let var := if r.ph = 0 then st.current.1 else (mine.map (·.var)).getD 0
        let p : SpanPick := ⟨0, e.tag, r.ph, ver, var, 0, r.adv, sget 0 st.runs (tagKey e.tag r.ph) + 1⟩
        let q := st.queueOf r.ph
        startable p g → ∃ t x, Goes (.mbsEvaluate key) s t ∧
          (∀ j y, st.rows[j]? = some y → st.raised s.time y = true → Goes (.starveExpiry key j) s t) ∧
          started t p ∧ t.stageOf key = some x ∧ x.lastphase = some r.ph ∧
          x.entries q = (st.entries q).map (fun y => if y.tag = e.tag then { y with taken := true } else y) ∧
          x.tags = (if r.ph = 0 then st.tags ++ [⟨e.tag, false, true, var, ver⟩] else st.tags) ∧
          x.hold = (if st.desc.latest = true ∨ r.ph = 0 then st.hold.modify ver (· + 1) else st.hold) ∧
          x.adv = (if r.adv = true then some e.tag else st.adv))) ∧
    -- a row that is not raised changes nothing
    (∀ j y, st.rows[j]? = some y → st.raised s.time y = false → Goes (.starveExpiry key j) s s) ∧
    -- member 0 takes a report that was made for this incarnation of the package; another is answered by a reset NAK (R389)
    (∀ m inc fwd bwd retired free, spans → s.spanStage num = some st → s.member st = some 0 → 0 < m → m < st.desc.span.length →
      (inc = s.cmd.incarn → st.spanRetired = [] → Goes (.spanReportReceive num ⟨m, inc⟩ fwd bwd ⟨retired, []⟩ free) s
        (s.updStage key fun x => { x with
          dirty := true, reports := x.reports.filter (fun r => r.member != m) ++ [⟨m, fwd, bwd, retired, [], free⟩] })) ∧
      (∀ faulted, inc ≠ s.cmd.incarn → Goes (.spanReportReceive num ⟨m, inc⟩ fwd bwd ⟨retired, faulted⟩ free) s
        (s.send (.resetNak (nth 0 st.desc.span m) s.cmd.incarn)))) ∧
    -- another member takes a pick, with the bookkeeping of it
    (∀ inc gang tag phase wver var t adv j, spans → s.spanStage num = some st → s.member st = some j → j ≠ 0 → st.armed = true →
      (inc ≠ s.cmd.incarn → Goes (.spanPickReceive num inc gang tag ⟨phase, wver, var⟩ t adv) s
        (s.send (.resetNak (nth 0 st.desc.span 0) s.cmd.incarn))) ∧
      (inc = s.cmd.incarn → st.picks = [] → s.time < t → sget 0 st.runs (tagKey tag phase) = 0 →
        (∀ i ∈ s.cmd.insts, ∀ g, ¬ (i.stage = some (key, g) ∧ i.tag = tag ∧ i.phase = phase)) → ∃ u x,
        Goes (.spanPickReceive num inc gang tag ⟨phase, wver, var⟩ t adv) s u ∧ u = s.setStages { s.stages with list := u.stages.list } ∧
        u.stageOf key = some x ∧ x.picks = [⟨gang, tag, phase, wver, var, t, adv, 1⟩] ∧ x.lastphase = some phase ∧
        x.entries (st.queueOf phase) = (st.entries (st.queueOf phase)).map (fun e => if e.tag = tag then { e with taken := true } else e) ∧
        x.cur = (if phase = 0 ∨ st.desc.latest = true then wver else st.cur) ∧ x.adv = (if adv = true then some tag else st.adv))) ∧
    -- a pick starts at its time
    (∀ p g, st.picks = [p] →
      (p.start ≤ s.time → s.mgmt.pstate ≠ .parked → startable p g → g.bound = true →
        (∀ n, n < gangSize g.level g.count → s.quadHeld (g.base + n) = false) →
        (∀ i ∈ s.cmd.insts, ¬ (i.stage = some (key, p.gang) ∧ i.holdsCores = true)) → ∃ t x, Goes (.spanStartTime key) s t ∧ started t p ∧
          t.stageOf key = some x ∧ x = { st with picks := [] }) ∧
      -- not before, and not in PARKED (R429)
      (s.time < p.start ∨ s.mgmt.pstate = .parked → Goes (.spanStartTime key) s s)) ∧
    -- a member that is lost ends the stage: its record waits while the fault ring is full
    (∀ m pkg, spans → st.desc.span[m]? = some pkg → s.member st ≠ some m → s.cmd.frwait = [] → s.cmd.frcfg.getLsbD 0 = true →
      bitsNat s.cmd.frcfg.toNat 4 4 ≤ 10 → (s.cmd.frtail - s.cmd.frhead).toNat = 2 ^ (bitsNat s.cmd.frcfg.toNat 4 4 + 6) →
      ∃ t x r, Goes (.spanMemberLost key m) s t ∧ t.stageOf key = some x ∧
        x = { st with ending := some ⟨1, FCode.remoteLost.toNat, 0, 0⟩ } ∧ t.cmd = { s.cmd with frwait := [r] } ∧
        r.who = .stage key ∧ r.bytes.length = 64 ∧ r.bytes.take 4 = [BitVec.ofNat 8 FCode.remoteLost.toNat, 8, 1, 0] ∧
        r.bytes.drop 56 = leBytesOf 8 (BitVec.ofNat 64 (pkg * 2 ^ 32 + s.incOf pkg)).toNat)

/-- R293 to R295, R300, R302 to R305, R309: Neve, poison, the event log, the counters of rows, and those of regions. -/
def Obligations.MemoryEvents : Prop :=
  ∀ (s : State),
    let m := s.mem
    let on : Prop := m.mevcfg.getLsbD 0 = true ∧ 4 ≤ bitsNat m.mevcfg.toNat 4 4
    let logged (type src id addr : Nat) : List MemEvent := m.mevq ++ [⟨type, src, 1, id, addr, 0, s.time⟩]
    -- Neve: a line takes its place, with the sectors that it needs, and no value of memory changes
    (∀ pline line sectors coding, line * 128 < m.memcap → pline < 131072 → 1 ≤ sectors → sectors ≤ 4 → (coding = 0 ↔ sectors = 4) →
      let st := (m.homeAt (line * 128)).1
      let fresh : Prop := ∀ y ∈ m.neve, y.stack = st → y.line ≠ line ∧ y.pline ≠ pline
      let takes (x : NeveUse) (w : Bool) : Prop := ∃ n u c,
        Goes (.neveDisplace x pline sectors coding) s { s.setMem { m with neve := n, neveUse := u } with freeCtr := c } ∧
        (fresh → n = ⟨st, pline, line, sectors, w, coding⟩ :: m.neve ∧ u.head? = some (st, pline))
      -- a write of an engine may always take fewer than four, one of a task with permission; a read takes four
      takes (.engine line) true ∧ (coding = 0 → takes (.read line) false) ∧
      (∀ core may va, core < 128 → s.storeLine (coreIx core) va = some (line, may) → (may = true ∨ coding = 0 → takes (.store core va) true) ∧
        (may = false → coding ≠ 0 → Goes (.neveDisplace (.store core va) pline sectors coding) s s)) ∧
      -- a line that is there already is used, and stays as it is
      (∀ y, coding = 0 → m.neve.find? (fun y => y.stack == st && y.line == line) = some y → Goes (.neveDisplace (.read line) pline sectors coding) s
        (s.setMem { m with neveUse := (st, y.pline) :: m.neveUse.filter (· != (st, y.pline)) }))) ∧
    -- an error that the check cannot correct, or that finds a transfer wrong, poisons its sector and is an event
    (∀ (sector src core : Nat) (mismatch : Bool) (flips : List Nat),
      let found : Prop := ((m.eventAt sector).1 = src ∨ src = 10 ∧ mismatch = true) ∧
        (mismatch = true ∨ src = 11 ∨ src < 9 ∧ corrects (m.gradeAt (sector * 64)) flips = false)
      let id := if core < 128 ∧ (s.core (coreIx core)).inst ≠ none then (s.core (coreIx core)).disp.ctxid.toNat else 0
      (¬ found → Goes (.poisonDetect sector ⟨src, core, mismatch, flips⟩) s s) ∧
      (found → ∃ t, Goes (.poisonDetect sector ⟨src, core, mismatch, flips⟩) s t ∧
        t.cores = s.cores ∧ (∀ p, p ∈ t.mem.poison ↔ p = sector ∨ p ∈ m.poison) ∧
        (on → t.mem = { m with poison := t.mem.poison, mevq := logged (if mismatch = true then 5 else 1) src id (m.eventAt sector).2 }) ∧
        (¬ on → t.mem = { m with poison := t.mem.poison }))) ∧
    -- the oldest event is written as a record, or is lost
    (∀ e l, m.mevq = e :: l →
      let size := 2 ^ bitsNat m.mevcfg.toNat 4 4
      let a := m.mevbase.toNat + 32 * (m.mevtail.toNat % size)
      (¬ on → Goes .memoryEventRecord s (s.setMem { m with mevq := l })) ∧
      (on → (m.mevtail - m.mevhead).toNat = size → Goes .memoryEventRecord s (s.setMem { m with mevq := l, mevlost := m.mevlost + 1 })) ∧
      (on → (m.mevtail - m.mevhead).toNat ≠ size → ∃ n, Goes .memoryEventRecord s (s.setMem { n with mevtail := m.mevtail + 1, mevq := l }) ∧
        Wrote m n a (leBytesOf 1 e.type ++ leBytesOf 1 (e.src % 16) ++ leBytesOf 2 e.count ++ leBytesOf 4 e.ctxid ++ leBytesOf 8 e.addr ++
          leBytesOf 8 e.info.toNat ++ leBytesOf 8 e.time))) ∧
    -- a row's counter: reset by a failed check, at saturation and above RACTH, then increased
    (∀ row, let c := sget 0 m.rows row
      let at_ := m.eventAt (row / 64)
      let next : Nat := if c = 0xFFFF ∨ max 1 (m.racth.toNat % 2 ^ 16) ≤ c then 1 else c + 1
      (on → Goes (.rowActivation row true) s (s.setMem { m with rows := sset 0 m.rows row 1, mevq := logged 4 at_.1 0 at_.2 }) ∧
        (c = 0xFFFF → Goes (.rowActivation row false) s (s.setMem { m with rows := sset 0 m.rows row 1, mevq := logged 3 at_.1 0 at_.2 }))) ∧
      (¬ on → Goes (.rowActivation row true) s (s.setMem { m with rows := sset 0 m.rows row 1 })) ∧
      (c ≠ 0xFFFF ∨ ¬ on → Goes (.rowActivation row false) s (s.setMem { m with rows := sset 0 m.rows row next })) ∧
      Goes (.rowRefresh row) s (s.setMem { m with rows := sset 0 m.rows row 0 })) ∧
    -- the access counter of a region of LPDDR 6: below PROMTH it only counts; then its notice goes out, or the region is PENDING
    (∀ region, region < Config.lpddrBytes / 2 ^ 21 →
      let g := Config.lpddrBase / 2 ^ 21 + region
      let c := min 0xFFFF (sget 0 m.access g + 1)
      let n := { m with access := sset 0 m.access g c }
      (c < (m.promth[1]).toNat % 2 ^ 16 ∨ g ∈ m.queued ∨ g ∈ m.pending → Goes (.promoteCount 1 region) s (s.setMem n)) ∧
      ((m.promth[1]).toNat % 2 ^ 16 ≤ c → g ∉ m.queued → m.pending = [] → s.cmd.nqcfg.getLsbD 0 = true →
        ((s.cmd.nqtail - s.cmd.nqhead).toNat < 1024 → ∀ u f,
          OwnAt (s.setMem n) (s.cmd.nqcfg.toNat / 2 ^ 44) (s.cmd.nqbase.toNat + 32 * (s.cmd.nqtail.toNat % 1024)) 32 .write f u →
          ∃ t, Goes (.promoteCount 1 region) s t ∧ t.mem.queued = kadd g u.mem.queued ∧ t.cmd.nqtail = u.cmd.nqtail + 1 ∧
            t.mem.read f 32 = leBytesOf 2 0x12 ++ leBytesOf 2 0 ++ leBytesOf 4 0 ++ leBytesOf 8 (g * 2 ^ 21) ++ leBytesOf 8 c ++
              leBytesOf 4 s.cmd.nqtail.toNat ++ leBytesOf 4 0) ∧
        (1024 ≤ (s.cmd.nqtail - s.cmd.nqhead).toNat →
          Goes (.promoteCount 1 region) s (s.setMem { n with pending := [g], overflow := true })))) ∧
    -- a write of ACRESET clears the counter of its region, which may then give a notice again
    (∀ v : W64, v.getLsbD 63 = false → Config.lpddrBase ≤ v.toNat → v.toNat < Config.lpddrBase + Config.lpddrBytes →
      let g := v.toNat / 2 ^ 21
      Goes (.acreset v) s (s.setMem { m with
        access := sset 0 m.access g 0, queued := kdel g m.queued, pending := kdel g m.pending }))

/-- R297, R307, R308, R310, R317: the grades of regions, moves between tiers, and the notices of the watermarks. -/
def Obligations.GradesAndMoves : Prop :=
  ∀ (s : State),
    let m := s.mem
    let idle (x : W64) : Prop := x.getLsbD 62 = false
    -- RGCMD with GO
    (∀ v : W64, v.getLsbD 63 = true → idle m.rgcmd →
      let tier := bitsNat v.toNat 57 2
      let grade := bitsNat v.toNat 59 2
      let key := tier * 2 ^ 19 + v.toNat % 2 ^ 19
      let base := if tier = 0 then v.toNat % 2 ^ 19 * 2 ^ 21 else Config.lpddrBase + v.toNat % 2 ^ 19 * 2 ^ 21
      let refused : Prop := 1 < tier ∨ (tier = 0 ∧ 2 ^ 18 ≤ v.toNat % 2 ^ 19) ∨ m.calv ≠ .stable ∨
        (∃ p ∈ m.pins, p.1 * 65536 < base + 2 ^ 21 ∧ base < (p.1 + 1) * 65536) ∨ (tier = 0 ∧ m.memcap ≤ base ∧ grade ≠ 3)
      let fields : W64 := v &&& 0x1E0000000007FFFF
      let err : W64 := m.rgcmd &&& 0x2000000000000000 &&& ~~~v
      (refused → Goes (.rgcmd v) s (s.setMem { m with rgcmd := fields ||| 0x2000000000000000 })) ∧
      (¬ refused → ∃ t, Goes (.rgcmd v) s t ∧ t.mem.grades = sset 3 m.grades key grade ∧ t.mem.rgRun = some (key, grade) ∧
        t.mem.rgcmd = fields ||| 0x4000000000000000 ||| err ∧
        -- a region that is set to NONE loses its contents
        ∀ a, t.mem.byte a = if grade = 3 ∧ base ≤ a ∧ a < base + 2 ^ 21 then 0 else m.byte a)) ∧
    -- without GO its fields are set and ERR cleared; that a GO while BUSY leaves them alone too is log entry 87
    (∀ v : W64, v.getLsbD 63 = false → Goes (.rgcmd v) s (s.setMem { m with
      rgcmd := v &&& 0x1E0000000007FFFF ||| m.rgcmd &&& 0x4000000000000000 ||| m.rgcmd &&& 0x2000000000000000 &&& ~~~v })) ∧
    (∀ v : W64, v.getLsbD 63 = true → ¬ idle m.rgcmd → Goes (.rgcmd v) s s) ∧
    -- the region holds zeros, without poison and metadata, and BUSY is clear
    (∀ key grade, m.rgRun = some (key, grade) → ∃ n, Goes .rgcmdDone s (s.setMem n) ∧
      n = { m with cells := n.cells, poison := n.poison, side := n.side, rgRun := none, rgcmd := n.rgcmd } ∧
      (∀ b, n.rgcmd.getLsbD b = (m.rgcmd.getLsbD b && b != 62)) ∧
      (∀ a, n.byte a = if regionBase key ≤ a ∧ a < regionBase key + 2 ^ 21 then 0 else m.byte a) ∧
      (∀ p, p ∈ n.poison ↔ p ∈ m.poison ∧ ¬ (regionBase key ≤ p * 64 ∧ p * 64 < regionBase key + 2 ^ 21)) ∧
      (∀ p, regionBase key ≤ p * 64 → p * 64 < regionBase key + 2 ^ 21 → n.meta p = 0)) ∧
    -- TMCMD with GO: a pinned page refuses it, then a bad range, then a region of grade NONE
    (∀ v : W64, v.getLsbD 63 = true → idle m.tmcmd →
      let len := m.tmlen.toNat
      let dev (x : W64) : Prop := x.getLsbD 63 = false
      let pinned (x : W64) : Prop := dev x ∧ ∃ p ∈ m.pins, p.1 * 65536 < x.toNat + len ∧ x.toNat < (p.1 + 1) * 65536
      let ok (x : W64) : Prop := x.toNat % 65536 = 0 ∧ (¬ dev x → x.toNat % 2 ^ 63 + len ≤ 2 ^ 63) ∧
        (dev x → x.toNat + len ≤ m.memcap ∨ Config.lpddrBase ≤ x.toNat ∧ x.toNat + len ≤ Config.lpddrBase + Config.lpddrBytes)
      let none_ (x : W64) : Prop := dev x ∧ ∃ i, i < len / 65536 ∧ m.gradeAt (x.toNat + 65536 * i) = 3
      let status (n : W64) : Prop := Goes (.tmcmd v) s (s.setMem { m with tmcmd := n })
      (pinned m.tmsrc ∨ pinned m.tmdst → status 1) ∧
      (¬ (pinned m.tmsrc ∨ pinned m.tmdst) → len % 65536 ≠ 0 ∨ ¬ ok m.tmsrc ∨ ¬ ok m.tmdst → status 2) ∧
      (¬ (pinned m.tmsrc ∨ pinned m.tmdst) → len % 65536 = 0 → ok m.tmsrc → ok m.tmdst →
        (none_ m.tmsrc ∨ none_ m.tmdst → status 3) ∧ (¬ (none_ m.tmsrc ∨ none_ m.tmdst) → status 0x4000000000000000))) ∧
    -- a move within device memory: bytes and poison of the source stand at the destination too
    (¬ idle m.tmcmd → Memory.wf m.cells = true → m.tmsrc.getLsbD 63 = false → m.tmdst.getLsbD 63 = false → m.tmlen.toNat % 65536 = 0 →
      m.tmsrc.toNat % 65536 = 0 → m.tmdst.toNat % 65536 = 0 → ∃ n, Goes .tierMoveDone s (s.setMem n) ∧
        n = { m with cells := n.cells, poison := n.poison, side := n.side, tmcmd := 0 } ∧
        let src := m.tmsrc.toNat
        let dst := m.tmdst.toNat
        let into (a : Nat) : Prop := dst ≤ a ∧ a < dst + m.tmlen.toNat
        (∀ a, (into a → n.byte a = m.byte (a - dst + src)) ∧ (¬ into a → n.byte a = m.byte a)) ∧
        ∀ p, (into (p * 64) → (p ∈ n.poison ↔ p - dst / 64 + src / 64 ∈ m.poison)) ∧ (¬ into (p * 64) → (p ∈ n.poison ↔ p ∈ m.poison))) ∧
    -- a tier has gone above THIGH, or has come down to TLOW: its notice goes out, or is kept
    (∀ high tier v l, m.crossed = (high, tier, v) :: l →
      let i : Instr := if high = true then .tierHigh tier else .tierLow tier
      let t := s.setMem { m with crossed := l }
      let type := if high = true then 0x10 else 0x11
      (s.cmd.nqcfg.getLsbD 0 = false ∨ 1024 ≤ (s.cmd.nqtail - s.cmd.nqhead).toNat → Goes i s (t.setCmd { s.cmd with
        kept := s.cmd.kept.filter (fun x => !(x.type == type && x.va == tier)) ++ [⟨type, tier, v⟩] })) ∧
      (s.cmd.nqcfg.getLsbD 0 = true → (s.cmd.nqtail - s.cmd.nqhead).toNat < 1024 → ∀ u f,
        OwnAt t (s.cmd.nqcfg.toNat / 2 ^ 44) (s.cmd.nqbase.toNat + 32 * (s.cmd.nqtail.toNat % 1024)) 32 .write f u →
        Goes i s ((wrote u f (leBytesOf 2 type ++ leBytesOf 2 0 ++ leBytesOf 4 0 ++ leBytesOf 8 tier ++ leBytesOf 8 v ++
          leBytesOf 4 s.cmd.nqtail.toNat ++ leBytesOf 4 0)).setCmd { u.cmd with nqtail := u.cmd.nqtail + 1 })))

/-- R311 to R316: Calving retires a stack. -/
def Obligations.Calving : Prop :=
  ∀ (s : State),
    let m := s.mem
    let span := 2 ^ 36
    (∀ v : W64, v.getLsbD 63 = true →
      let x := v.toNat % 8
      let low := m.memcap - span
      let live := (List.range 8).filter fun n => m.live.getLsbD n
      let c1 : Prop := m.calv = .stable
      let c2 : Prop := m.live.getLsbD x = true
      let c3 : Prop := 2 ≤ live.length
      let c4 : Prop := ∀ p ∈ m.pins, ¬ (low < (p.1 + 1) * 65536 ∧ p.1 * 65536 < Config.lpddrBase)
      let c5 : Prop := ∀ g ∈ m.grades, ¬ (g.1 < 2 ^ 19 ∧ low ≤ g.1 * 2 ^ 21)
      let refuse (n : Nat) : Prop := Goes (.calvctlGo v) s (s.setMem { m with refuse := n, calvctl := BitVec.ofNat 64 x })
      -- a GO is refused for the first reason that applies; VICTIM is what was written
      (¬ c1 → refuse 1) ∧ (c1 → ¬ c2 → refuse 2) ∧ (c1 → c2 → ¬ c3 → refuse 3) ∧
      (c1 → c2 → c3 → ¬ c4 → refuse 4) ∧ (c1 → c2 → c3 → c4 → ¬ c5 → refuse 5) ∧
      -- or PREPARE begins: every slice that moves leaves the victim for a frame of a live stack that no mapped slice holds
      (c1 → c2 → c3 → c4 → c5 → m.memcap ≤ 2 ^ 39 → ∃ t, Goes (.calvctlGo v) s t ∧ t.mem = { m with
          refuse := 0, calvctl := BitVec.ofNat 64 x, victim := x, memcap := low, calv := .prepare, mphase := (m.mphase + 1) % 2 ^ 16, moves := t.mem.moves, cursor := 0 } ∧
        (∀ y ∈ t.mem.moves, (m.home y.slice).1 = x ∧ y.stack ∈ live ∧ y.stack ≠ x ∧ y.frame < 256 ∧
          ∀ b c, b < 256 → c < low / span → m.home (b * 8 + c) ≠ (y.stack, y.frame)) ∧
        t.mem.moves.Pairwise fun a b => a.slice ≠ b.slice ∧ (a.stack, a.frame) ≠ (b.stack, b.frame))) ∧
    (∀ v : W64, v.getLsbD 63 = false → Goes (.calvctlGo v) s (s.setMem { m with calvctl := BitVec.ofNat 64 (v.toNat % 8) })) ∧
    -- the map is loaded
    (m.calv = .prepare → Goes .calvMapLoaded s (s.setMem { m with calv := .move })) ∧
    -- a line is copied: no value changes, and it is dirty in the Neve of its new home; after its last line a slice is at home
    (∀ x l, m.calv = .move → m.moves = x :: l →
      let a := lineAddr x.slice m.cursor
      let goes (bad : Bool) (f : MemSide → MemSide) (more : MemSide → Prop) : Prop := ∃ n c,
        Goes (.calvLineCopy bad) s { s.setMem n with freeCtr := c } ∧ n = f { m with neve := n.neve, neveUse := n.neveUse } ∧ more n ∧
        ((∀ y ∈ m.neve, y.stack ≠ x.stack) → ∃ y ∈ n.neve, y.stack = x.stack ∧ y.line = a / 128 ∧ y.dirty = true) ∧
        ∀ y ∈ n.neve, y.line = a / 128 → y.stack = x.stack
      (x.slice < 2048 → m.cursor < 2 ^ 21 → sliceOf a = x.slice ∧ ∀ n, n < m.cursor → lineAddr x.slice n < a) ∧
      (m.cursor + 1 ≠ 2 ^ 21 → goes false (fun n => { n with cursor := m.cursor + 1 }) fun _ => True) ∧
      (m.cursor + 1 = 2 ^ 21 → ∃ y, goes false (fun n => { n with slices := y, moves := l, cursor := 0 }) fun n =>
        n.home x.slice = (x.stack, x.frame) ∧ ∀ y, y ≠ x.slice → n.home y = m.home y) ∧
      -- one that cannot be corrected is poisoned
      (m.cursor + 1 ≠ 2 ^ 21 → m.mevcfg.getLsbD 0 = true → 4 ≤ bitsNat m.mevcfg.toNat 4 4 → ∃ ps, goes true (fun n =>
        { n with poison := ps, cursor := m.cursor + 1, mevq := m.mevq ++ [⟨6, (m.home x.slice).1, 1, 0, a, 0, s.time⟩] }) fun _ =>
        ∀ p, p ∈ ps ↔ p ∈ m.poison ∨ p = a / 64 ∨ p = a / 64 + 1)) ∧
    -- what is left in the victim's Neve is written back
    (m.calv = .move → m.moves = [] → Goes .calvMoveDone s (s.setMem { m with
      calv := .settle, neve := m.neve.filter fun y => y.stack != m.victim })) ∧
    (m.calv = .move → m.moves ≠ [] → Goes .calvMoveDone s s) ∧
    -- once the requests of the phase before are complete, the stack is powered down
    (m.calv = .settle → s.stamped ((m.mphase + 2 ^ 16 - 1) % 2 ^ 16) = true → Goes .calvSettleDone s s) ∧
    (m.calv = .settle → s.stamped ((m.mphase + 2 ^ 16 - 1) % 2 ^ 16) = false → s.cmd.nqcfg.getLsbD 0 = false → ∃ t, Goes .calvSettleDone s t ∧
      let x := m.victim
      t.mem = { m with calv := .stable, live := t.mem.live } ∧
      (∀ b, b < 8 → t.mem.live.getLsbD b = (m.live.getLsbD b && b != x) ∧
        t.mgmt.retired.getLsbD b = (s.mgmt.retired.getLsbD b || b == x)) ∧ ⟨0x14, x, m.memcap⟩ ∈ t.cmd.kept) ∧
    -- a request from more than two phases ago faults
    (∀ (k : Fin 128) (agent addr stamp : Nat),
      let age := (m.mphase + 2 ^ 16 - stamp % 2 ^ 16) % 2 ^ 16
      let late (f : Flight) : Prop := ∃ r ∈ f.reqs, r.stamp = stamp ∧ r.kind.address = BitVec.ofNat 64 addr
      (age ≤ 2 ∨ (∀ f ∈ (s.eng k .c).flight, ¬ late f) → Goes (.phase k.val agent addr stamp) s s) ∧
      (2 < age → (∃ f ∈ (s.eng k .c).flight, late f) → (s.core k).inst ≠ none → (s.core k).fault = none →
        ∃ t f, Goes (.phase k.val 5 addr stamp) s t ∧ (t.core k).fault = some f ∧
          f.trap = ⟨.phase, BitVec.ofNat 64 addr, BitVec.ofNat 64 m.mphase⟩ ∧ f.agent = 5 ∧ f.stamp = stamp % 2 ^ 16 ∧
          f.time = s.time ∧ ∀ j, j ≠ k → t.core j = s.core j))

/-- R363 to R367, R389, R391: the ends of channels. -/
def Obligations.ChannelEnds : Prop :=
  ∀ (s : State) (c : Fin 32) (src srcCh n tag : Nat) (rows : List (List Byte)) (held : Bool) (w0 : W64),
    let x := s.chan c
    let now := s.cmd.incarn
    -- the two ends agree: `w0` is word 0 of the sending one
    let y : ChEnd := { x with w0 := w0 }
    let agree : Prop := y.isSend = true ∧ x.isSend = false ∧ y.pasid = x.pasid ∧ y.slotBytes = x.slotBytes ∧ y.window = x.window ∧
      x.peer = src ∧ x.pch = srcCh ∧ y.peer = s.pkg ∧ y.pch = c.val
    let free : Prop := s.boundStage c = none
    -- word 0 opens an end with its counts at 0, or closes it
    (w0.getLsbD 63 = true → Goes (.channelEndOpen c.val w0) s (s.setChan c { x with
      w0 := w0 &&& 0xC00FFFFFFFFFFFF0, state := .opened, sseq := 0, aseq := 0, rdseq := 0, msgs := [], sent := [] })) ∧
    (w0.getLsbD 63 = false → Goes (.channelEndClose c.val w0) s (s.setChan c { x with w0 := w0 &&& 0xC00FFFFFFFFFFFF0, state := .idle })) ∧
    -- R389: what was made for another incarnation of this package is answered by a reset NAK
    (∀ inc cancel, inc ≠ now → Goes (.messageDelivered c.val src ⟨srcCh, inc, w0⟩ n tag rows held cancel) s (s.send (.resetNak src now))) ∧
    -- a message comes in: its rows go to its slot and its delivery is confirmed; one that is held does not count yet
    (x.state = .opened → agree → free → x.msgs = [] → x.sseq = x.aseq → n = x.aseq.toNat →
      rows ≠ [] → 128 * rows.length ≤ x.slotBytes → (∀ r ∈ rows, r.length = 128) →
      Goes (.messageDelivered c.val src ⟨srcCh, now, w0⟩ n tag rows held false) s
        (((wrote s (x.rbase + n % x.window * x.slotBytes) rows.flatten).setChan c { x with
          msgs := [⟨n, tag, rows.length, held, false, false, false⟩]
          sseq := if held = true then x.sseq else x.sseq + 1 }).send (.confirm src srcCh n))) ∧
    -- an end that is not OPEN refuses it; where the ends disagree, the end is BROKEN too
    ((∀ m ∈ x.msgs, m.n ≠ n) →
      (x.state ≠ .opened → Goes (.messageDelivered c.val src ⟨srcCh, now, w0⟩ n tag rows held false) s (s.send (.refusal src srcCh n))) ∧
      (x.state = .opened → ¬ agree → free →
        (∀ k : Fin 128, ∀ f ∈ (s.eng k .c).flight, ∀ j, f.wait ≠ .message c.val j) →
        Goes (.messageDelivered c.val src ⟨srcCh, now, w0⟩ n tag rows held false) s
          ((s.setChan c { x with state := .broken }).send (.refusal src srcCh n)))) ∧
    -- a held message is committed, or cancelled: then it counts as read and released
    (∀ m, x.msgs = [m] → m.n = n → m.held = true → m.released = false → x.peer = src → x.pch = srcCh → n = x.aseq.toNat →
      x.sseq = x.aseq → free →
      Goes (.messageDelivered c.val src ⟨srcCh, now, w0⟩ n tag [] false false) s
        (s.setChan c { x with msgs := [{ m with held := false }], sseq := x.sseq + 1 }) ∧
      (x.rdseq = x.aseq → Goes (.messageDelivered c.val src ⟨srcCh, now, w0⟩ n tag [] false true) s
        ((s.setChan c { x with msgs := [], sseq := x.sseq + 1, aseq := x.aseq + 1, rdseq := x.aseq + 1 }).send
          (.ack src srcCh (x.aseq + 1).toNat)))) ∧
    -- the confirmation completes the CSEND
    (∀ m, x.sent = [m] → m.n = n → m.confirmed = false →
      let k := coreIx m.core
      Goes (.messageConfirm c.val n) s ((s.setChan c { x with sent := if m.held = true then [{ m with confirmed := true }] else [] }).setEng k .c
        { s.eng k .c with flight := (s.eng k .c).flight.map fun f => if f.wait = .message c.val n then { f with wait := .none } else f })) ∧
    -- the sender learns how far its messages are released
    (∀ a : W32, x.isSend = true →
      ((a - x.aseq).toNat ≤ (x.sseq - x.aseq).toNat → Goes (.ackReceive c.val a.toNat) s (s.setChan c { x with aseq := a })) ∧
      ((x.sseq - x.aseq).toNat < (a - x.aseq).toNat → Goes (.ackReceive c.val a.toNat) s s)) ∧
    -- a channel breaks: the words that wait for a confirmation fault
    (x.state = .opened → free → ∃ t, Goes (.channelBroken c.val) s t ∧ t.chan c = { x with state := .broken } ∧
      (∀ k : Fin 128, (s.core k).fault = none → (∃ f ∈ (s.eng k .c).flight, ∃ j, f.wait = .message c.val j) →
        ∃ g, (t.core k).fault = some g ∧ g.trap = ⟨.channel, 0, BitVec.ofNat 64 c.val⟩ ∧ g.agent = 5) ∧
      ∀ k : Fin 128, (∀ f ∈ (s.eng k .c).flight, ∀ j, f.wait ≠ .message c.val j) → t.core k = s.core k) ∧
    (x.state ≠ .opened → Goes (.channelBroken c.val) s s)

/-- R147, R298, R301, R353, R361, R362, R364, R385, R389, R390: requests and batches between packages, and the losses of peers. -/
def Obligations.RequestsBetweenPackages : Prop :=
  ∀ (s : State) (src inc id addr : Nat),
    let now := s.cmd.incarn
    -- a batch: refused for another incarnation, answered again where it has been applied, else applied once
    (∀ op rows, inc ≠ now → Goes (.batchReceive src inc id op rows) s (s.send (.resetNak src now))) ∧
    (∀ op rows reply, s.fab.replay.find? (fun r => r.src == src && r.id == id) = some ⟨src, id, reply⟩ →
      Goes (.batchReceive src now id op rows) s (s.send (.batchReply src id reply))) ∧
    (∀ op (e : W32), (∀ r ∈ s.fab.replay, ¬ (r.src = src ∧ r.id = id)) →
      (s.mem.gradeAt addr = 3 → Goes (.batchReceive src now id op [⟨addr, [e]⟩]) s (s.send (.remoteRefused src addr))) ∧
      (s.mem.gradeAt addr ≠ 3 → s.mem.poisonedAt addr 4 = none →
        let old := s.mem.num addr 4
        let reply : List (List W32) := [[BitVec.ofNat 32 old]]
        Goes (.batchReceive src now id op [⟨addr, [e]⟩]) s (((wrote s addr (leBytesOf 4 (atomicOp op 32 old e.toNat 0))).setFab { s.fab with
          replay := s.fab.replay.filter (fun r => !(r.src == src && r.id % 256 == id % 256)) ++ [⟨src, id, reply⟩] }).send
            (.batchReply src id reply)))) ∧
    -- the reply ends the word's wait: the old values are to be written to its return image, or a poisoned sector faults it
    (∀ (b : Batch) (old : List (List W32)), s.fab.parked = [] → s.fab.batches.find? (fun x => x.target == src && x.id == id) = some b →
      let k := coreIx b.core
      let t := s.setFab { s.fab with batches := s.fab.batches.filter fun x => x.serial != b.serial }
      let ends (reqs : List Req) : State :=
        let after (f : Flight) : Flight := if f.wait = .batch src id then { f with wait := .none, reqs := f.reqs ++ reqs } else f
        t.setEng k .c { s.eng k .c with flight := (s.eng k .c).flight.map after }
      (old.length < b.rows.length → ∃ i, Goes (.batchReply src id old) s (t.raise k 5 b.upc ⟨.uncorrectable, b.ea, i⟩)) ∧
      (b.rows.length ≤ old.length → b.ret = none → Goes (.batchReply src id old) s (ends [])) ∧
      (∀ img, b.rows.length ≤ old.length → b.ret = some img → b.parts = List.replicate old.length 1 → Goes (.batchReply src id old) s
        (ends ((List.range old.length).map fun j => s.newReq b.cls
          (.write (img + BitVec.ofNat 64 (128 * j)) ((nth [] old j).flatMap fun v => leBytesOf 4 v.toNat) [])))) ∧
      -- without a reply for 5 µs it is sent again; R390: while its port is down, with FALLBACK the opposite one too, it waits
      (b.last + 5000 ≤ s.time →
        let due := s.setFab { s.fab with batches := s.fab.batches.map fun x => if x.serial = b.serial then { x with last := s.time } else x }
        let p := s.outPort src
        let open_ : Prop := src = s.pkg ∨ p ∉ s.fab.portsDown ∨ s.coreFalls k = true ∧ oppositePort p ∉ s.fab.portsDown
        (open_ → Goes (.batchResend src id) s (due.send (.batch src b.inc id b.op b.rows))) ∧
        (¬ open_ → Goes (.batchResend src id) s (due.setFab { due.fab with
          parked := [(src, s.coreFalls k, .batch src b.inc id b.op b.rows)] }))) ∧
      (s.time < b.last + 5000 → Goes (.batchResend src id) s s)) ∧
    -- a peer reads or writes memory here: of this incarnation, and in no region of grade NONE
    (∀ (len : Nat) (data : List Byte), 0 < len → 0 < data.length →
      let may (n : Nat) : Prop := ∀ a, addr ≤ a → a < addr + n → s.mem.gradeAt a ≠ 3
      (may len → Goes (.remoteRequest (.inRead src now addr len)) s
        (s.send (.remoteReply src (s.mem.read addr len) (s.mem.poisonedAt addr len).isSome))) ∧
      (may data.length → Goes (.remoteRequest (.inWrite src now addr data [])) s (wrote s addr data) ∧
        -- with the runs of the data that are poisoned
        ∀ bad, ∃ m, Goes (.remoteRequest (.inWrite src now addr data bad)) s (s.setMem m) ∧
          (∀ a, m.byte a = (wrote s addr data).mem.byte a) ∧
          ∀ r ∈ bad, ∀ j, r.1 ≤ j → j < r.1 + r.2 → j < data.length → (addr + j) / 64 ∈ m.poison) ∧
      (inc ≠ now → Goes (.remoteRequest (.inRead src inc addr len)) s (s.send (.resetNak src now)) ∧
        ∀ bad, Goes (.remoteRequest (.inWrite src inc addr data bad)) s (s.send (.resetNak src now))) ∧
      (s.mem.gradeAt addr = 3 → Goes (.remoteRequest (.inRead src now addr len)) s (s.send (.remoteRefused src addr)) ∧
        ∀ bad, Goes (.remoteRequest (.inWrite src now addr data bad)) s (s.send (.remoteRefused src addr)))) ∧
    -- a request of this package has been performed at its target, or is lost
    (∀ (r : RemoteReq) (data : List Byte) (c : CtxId), s.fab.parked = [] → s.fab.remote.find? (fun y => y.id == id) = some r →
      r.who = .context c →
      let k := coreIx r.core
      let t := s.setFab { s.fab with remote := s.fab.remote.filter fun y => y.id != id }
      let lost (u : State) (i : Nat) : State := u.raise k r.agent r.loc ⟨.remoteLost, r.ea, BitVec.ofNat 64 (r.target * 2 ^ 32 + i)⟩
      (r.write = true → Goes (.remoteRequest (.writeDone id)) s t) ∧
      (r.write = false → data.length = r.len → (s.ctx k c).remote = some ⟨id, none⟩ →
        Goes (.remoteRequest (.readDone id data false)) s (t.setCtx k c { s.ctx k c with remote := some ⟨id, some (.bytes data)⟩ })) ∧
      (r.write = false → data.length = r.len → ∃ i,
        Goes (.remoteRequest (.readDone id data true)) s (t.raise k (ctxAgent c) r.loc ⟨.uncorrectable, r.ea, i⟩)) ∧
      -- R385, R399: a store of a gang whose cores have all completed can fault no more
      let may : Prop := r.write = true → ∃ j ∈ s.gangOf k, (s.core j).seq ≠ .complete
      (r.sent ≤ s.time → s.incOf r.target < inc → let u := t.setFab { t.fab with incs := sset 0 s.fab.incs r.target inc }
        (may → Goes (.resetNak r.target id inc) s (lost u inc)) ∧ (¬ may → Goes (.resetNak r.target id inc) s u)) ∧
      (r.sent + 20000 ≤ s.time → (may → Goes (.remoteTimeout r.target id) s (lost t (s.incOf r.target))) ∧
        (¬ may → Goes (.remoteTimeout r.target id) s t)) ∧
      (s.time < r.sent + 20000 → (∀ y ∈ s.fab.remote, y.id = id → y = r) → (∀ b ∈ s.fab.batches, b.serial ≠ id) →
        (∀ i : Fin 32, ∀ m ∈ (s.chan i).sent, m.serial ≠ id) → (∀ c ∈ s.fab.colls, c.id ≠ id) → Goes (.remoteTimeout r.target id) s s)) ∧
    -- R364, R389: a message without a confirmation is lost too: its CSEND faults REMOTE_LOST, and its end breaks (log entry 89)
    (∀ (c : Fin 32) (m : Sent) (f : Flight), let k := coreIx m.core
      s.fab.parked = [] → (∀ y ∈ s.fab.remote, y.id ≠ m.serial) → (∀ b ∈ s.fab.batches, b.serial ≠ m.serial) →
      (∀ i, i ≠ c → (s.chan i).sent = []) → (s.chan c).sent = [m] → m.confirmed = false → m.time + 20000 ≤ s.time →
      s.boundStage c = none → f ∈ (s.eng k .c).flight → f.wait = .message c.val m.n → (s.core k).fault = none →
      let pkg := (s.chan c).peer
      ∃ t g, Goes (.remoteTimeout pkg m.serial) s t ∧ t.chan c = { s.chan c with state := .broken } ∧ (t.core k).fault = some g ∧
        g.trap = ⟨.remoteLost, 0, BitVec.ofNat 64 (pkg * 2 ^ 32 + s.incOf pkg)⟩ ∧ g.agent = 5) ∧
    -- a package announces a new incarnation: its channels break, and its batches are forgotten
    (∀ pkg, pkg ≠ s.pkg →
      (s.incOf pkg < inc → ∃ t, Goes (.incarnationAnnounce pkg inc) s t ∧ t.incOf pkg = inc ∧
        (∀ r, r ∈ t.fab.replay ↔ r ∈ s.fab.replay ∧ r.src ≠ pkg) ∧
        ∀ c : Fin 32, (s.chan c).state = .opened → (s.chan c).peer = pkg → (t.chan c).state = .broken) ∧
      (inc ≤ s.incOf pkg → Goes (.incarnationAnnounce pkg inc) s s)) ∧
    -- a torus port goes down, and comes back: what waited for it leaves
    (∀ port, let up := s.setFab { s.fab with portsDown := kdel port s.fab.portsDown }
      (port < 6 → Goes (.torusPortDown port) s (s.setFab { s.fab with portsDown := kadd port s.fab.portsDown })) ∧
      (s.fab.parked = [] → Goes (.torusPortUp port) s up) ∧
      ∀ dst fb m, s.fab.parked = [(dst, fb, m)] → s.wanted m = true →
        (up.portOpen fb dst = true → Goes (.torusPortUp port) s ((up.setFab { up.fab with parked := [] }).send m)) ∧
        (up.portOpen fb dst = false → Goes (.torusPortUp port) s up))

/-- R217, R358, R359, R369 to R377: what members of groups tell one another, and the token of a gang. R119, R372, R429: COLL
nodes. -/
def Obligations.BarriersAndCollectivesOfThePod : Prop :=
  -- R217, R358, R359, R369 to R377: what members of groups tell one another, and the token of a gang.
  (∀ (s : State) (group member : Nat), group < 16 →
    let now := s.cmd.incarn
    -- R389: a message made for another incarnation of this package is answered by a reset NAK
    let stale (pkg : Nat) (i : Instr) : Prop := Goes i s (s.send (.resetNak pkg now))
    (∀ inc, inc ≠ now →
      stale (s.listPkg (s.barrierWord group 1) member) (.podBarrierArrival group ⟨member, inc⟩) ∧
      (∀ x b, stale (s.memberPkg group member) (.ringChunkReceive group ⟨member, inc⟩ x b)) ∧
      (∀ l b, stale (s.memberPkg group member) (.driftLoadsReceive group ⟨member, inc⟩ l b)) ∧
      (∀ n, stale (s.memberPkg group member) (.driftOfferReceive group ⟨member, inc⟩ n)) ∧
      ∀ l n b d w, stale (s.memberPkg group member) (.driftRecordsReceive group ⟨member, inc⟩ l n ⟨b, d⟩ w)) ∧
    -- a member arrives at a pod barrier; the last one completes the phase for the cores of the span; the phase keeps the entry's words
    -- as they stood at its first arrival
    (let w := s.barrierWord group 0
      let members := bitsNat w 8 12 + 1
      let span : PodSpan := .group group (bitsNat w 20 12) members (bitsNat w 0 7 + 1)
      let all : Prop := ∀ r, r < members → r = member ∨ group * 4096 + r ∈ s.fab.arrived
      let p := sget 0 s.fab.groupP group + 1
      member < members →
      (¬ all → ∃ t, Goes (.podBarrierArrival group ⟨member, now⟩) s t ∧ (∃ e ∈ t.fab.groupAt, e.1 = group) ∧
        t = s.setFab { s.fab with groupAt := t.fab.groupAt, arrived := s.fab.arrived ++ [group * 4096 + member] } ∧
        t.barrierWord group 0 = w ∧ t.barrierWord group 1 = s.barrierWord group 1) ∧
      (all → ∃ t, Goes (.podBarrierArrival group ⟨member, now⟩) s t ∧ t.fab.groupP = sset 0 s.fab.groupP group p ∧ ∀ k : Fin 128,
        ((s.core k).inst ≠ none → s.podSpan k = span → doneCount (t.core k) .pod = BitVec.ofNat 32 p ∧
          ∀ sc, sc ≠ .pod → doneCount (t.core k) sc = doneCount (s.core k) sc) ∧
        ((s.core k).inst = none ∨ s.podSpan k ≠ span → t.core k = s.core k))) ∧
    -- the token of a gang passes from an idle core to the next; rank 0 ends the gang when it comes back white
    (∀ (i : Inst) (r : Nat), s.inst? i.ctxid = some i → r < i.ncores → i.base + i.ncores ≤ 128 →
      let at_ (j : Nat) : Fin 128 := coreIx (i.base + j)
      let x := (s.core (at_ r)).trm
      ((∃ j, j < i.ncores ∧ (s.core (at_ j)).inst ≠ some i.ctxid) → Goes (.trmTokenPass i.ctxid) s s) ∧
      ((∀ j, j < i.ncores → (s.core (at_ j)).inst = some i.ctxid ∧ (s.core (at_ j)).disp.grank.toNat = j ∧
        ((s.core (at_ j)).trm.token = true ↔ j = r)) →
      (x.busy = true ∨ x.term = true → Goes (.trmTokenPass i.ctxid) s s) ∧
      (x.busy = false → x.term = false →
        let white : Prop := r = 0 ∧ x.round = true ∧ x.tokenBlack = false ∧ x.black = false
        let dst := (r + 1) % i.ncores
        (white → ∃ t, Goes (.trmTokenPass i.ctxid) s t ∧ (∀ j, j < i.ncores → t.core (at_ j) = { s.core (at_ j) with
            trm := { (s.core (at_ j)).trm with term := true } }) ∧
          ∀ k : Fin 128, (k.val < i.base ∨ i.base + i.ncores ≤ k.val) → t.core k = s.core k) ∧
        (¬ white → 2 ≤ i.ncores → Goes (.trmTokenPass i.ctxid) s
          ((s.setCore (at_ r) { s.core (at_ r) with
              trm := { x with black := false, token := false, tokenBlack := false, round := false } }).setCore (at_ dst)
            { s.core (at_ dst) with trm := { (s.core (at_ dst)).trm with
              token := true, tokenBlack := if r = 0 then false else x.tokenBlack || x.black, round := decide (dst = 0) } }))))) ∧
    -- a chunk for a collective that this member has not begun waits
    (s.groupColl group = none → (∀ x b, Goes (.ringChunkReceive group ⟨member, now⟩ x b) s s) ∧
      (∀ l b, Goes (.driftLoadsReceive group ⟨member, now⟩ l b) s s) ∧ (∀ n, Goes (.driftOfferReceive group ⟨member, now⟩ n) s s) ∧
      ∀ l n b d w, Goes (.driftRecordsReceive group ⟨member, now⟩ l n ⟨b, d⟩ w) s s) ∧
    (∀ (c : Coll) (core : Nat) (ec : Fin 32), s.groupColl group = some c → s.fab.colls.find? (fun y => y.id == c.id) = some c →
      c.core = some (core, ec) →
      let k := coreIx core
      let fails (ins : Instr) : Prop := Goes ins s
        ((s.setFab { s.fab with colls := s.fab.colls.filter fun y => y.id != c.id }).raise k 5 c.upc ⟨.channel, 0, 0xFF⟩)
      let kept (d : Coll) : State := s.setFab { s.fab with colls := updFirst (fun y => y.id == c.id) (fun _ => d) s.fab.colls }
      -- the word is left with its writes, then with the end of the collective here, and its status
      let ends (t : State) (ws : List (W64 × List Byte)) (fl : W32) (tell st : List ReqKind) : State :=
        let writes : List ReqKind := ws.map fun w => .write w.1 w.2 []
        let reqs : List Req := (writes ++ tell ++ [ReqKind.collEnd c.id] ++ st).map (s.newReq c.cls)
        let after (f : Flight) : Flight :=
          if f.wait = .coll c.id then { f with wait := .none, flags := f.flags ||| fl, reqs := f.reqs ++ reqs } else f
        t.setEng k .c { s.eng k .c with flight := (s.eng k .c).flight.map after }
      -- CRING: terms come from the west, in the order of the ring, and go on to the east
      (∀ (x : RingRun) (y : RingTerms), c.ring = some x → c.drift = none →
        (member ≠ (c.rank + c.nmem) % (c.nmem + 1) ∨ y.elems.length ≠ x.n ∨ c.nmem < y.rank →
          fails (.ringChunkReceive group ⟨member, now⟩ y true)) ∧
        fails (.ringChunkReceive group ⟨member, now⟩ y false) ∧
        (member = (c.rank + c.nmem) % (c.nmem + 1) → y.elems.length = x.n → y.rank ≤ c.nmem → (∀ z ∈ x.terms, z.rank ≠ y.rank) →
          let d := { c with ring := some { x with terms := x.terms ++ [y] } }
          let t := kept d
          let east := (c.rank + 1) % (c.nmem + 1)
          let u := if y.rank = east then t else t.send (.ringTerms group east (s.incOf (s.memberPkg group east)) y)
          let all : Prop := ∀ r, r ≤ c.nmem → r = y.rank ∨ ∃ z ∈ x.terms, z.rank = r
          (¬ all → Goes (.ringChunkReceive group ⟨member, now⟩ y true) s u) ∧
          -- with the terms of both of two members: the sum of INT32 saturates, a broadcast takes the terms of rank 0
          (∀ a b : RingTerms, c.nmem = 1 → x.terms = [a] → a.rank ≠ y.rank → (b = if y.rank = 0 then y else a) →
            a.elems.length = x.n → a.rank ≤ 1 → x.fs = .int32 → x.fd = .int32 →
            let e := if y.rank = 0 then a else y
            (x.op = 2 → Goes (.ringChunkReceive group ⟨member, now⟩ y true) s
              (ends u [(x.dst, b.elems.flatMap fun v => leBytesOf 4 v.toNat)] 0 [] [])) ∧
            (x.op = 0 → ∃ fl, Goes (.ringChunkReceive group ⟨member, now⟩ y true) s
              (ends u [(x.dst, (b.elems.zip e.elems).flatMap fun p =>
                leBytesOf 4 (BitVec.ofInt 32 (max (-2 ^ 31) (min (2 ^ 31 - 1) (p.1.toInt + p.2.toInt)))).toNat)] fl [] []))))) ∧
      -- Drift: loads, then offers, then refusals and records
      (∀ x : DriftRun, c.drift = some x → member ≠ c.rank → member ≤ c.nmem →
        (∀ f ∈ (s.eng k .c).flight, ∀ r ∈ f.reqs, r.kind ≠ .collEnd c.id) →
        let p := c.nmem + 1
        let with_ (z : DriftRun) : State := kept { c with drift := some z }
        let bins := if x.desc.kmode = 3 then 0 else x.desc.bins
        (∀ loads, fails (.driftLoadsReceive group ⟨member, now⟩ loads false) ∧
          (loads.length ≠ bins → fails (.driftLoadsReceive group ⟨member, now⟩ loads true)) ∧
          (loads.length = bins → (∀ l ∈ x.loads, l.1 ≠ member) →
            let z := { x with loads := x.loads ++ [(member, loads)] }
            z.allLoads p = false → Goes (.driftLoadsReceive group ⟨member, now⟩ loads true) s (with_ z))) ∧
        (∀ n, (∀ o ∈ x.offers, o.1 ≠ member) →
          let z := { x with offers := x.offers ++ [(member, n)] }
          z.allOffers p c.rank = false → Goes (.driftOfferReceive group ⟨member, now⟩ n) s (with_ z)) ∧
        (∀ refused ov bad wr, x.allLoads p = true → (∀ o ∈ x.replies, o.member ≠ member) → s.fab.portsDown = [] →
          let z := { x with
            replies := x.replies ++ [⟨member, refused, ov, bad⟩]
            written := if wr = true ∧ member ∉ x.written then x.written ++ [member] else x.written }
          let out := x.toSend p c.rank member refused
          let t := if out = [] then with_ z
            else (with_ z).send (.driftRecords group member (s.incOf (s.memberPkg group member)) out)
          (z.complete p c.rank = false → Goes (.driftRecordsReceive group ⟨member, now⟩ [] refused ⟨ov, bad⟩ wr) s t) ∧
          -- complete here: it writes its results, tells the members, and ends once they have written its records
          (z.complete p c.rank = true → Goes (.driftRecordsReceive group ⟨member, now⟩ [] refused ⟨ov, bad⟩ wr) s
            (ends t (z.writes p c.rank) 0 [.collTell c.id] [.setE ec (BitVec.ofNat 64 (z.status p c.rank))]))) ∧
        -- the collective may end only then
        (s.collDone c.id = true ↔ x.told = true ∧ ∀ r, r ≤ c.nmem → r ≠ c.rank → r ∈ x.written) ∧
        -- a member accepts no more records than its buffers hold
        ((List.range p).map (x.accepted p c.rank)).foldl (· + ·) 0 ≤ x.desc.rcap + x.desc.ocap))) ∧
  -- R119, R372, R429: COLL nodes.
  (∀ (s u : State) (q idx flat : Nat) (n : Node), s.node? q idx = some n → n.cmd.kind = 4 →
    let va := bitsNat n.cmd.payload 0 64
    let bad (t : State) (status : Nat) : State := t.completeNode q idx ⟨status, 0, 0, 0⟩
    (n.phase = .due →
      (va % 64 ≠ 0 → Goes (.coll q idx) s (bad s 6)) ∧
      (∀ e, va % 64 = 0 → s.ownDests n.pasid va 64 .read = .error e → Goes (.coll q idx) s (bad s 11)) ∧
      (va % 64 = 0 → OwnAt s n.pasid va 64 .read flat u →
        let v := leNum (u.mem.read flat 64)
        let entry (i : Nat) : Option LeaseRange :=
          let e := bitsNat v (256 + 64 * i) 64
          if e / 2 ^ 41 % 2 ^ 22 = 0 then none else some ⟨e % 2 ^ 41 * 65536, e / 2 ^ 41 % 2 ^ 22 * 65536, e / 2 ^ 63 == 1⟩
        let ranges := (List.range 4).filterMap entry
        let apart : Prop := ranges.Pairwise fun a b => a.base + a.len ≤ b.base ∨ b.base + b.len ≤ a.base
        let fine : Prop := (v % 256 = 0xCC ∨ v % 256 = 0xCD) ∧ bitsNat v 24 40 = 0 ∧ apart
        (¬ fine → Goes (.coll q idx) s (bad u 6)) ∧
        (fine → Goes (.coll q idx) s (u.updNode q idx fun x => { x with desc := v, phase := .leasing, ranges := ranges, walk := .start })))) ∧
    (∀ since, n.phase = .ready since →
      (s.mgmt.pstate ≠ .active → Goes (.coll q idx) s s) ∧
      (s.mgmt.pstate = .active → ∀ t, s.beginColl n = .ok t → Goes (.coll q idx) s t) ∧
      -- what would fault the word faults the node, with a record of AGENT 8 (R383), which waits while the fault ring is full
      (∀ x, s.mgmt.pstate = .active → s.beginColl n = .error x → s.cmd.frwait = [] → s.cmd.frcfg.getLsbD 0 = true →
        bitsNat s.cmd.frcfg.toNat 4 4 ≤ 10 → (s.cmd.frtail - s.cmd.frhead).toNat = 2 ^ (bitsNat s.cmd.frcfg.toNat 4 4 + 6) → ∃ t r,
        Goes (.coll q idx) s t ∧ t.node? q idx = some { n with phase := .faulted ⟨1, x.code.toNat, 0, 0⟩ } ∧ t.cmd.frwait = [r] ∧
        r.who = .node q idx ∧ r.bytes.length = 64 ∧ r.bytes.take 4 = [BitVec.ofNat 8 x.code.toNat, 8, 1, 0] ∧
        r.bytes.drop 56 = leBytesOf 8 x.info.toNat)))

/-- R296, R300, R310, R426 to R430: power and heat, trips, parking, and corrected errors. -/
def Obligations.PowerAndParking : Prop :=
  ∀ (s : State),
    let g := s.mgmt
    -- every 10 µs the clock follows power and heat; the causes stick
    let hotter (x : Sensors) (die stack : Int) : Prop := (∃ t ∈ x.dieTemp, die ≤ t) ∨ ∃ t ∈ x.stackTemp, stack ≤ t
    let mcerr (cause : Nat) : W64 := BitVec.ofNat 64 (cause * 2 ^ 56 + s.time / 1000 % 2 ^ 56)
    -- every scheduler is to evaluate
    let all (t : State) : State := t.setStages { t.stages with
      list := t.stages.list.map fun st => if st.armed = true then { st with dirty := true } else st }
    (∀ x : Sensors, g.lastTick + 10000 ≤ s.time → ∃ h,
      let trips : Prop := hotter x (16 * 110) (16 * 100)
      let limit := max 1200 (min 2400 g.plim)
      let hotter := hotter x
      -- a die at 110 °C or a stack at 100 °C is a trip (R428)
      (¬ trips → Goes (.powerControlTick x) s (s.setMgmt h) ∧ h.powered = g.powered ∧ h.mcerr = g.mcerr) ∧
      (trips → Goes (.powerControlTick x) s ((s.setMgmt h).send .linkDropped) ∧ h.powered = false ∧ h.mcerr = mcerr 1 ∧
        h.mcerrcnt = g.mcerrcnt + 1) ∧
      let heat : Prop := hotter (16 * 100) (16 * 90)
      let above : Prop := limit < x.power
      (above ∨ heat → h.clkmhz = max 1000 (g.clkmhz - 125)) ∧
      (¬ above → ¬ heat → 95 * limit ≤ 100 * x.power → h.clkmhz = g.clkmhz) ∧
      (¬ above → ¬ hotter (16 * 95 + 1) (16 * 85 + 1) → 100 * x.power < 95 * limit → h.clkmhz = min 4000 (g.clkmhz + 125)) ∧
      (¬ heat → g.hot = true → hotter (16 * 95 + 1) (16 * 85 + 1) → ¬ above → h.clkmhz = g.clkmhz) ∧
      (h.throt.getLsbD 0 = true ↔ g.throt.getLsbD 0 = true ∨ above) ∧ (h.throt.getLsbD 1 = true ↔ g.throt.getLsbD 1 = true ∨ heat) ∧
      (h.throt.getLsbD 2 = true ↔ g.throt.getLsbD 2 = true ∨ x.d2dOver = true) ∧ h.pwr = x.power % 2 ^ 16 ∧ h.lastTick = s.time) ∧
    (∀ x : Sensors, s.time < g.lastTick + 10000 → Goes (.powerControlTick x) s s) ∧
    -- errors of the module: a trip takes the power away
    (let logged (cause : Nat) (p : Bool) : State := s.setMgmt { g with
        mcerr := mcerr cause, mcerrcnt := g.mcerrcnt + 1, powered := p && g.powered }
     (∀ cause x, let real : Prop := cause = 1 ∧ hotter x (16 * 110) (16 * 100) ∨ cause = 2
        (real → Goes (.trip ⟨cause, x⟩) s ((logged cause false).send .linkDropped)) ∧ (¬ real → Goes (.trip ⟨cause, x⟩) s s)) ∧
      Goes .linkRetrain s (logged 3 true) ∧ Goes .firmwareError s (logged 4 true)) ∧
    -- parking ends once no instance is left and neither Calving nor a tier move is under way
    (g.pstate = .active → Goes .parkRequest s (all (s.setMgmt { g with parkReq := true, pstate := .parking }))) ∧
    (g.pstate ≠ .active → Goes .parkRequest s (all (s.setMgmt { g with parkReq := true }))) ∧
    (g.pstate = .parking → s.cmd.insts = [] → s.mem.calv = .stable → s.mem.tmcmd.getLsbD 62 = false →
      Goes .parkedEnter s (s.setMgmt { g with pstate := .parked })) ∧
    (s.cmd.insts ≠ [] ∨ s.mem.calv ≠ .stable ∨ s.mem.tmcmd.getLsbD 62 = true → Goes .parkedEnter s s) ∧
    Goes .parkClear s (all (s.setMgmt { g with parkReq := false, pstate := .active })) ∧
    -- corrected errors of a stack are counted for its die and in windows of an hour; the first to reach SWTH posts one notice
    (∀ (st : Fin 8) (sector : Nat) (flips : List Nat), (s.mem.homeAt (sector * 64)).1 = st.val → sector * 64 < s.mem.memcap →
      -- R296, R300: one that the grade's check does not correct is none of them
      (flips = [] ∨ corrects (s.mem.gradeAt (sector * 64)) flips = false → Goes (.correctedError ⟨sector, flips⟩) s s) ∧
      (flips ≠ [] → corrects (s.mem.gradeAt (sector * 64)) flips = true →
      let hour := 3600000000000
      let die : Fin 4 := Fin.ofNat 4 (st.val / 2)
      let counted := { s.mem with cecount := s.mem.cecount.set die (s.mem.cecount[die] + 1) }
      let n := g.windowCount[st] + 1
      (s.time < g.windowStart[st] + hour →
        (g.swth = 0 ∨ n < g.swth.toNat ∨ g.windowPosted[st] = true → Goes (.correctedError ⟨sector, flips⟩) s
          ((s.setMem counted).setMgmt { g with windowCount := g.windowCount.set st n })) ∧
        (g.swth ≠ 0 → g.swth.toNat ≤ n → g.windowPosted[st] = false →
          let t := (s.setMem counted).setMgmt { g with windowCount := g.windowCount.set st n, windowPosted := g.windowPosted.set st true }
          let tail := s.cmd.nqtail
          (s.cmd.nqcfg.getLsbD 0 = false ∨ 1024 ≤ (tail - s.cmd.nqhead).toNat → Goes (.correctedError ⟨sector, flips⟩) s (t.keepNotice 0x13 st.val n)) ∧
          (s.cmd.nqcfg.getLsbD 0 = true → (tail - s.cmd.nqhead).toNat < 1024 → ∀ u f,
            OwnAt t (s.cmd.nqcfg.toNat / 2 ^ 44) (s.cmd.nqbase.toNat + 32 * (tail.toNat % 1024)) 32 .write f u →
            Goes (.correctedError ⟨sector, flips⟩) s ((wrote u f (leBytesOf 2 0x13 ++ leBytesOf 2 0 ++ leBytesOf 4 0 ++ leBytesOf 8 st.val ++
              leBytesOf 8 n ++ leBytesOf 4 tail.toNat ++ leBytesOf 4 0)).setCmd { u.cmd with nqtail := u.cmd.nqtail + 1 })))) ∧
      (g.windowStart[st] + hour ≤ s.time → g.swth = 0 ∨ 1 < g.swth.toNat → Goes (.correctedError ⟨sector, flips⟩) s ((s.setMem counted).setMgmt { g with
        windowStart := g.windowStart.set st s.time, windowCount := g.windowCount.set st 1, windowPosted := g.windowPosted.set st false })))) ∧
    ∀ st : Fin 8, (s.time < g.windowStart[st] + 3600000000000 → Goes (.stackWarnWindow st.val) s s) ∧
      (g.windowStart[st] + 3600000000000 ≤ s.time → Goes (.stackWarnWindow st.val) s (s.setMgmt { g with
        windowStart := g.windowStart.set st s.time, windowCount := g.windowCount.set st 0, windowPosted := g.windowPosted.set st false }))

/-- R431 to R435: firmware commands. -/
def Obligations.FirmwareCommands : Prop :=
  ∀ (s : State),
    let g := s.mgmt
    let image := s.mem.read (hostFlat g.fwarg.toNat) g.fwlen.toNat
    let bounds : Prop := g.fwarg.toNat % 4096 = 0 ∧ g.fwlen.toNat ≤ 2 ^ 23
    -- the command is under way; STATUS follows when BUSY clears
    let under (t : State) (cmd st : Nat) : State := t.setMgmt { t.mgmt with fwcmd := cmd, fwrun := cmd, fwbusy := true, fwnext := st }
    (g.fwbusy = true → Goes .load s s ∧ Goes .commit s s ∧ Goes .enrol s s ∧ Goes .unenrol s s ∧ Goes .quote s s ∧
      Goes .fwcmdComplete s (s.setMgmt { g with fwbusy := false, fwstatus := g.fwnext })) ∧
    (g.fwbusy = false → Goes .fwcmdComplete s s) ∧
    (g.fwbusy = false →
      -- LOAD: only in host-load mode, and only an image that passes
      (g.hostLoad = false → Goes .load s (under s 1 3)) ∧
      (g.hostLoad = true → (g.exhausted = true ∨ s.cmd.incarn = 0xFFFFFFFF) → Goes .load s (under s 1 4)) ∧
      (g.hostLoad = true → g.exhausted = false → s.cmd.incarn ≠ 0xFFFFFFFF →
        (¬ bounds → Goes .load s (under s 1 6)) ∧
        (bounds → g.verify image ≠ 0 → Goes .load s (under s 1 (g.verify image))) ∧
        (bounds → g.verify image = 0 → ∃ t, Goes .load s t ∧ t.cmd = { CmdProc.reset with incarn := s.cmd.incarn + 1 } ∧
          t.mgmt.fwcmd = 1 ∧ t.mgmt.fwbusy = true ∧ t.mgmt.fwnext = 0 ∧ t.mgmt.hostLoad = false ∧ t.mgmt.hostLoaded = true ∧
          t.mgmt.slot = g.slot ∧ t.mgmt.fwver = leNum ((image.drop 4).take 4) ∧ t.mgmt.fwsvn = leNum ((image.drop 8).take 4) ∧
          t.mgmt.fwhash = (image.drop 16).take 32 ∧ t.mgmt.minSvn = max g.minSvn t.mgmt.fwsvn ∧
          t.outbox = s.outbox ++ [.announce (s.cmd.incarn + 1)])) ∧
      -- COMMIT writes the slot, and nothing else of the running firmware
      (¬ bounds → Goes .commit s (under s 2 6)) ∧
      (bounds → g.verify image ≠ 0 → Goes .commit s (under s 2 (g.verify image))) ∧
      (bounds → g.verify image = 0 → ∃ t, Goes .commit s t ∧ ((t.mgmt.slot = image ∧ t.mgmt.fwnext = 0) ∨
          (t.mgmt.slot = [] ∧ t.mgmt.fwnext = 5)) ∧ t.mgmt = { g with slot := t.mgmt.slot, fwcmd := 2, fwrun := 2, fwbusy := true, fwnext := t.mgmt.fwnext }) ∧
      -- ENROL and UNENROL
      (let key := s.mem.read (hostFlat (g.fwarg.toNat + 0)) 56
        let sig := s.mem.read (hostFlat (g.fwarg.toNat + 56)) 1612
        (g.ownerKey ≠ none → Goes .enrol s (under s 3 3)) ∧
        (g.ownerKey = none → lmsVerifies Config.rootKey (Config.moduleSerial ++ key) sig = true →
          Goes .enrol s (under (s.setMgmt { g with ownerKey := some key }) 3 0)) ∧
        (g.ownerKey = none → lmsVerifies Config.rootKey (Config.moduleSerial ++ key) sig = false → Goes .enrol s (under s 3 1))) ∧
      (g.ownerKey = none → Goes .unenrol s (under s 4 3)) ∧
      (∀ k, g.ownerKey = some k → g.nonce = none → ∃ t n, Goes .unenrol s t ∧
        t.mgmt = { g with nonce := some n, fwlen := t.mgmt.fwlen, fwcmd := 4, fwrun := 4, fwbusy := true, fwnext := 3 } ∧
        t.mgmt.fwlen.toNat % 2 ^ 32 = n ∧ t.mgmt.fwlen.toNat / 2 ^ 32 = g.fwlen.toNat / 2 ^ 32) ∧
      (∀ k n, g.ownerKey = some k → g.nonce = some n →
        let ok := lmsVerifies k (Config.moduleSerial ++ leBytesOf 4 n) (s.mem.read (hostFlat (g.fwarg.toNat + 0)) 1612)
        (ok = true → Goes .unenrol s (under (s.setMgmt { g with ownerKey := none, nonce := none }) 4 0)) ∧
        (ok = false → Goes .unenrol s (under s 4 1))) ∧
      -- QUOTE uses up a leaf before it signs
      (32768 ≤ g.leaf → Goes .quote s (under s 5 4)) ∧
      (g.leaf < 32768 → ∃ m, Goes .quote s (under ((s.setMgmt { g with leaf := g.leaf + 1 }).setMem m) 5 0) ∧
        m = { s.mem with cells := m.cells, poison := m.poison } ∧
        m.read (hostFlat (g.fwarg.toNat + 32)) (min 8192 g.fwhash.length) = g.fwhash.take 8192))

/-- R428, R431, R435: resets, and the loss of power. -/
def Obligations.Resets : Prop :=
  ∀ (s : State),
    let g := s.mgmt
    -- the machine is as after reset, but for what a reset keeps
    let fresh (t : State) : Prop := t.cores = State.reset.cores ∧ t.quads = State.reset.quads ∧ t.stages = State.reset.stages ∧
      t.fab = { State.reset.fab with incs := t.fab.incs } ∧ t.cur = .none ∧ t.cyc = 0 ∧ t.time = s.time ∧ t.pod = s.pod ∧
      t.mem = { MemSide.reset with cells := t.mem.cells, poison := t.mem.poison, atsEpoch := t.mem.atsEpoch } ∧
      (∀ a, hostFlat 0 ≤ a → t.mem.byte a = s.mem.byte a) ∧ ∀ a, a < hostFlat 0 → t.mem.byte a = 0
    let boots (i : Instr) (incarn : Nat) (ok : Mgmt → Prop) : Prop := ∃ t, Goes i s t ∧ fresh t ∧
      t.cmd = { CmdProc.reset with incarn := incarn } ∧ t.fab.incs = sset 0 [] s.pkg incarn ∧ ok t.mgmt ∧
      t.outbox = s.outbox ++ (if t.mgmt.hostLoad = true then [] else [.announce incarn])
    let kept (h : Mgmt) : Prop := h.slot = g.slot ∧ h.ownerKey = g.ownerKey ∧ h.nonce = g.nonce ∧ h.leaf = g.leaf ∧ h.mcerr = g.mcerr ∧
      h.plim = 2400 ∧ h.swth = 1000 ∧ h.pstate = .active ∧ h.powered = true
    -- a cold reset runs the image of the slot, or stays in host-load mode
    (g.exhausted = false → s.cmd.incarn ≠ 0xFFFFFFFF → g.verify g.slot = 0 → boots .coldReset (s.cmd.incarn + 1) fun h =>
      kept h ∧ h.hostLoad = false ∧ h.hostLoaded = false ∧ h.retired = 0 ∧ h.fwver = leNum ((g.slot.drop 4).take 4) ∧
      h.fwsvn = leNum ((g.slot.drop 8).take 4) ∧ h.minSvn = max g.minSvn h.fwsvn) ∧
    (g.exhausted = false → g.verify g.slot ≠ 0 → boots .coldReset s.cmd.incarn fun h =>
      kept h ∧ h.hostLoad = true ∧ h.hostLoaded = true ∧ h.fwstatus = g.verify g.slot ∧ h.minSvn = g.minSvn) ∧
    (g.exhausted = true → boots .coldReset s.cmd.incarn fun h => kept h ∧ h.hostLoad = true ∧ h.fwstatus = 4 ∧ h.exhausted = true) ∧
    -- a warm reset runs the verified image again
    (g.hostLoad = false → s.cmd.incarn ≠ 0xFFFFFFFF → boots .warmReset (s.cmd.incarn + 1) fun h =>
      kept h ∧ h.hostLoad = false ∧ h.fwver = g.fwver ∧ h.fwsvn = g.fwsvn ∧ h.fwhash = g.fwhash ∧ h.retired = g.retired) ∧
    (g.hostLoad = false → s.cmd.incarn = 0xFFFFFFFF → boots .warmReset s.cmd.incarn fun h =>
      kept h ∧ h.hostLoad = true ∧ h.fwstatus = 4 ∧ h.exhausted = true) ∧
    (g.hostLoad = true → boots .warmReset s.cmd.incarn fun h => kept h ∧ h.hostLoad = true ∧ h.retired = g.retired) ∧
    -- power is lost: a COMMIT that is writing leaves no image
    (∃ t, Goes .powerLoss s t ∧ t = s.setMgmt t.mgmt ∧ t.mgmt.powered = false ∧
      (g.fwbusy = true → g.fwrun = 2 → g.fwnext = 0 → t.mgmt.slot = []) ∧ (g.fwbusy = false → t.mgmt = { g with powered := false })) ∧
    -- without power only a cold reset runs
    (g.powered = false → Act.isColdReset (s.nextTurn).1.act = false → step s = .fault .moduleOff)

/-- R14, R81, R102, R185, R301: a step issues the word at a context's pc, or at an engine's place in its section, decoded, over the state that
stands once the turn's time has passed (log entry 2); one that cannot be decoded raises its decode fault, and a core that stopped on
a fault in an earlier cycle issues nothing (R384). -/
def Obligations.StepRunsTheDecodedWord : Prop :=
  ∀ (s : State) (k : Fin 128) (c : CtxId) (e : Engine),
    let turn := s.nextTurn.1
    let v := s.nextTurn.2.pass turn
    let x := v.ctx k c
    let runs (r : Except DecodeFault Instr) (t : State) : Prop :=
      (∀ i, r = .ok i → step s = exec i t) ∧ (∀ f, r = .error f → step s = exec (.illegalOpcode f) t)
    (v.mgmt.powered = true →
      (turn.act = .context k.val c → x.run = .running → (v.core k).fault = none →
        (∀ w : W32, x.ahead = some (x.pc, w) → runs (decodeControl w.toNat) { v with cur := .context k c }) ∧
        (∀ flat u, (∀ a w, x.ahead = some (a, w) → a ≠ x.pc) → HereAt v k x.pc 4 .fetch flat u → flat % 4 = 0 →
          let line := (u.core k).il1.find? fun l => l.pa == flat / 128 * 128
          (∀ l, line = some l →
            (flat % 128 / 64 ∉ l.poison → runs (decodeControl (l.word (flat % 128)).toNat) { u with cur := .context k c }) ∧
            (flat % 128 / 64 ∈ l.poison → ∃ i, step s = .next (v.raiseCtx k c ⟨.uncorrectable, x.pc, i⟩))) ∧
          -- a line comes in with the poison of its sectors, and the L1 holds 512 of them (R14)
          (line = none → u.mem.poisonedAt flat 4 = none →
            ∃ l, l.pa = flat / 128 * 128 ∧ l.bytes = u.mem.read (flat / 128 * 128) 128 ∧
              (∀ j, j < 2 → (j ∈ l.poison ↔ kmem u.mem.poison (flat / 128 * 2 + j) = true)) ∧
              runs (decodeControl (u.mem.num flat 4))
                { u.setCore k { u.core k with il1 := (l :: (u.core k).il1).take 512 } with cur := .context k c }))) ∧
      (∀ y (w : BitVec 96), turn.act = .engine k.val e → (v.eng k e).run = true → (v.eng k e).cur = some y → (v.core k).fault = none →
        y.sec.words[y.w]? = some w → runs (decodeEngine e w.toNat) { v with cur := .engine k e }) ∧
      (∀ i, turn.act = .event i → step s = exec i { v with cur := .none }) ∧
      (∀ n, turn.act = .evaluate n → step s = exec (.mbsEvaluate n) { v with cur := .none }) ∧
      (∀ f, (turn.act = .context k.val c ∨ turn.act = .engine k.val e) → (v.core k).fault = some f → f.cyc ≠ v.cyc.toNat →
        step s = .next v)) ∧
    -- what a word that cannot be decoded does
    (∀ f, (s.cur = .context k c → exec (.illegalOpcode f) s = .next (s.raiseCtx k c (.plain (match f with
        | .illegalOpcode => .illegalOpcode
        | .illegalOperand => .illegalOperand)))) ∧
      (s.cur = .engine k e → exec (.illegalOpcode f) s =
        .next (s.raise k (engAgent e) (engIssue s k e (s.core k)).upc (.plain (match f with
        | .illegalOpcode => .illegalOpcode
        | .illegalOperand => .illegalOperand)))))

/-- R85, R103, R221, R253, R330, R368: the words that these rules write out, decoded. -/
def Obligations.SampleWordsDecode : Prop :=
  let g : Guard := ⟨false, 0⟩
  let reads (n w : Nat) (i : Instr) : Prop := decodeTableWord n w = some i
  let z := Opnd.zero
  let t (n : Fin 48) : Opnd := ⟨.r, .tile n⟩
  reads 32 0x00000000 (.add g 0 0 0) ∧ decodeTableWord 32 0x80000000 = none ∧ decodeTableWord 32 0x0FC00000 = none ∧
  reads 32 0x07D20000 (.fenceRel g .quad 0) ∧ reads 32 0x08405303 (.redOr g 5 6 0 false) ∧
  reads 32 0x02422010 (.cmpi g .eq 1 2 16) ∧ reads 32 0x04CE5302 (.ldd g 7 5 3 2) ∧ reads 32 0x05C69041 (.ldfeE g 3 9 0 1) ∧
  reads 32 0x133FFFFD (.br ⟨false, 1⟩ 0x3FFFFD) ∧ reads 32 0x02061102 (.cmp g 3 1 2 .lt) ∧
  reads 32 0x0808533A (.amoCas g 4 5 6 1 true) ∧ reads 32 0x0B400005 (.tpost g ⟨true, false, true⟩) ∧
  reads 32 0x0C220000 (.barAw g .quad) ∧ reads 32 0x0E040000 (.movs g 2 .tag) ∧
  reads 96 0x112831040800117FFFE00000 (.amma ⟨⟨1, 2⟩, ⟨⟨.r, .acc 1⟩, t 4, t 8, z⟩, ⟨1, 1, 63, 63, 63, 0, 0, 0, false⟩⟩) ∧
  reads 96 0x170014320000650010600000 (.aargmin ⟨⟨0, 0⟩, ⟨t 20, ⟨.r, .acc 2⟩, z, z⟩, ⟨false, true, true, 5, false, 2, 3, 0⟩⟩) ∧
  reads 96 0x43280A0405C610EB007E0000
    (.vfma ⟨⟨1, 2⟩, ⟨t 10, t 4, t 5, ⟨.b, .tile 6⟩⟩, ⟨1, 0, 7, false, true, 3, 0, 0, 63, 0, 0⟩⟩) ∧
  reads 96 0xB8240802000022052D84C040
    (.cgath ⟨⟨1, 1⟩, ⟨t 8, t 2, z, z⟩, ⟨2, 2, 0, 10, 11, 12, 19, 0, true, false, 0⟩⟩) ∧
  reads 96 0xC8100006000000020001C003 (.csend ⟨⟨0, 4⟩, ⟨z, t 6, z, z⟩, ⟨0, 0, 0, 4, 0, 0, 7, 0, false, false, 3⟩⟩)

/-- R81 to R99: a well-formed instruction is read back from its word, with every field as it was written. -/
def Obligations.DecodeReadsWhatEncodeWrites : Prop :=
  ∀ (i : Instr) (n w : Nat), i.wf = true → encode i = some (n, w) → decodeTableWord n w = some i

/-- R63, R65, R224, R247: an array or vector word changes nothing outside its core, nothing of memory, of the contexts and of FLAGS,
and of the rest only what words of its kind write. -/
def Obligations.EngineWordFrame : Prop :=
  ∀ (i : Instr) (s t : State) (k : Fin 128) (g : Engine), computesOn i = some g → s.cur = .engine k g → exec i s = .next t →
    let x := s.core k
    let y := t.core k
    OnlyCore s t k ∧
    y = { x with
      a := y.a, v := y.v, tok := y.tok, tiles := y.tiles, acc := y.acc, e := y.e, m := y.m, table := y.table, counts := y.counts
      fault := y.fault } ∧
    (g = .a → y.v = x.v) ∧ (g = .v → y.a = x.a) ∧
    (writesE i = false → y.e = x.e) ∧ (writesMask i = false → y.m = x.m) ∧ (writesAcc i = false → y.acc = x.acc) ∧
    (writesTile i = false → y.tiles = x.tiles) ∧
    ((∀ w, i ≠ .atbld w) → y.table = x.table) ∧ ((∀ w, i ≠ .acent w) → y.counts = x.counts)

/-- R1, log entry 8: memory keeps its one canonical form in every step. -/
def Obligations.MemoryStaysCanonical : Prop := Kept fun s => Memory.wf s.mem.cells = true

/-- R28, R67: the reserved bits of FCSR and of the shapes of tiles read as zero for good. -/
def Obligations.ReservedBitsStayZero : Prop := Kept fun s => ∀ k, (s.core k).fcsr &&& 0xFFFFFFC8 = 0 ∧ ∀ n : Fin 48, (s.core k).tshape[n] &&& 0x3FF = 0

/-- R62, R63, R435: what reset leaves. -/
def Obligations.ResetState : Prop :=
  let s := State.reset
  (∀ (k : Fin 128) (c : CtxId), (∀ r, (s.ctx k c).getX r = 0) ∧ ∀ r : Fin 8, (s.ctx k c).getP r = (r == 0)) ∧
  (∀ k : Fin 128,
    let x := s.core k
    (∀ r : Fin 32, x.e[r] = 0) ∧ (∀ t row, x.rowBits t row = 0) ∧ (∀ n : Fin 48, x.tshape[n] = 0) ∧
    (∀ a i j, x.cell a i j = 0) ∧ (∀ r : Fin 8, x.m[r] = BitVec.allOnes 128) ∧ (∀ a, sget (0 : Byte) x.table a = 0) ∧
    (∀ n : Fin 64, x.counts[n] = 0) ∧ (∀ p q, p < 4 → q < 4 → x.getTok p q = 0) ∧ x.fcsr = 0 ∧ x.flags = 0) ∧
  (∀ q : Fin 32, (∀ b, b < 32 → (s.quad q).bankMode b = 0) ∧ (s.quad q).full = []) ∧
  (∀ q, (s.queue q).en = false) ∧ s.cmd.frcfg = 0 ∧ s.cmd.nqcfg = 0 ∧ (∀ n : Fin 32, s.fab.channels[n].state = .idle) ∧
  s.fab.groups = [] ∧ s.cmd.apbase = 0 ∧ s.cmd.apt = [] ∧ s.cmd.pasidtb = 0 ∧ s.cmd.pasidsz = 0 ∧ s.fab.replay = [] ∧
  (∀ r, sget gradeNone s.mem.grades r = 3) ∧ s.mem.memcap = 0x8000000000 ∧ s.mem.mphase = 0 ∧ s.mem.live = 0xFF ∧
  s.mgmt.plim = 2400 ∧ s.mgmt.swth = 1000 ∧ s.cmd.incarn = 1 ∧ s.cyc = 0 ∧ Memory.wf s.mem.cells = true

/-- R23, R37, R39 to R42: the value of an encoding, rounding to a format, and conversions. -/
def Obligations.NumbersAndConversions : Prop :=
  let floats : List Fmt := [.fp32, .bf16, .fp16, .k8, .k8w]
  let ints : List Fmt := [.int32, .int16, .int8, .uint8, .int4]
  -- fraction width, exponent width and bias
  let fields (f : Fmt) : Nat × Nat × Int := match f with
    | .bf16 => (7, 8, 127)
    | .fp16 => (10, 5, 15)
    | .k8 => (3, 4, 8)
    | .k8w => (2, 5, 16)
    | _ => (23, 8, 127)
  let isK (f : Fmt) : Prop := f = .k8 ∨ f = .k8w
  let sign (neg : Bool) : ℚ := if neg = true then -1 else 1
  let isVal (v : FVal) (neg : Bool) (x : ℚ) : Prop := ∃ (m : Nat) (e : Int), v = .fin neg m e ∧ sign neg * m * 2 ^ e = x
  -- R23: the value of an encoding
  (∀ f ∈ floats, ∀ b, b < 2 ^ f.width →
    let fw := (fields f).1
    let ew := (fields f).2.1
    let bias := (fields f).2.2
    let neg := b / 2 ^ (fw + ew) == 1
    let e : Nat := b / 2 ^ fw % 2 ^ ew
    let fr : Nat := b % 2 ^ fw
    (isK f → b = 0x80 → FVal.ofBits f b = .nan) ∧
    (e = 0 → ¬ (isK f ∧ b = 0x80) → isVal (FVal.ofBits f b) neg (sign neg * (fr / 2 ^ fw) * 2 ^ (1 - bias))) ∧
    (e ≠ 0 → (e ≠ 2 ^ ew - 1 ∨ isK f) → isVal (FVal.ofBits f b) neg (sign neg * (1 + fr / 2 ^ fw) * 2 ^ ((e : Int) - bias))) ∧
    (e = 2 ^ ew - 1 → ¬ isK f → FVal.ofBits f b = if fr = 0 then .inf neg else .nan)) ∧
  -- R37: a finite value is rounded once, to the grid of the format or beyond its end
  (∀ f ∈ floats, ∀ (env : NumEnv) (rm : Rm) (sat neg : Bool) (m : Nat) (e : Int), (f = .fp32 → env.ftz32 = false) →
    let fw := (fields f).1
    let ew := (fields f).2.1
    let bias := (fields f).2.2
    let v : ℚ := sign neg * m * 2 ^ e
    let top : Int := 2 ^ ew - (if f = .k8 ∨ f = .k8w then 1 else 2) - bias
    let largest : ℚ := (2 - 2 ^ (-(fw : Int))) * 2 ^ top
    let unit : ℚ := 2 ^ (top - fw)
    let r : Nat × Fl := roundTo env f rm sat (.fin neg m e)
    let rep (b : Nat) (x : ℚ) : Prop := b < 2 ^ f.width ∧ ∃ n, isVal (FVal.ofBits f b) n x
    let mx : Nat := (if neg = true then 2 ^ (f.width - 1) else 0) + (match f with
      | .bf16 => 0x7F7F
      | .fp16 => 0x7BFF
      | .k8 => 0x7F
      | .k8w => 0x7F
      | _ => 0x7F7FFFFF)
    let inf : Nat := (if neg = true then 2 ^ (f.width - 1) else 0) + (match f with
      | .bf16 => 0x7F80
      | .fp16 => 0x7C00
      | _ => 0x7F800000)
    -- within the range: the nearest or the next value in the direction of the mode
    (|v| ≤ largest → ∃ y, rep r.1 y ∧
      (match rm with
      | .rtz => |y| ≤ |v| ∧ 0 ≤ y * v ∧ ∀ b z, rep b z → |z| ≤ |v| → |z| ≤ |y|
      | .rup => v ≤ y ∧ ∀ b z, rep b z → v ≤ z → y ≤ z
      | .rdn => y ≤ v ∧ ∀ b z, rep b z → z ≤ v → z ≤ y
      | .rne => ∀ b z, rep b z → |y - v| ≤ |z - v| ∧ (|y - v| = |z - v| → z ≠ y → r.1 % 2 = 0)
      | .rna => ∀ b z, rep b z → |y - v| ≤ |z - v| ∧ (|y - v| = |z - v| → z ≠ y → |z| < |y|)) ∧
      (y = 0 → ¬ isK f → r.1 = if neg = true then 2 ^ (f.width - 1) else 0) ∧
      (y = v → r.2 = 0) ∧ (y ≠ v → r.2 = if |v| < 2 ^ (1 - bias) then 0x18 else 0x10)) ∧
    -- beyond it: OF and NX, and what the mode delivers, or the largest value where the mode rounds to it
    (let away : Prop := match rm with
      | .rne => largest + unit / 2 ≤ |v|
      | .rna => largest + unit / 2 ≤ |v|
      | .rtz => largest + unit ≤ |v|
      | .rup => if neg = true then largest + unit ≤ |v| else largest < |v|
      | .rdn => if neg = true then largest < |v| else largest + unit ≤ |v|
     let gives (b : Nat) (fl : Fl) : Prop := r = (b, fl)
     (largest < |v| → ¬ away → gives mx 0x10) ∧ (away → sat = true → gives mx 0x14) ∧ (away → sat = false → isK f → gives 0x80 0x34) ∧
     (away → sat = false → ¬ isK f → match rm with
       | .rne => gives inf 0x34
       | .rna => gives inf 0x34
       | .rtz => gives mx 0x14
       | .rup => if neg = true then gives mx 0x14 else gives inf 0x34
       | .rdn => if neg = true then gives inf 0x34 else gives mx 0x14))) ∧
  -- conversions
  (∀ (f g : Fmt) (env : NumEnv) (rm : Rm) (sat : Bool) (b : Nat), f ≠ g → b < 2 ^ f.width →
    let into : Nat × Fl := convert env f g rm sat b
    let v : FVal := if isSubnormalBits f b = true ∧ (if f = .fp32 then env.ftz32 else env.ftzn) = true then .fin (b / 2 ^ (f.width - 1) == 1) 0 0
      else FVal.ofBits f b
    let i : Int := if f ∈ [Fmt.int32, .int16, .int8, .int4] ∧ 2 ^ (f.width - 1) ≤ b then (b : Int) - 2 ^ f.width else b
    let lo : Int := if g ∈ [Fmt.int32, .int16, .int8, .int4] then -2 ^ (g.width - 1) else 0
    let hi : Int := if g ∈ [Fmt.int32, .int16, .int8, .int4] then 2 ^ (g.width - 1) - 1 else 2 ^ g.width - 1
    let bits (z : Int) : Nat := (z % 2 ^ g.width).toNat
    -- R39: NaN, infinities and finite values to a floating-point format
    (f ∈ floats → g ∈ floats →
      (v = .nan → into = (match g with
        | .fp32 => 0x7FC00000
        | .bf16 => 0x7FC0
        | .fp16 => 0x7E00
        | _ => 0x80, 0x20)) ∧
      (∀ neg, v = .inf neg → into = ((match g with
        | .fp32 => 0x7F800000 + if neg = true then 0x80000000 else 0
        | .bf16 => 0x7F80 + if neg = true then 0x8000 else 0
        | .fp16 => 0x7C00 + if neg = true then 0x8000 else 0
        | _ => if sat = true then 0x7F + (if neg = true then 0x80 else 0) else 0x80), 0x20)) ∧
      (∀ neg m e, v = .fin neg m e → into = roundTo env g rm sat (.fin neg m e))) ∧
    -- R40: to an integer, by the mode, then to the nearest end of the range
    (f ∈ floats → g ∈ ints →
      (v = .nan → into = (0, 0x21)) ∧ (∀ neg, v = .inf neg → into = (bits (if neg = true then lo else hi), 0x21)) ∧
      (∀ neg m e, v = .fin neg m e →
        let x : ℚ := sign neg * m * 2 ^ e
        ∃ z : Int, (match rm with
          | .rtz => |(z : ℚ)| ≤ |x| ∧ |x| < |(z : ℚ)| + 1 ∧ 0 ≤ z * x
          | .rup => x ≤ z ∧ (z : ℚ) < x + 1
          | .rdn => (z : ℚ) ≤ x ∧ x < z + 1
          | .rne => |x - z| ≤ 1 / 2 ∧ (|x - z| = 1 / 2 → z % 2 = 0)
          | .rna => |x - z| ≤ 1 / 2 ∧ (|x - z| = 1 / 2 → |x| < |(z : ℚ)|)) ∧
          ((z : ℚ) = x → into = if z < lo then (bits lo, 1) else if hi < z then (bits hi, 1) else (bits z, 0)) ∧
          ((z : ℚ) ≠ x → into = if z < lo then (bits lo, 0x11) else if hi < z then (bits hi, 0x11) else (bits z, 0x10)))) ∧
    -- R41: an integer is exact, and is rounded by ROUND; zero gives +0
    (f ∈ ints → g ∈ floats → into = roundTo env g rm sat (.fin (decide (i < 0)) i.natAbs 0) ∧ (i = 0 → into = (0, 0))) ∧
    -- R42: within the range exact, else the nearest end with OF, or the low bits
    (f ∈ ints ∨ f = .ix4 ∨ f = .ix8 → g ∈ ints ∨ g = .ix4 ∨ g = .ix8 →
      (lo ≤ i → i ≤ hi → into = (bits i, 0)) ∧ (i < lo → into = if sat = true then (bits lo, 4) else (bits i, 0)) ∧
      (hi < i → into = if sat = true then (bits hi, 4) else (bits i, 0))))
end

