-- ==== Sys2Proof/Laws/Alu.lean ====
section
/-! SUPPORT. The arithmetic of R192 and R193 in the terms of bit vectors. -/

set_option Elab.async false

namespace Sys2Proof.Machine

/-- Bits [127:64] of the product (R192). -/
theorem mulHigh_eq (a b : W64) : mulHigh a b = (a.signExtend 128 * b.signExtend 128).extractLsb' 64 64 := by
  have h : (a.signExtend 128 * b.signExtend 128) = BitVec.ofInt 128 (a.toInt * b.toInt) := by
    rw [BitVec.ofInt_mul]
    congr 1
  rw [h]
  apply BitVec.eq_of_toNat_eq
  simp only [mulHigh, BitVec.extractLsb'_toNat, BitVec.toNat_ofInt, Nat.shiftRight_eq_div_pow]
  generalize a.toInt * b.toInt = z
  omega
theorem mulHighU_eq (a b : W64) : mulHighU a b = (a.setWidth 128 * b.setWidth 128).extractLsb' 64 64 := by
  apply BitVec.eq_of_toNat_eq
  have ha := a.isLt; have hb := b.isLt
  have hm : a.toNat * b.toNat < 2 ^ 128 := by
    calc a.toNat * b.toNat < 2 ^ 64 * 2 ^ 64 := Nat.mul_lt_mul'' ha hb
      _ = 2 ^ 128 := by norm_num
  simp only [mulHighU, BitVec.extractLsb'_toNat, BitVec.toNat_mul, BitVec.toNat_setWidth, BitVec.toNat_ofNat, Nat.shiftRight_eq_div_pow]
  rw [Nat.mod_eq_of_lt (a := a.toNat) (by omega), Nat.mod_eq_of_lt (a := b.toNat) (by omega), Nat.mod_eq_of_lt hm]
/-- Division truncates, and by zero gives all ones (R193). -/
theorem divS_eq (a b : W64) : divS a b = if b = 0 then 0xFFFFFFFFFFFFFFFF else a.sdiv b := by
  unfold divS
  split
  · rfl
  · apply BitVec.eq_of_toInt_eq
    rw [BitVec.toInt_ofInt, BitVec.toInt_sdiv]
theorem divU_eq (a b : W64) : divU a b = if b = 0 then 0xFFFFFFFFFFFFFFFF else a / b := by
  unfold divU
  split
  · rfl
  · apply BitVec.eq_of_toNat_eq
    simp only [BitVec.toNat_ofNat, BitVec.toNat_udiv]
    exact Nat.mod_eq_of_lt (Nat.lt_of_le_of_lt (Nat.div_le_self _ _) a.isLt)
theorem remS_eq (a b : W64) : remS a b = if b = 0 then a else a.srem b := by
  unfold remS
  split
  · rfl
  · apply BitVec.eq_of_toInt_eq
    rw [BitVec.toInt_ofInt, ← BitVec.toInt_srem, BitVec.toInt_bmod_cancel]
theorem remU_eq (a b : W64) : remU a b = if b = 0 then a else a % b := by
  unfold remU
  split
  · rfl
  · apply BitVec.eq_of_toNat_eq
    simp only [BitVec.toNat_ofNat, BitVec.toNat_umod]
    exact Nat.mod_eq_of_lt (Nat.lt_of_le_of_lt (Nat.mod_le _ _) a.isLt)
theorem minS_eq (a b : W64) : minS a b = if a.toInt ≤ b.toInt then a else b := by
  unfold minS; simp only [BitVec.slt, decide_eq_true_eq]; split <;> split <;> first | rfl | omega
theorem maxS_eq (a b : W64) : maxS a b = if a.toInt ≤ b.toInt then b else a := by
  unfold maxS; simp only [BitVec.slt, decide_eq_true_eq]; split <;> split <;> first | rfl | omega | skip
  exact BitVec.eq_of_toInt_eq (by omega)
theorem minU_eq (a b : W64) : minU a b = if a ≤ b then a else b := by
  unfold minU; simp only [BitVec.ult, decide_eq_true_eq, BitVec.le_def]; split <;> split <;> first | rfl | omega
theorem maxU_eq (a b : W64) : maxU a b = if a ≤ b then b else a := by
  unfold maxU; simp only [BitVec.ult, decide_eq_true_eq, BitVec.le_def]; split <;> split <;> first | rfl | omega | skip
  exact BitVec.eq_of_toNat_eq (by omega)
/-- The bits above the first one bit, counted (R192). -/
theorem clz_spec (a : W64) : ∃ n : Nat, clz64 a = BitVec.ofNat 64 n ∧ n ≤ 64 ∧ (∀ i, 64 - n ≤ i → a.getLsbD i = false) ∧
      (n < 64 → a.getLsbD (63 - n) = true) := by
  by_cases h : a = 0
  · exact ⟨64, by simp [clz64, h], by omega, by simp [h], by omega⟩
  · have hn : a.toNat ≠ 0 := fun e => h (BitVec.eq_of_toNat_eq (by simpa using e))
    have hl : Nat.log2 a.toNat < 64 := (Nat.log2_lt hn).mpr a.isLt
    refine ⟨63 - Nat.log2 a.toNat, by unfold clz64; rw [if_neg h], by omega, fun i hi => ?_, fun _ => ?_⟩
    · have : a.toNat < 2 ^ i := Nat.lt_of_lt_of_le Nat.lt_log2_self (Nat.pow_le_pow_right (by omega) (by omega))
      simp [BitVec.getLsbD, Nat.testBit_lt_two_pow this]
    · have e : 63 - (63 - Nat.log2 a.toNat) = Nat.log2 a.toNat := by omega
      rw [e, BitVec.getLsbD, Nat.testBit_log2 hn]

end Sys2Proof.Machine
end

