-- ==== Sys2Proof/Laws/Sparse.lean ====
section
/-! SUPPORT. Sparse data by key: reading after writing, and the operations that keep the canonical form. -/

set_option Elab.async false

namespace Sys2Proof.Machine

variable {α : Type}

/-! ### Reading after writing -/

theorem sget_serase_self (d : α) (l : List (Nat × α)) (a : Nat) : sget d (serase a l) a = d := by
  induction l with
  | nil => rfl
  | cons p t ih =>
    obtain ⟨k, v⟩ := p
    by_cases h : k = a
    · subst h; simpa [serase] using ih
    · have h' : a ≠ k := fun e => h e.symm
      simpa [serase, h, sget, h'] using ih

theorem sget_serase_ne (d : α) (l : List (Nat × α)) {a b : Nat} (h : b ≠ a) : sget d (serase a l) b = sget d l b := by
  induction l with
  | nil => rfl
  | cons p t ih =>
    obtain ⟨k, v⟩ := p
    by_cases hk : k = a
    · subst hk; simpa [serase, sget, h] using ih
    · by_cases hb : b = k
      · simp [serase, hk, sget, hb]
      · simpa [serase, hk, sget, hb] using ih

theorem sget_sinsert_self (d : α) (l : List (Nat × α)) (a : Nat) (v : α) (h : ∀ p ∈ l, p.1 ≠ a) :
    sget d (sinsert a v l) a = v := by
  induction l with
  | nil => simp [sinsert, sget]
  | cons p t ih =>
    obtain ⟨k, w⟩ := p
    have hk : a ≠ k := fun e => h (k, w) (by simp) e.symm
    by_cases hl : a < k
    · simp [sinsert, hl, sget]
    · simp only [sinsert, hl, if_false, sget, hk]
      exact ih fun q hq => h q (List.mem_cons_of_mem _ hq)

theorem sget_sinsert_ne (d : α) (l : List (Nat × α)) {a b : Nat} (v : α) (h : b ≠ a) :
    sget d (sinsert a v l) b = sget d l b := by
  induction l with
  | nil => simp [sinsert, sget, h]
  | cons p t ih =>
    obtain ⟨k, w⟩ := p
    by_cases hl : a < k
    · simp [sinsert, hl, sget, h]
    · simp only [sinsert, hl, if_false, sget, ih]

variable [DecidableEq α]

/-- A read after a write to the same key gives what was written. -/
@[simp] theorem sget_sset_self (d : α) (l : List (Nat × α)) (a : Nat) (v : α) : sget d (sset d l a v) a = v := by
  unfold sset
  split
  · subst v; exact sget_serase_self d l a
  · exact sget_sinsert_self d _ a v fun p hp => by simpa [serase] using (List.mem_filter.mp hp).2

/-- A write leaves every other key. -/
theorem sget_sset_ne (d : α) (l : List (Nat × α)) {a b : Nat} (v : α) (h : b ≠ a) : sget d (sset d l a v) b = sget d l b := by
  unfold sset
  split
  · exact sget_serase_ne d l h
  · rw [sget_sinsert_ne d _ v h, sget_serase_ne d l h]

theorem sget_sset (d : α) (l : List (Nat × α)) (a b : Nat) (v : α) :
    sget d (sset d l a v) b = if b = a then v else sget d l b := by
  split
  · subst b; simp
  · exact sget_sset_ne d l v ‹_›

/-- A run that is written leaves the keys outside it. -/
theorem sget_ssetRun_ne (d : α) (l : List (Nat × α)) (a b : Nat) (vs : List α) (h : b < a ∨ a + vs.length ≤ b) :
    sget d (ssetRun d l a vs) b = sget d l b := by
  induction vs generalizing l a with
  | nil => rfl
  | cons v t ih =>
    simp only [List.length_cons] at h
    rw [ssetRun, ih _ _ (by omega), sget_sset_ne d l v (by omega)]

/-- A run that is written is read back. -/
theorem sget_ssetRun (d : α) (l : List (Nat × α)) (a i : Nat) (vs : List α) (h : i < vs.length) :
    sget d (ssetRun d l a vs) (a + i) = vs[i] := by
  induction vs generalizing l a i with
  | nil => exact absurd h (by simp)
  | cons v t ih =>
    cases i with
    | zero => simp [ssetRun, sget_ssetRun_ne d _ (a + 1) a t (by omega)]
    | succ j =>
      have := ih (sset d l a v) (a + 1) j (by simpa using h)
      simpa [ssetRun, Nat.add_assoc, Nat.add_comm 1 j] using this

omit [DecidableEq α] in
theorem sgetRun_length (d : α) (l : List (Nat × α)) (a n : Nat) : (sgetRun d l a n).length = n := by
  induction n generalizing a with
  | zero => rfl
  | succ n ih => simp [sgetRun, ih]

omit [DecidableEq α] in
theorem sgetRun_congr (d : α) (l m : List (Nat × α)) (a n : Nat) (h : ∀ i, i < n → sget d l (a + i) = sget d m (a + i)) :
    sgetRun d l a n = sgetRun d m a n := by
  induction n generalizing a with
  | zero => rfl
  | succ n ih =>
    simp only [sgetRun]
    rw [show sget d l a = sget d m a from h 0 (by omega), ih (a + 1) fun i hi => by
      simpa [Nat.add_assoc, Nat.add_comm 1 i] using h (i + 1) (by omega)]

omit [DecidableEq α] in
theorem sgetRun_getElem (d : α) (l : List (Nat × α)) (a n i : Nat) (h : i < (sgetRun d l a n).length) :
    (sgetRun d l a n)[i] = sget d l (a + i) := by
  induction n generalizing a i with
  | zero => exact absurd h (by simp [sgetRun])
  | succ n ih =>
    cases i with
    | zero => simp [sgetRun]
    | succ j =>
      have hj : j < (sgetRun d l (a + 1) n).length := by
        rw [sgetRun_length] at h ⊢; omega
      simpa [sgetRun, Nat.add_assoc, Nat.add_comm 1 j] using ih (a + 1) j hj

/-- What a run of writes leaves is what a run of reads gives. -/
theorem sgetRun_ssetRun (d : α) (l : List (Nat × α)) (a : Nat) (vs : List α) :
    sgetRun d (ssetRun d l a vs) a vs.length = vs := by
  refine List.ext_getElem (sgetRun_length ..) fun i h1 h2 => ?_
  rw [sgetRun_getElem, sget_ssetRun d l a i vs h2]

omit [DecidableEq α] in
/-- Keys that are cleared read as the unlisted value; the others stay. -/
theorem sget_sclear (d : α) (lo hi : Nat) (l : List (Nat × α)) (a : Nat) :
    sget d (sclear lo hi l) a = if lo ≤ a ∧ a < hi then d else sget d l a := by
  induction l with
  | nil => simp [sclear, sget]
  | cons p t ih =>
    obtain ⟨k, v⟩ := p
    unfold sclear at ih ⊢
    by_cases hk : k < lo ∨ hi ≤ k
    · have hk' : (decide (k < lo) || decide (hi ≤ k)) = true := by simpa using hk
      rw [List.filter_cons_of_pos (by simpa using hk)]
      by_cases ha : a = k
      · subst ha
        simp only [sget, if_true]
        rw [if_neg (by omega)]
      · simp only [sget, ha, if_false, ih]
    · rw [List.filter_cons_of_neg (by simpa using hk), ih]
      by_cases ha : a = k
      · subst ha; rw [if_pos (by omega), if_pos (by omega)]
      · simp only [sget, ha, if_false]

/-! ### The canonical form -/

omit [DecidableEq α] in
theorem ssorted_cons (k : Nat) (v : α) (t : List (Nat × α)) :
    ssorted ((k, v) :: t) = true ↔ (∀ p ∈ t, k < p.1) ∧ ssorted t = true := by
  simp [ssorted, List.all_eq_true]

theorem swf_iff (d : α) (l : List (Nat × α)) : swf d l = true ↔ ssorted l = true ∧ ∀ p ∈ l, p.2 ≠ d := by
  simp [swf, List.all_eq_true]

omit [DecidableEq α] in
theorem ssorted_filter (f : Nat × α → Bool) (l : List (Nat × α)) (h : ssorted l = true) : ssorted (l.filter f) = true := by
  induction l with
  | nil => rfl
  | cons p t ih =>
    obtain ⟨k, v⟩ := p
    obtain ⟨h1, h2⟩ := (ssorted_cons k v t).mp h
    by_cases hf : f (k, v) = true
    · rw [List.filter_cons_of_pos hf]
      exact (ssorted_cons _ _ _).mpr ⟨fun q hq => h1 q (List.mem_filter.mp hq).1, ih h2⟩
    · rw [List.filter_cons_of_neg hf]; exact ih h2

/-- Dropping entries keeps the canonical form. -/
theorem swf_filter (d : α) (f : Nat × α → Bool) (l : List (Nat × α)) (h : swf d l = true) : swf d (l.filter f) = true := by
  obtain ⟨h1, h2⟩ := (swf_iff d l).mp h
  exact (swf_iff d _).mpr ⟨ssorted_filter f l h1, fun p hp => h2 p (List.mem_filter.mp hp).1⟩

omit [DecidableEq α] in
theorem mem_sinsert (a : Nat) (v : α) (l : List (Nat × α)) (p : Nat × α) (h : p ∈ sinsert a v l) : p = (a, v) ∨ p ∈ l := by
  induction l with
  | nil => simpa [sinsert] using h
  | cons q t ih =>
    obtain ⟨k, w⟩ := q
    unfold sinsert at h
    split at h
    · simpa using h
    · rcases List.mem_cons.mp h with e | e
      · exact .inr (by simp [e])
      · rcases ih e with e | e
        · exact .inl e
        · exact .inr (by simp [e])

omit [DecidableEq α] in
theorem ssorted_sinsert (a : Nat) (v : α) (l : List (Nat × α)) (h : ssorted l = true) (hn : ∀ p ∈ l, p.1 ≠ a) :
    ssorted (sinsert a v l) = true := by
  induction l with
  | nil => rfl
  | cons q t ih =>
    obtain ⟨k, w⟩ := q
    obtain ⟨h1, h2⟩ := (ssorted_cons k w t).mp h
    unfold sinsert
    split
    · refine (ssorted_cons _ _ _).mpr ⟨fun p hp => ?_, h⟩
      rcases List.mem_cons.mp hp with e | e
      · simpa [e]
      · exact Nat.lt_trans ‹_› (h1 p e)
    · refine (ssorted_cons _ _ _).mpr ⟨fun p hp => ?_, ih h2 fun p hp => hn p (List.mem_cons_of_mem _ hp)⟩
      rcases mem_sinsert a v t p hp with e | e
      · have := hn (k, w) (by simp)
        simp only [e]; simp only at this; omega
      · exact h1 p e

/-- A write keeps the canonical form. -/
theorem swf_sset (d : α) (l : List (Nat × α)) (a : Nat) (v : α) (h : swf d l = true) : swf d (sset d l a v) = true := by
  have he : swf d (serase a l) = true := swf_filter d _ l h
  unfold sset
  split
  · exact he
  · obtain ⟨h1, h2⟩ := (swf_iff d _).mp he
    refine (swf_iff d _).mpr ⟨ssorted_sinsert a v _ h1 fun p hp => by simpa [serase] using (List.mem_filter.mp hp).2, fun p hp => ?_⟩
    rcases mem_sinsert a v _ p hp with e | e
    · simpa [e]
    · exact h2 p e

/-- A run of writes keeps the canonical form. -/
theorem swf_ssetRun (d : α) (l : List (Nat × α)) (a : Nat) (vs : List α) (h : swf d l = true) :
    swf d (ssetRun d l a vs) = true := by
  induction vs generalizing l a with
  | nil => exact h
  | cons v t ih => exact ih _ _ (swf_sset d l a v h)

/-- Clearing a range keeps the canonical form. -/
theorem swf_sclear (d : α) (lo hi : Nat) (l : List (Nat × α)) (h : swf d l = true) : swf d (sclear lo hi l) = true :=
  swf_filter d _ l h

/-- A fold of steps that each keep a property keeps it. -/
theorem foldl_keep {β γ : Type} (P : β → Prop) (f : β → γ → β) (l : List γ) (b : β) (hb : P b)
    (hf : ∀ b c, c ∈ l → P b → P (f b c)) : P (l.foldl f b) := by
  induction l generalizing b with
  | nil => exact hb
  | cons c t ih =>
    exact ih (f b c) (hf b c (by simp) hb) fun b' c' hc' => hf b' c' (List.mem_cons_of_mem _ hc')

end Sys2Proof.Machine
end

