-- ==== Sys2Proof/Laws/State.lean ====
section
/-! SUPPORT. What each update of the state, of a core and of a context leaves and changes: one lemma per field per update. -/

set_option Elab.async false

namespace Sys2Proof.Machine

/-! ### The state -/

@[simp] theorem State.setCore_cores (s : State) (k : Fin 128) (c : Core) : (s.setCore k c).cores = s.cores.set k c := rfl
@[simp] theorem State.setCore_quads (s : State) (k : Fin 128) (c : Core) : (s.setCore k c).quads = s.quads := rfl
@[simp] theorem State.setCore_mem (s : State) (k : Fin 128) (c : Core) : (s.setCore k c).mem = s.mem := rfl
@[simp] theorem State.setCore_cmd (s : State) (k : Fin 128) (c : Core) : (s.setCore k c).cmd = s.cmd := rfl
@[simp] theorem State.setCore_stages (s : State) (k : Fin 128) (c : Core) : (s.setCore k c).stages = s.stages := rfl
@[simp] theorem State.setCore_fab (s : State) (k : Fin 128) (c : Core) : (s.setCore k c).fab = s.fab := rfl
@[simp] theorem State.setCore_mgmt (s : State) (k : Fin 128) (c : Core) : (s.setCore k c).mgmt = s.mgmt := rfl
@[simp] theorem State.setCore_pod (s : State) (k : Fin 128) (c : Core) : (s.setCore k c).pod = s.pod := rfl
@[simp] theorem State.setCore_cyc (s : State) (k : Fin 128) (c : Core) : (s.setCore k c).cyc = s.cyc := rfl
@[simp] theorem State.setCore_time (s : State) (k : Fin 128) (c : Core) : (s.setCore k c).time = s.time := rfl
@[simp] theorem State.setCore_turns (s : State) (k : Fin 128) (c : Core) : (s.setCore k c).turns = s.turns := rfl
@[simp] theorem State.setCore_cur (s : State) (k : Fin 128) (c : Core) : (s.setCore k c).cur = s.cur := rfl
@[simp] theorem State.setCore_outbox (s : State) (k : Fin 128) (c : Core) : (s.setCore k c).outbox = s.outbox := rfl
@[simp] theorem State.setCore_freeCtr (s : State) (k : Fin 128) (c : Core) : (s.setCore k c).freeCtr = s.freeCtr := rfl
@[simp] theorem State.setCore_tick (s : State) (k : Fin 128) (c : Core) : (s.setCore k c).tick = s.tick := rfl
@[simp] theorem State.setCore_place (s : State) (k : Fin 128) (c : Core) : (s.setCore k c).place = s.place := rfl
@[simp] theorem State.setQuad_cores (s : State) (q : Fin 32) (x : Quad) : (s.setQuad q x).cores = s.cores := rfl
@[simp] theorem State.setQuad_quads (s : State) (q : Fin 32) (x : Quad) : (s.setQuad q x).quads = s.quads.set q x := rfl
@[simp] theorem State.setQuad_mem (s : State) (q : Fin 32) (x : Quad) : (s.setQuad q x).mem = s.mem := rfl
@[simp] theorem State.setQuad_cmd (s : State) (q : Fin 32) (x : Quad) : (s.setQuad q x).cmd = s.cmd := rfl
@[simp] theorem State.setQuad_stages (s : State) (q : Fin 32) (x : Quad) : (s.setQuad q x).stages = s.stages := rfl
@[simp] theorem State.setQuad_fab (s : State) (q : Fin 32) (x : Quad) : (s.setQuad q x).fab = s.fab := rfl
@[simp] theorem State.setQuad_mgmt (s : State) (q : Fin 32) (x : Quad) : (s.setQuad q x).mgmt = s.mgmt := rfl
@[simp] theorem State.setQuad_pod (s : State) (q : Fin 32) (x : Quad) : (s.setQuad q x).pod = s.pod := rfl
@[simp] theorem State.setQuad_cyc (s : State) (q : Fin 32) (x : Quad) : (s.setQuad q x).cyc = s.cyc := rfl
@[simp] theorem State.setQuad_time (s : State) (q : Fin 32) (x : Quad) : (s.setQuad q x).time = s.time := rfl
@[simp] theorem State.setQuad_turns (s : State) (q : Fin 32) (x : Quad) : (s.setQuad q x).turns = s.turns := rfl
@[simp] theorem State.setQuad_cur (s : State) (q : Fin 32) (x : Quad) : (s.setQuad q x).cur = s.cur := rfl
@[simp] theorem State.setQuad_outbox (s : State) (q : Fin 32) (x : Quad) : (s.setQuad q x).outbox = s.outbox := rfl
@[simp] theorem State.setQuad_freeCtr (s : State) (q : Fin 32) (x : Quad) : (s.setQuad q x).freeCtr = s.freeCtr := rfl
@[simp] theorem State.setQuad_tick (s : State) (q : Fin 32) (x : Quad) : (s.setQuad q x).tick = s.tick := rfl
@[simp] theorem State.setQuad_place (s : State) (q : Fin 32) (x : Quad) : (s.setQuad q x).place = s.place := rfl
@[simp] theorem State.setMem_cores (s : State) (m : MemSide) : (s.setMem m).cores = s.cores := rfl
@[simp] theorem State.setMem_quads (s : State) (m : MemSide) : (s.setMem m).quads = s.quads := rfl
@[simp] theorem State.setMem_mem (s : State) (m : MemSide) : (s.setMem m).mem = m := rfl
@[simp] theorem State.setMem_cmd (s : State) (m : MemSide) : (s.setMem m).cmd = s.cmd := rfl
@[simp] theorem State.setMem_stages (s : State) (m : MemSide) : (s.setMem m).stages = s.stages := rfl
@[simp] theorem State.setMem_fab (s : State) (m : MemSide) : (s.setMem m).fab = s.fab := rfl
@[simp] theorem State.setMem_mgmt (s : State) (m : MemSide) : (s.setMem m).mgmt = s.mgmt := rfl
@[simp] theorem State.setMem_pod (s : State) (m : MemSide) : (s.setMem m).pod = s.pod := rfl
@[simp] theorem State.setMem_cyc (s : State) (m : MemSide) : (s.setMem m).cyc = s.cyc := rfl
@[simp] theorem State.setMem_time (s : State) (m : MemSide) : (s.setMem m).time = s.time := rfl
@[simp] theorem State.setMem_turns (s : State) (m : MemSide) : (s.setMem m).turns = s.turns := rfl
@[simp] theorem State.setMem_cur (s : State) (m : MemSide) : (s.setMem m).cur = s.cur := rfl
@[simp] theorem State.setMem_outbox (s : State) (m : MemSide) : (s.setMem m).outbox = s.outbox := rfl
@[simp] theorem State.setMem_freeCtr (s : State) (m : MemSide) : (s.setMem m).freeCtr = s.freeCtr := rfl
@[simp] theorem State.setMem_tick (s : State) (m : MemSide) : (s.setMem m).tick = s.tick := rfl
@[simp] theorem State.setMem_place (s : State) (m : MemSide) : (s.setMem m).place = s.place := rfl
@[simp] theorem State.setCmd_cores (s : State) (x : CmdProc) : (s.setCmd x).cores = s.cores := rfl
@[simp] theorem State.setCmd_quads (s : State) (x : CmdProc) : (s.setCmd x).quads = s.quads := rfl
@[simp] theorem State.setCmd_mem (s : State) (x : CmdProc) : (s.setCmd x).mem = s.mem := rfl
@[simp] theorem State.setCmd_cmd (s : State) (x : CmdProc) : (s.setCmd x).cmd = x := rfl
@[simp] theorem State.setCmd_stages (s : State) (x : CmdProc) : (s.setCmd x).stages = s.stages := rfl
@[simp] theorem State.setCmd_fab (s : State) (x : CmdProc) : (s.setCmd x).fab = s.fab := rfl
@[simp] theorem State.setCmd_mgmt (s : State) (x : CmdProc) : (s.setCmd x).mgmt = s.mgmt := rfl
@[simp] theorem State.setCmd_pod (s : State) (x : CmdProc) : (s.setCmd x).pod = s.pod := rfl
@[simp] theorem State.setCmd_cyc (s : State) (x : CmdProc) : (s.setCmd x).cyc = s.cyc := rfl
@[simp] theorem State.setCmd_time (s : State) (x : CmdProc) : (s.setCmd x).time = s.time := rfl
@[simp] theorem State.setCmd_turns (s : State) (x : CmdProc) : (s.setCmd x).turns = s.turns := rfl
@[simp] theorem State.setCmd_cur (s : State) (x : CmdProc) : (s.setCmd x).cur = s.cur := rfl
@[simp] theorem State.setCmd_outbox (s : State) (x : CmdProc) : (s.setCmd x).outbox = s.outbox := rfl
@[simp] theorem State.setCmd_freeCtr (s : State) (x : CmdProc) : (s.setCmd x).freeCtr = s.freeCtr := rfl
@[simp] theorem State.setCmd_tick (s : State) (x : CmdProc) : (s.setCmd x).tick = s.tick := rfl
@[simp] theorem State.setCmd_place (s : State) (x : CmdProc) : (s.setCmd x).place = s.place := rfl
@[simp] theorem State.setStages_cores (s : State) (x : Stages) : (s.setStages x).cores = s.cores := rfl
@[simp] theorem State.setStages_quads (s : State) (x : Stages) : (s.setStages x).quads = s.quads := rfl
@[simp] theorem State.setStages_mem (s : State) (x : Stages) : (s.setStages x).mem = s.mem := rfl
@[simp] theorem State.setStages_cmd (s : State) (x : Stages) : (s.setStages x).cmd = s.cmd := rfl
@[simp] theorem State.setStages_stages (s : State) (x : Stages) : (s.setStages x).stages = x := rfl
@[simp] theorem State.setStages_fab (s : State) (x : Stages) : (s.setStages x).fab = s.fab := rfl
@[simp] theorem State.setStages_mgmt (s : State) (x : Stages) : (s.setStages x).mgmt = s.mgmt := rfl
@[simp] theorem State.setStages_pod (s : State) (x : Stages) : (s.setStages x).pod = s.pod := rfl
@[simp] theorem State.setStages_cyc (s : State) (x : Stages) : (s.setStages x).cyc = s.cyc := rfl
@[simp] theorem State.setStages_time (s : State) (x : Stages) : (s.setStages x).time = s.time := rfl
@[simp] theorem State.setStages_turns (s : State) (x : Stages) : (s.setStages x).turns = s.turns := rfl
@[simp] theorem State.setStages_cur (s : State) (x : Stages) : (s.setStages x).cur = s.cur := rfl
@[simp] theorem State.setStages_outbox (s : State) (x : Stages) : (s.setStages x).outbox = s.outbox := rfl
@[simp] theorem State.setStages_freeCtr (s : State) (x : Stages) : (s.setStages x).freeCtr = s.freeCtr := rfl
@[simp] theorem State.setStages_tick (s : State) (x : Stages) : (s.setStages x).tick = s.tick := rfl
@[simp] theorem State.setStages_place (s : State) (x : Stages) : (s.setStages x).place = s.place := rfl
@[simp] theorem State.setFab_cores (s : State) (x : Fabric) : (s.setFab x).cores = s.cores := rfl
@[simp] theorem State.setFab_quads (s : State) (x : Fabric) : (s.setFab x).quads = s.quads := rfl
@[simp] theorem State.setFab_mem (s : State) (x : Fabric) : (s.setFab x).mem = s.mem := rfl
@[simp] theorem State.setFab_cmd (s : State) (x : Fabric) : (s.setFab x).cmd = s.cmd := rfl
@[simp] theorem State.setFab_stages (s : State) (x : Fabric) : (s.setFab x).stages = s.stages := rfl
@[simp] theorem State.setFab_fab (s : State) (x : Fabric) : (s.setFab x).fab = x := rfl
@[simp] theorem State.setFab_mgmt (s : State) (x : Fabric) : (s.setFab x).mgmt = s.mgmt := rfl
@[simp] theorem State.setFab_pod (s : State) (x : Fabric) : (s.setFab x).pod = s.pod := rfl
@[simp] theorem State.setFab_cyc (s : State) (x : Fabric) : (s.setFab x).cyc = s.cyc := rfl
@[simp] theorem State.setFab_time (s : State) (x : Fabric) : (s.setFab x).time = s.time := rfl
@[simp] theorem State.setFab_turns (s : State) (x : Fabric) : (s.setFab x).turns = s.turns := rfl
@[simp] theorem State.setFab_cur (s : State) (x : Fabric) : (s.setFab x).cur = s.cur := rfl
@[simp] theorem State.setFab_outbox (s : State) (x : Fabric) : (s.setFab x).outbox = s.outbox := rfl
@[simp] theorem State.setFab_freeCtr (s : State) (x : Fabric) : (s.setFab x).freeCtr = s.freeCtr := rfl
@[simp] theorem State.setFab_tick (s : State) (x : Fabric) : (s.setFab x).tick = s.tick := rfl
@[simp] theorem State.setFab_place (s : State) (x : Fabric) : (s.setFab x).place = s.place := rfl
@[simp] theorem State.setMgmt_cores (s : State) (x : Mgmt) : (s.setMgmt x).cores = s.cores := rfl
@[simp] theorem State.setMgmt_quads (s : State) (x : Mgmt) : (s.setMgmt x).quads = s.quads := rfl
@[simp] theorem State.setMgmt_mem (s : State) (x : Mgmt) : (s.setMgmt x).mem = s.mem := rfl
@[simp] theorem State.setMgmt_cmd (s : State) (x : Mgmt) : (s.setMgmt x).cmd = s.cmd := rfl
@[simp] theorem State.setMgmt_stages (s : State) (x : Mgmt) : (s.setMgmt x).stages = s.stages := rfl
@[simp] theorem State.setMgmt_fab (s : State) (x : Mgmt) : (s.setMgmt x).fab = s.fab := rfl
@[simp] theorem State.setMgmt_mgmt (s : State) (x : Mgmt) : (s.setMgmt x).mgmt = x := rfl
@[simp] theorem State.setMgmt_pod (s : State) (x : Mgmt) : (s.setMgmt x).pod = s.pod := rfl
@[simp] theorem State.setMgmt_cyc (s : State) (x : Mgmt) : (s.setMgmt x).cyc = s.cyc := rfl
@[simp] theorem State.setMgmt_time (s : State) (x : Mgmt) : (s.setMgmt x).time = s.time := rfl
@[simp] theorem State.setMgmt_turns (s : State) (x : Mgmt) : (s.setMgmt x).turns = s.turns := rfl
@[simp] theorem State.setMgmt_cur (s : State) (x : Mgmt) : (s.setMgmt x).cur = s.cur := rfl
@[simp] theorem State.setMgmt_outbox (s : State) (x : Mgmt) : (s.setMgmt x).outbox = s.outbox := rfl
@[simp] theorem State.setMgmt_freeCtr (s : State) (x : Mgmt) : (s.setMgmt x).freeCtr = s.freeCtr := rfl
@[simp] theorem State.setMgmt_tick (s : State) (x : Mgmt) : (s.setMgmt x).tick = s.tick := rfl
@[simp] theorem State.setMgmt_place (s : State) (x : Mgmt) : (s.setMgmt x).place = s.place := rfl
@[simp] theorem State.send_cores (s : State) (m : OutMsg) : (s.send m).cores = s.cores := rfl
@[simp] theorem State.send_quads (s : State) (m : OutMsg) : (s.send m).quads = s.quads := rfl
@[simp] theorem State.send_mem (s : State) (m : OutMsg) : (s.send m).mem = s.mem := rfl
@[simp] theorem State.send_cmd (s : State) (m : OutMsg) : (s.send m).cmd = s.cmd := rfl
@[simp] theorem State.send_stages (s : State) (m : OutMsg) : (s.send m).stages = s.stages := rfl
@[simp] theorem State.send_fab (s : State) (m : OutMsg) : (s.send m).fab = s.fab := rfl
@[simp] theorem State.send_mgmt (s : State) (m : OutMsg) : (s.send m).mgmt = s.mgmt := rfl
@[simp] theorem State.send_pod (s : State) (m : OutMsg) : (s.send m).pod = s.pod := rfl
@[simp] theorem State.send_cyc (s : State) (m : OutMsg) : (s.send m).cyc = s.cyc := rfl
@[simp] theorem State.send_time (s : State) (m : OutMsg) : (s.send m).time = s.time := rfl
@[simp] theorem State.send_turns (s : State) (m : OutMsg) : (s.send m).turns = s.turns := rfl
@[simp] theorem State.send_cur (s : State) (m : OutMsg) : (s.send m).cur = s.cur := rfl
@[simp] theorem State.send_outbox (s : State) (m : OutMsg) : (s.send m).outbox = s.outbox ++ [m] := rfl
@[simp] theorem State.send_freeCtr (s : State) (m : OutMsg) : (s.send m).freeCtr = s.freeCtr := rfl
@[simp] theorem State.send_tick (s : State) (m : OutMsg) : (s.send m).tick = s.tick := rfl
@[simp] theorem State.send_place (s : State) (m : OutMsg) : (s.send m).place = s.place := rfl

/-! ### Cores, quads, contexts and engines of an updated state -/

@[simp] theorem State.setCore_quad (s : State) (k : Fin 128) (c : Core) (j : Fin 32) : (s.setCore k c).quad j = s.quad j := rfl
@[simp] theorem State.setQuad_core (s : State) (q : Fin 32) (x : Quad) (j : Fin 128) : (s.setQuad q x).core j = s.core j := rfl
@[simp] theorem State.setQuad_ctx (s : State) (q : Fin 32) (x : Quad) (j : Fin 128) (i : CtxId) : (s.setQuad q x).ctx j i = s.ctx j i := rfl
@[simp] theorem State.setQuad_eng (s : State) (q : Fin 32) (x : Quad) (j : Fin 128) (e : Engine) : (s.setQuad q x).eng j e = s.eng j e := rfl
@[simp] theorem State.setMem_core (s : State) (m : MemSide) (j : Fin 128) : (s.setMem m).core j = s.core j := rfl
@[simp] theorem State.setMem_quad (s : State) (m : MemSide) (j : Fin 32) : (s.setMem m).quad j = s.quad j := rfl
@[simp] theorem State.setMem_ctx (s : State) (m : MemSide) (j : Fin 128) (i : CtxId) : (s.setMem m).ctx j i = s.ctx j i := rfl
@[simp] theorem State.setMem_eng (s : State) (m : MemSide) (j : Fin 128) (e : Engine) : (s.setMem m).eng j e = s.eng j e := rfl
@[simp] theorem State.setCmd_core (s : State) (x : CmdProc) (j : Fin 128) : (s.setCmd x).core j = s.core j := rfl
@[simp] theorem State.setCmd_quad (s : State) (x : CmdProc) (j : Fin 32) : (s.setCmd x).quad j = s.quad j := rfl
@[simp] theorem State.setCmd_ctx (s : State) (x : CmdProc) (j : Fin 128) (i : CtxId) : (s.setCmd x).ctx j i = s.ctx j i := rfl
@[simp] theorem State.setCmd_eng (s : State) (x : CmdProc) (j : Fin 128) (e : Engine) : (s.setCmd x).eng j e = s.eng j e := rfl
@[simp] theorem State.setStages_core (s : State) (x : Stages) (j : Fin 128) : (s.setStages x).core j = s.core j := rfl
@[simp] theorem State.setStages_quad (s : State) (x : Stages) (j : Fin 32) : (s.setStages x).quad j = s.quad j := rfl
@[simp] theorem State.setStages_ctx (s : State) (x : Stages) (j : Fin 128) (i : CtxId) : (s.setStages x).ctx j i = s.ctx j i := rfl
@[simp] theorem State.setStages_eng (s : State) (x : Stages) (j : Fin 128) (e : Engine) : (s.setStages x).eng j e = s.eng j e := rfl
@[simp] theorem State.setFab_core (s : State) (x : Fabric) (j : Fin 128) : (s.setFab x).core j = s.core j := rfl
@[simp] theorem State.setFab_quad (s : State) (x : Fabric) (j : Fin 32) : (s.setFab x).quad j = s.quad j := rfl
@[simp] theorem State.setFab_ctx (s : State) (x : Fabric) (j : Fin 128) (i : CtxId) : (s.setFab x).ctx j i = s.ctx j i := rfl
@[simp] theorem State.setFab_eng (s : State) (x : Fabric) (j : Fin 128) (e : Engine) : (s.setFab x).eng j e = s.eng j e := rfl
@[simp] theorem State.setMgmt_core (s : State) (x : Mgmt) (j : Fin 128) : (s.setMgmt x).core j = s.core j := rfl
@[simp] theorem State.setMgmt_quad (s : State) (x : Mgmt) (j : Fin 32) : (s.setMgmt x).quad j = s.quad j := rfl
@[simp] theorem State.setMgmt_ctx (s : State) (x : Mgmt) (j : Fin 128) (i : CtxId) : (s.setMgmt x).ctx j i = s.ctx j i := rfl
@[simp] theorem State.setMgmt_eng (s : State) (x : Mgmt) (j : Fin 128) (e : Engine) : (s.setMgmt x).eng j e = s.eng j e := rfl
@[simp] theorem State.send_core (s : State) (m : OutMsg) (j : Fin 128) : (s.send m).core j = s.core j := rfl
@[simp] theorem State.send_quad (s : State) (m : OutMsg) (j : Fin 32) : (s.send m).quad j = s.quad j := rfl
@[simp] theorem State.send_ctx (s : State) (m : OutMsg) (j : Fin 128) (i : CtxId) : (s.send m).ctx j i = s.ctx j i := rfl
@[simp] theorem State.send_eng (s : State) (m : OutMsg) (j : Fin 128) (e : Engine) : (s.send m).eng j e = s.eng j e := rfl

@[simp] theorem State.setCore_core_self (s : State) (k : Fin 128) (c : Core) : (s.setCore k c).core k = c := by
  simp [State.core, State.setCore]
theorem State.setCore_core_ne (s : State) {k j : Fin 128} (c : Core) (h : j ≠ k) : (s.setCore k c).core j = s.core j := by
  have : (k : Nat) ≠ j := fun e => h (Fin.ext e.symm)
  simp [State.core, State.setCore, this]
@[simp] theorem State.setQuad_quad_self (s : State) (q : Fin 32) (x : Quad) : (s.setQuad q x).quad q = x := by
  simp [State.quad, State.setQuad]
theorem State.setQuad_quad_ne (s : State) {q j : Fin 32} (x : Quad) (h : j ≠ q) : (s.setQuad q x).quad j = s.quad j := by
  have : (q : Nat) ≠ j := fun e => h (Fin.ext e.symm)
  simp [State.quad, State.setQuad, this]

@[simp] theorem State.setCore_self (s : State) (k : Fin 128) : s.setCore k (s.core k) = s := by
  simp [State.setCore, State.core]
@[simp] theorem State.setCore_setCore (s : State) (k : Fin 128) (c d : Core) : (s.setCore k c).setCore k d = s.setCore k d := by
  simp [State.setCore]
@[simp] theorem State.setMem_self (s : State) : s.setMem s.mem = s := rfl
@[simp] theorem State.setMem_setMem (s : State) (m n : MemSide) : (s.setMem m).setMem n = s.setMem n := rfl

/-! ### Contexts and engines of a core -/

@[simp] theorem Core.setCtx_ctx_self (c : Core) (i : CtxId) (x : Ctx) : (c.setCtx i x).ctx i = x := by cases i <;> rfl
theorem Core.setCtx_ctx_ne (c : Core) {i j : CtxId} (x : Ctx) (h : j ≠ i) : (c.setCtx i x).ctx j = c.ctx j := by
  cases i <;> cases j <;> first | rfl | exact absurd rfl h
@[simp] theorem Core.setCtx_self (c : Core) (i : CtxId) : c.setCtx i (c.ctx i) = c := by cases i <;> rfl
@[simp] theorem Core.setCtx_setCtx (c : Core) (i : CtxId) (x y : Ctx) : (c.setCtx i x).setCtx i y = c.setCtx i y := by
  cases i <;> rfl
@[simp] theorem Core.setCtx_eng (c : Core) (i : CtxId) (x : Ctx) (e : Engine) : (c.setCtx i x).eng e = c.eng e := by
  cases i <;> cases e <;> rfl
@[simp] theorem Core.setEng_eng_self (c : Core) (e : Engine) (y : Eng) : (c.setEng e y).eng e = y := by cases e <;> rfl
theorem Core.setEng_eng_ne (c : Core) {e f : Engine} (y : Eng) (h : f ≠ e) : (c.setEng e y).eng f = c.eng f := by
  cases e <;> cases f <;> first | rfl | exact absurd rfl h
@[simp] theorem Core.setEng_ctx (c : Core) (e : Engine) (y : Eng) (i : CtxId) : (c.setEng e y).ctx i = c.ctx i := by
  cases i <;> cases e <;> rfl

@[simp] theorem Core.setCtx_a (c : Core) (i : CtxId) (x : Ctx) : (c.setCtx i x).a = c.a := by cases i <;> rfl
@[simp] theorem Core.setCtx_v (c : Core) (i : CtxId) (x : Ctx) : (c.setCtx i x).v = c.v := by cases i <;> rfl
@[simp] theorem Core.setCtx_c (c : Core) (i : CtxId) (x : Ctx) : (c.setCtx i x).c = c.c := by cases i <;> rfl
@[simp] theorem Core.setCtx_e (c : Core) (i : CtxId) (x : Ctx) : (c.setCtx i x).e = c.e := by cases i <;> rfl
@[simp] theorem Core.setCtx_tshape (c : Core) (i : CtxId) (x : Ctx) : (c.setCtx i x).tshape = c.tshape := by cases i <;> rfl
@[simp] theorem Core.setCtx_tiles (c : Core) (i : CtxId) (x : Ctx) : (c.setCtx i x).tiles = c.tiles := by cases i <;> rfl
@[simp] theorem Core.setCtx_acc (c : Core) (i : CtxId) (x : Ctx) : (c.setCtx i x).acc = c.acc := by cases i <;> rfl
@[simp] theorem Core.setCtx_m (c : Core) (i : CtxId) (x : Ctx) : (c.setCtx i x).m = c.m := by cases i <;> rfl
@[simp] theorem Core.setCtx_table (c : Core) (i : CtxId) (x : Ctx) : (c.setCtx i x).table = c.table := by cases i <;> rfl
@[simp] theorem Core.setCtx_counts (c : Core) (i : CtxId) (x : Ctx) : (c.setCtx i x).counts = c.counts := by cases i <;> rfl
@[simp] theorem Core.setCtx_tok (c : Core) (i : CtxId) (x : Ctx) : (c.setCtx i x).tok = c.tok := by cases i <;> rfl
@[simp] theorem Core.setCtx_fcsr (c : Core) (i : CtxId) (x : Ctx) : (c.setCtx i x).fcsr = c.fcsr := by cases i <;> rfl
@[simp] theorem Core.setCtx_flags (c : Core) (i : CtxId) (x : Ctx) : (c.setCtx i x).flags = c.flags := by cases i <;> rfl
@[simp] theorem Core.setCtx_disp (c : Core) (i : CtxId) (x : Ctx) : (c.setCtx i x).disp = c.disp := by cases i <;> rfl
@[simp] theorem Core.setCtx_rings (c : Core) (i : CtxId) (x : Ctx) : (c.setCtx i x).rings = c.rings := by cases i <;> rfl
@[simp] theorem Core.setCtx_barA (c : Core) (i : CtxId) (x : Ctx) : (c.setCtx i x).barA = c.barA := by cases i <;> rfl
@[simp] theorem Core.setCtx_barP (c : Core) (i : CtxId) (x : Ctx) : (c.setCtx i x).barP = c.barP := by cases i <;> rfl
@[simp] theorem Core.setCtx_windows (c : Core) (i : CtxId) (x : Ctx) : (c.setCtx i x).windows = c.windows := by cases i <;> rfl
@[simp] theorem Core.setCtx_trm (c : Core) (i : CtxId) (x : Ctx) : (c.setCtx i x).trm = c.trm := by cases i <;> rfl
@[simp] theorem Core.setCtx_dl1 (c : Core) (i : CtxId) (x : Ctx) : (c.setCtx i x).dl1 = c.dl1 := by cases i <;> rfl
@[simp] theorem Core.setCtx_il1 (c : Core) (i : CtxId) (x : Ctx) : (c.setCtx i x).il1 = c.il1 := by cases i <;> rfl
@[simp] theorem Core.setCtx_tlb (c : Core) (i : CtxId) (x : Ctx) : (c.setCtx i x).tlb = c.tlb := by cases i <;> rfl
@[simp] theorem Core.setCtx_pasid (c : Core) (i : CtxId) (x : Ctx) : (c.setCtx i x).pasid = c.pasid := by cases i <;> rfl
@[simp] theorem Core.setCtx_ranges (c : Core) (i : CtxId) (x : Ctx) : (c.setCtx i x).ranges = c.ranges := by cases i <;> rfl
@[simp] theorem Core.setCtx_qbGrant (c : Core) (i : CtxId) (x : Ctx) : (c.setCtx i x).qbGrant = c.qbGrant := by cases i <;> rfl
@[simp] theorem Core.setCtx_inst (c : Core) (i : CtxId) (x : Ctx) : (c.setCtx i x).inst = c.inst := by cases i <;> rfl
@[simp] theorem Core.setCtx_part (c : Core) (i : CtxId) (x : Ctx) : (c.setCtx i x).part = c.part := by cases i <;> rfl
@[simp] theorem Core.setCtx_seq (c : Core) (i : CtxId) (x : Ctx) : (c.setCtx i x).seq = c.seq := by cases i <;> rfl
@[simp] theorem Core.setCtx_fault (c : Core) (i : CtxId) (x : Ctx) : (c.setCtx i x).fault = c.fault := by cases i <;> rfl
@[simp] theorem Core.setEng_ld (c : Core) (e : Engine) (y : Eng) : (c.setEng e y).ld = c.ld := by cases e <;> rfl
@[simp] theorem Core.setEng_cp (c : Core) (e : Engine) (y : Eng) : (c.setEng e y).cp = c.cp := by cases e <;> rfl
@[simp] theorem Core.setEng_st (c : Core) (e : Engine) (y : Eng) : (c.setEng e y).st = c.st := by cases e <;> rfl
@[simp] theorem Core.setEng_e (c : Core) (e : Engine) (y : Eng) : (c.setEng e y).e = c.e := by cases e <;> rfl
@[simp] theorem Core.setEng_tshape (c : Core) (e : Engine) (y : Eng) : (c.setEng e y).tshape = c.tshape := by cases e <;> rfl
@[simp] theorem Core.setEng_tiles (c : Core) (e : Engine) (y : Eng) : (c.setEng e y).tiles = c.tiles := by cases e <;> rfl
@[simp] theorem Core.setEng_acc (c : Core) (e : Engine) (y : Eng) : (c.setEng e y).acc = c.acc := by cases e <;> rfl
@[simp] theorem Core.setEng_m (c : Core) (e : Engine) (y : Eng) : (c.setEng e y).m = c.m := by cases e <;> rfl
@[simp] theorem Core.setEng_table (c : Core) (e : Engine) (y : Eng) : (c.setEng e y).table = c.table := by cases e <;> rfl
@[simp] theorem Core.setEng_counts (c : Core) (e : Engine) (y : Eng) : (c.setEng e y).counts = c.counts := by cases e <;> rfl
@[simp] theorem Core.setEng_tok (c : Core) (e : Engine) (y : Eng) : (c.setEng e y).tok = c.tok := by cases e <;> rfl
@[simp] theorem Core.setEng_fcsr (c : Core) (e : Engine) (y : Eng) : (c.setEng e y).fcsr = c.fcsr := by cases e <;> rfl
@[simp] theorem Core.setEng_flags (c : Core) (e : Engine) (y : Eng) : (c.setEng e y).flags = c.flags := by cases e <;> rfl
@[simp] theorem Core.setEng_disp (c : Core) (e : Engine) (y : Eng) : (c.setEng e y).disp = c.disp := by cases e <;> rfl
@[simp] theorem Core.setEng_rings (c : Core) (e : Engine) (y : Eng) : (c.setEng e y).rings = c.rings := by cases e <;> rfl
@[simp] theorem Core.setEng_barA (c : Core) (e : Engine) (y : Eng) : (c.setEng e y).barA = c.barA := by cases e <;> rfl
@[simp] theorem Core.setEng_barP (c : Core) (e : Engine) (y : Eng) : (c.setEng e y).barP = c.barP := by cases e <;> rfl
@[simp] theorem Core.setEng_windows (c : Core) (e : Engine) (y : Eng) : (c.setEng e y).windows = c.windows := by cases e <;> rfl
@[simp] theorem Core.setEng_trm (c : Core) (e : Engine) (y : Eng) : (c.setEng e y).trm = c.trm := by cases e <;> rfl
@[simp] theorem Core.setEng_dl1 (c : Core) (e : Engine) (y : Eng) : (c.setEng e y).dl1 = c.dl1 := by cases e <;> rfl
@[simp] theorem Core.setEng_il1 (c : Core) (e : Engine) (y : Eng) : (c.setEng e y).il1 = c.il1 := by cases e <;> rfl
@[simp] theorem Core.setEng_tlb (c : Core) (e : Engine) (y : Eng) : (c.setEng e y).tlb = c.tlb := by cases e <;> rfl
@[simp] theorem Core.setEng_pasid (c : Core) (e : Engine) (y : Eng) : (c.setEng e y).pasid = c.pasid := by cases e <;> rfl
@[simp] theorem Core.setEng_ranges (c : Core) (e : Engine) (y : Eng) : (c.setEng e y).ranges = c.ranges := by cases e <;> rfl
@[simp] theorem Core.setEng_qbGrant (c : Core) (e : Engine) (y : Eng) : (c.setEng e y).qbGrant = c.qbGrant := by cases e <;> rfl
@[simp] theorem Core.setEng_inst (c : Core) (e : Engine) (y : Eng) : (c.setEng e y).inst = c.inst := by cases e <;> rfl
@[simp] theorem Core.setEng_part (c : Core) (e : Engine) (y : Eng) : (c.setEng e y).part = c.part := by cases e <;> rfl
@[simp] theorem Core.setEng_seq (c : Core) (e : Engine) (y : Eng) : (c.setEng e y).seq = c.seq := by cases e <;> rfl
@[simp] theorem Core.setEng_fault (c : Core) (e : Engine) (y : Eng) : (c.setEng e y).fault = c.fault := by cases e <;> rfl

/-! ### A context and an engine of the state -/

@[simp] theorem State.setCtx_ctx_self (s : State) (k : Fin 128) (i : CtxId) (x : Ctx) : (s.setCtx k i x).ctx k i = x := by
  simp [State.setCtx, State.ctx]
theorem State.setCtx_ctx_ne (s : State) (k : Fin 128) {i j : CtxId} (x : Ctx) (h : j ≠ i) : (s.setCtx k i x).ctx k j = s.ctx k j := by
  simp [State.setCtx, State.ctx, Core.setCtx_ctx_ne _ _ h]
@[simp] theorem State.setEng_eng_self (s : State) (k : Fin 128) (e : Engine) (y : Eng) : (s.setEng k e y).eng k e = y := by
  simp [State.setEng, State.eng]
theorem State.setEng_eng_ne (s : State) (k : Fin 128) {e f : Engine} (y : Eng) (h : f ≠ e) : (s.setEng k e y).eng k f = s.eng k f := by
  simp [State.setEng, State.eng, Core.setEng_eng_ne _ _ h]
@[simp] theorem State.setCtx_self (s : State) (k : Fin 128) (i : CtxId) : s.setCtx k i (s.ctx k i) = s := by
  simp [State.setCtx, State.ctx]
@[simp] theorem State.setCtx_setCtx (s : State) (k : Fin 128) (i : CtxId) (x y : Ctx) : (s.setCtx k i x).setCtx k i y = s.setCtx k i y := by
  simp [State.setCtx]
theorem State.setCtx_core_self (s : State) (k : Fin 128) (i : CtxId) (x : Ctx) : (s.setCtx k i x).core k = (s.core k).setCtx i x := by
  simp [State.setCtx]
theorem State.setCtx_core_ne (s : State) {k j : Fin 128} (i : CtxId) (x : Ctx) (h : j ≠ k) : (s.setCtx k i x).core j = s.core j :=
  s.setCore_core_ne _ h
theorem State.setEng_core_self (s : State) (k : Fin 128) (e : Engine) (y : Eng) : (s.setEng k e y).core k = (s.core k).setEng e y := by
  simp [State.setEng]
theorem State.setEng_core_ne (s : State) {k j : Fin 128} (e : Engine) (y : Eng) (h : j ≠ k) : (s.setEng k e y).core j = s.core j :=
  s.setCore_core_ne _ h

@[simp] theorem State.setCtx_quads (s : State) (k : Fin 128) (i : CtxId) (x : Ctx) : (s.setCtx k i x).quads = s.quads := rfl
@[simp] theorem State.setCtx_mem (s : State) (k : Fin 128) (i : CtxId) (x : Ctx) : (s.setCtx k i x).mem = s.mem := rfl
@[simp] theorem State.setCtx_cmd (s : State) (k : Fin 128) (i : CtxId) (x : Ctx) : (s.setCtx k i x).cmd = s.cmd := rfl
@[simp] theorem State.setCtx_stages (s : State) (k : Fin 128) (i : CtxId) (x : Ctx) : (s.setCtx k i x).stages = s.stages := rfl
@[simp] theorem State.setCtx_fab (s : State) (k : Fin 128) (i : CtxId) (x : Ctx) : (s.setCtx k i x).fab = s.fab := rfl
@[simp] theorem State.setCtx_mgmt (s : State) (k : Fin 128) (i : CtxId) (x : Ctx) : (s.setCtx k i x).mgmt = s.mgmt := rfl
@[simp] theorem State.setCtx_pod (s : State) (k : Fin 128) (i : CtxId) (x : Ctx) : (s.setCtx k i x).pod = s.pod := rfl
@[simp] theorem State.setCtx_cyc (s : State) (k : Fin 128) (i : CtxId) (x : Ctx) : (s.setCtx k i x).cyc = s.cyc := rfl
@[simp] theorem State.setCtx_time (s : State) (k : Fin 128) (i : CtxId) (x : Ctx) : (s.setCtx k i x).time = s.time := rfl
@[simp] theorem State.setCtx_turns (s : State) (k : Fin 128) (i : CtxId) (x : Ctx) : (s.setCtx k i x).turns = s.turns := rfl
@[simp] theorem State.setCtx_cur (s : State) (k : Fin 128) (i : CtxId) (x : Ctx) : (s.setCtx k i x).cur = s.cur := rfl
@[simp] theorem State.setCtx_outbox (s : State) (k : Fin 128) (i : CtxId) (x : Ctx) : (s.setCtx k i x).outbox = s.outbox := rfl
@[simp] theorem State.setCtx_freeCtr (s : State) (k : Fin 128) (i : CtxId) (x : Ctx) : (s.setCtx k i x).freeCtr = s.freeCtr := rfl
@[simp] theorem State.setCtx_tick (s : State) (k : Fin 128) (i : CtxId) (x : Ctx) : (s.setCtx k i x).tick = s.tick := rfl
@[simp] theorem State.setCtx_place (s : State) (k : Fin 128) (i : CtxId) (x : Ctx) : (s.setCtx k i x).place = s.place := rfl
@[simp] theorem State.setCtx_quad (s : State) (k : Fin 128) (i : CtxId) (x : Ctx) (q : Fin 32) : (s.setCtx k i x).quad q = s.quad q := rfl
@[simp] theorem State.setEng_quads (s : State) (k : Fin 128) (e : Engine) (x : Eng) : (s.setEng k e x).quads = s.quads := rfl
@[simp] theorem State.setEng_mem (s : State) (k : Fin 128) (e : Engine) (x : Eng) : (s.setEng k e x).mem = s.mem := rfl
@[simp] theorem State.setEng_cmd (s : State) (k : Fin 128) (e : Engine) (x : Eng) : (s.setEng k e x).cmd = s.cmd := rfl
@[simp] theorem State.setEng_stages (s : State) (k : Fin 128) (e : Engine) (x : Eng) : (s.setEng k e x).stages = s.stages := rfl
@[simp] theorem State.setEng_fab (s : State) (k : Fin 128) (e : Engine) (x : Eng) : (s.setEng k e x).fab = s.fab := rfl
@[simp] theorem State.setEng_mgmt (s : State) (k : Fin 128) (e : Engine) (x : Eng) : (s.setEng k e x).mgmt = s.mgmt := rfl
@[simp] theorem State.setEng_pod (s : State) (k : Fin 128) (e : Engine) (x : Eng) : (s.setEng k e x).pod = s.pod := rfl
@[simp] theorem State.setEng_cyc (s : State) (k : Fin 128) (e : Engine) (x : Eng) : (s.setEng k e x).cyc = s.cyc := rfl
@[simp] theorem State.setEng_time (s : State) (k : Fin 128) (e : Engine) (x : Eng) : (s.setEng k e x).time = s.time := rfl
@[simp] theorem State.setEng_turns (s : State) (k : Fin 128) (e : Engine) (x : Eng) : (s.setEng k e x).turns = s.turns := rfl
@[simp] theorem State.setEng_cur (s : State) (k : Fin 128) (e : Engine) (x : Eng) : (s.setEng k e x).cur = s.cur := rfl
@[simp] theorem State.setEng_outbox (s : State) (k : Fin 128) (e : Engine) (x : Eng) : (s.setEng k e x).outbox = s.outbox := rfl
@[simp] theorem State.setEng_freeCtr (s : State) (k : Fin 128) (e : Engine) (x : Eng) : (s.setEng k e x).freeCtr = s.freeCtr := rfl
@[simp] theorem State.setEng_tick (s : State) (k : Fin 128) (e : Engine) (x : Eng) : (s.setEng k e x).tick = s.tick := rfl
@[simp] theorem State.setEng_place (s : State) (k : Fin 128) (e : Engine) (x : Eng) : (s.setEng k e x).place = s.place := rfl
@[simp] theorem State.setEng_quad (s : State) (k : Fin 128) (e : Engine) (x : Eng) (q : Fin 32) : (s.setEng k e x).quad q = s.quad q := rfl

/-! ### Registers of a context (R62) -/

@[simp] theorem Ctx.getX_zero (x : Ctx) : x.getX 0 = 0 := rfl
@[simp] theorem Ctx.setX_zero (x : Ctx) (v : W64) : x.setX 0 v = x := rfl
@[simp] theorem Ctx.getP_zero (x : Ctx) : x.getP 0 = true := rfl
@[simp] theorem Ctx.setP_zero (x : Ctx) (v : Bool) : x.setP 0 v = x := rfl
theorem Ctx.getX_setX_self (x : Ctx) {r : Fin 32} (v : W64) (h : r ≠ 0) : (x.setX r v).getX r = v := by
  simp [Ctx.getX, Ctx.setX, h]
theorem Ctx.getX_setX_ne (x : Ctx) {r q : Fin 32} (v : W64) (h : q ≠ r) : (x.setX r v).getX q = x.getX q := by
  have : (r : Nat) ≠ q := fun e => h (Fin.ext e.symm)
  by_cases hr : r = 0 <;> simp [Ctx.setX, Ctx.getX, hr, this]
theorem Ctx.getP_setP_self (x : Ctx) {r : Fin 8} (v : Bool) (h : r ≠ 0) : (x.setP r v).getP r = v := by
  simp [Ctx.getP, Ctx.setP, h]
theorem Ctx.getP_setP_ne (x : Ctx) {r q : Fin 8} (v : Bool) (h : q ≠ r) : (x.setP r v).getP q = x.getP q := by
  have : (r : Nat) ≠ q := fun e => h (Fin.ext e.symm)
  by_cases hr : r = 0 <;> simp [Ctx.setP, Ctx.getP, hr, this]

@[simp] theorem Ctx.setX_p (x : Ctx) (r : Fin 32) (v : W64) : (x.setX r v).p = x.p := by unfold Ctx.setX; split <;> rfl
@[simp] theorem Ctx.setX_pc (x : Ctx) (r : Fin 32) (v : W64) : (x.setX r v).pc = x.pc := by unfold Ctx.setX; split <;> rfl
@[simp] theorem Ctx.setX_run (x : Ctx) (r : Fin 32) (v : W64) : (x.setX r v).run = x.run := by unfold Ctx.setX; split <;> rfl
@[simp] theorem Ctx.setX_arrive (x : Ctx) (r : Fin 32) (v : W64) : (x.setX r v).arrive = x.arrive := by unfold Ctx.setX; split <;> rfl
@[simp] theorem Ctx.setX_arrived (x : Ctx) (r : Fin 32) (v : W64) : (x.setX r v).arrived = x.arrived := by unfold Ctx.setX; split <;> rfl
@[simp] theorem Ctx.setX_waits (x : Ctx) (r : Fin 32) (v : W64) : (x.setX r v).waits = x.waits := by unfold Ctx.setX; split <;> rfl
@[simp] theorem Ctx.setX_ahead (x : Ctx) (r : Fin 32) (v : W64) : (x.setX r v).ahead = x.ahead := by unfold Ctx.setX; split <;> rfl
@[simp] theorem Ctx.setX_remote (x : Ctx) (r : Fin 32) (v : W64) : (x.setX r v).remote = x.remote := by unfold Ctx.setX; split <;> rfl
@[simp] theorem Ctx.setX_fetch (x : Ctx) (r : Fin 32) (v : W64) : (x.setX r v).fetch = x.fetch := by unfold Ctx.setX; split <;> rfl
@[simp] theorem Ctx.setP_x (x : Ctx) (r : Fin 8) (v : Bool) : (x.setP r v).x = x.x := by unfold Ctx.setP; split <;> rfl
@[simp] theorem Ctx.setP_pc (x : Ctx) (r : Fin 8) (v : Bool) : (x.setP r v).pc = x.pc := by unfold Ctx.setP; split <;> rfl
@[simp] theorem Ctx.setP_run (x : Ctx) (r : Fin 8) (v : Bool) : (x.setP r v).run = x.run := by unfold Ctx.setP; split <;> rfl
@[simp] theorem Ctx.setP_arrive (x : Ctx) (r : Fin 8) (v : Bool) : (x.setP r v).arrive = x.arrive := by unfold Ctx.setP; split <;> rfl
@[simp] theorem Ctx.setP_arrived (x : Ctx) (r : Fin 8) (v : Bool) : (x.setP r v).arrived = x.arrived := by unfold Ctx.setP; split <;> rfl
@[simp] theorem Ctx.setP_waits (x : Ctx) (r : Fin 8) (v : Bool) : (x.setP r v).waits = x.waits := by unfold Ctx.setP; split <;> rfl
@[simp] theorem Ctx.setP_ahead (x : Ctx) (r : Fin 8) (v : Bool) : (x.setP r v).ahead = x.ahead := by unfold Ctx.setP; split <;> rfl
@[simp] theorem Ctx.setP_remote (x : Ctx) (r : Fin 8) (v : Bool) : (x.setP r v).remote = x.remote := by unfold Ctx.setP; split <;> rfl
@[simp] theorem Ctx.setP_fetch (x : Ctx) (r : Fin 8) (v : Bool) : (x.setP r v).fetch = x.fetch := by unfold Ctx.setP; split <;> rfl
@[simp] theorem Ctx.setPc_x (x : Ctx) (v : W64) : (x.setPc v).x = x.x := rfl
@[simp] theorem Ctx.setPc_p (x : Ctx) (v : W64) : (x.setPc v).p = x.p := rfl
@[simp] theorem Ctx.setPc_pc (x : Ctx) (v : W64) : (x.setPc v).pc = v := rfl
@[simp] theorem Ctx.setPc_run (x : Ctx) (v : W64) : (x.setPc v).run = x.run := rfl
@[simp] theorem Ctx.setPc_arrive (x : Ctx) (v : W64) : (x.setPc v).arrive = x.arrive := rfl
@[simp] theorem Ctx.setPc_arrived (x : Ctx) (v : W64) : (x.setPc v).arrived = x.arrived := rfl
@[simp] theorem Ctx.setPc_waits (x : Ctx) (v : W64) : (x.setPc v).waits = x.waits := rfl
@[simp] theorem Ctx.setPc_ahead (x : Ctx) (v : W64) : (x.setPc v).ahead = x.ahead := rfl
@[simp] theorem Ctx.setPc_remote (x : Ctx) (v : W64) : (x.setPc v).remote = x.remote := rfl
@[simp] theorem Ctx.setPc_fetch (x : Ctx) (v : W64) : (x.setPc v).fetch = x.fetch := rfl
@[simp] theorem Ctx.step_x (x : Ctx) : x.step.x = x.x := rfl
@[simp] theorem Ctx.step_p (x : Ctx) : x.step.p = x.p := rfl
@[simp] theorem Ctx.step_pc (x : Ctx) : x.step.pc = x.pc + 4 := rfl
@[simp] theorem Ctx.step_run (x : Ctx) : x.step.run = x.run := rfl
@[simp] theorem Ctx.step_arrive (x : Ctx) : x.step.arrive = x.arrive := rfl
@[simp] theorem Ctx.step_arrived (x : Ctx) : x.step.arrived = x.arrived := rfl
@[simp] theorem Ctx.step_waits (x : Ctx) : x.step.waits = x.waits := rfl
@[simp] theorem Ctx.step_ahead (x : Ctx) : x.step.ahead = x.ahead := rfl
@[simp] theorem Ctx.step_remote (x : Ctx) : x.step.remote = x.remote := rfl
@[simp] theorem Ctx.step_fetch (x : Ctx) : x.step.fetch = x.fetch := rfl
@[simp] theorem Ctx.setPc_getX (x : Ctx) (v : W64) (r : Fin 32) : (x.setPc v).getX r = x.getX r := rfl
@[simp] theorem Ctx.setPc_getP (x : Ctx) (v : W64) (r : Fin 8) : (x.setPc v).getP r = x.getP r := rfl
@[simp] theorem Ctx.step_getX (x : Ctx) (r : Fin 32) : (x.step).getX r = x.getX r := rfl
@[simp] theorem Ctx.step_getP (x : Ctx) (r : Fin 8) : (x.step).getP r = x.getP r := rfl
@[simp] theorem Ctx.setX_getP (x : Ctx) (r : Fin 32) (v : W64) (q : Fin 8) : (x.setX r v).getP q = x.getP q := by simp [Ctx.getP]
@[simp] theorem Ctx.setP_getX (x : Ctx) (r : Fin 8) (v : Bool) (q : Fin 32) : (x.setP r v).getX q = x.getX q := by simp [Ctx.getX]

end Sys2Proof.Machine
end

