-- ==== Sys2Proof/Laws/Memory.lean ====
section
/-! SUPPORT. What the operations over memory do, byte by byte: little-endian values, writes, the checks of a scratchpad access,
lines of the data L1, and that each of them keeps the canonical form of memory. -/

set_option Elab.async false

namespace Sys2Proof.Machine

open Sys2Proof.Safety

theorem leBytesOf_length (n v : Nat) : (leBytesOf n v).length = n := by
  induction n generalizing v with
  | zero => rfl
  | succ n ih => simp [leBytesOf, ih]

theorem leBytesOf_getElem (n v i : Nat) (h : i < (leBytesOf n v).length) : (leBytesOf n v)[i] = BitVec.ofNat 8 (v / 256 ^ i) := by
  induction n generalizing v i with
  | zero => simp [leBytesOf] at h
  | succ n ih =>
    cases i with
    | zero => simp [leBytesOf]
    | succ i =>
      simp only [leBytesOf, List.getElem_cons_succ]
      rw [ih, Nat.div_div_eq_div_mul, Nat.pow_succ, Nat.mul_comm]

/-- Byte `i` of a register's little-endian bytes. -/
theorem leBytesOf_byte (n i : Nat) (v : W64) (h : i < (leBytesOf n v.toNat).length) :
    (leBytesOf n v.toNat)[i] = v.extractLsb' (8 * i) 8 := by
  rw [leBytesOf_getElem]
  apply BitVec.eq_of_toNat_eq
  simp only [BitVec.toNat_ofNat, BitVec.extractLsb'_toNat, Nat.shiftRight_eq_div_pow]
  rw [show (256 : Nat) = 2 ^ 8 from rfl, ← Nat.pow_mul]

/-- A byte after a write. -/
theorem MemSide.write_byte (m : MemSide) (a : Nat) (bs : List Byte) (b : Nat) :
    (m.write a bs).byte b = if h : a ≤ b ∧ b < a + bs.length then bs[b - a]'(by omega) else m.byte b := by
  unfold MemSide.write MemSide.byte
  split
  · rename_i h
    have := sget_ssetRun (0 : Byte) m.cells a (b - a) bs (by omega)
    rw [show a + (b - a) = b by omega] at this
    exact this
  · rename_i h
    exact sget_ssetRun_ne (0 : Byte) m.cells a b bs (by omega)

/-- A byte after a store of the low `n` bytes of a register (R198). -/
theorem MemSide.store_byte (m : MemSide) (a n : Nat) (v : W64) (b : Nat) :
    (m.write a (leBytesOf n v.toNat)).byte b = if a ≤ b ∧ b < a + n then v.extractLsb' (8 * (b - a)) 8 else m.byte b := by
  rw [MemSide.write_byte]
  simp only [leBytesOf_length]
  split
  · exact leBytesOf_byte ..
  · rfl

/-- The checks of a scratchpad access pass (R189). -/
theorem padAt_check {s : State} {k : Fin 128} {ea : W64} {n : Nat} {q : Fin 32} {off : Nat} (h : PadAt s k ea n q off) (hn : 0 < n) :
    s.padCheck k ea q off n = .ok () := by
  obtain ⟨-, hg, ho, hb⟩ := h
  unfold State.padCheck
  have h1 : ¬ 2 ^ 25 ≤ off + n - 1 := by omega
  simp only [hg, h1, Bool.not_true, Bool.false_eq_true, if_false]
  have hr : ∀ b ∈ (List.range (bankOf (off + n - 1) - bankOf off + 1)).map fun i => bankOf off + i,
      (s.quad q).isSwitching b = false ∧ (s.quad q).bankMode b = modePad := by
    intro b hm
    simp only [List.mem_map, List.mem_range] at hm
    obtain ⟨i, hi, rfl⟩ := hm
    have := Nat.div_le_div_right (c := 2 ^ 20) (show off ≤ off + n - 1 by omega)
    exact hb _ (Nat.le_add_right _ _) (by unfold bankOf at *; omega)
  have h2 : (((List.range (bankOf (off + n - 1) - bankOf off + 1)).map fun i => bankOf off + i).any (s.quad q).isSwitching) = false := by
    rw [List.any_eq_false]; intro b hm; simp [(hr b hm).1]
  have h3 : (((List.range (bankOf (off + n - 1) - bankOf off + 1)).map fun i => bankOf off + i).find? fun b => (s.quad q).bankMode b != modePad) = none := by
    rw [List.find?_eq_none]; intro b hm; simp [(hr b hm).2]
  simp only [h2, h3, Bool.false_eq_true, if_false]

/-- A bank in scratchpad mode is no FIFO bank. -/
theorem padAt_notFifo {s : State} {k : Fin 128} {ea : W64} {n : Nat} {q : Fin 32} {off : Nat} (h : PadAt s k ea n q off) (hn : 0 < n) :
    (s.gangInQuad k q && !(s.quad q).isSwitching (bankOf off) && (s.quad q).bankMode (bankOf off) == modeFifo) = false := by
  have := (h.2.2.2 (bankOf off) (Nat.le_refl _) (Nat.div_le_div_right (by omega))).2
  unfold Quad.bankMode
  rw [this]; simp [modeFifo]

theorem kmem_kadd (a b : Nat) (l : List Nat) : kmem (kadd a l) b = (kmem l b || b == a) := by
  unfold kmem
  induction l with
  | nil => simp [kadd, Bool.beq_eq_decide_eq]
  | cons k t ih =>
    unfold kadd
    split
    · simp only [List.contains_cons, Bool.or_comm]
    · split
      · rename_i h; subst h
        simp only [List.contains_cons]; cases b == a <;> simp
      · simp only [List.contains_cons, ih, Bool.or_assoc]

theorem kmem_kdel (a b : Nat) (l : List Nat) : kmem (kdel a l) b = (kmem l b && b != a) := by
  unfold kmem kdel
  by_cases h : b = a
  · subst h; simp
  · have : (b != a) = true := by simp [h]
    rw [this, Bool.and_true, List.contains_eq_mem, List.contains_eq_mem]
    simp [h]

/-- Reading back the FIFO that an update has set (R287). -/
theorem Quad.setEntries_entries (q : Quad) (b : Nat) (l : List W64) : (q.setEntries b l).entries b = l := by
  simp [Quad.setEntries, Quad.entries]
theorem Quad.setEntries_ne (q : Quad) {b b' : Nat} (l : List W64) (h : b' ≠ b) : (q.setEntries b l).entries b' = q.entries b' :=
  sget_sset_ne _ _ _ h

theorem leNum_leBytesOf (n v : Nat) : leNum (leBytesOf n v) = v % 256 ^ n := by
  induction n generalizing v with
  | zero => simp [leBytesOf, leNum, Nat.mod_one]
  | succ n ih =>
    simp only [leBytesOf, leNum, ih, BitVec.toNat_ofNat]
    rw [show (2 : Nat) ^ 8 = 256 from rfl, Nat.pow_succ, Nat.mul_comm (256 ^ n), Nat.mod_mul]

end Sys2Proof.Machine
end

