-- ==== Sys2Proof/Laws/Canonical.lean ====
section
/-! SUPPORT. Every operation over memory keeps its canonical form, and so does every state-wide operation made of them; memory after
reset has it. -/

set_option Elab.async false

namespace Sys2Proof.Machine

/-- Memory is in its canonical form. -/
def MemSide.Canon (m : MemSide) : Prop := Memory.wf m.cells = true
def State.Canon (s : State) : Prop := s.mem.Canon

theorem reset_canon : State.reset.Canon := rfl

theorem canon_of_cells {m m' : MemSide} (h : m.Canon) (e : m'.cells = m.cells) : m'.Canon := by
  unfold MemSide.Canon; rw [e]; exact h

theorem canon_sset {m : MemSide} (h : m.Canon) (a : Nat) (v : Byte) : ({ m with cells := sset (0 : Byte) m.cells a v } : MemSide).Canon :=
  swf_sset _ _ a v h

theorem foldl_canon {β : Type} (f : MemSide → β → MemSide) (l : List β) {m : MemSide} (h : m.Canon)
    (hf : ∀ m b, m.Canon → (f m b).Canon) : (l.foldl f m).Canon :=
  foldl_keep MemSide.Canon f l m h fun m b _ => hf m b

theorem foldl_state_canon {β : Type} (f : State → β → State) (l : List β) {s : State} (h : s.Canon)
    (hf : ∀ s b, s.Canon → (f s b).Canon) : (l.foldl f s).Canon :=
  foldl_keep State.Canon f l s h fun s b _ => hf s b

theorem write_canon {m : MemSide} (h : m.Canon) (a : Nat) (bs : List Byte) : (m.write a bs).Canon := swf_ssetRun _ _ a bs h
theorem setNum_canon {m : MemSide} (h : m.Canon) (a n v : Nat) : (m.setNum a n v).Canon := write_canon h a _
theorem addPoison_canon {m : MemSide} (h : m.Canon) (sec : Nat) : (m.addPoison sec).Canon := h
theorem addPoisons_canon {β : Type} {m : MemSide} (h : m.Canon) (l : List β) (f : β → Nat) :
    (l.foldl (fun x p => x.addPoison (f p)) m).Canon := foldl_canon _ l h fun m b hm => addPoison_canon (m := m) hm (f b)

theorem writeBack_canon {m : MemSide} (h : m.Canon) (l : DLine) : (m.writeBack l).Canon := by
  unfold MemSide.writeBack
  refine canon_of_cells (m := l.bytes.foldl _ m) (foldl_canon _ l.bytes h fun m p hm => ?_) rfl
  split
  · exact canon_sset hm _ _
  · exact hm

theorem discard_canon {m : MemSide} (h : m.Canon) (a n : Nat) : (m.discard a n).Canon := swf_sclear _ _ _ _ h

theorem moveCells_canon {m : MemSide} (h : m.Canon) (src dst n : Nat) : (m.moveCells src dst n).Canon :=
  foldl_keep (fun l : List Host.Cell => Memory.wf l = true) _ _ _ (swf_sclear _ _ _ _ h) fun l c _ hl => swf_sset _ l c.1 c.2 hl

theorem setMeta_canon {m : MemSide} (h : m.Canon) (sec v : Nat) : (m.setMeta sec v).Canon := by
  unfold MemSide.setMeta
  exact h

theorem moveSide_canon {m : MemSide} (h : m.Canon) (old : MemSide) (src dst n : Nat) : (m.moveSide old src dst n).Canon := by
  unfold MemSide.moveSide
  exact foldl_canon _ _ (canon_of_cells h rfl) fun m p hm => setMeta_canon hm _ _

theorem bar4Write_canon {m : MemSide} (h : m.Canon) (data : List Byte) (ps : List (Nat × Nat)) : (m.bar4Write data ps).Canon := by
  induction ps generalizing m data with
  | nil => exact h
  | cons p t ih =>
    obtain ⟨a, n⟩ := p
    unfold MemSide.bar4Write
    refine ih ?_ _
    split
    · exact h
    · exact write_canon h _ _

theorem writeHere_canon {m : MemSide} (h : m.Canon) (bs : List Byte) (ds : List (Dest × Nat)) : (writeHere m bs ds).Canon := by
  induction ds generalizing m bs with
  | nil => exact h
  | cons d t ih =>
    obtain ⟨d, n⟩ := d
    cases d <;> unfold writeHere
    · exact ih (write_canon h _ _) _
    · exact ih h _

theorem zeroLanded_canon {m : MemSide} (h : m.Canon) (q : Fin 32) (off : Nat) (l : List Nat) : (zeroLanded m q off l).Canon :=
  foldl_canon _ l h fun _ _ hm => write_canon hm _ _

/-! ### Operations over the whole state -/

theorem flushLines_canon {s : State} (h : s.Canon) (k : Fin 128) (p q : DLine → Bool) : (s.flushLines k p q).Canon :=
  foldl_canon (fun x l => x.writeBack l) _ h fun _ l hm => writeBack_canon hm l

theorem clearQuad_canon {s : State} (h : s.Canon) (q : Fin 32) (pasid : Nat) : (clearQuad s q pasid).Canon := by
  unfold clearQuad
  dsimp only
  split
  · exact h
  · exact foldl_canon _ _ h fun m b hm => swf_sclear _ _ _ _ hm

theorem switchBank_canon {s : State} (h : s.Canon) (q : Fin 32) (b mode : Nat) : (switchBank s q b mode).Canon := by
  unfold switchBank State.Canon State.setQuad State.setMem
  dsimp only
  split
  · exact h
  · exact swf_sclear _ _ _ _ h

theorem saveArea_canon {s : State} (h : s.Canon) (i : Inst) (r : Nat) : (s.saveArea i r).Canon :=
  addPoisons_canon (write_canon h _ _) _ _

theorem restoreRange_canon {s : State} (h : s.Canon) (q : Fin 32) (a : Nat) (x : Nat × Nat) : (s.restoreRange q a x).Canon := by
  unfold State.restoreRange
  exact foldl_canon _ _ h fun m o hm => by
    split
    · exact canon_sset hm _ _
    · exact hm

theorem fresh_canon {s : State} (h : s.Canon) (g : Mgmt) (n : Nat) : (s.fresh g n).Canon := swf_filter _ _ _ h

theorem withFetchWord_control_canon {s : State} (h : s.Canon) (w : Nat) : (s.placeControl w).Canon :=
  canon_of_cells (write_canon (m := s.mem) h 0x10000 (leBytesOf 4 w)) rfl

end Sys2Proof.Machine
end

