-- ==== Sys2Proof/Laws/Dispatch.lean ====
section
/-! SUPPORT. What `exec` does with each constructor: its meaning, one lemma each. -/

set_option Elab.async false

namespace Sys2Proof.Machine

@[simp] theorem exec_add (g : Guard) (rd : Fin 32) (ra : Fin 32) (rb : Fin 32) (s : State) : exec (.add g rd ra rb) s = execAdd g rd ra rb s := rfl
@[simp] theorem exec_sub (g : Guard) (rd : Fin 32) (ra : Fin 32) (rb : Fin 32) (s : State) : exec (.sub g rd ra rb) s = execSub g rd ra rb s := rfl
@[simp] theorem exec_and (g : Guard) (rd : Fin 32) (ra : Fin 32) (rb : Fin 32) (s : State) : exec (.and g rd ra rb) s = execAnd g rd ra rb s := rfl
@[simp] theorem exec_or (g : Guard) (rd : Fin 32) (ra : Fin 32) (rb : Fin 32) (s : State) : exec (.or g rd ra rb) s = execOr g rd ra rb s := rfl
@[simp] theorem exec_xor (g : Guard) (rd : Fin 32) (ra : Fin 32) (rb : Fin 32) (s : State) : exec (.xor g rd ra rb) s = execXor g rd ra rb s := rfl
@[simp] theorem exec_sll (g : Guard) (rd : Fin 32) (ra : Fin 32) (rb : Fin 32) (s : State) : exec (.sll g rd ra rb) s = execSll g rd ra rb s := rfl
@[simp] theorem exec_srl (g : Guard) (rd : Fin 32) (ra : Fin 32) (rb : Fin 32) (s : State) : exec (.srl g rd ra rb) s = execSrl g rd ra rb s := rfl
@[simp] theorem exec_sra (g : Guard) (rd : Fin 32) (ra : Fin 32) (rb : Fin 32) (s : State) : exec (.sra g rd ra rb) s = execSra g rd ra rb s := rfl
@[simp] theorem exec_mul (g : Guard) (rd : Fin 32) (ra : Fin 32) (rb : Fin 32) (s : State) : exec (.mul g rd ra rb) s = execMul g rd ra rb s := rfl
@[simp] theorem exec_mulh (g : Guard) (rd : Fin 32) (ra : Fin 32) (rb : Fin 32) (s : State) : exec (.mulh g rd ra rb) s = execMulh g rd ra rb s := rfl
@[simp] theorem exec_mulhu (g : Guard) (rd : Fin 32) (ra : Fin 32) (rb : Fin 32) (s : State) : exec (.mulhu g rd ra rb) s = execMulhu g rd ra rb s := rfl
@[simp] theorem exec_div (g : Guard) (rd : Fin 32) (ra : Fin 32) (rb : Fin 32) (s : State) : exec (.div g rd ra rb) s = execDiv g rd ra rb s := rfl
@[simp] theorem exec_divu (g : Guard) (rd : Fin 32) (ra : Fin 32) (rb : Fin 32) (s : State) : exec (.divu g rd ra rb) s = execDivu g rd ra rb s := rfl
@[simp] theorem exec_rem (g : Guard) (rd : Fin 32) (ra : Fin 32) (rb : Fin 32) (s : State) : exec (.rem g rd ra rb) s = execRem g rd ra rb s := rfl
@[simp] theorem exec_remu (g : Guard) (rd : Fin 32) (ra : Fin 32) (rb : Fin 32) (s : State) : exec (.remu g rd ra rb) s = execRemu g rd ra rb s := rfl
@[simp] theorem exec_min (g : Guard) (rd : Fin 32) (ra : Fin 32) (rb : Fin 32) (s : State) : exec (.min g rd ra rb) s = execMin g rd ra rb s := rfl
@[simp] theorem exec_max (g : Guard) (rd : Fin 32) (ra : Fin 32) (rb : Fin 32) (s : State) : exec (.max g rd ra rb) s = execMax g rd ra rb s := rfl
@[simp] theorem exec_minu (g : Guard) (rd : Fin 32) (ra : Fin 32) (rb : Fin 32) (s : State) : exec (.minu g rd ra rb) s = execMinu g rd ra rb s := rfl
@[simp] theorem exec_maxu (g : Guard) (rd : Fin 32) (ra : Fin 32) (rb : Fin 32) (s : State) : exec (.maxu g rd ra rb) s = execMaxu g rd ra rb s := rfl
@[simp] theorem exec_clz (g : Guard) (rd : Fin 32) (ra : Fin 32) (s : State) : exec (.clz g rd ra) s = execClz g rd ra s := rfl
@[simp] theorem exec_popc (g : Guard) (rd : Fin 32) (ra : Fin 32) (s : State) : exec (.popc g rd ra) s = execPopc g rd ra s := rfl
@[simp] theorem exec_andn (g : Guard) (rd : Fin 32) (ra : Fin 32) (rb : Fin 32) (s : State) : exec (.andn g rd ra rb) s = execAndn g rd ra rb s := rfl
@[simp] theorem exec_addi (g : Guard) (rd : Fin 32) (ra : Fin 32) (imm : BitVec 12) (s : State) : exec (.addi g rd ra imm) s = execAddi g rd ra imm s := rfl
@[simp] theorem exec_andi (g : Guard) (rd : Fin 32) (ra : Fin 32) (imm : BitVec 12) (s : State) : exec (.andi g rd ra imm) s = execAndi g rd ra imm s := rfl
@[simp] theorem exec_ori (g : Guard) (rd : Fin 32) (ra : Fin 32) (imm : BitVec 12) (s : State) : exec (.ori g rd ra imm) s = execOri g rd ra imm s := rfl
@[simp] theorem exec_xori (g : Guard) (rd : Fin 32) (ra : Fin 32) (imm : BitVec 12) (s : State) : exec (.xori g rd ra imm) s = execXori g rd ra imm s := rfl
@[simp] theorem exec_slli (g : Guard) (rd : Fin 32) (ra : Fin 32) (sh : Fin 64) (s : State) : exec (.slli g rd ra sh) s = execSlli g rd ra sh s := rfl
@[simp] theorem exec_srli (g : Guard) (rd : Fin 32) (ra : Fin 32) (sh : Fin 64) (s : State) : exec (.srli g rd ra sh) s = execSrli g rd ra sh s := rfl
@[simp] theorem exec_srai (g : Guard) (rd : Fin 32) (ra : Fin 32) (sh : Fin 64) (s : State) : exec (.srai g rd ra sh) s = execSrai g rd ra sh s := rfl
@[simp] theorem exec_liu (g : Guard) (rd : Fin 32) (imm : BitVec 17) (s : State) : exec (.liu g rd imm) s = execLiu g rd imm s := rfl
@[simp] theorem exec_addpc (g : Guard) (rd : Fin 32) (imm : BitVec 17) (s : State) : exec (.addpc g rd imm) s = execAddpc g rd imm s := rfl
@[simp] theorem exec_cmp (g : Guard) (pd : Fin 8) (ra : Fin 32) (rb : Fin 32) (c : Cond) (s : State) : exec (.cmp g pd ra rb c) s = execCmp g pd ra rb c s := rfl
@[simp] theorem exec_cmpi (g : Guard) (c : Cond) (pd : Fin 8) (ra : Fin 32) (imm : BitVec 12) (s : State) : exec (.cmpi g c pd ra imm) s = execCmpi g c pd ra imm s := rfl
@[simp] theorem exec_plog (g : Guard) (pd : Fin 8) (pa : Fin 8) (pb : Fin 8) (t : BitVec 4) (s : State) : exec (.plog g pd pa pb t) s = execPlog g pd pa pb t s := rfl
@[simp] theorem exec_sel (g : Guard) (rd : Fin 32) (ra : Fin 32) (rb : Fin 32) (pc : Fin 8) (s : State) : exec (.sel g rd ra rb pc) s = execSel g rd ra rb pc s := rfl
@[simp] theorem exec_br (g : Guard) (off : BitVec 22) (s : State) : exec (.br g off) s = execBr g off s := rfl
@[simp] theorem exec_jal (g : Guard) (off : BitVec 22) (s : State) : exec (.jal g off) s = execJal g off s := rfl
@[simp] theorem exec_jalr (g : Guard) (rd : Fin 32) (ra : Fin 32) (imm : BitVec 12) (s : State) : exec (.jalr g rd ra imm) s = execJalr g rd ra imm s := rfl
@[simp] theorem exec_ldb (g : Guard) (rd : Fin 32) (ra : Fin 32) (cls : Fin 16) (imm : BitVec 8) (s : State) : exec (.ldb g rd ra cls imm) s = execLdb g rd ra cls imm s := rfl
@[simp] theorem exec_ldh (g : Guard) (rd : Fin 32) (ra : Fin 32) (cls : Fin 16) (imm : BitVec 8) (s : State) : exec (.ldh g rd ra cls imm) s = execLdh g rd ra cls imm s := rfl
@[simp] theorem exec_ldw (g : Guard) (rd : Fin 32) (ra : Fin 32) (cls : Fin 16) (imm : BitVec 8) (s : State) : exec (.ldw g rd ra cls imm) s = execLdw g rd ra cls imm s := rfl
@[simp] theorem exec_ldd (g : Guard) (rd : Fin 32) (ra : Fin 32) (cls : Fin 16) (imm : BitVec 8) (s : State) : exec (.ldd g rd ra cls imm) s = execLdd g rd ra cls imm s := rfl
@[simp] theorem exec_ldbu (g : Guard) (rd : Fin 32) (ra : Fin 32) (cls : Fin 16) (imm : BitVec 8) (s : State) : exec (.ldbu g rd ra cls imm) s = execLdbu g rd ra cls imm s := rfl
@[simp] theorem exec_ldhu (g : Guard) (rd : Fin 32) (ra : Fin 32) (cls : Fin 16) (imm : BitVec 8) (s : State) : exec (.ldhu g rd ra cls imm) s = execLdhu g rd ra cls imm s := rfl
@[simp] theorem exec_ldwu (g : Guard) (rd : Fin 32) (ra : Fin 32) (cls : Fin 16) (imm : BitVec 8) (s : State) : exec (.ldwu g rd ra cls imm) s = execLdwu g rd ra cls imm s := rfl
@[simp] theorem exec_ldfeW (g : Guard) (rd : Fin 32) (ra : Fin 32) (cls : Fin 16) (imm : BitVec 6) (s : State) : exec (.ldfeW g rd ra cls imm) s = execLdfeW g rd ra cls imm s := rfl
@[simp] theorem exec_ldfeE (g : Guard) (rd : Fin 32) (ra : Fin 32) (cls : Fin 16) (imm : BitVec 6) (s : State) : exec (.ldfeE g rd ra cls imm) s = execLdfeE g rd ra cls imm s := rfl
@[simp] theorem exec_ldfeN (g : Guard) (rd : Fin 32) (ra : Fin 32) (cls : Fin 16) (imm : BitVec 6) (s : State) : exec (.ldfeN g rd ra cls imm) s = execLdfeN g rd ra cls imm s := rfl
@[simp] theorem exec_stb (g : Guard) (rs : Fin 32) (ra : Fin 32) (cls : Fin 16) (imm : BitVec 8) (s : State) : exec (.stb g rs ra cls imm) s = execStb g rs ra cls imm s := rfl
@[simp] theorem exec_sth (g : Guard) (rs : Fin 32) (ra : Fin 32) (cls : Fin 16) (imm : BitVec 8) (s : State) : exec (.sth g rs ra cls imm) s = execSth g rs ra cls imm s := rfl
@[simp] theorem exec_stw (g : Guard) (rs : Fin 32) (ra : Fin 32) (cls : Fin 16) (imm : BitVec 8) (s : State) : exec (.stw g rs ra cls imm) s = execStw g rs ra cls imm s := rfl
@[simp] theorem exec_std (g : Guard) (rs : Fin 32) (ra : Fin 32) (cls : Fin 16) (imm : BitVec 8) (s : State) : exec (.std g rs ra cls imm) s = execStd g rs ra cls imm s := rfl
@[simp] theorem exec_stfeF (g : Guard) (rs : Fin 32) (ra : Fin 32) (cls : Fin 16) (imm : BitVec 6) (s : State) : exec (.stfeF g rs ra cls imm) s = execStfeF g rs ra cls imm s := rfl
@[simp] theorem exec_stfeWe (g : Guard) (rs : Fin 32) (ra : Fin 32) (cls : Fin 16) (imm : BitVec 6) (s : State) : exec (.stfeWe g rs ra cls imm) s = execStfeWe g rs ra cls imm s := rfl
@[simp] theorem exec_feqQ (g : Guard) (rd : Fin 32) (ra : Fin 32) (cls : Fin 16) (imm : BitVec 6) (s : State) : exec (.feqQ g rd ra cls imm) s = execFeqQ g rd ra cls imm s := rfl
@[simp] theorem exec_feqClr (g : Guard) (ra : Fin 32) (cls : Fin 16) (imm : BitVec 6) (s : State) : exec (.feqClr g ra cls imm) s = execFeqClr g ra cls imm s := rfl
@[simp] theorem exec_feqSet (g : Guard) (ra : Fin 32) (cls : Fin 16) (imm : BitVec 6) (s : State) : exec (.feqSet g ra cls imm) s = execFeqSet g ra cls imm s := rfl
@[simp] theorem exec_invr (g : Guard) (ra : Fin 32) (rb : Fin 32) (s : State) : exec (.invr g ra rb) s = execInvr g ra rb s := rfl
@[simp] theorem exec_wbr (g : Guard) (ra : Fin 32) (rb : Fin 32) (s : State) : exec (.wbr g ra rb) s = execWbr g ra rb s := rfl
@[simp] theorem exec_wbinvr (g : Guard) (ra : Fin 32) (rb : Fin 32) (s : State) : exec (.wbinvr g ra rb) s = execWbinvr g ra rb s := rfl
@[simp] theorem exec_invi (g : Guard) (s : State) : exec (.invi g) s = execInvi g s := rfl
@[simp] theorem exec_fenceCls (g : Guard) (mask : BitVec 16) (s : State) : exec (.fenceCls g mask) s = execFenceCls g mask s := rfl
@[simp] theorem exec_fenceRel (g : Guard) (sc : Scope) (mask : BitVec 16) (s : State) : exec (.fenceRel g sc mask) s = execFenceRel g sc mask s := rfl
@[simp] theorem exec_fenceAcq (g : Guard) (sc : Scope) (mask : BitVec 16) (s : State) : exec (.fenceAcq g sc mask) s = execFenceAcq g sc mask s := rfl
@[simp] theorem exec_fenceAr (g : Guard) (sc : Scope) (mask : BitVec 16) (s : State) : exec (.fenceAr g sc mask) s = execFenceAr g sc mask s := rfl
@[simp] theorem exec_amoSwap (g : Guard) (rd : Fin 32) (ra : Fin 32) (rb : Fin 32) (cls : Fin 4) (dbl : Bool) (s : State) : exec (.amoSwap g rd ra rb cls dbl) s = execAmoSwap g rd ra rb cls dbl s := rfl
@[simp] theorem exec_amoAdd (g : Guard) (rd : Fin 32) (ra : Fin 32) (rb : Fin 32) (cls : Fin 4) (dbl : Bool) (s : State) : exec (.amoAdd g rd ra rb cls dbl) s = execAmoAdd g rd ra rb cls dbl s := rfl
@[simp] theorem exec_amoAnd (g : Guard) (rd : Fin 32) (ra : Fin 32) (rb : Fin 32) (cls : Fin 4) (dbl : Bool) (s : State) : exec (.amoAnd g rd ra rb cls dbl) s = execAmoAnd g rd ra rb cls dbl s := rfl
@[simp] theorem exec_amoOr (g : Guard) (rd : Fin 32) (ra : Fin 32) (rb : Fin 32) (cls : Fin 4) (dbl : Bool) (s : State) : exec (.amoOr g rd ra rb cls dbl) s = execAmoOr g rd ra rb cls dbl s := rfl
@[simp] theorem exec_amoXor (g : Guard) (rd : Fin 32) (ra : Fin 32) (rb : Fin 32) (cls : Fin 4) (dbl : Bool) (s : State) : exec (.amoXor g rd ra rb cls dbl) s = execAmoXor g rd ra rb cls dbl s := rfl
@[simp] theorem exec_amoMin (g : Guard) (rd : Fin 32) (ra : Fin 32) (rb : Fin 32) (cls : Fin 4) (dbl : Bool) (s : State) : exec (.amoMin g rd ra rb cls dbl) s = execAmoMin g rd ra rb cls dbl s := rfl
@[simp] theorem exec_amoMax (g : Guard) (rd : Fin 32) (ra : Fin 32) (rb : Fin 32) (cls : Fin 4) (dbl : Bool) (s : State) : exec (.amoMax g rd ra rb cls dbl) s = execAmoMax g rd ra rb cls dbl s := rfl
@[simp] theorem exec_amoMinu (g : Guard) (rd : Fin 32) (ra : Fin 32) (rb : Fin 32) (cls : Fin 4) (dbl : Bool) (s : State) : exec (.amoMinu g rd ra rb cls dbl) s = execAmoMinu g rd ra rb cls dbl s := rfl
@[simp] theorem exec_amoMaxu (g : Guard) (rd : Fin 32) (ra : Fin 32) (rb : Fin 32) (cls : Fin 4) (dbl : Bool) (s : State) : exec (.amoMaxu g rd ra rb cls dbl) s = execAmoMaxu g rd ra rb cls dbl s := rfl
@[simp] theorem exec_amoFadd (g : Guard) (rd : Fin 32) (ra : Fin 32) (rb : Fin 32) (cls : Fin 4) (s : State) : exec (.amoFadd g rd ra rb cls) s = execAmoFadd g rd ra rb cls s := rfl
@[simp] theorem exec_amoCas (g : Guard) (rd : Fin 32) (ra : Fin 32) (rb : Fin 32) (cls : Fin 4) (dbl : Bool) (s : State) : exec (.amoCas g rd ra rb cls dbl) s = execAmoCas g rd ra rb cls dbl s := rfl
@[simp] theorem exec_redAdd (g : Guard) (ra : Fin 32) (rb : Fin 32) (cls : Fin 4) (dbl : Bool) (s : State) : exec (.redAdd g ra rb cls dbl) s = execRedAdd g ra rb cls dbl s := rfl
@[simp] theorem exec_redAnd (g : Guard) (ra : Fin 32) (rb : Fin 32) (cls : Fin 4) (dbl : Bool) (s : State) : exec (.redAnd g ra rb cls dbl) s = execRedAnd g ra rb cls dbl s := rfl
@[simp] theorem exec_redOr (g : Guard) (ra : Fin 32) (rb : Fin 32) (cls : Fin 4) (dbl : Bool) (s : State) : exec (.redOr g ra rb cls dbl) s = execRedOr g ra rb cls dbl s := rfl
@[simp] theorem exec_redXor (g : Guard) (ra : Fin 32) (rb : Fin 32) (cls : Fin 4) (dbl : Bool) (s : State) : exec (.redXor g ra rb cls dbl) s = execRedXor g ra rb cls dbl s := rfl
@[simp] theorem exec_redMin (g : Guard) (ra : Fin 32) (rb : Fin 32) (cls : Fin 4) (dbl : Bool) (s : State) : exec (.redMin g ra rb cls dbl) s = execRedMin g ra rb cls dbl s := rfl
@[simp] theorem exec_redMax (g : Guard) (ra : Fin 32) (rb : Fin 32) (cls : Fin 4) (dbl : Bool) (s : State) : exec (.redMax g ra rb cls dbl) s = execRedMax g ra rb cls dbl s := rfl
@[simp] theorem exec_redMinu (g : Guard) (ra : Fin 32) (rb : Fin 32) (cls : Fin 4) (dbl : Bool) (s : State) : exec (.redMinu g ra rb cls dbl) s = execRedMinu g ra rb cls dbl s := rfl
@[simp] theorem exec_redMaxu (g : Guard) (ra : Fin 32) (rb : Fin 32) (cls : Fin 4) (dbl : Bool) (s : State) : exec (.redMaxu g ra rb cls dbl) s = execRedMaxu g ra rb cls dbl s := rfl
@[simp] theorem exec_redFadd (g : Guard) (ra : Fin 32) (rb : Fin 32) (cls : Fin 4) (s : State) : exec (.redFadd g ra rb cls) s = execRedFadd g ra rb cls s := rfl
@[simp] theorem exec_qpush (g : Guard) (pd : Fin 8) (ra : Fin 32) (rb : Fin 32) (cls : Fin 16) (s : State) : exec (.qpush g pd ra rb cls) s = execQpush g pd ra rb cls s := rfl
@[simp] theorem exec_qpop (g : Guard) (rd : Fin 32) (ra : Fin 32) (pd : Fin 8) (cls : Fin 16) (s : State) : exec (.qpop g rd ra pd cls) s = execQpop g rd ra pd cls s := rfl
@[simp] theorem exec_racqP (g : Guard) (rd : Fin 32) (n : Fin 4) (s : State) : exec (.racqP g rd n) s = execRacqP g rd n s := rfl
@[simp] theorem exec_racqC (g : Guard) (rd : Fin 32) (n : Fin 4) (s : State) : exec (.racqC g rd n) s = execRacqC g rd n s := rfl
@[simp] theorem exec_rrelP (g : Guard) (n : Fin 4) (s : State) : exec (.rrelP g n) s = execRrelP g n s := rfl
@[simp] theorem exec_rrelC (g : Guard) (n : Fin 4) (s : State) : exec (.rrelC g n) s = execRrelC g n s := rfl
@[simp] theorem exec_fork (g : Guard) (ra : Fin 32) (e : Engine) (s : State) : exec (.fork g ra e) s = execFork g ra e s := rfl
@[simp] theorem exec_join (g : Guard) (m : EngSet) (s : State) : exec (.join g m) s = execJoin g m s := rfl
@[simp] theorem exec_sete (g : Guard) (e : Fin 32) (ra : Fin 32) (s : State) : exec (.sete g e ra) s = execSete g e ra s := rfl
@[simp] theorem exec_gete (g : Guard) (rd : Fin 32) (e : Fin 32) (s : State) : exec (.gete g rd e) s = execGete g rd e s := rfl
@[simp] theorem exec_twait (g : Guard) (m : EngSet) (s : State) : exec (.twait g m) s = execTwait g m s := rfl
@[simp] theorem exec_tpost (g : Guard) (m : EngSet) (s : State) : exec (.tpost g m) s = execTpost g m s := rfl
@[simp] theorem exec_setts (g : Guard) (ra : Fin 32) (t : Fin 48) (s : State) : exec (.setts g ra t) s = execSetts g ra t s := rfl
@[simp] theorem exec_getts (g : Guard) (rd : Fin 32) (t : Fin 48) (s : State) : exec (.getts g rd t) s = execGetts g rd t s := rfl
@[simp] theorem exec_barA (g : Guard) (sc : Scope) (s : State) : exec (.barA g sc) s = execBarA g sc s := rfl
@[simp] theorem exec_barW (g : Guard) (sc : Scope) (s : State) : exec (.barW g sc) s = execBarW g sc s := rfl
@[simp] theorem exec_barAw (g : Guard) (sc : Scope) (s : State) : exec (.barAw g sc) s = execBarAw g sc s := rfl
@[simp] theorem exec_barTry (g : Guard) (sc : Scope) (pd : Fin 8) (s : State) : exec (.barTry g sc pd) s = execBarTry g sc pd s := rfl
@[simp] theorem exec_trmSend (g : Guard) (ra : Fin 32) (s : State) : exec (.trmSend g ra) s = execTrmSend g ra s := rfl
@[simp] theorem exec_trmIdle (g : Guard) (s : State) : exec (.trmIdle g) s = execTrmIdle g s := rfl
@[simp] theorem exec_trmBusy (g : Guard) (s : State) : exec (.trmBusy g) s = execTrmBusy g s := rfl
@[simp] theorem exec_trmTest (g : Guard) (pd : Fin 8) (s : State) : exec (.trmTest g pd) s = execTrmTest g pd s := rfl
@[simp] theorem exec_movs (g : Guard) (rd : Fin 32) (sel : SpecReg) (s : State) : exec (.movs g rd sel) s = execMovs g rd sel s := rfl
@[simp] theorem exec_movts (g : Guard) (ra : Fin 32) (sel : SpecReg) (s : State) : exec (.movts g ra sel) s = execMovts g ra sel s := rfl
@[simp] theorem exec_trap (g : Guard) (code : BitVec 12) (s : State) : exec (.trap g code) s = execTrap g code s := rfl
@[simp] theorem exec_yield (g : Guard) (s : State) : exec (.yield g) s = execYield g s := rfl
@[simp] theorem exec_done (g : Guard) (s : State) : exec (.done g) s = execDone g s := rfl
@[simp] theorem exec_instructionFetch (core : Nat) (c : CtxId) (s : State) : exec (.instructionFetch core c) s = execInstructionFetch core c s := rfl
@[simp] theorem exec_enop (t : Tok) (s : State) : exec (.enop t) s = execEnop t s := rfl
@[simp] theorem exec_ehalt (t : Tok) (s : State) : exec (.ehalt t) s = execEhalt t s := rfl
@[simp] theorem exec_eskip (t : Tok) (e : Fin 32) (cond : SkipCond) (n : Fin 256) (s : State) : exec (.eskip t e cond n) s = execEskip t e cond n s := rfl
@[simp] theorem exec_eflag (t : Tok) (e : Fin 32) (s : State) : exec (.eflag t e) s = execEflag t e s := rfl
@[simp] theorem exec_sectionFetch (core : Nat) (g : Engine) (s : State) : exec (.sectionFetch core g) s = execSectionFetch core g s := rfl
@[simp] theorem exec_sectionExecute (core : Nat) (g : Engine) (s : State) : exec (.sectionExecute core g) s = execSectionExecute core g s := rfl
@[simp] theorem exec_engineWordComplete (core : Nat) (g : Engine) (s : State) : exec (.engineWordComplete core g) s = execEngineWordComplete core g s := rfl
@[simp] theorem exec_azero (w : AsWord) (s : State) : exec (.azero w) s = execAzero w s := rfl
@[simp] theorem exec_amma (w : AmWord) (s : State) : exec (.amma w) s = execAmma w s := rfl
@[simp] theorem exec_ammas (w : AmWord) (s : State) : exec (.ammas w) s = execAmmas w s := rfl
@[simp] theorem exec_ammaz (w : AmWord) (s : State) : exec (.ammaz w) s = execAmmaz w s := rfl
@[simp] theorem exec_atbld (w : AtWord) (s : State) : exec (.atbld w) s = execAtbld w s := rfl
@[simp] theorem exec_atmma (w : AmWord) (s : State) : exec (.atmma w) s = execAtmma w s := rfl
@[simp] theorem exec_adist (w : AmWord) (s : State) : exec (.adist w) s = execAdist w s := rfl
@[simp] theorem exec_aargmin (w : ArWord) (s : State) : exec (.aargmin w) s = execAargmin w s := rfl
@[simp] theorem exec_adrain (w : AdWord) (s : State) : exec (.adrain w) s = execAdrain w s := rfl
@[simp] theorem exec_adrainm (w : AdWord) (s : State) : exec (.adrainm w) s = execAdrainm w s := rfl
@[simp] theorem exec_adrainmStoresAccepted (core : Nat) (s : State) : exec (.adrainmStoresAccepted core) s = execAdrainmStoresAccepted core s := rfl
@[simp] theorem exec_ascacc (w : AsWord) (s : State) : exec (.ascacc w) s = execAscacc w s := rfl
@[simp] theorem exec_acent (w : AmWord) (s : State) : exec (.acent w) s = execAcent w s := rfl
@[simp] theorem exec_acdiv (w : AsWord) (s : State) : exec (.acdiv w) s = execAcdiv w s := rfl
@[simp] theorem exec_aaccld (w : AsWord) (s : State) : exec (.aaccld w) s = execAaccld w s := rfl
@[simp] theorem exec_aaccst (w : AsWord) (s : State) : exec (.aaccst w) s = execAaccst w s := rfl
@[simp] theorem exec_amova (w : AsWord) (s : State) : exec (.amova w) s = execAmova w s := rfl
@[simp] theorem exec_vadd (w : VgWord) (s : State) : exec (.vadd w) s = execVadd w s := rfl
@[simp] theorem exec_vsub (w : VgWord) (s : State) : exec (.vsub w) s = execVsub w s := rfl
@[simp] theorem exec_vmul (w : VgWord) (s : State) : exec (.vmul w) s = execVmul w s := rfl
@[simp] theorem exec_vfma (w : VgWord) (s : State) : exec (.vfma w) s = execVfma w s := rfl
@[simp] theorem exec_vmin (w : VgWord) (s : State) : exec (.vmin w) s = execVmin w s := rfl
@[simp] theorem exec_vmax (w : VgWord) (s : State) : exec (.vmax w) s = execVmax w s := rfl
@[simp] theorem exec_vabs (w : VgWord) (s : State) : exec (.vabs w) s = execVabs w s := rfl
@[simp] theorem exec_vneg (w : VgWord) (s : State) : exec (.vneg w) s = execVneg w s := rfl
@[simp] theorem exec_vrcp (w : VgWord) (s : State) : exec (.vrcp w) s = execVrcp w s := rfl
@[simp] theorem exec_vrsq (w : VgWord) (s : State) : exec (.vrsq w) s = execVrsq w s := rfl
@[simp] theorem exec_vexp2 (w : VgWord) (s : State) : exec (.vexp2 w) s = execVexp2 w s := rfl
@[simp] theorem exec_vlog2 (w : VgWord) (s : State) : exec (.vlog2 w) s = execVlog2 w s := rfl
@[simp] theorem exec_vscale (w : VgWord) (s : State) : exec (.vscale w) s = execVscale w s := rfl
@[simp] theorem exec_vclamp (w : VgWord) (s : State) : exec (.vclamp w) s = execVclamp w s := rfl
@[simp] theorem exec_vcmp (w : VgWord) (s : State) : exec (.vcmp w) s = execVcmp w s := rfl
@[simp] theorem exec_vclass (w : VgWord) (s : State) : exec (.vclass w) s = execVclass w s := rfl
@[simp] theorem exec_viadd (w : VgWord) (s : State) : exec (.viadd w) s = execViadd w s := rfl
@[simp] theorem exec_visub (w : VgWord) (s : State) : exec (.visub w) s = execVisub w s := rfl
@[simp] theorem exec_vimul (w : VgWord) (s : State) : exec (.vimul w) s = execVimul w s := rfl
@[simp] theorem exec_vimin (w : VgWord) (s : State) : exec (.vimin w) s = execVimin w s := rfl
@[simp] theorem exec_vimax (w : VgWord) (s : State) : exec (.vimax w) s = execVimax w s := rfl
@[simp] theorem exec_vand (w : VgWord) (s : State) : exec (.vand w) s = execVand w s := rfl
@[simp] theorem exec_vor (w : VgWord) (s : State) : exec (.vor w) s = execVor w s := rfl
@[simp] theorem exec_vxor (w : VgWord) (s : State) : exec (.vxor w) s = execVxor w s := rfl
@[simp] theorem exec_vshl (w : VgWord) (s : State) : exec (.vshl w) s = execVshl w s := rfl
@[simp] theorem exec_vshr (w : VgWord) (s : State) : exec (.vshr w) s = execVshr w s := rfl
@[simp] theorem exec_vpopc (w : VgWord) (s : State) : exec (.vpopc w) s = execVpopc w s := rfl
@[simp] theorem exec_vicmp (w : VgWord) (s : State) : exec (.vicmp w) s = execVicmp w s := rfl
@[simp] theorem exec_viota (w : VgWord) (s : State) : exec (.viota w) s = execViota w s := rfl
@[simp] theorem exec_vcvt (w : VgWord) (s : State) : exec (.vcvt w) s = execVcvt w s := rfl
@[simp] theorem exec_vquant (w : VgWord) (s : State) : exec (.vquant w) s = execVquant w s := rfl
@[simp] theorem exec_vbmax (w : VgWord) (s : State) : exec (.vbmax w) s = execVbmax w s := rfl
@[simp] theorem exec_vpack (w : VgWord) (s : State) : exec (.vpack w) s = execVpack w s := rfl
@[simp] theorem exec_vunpk (w : VgWord) (s : State) : exec (.vunpk w) s = execVunpk w s := rfl
@[simp] theorem exec_vspars (w : VgWord) (s : State) : exec (.vspars w) s = execVspars w s := rfl
@[simp] theorem exec_vzbm (w : VgWord) (s : State) : exec (.vzbm w) s = execVzbm w s := rfl
@[simp] theorem exec_vrsum (w : VgWord) (s : State) : exec (.vrsum w) s = execVrsum w s := rfl
@[simp] theorem exec_vrmax (w : VgWord) (s : State) : exec (.vrmax w) s = execVrmax w s := rfl
@[simp] theorem exec_vrmin (w : VgWord) (s : State) : exec (.vrmin w) s = execVrmin w s := rfl
@[simp] theorem exec_vramax (w : VgWord) (s : State) : exec (.vramax w) s = execVramax w s := rfl
@[simp] theorem exec_vcsum (w : VgWord) (s : State) : exec (.vcsum w) s = execVcsum w s := rfl
@[simp] theorem exec_vscan (w : VgWord) (s : State) : exec (.vscan w) s = execVscan w s := rfl
@[simp] theorem exec_vmov (w : VgWord) (s : State) : exec (.vmov w) s = execVmov w s := rfl
@[simp] theorem exec_vtrans (w : VgWord) (s : State) : exec (.vtrans w) s = execVtrans w s := rfl
@[simp] theorem exec_vbcast (w : VgWord) (s : State) : exec (.vbcast w) s = execVbcast w s := rfl
@[simp] theorem exec_vshuf (w : VgWord) (s : State) : exec (.vshuf w) s = execVshuf w s := rfl
@[simp] theorem exec_vrot (w : VgWord) (s : State) : exec (.vrot w) s = execVrot w s := rfl
@[simp] theorem exec_vsel (w : VgWord) (s : State) : exec (.vsel w) s = execVsel w s := rfl
@[simp] theorem exec_vext (w : VgWord) (s : State) : exec (.vext w) s = execVext w s := rfl
@[simp] theorem exec_vins (w : VgWord) (s : State) : exec (.vins w) s = execVins w s := rfl
@[simp] theorem exec_vfill (w : VgWord) (s : State) : exec (.vfill w) s = execVfill w s := rfl
@[simp] theorem exec_vmlog (w : VgWord) (s : State) : exec (.vmlog w) s = execVmlog w s := rfl
@[simp] theorem exec_vmpop (w : VgWord) (s : State) : exec (.vmpop w) s = execVmpop w s := rfl
@[simp] theorem exec_vmfirst (w : VgWord) (s : State) : exec (.vmfirst w) s = execVmfirst w s := rfl
@[simp] theorem exec_vsfc (w : VgWord) (s : State) : exec (.vsfc w) s = execVsfc w s := rfl
@[simp] theorem exec_vhist (w : VgWord) (s : State) : exec (.vhist w) s = execVhist w s := rfl
@[simp] theorem exec_cld (w : CgWord) (s : State) : exec (.cld w) s = execCld w s := rfl
@[simp] theorem exec_cst (w : CgWord) (s : State) : exec (.cst w) s = execCst w s := rfl
@[simp] theorem exec_ccpy (w : CgWord) (s : State) : exec (.ccpy w) s = execCcpy w s := rfl
@[simp] theorem exec_cfill (w : CgWord) (s : State) : exec (.cfill w) s = execCfill w s := rfl
@[simp] theorem exec_cwin (w : CgWord) (s : State) : exec (.cwin w) s = execCwin w s := rfl
@[simp] theorem exec_cadv (w : CgWord) (s : State) : exec (.cadv w) s = execCadv w s := rfl
@[simp] theorem exec_windowGranuleLand (core : Nat) (idx : Nat) (s : State) : exec (.windowGranuleLand core idx) s = execWindowGranuleLand core idx s := rfl
@[simp] theorem exec_cgath (w : CgWord) (s : State) : exec (.cgath w) s = execCgath w s := rfl
@[simp] theorem exec_cscat (w : CgWord) (s : State) : exec (.cscat w) s = execCscat w s := rfl
@[simp] theorem exec_copyDataReturn (core : Nat) (idx : Nat) (s : State) : exec (.copyDataReturn core idx) s = execCopyDataReturn core idx s := rfl
@[simp] theorem exec_copyWriteAccept (core : Nat) (idx : Nat) (s : State) : exec (.copyWriteAccept core idx) s = execCopyWriteAccept core idx s := rfl
@[simp] theorem exec_cdec (w : CgWord) (s : State) : exec (.cdec w) s = execCdec w s := rfl
@[simp] theorem exec_cenc (w : CgWord) (s : State) : exec (.cenc w) s = execCenc w s := rfl
@[simp] theorem exec_cxfm (w : CgWord) (s : State) : exec (.cxfm w) s = execCxfm w s := rfl
@[simp] theorem exec_cstash (w : CgWord) (s : State) : exec (.cstash w) s = execCstash w s := rfl
@[simp] theorem exec_cunst (w : CgWord) (s : State) : exec (.cunst w) s = execCunst w s := rfl
@[simp] theorem exec_csdrop (w : CgWord) (s : State) : exec (.csdrop w) s = execCsdrop w s := rfl
@[simp] theorem exec_cbat (w : CgWord) (s : State) : exec (.cbat w) s = execCbat w s := rfl
@[simp] theorem exec_csend (w : CgWord) (s : State) : exec (.csend w) s = execCsend w s := rfl
@[simp] theorem exec_crecv (w : CgWord) (s : State) : exec (.crecv w) s = execCrecv w s := rfl
@[simp] theorem exec_cchstStat (w : CgWord) (s : State) : exec (.cchstStat w) s = execCchstStat w s := rfl
@[simp] theorem exec_cchstGrant (w : CgWord) (s : State) : exec (.cchstGrant w) s = execCchstGrant w s := rfl
@[simp] theorem exec_cringSum (w : CgWord) (s : State) : exec (.cringSum w) s = execCringSum w s := rfl
@[simp] theorem exec_cringMax (w : CgWord) (s : State) : exec (.cringMax w) s = execCringMax w s := rfl
@[simp] theorem exec_cringBcast (w : CgWord) (s : State) : exec (.cringBcast w) s = execCringBcast w s := rfl
@[simp] theorem exec_crepart (w : CgWord) (s : State) : exec (.crepart w) s = execCrepart w s := rfl
@[simp] theorem exec_cpin (w : CgWord) (s : State) : exec (.cpin w) s = execCpin w s := rfl
@[simp] theorem exec_cunpin (w : CgWord) (s : State) : exec (.cunpin w) s = execCunpin w s := rfl
@[simp] theorem exec_cpref (w : CgWord) (s : State) : exec (.cpref w) s = execCpref w s := rfl
@[simp] theorem exec_cflush (w : CgWord) (s : State) : exec (.cflush w) s = execCflush w s := rfl
@[simp] theorem exec_cmetaRead (w : CgWord) (s : State) : exec (.cmetaRead w) s = execCmetaRead w s := rfl
@[simp] theorem exec_cmetaWrite (w : CgWord) (s : State) : exec (.cmetaWrite w) s = execCmetaWrite w s := rfl
@[simp] theorem exec_kick (q : Nat) (s : State) : exec (.kick q) s = execKick q s := rfl
@[simp] theorem exec_tailReadReturn (q : Nat) (s : State) : exec (.tailReadReturn q) s = execTailReadReturn q s := rfl
@[simp] theorem exec_queueEnable (q : Nat) (s : State) : exec (.queueEnable q) s = execQueueEnable q s := rfl
@[simp] theorem exec_queueDisable (q : Nat) (s : State) : exec (.queueDisable q) s = execQueueDisable q s := rfl
@[simp] theorem exec_recordEnter (q : Nat) (s : State) : exec (.recordEnter q) s = execRecordEnter q s := rfl
@[simp] theorem exec_nop (q : Nat) (idx : Nat) (s : State) : exec (.nop q idx) s = execNop q idx s := rfl
@[simp] theorem exec_task (q : Nat) (idx : Nat) (s : State) : exec (.task q idx) s = execTask q idx s := rfl
@[simp] theorem exec_stage (q : Nat) (idx : Nat) (s : State) : exec (.stage q idx) s = execStage q idx s := rfl
@[simp] theorem exec_xform (q : Nat) (idx : Nat) (s : State) : exec (.xform q idx) s = execXform q idx s := rfl
@[simp] theorem exec_coll (q : Nat) (idx : Nat) (s : State) : exec (.coll q idx) s = execColl q idx s := rfl
@[simp] theorem exec_signal (q : Nat) (idx : Nat) (s : State) : exec (.signal q idx) s = execSignal q idx s := rfl
@[simp] theorem exec_wait (q : Nat) (idx : Nat) (s : State) : exec (.wait q idx) s = execWait q idx s := rfl
@[simp] theorem exec_waitPoll (q : Nat) (idx : Nat) (s : State) : exec (.waitPoll q idx) s = execWaitPoll q idx s := rfl
@[simp] theorem exec_waitTimeout (q : Nat) (idx : Nat) (s : State) : exec (.waitTimeout q idx) s = execWaitTimeout q idx s := rfl
@[simp] theorem exec_nodeComplete (q : Nat) (idx : Nat) (s : State) : exec (.nodeComplete q idx) s = execNodeComplete q idx s := rfl
@[simp] theorem exec_cplheadReread (q : Nat) (s : State) : exec (.cplheadReread q) s = execCplheadReread q s := rfl
@[simp] theorem exec_msixUnmask (entry : Nat) (s : State) : exec (.msixUnmask entry) s = execMsixUnmask entry s := rfl
@[simp] theorem exec_leasePhase (q : Nat) (idx : Nat) (s : State) : exec (.leasePhase q idx) s = execLeasePhase q idx s := rfl
@[simp] theorem exec_noticeackRetry (nid : Nat) (s : State) : exec (.noticeackRetry nid) s = execNoticeackRetry nid s := rfl
@[simp] theorem exec_noticeackFail (nid : Nat) (s : State) : exec (.noticeackFail nid) s = execNoticeackFail nid s := rfl
@[simp] theorem exec_nqcfgWrite (v : W64) (s : State) : exec (.nqcfgWrite v) s = execNqcfgWrite v s := rfl
@[simp] theorem exec_nqheadWrite (v : W32) (s : State) : exec (.nqheadWrite v) s = execNqheadWrite v s := rfl
@[simp] theorem exec_tlbInvalidate (v : W32) (s : State) : exec (.tlbInvalidate v) s = execTlbInvalidate v s := rfl
@[simp] theorem exec_tlbInvalidateDone (s : State) : exec .tlbInvalidateDone s = execTlbInvalidateDone s := rfl
@[simp] theorem exec_atsInvalidate (pasid : Nat) (va : Nat) (len : Nat) (s : State) : exec (.atsInvalidate pasid va len) s = execAtsInvalidate pasid va len s := rfl
@[simp] theorem exec_bar4Read (off : Nat) (len : Nat) (s : State) : exec (.bar4Read off len) s = execBar4Read off len s := rfl
@[simp] theorem exec_bar4Write (off : Nat) (data : List Byte) (s : State) : exec (.bar4Write off data) s = execBar4Write off data s := rfl
@[simp] theorem exec_registerWrite (off : Nat) (v : W64) (s : State) : exec (.registerWrite off v) s = execRegisterWrite off v s := rfl
@[simp] theorem exec_placeNode (s : State) : exec .placeNode s = execPlaceNode s := rfl
@[simp] theorem exec_placementReserve (cand : Nat) (s : State) : exec (.placementReserve cand) s = execPlacementReserve cand s := rfl
@[simp] theorem exec_preemptTimeout (cand : Nat) (s : State) : exec (.preemptTimeout cand) s = execPreemptTimeout cand s := rfl
@[simp] theorem exec_contextSave (ctxid : Nat) (s : State) : exec (.contextSave ctxid) s = execContextSave ctxid s := rfl
@[simp] theorem exec_contextResume (ctxid : Nat) (s : State) : exec (.contextResume ctxid) s = execContextResume ctxid s := rfl
@[simp] theorem exec_partStart (core : Nat) (s : State) : exec (.partStart core) s = execPartStart core s := rfl
@[simp] theorem exec_rendezvous (core : Nat) (s : State) : exec (.rendezvous core) s = execRendezvous core s := rfl
@[simp] theorem exec_iterLong (core : Nat) (s : State) : exec (.iterLong core) s = execIterLong core s := rfl
@[simp] theorem exec_retire (ctxid : Nat) (s : State) : exec (.retire ctxid) s = execRetire ctxid s := rfl
@[simp] theorem exec_faultTeardown (ctxid : Nat) (s : State) : exec (.faultTeardown ctxid) s = execFaultTeardown ctxid s := rfl
@[simp] theorem exec_frheadWrite (v : W32) (s : State) : exec (.frheadWrite v) s = execFrheadWrite v s := rfl
@[simp] theorem exec_podBarrierArrival (group : Nat) (sender : Sender) (s : State) : exec (.podBarrierArrival group sender) s = execPodBarrierArrival group sender s := rfl
@[simp] theorem exec_trmTokenPass (ctxid : Nat) (s : State) : exec (.trmTokenPass ctxid) s = execTrmTokenPass ctxid s := rfl
@[simp] theorem exec_mbsEvaluate (stage : Nat) (s : State) : exec (.mbsEvaluate stage) s = execMbsEvaluate stage s := rfl
@[simp] theorem exec_starveExpiry (stage : Nat) (row : Nat) (s : State) : exec (.starveExpiry stage row) s = execStarveExpiry stage row s := rfl
@[simp] theorem exec_spanReportReceive (stage : Nat) (sender : Sender) (fwd : List Nat) (bwd : List Nat) (ended : EndedSteps) (free : List Nat) (s : State) : exec (.spanReportReceive stage sender fwd bwd ended free) s = execSpanReportReceive stage sender fwd bwd ended free s := rfl
@[simp] theorem exec_spanPickReceive (stage : Nat) (inc : Nat) (gang : Nat) (tag : Nat) (pick : PickTerms) (t : Nat) (adv : Bool) (s : State) : exec (.spanPickReceive stage inc gang tag pick t adv) s = execSpanPickReceive stage inc gang tag pick t adv s := rfl
@[simp] theorem exec_spanStartTime (stage : Nat) (s : State) : exec (.spanStartTime stage) s = execSpanStartTime stage s := rfl
@[simp] theorem exec_spanMemberLost (stage : Nat) (member : Nat) (s : State) : exec (.spanMemberLost stage member) s = execSpanMemberLost stage member s := rfl
@[simp] theorem exec_firnWriteDone (slot : Nat) (s : State) : exec (.firnWriteDone slot) s = execFirnWriteDone slot s := rfl
@[simp] theorem exec_firnFillDone (slot : Nat) (s : State) : exec (.firnFillDone slot) s = execFirnFillDone slot s := rfl
@[simp] theorem exec_bankSwitchComplete (quad : Nat) (bank : Nat) (s : State) : exec (.bankSwitchComplete quad bank) s = execBankSwitchComplete quad bank s := rfl
@[simp] theorem exec_neveDisplace (x : NeveUse) (pline : Nat) (sectors : Nat) (coding : Nat) (s : State) : exec (.neveDisplace x pline sectors coding) s = execNeveDisplace x pline sectors coding s := rfl
@[simp] theorem exec_poisonDetect (sector : Nat) (error : FoundError) (s : State) : exec (.poisonDetect sector error) s = execPoisonDetect sector error s := rfl
@[simp] theorem exec_memoryEventRecord (s : State) : exec .memoryEventRecord s = execMemoryEventRecord s := rfl
@[simp] theorem exec_rowActivation (row : Nat) (checkFails : Bool) (s : State) : exec (.rowActivation row checkFails) s = execRowActivation row checkFails s := rfl
@[simp] theorem exec_rowRefresh (row : Nat) (s : State) : exec (.rowRefresh row) s = execRowRefresh row s := rfl
@[simp] theorem exec_promoteCount (tier : Nat) (region : Nat) (s : State) : exec (.promoteCount tier region) s = execPromoteCount tier region s := rfl
@[simp] theorem exec_acreset (v : W64) (s : State) : exec (.acreset v) s = execAcreset v s := rfl
@[simp] theorem exec_tierHigh (tier : Nat) (s : State) : exec (.tierHigh tier) s = execTierHigh tier s := rfl
@[simp] theorem exec_tierLow (tier : Nat) (s : State) : exec (.tierLow tier) s = execTierLow tier s := rfl
@[simp] theorem exec_rgcmd (v : W64) (s : State) : exec (.rgcmd v) s = execRgcmd v s := rfl
@[simp] theorem exec_rgcmdDone (s : State) : exec .rgcmdDone s = execRgcmdDone s := rfl
@[simp] theorem exec_tmcmd (v : W64) (s : State) : exec (.tmcmd v) s = execTmcmd v s := rfl
@[simp] theorem exec_tierMoveDone (s : State) : exec .tierMoveDone s = execTierMoveDone s := rfl
@[simp] theorem exec_calvctlGo (v : W64) (s : State) : exec (.calvctlGo v) s = execCalvctlGo v s := rfl
@[simp] theorem exec_calvMapLoaded (s : State) : exec .calvMapLoaded s = execCalvMapLoaded s := rfl
@[simp] theorem exec_calvLineCopy (uncorrectable : Bool) (s : State) : exec (.calvLineCopy uncorrectable) s = execCalvLineCopy uncorrectable s := rfl
@[simp] theorem exec_calvMoveDone (s : State) : exec .calvMoveDone s = execCalvMoveDone s := rfl
@[simp] theorem exec_calvSettleDone (s : State) : exec .calvSettleDone s = execCalvSettleDone s := rfl
@[simp] theorem exec_phase (core : Nat) (agent : Nat) (addr : Nat) (stamp : Nat) (s : State) : exec (.phase core agent addr stamp) s = execPhase core agent addr stamp s := rfl
@[simp] theorem exec_channelEndOpen (c : Nat) (w0 : W64) (s : State) : exec (.channelEndOpen c w0) s = execChannelEndOpen c w0 s := rfl
@[simp] theorem exec_channelEndClose (c : Nat) (w0 : W64) (s : State) : exec (.channelEndClose c w0) s = execChannelEndClose c w0 s := rfl
@[simp] theorem exec_messageDelivered (c : Nat) (src : Nat) (end_ : SendingEnd) (n : Nat) (tag : Nat) (rows : List (List Byte)) (held : Bool) (cancel : Bool) (s : State) : exec (.messageDelivered c src end_ n tag rows held cancel) s = execMessageDelivered c src end_ n tag rows held cancel s := rfl
@[simp] theorem exec_messageConfirm (c : Nat) (n : Nat) (s : State) : exec (.messageConfirm c n) s = execMessageConfirm c n s := rfl
@[simp] theorem exec_ackReceive (c : Nat) (aseq : Nat) (s : State) : exec (.ackReceive c aseq) s = execAckReceive c aseq s := rfl
@[simp] theorem exec_channelBroken (c : Nat) (s : State) : exec (.channelBroken c) s = execChannelBroken c s := rfl
@[simp] theorem exec_batchReceive (src : Nat) (inc : Nat) (id : Nat) (op : AtomicOp) (rows : List BatchRow) (s : State) : exec (.batchReceive src inc id op rows) s = execBatchReceive src inc id op rows s := rfl
@[simp] theorem exec_batchReply (target : Nat) (id : Nat) (old : List (List W32)) (s : State) : exec (.batchReply target id old) s = execBatchReply target id old s := rfl
@[simp] theorem exec_batchResend (target : Nat) (id : Nat) (s : State) : exec (.batchResend target id) s = execBatchResend target id s := rfl
@[simp] theorem exec_remoteRequest (m : RemoteMsg) (s : State) : exec (.remoteRequest m) s = execRemoteRequest m s := rfl
@[simp] theorem exec_resetNak (pkg : Nat) (id : Nat) (inc : Nat) (s : State) : exec (.resetNak pkg id inc) s = execResetNak pkg id inc s := rfl
@[simp] theorem exec_remoteTimeout (pkg : Nat) (id : Nat) (s : State) : exec (.remoteTimeout pkg id) s = execRemoteTimeout pkg id s := rfl
@[simp] theorem exec_incarnationAnnounce (pkg : Nat) (inc : Nat) (s : State) : exec (.incarnationAnnounce pkg inc) s = execIncarnationAnnounce pkg inc s := rfl
@[simp] theorem exec_ringChunkReceive (group : Nat) (sender : Sender) (terms : RingTerms) (agrees : Bool) (s : State) : exec (.ringChunkReceive group sender terms agrees) s = execRingChunkReceive group sender terms agrees s := rfl
@[simp] theorem exec_driftLoadsReceive (group : Nat) (sender : Sender) (loads : List Nat) (agrees : Bool) (s : State) : exec (.driftLoadsReceive group sender loads agrees) s = execDriftLoadsReceive group sender loads agrees s := rfl
@[simp] theorem exec_driftOfferReceive (group : Nat) (sender : Sender) (count : Nat) (s : State) : exec (.driftOfferReceive group sender count) s = execDriftOfferReceive group sender count s := rfl
@[simp] theorem exec_driftRecordsReceive (group : Nat) (sender : Sender) (recs : List DriftRec) (refused : Nat) (marks : DriftMarks) (written : Bool) (s : State) : exec (.driftRecordsReceive group sender recs refused marks written) s = execDriftRecordsReceive group sender recs refused marks written s := rfl
@[simp] theorem exec_powerControlTick (x : Sensors) (s : State) : exec (.powerControlTick x) s = execPowerControlTick x s := rfl
@[simp] theorem exec_trip (signs : TripSigns) (s : State) : exec (.trip signs) s = execTrip signs s := rfl
@[simp] theorem exec_linkRetrain (s : State) : exec .linkRetrain s = execLinkRetrain s := rfl
@[simp] theorem exec_parkRequest (s : State) : exec .parkRequest s = execParkRequest s := rfl
@[simp] theorem exec_parkedEnter (s : State) : exec .parkedEnter s = execParkedEnter s := rfl
@[simp] theorem exec_parkClear (s : State) : exec .parkClear s = execParkClear s := rfl
@[simp] theorem exec_correctedError (error : SectorError) (s : State) : exec (.correctedError error) s = execCorrectedError error s := rfl
@[simp] theorem exec_stackWarnWindow (stack : Nat) (s : State) : exec (.stackWarnWindow stack) s = execStackWarnWindow stack s := rfl
@[simp] theorem exec_load (s : State) : exec .load s = execLoad s := rfl
@[simp] theorem exec_commit (s : State) : exec .commit s = execCommit s := rfl
@[simp] theorem exec_enrol (s : State) : exec .enrol s = execEnrol s := rfl
@[simp] theorem exec_unenrol (s : State) : exec .unenrol s = execUnenrol s := rfl
@[simp] theorem exec_quote (s : State) : exec .quote s = execQuote s := rfl
@[simp] theorem exec_coldReset (s : State) : exec .coldReset s = execColdReset s := rfl
@[simp] theorem exec_warmReset (s : State) : exec .warmReset s = execWarmReset s := rfl
@[simp] theorem exec_illegalOpcode (f : DecodeFault) (s : State) : exec (.illegalOpcode f) s = execIllegalOpcode f s := rfl
@[simp] theorem exec_torusPortDown (port : Nat) (s : State) : exec (.torusPortDown port) s = execTorusPortDown port s := rfl
@[simp] theorem exec_torusPortUp (port : Nat) (s : State) : exec (.torusPortUp port) s = execTorusPortUp port s := rfl
@[simp] theorem exec_powerLoss (s : State) : exec .powerLoss s = execPowerLoss s := rfl
@[simp] theorem exec_fwcmdComplete (s : State) : exec .fwcmdComplete s = execFwcmdComplete s := rfl
@[simp] theorem exec_firmwareError (s : State) : exec .firmwareError s = execFirmwareError s := rfl

end Sys2Proof.Machine
end

