-- ==== Sys2Proof/Laws/Control.lean ====
section
/-! SUPPORT. Control-core words: what the operations that run them answer (R74, R188). -/

set_option Elab.async false

namespace Sys2Proof.Machine

open Sys2Proof.Safety

/-- A word whose guard holds runs its body. -/
theorem ctl_runs {s : State} {k : Fin 128} {c : CtxId} {g : Guard} (h : Runs s k c g) (body : Fin 128 → CtxId → Ctx → Out) :
    ctl s g body = body k c (s.ctx k c) := by simp [ctl, h.1, h.2]

/-- A word whose guard fails only passes. -/
theorem ctl_passes {s : State} {k : Fin 128} {c : CtxId} {g : Guard} (hc : s.cur = .context k c) (h : (s.ctx k c).guard g = false)
    (body : Fin 128 → CtxId → Ctx → Out) : ctl s g body = .next (s.advance k c) := by simp [ctl, hc, h]

theorem ctlX_runs {s : State} {k : Fin 128} {c : CtxId} {g : Guard} (h : Runs s k c g) (rd : Fin 32) (f : Ctx → W64) :
    ctlX s g rd f = .next (s.retX k c rd (f (s.ctx k c))) := ctl_runs h _

theorem ctlP_runs {s : State} {k : Fin 128} {c : CtxId} {g : Guard} (h : Runs s k c g) (pd : Fin 8) (f : Ctx → Bool) :
    ctlP s g pd f = .next (s.retP k c pd (f (s.ctx k c))) := ctl_runs h _

/-- What `ctl` can answer in a context: the next word, or its body. -/
theorem ctl_cases {s : State} {g : Guard} {body : Fin 128 → CtxId → Ctx → Out} {t : State} (h : ctl s g body = .next t) :
    ∃ k c, s.cur = .context k c ∧ (((s.ctx k c).guard g = false ∧ t = s.advance k c) ∨
      ((s.ctx k c).guard g = true ∧ body k c (s.ctx k c) = .next t)) := by
  unfold ctl at h
  split at h
  · rename_i k c hc
    refine ⟨k, c, hc, ?_⟩
    cases hg : (s.ctx k c).guard g with
    | true => rw [hg] at h; exact .inr ⟨rfl, h⟩
    | false => rw [hg] at h; cases h; exact .inl ⟨rfl, rfl⟩
  · cases h

/-! ### Going on, and taking a fault -/

@[simp] theorem State.advance_mem (s : State) (k : Fin 128) (c : CtxId) : (s.advance k c).mem = s.mem := rfl
@[simp] theorem State.retX_mem (s : State) (k : Fin 128) (c : CtxId) (rd : Fin 32) (v : W64) : (s.retX k c rd v).mem = s.mem := rfl
@[simp] theorem State.retP_mem (s : State) (k : Fin 128) (c : CtxId) (pd : Fin 8) (v : Bool) : (s.retP k c pd v).mem = s.mem := rfl
@[simp] theorem State.advance_ctx (s : State) (k : Fin 128) (c : CtxId) : (s.advance k c).ctx k c = (s.ctx k c).step := by
  simp [State.advance]
@[simp] theorem State.retX_ctx (s : State) (k : Fin 128) (c : CtxId) (rd : Fin 32) (v : W64) :
    (s.retX k c rd v).ctx k c = ((s.ctx k c).setX rd v).step := by simp [State.retX]
@[simp] theorem State.retP_ctx (s : State) (k : Fin 128) (c : CtxId) (pd : Fin 8) (v : Bool) :
    (s.retP k c pd v).ctx k c = ((s.ctx k c).setP pd v).step := by simp [State.retP]

/-- A fault of a core with none is taken: it is the only change (R383). -/
theorem State.raise_takes (s : State) (k : Fin 128) (agent : Nat) (loc : W64) (tr : Trap) (h : (s.core k).fault = none) :
    s.raise k agent loc tr = s.setCore k { s.core k with fault := some (s.faultInfo k agent loc tr s.mem.mphase) } := by
  simp [State.raise, h, faultWins]

/-- Taking a fault changes at most the fault that the core holds (R383). -/
theorem State.raise_cases (s : State) (k : Fin 128) (agent : Nat) (loc : W64) (tr : Trap) :
    s.raise k agent loc tr = s ∨
      s.raise k agent loc tr = s.setCore k { s.core k with fault := some (s.faultInfo k agent loc tr s.mem.mphase) } := by
  unfold State.raise
  split
  · exact .inr rfl
  · exact .inl rfl

@[simp] theorem State.raise_mem (s : State) (k : Fin 128) (agent : Nat) (loc : W64) (tr : Trap) : (s.raise k agent loc tr).mem = s.mem := by
  rcases s.raise_cases k agent loc tr with h | h <;> simp [h]
@[simp] theorem State.raiseCtx_mem (s : State) (k : Fin 128) (c : CtxId) (tr : Trap) : (s.raiseCtx k c tr).mem = s.mem :=
  s.raise_mem ..

end Sys2Proof.Machine
end

