-- ==== Sys2Proof/Laws/Encoding.lean ====
section
/-! SUPPORT. Encoding and decoding: the fields of a word read back from its encoding, and words that decode to what they encode. -/

set_option Elab.async false

namespace Sys2Proof

theorem leNat_leBytes (n w : Nat) (h : w < 256 ^ n) : leNat (leBytes n w) = w := by
  induction n generalizing w with
  | zero => simp at h; subst h; rfl
  | succ n ih =>
    have hd : w / 256 < 256 ^ n := Nat.div_lt_of_lt_mul (by rwa [Nat.pow_succ, Nat.mul_comm] at h)
    simp only [leBytes, leNat, ih _ hd, BitVec.toNat_ofNat]
    omega

theorem leBytes_length (n w : Nat) : (leBytes n w).length = n := by
  induction n generalizing w with
  | zero => rfl
  | succ n ih => simp [leBytes, ih]

theorem Guard.toNat_lt (g : Guard) : g.toNat < 2 ^ 32 ∧ g.toNat % 2 ^ 28 = 0 := by
  obtain ⟨gs, gp⟩ := g
  have := gp.isLt
  unfold Guard.toNat
  cases gs <;> simp <;> omega

theorem Guard.ofNat_bits (g : Guard) (r : Nat) (h : r < 2 ^ 28) :
    Guard.ofNat (bitsAt (g.toNat + r) 31 1) (bitsAt (g.toNat + r) 28 3) = g := by
  obtain ⟨gs, gp⟩ := g
  have hp := gp.isLt
  have h1 : bitsAt ((Guard.mk gs gp).toNat + r) 28 3 = gp.val := by
    unfold bitsAt Guard.toNat; cases gs <;> simp <;> omega
  have h2 : bitsAt ((Guard.mk gs gp).toNat + r) 31 1 = if gs then 1 else 0 := by
    unfold bitsAt Guard.toNat; cases gs <;> simp <;> omega
  rw [h1, h2]
  cases gs <;> simp [Guard.ofNat]

theorem bitsAt_guard (g : Guard) (r lo len : Nat) (h : lo + len ≤ 28) : bitsAt (g.toNat + r) lo len = bitsAt r lo len := by
  obtain ⟨q, hq⟩ : 2 ^ (lo + len) ∣ g.toNat := by
    refine Nat.dvd_trans (Nat.pow_dvd_pow 2 h) ?_
    exact Nat.dvd_of_mod_eq_zero g.toNat_lt.2
  unfold bitsAt
  rw [hq, Nat.pow_add, Nat.mul_assoc, Nat.mul_add_div (Nat.two_pow_pos lo), Nat.mul_add_mod]

theorem bitsAt_lt (r lo len : Nat) : bitsAt r lo len < 2 ^ len := Nat.mod_lt _ (Nat.two_pow_pos len)

/-- The fields of a word of form R. -/
theorem encR_fields (g : Guard) (M d a b f : Nat) (hM : M < 64) (hd : d < 32) (ha : a < 32) (hb : b < 32) (hf : f < 128) :
    ∃ r, encR g M d a b f = g.toNat + r ∧
    r < 2 ^ 28 ∧ bitsAt r 22 6 = M ∧ bitsAt r 17 5 = d ∧ bitsAt r 12 5 = a ∧ bitsAt r 7 5 = b ∧ bitsAt r 0 7 = f ∧
    bitsAt r 20 2 = d / 8 ∧ bitsAt r 17 3 = d % 8 ∧ bitsAt r 15 2 = a / 8 ∧ bitsAt r 12 3 = a % 8 ∧ bitsAt r 10 2 = b / 8 ∧
    bitsAt r 7 3 = b % 8 ∧ bitsAt r 3 4 = f / 8 ∧ bitsAt r 0 3 = f % 8 ∧ bitsAt r 4 3 = f / 16 ∧ bitsAt r 0 4 = f % 16 ∧
    bitsAt r 2 5 = f / 4 ∧ bitsAt r 0 2 = f % 4 ∧ bitsAt r 5 2 = f / 32 ∧ bitsAt r 4 1 = f / 16 % 2 := by
  refine ⟨M * 2 ^ 22 + d * 2 ^ 17 + a * 2 ^ 12 + b * 2 ^ 7 + f, by unfold encR; omega, ?_⟩
  simp only [bitsAt]
  refine ⟨?_, ?_, ?_, ?_, ?_, ?_, ?_, ?_, ?_, ?_, ?_, ?_, ?_, ?_, ?_, ?_, ?_, ?_, ?_, ?_⟩ <;> omega
/-- The fields of a word of form I. -/
theorem encI_fields (g : Guard) (M d a i : Nat) (hM : M < 64) (hd : d < 32) (ha : a < 32) (hi : i < 4096) :
    ∃ r, encI g M d a i = g.toNat + r ∧
    r < 2 ^ 28 ∧ bitsAt r 22 6 = M ∧ bitsAt r 17 5 = d ∧ bitsAt r 12 5 = a ∧ bitsAt r 0 12 = i ∧
    bitsAt r 20 2 = d / 8 ∧ bitsAt r 17 3 = d % 8 ∧ bitsAt r 6 4 = i / 64 % 16 ∧ bitsAt r 10 2 = i / 1024 ∧
    bitsAt r 0 6 = i % 64 ∧ bitsAt r 3 9 = i / 8 ∧ bitsAt r 0 3 = i % 8 ∧ bitsAt r 2 1 = i / 4 % 2 ∧ bitsAt r 0 2 = i % 4 ∧
    bitsAt r 2 10 = i / 4 := by
  refine ⟨M * 2 ^ 22 + d * 2 ^ 17 + a * 2 ^ 12 + i, by unfold encI; omega, ?_⟩
  simp only [bitsAt]
  refine ⟨?_, ?_, ?_, ?_, ?_, ?_, ?_, ?_, ?_, ?_, ?_, ?_, ?_, ?_, ?_⟩ <;> omega

/-- The fields of a word of form M. -/
theorem encM_fields (g : Guard) (M d a c i : Nat) (hM : M < 64) (hd : d < 32) (ha : a < 32) (hc : c < 16) (hi : i < 256) :
    ∃ r, encM g M d a c i = g.toNat + r ∧
    r < 2 ^ 28 ∧ bitsAt r 22 6 = M ∧ bitsAt r 17 5 = d ∧ bitsAt r 12 5 = a ∧ bitsAt r 8 4 = c ∧ bitsAt r 0 8 = i ∧
    bitsAt r 6 2 = i / 64 ∧ bitsAt r 0 6 = i % 64 := by
  refine ⟨M * 2 ^ 22 + d * 2 ^ 17 + a * 2 ^ 12 + c * 2 ^ 8 + i, by unfold encM; omega, ?_⟩
  simp only [bitsAt]
  refine ⟨?_, ?_, ?_, ?_, ?_, ?_, ?_, ?_⟩ <;> omega

/-- The fields of a word of form B. -/
theorem encB_fields (g : Guard) (M o : Nat) (hM : M < 64) (ho : o < 2 ^ 22) :
    ∃ r, encB g M o = g.toNat + r ∧
    r < 2 ^ 28 ∧ bitsAt r 22 6 = M ∧ bitsAt r 0 22 = o ∧ bitsAt r 20 2 = o / 2 ^ 20 ∧ bitsAt r 17 3 = o / 2 ^ 17 % 8 ∧
    bitsAt r 16 1 = o / 2 ^ 16 % 2 ∧ bitsAt r 0 16 = o % 2 ^ 16 ∧ bitsAt r 12 5 = o / 2 ^ 12 % 32 ∧ bitsAt r 9 3 = o / 2 ^ 9 % 8 ∧
    bitsAt r 0 9 = o % 2 ^ 9 ∧ bitsAt r 17 5 = o / 2 ^ 17 ∧ bitsAt r 0 17 = o % 2 ^ 17 := by
  refine ⟨M * 2 ^ 22 + o, by unfold encB; omega, ?_⟩
  simp only [bitsAt]
  refine ⟨?_, ?_, ?_, ?_, ?_, ?_, ?_, ?_, ?_, ?_, ?_, ?_⟩ <;> omega


theorem Guard.toNat_add_lt (g : Guard) (r : Nat) (h : r < 2 ^ 28) : g.toNat + r < 256 ^ 4 := by
  obtain ⟨gs, gp⟩ := g
  have := gp.isLt
  unfold Guard.toNat
  simp only at h ⊢
  cases gs <;> simp <;> omega

theorem decodeControl_guard (g : Guard) (r M : Nat) (h : r < 2 ^ 28) (hg : g.wf = true) (hM : bitsAt r 22 6 = M)
    (i : Instr) (hd : ∀ b : Nat → Nat → Nat, (∀ lo len, lo + len ≤ 28 → b lo len = bitsAt r lo len) → decodeMajor g b M = .ok i) :
    decodeControl (g.toNat + r) = .ok i := by
  unfold decodeControl
  simp only [Guard.ofNat_bits g r h, bitsAt_guard g r 22 6 (by decide), hM, hg]
  simpa using hd _ fun lo len hl => bitsAt_guard g r lo len hl

theorem decodeControlBytes_leBytes (w : Nat) (i : Instr) (hw : leNat (leBytes 4 w) = w) (hc : decodeControl w = .ok i) :
    decodeControlBytes (leBytes 4 w) = .ok i := by
  simp only [decodeControlBytes, leBytes_length, hw, hc, if_true]

theorem decodeTableWord_32 (w : Nat) (i : Instr) (hc : decodeControlBytes (leBytes 4 w) = .ok i) : decodeTableWord 32 w = some i := by
  simp only [decodeTableWord, hc, Nat.le_refl, if_true]

/-- A control-core word decodes by its major opcode and its bits below the guard. -/
theorem decodeTableWord_control (g : Guard) (r M : Nat) (h : r < 2 ^ 28) (hg : g.wf = true) (hM : bitsAt r 22 6 = M)
    (i : Instr) (hd : ∀ b : Nat → Nat → Nat, (∀ lo len, lo + len ≤ 28 → b lo len = bitsAt r lo len) → decodeMajor g b M = .ok i) :
    decodeTableWord 32 (g.toNat + r) = some i :=
  decodeTableWord_32 _ i (decodeControlBytes_leBytes _ i (leNat_leBytes 4 _ (g.toNat_add_lt r h)) (decodeControl_guard g r M h hg hM i hd))

/-! ### Engine words -/

theorem bitsAt_high (hi r k lo len : Nat) (hd : hi % 2 ^ k = 0) (h : lo + len ≤ k) : bitsAt (hi + r) lo len = bitsAt r lo len := by
  obtain ⟨q, hq⟩ : 2 ^ (lo + len) ∣ hi := Nat.dvd_trans (Nat.pow_dvd_pow 2 h) (Nat.dvd_of_mod_eq_zero hd)
  unfold bitsAt
  rw [hq, Nat.pow_add, Nat.mul_assoc, Nat.mul_add_div (Nat.two_pow_pos lo), Nat.mul_add_mod]

theorem b01_lt (b : Bool) : b01 b < 2 := by cases b <;> decide
theorem b01_beq (b : Bool) : (b01 b == 1) = b := by cases b <;> rfl

theorem Opnd.toNat_lt (o : Opnd) : o.toNat < 256 := by
  obtain ⟨dr, r⟩ := o
  have hd : dr.toCode < 4 := by cases dr <;> decide
  have hr : r.toNat < 64 := by
    cases r with
    | tile n => have := n.isLt; simp only [TileRef.toNat]; omega
    | acc n => have := n.isLt; simp only [TileRef.toNat]; omega
    | tz => decide
  simp only [Opnd.toNat]; omega

theorem TileRef.ofNat_toNat (r : TileRef) : TileRef.ofNat r.toNat = some r := by
  cases r with
  | tile n => have := n.isLt; simp [TileRef.ofNat, TileRef.toNat]
  | acc n => have := n.isLt; simp [TileRef.ofNat, TileRef.toNat, show 48 + n.val < 52 by omega]
  | tz => rfl

theorem Opnd.ofNat_toNat (o : Opnd) (h : o.wf = true) : Opnd.ofNat o.toNat = some o := by
  obtain ⟨dr, r⟩ := o
  have hd : dr.toCode < 4 := by cases dr <;> decide
  have hc : Dir.ofCode dr.toCode = dr := by cases dr <;> rfl
  have hr : r.toNat < 64 := by
    cases r with
    | tile n => have := n.isLt; simp only [TileRef.toNat]; omega
    | acc n => have := n.isLt; simp only [TileRef.toNat]; omega
    | tz => decide
  have h1 : bitsAt (Opnd.mk dr r).toNat 0 6 = r.toNat := by simp only [bitsAt, Opnd.toNat]; omega
  have h2 : bitsAt (Opnd.mk dr r).toNat 6 2 = dr.toCode := by simp only [bitsAt, Opnd.toNat]; omega
  simp only [Opnd.ofNat, h1, h2, TileRef.ofNat_toNat, hc, h, if_true]

theorem useField_toNat (u : Bool) (o : Opnd) (h : (if u then o.wf else o == .zero) = true) : useField u o.toNat = some o := by
  cases u with
  | true => simpa [useField] using Opnd.ofNat_toNat o h
  | false =>
    have e : o = .zero := by simpa using h
    subst e; rfl

/-- The parts of an engine word (R86). -/
theorem engine_parts (opc m : Nat) (t : Tok) (o : Ops4) (ho : opc < 256) (hm : m < 2 ^ 48) :
    let w := opc * 2 ^ 88 + t.toNat + o.toNat + m
    w < 256 ^ 12 ∧ bitsAt w 88 8 = opc ∧ bitsAt w 85 3 = t.wt ∧ bitsAt w 82 3 = t.pt ∧ bitsAt w 80 2 = 0 ∧
    bitsAt w 72 8 = o.d.toNat ∧ bitsAt w 64 8 = o.s1.toNat ∧ bitsAt w 56 8 = o.s2.toNat ∧ bitsAt w 48 8 = o.s3.toNat ∧
    (∀ lo len, lo + len ≤ 48 → bitsAt w lo len = bitsAt m lo len) := by
  intro w
  obtain ⟨wt, pt⟩ := t
  obtain ⟨d, s1, s2, s3⟩ := o
  have h1 := wt.isLt; have h2 := pt.isLt
  have h3 := d.toNat_lt; have h4 := s1.toNat_lt; have h5 := s2.toNat_lt; have h6 := s3.toNat_lt
  simp only [w, Tok.toNat, Ops4.toNat]
  generalize d.toNat = a at *; generalize s1.toNat = b at *; generalize s2.toNat = c at *; generalize s3.toNat = e at *
  refine ⟨by omega, ?_, ?_, ?_, ?_, ?_, ?_, ?_, ?_, fun lo len h => bitsAt_high _ _ 48 lo len (by omega) h⟩ <;>
    simp only [bitsAt] <;> omega

theorem Ops4.ofNat_parts (u : Uses) (o : Ops4) (w : Nat) (h : o.wf u = true) (hd : bitsAt w 72 8 = o.d.toNat)
    (h1 : bitsAt w 64 8 = o.s1.toNat) (h2 : bitsAt w 56 8 = o.s2.toNat) (h3 : bitsAt w 48 8 = o.s3.toNat) :
    Ops4.ofNat u w = some o := by
  simp only [Ops4.wf, Bool.and_eq_true] at h
  unfold Ops4.ofNat
  rw [hd, h1, h2, h3, useField_toNat _ _ h.1.1.1, useField_toNat _ _ h.1.1.2, useField_toNat _ _ h.1.2, useField_toNat _ _ h.2]

theorem Tok.ofNat_parts (t : Tok) (w : Nat) (h1 : bitsAt w 85 3 = t.wt) (h2 : bitsAt w 82 3 = t.pt) : Tok.ofNat w = t := by
  unfold Tok.ofNat
  rw [h1, h2]
  simp

theorem ModAM.toNat_lt (m : ModAM) : m.toNat < 2 ^ 48 := by
  have := m.fa.isLt
  have := m.fb.isLt
  have := m.kn.isLt
  have := m.mr.isLt
  have := m.nc.isLt
  have := m.ra.isLt
  have := m.rb.isLt
  have := m.sel.isLt
  have := b01_lt m.za
  simp only [ModAM.toNat]; omega

theorem ModAM.fields (m : ModAM) :
    bitsAt m.toNat 44 4 = m.fa ∧ bitsAt m.toNat 40 4 = m.fb ∧ bitsAt m.toNat 33 7 = m.kn ∧ bitsAt m.toNat 27 6 = m.mr ∧
    bitsAt m.toNat 21 6 = m.nc ∧ bitsAt m.toNat 14 7 = m.ra ∧ bitsAt m.toNat 7 7 = m.rb ∧ bitsAt m.toNat 5 2 = m.sel ∧
    bitsAt m.toNat 4 1 = b01 m.za ∧ bitsAt m.toNat 0 4 = 0 := by
  have := m.fa.isLt
  have := m.fb.isLt
  have := m.kn.isLt
  have := m.mr.isLt
  have := m.nc.isLt
  have := m.ra.isLt
  have := m.rb.isLt
  have := m.sel.isLt
  have := b01_lt m.za
  simp only [ModAM.toNat, bitsAt]
  refine ⟨?_, ?_, ?_, ?_, ?_, ?_, ?_, ?_, ?_, ?_⟩ <;> omega

/-- A word of layout AM decodes to what it encodes (R82, R86). -/
theorem AmWord.decode_encode (u : Uses) (x : AmWord) (opc : Nat) (f : AmWord → Instr) (ho : opc < 256) (h : x.ops.wf u = true) :
    AmWord.decode u (x.encode opc) f = .ok (f x) := by
  obtain ⟨t, o, m⟩ := x
  have p := engine_parts opc m.toNat t o ho m.toNat_lt
  simp only at p
  unfold AmWord.encode AmWord.decode
  simp only at h ⊢
  generalize opc * 2 ^ 88 + t.toNat + o.toNat + m.toNat = w at p ⊢
  obtain ⟨-, -, p1, p2, p3, p4, p5, p6, p7, p8⟩ := p
  have e : ModAM.ofNat w = some m := by
    have q := m.fields
    unfold ModAM.ofNat
    simp [p8, q, b01_beq]
  rw [Ops4.ofNat_parts u o w h p4 p5 p6 p7, e, Tok.ofNat_parts t w p1 p2, p3]
  simp

theorem AmWord.opcode_encode (x : AmWord) (opc : Nat) (ho : opc < 256) : bitsAt (x.encode opc) 88 8 = opc :=
  (engine_parts opc x.mod.toNat x.tok x.ops ho x.mod.toNat_lt).2.1
theorem AmWord.encode_lt (x : AmWord) (opc : Nat) (ho : opc < 256) : x.encode opc < 256 ^ 12 :=
  (engine_parts opc x.mod.toNat x.tok x.ops ho x.mod.toNat_lt).1

theorem ModAT.toNat_lt (m : ModAT) : m.toNat < 2 ^ 48 := by
  have := m.fa.isLt
  have := m.fb.isLt
  have := m.tf.isLt
  have := m.sub.isLt
  have := b01_lt m.ncode
  have := m.ds.isLt
  have := m.nc.isLt
  have := m.ra.isLt
  have := m.rb.isLt
  simp only [ModAT.toNat]; omega

theorem ModAT.fields (m : ModAT) :
    bitsAt m.toNat 44 4 = m.fa ∧ bitsAt m.toNat 40 4 = m.fb ∧ bitsAt m.toNat 36 4 = m.tf ∧ bitsAt m.toNat 31 5 = m.sub ∧
    bitsAt m.toNat 30 1 = b01 m.ncode ∧ bitsAt m.toNat 24 6 = m.ds ∧ bitsAt m.toNat 18 6 = m.nc ∧
    bitsAt m.toNat 11 7 = m.ra ∧ bitsAt m.toNat 4 7 = m.rb ∧ bitsAt m.toNat 0 4 = 0 := by
  have := m.fa.isLt
  have := m.fb.isLt
  have := m.tf.isLt
  have := m.sub.isLt
  have := b01_lt m.ncode
  have := m.ds.isLt
  have := m.nc.isLt
  have := m.ra.isLt
  have := m.rb.isLt
  simp only [ModAT.toNat, bitsAt]
  refine ⟨?_, ?_, ?_, ?_, ?_, ?_, ?_, ?_, ?_, ?_⟩ <;> omega

/-- A word of layout AT decodes to what it encodes (R82, R86). -/
theorem AtWord.decode_encode (u : Uses) (x : AtWord) (opc : Nat) (f : AtWord → Instr) (ho : opc < 256) (h : x.ops.wf u = true) :
    AtWord.decode u (x.encode opc) f = .ok (f x) := by
  obtain ⟨t, o, m⟩ := x
  have p := engine_parts opc m.toNat t o ho m.toNat_lt
  simp only at p
  unfold AtWord.encode AtWord.decode
  simp only at h ⊢
  generalize opc * 2 ^ 88 + t.toNat + o.toNat + m.toNat = w at p ⊢
  obtain ⟨-, -, p1, p2, p3, p4, p5, p6, p7, p8⟩ := p
  have e : ModAT.ofNat w = some m := by
    have q := m.fields
    unfold ModAT.ofNat
    simp [p8, q, b01_beq]
  rw [Ops4.ofNat_parts u o w h p4 p5 p6 p7, e, Tok.ofNat_parts t w p1 p2, p3]
  simp

theorem AtWord.opcode_encode (x : AtWord) (opc : Nat) (ho : opc < 256) : bitsAt (x.encode opc) 88 8 = opc :=
  (engine_parts opc x.mod.toNat x.tok x.ops ho x.mod.toNat_lt).2.1
theorem AtWord.encode_lt (x : AtWord) (opc : Nat) (ho : opc < 256) : x.encode opc < 256 ^ 12 :=
  (engine_parts opc x.mod.toNat x.tok x.ops ho x.mod.toNat_lt).1

theorem ModAR.toNat_lt (m : ModAR) : m.toNat < 2 ^ 48 := by
  have := b01_lt m.tie
  have := b01_lt m.cin
  have := b01_lt m.idxinc
  have := m.idxe.isLt
  have := b01_lt m.aint
  have := m.mr.isLt
  have := m.nc.isLt
  have := m.rd.isLt
  simp only [ModAR.toNat]; omega

theorem ModAR.fields (m : ModAR) :
    bitsAt m.toNat 47 1 = b01 m.tie ∧ bitsAt m.toNat 46 1 = b01 m.cin ∧ bitsAt m.toNat 45 1 = b01 m.idxinc ∧
    bitsAt m.toNat 40 5 = m.idxe ∧ bitsAt m.toNat 39 1 = b01 m.aint ∧ bitsAt m.toNat 27 6 = m.mr ∧
    bitsAt m.toNat 21 6 = m.nc ∧ bitsAt m.toNat 14 7 = m.rd ∧ bitsAt m.toNat 33 6 = 0 ∧ bitsAt m.toNat 0 14 = 0 := by
  have := b01_lt m.tie
  have := b01_lt m.cin
  have := b01_lt m.idxinc
  have := m.idxe.isLt
  have := b01_lt m.aint
  have := m.mr.isLt
  have := m.nc.isLt
  have := m.rd.isLt
  simp only [ModAR.toNat, bitsAt]
  refine ⟨?_, ?_, ?_, ?_, ?_, ?_, ?_, ?_, ?_, ?_⟩ <;> omega

/-- A word of layout AR decodes to what it encodes (R82, R86). -/
theorem ArWord.decode_encode (u : Uses) (x : ArWord) (opc : Nat) (f : ArWord → Instr) (ho : opc < 256) (h : x.ops.wf u = true) :
    ArWord.decode u (x.encode opc) f = .ok (f x) := by
  obtain ⟨t, o, m⟩ := x
  have p := engine_parts opc m.toNat t o ho m.toNat_lt
  simp only at p
  unfold ArWord.encode ArWord.decode
  simp only at h ⊢
  generalize opc * 2 ^ 88 + t.toNat + o.toNat + m.toNat = w at p ⊢
  obtain ⟨-, -, p1, p2, p3, p4, p5, p6, p7, p8⟩ := p
  have e : ModAR.ofNat w = some m := by
    have q := m.fields
    unfold ModAR.ofNat
    simp [p8, q, b01_beq]
  rw [Ops4.ofNat_parts u o w h p4 p5 p6 p7, e, Tok.ofNat_parts t w p1 p2, p3]
  simp

theorem ArWord.opcode_encode (x : ArWord) (opc : Nat) (ho : opc < 256) : bitsAt (x.encode opc) 88 8 = opc :=
  (engine_parts opc x.mod.toNat x.tok x.ops ho x.mod.toNat_lt).2.1
theorem ArWord.encode_lt (x : ArWord) (opc : Nat) (ho : opc < 256) : x.encode opc < 256 ^ 12 :=
  (engine_parts opc x.mod.toNat x.tok x.ops ho x.mod.toNat_lt).1

theorem ModAD.toNat_lt (m : ModAD) : m.toNat < 2 ^ 48 := by
  have := m.dfmt.isLt
  have := m.rm.isLt
  have := b01_lt m.sat
  have := b01_lt m.bias
  have := m.clamp.isLt
  have := b01_lt m.clr
  have := m.mr.isLt
  have := m.nc.isLt
  have := m.rd.isLt
  have := m.cle.isLt
  have := m.eadr.isLt
  have := m.oc.isLt
  simp only [ModAD.toNat]; omega

theorem ModAD.fields (m : ModAD) :
    bitsAt m.toNat 44 4 = m.dfmt ∧ bitsAt m.toNat 41 3 = m.rm ∧ bitsAt m.toNat 40 1 = b01 m.sat ∧
    bitsAt m.toNat 39 1 = b01 m.bias ∧ bitsAt m.toNat 37 2 = m.clamp ∧ bitsAt m.toNat 36 1 = b01 m.clr ∧
    bitsAt m.toNat 27 6 = m.mr ∧ bitsAt m.toNat 21 6 = m.nc ∧ bitsAt m.toNat 14 7 = m.rd ∧ bitsAt m.toNat 9 5 = m.cle ∧
    bitsAt m.toNat 4 5 = m.eadr ∧ bitsAt m.toNat 0 4 = m.oc ∧ bitsAt m.toNat 33 3 = 0 := by
  have := m.dfmt.isLt
  have := m.rm.isLt
  have := b01_lt m.sat
  have := b01_lt m.bias
  have := m.clamp.isLt
  have := b01_lt m.clr
  have := m.mr.isLt
  have := m.nc.isLt
  have := m.rd.isLt
  have := m.cle.isLt
  have := m.eadr.isLt
  have := m.oc.isLt
  simp only [ModAD.toNat, bitsAt]
  refine ⟨?_, ?_, ?_, ?_, ?_, ?_, ?_, ?_, ?_, ?_, ?_, ?_, ?_⟩ <;> omega

/-- A word of layout AD decodes to what it encodes (R82, R86). -/
theorem AdWord.decode_encode (u : Uses) (x : AdWord) (opc : Nat) (f : AdWord → Instr) (ho : opc < 256) (h : x.ops.wf u = true) :
    AdWord.decode u (x.encode opc) f = .ok (f x) := by
  obtain ⟨t, o, m⟩ := x
  have p := engine_parts opc m.toNat t o ho m.toNat_lt
  simp only at p
  unfold AdWord.encode AdWord.decode
  simp only at h ⊢
  generalize opc * 2 ^ 88 + t.toNat + o.toNat + m.toNat = w at p ⊢
  obtain ⟨-, -, p1, p2, p3, p4, p5, p6, p7, p8⟩ := p
  have e : ModAD.ofNat w = some m := by
    have q := m.fields
    unfold ModAD.ofNat
    simp [p8, q, b01_beq]
  rw [Ops4.ofNat_parts u o w h p4 p5 p6 p7, e, Tok.ofNat_parts t w p1 p2, p3]
  simp

theorem AdWord.opcode_encode (x : AdWord) (opc : Nat) (ho : opc < 256) : bitsAt (x.encode opc) 88 8 = opc :=
  (engine_parts opc x.mod.toNat x.tok x.ops ho x.mod.toNat_lt).2.1
theorem AdWord.encode_lt (x : AdWord) (opc : Nat) (ho : opc < 256) : x.encode opc < 256 ^ 12 :=
  (engine_parts opc x.mod.toNat x.tok x.ops ho x.mod.toNat_lt).1

theorem ModAS.toNat_lt (m : ModAS) : m.toNat < 2 ^ 48 := by
  have := m.fmt.isLt
  have := m.rm.isLt
  have := b01_lt m.sat
  have := m.mr.isLt
  have := m.nc.isLt
  have := m.ra.isLt
  have := m.rb.isLt
  simp only [ModAS.toNat]; omega

theorem ModAS.fields (m : ModAS) :
    bitsAt m.toNat 44 4 = m.fmt ∧ bitsAt m.toNat 41 3 = m.rm ∧ bitsAt m.toNat 40 1 = b01 m.sat ∧ bitsAt m.toNat 27 6 = m.mr ∧
    bitsAt m.toNat 21 6 = m.nc ∧ bitsAt m.toNat 14 7 = m.ra ∧ bitsAt m.toNat 7 7 = m.rb ∧ bitsAt m.toNat 33 7 = 0 ∧
    bitsAt m.toNat 0 7 = 0 := by
  have := m.fmt.isLt
  have := m.rm.isLt
  have := b01_lt m.sat
  have := m.mr.isLt
  have := m.nc.isLt
  have := m.ra.isLt
  have := m.rb.isLt
  simp only [ModAS.toNat, bitsAt]
  refine ⟨?_, ?_, ?_, ?_, ?_, ?_, ?_, ?_, ?_⟩ <;> omega

/-- A word of layout AS decodes to what it encodes (R82, R86). -/
theorem AsWord.decode_encode (u : Uses) (x : AsWord) (opc : Nat) (f : AsWord → Instr) (ho : opc < 256) (h : x.ops.wf u = true) :
    AsWord.decode u (x.encode opc) f = .ok (f x) := by
  obtain ⟨t, o, m⟩ := x
  have p := engine_parts opc m.toNat t o ho m.toNat_lt
  simp only at p
  unfold AsWord.encode AsWord.decode
  simp only at h ⊢
  generalize opc * 2 ^ 88 + t.toNat + o.toNat + m.toNat = w at p ⊢
  obtain ⟨-, -, p1, p2, p3, p4, p5, p6, p7, p8⟩ := p
  have e : ModAS.ofNat w = some m := by
    have q := m.fields
    unfold ModAS.ofNat
    simp [p8, q, b01_beq]
  rw [Ops4.ofNat_parts u o w h p4 p5 p6 p7, e, Tok.ofNat_parts t w p1 p2, p3]
  simp

theorem AsWord.opcode_encode (x : AsWord) (opc : Nat) (ho : opc < 256) : bitsAt (x.encode opc) 88 8 = opc :=
  (engine_parts opc x.mod.toNat x.tok x.ops ho x.mod.toNat_lt).2.1
theorem AsWord.encode_lt (x : AsWord) (opc : Nat) (ho : opc < 256) : x.encode opc < 256 ^ 12 :=
  (engine_parts opc x.mod.toNat x.tok x.ops ho x.mod.toNat_lt).1

theorem ModVG.toNat_lt (m : ModVG) : m.toNat < 2 ^ 48 := by
  have := m.fmt.isLt
  have := m.dfmt.isLt
  have := m.rm.isLt
  have := b01_lt m.sat
  have := b01_lt m.men
  have := m.msk.isLt
  have := m.mdst.isLt
  have := m.e.isLt
  have := m.nv.isLt
  have := m.row.isLt
  have := m.imm.isLt
  simp only [ModVG.toNat]; omega

theorem ModVG.fields (m : ModVG) :
    bitsAt m.toNat 44 4 = m.fmt ∧ bitsAt m.toNat 40 4 = m.dfmt ∧ bitsAt m.toNat 37 3 = m.rm ∧
    bitsAt m.toNat 36 1 = b01 m.sat ∧ bitsAt m.toNat 35 1 = b01 m.men ∧ bitsAt m.toNat 32 3 = m.msk ∧
    bitsAt m.toNat 29 3 = m.mdst ∧ bitsAt m.toNat 24 5 = m.e ∧ bitsAt m.toNat 17 7 = m.nv ∧ bitsAt m.toNat 10 7 = m.row ∧
    bitsAt m.toNat 0 10 = m.imm := by
  have := m.fmt.isLt
  have := m.dfmt.isLt
  have := m.rm.isLt
  have := b01_lt m.sat
  have := b01_lt m.men
  have := m.msk.isLt
  have := m.mdst.isLt
  have := m.e.isLt
  have := m.nv.isLt
  have := m.row.isLt
  have := m.imm.isLt
  simp only [ModVG.toNat, bitsAt]
  refine ⟨?_, ?_, ?_, ?_, ?_, ?_, ?_, ?_, ?_, ?_, ?_⟩ <;> omega

/-- A word of layout VG decodes to what it encodes (R82, R86). -/
theorem VgWord.decode_encode (u : Uses) (x : VgWord) (opc : Nat) (f : VgWord → Instr) (ho : opc < 256) (h : x.ops.wf u = true) :
    VgWord.decode u (x.encode opc) f = .ok (f x) := by
  obtain ⟨t, o, m⟩ := x
  have p := engine_parts opc m.toNat t o ho m.toNat_lt
  simp only at p
  unfold VgWord.encode VgWord.decode
  simp only at h ⊢
  generalize opc * 2 ^ 88 + t.toNat + o.toNat + m.toNat = w at p ⊢
  obtain ⟨-, -, p1, p2, p3, p4, p5, p6, p7, p8⟩ := p
  have e : ModVG.ofNat w = some m := by
    have q := m.fields
    unfold ModVG.ofNat
    simp [p8, q, b01_beq]
  rw [Ops4.ofNat_parts u o w h p4 p5 p6 p7, e, Tok.ofNat_parts t w p1 p2, p3]
  simp

theorem VgWord.opcode_encode (x : VgWord) (opc : Nat) (ho : opc < 256) : bitsAt (x.encode opc) 88 8 = opc :=
  (engine_parts opc x.mod.toNat x.tok x.ops ho x.mod.toNat_lt).2.1
theorem VgWord.encode_lt (x : VgWord) (opc : Nat) (ho : opc < 256) : x.encode opc < 256 ^ 12 :=
  (engine_parts opc x.mod.toNat x.tok x.ops ho x.mod.toNat_lt).1

theorem ModCG.toNat_lt (m : ModCG) : m.toNat < 2 ^ 48 := by
  have := m.fmt.isLt
  have := m.dfmt.isLt
  have := m.oc.isLt
  have := m.ea.isLt
  have := m.eb.isLt
  have := m.ec.isLt
  have := m.nr.isLt
  have := m.row.isLt
  have := b01_lt m.zp
  have := b01_lt m.evf
  have := m.cx.isLt
  simp only [ModCG.toNat]; omega

theorem ModCG.fields (m : ModCG) :
    bitsAt m.toNat 44 4 = m.fmt ∧ bitsAt m.toNat 40 4 = m.dfmt ∧ bitsAt m.toNat 36 4 = m.oc ∧ bitsAt m.toNat 31 5 = m.ea ∧
    bitsAt m.toNat 26 5 = m.eb ∧ bitsAt m.toNat 21 5 = m.ec ∧ bitsAt m.toNat 14 7 = m.nr ∧ bitsAt m.toNat 7 7 = m.row ∧
    bitsAt m.toNat 6 1 = b01 m.zp ∧ bitsAt m.toNat 5 1 = b01 m.evf ∧ bitsAt m.toNat 0 5 = m.cx := by
  have := m.fmt.isLt
  have := m.dfmt.isLt
  have := m.oc.isLt
  have := m.ea.isLt
  have := m.eb.isLt
  have := m.ec.isLt
  have := m.nr.isLt
  have := m.row.isLt
  have := b01_lt m.zp
  have := b01_lt m.evf
  have := m.cx.isLt
  simp only [ModCG.toNat, bitsAt]
  refine ⟨?_, ?_, ?_, ?_, ?_, ?_, ?_, ?_, ?_, ?_, ?_⟩ <;> omega

/-- A word of layout CG decodes to what it encodes (R82, R86). -/
theorem CgWord.decode_encode (u : Uses) (x : CgWord) (opc : Nat) (f : CgWord → Instr) (ho : opc < 256) (h : x.ops.wf u = true) :
    CgWord.decode u (x.encode opc) f = .ok (f x) := by
  obtain ⟨t, o, m⟩ := x
  have p := engine_parts opc m.toNat t o ho m.toNat_lt
  simp only at p
  unfold CgWord.encode CgWord.decode
  simp only at h ⊢
  generalize opc * 2 ^ 88 + t.toNat + o.toNat + m.toNat = w at p ⊢
  obtain ⟨-, -, p1, p2, p3, p4, p5, p6, p7, p8⟩ := p
  have e : ModCG.ofNat w = some m := by
    have q := m.fields
    unfold ModCG.ofNat
    simp [p8, q, b01_beq]
  rw [Ops4.ofNat_parts u o w h p4 p5 p6 p7, e, Tok.ofNat_parts t w p1 p2, p3]
  simp

theorem CgWord.opcode_encode (x : CgWord) (opc : Nat) (ho : opc < 256) : bitsAt (x.encode opc) 88 8 = opc :=
  (engine_parts opc x.mod.toNat x.tok x.ops ho x.mod.toNat_lt).2.1
theorem CgWord.encode_lt (x : CgWord) (opc : Nat) (ho : opc < 256) : x.encode opc < 256 ^ 12 :=
  (engine_parts opc x.mod.toNat x.tok x.ops ho x.mod.toNat_lt).1

theorem decodeTableWord_96 (w : Nat) (i : Instr) (hw : w < 256 ^ 12) (hc : decodeEngine (ownerOf (bitsAt w 88 8)) w = .ok i) :
    decodeTableWord 96 w = some i := by
  have h : ¬ (96 ≤ 32) := by decide
  have hb : decodeEngineBytes (ownerOf (bitsAt w 88 8)) (leBytes 12 w) = .ok i := by
    simp only [decodeEngineBytes, leBytes_length, leNat_leBytes 12 w hw, hc, if_true]
  simp only [decodeTableWord, hb, h, if_false]

theorem decodeEngine_common (e : Engine) (w opc : Nat) (h : bitsAt w 88 8 = opc) (ho : opc < 4) :
    decodeEngine e w = decodeCommon opc w := by
  unfold decodeEngine
  rw [h]
  exact if_pos ho

/-- A common word (R99) decodes by its opcode and its bits below its operands. -/
theorem decodeTableWord_common (opc m : Nat) (t : Tok) (ho : opc < 4) (hm : m < 2 ^ 48) (i : Instr)
    (hd : ∀ w, Tok.ofNat w = t → bitsAt w 48 34 = 0 → (∀ lo len, lo + len ≤ 48 → bitsAt w lo len = bitsAt m lo len) →
      decodeCommon opc w = .ok i) : decodeTableWord 96 (opc * 2 ^ 88 + t.toNat + m) = some i := by
  have p := engine_parts opc m t ⟨.zero, .zero, .zero, .zero⟩ (by omega) hm
  have z : Ops4.toNat ⟨.zero, .zero, .zero, .zero⟩ = 0 := rfl
  have y : bitsAt (opc * 2 ^ 88 + t.toNat + m) 48 34 = 0 := by
    have h1 := t.wt.isLt; have h2 := t.pt.isLt; simp only [bitsAt, Tok.toNat]; omega
  simp only at p
  rw [z, Nat.add_zero] at p
  have d := hd _ (Tok.ofNat_parts t _ p.2.2.1 p.2.2.2.1) y p.2.2.2.2.2.2.2.2.2
  exact decodeTableWord_96 _ i p.1 ((decodeEngine_common _ _ opc p.2.1 ho).trans d)

theorem optOpcode_some {α : Type} (x : α) (f : α → Except DecodeFault Instr) : optOpcode (some x) f = f x := rfl

/-- A word of an engine decodes by the row of its opcode (R88). -/
theorem decodeTableWord_array (w opc : Nat) (l : Row) (i : Instr) (hw : w < 256 ^ 12) (ho : bitsAt w 88 8 = opc) (h1 : 4 ≤ opc)
    (h2 : opc < 0x40) (hr : arrayRow opc = some l) (hd : l.decode w = .ok i) : decodeTableWord 96 w = some i := by
  have he : ownerOf opc = .a := if_pos h2
  refine decodeTableWord_96 w i hw ?_
  unfold decodeEngine
  rw [ho, he]
  refine (if_neg (Nat.not_lt.mpr h1)).trans ?_
  unfold decodeArray
  rw [hr, optOpcode_some, hd]

theorem decodeTableWord_vector (w opc : Nat) (l : Row) (i : Instr) (hw : w < 256 ^ 12) (ho : bitsAt w 88 8 = opc) (h1 : 0x40 ≤ opc)
    (h2 : opc < 0xB0) (hr : vectorRow opc = some l) (hd : l.decode w = .ok i) : decodeTableWord 96 w = some i := by
  have he : ownerOf opc = .v := (if_neg (by omega)).trans (if_pos h2)
  refine decodeTableWord_96 w i hw ?_
  unfold decodeEngine
  rw [ho, he]
  refine (if_neg (by omega)).trans ?_
  unfold decodeVector
  rw [hr, optOpcode_some, hd]

theorem decodeTableWord_copy (w opc : Nat) (l : Row) (i : Instr) (hw : w < 256 ^ 12) (ho : bitsAt w 88 8 = opc) (h1 : 0xB0 ≤ opc)
    (hr : copyRow opc (bitsAt w 40 2) (bitsAt w 0 2) (bitsAt w 0 1) = some l) (hd : l.decode w = .ok i) :
    decodeTableWord 96 w = some i := by
  have he : ownerOf opc = .c := (if_neg (by omega)).trans (if_neg (by omega))
  refine decodeTableWord_96 w i hw ?_
  unfold decodeEngine
  rw [ho, he]
  refine (if_neg (by omega)).trans ?_
  unfold decodeCopy
  rw [hr, optOpcode_some, hd]

theorem Row.decode_am (u : Uses) (f : AmWord → Instr) (w : Nat) : (Row.am u f).decode w = AmWord.decode u w f := rfl
theorem Row.decode_at (u : Uses) (f : AtWord → Instr) (w : Nat) : (Row.at u f).decode w = AtWord.decode u w f := rfl
theorem Row.decode_ar (u : Uses) (f : ArWord → Instr) (w : Nat) : (Row.ar u f).decode w = ArWord.decode u w f := rfl
theorem Row.decode_ad (u : Uses) (f : AdWord → Instr) (w : Nat) : (Row.ad u f).decode w = AdWord.decode u w f := rfl
theorem Row.decode_as (u : Uses) (f : AsWord → Instr) (w : Nat) : (Row.as u f).decode w = AsWord.decode u w f := rfl
theorem Row.decode_vg (u : Uses) (f : VgWord → Instr) (w : Nat) : (Row.vg u f).decode w = VgWord.decode u w f := rfl
theorem Row.decode_cg (u : Uses) (f : CgWord → Instr) (w : Nat) : (Row.cg u f).decode w = CgWord.decode u w f := rfl

/-- The bits of the layout word of a copy word. -/
theorem CgWord.mod_bits (x : CgWord) (opc lo len : Nat) (ho : opc < 256) (h : lo + len ≤ 48) :
    bitsAt (x.encode opc) lo len = bitsAt x.mod.toNat lo len :=
  (engine_parts opc x.mod.toNat x.tok x.ops ho x.mod.toNat_lt).2.2.2.2.2.2.2.2.2 lo len h
theorem ModCG.form_bits (m : ModCG) :
    bitsAt m.toNat 40 2 = m.dfmt.val % 4 ∧ bitsAt m.toNat 0 2 = m.cx.val % 4 ∧ bitsAt m.toNat 0 1 = m.cx.val % 2 := by
  have := m.fmt.isLt; have := m.dfmt.isLt; have := m.oc.isLt; have := m.ea.isLt; have := m.eb.isLt; have := m.ec.isLt
  have := m.nr.isLt; have := m.row.isLt; have := b01_lt m.zp; have := b01_lt m.evf; have := m.cx.isLt
  simp only [ModCG.toNat, bitsAt]
  refine ⟨?_, ?_, ?_⟩ <;> omega

end Sys2Proof
end

