-- ==== Sys2Proof/Laws/Tiles.lean ====
section
/-! SUPPORT. Tile rows and accumulators bit by bit: what writing elements, lanes and cells leaves and changes (R63, R69, R222). -/

set_option Elab.async false

namespace Sys2Proof.Machine

open Sys2Proof.Safety

/-! ### Rows -/

theorem leNum_lt (l : List Byte) : leNum l < 256 ^ l.length := by
  induction l with
  | nil => simp [leNum]
  | cons b t ih =>
    simp only [leNum, List.length_cons, Nat.pow_succ]
    have := b.isLt
    omega

theorem leNum_leBytesOf_testBit (n v b : Nat) (h : b < 8 * n) : (leNum (leBytesOf n v)).testBit b = v.testBit b := by
  rw [leNum_leBytesOf, show (256 : Nat) = 2 ^ 8 from rfl, ← Nat.pow_mul, Nat.testBit_mod_two_pow]
  simp [h]

/-- A row that has been written, bit by bit. -/
theorem setRowBits_self (c : Core) (t row v b : Nat) (hb : b < 1024) : ((c.setRowBits t row v).rowBits t row).testBit b = v.testBit b := by
  unfold Core.setRowBits Core.rowBits Core.setTileBytes Core.tileBytes
  have h := sgetRun_ssetRun (0 : Byte) c.tiles (tileKey t row 0) (leBytesOf 128 v)
  rw [leBytesOf_length] at h
  simp only [h]
  exact leNum_leBytesOf_testBit 128 v b hb

theorem setRowBits_ne (c : Core) (t row v t' row' : Nat) (h : (t', row') ≠ (t, row)) (hr : row < 128) (hr' : row' < 128) :
    (c.setRowBits t row v).rowBits t' row' = c.rowBits t' row' := by
  unfold Core.setRowBits Core.rowBits Core.setTileBytes Core.tileBytes
  congr 1
  refine sgetRun_congr _ _ _ _ _ fun i hi => ?_
  have hk : tileKey t' row' 0 + i < tileKey t row 0 ∨ tileKey t row 0 + 128 ≤ tileKey t' row' 0 + i := by
    unfold tileKey
    by_cases ht : t' = t
    · subst ht
      have : row' ≠ row := fun e => h (by rw [e])
      omega
    · omega
  exact sget_ssetRun_ne _ _ _ _ _ (by rw [leBytesOf_length]; exact hk)

theorem setRowBits_core (c : Core) (t row v : Nat) : c.setRowBits t row v = { c with tiles := (c.setRowBits t row v).tiles } := by
  unfold Core.setRowBits Core.setTileBytes; rfl

/-! ### Elements of a number -/

/-- One element takes a new value. -/
theorem putElem_testBit (w v i x b : Nat) (hw : 0 < w) :
    (v - elemOf v w i * 2 ^ (i * w) + x % 2 ^ w * 2 ^ (i * w)).testBit b =
      if b / w = i then x.testBit (b % w) else v.testBit b := by
  unfold elemOf bitsNat
  -- the number splits in three
  have hs : v = 2 ^ (i * w) * (2 ^ w * (v / 2 ^ (i * w) / 2 ^ w) + v / 2 ^ (i * w) % 2 ^ w) + v % 2 ^ (i * w) := by
    rw [Nat.div_add_mod, Nat.div_add_mod]
  generalize v / 2 ^ (i * w) / 2 ^ w = hi at hs
  have he : v / 2 ^ (i * w) % 2 ^ w < 2 ^ w := Nat.mod_lt _ (Nat.two_pow_pos _)
  generalize v / 2 ^ (i * w) % 2 ^ w = e at hs he ⊢
  have hlo : v % 2 ^ (i * w) < 2 ^ (i * w) := Nat.mod_lt _ (Nat.two_pow_pos _)
  generalize v % 2 ^ (i * w) = lo at hs hlo
  have hx : x % 2 ^ w < 2 ^ w := Nat.mod_lt _ (Nat.two_pow_pos _)
  have hn : v - e * 2 ^ (i * w) + x % 2 ^ w * 2 ^ (i * w) = 2 ^ (i * w) * (2 ^ w * hi + x % 2 ^ w) + lo := by
    rw [hs, Nat.mul_add, Nat.mul_add, Nat.mul_comm (2 ^ (i * w)) e, Nat.mul_comm (2 ^ (i * w)) (x % 2 ^ w)]
    omega
  rw [hn]
  have hdm : b = w * (b / w) + b % w := (Nat.div_add_mod b w).symm
  have hmod : b % w < w := Nat.mod_lt _ hw
  rw [Nat.testBit_two_pow_mul_add _ hlo]
  by_cases h1 : b < i * w
  · have : b / w < i := (Nat.div_lt_iff_lt_mul hw).mpr h1
    rw [if_pos h1, if_neg (by omega), hs, Nat.testBit_two_pow_mul_add _ hlo, if_pos h1]
  · rw [if_neg h1]
    have hge : i ≤ b / w := (Nat.le_div_iff_mul_le hw).mpr (by omega)
    rw [Nat.testBit_two_pow_mul_add _ hx]
    by_cases h2 : b / w = i
    · have hb : b - i * w = b % w := by rw [← h2, Nat.mul_comm]; omega
      rw [if_pos h2, hb, if_pos hmod, Nat.testBit_mod_two_pow]
      simp [hmod]
    · have hgt : i + 1 ≤ b / w := by omega
      have h3 : (i + 1) * w ≤ b := (Nat.le_div_iff_mul_le hw).mp hgt
      have h4 : i * w + w ≤ b := by rw [Nat.add_mul, Nat.one_mul] at h3; exact h3
      rw [if_neg (by omega), if_neg h2]
      conv_rhs => rw [hs, Nat.testBit_two_pow_mul_add _ hlo, if_neg h1, Nat.testBit_two_pow_mul_add _ he, if_neg (by omega)]

/-- Elements of distinct indices take new values. -/
theorem putElems_testBit (w row : Nat) (l : List (Nat × Nat)) (b : Nat) (hw : 0 < w) (hn : (l.map (·.1)).Nodup) :
    (putElems w row l).testBit b =
      match l.find? (·.1 == b / w) with
      | some p => p.2.testBit (b % w)
      | none => row.testBit b := by
  unfold putElems
  induction l generalizing row with
  | nil => rfl
  | cons p t ih =>
    obtain ⟨i, x⟩ := p
    rw [List.map_cons, List.nodup_cons] at hn
    rw [List.foldl_cons, ih _ hn.2, List.find?_cons]
    by_cases h : i = b / w
    · have hf : t.find? (·.1 == b / w) = none := by
        rw [List.find?_eq_none]
        intro q hq hqe
        exact hn.1 (List.mem_map.mpr ⟨q, hq, by rw [h]; simpa using hqe⟩)
      have hi : ((i, x).1 == b / w) = true := by simp [h]
      rw [hf, hi]
      simp only
      rw [putElem_testBit w row i x b hw, if_pos h.symm]
    · have hi : ((i, x).1 == b / w) = false := by simp [h]
      rw [hi]
      cases hf : t.find? (·.1 == b / w) with
      | some q => rfl
      | none =>
        simp only
        rw [putElem_testBit w row i x b hw, if_neg (fun e => h e.symm)]

/-! ### Elements of a tile -/

/-- What a list of elements of one row writes. -/
def rowWrite (row : Nat) (l : List (Nat × Nat)) (r j : Nat) : Option Nat :=
  if r = row then (l.find? (·.1 == j)).map (·.2) else none

theorem elementsBecome_none (c : Core) (o : TileOp) (w : Nat) : ElementsBecome c c o w fun _ _ => none := by
  refine ⟨rfl, fun t row b _ _ => ?_⟩
  split
  · rename_i h; split at h <;> cases h
  · rfl

theorem elementsBecome_congr {c d : Core} {o : TileOp} {w : Nat} {f g : Nat → Nat → Option Nat}
    (h : ∀ r j, o.tile.isSome = true → r ≤ o.sh.rows → j * w < (o.sh.cols + 1) * o.sh.fmt.width → f r j = g r j) (hf : ElementsBecome c d o w f) :
    ElementsBecome c d o w g := by
  refine ⟨hf.1, fun t row b h1 h2 => ?_⟩
  rw [hf.2 t row b h1 h2]
  by_cases hc : o.tile = some t ∧ row ≤ o.sh.rows ∧ b < (o.sh.cols + 1) * o.sh.fmt.width
  · rw [if_pos hc, if_pos hc, h row (b / w) (by rw [hc.1]; rfl) hc.2.1 (Nat.lt_of_le_of_lt (Nat.div_mul_le_self b w) hc.2.2)]
  · rw [if_neg hc, if_neg hc]

/-- Two writes in turn: the later one wins where both write. -/
theorem elementsBecome_trans {c d e : Core} {o : TileOp} {w : Nat} {f g : Nat → Nat → Option Nat} (h1 : ElementsBecome c d o w f)
    (h2 : ElementsBecome d e o w g) : ElementsBecome c e o w fun r j => (g r j).or (f r j) := by
  refine ⟨?_, fun t row b hr hb => ?_⟩
  · have := h2.1; rw [h1.1] at this; exact this
  · rw [h2.2 t row b hr hb, h1.2 t row b hr hb]
    by_cases hc : o.tile = some t ∧ row ≤ o.sh.rows ∧ b < (o.sh.cols + 1) * o.sh.fmt.width
    · simp only [if_pos hc]
      cases g row (b / w) <;> simp
    · simp only [if_neg hc]

/-- A row whose number is given anew. -/
theorem setRow_become {c : Core} {o : TileOp} {t : Fin 48} {row v w : Nat} {f : Nat → Option Nat} (ht : o.tile = some t) (hr : row ≤ o.sh.rows)
    (h127 : o.sh.rows ≤ 127)
    (hv : ∀ b, b < 1024 → v.testBit b =
      match (if b < (o.sh.cols + 1) * o.sh.fmt.width then f (b / w) else none) with
      | some x => x.testBit (b % w)
      | none => (c.rowBits t.val row).testBit b) :
    ElementsBecome c (c.setRowBits t.val row v) o w fun r j => if r = row then f j else none := by
  refine ⟨setRowBits_core .., fun t' row' b h1 h2 => ?_⟩
  by_cases he : (t', row') = (t, row)
  · cases he
    rw [setRowBits_self _ _ _ _ _ h2, hv b h2]
    by_cases hb : b < (o.sh.cols + 1) * o.sh.fmt.width
    · rw [if_pos hb, if_pos ⟨ht, hr, hb⟩]; simp only [if_true] <;> cases f (b / w) <;> rfl
    · rw [if_neg hb, if_neg (fun h => hb h.2.2)]
  · rw [setRowBits_ne _ _ _ _ _ _ (fun h => he (Prod.ext (Fin.ext (Prod.ext_iff.mp h).1) (Prod.ext_iff.mp h).2)) (by omega) h1]
    have : (if o.tile = some t' ∧ row' ≤ o.sh.rows ∧ b < (o.sh.cols + 1) * o.sh.fmt.width then (if row' = row then f (b / w) else none) else none) = none := by
      by_cases hr' : row' = row
      · subst hr'
        have : t' ≠ t := fun e => he (by rw [e])
        rw [if_neg]
        rintro ⟨h, -⟩
        rw [ht] at h
        exact this (Option.some.inj h).symm
      · rw [if_neg hr']; split <;> rfl
    rw [this]

/-- Lanes of one row are written inside the extent (R69, R246). -/
theorem writeLanes_become (c : Core) (o : TileOp) (row w : Nat) (l : List (Nat × Nat)) (hw : 0 < w) (h127 : o.sh.rows ≤ 127)
    (hn : (l.map (·.1)).Nodup) : ElementsBecome c (c.writeLanes o row w l) o w (rowWrite row l) := by
  unfold Core.writeLanes
  split
  · rename_i h
    exact elementsBecome_congr (fun r j h' => by rw [h] at h'; cases h') (elementsBecome_none c o w)
  · rename_i t ht
    split
    · rename_i hr
      refine elementsBecome_congr (fun r j _ h' _ => ?_) (elementsBecome_none c o w)
      rw [rowWrite, if_neg (by omega)]
    · rename_i hr
      refine setRow_become ht (by omega) h127 fun b hb => ?_
      have hl : putElems w (c.rowBits t.val row) l % 2 ^ ((o.sh.cols + 1) * o.sh.fmt.width) < 2 ^ ((o.sh.cols + 1) * o.sh.fmt.width) :=
        Nat.mod_lt _ (Nat.two_pow_pos _)
      rw [Nat.add_comm, Nat.mul_comm, Nat.testBit_two_pow_mul_add _ hl, Nat.testBit_mod_two_pow, Nat.testBit_div_two_pow,
        putElems_testBit _ _ _ _ hw hn]
      by_cases h : b < (o.sh.cols + 1) * o.sh.fmt.width
      · rw [if_pos h, if_pos h]
        cases l.find? (·.1 == b / w) <;> simp [h]
      · rw [if_neg h, if_neg h]
        congr 1
        omega

/-- Elements of one row are written; those outside the extent are discarded (R69). -/
theorem writeElems_become (c : Core) (o : TileOp) (row : Nat) (l : List (Nat × Nat)) (hw : 0 < o.sh.fmt.width) (h127 : o.sh.rows ≤ 127)
    (hn : (l.map (·.1)).Nodup) : ElementsBecome c (c.writeElems o row l) o o.sh.fmt.width (rowWrite row l) := by
  unfold Core.writeElems
  split
  · rename_i h
    exact elementsBecome_congr (fun r j h' => by rw [h] at h'; cases h') (elementsBecome_none c o _)
  · rename_i t ht
    split
    · rename_i hr
      refine elementsBecome_congr (fun r j _ h' _ => ?_) (elementsBecome_none c o _)
      rw [rowWrite, if_neg (by omega)]
    · rename_i hr
      refine setRow_become ht (by omega) h127 fun b hb => ?_
      rw [putElems_testBit _ _ _ _ hw ((List.filter_sublist.map _).nodup hn)]
      by_cases h : b < (o.sh.cols + 1) * o.sh.fmt.width
      · have hj : b / o.sh.fmt.width ≤ o.sh.cols := Nat.lt_succ_iff.mp ((Nat.div_lt_iff_lt_mul hw).mpr h)
        rw [if_pos h]
        have : (l.filter fun p => decide (p.1 ≤ o.sh.cols)).find? (·.1 == b / o.sh.fmt.width) = l.find? (·.1 == b / o.sh.fmt.width) := by
          rw [List.find?_filter]
          congr 1
          funext p
          by_cases hp : p.1 = b / o.sh.fmt.width
          · simp [hp, hj]
          · simp [hp]
        rw [this]
        cases l.find? (·.1 == b / o.sh.fmt.width) <;> rfl
      · have hj : ¬ b / o.sh.fmt.width ≤ o.sh.cols := fun hle =>
          h ((Nat.div_lt_iff_lt_mul hw).mp (Nat.lt_succ_iff.mpr hle))
        rw [if_neg h]
        have : (l.filter fun p => decide (p.1 ≤ o.sh.cols)).find? (·.1 == b / o.sh.fmt.width) = none := by
          rw [List.find?_eq_none]
          intro p hp he
          have h1 := (List.mem_filter.mp hp).2
          simp only [decide_eq_true_eq] at h1
          simp only [beq_iff_eq] at he
          omega
        rw [this]

end Sys2Proof.Machine
end

