-- ==== Sys2Proof/Laws/Lanes.lean ====
section
/-! SUPPORT. Lane-wise vector words: what one vector leaves and changes, and vectors in turn (R246 to R250); blocks of accumulator
cells (R222). -/

set_option Elab.async false

namespace Sys2Proof.Machine

open Sys2Proof.Safety

theorem fmt_width_pos (f : Fmt) : 0 < f.width := by cases f <;> decide

theorem vctx_lw_pos (v : VCtx) (o : TileOp) : 0 < v.lw o := by
  unfold VCtx.lw
  have := fmt_width_pos o.sh.fmt
  split <;> omega

/-- The shape of a tile has at most 128 rows (R67). -/
theorem shapeOf_rows {v : W32} {sh : TShape} (h : shapeOf v = some sh) : sh.rows ≤ 127 := by
  unfold shapeOf at h
  dsimp only at h
  split at h
  · cases h
  · split at h
    · cases h
    · cases h; dsimp only; omega

theorem tileOp_rows {i : Issue} {fl : Nat} {p : Opnd} {dirs : List Dir} {fmts : List Fmt} {f : Fmt} {o : TileOp}
    (h : i.tileOp fl p dirs fmts f = some o) : o.sh.rows ≤ 127 := by
  unfold Issue.tileOp at h
  split at h
  · cases h
  · split at h
    · cases h
    · split at h
      · cases h
      · cases h; exact Nat.le_refl _
      · split at h
        · rename_i sh hs
          split at h
          · cases h; exact shapeOf_rows hs
          · cases h
        · cases h

theorem vctx_pos_inj (v : VCtx) (o : TileOp) (n : Nat) {i j : Nat} (h : v.pos o n i = v.pos o n j) : i = j := by
  unfold VCtx.pos at h
  generalize o.dir = dir at h
  cases dir <;> simp only [Prod.mk.injEq] at h <;> omega

/-- Lanes of one vector are written (R246). -/
theorem vctx_write_become (v : VCtx) (c : Core) (o : TileOp) (n : Nat) (l : List (Nat × Nat)) (h127 : o.sh.rows ≤ 127)
    (hn : (l.map (·.1)).Nodup) :
    ∃ written : Nat → Nat → Option Nat, ElementsBecome c (v.write c o n l) o (v.lw o) written ∧
      (∀ p ∈ l, written (v.pos o n p.1).1 (v.pos o n p.1).2 = some p.2) ∧
      (∀ row j u, written row j = some u → ∃ p ∈ l, v.pos o n p.1 = (row, j)) := by
  have hw := vctx_lw_pos v o
  have fold : ∀ (l : List (Nat × Nat)) (c : Core), (l.map (·.1)).Nodup → ∃ written : Nat → Nat → Option Nat,
      ElementsBecome c (l.foldl (fun x p => let q := v.pos o n p.1; x.writeLanes o q.1 (v.lw o) [(q.2, p.2)]) c) o (v.lw o) written ∧
      (∀ p ∈ l, written (v.pos o n p.1).1 (v.pos o n p.1).2 = some p.2) ∧
      (∀ row j u, written row j = some u → ∃ p ∈ l, v.pos o n p.1 = (row, j)) := by
    intro l
    induction l with
    | nil => intro c _; exact ⟨fun _ _ => none, elementsBecome_none _ _ _, by simp, by simp⟩
    | cons p t ih =>
      intro c hn
      rw [List.map_cons, List.nodup_cons] at hn
      rw [List.foldl_cons]
      have h1 := writeLanes_become c o (v.pos o n p.1).1 (v.lw o) [((v.pos o n p.1).2, p.2)] hw h127 (by simp)
      obtain ⟨g, h2, h3, h4⟩ := ih (c.writeLanes o (v.pos o n p.1).1 (v.lw o) [((v.pos o n p.1).2, p.2)]) hn.2
      refine ⟨_, elementsBecome_trans h1 h2, fun q hq => ?_, fun row j u hu => ?_⟩
      · rcases List.mem_cons.mp hq with rfl | hq
        · have hg : g (v.pos o n q.1).1 (v.pos o n q.1).2 = none := by
            cases hc : g (v.pos o n q.1).1 (v.pos o n q.1).2 with
            | none => rfl
            | some u =>
              obtain ⟨r, hr, he⟩ := h4 _ _ _ hc
              have := vctx_pos_inj v o n (i := r.1) (j := q.1) he
              exact absurd (List.mem_map.mpr ⟨r, hr, this⟩) hn.1
          simp [hg, rowWrite]
        · rw [h3 q hq]; rfl
      · cases hc : g row j with
        | some u' => obtain ⟨r, hr, he⟩ := h4 _ _ _ hc; exact ⟨r, List.mem_cons_of_mem _ hr, he⟩
        | none =>
          rw [hc] at hu
          simp only [Option.none_or, rowWrite] at hu
          split at hu
          · rename_i hrow
            refine ⟨p, List.mem_cons_self, ?_⟩
            simp only [List.find?_cons, List.find?_nil] at hu
            by_cases hj : (v.pos o n p.1).2 = j
            · exact Prod.ext hrow.symm hj
            · have : ((v.pos o n p.1).2 == j) = false := by simp [hj]
              rw [this] at hu; cases hu
          · cases hu
  unfold VCtx.write
  dsimp only
  split
  · rename_i hd
    refine ⟨_, writeLanes_become c o (v.row0 + n) (v.lw o) l hw h127 hn, fun p hp => ?_, fun row j u hu => ?_⟩
    · have hpos : v.pos o n p.1 = (v.row0 + n, p.1) := by unfold VCtx.pos; rw [hd]
      rw [hpos]
      simp only [rowWrite, if_true]
      have : l.find? (·.1 == p.1) = some p := by
        clear fold
        induction l with
        | nil => cases hp
        | cons a t ih =>
          rw [List.map_cons, List.nodup_cons] at hn
          rw [List.find?_cons]
          rcases List.mem_cons.mp hp with rfl | hp
          · simp
          · have : (a.1 == p.1) = false := by
              simp only [beq_eq_false_iff_ne, ne_eq]
              intro e
              exact hn.1 (List.mem_map.mpr ⟨p, hp, e.symm⟩)
            rw [this]; exact ih hn.2 hp
      rw [this]; rfl
    · unfold rowWrite at hu
      split at hu
      · rename_i hr
        cases hf : l.find? (·.1 == j) with
        | none => rw [hf] at hu; cases hu
        | some p =>
          refine ⟨p, List.mem_of_find?_eq_some hf, ?_⟩
          have hj := List.find?_some hf
          simp only [beq_iff_eq] at hj
          unfold VCtx.pos; rw [hd, hr]; simp [hj]
      · cases hu
  · exact fold l c hn

/-- Flags or-ed over a list. -/
theorem foldl_or_bit {α : Type} (l : List α) (g : α → Fl) (x : Fl) (b : Nat) :
    (l.foldl (fun f r => f ||| g r) x).getLsbD b = true ↔ x.getLsbD b = true ∨ ∃ r ∈ l, (g r).getLsbD b = true := by
  induction l generalizing x with
  | nil => simp
  | cons a t ih =>
    rw [List.foldl_cons, ih]
    simp only [BitVec.getLsbD_or, Bool.or_eq_true, List.mem_cons, exists_eq_or_imp, or_assoc]

/-- Steps in turn. -/
theorem chain_foldl {α : Type} {step : Nat → α → α → Prop} (f : α → Nat → α) (h : ∀ n x, step n x (f x n)) (n : Nat) (x : α) :
    Chain step n x ((List.range n).foldl f x) := by
  induction n with
  | zero => rfl
  | succ n ih =>
    rw [List.range_succ, List.foldl_append]
    exact ⟨_, ih, h n _⟩

/-- A lane-wise word does its vectors in turn (R248, R250). -/
theorem vlanes_chain (i : Issue) (m : ModVG) (v : VCtx) (o : TileOp) (srcs : List TileOp) (every : Bool)
    (f : Nat → Nat → List (List Nat) → Nat × Fl) (h127 : o.sh.rows ≤ 127) :
    Chain (VectorStep v o srcs (fun q => every || laneOn i.c m (v.maskBit o q)) f) (v.nv + 1) (i.c, 0) (vlanes i m v o srcs every f) := by
  unfold vlanes
  refine chain_foldl _ (fun n x => ?_) (v.nv + 1) (i.c, 0)
  dsimp only
  generalize hvs : (srcs.map fun a => v.read x.1 a n) = vs
  let on := (List.range v.lanes).filter fun q => (every || laneOn i.c m (v.maskBit o q)) && v.inside o n q
  have hon : ∀ q, q ∈ on ↔ q < v.lanes ∧ (every || laneOn i.c m (v.maskBit o q)) = true ∧ v.inside o n q = true := by
    intro q; simp only [on, List.mem_filter, List.mem_range, Bool.and_eq_true]
  have hnd : ((((on.map fun q => (q, f n q vs)).map fun r => (r.1, r.2.1)).map (·.1)) : List Nat).Nodup := by
    have : (((on.map fun q => (q, f n q vs)).map fun r => (r.1, r.2.1)).map (·.1)) = on := by
      simp only [List.map_map]
      conv_rhs => rw [← List.map_id on]
      rfl
    rw [this]
    exact List.filter_sublist.nodup List.nodup_range
  obtain ⟨written, h1, h2, h3⟩ := vctx_write_become v x.1 o n ((on.map fun q => (q, f n q vs)).map fun r => (r.1, r.2.1)) h127 hnd
  unfold VectorStep
  rw [hvs]
  refine ⟨⟨written, h1, fun q hq => ?_, fun row j u hu => ?_⟩, fun b => ?_⟩
  · exact h2 (q, (f n q vs).1) (List.mem_map.mpr ⟨(q, f n q vs), List.mem_map.mpr ⟨q, (hon q).mpr hq, rfl⟩, rfl⟩)
  · obtain ⟨p, hp, he⟩ := h3 row j u hu
    simp only [List.mem_map] at hp
    obtain ⟨_, ⟨q, hq, rfl⟩, rfl⟩ := hp
    exact ⟨q, (hon q).mp hq, he⟩
  · rw [foldl_or_bit]
    simp only [List.mem_map]
    constructor
    · rintro (h | ⟨_, ⟨q, hq, rfl⟩, h⟩)
      · exact .inl h
      · exact .inr ⟨q, (hon q).mp hq, h⟩
    · rintro (h | ⟨q, hq, h⟩)
      · exact .inl h
      · exact .inr ⟨_, ⟨q, (hon q).mpr hq, rfl⟩, h⟩

/-! ### Accumulator cells -/

theorem setCell_cell (c : Core) (a b : Fin 4) (r j r' j' : Nat) (v : W32) (hr : r < 64) (hj : j < 64) (hr' : r' < 64) (hj' : j' < 64) :
    (c.setCell a r j v).cell b r' j' = if b = a ∧ r' = r ∧ j' = j then v else c.cell b r' j' := by
  unfold Core.setCell Core.cell
  simp only
  rw [sget_sset]
  have : accKey b r' j' = accKey a r j ↔ b = a ∧ r' = r ∧ j' = j := by
    unfold accKey
    constructor
    · intro h
      have hb : b.val = a.val := by omega
      exact ⟨Fin.ext hb, by omega, by omega⟩
    · rintro ⟨rfl, rfl, rfl⟩; rfl
  by_cases h : b = a ∧ r' = r ∧ j' = j
  · rw [if_pos h, if_pos (this.mpr h)]
  · rw [if_neg h, if_neg (fun e => h (this.mp e))]

/-- A block of cells takes new values (R222). -/
theorem mapCells_become (c : Core) (a : Fin 4) (n m : Nat) (f : Nat → Nat → W32 × Fl) (hn : n ≤ 64) (hm : m ≤ 64) :
    CellsBecome c (c.mapCells a n m f).1 a n m (fun r j => (f r j).1) ∧ FlagsOf (c.mapCells a n m f).2 n m (fun r j => (f r j).2) := by
  have row : ∀ (i : Nat), i < 64 → ∀ (m : Nat), m ≤ 64 → ∀ x : Core × Fl,
      let y := (List.range m).foldl (fun (y : Core × Fl) j => (y.1.setCell a i j (f i j).1, y.2 ||| (f i j).2)) x
      y.1 = { x.1 with acc := y.1.acc } ∧
      (∀ b r j, r < 64 → j < 64 → y.1.cell b r j = if b = a ∧ r = i ∧ j < m then (f r j).1 else x.1.cell b r j) ∧
      (∀ b, y.2.getLsbD b = true ↔ x.2.getLsbD b = true ∨ ∃ j, j < m ∧ (f i j).2.getLsbD b = true) := by
    intro i hi m
    induction m with
    | zero => intro _ x; exact ⟨rfl, fun b r j _ _ => by simp, fun b => by simp⟩
    | succ m ih =>
      intro hm x
      simp only [List.range_succ, List.foldl_append, List.foldl_cons, List.foldl_nil]
      obtain ⟨h1, h2, h3⟩ := ih (by omega) x
      generalize hz : (List.range m).foldl (fun (y : Core × Fl) j => (y.1.setCell a i j (f i j).1, y.2 ||| (f i j).2)) x = z at h1 h2 h3
      refine ⟨?_, fun b r j hr hj => ?_, fun b => ?_⟩
      · unfold Core.setCell; rw [h1]
      · rw [setCell_cell _ _ _ _ _ _ _ _ hi (by omega) hr hj, h2 b r j hr hj]
        by_cases hc : b = a ∧ r = i ∧ j = m
        · obtain ⟨rfl, rfl, rfl⟩ := hc; rw [if_pos ⟨rfl, rfl, rfl⟩, if_pos ⟨rfl, rfl, by omega⟩]
        · rw [if_neg hc]
          by_cases hd : b = a ∧ r = i ∧ j < m
          · rw [if_pos hd, if_pos ⟨hd.1, hd.2.1, by omega⟩]
          · rw [if_neg hd, if_neg]
            rintro ⟨rfl, rfl, h⟩
            rcases Nat.lt_succ_iff_lt_or_eq.mp h with h | h
            · exact hd ⟨rfl, rfl, h⟩
            · exact hc ⟨rfl, rfl, h⟩
      · rw [BitVec.getLsbD_or, Bool.or_eq_true, h3 b]
        constructor
        · rintro ((h | ⟨j, hj, h⟩) | h)
          · exact .inl h
          · exact .inr ⟨j, by omega, h⟩
          · exact .inr ⟨m, by omega, h⟩
        · rintro (h | ⟨j, hj, h⟩)
          · exact .inl (.inl h)
          · rcases Nat.lt_succ_iff_lt_or_eq.mp hj with hj | rfl
            · exact .inl (.inr ⟨j, hj, h⟩)
            · exact .inr h
  have all : ∀ n, n ≤ 64 →
      let y := (List.range n).foldl (fun (x : Core × Fl) i => (List.range m).foldl (fun y j =>
        (y.1.setCell a i j (f i j).1, y.2 ||| (f i j).2)) x) (c, 0)
      y.1 = { c with acc := y.1.acc } ∧
      (∀ b r j, r < 64 → j < 64 → y.1.cell b r j = if b = a ∧ r < n ∧ j < m then (f r j).1 else c.cell b r j) ∧
      (∀ b, y.2.getLsbD b = true ↔ ∃ r j, r < n ∧ j < m ∧ (f r j).2.getLsbD b = true) := by
    intro n
    induction n with
    | zero => intro _; exact ⟨rfl, fun b r j _ _ => by simp, fun b => by simp⟩
    | succ n ih =>
      intro hn
      simp only [List.range_succ, List.foldl_append, List.foldl_cons, List.foldl_nil]
      obtain ⟨h1, h2, h3⟩ := ih (by omega)
      generalize hz : (List.range n).foldl (fun (x : Core × Fl) i => (List.range m).foldl (fun y j =>
        (y.1.setCell a i j (f i j).1, y.2 ||| (f i j).2)) x) (c, 0) = z at h1 h2 h3
      obtain ⟨r1, r2, r3⟩ := row n (by omega) m hm z
      refine ⟨?_, fun b r j hr hj => ?_, fun b => ?_⟩
      · rw [r1, h1]
      · rw [r2 b r j hr hj, h2 b r j hr hj]
        by_cases hc : b = a ∧ r = n ∧ j < m
        · rw [if_pos hc, if_pos ⟨hc.1, by omega, hc.2.2⟩]
        · rw [if_neg hc]
          by_cases hd : b = a ∧ r < n ∧ j < m
          · rw [if_pos hd, if_pos ⟨hd.1, by omega, hd.2.2⟩]
          · rw [if_neg hd, if_neg]
            rintro ⟨rfl, h, h'⟩
            rcases Nat.lt_succ_iff_lt_or_eq.mp h with h | h
            · exact hd ⟨rfl, h, h'⟩
            · exact hc ⟨rfl, h, h'⟩
      · rw [r3 b, h3 b]
        constructor
        · rintro (⟨r, j, h, h', hb⟩ | ⟨j, h, hb⟩)
          · exact ⟨r, j, by omega, h', hb⟩
          · exact ⟨n, j, by omega, h, hb⟩
        · rintro ⟨r, j, h, h', hb⟩
          rcases Nat.lt_succ_iff_lt_or_eq.mp h with h | rfl
          · exact .inl ⟨r, j, h, h', hb⟩
          · exact .inr ⟨j, h', hb⟩
  obtain ⟨a1, a2, a3⟩ := all n hn
  exact ⟨⟨a1, a2⟩, a3⟩

end Sys2Proof.Machine
end

