-- ==== Sys2Proof/Laws/Engine.lean ====
section
/-! SUPPORT. Issuing engine words (R70, R81, R88). -/

set_option Elab.async false

namespace Sys2Proof.Machine

open Sys2Proof.Safety

/-- A word whose body issues. -/
theorem engWord_issues {s : State} {k : Fin 128} {e : Engine} {t : Tok} {d : Core} (h : Issues s k e t d) {own : Engine → Bool}
    (ho : own e = true) {skip : Issue → Nat} {body : Issue → State → Iss} {s1 : State} {f : Flight}
    (hb : body (engIssue s k e d) (s.setCore k d) = .ok s1 f) :
    engWord s own t skip body = .next (s1.setEng k e { s1.eng k e with
      flight := (s1.eng k e).flight ++ [f], cur := (s1.eng k e).cur.bind (·.advance (skip (engIssue s k e d))) }) := by
  unfold engWord
  rw [h.1]
  simp only [ho, Bool.not_true, Bool.false_eq_true, if_false, h.2, hb]

/-- A word whose body faults consumes no token (R81). -/
theorem engWord_traps {s : State} {k : Fin 128} {e : Engine} {t : Tok} {d : Core} (h : Issues s k e t d) {own : Engine → Bool}
    (ho : own e = true) {skip : Issue → Nat} {body : Issue → State → Iss} {tr : Trap}
    (hb : body (engIssue s k e d) (s.setCore k d) = .trap tr) :
    engWord s own t skip body = .next (s.raise k (engAgent e) (engIssue s k e d).upc tr) := by
  unfold engWord
  rw [h.1]
  simp only [ho, Bool.not_true, Bool.false_eq_true, if_false, h.2, hb]

/-- A word that has its effect on the core at issue. -/
theorem engWord_done {s : State} {k : Fin 128} {e : Engine} {t : Tok} {d : Core} (h : Issues s k e t d) {own : Engine → Bool}
    (ho : own e = true) {body : Issue → State → Iss} {c : Core} {fl : Fl}
    (hb : body (engIssue s k e d) (s.setCore k d) = (engIssue s k e d).done (s.setCore k d) t.pt (c, fl)) :
    engWord s own t noSkip body = .next (issued s k e c { Flight.plain (engIssue s k e d).upc t.pt with flags := fl } 0) := by
  have hb' : body (engIssue s k e d) (s.setCore k d) =
      .ok ((s.setCore k d).setCore k c) { Flight.plain (engIssue s k e d).upc t.pt with flags := fl } := hb
  rw [engWord_issues h ho hb']
  have e1 : (s.setCore k d).setCore k c = s.setCore k c := by simp only [State.setCore, Vector.set_set]
  have e2 : ∀ x, (s.setCore k c).setCore k x = s.setCore k x := fun x => by simp only [State.setCore, Vector.set_set]
  rw [e1]
  unfold issued State.setEng State.eng
  rw [State.setCore_core_self, e2]
  rfl

/-- A vector word that has its effect on the core at issue. -/
theorem vectorWord_done {s : State} {k : Fin 128} {w : VgWord} {d : Core} (h : Issues s k .v w.tok d)
    {body : Issue → ModVG → Ops4 → Option (Core × Fl)} {r : Core × Fl} (hb : body (engIssue s k .v d) w.mod w.ops = some r) :
    vectorWord w s body = .next (issued s k .v r.1 { Flight.plain (engIssue s k .v d).upc w.tok.pt with flags := r.2 } 0) := by
  unfold vectorWord
  refine engWord_done h rfl ?_
  simp only [hb]

/-- A vector word that faults. -/
theorem vectorWord_traps {s : State} {k : Fin 128} {w : VgWord} {d : Core} (h : Issues s k .v w.tok d)
    {body : Issue → ModVG → Ops4 → Option (Core × Fl)} (hb : body (engIssue s k .v d) w.mod w.ops = none) :
    vectorWord w s body = .next (s.raise k 4 (engIssue s k .v d).upc badOperand) := by
  unfold vectorWord
  refine engWord_traps (e := .v) h rfl ?_
  simp only [hb]

end Sys2Proof.Machine
end

