-- ==== Sys2Proof/Laws/L1.lean ====
section
/-! SUPPORT. What the operations of the data L1 leave and change, byte by byte (R190). -/

set_option Elab.async false

namespace Sys2Proof.Machine

open Sys2Proof.Safety

theorem sget_map (l : List (Nat × (Byte × Bool))) (o : Nat) :
    sget none (l.map fun p => (p.1, some p.2)) o = (l.find? (·.1 == o)).map (·.2) := by
  induction l with
  | nil => rfl
  | cons p t ih =>
    obtain ⟨k, v⟩ := p
    simp only [List.map_cons, sget, List.find?_cons]
    by_cases h : o = k
    · subst h; simp
    · have : (k == o) = false := by simp; omega
      simp only [h, if_false, this, ih]

theorem dline_get_eq (l : DLine) (o : Nat) : l.get o = (l.bytes.find? (·.1 == o)).map (·.2) := sget_map ..

theorem map_serase {α β : Type} (f : α → β) (a : Nat) (l : List (Nat × α)) :
    (serase a l).map (fun p => (p.1, f p.2)) = serase a (l.map fun p => (p.1, f p.2)) := by
  unfold serase
  rw [List.filter_map]; rfl

theorem map_sinsert {α β : Type} (f : α → β) (a : Nat) (v : α) (l : List (Nat × α)) :
    (sinsert a v l).map (fun p => (p.1, f p.2)) = sinsert a (f v) (l.map fun p => (p.1, f p.2)) := by
  induction l with
  | nil => rfl
  | cons p t ih =>
    obtain ⟨k, w⟩ := p
    simp only [List.map_cons, sinsert]
    split
    · rfl
    · simp only [List.map_cons, ih]

/-- A byte of a line after one byte of it is written. -/
theorem dline_get_put (l : DLine) (o : Nat) (v : Byte) (d : Bool) (b : Nat) :
    (l.put o v d).get b = if b = o then some (v, d) else l.get b := by
  unfold DLine.get DLine.put
  rw [map_sinsert some, map_serase some]
  split
  · rename_i h; subst h
    refine sget_sinsert_self _ _ _ _ ?_
    intro p hp
    simp only [serase, List.mem_filter, bne_iff_ne, ne_eq] at hp
    exact hp.2
  · rename_i h
    rw [sget_sinsert_ne _ _ _ h, sget_serase_ne _ _ h]

@[simp] theorem dline_put_pa (l : DLine) (o : Nat) (v : Byte) (d : Bool) : (l.put o v d).pa = l.pa := rfl
@[simp] theorem dline_put_va (l : DLine) (o : Nat) (v : Byte) (d : Bool) : (l.put o v d).va = l.va := rfl
@[simp] theorem dline_put_poison (l : DLine) (o : Nat) (v : Byte) (d : Bool) : (l.put o v d).poison = l.poison := rfl

/-- Filling leaves what the line holds. -/
theorem dline_foldl_put_get (m : MemSide) (os : List Nat) (l : DLine) (b : Nat) :
    (os.foldl (fun x o => x.put o (m.byte (l.pa + o)) false) l).get b =
      if b ∈ os then some (m.byte (l.pa + b), false) else l.get b := by
  suffices h : ∀ (pa : Nat) (x : DLine), (os.foldl (fun x o => x.put o (m.byte (pa + o)) false) x).get b =
      if b ∈ os then some (m.byte (pa + b), false) else x.get b from h l.pa l
  intro pa
  induction os with
  | nil => simp
  | cons o t ih =>
    intro x
    rw [List.foldl_cons, ih, dline_get_put]
    simp only [List.mem_cons]
    by_cases h1 : b ∈ t
    · simp [h1]
    · by_cases h2 : b = o
      · subst h2; simp
      · simp [h1, h2]

theorem dline_foldl_put_pa (f : Nat → Byte) (d : Bool) (os : List Nat) (l : DLine) :
    (os.foldl (fun x o => x.put o (f o) d) l).pa = l.pa := by
  induction os generalizing l with
  | nil => rfl
  | cons o t ih => rw [List.foldl_cons, ih]; rfl

@[simp] theorem dline_fill_pa (l : DLine) (m : MemSide) : (l.fill m).pa = l.pa := dline_foldl_put_pa _ _ _ _

/-- A byte of a line that is filled from memory: the line's own where it holds it. -/
theorem dline_fill_get (l : DLine) (m : MemSide) (b : Nat) :
    (l.fill m).get b = if l.get b = none ∧ b < 128 then some (m.byte (l.pa + b), false) else l.get b := by
  have h := dline_foldl_put_get m ((List.range 128).filter fun o => (l.get o).isNone) l b
  refine Eq.trans (show (l.fill m).get b = _ from h) ?_
  simp only [List.mem_filter, List.mem_range, Option.isNone_iff_eq_none, and_comm]

/-- The line at an address after a line is put in its place. -/
theorem core_setDline_dline (c : Core) (l : DLine) (a : Nat) :
    (c.setDline l).dline a = if a = l.pa then some l else c.dline a := by
  unfold Core.dline Core.setDline
  simp only [List.find?_cons]
  by_cases h : a = l.pa
  · subst h; simp
  · have h' : (l.pa == a) = false := by simp; omega
    simp only [h', h, if_false]
    rw [List.find?_filter]
    congr 1
    funext x
    by_cases hx : x.pa = a
    · simp [hx, h]
    · simp [hx]

theorem core_dline_pa {c : Core} {a : Nat} {l : DLine} (h : c.dline a = some l) : l.pa = a := by
  have := List.find?_some h
  simpa using this

/-- What a core sees after a line is put in its place, memory and the other cores being as they were. -/
theorem seen_setDline (s : State) (k : Fin 128) (l : DLine) (a : Nat) :
    seen (s.setCore k ((s.core k).setDline l)) k a =
      if a / 128 * 128 = l.pa then ((l.get (a % 128)).map (·.1)).getD (s.mem.byte a) else seen s k a := by
  unfold seen
  simp only [State.setCore_core_self, core_setDline_dline, State.setCore_mem]
  by_cases h : a / 128 * 128 = l.pa <;> simp [h]

/-- The line that an access of core `k` at a flat address finds, or the empty line that it allocates (R190). -/
def lineAt (s : State) (k : Fin 128) (va : W64) (flat : Nat) : DLine :=
  ((s.core k).dline (flat / 128 * 128)).getD ⟨flat / 128 * 128, va - w64 (flat % 128), [], []⟩

theorem lineAt_pa (s : State) (k : Fin 128) (va : W64) (flat : Nat) : (lineAt s k va flat).pa = flat / 128 * 128 := by
  unfold lineAt
  cases h : (s.core k).dline (flat / 128 * 128) with
  | none => rfl
  | some l => exact core_dline_pa h

theorem lineAt_get (s : State) (k : Fin 128) (va : W64) (flat o : Nat) :
    (lineAt s k va flat).get o = ((s.core k).dline (flat / 128 * 128)).bind (·.get o) := by
  unfold lineAt
  cases h : (s.core k).dline (flat / 128 * 128) with
  | none => rfl
  | some l => rfl

/-- A byte that a core sees in the line of an access. -/
theorem seen_lineAt (s : State) (k : Fin 128) (va : W64) (flat a : Nat) (h : a / 128 * 128 = flat / 128 * 128) :
    seen s k a = (((lineAt s k va flat).get (a % 128)).map (·.1)).getD (s.mem.byte a) := by
  unfold seen; rw [lineAt_get, h]

/-- The line after a load has filled it where it lacks bytes (R190). -/
def lineFilled (s : State) (k : Fin 128) (va : W64) (flat n : Nat) : DLine :=
  if (lineAt s k va flat).has (flat % 128) n then lineAt s k va flat else (lineAt s k va flat).fill s.mem

theorem lineFilled_pa (s : State) (k : Fin 128) (va : W64) (flat n : Nat) : (lineFilled s k va flat n).pa = flat / 128 * 128 := by
  unfold lineFilled
  split <;> simp [lineAt_pa]

theorem lineFilled_seen (s : State) (k : Fin 128) (va : W64) (flat n a : Nat) (h : a / 128 * 128 = flat / 128 * 128) :
    (((lineFilled s k va flat n).get (a % 128)).map (·.1)).getD (s.mem.byte a) = seen s k a := by
  rw [seen_lineAt s k va flat a h]
  unfold lineFilled
  split
  · rfl
  · rw [dline_fill_get, lineAt_pa]
    split
    · rename_i hn
      rw [hn.1, show flat / 128 * 128 + a % 128 = a by omega]; rfl
    · rfl

theorem lineFilled_get (s : State) (k : Fin 128) (va : W64) (flat n i : Nat) (hi : i < n) (hn : flat % 128 + n ≤ 128) :
    ((lineFilled s k va flat n).get (flat % 128 + i)).map (·.1) = some (seen s k (flat + i)) := by
  have h := lineFilled_seen s k va flat n (flat + i) (by omega)
  rw [show (flat + i) % 128 = flat % 128 + i by omega] at h
  cases hg : (lineFilled s k va flat n).get (flat % 128 + i) with
  | some p => rw [hg] at h; simpa using h
  | none =>
    exfalso
    unfold lineFilled at hg
    split at hg
    · rename_i hh
      unfold DLine.has at hh
      rw [List.all_eq_true] at hh
      have := hh i (List.mem_range.mpr hi)
      rw [hg] at this; cases this
    · rw [dline_fill_get] at hg
      split at hg
      · cases hg
      · rename_i h1; exact h1 ⟨hg, by omega⟩

theorem lineFilled_poison (s : State) (k : Fin 128) (va : W64) (flat n : Nat) (hp : NoPoison s k flat n) (sec : Nat)
    (hs : ∃ i, i < n ∧ flat % 128 + i < 128 ∧ (flat % 128 + i) / 64 = sec) : (lineFilled s k va flat n).poison.contains sec = false := by
  obtain ⟨i, hi, ho, rfl⟩ := hs
  obtain ⟨h1, h2⟩ := hp i hi
  have hpa : (flat + i) / 128 * 128 = flat / 128 * 128 := by omega
  have hl : (lineAt s k va flat).poison = [] := by
    unfold lineAt
    cases h : (s.core k).dline (flat / 128 * 128) with
    | none => rfl
    | some l => exact h2 l (by rw [hpa, h])
  unfold lineFilled
  split
  · rw [hl]; rfl
  · have e : (flat / 128 * 128) / 64 + (flat % 128 + i) / 64 = (flat + i) / 64 := by omega
    simp only [DLine.fill, hl, lineAt_pa]
    rw [List.contains_eq_mem, decide_eq_false_iff_not, List.mem_filter]
    rintro ⟨-, h⟩
    rw [e, h1] at h
    simp at h

/-! ### Room (R190) -/

theorem setDline_length (c : Core) (l : DLine) :
    (c.setDline l).dl1.length ≤ c.dl1.length + (if (c.dline l.pa).isNone then 1 else 0) := by
  unfold Core.setDline
  simp only [List.length_cons]
  split
  · have := List.length_filter_le (fun x : DLine => x.pa != l.pa) c.dl1
    omega
  · rename_i h
    simp only [Core.dline, Option.isNone_iff_eq_none, List.find?_eq_none] at h
    have h' : ∃ x ∈ c.dl1, ¬ (x.pa != l.pa) = true := by
      refine Classical.byContradiction fun hc => h fun x hx hp => hc ⟨x, hx, by simpa using hp⟩
    obtain ⟨x, hx, hp⟩ := h'
    have := List.length_filter_lt_length_iff_exists (p := fun x : DLine => x.pa != l.pa) (l := c.dl1) |>.mpr ⟨x, hx, hp⟩
    omega

/-- With room for an access, its first line has room. -/
theorem room_first {s : State} {k : Fin 128} {flat n : Nat} (h : Room s k flat n) :
    (s.core k).hasRoom (flat / 128 * 128) = true := by
  unfold Room linesAt at h
  unfold Core.hasRoom
  cases hd : ((s.core k).dline (flat / 128 * 128)) with
  | some l => rfl
  | none =>
    simp only [Option.isSome_none, Bool.false_or, decide_eq_true_eq]
    split at h <;> simp only [List.filter_cons, hd, Option.isNone_none, if_true, List.length_cons] at h <;> omega

/-- And the second one has it once the first is there. -/
theorem room_second {s : State} {k : Fin 128} {flat n : Nat} (h : Room s k flat n) (hn : 128 < flat % 128 + n) (l : DLine)
    (hl : l.pa = flat / 128 * 128) : ((s.core k).setDline l).hasRoom (flat / 128 * 128 + 128) = true := by
  unfold Room linesAt at h
  rw [if_neg (by omega)] at h
  unfold Core.hasRoom
  rw [core_setDline_dline, if_neg (by omega)]
  cases hd : ((s.core k).dline (flat / 128 * 128 + 128)) with
  | some x => rfl
  | none =>
    simp only [Option.isSome_none, Bool.false_or, decide_eq_true_eq]
    have := setDline_length (s.core k) l
    rw [hl] at this
    cases hf : ((s.core k).dline (flat / 128 * 128)) <;> simp [hf, hd] at h this <;> omega

/-- A load of bytes of one line answers what the core sees, and changes nothing that any core sees (R190). -/
theorem l1Part_ok (s : State) (k : Fin 128) (ea va : W64) (flat n : Nat) (hn : 0 < n) (h : flat % 128 + n ≤ 128) (hp : NoPoison s k flat n)
    (hr : (s.core k).hasRoom (flat / 128 * 128) = true) :
    s.l1Part k ea va flat n = .ok ((List.range n).map fun i => seen s k (flat + i),
      s.setCore k ((s.core k).setDline (lineFilled s k va flat n))) := by
  have e0 : s.l1Part k ea va flat n =
      if !(s.core k).hasRoom (flat / 128 * 128) then .wait else match [flat % 128 / 64, (flat % 128 + n - 1) / 64].find? fun sec =>
        (lineFilled s k va flat n).poison.contains sec && !(lineFilled s k va flat n).sectorDirty sec with
      | some sec => .trap (poisonTrap ea (flat / 128 * 2 + sec))
      | none => .ok ((List.range n).map fun i => match (lineFilled s k va flat n).get (flat % 128 + i) with
        | some (v, _) => v
        | none => 0, s.setCore k ((s.core k).setDline (lineFilled s k va flat n))) := rfl
  rw [e0, hr]
  simp only [Bool.not_true, Bool.false_eq_true, if_false]
  have p1 := lineFilled_poison s k va flat n hp (flat % 128 / 64) ⟨0, by omega, by omega, by simp⟩
  have p2 := lineFilled_poison s k va flat n hp ((flat % 128 + n - 1) / 64) ⟨n - 1, by omega, by omega, by congr 1; omega⟩
  have e1 : ([flat % 128 / 64, (flat % 128 + n - 1) / 64].find? fun sec =>
      (lineFilled s k va flat n).poison.contains sec && !(lineFilled s k va flat n).sectorDirty sec) = none := by
    rw [List.find?_eq_none]
    intro x hx
    simp only [List.mem_cons, List.not_mem_nil, or_false] at hx
    rcases hx with rfl | rfl
    · simp only [p1, Bool.false_and]; decide
    · simp only [p2, Bool.false_and]; decide
  rw [e1]
  simp only
  congr 2
  apply List.map_congr_left
  intro i hi
  have hi' := List.mem_range.mp hi
  have := lineFilled_get s k va flat n i hi' h
  cases hg : (lineFilled s k va flat n).get (flat % 128 + i) with
  | none => rw [hg] at this; cases this
  | some p => rw [hg] at this; simpa using this

theorem seen_lineFilled (s : State) (k : Fin 128) (va : W64) (flat n a : Nat) :
    seen (s.setCore k ((s.core k).setDline (lineFilled s k va flat n))) k a = seen s k a := by
  rw [seen_setDline]
  split
  · rename_i h; exact lineFilled_seen s k va flat n a (by rw [h, lineFilled_pa])
  · rfl

/-- Only the data L1 of a core changes. -/
theorem onlyL1_setDline (s : State) (k : Fin 128) (l : DLine) : OnlyL1 s (s.setCore k ((s.core k).setDline l)) k := by
  unfold OnlyL1
  simp only [State.setCore_core_self, State.setCore_mem]
  rfl

theorem onlyL1_trans {s t u : State} {k : Fin 128} (h1 : OnlyL1 s t k) (h2 : OnlyL1 t u k) : OnlyL1 s u k := by
  unfold OnlyL1 at *
  rw [h1] at h2
  simp only [State.setCore_core_self, State.setCore_mem] at h2
  conv_lhs => rw [h2]
  simp only [State.setCore, State.setMem, Vector.set_set]

/-- A load of at most one line's length through the data L1 (R190). -/
theorem l1Load_ok (s : State) (k : Fin 128) (va : W64) (flat n : Nat) (hn : 0 < n) (h : n ≤ 128) (hp : NoPoison s k flat n)
    (hr : Room s k flat n) : ∃ t, s.l1Load k va flat n = .ok ((List.range n).map fun i => seen s k (flat + i), t) ∧ OnlyL1 s t k ∧ t.mem = s.mem ∧
      ∀ a, seen t k a = seen s k a := by
  by_cases hl : n ≤ 128 - flat % 128
  · refine ⟨_, ?_, onlyL1_setDline s k (lineFilled s k va flat n), rfl, seen_lineFilled s k va flat n⟩
    have e : s.l1Load k va flat n = s.l1Part k va va flat n := if_pos hl
    rw [e, l1Part_ok s k va va flat n hn (by omega) hp (room_first hr)]
  · have hm : 0 < 128 - flat % 128 := by omega
    generalize hM : 128 - flat % 128 = m at hl hm
    have e : s.l1Load k va flat n = (s.l1Part k va va flat m).bind fun p =>
        (p.2.l1Part k va (va + w64 m) (flat + m) (n - m)).bind fun q => .ok (p.1 ++ q.1, q.2) := by
      rw [← hM]; exact if_neg (by omega)
    have hp1 : NoPoison s k flat m := fun i hi => hp i (by omega)
    rw [e, l1Part_ok s k va va flat m hm (by omega) hp1 (room_first hr)]
    simp only [Acc.bind]
    have hp2 : NoPoison (s.setCore k ((s.core k).setDline (lineFilled s k va flat m))) k (flat + m) (n - m) := by
      intro i hi
      obtain ⟨h1, h2⟩ := hp (m + i) (by omega)
      rw [← Nat.add_assoc] at h1 h2
      refine ⟨h1, fun l hl' => h2 l ?_⟩
      rw [State.setCore_core_self, core_setDline_dline, if_neg (by rw [lineFilled_pa]; omega)] at hl'
      exact hl'
    have hr2 : ((s.setCore k ((s.core k).setDline (lineFilled s k va flat m))).core k).hasRoom ((flat + m) / 128 * 128) = true := by
      rw [State.setCore_core_self, show (flat + m) / 128 * 128 = flat / 128 * 128 + 128 by omega]
      exact room_second hr (by omega) _ (lineFilled_pa ..)
    rw [l1Part_ok _ k va (va + w64 m) (flat + m) (n - m) (by omega) (by omega) hp2 hr2]
    refine ⟨_, ?_, onlyL1_trans (onlyL1_setDline s k (lineFilled s k va flat m))
      (onlyL1_setDline _ k (lineFilled (s.setCore k ((s.core k).setDline (lineFilled s k va flat m))) k (va + w64 m) (flat + m) (n - m))),
      rfl, fun a => ?_⟩
    · have hr : (List.range n).map (fun i => seen s k (flat + i)) = (List.range m).map (fun i => seen s k (flat + i)) ++
          (List.range (n - m)).map (fun i => seen (s.setCore k ((s.core k).setDline (lineFilled s k va flat m))) k (flat + m + i)) := by
        conv_lhs => rw [show n = m + (n - m) by omega, List.range_add, List.map_append, List.map_map]
        congr 1
        apply List.map_congr_left
        intro i _
        rw [seen_lineFilled]
        simp only [Function.comp, Nat.add_assoc]
      rw [hr]
    · rw [seen_lineFilled, seen_lineFilled]

/-! ### Stores -/

theorem dline_foldl_store_pa (o : Nat) (l : List (Byte × Nat)) (x : DLine) :
    (l.foldl (fun x p => x.put (o + p.2) p.1 true) x).pa = x.pa := by
  induction l generalizing x with
  | nil => rfl
  | cons p t ih => rw [List.foldl_cons, ih]; rfl

theorem dline_foldl_store_get (o : Nat) (bs : List Byte) (j : Nat) (x : DLine) (b : Nat) :
    ((bs.zipIdx j).foldl (fun x p => x.put (o + p.2) p.1 true) x).get b =
      if h : o + j ≤ b ∧ b < o + j + bs.length then some (bs[b - (o + j)]'(by omega), true) else x.get b := by
  induction bs generalizing j x with
  | nil =>
    have : ¬ (o + j ≤ b ∧ b < o + j + ([] : List Byte).length) := by simp
    simp only [List.zipIdx_nil, List.foldl_nil]
    rw [dif_neg this]
  | cons v t ih =>
    rw [List.zipIdx_cons, List.foldl_cons, ih]
    simp only [List.length_cons]
    by_cases h1 : b = o + j
    · subst h1
      rw [dif_neg (by omega), dif_pos (by omega), dline_get_put, if_pos rfl]
      simp
    · by_cases h2 : o + (j + 1) ≤ b ∧ b < o + (j + 1) + t.length
      · rw [dif_pos h2, dif_pos (by omega)]
        have e : b - (o + j) = (b - (o + (j + 1))) + 1 := by omega
        simp only [e, List.getElem_cons_succ]
      · rw [dif_neg h2, dif_neg (by omega), dline_get_put, if_neg h1]

/-- The line that a store leaves, and the state with it (R190). -/
def lineStored (s : State) (k : Fin 128) (va : W64) (flat : Nat) (bs : List Byte) : DLine :=
  let l := (bs.zipIdx).foldl (fun x p => x.put (flat % 128 + p.2) p.1 true) (lineAt s k va flat)
  { l with poison := l.poison.filter fun sec => !l.sectorDirty sec }

def putLine (s : State) (k : Fin 128) (va : W64) (flat : Nat) (bs : List Byte) : State :=
  s.setCore k ((s.core k).setDline (lineStored s k va flat bs))

theorem lineStored_pa (s : State) (k : Fin 128) (va : W64) (flat : Nat) (bs : List Byte) :
    (lineStored s k va flat bs).pa = flat / 128 * 128 := by
  unfold lineStored
  simp only [dline_foldl_store_pa, lineAt_pa]

theorem l1Put_ok (s : State) (k : Fin 128) (va : W64) (flat : Nat) (bs : List Byte)
    (hr : (s.core k).hasRoom (flat / 128 * 128) = true) : s.l1Put k va flat bs = .ok (putLine s k va flat bs) := by
  have e : s.l1Put k va flat bs = if !(s.core k).hasRoom (flat / 128 * 128) then .wait else .ok (putLine s k va flat bs) := rfl
  rw [e, hr]; rfl

/-- What a core sees after bytes went into one line of its data L1 (R190). -/
theorem l1Put_seen (s : State) (k : Fin 128) (va : W64) (flat : Nat) (bs : List Byte) (h : flat % 128 + bs.length ≤ 128) (a : Nat) :
    seen (putLine s k va flat bs) k a = if h : flat ≤ a ∧ a < flat + bs.length then bs[a - flat]'(by omega) else seen s k a := by
  let l := (bs.zipIdx).foldl (fun x p => x.put (flat % 128 + p.2) p.1 true) (lineAt s k va flat)
  have e : putLine s k va flat bs = s.setCore k ((s.core k).setDline { l with poison := l.poison.filter fun sec => !l.sectorDirty sec }) := rfl
  have hpa : l.pa = flat / 128 * 128 := by rw [dline_foldl_store_pa, lineAt_pa]
  have hg : ∀ b, l.get b = _ := fun b => dline_foldl_store_get (flat % 128) bs 0 (lineAt s k va flat) b
  rw [e, seen_setDline]
  show (if a / 128 * 128 = l.pa then ((l.get (a % 128)).map (·.1)).getD (s.mem.byte a) else seen s k a) = _
  rw [hpa]
  by_cases h1 : a / 128 * 128 = flat / 128 * 128
  · rw [if_pos h1, hg]
    by_cases h2 : flat ≤ a ∧ a < flat + bs.length
    · rw [dif_pos (by omega), dif_pos h2]
      simp only [Option.map_some, Option.getD_some]
      congr 1
      omega
    · rw [dif_neg (by omega), dif_neg h2, seen_lineAt s k va flat a h1]
  · rw [if_neg h1, dif_neg (by omega)]

theorem l1Put_onlyL1 (s : State) (k : Fin 128) (va : W64) (flat : Nat) (bs : List Byte) : OnlyL1 s (putLine s k va flat bs) k :=
  onlyL1_setDline s k _

/-- A store of at most one line's length through the data L1 (R190): the core sees the bytes, and memory is as it was. -/
theorem l1Store_ok (s : State) (k : Fin 128) (va : W64) (flat : Nat) (bs : List Byte) (hn : bs.length ≤ 128)
    (hr : Room s k flat bs.length) : ∃ t, s.l1Store k va flat bs = .ok t ∧ OnlyL1 s t k ∧ t.mem = s.mem ∧
      ∀ a, seen t k a = if h : flat ≤ a ∧ a < flat + bs.length then bs[a - flat]'(by omega) else seen s k a := by
  by_cases hl : bs.length ≤ 128 - flat % 128
  · have e : s.l1Store k va flat bs = s.l1Put k va flat bs := if_pos hl
    rw [e, l1Put_ok s k va flat bs (room_first hr)]
    exact ⟨_, rfl, l1Put_onlyL1 .., rfl, fun a => l1Put_seen s k va flat bs (by omega) a⟩
  · generalize hM : 128 - flat % 128 = m at hl
    have e : s.l1Store k va flat bs = (s.l1Put k va flat (bs.take m)).bind fun t => t.l1Put k (va + w64 m) (flat + m) (bs.drop m) := by
      rw [← hM]; exact if_neg (by omega)
    have h1 : (bs.take m).length = m := by rw [List.length_take]; omega
    have h2 : (bs.drop m).length = bs.length - m := List.length_drop
    have hr2 : ((putLine s k va flat (bs.take m)).core k).hasRoom ((flat + m) / 128 * 128) = true := by
      unfold putLine
      rw [State.setCore_core_self, show (flat + m) / 128 * 128 = flat / 128 * 128 + 128 by omega]
      exact room_second hr (by omega) _ (lineStored_pa ..)
    rw [e, l1Put_ok s k va flat _ (room_first hr)]
    simp only [Acc.bind]
    rw [l1Put_ok _ k _ _ _ hr2]
    refine ⟨_, rfl, onlyL1_trans (l1Put_onlyL1 ..) (l1Put_onlyL1 ..), rfl, fun a => ?_⟩
    rw [l1Put_seen _ _ _ _ _ (by rw [h2]; omega), l1Put_seen _ _ _ _ _ (by rw [h1]; omega)]
    simp only [h1, h2]
    by_cases c1 : flat + m ≤ a ∧ a < flat + m + (bs.length - m)
    · rw [dif_pos c1, dif_pos (by omega), List.getElem_drop]
      congr 1
      omega
    · rw [dif_neg c1]
      by_cases c2 : flat ≤ a ∧ a < flat + m
      · rw [dif_pos c2, dif_pos (by omega), List.getElem_take]
      · rw [dif_neg c2, dif_neg (by omega)]

end Sys2Proof.Machine
end

