-- ==== Sys2Proof/Laws/Flush.lean ====
section
/-! SUPPORT. Writing lines of the data L1 back (R190, R201, R203). -/

set_option Elab.async false

namespace Sys2Proof.Machine

open Sys2Proof.Safety

/-- A byte of memory after a line is written back: a dirty byte of the line, or what it was where the line holds none. -/
theorem writeBack_byte (m : MemSide) (l : DLine) (a : Nat) :
    DirtyAt l a ((m.writeBack l).byte a) ∨ ((∀ v, ¬ DirtyAt l a v) ∧ (m.writeBack l).byte a = m.byte a) := by
  let f (x : MemSide) (p : Nat × (Byte × Bool)) : MemSide :=
    if p.2.2 then { x with cells := sset (0 : Byte) x.cells (l.pa + p.1) p.2.1 } else x
  have hb : (m.writeBack l).byte a = (l.bytes.foldl f m).byte a := rfl
  rw [hb]
  suffices h : ∀ (bs : List (Nat × (Byte × Bool))) (x : MemSide),
      (∃ p ∈ bs, l.pa + p.1 = a ∧ p.2 = ((bs.foldl f x).byte a, true)) ∨
        ((∀ v, ¬ ∃ p ∈ bs, l.pa + p.1 = a ∧ p.2 = (v, true)) ∧ (bs.foldl f x).byte a = x.byte a) from h l.bytes m
  intro bs
  induction bs with
  | nil => intro x; exact .inr ⟨by simp, rfl⟩
  | cons p t ih =>
    intro x
    rw [List.foldl_cons]
    rcases ih (f x p) with ⟨q, hq, h⟩ | ⟨h1, h2⟩
    · exact .inl ⟨q, List.mem_cons_of_mem _ hq, h⟩
    · by_cases hd : l.pa + p.1 = a ∧ p.2.2 = true
      · refine .inl ⟨p, List.mem_cons_self, hd.1, ?_⟩
        rw [h2]
        have : f x p = { x with cells := sset (0 : Byte) x.cells (l.pa + p.1) p.2.1 } := if_pos hd.2
        rw [this, hd.1]
        obtain ⟨o, v, d⟩ := p
        have hv : ({ x with cells := sset (0 : Byte) x.cells a v } : MemSide).byte a = v := sget_sset_self _ _ _ _
        rw [hv]
        exact Prod.ext rfl hd.2
      · refine .inr ⟨?_, ?_⟩
        · rintro v ⟨q, hq, hq1, hq2⟩
          rcases List.mem_cons.mp hq with rfl | hq
          · exact hd ⟨hq1, by rw [hq2]⟩
          · exact h1 v ⟨q, hq, hq1, hq2⟩
        · rw [h2]
          show (if p.2.2 then _ else x).byte a = x.byte a
          split
          · rename_i hp
            exact sget_sset_ne _ _ _ fun he => hd ⟨he.symm, hp⟩
          · rfl

theorem foldl_writeBack_byte (ls : List DLine) (m : MemSide) (a : Nat) :
    (∃ l ∈ ls, DirtyAt l a ((ls.foldl (fun x l => x.writeBack l) m).byte a)) ∨
      ((∀ l ∈ ls, ∀ v, ¬ DirtyAt l a v) ∧ (ls.foldl (fun x l => x.writeBack l) m).byte a = m.byte a) := by
  induction ls generalizing m with
  | nil => exact .inr ⟨by simp, rfl⟩
  | cons l t ih =>
    rw [List.foldl_cons]
    rcases ih (m.writeBack l) with ⟨x, hx, h⟩ | ⟨h1, h2⟩
    · exact .inl ⟨x, List.mem_cons_of_mem _ hx, h⟩
    · rw [h2]
      rcases writeBack_byte m l a with h | ⟨h3, h4⟩
      · exact .inl ⟨l, List.mem_cons_self, h⟩
      · refine .inr ⟨fun x hx => ?_, h4⟩
        rcases List.mem_cons.mp hx with rfl | hx
        · exact h3
        · exact h1 x hx

/-- Of the memory side nothing but bytes and poison changes. -/
def OnlyBytes (m n : MemSide) : Prop := n = { m with cells := n.cells, poison := n.poison }

theorem onlyBytes_trans {m n o : MemSide} (h1 : OnlyBytes m n) (h2 : OnlyBytes n o) : OnlyBytes m o := by
  unfold OnlyBytes at *
  rw [h1] at h2
  exact h2

theorem foldl_onlyBytes {α : Type} (f : MemSide → α → MemSide) (hf : ∀ m x, OnlyBytes m (f m x)) (l : List α) (m : MemSide) :
    OnlyBytes m (l.foldl f m) := by
  induction l generalizing m with
  | nil => rfl
  | cons x t ih => exact onlyBytes_trans (hf m x) (ih (f m x))

theorem writeBack_onlyBytes (m : MemSide) (l : DLine) : OnlyBytes m (m.writeBack l) := by
  unfold MemSide.writeBack
  dsimp only
  exact onlyBytes_trans (foldl_onlyBytes (fun (x : MemSide) (p : Nat × (Byte × Bool)) =>
    if p.2.2 then { x with cells := sset (0 : Byte) x.cells (l.pa + p.1) p.2.1 } else x)
    (fun m x => by split <;> rfl) l.bytes m) rfl

/-- What writing lines back and dropping others does (R190): nothing but the L1 of the core and bytes of memory changes; memory takes the
dirty bytes of the lines named. -/
theorem flushLines_ok (s : State) (k : Fin 128) (p q : DLine → Bool) :
    OnlyL1 s (s.flushLines k p q) k ∧ WrittenBack s (s.flushLines k p q) k (fun l => p l = true) ∧
      ((s.flushLines k p q).core k).dl1 = ((s.core k).dl1.filter fun l => !q l).map fun l => if p l then l.clean else l := by
  have hm : (s.flushLines k p q).mem = ((s.core k).dl1.filter p).foldl (fun x l => x.writeBack l) s.mem := rfl
  refine ⟨?_, ⟨fun a h => ?_, fun a h => ?_⟩, ?_⟩
  · have h : OnlyBytes s.mem (s.flushLines k p q).mem := by
      rw [hm]; exact foldl_onlyBytes _ writeBack_onlyBytes _ _
    unfold OnlyL1
    rw [← h]
    simp only [State.flushLines, State.setCore_core_self, State.setCore_mem, State.setMem_mem]
  · rw [hm]
    rcases foldl_writeBack_byte ((s.core k).dl1.filter p) s.mem a with ⟨l, hl, hd⟩ | ⟨-, h2⟩
    · exact absurd ⟨l, (List.mem_filter.mp hl).1, _, (List.mem_filter.mp hl).2, hd⟩ h
    · exact h2
  · rw [hm]
    rcases foldl_writeBack_byte ((s.core k).dl1.filter p) s.mem a with ⟨l, hl, hd⟩ | ⟨h1, -⟩
    · exact ⟨l, (List.mem_filter.mp hl).1, (List.mem_filter.mp hl).2, hd⟩
    · obtain ⟨l, hl, v, hp, hd⟩ := h
      exact absurd hd (h1 l (List.mem_filter.mpr ⟨hl, hp⟩) v)
  · simp only [State.flushLines, State.setCore_core_self]

/-- Writing back by a condition that holds of the same lines is the same. -/
theorem writtenBack_congr {s t : State} {k : Fin 128} {p q : DLine → Prop} (h : ∀ l, p l ↔ q l) (w : WrittenBack s t k p) :
    WrittenBack s t k q := by
  have : p = q := funext fun l => propext (h l)
  rw [← this]; exact w

end Sys2Proof.Machine
end

