-- ==== Sys2Proof/Laws/PerInstr.lean ====
section
/-! SUPPORT. One lemma per instruction: the word that the encoder writes decodes to the instruction it was written from (R81 to
R99). -/

set_option Elab.async false

set_option linter.unusedSimpArgs false

namespace Sys2Proof.Laws.RoundTrip

/-- Decoding the word of a well-formed instruction gives it back; an event has no word. -/
def Statement (i : Instr) : Prop := i.wf = true → ∀ n w, Sys2Proof.encode i = some (n, w) → decodeTableWord n w = some i

theorem of_word {i : Instr} {m v : Nat} (he : Sys2Proof.encode i = some (m, v)) (h : i.wf = true → decodeTableWord m v = some i) :
    Statement i := by
  intro hw n w e
  rw [he] at e
  cases e
  exact h hw

theorem of_none {i : Instr} (he : Sys2Proof.encode i = none) : Statement i := by
  intro _ n w e
  rw [he] at e
  cases e

theorem condCode (c : Cond) : c.toCode < 6 ∧ Cond.ofCode c.toCode = some c := by cases c <;> decide
theorem condImm (c : Cond) (h : c.immediate = true) : c.toCode < 4 := by revert h; cases c <;> decide
theorem scopeCode (c : Scope) : c.toCode < 5 ∧ Scope.ofCode c.toCode = some c := by cases c <;> decide
theorem engineCode (x : Engine) : x.toCode < 4 ∧ Engine.ofCode x.toCode = some x := by cases x <;> decide
theorem engSetCode (m : EngSet) (h : m.wf = true) : m.toNat < 8 ∧ m.toNat ≠ 0 ∧ EngSet.ofNat m.toNat = m := by
  obtain ⟨ma, mv, mc⟩ := m
  revert h; cases ma <;> cases mv <;> cases mc <;> decide
theorem specCode (r : SpecReg) : r.toSel < 4096 ∧ SpecReg.ofSel r.toSel = some r := by
  cases r with
  | pinb n => revert n; decide
  | pinl n => revert n; decide
  | _ => exact ⟨by decide, rfl⟩
theorem skipCode (c : SkipCond) : c.toCode < 8 ∧ SkipCond.ofCode c.toCode = c := by cases c <;> decide

theorem add (g : Guard) (rd : Fin 32) (ra : Fin 32) (rb : Fin 32) : Statement (.add g rd ra rb) := by
  refine of_word rfl fun (h : (g.wf) = true) => ?_
  have h_rd := rd.isLt
  have h_ra := ra.isLt
  have h_rb := rb.isLt
  obtain ⟨r, e, f⟩ := encR_fields g 0x00 rd ra rb 0 (by omega) (by omega) (by omega) (by omega) (by omega)
  rw [e]
  refine decodeTableWord_control g r 0x00 f.1 h f.2.1 _ fun b hb => ?_
  simp (disch := omega) [decodeMajor, hb, f, h_rd, h_ra, h_rb, decodeAluR, optOpcode, orOpcode, Nat.div_eq_of_lt, Nat.mod_eq_of_lt]
theorem sub (g : Guard) (rd : Fin 32) (ra : Fin 32) (rb : Fin 32) : Statement (.sub g rd ra rb) := by
  refine of_word rfl fun (h : (g.wf) = true) => ?_
  have h_rd := rd.isLt
  have h_ra := ra.isLt
  have h_rb := rb.isLt
  obtain ⟨r, e, f⟩ := encR_fields g 0x00 rd ra rb 1 (by omega) (by omega) (by omega) (by omega) (by omega)
  rw [e]
  refine decodeTableWord_control g r 0x00 f.1 h f.2.1 _ fun b hb => ?_
  simp (disch := omega) [decodeMajor, hb, f, h_rd, h_ra, h_rb, decodeAluR, optOpcode, orOpcode, Nat.div_eq_of_lt, Nat.mod_eq_of_lt]
theorem and (g : Guard) (rd : Fin 32) (ra : Fin 32) (rb : Fin 32) : Statement (.and g rd ra rb) := by
  refine of_word rfl fun (h : (g.wf) = true) => ?_
  have h_rd := rd.isLt
  have h_ra := ra.isLt
  have h_rb := rb.isLt
  obtain ⟨r, e, f⟩ := encR_fields g 0x00 rd ra rb 2 (by omega) (by omega) (by omega) (by omega) (by omega)
  rw [e]
  refine decodeTableWord_control g r 0x00 f.1 h f.2.1 _ fun b hb => ?_
  simp (disch := omega) [decodeMajor, hb, f, h_rd, h_ra, h_rb, decodeAluR, optOpcode, orOpcode, Nat.div_eq_of_lt, Nat.mod_eq_of_lt]
theorem or (g : Guard) (rd : Fin 32) (ra : Fin 32) (rb : Fin 32) : Statement (.or g rd ra rb) := by
  refine of_word rfl fun (h : (g.wf) = true) => ?_
  have h_rd := rd.isLt
  have h_ra := ra.isLt
  have h_rb := rb.isLt
  obtain ⟨r, e, f⟩ := encR_fields g 0x00 rd ra rb 3 (by omega) (by omega) (by omega) (by omega) (by omega)
  rw [e]
  refine decodeTableWord_control g r 0x00 f.1 h f.2.1 _ fun b hb => ?_
  simp (disch := omega) [decodeMajor, hb, f, h_rd, h_ra, h_rb, decodeAluR, optOpcode, orOpcode, Nat.div_eq_of_lt, Nat.mod_eq_of_lt]
theorem xor (g : Guard) (rd : Fin 32) (ra : Fin 32) (rb : Fin 32) : Statement (.xor g rd ra rb) := by
  refine of_word rfl fun (h : (g.wf) = true) => ?_
  have h_rd := rd.isLt
  have h_ra := ra.isLt
  have h_rb := rb.isLt
  obtain ⟨r, e, f⟩ := encR_fields g 0x00 rd ra rb 4 (by omega) (by omega) (by omega) (by omega) (by omega)
  rw [e]
  refine decodeTableWord_control g r 0x00 f.1 h f.2.1 _ fun b hb => ?_
  simp (disch := omega) [decodeMajor, hb, f, h_rd, h_ra, h_rb, decodeAluR, optOpcode, orOpcode, Nat.div_eq_of_lt, Nat.mod_eq_of_lt]
theorem sll (g : Guard) (rd : Fin 32) (ra : Fin 32) (rb : Fin 32) : Statement (.sll g rd ra rb) := by
  refine of_word rfl fun (h : (g.wf) = true) => ?_
  have h_rd := rd.isLt
  have h_ra := ra.isLt
  have h_rb := rb.isLt
  obtain ⟨r, e, f⟩ := encR_fields g 0x00 rd ra rb 5 (by omega) (by omega) (by omega) (by omega) (by omega)
  rw [e]
  refine decodeTableWord_control g r 0x00 f.1 h f.2.1 _ fun b hb => ?_
  simp (disch := omega) [decodeMajor, hb, f, h_rd, h_ra, h_rb, decodeAluR, optOpcode, orOpcode, Nat.div_eq_of_lt, Nat.mod_eq_of_lt]
theorem srl (g : Guard) (rd : Fin 32) (ra : Fin 32) (rb : Fin 32) : Statement (.srl g rd ra rb) := by
  refine of_word rfl fun (h : (g.wf) = true) => ?_
  have h_rd := rd.isLt
  have h_ra := ra.isLt
  have h_rb := rb.isLt
  obtain ⟨r, e, f⟩ := encR_fields g 0x00 rd ra rb 6 (by omega) (by omega) (by omega) (by omega) (by omega)
  rw [e]
  refine decodeTableWord_control g r 0x00 f.1 h f.2.1 _ fun b hb => ?_
  simp (disch := omega) [decodeMajor, hb, f, h_rd, h_ra, h_rb, decodeAluR, optOpcode, orOpcode, Nat.div_eq_of_lt, Nat.mod_eq_of_lt]
theorem sra (g : Guard) (rd : Fin 32) (ra : Fin 32) (rb : Fin 32) : Statement (.sra g rd ra rb) := by
  refine of_word rfl fun (h : (g.wf) = true) => ?_
  have h_rd := rd.isLt
  have h_ra := ra.isLt
  have h_rb := rb.isLt
  obtain ⟨r, e, f⟩ := encR_fields g 0x00 rd ra rb 7 (by omega) (by omega) (by omega) (by omega) (by omega)
  rw [e]
  refine decodeTableWord_control g r 0x00 f.1 h f.2.1 _ fun b hb => ?_
  simp (disch := omega) [decodeMajor, hb, f, h_rd, h_ra, h_rb, decodeAluR, optOpcode, orOpcode, Nat.div_eq_of_lt, Nat.mod_eq_of_lt]
theorem mul (g : Guard) (rd : Fin 32) (ra : Fin 32) (rb : Fin 32) : Statement (.mul g rd ra rb) := by
  refine of_word rfl fun (h : (g.wf) = true) => ?_
  have h_rd := rd.isLt
  have h_ra := ra.isLt
  have h_rb := rb.isLt
  obtain ⟨r, e, f⟩ := encR_fields g 0x00 rd ra rb 8 (by omega) (by omega) (by omega) (by omega) (by omega)
  rw [e]
  refine decodeTableWord_control g r 0x00 f.1 h f.2.1 _ fun b hb => ?_
  simp (disch := omega) [decodeMajor, hb, f, h_rd, h_ra, h_rb, decodeAluR, optOpcode, orOpcode, Nat.div_eq_of_lt, Nat.mod_eq_of_lt]
theorem mulh (g : Guard) (rd : Fin 32) (ra : Fin 32) (rb : Fin 32) : Statement (.mulh g rd ra rb) := by
  refine of_word rfl fun (h : (g.wf) = true) => ?_
  have h_rd := rd.isLt
  have h_ra := ra.isLt
  have h_rb := rb.isLt
  obtain ⟨r, e, f⟩ := encR_fields g 0x00 rd ra rb 9 (by omega) (by omega) (by omega) (by omega) (by omega)
  rw [e]
  refine decodeTableWord_control g r 0x00 f.1 h f.2.1 _ fun b hb => ?_
  simp (disch := omega) [decodeMajor, hb, f, h_rd, h_ra, h_rb, decodeAluR, optOpcode, orOpcode, Nat.div_eq_of_lt, Nat.mod_eq_of_lt]
theorem mulhu (g : Guard) (rd : Fin 32) (ra : Fin 32) (rb : Fin 32) : Statement (.mulhu g rd ra rb) := by
  refine of_word rfl fun (h : (g.wf) = true) => ?_
  have h_rd := rd.isLt
  have h_ra := ra.isLt
  have h_rb := rb.isLt
  obtain ⟨r, e, f⟩ := encR_fields g 0x00 rd ra rb 10 (by omega) (by omega) (by omega) (by omega) (by omega)
  rw [e]
  refine decodeTableWord_control g r 0x00 f.1 h f.2.1 _ fun b hb => ?_
  simp (disch := omega) [decodeMajor, hb, f, h_rd, h_ra, h_rb, decodeAluR, optOpcode, orOpcode, Nat.div_eq_of_lt, Nat.mod_eq_of_lt]
theorem div (g : Guard) (rd : Fin 32) (ra : Fin 32) (rb : Fin 32) : Statement (.div g rd ra rb) := by
  refine of_word rfl fun (h : (g.wf) = true) => ?_
  have h_rd := rd.isLt
  have h_ra := ra.isLt
  have h_rb := rb.isLt
  obtain ⟨r, e, f⟩ := encR_fields g 0x00 rd ra rb 11 (by omega) (by omega) (by omega) (by omega) (by omega)
  rw [e]
  refine decodeTableWord_control g r 0x00 f.1 h f.2.1 _ fun b hb => ?_
  simp (disch := omega) [decodeMajor, hb, f, h_rd, h_ra, h_rb, decodeAluR, optOpcode, orOpcode, Nat.div_eq_of_lt, Nat.mod_eq_of_lt]
theorem divu (g : Guard) (rd : Fin 32) (ra : Fin 32) (rb : Fin 32) : Statement (.divu g rd ra rb) := by
  refine of_word rfl fun (h : (g.wf) = true) => ?_
  have h_rd := rd.isLt
  have h_ra := ra.isLt
  have h_rb := rb.isLt
  obtain ⟨r, e, f⟩ := encR_fields g 0x00 rd ra rb 12 (by omega) (by omega) (by omega) (by omega) (by omega)
  rw [e]
  refine decodeTableWord_control g r 0x00 f.1 h f.2.1 _ fun b hb => ?_
  simp (disch := omega) [decodeMajor, hb, f, h_rd, h_ra, h_rb, decodeAluR, optOpcode, orOpcode, Nat.div_eq_of_lt, Nat.mod_eq_of_lt]
theorem rem (g : Guard) (rd : Fin 32) (ra : Fin 32) (rb : Fin 32) : Statement (.rem g rd ra rb) := by
  refine of_word rfl fun (h : (g.wf) = true) => ?_
  have h_rd := rd.isLt
  have h_ra := ra.isLt
  have h_rb := rb.isLt
  obtain ⟨r, e, f⟩ := encR_fields g 0x00 rd ra rb 13 (by omega) (by omega) (by omega) (by omega) (by omega)
  rw [e]
  refine decodeTableWord_control g r 0x00 f.1 h f.2.1 _ fun b hb => ?_
  simp (disch := omega) [decodeMajor, hb, f, h_rd, h_ra, h_rb, decodeAluR, optOpcode, orOpcode, Nat.div_eq_of_lt, Nat.mod_eq_of_lt]
theorem remu (g : Guard) (rd : Fin 32) (ra : Fin 32) (rb : Fin 32) : Statement (.remu g rd ra rb) := by
  refine of_word rfl fun (h : (g.wf) = true) => ?_
  have h_rd := rd.isLt
  have h_ra := ra.isLt
  have h_rb := rb.isLt
  obtain ⟨r, e, f⟩ := encR_fields g 0x00 rd ra rb 14 (by omega) (by omega) (by omega) (by omega) (by omega)
  rw [e]
  refine decodeTableWord_control g r 0x00 f.1 h f.2.1 _ fun b hb => ?_
  simp (disch := omega) [decodeMajor, hb, f, h_rd, h_ra, h_rb, decodeAluR, optOpcode, orOpcode, Nat.div_eq_of_lt, Nat.mod_eq_of_lt]
theorem min (g : Guard) (rd : Fin 32) (ra : Fin 32) (rb : Fin 32) : Statement (.min g rd ra rb) := by
  refine of_word rfl fun (h : (g.wf) = true) => ?_
  have h_rd := rd.isLt
  have h_ra := ra.isLt
  have h_rb := rb.isLt
  obtain ⟨r, e, f⟩ := encR_fields g 0x00 rd ra rb 15 (by omega) (by omega) (by omega) (by omega) (by omega)
  rw [e]
  refine decodeTableWord_control g r 0x00 f.1 h f.2.1 _ fun b hb => ?_
  simp (disch := omega) [decodeMajor, hb, f, h_rd, h_ra, h_rb, decodeAluR, optOpcode, orOpcode, Nat.div_eq_of_lt, Nat.mod_eq_of_lt]
theorem max (g : Guard) (rd : Fin 32) (ra : Fin 32) (rb : Fin 32) : Statement (.max g rd ra rb) := by
  refine of_word rfl fun (h : (g.wf) = true) => ?_
  have h_rd := rd.isLt
  have h_ra := ra.isLt
  have h_rb := rb.isLt
  obtain ⟨r, e, f⟩ := encR_fields g 0x00 rd ra rb 16 (by omega) (by omega) (by omega) (by omega) (by omega)
  rw [e]
  refine decodeTableWord_control g r 0x00 f.1 h f.2.1 _ fun b hb => ?_
  simp (disch := omega) [decodeMajor, hb, f, h_rd, h_ra, h_rb, decodeAluR, optOpcode, orOpcode, Nat.div_eq_of_lt, Nat.mod_eq_of_lt]
theorem minu (g : Guard) (rd : Fin 32) (ra : Fin 32) (rb : Fin 32) : Statement (.minu g rd ra rb) := by
  refine of_word rfl fun (h : (g.wf) = true) => ?_
  have h_rd := rd.isLt
  have h_ra := ra.isLt
  have h_rb := rb.isLt
  obtain ⟨r, e, f⟩ := encR_fields g 0x00 rd ra rb 17 (by omega) (by omega) (by omega) (by omega) (by omega)
  rw [e]
  refine decodeTableWord_control g r 0x00 f.1 h f.2.1 _ fun b hb => ?_
  simp (disch := omega) [decodeMajor, hb, f, h_rd, h_ra, h_rb, decodeAluR, optOpcode, orOpcode, Nat.div_eq_of_lt, Nat.mod_eq_of_lt]
theorem maxu (g : Guard) (rd : Fin 32) (ra : Fin 32) (rb : Fin 32) : Statement (.maxu g rd ra rb) := by
  refine of_word rfl fun (h : (g.wf) = true) => ?_
  have h_rd := rd.isLt
  have h_ra := ra.isLt
  have h_rb := rb.isLt
  obtain ⟨r, e, f⟩ := encR_fields g 0x00 rd ra rb 18 (by omega) (by omega) (by omega) (by omega) (by omega)
  rw [e]
  refine decodeTableWord_control g r 0x00 f.1 h f.2.1 _ fun b hb => ?_
  simp (disch := omega) [decodeMajor, hb, f, h_rd, h_ra, h_rb, decodeAluR, optOpcode, orOpcode, Nat.div_eq_of_lt, Nat.mod_eq_of_lt]
theorem clz (g : Guard) (rd : Fin 32) (ra : Fin 32) : Statement (.clz g rd ra) := by
  refine of_word rfl fun (h : (g.wf) = true) => ?_
  have h_rd := rd.isLt
  have h_ra := ra.isLt
  obtain ⟨r, e, f⟩ := encR_fields g 0x00 rd ra 0 0x13 (by omega) (by omega) (by omega) (by omega) (by omega)
  rw [e]
  refine decodeTableWord_control g r 0x00 f.1 h f.2.1 _ fun b hb => ?_
  simp (disch := omega) [decodeMajor, hb, f, h_rd, h_ra, decodeAluR, optOpcode, orOpcode, Nat.div_eq_of_lt, Nat.mod_eq_of_lt]
theorem popc (g : Guard) (rd : Fin 32) (ra : Fin 32) : Statement (.popc g rd ra) := by
  refine of_word rfl fun (h : (g.wf) = true) => ?_
  have h_rd := rd.isLt
  have h_ra := ra.isLt
  obtain ⟨r, e, f⟩ := encR_fields g 0x00 rd ra 0 0x14 (by omega) (by omega) (by omega) (by omega) (by omega)
  rw [e]
  refine decodeTableWord_control g r 0x00 f.1 h f.2.1 _ fun b hb => ?_
  simp (disch := omega) [decodeMajor, hb, f, h_rd, h_ra, decodeAluR, optOpcode, orOpcode, Nat.div_eq_of_lt, Nat.mod_eq_of_lt]
theorem andn (g : Guard) (rd : Fin 32) (ra : Fin 32) (rb : Fin 32) : Statement (.andn g rd ra rb) := by
  refine of_word rfl fun (h : (g.wf) = true) => ?_
  have h_rd := rd.isLt
  have h_ra := ra.isLt
  have h_rb := rb.isLt
  obtain ⟨r, e, f⟩ := encR_fields g 0x00 rd ra rb 0x15 (by omega) (by omega) (by omega) (by omega) (by omega)
  rw [e]
  refine decodeTableWord_control g r 0x00 f.1 h f.2.1 _ fun b hb => ?_
  simp (disch := omega) [decodeMajor, hb, f, h_rd, h_ra, h_rb, decodeAluR, optOpcode, orOpcode, Nat.div_eq_of_lt, Nat.mod_eq_of_lt]
theorem addi (g : Guard) (rd : Fin 32) (ra : Fin 32) (imm : BitVec 12) : Statement (.addi g rd ra imm) := by
  refine of_word rfl fun (h : (g.wf) = true) => ?_
  have h_rd := rd.isLt
  have h_ra := ra.isLt
  have h_imm := imm.isLt
  obtain ⟨r, e, f⟩ := encI_fields g 1 rd ra imm.toNat (by omega) (by omega) (by omega) (by omega)
  rw [e]
  refine decodeTableWord_control g r 1 f.1 h f.2.1 _ fun b hb => ?_
  simp (disch := omega) [decodeMajor, hb, f, h_rd, h_ra, h_imm, optOpcode, orOpcode, Nat.div_eq_of_lt, Nat.mod_eq_of_lt]
theorem andi (g : Guard) (rd : Fin 32) (ra : Fin 32) (imm : BitVec 12) : Statement (.andi g rd ra imm) := by
  refine of_word rfl fun (h : (g.wf) = true) => ?_
  have h_rd := rd.isLt
  have h_ra := ra.isLt
  have h_imm := imm.isLt
  obtain ⟨r, e, f⟩ := encI_fields g 2 rd ra imm.toNat (by omega) (by omega) (by omega) (by omega)
  rw [e]
  refine decodeTableWord_control g r 2 f.1 h f.2.1 _ fun b hb => ?_
  simp (disch := omega) [decodeMajor, hb, f, h_rd, h_ra, h_imm, optOpcode, orOpcode, Nat.div_eq_of_lt, Nat.mod_eq_of_lt]
theorem ori (g : Guard) (rd : Fin 32) (ra : Fin 32) (imm : BitVec 12) : Statement (.ori g rd ra imm) := by
  refine of_word rfl fun (h : (g.wf) = true) => ?_
  have h_rd := rd.isLt
  have h_ra := ra.isLt
  have h_imm := imm.isLt
  obtain ⟨r, e, f⟩ := encI_fields g 3 rd ra imm.toNat (by omega) (by omega) (by omega) (by omega)
  rw [e]
  refine decodeTableWord_control g r 3 f.1 h f.2.1 _ fun b hb => ?_
  simp (disch := omega) [decodeMajor, hb, f, h_rd, h_ra, h_imm, optOpcode, orOpcode, Nat.div_eq_of_lt, Nat.mod_eq_of_lt]
theorem xori (g : Guard) (rd : Fin 32) (ra : Fin 32) (imm : BitVec 12) : Statement (.xori g rd ra imm) := by
  refine of_word rfl fun (h : (g.wf) = true) => ?_
  have h_rd := rd.isLt
  have h_ra := ra.isLt
  have h_imm := imm.isLt
  obtain ⟨r, e, f⟩ := encI_fields g 4 rd ra imm.toNat (by omega) (by omega) (by omega) (by omega)
  rw [e]
  refine decodeTableWord_control g r 4 f.1 h f.2.1 _ fun b hb => ?_
  simp (disch := omega) [decodeMajor, hb, f, h_rd, h_ra, h_imm, optOpcode, orOpcode, Nat.div_eq_of_lt, Nat.mod_eq_of_lt]
theorem slli (g : Guard) (rd : Fin 32) (ra : Fin 32) (sh : Fin 64) : Statement (.slli g rd ra sh) := by
  refine of_word rfl fun (h : (g.wf) = true) => ?_
  have h_rd := rd.isLt
  have h_ra := ra.isLt
  have h_sh := sh.isLt
  obtain ⟨r, e, f⟩ := encI_fields g 0x05 rd ra (0 * 2 ^ 10 + sh.val) (by omega) (by omega) (by omega) (by omega)
  rw [e]
  refine decodeTableWord_control g r 0x05 f.1 h f.2.1 _ fun b hb => ?_
  have q0 : (0 * 2 ^ 10 + sh.val) / 64 % 16 = 0 := by omega
  have q1 : (0 * 2 ^ 10 + sh.val) / 1024 = 0 := by omega
  have q2 : (0 * 2 ^ 10 + sh.val) % 64 = sh := by omega
  simp only [q0, q1, q2] at f
  simp (disch := omega) [decodeMajor, hb, f, h_rd, h_ra, h_sh, optOpcode, orOpcode, Nat.div_eq_of_lt, Nat.mod_eq_of_lt]
theorem srli (g : Guard) (rd : Fin 32) (ra : Fin 32) (sh : Fin 64) : Statement (.srli g rd ra sh) := by
  refine of_word rfl fun (h : (g.wf) = true) => ?_
  have h_rd := rd.isLt
  have h_ra := ra.isLt
  have h_sh := sh.isLt
  obtain ⟨r, e, f⟩ := encI_fields g 0x05 rd ra (1 * 2 ^ 10 + sh.val) (by omega) (by omega) (by omega) (by omega)
  rw [e]
  refine decodeTableWord_control g r 0x05 f.1 h f.2.1 _ fun b hb => ?_
  have q0 : (1 * 2 ^ 10 + sh.val) / 64 % 16 = 0 := by omega
  have q1 : (1 * 2 ^ 10 + sh.val) / 1024 = 1 := by omega
  have q2 : (1 * 2 ^ 10 + sh.val) % 64 = sh := by omega
  simp only [q0, q1, q2] at f
  simp (disch := omega) [decodeMajor, hb, f, h_rd, h_ra, h_sh, optOpcode, orOpcode, Nat.div_eq_of_lt, Nat.mod_eq_of_lt]
theorem srai (g : Guard) (rd : Fin 32) (ra : Fin 32) (sh : Fin 64) : Statement (.srai g rd ra sh) := by
  refine of_word rfl fun (h : (g.wf) = true) => ?_
  have h_rd := rd.isLt
  have h_ra := ra.isLt
  have h_sh := sh.isLt
  obtain ⟨r, e, f⟩ := encI_fields g 0x05 rd ra (2 * 2 ^ 10 + sh.val) (by omega) (by omega) (by omega) (by omega)
  rw [e]
  refine decodeTableWord_control g r 0x05 f.1 h f.2.1 _ fun b hb => ?_
  have q0 : (2 * 2 ^ 10 + sh.val) / 64 % 16 = 0 := by omega
  have q1 : (2 * 2 ^ 10 + sh.val) / 1024 = 2 := by omega
  have q2 : (2 * 2 ^ 10 + sh.val) % 64 = sh := by omega
  simp only [q0, q1, q2] at f
  simp (disch := omega) [decodeMajor, hb, f, h_rd, h_ra, h_sh, optOpcode, orOpcode, Nat.div_eq_of_lt, Nat.mod_eq_of_lt]
theorem liu (g : Guard) (rd : Fin 32) (imm : BitVec 17) : Statement (.liu g rd imm) := by
  refine of_word rfl fun (h : (g.wf) = true) => ?_
  have h_rd := rd.isLt
  have h_imm := imm.isLt
  obtain ⟨r, e, f⟩ := encB_fields g 0x06 (rd.val * 2 ^ 17 + imm.toNat) (by omega) (by omega)
  rw [show g.toNat + 0x06 * 2 ^ 22 + rd.val * 2 ^ 17 + imm.toNat = encB g 0x06 (rd.val * 2 ^ 17 + imm.toNat) from by unfold encB; omega, e]
  refine decodeTableWord_control g r 0x06 f.1 h f.2.1 _ fun b hb => ?_
  have q0 : (rd.val * 2 ^ 17 + imm.toNat) / 2 ^ 17 = rd := by omega
  have q1 : (rd.val * 2 ^ 17 + imm.toNat) % 2 ^ 17 = imm.toNat := by omega
  simp only [q0, q1] at f
  simp (disch := omega) [decodeMajor, hb, f, h_rd, h_imm, optOpcode, orOpcode, Nat.div_eq_of_lt, Nat.mod_eq_of_lt]
theorem addpc (g : Guard) (rd : Fin 32) (imm : BitVec 17) : Statement (.addpc g rd imm) := by
  refine of_word rfl fun (h : (g.wf) = true) => ?_
  have h_rd := rd.isLt
  have h_imm := imm.isLt
  obtain ⟨r, e, f⟩ := encB_fields g 0x07 (rd.val * 2 ^ 17 + imm.toNat) (by omega) (by omega)
  rw [show g.toNat + 0x07 * 2 ^ 22 + rd.val * 2 ^ 17 + imm.toNat = encB g 0x07 (rd.val * 2 ^ 17 + imm.toNat) from by unfold encB; omega, e]
  refine decodeTableWord_control g r 0x07 f.1 h f.2.1 _ fun b hb => ?_
  have q0 : (rd.val * 2 ^ 17 + imm.toNat) / 2 ^ 17 = rd := by omega
  have q1 : (rd.val * 2 ^ 17 + imm.toNat) % 2 ^ 17 = imm.toNat := by omega
  simp only [q0, q1] at f
  simp (disch := omega) [decodeMajor, hb, f, h_rd, h_imm, optOpcode, orOpcode, Nat.div_eq_of_lt, Nat.mod_eq_of_lt]
theorem cmp (g : Guard) (pd : Fin 8) (ra : Fin 32) (rb : Fin 32) (c : Cond) : Statement (.cmp g pd ra rb c) := by
  refine of_word rfl fun (h : (g.wf) = true) => ?_
  have h_pd := pd.isLt
  have h_ra := ra.isLt
  have h_rb := rb.isLt
  have h_c := condCode c
  obtain ⟨r, e, f⟩ := encR_fields g 0x08 pd ra rb c.toCode (by omega) (by omega) (by omega) (by omega) (by omega)
  rw [e]
  refine decodeTableWord_control g r 0x08 f.1 h f.2.1 _ fun b hb => ?_
  simp (disch := omega) [decodeMajor, hb, f, h_pd, h_ra, h_rb, h_c, optOpcode, orOpcode, Nat.div_eq_of_lt, Nat.mod_eq_of_lt]
theorem cmpi (g : Guard) (c : Cond) (pd : Fin 8) (ra : Fin 32) (imm : BitVec 12) : Statement (.cmpi g c pd ra imm) := by
  refine of_word rfl fun (h : (g.wf && c.immediate) = true) => ?_
  simp only [Bool.and_eq_true] at h
  have h_c := condCode c
  have h_pd := pd.isLt
  have h_ra := ra.isLt
  have h_imm := imm.isLt
  have h_ic := condImm c h.2
  obtain ⟨r, e, f⟩ := encI_fields g 0x09 (c.toCode * 8 + pd.val) ra imm.toNat (by omega) (by omega) (by omega) (by omega)
  rw [e]
  refine decodeTableWord_control g r 0x09 f.1 h.1 f.2.1 _ fun b hb => ?_
  have q0 : (c.toCode * 8 + pd.val) / 8 = c.toCode := by omega
  have q1 : (c.toCode * 8 + pd.val) % 8 = pd := by omega
  simp only [q0, q1] at f
  simp (disch := omega) [decodeMajor, hb, f, h_c, h_pd, h_ra, h_imm, h, optOpcode, orOpcode, Nat.div_eq_of_lt, Nat.mod_eq_of_lt]
theorem plog (g : Guard) (pd : Fin 8) (pa : Fin 8) (pb : Fin 8) (t : BitVec 4) : Statement (.plog g pd pa pb t) := by
  refine of_word rfl fun (h : (g.wf) = true) => ?_
  have h_pd := pd.isLt
  have h_pa := pa.isLt
  have h_pb := pb.isLt
  have h_t := t.isLt
  obtain ⟨r, e, f⟩ := encR_fields g 0x0A pd pa pb t.toNat (by omega) (by omega) (by omega) (by omega) (by omega)
  rw [e]
  refine decodeTableWord_control g r 0x0A f.1 h f.2.1 _ fun b hb => ?_
  simp (disch := omega) [decodeMajor, hb, f, h_pd, h_pa, h_pb, h_t, optOpcode, orOpcode, Nat.div_eq_of_lt, Nat.mod_eq_of_lt]
theorem sel (g : Guard) (rd : Fin 32) (ra : Fin 32) (rb : Fin 32) (pc : Fin 8) : Statement (.sel g rd ra rb pc) := by
  refine of_word rfl fun (h : (g.wf) = true) => ?_
  have h_rd := rd.isLt
  have h_ra := ra.isLt
  have h_rb := rb.isLt
  have h_pc := pc.isLt
  obtain ⟨r, e, f⟩ := encR_fields g 0x0B rd ra rb pc (by omega) (by omega) (by omega) (by omega) (by omega)
  rw [e]
  refine decodeTableWord_control g r 0x0B f.1 h f.2.1 _ fun b hb => ?_
  simp (disch := omega) [decodeMajor, hb, f, h_rd, h_ra, h_rb, h_pc, optOpcode, orOpcode, Nat.div_eq_of_lt, Nat.mod_eq_of_lt]
theorem br (g : Guard) (off : BitVec 22) : Statement (.br g off) := by
  refine of_word rfl fun (h : (g.wf) = true) => ?_
  have h_off := off.isLt
  obtain ⟨r, e, f⟩ := encB_fields g 0x0C off.toNat (by omega) (by omega)
  rw [e]
  refine decodeTableWord_control g r 0x0C f.1 h f.2.1 _ fun b hb => ?_
  simp (disch := omega) [decodeMajor, hb, f, h_off, optOpcode, orOpcode, Nat.div_eq_of_lt, Nat.mod_eq_of_lt]
theorem jal (g : Guard) (off : BitVec 22) : Statement (.jal g off) := by
  refine of_word rfl fun (h : (g.wf) = true) => ?_
  have h_off := off.isLt
  obtain ⟨r, e, f⟩ := encB_fields g 0x0D off.toNat (by omega) (by omega)
  rw [e]
  refine decodeTableWord_control g r 0x0D f.1 h f.2.1 _ fun b hb => ?_
  simp (disch := omega) [decodeMajor, hb, f, h_off, optOpcode, orOpcode, Nat.div_eq_of_lt, Nat.mod_eq_of_lt]
theorem jalr (g : Guard) (rd : Fin 32) (ra : Fin 32) (imm : BitVec 12) : Statement (.jalr g rd ra imm) := by
  refine of_word rfl fun (h : (g.wf) = true) => ?_
  have h_rd := rd.isLt
  have h_ra := ra.isLt
  have h_imm := imm.isLt
  obtain ⟨r, e, f⟩ := encI_fields g 0x0E rd ra imm.toNat (by omega) (by omega) (by omega) (by omega)
  rw [e]
  refine decodeTableWord_control g r 0x0E f.1 h f.2.1 _ fun b hb => ?_
  simp (disch := omega) [decodeMajor, hb, f, h_rd, h_ra, h_imm, optOpcode, orOpcode, Nat.div_eq_of_lt, Nat.mod_eq_of_lt]
theorem ldb (g : Guard) (rd : Fin 32) (ra : Fin 32) (cls : Fin 16) (imm : BitVec 8) : Statement (.ldb g rd ra cls imm) := by
  refine of_word rfl fun (h : (g.wf) = true) => ?_
  have h_rd := rd.isLt
  have h_ra := ra.isLt
  have h_cls := cls.isLt
  have h_imm := imm.isLt
  obtain ⟨r, e, f⟩ := encM_fields g 0x10 rd ra cls imm.toNat (by omega) (by omega) (by omega) (by omega) (by omega)
  rw [e]
  refine decodeTableWord_control g r 0x10 f.1 h f.2.1 _ fun b hb => ?_
  simp (disch := omega) [decodeMajor, hb, f, h_rd, h_ra, h_cls, h_imm, optOpcode, orOpcode, Nat.div_eq_of_lt, Nat.mod_eq_of_lt]
theorem ldh (g : Guard) (rd : Fin 32) (ra : Fin 32) (cls : Fin 16) (imm : BitVec 8) : Statement (.ldh g rd ra cls imm) := by
  refine of_word rfl fun (h : (g.wf) = true) => ?_
  have h_rd := rd.isLt
  have h_ra := ra.isLt
  have h_cls := cls.isLt
  have h_imm := imm.isLt
  obtain ⟨r, e, f⟩ := encM_fields g 0x11 rd ra cls imm.toNat (by omega) (by omega) (by omega) (by omega) (by omega)
  rw [e]
  refine decodeTableWord_control g r 0x11 f.1 h f.2.1 _ fun b hb => ?_
  simp (disch := omega) [decodeMajor, hb, f, h_rd, h_ra, h_cls, h_imm, optOpcode, orOpcode, Nat.div_eq_of_lt, Nat.mod_eq_of_lt]
theorem ldw (g : Guard) (rd : Fin 32) (ra : Fin 32) (cls : Fin 16) (imm : BitVec 8) : Statement (.ldw g rd ra cls imm) := by
  refine of_word rfl fun (h : (g.wf) = true) => ?_
  have h_rd := rd.isLt
  have h_ra := ra.isLt
  have h_cls := cls.isLt
  have h_imm := imm.isLt
  obtain ⟨r, e, f⟩ := encM_fields g 0x12 rd ra cls imm.toNat (by omega) (by omega) (by omega) (by omega) (by omega)
  rw [e]
  refine decodeTableWord_control g r 0x12 f.1 h f.2.1 _ fun b hb => ?_
  simp (disch := omega) [decodeMajor, hb, f, h_rd, h_ra, h_cls, h_imm, optOpcode, orOpcode, Nat.div_eq_of_lt, Nat.mod_eq_of_lt]
theorem ldd (g : Guard) (rd : Fin 32) (ra : Fin 32) (cls : Fin 16) (imm : BitVec 8) : Statement (.ldd g rd ra cls imm) := by
  refine of_word rfl fun (h : (g.wf) = true) => ?_
  have h_rd := rd.isLt
  have h_ra := ra.isLt
  have h_cls := cls.isLt
  have h_imm := imm.isLt
  obtain ⟨r, e, f⟩ := encM_fields g 0x13 rd ra cls imm.toNat (by omega) (by omega) (by omega) (by omega) (by omega)
  rw [e]
  refine decodeTableWord_control g r 0x13 f.1 h f.2.1 _ fun b hb => ?_
  simp (disch := omega) [decodeMajor, hb, f, h_rd, h_ra, h_cls, h_imm, optOpcode, orOpcode, Nat.div_eq_of_lt, Nat.mod_eq_of_lt]
theorem ldbu (g : Guard) (rd : Fin 32) (ra : Fin 32) (cls : Fin 16) (imm : BitVec 8) : Statement (.ldbu g rd ra cls imm) := by
  refine of_word rfl fun (h : (g.wf) = true) => ?_
  have h_rd := rd.isLt
  have h_ra := ra.isLt
  have h_cls := cls.isLt
  have h_imm := imm.isLt
  obtain ⟨r, e, f⟩ := encM_fields g 0x14 rd ra cls imm.toNat (by omega) (by omega) (by omega) (by omega) (by omega)
  rw [e]
  refine decodeTableWord_control g r 0x14 f.1 h f.2.1 _ fun b hb => ?_
  simp (disch := omega) [decodeMajor, hb, f, h_rd, h_ra, h_cls, h_imm, optOpcode, orOpcode, Nat.div_eq_of_lt, Nat.mod_eq_of_lt]
theorem ldhu (g : Guard) (rd : Fin 32) (ra : Fin 32) (cls : Fin 16) (imm : BitVec 8) : Statement (.ldhu g rd ra cls imm) := by
  refine of_word rfl fun (h : (g.wf) = true) => ?_
  have h_rd := rd.isLt
  have h_ra := ra.isLt
  have h_cls := cls.isLt
  have h_imm := imm.isLt
  obtain ⟨r, e, f⟩ := encM_fields g 0x15 rd ra cls imm.toNat (by omega) (by omega) (by omega) (by omega) (by omega)
  rw [e]
  refine decodeTableWord_control g r 0x15 f.1 h f.2.1 _ fun b hb => ?_
  simp (disch := omega) [decodeMajor, hb, f, h_rd, h_ra, h_cls, h_imm, optOpcode, orOpcode, Nat.div_eq_of_lt, Nat.mod_eq_of_lt]
theorem ldwu (g : Guard) (rd : Fin 32) (ra : Fin 32) (cls : Fin 16) (imm : BitVec 8) : Statement (.ldwu g rd ra cls imm) := by
  refine of_word rfl fun (h : (g.wf) = true) => ?_
  have h_rd := rd.isLt
  have h_ra := ra.isLt
  have h_cls := cls.isLt
  have h_imm := imm.isLt
  obtain ⟨r, e, f⟩ := encM_fields g 0x16 rd ra cls imm.toNat (by omega) (by omega) (by omega) (by omega) (by omega)
  rw [e]
  refine decodeTableWord_control g r 0x16 f.1 h f.2.1 _ fun b hb => ?_
  simp (disch := omega) [decodeMajor, hb, f, h_rd, h_ra, h_cls, h_imm, optOpcode, orOpcode, Nat.div_eq_of_lt, Nat.mod_eq_of_lt]
theorem ldfeW (g : Guard) (rd : Fin 32) (ra : Fin 32) (cls : Fin 16) (imm : BitVec 6) : Statement (.ldfeW g rd ra cls imm) := by
  refine of_word rfl fun (h : (g.wf) = true) => ?_
  have h_rd := rd.isLt
  have h_ra := ra.isLt
  have h_cls := cls.isLt
  have h_imm := imm.isLt
  obtain ⟨r, e, f⟩ := encM_fields g 0x17 rd ra cls (0 * 64 + imm.toNat) (by omega) (by omega) (by omega) (by omega) (by omega)
  rw [e]
  refine decodeTableWord_control g r 0x17 f.1 h f.2.1 _ fun b hb => ?_
  have q0 : (0 * 64 + imm.toNat) / 64 = 0 := by omega
  have q1 : (0 * 64 + imm.toNat) % 64 = imm.toNat := by omega
  simp only [q0, q1] at f
  simp (disch := omega) [decodeMajor, hb, f, h_rd, h_ra, h_cls, h_imm, optOpcode, orOpcode, Nat.div_eq_of_lt, Nat.mod_eq_of_lt]
theorem ldfeE (g : Guard) (rd : Fin 32) (ra : Fin 32) (cls : Fin 16) (imm : BitVec 6) : Statement (.ldfeE g rd ra cls imm) := by
  refine of_word rfl fun (h : (g.wf) = true) => ?_
  have h_rd := rd.isLt
  have h_ra := ra.isLt
  have h_cls := cls.isLt
  have h_imm := imm.isLt
  obtain ⟨r, e, f⟩ := encM_fields g 0x17 rd ra cls (1 * 64 + imm.toNat) (by omega) (by omega) (by omega) (by omega) (by omega)
  rw [e]
  refine decodeTableWord_control g r 0x17 f.1 h f.2.1 _ fun b hb => ?_
  have q0 : (1 * 64 + imm.toNat) / 64 = 1 := by omega
  have q1 : (1 * 64 + imm.toNat) % 64 = imm.toNat := by omega
  simp only [q0, q1] at f
  simp (disch := omega) [decodeMajor, hb, f, h_rd, h_ra, h_cls, h_imm, optOpcode, orOpcode, Nat.div_eq_of_lt, Nat.mod_eq_of_lt]
theorem ldfeN (g : Guard) (rd : Fin 32) (ra : Fin 32) (cls : Fin 16) (imm : BitVec 6) : Statement (.ldfeN g rd ra cls imm) := by
  refine of_word rfl fun (h : (g.wf) = true) => ?_
  have h_rd := rd.isLt
  have h_ra := ra.isLt
  have h_cls := cls.isLt
  have h_imm := imm.isLt
  obtain ⟨r, e, f⟩ := encM_fields g 0x17 rd ra cls (2 * 64 + imm.toNat) (by omega) (by omega) (by omega) (by omega) (by omega)
  rw [e]
  refine decodeTableWord_control g r 0x17 f.1 h f.2.1 _ fun b hb => ?_
  have q0 : (2 * 64 + imm.toNat) / 64 = 2 := by omega
  have q1 : (2 * 64 + imm.toNat) % 64 = imm.toNat := by omega
  simp only [q0, q1] at f
  simp (disch := omega) [decodeMajor, hb, f, h_rd, h_ra, h_cls, h_imm, optOpcode, orOpcode, Nat.div_eq_of_lt, Nat.mod_eq_of_lt]
theorem stb (g : Guard) (rs : Fin 32) (ra : Fin 32) (cls : Fin 16) (imm : BitVec 8) : Statement (.stb g rs ra cls imm) := by
  refine of_word rfl fun (h : (g.wf) = true) => ?_
  have h_rs := rs.isLt
  have h_ra := ra.isLt
  have h_cls := cls.isLt
  have h_imm := imm.isLt
  obtain ⟨r, e, f⟩ := encM_fields g 0x18 rs ra cls imm.toNat (by omega) (by omega) (by omega) (by omega) (by omega)
  rw [e]
  refine decodeTableWord_control g r 0x18 f.1 h f.2.1 _ fun b hb => ?_
  simp (disch := omega) [decodeMajor, hb, f, h_rs, h_ra, h_cls, h_imm, optOpcode, orOpcode, Nat.div_eq_of_lt, Nat.mod_eq_of_lt]
theorem sth (g : Guard) (rs : Fin 32) (ra : Fin 32) (cls : Fin 16) (imm : BitVec 8) : Statement (.sth g rs ra cls imm) := by
  refine of_word rfl fun (h : (g.wf) = true) => ?_
  have h_rs := rs.isLt
  have h_ra := ra.isLt
  have h_cls := cls.isLt
  have h_imm := imm.isLt
  obtain ⟨r, e, f⟩ := encM_fields g 0x19 rs ra cls imm.toNat (by omega) (by omega) (by omega) (by omega) (by omega)
  rw [e]
  refine decodeTableWord_control g r 0x19 f.1 h f.2.1 _ fun b hb => ?_
  simp (disch := omega) [decodeMajor, hb, f, h_rs, h_ra, h_cls, h_imm, optOpcode, orOpcode, Nat.div_eq_of_lt, Nat.mod_eq_of_lt]
theorem stw (g : Guard) (rs : Fin 32) (ra : Fin 32) (cls : Fin 16) (imm : BitVec 8) : Statement (.stw g rs ra cls imm) := by
  refine of_word rfl fun (h : (g.wf) = true) => ?_
  have h_rs := rs.isLt
  have h_ra := ra.isLt
  have h_cls := cls.isLt
  have h_imm := imm.isLt
  obtain ⟨r, e, f⟩ := encM_fields g 0x1A rs ra cls imm.toNat (by omega) (by omega) (by omega) (by omega) (by omega)
  rw [e]
  refine decodeTableWord_control g r 0x1A f.1 h f.2.1 _ fun b hb => ?_
  simp (disch := omega) [decodeMajor, hb, f, h_rs, h_ra, h_cls, h_imm, optOpcode, orOpcode, Nat.div_eq_of_lt, Nat.mod_eq_of_lt]
theorem std (g : Guard) (rs : Fin 32) (ra : Fin 32) (cls : Fin 16) (imm : BitVec 8) : Statement (.std g rs ra cls imm) := by
  refine of_word rfl fun (h : (g.wf) = true) => ?_
  have h_rs := rs.isLt
  have h_ra := ra.isLt
  have h_cls := cls.isLt
  have h_imm := imm.isLt
  obtain ⟨r, e, f⟩ := encM_fields g 0x1B rs ra cls imm.toNat (by omega) (by omega) (by omega) (by omega) (by omega)
  rw [e]
  refine decodeTableWord_control g r 0x1B f.1 h f.2.1 _ fun b hb => ?_
  simp (disch := omega) [decodeMajor, hb, f, h_rs, h_ra, h_cls, h_imm, optOpcode, orOpcode, Nat.div_eq_of_lt, Nat.mod_eq_of_lt]
theorem stfeF (g : Guard) (rs : Fin 32) (ra : Fin 32) (cls : Fin 16) (imm : BitVec 6) : Statement (.stfeF g rs ra cls imm) := by
  refine of_word rfl fun (h : (g.wf) = true) => ?_
  have h_rs := rs.isLt
  have h_ra := ra.isLt
  have h_cls := cls.isLt
  have h_imm := imm.isLt
  obtain ⟨r, e, f⟩ := encM_fields g 0x1C rs ra cls (0 * 64 + imm.toNat) (by omega) (by omega) (by omega) (by omega) (by omega)
  rw [e]
  refine decodeTableWord_control g r 0x1C f.1 h f.2.1 _ fun b hb => ?_
  have q0 : (0 * 64 + imm.toNat) / 64 = 0 := by omega
  have q1 : (0 * 64 + imm.toNat) % 64 = imm.toNat := by omega
  simp only [q0, q1] at f
  simp (disch := omega) [decodeMajor, hb, f, h_rs, h_ra, h_cls, h_imm, optOpcode, orOpcode, Nat.div_eq_of_lt, Nat.mod_eq_of_lt]
theorem stfeWe (g : Guard) (rs : Fin 32) (ra : Fin 32) (cls : Fin 16) (imm : BitVec 6) : Statement (.stfeWe g rs ra cls imm) := by
  refine of_word rfl fun (h : (g.wf) = true) => ?_
  have h_rs := rs.isLt
  have h_ra := ra.isLt
  have h_cls := cls.isLt
  have h_imm := imm.isLt
  obtain ⟨r, e, f⟩ := encM_fields g 0x1C rs ra cls (1 * 64 + imm.toNat) (by omega) (by omega) (by omega) (by omega) (by omega)
  rw [e]
  refine decodeTableWord_control g r 0x1C f.1 h f.2.1 _ fun b hb => ?_
  have q0 : (1 * 64 + imm.toNat) / 64 = 1 := by omega
  have q1 : (1 * 64 + imm.toNat) % 64 = imm.toNat := by omega
  simp only [q0, q1] at f
  simp (disch := omega) [decodeMajor, hb, f, h_rs, h_ra, h_cls, h_imm, optOpcode, orOpcode, Nat.div_eq_of_lt, Nat.mod_eq_of_lt]
theorem feqQ (g : Guard) (rd : Fin 32) (ra : Fin 32) (cls : Fin 16) (imm : BitVec 6) : Statement (.feqQ g rd ra cls imm) := by
  refine of_word rfl fun (h : (g.wf) = true) => ?_
  have h_rd := rd.isLt
  have h_ra := ra.isLt
  have h_cls := cls.isLt
  have h_imm := imm.isLt
  obtain ⟨r, e, f⟩ := encM_fields g 0x1D rd ra cls imm.toNat (by omega) (by omega) (by omega) (by omega) (by omega)
  rw [e]
  refine decodeTableWord_control g r 0x1D f.1 h f.2.1 _ fun b hb => ?_
  simp (disch := omega) [decodeMajor, hb, f, h_rd, h_ra, h_cls, h_imm, optOpcode, orOpcode, Nat.div_eq_of_lt, Nat.mod_eq_of_lt]
theorem feqClr (g : Guard) (ra : Fin 32) (cls : Fin 16) (imm : BitVec 6) : Statement (.feqClr g ra cls imm) := by
  refine of_word rfl fun (h : (g.wf) = true) => ?_
  have h_ra := ra.isLt
  have h_cls := cls.isLt
  have h_imm := imm.isLt
  obtain ⟨r, e, f⟩ := encM_fields g 0x1D 0 ra cls (1 * 64 + imm.toNat) (by omega) (by omega) (by omega) (by omega) (by omega)
  rw [e]
  refine decodeTableWord_control g r 0x1D f.1 h f.2.1 _ fun b hb => ?_
  have q0 : (1 * 64 + imm.toNat) / 64 = 1 := by omega
  have q1 : (1 * 64 + imm.toNat) % 64 = imm.toNat := by omega
  simp only [q0, q1] at f
  simp (disch := omega) [decodeMajor, hb, f, h_ra, h_cls, h_imm, optOpcode, orOpcode, Nat.div_eq_of_lt, Nat.mod_eq_of_lt]
theorem feqSet (g : Guard) (ra : Fin 32) (cls : Fin 16) (imm : BitVec 6) : Statement (.feqSet g ra cls imm) := by
  refine of_word rfl fun (h : (g.wf) = true) => ?_
  have h_ra := ra.isLt
  have h_cls := cls.isLt
  have h_imm := imm.isLt
  obtain ⟨r, e, f⟩ := encM_fields g 0x1D 0 ra cls (2 * 64 + imm.toNat) (by omega) (by omega) (by omega) (by omega) (by omega)
  rw [e]
  refine decodeTableWord_control g r 0x1D f.1 h f.2.1 _ fun b hb => ?_
  have q0 : (2 * 64 + imm.toNat) / 64 = 2 := by omega
  have q1 : (2 * 64 + imm.toNat) % 64 = imm.toNat := by omega
  simp only [q0, q1] at f
  simp (disch := omega) [decodeMajor, hb, f, h_ra, h_cls, h_imm, optOpcode, orOpcode, Nat.div_eq_of_lt, Nat.mod_eq_of_lt]
theorem invr (g : Guard) (ra : Fin 32) (rb : Fin 32) : Statement (.invr g ra rb) := by
  refine of_word rfl fun (h : (g.wf) = true) => ?_
  have h_ra := ra.isLt
  have h_rb := rb.isLt
  obtain ⟨r, e, f⟩ := encR_fields g 0x1E 0 ra rb 0 (by omega) (by omega) (by omega) (by omega) (by omega)
  rw [e]
  refine decodeTableWord_control g r 0x1E f.1 h f.2.1 _ fun b hb => ?_
  simp (disch := omega) [decodeMajor, hb, f, h_ra, h_rb, optOpcode, orOpcode, Nat.div_eq_of_lt, Nat.mod_eq_of_lt]
theorem wbr (g : Guard) (ra : Fin 32) (rb : Fin 32) : Statement (.wbr g ra rb) := by
  refine of_word rfl fun (h : (g.wf) = true) => ?_
  have h_ra := ra.isLt
  have h_rb := rb.isLt
  obtain ⟨r, e, f⟩ := encR_fields g 0x1E 0 ra rb 1 (by omega) (by omega) (by omega) (by omega) (by omega)
  rw [e]
  refine decodeTableWord_control g r 0x1E f.1 h f.2.1 _ fun b hb => ?_
  simp (disch := omega) [decodeMajor, hb, f, h_ra, h_rb, optOpcode, orOpcode, Nat.div_eq_of_lt, Nat.mod_eq_of_lt]
theorem wbinvr (g : Guard) (ra : Fin 32) (rb : Fin 32) : Statement (.wbinvr g ra rb) := by
  refine of_word rfl fun (h : (g.wf) = true) => ?_
  have h_ra := ra.isLt
  have h_rb := rb.isLt
  obtain ⟨r, e, f⟩ := encR_fields g 0x1E 0 ra rb 2 (by omega) (by omega) (by omega) (by omega) (by omega)
  rw [e]
  refine decodeTableWord_control g r 0x1E f.1 h f.2.1 _ fun b hb => ?_
  simp (disch := omega) [decodeMajor, hb, f, h_ra, h_rb, optOpcode, orOpcode, Nat.div_eq_of_lt, Nat.mod_eq_of_lt]
theorem invi (g : Guard) : Statement (.invi g) := by
  refine of_word rfl fun (h : (g.wf) = true) => ?_
  obtain ⟨r, e, f⟩ := encR_fields g 0x1E 0 0 0 3 (by omega) (by omega) (by omega) (by omega) (by omega)
  rw [e]
  refine decodeTableWord_control g r 0x1E f.1 h f.2.1 _ fun b hb => ?_
  simp (disch := omega) [decodeMajor, hb, f, optOpcode, orOpcode, Nat.div_eq_of_lt, Nat.mod_eq_of_lt]
theorem fenceCls (g : Guard) (mask : BitVec 16) : Statement (.fenceCls g mask) := by
  refine of_word rfl fun (h : (g.wf) = true) => ?_
  have h_mask := mask.isLt
  obtain ⟨r, e, f⟩ := encB_fields g 0x1F mask.toNat (by omega) (by omega)
  rw [e]
  refine decodeTableWord_control g r 0x1F f.1 h f.2.1 _ fun b hb => ?_
  simp (disch := omega) [decodeMajor, hb, f, h_mask, decodeFence, optOpcode, orOpcode, Nat.div_eq_of_lt, Nat.mod_eq_of_lt]
theorem fenceRel (g : Guard) (sc : Scope) (mask : BitVec 16) : Statement (.fenceRel g sc mask) := by
  refine of_word rfl fun (h : (g.wf) = true) => ?_
  have h_sc := scopeCode sc
  have h_mask := mask.isLt
  obtain ⟨r, e, f⟩ := encB_fields g 0x1F (1 * 2 ^ 20 + sc.toCode * 2 ^ 17 + mask.toNat) (by omega) (by omega)
  rw [e]
  refine decodeTableWord_control g r 0x1F f.1 h f.2.1 _ fun b hb => ?_
  have q0 : (1 * 2 ^ 20 + sc.toCode * 2 ^ 17 + mask.toNat) / 2 ^ 20 = 1 := by omega
  have q1 : (1 * 2 ^ 20 + sc.toCode * 2 ^ 17 + mask.toNat) / 2 ^ 17 % 8 = sc.toCode := by omega
  have q2 : (1 * 2 ^ 20 + sc.toCode * 2 ^ 17 + mask.toNat) / 2 ^ 16 % 2 = 0 := by omega
  have q3 : (1 * 2 ^ 20 + sc.toCode * 2 ^ 17 + mask.toNat) % 2 ^ 16 = mask.toNat := by omega
  simp only [q0, q1, q2, q3] at f
  simp (disch := omega) [decodeMajor, hb, f, h_sc, h_mask, decodeFence, optOpcode, orOpcode, Nat.div_eq_of_lt, Nat.mod_eq_of_lt]
theorem fenceAcq (g : Guard) (sc : Scope) (mask : BitVec 16) : Statement (.fenceAcq g sc mask) := by
  refine of_word rfl fun (h : (g.wf) = true) => ?_
  have h_sc := scopeCode sc
  have h_mask := mask.isLt
  obtain ⟨r, e, f⟩ := encB_fields g 0x1F (2 * 2 ^ 20 + sc.toCode * 2 ^ 17 + mask.toNat) (by omega) (by omega)
  rw [e]
  refine decodeTableWord_control g r 0x1F f.1 h f.2.1 _ fun b hb => ?_
  have q0 : (2 * 2 ^ 20 + sc.toCode * 2 ^ 17 + mask.toNat) / 2 ^ 20 = 2 := by omega
  have q1 : (2 * 2 ^ 20 + sc.toCode * 2 ^ 17 + mask.toNat) / 2 ^ 17 % 8 = sc.toCode := by omega
  have q2 : (2 * 2 ^ 20 + sc.toCode * 2 ^ 17 + mask.toNat) / 2 ^ 16 % 2 = 0 := by omega
  have q3 : (2 * 2 ^ 20 + sc.toCode * 2 ^ 17 + mask.toNat) % 2 ^ 16 = mask.toNat := by omega
  simp only [q0, q1, q2, q3] at f
  simp (disch := omega) [decodeMajor, hb, f, h_sc, h_mask, decodeFence, optOpcode, orOpcode, Nat.div_eq_of_lt, Nat.mod_eq_of_lt]
theorem fenceAr (g : Guard) (sc : Scope) (mask : BitVec 16) : Statement (.fenceAr g sc mask) := by
  refine of_word rfl fun (h : (g.wf) = true) => ?_
  have h_sc := scopeCode sc
  have h_mask := mask.isLt
  obtain ⟨r, e, f⟩ := encB_fields g 0x1F (3 * 2 ^ 20 + sc.toCode * 2 ^ 17 + mask.toNat) (by omega) (by omega)
  rw [e]
  refine decodeTableWord_control g r 0x1F f.1 h f.2.1 _ fun b hb => ?_
  have q0 : (3 * 2 ^ 20 + sc.toCode * 2 ^ 17 + mask.toNat) / 2 ^ 20 = 3 := by omega
  have q1 : (3 * 2 ^ 20 + sc.toCode * 2 ^ 17 + mask.toNat) / 2 ^ 17 % 8 = sc.toCode := by omega
  have q2 : (3 * 2 ^ 20 + sc.toCode * 2 ^ 17 + mask.toNat) / 2 ^ 16 % 2 = 0 := by omega
  have q3 : (3 * 2 ^ 20 + sc.toCode * 2 ^ 17 + mask.toNat) % 2 ^ 16 = mask.toNat := by omega
  simp only [q0, q1, q2, q3] at f
  simp (disch := omega) [decodeMajor, hb, f, h_sc, h_mask, decodeFence, optOpcode, orOpcode, Nat.div_eq_of_lt, Nat.mod_eq_of_lt]
theorem amoSwap (g : Guard) (rd : Fin 32) (ra : Fin 32) (rb : Fin 32) (cls : Fin 4) (dbl : Bool) : Statement (.amoSwap g rd ra rb cls dbl) := by
  refine of_word rfl fun (h : (g.wf) = true) => ?_
  have h_rd := rd.isLt
  have h_ra := ra.isLt
  have h_rb := rb.isLt
  have h_cls := cls.isLt
  have h_dbl := b01_lt dbl
  obtain ⟨r, e, f⟩ := encR_fields g 0x20 rd ra rb (cls.val * 32 + b01 dbl * 16 + 0) (by omega) (by omega) (by omega) (by omega) (by omega)
  rw [e]
  refine decodeTableWord_control g r 0x20 f.1 h f.2.1 _ fun b hb => ?_
  have q1 : (cls.val * 32 + b01 dbl * 16 + 0) / 32 = cls := by omega
  have q2 : (cls.val * 32 + b01 dbl * 16 + 0) / 16 % 2 = b01 dbl := by omega
  have q3 : (cls.val * 32 + b01 dbl * 16 + 0) % 16 = 0 := by omega
  rw [q1, q2, q3] at f
  simp (disch := omega) [decodeMajor, hb, f, h_rd, h_ra, h_rb, h_cls, decodeAmo, optOpcode, orOpcode, b01_beq, Nat.div_eq_of_lt, Nat.mod_eq_of_lt]
theorem amoAdd (g : Guard) (rd : Fin 32) (ra : Fin 32) (rb : Fin 32) (cls : Fin 4) (dbl : Bool) : Statement (.amoAdd g rd ra rb cls dbl) := by
  refine of_word rfl fun (h : (g.wf) = true) => ?_
  have h_rd := rd.isLt
  have h_ra := ra.isLt
  have h_rb := rb.isLt
  have h_cls := cls.isLt
  have h_dbl := b01_lt dbl
  obtain ⟨r, e, f⟩ := encR_fields g 0x20 rd ra rb (cls.val * 32 + b01 dbl * 16 + 1) (by omega) (by omega) (by omega) (by omega) (by omega)
  rw [e]
  refine decodeTableWord_control g r 0x20 f.1 h f.2.1 _ fun b hb => ?_
  have q1 : (cls.val * 32 + b01 dbl * 16 + 1) / 32 = cls := by omega
  have q2 : (cls.val * 32 + b01 dbl * 16 + 1) / 16 % 2 = b01 dbl := by omega
  have q3 : (cls.val * 32 + b01 dbl * 16 + 1) % 16 = 1 := by omega
  rw [q1, q2, q3] at f
  simp (disch := omega) [decodeMajor, hb, f, h_rd, h_ra, h_rb, h_cls, decodeAmo, optOpcode, orOpcode, b01_beq, Nat.div_eq_of_lt, Nat.mod_eq_of_lt]
theorem amoAnd (g : Guard) (rd : Fin 32) (ra : Fin 32) (rb : Fin 32) (cls : Fin 4) (dbl : Bool) : Statement (.amoAnd g rd ra rb cls dbl) := by
  refine of_word rfl fun (h : (g.wf) = true) => ?_
  have h_rd := rd.isLt
  have h_ra := ra.isLt
  have h_rb := rb.isLt
  have h_cls := cls.isLt
  have h_dbl := b01_lt dbl
  obtain ⟨r, e, f⟩ := encR_fields g 0x20 rd ra rb (cls.val * 32 + b01 dbl * 16 + 2) (by omega) (by omega) (by omega) (by omega) (by omega)
  rw [e]
  refine decodeTableWord_control g r 0x20 f.1 h f.2.1 _ fun b hb => ?_
  have q1 : (cls.val * 32 + b01 dbl * 16 + 2) / 32 = cls := by omega
  have q2 : (cls.val * 32 + b01 dbl * 16 + 2) / 16 % 2 = b01 dbl := by omega
  have q3 : (cls.val * 32 + b01 dbl * 16 + 2) % 16 = 2 := by omega
  rw [q1, q2, q3] at f
  simp (disch := omega) [decodeMajor, hb, f, h_rd, h_ra, h_rb, h_cls, decodeAmo, optOpcode, orOpcode, b01_beq, Nat.div_eq_of_lt, Nat.mod_eq_of_lt]
theorem amoOr (g : Guard) (rd : Fin 32) (ra : Fin 32) (rb : Fin 32) (cls : Fin 4) (dbl : Bool) : Statement (.amoOr g rd ra rb cls dbl) := by
  refine of_word rfl fun (h : (g.wf) = true) => ?_
  have h_rd := rd.isLt
  have h_ra := ra.isLt
  have h_rb := rb.isLt
  have h_cls := cls.isLt
  have h_dbl := b01_lt dbl
  obtain ⟨r, e, f⟩ := encR_fields g 0x20 rd ra rb (cls.val * 32 + b01 dbl * 16 + 3) (by omega) (by omega) (by omega) (by omega) (by omega)
  rw [e]
  refine decodeTableWord_control g r 0x20 f.1 h f.2.1 _ fun b hb => ?_
  have q1 : (cls.val * 32 + b01 dbl * 16 + 3) / 32 = cls := by omega
  have q2 : (cls.val * 32 + b01 dbl * 16 + 3) / 16 % 2 = b01 dbl := by omega
  have q3 : (cls.val * 32 + b01 dbl * 16 + 3) % 16 = 3 := by omega
  rw [q1, q2, q3] at f
  simp (disch := omega) [decodeMajor, hb, f, h_rd, h_ra, h_rb, h_cls, decodeAmo, optOpcode, orOpcode, b01_beq, Nat.div_eq_of_lt, Nat.mod_eq_of_lt]
theorem amoXor (g : Guard) (rd : Fin 32) (ra : Fin 32) (rb : Fin 32) (cls : Fin 4) (dbl : Bool) : Statement (.amoXor g rd ra rb cls dbl) := by
  refine of_word rfl fun (h : (g.wf) = true) => ?_
  have h_rd := rd.isLt
  have h_ra := ra.isLt
  have h_rb := rb.isLt
  have h_cls := cls.isLt
  have h_dbl := b01_lt dbl
  obtain ⟨r, e, f⟩ := encR_fields g 0x20 rd ra rb (cls.val * 32 + b01 dbl * 16 + 4) (by omega) (by omega) (by omega) (by omega) (by omega)
  rw [e]
  refine decodeTableWord_control g r 0x20 f.1 h f.2.1 _ fun b hb => ?_
  have q1 : (cls.val * 32 + b01 dbl * 16 + 4) / 32 = cls := by omega
  have q2 : (cls.val * 32 + b01 dbl * 16 + 4) / 16 % 2 = b01 dbl := by omega
  have q3 : (cls.val * 32 + b01 dbl * 16 + 4) % 16 = 4 := by omega
  rw [q1, q2, q3] at f
  simp (disch := omega) [decodeMajor, hb, f, h_rd, h_ra, h_rb, h_cls, decodeAmo, optOpcode, orOpcode, b01_beq, Nat.div_eq_of_lt, Nat.mod_eq_of_lt]
theorem amoMin (g : Guard) (rd : Fin 32) (ra : Fin 32) (rb : Fin 32) (cls : Fin 4) (dbl : Bool) : Statement (.amoMin g rd ra rb cls dbl) := by
  refine of_word rfl fun (h : (g.wf) = true) => ?_
  have h_rd := rd.isLt
  have h_ra := ra.isLt
  have h_rb := rb.isLt
  have h_cls := cls.isLt
  have h_dbl := b01_lt dbl
  obtain ⟨r, e, f⟩ := encR_fields g 0x20 rd ra rb (cls.val * 32 + b01 dbl * 16 + 5) (by omega) (by omega) (by omega) (by omega) (by omega)
  rw [e]
  refine decodeTableWord_control g r 0x20 f.1 h f.2.1 _ fun b hb => ?_
  have q1 : (cls.val * 32 + b01 dbl * 16 + 5) / 32 = cls := by omega
  have q2 : (cls.val * 32 + b01 dbl * 16 + 5) / 16 % 2 = b01 dbl := by omega
  have q3 : (cls.val * 32 + b01 dbl * 16 + 5) % 16 = 5 := by omega
  rw [q1, q2, q3] at f
  simp (disch := omega) [decodeMajor, hb, f, h_rd, h_ra, h_rb, h_cls, decodeAmo, optOpcode, orOpcode, b01_beq, Nat.div_eq_of_lt, Nat.mod_eq_of_lt]
theorem amoMax (g : Guard) (rd : Fin 32) (ra : Fin 32) (rb : Fin 32) (cls : Fin 4) (dbl : Bool) : Statement (.amoMax g rd ra rb cls dbl) := by
  refine of_word rfl fun (h : (g.wf) = true) => ?_
  have h_rd := rd.isLt
  have h_ra := ra.isLt
  have h_rb := rb.isLt
  have h_cls := cls.isLt
  have h_dbl := b01_lt dbl
  obtain ⟨r, e, f⟩ := encR_fields g 0x20 rd ra rb (cls.val * 32 + b01 dbl * 16 + 6) (by omega) (by omega) (by omega) (by omega) (by omega)
  rw [e]
  refine decodeTableWord_control g r 0x20 f.1 h f.2.1 _ fun b hb => ?_
  have q1 : (cls.val * 32 + b01 dbl * 16 + 6) / 32 = cls := by omega
  have q2 : (cls.val * 32 + b01 dbl * 16 + 6) / 16 % 2 = b01 dbl := by omega
  have q3 : (cls.val * 32 + b01 dbl * 16 + 6) % 16 = 6 := by omega
  rw [q1, q2, q3] at f
  simp (disch := omega) [decodeMajor, hb, f, h_rd, h_ra, h_rb, h_cls, decodeAmo, optOpcode, orOpcode, b01_beq, Nat.div_eq_of_lt, Nat.mod_eq_of_lt]
theorem amoMinu (g : Guard) (rd : Fin 32) (ra : Fin 32) (rb : Fin 32) (cls : Fin 4) (dbl : Bool) : Statement (.amoMinu g rd ra rb cls dbl) := by
  refine of_word rfl fun (h : (g.wf) = true) => ?_
  have h_rd := rd.isLt
  have h_ra := ra.isLt
  have h_rb := rb.isLt
  have h_cls := cls.isLt
  have h_dbl := b01_lt dbl
  obtain ⟨r, e, f⟩ := encR_fields g 0x20 rd ra rb (cls.val * 32 + b01 dbl * 16 + 7) (by omega) (by omega) (by omega) (by omega) (by omega)
  rw [e]
  refine decodeTableWord_control g r 0x20 f.1 h f.2.1 _ fun b hb => ?_
  have q1 : (cls.val * 32 + b01 dbl * 16 + 7) / 32 = cls := by omega
  have q2 : (cls.val * 32 + b01 dbl * 16 + 7) / 16 % 2 = b01 dbl := by omega
  have q3 : (cls.val * 32 + b01 dbl * 16 + 7) % 16 = 7 := by omega
  rw [q1, q2, q3] at f
  simp (disch := omega) [decodeMajor, hb, f, h_rd, h_ra, h_rb, h_cls, decodeAmo, optOpcode, orOpcode, b01_beq, Nat.div_eq_of_lt, Nat.mod_eq_of_lt]
theorem amoMaxu (g : Guard) (rd : Fin 32) (ra : Fin 32) (rb : Fin 32) (cls : Fin 4) (dbl : Bool) : Statement (.amoMaxu g rd ra rb cls dbl) := by
  refine of_word rfl fun (h : (g.wf) = true) => ?_
  have h_rd := rd.isLt
  have h_ra := ra.isLt
  have h_rb := rb.isLt
  have h_cls := cls.isLt
  have h_dbl := b01_lt dbl
  obtain ⟨r, e, f⟩ := encR_fields g 0x20 rd ra rb (cls.val * 32 + b01 dbl * 16 + 8) (by omega) (by omega) (by omega) (by omega) (by omega)
  rw [e]
  refine decodeTableWord_control g r 0x20 f.1 h f.2.1 _ fun b hb => ?_
  have q1 : (cls.val * 32 + b01 dbl * 16 + 8) / 32 = cls := by omega
  have q2 : (cls.val * 32 + b01 dbl * 16 + 8) / 16 % 2 = b01 dbl := by omega
  have q3 : (cls.val * 32 + b01 dbl * 16 + 8) % 16 = 8 := by omega
  rw [q1, q2, q3] at f
  simp (disch := omega) [decodeMajor, hb, f, h_rd, h_ra, h_rb, h_cls, decodeAmo, optOpcode, orOpcode, b01_beq, Nat.div_eq_of_lt, Nat.mod_eq_of_lt]
theorem amoFadd (g : Guard) (rd : Fin 32) (ra : Fin 32) (rb : Fin 32) (cls : Fin 4) : Statement (.amoFadd g rd ra rb cls) := by
  refine of_word rfl fun (h : (g.wf) = true) => ?_
  have h_rd := rd.isLt
  have h_ra := ra.isLt
  have h_rb := rb.isLt
  have h_cls := cls.isLt
  obtain ⟨r, e, f⟩ := encR_fields g 0x20 rd ra rb (cls.val * 32 + 9) (by omega) (by omega) (by omega) (by omega) (by omega)
  rw [e]
  refine decodeTableWord_control g r 0x20 f.1 h f.2.1 _ fun b hb => ?_
  have q0 : (cls.val * 32 + 9) / 32 = cls := by omega
  have q1 : (cls.val * 32 + 9) / 16 % 2 = 0 := by omega
  have q2 : (cls.val * 32 + 9) % 16 = 9 := by omega
  simp only [q0, q1, q2] at f
  simp (disch := omega) [decodeMajor, hb, f, h_rd, h_ra, h_rb, h_cls, decodeAmo, optOpcode, orOpcode, Nat.div_eq_of_lt, Nat.mod_eq_of_lt]
theorem amoCas (g : Guard) (rd : Fin 32) (ra : Fin 32) (rb : Fin 32) (cls : Fin 4) (dbl : Bool) : Statement (.amoCas g rd ra rb cls dbl) := by
  refine of_word rfl fun (h : (g.wf) = true) => ?_
  have h_rd := rd.isLt
  have h_ra := ra.isLt
  have h_rb := rb.isLt
  have h_cls := cls.isLt
  have h_dbl := b01_lt dbl
  obtain ⟨r, e, f⟩ := encR_fields g 0x20 rd ra rb (cls.val * 32 + b01 dbl * 16 + 10) (by omega) (by omega) (by omega) (by omega) (by omega)
  rw [e]
  refine decodeTableWord_control g r 0x20 f.1 h f.2.1 _ fun b hb => ?_
  have q1 : (cls.val * 32 + b01 dbl * 16 + 10) / 32 = cls := by omega
  have q2 : (cls.val * 32 + b01 dbl * 16 + 10) / 16 % 2 = b01 dbl := by omega
  have q3 : (cls.val * 32 + b01 dbl * 16 + 10) % 16 = 10 := by omega
  rw [q1, q2, q3] at f
  simp (disch := omega) [decodeMajor, hb, f, h_rd, h_ra, h_rb, h_cls, decodeAmo, optOpcode, orOpcode, b01_beq, Nat.div_eq_of_lt, Nat.mod_eq_of_lt]
theorem redAdd (g : Guard) (ra : Fin 32) (rb : Fin 32) (cls : Fin 4) (dbl : Bool) : Statement (.redAdd g ra rb cls dbl) := by
  refine of_word rfl fun (h : (g.wf) = true) => ?_
  have h_ra := ra.isLt
  have h_rb := rb.isLt
  have h_cls := cls.isLt
  have h_dbl := b01_lt dbl
  obtain ⟨r, e, f⟩ := encR_fields g 0x21 0 ra rb (cls.val * 32 + b01 dbl * 16 + 1) (by omega) (by omega) (by omega) (by omega) (by omega)
  rw [e]
  refine decodeTableWord_control g r 0x21 f.1 h f.2.1 _ fun b hb => ?_
  have q1 : (cls.val * 32 + b01 dbl * 16 + 1) / 32 = cls := by omega
  have q2 : (cls.val * 32 + b01 dbl * 16 + 1) / 16 % 2 = b01 dbl := by omega
  have q3 : (cls.val * 32 + b01 dbl * 16 + 1) % 16 = 1 := by omega
  rw [q1, q2, q3] at f
  simp (disch := omega) [decodeMajor, hb, f, h_ra, h_rb, h_cls, decodeRed, optOpcode, orOpcode, b01_beq, Nat.div_eq_of_lt, Nat.mod_eq_of_lt]
theorem redAnd (g : Guard) (ra : Fin 32) (rb : Fin 32) (cls : Fin 4) (dbl : Bool) : Statement (.redAnd g ra rb cls dbl) := by
  refine of_word rfl fun (h : (g.wf) = true) => ?_
  have h_ra := ra.isLt
  have h_rb := rb.isLt
  have h_cls := cls.isLt
  have h_dbl := b01_lt dbl
  obtain ⟨r, e, f⟩ := encR_fields g 0x21 0 ra rb (cls.val * 32 + b01 dbl * 16 + 2) (by omega) (by omega) (by omega) (by omega) (by omega)
  rw [e]
  refine decodeTableWord_control g r 0x21 f.1 h f.2.1 _ fun b hb => ?_
  have q1 : (cls.val * 32 + b01 dbl * 16 + 2) / 32 = cls := by omega
  have q2 : (cls.val * 32 + b01 dbl * 16 + 2) / 16 % 2 = b01 dbl := by omega
  have q3 : (cls.val * 32 + b01 dbl * 16 + 2) % 16 = 2 := by omega
  rw [q1, q2, q3] at f
  simp (disch := omega) [decodeMajor, hb, f, h_ra, h_rb, h_cls, decodeRed, optOpcode, orOpcode, b01_beq, Nat.div_eq_of_lt, Nat.mod_eq_of_lt]
theorem redOr (g : Guard) (ra : Fin 32) (rb : Fin 32) (cls : Fin 4) (dbl : Bool) : Statement (.redOr g ra rb cls dbl) := by
  refine of_word rfl fun (h : (g.wf) = true) => ?_
  have h_ra := ra.isLt
  have h_rb := rb.isLt
  have h_cls := cls.isLt
  have h_dbl := b01_lt dbl
  obtain ⟨r, e, f⟩ := encR_fields g 0x21 0 ra rb (cls.val * 32 + b01 dbl * 16 + 3) (by omega) (by omega) (by omega) (by omega) (by omega)
  rw [e]
  refine decodeTableWord_control g r 0x21 f.1 h f.2.1 _ fun b hb => ?_
  have q1 : (cls.val * 32 + b01 dbl * 16 + 3) / 32 = cls := by omega
  have q2 : (cls.val * 32 + b01 dbl * 16 + 3) / 16 % 2 = b01 dbl := by omega
  have q3 : (cls.val * 32 + b01 dbl * 16 + 3) % 16 = 3 := by omega
  rw [q1, q2, q3] at f
  simp (disch := omega) [decodeMajor, hb, f, h_ra, h_rb, h_cls, decodeRed, optOpcode, orOpcode, b01_beq, Nat.div_eq_of_lt, Nat.mod_eq_of_lt]
theorem redXor (g : Guard) (ra : Fin 32) (rb : Fin 32) (cls : Fin 4) (dbl : Bool) : Statement (.redXor g ra rb cls dbl) := by
  refine of_word rfl fun (h : (g.wf) = true) => ?_
  have h_ra := ra.isLt
  have h_rb := rb.isLt
  have h_cls := cls.isLt
  have h_dbl := b01_lt dbl
  obtain ⟨r, e, f⟩ := encR_fields g 0x21 0 ra rb (cls.val * 32 + b01 dbl * 16 + 4) (by omega) (by omega) (by omega) (by omega) (by omega)
  rw [e]
  refine decodeTableWord_control g r 0x21 f.1 h f.2.1 _ fun b hb => ?_
  have q1 : (cls.val * 32 + b01 dbl * 16 + 4) / 32 = cls := by omega
  have q2 : (cls.val * 32 + b01 dbl * 16 + 4) / 16 % 2 = b01 dbl := by omega
  have q3 : (cls.val * 32 + b01 dbl * 16 + 4) % 16 = 4 := by omega
  rw [q1, q2, q3] at f
  simp (disch := omega) [decodeMajor, hb, f, h_ra, h_rb, h_cls, decodeRed, optOpcode, orOpcode, b01_beq, Nat.div_eq_of_lt, Nat.mod_eq_of_lt]
theorem redMin (g : Guard) (ra : Fin 32) (rb : Fin 32) (cls : Fin 4) (dbl : Bool) : Statement (.redMin g ra rb cls dbl) := by
  refine of_word rfl fun (h : (g.wf) = true) => ?_
  have h_ra := ra.isLt
  have h_rb := rb.isLt
  have h_cls := cls.isLt
  have h_dbl := b01_lt dbl
  obtain ⟨r, e, f⟩ := encR_fields g 0x21 0 ra rb (cls.val * 32 + b01 dbl * 16 + 5) (by omega) (by omega) (by omega) (by omega) (by omega)
  rw [e]
  refine decodeTableWord_control g r 0x21 f.1 h f.2.1 _ fun b hb => ?_
  have q1 : (cls.val * 32 + b01 dbl * 16 + 5) / 32 = cls := by omega
  have q2 : (cls.val * 32 + b01 dbl * 16 + 5) / 16 % 2 = b01 dbl := by omega
  have q3 : (cls.val * 32 + b01 dbl * 16 + 5) % 16 = 5 := by omega
  rw [q1, q2, q3] at f
  simp (disch := omega) [decodeMajor, hb, f, h_ra, h_rb, h_cls, decodeRed, optOpcode, orOpcode, b01_beq, Nat.div_eq_of_lt, Nat.mod_eq_of_lt]
theorem redMax (g : Guard) (ra : Fin 32) (rb : Fin 32) (cls : Fin 4) (dbl : Bool) : Statement (.redMax g ra rb cls dbl) := by
  refine of_word rfl fun (h : (g.wf) = true) => ?_
  have h_ra := ra.isLt
  have h_rb := rb.isLt
  have h_cls := cls.isLt
  have h_dbl := b01_lt dbl
  obtain ⟨r, e, f⟩ := encR_fields g 0x21 0 ra rb (cls.val * 32 + b01 dbl * 16 + 6) (by omega) (by omega) (by omega) (by omega) (by omega)
  rw [e]
  refine decodeTableWord_control g r 0x21 f.1 h f.2.1 _ fun b hb => ?_
  have q1 : (cls.val * 32 + b01 dbl * 16 + 6) / 32 = cls := by omega
  have q2 : (cls.val * 32 + b01 dbl * 16 + 6) / 16 % 2 = b01 dbl := by omega
  have q3 : (cls.val * 32 + b01 dbl * 16 + 6) % 16 = 6 := by omega
  rw [q1, q2, q3] at f
  simp (disch := omega) [decodeMajor, hb, f, h_ra, h_rb, h_cls, decodeRed, optOpcode, orOpcode, b01_beq, Nat.div_eq_of_lt, Nat.mod_eq_of_lt]
theorem redMinu (g : Guard) (ra : Fin 32) (rb : Fin 32) (cls : Fin 4) (dbl : Bool) : Statement (.redMinu g ra rb cls dbl) := by
  refine of_word rfl fun (h : (g.wf) = true) => ?_
  have h_ra := ra.isLt
  have h_rb := rb.isLt
  have h_cls := cls.isLt
  have h_dbl := b01_lt dbl
  obtain ⟨r, e, f⟩ := encR_fields g 0x21 0 ra rb (cls.val * 32 + b01 dbl * 16 + 7) (by omega) (by omega) (by omega) (by omega) (by omega)
  rw [e]
  refine decodeTableWord_control g r 0x21 f.1 h f.2.1 _ fun b hb => ?_
  have q1 : (cls.val * 32 + b01 dbl * 16 + 7) / 32 = cls := by omega
  have q2 : (cls.val * 32 + b01 dbl * 16 + 7) / 16 % 2 = b01 dbl := by omega
  have q3 : (cls.val * 32 + b01 dbl * 16 + 7) % 16 = 7 := by omega
  rw [q1, q2, q3] at f
  simp (disch := omega) [decodeMajor, hb, f, h_ra, h_rb, h_cls, decodeRed, optOpcode, orOpcode, b01_beq, Nat.div_eq_of_lt, Nat.mod_eq_of_lt]
theorem redMaxu (g : Guard) (ra : Fin 32) (rb : Fin 32) (cls : Fin 4) (dbl : Bool) : Statement (.redMaxu g ra rb cls dbl) := by
  refine of_word rfl fun (h : (g.wf) = true) => ?_
  have h_ra := ra.isLt
  have h_rb := rb.isLt
  have h_cls := cls.isLt
  have h_dbl := b01_lt dbl
  obtain ⟨r, e, f⟩ := encR_fields g 0x21 0 ra rb (cls.val * 32 + b01 dbl * 16 + 8) (by omega) (by omega) (by omega) (by omega) (by omega)
  rw [e]
  refine decodeTableWord_control g r 0x21 f.1 h f.2.1 _ fun b hb => ?_
  have q1 : (cls.val * 32 + b01 dbl * 16 + 8) / 32 = cls := by omega
  have q2 : (cls.val * 32 + b01 dbl * 16 + 8) / 16 % 2 = b01 dbl := by omega
  have q3 : (cls.val * 32 + b01 dbl * 16 + 8) % 16 = 8 := by omega
  rw [q1, q2, q3] at f
  simp (disch := omega) [decodeMajor, hb, f, h_ra, h_rb, h_cls, decodeRed, optOpcode, orOpcode, b01_beq, Nat.div_eq_of_lt, Nat.mod_eq_of_lt]
theorem redFadd (g : Guard) (ra : Fin 32) (rb : Fin 32) (cls : Fin 4) : Statement (.redFadd g ra rb cls) := by
  refine of_word rfl fun (h : (g.wf) = true) => ?_
  have h_ra := ra.isLt
  have h_rb := rb.isLt
  have h_cls := cls.isLt
  obtain ⟨r, e, f⟩ := encR_fields g 0x21 0 ra rb (cls.val * 32 + 9) (by omega) (by omega) (by omega) (by omega) (by omega)
  rw [e]
  refine decodeTableWord_control g r 0x21 f.1 h f.2.1 _ fun b hb => ?_
  have q0 : (cls.val * 32 + 9) / 32 = cls := by omega
  have q1 : (cls.val * 32 + 9) / 16 % 2 = 0 := by omega
  have q2 : (cls.val * 32 + 9) % 16 = 9 := by omega
  simp only [q0, q1, q2] at f
  simp (disch := omega) [decodeMajor, hb, f, h_ra, h_rb, h_cls, decodeRed, optOpcode, orOpcode, Nat.div_eq_of_lt, Nat.mod_eq_of_lt]
theorem qpush (g : Guard) (pd : Fin 8) (ra : Fin 32) (rb : Fin 32) (cls : Fin 16) : Statement (.qpush g pd ra rb cls) := by
  refine of_word rfl fun (h : (g.wf) = true) => ?_
  have h_pd := pd.isLt
  have h_ra := ra.isLt
  have h_rb := rb.isLt
  have h_cls := cls.isLt
  obtain ⟨r, e, f⟩ := encR_fields g 0x22 pd ra rb cls (by omega) (by omega) (by omega) (by omega) (by omega)
  rw [e]
  refine decodeTableWord_control g r 0x22 f.1 h f.2.1 _ fun b hb => ?_
  simp (disch := omega) [decodeMajor, hb, f, h_pd, h_ra, h_rb, h_cls, optOpcode, orOpcode, Nat.div_eq_of_lt, Nat.mod_eq_of_lt]
theorem qpop (g : Guard) (rd : Fin 32) (ra : Fin 32) (pd : Fin 8) (cls : Fin 16) : Statement (.qpop g rd ra pd cls) := by
  refine of_word rfl fun (h : (g.wf) = true) => ?_
  have h_rd := rd.isLt
  have h_ra := ra.isLt
  have h_pd := pd.isLt
  have h_cls := cls.isLt
  obtain ⟨r, e, f⟩ := encR_fields g 0x23 rd ra pd cls (by omega) (by omega) (by omega) (by omega) (by omega)
  rw [e]
  refine decodeTableWord_control g r 0x23 f.1 h f.2.1 _ fun b hb => ?_
  simp (disch := omega) [decodeMajor, hb, f, h_rd, h_ra, h_pd, h_cls, optOpcode, orOpcode, Nat.div_eq_of_lt, Nat.mod_eq_of_lt]
theorem racqP (g : Guard) (rd : Fin 32) (n : Fin 4) : Statement (.racqP g rd n) := by
  refine of_word rfl fun (h : (g.wf) = true) => ?_
  have h_rd := rd.isLt
  have h_n := n.isLt
  obtain ⟨r, e, f⟩ := encI_fields g 0x24 rd 0 n (by omega) (by omega) (by omega) (by omega)
  rw [e]
  refine decodeTableWord_control g r 0x24 f.1 h f.2.1 _ fun b hb => ?_
  simp (disch := omega) [decodeMajor, hb, f, h_rd, h_n, optOpcode, orOpcode, Nat.div_eq_of_lt, Nat.mod_eq_of_lt]
theorem racqC (g : Guard) (rd : Fin 32) (n : Fin 4) : Statement (.racqC g rd n) := by
  refine of_word rfl fun (h : (g.wf) = true) => ?_
  have h_rd := rd.isLt
  have h_n := n.isLt
  obtain ⟨r, e, f⟩ := encI_fields g 0x24 rd 0 (4 + n.val) (by omega) (by omega) (by omega) (by omega)
  rw [e]
  refine decodeTableWord_control g r 0x24 f.1 h f.2.1 _ fun b hb => ?_
  have q0 : (4 + n.val) / 8 = 0 := by omega
  have q1 : (4 + n.val) / 4 % 2 = 1 := by omega
  have q2 : (4 + n.val) % 4 = n := by omega
  simp only [q0, q1, q2] at f
  simp (disch := omega) [decodeMajor, hb, f, h_rd, h_n, optOpcode, orOpcode, Nat.div_eq_of_lt, Nat.mod_eq_of_lt]
theorem rrelP (g : Guard) (n : Fin 4) : Statement (.rrelP g n) := by
  refine of_word rfl fun (h : (g.wf) = true) => ?_
  have h_n := n.isLt
  obtain ⟨r, e, f⟩ := encI_fields g 0x25 0 0 n (by omega) (by omega) (by omega) (by omega)
  rw [e]
  refine decodeTableWord_control g r 0x25 f.1 h f.2.1 _ fun b hb => ?_
  simp (disch := omega) [decodeMajor, hb, f, h_n, optOpcode, orOpcode, Nat.div_eq_of_lt, Nat.mod_eq_of_lt]
theorem rrelC (g : Guard) (n : Fin 4) : Statement (.rrelC g n) := by
  refine of_word rfl fun (h : (g.wf) = true) => ?_
  have h_n := n.isLt
  obtain ⟨r, e, f⟩ := encI_fields g 0x25 0 0 (4 + n.val) (by omega) (by omega) (by omega) (by omega)
  rw [e]
  refine decodeTableWord_control g r 0x25 f.1 h f.2.1 _ fun b hb => ?_
  have q0 : (4 + n.val) / 8 = 0 := by omega
  have q1 : (4 + n.val) / 4 % 2 = 1 := by omega
  have q2 : (4 + n.val) % 4 = n := by omega
  simp only [q0, q1, q2] at f
  simp (disch := omega) [decodeMajor, hb, f, h_n, optOpcode, orOpcode, Nat.div_eq_of_lt, Nat.mod_eq_of_lt]
theorem fork (g : Guard) (ra : Fin 32) (e : Engine) : Statement (.fork g ra e) := by
  refine of_word rfl fun (h : (g.wf) = true) => ?_
  have h_ra := ra.isLt
  have h_e := engineCode e
  obtain ⟨r, e, f⟩ := encI_fields g 0x28 0 ra e.toCode (by omega) (by omega) (by omega) (by omega)
  rw [e]
  refine decodeTableWord_control g r 0x28 f.1 h f.2.1 _ fun b hb => ?_
  simp (disch := omega) [decodeMajor, hb, f, h_ra, h_e, optOpcode, orOpcode, Nat.div_eq_of_lt, Nat.mod_eq_of_lt]
theorem join (g : Guard) (m : EngSet) : Statement (.join g m) := by
  refine of_word rfl fun (h : (g.wf && m.wf) = true) => ?_
  simp only [Bool.and_eq_true] at h
  have h_m := engSetCode m h.2
  obtain ⟨r, e, f⟩ := encI_fields g 0x29 0 0 m.toNat (by omega) (by omega) (by omega) (by omega)
  rw [e]
  refine decodeTableWord_control g r 0x29 f.1 h.1 f.2.1 _ fun b hb => ?_
  simp (disch := omega) [decodeMajor, hb, f, h, h_m, optOpcode, orOpcode, Nat.div_eq_of_lt, Nat.mod_eq_of_lt]
theorem sete (g : Guard) (e : Fin 32) (ra : Fin 32) : Statement (.sete g e ra) := by
  refine of_word rfl fun (h : (g.wf) = true) => ?_
  have h_e := e.isLt
  have h_ra := ra.isLt
  obtain ⟨r, e, f⟩ := encI_fields g 0x2A e ra 0 (by omega) (by omega) (by omega) (by omega)
  rw [e]
  refine decodeTableWord_control g r 0x2A f.1 h f.2.1 _ fun b hb => ?_
  simp (disch := omega) [decodeMajor, hb, f, h_e, h_ra, optOpcode, orOpcode, Nat.div_eq_of_lt, Nat.mod_eq_of_lt]
theorem gete (g : Guard) (rd : Fin 32) (e : Fin 32) : Statement (.gete g rd e) := by
  refine of_word rfl fun (h : (g.wf) = true) => ?_
  have h_rd := rd.isLt
  have h_e := e.isLt
  obtain ⟨r, e, f⟩ := encI_fields g 0x2B rd e 0 (by omega) (by omega) (by omega) (by omega)
  rw [e]
  refine decodeTableWord_control g r 0x2B f.1 h f.2.1 _ fun b hb => ?_
  simp (disch := omega) [decodeMajor, hb, f, h_rd, h_e, optOpcode, orOpcode, Nat.div_eq_of_lt, Nat.mod_eq_of_lt]
theorem twait (g : Guard) (m : EngSet) : Statement (.twait g m) := by
  refine of_word rfl fun (h : (g.wf && m.wf) = true) => ?_
  simp only [Bool.and_eq_true] at h
  have h_m := engSetCode m h.2
  obtain ⟨r, e, f⟩ := encI_fields g 0x2C 0 0 m.toNat (by omega) (by omega) (by omega) (by omega)
  rw [e]
  refine decodeTableWord_control g r 0x2C f.1 h.1 f.2.1 _ fun b hb => ?_
  simp (disch := omega) [decodeMajor, hb, f, h, h_m, optOpcode, orOpcode, Nat.div_eq_of_lt, Nat.mod_eq_of_lt]
theorem tpost (g : Guard) (m : EngSet) : Statement (.tpost g m) := by
  refine of_word rfl fun (h : (g.wf && m.wf) = true) => ?_
  simp only [Bool.and_eq_true] at h
  have h_m := engSetCode m h.2
  obtain ⟨r, e, f⟩ := encI_fields g 0x2D 0 0 m.toNat (by omega) (by omega) (by omega) (by omega)
  rw [e]
  refine decodeTableWord_control g r 0x2D f.1 h.1 f.2.1 _ fun b hb => ?_
  simp (disch := omega) [decodeMajor, hb, f, h, h_m, optOpcode, orOpcode, Nat.div_eq_of_lt, Nat.mod_eq_of_lt]
theorem setts (g : Guard) (ra : Fin 32) (t : Fin 48) : Statement (.setts g ra t) := by
  refine of_word rfl fun (h : (g.wf) = true) => ?_
  have h_ra := ra.isLt
  have h_t := t.isLt
  obtain ⟨r, e, f⟩ := encI_fields g 0x2E 0 ra t (by omega) (by omega) (by omega) (by omega)
  rw [e]
  refine decodeTableWord_control g r 0x2E f.1 h f.2.1 _ fun b hb => ?_
  simp (disch := omega) [decodeMajor, hb, f, h_ra, h_t, decodeTs, optOpcode, orOpcode, Nat.div_eq_of_lt, Nat.mod_eq_of_lt]
theorem getts (g : Guard) (rd : Fin 32) (t : Fin 48) : Statement (.getts g rd t) := by
  refine of_word rfl fun (h : (g.wf) = true) => ?_
  have h_rd := rd.isLt
  have h_t := t.isLt
  obtain ⟨r, e, f⟩ := encI_fields g 0x2F rd 0 t (by omega) (by omega) (by omega) (by omega)
  rw [e]
  refine decodeTableWord_control g r 0x2F f.1 h f.2.1 _ fun b hb => ?_
  simp (disch := omega) [decodeMajor, hb, f, h_rd, h_t, decodeTs, optOpcode, orOpcode, Nat.div_eq_of_lt, Nat.mod_eq_of_lt]
theorem barA (g : Guard) (sc : Scope) : Statement (.barA g sc) := by
  refine of_word rfl fun (h : (g.wf) = true) => ?_
  have h_sc := scopeCode sc
  obtain ⟨r, e, f⟩ := encB_fields g 0x30 (0 * 2 ^ 20 + sc.toCode * 2 ^ 17) (by omega) (by omega)
  rw [e]
  refine decodeTableWord_control g r 0x30 f.1 h f.2.1 _ fun b hb => ?_
  have q0 : (0 * 2 ^ 20 + sc.toCode * 2 ^ 17) / 2 ^ 20 = 0 := by omega
  have q1 : (0 * 2 ^ 20 + sc.toCode * 2 ^ 17) / 2 ^ 17 % 8 = sc.toCode := by omega
  have q2 : (0 * 2 ^ 20 + sc.toCode * 2 ^ 17) / 2 ^ 12 % 32 = 0 := by omega
  have q3 : (0 * 2 ^ 20 + sc.toCode * 2 ^ 17) / 2 ^ 9 % 8 = 0 := by omega
  have q4 : (0 * 2 ^ 20 + sc.toCode * 2 ^ 17) % 2 ^ 9 = 0 := by omega
  simp only [q0, q1, q2, q3, q4] at f
  simp (disch := omega) [decodeMajor, hb, f, h_sc, decodeBar, optOpcode, orOpcode, Nat.div_eq_of_lt, Nat.mod_eq_of_lt]
theorem barW (g : Guard) (sc : Scope) : Statement (.barW g sc) := by
  refine of_word rfl fun (h : (g.wf) = true) => ?_
  have h_sc := scopeCode sc
  obtain ⟨r, e, f⟩ := encB_fields g 0x30 (1 * 2 ^ 20 + sc.toCode * 2 ^ 17) (by omega) (by omega)
  rw [e]
  refine decodeTableWord_control g r 0x30 f.1 h f.2.1 _ fun b hb => ?_
  have q0 : (1 * 2 ^ 20 + sc.toCode * 2 ^ 17) / 2 ^ 20 = 1 := by omega
  have q1 : (1 * 2 ^ 20 + sc.toCode * 2 ^ 17) / 2 ^ 17 % 8 = sc.toCode := by omega
  have q2 : (1 * 2 ^ 20 + sc.toCode * 2 ^ 17) / 2 ^ 12 % 32 = 0 := by omega
  have q3 : (1 * 2 ^ 20 + sc.toCode * 2 ^ 17) / 2 ^ 9 % 8 = 0 := by omega
  have q4 : (1 * 2 ^ 20 + sc.toCode * 2 ^ 17) % 2 ^ 9 = 0 := by omega
  simp only [q0, q1, q2, q3, q4] at f
  simp (disch := omega) [decodeMajor, hb, f, h_sc, decodeBar, optOpcode, orOpcode, Nat.div_eq_of_lt, Nat.mod_eq_of_lt]
theorem barAw (g : Guard) (sc : Scope) : Statement (.barAw g sc) := by
  refine of_word rfl fun (h : (g.wf) = true) => ?_
  have h_sc := scopeCode sc
  obtain ⟨r, e, f⟩ := encB_fields g 0x30 (2 * 2 ^ 20 + sc.toCode * 2 ^ 17) (by omega) (by omega)
  rw [e]
  refine decodeTableWord_control g r 0x30 f.1 h f.2.1 _ fun b hb => ?_
  have q0 : (2 * 2 ^ 20 + sc.toCode * 2 ^ 17) / 2 ^ 20 = 2 := by omega
  have q1 : (2 * 2 ^ 20 + sc.toCode * 2 ^ 17) / 2 ^ 17 % 8 = sc.toCode := by omega
  have q2 : (2 * 2 ^ 20 + sc.toCode * 2 ^ 17) / 2 ^ 12 % 32 = 0 := by omega
  have q3 : (2 * 2 ^ 20 + sc.toCode * 2 ^ 17) / 2 ^ 9 % 8 = 0 := by omega
  have q4 : (2 * 2 ^ 20 + sc.toCode * 2 ^ 17) % 2 ^ 9 = 0 := by omega
  simp only [q0, q1, q2, q3, q4] at f
  simp (disch := omega) [decodeMajor, hb, f, h_sc, decodeBar, optOpcode, orOpcode, Nat.div_eq_of_lt, Nat.mod_eq_of_lt]
theorem barTry (g : Guard) (sc : Scope) (pd : Fin 8) : Statement (.barTry g sc pd) := by
  refine of_word rfl fun (h : (g.wf) = true) => ?_
  have h_sc := scopeCode sc
  have h_pd := pd.isLt
  obtain ⟨r, e, f⟩ := encB_fields g 0x30 (3 * 2 ^ 20 + sc.toCode * 2 ^ 17 + pd.val * 2 ^ 9) (by omega) (by omega)
  rw [e]
  refine decodeTableWord_control g r 0x30 f.1 h f.2.1 _ fun b hb => ?_
  have q0 : (3 * 2 ^ 20 + sc.toCode * 2 ^ 17 + pd.val * 2 ^ 9) / 2 ^ 20 = 3 := by omega
  have q1 : (3 * 2 ^ 20 + sc.toCode * 2 ^ 17 + pd.val * 2 ^ 9) / 2 ^ 17 % 8 = sc.toCode := by omega
  have q2 : (3 * 2 ^ 20 + sc.toCode * 2 ^ 17 + pd.val * 2 ^ 9) / 2 ^ 12 % 32 = 0 := by omega
  have q3 : (3 * 2 ^ 20 + sc.toCode * 2 ^ 17 + pd.val * 2 ^ 9) / 2 ^ 9 % 8 = pd := by omega
  have q4 : (3 * 2 ^ 20 + sc.toCode * 2 ^ 17 + pd.val * 2 ^ 9) % 2 ^ 9 = 0 := by omega
  simp only [q0, q1, q2, q3, q4] at f
  simp (disch := omega) [decodeMajor, hb, f, h_sc, h_pd, decodeBar, optOpcode, orOpcode, Nat.div_eq_of_lt, Nat.mod_eq_of_lt]
theorem trmSend (g : Guard) (ra : Fin 32) : Statement (.trmSend g ra) := by
  refine of_word rfl fun (h : (g.wf) = true) => ?_
  have h_ra := ra.isLt
  obtain ⟨r, e, f⟩ := encB_fields g 0x31 (ra.val * 2 ^ 12) (by omega) (by omega)
  rw [e]
  refine decodeTableWord_control g r 0x31 f.1 h f.2.1 _ fun b hb => ?_
  have q0 : (ra.val * 2 ^ 12) / 2 ^ 20 = 0 := by omega
  have q1 : (ra.val * 2 ^ 12) / 2 ^ 17 % 8 = 0 := by omega
  have q2 : (ra.val * 2 ^ 12) / 2 ^ 12 % 32 = ra := by omega
  have q3 : (ra.val * 2 ^ 12) / 2 ^ 9 % 8 = 0 := by omega
  have q4 : (ra.val * 2 ^ 12) % 2 ^ 9 = 0 := by omega
  simp only [q0, q1, q2, q3, q4] at f
  simp (disch := omega) [decodeMajor, hb, f, h_ra, decodeTrm, optOpcode, orOpcode, Nat.div_eq_of_lt, Nat.mod_eq_of_lt]
theorem trmIdle (g : Guard) : Statement (.trmIdle g) := by
  refine of_word rfl fun (h : (g.wf) = true) => ?_
  obtain ⟨r, e, f⟩ := encB_fields g 0x31 (2 ^ 20) (by omega) (by omega)
  rw [e]
  refine decodeTableWord_control g r 0x31 f.1 h f.2.1 _ fun b hb => ?_
  have q0 : (2 ^ 20) / 2 ^ 20 = 1 := by omega
  have q1 : (2 ^ 20) / 2 ^ 17 % 8 = 0 := by omega
  have q2 : (2 ^ 20) / 2 ^ 12 % 32 = 0 := by omega
  have q3 : (2 ^ 20) / 2 ^ 9 % 8 = 0 := by omega
  have q4 : (2 ^ 20) % 2 ^ 9 = 0 := by omega
  simp only [q0, q1, q2, q3, q4] at f
  simp (disch := omega) [decodeMajor, hb, f, decodeTrm, optOpcode, orOpcode, Nat.div_eq_of_lt, Nat.mod_eq_of_lt]
theorem trmBusy (g : Guard) : Statement (.trmBusy g) := by
  refine of_word rfl fun (h : (g.wf) = true) => ?_
  obtain ⟨r, e, f⟩ := encB_fields g 0x31 (2 * 2 ^ 20) (by omega) (by omega)
  rw [e]
  refine decodeTableWord_control g r 0x31 f.1 h f.2.1 _ fun b hb => ?_
  have q0 : (2 * 2 ^ 20) / 2 ^ 20 = 2 := by omega
  have q1 : (2 * 2 ^ 20) / 2 ^ 17 % 8 = 0 := by omega
  have q2 : (2 * 2 ^ 20) / 2 ^ 12 % 32 = 0 := by omega
  have q3 : (2 * 2 ^ 20) / 2 ^ 9 % 8 = 0 := by omega
  have q4 : (2 * 2 ^ 20) % 2 ^ 9 = 0 := by omega
  simp only [q0, q1, q2, q3, q4] at f
  simp (disch := omega) [decodeMajor, hb, f, decodeTrm, optOpcode, orOpcode, Nat.div_eq_of_lt, Nat.mod_eq_of_lt]
theorem trmTest (g : Guard) (pd : Fin 8) : Statement (.trmTest g pd) := by
  refine of_word rfl fun (h : (g.wf) = true) => ?_
  have h_pd := pd.isLt
  obtain ⟨r, e, f⟩ := encB_fields g 0x31 (3 * 2 ^ 20 + pd.val * 2 ^ 9) (by omega) (by omega)
  rw [e]
  refine decodeTableWord_control g r 0x31 f.1 h f.2.1 _ fun b hb => ?_
  have q0 : (3 * 2 ^ 20 + pd.val * 2 ^ 9) / 2 ^ 20 = 3 := by omega
  have q1 : (3 * 2 ^ 20 + pd.val * 2 ^ 9) / 2 ^ 17 % 8 = 0 := by omega
  have q2 : (3 * 2 ^ 20 + pd.val * 2 ^ 9) / 2 ^ 12 % 32 = 0 := by omega
  have q3 : (3 * 2 ^ 20 + pd.val * 2 ^ 9) / 2 ^ 9 % 8 = pd := by omega
  have q4 : (3 * 2 ^ 20 + pd.val * 2 ^ 9) % 2 ^ 9 = 0 := by omega
  simp only [q0, q1, q2, q3, q4] at f
  simp (disch := omega) [decodeMajor, hb, f, h_pd, decodeTrm, optOpcode, orOpcode, Nat.div_eq_of_lt, Nat.mod_eq_of_lt]
theorem movs (g : Guard) (rd : Fin 32) (sel : SpecReg) : Statement (.movs g rd sel) := by
  refine of_word rfl fun (h : (g.wf) = true) => ?_
  have h_rd := rd.isLt
  have h_sel := specCode sel
  obtain ⟨r, e, f⟩ := encI_fields g 0x38 rd 0 sel.toSel (by omega) (by omega) (by omega) (by omega)
  rw [e]
  refine decodeTableWord_control g r 0x38 f.1 h f.2.1 _ fun b hb => ?_
  simp (disch := omega) [decodeMajor, hb, f, h_rd, h_sel, decodeMovs, optOpcode, orOpcode, Nat.div_eq_of_lt, Nat.mod_eq_of_lt]
theorem movts (g : Guard) (ra : Fin 32) (sel : SpecReg) : Statement (.movts g ra sel) := by
  refine of_word rfl fun (h : (g.wf && sel.writable) = true) => ?_
  simp only [Bool.and_eq_true] at h
  have h_ra := ra.isLt
  have h_sel := specCode sel
  obtain ⟨r, e, f⟩ := encI_fields g 0x39 0 ra sel.toSel (by omega) (by omega) (by omega) (by omega)
  rw [e]
  refine decodeTableWord_control g r 0x39 f.1 h.1 f.2.1 _ fun b hb => ?_
  simp (disch := omega) [decodeMajor, hb, f, h_ra, h_sel, h, decodeMovts, optOpcode, orOpcode, Nat.div_eq_of_lt, Nat.mod_eq_of_lt]
theorem trap (g : Guard) (code : BitVec 12) : Statement (.trap g code) := by
  refine of_word rfl fun (h : (g.wf) = true) => ?_
  have h_code := code.isLt
  obtain ⟨r, e, f⟩ := encI_fields g 0x3A 0 0 code.toNat (by omega) (by omega) (by omega) (by omega)
  rw [e]
  refine decodeTableWord_control g r 0x3A f.1 h f.2.1 _ fun b hb => ?_
  simp (disch := omega) [decodeMajor, hb, f, h_code, optOpcode, orOpcode, Nat.div_eq_of_lt, Nat.mod_eq_of_lt]
theorem yield (g : Guard) : Statement (.yield g) := by
  refine of_word rfl fun (h : (g.wf) = true) => ?_
  obtain ⟨r, e, f⟩ := encB_fields g 0x3B 0 (by omega) (by omega)
  rw [e]
  refine decodeTableWord_control g r 0x3B f.1 h f.2.1 _ fun b hb => ?_
  simp (disch := omega) [decodeMajor, hb, f, optOpcode, orOpcode, Nat.div_eq_of_lt, Nat.mod_eq_of_lt]
theorem done (g : Guard) : Statement (.done g) := by
  refine of_word rfl fun (h : (g.wf) = true) => ?_
  obtain ⟨r, e, f⟩ := encB_fields g 0x3C 0 (by omega) (by omega)
  rw [e]
  refine decodeTableWord_control g r 0x3C f.1 h f.2.1 _ fun b hb => ?_
  simp (disch := omega) [decodeMajor, hb, f, optOpcode, orOpcode, Nat.div_eq_of_lt, Nat.mod_eq_of_lt]
theorem instructionFetch (core : Nat) (c : CtxId) : Statement (.instructionFetch core c) := of_none rfl
theorem enop (t : Tok) : Statement (.enop t) := by
  refine of_word rfl fun h => ?_
  have u0 : bitsAt (0) 0 48 = 0 := by simp only [bitsAt]; omega
  rw [show t.toNat = 0 * 2 ^ 88 + t.toNat + (0) from by omega]
  refine decodeTableWord_common 0 _ t (by decide) (by omega) _ fun w k y p8 => ?_
  have v0 : bitsAt w 0 48 = 0 := (p8 0 48 (by decide)).trans u0
  simp [decodeCommon, y, k, v0]
theorem ehalt (t : Tok) : Statement (.ehalt t) := by
  refine of_word rfl fun h => ?_
  have u0 : bitsAt (0) 0 48 = 0 := by simp only [bitsAt]; omega
  rw [show 2 ^ 88 + t.toNat = 1 * 2 ^ 88 + t.toNat + (0) from by omega]
  refine decodeTableWord_common 1 _ t (by decide) (by omega) _ fun w k y p8 => ?_
  have v0 : bitsAt w 0 48 = 0 := (p8 0 48 (by decide)).trans u0
  simp [decodeCommon, y, k, v0]
theorem eskip (t : Tok) (e : Fin 32) (cond : SkipCond) (n : Fin 256) : Statement (.eskip t e cond n) := by
  refine of_word rfl fun h => ?_
  have he := e.isLt
  have hn := n.isLt
  have hc := skipCode cond
  have u0 : bitsAt ((e.val * 2 ^ 43 + cond.toCode * 2 ^ 40 + n.val * 2 ^ 32)) 0 32 = 0 := by simp only [bitsAt]; omega
  have u43 : bitsAt ((e.val * 2 ^ 43 + cond.toCode * 2 ^ 40 + n.val * 2 ^ 32)) 43 5 = e := by simp only [bitsAt]; omega
  have u40 : bitsAt ((e.val * 2 ^ 43 + cond.toCode * 2 ^ 40 + n.val * 2 ^ 32)) 40 3 = cond.toCode := by simp only [bitsAt]; omega
  have u32 : bitsAt ((e.val * 2 ^ 43 + cond.toCode * 2 ^ 40 + n.val * 2 ^ 32)) 32 8 = n := by simp only [bitsAt]; omega
  rw [show 2 * 2 ^ 88 + t.toNat + e.val * 2 ^ 43 + cond.toCode * 2 ^ 40 + n.val * 2 ^ 32 = 2 * 2 ^ 88 + t.toNat + ((e.val * 2 ^ 43 + cond.toCode * 2 ^ 40 + n.val * 2 ^ 32)) from by omega]
  refine decodeTableWord_common 2 _ t (by decide) (by omega) _ fun w k y p8 => ?_
  have v0 : bitsAt w 0 32 = 0 := (p8 0 32 (by decide)).trans u0
  have v43 : bitsAt w 43 5 = e := (p8 43 5 (by decide)).trans u43
  have v40 : bitsAt w 40 3 = cond.toCode := (p8 40 3 (by decide)).trans u40
  have v32 : bitsAt w 32 8 = n := (p8 32 8 (by decide)).trans u32
  simp [decodeCommon, y, k, v0, v43, v40, v32, hc, h]
theorem eflag (t : Tok) (e : Fin 32) : Statement (.eflag t e) := by
  refine of_word rfl fun h => ?_
  have he := e.isLt
  have u0 : bitsAt (e.val * 2 ^ 43) 0 43 = 0 := by simp only [bitsAt]; omega
  have u43 : bitsAt (e.val * 2 ^ 43) 43 5 = e := by simp only [bitsAt]; omega
  rw [show 3 * 2 ^ 88 + t.toNat + e.val * 2 ^ 43 = 3 * 2 ^ 88 + t.toNat + (e.val * 2 ^ 43) from by omega]
  refine decodeTableWord_common 3 _ t (by decide) (by omega) _ fun w k y p8 => ?_
  have v0 : bitsAt w 0 43 = 0 := (p8 0 43 (by decide)).trans u0
  have v43 : bitsAt w 43 5 = e := (p8 43 5 (by decide)).trans u43
  simp [decodeCommon, y, k, v0, v43]
theorem sectionFetch (core : Nat) (g : Engine) : Statement (.sectionFetch core g) := of_none rfl
theorem sectionExecute (core : Nat) (g : Engine) : Statement (.sectionExecute core g) := of_none rfl
theorem engineWordComplete (core : Nat) (g : Engine) : Statement (.engineWordComplete core g) := of_none rfl
theorem azero (w : AsWord) : Statement (.azero w) := by
  refine of_word rfl fun (h : w.ops.wf .d1 = true) => ?_
  exact decodeTableWord_array _ 0x10 (.as .d1 .azero) _ (w.encode_lt 0x10 (by decide)) (w.opcode_encode 0x10 (by decide)) (by decide) (by decide) rfl
    ((Row.decode_as ..).trans (w.decode_encode .d1 0x10 _ (by decide) h))
theorem amma (w : AmWord) : Statement (.amma w) := by
  refine of_word rfl fun (h : w.ops.wf .dss = true) => ?_
  exact decodeTableWord_array _ 0x11 (.am .dss .amma) _ (w.encode_lt 0x11 (by decide)) (w.opcode_encode 0x11 (by decide)) (by decide) (by decide) rfl
    ((Row.decode_am ..).trans (w.decode_encode .dss 0x11 _ (by decide) h))
theorem ammas (w : AmWord) : Statement (.ammas w) := by
  refine of_word rfl fun (h : w.ops.wf .dsss = true) => ?_
  exact decodeTableWord_array _ 0x12 (.am .dsss .ammas) _ (w.encode_lt 0x12 (by decide)) (w.opcode_encode 0x12 (by decide)) (by decide) (by decide) rfl
    ((Row.decode_am ..).trans (w.decode_encode .dsss 0x12 _ (by decide) h))
theorem ammaz (w : AmWord) : Statement (.ammaz w) := by
  refine of_word rfl fun (h : w.ops.wf .dsss = true) => ?_
  exact decodeTableWord_array _ 0x13 (.am .dsss .ammaz) _ (w.encode_lt 0x13 (by decide)) (w.opcode_encode 0x13 (by decide)) (by decide) (by decide) rfl
    ((Row.decode_am ..).trans (w.decode_encode .dsss 0x13 _ (by decide) h))
theorem atbld (w : AtWord) : Statement (.atbld w) := by
  refine of_word rfl fun (h : w.ops.wf .ss = true) => ?_
  exact decodeTableWord_array _ 0x14 (.at .ss .atbld) _ (w.encode_lt 0x14 (by decide)) (w.opcode_encode 0x14 (by decide)) (by decide) (by decide) rfl
    ((Row.decode_at ..).trans (w.decode_encode .ss 0x14 _ (by decide) h))
theorem atmma (w : AmWord) : Statement (.atmma w) := by
  refine of_word rfl fun (h : w.ops.wf .ds = true) => ?_
  exact decodeTableWord_array _ 0x15 (.am .ds .atmma) _ (w.encode_lt 0x15 (by decide)) (w.opcode_encode 0x15 (by decide)) (by decide) (by decide) rfl
    ((Row.decode_am ..).trans (w.decode_encode .ds 0x15 _ (by decide) h))
theorem adist (w : AmWord) : Statement (.adist w) := by
  refine of_word rfl fun (h : w.ops.wf .dss = true) => ?_
  exact decodeTableWord_array _ 0x16 (.am .dss .adist) _ (w.encode_lt 0x16 (by decide)) (w.opcode_encode 0x16 (by decide)) (by decide) (by decide) rfl
    ((Row.decode_am ..).trans (w.decode_encode .dss 0x16 _ (by decide) h))
theorem aargmin (w : ArWord) : Statement (.aargmin w) := by
  refine of_word rfl fun (h : w.ops.wf .ds = true) => ?_
  exact decodeTableWord_array _ 0x17 (.ar .ds .aargmin) _ (w.encode_lt 0x17 (by decide)) (w.opcode_encode 0x17 (by decide)) (by decide) (by decide) rfl
    ((Row.decode_ar ..).trans (w.decode_encode .ds 0x17 _ (by decide) h))
theorem adrain (w : AdWord) : Statement (.adrain w) := by
  refine of_word rfl fun (h : w.ops.wf .dss = true) => ?_
  exact decodeTableWord_array _ 0x18 (.ad .dss .adrain) _ (w.encode_lt 0x18 (by decide)) (w.opcode_encode 0x18 (by decide)) (by decide) (by decide) rfl
    ((Row.decode_ad ..).trans (w.decode_encode .dss 0x18 _ (by decide) h))
theorem adrainm (w : AdWord) : Statement (.adrainm w) := by
  refine of_word rfl fun (h : w.ops.wf .ss = true) => ?_
  exact decodeTableWord_array _ 0x19 (.ad .ss .adrainm) _ (w.encode_lt 0x19 (by decide)) (w.opcode_encode 0x19 (by decide)) (by decide) (by decide) rfl
    ((Row.decode_ad ..).trans (w.decode_encode .ss 0x19 _ (by decide) h))
theorem adrainmStoresAccepted (core : Nat) : Statement (.adrainmStoresAccepted core) := of_none rfl
theorem ascacc (w : AsWord) : Statement (.ascacc w) := by
  refine of_word rfl fun (h : w.ops.wf .dsss = true) => ?_
  exact decodeTableWord_array _ 0x1A (.as .dsss .ascacc) _ (w.encode_lt 0x1A (by decide)) (w.opcode_encode 0x1A (by decide)) (by decide) (by decide) rfl
    ((Row.decode_as ..).trans (w.decode_encode .dsss 0x1A _ (by decide) h))
theorem acent (w : AmWord) : Statement (.acent w) := by
  refine of_word rfl fun (h : w.ops.wf .dss = true) => ?_
  exact decodeTableWord_array _ 0x1B (.am .dss .acent) _ (w.encode_lt 0x1B (by decide)) (w.opcode_encode 0x1B (by decide)) (by decide) (by decide) rfl
    ((Row.decode_am ..).trans (w.decode_encode .dss 0x1B _ (by decide) h))
theorem acdiv (w : AsWord) : Statement (.acdiv w) := by
  refine of_word rfl fun (h : w.ops.wf .ds = true) => ?_
  exact decodeTableWord_array _ 0x1C (.as .ds .acdiv) _ (w.encode_lt 0x1C (by decide)) (w.opcode_encode 0x1C (by decide)) (by decide) (by decide) rfl
    ((Row.decode_as ..).trans (w.decode_encode .ds 0x1C _ (by decide) h))
theorem aaccld (w : AsWord) : Statement (.aaccld w) := by
  refine of_word rfl fun (h : w.ops.wf .ds = true) => ?_
  exact decodeTableWord_array _ 0x1D (.as .ds .aaccld) _ (w.encode_lt 0x1D (by decide)) (w.opcode_encode 0x1D (by decide)) (by decide) (by decide) rfl
    ((Row.decode_as ..).trans (w.decode_encode .ds 0x1D _ (by decide) h))
theorem aaccst (w : AsWord) : Statement (.aaccst w) := by
  refine of_word rfl fun (h : w.ops.wf .ds = true) => ?_
  exact decodeTableWord_array _ 0x1E (.as .ds .aaccst) _ (w.encode_lt 0x1E (by decide)) (w.opcode_encode 0x1E (by decide)) (by decide) (by decide) rfl
    ((Row.decode_as ..).trans (w.decode_encode .ds 0x1E _ (by decide) h))
theorem amova (w : AsWord) : Statement (.amova w) := by
  refine of_word rfl fun (h : w.ops.wf .ds = true) => ?_
  exact decodeTableWord_array _ 0x1F (.as .ds .amova) _ (w.encode_lt 0x1F (by decide)) (w.opcode_encode 0x1F (by decide)) (by decide) (by decide) rfl
    ((Row.decode_as ..).trans (w.decode_encode .ds 0x1F _ (by decide) h))
theorem vadd (w : VgWord) : Statement (.vadd w) := by
  refine of_word rfl fun (h : w.ops.wf .dss = true) => ?_
  exact decodeTableWord_vector _ 0x40 (.vg .dss .vadd) _ (w.encode_lt 0x40 (by decide)) (w.opcode_encode 0x40 (by decide)) (by decide) (by decide) rfl
    ((Row.decode_vg ..).trans (w.decode_encode .dss 0x40 _ (by decide) h))
theorem vsub (w : VgWord) : Statement (.vsub w) := by
  refine of_word rfl fun (h : w.ops.wf .dss = true) => ?_
  exact decodeTableWord_vector _ 0x41 (.vg .dss .vsub) _ (w.encode_lt 0x41 (by decide)) (w.opcode_encode 0x41 (by decide)) (by decide) (by decide) rfl
    ((Row.decode_vg ..).trans (w.decode_encode .dss 0x41 _ (by decide) h))
theorem vmul (w : VgWord) : Statement (.vmul w) := by
  refine of_word rfl fun (h : w.ops.wf .dss = true) => ?_
  exact decodeTableWord_vector _ 0x42 (.vg .dss .vmul) _ (w.encode_lt 0x42 (by decide)) (w.opcode_encode 0x42 (by decide)) (by decide) (by decide) rfl
    ((Row.decode_vg ..).trans (w.decode_encode .dss 0x42 _ (by decide) h))
theorem vfma (w : VgWord) : Statement (.vfma w) := by
  refine of_word rfl fun (h : w.ops.wf .dsss = true) => ?_
  exact decodeTableWord_vector _ 0x43 (.vg .dsss .vfma) _ (w.encode_lt 0x43 (by decide)) (w.opcode_encode 0x43 (by decide)) (by decide) (by decide) rfl
    ((Row.decode_vg ..).trans (w.decode_encode .dsss 0x43 _ (by decide) h))
theorem vmin (w : VgWord) : Statement (.vmin w) := by
  refine of_word rfl fun (h : w.ops.wf .dss = true) => ?_
  exact decodeTableWord_vector _ 0x44 (.vg .dss .vmin) _ (w.encode_lt 0x44 (by decide)) (w.opcode_encode 0x44 (by decide)) (by decide) (by decide) rfl
    ((Row.decode_vg ..).trans (w.decode_encode .dss 0x44 _ (by decide) h))
theorem vmax (w : VgWord) : Statement (.vmax w) := by
  refine of_word rfl fun (h : w.ops.wf .dss = true) => ?_
  exact decodeTableWord_vector _ 0x45 (.vg .dss .vmax) _ (w.encode_lt 0x45 (by decide)) (w.opcode_encode 0x45 (by decide)) (by decide) (by decide) rfl
    ((Row.decode_vg ..).trans (w.decode_encode .dss 0x45 _ (by decide) h))
theorem vabs (w : VgWord) : Statement (.vabs w) := by
  refine of_word rfl fun (h : w.ops.wf .ds = true) => ?_
  exact decodeTableWord_vector _ 0x46 (.vg .ds .vabs) _ (w.encode_lt 0x46 (by decide)) (w.opcode_encode 0x46 (by decide)) (by decide) (by decide) rfl
    ((Row.decode_vg ..).trans (w.decode_encode .ds 0x46 _ (by decide) h))
theorem vneg (w : VgWord) : Statement (.vneg w) := by
  refine of_word rfl fun (h : w.ops.wf .ds = true) => ?_
  exact decodeTableWord_vector _ 0x47 (.vg .ds .vneg) _ (w.encode_lt 0x47 (by decide)) (w.opcode_encode 0x47 (by decide)) (by decide) (by decide) rfl
    ((Row.decode_vg ..).trans (w.decode_encode .ds 0x47 _ (by decide) h))
theorem vrcp (w : VgWord) : Statement (.vrcp w) := by
  refine of_word rfl fun (h : w.ops.wf .ds = true) => ?_
  exact decodeTableWord_vector _ 0x48 (.vg .ds .vrcp) _ (w.encode_lt 0x48 (by decide)) (w.opcode_encode 0x48 (by decide)) (by decide) (by decide) rfl
    ((Row.decode_vg ..).trans (w.decode_encode .ds 0x48 _ (by decide) h))
theorem vrsq (w : VgWord) : Statement (.vrsq w) := by
  refine of_word rfl fun (h : w.ops.wf .ds = true) => ?_
  exact decodeTableWord_vector _ 0x49 (.vg .ds .vrsq) _ (w.encode_lt 0x49 (by decide)) (w.opcode_encode 0x49 (by decide)) (by decide) (by decide) rfl
    ((Row.decode_vg ..).trans (w.decode_encode .ds 0x49 _ (by decide) h))
theorem vexp2 (w : VgWord) : Statement (.vexp2 w) := by
  refine of_word rfl fun (h : w.ops.wf .ds = true) => ?_
  exact decodeTableWord_vector _ 0x4A (.vg .ds .vexp2) _ (w.encode_lt 0x4A (by decide)) (w.opcode_encode 0x4A (by decide)) (by decide) (by decide) rfl
    ((Row.decode_vg ..).trans (w.decode_encode .ds 0x4A _ (by decide) h))
theorem vlog2 (w : VgWord) : Statement (.vlog2 w) := by
  refine of_word rfl fun (h : w.ops.wf .ds = true) => ?_
  exact decodeTableWord_vector _ 0x4B (.vg .ds .vlog2) _ (w.encode_lt 0x4B (by decide)) (w.opcode_encode 0x4B (by decide)) (by decide) (by decide) rfl
    ((Row.decode_vg ..).trans (w.decode_encode .ds 0x4B _ (by decide) h))
theorem vscale (w : VgWord) : Statement (.vscale w) := by
  refine of_word rfl fun (h : w.ops.wf .ds = true) => ?_
  exact decodeTableWord_vector _ 0x4C (.vg .ds .vscale) _ (w.encode_lt 0x4C (by decide)) (w.opcode_encode 0x4C (by decide)) (by decide) (by decide) rfl
    ((Row.decode_vg ..).trans (w.decode_encode .ds 0x4C _ (by decide) h))
theorem vclamp (w : VgWord) : Statement (.vclamp w) := by
  refine of_word rfl fun (h : w.ops.wf .ds = true) => ?_
  exact decodeTableWord_vector _ 0x4D (.vg .ds .vclamp) _ (w.encode_lt 0x4D (by decide)) (w.opcode_encode 0x4D (by decide)) (by decide) (by decide) rfl
    ((Row.decode_vg ..).trans (w.decode_encode .ds 0x4D _ (by decide) h))
theorem vcmp (w : VgWord) : Statement (.vcmp w) := by
  refine of_word rfl fun (h : w.ops.wf .ss = true) => ?_
  exact decodeTableWord_vector _ 0x4E (.vg .ss .vcmp) _ (w.encode_lt 0x4E (by decide)) (w.opcode_encode 0x4E (by decide)) (by decide) (by decide) rfl
    ((Row.decode_vg ..).trans (w.decode_encode .ss 0x4E _ (by decide) h))
theorem vclass (w : VgWord) : Statement (.vclass w) := by
  refine of_word rfl fun (h : w.ops.wf .s = true) => ?_
  exact decodeTableWord_vector _ 0x4F (.vg .s .vclass) _ (w.encode_lt 0x4F (by decide)) (w.opcode_encode 0x4F (by decide)) (by decide) (by decide) rfl
    ((Row.decode_vg ..).trans (w.decode_encode .s 0x4F _ (by decide) h))
theorem viadd (w : VgWord) : Statement (.viadd w) := by
  refine of_word rfl fun (h : w.ops.wf .dss = true) => ?_
  exact decodeTableWord_vector _ 0x50 (.vg .dss .viadd) _ (w.encode_lt 0x50 (by decide)) (w.opcode_encode 0x50 (by decide)) (by decide) (by decide) rfl
    ((Row.decode_vg ..).trans (w.decode_encode .dss 0x50 _ (by decide) h))
theorem visub (w : VgWord) : Statement (.visub w) := by
  refine of_word rfl fun (h : w.ops.wf .dss = true) => ?_
  exact decodeTableWord_vector _ 0x51 (.vg .dss .visub) _ (w.encode_lt 0x51 (by decide)) (w.opcode_encode 0x51 (by decide)) (by decide) (by decide) rfl
    ((Row.decode_vg ..).trans (w.decode_encode .dss 0x51 _ (by decide) h))
theorem vimul (w : VgWord) : Statement (.vimul w) := by
  refine of_word rfl fun (h : w.ops.wf .dss = true) => ?_
  exact decodeTableWord_vector _ 0x52 (.vg .dss .vimul) _ (w.encode_lt 0x52 (by decide)) (w.opcode_encode 0x52 (by decide)) (by decide) (by decide) rfl
    ((Row.decode_vg ..).trans (w.decode_encode .dss 0x52 _ (by decide) h))
theorem vimin (w : VgWord) : Statement (.vimin w) := by
  refine of_word rfl fun (h : w.ops.wf .dss = true) => ?_
  exact decodeTableWord_vector _ 0x53 (.vg .dss .vimin) _ (w.encode_lt 0x53 (by decide)) (w.opcode_encode 0x53 (by decide)) (by decide) (by decide) rfl
    ((Row.decode_vg ..).trans (w.decode_encode .dss 0x53 _ (by decide) h))
theorem vimax (w : VgWord) : Statement (.vimax w) := by
  refine of_word rfl fun (h : w.ops.wf .dss = true) => ?_
  exact decodeTableWord_vector _ 0x54 (.vg .dss .vimax) _ (w.encode_lt 0x54 (by decide)) (w.opcode_encode 0x54 (by decide)) (by decide) (by decide) rfl
    ((Row.decode_vg ..).trans (w.decode_encode .dss 0x54 _ (by decide) h))
theorem vand (w : VgWord) : Statement (.vand w) := by
  refine of_word rfl fun (h : w.ops.wf .dss = true) => ?_
  exact decodeTableWord_vector _ 0x55 (.vg .dss .vand) _ (w.encode_lt 0x55 (by decide)) (w.opcode_encode 0x55 (by decide)) (by decide) (by decide) rfl
    ((Row.decode_vg ..).trans (w.decode_encode .dss 0x55 _ (by decide) h))
theorem vor (w : VgWord) : Statement (.vor w) := by
  refine of_word rfl fun (h : w.ops.wf .dss = true) => ?_
  exact decodeTableWord_vector _ 0x56 (.vg .dss .vor) _ (w.encode_lt 0x56 (by decide)) (w.opcode_encode 0x56 (by decide)) (by decide) (by decide) rfl
    ((Row.decode_vg ..).trans (w.decode_encode .dss 0x56 _ (by decide) h))
theorem vxor (w : VgWord) : Statement (.vxor w) := by
  refine of_word rfl fun (h : w.ops.wf .dss = true) => ?_
  exact decodeTableWord_vector _ 0x57 (.vg .dss .vxor) _ (w.encode_lt 0x57 (by decide)) (w.opcode_encode 0x57 (by decide)) (by decide) (by decide) rfl
    ((Row.decode_vg ..).trans (w.decode_encode .dss 0x57 _ (by decide) h))
theorem vshl (w : VgWord) : Statement (.vshl w) := by
  refine of_word rfl fun (h : w.ops.wf .ds = true) => ?_
  exact decodeTableWord_vector _ 0x58 (.vg .ds .vshl) _ (w.encode_lt 0x58 (by decide)) (w.opcode_encode 0x58 (by decide)) (by decide) (by decide) rfl
    ((Row.decode_vg ..).trans (w.decode_encode .ds 0x58 _ (by decide) h))
theorem vshr (w : VgWord) : Statement (.vshr w) := by
  refine of_word rfl fun (h : w.ops.wf .ds = true) => ?_
  exact decodeTableWord_vector _ 0x59 (.vg .ds .vshr) _ (w.encode_lt 0x59 (by decide)) (w.opcode_encode 0x59 (by decide)) (by decide) (by decide) rfl
    ((Row.decode_vg ..).trans (w.decode_encode .ds 0x59 _ (by decide) h))
theorem vpopc (w : VgWord) : Statement (.vpopc w) := by
  refine of_word rfl fun (h : w.ops.wf .ds = true) => ?_
  exact decodeTableWord_vector _ 0x5A (.vg .ds .vpopc) _ (w.encode_lt 0x5A (by decide)) (w.opcode_encode 0x5A (by decide)) (by decide) (by decide) rfl
    ((Row.decode_vg ..).trans (w.decode_encode .ds 0x5A _ (by decide) h))
theorem vicmp (w : VgWord) : Statement (.vicmp w) := by
  refine of_word rfl fun (h : w.ops.wf .ss = true) => ?_
  exact decodeTableWord_vector _ 0x5B (.vg .ss .vicmp) _ (w.encode_lt 0x5B (by decide)) (w.opcode_encode 0x5B (by decide)) (by decide) (by decide) rfl
    ((Row.decode_vg ..).trans (w.decode_encode .ss 0x5B _ (by decide) h))
theorem viota (w : VgWord) : Statement (.viota w) := by
  refine of_word rfl fun (h : w.ops.wf .d1 = true) => ?_
  exact decodeTableWord_vector _ 0x5C (.vg .d1 .viota) _ (w.encode_lt 0x5C (by decide)) (w.opcode_encode 0x5C (by decide)) (by decide) (by decide) rfl
    ((Row.decode_vg ..).trans (w.decode_encode .d1 0x5C _ (by decide) h))
theorem vcvt (w : VgWord) : Statement (.vcvt w) := by
  refine of_word rfl fun (h : w.ops.wf .ds = true) => ?_
  exact decodeTableWord_vector _ 0x60 (.vg .ds .vcvt) _ (w.encode_lt 0x60 (by decide)) (w.opcode_encode 0x60 (by decide)) (by decide) (by decide) rfl
    ((Row.decode_vg ..).trans (w.decode_encode .ds 0x60 _ (by decide) h))
theorem vquant (w : VgWord) : Statement (.vquant w) := by
  refine of_word rfl fun (h : w.ops.wf .ds = true) => ?_
  exact decodeTableWord_vector _ 0x61 (.vg .ds .vquant) _ (w.encode_lt 0x61 (by decide)) (w.opcode_encode 0x61 (by decide)) (by decide) (by decide) rfl
    ((Row.decode_vg ..).trans (w.decode_encode .ds 0x61 _ (by decide) h))
theorem vbmax (w : VgWord) : Statement (.vbmax w) := by
  refine of_word rfl fun (h : w.ops.wf .ds = true) => ?_
  exact decodeTableWord_vector _ 0x62 (.vg .ds .vbmax) _ (w.encode_lt 0x62 (by decide)) (w.opcode_encode 0x62 (by decide)) (by decide) (by decide) rfl
    ((Row.decode_vg ..).trans (w.decode_encode .ds 0x62 _ (by decide) h))
theorem vpack (w : VgWord) : Statement (.vpack w) := by
  refine of_word rfl fun (h : w.ops.wf .dss = true) => ?_
  exact decodeTableWord_vector _ 0x63 (.vg .dss .vpack) _ (w.encode_lt 0x63 (by decide)) (w.opcode_encode 0x63 (by decide)) (by decide) (by decide) rfl
    ((Row.decode_vg ..).trans (w.decode_encode .dss 0x63 _ (by decide) h))
theorem vunpk (w : VgWord) : Statement (.vunpk w) := by
  refine of_word rfl fun (h : w.ops.wf .ds = true) => ?_
  exact decodeTableWord_vector _ 0x64 (.vg .ds .vunpk) _ (w.encode_lt 0x64 (by decide)) (w.opcode_encode 0x64 (by decide)) (by decide) (by decide) rfl
    ((Row.decode_vg ..).trans (w.decode_encode .ds 0x64 _ (by decide) h))
theorem vspars (w : VgWord) : Statement (.vspars w) := by
  refine of_word rfl fun (h : w.ops.wf .dss = true) => ?_
  exact decodeTableWord_vector _ 0x65 (.vg .dss .vspars) _ (w.encode_lt 0x65 (by decide)) (w.opcode_encode 0x65 (by decide)) (by decide) (by decide) rfl
    ((Row.decode_vg ..).trans (w.decode_encode .dss 0x65 _ (by decide) h))
theorem vzbm (w : VgWord) : Statement (.vzbm w) := by
  refine of_word rfl fun (h : w.ops.wf .ds = true) => ?_
  exact decodeTableWord_vector _ 0x66 (.vg .ds .vzbm) _ (w.encode_lt 0x66 (by decide)) (w.opcode_encode 0x66 (by decide)) (by decide) (by decide) rfl
    ((Row.decode_vg ..).trans (w.decode_encode .ds 0x66 _ (by decide) h))
theorem vrsum (w : VgWord) : Statement (.vrsum w) := by
  refine of_word rfl fun (h : w.ops.wf .ds = true) => ?_
  exact decodeTableWord_vector _ 0x68 (.vg .ds .vrsum) _ (w.encode_lt 0x68 (by decide)) (w.opcode_encode 0x68 (by decide)) (by decide) (by decide) rfl
    ((Row.decode_vg ..).trans (w.decode_encode .ds 0x68 _ (by decide) h))
theorem vrmax (w : VgWord) : Statement (.vrmax w) := by
  refine of_word rfl fun (h : w.ops.wf .ds = true) => ?_
  exact decodeTableWord_vector _ 0x69 (.vg .ds .vrmax) _ (w.encode_lt 0x69 (by decide)) (w.opcode_encode 0x69 (by decide)) (by decide) (by decide) rfl
    ((Row.decode_vg ..).trans (w.decode_encode .ds 0x69 _ (by decide) h))
theorem vrmin (w : VgWord) : Statement (.vrmin w) := by
  refine of_word rfl fun (h : w.ops.wf .ds = true) => ?_
  exact decodeTableWord_vector _ 0x6A (.vg .ds .vrmin) _ (w.encode_lt 0x6A (by decide)) (w.opcode_encode 0x6A (by decide)) (by decide) (by decide) rfl
    ((Row.decode_vg ..).trans (w.decode_encode .ds 0x6A _ (by decide) h))
theorem vramax (w : VgWord) : Statement (.vramax w) := by
  refine of_word rfl fun (h : w.ops.wf .ds = true) => ?_
  exact decodeTableWord_vector _ 0x6B (.vg .ds .vramax) _ (w.encode_lt 0x6B (by decide)) (w.opcode_encode 0x6B (by decide)) (by decide) (by decide) rfl
    ((Row.decode_vg ..).trans (w.decode_encode .ds 0x6B _ (by decide) h))
theorem vcsum (w : VgWord) : Statement (.vcsum w) := by
  refine of_word rfl fun (h : w.ops.wf .ds = true) => ?_
  exact decodeTableWord_vector _ 0x6C (.vg .ds .vcsum) _ (w.encode_lt 0x6C (by decide)) (w.opcode_encode 0x6C (by decide)) (by decide) (by decide) rfl
    ((Row.decode_vg ..).trans (w.decode_encode .ds 0x6C _ (by decide) h))
theorem vscan (w : VgWord) : Statement (.vscan w) := by
  refine of_word rfl fun (h : w.ops.wf .ds = true) => ?_
  exact decodeTableWord_vector _ 0x6D (.vg .ds .vscan) _ (w.encode_lt 0x6D (by decide)) (w.opcode_encode 0x6D (by decide)) (by decide) (by decide) rfl
    ((Row.decode_vg ..).trans (w.decode_encode .ds 0x6D _ (by decide) h))
theorem vmov (w : VgWord) : Statement (.vmov w) := by
  refine of_word rfl fun (h : w.ops.wf .ds = true) => ?_
  exact decodeTableWord_vector _ 0x70 (.vg .ds .vmov) _ (w.encode_lt 0x70 (by decide)) (w.opcode_encode 0x70 (by decide)) (by decide) (by decide) rfl
    ((Row.decode_vg ..).trans (w.decode_encode .ds 0x70 _ (by decide) h))
theorem vtrans (w : VgWord) : Statement (.vtrans w) := by
  refine of_word rfl fun (h : w.ops.wf .ds = true) => ?_
  exact decodeTableWord_vector _ 0x71 (.vg .ds .vtrans) _ (w.encode_lt 0x71 (by decide)) (w.opcode_encode 0x71 (by decide)) (by decide) (by decide) rfl
    ((Row.decode_vg ..).trans (w.decode_encode .ds 0x71 _ (by decide) h))
theorem vbcast (w : VgWord) : Statement (.vbcast w) := by
  refine of_word rfl fun (h : w.ops.wf .ds = true) => ?_
  exact decodeTableWord_vector _ 0x72 (.vg .ds .vbcast) _ (w.encode_lt 0x72 (by decide)) (w.opcode_encode 0x72 (by decide)) (by decide) (by decide) rfl
    ((Row.decode_vg ..).trans (w.decode_encode .ds 0x72 _ (by decide) h))
theorem vshuf (w : VgWord) : Statement (.vshuf w) := by
  refine of_word rfl fun (h : w.ops.wf .dss = true) => ?_
  exact decodeTableWord_vector _ 0x73 (.vg .dss .vshuf) _ (w.encode_lt 0x73 (by decide)) (w.opcode_encode 0x73 (by decide)) (by decide) (by decide) rfl
    ((Row.decode_vg ..).trans (w.decode_encode .dss 0x73 _ (by decide) h))
theorem vrot (w : VgWord) : Statement (.vrot w) := by
  refine of_word rfl fun (h : w.ops.wf .ds = true) => ?_
  exact decodeTableWord_vector _ 0x74 (.vg .ds .vrot) _ (w.encode_lt 0x74 (by decide)) (w.opcode_encode 0x74 (by decide)) (by decide) (by decide) rfl
    ((Row.decode_vg ..).trans (w.decode_encode .ds 0x74 _ (by decide) h))
theorem vsel (w : VgWord) : Statement (.vsel w) := by
  refine of_word rfl fun (h : w.ops.wf .dss = true) => ?_
  exact decodeTableWord_vector _ 0x75 (.vg .dss .vsel) _ (w.encode_lt 0x75 (by decide)) (w.opcode_encode 0x75 (by decide)) (by decide) (by decide) rfl
    ((Row.decode_vg ..).trans (w.decode_encode .dss 0x75 _ (by decide) h))
theorem vext (w : VgWord) : Statement (.vext w) := by
  refine of_word rfl fun (h : w.ops.wf .s = true) => ?_
  exact decodeTableWord_vector _ 0x76 (.vg .s .vext) _ (w.encode_lt 0x76 (by decide)) (w.opcode_encode 0x76 (by decide)) (by decide) (by decide) rfl
    ((Row.decode_vg ..).trans (w.decode_encode .s 0x76 _ (by decide) h))
theorem vins (w : VgWord) : Statement (.vins w) := by
  refine of_word rfl fun (h : w.ops.wf .d1 = true) => ?_
  exact decodeTableWord_vector _ 0x77 (.vg .d1 .vins) _ (w.encode_lt 0x77 (by decide)) (w.opcode_encode 0x77 (by decide)) (by decide) (by decide) rfl
    ((Row.decode_vg ..).trans (w.decode_encode .d1 0x77 _ (by decide) h))
theorem vfill (w : VgWord) : Statement (.vfill w) := by
  refine of_word rfl fun (h : w.ops.wf .d1 = true) => ?_
  exact decodeTableWord_vector _ 0x78 (.vg .d1 .vfill) _ (w.encode_lt 0x78 (by decide)) (w.opcode_encode 0x78 (by decide)) (by decide) (by decide) rfl
    ((Row.decode_vg ..).trans (w.decode_encode .d1 0x78 _ (by decide) h))
theorem vmlog (w : VgWord) : Statement (.vmlog w) := by
  refine of_word rfl fun (h : w.ops.wf .none = true) => ?_
  exact decodeTableWord_vector _ 0x7C (.vg .none .vmlog) _ (w.encode_lt 0x7C (by decide)) (w.opcode_encode 0x7C (by decide)) (by decide) (by decide) rfl
    ((Row.decode_vg ..).trans (w.decode_encode .none 0x7C _ (by decide) h))
theorem vmpop (w : VgWord) : Statement (.vmpop w) := by
  refine of_word rfl fun (h : w.ops.wf .none = true) => ?_
  exact decodeTableWord_vector _ 0x7D (.vg .none .vmpop) _ (w.encode_lt 0x7D (by decide)) (w.opcode_encode 0x7D (by decide)) (by decide) (by decide) rfl
    ((Row.decode_vg ..).trans (w.decode_encode .none 0x7D _ (by decide) h))
theorem vmfirst (w : VgWord) : Statement (.vmfirst w) := by
  refine of_word rfl fun (h : w.ops.wf .none = true) => ?_
  exact decodeTableWord_vector _ 0x7E (.vg .none .vmfirst) _ (w.encode_lt 0x7E (by decide)) (w.opcode_encode 0x7E (by decide)) (by decide) (by decide) rfl
    ((Row.decode_vg ..).trans (w.decode_encode .none 0x7E _ (by decide) h))
theorem vsfc (w : VgWord) : Statement (.vsfc w) := by
  refine of_word rfl fun (h : w.ops.wf .dsss = true) => ?_
  exact decodeTableWord_vector _ 0x80 (.vg .dsss .vsfc) _ (w.encode_lt 0x80 (by decide)) (w.opcode_encode 0x80 (by decide)) (by decide) (by decide) rfl
    ((Row.decode_vg ..).trans (w.decode_encode .dsss 0x80 _ (by decide) h))
theorem vhist (w : VgWord) : Statement (.vhist w) := by
  refine of_word rfl fun (h : w.ops.wf .dss = true) => ?_
  exact decodeTableWord_vector _ 0x81 (.vg .dss .vhist) _ (w.encode_lt 0x81 (by decide)) (w.opcode_encode 0x81 (by decide)) (by decide) (by decide) rfl
    ((Row.decode_vg ..).trans (w.decode_encode .dss 0x81 _ (by decide) h))
theorem cld (w : CgWord) : Statement (.cld w) := by
  refine of_word rfl fun (h : w.ops.wf .d1 = true) => ?_
  exact decodeTableWord_copy _ 0xB0 (.cg .d1 .cld) _ (w.encode_lt 0xB0 (by decide)) (w.opcode_encode 0xB0 (by decide)) (by decide) rfl
    ((Row.decode_cg ..).trans (w.decode_encode .d1 0xB0 _ (by decide) h))
theorem cst (w : CgWord) : Statement (.cst w) := by
  refine of_word rfl fun (h : w.ops.wf .s = true) => ?_
  exact decodeTableWord_copy _ 0xB1 (.cg .s .cst) _ (w.encode_lt 0xB1 (by decide)) (w.opcode_encode 0xB1 (by decide)) (by decide) rfl
    ((Row.decode_cg ..).trans (w.decode_encode .s 0xB1 _ (by decide) h))
theorem ccpy (w : CgWord) : Statement (.ccpy w) := by
  refine of_word rfl fun (h : w.ops.wf .none = true) => ?_
  exact decodeTableWord_copy _ 0xB2 (.cg .none .ccpy) _ (w.encode_lt 0xB2 (by decide)) (w.opcode_encode 0xB2 (by decide)) (by decide) rfl
    ((Row.decode_cg ..).trans (w.decode_encode .none 0xB2 _ (by decide) h))
theorem cfill (w : CgWord) : Statement (.cfill w) := by
  refine of_word rfl fun (h : w.ops.wf .none = true) => ?_
  exact decodeTableWord_copy _ 0xB3 (.cg .none .cfill) _ (w.encode_lt 0xB3 (by decide)) (w.opcode_encode 0xB3 (by decide)) (by decide) rfl
    ((Row.decode_cg ..).trans (w.decode_encode .none 0xB3 _ (by decide) h))
theorem cwin (w : CgWord) : Statement (.cwin w) := by
  refine of_word rfl fun (h : w.ops.wf .none = true) => ?_
  exact decodeTableWord_copy _ 0xB4 (.cg .none .cwin) _ (w.encode_lt 0xB4 (by decide)) (w.opcode_encode 0xB4 (by decide)) (by decide) rfl
    ((Row.decode_cg ..).trans (w.decode_encode .none 0xB4 _ (by decide) h))
theorem cadv (w : CgWord) : Statement (.cadv w) := by
  refine of_word rfl fun (h : w.ops.wf .none = true) => ?_
  exact decodeTableWord_copy _ 0xB5 (.cg .none .cadv) _ (w.encode_lt 0xB5 (by decide)) (w.opcode_encode 0xB5 (by decide)) (by decide) rfl
    ((Row.decode_cg ..).trans (w.decode_encode .none 0xB5 _ (by decide) h))
theorem windowGranuleLand (core : Nat) (idx : Nat) : Statement (.windowGranuleLand core idx) := of_none rfl
theorem cgath (w : CgWord) : Statement (.cgath w) := by
  refine of_word rfl fun (h : w.ops.wf .ds = true) => ?_
  exact decodeTableWord_copy _ 0xB8 (.cg .ds .cgath) _ (w.encode_lt 0xB8 (by decide)) (w.opcode_encode 0xB8 (by decide)) (by decide) rfl
    ((Row.decode_cg ..).trans (w.decode_encode .ds 0xB8 _ (by decide) h))
theorem cscat (w : CgWord) : Statement (.cscat w) := by
  refine of_word rfl fun (h : w.ops.wf .ss = true) => ?_
  exact decodeTableWord_copy _ 0xB9 (.cg .ss .cscat) _ (w.encode_lt 0xB9 (by decide)) (w.opcode_encode 0xB9 (by decide)) (by decide) rfl
    ((Row.decode_cg ..).trans (w.decode_encode .ss 0xB9 _ (by decide) h))
theorem copyDataReturn (core : Nat) (idx : Nat) : Statement (.copyDataReturn core idx) := of_none rfl
theorem copyWriteAccept (core : Nat) (idx : Nat) : Statement (.copyWriteAccept core idx) := of_none rfl
theorem cdec (w : CgWord) : Statement (.cdec w) := by
  refine of_word rfl fun (h : w.ops.wf .none = true) => ?_
  exact decodeTableWord_copy _ 0xBA (.cg .none .cdec) _ (w.encode_lt 0xBA (by decide)) (w.opcode_encode 0xBA (by decide)) (by decide) rfl
    ((Row.decode_cg ..).trans (w.decode_encode .none 0xBA _ (by decide) h))
theorem cenc (w : CgWord) : Statement (.cenc w) := by
  refine of_word rfl fun (h : w.ops.wf .none = true) => ?_
  exact decodeTableWord_copy _ 0xBB (.cg .none .cenc) _ (w.encode_lt 0xBB (by decide)) (w.opcode_encode 0xBB (by decide)) (by decide) rfl
    ((Row.decode_cg ..).trans (w.decode_encode .none 0xBB _ (by decide) h))
theorem cxfm (w : CgWord) : Statement (.cxfm w) := by
  refine of_word rfl fun (h : w.ops.wf .none = true) => ?_
  exact decodeTableWord_copy _ 0xBC (.cg .none .cxfm) _ (w.encode_lt 0xBC (by decide)) (w.opcode_encode 0xBC (by decide)) (by decide) rfl
    ((Row.decode_cg ..).trans (w.decode_encode .none 0xBC _ (by decide) h))
theorem cstash (w : CgWord) : Statement (.cstash w) := by
  refine of_word rfl fun (h : w.ops.wf .s = true) => ?_
  exact decodeTableWord_copy _ 0xC0 (.cg .s .cstash) _ (w.encode_lt 0xC0 (by decide)) (w.opcode_encode 0xC0 (by decide)) (by decide) rfl
    ((Row.decode_cg ..).trans (w.decode_encode .s 0xC0 _ (by decide) h))
theorem cunst (w : CgWord) : Statement (.cunst w) := by
  refine of_word rfl fun (h : w.ops.wf .d1 = true) => ?_
  exact decodeTableWord_copy _ 0xC1 (.cg .d1 .cunst) _ (w.encode_lt 0xC1 (by decide)) (w.opcode_encode 0xC1 (by decide)) (by decide) rfl
    ((Row.decode_cg ..).trans (w.decode_encode .d1 0xC1 _ (by decide) h))
theorem csdrop (w : CgWord) : Statement (.csdrop w) := by
  refine of_word rfl fun (h : w.ops.wf .none = true) => ?_
  exact decodeTableWord_copy _ 0xC2 (.cg .none .csdrop) _ (w.encode_lt 0xC2 (by decide)) (w.opcode_encode 0xC2 (by decide)) (by decide) rfl
    ((Row.decode_cg ..).trans (w.decode_encode .none 0xC2 _ (by decide) h))
theorem cbat (w : CgWord) : Statement (.cbat w) := by
  refine of_word rfl fun (h : w.ops.wf .ss = true) => ?_
  exact decodeTableWord_copy _ 0xC4 (.cg .ss .cbat) _ (w.encode_lt 0xC4 (by decide)) (w.opcode_encode 0xC4 (by decide)) (by decide) rfl
    ((Row.decode_cg ..).trans (w.decode_encode .ss 0xC4 _ (by decide) h))
theorem csend (w : CgWord) : Statement (.csend w) := by
  refine of_word rfl fun (h : w.ops.wf .s = true) => ?_
  exact decodeTableWord_copy _ 0xC8 (.cg .s .csend) _ (w.encode_lt 0xC8 (by decide)) (w.opcode_encode 0xC8 (by decide)) (by decide) rfl
    ((Row.decode_cg ..).trans (w.decode_encode .s 0xC8 _ (by decide) h))
theorem crecv (w : CgWord) : Statement (.crecv w) := by
  refine of_word rfl fun (h : w.ops.wf .d1 = true) => ?_
  exact decodeTableWord_copy _ 0xC9 (.cg .d1 .crecv) _ (w.encode_lt 0xC9 (by decide)) (w.opcode_encode 0xC9 (by decide)) (by decide) rfl
    ((Row.decode_cg ..).trans (w.decode_encode .d1 0xC9 _ (by decide) h))
theorem cchstStat (w : CgWord) : Statement (.cchstStat w) := by
  refine of_word rfl fun (h : (w.ops.wf .none && (w.mod.dfmt.val % 4 == 0)) = true) => ?_
  obtain ⟨h, q⟩ := Bool.and_eq_true_iff.mp h
  have q : bitsAt (w.encode 0xCA) 40 2 = 0 := (w.mod_bits 0xCA 40 2 (by decide) (by decide)).trans (w.mod.form_bits.1.trans (beq_iff_eq.mp q))
  exact decodeTableWord_copy _ 0xCA (.cg .none .cchstStat) _ (w.encode_lt 0xCA (by decide)) (w.opcode_encode 0xCA (by decide)) (by decide) (by rw [q]; rfl)
    ((Row.decode_cg ..).trans (w.decode_encode .none 0xCA _ (by decide) h))
theorem cchstGrant (w : CgWord) : Statement (.cchstGrant w) := by
  refine of_word rfl fun (h : (w.ops.wf .none && (w.mod.dfmt.val % 4 == 1)) = true) => ?_
  obtain ⟨h, q⟩ := Bool.and_eq_true_iff.mp h
  have q : bitsAt (w.encode 0xCA) 40 2 = 1 := (w.mod_bits 0xCA 40 2 (by decide) (by decide)).trans (w.mod.form_bits.1.trans (beq_iff_eq.mp q))
  exact decodeTableWord_copy _ 0xCA (.cg .none .cchstGrant) _ (w.encode_lt 0xCA (by decide)) (w.opcode_encode 0xCA (by decide)) (by decide) (by rw [q]; rfl)
    ((Row.decode_cg ..).trans (w.decode_encode .none 0xCA _ (by decide) h))
theorem cringSum (w : CgWord) : Statement (.cringSum w) := by
  refine of_word rfl fun (h : (w.ops.wf .none && (w.mod.cx.val % 4 == 0)) = true) => ?_
  obtain ⟨h, q⟩ := Bool.and_eq_true_iff.mp h
  have q : bitsAt (w.encode 0xCC) 0 2 = 0 := (w.mod_bits 0xCC 0 2 (by decide) (by decide)).trans (w.mod.form_bits.2.1.trans (beq_iff_eq.mp q))
  exact decodeTableWord_copy _ 0xCC (.cg .none .cringSum) _ (w.encode_lt 0xCC (by decide)) (w.opcode_encode 0xCC (by decide)) (by decide) (by rw [q]; rfl)
    ((Row.decode_cg ..).trans (w.decode_encode .none 0xCC _ (by decide) h))
theorem cringMax (w : CgWord) : Statement (.cringMax w) := by
  refine of_word rfl fun (h : (w.ops.wf .none && (w.mod.cx.val % 4 == 1)) = true) => ?_
  obtain ⟨h, q⟩ := Bool.and_eq_true_iff.mp h
  have q : bitsAt (w.encode 0xCC) 0 2 = 1 := (w.mod_bits 0xCC 0 2 (by decide) (by decide)).trans (w.mod.form_bits.2.1.trans (beq_iff_eq.mp q))
  exact decodeTableWord_copy _ 0xCC (.cg .none .cringMax) _ (w.encode_lt 0xCC (by decide)) (w.opcode_encode 0xCC (by decide)) (by decide) (by rw [q]; rfl)
    ((Row.decode_cg ..).trans (w.decode_encode .none 0xCC _ (by decide) h))
theorem cringBcast (w : CgWord) : Statement (.cringBcast w) := by
  refine of_word rfl fun (h : (w.ops.wf .none && (w.mod.cx.val % 4 == 2)) = true) => ?_
  obtain ⟨h, q⟩ := Bool.and_eq_true_iff.mp h
  have q : bitsAt (w.encode 0xCC) 0 2 = 2 := (w.mod_bits 0xCC 0 2 (by decide) (by decide)).trans (w.mod.form_bits.2.1.trans (beq_iff_eq.mp q))
  exact decodeTableWord_copy _ 0xCC (.cg .none .cringBcast) _ (w.encode_lt 0xCC (by decide)) (w.opcode_encode 0xCC (by decide)) (by decide) (by rw [q]; rfl)
    ((Row.decode_cg ..).trans (w.decode_encode .none 0xCC _ (by decide) h))
theorem crepart (w : CgWord) : Statement (.crepart w) := by
  refine of_word rfl fun (h : w.ops.wf .none = true) => ?_
  exact decodeTableWord_copy _ 0xCD (.cg .none .crepart) _ (w.encode_lt 0xCD (by decide)) (w.opcode_encode 0xCD (by decide)) (by decide) rfl
    ((Row.decode_cg ..).trans (w.decode_encode .none 0xCD _ (by decide) h))
theorem cpin (w : CgWord) : Statement (.cpin w) := by
  refine of_word rfl fun (h : w.ops.wf .none = true) => ?_
  exact decodeTableWord_copy _ 0xD0 (.cg .none .cpin) _ (w.encode_lt 0xD0 (by decide)) (w.opcode_encode 0xD0 (by decide)) (by decide) rfl
    ((Row.decode_cg ..).trans (w.decode_encode .none 0xD0 _ (by decide) h))
theorem cunpin (w : CgWord) : Statement (.cunpin w) := by
  refine of_word rfl fun (h : w.ops.wf .none = true) => ?_
  exact decodeTableWord_copy _ 0xD1 (.cg .none .cunpin) _ (w.encode_lt 0xD1 (by decide)) (w.opcode_encode 0xD1 (by decide)) (by decide) rfl
    ((Row.decode_cg ..).trans (w.decode_encode .none 0xD1 _ (by decide) h))
theorem cpref (w : CgWord) : Statement (.cpref w) := by
  refine of_word rfl fun (h : w.ops.wf .none = true) => ?_
  exact decodeTableWord_copy _ 0xD2 (.cg .none .cpref) _ (w.encode_lt 0xD2 (by decide)) (w.opcode_encode 0xD2 (by decide)) (by decide) rfl
    ((Row.decode_cg ..).trans (w.decode_encode .none 0xD2 _ (by decide) h))
theorem cflush (w : CgWord) : Statement (.cflush w) := by
  refine of_word rfl fun (h : w.ops.wf .none = true) => ?_
  exact decodeTableWord_copy _ 0xD3 (.cg .none .cflush) _ (w.encode_lt 0xD3 (by decide)) (w.opcode_encode 0xD3 (by decide)) (by decide) rfl
    ((Row.decode_cg ..).trans (w.decode_encode .none 0xD3 _ (by decide) h))
theorem cmetaRead (w : CgWord) : Statement (.cmetaRead w) := by
  refine of_word rfl fun (h : (w.ops.wf .d1 && (w.mod.cx.val % 2 == 0)) = true) => ?_
  obtain ⟨h, q⟩ := Bool.and_eq_true_iff.mp h
  have q : bitsAt (w.encode 0xD4) 0 1 = 0 := (w.mod_bits 0xD4 0 1 (by decide) (by decide)).trans (w.mod.form_bits.2.2.trans (beq_iff_eq.mp q))
  exact decodeTableWord_copy _ 0xD4 (.cg .d1 .cmetaRead) _ (w.encode_lt 0xD4 (by decide)) (w.opcode_encode 0xD4 (by decide)) (by decide) (by rw [q]; rfl)
    ((Row.decode_cg ..).trans (w.decode_encode .d1 0xD4 _ (by decide) h))
theorem cmetaWrite (w : CgWord) : Statement (.cmetaWrite w) := by
  refine of_word rfl fun (h : (w.ops.wf .s && (w.mod.cx.val % 2 == 1)) = true) => ?_
  obtain ⟨h, q⟩ := Bool.and_eq_true_iff.mp h
  have q : bitsAt (w.encode 0xD4) 0 1 = 1 := (w.mod_bits 0xD4 0 1 (by decide) (by decide)).trans (w.mod.form_bits.2.2.trans (beq_iff_eq.mp q))
  exact decodeTableWord_copy _ 0xD4 (.cg .s .cmetaWrite) _ (w.encode_lt 0xD4 (by decide)) (w.opcode_encode 0xD4 (by decide)) (by decide) (by rw [q]; rfl)
    ((Row.decode_cg ..).trans (w.decode_encode .s 0xD4 _ (by decide) h))
theorem kick (q : Nat) : Statement (.kick q) := of_none rfl
theorem tailReadReturn (q : Nat) : Statement (.tailReadReturn q) := of_none rfl
theorem queueEnable (q : Nat) : Statement (.queueEnable q) := of_none rfl
theorem queueDisable (q : Nat) : Statement (.queueDisable q) := of_none rfl
theorem recordEnter (q : Nat) : Statement (.recordEnter q) := of_none rfl
theorem nop (q : Nat) (idx : Nat) : Statement (.nop q idx) := of_none rfl
theorem task (q : Nat) (idx : Nat) : Statement (.task q idx) := of_none rfl
theorem stage (q : Nat) (idx : Nat) : Statement (.stage q idx) := of_none rfl
theorem xform (q : Nat) (idx : Nat) : Statement (.xform q idx) := of_none rfl
theorem coll (q : Nat) (idx : Nat) : Statement (.coll q idx) := of_none rfl
theorem signal (q : Nat) (idx : Nat) : Statement (.signal q idx) := of_none rfl
theorem wait (q : Nat) (idx : Nat) : Statement (.wait q idx) := of_none rfl
theorem waitPoll (q : Nat) (idx : Nat) : Statement (.waitPoll q idx) := of_none rfl
theorem waitTimeout (q : Nat) (idx : Nat) : Statement (.waitTimeout q idx) := of_none rfl
theorem nodeComplete (q : Nat) (idx : Nat) : Statement (.nodeComplete q idx) := of_none rfl
theorem cplheadReread (q : Nat) : Statement (.cplheadReread q) := of_none rfl
theorem msixUnmask (entry : Nat) : Statement (.msixUnmask entry) := of_none rfl
theorem leasePhase (q : Nat) (idx : Nat) : Statement (.leasePhase q idx) := of_none rfl
theorem noticeackRetry (nid : Nat) : Statement (.noticeackRetry nid) := of_none rfl
theorem noticeackFail (nid : Nat) : Statement (.noticeackFail nid) := of_none rfl
theorem nqcfgWrite (v : W64) : Statement (.nqcfgWrite v) := of_none rfl
theorem nqheadWrite (v : W32) : Statement (.nqheadWrite v) := of_none rfl
theorem tlbInvalidate (v : W32) : Statement (.tlbInvalidate v) := of_none rfl
theorem tlbInvalidateDone : Statement .tlbInvalidateDone := of_none rfl
theorem atsInvalidate (pasid : Nat) (va : Nat) (len : Nat) : Statement (.atsInvalidate pasid va len) := of_none rfl
theorem bar4Read (off : Nat) (len : Nat) : Statement (.bar4Read off len) := of_none rfl
theorem bar4Write (off : Nat) (data : List Byte) : Statement (.bar4Write off data) := of_none rfl
theorem registerWrite (off : Nat) (v : W64) : Statement (.registerWrite off v) := of_none rfl
theorem placeNode : Statement .placeNode := of_none rfl
theorem placementReserve (cand : Nat) : Statement (.placementReserve cand) := of_none rfl
theorem preemptTimeout (cand : Nat) : Statement (.preemptTimeout cand) := of_none rfl
theorem contextSave (ctxid : Nat) : Statement (.contextSave ctxid) := of_none rfl
theorem contextResume (ctxid : Nat) : Statement (.contextResume ctxid) := of_none rfl
theorem partStart (core : Nat) : Statement (.partStart core) := of_none rfl
theorem rendezvous (core : Nat) : Statement (.rendezvous core) := of_none rfl
theorem iterLong (core : Nat) : Statement (.iterLong core) := of_none rfl
theorem retire (ctxid : Nat) : Statement (.retire ctxid) := of_none rfl
theorem faultTeardown (ctxid : Nat) : Statement (.faultTeardown ctxid) := of_none rfl
theorem frheadWrite (v : W32) : Statement (.frheadWrite v) := of_none rfl
theorem podBarrierArrival (group : Nat) (sender : Sender) : Statement (.podBarrierArrival group sender) := of_none rfl
theorem trmTokenPass (ctxid : Nat) : Statement (.trmTokenPass ctxid) := of_none rfl
theorem mbsEvaluate (stage : Nat) : Statement (.mbsEvaluate stage) := of_none rfl
theorem starveExpiry (stage : Nat) (row : Nat) : Statement (.starveExpiry stage row) := of_none rfl
theorem spanReportReceive (stage : Nat) (sender : Sender) (fwd : List Nat) (bwd : List Nat) (ended : EndedSteps) (free : List Nat) : Statement (.spanReportReceive stage sender fwd bwd ended free) := of_none rfl
theorem spanPickReceive (stage : Nat) (inc : Nat) (gang : Nat) (tag : Nat) (pick : PickTerms) (t : Nat) (adv : Bool) : Statement (.spanPickReceive stage inc gang tag pick t adv) := of_none rfl
theorem spanStartTime (stage : Nat) : Statement (.spanStartTime stage) := of_none rfl
theorem spanMemberLost (stage : Nat) (member : Nat) : Statement (.spanMemberLost stage member) := of_none rfl
theorem firnWriteDone (slot : Nat) : Statement (.firnWriteDone slot) := of_none rfl
theorem firnFillDone (slot : Nat) : Statement (.firnFillDone slot) := of_none rfl
theorem bankSwitchComplete (quad : Nat) (bank : Nat) : Statement (.bankSwitchComplete quad bank) := of_none rfl
theorem neveDisplace (x : NeveUse) (pline : Nat) (sectors : Nat) (coding : Nat) : Statement (.neveDisplace x pline sectors coding) := of_none rfl
theorem poisonDetect (sector : Nat) (error : FoundError) : Statement (.poisonDetect sector error) := of_none rfl
theorem memoryEventRecord : Statement .memoryEventRecord := of_none rfl
theorem rowActivation (row : Nat) (checkFails : Bool) : Statement (.rowActivation row checkFails) := of_none rfl
theorem rowRefresh (row : Nat) : Statement (.rowRefresh row) := of_none rfl
theorem promoteCount (tier : Nat) (region : Nat) : Statement (.promoteCount tier region) := of_none rfl
theorem acreset (v : W64) : Statement (.acreset v) := of_none rfl
theorem tierHigh (tier : Nat) : Statement (.tierHigh tier) := of_none rfl
theorem tierLow (tier : Nat) : Statement (.tierLow tier) := of_none rfl
theorem rgcmd (v : W64) : Statement (.rgcmd v) := of_none rfl
theorem rgcmdDone : Statement .rgcmdDone := of_none rfl
theorem tmcmd (v : W64) : Statement (.tmcmd v) := of_none rfl
theorem tierMoveDone : Statement .tierMoveDone := of_none rfl
theorem calvctlGo (v : W64) : Statement (.calvctlGo v) := of_none rfl
theorem calvMapLoaded : Statement .calvMapLoaded := of_none rfl
theorem calvLineCopy (uncorrectable : Bool) : Statement (.calvLineCopy uncorrectable) := of_none rfl
theorem calvMoveDone : Statement .calvMoveDone := of_none rfl
theorem calvSettleDone : Statement .calvSettleDone := of_none rfl
theorem phase (core : Nat) (agent : Nat) (addr : Nat) (stamp : Nat) : Statement (.phase core agent addr stamp) := of_none rfl
theorem channelEndOpen (c : Nat) (w0 : W64) : Statement (.channelEndOpen c w0) := of_none rfl
theorem channelEndClose (c : Nat) (w0 : W64) : Statement (.channelEndClose c w0) := of_none rfl
theorem messageDelivered (c : Nat) (src : Nat) (end_ : SendingEnd) (n : Nat) (tag : Nat) (rows : List (List Byte)) (held : Bool) (cancel : Bool) : Statement (.messageDelivered c src end_ n tag rows held cancel) := of_none rfl
theorem messageConfirm (c : Nat) (n : Nat) : Statement (.messageConfirm c n) := of_none rfl
theorem ackReceive (c : Nat) (aseq : Nat) : Statement (.ackReceive c aseq) := of_none rfl
theorem channelBroken (c : Nat) : Statement (.channelBroken c) := of_none rfl
theorem batchReceive (src : Nat) (inc : Nat) (id : Nat) (op : AtomicOp) (rows : List BatchRow) : Statement (.batchReceive src inc id op rows) := of_none rfl
theorem batchReply (target : Nat) (id : Nat) (old : List (List W32)) : Statement (.batchReply target id old) := of_none rfl
theorem batchResend (target : Nat) (id : Nat) : Statement (.batchResend target id) := of_none rfl
theorem remoteRequest (m : RemoteMsg) : Statement (.remoteRequest m) := of_none rfl
theorem resetNak (pkg : Nat) (id : Nat) (inc : Nat) : Statement (.resetNak pkg id inc) := of_none rfl
theorem remoteTimeout (pkg : Nat) (id : Nat) : Statement (.remoteTimeout pkg id) := of_none rfl
theorem incarnationAnnounce (pkg : Nat) (inc : Nat) : Statement (.incarnationAnnounce pkg inc) := of_none rfl
theorem ringChunkReceive (group : Nat) (sender : Sender) (terms : RingTerms) (agrees : Bool) : Statement (.ringChunkReceive group sender terms agrees) := of_none rfl
theorem driftLoadsReceive (group : Nat) (sender : Sender) (loads : List Nat) (agrees : Bool) : Statement (.driftLoadsReceive group sender loads agrees) := of_none rfl
theorem driftOfferReceive (group : Nat) (sender : Sender) (count : Nat) : Statement (.driftOfferReceive group sender count) := of_none rfl
theorem driftRecordsReceive (group : Nat) (sender : Sender) (recs : List DriftRec) (refused : Nat) (marks : DriftMarks) (written : Bool) : Statement (.driftRecordsReceive group sender recs refused marks written) := of_none rfl
theorem powerControlTick (x : Sensors) : Statement (.powerControlTick x) := of_none rfl
theorem trip (signs : TripSigns) : Statement (.trip signs) := of_none rfl
theorem linkRetrain : Statement .linkRetrain := of_none rfl
theorem parkRequest : Statement .parkRequest := of_none rfl
theorem parkedEnter : Statement .parkedEnter := of_none rfl
theorem parkClear : Statement .parkClear := of_none rfl
theorem correctedError (error : SectorError) : Statement (.correctedError error) := of_none rfl
theorem stackWarnWindow (stack : Nat) : Statement (.stackWarnWindow stack) := of_none rfl
theorem load : Statement .load := of_none rfl
theorem commit : Statement .commit := of_none rfl
theorem enrol : Statement .enrol := of_none rfl
theorem unenrol : Statement .unenrol := of_none rfl
theorem quote : Statement .quote := of_none rfl
theorem coldReset : Statement .coldReset := of_none rfl
theorem warmReset : Statement .warmReset := of_none rfl
theorem illegalOpcode (f : DecodeFault) : Statement (.illegalOpcode f) := of_none rfl
theorem torusPortDown (port : Nat) : Statement (.torusPortDown port) := of_none rfl
theorem torusPortUp (port : Nat) : Statement (.torusPortUp port) := of_none rfl
theorem powerLoss : Statement .powerLoss := of_none rfl
theorem fwcmdComplete : Statement .fwcmdComplete := of_none rfl
theorem firmwareError : Statement .firmwareError := of_none rfl

end Sys2Proof.Laws.RoundTrip
end

