-- ==== Sys2Proof/Laws/Translate.lean ====
section
/-! SUPPORT. The checks of a virtual access change nothing but the translations held (R139, R143, R145). -/

set_option Elab.async false

namespace Sys2Proof.Machine

open Sys2Proof.Safety

/-- Nothing changes but the entries of the TLBs and of the ATC. -/
structure OnlyTlb (s u : State) : Prop where
  rest : u = { s with cores := u.cores, quads := u.quads, mem := { s.mem with atc := u.mem.atc } }
  core : ∀ k, u.core k = { s.core k with tlb := (u.core k).tlb }
  quad : ∀ q, u.quad q = { s.quad q with tlb := (u.quad q).tlb }

theorem onlyTlb_refl (s : State) : OnlyTlb s s := ⟨rfl, fun _ => rfl, fun _ => rfl⟩

theorem onlyTlb_trans {s t u : State} (h1 : OnlyTlb s t) (h2 : OnlyTlb t u) : OnlyTlb s u where
  rest := by
    have e := h2.rest
    rw [h1.rest] at e
    conv_lhs => rw [e]
  core k := by
    have e := h2.core k
    rw [h1.core k] at e
    exact e
  quad q := by
    have e := h2.quad q
    rw [h1.quad q] at e
    exact e

/-- An entry that comes into the TLBs of a core and of its quad changes nothing else (R143). -/
theorem holdLeaf_onlyTlb (s : State) (k : Fin 128) (t : TlbEntry) : OnlyTlb s (s.holdLeaf k t) where
  rest := rfl
  core j := by
    unfold State.holdLeaf
    simp only [State.setQuad_core]
    by_cases h : j = k
    · subst h; rw [State.setCore_core_self]
    · rw [State.setCore_core_ne _ _ h]
  quad q := by
    unfold State.holdLeaf
    by_cases h : q = quadOf k
    · subst h; rw [State.setQuad_quad_self]
    · rw [State.setQuad_quad_ne _ _ h, State.setCore_quad]

theorem translate_onlyTlb (s : State) (k : Option (Fin 128)) (pasid va : Nat) : OnlyTlb s (s.translate k pasid va).2 := by
  unfold State.translate
  split
  · exact onlyTlb_refl s
  · split
    · exact onlyTlb_refl s
    · split
      · cases k with
        | none => exact onlyTlb_refl s
        | some k => exact holdLeaf_onlyTlb s k _
      · exact onlyTlb_refl s

theorem setAtc_onlyTlb (s : State) (l : List AtcEntry) : OnlyTlb s (s.setMem { s.mem with atc := l }) :=
  ⟨rfl, fun _ => rfl, fun _ => rfl⟩

theorem ats_onlyTlb (s : State) (pasid a : Nat) : OnlyTlb s (s.ats pasid a).2 := by
  unfold State.ats
  dsimp only
  split
  · exact onlyTlb_refl s
  · split
    · split
      · split
        · exact setAtc_onlyTlb s _
        · exact onlyTlb_refl s
      · exact onlyTlb_refl s
    · exact onlyTlb_refl s

theorem pageDest_onlyTlb {s : State} {k : Option (Fin 128)} {pasid va n : Nat} {need : Need} {d : Dest} {u : State}
    (h : s.pageDest k pasid va n need = .ok (d, u)) : OnlyTlb s u := by
  unfold State.pageDest at h
  have ht := translate_onlyTlb s k pasid va
  split at h
  · cases h
  · cases h
  · rename_i log2 l s1 hw
    rw [hw] at ht
    split at h
    · cases h
    · dsimp only at h
      split at h
      · have ha := ats_onlyTlb s1 pasid (l.ma + va % 2 ^ log2)
        split at h
        · rename_i a s2 he
          rw [he] at ha
          cases h
          exact onlyTlb_trans ht ha
        · cases h
      · split at h
        · split at h
          · cases h; exact ht
          · cases h
        · split at h
          · cases h; exact ht
          · cases h

theorem windowDest_onlyTlb {s : State} {pasid va : Nat} {o : W64} {d : Dest} {u : State}
    (h : s.windowDest pasid va o = .ok (d, u)) : OnlyTlb s u := by
  unfold State.windowDest at h
  dsimp only at h
  split at h <;> cases h
  exact onlyTlb_refl s

theorem destAll_onlyTlb {f : State → Nat → Nat → Except Trap (Dest × State)}
    (hf : ∀ s a n d u, f s a n = .ok (d, u) → OnlyTlb s u) (l : List (Nat × Nat)) (s : State) (ds : List (Dest × Nat)) (u : State)
    (h : s.destAll f l = .ok (ds, u)) : OnlyTlb s u := by
  induction l generalizing s ds with
  | nil => cases h; exact onlyTlb_refl _
  | cons p t ih =>
    obtain ⟨va, n⟩ := p
    unfold State.destAll at h
    split at h
    · cases h
    · rename_i d s1 hd
      split at h
      · cases h
      · rename_i ds' s2 he
        cases h
        exact onlyTlb_trans (hf _ _ _ _ _ hd) (ih _ _ he)

/-- The checks of an access change nothing but the translations held (R139). -/
theorem virtual_onlyTlb {s : State} {k : Fin 128} {va n : Nat} {need : Need} {ds : List (Dest × Nat)} {u : State}
    (h : s.virtual k va n need = .ok (ds, u)) : OnlyTlb s u := by
  unfold State.virtual at h
  dsimp only at h
  split at h
  · cases h
  · split at h
    · split at h
      · cases h
      · split at h
        · exact destAll_onlyTlb (fun _ _ _ _ _ h => windowDest_onlyTlb h) _ _ _ _ h
        · cases h
    · exact destAll_onlyTlb (fun _ _ _ _ _ h => pageDest_onlyTlb h) _ _ _ _ h

theorem onlyTlb_ctx {s u : State} (h : OnlyTlb s u) (k : Fin 128) (c : CtxId) : u.ctx k c = s.ctx k c := by
  unfold State.ctx; rw [h.core k]; cases c <;> rfl
theorem onlyTlb_eng {s u : State} (h : OnlyTlb s u) (k : Fin 128) (e : Engine) : u.eng k e = s.eng k e := by
  unfold State.eng; rw [h.core k]; cases e <;> rfl
theorem onlyTlb_dline {s u : State} (h : OnlyTlb s u) (k : Fin 128) (a : Nat) : (u.core k).dline a = (s.core k).dline a := by
  rw [h.core k]; rfl
theorem onlyTlb_byte {s u : State} (h : OnlyTlb s u) (a : Nat) : u.mem.byte a = s.mem.byte a := by rw [h.rest]; rfl
theorem onlyTlb_fab {s u : State} (h : OnlyTlb s u) : u.fab = s.fab := by rw [h.rest]
theorem onlyTlb_seen {s u : State} (h : OnlyTlb s u) (k : Fin 128) (a : Nat) : seen u k a = seen s k a := by
  unfold seen; rw [onlyTlb_dline h, onlyTlb_byte h]

end Sys2Proof.Machine
end

