-- ==== Sys2Proof/Tests/Slice0.lean ====
section
/-! SUPPORT. Tests: ill-formed terms, words written out from the spec's encodings, and single steps with the results of the spec's
examples. -/

set_option Elab.async false

namespace Sys2Proof.Tests

open Sys2Proof Sys2Proof.Machine Sys2Proof.Safety

/-! ### Decoding: a word for every instruction, written from the encoding tables of the spec -/

/-- Whether each word decodes to the instruction beside it. -/
def readsAll (n : Nat) (l : List (Nat × Instr)) : Bool := l.all fun p => decodeTableWord n p.1 == some p.2

def g1 : Guard := ⟨false, 1⟩
def tk : Tok := ⟨5, 3⟩
def z : Opnd := .zero
def o10 : Opnd := ⟨.r, .tile 10⟩
def o5 : Opnd := ⟨.c, .tile 5⟩
def o4 : Opnd := ⟨.d, .tile 4⟩
def o6 : Opnd := ⟨.b, .tile 6⟩
def a2 : Opnd := ⟨.r, .acc 2⟩

/-- R83, R85: ALU-R. -/
theorem test_decode_alu : readsAll 32 [
    (0x100F5580, .add g1 7 21 11),
    (0x100F5581, .sub g1 7 21 11),
    (0x100F5582, .and g1 7 21 11),
    (0x100F5583, .or g1 7 21 11),
    (0x100F5584, .xor g1 7 21 11),
    (0x100F5585, .sll g1 7 21 11),
    (0x100F5586, .srl g1 7 21 11),
    (0x100F5587, .sra g1 7 21 11),
    (0x100F5588, .mul g1 7 21 11),
    (0x100F5589, .mulh g1 7 21 11),
    (0x100F558A, .mulhu g1 7 21 11),
    (0x100F558B, .div g1 7 21 11),
    (0x100F558C, .divu g1 7 21 11),
    (0x100F558D, .rem g1 7 21 11),
    (0x100F558E, .remu g1 7 21 11),
    (0x100F558F, .min g1 7 21 11),
    (0x100F5590, .max g1 7 21 11),
    (0x100F5591, .minu g1 7 21 11),
    (0x100F5592, .maxu g1 7 21 11),
    (0x100F5013, .clz g1 7 21),
    (0x100F5014, .popc g1 7 21),
    (0x100F5595, .andn g1 7 21 11)] = true := by decide +kernel

/-- R85: immediates. -/
theorem test_decode_immediates : readsAll 32 [
    (0x104F59A5, .addi g1 7 21 0x9A5),
    (0x108F59A5, .andi g1 7 21 0x9A5),
    (0x10CF59A5, .ori g1 7 21 0x9A5),
    (0x110F59A5, .xori g1 7 21 0x9A5),
    (0x114F502B, .slli g1 7 21 43),
    (0x114F542B, .srli g1 7 21 43),
    (0x114F582B, .srai g1 7 21 43),
    (0x118FA5C3, .liu g1 7 0x1A5C3),
    (0x11CFA5C3, .addpc g1 7 0x1A5C3)] = true := by decide +kernel

/-- R85: compares, predicates and branches. -/
theorem test_decode_predicates : readsAll 32 [
    (0x120B5580, .cmp g1 5 21 11 .eq),
    (0x120B5581, .cmp g1 5 21 11 .ne),
    (0x120B5582, .cmp g1 5 21 11 .lt),
    (0x120B5583, .cmp g1 5 21 11 .ge),
    (0x120B5584, .cmp g1 5 21 11 .ltu),
    (0x120B5585, .cmp g1 5 21 11 .geu),
    (0x124B59A5, .cmpi g1 .eq 5 21 0x9A5),
    (0x125B59A5, .cmpi g1 .ne 5 21 0x9A5),
    (0x126B59A5, .cmpi g1 .lt 5 21 0x9A5),
    (0x127B59A5, .cmpi g1 .ge 5 21 0x9A5),
    (0x128A3309, .plog g1 5 3 6 0b1001),
    (0x12CF5586, .sel g1 7 21 11 6),
    (0x1325A5C3, .br g1 0x25A5C3),
    (0x1365A5C3, .jal g1 0x25A5C3),
    (0x138F59A5, .jalr g1 7 21 0x9A5)] = true := by decide +kernel

/-- R85: loads, stores and full-empty accesses. -/
theorem test_decode_accesses : readsAll 32 [
    (0x140F5DA5, .ldb g1 7 21 13 0xA5),
    (0x144F5DA5, .ldh g1 7 21 13 0xA5),
    (0x148F5DA5, .ldw g1 7 21 13 0xA5),
    (0x14CF5DA5, .ldd g1 7 21 13 0xA5),
    (0x150F5DA5, .ldbu g1 7 21 13 0xA5),
    (0x154F5DA5, .ldhu g1 7 21 13 0xA5),
    (0x158F5DA5, .ldwu g1 7 21 13 0xA5),
    (0x15CF5D2B, .ldfeW g1 7 21 13 0x2B),
    (0x15CF5D6B, .ldfeE g1 7 21 13 0x2B),
    (0x15CF5DAB, .ldfeN g1 7 21 13 0x2B),
    (0x160F5DA5, .stb g1 7 21 13 0xA5),
    (0x164F5DA5, .sth g1 7 21 13 0xA5),
    (0x168F5DA5, .stw g1 7 21 13 0xA5),
    (0x16CF5DA5, .std g1 7 21 13 0xA5),
    (0x170F5D2B, .stfeF g1 7 21 13 0x2B),
    (0x170F5D6B, .stfeWe g1 7 21 13 0x2B),
    (0x174F5D2B, .feqQ g1 7 21 13 0x2B),
    (0x17415D6B, .feqClr g1 21 13 0x2B),
    (0x17415DAB, .feqSet g1 21 13 0x2B)] = true := by decide +kernel

/-- R85: cache ranges and fences. -/
theorem test_decode_ordering : readsAll 32 [
    (0x17815580, .invr g1 21 11),
    (0x17815581, .wbr g1 21 11),
    (0x17815582, .wbinvr g1 21 11),
    (0x17800003, .invi g1),
    (0x17C09A5C, .fenceCls g1 0x9A5C),
    (0x17D69A5C, .fenceRel g1 .package 0x9A5C),
    (0x17E69A5C, .fenceAcq g1 .package 0x9A5C),
    (0x17F69A5C, .fenceAr g1 .package 0x9A5C)] = true := by decide +kernel

/-- R85, R204: atomics, reductions, queues and rings. -/
theorem test_decode_atomics : readsAll 32 [
    (0x180F55D0, .amoSwap g1 7 21 11 2 true),
    (0x180F55D1, .amoAdd g1 7 21 11 2 true),
    (0x180F55D2, .amoAnd g1 7 21 11 2 true),
    (0x180F55D3, .amoOr g1 7 21 11 2 true),
    (0x180F55D4, .amoXor g1 7 21 11 2 true),
    (0x180F55D5, .amoMin g1 7 21 11 2 true),
    (0x180F55D6, .amoMax g1 7 21 11 2 true),
    (0x180F55D7, .amoMinu g1 7 21 11 2 true),
    (0x180F55D8, .amoMaxu g1 7 21 11 2 true),
    (0x180F55C9, .amoFadd g1 7 21 11 2),
    (0x180F55DA, .amoCas g1 7 21 11 2 true),
    (0x184155D1, .redAdd g1 21 11 2 true),
    (0x184155D2, .redAnd g1 21 11 2 true),
    (0x184155D3, .redOr g1 21 11 2 true),
    (0x184155D4, .redXor g1 21 11 2 true),
    (0x184155D5, .redMin g1 21 11 2 true),
    (0x184155D6, .redMax g1 21 11 2 true),
    (0x184155D7, .redMinu g1 21 11 2 true),
    (0x184155D8, .redMaxu g1 21 11 2 true),
    (0x184155C9, .redFadd g1 21 11 2),
    (0x188B5589, .qpush g1 5 21 11 9),
    (0x18CF5289, .qpop g1 7 21 5 9),
    (0x190E0002, .racqP g1 7 2),
    (0x190E0006, .racqC g1 7 2),
    (0x19400002, .rrelP g1 2),
    (0x19400006, .rrelC g1 2)] = true := by decide +kernel

/-- R64, R85: engines, barriers, termination, special registers, part ends. -/
theorem test_decode_engines : readsAll 32 [
    (0x1A015001, .fork g1 21 .a),
    (0x1A015002, .fork g1 21 .v),
    (0x1A015003, .fork g1 21 .c),
    (0x1A400005, .join g1 ⟨true, false, true⟩),
    (0x1B000005, .twait g1 ⟨true, false, true⟩),
    (0x1B400005, .tpost g1 ⟨true, false, true⟩),
    (0x1AA75000, .sete g1 19 21),
    (0x1ACF3000, .gete g1 7 19),
    (0x1B81502F, .setts g1 21 47),
    (0x1BCE002F, .getts g1 7 47),
    (0x1C080000, .barA g1 .pod),
    (0x1C180000, .barW g1 .pod),
    (0x1C280000, .barAw g1 .pod),
    (0x1C380A00, .barTry g1 .pod 5),
    (0x1C415000, .trmSend g1 21),
    (0x1C500000, .trmIdle g1),
    (0x1C600000, .trmBusy g1),
    (0x1C700A00, .trmTest g1 5),
    (0x1E0E0000, .movs g1 7 .tag),
    (0x1E8009A5, .trap g1 0x9A5),
    (0x1EC00000, .yield g1),
    (0x1F000000, .done g1),
    (0x1E0E006B, .movs g1 7 (.pinl 3)),
    (0x1E415030, .movts g1 21 .fcsr)] = true := by decide +kernel

/-- R86, R99: the common engine words. -/
theorem test_decode_common : readsAll 96 [
    (0x00AC00000000000000000000, .enop tk),
    (0x01AC00000000000000000000, .ehalt tk),
    (0x02AC00000000A8C800000000, .eskip tk 21 .eqz 200),
    (0x02AC00000000A9C800000000, .eskip tk 21 .nez 200),
    (0x02AC00000000AAC800000000, .eskip tk 21 .ltz 200),
    (0x02AC00000000ABC800000000, .eskip tk 21 .gez 200),
    (0x02AC0000000004C800000000, .eskip tk 0 .first 200),
    (0x02AC0000000005C800000000, .eskip tk 0 .last 200),
    (0x02AC0000000006C800000000, .eskip tk 0 .nfirst 200),
    (0x02AC0000000007C800000000, .eskip tk 0 .nlast 200),
    (0x03AC00000000A80000000000, .eflag tk 21)] = true := by decide +kernel

/-- R86, R89, R92 to R96: array words. -/
theorem test_decode_array : readsAll 96 [
    (0x10AC3200000097012D935B80, .azero ⟨tk, ⟨a2, z, z, z⟩, ⟨9, 3, true, 37, 44, 77, 55⟩⟩),
    (0x11AC3245840096C92D935BD0, .amma ⟨tk, ⟨a2, o5, o4, z⟩, ⟨9, 6, 100, 37, 44, 77, 55, 2, true⟩⟩),
    (0x12AC324584C696C92D935BD0, .ammas ⟨tk, ⟨a2, o5, o4, o6⟩, ⟨9, 6, 100, 37, 44, 77, 55, 2, true⟩⟩),
    (0x13AC324584C696C92D935BD0, .ammaz ⟨tk, ⟨a2, o5, o4, o6⟩, ⟨9, 6, 100, 37, 44, 77, 55, 2, true⟩⟩),
    (0x14AC00458400963AE5B26B70, .atbld ⟨tk, ⟨z, o5, o4, z⟩, ⟨9, 6, 3, 21, true, 37, 44, 77, 55⟩⟩),
    (0x15AC3245000096C92D935BD0, .atmma ⟨tk, ⟨a2, o5, z, z⟩, ⟨9, 6, 100, 37, 44, 77, 55, 2, true⟩⟩),
    (0x16AC3245840096C92D935BD0, .adist ⟨tk, ⟨a2, o5, o4, z⟩, ⟨9, 6, 100, 37, 44, 77, 55, 2, true⟩⟩),
    (0x17AC0A320000B5812D934000, .aargmin ⟨tk, ⟨o10, a2, z, z⟩, ⟨true, false, true, 21, true, 37, 44, 77⟩⟩),
    (0x18AC0A32840097D12D936A9D, .adrain ⟨tk, ⟨o10, a2, o4, z⟩, ⟨9, 3, true, true, 2, true, 37, 44, 77, 21, 9, 13⟩⟩),
    (0x19AC0032840097D12D936A9D, .adrainm ⟨tk, ⟨z, a2, o4, z⟩, ⟨9, 3, true, true, 2, true, 37, 44, 77, 21, 9, 13⟩⟩),
    (0x1AAC324584C697012D935B80, .ascacc ⟨tk, ⟨a2, o5, o4, o6⟩, ⟨9, 3, true, 37, 44, 77, 55⟩⟩),
    (0x1BAC3245840096C92D935BD0, .acent ⟨tk, ⟨a2, o5, o4, z⟩, ⟨9, 6, 100, 37, 44, 77, 55, 2, true⟩⟩),
    (0x1CAC0A32000097012D935B80, .acdiv ⟨tk, ⟨o10, a2, z, z⟩, ⟨9, 3, true, 37, 44, 77, 55⟩⟩),
    (0x1DAC3245000097012D935B80, .aaccld ⟨tk, ⟨a2, o5, z, z⟩, ⟨9, 3, true, 37, 44, 77, 55⟩⟩),
    (0x1EAC0A32000097012D935B80, .aaccst ⟨tk, ⟨o10, a2, z, z⟩, ⟨9, 3, true, 37, 44, 77, 55⟩⟩),
    (0x1FAC3232000097012D935B80, .amova ⟨tk, ⟨a2, a2, z, z⟩, ⟨9, 3, true, 37, 44, 77, 55⟩⟩)] = true := by decide +kernel

/-- R86, R89, R97: vector words. -/
theorem test_decode_vector : readsAll 96 [
    (0x40AC0A458400967D55C936A5, .vadd ⟨tk, ⟨o10, o5, o4, z⟩, ⟨9, 6, 3, true, true, 5, 2, 21, 100, 77, 0x2A5⟩⟩),
    (0x41AC0A458400967D55C936A5, .vsub ⟨tk, ⟨o10, o5, o4, z⟩, ⟨9, 6, 3, true, true, 5, 2, 21, 100, 77, 0x2A5⟩⟩),
    (0x42AC0A458400967D55C936A5, .vmul ⟨tk, ⟨o10, o5, o4, z⟩, ⟨9, 6, 3, true, true, 5, 2, 21, 100, 77, 0x2A5⟩⟩),
    (0x43AC0A4584C6967D55C936A5, .vfma ⟨tk, ⟨o10, o5, o4, o6⟩, ⟨9, 6, 3, true, true, 5, 2, 21, 100, 77, 0x2A5⟩⟩),
    (0x44AC0A458400967D55C936A5, .vmin ⟨tk, ⟨o10, o5, o4, z⟩, ⟨9, 6, 3, true, true, 5, 2, 21, 100, 77, 0x2A5⟩⟩),
    (0x45AC0A458400967D55C936A5, .vmax ⟨tk, ⟨o10, o5, o4, z⟩, ⟨9, 6, 3, true, true, 5, 2, 21, 100, 77, 0x2A5⟩⟩),
    (0x46AC0A450000967D55C936A5, .vabs ⟨tk, ⟨o10, o5, z, z⟩, ⟨9, 6, 3, true, true, 5, 2, 21, 100, 77, 0x2A5⟩⟩),
    (0x47AC0A450000967D55C936A5, .vneg ⟨tk, ⟨o10, o5, z, z⟩, ⟨9, 6, 3, true, true, 5, 2, 21, 100, 77, 0x2A5⟩⟩),
    (0x48AC0A450000967D55C936A5, .vrcp ⟨tk, ⟨o10, o5, z, z⟩, ⟨9, 6, 3, true, true, 5, 2, 21, 100, 77, 0x2A5⟩⟩),
    (0x49AC0A450000967D55C936A5, .vrsq ⟨tk, ⟨o10, o5, z, z⟩, ⟨9, 6, 3, true, true, 5, 2, 21, 100, 77, 0x2A5⟩⟩),
    (0x4AAC0A450000967D55C936A5, .vexp2 ⟨tk, ⟨o10, o5, z, z⟩, ⟨9, 6, 3, true, true, 5, 2, 21, 100, 77, 0x2A5⟩⟩),
    (0x4BAC0A450000967D55C936A5, .vlog2 ⟨tk, ⟨o10, o5, z, z⟩, ⟨9, 6, 3, true, true, 5, 2, 21, 100, 77, 0x2A5⟩⟩),
    (0x4CAC0A450000967D55C936A5, .vscale ⟨tk, ⟨o10, o5, z, z⟩, ⟨9, 6, 3, true, true, 5, 2, 21, 100, 77, 0x2A5⟩⟩),
    (0x4DAC0A450000967D55C936A5, .vclamp ⟨tk, ⟨o10, o5, z, z⟩, ⟨9, 6, 3, true, true, 5, 2, 21, 100, 77, 0x2A5⟩⟩),
    (0x4EAC00458400967D55C936A5, .vcmp ⟨tk, ⟨z, o5, o4, z⟩, ⟨9, 6, 3, true, true, 5, 2, 21, 100, 77, 0x2A5⟩⟩),
    (0x4FAC00450000967D55C936A5, .vclass ⟨tk, ⟨z, o5, z, z⟩, ⟨9, 6, 3, true, true, 5, 2, 21, 100, 77, 0x2A5⟩⟩),
    (0x50AC0A458400967D55C936A5, .viadd ⟨tk, ⟨o10, o5, o4, z⟩, ⟨9, 6, 3, true, true, 5, 2, 21, 100, 77, 0x2A5⟩⟩),
    (0x51AC0A458400967D55C936A5, .visub ⟨tk, ⟨o10, o5, o4, z⟩, ⟨9, 6, 3, true, true, 5, 2, 21, 100, 77, 0x2A5⟩⟩),
    (0x52AC0A458400967D55C936A5, .vimul ⟨tk, ⟨o10, o5, o4, z⟩, ⟨9, 6, 3, true, true, 5, 2, 21, 100, 77, 0x2A5⟩⟩),
    (0x53AC0A458400967D55C936A5, .vimin ⟨tk, ⟨o10, o5, o4, z⟩, ⟨9, 6, 3, true, true, 5, 2, 21, 100, 77, 0x2A5⟩⟩),
    (0x54AC0A458400967D55C936A5, .vimax ⟨tk, ⟨o10, o5, o4, z⟩, ⟨9, 6, 3, true, true, 5, 2, 21, 100, 77, 0x2A5⟩⟩),
    (0x55AC0A458400967D55C936A5, .vand ⟨tk, ⟨o10, o5, o4, z⟩, ⟨9, 6, 3, true, true, 5, 2, 21, 100, 77, 0x2A5⟩⟩),
    (0x56AC0A458400967D55C936A5, .vor ⟨tk, ⟨o10, o5, o4, z⟩, ⟨9, 6, 3, true, true, 5, 2, 21, 100, 77, 0x2A5⟩⟩),
    (0x57AC0A458400967D55C936A5, .vxor ⟨tk, ⟨o10, o5, o4, z⟩, ⟨9, 6, 3, true, true, 5, 2, 21, 100, 77, 0x2A5⟩⟩),
    (0x58AC0A450000967D55C936A5, .vshl ⟨tk, ⟨o10, o5, z, z⟩, ⟨9, 6, 3, true, true, 5, 2, 21, 100, 77, 0x2A5⟩⟩),
    (0x59AC0A450000967D55C936A5, .vshr ⟨tk, ⟨o10, o5, z, z⟩, ⟨9, 6, 3, true, true, 5, 2, 21, 100, 77, 0x2A5⟩⟩),
    (0x5AAC0A450000967D55C936A5, .vpopc ⟨tk, ⟨o10, o5, z, z⟩, ⟨9, 6, 3, true, true, 5, 2, 21, 100, 77, 0x2A5⟩⟩),
    (0x5BAC00458400967D55C936A5, .vicmp ⟨tk, ⟨z, o5, o4, z⟩, ⟨9, 6, 3, true, true, 5, 2, 21, 100, 77, 0x2A5⟩⟩),
    (0x5CAC0A000000967D55C936A5, .viota ⟨tk, ⟨o10, z, z, z⟩, ⟨9, 6, 3, true, true, 5, 2, 21, 100, 77, 0x2A5⟩⟩),
    (0x60AC0A450000967D55C936A5, .vcvt ⟨tk, ⟨o10, o5, z, z⟩, ⟨9, 6, 3, true, true, 5, 2, 21, 100, 77, 0x2A5⟩⟩),
    (0x61AC0A450000967D55C936A5, .vquant ⟨tk, ⟨o10, o5, z, z⟩, ⟨9, 6, 3, true, true, 5, 2, 21, 100, 77, 0x2A5⟩⟩),
    (0x62AC0A450000967D55C936A5, .vbmax ⟨tk, ⟨o10, o5, z, z⟩, ⟨9, 6, 3, true, true, 5, 2, 21, 100, 77, 0x2A5⟩⟩),
    (0x63AC0A458400967D55C936A5, .vpack ⟨tk, ⟨o10, o5, o4, z⟩, ⟨9, 6, 3, true, true, 5, 2, 21, 100, 77, 0x2A5⟩⟩),
    (0x64AC0A450000967D55C936A5, .vunpk ⟨tk, ⟨o10, o5, z, z⟩, ⟨9, 6, 3, true, true, 5, 2, 21, 100, 77, 0x2A5⟩⟩),
    (0x65AC0A458400967D55C936A5, .vspars ⟨tk, ⟨o10, o5, o4, z⟩, ⟨9, 6, 3, true, true, 5, 2, 21, 100, 77, 0x2A5⟩⟩),
    (0x66AC0A450000967D55C936A5, .vzbm ⟨tk, ⟨o10, o5, z, z⟩, ⟨9, 6, 3, true, true, 5, 2, 21, 100, 77, 0x2A5⟩⟩),
    (0x68AC0A450000967D55C936A5, .vrsum ⟨tk, ⟨o10, o5, z, z⟩, ⟨9, 6, 3, true, true, 5, 2, 21, 100, 77, 0x2A5⟩⟩),
    (0x69AC0A450000967D55C936A5, .vrmax ⟨tk, ⟨o10, o5, z, z⟩, ⟨9, 6, 3, true, true, 5, 2, 21, 100, 77, 0x2A5⟩⟩),
    (0x6AAC0A450000967D55C936A5, .vrmin ⟨tk, ⟨o10, o5, z, z⟩, ⟨9, 6, 3, true, true, 5, 2, 21, 100, 77, 0x2A5⟩⟩),
    (0x6BAC0A450000967D55C936A5, .vramax ⟨tk, ⟨o10, o5, z, z⟩, ⟨9, 6, 3, true, true, 5, 2, 21, 100, 77, 0x2A5⟩⟩),
    (0x6CAC0A450000967D55C936A5, .vcsum ⟨tk, ⟨o10, o5, z, z⟩, ⟨9, 6, 3, true, true, 5, 2, 21, 100, 77, 0x2A5⟩⟩),
    (0x6DAC0A450000967D55C936A5, .vscan ⟨tk, ⟨o10, o5, z, z⟩, ⟨9, 6, 3, true, true, 5, 2, 21, 100, 77, 0x2A5⟩⟩),
    (0x70AC0A450000967D55C936A5, .vmov ⟨tk, ⟨o10, o5, z, z⟩, ⟨9, 6, 3, true, true, 5, 2, 21, 100, 77, 0x2A5⟩⟩),
    (0x71AC0A450000967D55C936A5, .vtrans ⟨tk, ⟨o10, o5, z, z⟩, ⟨9, 6, 3, true, true, 5, 2, 21, 100, 77, 0x2A5⟩⟩),
    (0x72AC0A450000967D55C936A5, .vbcast ⟨tk, ⟨o10, o5, z, z⟩, ⟨9, 6, 3, true, true, 5, 2, 21, 100, 77, 0x2A5⟩⟩),
    (0x73AC0A458400967D55C936A5, .vshuf ⟨tk, ⟨o10, o5, o4, z⟩, ⟨9, 6, 3, true, true, 5, 2, 21, 100, 77, 0x2A5⟩⟩),
    (0x74AC0A450000967D55C936A5, .vrot ⟨tk, ⟨o10, o5, z, z⟩, ⟨9, 6, 3, true, true, 5, 2, 21, 100, 77, 0x2A5⟩⟩),
    (0x75AC0A458400967D55C936A5, .vsel ⟨tk, ⟨o10, o5, o4, z⟩, ⟨9, 6, 3, true, true, 5, 2, 21, 100, 77, 0x2A5⟩⟩),
    (0x76AC00450000967D55C936A5, .vext ⟨tk, ⟨z, o5, z, z⟩, ⟨9, 6, 3, true, true, 5, 2, 21, 100, 77, 0x2A5⟩⟩),
    (0x77AC0A000000967D55C936A5, .vins ⟨tk, ⟨o10, z, z, z⟩, ⟨9, 6, 3, true, true, 5, 2, 21, 100, 77, 0x2A5⟩⟩),
    (0x78AC0A000000967D55C936A5, .vfill ⟨tk, ⟨o10, z, z, z⟩, ⟨9, 6, 3, true, true, 5, 2, 21, 100, 77, 0x2A5⟩⟩),
    (0x7CAC00000000967D55C936A5, .vmlog ⟨tk, ⟨z, z, z, z⟩, ⟨9, 6, 3, true, true, 5, 2, 21, 100, 77, 0x2A5⟩⟩),
    (0x7DAC00000000967D55C936A5, .vmpop ⟨tk, ⟨z, z, z, z⟩, ⟨9, 6, 3, true, true, 5, 2, 21, 100, 77, 0x2A5⟩⟩),
    (0x7EAC00000000967D55C936A5, .vmfirst ⟨tk, ⟨z, z, z, z⟩, ⟨9, 6, 3, true, true, 5, 2, 21, 100, 77, 0x2A5⟩⟩),
    (0x80AC0A4584C6967D55C936A5, .vsfc ⟨tk, ⟨o10, o5, o4, o6⟩, ⟨9, 6, 3, true, true, 5, 2, 21, 100, 77, 0x2A5⟩⟩),
    (0x81AC0A458400967D55C936A5, .vhist ⟨tk, ⟨o10, o5, o4, z⟩, ⟨9, 6, 3, true, true, 5, 2, 21, 100, 77, 0x2A5⟩⟩)] = true := by decide +kernel

/-- R86, R98, R322, R360: copy words. -/
theorem test_decode_copy : readsAll 96 [
    (0xB0AC0A00000096DAACF926F3, .cld ⟨tk, ⟨o10, z, z, z⟩, ⟨9, 6, 13, 21, 11, 7, 100, 77, true, true, 19⟩⟩),
    (0xB1AC0045000096DAACF926F3, .cst ⟨tk, ⟨z, o5, z, z⟩, ⟨9, 6, 13, 21, 11, 7, 100, 77, true, true, 19⟩⟩),
    (0xB2AC0000000096DAACF926F3, .ccpy ⟨tk, ⟨z, z, z, z⟩, ⟨9, 6, 13, 21, 11, 7, 100, 77, true, true, 19⟩⟩),
    (0xB3AC0000000096DAACF926F3, .cfill ⟨tk, ⟨z, z, z, z⟩, ⟨9, 6, 13, 21, 11, 7, 100, 77, true, true, 19⟩⟩),
    (0xB4AC0000000096DAACF926F3, .cwin ⟨tk, ⟨z, z, z, z⟩, ⟨9, 6, 13, 21, 11, 7, 100, 77, true, true, 19⟩⟩),
    (0xB5AC0000000096DAACF926F3, .cadv ⟨tk, ⟨z, z, z, z⟩, ⟨9, 6, 13, 21, 11, 7, 100, 77, true, true, 19⟩⟩),
    (0xB8AC0A45000096DAACF926F3, .cgath ⟨tk, ⟨o10, o5, z, z⟩, ⟨9, 6, 13, 21, 11, 7, 100, 77, true, true, 19⟩⟩),
    (0xB9AC0045840096DAACF926F3, .cscat ⟨tk, ⟨z, o5, o4, z⟩, ⟨9, 6, 13, 21, 11, 7, 100, 77, true, true, 19⟩⟩),
    (0xBAAC0000000096DAACF926F3, .cdec ⟨tk, ⟨z, z, z, z⟩, ⟨9, 6, 13, 21, 11, 7, 100, 77, true, true, 19⟩⟩),
    (0xBBAC0000000096DAACF926F3, .cenc ⟨tk, ⟨z, z, z, z⟩, ⟨9, 6, 13, 21, 11, 7, 100, 77, true, true, 19⟩⟩),
    (0xBCAC0000000096DAACF926F3, .cxfm ⟨tk, ⟨z, z, z, z⟩, ⟨9, 6, 13, 21, 11, 7, 100, 77, true, true, 19⟩⟩),
    (0xC0AC0045000096DAACF926F3, .cstash ⟨tk, ⟨z, o5, z, z⟩, ⟨9, 6, 13, 21, 11, 7, 100, 77, true, true, 19⟩⟩),
    (0xC1AC0A00000096DAACF926F3, .cunst ⟨tk, ⟨o10, z, z, z⟩, ⟨9, 6, 13, 21, 11, 7, 100, 77, true, true, 19⟩⟩),
    (0xC2AC0000000096DAACF926F3, .csdrop ⟨tk, ⟨z, z, z, z⟩, ⟨9, 6, 13, 21, 11, 7, 100, 77, true, true, 19⟩⟩),
    (0xC4AC0045840096DAACF926F3, .cbat ⟨tk, ⟨z, o5, o4, z⟩, ⟨9, 6, 13, 21, 11, 7, 100, 77, true, true, 19⟩⟩),
    (0xC8AC0045000096DAACF926F3, .csend ⟨tk, ⟨z, o5, z, z⟩, ⟨9, 6, 13, 21, 11, 7, 100, 77, true, true, 19⟩⟩),
    (0xC9AC0A00000096DAACF926F3, .crecv ⟨tk, ⟨o10, z, z, z⟩, ⟨9, 6, 13, 21, 11, 7, 100, 77, true, true, 19⟩⟩),
    (0xCDAC0000000096DAACF926F3, .crepart ⟨tk, ⟨z, z, z, z⟩, ⟨9, 6, 13, 21, 11, 7, 100, 77, true, true, 19⟩⟩),
    (0xD0AC0000000096DAACF926F3, .cpin ⟨tk, ⟨z, z, z, z⟩, ⟨9, 6, 13, 21, 11, 7, 100, 77, true, true, 19⟩⟩),
    (0xD1AC0000000096DAACF926F3, .cunpin ⟨tk, ⟨z, z, z, z⟩, ⟨9, 6, 13, 21, 11, 7, 100, 77, true, true, 19⟩⟩),
    (0xD2AC0000000096DAACF926F3, .cpref ⟨tk, ⟨z, z, z, z⟩, ⟨9, 6, 13, 21, 11, 7, 100, 77, true, true, 19⟩⟩),
    (0xD3AC0000000096DAACF926F3, .cflush ⟨tk, ⟨z, z, z, z⟩, ⟨9, 6, 13, 21, 11, 7, 100, 77, true, true, 19⟩⟩),
    (0xCAAC0000000094DAACF926F3, .cchstStat ⟨tk, ⟨z, z, z, z⟩, ⟨9, 4, 13, 21, 11, 7, 100, 77, true, true, 19⟩⟩),
    (0xCAAC0000000095DAACF926F3, .cchstGrant ⟨tk, ⟨z, z, z, z⟩, ⟨9, 5, 13, 21, 11, 7, 100, 77, true, true, 19⟩⟩),
    (0xCCAC0000000096DAACF926F0, .cringSum ⟨tk, ⟨z, z, z, z⟩, ⟨9, 6, 13, 21, 11, 7, 100, 77, true, true, 16⟩⟩),
    (0xCCAC0000000096DAACF926F1, .cringMax ⟨tk, ⟨z, z, z, z⟩, ⟨9, 6, 13, 21, 11, 7, 100, 77, true, true, 17⟩⟩),
    (0xCCAC0000000096DAACF926F2, .cringBcast ⟨tk, ⟨z, z, z, z⟩, ⟨9, 6, 13, 21, 11, 7, 100, 77, true, true, 18⟩⟩),
    (0xD4AC0A00000096DAACF926F2, .cmetaRead ⟨tk, ⟨o10, z, z, z⟩, ⟨9, 6, 13, 21, 11, 7, 100, 77, true, true, 18⟩⟩),
    (0xD4AC0045000096DAACF926F3, .cmetaWrite ⟨tk, ⟨z, o5, z, z⟩, ⟨9, 6, 13, 21, 11, 7, 100, 77, true, true, 19⟩⟩)] = true := by decide +kernel

/-! ### Ill-formed terms (R68, R82, R83, R85, R99) -/

theorem test_wf_guard : (Instr.yield ⟨true, 0⟩).wf = false := by decide
theorem test_wf_cmpi : (Instr.cmpi g1 .ltu 1 2 3).wf = false := by decide
theorem test_wf_engineSet : (Instr.join g1 ⟨false, false, false⟩).wf = false := by decide
theorem test_wf_movts : (Instr.movts g1 1 .cyc).wf = false := by decide
theorem test_wf_accumulatorDir : (Instr.azero ⟨tk, ⟨⟨.c, .acc 1⟩, z, z, z⟩, ⟨0, 0, false, 0, 0, 0, 0⟩⟩).wf = false := by decide
theorem test_wf_unusedOperand : (Instr.azero ⟨tk, ⟨a2, o5, z, z⟩, ⟨0, 0, false, 0, 0, 0, 0⟩⟩).wf = false := by decide
theorem test_wf_skipNone : (Instr.eskip tk 1 .eqz 0).wf = false := by decide
theorem test_wf_skipRegister : (Instr.eskip tk 1 .last 2).wf = false := by decide
theorem test_wf_forms : (Instr.cringMax ⟨tk, ⟨z, z, z, z⟩, ⟨0, 0, 0, 0, 0, 0, 0, 0, false, false, 2⟩⟩).wf = false ∧
    (Instr.cchstStat ⟨tk, ⟨z, z, z, z⟩, ⟨0, 1, 0, 0, 0, 0, 0, 0, false, false, 2⟩⟩).wf = false ∧
    (Instr.cmetaRead ⟨tk, ⟨o10, z, z, z⟩, ⟨0, 0, 0, 0, 0, 0, 0, 0, false, false, 1⟩⟩).wf = false := by decide

/-- R82, R85, R88, R99: words that are no instruction: a reserved field, an unassigned sub-field, a reserved major, an unassigned
opcode, a tile number that names nothing, an engine's word on another engine. -/
theorem test_decode_refused :
    [0x80000000, 0x0FC00000, 0x00000016, 0x02000008, 0x014006C5, 0x0F000001, 0x0EC20000, 0x07CA0000, 0x0C0A0000, 0x0BE00030].all
      (fun w => decodeTableWord 32 w == none) = true ∧
    [0x200000000000000000000000, 0x10000A000000000000000001, 0x103500000000000000000000, 0x000000000000000000000001,
      0x020000000000190000000000, 0xCC0000000000000000000003].all (fun w => decodeTableWord 96 w == none) = true ∧
    (decodeEngine .v 0x100032000000000000000000).isOk = false := by decide +kernel

/-- The words that the programs of the spec's chapters 14 to 18 write out. -/
theorem test_decode_programs :
    readsAll 32 [(0x08414403, .redOr ⟨false, 0⟩ 20 8 0 false), (0x07E20000, .fenceAcq ⟨false, 0⟩ .quad 0),
      (0x0252B000, .cmpi ⟨false, 0⟩ .ne 1 11 0), (0x1A861000, .sete g1 3 1), (0x0B400007, .tpost ⟨false, 0⟩ ⟨true, true, true⟩),
      (0x07D80000, .fenceRel ⟨false, 0⟩ .pod 0), (0x0C280000, .barAw ⟨false, 0⟩ .pod)] = true ∧
    readsAll 96 [(0x02A000000000190400000000, .eskip ⟨5, 0⟩ 3 .nez 4), (0x03080000 * 2 ^ 64 + 0xF00000000000, .eflag ⟨0, 2⟩ 30),
      (0xB824090100002206AD80C040, .cgath ⟨⟨1, 1⟩, ⟨⟨.r, .tile 9⟩, ⟨.r, .tile 1⟩, z, z⟩, ⟨2, 2, 0, 13, 11, 12, 3, 0, true, false, 0⟩⟩),
      (0x6C240D09000022E000060000, .vcsum ⟨⟨1, 1⟩, ⟨⟨.r, .tile 13⟩, ⟨.r, .tile 9⟩, z, z⟩, ⟨2, 2, 7, false, false, 0, 0, 0, 3, 0, 0⟩⟩),
      (0x1B0031004400150078600010, .acent ⟨⟨0, 0⟩, ⟨⟨.r, .acc 1⟩, z, ⟨.c, .tile 4⟩, z⟩, ⟨1, 5, 0, 15, 3, 0, 0, 0, true⟩⟩),
      (0x140000010200110003040000, .atbld ⟨⟨0, 0⟩, ⟨z, ⟨.r, .tile 1⟩, ⟨.r, .tile 2⟩, z⟩, ⟨1, 1, 0, 0, false, 3, 1, 0, 0⟩⟩),
      (0x154032050000A00078200010, .atmma ⟨⟨2, 0⟩, ⟨a2, ⟨.r, .tile 5⟩, z, z⟩, ⟨10, 0, 0, 15, 1, 0, 0, 0, true⟩⟩),
      (0x6004064400005A0000000000, .vcvt ⟨⟨0, 1⟩, ⟨⟨.r, .tile 6⟩, ⟨.c, .tile 4⟩, z, z⟩, ⟨5, 10, 0, false, false, 0, 0, 0, 0, 0, 0⟩⟩),
      (0x112030034100110E38E00010, .amma ⟨⟨1, 0⟩, ⟨⟨.r, .acc 0⟩, ⟨.r, .tile 3⟩, ⟨.c, .tile 1⟩, z⟩, ⟨1, 1, 7, 7, 7, 0, 0, 0, true⟩⟩),
      (0x80204541420085000000001D, .vsfc ⟨⟨1, 0⟩, ⟨⟨.c, .tile 5⟩, ⟨.c, .tile 1⟩, ⟨.c, .tile 2⟩, z⟩, ⟨8, 5, 0, false, false, 0, 0, 0, 0, 0, 29⟩⟩),
      (0xCD1000000000000782000000, .crepart ⟨⟨0, 4⟩, ⟨z, z, z, z⟩, ⟨0, 0, 0, 15, 0, 16, 0, 0, false, false, 0⟩⟩)] = true := by
  decide +kernel

/-- Encoding a word that the spec writes out gives it back (R103, R221). -/
theorem test_encode : encode (.csend ⟨⟨0, 4⟩, ⟨z, ⟨.r, .tile 6⟩, z, z⟩, ⟨0, 0, 0, 4, 0, 0, 7, 0, false, false, 3⟩⟩) =
    some (96, 0xC8100006000000020001C003) ∧ encode (.ldd ⟨false, 0⟩ 7 5 3 2) = some (32, 0x04CE5302) := by decide +kernel

/-- A placed word runs in the next step (log entry 1): ADD x0, x0, x0 only advances the pc. -/
theorem test_step_placed : ∃ t, step (State.reset.withFetchWord 32 0) = .next t ∧ (t.ctx 0 .cp).pc = 0x10004 := ⟨_, rfl, by decide +kernel⟩

/-! ### Control-core words: one step of CP of core 0 -/

/-- What a step leaves, read by `f`; none where it stops. -/
def after {α : Type} (o : Host.Outcome State Fault Refusal) (f : State → α) : Option α :=
  match o with
  | .next t => some (f t)
  | _ => none

/-- CP of core 0 runs at pc 0x10000 with these registers. -/
def cpState (xs : List (Fin 32 × W64)) : State :=
  let x : Ctx := xs.foldl (fun c p => c.setX p.1 p.2) { Ctx.reset with pc := 0x10000, run := .running }
  { State.reset.setCtx 0 .cp x with cur := .context 0 .cp }

def cpX (r : Fin 32) (t : State) : W64 := (t.ctx 0 .cp).getX r
def cpP (r : Fin 8) (t : State) : Bool := (t.ctx 0 .cp).getP r
def faultOf (t : State) : Nat := ((t.core 0).fault.map fun f => f.trap.code.toNat).getD 0
def g0 : Guard := ⟨false, 0⟩

/-- x1 = 2^64 - 1, x2 = 1, x3 = -2^63, x4 = 64. -/
def xs0 : State := cpState [(1, 0xFFFFFFFFFFFFFFFF), (2, 1), (3, 0x8000000000000000), (4, 64)]
def gives (i : Instr) (v : W64) : Bool := after (exec i xs0) (cpX 5) == some v

/-- R192, R193: wrapping, shifts of 64, signedness, division by zero and of -2^63 by -1. -/
theorem test_alu : [gives (.add g0 5 1 2) 0, gives (.sub g0 5 2 1) 2, gives (.and g0 5 1 4) 64, gives (.or g0 5 2 4) 65,
    gives (.xor g0 5 1 2) 0xFFFFFFFFFFFFFFFE, gives (.andn g0 5 4 2) 64, gives (.sll g0 5 2 4) 1, gives (.srl g0 5 3 4) 0x8000000000000000,
    gives (.sra g0 5 3 1) 0xFFFFFFFFFFFFFFFF, gives (.mul g0 5 1 1) 1, gives (.mulh g0 5 1 1) 0, gives (.mulhu g0 5 1 1) 0xFFFFFFFFFFFFFFFE,
    gives (.div g0 5 3 1) 0x8000000000000000, gives (.div g0 5 3 0) 0xFFFFFFFFFFFFFFFF, gives (.divu g0 5 1 4) 0x03FFFFFFFFFFFFFF,
    gives (.rem g0 5 3 1) 0, gives (.rem g0 5 3 0) 0x8000000000000000, gives (.remu g0 5 1 4) 63, gives (.min g0 5 1 2) 0xFFFFFFFFFFFFFFFF,
    gives (.max g0 5 1 2) 1, gives (.minu g0 5 1 2) 1, gives (.maxu g0 5 1 2) 0xFFFFFFFFFFFFFFFF, gives (.clz g0 5 0) 64,
    gives (.clz g0 5 2) 63, gives (.popc g0 5 1) 64].all id = true := by decide +kernel

/-- R194, R195, with the constants of R195's example. -/
theorem test_immediates : [gives (.addi g0 5 0 0xF40) (-192), gives (.andi g0 5 1 0x800) 0xFFFFFFFFFFFFF800, gives (.ori g0 5 2 0x010) 0x11,
    gives (.xori g0 5 2 0xFFF) 0xFFFFFFFFFFFFFFFE, gives (.slli g0 5 2 63) 0x8000000000000000, gives (.srli g0 5 3 63) 1,
    gives (.srai g0 5 3 63) 0xFFFFFFFFFFFFFFFF, gives (.liu g0 5 0x7F) 0x7F000, gives (.liu g0 5 0x10000) 0xFFFFFFFFF0000000,
    gives (.addpc g0 5 0x13) 0x23000].all id = true := by decide +kernel

/-- R196: signed and unsigned conditions, the truth table of PLOG, SEL. -/
theorem test_compares : after (exec (.cmp g0 3 1 2 .lt) xs0) (cpP 3) = some true ∧ after (exec (.cmp g0 3 1 2 .ltu) xs0) (cpP 3) = some false ∧
    after (exec (.cmpi g0 .ge 3 2 0xFFF) xs0) (cpP 3) = some true ∧ after (exec (.plog g0 3 0 1 0b0100) xs0) (cpP 3) = some true ∧
    gives (.sel g0 5 2 4 1) 64 = true := by decide +kernel

/-- R197: a branch three words back (R221), the link of JAL, and a target off a multiple of four. -/
theorem test_branches : after (exec (.br g0 0x3FFFFD) xs0) (fun t => (t.ctx 0 .cp).pc) = some 0xFFF4 ∧
    after (exec (.jal g0 2) xs0) (fun t => ((t.ctx 0 .cp).pc, cpX 31 t)) = some (0x10008, 0x10004) ∧
    after (exec (.jalr g0 5 4 2) xs0) faultOf = some 0x06 ∧
    after (exec (.jalr g0 5 4 4) xs0) (fun t => ((t.ctx 0 .cp).pc, cpX 5 t)) = some (68, 0x10004) := by decide +kernel

/-- R74: a word whose guard fails has no effect. -/
theorem test_guard : after (exec (.add ⟨true, 0⟩ 5 2 2) xs0) (cpX 5) = some 0 := by decide +kernel

/-- Core 0 with bank 0 of its quad a scratchpad bank, bank 1 a FIFO bank; x1 at offset 0x4000, x2 in bank 1, x6 some bits. -/
def padState (l : List (Nat × Byte)) : State :=
  let s := cpState [(1, 0xFE00000000004000), (2, 0xFE00000000100000), (6, 0x8182838485868788)]
  (s.setQuad 0 { s.quad 0 with mode := 0b1001 }).setMem { s.mem with cells := l.foldl (fun m p => sset 0 m (sramFlat 0 p.1) p.2) [] }

/-- R198: sizes, sign extension, scaled offsets, alignment. -/
theorem test_loads : after (exec (.ldb g0 5 1 0 0xFF) (padState [(0x3FFF, 0x80)])) (cpX 5) = some 0xFFFFFFFFFFFFFF80 ∧
    after (exec (.ldhu g0 5 1 0 1) (padState [(0x4002, 0x34), (0x4003, 0x92)])) (cpX 5) = some 0x9234 ∧
    after (exec (.ldw g0 5 1 0 0) (padState [(0x4003, 0x80)])) (cpX 5) = some 0xFFFFFFFF80000000 ∧
    after (exec (.ldd g0 5 6 0 1) (padState [])) faultOf = some 0x11 := by decide +kernel

theorem test_stores : after (exec (.sth g0 6 1 0 2) (padState [])) (fun t => t.mem.read (sramFlat 0 0x4003) 4) = some [0, 0x88, 0x87, 0] ∧
    after (exec (.std g0 6 1 0 0) (padState [])) (fun t => t.mem.num (sramFlat 0 0x4000) 8) = some 0x8182838485868788 := by decide +kernel

/-- R287: a FIFO bank keeps order. -/
theorem test_fifo : after (exec (.std g0 6 2 0 0) (padState [])) (fun t => (t.quad 0).entries 1) = some [0x8182838485868788] ∧
    after (exec (.ldd g0 5 2 0 1) (padState [])) (cpX 5) = some 0 ∧ after (exec (.ldd g0 5 2 0 0) (padState [])) (cpX 5) = some 0 := by
  decide +kernel

/-- R199: an empty granule holds a waiting load; a store that fills sets the bit; FEQ. -/
theorem test_fullEmpty : after (exec (.ldfeW g0 5 1 0 0) (padState [])) (fun t => (t.ctx 0 .cp).waits.isSome) = some true ∧
    after (exec (.stfeF g0 6 1 0 0) (padState [])) (fun t => (t.quad 0).full) = some [0x400] ∧
    after (exec (.feqQ g0 5 1 0 0) (padState [])) (cpX 5) = some 0 ∧
    after (exec (.feqSet g0 1 0 0) (padState [])) (fun t => (t.quad 0).full) = some [0x400] := by decide +kernel

/-- R204: a reduction returns nothing; CAS compares with rd; FADD rounds to nearest even. -/
theorem test_atomics : after (exec (.redOr g0 1 6 0 false) (padState [(0x4000, 1)])) (fun t => t.mem.num (sramFlat 0 0x4000) 8) =
      some 0x85868789 ∧
    after (exec (.amoCas g0 5 1 6 0 true) (padState [])) (fun t => (cpX 5 t, t.mem.num (sramFlat 0 0x4000) 8)) =
      some (0, 0x8182838485868788) ∧
    after (exec (.amoMin g0 5 1 6 0 true) (padState [(0x4000, 1)])) (fun t => t.mem.num (sramFlat 0 0x4000) 8) =
      some 0x8182838485868788 := by decide +kernel

/-- R207, R208: the queue of one slot whose descriptor at offset 0x4000 is all zeros takes a word into slot 0 at offset 0. -/
theorem test_queue : after (exec (.qpush g0 3 1 6 0) (padState [])) (fun t => (cpP 3 t, t.mem.num (sramFlat 0 0x4000) 8)) =
      some (true, 0x0000000100000000) ∧
    after (exec (.qpop g0 5 1 3 0) (padState [(0x4004, 1)])) (fun t => (cpP 3 t, cpX 5 t, t.mem.num (sramFlat 0 0x4000) 4)) =
      some (true, 0, 1) := by decide +kernel

/-- R209, R210: the ring of R221's example, two slots of 64 bytes at 0x4000; CP consumes ring 0 and produces ring 1. -/
def ringState (n : Nat) (r : Ring) : State :=
  let c := xs0.core 0
  xs0.setCore 0 { c with
    e := c.e.set (Fin.ofNat 32 (28 + n)) 0x1600004000
    rings := c.rings.set (Fin.ofNat 4 n) r }

theorem test_rings : after (exec (.racqP g0 5 1) (ringState 1 ⟨1, 1, 0, 0⟩)) (cpX 5) = some 0xFE00000000004040 ∧
    after (exec (.racqP g0 5 1) (ringState 1 ⟨2, 2, 2, 0⟩)) (fun t => (t.ctx 0 .cp).pc) = some 0x10000 ∧
    after (exec (.racqC g0 5 0) (ringState 0 ⟨1, 1, 0, 0⟩)) (cpX 5) = some 0xFE00000000004000 ∧
    after (exec (.rrelC g0 0) (ringState 0 ⟨1, 1, 1, 1⟩)) faultOf = some 0x02 := by decide +kernel

/-- R221: (K, V) holds 15 and CP posts to V: TOKEN_OVERFLOW, the counter stays. R214: TWAIT of an empty counter waits. -/
theorem test_tokens : after (exec (.tpost g0 ⟨false, true, false⟩) (xs0.setCore 0 { xs0.core 0 with tok := Vector.replicate 16 15 }))
      (fun t => (faultOf t, (t.core 0).getTok 0 2)) = some (0x04, 15) ∧
    after (exec (.tpost g0 ⟨true, false, true⟩) xs0) (fun t => ((t.core 0).getTok 0 1, (t.core 0).getTok 0 2, (t.core 0).getTok 0 3)) =
      some (1, 0, 1) ∧
    after (exec (.twait g0 ⟨true, false, false⟩) xs0) (fun t => (t.ctx 0 .cp).pc) = some 0x10000 := by decide +kernel

/-- R12, R64: identity of core 87; what MOVTS keeps of FCSR and FLAGS; a read-only register. -/
theorem test_special : after (exec (.movts g0 1 .fcsr) xs0) (fun t => (t.core 0).fcsr) = some 0x37 ∧
    after (exec (.movts g0 1 .flags) xs0) (fun t => (t.core 0).flags) = some 0x3F ∧ after (exec (.movts g0 1 .tag) xs0) faultOf = some 2 ∧
    after (exec (.movs g0 5 .quad) { State.reset with cur := .context 87 .cp }) (fun t => (t.ctx 87 .cp).getX 5) = some 21 ∧
    after (exec (.setts g0 1 47) xs0) (fun t => (t.core 0).tshape[(47 : Fin 48)]) = some 0xFFFFFC00 := by decide +kernel

/-- R219, R220: TRAP records its code; YIELD ends a part, DONE outside the epilogue faults. -/
theorem test_ends : after (exec (.trap g0 0x9A5) xs0) (fun t => ((t.core 0).fault.map fun f => (f.trap.code.toNat, f.agent, f.trap.info))) =
      some (some (0x32, 1, 0x9A5)) ∧
    after (exec (.yield g0) xs0) (fun t => (t.ctx 0 .cp).run) = some .ended ∧ after (exec (.done g0) xs0) faultOf = some 2 := by
  decide +kernel

/-- R216: the last of the contexts that take part in a core-scope barrier completes it. -/
theorem test_barrier : after (exec (.barAw g0 .core) xs0) (fun t => ((t.ctx 0 .cp).arrive, doneCount (t.core 0) .core, (t.ctx 0 .cp).pc)) =
    some (1, 1, 0x10004) := by decide +kernel

/-! ### Engine words: one issue on core 0, with the numbers of the spec's examples -/

/-- TSHAPE of a format code, rows and columns (R67). -/
def shapeWord (fmt rows cols : Nat) : W32 := BitVec.ofNat 32 (fmt * 2 ^ 28 + (rows - 1) * 2 ^ 20 + (cols - 1) * 2 ^ 10)

/-- An engine of core 0 issues, with these shapes, tile rows (tile, row, bytes), and accumulator cells (by acc * 4096 + row * 64 +
column). -/
def engState (e : Engine) (shapes : List (Fin 48 × W32)) (rows : List (Nat × Nat × List Byte)) (cells : List (Nat × W32)) : State :=
  let c := State.reset.core 0
  let c1 : Core := { c with
    tshape := shapes.foldl (fun v p => v.set p.1 p.2) c.tshape
    acc := cells.foldl (fun l p => sset 0 l p.1 p.2) c.acc }
  { State.reset.setCore 0 (rows.foldl (fun x p => x.setTileBytes p.1 p.2.1 0 p.2.2) c1) with cur := .engine 0 e }

def withE (r : Fin 32) (v : W64) (s : State) : State := s.setCore 0 { s.core 0 with e := (s.core 0).e.set r v }

/-- The flags with which the newest word in flight will complete. -/
def newFlags (e : Engine) (t : State) : Option W32 := (t.eng 0 e).flight.getLast?.map (·.flags)
def t0 : Tok := ⟨0, 0⟩
def tile (n : Fin 48) : Opnd := ⟨.r, .tile n⟩
def accu (n : Fin 4) : Opnd := ⟨.r, .acc n⟩

/-- R45, R46: 2^24 plus 1.0 * 1.0 twice is 2^24 in BF16 order, and 2^24 + 2 in K8 order. -/
theorem test_amma :
    after (exec (.amma ⟨t0, ⟨accu 0, tile 1, ⟨.c, .tile 2⟩, z⟩, ⟨1, 1, 1, 0, 0, 0, 0, 0, false⟩⟩)
      (engState .a [(1, shapeWord 1 1 2), (2, shapeWord 1 1 2)] [(1, 0, [0x80, 0x3F, 0x80, 0x3F]), (2, 0, [0x80, 0x3F, 0x80, 0x3F])]
        [(0, 0x4B800000)])) (fun t => ((t.core 0).cell 0 0 0, newFlags .a t)) = some (0x4B800000, some 0x10) ∧
    after (exec (.amma ⟨t0, ⟨accu 0, tile 1, ⟨.c, .tile 2⟩, z⟩, ⟨3, 3, 1, 0, 0, 0, 0, 0, false⟩⟩)
      (engState .a [(1, shapeWord 3 1 2), (2, shapeWord 3 1 2)] [(1, 0, [0x40, 0x40]), (2, 0, [0x40, 0x40])] [(0, 0x4B800000)]))
      (fun t => ((t.core 0).cell 0 0 0, newFlags .a t)) = some (0x4B800001, some 0) := by decide +kernel

/-- R232: the example's row of AMMAS.n2; an infinity at k = 2 takes no part. -/
theorem test_ammas :
    after (exec (.ammas ⟨t0, ⟨accu 0, tile 1, ⟨.c, .tile 2⟩, tile 3⟩, ⟨1, 1, 15, 0, 0, 0, 0, 1, true⟩⟩)
      (engState .a [(1, shapeWord 1 1 4), (2, shapeWord 1 1 16), (3, shapeWord 8 1 128)]
        [(1, 0, [0x00, 0x40, 0x80, 0xBF, 0x00, 0x3F, 0x80, 0x40]), (3, 0, [0x31, 0x06]),
         (2, 0, [0, 0, 0x40, 0x40, 0x80, 0x7F, 0, 0, 0, 0, 0, 0, 0x00, 0x40, 0, 0, 0x00, 0x41, 0, 0, 0, 0, 0x80, 0x3E])] []))
      (fun t => ((t.core 0).cell 0 0 0, newFlags .a t)) = some (0x41100000, some 0) := by decide +kernel

/-- R238: the second word of the example, over the carried best of the first block. -/
theorem test_aargmin :
    after (exec (.aargmin ⟨t0, ⟨tile 20, accu 2, z, z⟩, ⟨false, true, true, 5, false, 2, 3, 0⟩⟩)
      (withE 5 4 (engState .a [(20, shapeWord 0 3 2)]
          [(20, 0, [1, 0, 0, 0, 0, 0, 0x40, 0x40]), (20, 1, [0, 0, 0, 0, 0, 0, 0x80, 0x40]), (20, 2, [3, 0, 0, 0, 0, 0, 0x80, 0x3F])]
          [(8192, 0x40400000), (8193, 0x41100000), (8194, 0x40000000), (8195, 0x40000000), (8256, 0x40800000), (8257, 0x40A00000),
           (8258, 0x40A00000), (8259, 0x40C00000), (8320, 0x3F800000), (8321, 0), (8322, 0x80000000), (8323, 0x40000000)])))
      (fun t => ([0, 1, 2].map (fun r => leNum ((t.core 0).tileBytes 20 r 0 8)), (t.core 0).e[(5 : Fin 32)])) =
      some ([0x4000000000000006, 0x4080000000000000, 0x0000000000000005], 8) := by decide +kernel

/-- R239: the example's row, 46 00 7F 80, with OF, NX and NF. -/
theorem test_adrain :
    after (exec (.adrain ⟨t0, ⟨tile 9, accu 1, ⟨.b, .tile 3⟩, z⟩, ⟨3, 0, true, true, 1, false, 0, 3, 0, 0, 0, 0⟩⟩)
      (engState .a [(9, shapeWord 3 1 4), (3, shapeWord 1 1 4)] [(3, 0, [0x80, 0x3E, 0x80, 0x3E, 0x80, 0x3E, 0x80, 0x3E])]
        [(4096, 0x3FC00000), (4097, 0xC0000000), (4098, 0x43960000), (4099, 0x7FC00000)]))
      (fun t => ((t.core 0).tileBytes 9 0 0 4, newFlags .a t)) = some ([0x46, 0x00, 0x7F, 0x80], some 0x34) := by decide +kernel

/-- Lane 0 of row 0 of t2 after a vector word with RM 0 from t1, whose row 0 begins with `bs`. -/
def vecOut (mk : VgWord → Instr) (fs fd dfmt : Fin 16) (sat : Bool) (bs : List Byte) (n : Nat) : Option (Nat × Option W32) :=
  after (exec (mk ⟨t0, ⟨tile 2, tile 1, z, z⟩, ⟨fs, dfmt, 0, sat, false, 0, 0, 0, 0, 0, 0⟩⟩)
    (engState .v [(1, shapeWord fs.val 1 1), (2, shapeWord fd.val 1 1)] [(1, 0, bs)] [])) fun t =>
      (leNum ((t.core 0).tileBytes 2 0 0 n), newFlags .v t)

/-- R38 to R42: rows of the conversion example, and R59: VRCP of 3.0. -/
theorem test_conversions : vecOut .vcvt 0 3 3 false [0xCD, 0xCC, 0xCC, 0x3D] 1 = some (0x25, some 0x10) ∧
    vecOut .vcvt 0 3 3 true [0x00, 0x00, 0x96, 0x43] 1 = some (0x7F, some 0x14) ∧
    vecOut .vcvt 0 3 3 false [0x00, 0x00, 0x96, 0x43] 1 = some (0x80, some 0x34) ∧
    vecOut .vcvt 0 4 4 false [0x00, 0x00, 0x00, 0x80] 1 = some (0x00, some 0) ∧
    vecOut .vcvt 0 7 7 false [0xCD, 0xCC, 0x6C, 0xC0] 1 = some (0xFC, some 0x10) ∧
    vecOut .vcvt 6 7 7 false [0x2C, 0x01] 1 = some (0x2C, some 0) ∧ vecOut .vcvt 6 7 7 true [0x2C, 0x01] 1 = some (0x7F, some 0x04) ∧
    vecOut .vcvt 5 0 0 false [0x01, 0x00, 0x00, 0x01] 4 = some (0x4B800000, some 0x10) ∧
    vecOut .vrcp 0 0 0 false [0x00, 0x00, 0x40, 0x40] 4 = some (0x3EAAAAAA, some 0x10) := by decide +kernel

/-- R271: the tree of lanes gives 2^24 + 2. -/
theorem test_vrsum :
    after (exec (.vrsum ⟨t0, ⟨tile 20, tile 1, z, z⟩, ⟨0, 0, 0, false, false, 0, 0, 0, 0, 0, 0⟩⟩)
      (engState .v [(1, shapeWord 0 1 4), (20, shapeWord 0 1 1)]
        [(1, 0, [0, 0, 0x80, 0x4B, 0, 0, 0x80, 0x3F, 0, 0, 0x80, 0x3F, 0, 0, 0x80, 0x3F])] []))
      (fun t => (leNum ((t.core 0).tileBytes 20 0 0 4), newFlags .v t)) = some (0x4B800001, some 0x10) := by decide +kernel

/-- R267: the last two blocks of the example, the second of which has an absent part. -/
theorem test_vbmax :
    after (exec (.vbmax ⟨t0, ⟨tile 12, tile 2, z, z⟩, ⟨1, 0, 0, false, false, 0, 0, 0, 0, 0, 0⟩⟩)
      (engState .v [(2, shapeWord 1 1 12), (12, shapeWord 0 1 4)]
        [(2, 0, [0x80, 0x40, 0xC0, 0x7F, 0x80, 0x3F, 0x80, 0x3F, 0x80, 0x3F, 0x80, 0x3F, 0x80, 0x3F, 0x80, 0x3F,
                 0xC0, 0xC0, 0x80, 0x3F, 0x80, 0x3E, 0x00, 0x40, 0xC8, 0x42, 0xC8, 0x42])] []))
      (fun t => (leNum ((t.core 0).tileBytes 12 0 0 12), newFlags .v t)) = some (0x40C000007FC00000, some 0x20) := by decide +kernel

/-- R278: the key of (2, 1). -/
theorem test_vsfc :
    after (exec (.vsfc ⟨t0, ⟨tile 5, tile 1, tile 2, z⟩, ⟨8, 5, 0, false, false, 0, 0, 0, 0, 0, 5⟩⟩)
      (engState .v [(1, shapeWord 8 1 1), (2, shapeWord 8 1 1), (5, shapeWord 5 1 1)] [(1, 0, [2]), (2, 0, [1])] []))
      (fun t => leNum ((t.core 0).tileBytes 5 0 0 4)) = some 13 := by decide +kernel

end Sys2Proof.Tests
end

