-- ==== Sys2Proof/Tests/Witness.lean ====
section
/-! SUPPORT. Witnesses: for the statements with hypotheses, concrete states and operands that meet them together, clause by clause. -/

set_option Elab.async false

namespace Sys2Proof.Tests

open Sys2Proof Sys2Proof.Machine Sys2Proof.Safety

/-! ### Control-core words -/

theorem witness_AluAndCompareResults : Runs xs0 0 .cp g0 ∧ Runs { State.reset with cur := .context 127 .st } 127 .st g0 := by
  constructor <;> exact ⟨rfl, by decide +kernel⟩

/-- JALR to a multiple of four and off one (x4 = 64); TRAP, YIELD and DONE in and outside the epilogue. -/
theorem witness_BranchesTrapsAndPartEnds : Runs xs0 0 .cp g0 ∧ ((xs0.ctx 0 .cp).getX 4 + (4 : BitVec 12).signExtend 64).toNat % 4 = 0 ∧
    ((xs0.ctx 0 .cp).getX 4 + (1 : BitVec 12).signExtend 64).toNat % 4 ≠ 0 ∧ (xs0.core 0).fault = none ∧ (xs0.core 0).part ≠ .epilogue ∧
    ((xs0.setCore 0 { xs0.core 0 with part := .epilogue }).core 0).part = .epilogue := by
  refine ⟨⟨rfl, by decide +kernel⟩, ?_⟩; decide +kernel

theorem witness_GuardedWordPasses : guardOf (.add ⟨true, 0⟩ 1 2 3) = some ⟨true, 0⟩ ∧ xs0.cur = .context 0 .cp ∧
    (xs0.ctx 0 .cp).guard ⟨true, 0⟩ = false := by decide +kernel

/-- The last bytes of a quad's scratchpad: bank 31 is a scratchpad bank. -/
def endPad : State :=
  let s := cpState [(1, 0xFE00000001FFFFF0)]
  s.setQuad 0 { s.quad 0 with mode := 0x4000000000000000 }

/-- CP of core 0 with a lease on 64 KiB from 0x20000, translated to device address 0x20000 in a region of grade P; x1 = 0x20000, and
x2 is not there. -/
def virtState : State :=
  let s := cpState [(1, 0x20000), (2, 0x30000), (6, 0x8182838485868788)]
  let c := s.core 0
  let s1 := s.setCore 0 { c with
    ranges := [⟨0x20000, 65536, true⟩], tlb := [⟨0, 0x20000, 16, ⟨0x20000, false, false, false, 0, true, true, true⟩⟩] }
  s1.setMem { s1.mem with grades := [(0, 0)] }

theorem virt_here (n : Need) (h : n = .read ∨ n = .write ∨ n = .both) : HereAt virtState 0 0x20000 8 n 0x20000 virtState := by
  rcases h with rfl | rfl | rfl <;> exact ⟨false, _, [], by decide +kernel, by rfl⟩

theorem noPoison_reset (s : State) (k : Fin 128) (a n : Nat) (h : s.mem.poison = []) (h' : (s.core k).dl1 = []) : NoPoison s k a n := by
  intro i _
  refine ⟨by simp [kmem, h], fun l e => ?_⟩
  simp [Core.dline, h'] at e

theorem pad_end (n : Nat) (h : n ≤ 16) (h' : 0 < n) : PadAt endPad 0 0xFE00000001FFFFF0 n 0 0x1FFFFF0 := by
  refine ⟨by decide +kernel, by decide +kernel, by omega, fun b h1 h2 => ?_⟩
  have : b = 31 := by omega
  subst this
  decide +kernel

theorem witness_LoadResults : Runs endPad 0 .cp g0 ∧ ((endPad.ctx 0 .cp).getX 1 + (-1 : BitVec 8).signExtend 64 * 8).toNat % 8 = 0 ∧
    ((xs0.ctx 0 .cp).getX 2 + (0 : BitVec 8).signExtend 64 * 8).toNat % 8 ≠ 0 ∧ PadAt endPad 0 0xFE00000001FFFFF0 8 0 0x1FFFFF0 ∧
    endPad.mem.poisonedAt (sramFlat 0 0x1FFFFF0) 8 = none ∧ Runs virtState 0 .cp g0 ∧ HereAt virtState 0 0x20000 8 .read 0x20000 virtState ∧
    NoPoison virtState 0 0x20000 8 :=
  ⟨⟨rfl, by decide +kernel⟩, by decide +kernel, by decide +kernel, pad_end 8 (by decide) (by decide), by decide +kernel,
    ⟨rfl, by decide +kernel⟩, virt_here _ (.inl rfl), noPoison_reset _ _ _ _ (by rfl) (by rfl)⟩

theorem witness_StoreResults : Runs endPad 0 .cp g0 ∧ PadAt endPad 0 0xFE00000001FFFFF0 8 0 0x1FFFFF0 ∧ Runs virtState 0 .cp g0 ∧
    HereAt virtState 0 0x20000 8 .write 0x20000 virtState ∧ ((endPad.ctx 0 .cp).getX 1).toNat % 8 = 0 ∧ ((xs0.ctx 0 .cp).getX 2).toNat % 8 ≠ 0 :=
  ⟨⟨rfl, by decide +kernel⟩, pad_end 8 (by decide) (by decide), ⟨rfl, by decide +kernel⟩, virt_here _ (.inr (.inl rfl)), by decide +kernel⟩

/-- Bank 1 of quad 0 is a FIFO bank holding `l`; x2 is its data address. -/
def fifoState (l : List W64) : State :=
  let s := cpState [(2, 0xFE00000000100000)]
  s.setQuad 0 { s.quad 0 with mode := 0b1001, fifo := [(1, l)] }

theorem fifo_at (l : List W64) (off : Nat) (h : off = 0 ∨ off = 8) : FifoAt (fifoState l) 0 (BitVec.ofNat 64 (0xFE00000000100000 + off)) 0 1 off := by
  rcases h with rfl | rfl <;> exact ⟨by decide +kernel, by decide, by decide, by rfl, by rfl, by
    show bitsNat (BitVec.toNat (0b1001 : W64)) 2 2 = 2; decide⟩

theorem witness_FifoAndFullEmptyAccesses :
    (∀ l : List W64, Runs (fifoState l) 0 .cp g0 ∧ FifoAt (fifoState l) 0 0xFE00000000100000 0 1 0 ∧ FifoAt (fifoState l) 0 0xFE00000000100008 0 1 8 ∧
      ((fifoState l).quad 0).entries 1 = l) ∧ (List.replicate 131072 (0 : W64)).length = 131072 ∧
    -- an empty granule and, after FEQ.set, a full one
    Runs endPad 0 .cp g0 ∧ PadAt endPad 0 0xFE00000001FFFFF0 8 0 0x1FFFFF0 ∧ endPad.mem.poisonedAt (sramFlat 0 0x1FFFFF0) 8 = none ∧
    kmem (endPad.quad 0).full (0x1FFFFF0 / 16) = false ∧
    kmem ((endPad.setQuad 0 { endPad.quad 0 with full := [0x1FFFFF] }).quad 0).full (0x1FFFFF0 / 16) = true :=
  ⟨fun l => ⟨⟨rfl, by rfl⟩, fifo_at l 0 (.inl rfl), fifo_at l 8 (.inr rfl), by rfl⟩, List.length_replicate, ⟨rfl, by decide +kernel⟩,
    pad_end 8 (by decide) (by decide), by decide +kernel⟩

/-- Writes of CP of core 0 through a remote page are outstanding, of class 3. -/
def remoteState : State :=
  { xs0 with fab := { xs0.fab with remote := [⟨7, 0, 0, 0, .context .cp, 0, 0, 3, 1, 0, 0, 8, true, 0⟩] } }

theorem noStores_reset (s : State) (k : Fin 128) (c : CtxId) (n : Nat) (h : s.fab.remote = []) : NoStores s k c n := by
  intro r m; rw [h] at m; cases m

/-- The data L1 of core 0 is full of other lines. -/
def fullState : State :=
  let c := virtState.core 0
  virtState.setCore 0 { c with dl1 := List.replicate 512 ⟨0x40000, 0x40000, [], []⟩ }

/-- Loads and stores: with no store of their class under way and with one; the data L1 with room, also for two lines, and without. -/
theorem witness_L1RoomAndStores : (virtState.ctx 0 .cp).remote = none ∧ (endPad.ctx 0 .cp).remote = none ∧ NoStores virtState 0 .cp 15 ∧
    NoStores endPad 0 .cp 15 ∧ ¬ NoStores remoteState 0 .cp 3 ∧ Room virtState 0 0x20000 8 ∧ Room virtState 0 0x2007C 8 ∧
    HereAt fullState 0 0x20000 8 .read 0x20000 fullState ∧ HereAt fullState 0 0x20000 8 .write 0x20000 fullState ∧
    (fullState.core 0).hasRoom 0x20000 = false ∧ Runs fullState 0 .cp g0 := by
  refine ⟨by rfl, by rfl, noStores_reset _ _ _ _ (by rfl), noStores_reset _ _ _ _ (by rfl), fun h => ?_, ?_, ?_, ?_, ?_, ?_, ⟨rfl, by rfl⟩⟩
  · exact h _ (List.mem_singleton.mpr rfl) ⟨rfl, rfl, rfl, rfl⟩
  · unfold Room; decide +kernel
  · unfold Room; decide +kernel
  · exact ⟨false, _, [], by decide +kernel, by rfl⟩
  · exact ⟨false, _, [], by decide +kernel, by rfl⟩
  · decide +kernel

/-- FIFO banks at other offsets and with another size; an LDFE.w of LD of core 0 and of ST of core 127 waits on the granule. -/
theorem witness_FifoOffsetsAndWaits : FifoAt (fifoState []) 0 0xFE00000000100010 0 1 16 ∧ FifoAt (fifoState []) 0 0xFE00000000100004 0 1 4 ∧
    (let x := endPad.setCtx 0 .ld { endPad.ctx 0 .ld with waits := some (.load 0 0x1FFFFF8 0xFE00000001FFFFF8 31) }
     LoadWaits x 0 0x1FFFFF0 ∧ (x.core 0).fault = none ∧ kmem (x.quad 0).full (0x1FFFFF0 / 16) = false ∧ x.cur = .context 0 .cp) ∧
    ¬ LoadWaits endPad 0 0x1FFFFF0 := by
  refine ⟨⟨by decide +kernel, by decide, by decide, by rfl, by rfl, ?_⟩, ⟨by decide +kernel, by decide, by decide, by rfl, by rfl, ?_⟩,
    ⟨⟨0, .ld, by decide +kernel, 0x1FFFFF8, _, _, by rfl, by decide⟩, by decide +kernel⟩, ?_⟩
  · show bitsNat (BitVec.toNat (0b1001 : W64)) 2 2 = 2; decide
  · show bitsNat (BitVec.toNat (0b1001 : W64)) 2 2 = 2; decide
  · rintro ⟨j, d, -, o, ea, rd, h, -⟩
    have w : ∀ j : Fin 128, (endPad.ctx j .ld).waits = none ∧ (endPad.ctx j .cp).waits = none ∧ (endPad.ctx j .st).waits = none := by
      decide +kernel
    cases d <;> simp [w j] at h

theorem witness_CacheRangesAndFences : Runs xs0 0 .cp g0 ∧ Runs remoteState 0 .cp g0 ∧
    (∃ r, (r ∈ remoteState.fab.remote ∧ r.core = (0 : Fin 128).val ∧ r.who = .context .cp ∧ r.write = true) ∧
      (8 : BitVec 16).getLsbD r.cls = true) ∧
    ¬ (∃ r, r ∈ xs0.fab.remote ∧ r.core = (0 : Fin 128).val ∧ r.who = .context .cp ∧ r.write = true) :=
  ⟨⟨rfl, by decide +kernel⟩, ⟨rfl, by decide +kernel⟩, ⟨_, ⟨List.mem_singleton.mpr rfl, rfl, rfl, rfl⟩, by decide⟩, by
    rintro ⟨r, h, _⟩; cases h⟩

theorem witness_AtomicResults : Runs endPad 0 .cp g0 ∧ AtomicAt endPad 0 0xFE00000001FFFFF0 8 (sramFlat 0 0x1FFFFF0) endPad ∧
    endPad.mem.poisonedAt (sramFlat 0 0x1FFFFF0) 8 = none ∧ Runs virtState 0 .cp g0 ∧ AtomicAt virtState 0 0x20000 8 0x20000 virtState ∧
    ((xs0.ctx 0 .cp).getX 2).toNat % 4 ≠ 0 :=
  ⟨⟨rfl, by decide +kernel⟩, .inl ⟨0, _, pad_end 8 (by decide) (by decide), rfl, rfl⟩, by decide +kernel, ⟨rfl, by decide +kernel⟩,
    .inr ⟨_, [], by decide +kernel, by rfl⟩, by decide +kernel⟩

/-- A descriptor at the last 16 bytes of the scratchpad: HEAD 0, TAIL `tail`, 2^log slots of 8 bytes at the start of the bank. -/
def queueState (tail third : W32) : State :=
  endPad.setMem ((endPad.mem.setNum (sramFlat 0 0x1FFFFF4) 4 tail.toNat).setNum (sramFlat 0 0x1FFFFF8) 4 third.toNat)

/-- The fields of a descriptor that R207 bounds, and the words in the queue. -/
def descriptorOf (s : State) : Bool × Nat × Nat :=
  let m := s.mem
  let a := sramFlat 0 0x1FFFFF0
  let log := bitsNat (m.num (a + 8) 4) 24 5
  let slots := bitsNat (m.num (a + 8) 4) 0 20
  (decide (bitsNat (m.num (a + 8) 4) 29 3 = 0 ∧ bitsNat (m.num (a + 8) 4) 20 4 = 0 ∧ m.num (a + 12) 4 = 0 ∧ log ≤ 17 ∧ slots % 8 = 0 ∧
    slots + 8 * 2 ^ log ≤ 2 ^ 20), 2 ^ log, (BitVec.ofNat 32 (m.num (a + 4) 4) - BitVec.ofNat 32 (m.num a 4)).toNat)

theorem queue_pad (tail third : W32) : PadAt (queueState tail third) 0 0xFE00000001FFFFF0 16 0 0x1FFFFF0 := pad_end 16 (by decide) (by decide)

/-- Queues: not valid, with room, full, and empty; the largest valid one fills its bank. -/
theorem witness_SoftwareQueuesAndRings : Runs (queueState 1 0) 0 .cp g0 ∧ PadAt (queueState 1 0) 0 0xFE00000001FFFFF0 16 0 0x1FFFFF0 ∧
    (queueState 1 0).mem.poisonedAt (sramFlat 0 0x1FFFFF0) 16 = none ∧ descriptorOf (queueState 0 1) = (false, 1, 0) ∧
    descriptorOf (queueState 131071 0x11000000) = (true, 131072, 131071) ∧ descriptorOf (queueState 1 0) = (true, 1, 1) ∧
    descriptorOf (queueState 0 0) = (true, 1, 0) ∧
    -- rings: CP consumes ring 0 and produces ring 1 of two slots; there is and there is not a free slot, a filled slot, a slot held
    Runs (ringState 1 ⟨1, 1, 0, 0⟩) 0 .cp g0 ∧ (((ringState 1 ⟨1, 1, 0, 0⟩).core 0).e[(29 : Fin 32)]).toNat = 0x1600004000 ∧
    ((1 : W32) - 0).toNat < 2 ∧ 2 ≤ ((2 : W32) - 0).toNat ∧ 0 < ((1 : W32) - 0).toInt ∧ ((1 : W32) - 1).toInt ≤ 0 ∧
    Runs (ringState 0 ⟨1, 1, 0, 0⟩) 0 .cp g0 :=
  ⟨⟨rfl, by decide +kernel⟩, queue_pad 1 0, by decide +kernel, by decide +kernel, by decide +kernel, by decide +kernel, by decide +kernel,
    ⟨rfl, by decide +kernel⟩, by decide +kernel, by decide, by decide, by decide, by decide, ⟨rfl, by decide +kernel⟩⟩

/-- A ring on which LD of core 0 waits, and CP has stored through a remote page; the same with no store. -/
theorem witness_RingWaits :
    (let s := (ringState 1 ⟨1, 1, 0, 0⟩)
     let t := s.setCtx 0 .ld { s.ctx 0 .ld with waits := some (.ring 1 false) }
     (allCtx.filter fun j => decide (ctxAgent j < ctxAgent .cp) && (t.ctx 0 j).waits == some (.ring 1 false)).length = 1 ∧
     1 + ((1 : W32) - 0).toNat = 2) ∧
    (∃ r, r ∈ remoteState.fab.remote ∧ r.core = (0 : Fin 128).val ∧ r.who = .context .cp ∧ r.write = true) ∧ ((1 : W32) ≠ 0) := by
  refine ⟨by decide +kernel, ⟨_, List.mem_singleton.mpr rfl, rfl, rfl, rfl⟩, by decide⟩

/-- The A engine of core 0 with a stream running and forks waiting; and tokens. -/
def driveState (run : Bool) (forks : List CtxId) (tok : BitVec 4) : State :=
  let s := cpState [(1, 0x20000), (2, 8)]
  let c := s.core 0
  s.setCore 0 { c with a := { c.a with run := run, forks := forks }, tok := Vector.replicate 16 tok }

/-- FORK: misaligned, free to start, its turn come, to wait in turn, to queue; JOIN; tokens present, absent, full; a bank switching. -/
theorem witness_DrivingEnginesAndTokens : (∀ b l t, Runs (driveState b l t) 0 .cp g0) ∧ ((xs0.ctx 0 .cp).getX 2).toNat % 16 ≠ 0 ∧
    (((driveState false [] 0).ctx 0 .cp).getX 1).toNat % 16 = 0 ∧
    ((driveState false [] 0).eng 0 .a).run = false ∧ ((driveState false [] 0).eng 0 .a).forks = [] ∧
    ((driveState false [.cp, .ld] 0).eng 0 .a).forks = .cp :: [.ld] ∧ ((driveState true [.cp] 0).eng 0 .a).run = true ∧
    .cp ∈ ((driveState true [.cp] 0).eng 0 .a).forks ∧ .cp ∉ ((driveState true [.ld] 0).eng 0 .a).forks ∧
    ((driveState true [] 1).core 0).getTok 1 0 ≠ 0 ∧ ((driveState true [] 0).core 0).getTok 1 0 = 0 ∧
    ((driveState true [] 15).core 0).getTok 0 1 = 15 ∧ ((driveState true [] 14).core 0).getTok 0 1 ≠ 15 ∧
    ((driveState true [] 15).quad (quadOf 0)).switching = [] ∧
    (((driveState true [] 0).setQuad 0 { Quad.reset with switching := [(0, 1)] }).quad (quadOf 0)).switching ≠ [] :=
  ⟨fun _ _ _ => ⟨rfl, by rfl⟩, by decide +kernel⟩

/-- LD of core 0 waits for the tokens that CP asks for: they are there for one of the two, and for both. -/
theorem witness_TokenTurns : ∀ n : BitVec 4, n = 1 ∨ n = 2 →
    let s := driveState true [] n
    let t := s.setCtx 0 .ld { s.ctx 0 .ld with waits := some (.tokens ⟨true, false, false⟩) }
    (t.core 0).getTok 1 0 ≠ 0 ∧ (((t.core 0).afterLower .cp).getTok 1 0 = 0 ↔ n = 1) := by
  rintro n (rfl | rfl) <;> decide +kernel

/-- CP of core 0 with arrival counts and completed counts of the package, and the wait of BAR.aw. -/
def barState (a p : W32) (arrived : Bool) : State :=
  let s := cpState []
  let c := s.core 0
  s.setCore 0 { c with
    barA := Vector.replicate 4 a, barP := Vector.replicate 5 p, cp := { c.cp with arrived := arrived, arrive := a } }

/-- Barriers: the phase done and not done, one arrival ahead, an arrival that completes and one that does not; and of TRM, targets
below and above this rank and outside the gang, with TERM clear and set. -/
theorem witness_BarriersAndTermination : (∀ a p b, Runs (barState a p b) 0 .cp g0) ∧
    arriveCount ((barState 1 0 false).core 0) .cp .package = doneCount ((barState 1 0 false).core 0) .package + 1 ∧
    arriveCount ((barState 0 0 false).core 0) .cp .core ≠ doneCount ((barState 0 0 false).core 0) .core + 1 ∧
    (arriveCount ((barState 0 0 true).core 0) .cp .quad).toNat ≤ (doneCount ((barState 0 0 true).core 0) .quad).toNat ∧
    ¬ (arriveCount ((barState 1 0 true).core 0) .cp .quad).toNat ≤ (doneCount ((barState 1 0 true).core 0) .quad).toNat ∧
    ((barState 1 0 true).ctx 0 .cp).arrived = true ∧ ((barState 1 0 false).ctx 0 .cp).arrived = false ∧
    (0 : Fin 128) ∈ (barState 0 0 false).scopeCores 0 .quad ∧ (0 : Fin 128) ∈ (barState 0 0 false).scopeCores 0 .core ∧
    ((xs0.gangOf 0).length ≤ ((xs0.ctx 0 .cp).getX 4).toNat ∧ ((xs0.ctx 0 .cp).getX 0).toNat < (xs0.gangOf 0).length ∧
      (xs0.core 0).trm.term = false ∧ (xs0.core 0).disp.grank.toNat ≤ ((xs0.ctx 0 .cp).getX 0).toNat) ∧
    (let s := xs0.setCore 0 { xs0.core 0 with disp := { (xs0.core 0).disp with grank := 1 }, trm := { Trm.reset with term := true } }
     ((s.ctx 0 .cp).getX 0).toNat < (s.core 0).disp.grank.toNat ∧ (s.core 0).trm.term = true) :=
  ⟨fun _ _ _ => ⟨rfl, by rfl⟩, by decide +kernel⟩

/-- CP may write QBMODE, and x1 asks for a mode 3, for bank 0 to leave FIFO mode, and for the modes as they are. -/
def modeState (grant : Bool) (v mode : W64) (fifo : List (Nat × List W64)) (sw : List (Nat × Nat)) : State :=
  let s := cpState [(1, v)]
  (s.setCore 0 { s.core 0 with qbGrant := grant }).setQuad 0 { s.quad 0 with mode := mode, fifo := fifo, switching := sw }

theorem witness_SpecialRegistersAndBanks : (∀ g v m f w, Runs (modeState g v m f w) 0 .cp g0) ∧
    ((modeState false 0 0 [] []).core 0).qbGrant = false ∧ ((modeState true 0 0 [] []).core 0).qbGrant = true ∧
    (∃ b, b < 32 ∧ bitsNat (((modeState true 0xC000000000000000 0 [] []).ctx 0 .cp).getX 1).toNat (2 * b) 2 = 3) ∧
    (∀ b, b < 32 → bitsNat (((modeState true 1 2 [] []).ctx 0 .cp).getX 1).toNat (2 * b) 2 ≠ 3) ∧
    ((modeState true 0 0 [] [(31, 1)]).quad (quadOf 0)).switching ≠ [] ∧ ((modeState true 1 2 [] []).quad (quadOf 0)).switching = [] ∧
    (∃ b, b < 32 ∧ bitsNat (((modeState true 1 2 [(0, [5])] []).ctx 0 .cp).getX 1).toNat (2 * b) 2 ≠
        bitsNat ((modeState true 1 2 [(0, [5])] []).quad 0).mode.toNat (2 * b) 2 ∧
      bitsNat ((modeState true 1 2 [(0, [5])] []).quad 0).mode.toNat (2 * b) 2 = 2 ∧ ((modeState true 1 2 [(0, [5])] []).quad 0).entries b ≠ []) ∧
    (∀ b, b < 32 → ((modeState true 1 2 [] []).quad 0).entries b = []) ∧
    ((modeState true 0 0 [] [(31, 1)]).quad 0).switching.find? (·.1 == 31) = some (31, 1) ∧
    ((modeState true 0 0 [] [(0, 2)]).quad 0).bankMode 0 ≠ 2 :=
  ⟨fun _ _ _ _ _ => ⟨rfl, by rfl⟩, by decide +kernel, by decide +kernel, ⟨31, by decide +kernel⟩, by decide +kernel,
    by decide +kernel, by decide +kernel, ⟨0, by decide +kernel⟩, by decide +kernel⟩

/-- A context waits on a granule of bank 31, whose switch is to complete; one that waits for tokens does not. -/
theorem witness_BankWaits :
    (let s := modeState true 0 0 [] [(31, 1)]
     let t := s.setCtx 0 .ld { s.ctx 0 .ld with waits := some (.pad 0 0x1F00000) }
     (t.core 0).fault = none ∧ (∃ w, (t.ctx 0 .ld).waits = some w ∧ w.inBank 0 31 = true) ∧
     (CtxWait.tokens ⟨true, false, false⟩).inBank 0 31 = false) :=
  ⟨by decide +kernel, ⟨_, rfl, by decide +kernel⟩, by decide⟩

/-- Group 0 is the span of PASID 0, and package 0 stands in none of its members (its MLIST is not written): R358 refuses. -/
theorem witness_SpanRefused : (let s := cpState []
    let t := s.setFab { s.fab with groups := [(0, 0xC000000000100100), (1, 0x1000)] }
    let u := t.setMem (t.mem.setNum 0x1000 4 0x50005)
    t.podSpan 0 = .group 0 1 2 1 ∧ u.spanRefused 0 = true ∧ t.spanRefused 0 = false ∧ t.cur = .context 0 .cp) := by decide +kernel

theorem witness_ControlWordFrame : (guardOf (.add g0 5 1 2)).isSome = true ∧ actsOnMemory (.add g0 5 1 2) = false ∧ xs0.cur = .context 0 .cp ∧
    ∃ t, exec (.add g0 5 1 2) xs0 = .next t := ⟨rfl, rfl, rfl, _, rfl⟩

theorem witness_StoreAndAtomicFrame : storeAt (.std g0 6 1 0 0) (endPad.ctx 0 .cp) = some (0xFE00000001FFFFF0, 8) ∧
    (∃ t, exec (.std g0 6 1 0 0) endPad = .next t) ∧ atomicAddr (.redOr g0 1 6 0 true) = some (1, 8) ∧
    (∃ t, exec (.redOr g0 1 6 0 true) endPad = .next t) ∧ endPad.cur = .context 0 .cp :=
  ⟨by decide +kernel, ⟨_, rfl⟩, by decide, ⟨_, rfl⟩, rfl⟩

/-! ### Streams and engine words -/

/-- CP of core 0 runs at 0x10000, whose page holds the section of R103's example (good) or a header of kind 0 for the A engine. -/
def sectionState (good : Bool) : State :=
  let s := State.reset.withFetchWord 32 0
  let hdr := if good then 0xA4000C0040271400 else 0
  let s1 := s.setMem ((s.mem.setNum 0x10000 8 hdr).setNum 0x10008 12 0x112831040800117FFFE00000)
  let y := s1.eng 0 .a
  s1.setEng 0 .a { y with run := true, next := 0x10000 }

/-- A line of the instruction L1, and a section that waits to be executed, its count immediate or in e7. -/
def bufferedState (repsrc : Bool) : State :=
  let s := sectionState true
  let s1 := s.setCore 0 { s.core 0 with il1 := [⟨0x10000, List.replicate 128 0, [1]⟩] }
  let y := s1.eng 0 .a
  s1.setEng 0 .a { y with buf := some ⟨0x10000, ⟨3, 1, 0, repsrc, 7, 0x14, 0⟩, [0x112831040800117FFFE00000], none⟩ }

theorem fetch_here (b : Bool) : HereAt (sectionState b) 0 ((sectionState b).ctx 0 .cp).pc 4 .fetch 0x10000 (sectionState b) := by
  cases b <;> exact ⟨false, _, [], by decide +kernel, by rfl⟩

theorem witness_SectionsAndFetch : ((sectionState true).core 0).fault = none ∧ ((sectionState true).ctx 0 .cp).run = .running ∧
    ((sectionState true).ctx 0 .cp).ahead = none ∧ HereAt (sectionState true) 0 ((sectionState true).ctx 0 .cp).pc 4 .fetch 0x10000 (sectionState true) ∧
    ((sectionState true).core 0).il1.find? (·.pa == 0x10000 / 128 * 128) = none ∧ (sectionState true).mem.poisonedAt 0x10000 4 = none ∧
    ((bufferedState true).core 0).il1.find? (·.pa == 0x10000 / 128 * 128) = some ⟨0x10000, List.replicate 128 0, [1]⟩ ∧
    ((sectionState true).eng 0 .a).run = true ∧ ((sectionState true).eng 0 .a).buf = none ∧
    (∃ bs u v, (sectionState true).streamBytes 0 .a 0x10000 8 = .ok bs u ∧ leNum bs = 0xA4000C0040271400 ∧
      u.streamWords 0 .a 0x10000 1 0 = .ok ([0x112831040800117FFFE00000], none) v) ∧
    (∃ bs u, (sectionState false).streamBytes 0 .a 0x10000 8 = .ok bs u ∧ leNum bs = 0) ∧
    ((bufferedState true).eng 0 .a).cur = none ∧ (((bufferedState true).eng 0 .a).buf.any fun f => f.bad == none) = true ∧
    (((bufferedState true).core 0).e[(7 : Fin 32)]).toNat % 2 ^ 32 = 0 ∧ (((bufferedState false).eng 0 .a).buf.map fun f => f.hdr.repimm + 1) = some 1 :=
  ⟨by decide +kernel, by decide +kernel, by decide +kernel, fetch_here true, by decide +kernel, by decide +kernel, by decide +kernel,
    by decide +kernel, by decide +kernel, ⟨_, _, _, rfl, by decide +kernel, by rfl⟩, ⟨_, _, rfl, by decide +kernel⟩, by decide +kernel⟩

/-- Engine V of core 0 issues under these token counters, with e3 = `v`, and words in flight. -/
def tokState (tok : BitVec 4) (v : W64) (fl : List Flight) : State :=
  let s := withE 3 v (engState .v [] [] [])
  let c := s.core 0
  s.setCore 0 { c with tok := Vector.replicate 16 tok, v := { c.v with flight := fl } }

/-- A word waits for its tokens, or takes them; ESKIP and its conditions; words in flight or none; tokens to post up to the bound. -/
theorem witness_CommonEngineWords : (tokState 0 0 []).cur = .engine 0 .v ∧
    ((tokState 0 0 []).core 0).consume 2 (tokAgents .v 5) = none ∧ (∃ d, Issues (tokState 1 0 []) 0 .v ⟨5, 7⟩ d) ∧
    (∃ d, Issues (tokState 15 (-1) []) 0 .v ⟨7, 0⟩ d ∧ d.e[(3 : Fin 32)] ≠ 0 ∧ (d.e[(3 : Fin 32)]).toInt < 0) ∧
    ((tokState 1 0 []).eng 0 .v).flight = [] ∧ ((tokState 1 0 [.plain 0 7]).eng 0 .v).flight = [.plain 0 7] ∧
    (∀ f ∈ ((tokState 1 0 [.plain 0 7]).eng 0 .c).flight, Engine.v = .c → (3 : Fin 32).val ∉ f.we) ∧
    (Flight.plain 0 7).reqs = [] ∧ (Flight.plain 0 7).wait = .none ∧ ((tokState 14 0 []).core 0).fault = none ∧
    (∀ q ∈ tokAgents .v 7, ((tokState 14 0 []).core 0).getTok 2 q ≠ 15) :=
  ⟨rfl, by decide +kernel, ⟨_, rfl, rfl⟩, ⟨_, ⟨rfl, rfl⟩, by decide +kernel⟩, by decide +kernel⟩

/-- Tiles of core 0 by number: 1 and 2 in BF16, 3 in UINT8, 4 in BIT1, 5 in FP32, 6 in IX4, 7 in K8, 8 in INT32, 20 in FP32, each of 128
rows as wide as a row. -/
def tiles : List (Fin 48 × W32) :=
  [(1, shapeWord 1 128 64), (2, shapeWord 1 128 64), (3, shapeWord 8 128 128), (4, shapeWord 12 128 1024), (5, shapeWord 0 128 32),
   (6, shapeWord 10 128 256), (7, shapeWord 3 128 128), (8, shapeWord 5 128 32), (9, shapeWord 9 128 256), (10, shapeWord 0 128 32),
   (11, shapeWord 0 128 32), (20, shapeWord 0 128 32)]
def arr : State := engState .a tiles [] []
def issA : Issue := engIssue arr 0 .a (arr.core 0)

theorem arr_issues (p : Fin 8) : Issues arr 0 .a ⟨0, p⟩ (arr.core 0) := ⟨rfl, by simp [Core.consume, tokAgents]⟩

def amOf (o : Ops4) (m : ModAM) : AmWord := ⟨t0, o, m⟩

/-- Products over the largest block: 64 by 64 by 64. -/
theorem witness_ArrayProducts :
    ((prodOps issA (amOf ⟨accu 0, tile 1, ⟨.c, .tile 2⟩, z⟩ ⟨1, 1, 63, 63, 63, 64, 0, 0, true⟩) [.r, .c]).any fun p =>
      p.a.fits 64 64 64 && p.b.fits 0 64 64) = true ∧
    prodOps issA (amOf ⟨tile 1, tile 1, tile 2, z⟩ ⟨1, 1, 63, 63, 63, 64, 0, 0, true⟩) [.r, .c] = none ∧
    ((prodOps issA (amOf ⟨accu 0, tile 1, tile 2, tile 3⟩ ⟨1, 1, 15, 0, 0, 0, 0, 2, true⟩) [.r]).any fun p =>
      p.order != .sat && p.a.fits 0 1 2 && p.b.fits 0 16 1) = true ∧
    ((issA.tileOp 3 (tile 3) [.r] [.uint8] .uint8).any fun md => md.fits 0 1 1) = true ∧
    ((issA.tileOp 3 (tile 4) [.r] [.bit1] .bit1).any fun md => md.fits 64 64 64) = true := by decide +kernel

theorem witness_AccumulatorMoves : Issues arr 0 .a ⟨0, 7⟩ (arr.core 0) ∧ issA.accOp 0 (accu 3) = some 3 ∧ issA.accOp 1 (accu 3) = some 3 ∧
    fmtIn 0 [.fp32, .int32] = some .fp32 ∧ (issA.tileOp 1 (tile 5) [.r] [.fp32] .fp32).any (fun t => t.fits 0 64 64) = true ∧
    (issA.tileOp 0 (tile 5) [.r] [.fp32] .fp32).any (fun t => t.fits 0 64 64) = true := ⟨arr_issues 7, by decide +kernel⟩

/-- ATBLD of 16 codes into the last subspace that fits, and of 256 codes; ATMMA up to the last subspace. -/
theorem witness_TableProducts : fmtIn 1 [.bf16, .fp16, .k8, .k8w] = some .bf16 ∧ fmtIn 0 [.fp32, .bf16, .fp16] = some .fp32 ∧
    (issA.tileOp 1 (tile 1) [.r] [.bf16] .bf16).any (fun c => c.fits 112 16 64 && c.fits 0 128 64) = true ∧
    (issA.tileOp 2 (tile 5) [.r] [.bf16] .bf16) = none ∧
    (issA.tileOp 2 (tile 2) [.r] [.bf16] .bf16).any (fun w => w.fits 64 64 64) = true ∧ (15 + 1) * 16 * 64 * 4 ≤ 65536 ∧
    (0 + 1) * 256 * 64 * 4 ≤ 65536 ∧ shapeOf (arr.core 0).tshape[(2 : Fin 48)] = some ⟨.bf16, 127, 63⟩ ∧
    fmtIn 10 [.ix4, .ix8] = some .ix4 ∧ (issA.tileOp 1 (tile 6) [.r] [.ix4] .ix4).any (fun c => c.fits 64 64 1) = true ∧ issA.accOp 0 (accu 0) = some 0 := by
  decide +kernel

/-- Distances, also Hamming distances of whole rows; the best of a row with a carry and the index register stepped. -/
theorem witness_DistancesAndMinima : (issA.tileOp 1 (tile 1) [.r] [.bf16] .bf16).any (fun t => t.fits 64 64 64) = true ∧
    fmtIn 12 [.bit1] = some .bit1 ∧ (issA.tileOp 1 (tile 4) [.r] [.bit1] .bit1).any (fun t => t.fits 64 64 (64 * 16)) = true ∧
    64 * 16 ≤ Fmt.lanes .bit1 ∧ (issA.tileOp 0 (tile 20) [.r] [.fp32, .int32] .fp32).any (fun t => decide (1 ≤ t.sh.cols)) = true ∧
    issA.accOp 1 (accu 2) = some 2 := by decide +kernel

def adOf (o : Ops4) (m : ModAD) : AdWord := ⟨t0, o, m⟩

/-- A drain to a tile, and drains to memory whose base, then whose pitch is misaligned, then neither. -/
theorem witness_Drains : (drainOps issA (adOf ⟨tile 7, accu 1, z, z⟩ ⟨3, 0, true, false, 1, true, 63, 63, 64, 0, 0, 0⟩)).isSome = true ∧
    (issA.tileOp 0 (tile 7) [.r] [.k8] .k8).any (fun t => t.fits 64 64 64) = true ∧
    (drainOps issA (adOf ⟨z, accu 1, z, z⟩ ⟨3, 0, true, false, 1, true, 63, 63, 0, 0, 30, 15⟩)).isSome = true ∧
    (((withE 30 0x20008 arr).core 0).e[(30 : Fin 32)]).toNat % 16 ≠ 0 ∧ (((withE 31 8 arr).core 0).e[(31 : Fin 32)]).toNat % 16 ≠ 0 ∧
    ((arr.core 0).e[(31 : Fin 32)]).toNat % 16 = 0 := by decide +kernel

theorem witness_ScalingAndCentroids : issA.accOp 0 (accu 1) = some 1 ∧
    (ascaccSrc issA ⟨t0, ⟨accu 1, accu 2, tile 10, tile 11⟩, ⟨0, 0, false, 63, 63, 126, 126⟩⟩).isSome = true ∧
    (ascaccSrc issA ⟨t0, ⟨accu 1, tile 5, tile 10, tile 11⟩, ⟨0, 0, false, 63, 63, 126, 126⟩⟩).isSome = true ∧
    (issA.tileOp 2 (tile 10) [.r] [.fp32] .fp32).any (fun t => t.fits 126 1 64) = true ∧
    (issA.tileOp 3 (tile 11) [.r] [.fp32] .fp32).any (fun t => t.fits 126 1 64) = true ∧
    fmtIn 1 [.fp32, .bf16, .fp16, .k8, .k8w] = some .bf16 ∧ fmtIn 5 [.int32, .int16, .uint8, .ix8, .ix4] = some .int32 ∧
    (issA.tileOp 1 (tile 1) [.r] [.bf16] .bf16).any (fun t => t.fits 64 64 64) = true ∧
    (issA.tileOp 2 ⟨.c, .tile 8⟩ [.r, .c] [.int32] .int32).any (fun t => t.dir == .c && decide (64 + 64 ≤ 128)) = true ∧
    (issA.tileOp 2 (tile 8) [.r, .c] [.int32] .int32).any (fun t => t.dir != .c && t.fits 126 1 64) = true ∧
    issA.rm 7 true = some .rne ∧ (issA.tileOp 0 (tile 2) [.r] [.bf16] .bf16).any (fun t => t.fits 64 64 64) = true := by decide +kernel

/-! ### Vector words -/

def vst : State := engState .v tiles [] []
def issV : Issue := engIssue vst 0 .v (vst.core 0)
theorem vst_issues (p : Fin 8) : Issues vst 0 .v ⟨0, p⟩ (vst.core 0) := ⟨rfl, by simp [Core.consume, tokAgents]⟩

/-- Operands in directions R, C and D that fit a word of 64 vectors of 64 lanes, under a mask. -/
theorem witness_VectorFloats : Issues vst 0 .v ⟨0, 1⟩ (vst.core 0) ∧ fmtIn 1 [.fp32, .bf16, .fp16] = some .bf16 ∧ issV.rm 7 true = some .rne ∧
    (issV.vdst (tile 1) .bf16).any (fun o => (⟨64, 64, 0, 63, false, false⟩ : VCtx).fits o && vuse { rm := true, sat := true } ⟨1, 0, 7, true, true, 7, 0, 0, 63, 64, 0⟩ [o]) = true ∧
    (issV.vsrc 1 ⟨.c, .tile 2⟩ .bf16).any (fun o => (⟨64, 0, 0, 63, false, false⟩ : VCtx).fits o) = true ∧
    (issV.vsrc 3 ⟨.d, .tile 2⟩ .bf16).any (fun o => (⟨64, 64, 1023, 63, false, false⟩ : VCtx).fits o && vuse { rm := true, sat := true } ⟨1, 0, 7, false, false, 0, 0, 0, 63, 64, 1023⟩ [o]) = true ∧
    vuse { rm := true, sat := true, e := true } ⟨1, 0, 7, false, false, 0, 0, 31, 63, 64, 0⟩ [] = true ∧
    vuse { dfmt := true, rm := true, sat := true, e := true } ⟨1, 2, 7, false, false, 0, 0, 31, 63, 64, 0⟩ [] = true ∧
    vuse {} ⟨1, 0, 0, false, false, 0, 0, 0, 63, 64, 0⟩ [] = true := ⟨vst_issues 1, by decide +kernel⟩

theorem witness_VectorIntegersAndCompares : fmtIn 5 [.int32, .int16, .int8, .uint8] = some .int32 ∧
    (issV.vdst (tile 8) .int32).any (fun o => (⟨32, 0, 0, 127, false, false⟩ : VCtx).fits o) = true ∧
    vuse { own := true } ⟨5, 0, 0, false, false, 0, 0, 0, 127, 0, 95⟩ [] = true ∧ 64 ≤ 95 ∧ 95 - 64 < Fmt.width .int32 ∧
    (issV.vsrc 1 (tile 9) .int4).any (fun o => (⟨128, 0, 0, 127, true, false⟩ : VCtx).fits o) = true ∧
    vuse { mdst := true, own := true } ⟨1, 0, 0, false, true, 7, 7, 0, 0, 127, 7⟩ [] = true ∧
    vuse { mdst := true, e := true } ⟨1, 0, 0, false, true, 7, 7, 31, 0, 127, 0⟩ [] = true ∧
    vuse { e := true } ⟨5, 0, 0, false, false, 0, 0, 31, 127, 0, 0⟩ [] = true := by decide +kernel

/-- A vector word of core 0 over tiles in one shape. -/
theorem witness_VectorConversions : convOk .fp32 .bf16 = true ∧ (issV.vdst (tile 1) .bf16).isSome = true ∧ (issV.vsrc 1 (tile 5) .fp32).isSome = true ∧
    vuse { dfmt := true, rm := true, sat := true } ⟨0, 1, 7, false, false, 0, 0, 0, 127, 0, 0⟩ [] = true ∧
    vuse { dfmt := true, rm := true, sat := true, mask := .no } ⟨0, 1, 7, false, false, 0, 0, 0, 127, 0, 0⟩ [] = true ∧
    (Fmt.width .fp32 = 2 * Fmt.width .bf16) ∧ (issV.rowOp 0 (tile 1) .bf16).isSome = true ∧ convOk .bf16 .fp32 = true ∧
    (issV.rowOp 0 (tile 10) .fp32).any (fun o => o.tile == some 10) = true ∧ shapeOf (vst.core 0).tshape[(11 : Fin 48)] = some ⟨.fp32, 127, 31⟩ ∧
    (issV.rowOp 1 (tile 1) .bf16).any (fun o => o.tile != some 10 && o.tile != some 11) = true ∧
    (issV.rowOp 0 (tile 20) .fp32).any (fun o => packFits o 96 (32 * 32)) = true ∧
    (issV.rowOp 0 (tile 4) .bit1).any (fun o => (⟨64, 0, 0, 127, false, false⟩ : VCtx).fits o) = true ∧
    (issV.rowOp 2 (tile 3) .uint8).any (fun o => (⟨64, 0, 0, 127, false, false⟩ : VCtx).fits o && o.tile != some 1) = true ∧
    vuse { own := true, mask := .no } ⟨1, 0, 0, false, false, 0, 0, 0, 127, 0, 2⟩ [] = true ∧
    convOk .bf16 .int4 = true ∧ Fmt.width .int4 < 8 ∧ 8 ≤ Fmt.width .bf16 := by decide +kernel

theorem witness_VectorReductions : Fmt.ofCode 1 = some .bf16 ∧ Fmt.ofCode 0 = some .fp32 ∧ issV.rm 7 true = some .rne ∧
    (issV.rowOp 0 (tile 20) .fp32).any (fun o => packFits o 124 128) = true ∧ (issV.vsrc 1 (tile 1) .bf16).any (fun a => (⟨64, 0, 0, 127, false, false⟩ : VCtx).fits a) = true ∧
    vuse { dfmt := true, rm := true, sat := true } ⟨1, 0, 7, true, true, 7, 0, 0, 127, 0, 0⟩ [] = true ∧
    vuse { dfmt := true, rm := true, sat := true } ⟨1, 1, 7, true, true, 7, 0, 0, 127, 0, 0⟩ [] = true := by decide +kernel

theorem witness_VectorMoves : (issV.vdst (tile 1) .bf16).isSome = true ∧ (issV.vsrc 1 (tile 2) .bf16).isSome = true ∧
    (issV.vsrc 2 (tile 3) .uint8).any (fun o => (⟨64, 0, 0, 127, false, false⟩ : VCtx).fits o) = true ∧ vuse {} ⟨1, 0, 0, false, false, 0, 0, 0, 127, 0, 0⟩ [] = true ∧
    vuse { e := true } ⟨1, 0, 0, false, false, 0, 0, 31, 127, 0, 0⟩ [] = true ∧ ((vst.core 0).e[(31 : Fin 32)]).toNat % 128 < 1024 / max 8 16 ∧
    vuse { own := true } ⟨1, 0, 0, false, false, 0, 0, 0, 127, 0, 63⟩ [] = true ∧ 63 < 1024 / Fmt.width .bf16 ∧
    vuse { mask := .req } ⟨1, 0, 0, false, true, 7, 0, 0, 127, 0, 0⟩ [] = true ∧ vuse { mask := .no } ⟨1, 0, 0, false, false, 0, 0, 0, 1, 96, 0⟩ [] = true ∧
    32 * (1 + 1) ≤ 1024 / Fmt.width .bf16 ∧ 96 + 31 ≤ 127 ∧ (issV.rowOp 0 (tile 1) .bf16).isSome = true ∧
    vuse { e := true, own := true, mask := .no } ⟨1, 0, 0, false, false, 0, 0, 31, 0, 127, 63⟩ [] = true := by decide +kernel

theorem witness_VectorMasksKeysHistograms : vuse { mdst := true, own := true, mask := .req } ⟨0, 0, 0, false, true, 7, 7, 0, 0, 0, 127⟩ [] = true ∧
    vuse { e := true, mask := .req } ⟨0, 0, 0, false, true, 7, 0, 31, 0, 0, 0⟩ [] = true ∧
    vuse { e := true, mdst := true, mask := .req } ⟨0, 0, 0, false, true, 7, 7, 31, 0, 0, 0⟩ [] = true ∧
    ((vst.core 0).m[(7 : Fin 8)]).getLsbD 0 = true ∧ ({ vst.core 0 with m := Vector.replicate 8 0 } : Core).m[(7 : Fin 8)] = 0 ∧
    fmtIn 8 [.uint8, .int16, .int32] = some .uint8 ∧ fmtIn 5 [.int32] = some .int32 ∧ (issV.vdst (tile 8) .int32).isSome = true ∧
    (issV.vsrc 1 (tile 3) .uint8).any (fun o => (⟨32, 0, 0, 127, false, false⟩ : VCtx).fits o) = true ∧
    vuse { dfmt := true, own := true } ⟨8, 5, 0, false, false, 0, 0, 0, 127, 0, 63⟩ [] = true ∧ 63 / 2 % 2 = 1 ∧ 39 / 4 % 16 + 1 ≤ 10 ∧
    vuse { dfmt := true, own := true } ⟨8, 0, 0, false, false, 0, 0, 0, 127, 0, 127⟩ [] = true ∧
    (issV.rowOp 0 (tile 20) .fp32).any (fun o => packFits o 124 128) = true ∧ (issV.vsrc 2 (tile 10) .fp32).isSome = true := by decide +kernel

end Sys2Proof.Tests
end

