-- ==== Sys2Proof/Tests/Events.lean ====
section
/-! SUPPORT. Witnesses for the statements about copy words, about events and about steps. -/

set_option Elab.async false

namespace Sys2Proof.Tests

open Sys2Proof Sys2Proof.Machine Sys2Proof.Safety


/-! ### Copy words -/

/-- Engine C of core 0 over the leased page of virtState: e4 = 0x20000, e5 = 0x100, e6 = 4, e7 = 0x20400; tiles as above; words in
flight. -/
def cps (fl : List Flight) : State :=
  let s := withE 4 0x20000 (withE 5 0x100 (withE 6 4 (withE 7 0x20400 virtState)))
  let c := s.core 0
  { s.setCore 0 { c with
      tshape := tiles.foldl (fun v p => v.set p.1 p.2) c.tshape
      c := { c.c with flight := fl } } with
    cur := .engine 0 .c }
def issC : Issue := engIssue (cps []) 0 .c ((cps []).core 0)
theorem cps_issues (fl : List Flight) (p : Fin 8) : Issues (cps fl) 0 .c ⟨0, p⟩ ((cps fl).core 0) := ⟨rfl, by simp [Core.consume, tokAgents]⟩
theorem noHazard_none {s : State} (e : (s.eng 0 .c).flight = []) (rd wr : List Nat) (re we : List (Fin 32)) : NoHazard s 0 rd wr re we := by
  intro f h
  rw [e] at h
  cases h
theorem noHazard_empty (rd wr : List Nat) (re we : List (Fin 32)) : NoHazard (cps []) 0 rd wr re we := noHazard_none (by rfl) rd wr re we

/-- A request of class 3. -/
def request (k : ReqKind) : Req := ⟨3, k, none, [], [], 0⟩
/-- A word in flight that writes t10. -/
def flightTo10 : Flight :=
  { Flight.plain 0 0 with wr := [10], reqs := [request (.read 0x20000 8 false (.row 10 127 2 .fp32 .fp32 .rne false ⟨false, false⟩))] }

/-- Operands and addresses of a CLD of 128 rows, of the largest extents in the leased page; of the others likewise; a hazard; a
misaligned base and pitch; indices in bounds and not. -/
theorem witness_CopyWordsIssue : Issues (cps []) 0 .c ⟨0, 7⟩ ((cps []).core 0) ∧ NoHazard (cps []) 0 [] [10] [4, 5] [] ∧
    ¬ NoHazard (cps [flightTo10]) 0 [] [10] [4, 5] [] ∧ Issues (cps [flightTo10]) 0 .c ⟨0, 7⟩ ((cps [flightTo10]).core 0) ∧
    fmtIn 1 allFmts = some .bf16 ∧ fmtIn 0 allFmts = some .fp32 ∧ issC.copyRm .bf16 .fp32 = some .rne ∧ convOk .bf16 .fp32 = true ∧
    (issC.cdst (tile 10) .fp32).isSome = true ∧ (issC.rowOp 1 (tile 10) .fp32).isSome = true ∧
    ((issC.c.e[(4 : Fin 32)]).toNat % elemBytes .bf16 = 0 ∧ (issC.c.e[(5 : Fin 32)]).toNat % elemBytes .bf16 = 0) ∧
    (((withE 4 1 (cps [])).core 0).e[(4 : Fin 32)]).toNat % elemBytes .bf16 ≠ 0 ∧ (((withE 5 1 (cps [])).core 0).e[(5 : Fin 32)]).toNat % elemBytes .bf16 ≠ 0 ∧
    MayAccess (cps []) 0 false ((List.range 128).map fun r => ((0x20000 : W64) + BitVec.ofNat 64 r * 0x100, rowLen .bf16 32)) ∧
    MayAccess (cps []) 0 true [((0x20400 : W64), rowLen .fp32 4)] ∧
    (issC.tileOp 1 (tile 8) [.r] [.int32, .int16, .int8, .uint8] .int32).any (fun ix => (indexVals issC ix 4).isSome) = true := by
  refine ⟨cps_issues _ _, noHazard_empty _ _ _ _, fun h => ?_, cps_issues _ _, by decide +kernel, by decide +kernel, by decide +kernel,
    by decide +kernel, by decide +kernel, by decide +kernel, by decide +kernel, by decide +kernel, by decide +kernel, ?_, ?_, by decide +kernel⟩
  · rcases h flightTo10 (List.mem_singleton.mpr rfl) with h | ⟨_, _, _, h, _⟩
    · exact absurd h (by decide +kernel)
    · exact absurd (by decide) (h 10 (by decide)).1
  · unfold MayAccess; decide +kernel
  · unfold MayAccess; decide +kernel

/-- A request of a word in flight: it stands first in its class, or behind another of its class. -/
def reqState (l : List ReqKind) (poison : List Nat) : State :=
  let s := cps [{ Flight.plain 0x42 0 with wr := [10], reqs := l.map request }]
  s.setMem { s.mem with poison := poison }
def rowReq (zp : Bool) : ReqKind := .read 0x20000 8 zp (.row 10 127 2 .fp32 .fp32 .rne false ⟨false, false⟩)

theorem engine_here (l : List ReqKind) (p : List Nat) (n : Need) (h : n = .read ∨ n = .write) :
    EngineAt (reqState l p) 0 0x20000 8 n 0x20000 (reqState l p) := by
  rcases h with rfl | rfl <;> rfl

theorem witness_CopyRequests : (∃ a, (copyReqs ((reqState [rowReq false, rowReq false] []).eng 0 .c))[1]? = some a ∧
      reqBlocked (reqState [rowReq false, rowReq false] []) 0 a = true) ∧ ((reqState [] []).core 0).fault = none ∧
    (∃ a, Performs (reqState [rowReq false] []) 0 0 a (rowReq false)) ∧ EngineAt (reqState [rowReq false] []) 0 0x20000 8 .read 0x20000 (reqState [rowReq false] []) ∧
    (reqState [rowReq false] []).mem.poisonedAt 0x20000 8 = none ∧ (reqState [rowReq true] [0x800]).mem.poisonedAt 0x20000 8 = some 0x800 ∧
    (∃ a, Performs (reqState [rowReq true] [0x800]) 0 0 a (rowReq true)) ∧
    (∃ a, Performs (reqState [.read 0x20000 8 false (.xfer (.trans 0x20008 16 2 2))] []) 0 0 a (.read 0x20000 8 false (.xfer (.trans 0x20008 16 2 2)))) ∧
    (runXfer (.trans 0x20008 16 2 2) (List.replicate 8 1) []).dst = 0x20008 ∧
    (∃ a, Performs (reqState [.write 0x20000 [1, 2, 3, 4, 5, 6, 7, 8] []] []) 0 0 a (.write 0x20000 [1, 2, 3, 4, 5, 6, 7, 8] [])) ∧
    EngineAt (reqState [.write 0x20000 [1, 2, 3, 4, 5, 6, 7, 8] []] []) 0 0x20000 ([1, 2, 3, 4, 5, 6, 7, 8] : List Byte).length .write 0x20000
      (reqState [.write 0x20000 [1, 2, 3, 4, 5, 6, 7, 8] []] []) ∧
    (∃ t, (reqState [] []).portAt 0 0x40000 8 .write = .trap t) ∧
    (∃ a, Performs (reqState [.write 0x40000 [1] []] []) 0 0 a (.write 0x40000 [1] [])) ∧
    (let s := reqState [] []
     let y := s.eng 0 .a
     ((s.setEng 0 .a { y with flight := [{ Flight.plain 0 0 with reqs := [request (.write 0x20000 [1] [])] }] }).eng 0 .a).flight.find?
       (fun f => !f.reqs.isEmpty) = some { Flight.plain 0 0 with reqs := [request (.write 0x20000 [1] [])] }) :=
  ⟨⟨_, rfl, by decide +kernel⟩, by decide +kernel, ⟨_, by decide +kernel, rfl, by decide +kernel, rfl⟩, engine_here _ _ _ (.inl rfl),
    by decide +kernel, by decide +kernel, ⟨_, by decide +kernel, rfl, by decide +kernel, rfl⟩, ⟨_, by decide +kernel, rfl, by decide +kernel, rfl⟩,
    by decide +kernel, ⟨_, by decide +kernel, rfl, by decide +kernel, rfl⟩, engine_here _ _ _ (.inr rfl), ⟨_, rfl⟩,
    ⟨_, by decide +kernel, rfl, by decide +kernel, rfl⟩, by decide +kernel⟩

/-- Quad 0 with bank 0 a scratchpad bank, and at 0x20000 a window descriptor: rows of 16 bytes 64 apart from 0x20100, 3 rows, 2 slots
of 16 bytes from offset 0. -/
def winState (loaded : Bool) : State :=
  let s := cps []
  let s1 := s.setQuad 0 { s.quad 0 with mode := 1 }
  let s2 := withE 5 16 (s1.setMem ((((s1.mem.setNum 0x20000 8 0x20100).setNum 0x20008 8 64).setNum 0x20010 8 3).setNum 0x20018 8 0x420000000))
  let c := s2.core 0
  s2.setCore 0 { c with windows := if loaded then c.windows.set 7 ⟨true, 0x20100, 64, 3, 0, 4, 1, 0, 16, 0, 2⟩ else c.windows }

theorem witness_ScratchpadWindows : Issues (winState false) 0 .c ⟨0, 0⟩ ((winState false).core 0) ∧
    NoHazard (winState false) 0 [] [] [4, 5] [] ∧ windowBusy ((winState false).core 0) 7 = false ∧
    (∃ ds bs, (winState false).portAt 0 0x20000 32 .read = .ok (.bytes ds) (winState false) ∧ firstPoison (winState false).mem ds = none ∧
      gatherPieces (winState false).mem [] ds 0 = some bs ∧ leNum (bs.drop 24) = 0x420000000 ∧
      windowOk ((winState false).quad 0) bs ⟨true, 0x20100, 64, 3, 0, 4, 1, 0, 16, 0, 0⟩ = true) ∧ ((winState false).eng 0 .c).got = [] ∧
    (∀ r, r < 3 → (winState false).issueCheck 0 ((0x20100 : W64) + BitVec.ofNat 64 r * 64) 16 false = none) ∧
    ((winState true).core 0).windows[(7 : Fin 8)].loaded = true ∧ ((winState false).core 0).windows[(7 : Fin 8)].loaded = false ∧
    0 + 1 ≤ 2 ^ ((winState true).core 0).windows[(7 : Fin 8)].log2n ∧ 2 ^ ((winState true).core 0).windows[(7 : Fin 8)].log2n < 127 + 1 ∧
    -- a granule of a slot that is to land
    (let s := winState true
     let y := s.eng 0 .c
     let t := s.setEng 0 .c { y with flight := [{ Flight.plain 0 0 with reqs := [request (.read 0x20100 16 false (.window 7 0 0 [] false))] }] }
     ((openGranules (t.eng 0 .c))[0]?.any fun p => p.2 == 0 && !reqBlocked t 0 p.1 && p.1.req == request (.read 0x20100 16 false (.window 7 0 0 [] false))) = true) :=
  ⟨⟨rfl, by simp [Core.consume, tokAgents]⟩, noHazard_none (by rfl) _ _ _ _, by decide +kernel,
    ⟨_, _, rfl, by decide +kernel, rfl, by decide +kernel⟩, by decide +kernel⟩

/-! ### Streams, prefetch, metadata and codecs -/

/-- The copy engine of core 0 with pairs of source and length in e4, e5, and of destination and capacity in e6, e7; e8 = 128. -/
def strState : State := withE 5 32 (withE 7 64 (withE 8 128 (withE 6 0x20400 (cps []))))
def issStr : Issue := engIssue strState 0 .c (strState.core 0)

theorem witness_StreamCacheAndMetadataWords : Issues strState 0 .c ⟨0, 7⟩ (strState.core 0) ∧
    (∀ rd wr re we, NoHazard strState 0 rd wr re we) ∧ ePair (strState.core 0) 4 = some (0x20000, 32) ∧
    ePair (strState.core 0) 6 = some (0x20400, 64) ∧ ePair (strState.core 0) 30 = some (0, 0) ∧ MayAccess strState 0 false [(0x20000, 32)] ∧
    (∃ x n, xformOf issStr.env 0 .bf16 .fp32 32 0 0x20400 (Rm.ofCode (fcsrRm (strState.core 0).fcsr)) = some (x, n) ∧ n = 64 ∧
      MayAccess strState 0 true [(0x20400, n)]) ∧
    ((strState.core 0).e[(4 : Fin 32)]).toNat % 128 = 0 ∧ (((withE 4 64 strState).core 0).e[(4 : Fin 32)]).toNat % 128 ≠ 0 ∧
    leaseRange (strState.core 0) 0 0x20000 128 = none ∧ leaseRange (strState.core 0) 0 0x20000 0 = none ∧
    -- metadata: of the last row's sectors, read and written
    (∃ o, issStr.cdst (tile 8) .int32 = some o ∧ o.tile = some 8 ∧ 127 + issStr.rowoff ≤ 127) ∧
    (∃ o, issStr.rowOp 1 (tile 8) .int32 = some o ∧ o.tile = some 8) ∧ 16 ≠ 0 ∧ 16 ≤ 16 * (128 - 127) ∧
    (∃ va, spaceOf 0 0x20000 = some (.virt va)) ∧ MayAccess strState 0 false [(0x20000, 64 * 16)] ∧ MayAccess strState 0 true [(0x20000, 64 * 16)] ∧
    -- their requests
    (∃ a, Performs (reqState [.metaRead 0x20000 16 10 127 127 31 false] []) 0 0 a (.metaRead 0x20000 16 10 127 127 31 false)) ∧
    EngineAt (reqState [.metaRead 0x20000 16 10 127 127 31 false] []) 0 0x20000 (64 * 16) .read 0x20000
      (reqState [.metaRead 0x20000 16 10 127 127 31 false] []) ∧
    (∀ p ∈ (List.range 16).map fun j => 0x20000 / 64 + j, kmem (reqState [.metaRead 0x20000 16 10 127 127 31 false] []).mem.poison p = false) ∧
    (∃ a, Performs (reqState [.metaWrite 0x20000 [1, 2]] []) 0 0 a (.metaWrite 0x20000 [1, 2])) ∧
    EngineAt (reqState [.metaWrite 0x20000 [1, 2]] []) 0 0x20000 (64 * 2) .write 0x20000 (reqState [.metaWrite 0x20000 [1, 2]] []) ∧
    (∃ a, Performs (reqState [.flush 0x20000 128 true] []) 0 0 a (.flush 0x20000 128 true)) ∧
    (∃ ds, (reqState [.flush 0x20000 128 true] []).virtual 0 0x20000 128 .none = .ok (ds, reqState [.flush 0x20000 128 true] [])) :=
  ⟨⟨rfl, by simp [Core.consume, tokAgents]⟩, noHazard_none (by rfl), by decide +kernel, by decide +kernel, by decide +kernel,
    by unfold MayAccess; decide +kernel, ⟨_, _, rfl, by decide +kernel, by unfold MayAccess; decide +kernel⟩, by decide +kernel,
    by decide +kernel, by decide +kernel, by decide +kernel, ⟨_, rfl, rfl, by decide +kernel⟩, ⟨_, rfl, rfl⟩, by decide, by decide,
    ⟨_, rfl⟩, by unfold MayAccess; decide +kernel, by unfold MayAccess; decide +kernel, ⟨_, rfl, rfl, by rfl, rfl⟩, by rfl,
    by decide +kernel, ⟨_, rfl, rfl, by rfl, rfl⟩, by rfl, ⟨_, rfl, rfl, by rfl, rfl⟩, ⟨_, by rfl⟩⟩

theorem witness_CodecRoundTrip : ∃ c d : List Byte, (c.length % 16 = 0 ∧ 16 ≤ c.length ∧ c.length ≤ 65536) ∧
    (d.length % 16 = 0 ∧ 16 ≤ d.length ∧ d.length ≤ 65536 ∧ d.length = 65536) :=
  ⟨List.replicate 16 0, List.replicate 65536 0, by simp only [List.length_replicate]; decide, by simp only [List.length_replicate]; decide⟩

/-! ### Firn -/

/-- The tables of PASID 0, whose entry stands at 0: the page from 0x20000 is translated to itself in a region of grade P, with the right to
write or without; no other page is. -/
def pageTables (w : Bool) (m : MemSide) : MemSide :=
  (((((({ m with grades := [(0, 0)] } : MemSide).setNum 0 8 0x8001).setNum 0x8000 8 0x10001).setNum 0x10000 8 0x14001).setNum 0x14000 8 0x14801).setNum
    0x14800 8 0x15001).setNum 0x15010 8 (if w then 0x2003B else 0x2002B)
def firnDesc (resv : Nat) : StageDesc :=
  { (default : StageDesc) with num := 7, resv := resv, kpool := 0x20000, klen := 192, spool := 0x21000, slen := 192 }
/-- Core 0 runs a step of stage 7, tag 5, of instance 3, whose copy engine issues; slots as given; a tag may hold `resv` bytes; the pools
hold 192 bytes each. -/
def firnState (resv : Nat) (slots : List Slot) : State :=
  let s := cps []
  let s1 := s.setCore 0 { s.core 0 with inst := some 3, disp := { (s.core 0).disp with tag := 5, stage := 7, ctxid := 3 } }
  { s1 with mem := pageTables true s1.mem, cmd := { s1.cmd with pasidsz := 1, insts := [{ (default : Inst) with ctxid := 3, stage := some (7, 0) }] },
            stages := { s1.stages with list := [{ (default : Stage) with key := 7, desc := firnDesc resv }], slots := slots } }
def firnRow : List Byte := (List.range 128).map (BitVec.ofNat 8)
/-- Slot 15 of the step, with `firnRow` in a pool, or on its way to one. -/
def slotIn (st : SlotState) : Slot :=
  { (default : Slot) with stage := 7, tag := 5, slot := 15, state := st, held := ⟨[firnRow], [(0, 192)], [(0, 192)], []⟩, newRows := [firnRow] }
def issFirn : Issue := engIssue (firnState 0 []) 0 .c ((firnState 0 []).core 0)

/-- The state in which CUNST of slot 15 into the last row of t10 waits for its answer. -/
def unstState (slots : List Slot) : State :=
  let s := firnState 0 slots
  s.setCore 0 { s.core 0 with c := { (s.core 0).c with flight := [{ Flight.plain 0x42 0 with wr := [10], we := [8], reqs := [request (.unstash 15 10 127 1 false 8)] }] } }

/-- What reading a slot back comes to: its rows and its poisoned rows; none where that faults. -/
def readBack (s : State) (x : Slot) : Option (List (List Byte) × List (Nat × Nat)) := match s.readSlot x with
  | .ok (rows, bad, _) => some (rows, bad)
  | .error _ => none
theorem readBack_of {s : State} {x : Slot} {rows : List (List Byte)} {bad : List (Nat × Nat)} (h : readBack s x = some (rows, bad)) :
    ∃ u, s.readSlot x = .ok (rows, bad, u) := by
  unfold readBack at h
  split at h
  · rename_i e; cases h; exact ⟨_, e⟩
  · cases h
theorem readBack_error {s : State} {x : Slot} (h : readBack s x = none) : ∃ tr, s.readSlot x = .error tr := by
  unfold readBack at h
  split at h
  · cases h
  · rename_i e; exact ⟨_, e⟩
def reaches (s : State) (base : Nat) (runs : List (Nat × Nat)) : Bool := match s.poolDests 0 base runs with
  | .ok _ => true
  | .error _ => false
theorem storeRows_of {s : State} {base : Nat} {runs : List (Nat × Nat)} (rows : List (List Byte)) (bad : List Nat) (h : reaches s base runs = true) :
    ∃ v, s.storeRows 0 base runs rows bad = .ok v := by
  unfold reaches at h
  unfold State.storeRows
  split at h
  · rename_i e; rw [e]; exact ⟨_, rfl⟩
  · cases h
/-- The same with a keep pool of 32 bytes, which is what a row of zeros holds, and a slot of the step whose row of zeros is on its way to it. -/
def zeroRow : List Byte := List.replicate 128 0
def slotZero : Slot := { slotIn .writing with newRows := [zeroRow], held := .none }
def firnSmall : State :=
  let s := firnState 0 [slotZero]
  { s with stages := { s.stages with list := [{ (default : Stage) with key := 7, desc := { firnDesc 0 with klen := 32 } }] } }
/-- Whatever run of the pool is taken, it is reached. -/
theorem firn_reaches_low : ∀ p, p < 17 → reaches { firnSmall with freeCtr := 1 } 0x20000 (takeRuns 32 (runsFrom p [(0, 32)])) = true := by
  decide +kernel
theorem firn_reaches_high : ∀ p, p < 16 → reaches { firnSmall with freeCtr := 1 } 0x20000 (takeRuns 32 (runsFrom (17 + p) [(0, 32)])) = true := by
  decide +kernel
theorem firn_reaches (p : Nat) (h : p < 33) : reaches { firnSmall with freeCtr := 1 } 0x20000 (takeRuns 32 (runsFrom p [(0, 32)])) = true := by
  by_cases l : p < 17
  · exact firn_reaches_low p l
  · have := firn_reaches_high (p - 17) (by omega)
    rwa [show 17 + (p - 17) = p by omega] at this
theorem firn_stores : ∃ h u, firnSmall.putRows [slotZero] (firnSmall.stages.list.headD default) false [zeroRow] [] = .ok (h, u) := by
  obtain ⟨v, e⟩ := storeRows_of [zeroRow] [] (firn_reaches (Config.freeBits 0 % 33) (Nat.mod_lt _ (by decide)))
  refine ⟨⟨[zeroRow], takeRuns 32 (runsFrom (Config.freeBits 0 % 33) [(0, 32)]), [], []⟩, v, ?_⟩
  have n : storedSize [zeroRow] = 32 := by decide +kernel
  show (match State.storeRows { firnSmall with freeCtr := 1 } 0 0x20000 (takeRuns (storedSize [zeroRow]) (runsFrom (Config.freeBits 0 % 33) [(0, 32)])) [zeroRow] [] with
    | .error t => Except.error t
    | .ok s1 => Except.ok ((⟨[zeroRow], takeRuns (storedSize [zeroRow]) (runsFrom (Config.freeBits 0 % 33) [(0, 32)]), [], []⟩ : Held), s1)) = _
  rw [n, e]

theorem witness_FirnWords : (∀ r l, ∃ st, (firnState r l).stepStage 0 = some st ∧ st.desc.resv = r) ∧
    (∀ r l, Issues (firnState r l) 0 .c ⟨0, 7⟩ ((firnState r l).core 0) ∧ (firnState r l).cur = .engine 0 .c) ∧
    issFirn.opnd 1 (tile 10) = .ok ⟨.r, .tile 10⟩ ∧ issFirn.opnd 1 ⟨.r, .tz⟩ = .ok ⟨.r, .tz⟩ ∧ issFirn.opnd 0 (tile 10) = .ok ⟨.r, .tile 10⟩ ∧
    127 + issFirn.rowoff + 1 ≤ 128 ∧ (∀ r l rd wr re we, NoHazard (firnState r l) 0 rd wr re we) ∧
    (∀ r l, unstashing ((firnState r l).core 0) 15 = false) ∧
    -- the reservation of a tag: passed by one byte, and reached
    191 < 0 + (128 * 1 + 64) ∧ ¬ 192 < 0 + (128 * 1 + 64) ∧
    (∃ x, (firnState 0 [slotIn .kept]).slotOf 0 15 = some x ∧ x.state ≠ .empty) ∧
    (∀ x, (firnState 0 [slotIn .empty]).slotOf 0 15 = some x → x.state = .empty) ∧
    -- Firn answers
    (∀ l, ∃ st, (unstState l).stepStage 0 = some st) ∧ (∀ l, ∃ a, Performs (unstState l) 0 0 a (.unstash 15 10 127 1 false 8)) ∧
    (∀ x, (unstState []).slotOf 0 15 = some x → x.state = .empty) ∧
    (∀ st, (unstState [slotIn st]).slotOf 0 15 = some (slotIn st) ∧ (slotIn st).state = st) ∧
    -- its rows come back whole; its row is poisoned; its pool is not there
    (∃ u, (unstState [slotIn .kept]).readSlot (slotIn .kept) = .ok ([List.replicate 128 0], [], u)) ∧
    (∃ rows u, (let s := unstState [slotIn .spilled]; s.setMem { s.mem with poison := [0x841] }).readSlot (slotIn .spilled) = .ok (rows, [(0, 0x841)], u)) ∧
    (∃ tr, ((unstState [slotIn .kept]).setMem State.reset.mem).readSlot (slotIn .kept) = .error tr) ∧
    -- Firn stores and fills
    (firnState 0 [slotIn .writing, slotIn .filling]).stages.slots[0]? = some (slotIn .writing) ∧
    (firnState 0 [slotIn .writing, slotIn .filling]).stages.slots[1]? = some (slotIn .filling) ∧
    (∃ g, (firnState 0 []).stageOf 7 = some g) ∧
    (firnSmall.stages.slots[0]? = some slotZero ∧ ∃ g, firnSmall.stageOf 7 = some g ∧
      ∃ h u, firnSmall.putRows firnSmall.stages.slots g false slotZero.newRows [] = .ok (h, u)) ∧
    (∃ u, (firnState 0 [slotIn .filling]).readSlot (slotIn .filling) = .ok ([List.replicate 128 0], [], u)) ∧
    (∃ v, (firnState 0 [slotIn .filling]).storeRows 0 0x20000 (slotIn .filling).held.keep [List.replicate 128 0] [] = .ok v) :=
  ⟨fun _ _ => ⟨_, rfl, rfl⟩, fun _ _ => ⟨⟨rfl, by simp [Core.consume, tokAgents]⟩, rfl⟩, by rfl, by rfl, by rfl, by decide +kernel,
    fun _ _ => noHazard_none (by rfl), fun _ _ => rfl, by decide, by decide, ⟨_, rfl, by decide⟩, (by intro x h; cases h; rfl), fun _ => ⟨_, rfl⟩,
    fun _ => ⟨_, rfl, rfl, by rfl, rfl⟩, (by intro x h; cases h), fun _ => ⟨by rfl, rfl⟩, readBack_of (by decide +kernel),
    ⟨_, readBack_of (show readBack _ _ = some ([List.replicate 128 0], [(0, 0x841)]) by decide +kernel)⟩, readBack_error (by decide +kernel), rfl, rfl,
    ⟨_, rfl⟩, ⟨rfl, _, rfl, firn_stores⟩, readBack_of (by decide +kernel), storeRows_of _ _ (by decide +kernel)⟩

/-! ### Words on the fabric -/

/-- A channel end: word 0 of R363 and what it holds. -/
def endState (w0 : W64) (st : EndState) (sseq aseq rdseq : W32) (msgs : List Msg) : ChEnd := { ChEnd.reset with w0 := w0, state := st, sseq := sseq, aseq := aseq, rdseq := rdseq, msgs := msgs }
/-- The copy engine of core 0 with end 31 as given; e8 = 1, e9 = 1 (elements of group 0), e4 = 0x20000, e6 = 4, e7 = 0x20400. -/
def chanState (x : ChEnd) : State :=
  let s := withE 8 1 (withE 9 1 (cps []))
  s.setChan 31 x
def issChan : Issue := engIssue (chanState default) 0 .c ((chanState default).core 0)
/-- A sending end with slots of 128 bytes, a window of one, and a receiving end with two messages, one of them read. -/
def sendEnd : ChEnd := endState 0xC000000000003800 .opened 0 0 0 []
def recvEnd : ChEnd := endState 0x8000000000003810 .opened 2 0 1 [⟨0, 5, 1, false, false, true, false⟩, ⟨1, 6, 1, false, false, false, false⟩]

theorem witness_FabricWords : (∀ x, Issues (chanState x) 0 .c ⟨0, 7⟩ ((chanState x).core 0)) ∧
    (∀ x rd wr re we, NoHazard (chanState x) 0 rd wr re we) ∧ issChan.opnd 1 (tile 10) = .ok ⟨.r, .tile 10⟩ ∧ issChan.opnd 1 ⟨.r, .tz⟩ = .ok ⟨.r, .tz⟩ ∧
    issChan.opnd 0 (tile 10) = .ok ⟨.r, .tile 10⟩ ∧ 127 + issChan.rowoff + 1 ≤ 128 ∧
    (let x := (chanState sendEnd).chan 31
     x.isSend = true ∧ x.state = .opened ∧ x.pasid = ((chanState sendEnd).core 0).pasid ∧ 128 * (0 + 1) ≤ x.slotBytes ∧ ¬ 128 * (1 + 1) ≤ x.slotBytes) ∧
    (let x := (chanState recvEnd).chan 31
     x.isSend = false ∧ x.state ≠ .idle ∧ x.pasid = ((chanState recvEnd).core 0).pasid ∧ (chanState recvEnd).boundStage 31 = none ∧
     (((chanState recvEnd).core 0).e[(8 : Fin 32)]).toNat % 128 = (x.rdseq - x.aseq).toNat) ∧
    ((chanState ChEnd.reset).chan 31).isSend = false ∧ ((chanState ChEnd.reset).chan 31).state ≠ .opened ∧ ((chanState ChEnd.reset).chan 31).state = .idle ∧
    -- batches
    fmtIn 5 [.int32, .fp32] = some .int32 ∧ batchOp (1 % 16) = some .add ∧ batchPair .int32 .add = true ∧
    (∃ o, issChan.rowOp 1 (tile 8) .int32 = some o ∧ o.sh.cols + 1 = 32) ∧
    (∃ ix xs, issChan.tileOp 2 (tile 8) [.r] [.int32, .int16, .int8, .uint8] .int32 = some ix ∧ indexVals issChan ix 64 = some xs ∧
      nth 0 xs 63 = 0) ∧ ((0x20000 : W64)).toNat % 4 = 0 ∧ ((4 : W64)).toNat % 4 = 0 ∧ ((0x20400 : W64)).toNat % 128 = 0 ∧
    MayAccess (chanState default) 0 true ((List.range 64).map fun _ => (0x20000, 4 * 32)) ∧
    MayAccess (chanState default) 0 true ((List.range 64).map fun r => (0x20400 + BitVec.ofNat 64 (128 * r), 4 * 32)) ∧
    -- collectives of a ring
    fmtIn 0 [.fp32, .bf16, .fp16, .int32] = some .fp32 ∧ ((1 : W64)).toNat = 1 + 0 * 2 ^ 32 ∧ ((0xF7FFFFFFF : W64)).toNat = (2 ^ 31 - 1) + 15 * 2 ^ 32 ∧
    ((0x20000 : W64)).toNat % elemBytes .fp32 = 0 ∧ MayAccess (chanState default) 0 false [(0x20000, rowLen .fp32 1)] ∧
    MayAccess (chanState default) 0 true [(0x20400, rowLen .fp32 1)] ∧ ((0x20000 : W64)).toNat % 64 = 0 ∧
    MayAccess (chanState default) 0 false [(0x20000, 64)] :=
  ⟨fun _ => ⟨rfl, by simp [Core.consume, tokAgents]⟩, fun _ => noHazard_none (by rfl), by rfl, by rfl, by rfl, by decide +kernel,
    by decide +kernel, by decide +kernel, by decide +kernel, by decide +kernel, by decide +kernel, by decide +kernel, by decide +kernel, by decide +kernel,
    ⟨_, rfl, by rfl⟩, ⟨_, _, rfl, rfl, by decide +kernel⟩, by decide, by decide, by decide, by unfold MayAccess; decide +kernel,
    by unfold MayAccess; decide +kernel, by decide +kernel, by decide, by decide, by decide, by unfold MayAccess; decide +kernel,
    by unfold MayAccess; decide +kernel, by decide, by unfold MayAccess; decide +kernel⟩

/-! ### Queues and nodes -/

/-- The package with PASID 0, whose entry stands at 0, and the page from 0x20000 translated to itself, in a region of grade P. -/
def sysState : State :=
  let s := State.reset
  { s with cmd := { s.cmd with pasidsz := 1 }, mem := pageTables true s.mem }
/-- Queue 4095: its ring at 0x21000, its block at 0x20000, its completions at 0x22000, each of 64 records; nodes. -/
def queueSt (x : Queue) (nodes : List Node) : State :=
  let s := sysState.setCmd { sysState.cmd with nodes := nodes }
  s.setQueue 4095 { x with qbase := 0x21000, qcb := 0x20000, cbase := 0x22000, qcfg := 0x600000000 }
def qOn : Queue := { Queue.reset with en := true }
/-- A node of queue 4095. -/
def nodeOf (idx kind : Nat) (p : NodePhase) : Node := { (default : Node) with q := 4095, idx := idx, cmd := { (default : Cmd) with kind := kind }, phase := p }
/-- Whether an access of the package under PASID 0 leads to the bytes at its own address. -/
def ownHere (s : State) (a n : Nat) (need : Need) : Bool :=
  match s.ownDests 0 a n need with
  | .ok ([(.here f false, m)], _) => f == a && m == n
  | _ => false
theorem translate_none_same (s : State) (p va : Nat) : (s.translate none p va).2 = s := by
  simp only [State.translate, Option.bind]
  split
  · rfl
  · split <;> rfl
theorem ownPiece_same {s u : State} {p va a : Nat} {need : Need} (h : s.ownPiece p va need = .ok (.here a false, u)) : u = s := by
  have e := translate_none_same s p va
  unfold State.ownPiece at h
  split at h
  · cases h
  · cases h
  · rename_i t
    rw [t] at e
    dsimp only at h e
    (repeat' split at h) <;> simp_all
theorem own_here (s : State) (a n : Nat) (need : Need) (h : ownHere s a n need = true) : OwnAt s 0 a n need a s := by
  unfold ownHere at h
  split at h
  · rename_i f m u e
    simp only [Bool.and_eq_true, beq_iff_eq] at h
    obtain ⟨rfl, rfl⟩ := h
    refine ⟨false, ?_⟩
    rw [e]
    unfold State.ownDests at e
    split at e
    · cases e
    · rename_i ds v e'
      split at e
      · cases e
      · cases e
        revert e'
        generalize pieces 0 (m / 65536 + 2) f m = l
        intro e'
        cases l with
        | nil => cases e'
        | cons x l =>
          obtain ⟨va, k⟩ := x
          unfold State.ownAll at e'
          split at e'
          · cases e'
          · rename_i d v1 p
            split at e'
            · cases e'
            · rename_i ds' v2 q
              cases e'
              cases ownPiece_same p
              cases l with
              | nil => cases q; rfl
              | cons y l =>
                obtain ⟨vb, kb⟩ := y
                unfold State.ownAll at q
                split at q
                · cases q
                · split at q <;> cases q
  · cases h
theorem own_of (s : State) (a n : Nat) (need : Need) (h : ownHere s a n need = true) : ∃ u, OwnAt s 0 a n need a u := ⟨s, own_here s a n need h⟩

/-- The record of a NOP with index 5, one named predecessor, 4, and BARRIER, in the ring. -/
def recordState : State :=
  let s := queueSt { qOn with head := 5, tail := 6, hist := [(3, 0)] } [nodeOf 4 0 .running, nodeOf 2 0 .running]
  s.setMem (((s.mem.setNum (0x21000 + 64 * 5) 4 0x01040000).setNum (0x21000 + 64 * 5 + 4) 4 5).setNum (0x21000 + 64 * 5 + 8) 4 4)
/-- Node 4 of queue 4095 with a command of a kind and payload; memory holds at 0x20000 what is given. -/
def cmdState (kind payload : Nat) (p : NodePhase) (bytes num : Nat) : State :=
  let s := queueSt qOn [{ nodeOf 4 kind p with cmd := { (default : Cmd) with kind := kind, payload := payload } }]
  s.setMem (s.mem.setNum 0x20000 bytes num)
/-- A task record of one range, 0x20000 to 0x2FFFF, written; the CP part has a kernel at 0x30000; two iterations; a gang of 128 cores. -/
def taskBytes : Nat := 0x30000 * 2 ^ (8 * 32) + 2 * 2 ^ (8 * 0x90) + 0xC000 * 2 ^ (8 * 0x96) + (2 ^ 63 + 2 ^ 41 + 2) * 2 ^ (8 * 0xC0)
/-- A descriptor of stage 7: FIRST and LAST, one gang of one core, one variant at 0x20100, one weight version, one tag. -/
def descBytes : Nat := 7 + 3 * 2 ^ 16 + 2 ^ 32 + 2 ^ 40 + 2 ^ 48 + 0xFF * 2 ^ 80 + 0xFF * 2 ^ 88 + 2 ^ 96 + 0xFFFF * 2 ^ (8 * 0x70 + 16) + 0x20100 * 2 ^ (8 * 0xD0)
/-- With its variant: one row, records at 0x20200. -/
def stageNodeState : State :=
  let s := cmdState 2 0x20000 .due 256 descBytes
  s.setMem (s.mem.setNum 0x20100 80 (0x20200 * 2 ^ 64 + 0x20200 * 2 ^ 128 + 2 ^ 256 + 2 ^ 575))
/-- Kicks of queues on and off; TAIL 64 ahead, and 65; a record entered; nodes that end well, NOCPL, and badly; a ring with room and full; a queue
to enable and one refused; a queue to disable; an entry of the MSI-X table with and without a message pending. -/
theorem witness_QueueStepsAndInterrupts : 4095 < 4096 ∧ ((queueSt qOn []).queue 4095).en = true ∧ ((queueSt qOn []).queue 4095).waiting = [] ∧
    ((queueSt .reset []).queue 4095).en = false ∧
    (let s := queueSt { qOn with reading := true } []
     let t := s.setMem (s.mem.setNum 0x20004 4 64)
     ((t.queue 4095).en = true ∧ (t.queue 4095).reading = true ∧ OwnAt t (t.queue 4095).pasid ((t.queue 4095).qcb.toNat + 4) 4 .read 0x20004 t ∧
      BitVec.ofNat 32 (leNum (t.mem.read 0x20004 4)) = 64) ∧ ((64 : W32) - 0).toNat ≤ (t.queue 4095).qsize ∧ ¬ ((65 : W32) - 0).toNat ≤ (t.queue 4095).qsize ∧
     (∃ e, (s.setMem (s.mem.setNum 0x15010 8 0)).ownDests 0 0x20004 4 .read = .error e)) ∧
    -- a record
    (let s := recordState
     let x := s.queue 4095
     let v := leNum (s.mem.read (0x21000 + 320) 64)
     x.en = true ∧ x.head ≠ x.tail ∧ x.waiting = [] ∧ (s.cmd.nodes.filter fun n => n.q == 4095).length < 4096 ∧ s.cmd.nodes.length < 65536 ∧
     OwnAt s x.pasid (x.qbase.toNat + 64 * (x.head.toNat % x.qsize)) 64 .read (0x21000 + 320) s ∧ bitsNat v 32 32 = x.head.toNat ∧
     bitsNat v 0 16 ≤ 6 ∧ bitsNat v 19 5 = 0 ∧ bitsNat v 24 8 = 1 ∧ bitsNat v 18 1 = 1 ∧ payloadOk 0 (bitsNat v 256 256) = true ∧
     (∀ i, i < 4 → 1 ≤ i → bitsNat v (64 + 32 * i) 32 = 0) ∧ 1 ≤ (x.head - BitVec.ofNat 32 (bitsNat v 64 32)).toNat ∧
     (x.head - BitVec.ofNat 32 (bitsNat v 64 32)).toNat ≤ 4096 ∧ bitsNat v 64 32 = 4 ∧ (∀ h ∈ x.hist, h.2 = 0) ∧
     OwnAt (s.setQueue 4095 { x with head := 6 }) x.pasid x.qcb.toNat 4 .write 0x20000 (s.setQueue 4095 { x with head := 6 })) ∧
    -- nodes that end
    (∀ e, ((queueSt qOn [nodeOf 4 0 (.ended e)]).node? 4095 4).map (·.phase) = some (.ended e)) ∧
    (let n := { nodeOf 4 0 (.ended ⟨0, 0, 0, 0⟩) with cmd := { (default : Cmd) with nocpl := true } }
     (queueSt qOn [n]).node? 4095 4 = some n ∧ n.cmd.nocpl = true) ∧
    (∀ h : W32, h = 0 ∨ h = 0xFFFFFFC0 →
      let n := nodeOf 4 1 (.ended ⟨2, 7, 0, 0⟩)
      let s := queueSt qOn [n]
      let t := s.setMem (s.mem.setNum 0x20008 4 h.toNat)
      t.node? 4095 4 = some n ∧ n.idx < 2 ^ 32 ∧ n.orphan = false ∧ n.leased = false ∧ (∀ y ∈ t.cmd.nodes, n.idx ∉ y.preds) ∧
      t.cmd.reservations = [] ∧ t.stages.list = [] ∧ (t.queue 4095).waiting = [] ∧ OwnAt t 0 0x20008 4 .read 0x20008 t ∧
      ((0 : W32) - BitVec.ofNat 32 (leNum (t.mem.read 0x20008 4)) = if h = 0 then 0 else 64) ∧ (t.queue 4095).csize = 64 ∧
      OwnAt t 0 0x22000 64 .write 0x22000 t ∧ OwnAt t 0 0x2000C 4 .write 0x2000C t) ∧
    ((queueSt { qOn with waiting := [⟨4, 1, 2, 3, 4, 5, 6, 7, 8, 9, true⟩] } []).queue 4095).waiting = [⟨4, 1, 2, 3, 4, 5, 6, 7, 8, 9, true⟩] ∧
    -- enabling
    (let s := queueSt .reset []
     let x := s.queue 4095
     x.en = false ∧ s.mgmt.hostLoad = false ∧ s.cmd.nodes = [] ∧ s.cmd.insts = [] ∧ s.stages.list = [] ∧ s.fab.colls = [] ∧
     ¬ (10 < bitsNat x.qcfg.toNat 40 4 ∨ 10 < bitsNat x.qcfg.toNat 36 4 ∨ s.pasidEntry x.pasid = none ∨ x.qbase.toNat % 4096 ≠ 0 ∨
       x.qcb.toNat % 64 ≠ 0 ∨ x.cbase.toNat % 4096 ≠ 0) ∧ 10 < bitsNat (0xB0000000000 : W64).toNat 40 4 ∧
     OwnAt s x.pasid x.qcb.toNat 4 .write 0x20000 s ∧ OwnAt s x.pasid (x.qcb.toNat + 12) 4 .write 0x2000C s) ∧
    ((queueSt qOn [nodeOf 4 0 .running]).queue 4095).en = true ∧ (nodeOf 4 0 .running).phase.dispatched = true ∧
    2047 < 2048 ∧ 2047 ∉ State.reset.cmd.pba ∧ 2047 ∈ (State.reset.setCmd { State.reset.cmd with pba := [2047] }).cmd.pba := by
  have own {s : State} {a n : Nat} {need : Need} (h : ownHere s a n need = true) : OwnAt s 0 a n need a s := own_here _ _ _ _ h
  refine ⟨by decide, by decide +kernel, by decide +kernel, by decide +kernel, ⟨?_, by decide +kernel, by decide +kernel, ⟨_, by rfl⟩⟩, ?_,
    fun e => by rfl, ⟨by decide +kernel, rfl⟩, fun h hh => ?_, by decide +kernel, ?_, by decide +kernel⟩
  all_goals try rcases hh with rfl | rfl
  all_goals and_intros
  all_goals first
    | decide +kernel
    | exact own (by decide +kernel)

/-- Whether a run of a node's work has ended well. -/
def ran {ε : Type} (o : Except ε (Bool × State)) : Bool := match o with
  | .ok (b, _) => b
  | .error _ => false
theorem ran_of {ε : Type} {o : Except ε (Bool × State)} (h : ran o = true) : ∃ w, o = .ok (true, w) := by
  unfold ran at h
  split at h
  · rw [h]; exact ⟨_, rfl⟩
  · cases h
def isError {ε α : Type} (o : Except ε α) : Bool := match o with
  | .error _ => true
  | .ok _ => false
theorem error_of {ε α : Type} {o : Except ε α} (h : isError o = true) : ∃ t, o = .error t := by
  cases o with
  | error t => exact ⟨t, rfl⟩
  | ok _ => cases h

/-- An XFORM of eight BF16 elements at 0x20000 to FP32 at 0x20100. -/
def xformPayload : Nat := 0x20000 + 0x20100 * 2 ^ 64 + 16 * 2 ^ 128 + 2 ^ 168

theorem witness_NodeCommands : (∀ k p ph b n, (cmdState k p ph b n).node? 4095 4 =
      some { nodeOf 4 k ph with cmd := { (default : Cmd) with kind := k, payload := p } }) ∧
    (∀ n : Need, n = .read ∨ n = .both → OwnAt (cmdState 5 0x20000 .due 8 5) 0 0x20000 8 n 0x20000 (cmdState 5 0x20000 .due 8 5)) ∧
    (∃ e, (cmdState 5 0x90000 .due 8 5).ownDests 0 0x90000 8 .both = .error e) ∧
    bitsNat (0x20000 + 2 ^ 128) 128 8 = 1 ∧ (cmdState 6 (0x20000 + 2 ^ 160) (.polling 0) 8 5).time < 0 + bitsNat (0x20000 + 2 ^ 160) 160 32 * 1000 ∧
    -- a task record that is read, and one without a page; parts, kernel, flags and gang in turn are bad
    0x20000 % 256 = 0 ∧ 0x20001 % 256 ≠ 0 ∧
    (∃ u, OwnAt (cmdState 1 0x20000 .due 256 taskBytes) 0 0x20000 256 .read 0x20000 u) ∧
    (parseTask taskBytes none).isSome = true ∧ (parseTask (taskBytes + 1) none).isSome = false ∧
    bitsNat (taskBytes + 1) 0 64 % 4 ≠ 0 ∧ bitsNat (taskBytes + 2 ^ (8 * 0x88 + 3)) (8 * 8 * 17) 64 % 16 ≠ 0 ∧
    bitsNat taskBytes (8 * 0x90) 32 ≠ 0 ∧ bitsNat (taskBytes - 0x30000 * 2 ^ 256) (8 * 32) 64 = 0 ∧
    bitsNat (taskBytes + 2 ^ (8 * 0x94 + 3)) (8 * 0x94) 16 / 8 ≠ 0 ∧ 128 < gangSize 3 1 ∧ ¬ 128 < gangSize 3 0 ∧
    (0 % levelSize 3 = 0 ∧ 0 + gangSize 3 0 ≤ 128) ∧ (0x20 ≠ 0xFFFF ∧ 0x20 % levelSize 3 ≠ 0) ∧
    (let s := cmdState 1 0x2FF00 .due 8 5
     ∃ va, (s.setMem (s.mem.setNum 0x15010 8 0)).ownDests 0 0x2FF00 256 .read = .error (.missing va false)) ∧
    -- a stage
    (parseDesc 0).isSome = false ∧ (∃ u, OwnAt stageNodeState 0 0x20000 256 .read 0x20000 u) ∧
    (match parseDesc (leNum (stageNodeState.mem.read 0x20000 256)) with
      | some (d, gs, vars, l0) => (match stageNodeState.variants 0 d.first d.wdefer d.nver l0 vars with
        | .ok vs _ => vs.length == 1 && gs.length == 1 && gs.all fun g => placements g.core0 g.level g.count != []
        | _ => false)
      | none => false) = true ∧
    -- a transform
    (∃ a, xformArgs xformPayload = some a ∧ 0 < a.outLen ∧ bitsNat xformPayload 128 32 ≠ 0 ∧
      (∃ w, (cmdState 3 xformPayload .running 8 0).runXform (.node 4095 4) 0 [⟨0x20000, 16, false⟩, ⟨0x20100, 32, true⟩] a = .ok (true, w)) ∧
      ∃ x, (cmdState 3 xformPayload .running 8 0).runXform (.node 4095 4) 0 [] a = .error x) ∧
    (cmdState 3 xformPayload (.ready 0) 8 0).mgmt.pstate = .active ∧ (xformArgs (xformPayload + 1)).isSome = false := by
  refine ⟨fun _ _ _ _ _ => by rfl, fun n h => ?_, ⟨_, by rfl⟩, by decide, by decide +kernel, by decide, by decide, own_of _ _ _ _ (by decide +kernel),
    by decide +kernel, by decide +kernel, by decide +kernel, by decide +kernel, by decide +kernel, by decide +kernel, by decide +kernel, by decide, by decide,
    by decide, by decide, ⟨_, by rfl⟩, by decide +kernel, own_of _ _ _ _ (by decide +kernel), by decide +kernel,
    ⟨_, by rfl, by decide +kernel, by decide +kernel, ran_of (by decide +kernel), error_of (by decide +kernel)⟩, by decide +kernel⟩
  rcases h with rfl | rfl <;> exact own_here _ _ _ _ (by decide +kernel)

/-! ### Leases, notices, invalidation -/

/-- Node 4 of queue 4095 in a phase, with ranges; the notification queue at 0x23000, on or off, with `used` notices in it. -/
def noticeState (on : Bool) (used : Nat) (p : NodePhase) (r : List LeaseRange) : State :=
  let s := queueSt qOn [{ nodeOf 4 0 p with ranges := r }]
  s.setCmd { s.cmd with nqbase := 0x23000, nqcfg := if on then 1 else 0, nqtail := BitVec.ofNat 32 used }
/-- What the lease phase of node 4 comes to: 0 done, 1 a page without the rights, 2 a page that is missing. -/
def walkOf (s : State) (r : List LeaseRange) : Nat :=
  match s.walkLease 0 .start (leaseUnits r) with
  | .done w _ => if w.bad.isSome then 1 else 0
  | .missing .. => 2
/-- The page of noticeState may be read only. -/
def readOnly (s : State) : State := s.setMem (pageTables false s.mem)
def tlbEnt (p b l : Nat) : TlbEntry := ⟨p, b, l, ⟨0x20000, false, false, false, 0, true, true, true⟩⟩

theorem witness_LeasesNoticesAndInvalidation :
    (∀ on used p r, (noticeState on used p r).node? 4095 4 = some { nodeOf 4 0 p with ranges := r }) ∧
    (noticeState true 0 .leasing [⟨0x2FFFF, 1, true⟩]).leasesHeld < 4096 ∧
    walkOf (noticeState true 0 .leasing []) [⟨0x2FFFF, 1, true⟩] = 0 ∧ walkOf (readOnly (noticeState true 0 .leasing [])) [⟨0x2FFFF, 1, true⟩] = 1 ∧
    walkOf (noticeState true 0 .leasing []) [⟨0x2FFFF, 2, true⟩] = 2 ∧
    (let s := noticeState true 0 .leasing []
     let t := s.setCmd { s.cmd with insts := List.replicate 4096 { (default : Inst) with leased := true } }
     4096 ≤ t.leasesHeld) ∧
    -- notices: the last one that has room, the ring full, the queue off
    (noticeState true 1023 .leasing []).cmd.nqcfg.getLsbD 0 = true ∧ ¬ 1024 ≤ ((1023 : W32) - 0).toNat ∧ 1024 ≤ ((1024 : W32) - 0).toNat ∧
    (noticeState false 0 .leasing []).cmd.nqcfg.getLsbD 0 = false ∧
    (∃ u, OwnAt (noticeState true 1023 .leasing []) 0 (0x23000 + 32 * 1023) 32 .write (0x23000 + 32 * 1023) u) ∧
    -- answers
    (∀ d, (noticeState true 0 (.notice 9 d) []).cmd.nodes = [{ nodeOf 4 0 (.notice 9 d) with ranges := [] }]) ∧
    (let s := noticeState true 0 .running []
     let t := s.setCmd { s.cmd with insts := [{ (default : Inst) with ctxid := 5, state := .notice 9 }] }
     (t.cmd.insts.find? fun x => x.state == .notice 9).isSome = true ∧ ∀ n ∈ t.cmd.nodes, n.phase = .running) ∧
    -- nothing, and one notice, is held back
    (noticeState true 0 .running []).cmd.kept = [] ∧ (noticeState true 0 .running []).mem.pending = [] ∧ (noticeState true 0 .running []).cmd.insts = [] ∧
    (noticeState true 0 .running []).cmd.nodes.map (·.phase) = [.running] ∧
    (noticeState true 1024 (.noticeHeld 1 2 3 true) []).cmd.nodes.map (·.phase) = [.noticeHeld 1 2 3 true] ∧
    (((noticeState true 1024 (.noticeHeld 1 2 3 true) []).cmd.nqtail - 1).toNat < 1024) ∧
    (let s := noticeState true 1024 (.noticeHeld 1 2 3 true) []
     ∃ u, OwnAt (s.setCmd { s.cmd with nqhead := 1 }) 0 0x23000 32 .write 0x23000 u) ∧
    -- invalidation: idle, and under way
    (0x10000000 : W32).getLsbD 28 = true ∧ State.reset.mem.tlbinvc.getLsbD 31 = false ∧
    (State.reset.setMem { State.reset.mem with tlbinvc := 0x80000000 }).mem.tlbinvc.getLsbD 31 = true ∧
    (let s := State.reset.setMem { State.reset.mem with tlbRun := some (5, false, 0x20000, 0x10000), atc := [⟨5, 2, 7⟩] }
     let t := (s.setCore 127 { s.core 127 with tlb := [tlbEnt 5 0x10000 16, tlbEnt 5 0x20000 16] }).setQuad 31 { s.quad 31 with tlb := [tlbEnt 5 0x20000 16] }
     t.mem.tlbRun = some (5, false, 0x20000, 0x10000) ∧ t.fab.remote = [] ∧ t.fab.batches = [] ∧
     (∃ r ∈ (t.setFab { t.fab with remote := [{ (default : RemoteReq) with pasid := 5, ea := 0x2FFFF, len := 1 }] }).fab.remote,
       r.pasid = 5 ∧ r.ea.toNat < 0x20000 + 0x10000 ∧ 0x20000 < r.ea.toNat + r.len) ∧ (0x20000 + 0x10000 ≤ 0x10000 ∨ 0x10000 + 2 ^ 16 ≤ 0x20000)) := by
  refine ⟨fun _ _ _ _ => by rfl, by decide +kernel, by decide +kernel, by decide +kernel, by decide +kernel, by decide +kernel, by decide +kernel, by decide,
    by decide, by decide +kernel, own_of _ _ _ _ (by decide +kernel), fun _ => by rfl, by decide +kernel, by decide +kernel, by decide +kernel, by decide +kernel,
    by decide +kernel, by decide +kernel, by decide +kernel, own_of _ _ _ _ (by decide +kernel), by decide +kernel⟩

/-- BAR4 in a region of the tiers and in none; queues on and off; a move of the tiers and a firmware command under way and not; the last entries of
the tables. -/
theorem witness_HostAccesses : sysState.mgmt.hostLoad = false ∧ sysState.mem.gradeAt 0x20000 ≠ gradeNone ∧ sysState.mem.gradeAt (2 ^ 41) = gradeNone ∧
    0x2FFF8 / 65536 = (0x2FFF8 + (List.replicate 8 (0 : Byte)).length - 1) / 65536 ∧ 0 < (List.replicate 8 (0 : Byte)).length ∧
    (let s := sysState.setMem { sysState.mem with poison := [0x800] }
     ∃ p ∈ s.mem.poison, 0x2003F < p * 64 + 64 ∧ p * 64 < 0x2003F + 1 ∧ s.mem.gradeAt (p * 64) ≠ gradeNone) ∧
    sysState.cmd.frwait = [] ∧ 4095 < 4096 ∧ (sysState.queue 4095).en = false ∧ ((queueSt qOn []).queue 4095).en = true ∧ 63 < 64 ∧ 15 < 16 ∧ 2047 < 2048 ∧
    (0x8000000000000001 : W64).getLsbD 63 = true ∧ (0x8000000000000001 : W64).getLsbD 0 = true ∧ sysState.mem.tmcmd.getLsbD 62 = false ∧
    (sysState.setMem { sysState.mem with tmcmd := 0x4000000000000000 }).mem.tmcmd.getLsbD 62 = true ∧ sysState.mgmt.fwbusy = false ∧
    (sysState.setMgmt { sysState.mgmt with fwbusy := true }).mgmt.fwbusy = true := by
  decide +kernel

/-! ### Instances -/

def mkRec (ags : List W64) (trip : W32) : TaskRec := { (default : TaskRec) with agents := ags, trip := trip }
/-- Every agent but ST has a part of each kind. -/
def recA : TaskRec := mkRec [4, 8, 12, 16, 20, 24, 0, 0, 0, 0x100, 0x110, 0x120, 0x200, 0x210, 0x220, 0x300, 0x310, 0x320] 3
/-- Instance 3, of node 4 of queue 4095, on core 0, with its core in a state of its sequencer and a part. -/
def instState (trip : Nat) (ph : InstPhase) (q : Seq) (p : Part) (it : W32) : State :=
  let s := queueSt { qOn with waiting := [⟨4, 1, 2, 3, 4, 5, 6, 7, 8, 9, true⟩] } [{ nodeOf 4 1 .running with ctxid := 3, trec := some recA }]
  let i : Inst := { (default : Inst) with ctxid := 3, node := some (4095, 4), trec := recA, base := 0, ncores := 1, trip := trip, wdog := 1000, state := ph }
  let t := s.setCmd { s.cmd with insts := [i] }
  t.setCore 0 { t.core 0 with inst := some 3, part := p, seq := q, disp := { (t.core 0).disp with iter := it, ctxid := 3 } }
/-- Node 4 of queue 4095 is ready since 7 with a task of one core, at time `now`; what else stands in the command processor. -/
def readyState (now : Nat) (insts : List Inst) (res : List Reservation) : State :=
  let s := queueSt { qOn with qcfg := 0 } [{ nodeOf 4 1 (.ready 7) with cmd := { (default : Cmd) with kind := 1, payload := 0xFFFF * 2 ^ 64 }, trec := some recA, ranges := [⟨0x20000, 65536, true⟩], pins := [2], leased := true }]
  { s.setCmd { s.cmd with insts := insts, reservations := res, ctxcfg := 0, ctxbase := 0x20000 } with time := now }
/-- The node's candidate. -/
def cand4 : Option Cand := (readyState 0 [] []).cands[0]?
/-- A suspended instance of one core. -/
def suspInst : Inst := { (default : Inst) with ctxid := 9, trec := recA, ncores := 1, state := .suspended 5, stage := none }
/-- An instance of priority 0 in iteration 2 of its kernel on core 0, where the context pool has two slots of 64 KiB. -/
def victimState (now : Nat) : State :=
  let s := readyState now [{ (default : Inst) with ctxid := 3, trec := recA, ncores := 1, trip := 3, state := .running }] []
  let t := s.setCmd { s.cmd with ctxcfg := 0x20010 }
  t.setCore 0 { t.core 0 with inst := some 3, part := .kernel, seq := .running 0, disp := { (t.core 0).disp with iter := 2 } }

theorem witness_PartsOfInstances : (∀ t ph q p it, ((instState t ph q p it).instOf 0).isSome = true ∧ ((instState t ph q p it).core 0).fault = none ∧
      ((instState t ph q p it).core 0).seq = q ∧ ((instState t ph q p it).core 0).part = p) ∧
    -- agents with the part and without
    (∀ p : Part, p.num = 2 → nth 0 recA.agents (3 * ctxAgent .st + p.num) = 0 ∧ nth 0 recA.agents (3 * ctxAgent .cp + p.num) ≠ 0 ∧
      nth 0 recA.agents (3 * engAgent .c + p.num) ≠ 0) ∧
    -- a context runs yet, and none; a token is left in the last counter, and none
    (let s := instState 3 .running (.running 0) .kernel 2
     let c := s.core 0
     ((∀ x : CtxId, (c.ctx x).run ≠ .running) ∧ ∀ e : Engine, (c.eng e).run = false ∧ (c.eng e).forks = [] ∧ (c.eng e).flight = []) ∧
     (∀ m, m < 16 → c.getTok (m / 4) (m % 4) = 0) ∧
     (let d : Core := { c with tok := c.tok.set 15 1 }
      d.getTok (15 / 4) (15 % 4) ≠ 0 ∧ ∀ m, m < 15 → d.getTok (m / 4) (m % 4) = 0) ∧
     (({ c with cp := { c.cp with run := .running } } : Core).ctx .cp).run = .running ∧
     -- the last iteration and the one before it
     c.disp.iter.toNat + 1 < 4 ∧ 3 ≤ c.disp.iter.toNat + 1) ∧
    -- the watchdog
    0 + 1000 * 1000 < 1000001 ∧ ¬ 0 + 1000 * 1000 < 1000000 := by
  refine ⟨fun _ _ _ _ _ => ⟨by rfl, by rfl, by rfl, by rfl⟩, ?_, ⟨⟨?_, ?_⟩, by decide +kernel⟩, by decide +kernel⟩
  · intro p h; rw [h]; decide +kernel
  · intro x; cases x <;> decide +kernel
  · intro e; cases e <;> decide +kernel

/-- The first candidate of a state: whose it is, and what the checks of R152 and R153 say of its first placement. -/
def firstCand (s : State) (w : Waiter) (prio ncores since : Nat) (susp fits : Bool) : Bool :=
  (s.cands[0]?).any fun c => c.who == w && c.prio == prio && c.ncores == ncores && c.since == since && c.suspended == susp &&
    c.bases.head? == some 0 && s.fits c 0 == fits && !reserved c 0 s.cmd.reservations

theorem witness_PlacingAndPreempting :
    -- nothing waits; a node that fits; suspended work before it; and none fits
    (State.reset.cands).isEmpty = true ∧ firstCand (readyState 8 [] []) (.node 4095 4) 1 1 7 false true = true ∧
    firstCand (readyState 8 [{ suspInst with prio := 1 }] []) (.inst 9) 1 1 5 true true = true ∧
    (readyState 8 [{ suspInst with prio := 1 }] []).inst? 9 = some { suspInst with prio := 1 } ∧ 0 + 1 ≤ 128 ∧
    (let s := readyState 8 [{ (default : Inst) with ctxid := 3, ncores := 128, state := .running }] []
     (s.cands.all fun c => c.bases.all fun b => !s.fits c b) = true ∧ s.cands.length = 1) ∧
    (((readyState 8 [] []).node? 4095 4).bind (·.trec)).map (·.tripmem) = some false ∧ (readyState 8 [] []).cmd.insts = [] ∧
    -- 1 ms and 100 µs, to the nanosecond
    7 + 1000000 ≤ (readyState 1000007 [] []).time ∧ (readyState 1000006 [] []).time < 7 + 1000000 ∧ (readyState 8 [] []).cmd.reservations = [] ∧
    7 + 100000 ≤ (victimState 100007).time ∧ (victimState 100006).time < 7 + 100000 ∧
    firstCand (victimState 100007) (.node 4095 4) 1 1 7 false false = true ∧
    (((victimState 100007).cands[0]?).any fun c => (victimState 100007).victims c 0 == some (victimState 100007).cmd.insts) = true ∧
    (∃ i, (victimState 100007).cmd.insts = [i] ∧ i.state = .running ∧ (victimState 100007).inst? i.ctxid = some i ∧ i.trip ≠ 0 ∧
      (victimState 100007).poolTakes i = true ∧
      ∀ k ∈ i.cores, ((victimState 100007).core k).part = .kernel ∧ ∃ since, ((victimState 100007).core k).seq = .running since) := by
  and_intros
  all_goals try decide +kernel
  refine ⟨_, rfl, rfl, by rfl, by decide, by decide +kernel, ?_⟩
  intro k hk
  have : k = 0 := by
    revert k
    decide +kernel
  subst this
  exact ⟨by decide +kernel, 0, by decide +kernel⟩
/-- Instance 3 as InstancesEndAndRecords has it: complete; faulted; stopped; the fault ring of 64 records at 0x24000, the pool at 0x100000. -/
def endingState (q : Seq) (ph : InstPhase) (f : Option FaultInfo) : State :=
  let s := instState 3 ph q .kernel 2
  let t := s.setCmd { s.cmd with frbase := 0x24000, frcfg := 1, ctxbase := 0x100000, ctxcfg := 0x20010 }
  t.setCore 0 { t.core 0 with fault := f, flags := 0x11, fcsr := 0x23, e := (t.core 0).e.set 31 77, cp := { (t.core 0).cp with x := (t.core 0).cp.x.set 31 99 }, tiles := sset 0 (t.core 0).tiles (47 * 16384 + 16383) 5, acc := sset 0 (t.core 0).acc (3 * 4096 + 4095) 6 }
def aFault : FaultInfo := ⟨⟨.perm, 0x1234, 0x5678⟩, 1, 0x42, 9, 8, 3, 2, 1⟩
/-- Instance 3 with tile 47 and accumulator 3 live. -/
def recLive : TaskRec := { recA with live := 0x8800000000000 }
def liveIn (s : State) : State := s.updInst 3 fun i => { i with trec := recLive, slots := [1] }
/-- Instance 3 as a step of stage 7, placed for its resume from slot 1; the bytes of its area that hold x31, e31, the iteration and FCSR. -/
def placedState : State :=
  let s := (liveIn (endingState .held .placed none)).updInst 3 fun i => { i with stage := some (7, 0), node := none }
  let t := s.setQuad 0 { s.quad 0 with lastPasid := some 0 }
  let t1 := t.setCmd { t.cmd with slotsUsed := [0, 1] }
  t1.setMem ((((t1.mem.setNum (0x110000 + 0x300 + 248) 8 0x123456789).setNum (0x110000 + 0x100 + 248) 8 0x9876).setNum (0x110000 + 0x18) 4 2).setNum (0x110000 + 0x20) 8 0xFFFFFFFFFFFFFFFF)
/-- A record of instance 3 waits for room in the fault ring, which is full. -/
def frState : State :=
  let s := (endingState .complete .faulted none).updInst 3 fun i => { i with ending := some ⟨1, 17, 0, 0⟩ }
  s.setCmd { s.cmd with frtail := 70, frhead := 6, frwait := [⟨.inst 3, true, List.replicate 64 1⟩] }

theorem witness_InstancesEndAndRecords :
    (∀ q ph f, ((endingState q ph f).inst? 3).map (fun i => (i.node, i.stage, i.ncores, i.base, i.ctxid)) = some (some (4095, 4), none, 1, 0, 3) ∧
      ((endingState q ph f).node? 4095 4).map (fun n => (n.orphan, n.cmd.nocpl, n.idx)) = some (false, false, 4) ∧
      ((endingState q ph f).queue 4095).waiting ≠ [] ∧ (endingState q ph f).stages.slots = [] ∧ (endingState q ph f).cmd.frwait = [] ∧
      ((endingState q ph f).core 0).fault = f ∧ ((endingState q ph f).core 0).seq = q ∧ ((endingState q ph f).core 0).dl1 = []) ∧
    ((endingState .complete .running none).inst? 3).map (·.onCores) = some true ∧ (endingState .complete .running none).remoteOut [0] = false ∧
    (endingState .complete .running (some aFault)).cmd.frcfg.getLsbD 0 = true ∧
    bitsNat (endingState .complete .running (some aFault)).cmd.frcfg.toNat 4 4 ≤ 10 ∧
    ((endingState .complete .running (some aFault)).cmd.frtail - (endingState .complete .running (some aFault)).cmd.frhead).toNat ≠ 2 ^ (0 + 6) ∧
    -- saved, and resumed
    ((endingState (.stopped 0) (.stopping 2) none).inst? 3).map (·.state) = some (.stopping 2) ∧ ((endingState (.stopped 0) (.stopping 2) none).core 0).isStopped = true ∧
    recLive.liveTiles[0]? = some 47 ∧ recLive.liveAccs[0]? = some 3 ∧ 16383 < 16384 ∧
    (placedState.inst? 3).map (fun i => (i.state, i.stage, i.trec.saves, i.slots)) = some (.placed, some (7, 0), [], [1]) ∧
    (placedState.quad (quadOf (coreIx 0))).lastPasid = some 0 ∧ placedState.mem.poisonedAt 0x110000 (areaSize recLive (quadSaver 0 0)) = none ∧
    1 ∈ placedState.cmd.slotsUsed ∧ 0 ∈ placedState.cmd.slotsUsed ∧
    -- FRHEAD
    (frState.cmd.frwait.map fun r => (r.who, r.bytes.length)) = [(.inst 3, 64)] ∧ ((frState.inst? 3).bind (·.ending)).isSome = true ∧
    (frState.queue 4095).waiting ≠ [] ∧ frState.cmd.frcfg.getLsbD 0 = true ∧ (frState.cmd.frtail - 6).toNat = 64 ∧ (frState.cmd.frtail - 7).toNat ≠ 64 := by
  refine ⟨fun q ph f => ⟨by rfl, by rfl, List.cons_ne_nil _ _, by rfl, by rfl, by rfl, by rfl, by rfl⟩, by and_intros <;> decide +kernel⟩

/-! ### Stages -/

/-- A policy row that holds whenever its queue has an entry: its phase and queue, and microseconds after which it is raised. -/
def rowOf (ph q starve : Nat) : PolicyRow := { (default : PolicyRow) with v := true, ph := ph, q := q, starve := starve }
/-- Stage 7 with one gang of one core, bound to core 0, rows, and entries in NEW. -/
def stageOne (rows : List PolicyRow) (new : List Entry) (span : List Nat) : Stage :=
  { (default : Stage) with
    key := 7, q := 4095, idx := 4, armed := true, gangs := [⟨0, 0, 0, 0, true⟩], newQ := new, hold := [0, 0], desc := { (default : StageDesc) with num := 7, first := true, last := true, nver := 2, tagcount := 9, span := span }
    variants := [{ (default : Variant) with recs := [recA, recA], rows := rows }] }
def mbsState (st : Stage) (now : Nat) : State :=
  let s := queueSt qOn [nodeOf 4 2 .armed]
  { s.setStages { s.stages with list := [st] } with time := now }
def newTags : List Entry := [⟨2, 5, false, none⟩, ⟨1, 5, false, none⟩]

theorem witness_SchedulerSteps : (∀ st now, (mbsState st now).stageOf st.key = some st) ∧
    (∀ rows new span, (stageOne rows new span).ending = none ∧ (stageOne rows new span).armed = true ∧ (stageOne rows new span).reissues = []) ∧
    (stageOne [] [] []).spans = false ∧ (mbsState (stageOne [] [] []) 9).mgmt.pstate = .active ∧ (mbsState (stageOne [] [] []) 9).cmd.insts = [] ∧
    -- no row holds; the second row holds for the tag that came first, the lower of two; the last is raised
    (let st := stageOne [rowOf 0 0 0] [] []
     st.rows.all (fun r => !st.rowHolds r) = true) ∧
    (let st := stageOne [rowOf 1 2 0, rowOf 0 0 0] newTags []
     let s := mbsState st 9
     s.freeGang st = some 0 ∧ st.rows = [rowOf 1 2 0] ++ rowOf 0 0 0 :: [] ∧ st.rowHolds (rowOf 0 0 0) = true ∧ st.raised 9 (rowOf 0 0 0) = false ∧
     (∀ x ∈ st.rows, st.raised 9 x = true → st.rowHolds x = false) ∧ (∀ x ∈ [rowOf 1 2 0], st.rowHolds x = false) ∧
     ⟨1, 5, false, none⟩ ∈ st.eligible 0 ∧ (∀ x ∈ st.eligible 0, x ≠ ⟨1, 5, false, none⟩ → 5 < x.time ∨ 5 = x.time ∧ 1 < x.tag) ∧
     st.gangs[0]? = some ⟨0, 0, 0, 0, true⟩ ∧ ((st.variants[0]?).bind fun v => v.recs[0]?) = some recA ∧ recA.tripmem = false) ∧
    (let st := stageOne [rowOf 0 0 0, rowOf 0 0 6] newTags []
     st.raised 6005 (rowOf 0 0 6) = true ∧ st.raised 6004 (rowOf 0 0 6) = false ∧ st.rows[1]? = some (rowOf 0 0 6) ∧ st.rowHolds (rowOf 0 0 6) = true ∧
     ∀ x ∈ [rowOf 0 0 0], st.raised 6005 x = true → st.rowHolds x = false) ∧
    -- stages of two packages, of which this one is the first, and the second
    (let st := { stageOne [rowOf 0 0 0] newTags [0, 1] with armed := false }
     st.spans = true ∧ (mbsState st 9).spanStage 7 = some st ∧ (mbsState st 9).member st = some 0 ∧ 0 < 1 ∧ 1 < st.desc.span.length ∧
     (mbsState st 9).cmd.incarn = 1 ∧ st.spanRetired = [] ∧ st.desc.span[1]? = some 1) ∧
    (let st := stageOne [rowOf 0 0 0] newTags [5, 0]
     st.spans = true ∧ (mbsState st 9).spanStage 7 = some st ∧ (mbsState st 9).member st = some 1 ∧ st.armed = true ∧ st.picks = [] ∧
     (mbsState st 9).time < 10 ∧ sget 0 st.runs (tagKey 1 0) = 0 ∧ (mbsState st 9).cmd.insts = []) ∧
    (let st := { stageOne [rowOf 0 0 0] newTags [5, 0] with picks := [⟨0, 1, 0, 1, 0, 100, false, 1⟩] }
     st.picks = [⟨0, 1, 0, 1, 0, 100, false, 1⟩] ∧ (mbsState st 99).time < 100 ∧ 100 ≤ (mbsState st 100).time ∧ (mbsState st 100).cmd.insts = [] ∧
     (mbsState st 100).mgmt.pstate ≠ .parked ∧ (∃ g, st.gangs[0]? = some g ∧ g.bound = true ∧ gangSize g.level g.count = 1 ∧ g.base = 0) ∧
     (mbsState st 100).quadHeld 0 = false ∧ ((st.variants[0]?).bind fun v => v.recs[0]?) = some recA) ∧
    -- a full fault ring
    (let s := mbsState (stageOne [] [] [0, 1]) 9
     let t := s.setCmd { s.cmd with frcfg := 1, frtail := 64 }
     t.cmd.frwait = [] ∧ t.cmd.frcfg.getLsbD 0 = true ∧ (t.cmd.frtail - t.cmd.frhead).toNat = 2 ^ (bitsNat t.cmd.frcfg.toNat 4 4 + 6)) := by
  refine ⟨fun st now => ?_, fun _ _ _ => ⟨rfl, rfl, rfl⟩, by and_intros <;> decide +kernel⟩
  show List.find? _ [st] = some st
  simp [List.find?]

/-! ### The memory side -/

/-- The memory side with the event log of 16 records at 0x24000 and the notification queue at 0x23000, or with neither. -/
def memState (on : Bool) (f : MemSide → MemSide) : State :=
  let s := sysState.setCmd { sysState.cmd with nqbase := 0x23000, nqcfg := if on then 1 else 0 }
  { s.setMem (f { s.mem with mevbase := 0x24000, mevcfg := if on then 0x41 else 0x40 }) with time := 77 }

/-! ### Channel ends -/

/-- End 31: its state, counts and messages; word 0 as given: a receiving end of package 9's channel 30 with slots of 128 bytes (0x...03800
is LOG2SZ 7) and a window of one; RBASE 0x25000. -/
def endAt (w0 : W64) (st : EndState) (sseq aseq rdseq : W32) (msgs : List Msg) (sent : List Sent) : State :=
  (memState false id).setChan 31 ⟨w0, 0x25000, st, sseq, aseq, rdseq, msgs, sent⟩
def recvW : W64 := 0x80000000009F3800
def sendW : W64 := 0xC0000000009F3800
def heldMsg (n : Nat) : Msg := ⟨n, 5, 1, true, false, false, false⟩

/-- The page of virtState, with permission to be compressed or without. -/
def storeState (may : Bool) : State :=
  virtState.setCore 0 { virtState.core 0 with tlb := [⟨0, 0x20000, 16, ⟨0x20000, false, false, may, 0, true, true, true⟩⟩] }

theorem witness_MemoryEvents : 7 < 8 ∧ 131071 < 131072 ∧ 1 ≤ 4 ∧ 4 ≤ 4 ∧
    -- a line that comes beside another of its stack, and one that is there; writes with permission and without
    (let m := (memState true fun m => { m with neve := [⟨(m.homeAt (3 * 128)).1, 131070, 9, 4, true, 0⟩] }).mem
     3 * 128 < m.memcap ∧ (∀ y ∈ m.neve, y.stack = (m.homeAt (3 * 128)).1 → y.line ≠ 3 ∧ y.pline ≠ 131071) ∧
     m.neve.find? (fun y => y.stack == (m.homeAt (3 * 128)).1 && y.line == 9) = some ⟨(m.homeAt (3 * 128)).1, 131070, 9, 4, true, 0⟩) ∧
    (∀ may, (storeState may).storeLine 0 0x20000 = some (0x400, may)) ∧
    -- errors: of a stack, corrected by no grade or by D; of a transfer; met by no such store; by the core of an instance, and by none
    ((memState true id).mem.gradeAt (0x800 * 64) = 0 ∧ corrects 0 [5] = false ∧ corrects 1 [5] = true ∧
     ((memState true id).mem.eventAt 0x800).1 ≠ 9 ∧ ((memState true id).core 127).inst = none ∧ ((firnState 0 []).core 0).inst ≠ none) ∧
    ((memState true id).mem.mevcfg.getLsbD 0 = true ∧ 4 ≤ bitsNat (memState true id).mem.mevcfg.toNat 4 4) ∧
    ¬ ((memState false id).mem.mevcfg.getLsbD 0 = true ∧ 4 ≤ bitsNat (memState false id).mem.mevcfg.toNat 4 4) ∧
    11 ≤ 11 ∧ 0 < 9 ∧ ((memState true id).mem.eventAt 0x800).1 = 0 ∧ ((memState true id).mem.eventAt (2 ^ 40 / 64)).1 = 8 ∧
    -- the log with one place left, and full
    (memState true fun m => { m with mevq := [⟨6, 3, 9, 8, 7, 6, 5⟩], mevtail := 15 }).mem.mevq = [⟨6, 3, 9, 8, 7, 6, 5⟩] ∧
    ((15 : W32) - (memState true id).mem.mevhead).toNat ≠ 2 ^ 4 ∧ ((16 : W32) - (memState true id).mem.mevhead).toNat = 2 ^ 4 ∧
    -- the counters of rows and of the last region
    sget 0 (memState true fun m => { m with rows := [(9, 0xFFFF)] }).mem.rows 9 = 0xFFFF ∧ sget 0 (memState true id).mem.rows 9 ≠ 0xFFFF ∧
    2 ^ 19 - 1 < Config.lpddrBytes / 2 ^ 21 ∧
    (let g := Config.lpddrBase / 2 ^ 21 + (2 ^ 19 - 1)
     let m := (memState true fun m => { m with access := [(g, 0xFE)] }).mem
     min 0xFFFF (sget 0 m.access g + 1) = 0xFF ∧ (m.promth[1]).toNat % 2 ^ 16 = 0x100 ∧ g ∉ m.queued ∧ m.pending = []) ∧
    (memState true id).cmd.nqcfg.getLsbD 0 = true ∧ ((1023 : W32) - (memState true id).cmd.nqhead).toNat < 1024 ∧
    1024 ≤ ((1024 : W32) - (memState true id).cmd.nqhead).toNat ∧
    (let s := (memState true id).setCmd { (memState true id).cmd with nqtail := 1023 }
     ∃ u, OwnAt s 0 (0x23000 + 32 * 1023) 32 .write (0x23000 + 32 * 1023) u) ∧
    ((0x1FFFFFFFFFF : W64).getLsbD 63 = false ∧ Config.lpddrBase ≤ (0x1FFFFFFFFFF : W64).toNat ∧
      (0x1FFFFFFFFFF : W64).toNat < Config.lpddrBase + Config.lpddrBytes) := by
  and_intros
  all_goals first
    | decide +kernel
    | exact own_of _ _ _ _ (by decide +kernel)

/-- A move of one page from the end of region 0 to the first page of LPDDR 6; the regions 0 and 2^18 - 1 and LPDDR 6's first have grades. -/
def moveState (src dst len : W64) (pins : List (Nat × Nat)) : State :=
  memState true fun m => { m with tmsrc := src, tmdst := dst, tmlen := len, pins := pins, grades := [(0, 0), (2 ^ 18 - 1, 0), (2 ^ 19, 2)] }

theorem witness_GradesAndMoves : (0x8000000000000001 : W64).getLsbD 63 = true ∧ (memState true id).mem.rgcmd.getLsbD 62 = false ∧
    (memState true fun m => { m with rgcmd := 0x4000000000000000 }).mem.rgcmd.getLsbD 62 = true ∧
    -- tiers, regions at the end of a tier, a pin at the end of a region, a region past MEMCAP
    (memState true id).mem.calv = .stable ∧ (memState true id).mem.pins = [] ∧ 2 ^ 18 - 1 < 2 ^ 18 ∧ (2 ^ 18 - 1) * 2 ^ 21 < (memState true id).mem.memcap ∧
    (memState true fun m => { m with memcap := 0x7000000000 }).mem.memcap ≤ (2 ^ 18 - 1) * 2 ^ 21 ∧
    (∃ p ∈ (memState true fun m => { m with pins := [(63, 1)] }).mem.pins, p.1 * 65536 < 2 ^ 21 + 2 ^ 21 ∧ 2 ^ 21 < (p.1 + 1) * 65536) ∧
    (memState true fun m => { m with rgRun := some (1, 1) }).mem.rgRun = some (1, 1) ∧
    -- moves: pinned, out of range, in a region of no grade, and one that runs
    (∃ p ∈ (moveState 0x1F0000 0x10000000000 0x10000 [(31, 1)]).mem.pins, p.1 * 65536 < 0x1F0000 + 0x10000 ∧ 0x1F0000 < (p.1 + 1) * 65536) ∧
    (0x10001 : W64).toNat % 65536 ≠ 0 ∧ (0x10000 : W64).toNat % 65536 = 0 ∧ (0x1F0000 : W64).getLsbD 63 = false ∧
    0x7FFFFF0000 + 0x10000 ≤ (memState true id).mem.memcap ∧ ¬ 0x7FFFFF0000 + 0x20000 ≤ (memState true id).mem.memcap ∧
    (moveState 0x1F0000 0x10000000000 0x10000 []).mem.gradeAt 0x1F0000 ≠ 3 ∧ (moveState 0x1F0000 0x10000000000 0x10000 []).mem.gradeAt 0x10000000000 ≠ 3 ∧
    (moveState 0x1F0000 0x10000000000 0x20000 []).mem.gradeAt (0x1F0000 + 65536 * 1) = 3 ∧
    Memory.wf (moveState 0x1F0000 0x10000000000 0x10000 []).mem.cells = true ∧
    -- crossings
    (memState true fun m => { m with crossed := [(true, 2, 555)] }).mem.crossed = [(true, 2, 555)] ∧
    (memState false fun m => { m with crossed := [(false, 2, 555)] }).mem.crossed = [(false, 2, 555)] ∧
    (memState true id).cmd.nqcfg.getLsbD 0 = true ∧ (memState false id).cmd.nqcfg.getLsbD 0 = false ∧
    (∃ u, OwnAt (memState true fun m => { m with crossed := [] }) 0 0x23000 32 .write 0x23000 u) := by
  and_intros
  all_goals first
    | decide +kernel
    | exact own_of _ _ _ _ (by decide +kernel)

/-- A request of core 127, under instance 7, with a stamp. -/
def lateState (stamp : Nat) : State :=
  let s := State.reset.setCore 127 { Core.reset with inst := some 7 }
  s.setEng 127 .c { s.eng 127 .c with flight := [{ Flight.plain 0 0 with reqs := [{ request (.write 0x20000 [1] []) with stamp := stamp }] }] }

theorem witness_Calving : (0x8000000000000007 : W64).getLsbD 63 = true ∧
    -- each condition of a GO fails in turn, and all hold
    State.reset.mem.calv = .stable ∧ (memState true fun m => { m with calv := .move }).mem.calv ≠ .stable ∧
    State.reset.mem.live.getLsbD 7 = true ∧ (memState true fun m => { m with live := 0x7F }).mem.live.getLsbD 7 = false ∧
    2 ≤ ((List.range 8).filter fun n => State.reset.mem.live.getLsbD n).length ∧
    ¬ 2 ≤ ((List.range 8).filter fun n => (memState true fun m => { m with live := 0x80 }).mem.live.getLsbD n).length ∧
    State.reset.mem.pins = [] ∧
    (∃ p ∈ (memState true fun m => { m with pins := [(0x700000, 1)] }).mem.pins, 0x7000000000 < (p.1 + 1) * 65536 ∧ p.1 * 65536 < Config.lpddrBase) ∧
    State.reset.mem.grades = [] ∧
    (∃ g ∈ (memState true fun m => { m with grades := [(0x38000, 0)] }).mem.grades, g.1 < 2 ^ 19 ∧ 0x7000000000 ≤ g.1 * 2 ^ 21) ∧
    State.reset.mem.memcap ≤ 2 ^ 39 ∧
    -- the map, a line, the last line, the end of the move, the stack's end
    (memState true fun m => { m with calv := .prepare }).mem.calv = .prepare ∧
    (let m := (memState true fun m => { m with calv := .move, moves := [⟨2047, 4, 255⟩], cursor := 2 ^ 21 - 1 }).mem
     m.calv = .move ∧ m.moves = [⟨2047, 4, 255⟩] ∧ 2047 < 2048 ∧ m.cursor < 2 ^ 21 ∧ m.cursor + 1 = 2 ^ 21) ∧
    (memState true id).mem.cursor + 1 ≠ 2 ^ 21 ∧ (memState true id).mem.mevcfg.getLsbD 0 = true ∧
    4 ≤ bitsNat (memState true id).mem.mevcfg.toNat 4 4 ∧ (memState true fun m => { m with calv := .move }).mem.moves = [] ∧
    (memState false fun m => { m with calv := .settle }).mem.calv = .settle ∧ (memState false id).cmd.nqcfg.getLsbD 0 = false ∧
    -- the age of a stamp: 2 and 3, over the wrap
    (1 + 2 ^ 16 - 65535 % 2 ^ 16) % 2 ^ 16 ≤ 2 ∧ 2 < (2 + 2 ^ 16 - 65535 % 2 ^ 16) % 2 ^ 16 ∧ 6 ≤ 6 ∧
    ((lateState 5).core 127).inst ≠ none ∧ ((lateState 5).core 127).fault = none ∧
    (∃ f ∈ ((lateState 5).eng 127 .c).flight, ∃ r ∈ f.reqs, r.stamp = 5 ∧ r.kind.address = BitVec.ofNat 64 0x20000) ∧
    (∀ f ∈ ((lateState 5).eng 126 .c).flight, ¬ ∃ r ∈ f.reqs, r.stamp = 5 ∧ r.kind.address = BitVec.ofNat 64 0x20000) ∧
    -- a request of the phase before is under way, and none
    ((lateState 65535).stamped ((0 + 2 ^ 16 - 1) % 2 ^ 16) = true ∧ (lateState 5).stamped ((0 + 2 ^ 16 - 1) % 2 ^ 16) = false ∧ (lateState 5).mem.mphase = 0) := by
  and_intros <;> decide +kernel

theorem witness_ChannelEnds : (0x80000000009F3800 : W64).getLsbD 63 = true ∧ (0x00000000009F3800 : W64).getLsbD 63 = false ∧
    (∀ a ms st, let s := endAt recvW st a a a ms []
      (s.chan 31).isSend = false ∧ (s.chan 31).peer = 9 ∧ (s.chan 31).pch = 30 ∧ s.boundStage 31 = none ∧ (s.chan 31).msgs = ms ∧ (s.chan 31).state = st ∧
      (s.chan 31).sseq = (s.chan 31).aseq ∧ (s.chan 31).rdseq = (s.chan 31).aseq ∧ (s.chan 31).slotBytes = 128) ∧
    -- word 0 of the sending end, and one with smaller slots
    (let x := (endAt recvW .opened 0 0 0 [] []).chan 31
     let agrees (w : W64) : Bool := let y : ChEnd := { x with w0 := w }
       y.isSend && !x.isSend && y.pasid == x.pasid && y.slotBytes == x.slotBytes && y.window == x.window && y.peer == State.reset.pkg && y.pch == 31
     agrees 0xC0000000000FB800 = true ∧ agrees 0xC0000000000FB000 = false ∧ (endAt recvW .opened 0 0 0 [] []).cmd.incarn = 1) ∧
    128 * [List.replicate 128 (0 : Byte)].length ≤ 128 ∧ [List.replicate 128 (0 : Byte)] ≠ [] ∧ (∀ r ∈ [List.replicate 128 (0 : Byte)], r.length = 128) ∧
    (0xFFFFFFFF : W32).toNat = 0xFFFFFFFF ∧ (heldMsg 0xFFFFFFFF).n = 0xFFFFFFFF ∧ (heldMsg 0xFFFFFFFF).held = true ∧ (heldMsg 0xFFFFFFFF).released = false ∧
    (∀ m ∈ [heldMsg 4], m.n ≠ 5) ∧ (∀ k : Fin 128, ((endAt recvW .opened 0 0 0 [] []).eng k .c).flight = []) ∧
    ((endAt sendW .opened 3 1 0 [] [⟨0, 77, 100, 2, 3, false, true⟩]).chan 31).sent = [⟨0, 77, 100, 2, 3, false, true⟩] ∧
    ((endAt sendW .opened 3 1 0 [] []).chan 31).isSend = true ∧ ((3 : W32) - 1).toNat ≤ ((3 : W32) - 1).toNat ∧
    ((3 : W32) - 1).toNat < ((4 : W32) - 1).toNat ∧ EndState.idle ≠ .opened ∧
    (let s := endAt sendW .opened 3 1 0 [] []
     let t := s.setEng 127 .c { s.eng 127 .c with flight := [{ Flight.plain 5 0 with wait := .message 31 1 }] }
     (t.core 127).fault = none ∧ (t.chan 31).state = .opened ∧ t.boundStage 31 = none ∧
     (t.eng 127 .c).flight.map (·.wait) = [.message 31 1] ∧ (t.eng 126 .c).flight = []) := by
  refine ⟨by decide, by decide, fun _ _ _ => ⟨by
      show (bitsNat (BitVec.toNat recvW) 62 1 == 1) = false; decide, by show bitsNat (BitVec.toNat recvW) 20 12 = 9; decide, by
      show bitsNat (BitVec.toNat recvW) 15 5 = 30; decide, by rfl, by rfl, by rfl, by rfl, by rfl, by
      show 2 ^ bitsNat (BitVec.toNat recvW) 11 4 = 128; decide⟩, by decide +kernel, by decide, List.cons_ne_nil _ _,
    by decide +kernel, by decide, rfl, rfl, rfl, by decide +kernel⟩

/-! ### Between packages -/

/-- Memory of grade P in region 0 only, batches and requests as given, at a TIME. -/
def fabState (now : Nat) (f : Fabric → Fabric) : State :=
  let s := memState false id
  { s.setFab (f s.fab) with time := now }
def aBatch (parts : List Nat) (ret : Option W64) : Batch := { (default : Batch) with id := 5, serial := 77, target := 9, inc := 2, core := 127, upc := 0x42, ea := 0x1234, rows := [⟨0x20000, [1]⟩, ⟨0x20008, [2]⟩], parts := parts, cols := 1, ret := ret, cls := 3, last := 100 }
def aRemote (w : Bool) (who : RemoteFor) : RemoteReq :=
  { id := 5, core := 127, ctxid := 0, pasid := 0, addr := 0, who := who, loc := 0x42, ea := 0x1234, cls := 3, target := 9, inc := 2, len := 8, write := w, sent := 100 }
/-- A batch of package 9 that has been applied. -/
def aReplay : Replay := ⟨9, 5, [[0x11]]⟩

theorem witness_RequestsBetweenPackages :
    -- a batch of another incarnation, one applied before, a new one in a region with a grade and in one of none
    77 ≠ (fabState 0 id).cmd.incarn ∧
    (fabState 0 fun f => { f with replay := [aReplay] }).fab.replay.find? (fun r => r.src == 9 && r.id == 5) = some ⟨9, 5, [[0x11]]⟩ ∧
    (∀ r ∈ (fabState 0 fun f => { f with replay := [aReplay] }).fab.replay, ¬ (r.src = 9 ∧ r.id = 261)) ∧
    (fabState 0 id).mem.gradeAt 0x200000 = 3 ∧ (fabState 0 id).mem.gradeAt 0x1FFFFC ≠ 3 ∧ (fabState 0 id).mem.poisonedAt 0x1FFFFC 4 = none ∧
    -- a reply to a batch of two rows: short, without a return image, with one
    (fabState 0 fun f => { f with batches := [aBatch [1, 1] none] }).fab.batches.find? (fun x => x.target == 9 && x.id == 5) = some (aBatch [1, 1] none) ∧
    (fabState 0 fun f => { f with batches := [aBatch [1, 1] (some 0x20400)] }).fab.batches.find? (fun x => x.target == 9 && x.id == 5) =
      some (aBatch [1, 1] (some 0x20400)) ∧
    [[(1 : W32)]].length < (aBatch [1, 1] none).rows.length ∧ (aBatch [1, 1] none).rows.length ≤ [[(1 : W32)], [2]].length ∧
    (aBatch [1, 1] none).ret = none ∧ (aBatch [1, 1] (some 0x20400)).ret = some 0x20400 ∧
    (aBatch [1, 1] (some 0x20400)).parts = List.replicate [[(1 : W32)], [2]].length 1 ∧
    (aBatch [1, 1] none).last + 5000 ≤ (fabState 5100 id).time ∧ (fabState 5099 id).time < (aBatch [1, 1] none).last + 5000 ∧
    -- a peer's access: up to the end of the region with a grade, and into the next one
    0 < 8 ∧ 0 < [(0 : Byte)].length ∧ (∀ a, 0x1FFFF8 ≤ a → a < 0x1FFFF8 + 8 → (fabState 0 id).mem.gradeAt a ≠ 3) ∧
    -- requests of this package: a write, a read of a context, lost by an incarnation and by time
    (fabState 0 fun f => { f with remote := [aRemote true (.context .ld)] }).fab.remote.find? (fun y => y.id == 5) = some (aRemote true (.context .ld)) ∧
    (aRemote true (.context .ld)).write = true ∧ (aRemote false (.context .st)).write = false ∧
    (List.replicate 8 (0 : Byte)).length = (aRemote false (.context .st)).len ∧ (aRemote false (.context .st)).who = .context .st ∧
    (let s := fabState 20099 fun f => { f with remote := [aRemote false (.context .st)] }
     let t := s.setCtx 127 .st { s.ctx 127 .st with remote := some ⟨5, none⟩ }
     t.fab.remote.find? (fun y => y.id == 5) = some (aRemote false (.context .st)) ∧ (t.ctx 127 .st).remote = some ⟨5, none⟩ ∧
     (aRemote false (.context .st)).sent ≤ t.time ∧ t.incOf 9 < 2 ∧ t.time < (aRemote false (.context .st)).sent + 20000 ∧
     (∀ y ∈ t.fab.remote, y.id = 5 → y = aRemote false (.context .st)) ∧ (∀ b ∈ t.fab.batches, b.serial ≠ 5) ∧ (∀ c ∈ t.fab.colls, c.id ≠ 5)) ∧
    (aRemote false (.context .st)).sent + 20000 ≤ (fabState 20100 id).time ∧
    -- an incarnation of package 9 with an open channel, and one already known
    9 ≠ (fabState 0 id).pkg ∧ (fabState 0 id).incOf 9 < 1 ∧ (endAt recvW .opened 0 0 0 [] []).incOf 9 < 1 ∧
    ((endAt recvW .opened 0 0 0 [] []).chan 31).state = .opened ∧ ((endAt recvW .opened 0 0 0 [] []).chan 31).peer = 9 ∧
    1 ≤ (fabState 0 fun f => { f with incs := [(9, 1)] }).incOf 9 ∧ 5 < 6 ∧
    -- a store of a gang that has completed, and of one that has not
    (¬ (∃ j ∈ (fabState 0 id).gangOf 127, ((fabState 0 id).core j).seq = .complete) ∧
     let s := fabState 0 id
     let t := s.setCore 127 { s.core 127 with seq := .complete }
     ∀ j ∈ t.gangOf 127, (t.core j).seq = .complete) ∧
    -- a message without a confirmation for 20 µs
    (let s := endAt sendW .opened 1 0 0 [] [⟨0, 77, 0, 127, 3, false, false⟩]
     let t : State := { s.setEng 127 .c { s.eng 127 .c with flight := [{ Flight.plain 5 0 with wait := .message 31 0 }] } with time := 20000 }
     t.fab.parked = [] ∧ t.fab.remote = [] ∧ t.fab.batches = [] ∧ (∀ i : Fin 32, i ≠ 31 → (t.chan i).sent = []) ∧
     (t.chan 31).sent = [⟨0, 77, 0, 127, 3, false, false⟩] ∧ 0 + 20000 ≤ t.time ∧ t.boundStage 31 = none ∧
     (t.eng 127 .c).flight.map (·.wait) = [.message 31 0] ∧ (t.core 127).fault = none) ∧
    -- every port is down, and none; what waits for one
    (let p := fabState 0 fun f => { f with batches := [aBatch [1, 1] none], portsDown := [0, 1, 2, 3, 4, 5], parked := [(9, false, .batch 9 2 5 .add [])] }
     p.fab.parked = [(9, false, .batch 9 2 5 .add [])] ∧ p.wanted (.batch 9 2 5 .add []) = true ∧ 9 ≠ p.pkg ∧
     (∀ q, q < 6 → q ∈ p.fab.portsDown) ∧ (fabState 0 id).fab.portsDown = [] ∧ p.coreFalls 127 = false) := by
  have hg : ∀ a, 0x1FFFF8 ≤ a → a < 0x1FFFF8 + 8 → (fabState 0 id).mem.gradeAt a ≠ 3 := by
    intro a h1 h2
    obtain rfl | rfl | rfl | rfl | rfl | rfl | rfl | rfl : a = 0x1FFFF8 ∨ a = 0x1FFFF9 ∨ a = 0x1FFFFA ∨ a = 0x1FFFFB ∨ a = 0x1FFFFC ∨
      a = 0x1FFFFD ∨ a = 0x1FFFFE ∨ a = 0x1FFFFF := by omega
    all_goals decide +kernel
  and_intros
  all_goals first
    | exact hg
    | decide +kernel

/-! ### Groups -/

/-- Group 15: this package of rank 0 in a group with `more` other members, the pod-barrier span of PASID 0, one core a member. -/
def groupState (more : Nat) (f : Fabric → Fabric) : State :=
  let s := memState true id
  s.setFab (f { s.fab with groups := [(120, BitVec.ofNat 64 (3 * 2 ^ 62 + more * 256)), (121, 0x20800)] })
def aColl (more : Nat) (r : Option RingRun) (d : Option DriftRun) : Coll :=
  ⟨5, 15, 0, more, some (127, 31), none, 0, [], 0x42, 3, r, d, false⟩
def aRing (op : Nat) (terms : List RingTerms) : RingRun := ⟨op, .int32, .int32, 2, 0, 0x20400, terms⟩
def terms0 : RingTerms := ⟨0, [0x7FFFFFFF, 0x80000000]⟩
def terms1 : RingTerms := ⟨1, [1, 0xFFFFFFFF]⟩
def aDesc : DriftDesc := { (default : DriftDesc) with rcap := 1, ocap := 1, rsize := 16, res := 0x20400 }
/-- One record of this member, in bin 1. -/
def aDrift (loads : List (Nat × List Nat)) (offers : List (Nat × Nat)) : DriftRun := ⟨aDesc, [List.replicate 16 7], [1], loads, offers, [], [], false, []⟩
def collOn (more : Nat) (r : Option RingRun) (d : Option DriftRun) : State := groupState more fun f => { f with colls := [aColl more r d] }
/-- A gang of two cores, 126 and 127, as instance 3, the token at one of its ranks. -/
def gangState (busy tokenBlack round : Bool) (rank : Nat) : State :=
  let s := State.reset.setCmd { State.reset.cmd with insts := [{ (default : Inst) with ctxid := 3, base := 126, ncores := 2 }] }
  let t := s.setCore 126 { s.core 126 with inst := some 3, trm := ⟨busy, false, rank == 0, tokenBlack, round, false⟩ }
  t.setCore 127 { t.core 127 with inst := some 3, disp := { (t.core 127).disp with grank := 1 }, trm := ⟨busy, false, rank == 1, tokenBlack, round, false⟩ }
/-- A COLL node with its descriptor at 0x20000, one range. -/
def collNum (op n : Nat) : Nat := op + 5 * 2 ^ 16 + 5 * 2 ^ 20 + 0x20100 * 2 ^ 64 + 0x20200 * 2 ^ 128 + (15 * 2 ^ 32 + n) * 2 ^ 192 + (2 ^ 63 + 2 ^ 41 + 2) * 2 ^ 256
def collReady (n : Nat) (colls : List Coll) : State :=
  let s := groupState 1 fun f => { f with colls := colls, ringEast := 0 }
  (s.setCmd { s.cmd with nodes := [{ nodeOf 4 4 (.ready 7) with desc := collNum 0xCC n, ranges := [⟨0x20000, 65536, true⟩] }] }).setQueue 4095 qOn

theorem witness_BarriersAndCollectivesOfThePod :
    -- a pod barrier of two members: the first to arrive, and the last; a core of the span
    15 < 16 ∧ (let s := groupState 1 id
     let w := s.barrierWord 15 0
     bitsNat w 8 12 + 1 = 2 ∧ 1 < bitsNat w 8 12 + 1 ∧ ¬ (∀ r, r < bitsNat w 8 12 + 1 → r = 1 ∨ 15 * 4096 + r ∈ s.fab.arrived) ∧
     (let t := s.setFab { s.fab with arrived := [61440] }
      ∀ r, r < bitsNat (t.barrierWord 15 0) 8 12 + 1 → r = 1 ∨ 15 * 4096 + r ∈ t.fab.arrived) ∧
     (let t := s.setCore 127 { s.core 127 with inst := some 3 }
      (t.core 127).inst ≠ none ∧ t.podSpan 127 = .group 15 0 2 1)) ∧ (Core.reset.inst = none) ∧
    -- a gang of two at the end of the package: its token at rank 1 with the first round made, and at rank 0
    (let i : Inst := { (default : Inst) with ctxid := 3, base := 126, ncores := 2 }
     (∀ r, r < 2 → (gangState false false true r).inst? 3 = some i ∧
       ∀ j, j < 2 → ((gangState false false true r).core (coreIx (126 + j))).inst = some i.ctxid ∧
         ((gangState false false true r).core (coreIx (126 + j))).disp.grank.toNat = j ∧
         (((gangState false false true r).core (coreIx (126 + j))).trm.token = true ↔ j = r)) ∧
     ((State.reset).core 126).inst ≠ some i.ctxid ∧ i.base + i.ncores ≤ 128 ∧ ((gangState true false true 1).core 127).trm.busy = true ∧
     (∀ r, r < 2 → ((gangState false false true r).core (coreIx (126 + r))).trm.busy = false ∧
       ((gangState false false true r).core (coreIx (126 + r))).trm.term = false) ∧
     (let x := ((gangState false false true 0).core 126).trm
      x.round = true ∧ x.tokenBlack = false ∧ x.black = false) ∧ 2 ≤ i.ncores) := by
  have t (P : Nat → Prop) (h0 : P 0) (h1 : P 1) (r : Nat) (h : r < 2) : P r := by
    obtain rfl | rfl : r = 0 ∨ r = 1 := by omega
    · exact h0
    · exact h1
  refine ⟨by decide, by decide +kernel, rfl, t _ ⟨by decide +kernel, t _ (by decide +kernel) (by decide +kernel)⟩
    ⟨by decide +kernel, t _ (by decide +kernel) (by decide +kernel)⟩, by decide +kernel, by decide, by decide +kernel, t _ (by decide +kernel) (by decide +kernel),
    by decide +kernel⟩

theorem collOn_colls (more : Nat) (r : Option RingRun) (d : Option DriftRun) : (collOn more r d).fab.colls = [aColl more r d] := rfl

/-- The collectives of BarriersAndCollectivesOfThePod. -/
theorem witness_CollectivesOfThePod :
    -- a group with no collective, and with one
    (groupState 1 id).groupColl 15 = none ∧
    (∀ r d, (collOn 1 r d).groupColl 15 = some (aColl 1 r d) ∧
      (collOn 1 r d).fab.colls.find? (fun y => y.id == (aColl 1 r d).id) = some (aColl 1 r d) ∧ (aColl 1 r d).core = some (127, 31)) ∧
    -- CRING: the sender to the west; terms that go on, are the last, and do not fit
    (let x := aRing 0 [terms0]
     1 = (0 + 1) % (1 + 1) ∧ 2 ≠ (0 + 1) % (1 + 1) ∧ terms1.elems.length = x.n ∧ [(1 : W32)].length ≠ x.n ∧ 1 < 2 ∧ terms1.rank ≤ 1 ∧
     (∀ z ∈ x.terms, z.rank ≠ terms1.rank) ∧ (∀ r, r ≤ 1 → r = terms1.rank ∨ ∃ z ∈ x.terms, z.rank = r) ∧
     ¬ (∀ r, r ≤ 2 → r = terms1.rank ∨ ∃ z ∈ x.terms, z.rank = r) ∧ x.terms = [terms0] ∧ terms0.elems.length = x.n ∧ x.fs = .int32 ∧ x.fd = .int32 ∧
     x.op = 0 ∧ (aRing 2 [terms0]).op = 2) ∧
    -- Drift: the loads, the offers and the records of member 1
    (1 : Nat) ≠ 0 ∧ 1 ≤ 1 ∧ (let bins := if aDesc.kmode = 3 then 0 else aDesc.bins
     [1, 0].length = bins ∧ [1].length ≠ bins) ∧
    (∀ l ∈ (aDrift [] []).loads, l.1 ≠ 1) ∧ (aDrift [(1, [1, 0])] []).allLoads 2 = false ∧
    (∀ o ∈ (aDrift [] []).offers, o.1 ≠ 1) ∧ (aDrift [(0, [0, 1]), (1, [1, 0])] [(1, 4)]).allOffers 3 0 = false ∧
    (let x := aDrift [(0, [0, 1]), (1, [1, 0])] [(1, 0)]
     x.allLoads 2 = true ∧ (∀ o ∈ x.replies, o.member ≠ 1) ∧ ({ x with replies := [⟨1, 0, false, false⟩] } : DriftRun).complete 2 0 = true ∧
     x.toSend 2 0 1 0 ≠ [] ∧ x.toSend 2 0 1 1 = []) ∧
    ({ aDrift [(0, [0, 1]), (1, [1, 0])] [] with replies := [⟨1, 0, false, false⟩] } : DriftRun).complete 2 0 = false ∧
    -- one that may end, and one that may not; no end of it is under way
    (let d : DriftRun := { aDrift [] [] with told := true, written := [1] }
     (collOn 1 none (some d)).collDone 5 = true ∧ (collOn 1 none (some (aDrift [] []))).collDone 5 = false) ∧
    ((collOn 1 none none).eng 127 .c).flight = [] ∧ (collOn 1 none none).fab.portsDown = [] := by
  have all (P : Nat → Prop) (h0 : P 0) (h1 : P 1) (r : Nat) (h : r ≤ 1) : P r := by
    obtain rfl | rfl : r = 0 ∨ r = 1 := by omega
    · exact h0
    · exact h1
  refine ⟨by decide +kernel, fun _ _ => ⟨by simp [State.groupColl, collOn_colls, aColl], by simp [collOn_colls], rfl⟩, ?_, by decide, by decide, by decide +kernel, by decide +kernel, by decide +kernel,
    by decide +kernel, by decide +kernel, by decide +kernel, by decide +kernel, by decide +kernel, by rfl, by rfl⟩
  refine ⟨by decide, by decide, by decide, by decide, by decide, by decide, by decide, all _ (.inr ⟨terms0, by decide⟩) (.inl rfl), ?_, by decide +kernel⟩
  intro h
  obtain h | ⟨z, hz, h⟩ := h 2 (by decide)
  · exact absurd h (by decide)
  · have : z = terms0 := by simpa [aRing] using hz
    rw [this] at h; exact absurd h (by decide)

theorem ok_of {ε α : Type} {o : Except ε α} (h : isError o = false) : ∃ t, o = .ok t := by
  cases o with
  | error t => cases h
  | ok x => exact ⟨x, rfl⟩

/-- The COLL nodes of BarriersAndCollectivesOfThePod: descriptors that are misaligned, not translated, whole, and with ranges that overlap;
a node that begins, one that waits for the group's collective, one that faults. -/
theorem witness_CollNodes :
    (∀ va ph n, ∃ x, (cmdState 4 va ph 64 n).node? 4095 4 = some x ∧ x.cmd.kind = 4 ∧ x.phase = ph ∧ x.cmd.payload = va) ∧
    bitsNat 0x20001 0 64 % 64 ≠ 0 ∧ bitsNat 0x20000 0 64 % 64 = 0 ∧
    (∃ e, (cmdState 4 0x40000 .due 64 0).ownDests 0 0x40000 64 .read = .error e) ∧
    (∃ u, OwnAt (cmdState 4 0x20000 .due 64 (collNum 0xCC 2)) 0 0x20000 64 .read 0x20000 u) ∧
    (let entry (v i : Nat) : Option LeaseRange :=
       let e := bitsNat v (256 + 64 * i) 64
       if e / 2 ^ 41 % 2 ^ 22 = 0 then none else some ⟨e % 2 ^ 41 * 65536, e / 2 ^ 41 % 2 ^ 22 * 65536, e / 2 ^ 63 == 1⟩
     let fine (v : Nat) : Prop := (v % 256 = 0xCC ∨ v % 256 = 0xCD) ∧ bitsNat v 24 40 = 0 ∧
       ((List.range 4).filterMap (entry v)).Pairwise fun a b => a.base + a.len ≤ b.base ∨ b.base + b.len ≤ a.base
     fine (collNum 0xCC 2) ∧ ¬ fine (collNum 0xCE 2) ∧ ¬ fine (collNum 0xCD 2 + (2 ^ 63 + 2 ^ 41 + 2) * 2 ^ 320)) ∧
    (∃ x, (collReady 2 []).node? 4095 4 = some x ∧ x.cmd.kind = 4 ∧ x.phase = .ready 7 ∧ (collReady 2 []).mgmt.pstate = .active ∧
      ∃ t, (collReady 2 []).beginColl x = .ok t) ∧
    (∃ x, (collReady 2 [aColl 1 none none]).node? 4095 4 = some x ∧ x.cmd.kind = 4 ∧ x.phase = .ready 7 ∧
      ∃ t, (collReady 2 [aColl 1 none none]).beginColl x = .ok t) ∧
    (∃ x, (collReady 0 []).node? 4095 4 = some x ∧ x.cmd.kind = 4 ∧ x.phase = .ready 7 ∧ ∃ t, (collReady 0 []).beginColl x = .error t) ∧
    -- a full fault ring
    (let s := collReady 0 []
     let t := s.setCmd { s.cmd with frcfg := 1, frtail := 64 }
     t.mgmt.pstate = .active ∧ t.cmd.frwait = [] ∧ t.cmd.frcfg.getLsbD 0 = true ∧ (t.cmd.frtail - t.cmd.frhead).toNat = 2 ^ (bitsNat t.cmd.frcfg.toNat 4 4 + 6) ∧
     ∃ x e, t.node? 4095 4 = some x ∧ x.phase = .ready 7 ∧ t.beginColl x = .error e) ∧
    ((collReady 2 []).setMgmt { (collReady 2 []).mgmt with pstate := .parking }).mgmt.pstate ≠ .active := by
  let nd (n : Nat) : Node := { nodeOf 4 4 (.ready 7) with desc := collNum 0xCC n, ranges := [⟨0x20000, 65536, true⟩] }
  refine ⟨fun _ _ _ => ⟨_, rfl, rfl, rfl, rfl⟩, by decide, by decide, error_of (by decide +kernel), own_of _ _ _ _ (by decide +kernel), by decide +kernel,
    ⟨nd 2, by decide +kernel, rfl, rfl, rfl, ok_of (by decide +kernel)⟩, ⟨nd 2, by decide +kernel, rfl, rfl, ok_of (by decide +kernel)⟩,
    ⟨nd 0, by decide +kernel, rfl, rfl, error_of (by decide +kernel)⟩,
    ⟨by decide +kernel, by decide +kernel, by decide +kernel, by decide +kernel, ?_⟩, by decide +kernel⟩
  obtain ⟨e, h⟩ := error_of (o := ((collReady 0 []).setCmd { (collReady 0 []).cmd with frcfg := 1, frtail := 64 }).beginColl (nd 0)) (by decide +kernel)
  exact ⟨nd 0, e, by decide +kernel, rfl, h⟩

/-! ### The module -/

def mgState (now : Nat) (f : Mgmt → Mgmt) : State :=
  let s := memState false id
  { s.setMgmt (f s.mgmt) with time := now }
def sensors (power : Nat) (die stack : Int) : Sensors := ⟨power, [die], [stack], false⟩
def hotter (x : Sensors) (die stack : Int) : Prop := (∃ t ∈ x.dieTemp, die ≤ t) ∨ ∃ t ∈ x.stackTemp, stack ≤ t

theorem witness_PowerAndParking :
    -- heat that is a trip, and that is none
    hotter (sensors 0 1760 0) (16 * 110) (16 * 100) ∧ hotter (sensors 0 0 1600) (16 * 110) (16 * 100) ∧ ¬ hotter (sensors 0 1759 1599) (16 * 110) (16 * 100) ∧
    -- an error of stack 0, which D corrects and P does not
    (let s := memState false fun m => { m with grades := [(0, 1)] }
     (s.mem.homeAt (0 * 64)).1 = 0 ∧ 0 * 64 < s.mem.memcap ∧ corrects (s.mem.gradeAt (0 * 64)) [5] = true ∧
     corrects ((mgState 0 id).mem.gradeAt (0 * 64)) [5] = false) ∧
    (mgState 10000 id).mgmt.lastTick + 10000 ≤ (mgState 10000 id).time ∧ (mgState 9999 id).time < (mgState 9999 id).mgmt.lastTick + 10000 ∧
    -- above the limit, at its ends; hot; between; cold again; still hot; below 95 %
    (let limit (p : Nat) := max 1200 (min 2400 p)
     limit 2500 < 2401 ∧ limit 0 < 1201 ∧ ¬ limit 2400 < 2400 ∧ 95 * limit 2400 ≤ 100 * 2400 ∧ 100 * 2279 < 95 * limit 2400) ∧
    hotter (sensors 0 1600 0) (16 * 100) (16 * 90) ∧ hotter (sensors 0 0 1440) (16 * 100) (16 * 90) ∧
    ¬ hotter (sensors 0 1599 1439) (16 * 100) (16 * 90) ∧ ¬ hotter (sensors 0 1520 1360) (16 * 95 + 1) (16 * 85 + 1) ∧
    hotter (sensors 0 1521 0) (16 * 95 + 1) (16 * 85 + 1) ∧ (mgState 10000 fun g => { g with hot := true }).mgmt.hot = true ∧
    -- parking
    (mgState 0 id).mgmt.pstate = .active ∧
    (let s := mgState 0 fun g => { g with pstate := .parking }
     s.mgmt.pstate = .parking ∧ s.cmd.insts = [] ∧ s.mem.calv = .stable ∧ s.mem.tmcmd.getLsbD 62 = false ∧
     (s.setCmd { s.cmd with insts := [default] }).cmd.insts ≠ []) ∧
    -- a window of an hour: before the threshold, at it with the queue off, posted, disabled; the next window
    (let s := mgState 3599999999999 fun g => { g with swth := 5, windowCount := g.windowCount.set 7 3 }
     s.time < s.mgmt.windowStart[7] + 3600000000000 ∧ s.mgmt.windowCount[7] + 1 < s.mgmt.swth.toNat) ∧
    (let s := mgState 3599999999999 fun g => { g with swth := 5, windowCount := g.windowCount.set 7 4 }
     s.time < s.mgmt.windowStart[7] + 3600000000000 ∧ s.mgmt.swth ≠ 0 ∧ s.mgmt.swth.toNat ≤ s.mgmt.windowCount[7] + 1 ∧
     s.mgmt.windowPosted[7] = false ∧ s.cmd.nqcfg.getLsbD 0 = false) ∧
    (mgState 0 fun g => { g with windowPosted := g.windowPosted.set 7 true }).mgmt.windowPosted[7] = true ∧
    (mgState 0 fun g => { g with swth := 0 }).mgmt.swth = 0 ∧
    (let s := mgState 3600000000000 id
     s.mgmt.windowStart[7] + 3600000000000 ≤ s.time) := by
  refine ⟨.inl ⟨1760, by decide +kernel⟩, .inr ⟨1600, by decide +kernel⟩, ?_, by decide +kernel, by decide +kernel, by decide +kernel, by decide,
    .inl ⟨1600, by decide +kernel⟩, .inr ⟨1440, by decide +kernel⟩, ?_, ?_,
    .inl ⟨1521, by decide +kernel⟩, by rfl, by decide +kernel⟩
  · rintro (⟨t, h, g⟩ | ⟨t, h, g⟩) <;> simp [sensors] at h <;> omega
  · rintro (⟨t, h, g⟩ | ⟨t, h, g⟩) <;> simp [sensors] at h <;> omega
  · rintro (⟨t, h, g⟩ | ⟨t, h, g⟩) <;> simp [sensors] at h <;> omega

/-- The firmware's state: host memory holds given bytes from 0x1000, the buffer. -/
def fwState (bs : List Byte) (f : Mgmt → Mgmt) : State :=
  let s := State.reset
  let t := s.setMem (s.mem.write (hostFlat 0x1000) bs)
  t.setMgmt (f { t.mgmt with fwarg := 0x1000, fwlen := BitVec.ofNat 64 bs.length })

theorem ssetRun_append (l : List (Nat × Byte)) (xs ys : List Byte) (a : Nat) :
    ssetRun 0 l a (xs ++ ys) = ssetRun 0 (ssetRun 0 l a xs) (a + xs.length) ys := by
  induction xs generalizing l a with
  | nil => rfl
  | cons x xs ih => show ssetRun 0 _ (a + 1) (xs ++ ys) = _; rw [ih]; simp [ssetRun, Nat.add_assoc, Nat.add_comm 1]
theorem read_snd (m : MemSide) (a : Nat) (xs ys : List Byte) : (m.write a (xs ++ ys)).read (a + xs.length) ys.length = ys := by
  show sgetRun 0 (ssetRun 0 _ _ _) _ _ = _
  rw [ssetRun_append]; exact sgetRun_ssetRun ..
theorem read_fst (m : MemSide) (a : Nat) (xs ys : List Byte) : (m.write a (xs ++ ys)).read a xs.length = xs := by
  show sgetRun 0 (ssetRun 0 _ _ _) _ _ = _
  rw [ssetRun_append, sgetRun_congr (0 : Byte) _ (ssetRun 0 m.cells a xs) a xs.length fun i h => sget_ssetRun_ne _ _ _ _ _ (.inl (by omega))]
  exact sgetRun_ssetRun ..

/-- Whether an image passes is for values that nothing fixes (log entry 15): for each image that does, and each that does not, there is a
state with it in the buffer; the same for a key's signature. -/
theorem witness_FirmwareCommands :
    (fwState [] fun g => { g with fwbusy := true }).mgmt.fwbusy = true ∧
    (∀ bs f, (∀ g, (f g).fwbusy = g.fwbusy) → (fwState bs f).mgmt.fwbusy = false) ∧
    (∀ bs, (fwState bs id).mgmt.hostLoad = false) ∧
    (∀ bs : List Byte, bs.length ≤ 2 ^ 23 →
      let s := fwState bs fun g => { g with hostLoad := true }
      s.mgmt.hostLoad = true ∧ s.mgmt.exhausted = false ∧ s.cmd.incarn ≠ 0xFFFFFFFF ∧ s.mgmt.fwarg.toNat % 4096 = 0 ∧ s.mgmt.fwlen.toNat ≤ 2 ^ 23 ∧
      s.mem.read (hostFlat s.mgmt.fwarg.toNat) s.mgmt.fwlen.toNat = bs ∧ (∀ im, s.mgmt.verify im = Mgmt.reset.verify im)) ∧
    ((fwState [] fun g => { g with exhausted := true, hostLoad := true }).mgmt.exhausted = true) ∧
    ((fwState [] fun g => { g with fwarg := 0x1800 }).mgmt.fwarg.toNat % 4096 ≠ 0) ∧
    ((fwState [] fun g => { g with fwlen := 0x800001 }).mgmt.fwlen.toNat > 2 ^ 23) ∧
    -- an image with the wrong first byte does not pass
    (∀ g : Mgmt, g.verify [] ≠ 0) ∧
    -- ENROL, UNENROL, QUOTE
    (∀ key sig : List Byte, key.length = 56 → sig.length = 1612 →
      (fwState (key ++ sig) id).mgmt.ownerKey = none ∧ (fwState (key ++ sig) id).mem.read (hostFlat (0x1000 + 0)) 56 = key ∧
      (fwState (key ++ sig) id).mem.read (hostFlat (0x1000 + 56)) 1612 = sig ∧ (fwState (key ++ sig) id).mgmt.fwarg.toNat = 0x1000) ∧
    (∀ (k sig : List Byte) (n : Nat), sig.length = 1612 →
      let s := fwState sig fun g => { g with ownerKey := some k, nonce := some n }
      s.mgmt.ownerKey = some k ∧ s.mgmt.nonce = some n ∧ s.mem.read (hostFlat (s.mgmt.fwarg.toNat + 0)) 1612 = sig) ∧
    ((fwState [] fun g => { g with ownerKey := some [1] }).mgmt.ownerKey = some [1] ∧ (fwState [] fun g => { g with ownerKey := some [1] }).mgmt.nonce = none) ∧
    (fwState [] fun g => { g with leaf := 32768 }).mgmt.leaf = 32768 ∧ 32768 ≤ 32768 ∧
    (fwState [] fun g => { g with leaf := 32767 }).mgmt.leaf < 32768 := by
  refine ⟨rfl, fun bs f h => ?_, fun _ => rfl, fun bs h => ⟨rfl, rfl, by show (1 : Nat) ≠ 0xFFFFFFFF; decide, by show (0x1000 : W64).toNat % 4096 = 0; decide, ?_, ?_, fun im => rfl⟩,
    rfl, by show (0x1800 : W64).toNat % 4096 ≠ 0; decide, by show (0x800001 : W64).toNat > 2 ^ 23; decide, ?_,
    fun key sig hk hs => ⟨rfl, ?_, ?_, rfl⟩, fun k sig n hs => ⟨rfl, rfl, ?_⟩, ⟨rfl, rfl⟩, rfl, by decide, by show 32767 < 32768; decide⟩
  · show (f _).fwbusy = false
    rw [h]; rfl
  · show (BitVec.ofNat 64 bs.length).toNat ≤ 2 ^ 23
    rw [BitVec.toNat_ofNat]; exact Nat.le_trans (Nat.mod_le _ _) h
  · show sgetRun 0 (ssetRun 0 _ (hostFlat 0x1000) bs) (hostFlat 0x1000) (BitVec.ofNat 64 bs.length).toNat = bs
    rw [BitVec.toNat_ofNat, Nat.mod_eq_of_lt (by omega)]; exact sgetRun_ssetRun ..
  · intro g h; simp [Mgmt.verify, readImage, leNum, fwFormat] at h
  · rw [← hk]; exact read_fst ..
  · rw [← hs, show hostFlat (0x1000 + 56) = hostFlat 0x1000 + key.length by rw [hk]; rfl]; exact read_snd ..
  · rw [← hs]; exact sgetRun_ssetRun ..

/-- Whether an image passes is for values that nothing fixes (log entry 15): for each image there is a slot that holds it, over which the
checks say the same; the empty slot fails. -/
theorem witness_Resets :
    State.reset.mgmt.exhausted = false ∧ State.reset.cmd.incarn ≠ 0xFFFFFFFF ∧
    (∀ im : List Byte, (State.reset.setMgmt { State.reset.mgmt with slot := im }).mgmt.verify (State.reset.setMgmt { State.reset.mgmt with slot := im }).mgmt.slot =
      Mgmt.reset.verify im) ∧
    (State.reset.setMgmt { State.reset.mgmt with slot := [] }).mgmt.verify (State.reset.setMgmt { State.reset.mgmt with slot := [] }).mgmt.slot ≠ 0 ∧
    (State.reset.setMgmt { State.reset.mgmt with exhausted := true }).mgmt.exhausted = true ∧ State.reset.mgmt.hostLoad = false ∧
    (State.reset.setCmd { State.reset.cmd with incarn := 0xFFFFFFFF }).cmd.incarn = 0xFFFFFFFF ∧
    (State.reset.setMgmt { State.reset.mgmt with hostLoad := true }).mgmt.hostLoad = true ∧
    (let g := (State.reset.setMgmt { State.reset.mgmt with fwbusy := true, fwrun := 2, fwnext := 0 }).mgmt
     g.fwbusy = true ∧ g.fwrun = 2 ∧ g.fwnext = 0) ∧ State.reset.mgmt.fwbusy = false ∧
    (let s : State := { State.reset.setMgmt { State.reset.mgmt with powered := false } with turns := [⟨1, 1, .event .warmReset⟩] }
     s.mgmt.powered = false ∧ Act.isColdReset (s.nextTurn).1.act = false) := by
  refine ⟨rfl, by show (1 : Nat) ≠ 0xFFFFFFFF; decide, fun _ => rfl, ?_, rfl, rfl, rfl, rfl, ⟨rfl, rfl, rfl⟩, rfl, ⟨rfl, rfl⟩⟩
  intro h
  change Mgmt.verify _ [] = 0 at h
  simp [Mgmt.verify, readImage, leNum, fwFormat] at h

/-! ### Steps -/

/-- A state in which it is an agent's turn, or an event's. -/
def atTurn (s : State) (a : Act) : State := { s with turns := [⟨1, 1, a⟩] }

/-- CP of core 0 at 0x10000: with a word fetched ahead, with a line of the instruction L1 and without; an engine in a section; an event;
a core that stopped on a fault in the cycle before. -/
theorem witness_StepRunsTheDecodedWord :
    (let s := atTurn (sectionState true) (.context 0 .cp)
     let v := s.nextTurn.2.pass s.nextTurn.1
     v.mgmt.powered = true ∧ s.nextTurn.1.act = .context 0 .cp ∧ (v.ctx 0 .cp).run = .running ∧ (v.core 0).fault = none ∧ (v.ctx 0 .cp).ahead = none ∧
     0x10000 % 4 = 0 ∧ (v.core 0).il1.find? (·.pa == 0x10000 / 128 * 128) = none ∧ v.mem.poisonedAt 0x10000 4 = none ∧
     (∃ l, spaceOf 0 (v.ctx 0 .cp).pc = some (.virt (v.ctx 0 .cp).pc.toNat) ∧
       v.virtual 0 (v.ctx 0 .cp).pc.toNat 4 .fetch = .ok ((.here 0x10000 false, 4) :: l, v))) ∧
    (let s := atTurn (bufferedState true) (.context 0 .cp)
     let v := s.nextTurn.2.pass s.nextTurn.1
     (v.core 0).il1.find? (·.pa == 0x10000 / 128 * 128) = some ⟨0x10000, List.replicate 128 0, [1]⟩ ∧
     -- the word is in its sector that is sound, or in the other
     (0x10000 % 128 / 64 ∉ [1] ∧ 0x10040 % 128 / 64 ∈ [1]) ∧ (v.ctx 0 .cp).run = .running ∧
     ∃ l, v.virtual 0 (v.ctx 0 .cp).pc.toNat 4 .fetch = .ok ((.here 0x10000 false, 4) :: l, v)) ∧
    (let s := atTurn (xs0.setCtx 0 .cp { xs0.ctx 0 .cp with pc := 0x10000, run := .running, ahead := some (0x10000, 7) }) (.context 0 .cp)
     let v := s.nextTurn.2.pass s.nextTurn.1
     (v.ctx 0 .cp).run = .running ∧ (v.ctx 0 .cp).ahead = some ((v.ctx 0 .cp).pc, 7) ∧ (v.core 0).fault = none) ∧
    (let x := State.reset.withFetchWord 96 0x112831040800117FFFE00000
     let s := atTurn x (.engine 0 .a)
     let v := s.nextTurn.2.pass s.nextTurn.1
     s.nextTurn.1.act = .engine 0 .a ∧ (v.eng 0 .a).run = true ∧ (v.core 0).fault = none ∧
     ((v.eng 0 .a).cur.bind fun y => y.sec.words[y.w]?) = some 0x112831040800117FFFE00000) ∧
    (atTurn xs0 (.event .warmReset)).nextTurn.1.act = .event .warmReset ∧ (atTurn xs0 (.evaluate 7)).nextTurn.1.act = .evaluate 7 ∧
    (let s := atTurn (sectionState true) (.context 0 .cp)
     let t := s.setCore 0 { s.core 0 with fault := some { (default : FaultInfo) with cyc := 0 } }
     let v := t.nextTurn.2.pass t.nextTurn.1
     ((v.core 0).fault.map fun f => f.cyc != v.cyc.toNat) = some true) ∧
    ({ xs0 with cur := .context 127 .st } : State).cur = .context 127 .st ∧ ({ xs0 with cur := .engine 127 .c } : State).cur = .engine 127 .c := by
  refine ⟨⟨by decide +kernel, rfl, by decide +kernel, by decide +kernel, by decide +kernel, by decide, by decide +kernel, by decide +kernel,
    [], by decide +kernel, by rfl⟩, ⟨by decide +kernel, by decide, by decide +kernel, [], by rfl⟩, by decide +kernel, by decide +kernel, rfl, rfl, by decide +kernel, rfl, rfl⟩

/-- A word of each kind: of the control core, of the array, of the vector and of the copy engine, and a Firn word. -/
theorem witness_DecodeReadsWhatEncodeWrites :
    (.addi g0 31 30 (-1) : Instr).wf = true ∧ (encode (.addi g0 31 30 (-1))).isSome = true ∧
    (let i : Instr := .amma ⟨⟨1, 2⟩, ⟨⟨.r, .acc 1⟩, tile 4, tile 8, z⟩, ⟨1, 1, 63, 63, 63, 0, 0, 0, false⟩⟩
     i.wf = true ∧ (encode i).isSome = true) ∧
    (let i : Instr := .vfma ⟨⟨1, 2⟩, ⟨tile 10, tile 4, tile 5, ⟨.b, .tile 6⟩⟩, ⟨1, 0, 7, false, true, 3, 0, 0, 63, 0, 0⟩⟩
     i.wf = true ∧ (encode i).isSome = true) ∧
    (let i : Instr := .cgath ⟨⟨1, 1⟩, ⟨tile 8, tile 2, z, z⟩, ⟨2, 2, 0, 10, 11, 12, 19, 0, true, false, 0⟩⟩
     i.wf = true ∧ (encode i).isSome = true) := by
  decide +kernel

theorem witness_EngineWordFrame : computesOn (.amma (amOf ⟨accu 1, tile 1, tile 2, z⟩ ⟨1, 1, 63, 63, 63, 64, 0, 0, true⟩)) = some .a ∧ arr.cur = .engine 0 .a ∧
    (∃ t, exec (.amma (amOf ⟨accu 1, tile 1, tile 2, z⟩ ⟨1, 1, 63, 63, 63, 64, 0, 0, true⟩)) arr = .next t) ∧
    writesE (.amma (amOf ⟨accu 1, tile 1, tile 2, z⟩ ⟨1, 1, 63, 63, 63, 64, 0, 0, true⟩)) = false ∧
    writesMask (.amma (amOf ⟨accu 1, tile 1, tile 2, z⟩ ⟨1, 1, 63, 63, 63, 64, 0, 0, true⟩)) = false ∧
    writesTile (.amma (amOf ⟨accu 1, tile 1, tile 2, z⟩ ⟨1, 1, 63, 63, 63, 64, 0, 0, true⟩)) = false ∧
    writesAcc (.vfma ⟨⟨1, 2⟩, ⟨tile 10, tile 4, tile 5, ⟨.b, .tile 6⟩⟩, ⟨1, 0, 7, false, true, 3, 0, 0, 63, 0, 0⟩⟩) = false :=
  ⟨by decide, rfl, ⟨_, rfl⟩, by decide +kernel⟩

/-- A state with bytes in memory, a line to write back and a step; the reserved bits are zero in it. -/
theorem witness_MemoryStaysCanonical : (let s := atTurn (memState true id) (.event .warmReset)
    Memory.wf s.mem.cells = true ∧ s.mem.cells ≠ [] ∧ ∃ t, step s = .next t) := by
  refine ⟨by decide +kernel, by decide +kernel, ⟨_, rfl⟩⟩
theorem witness_ReservedBitsStayZero : (let s := atTurn State.reset (.event .warmReset)
    (∀ k, (s.core k).fcsr &&& 0xFFFFFFC8 = 0 ∧ ∀ n : Fin 48, (s.core k).tshape[n] &&& 0x3FF = 0) ∧ ∃ t, step s = .next t) := by
  refine ⟨fun k => ?_, ⟨_, rfl⟩⟩
  have h : (atTurn State.reset (.event .warmReset)).core k = Core.reset := by simp [atTurn, State.core, State.reset]
  rw [h]; decide +kernel

/-- The notices of PowerAndParking: the queue with one place left, full; a window that has passed. -/
theorem witness_StackWarnings :
    (let s := (mgState 3599999999999 fun g => { g with swth := 5, windowCount := g.windowCount.set 7 4 })
     let t := s.setCmd { s.cmd with nqcfg := 1, nqtail := 1023 }
     t.mgmt.swth ≠ 0 ∧ t.mgmt.swth.toNat ≤ t.mgmt.windowCount[7] + 1 ∧ t.mgmt.windowPosted[7] = false ∧ t.cmd.nqcfg.getLsbD 0 = true ∧
     (t.cmd.nqtail - t.cmd.nqhead).toNat < 1024 ∧ (∃ u, OwnAt t 0 (0x23000 + 32 * 1023) 32 .write (0x23000 + 32 * 1023) u) ∧
     1024 ≤ ((t.setCmd { t.cmd with nqtail := 1024 }).cmd.nqtail - t.cmd.nqhead).toNat) ∧
    (let s := mgState 3600000000000 fun g => { g with swth := 2 }
     s.mgmt.windowStart[7] + 3600000000000 ≤ s.time ∧ 1 < s.mgmt.swth.toNat) := by
  refine ⟨⟨by decide +kernel, by decide +kernel, by decide +kernel, by decide +kernel, by decide +kernel, own_of _ _ _ _ (by decide +kernel),
    by decide +kernel⟩, by decide +kernel⟩

/-- Numbers: encodings of each kind in K8, and a magnitude (15 * 2^e) beyond the range, at its tie and within; conversions of 300 and of -8. -/
theorem witness_NumbersAndConversions :
    Fmt.k8 ∈ [Fmt.fp32, .bf16, .fp16, .k8, .k8w] ∧ 0x80 < 2 ^ Fmt.k8.width ∧ 0x7F / 2 ^ 3 % 2 ^ 4 = 15 ∧ 0x07 / 2 ^ 3 % 2 ^ 4 = 0 ∧
    0x7C00 / 2 ^ 10 % 2 ^ 5 = 2 ^ 5 - 1 ∧ Fmt.fp16 ≠ .k8 ∧
    FVal.ofBits .fp16 0x7E00 = .nan ∧ FVal.ofBits .fp16 0xFC00 = .inf true ∧ FVal.ofBits .fp16 0x3C00 = .fin false 1024 (-10) ∧
    240 ≤ 15 * 2 ^ 4 ∧ 240 < 248 ∧ 240 + 16 / 2 ≤ 31 * 2 ^ 3 ∧ 240 + 16 ≤ 2 ^ 8 ∧ Fmt.int16 ≠ .int8 ∧ Fmt.int16 ∈ [Fmt.int32, .int16, .int8, .uint8, .int4] ∧
    300 < 2 ^ Fmt.int16.width ∧ 2 ^ (Fmt.int8.width - 1) - 1 < 300 ∧ (if 2 ^ (Fmt.int4.width - 1) ≤ 8 then (8 : Int) - 2 ^ Fmt.int4.width else 8) < 0 := by
  decide

end Sys2Proof.Tests
end

section
/-! Memory keeps its canonical form (log entry 8) in every step. Only the operations of the memory side, a clearing of pads and a reset
touch the cells, and each of them has its lemma in Laws (`write_canon`, `writeBack_canon`, `discard_canon` and so on). The rules below
carry that through the model from callee to caller: `f_canon` says that `f` keeps the form, an equivalence that `f` leaves the memory
side as it is. Each rule splits the definition into its branches and cites the rules of the functions that a branch calls; an operation
that hands the state to a continuation takes "the continuation keeps the form" as a hypothesis. -/

set_option Elab.async false

namespace Sys2Proof.Machine

/-! ### Results that carry a state

The state in a result, where there is one, is canonical. `π` says which part of a result is the state. -/

@[simp] def Out.Canon : Out → Prop
  | .next t => t.Canon
  | .fault _ | .refused _ => True

@[simp] def Got.Canon {α : Type} : Got α → Prop
  | .ok _ s | .wait s => s.Canon
  | .trap _ => True

@[simp] def AccCanon {α : Type} (π : α → State) : Acc α → Prop
  | .ok a => (π a).Canon
  | .trap _ | .wait => True

@[simp] def OkCanon {ε α : Type} (π : α → State) : Except ε α → Prop
  | .ok a => (π a).Canon
  | .error _ => True

@[simp] def SomeCanon {α : Type} (π : α → State) : Option α → Prop
  | some a => (π a).Canon
  | none => True

@[simp] def Iss.Canon : Iss → Prop
  | .ok s _ => s.Canon
  | .trap _ | .hold => True

@[simp] def Come.Canon : Come → Prop
  | .all _ _ _ s | .wait s => s.Canon
  | .trap _ => True

@[simp] def Posted.Canon : Posted → Prop
  | .written _ s | .off s => s.Canon
  | .full => True

@[simp] def Walked.Canon : Walked → Prop
  | .done _ s | .missing _ _ _ _ s => s.Canon

@[simp] def Fetch.Canon : Fetch → Prop
  | .got _ s => s.Canon
  | .missing _ | .failed => True

@[simp] def Parse.Canon {α : Type} : Parse α → Prop
  | .ok _ s => s.Canon
  | .bad | .fetch .. => True

@[simp] def CpRead.Canon : CpRead → Prop
  | .all _ _ _ s | .wait s => s.Canon

@[simp] def TripRead.Canon : TripRead → Prop
  | .count _ s | .wait s => s.Canon
  | .bad _ => True

@[simp] def CollRead.Canon : CollRead → Prop
  | .got _ s | .wait s => s.Canon
  | .bad _ => True

/-! ### Updates that leave the memory side as it is -/

variable {s : State} {m : MemSide}

@[simp] theorem setCore_canon {k c} : (s.setCore k c).Canon ↔ s.Canon := .rfl
@[simp] theorem setQuad_canon {q x} : (s.setQuad q x).Canon ↔ s.Canon := .rfl
@[simp] theorem setCmd_canon {c} : (s.setCmd c).Canon ↔ s.Canon := .rfl
@[simp] theorem setFab_canon {f} : (s.setFab f).Canon ↔ s.Canon := .rfl
@[simp] theorem setStages_canon {x} : (s.setStages x).Canon ↔ s.Canon := .rfl
@[simp] theorem setMgmt_canon {x} : (s.setMgmt x).Canon ↔ s.Canon := .rfl
@[simp] theorem setMem_canon {m} : (s.setMem m).Canon ↔ m.Canon := .rfl
@[simp] theorem send_canon {m} : (s.send m).Canon ↔ s.Canon := .rfl
@[simp] theorem setCtx_canon {k c x} : (s.setCtx k c x).Canon ↔ s.Canon := .rfl
@[simp] theorem setEng_canon {k e x} : (s.setEng k e x).Canon ↔ s.Canon := .rfl

/-! ### Faults, and the control words that work on registers alone -/

theorem sendOut_canon {fb target m'} (h : s.Canon) : (s.sendOut fb target m').Canon := by
  fun_cases State.sendOut <;> grind only [send_canon, setFab_canon]
@[simp] theorem advance_canon {k c} : (s.advance k c).Canon ↔ s.Canon := .rfl
theorem raise_canon {k agent loc t} (h : s.Canon) : (s.raise k agent loc t).Canon := by
  fun_cases State.raise <;> grind only [setCore_canon]
theorem raiseCtx_canon {k c t} (h : s.Canon) : (s.raiseCtx k c t).Canon := raise_canon h
theorem ctl_canon {g body} (h : s.Canon) (hb : ∀ k c x, Out.Canon (body k c x)) : Out.Canon (ctl s g body) := by
  fun_cases ctl <;> grind only [Out.Canon, advance_canon]
theorem ctlX_canon {g rd f} (h : s.Canon) : Out.Canon (ctlX s g rd f) := ctl_canon h fun _ _ _ => h
theorem ctlP_canon {g pd f} (h : s.Canon) : Out.Canon (ctlP s g pd f) := ctl_canon h fun _ _ _ => h
theorem aluR_canon {f g rd ra rb} (h : s.Canon) : Out.Canon (aluR f g rd ra rb s) := ctlX_canon h
theorem aluR1_canon {f g rd ra} (h : s.Canon) : Out.Canon (aluR1 f g rd ra s) := ctlX_canon h
theorem aluI_canon {f g rd ra imm} (h : s.Canon) : Out.Canon (aluI f g rd ra imm s) := ctlX_canon h
theorem execJalr_canon {g rd ra imm} (h : s.Canon) : Out.Canon (execJalr g rd ra imm s) :=
  ctl_canon h fun k c x => by dsimp only; split; exacts [raiseCtx_canon h, h]

/-! ### Translation, the L1 and the bytes of a load or a store -/

@[simp] theorem holdLeaf_canon {k t} : (s.holdLeaf k t).Canon ↔ s.Canon := .rfl
theorem translate_canon {k pasid va} (h : s.Canon) : (s.translate k pasid va).2.Canon := by
  fun_cases State.translate <;> grind only [holdLeaf_canon]
theorem ats_canon {pasid addr} (h : s.Canon) : (s.ats pasid addr).2.Canon := by
  fun_cases State.ats <;> grind only [MemSide.Canon, State.Canon, setMem_canon]
theorem pageDest_canon {k pasid va n need} (h : s.Canon) : OkCanon Prod.snd (s.pageDest k pasid va n need) := by
  fun_cases State.pageDest <;> grind only [OkCanon, translate_canon, ats_canon]
theorem windowDest_canon {pasid va hwo} (h : s.Canon) : OkCanon Prod.snd (s.windowDest pasid va hwo) := by
  fun_cases State.windowDest <;> grind only [OkCanon]
theorem destAll_canon {f l} (h : s.Canon) (hf : ∀ t a b, t.Canon → OkCanon Prod.snd (f t a b)) :
    OkCanon Prod.snd (s.destAll f l) := by
  fun_induction State.destAll <;> grind only [OkCanon]
theorem virtual_canon {k va n need} (h : s.Canon) : OkCanon Prod.snd (s.virtual k va n need) := by
  fun_cases State.virtual
  case case3 => exact destAll_canon h fun t a b ht => windowDest_canon ht
  case case5 => exact destAll_canon h fun t a b ht => pageDest_canon ht
  all_goals trivial
theorem dropL1_canon {k} (h : s.Canon) : (s.dropL1 k).Canon := flushLines_canon h _ _ _
theorem l1Part_canon {k ea va flat n} (h : s.Canon) : AccCanon Prod.snd (s.l1Part k ea va flat n) := by
  fun_cases State.l1Part <;> grind only [AccCanon, setCore_canon]
theorem accBind_canon {α β : Type} {π : α → State} {ρ : β → State} {x : Acc α} {f : α → Acc β} (hx : AccCanon π x)
    (hf : ∀ a, (π a).Canon → AccCanon ρ (f a)) : AccCanon ρ (x.bind f) := by
  cases x with
  | ok a => exact hf a hx
  | trap | wait => trivial
theorem l1Load_canon {k va flat n} (h : s.Canon) : AccCanon Prod.snd (s.l1Load k va flat n) := by
  fun_cases State.l1Load
  · exact l1Part_canon h
  · exact accBind_canon (l1Part_canon h) fun p hp => accBind_canon (l1Part_canon hp) fun q hq => hq
theorem l1Put_canon {k va flat bs} (h : s.Canon) : AccCanon id (s.l1Put k va flat bs) := by
  fun_cases State.l1Put
  · trivial
  · exact h
theorem l1Store_canon {k va flat bs} (h : s.Canon) : AccCanon id (s.l1Store k va flat bs) := by
  fun_cases State.l1Store
  · exact l1Put_canon h
  · exact accBind_canon (l1Put_canon h) fun t ht => l1Put_canon ht
theorem sendRemote_canon {k who loc ea cls target inc addr len data} (h : s.Canon) :
    (s.sendRemote k who loc ea cls target inc addr len data).2.Canon := by
  fun_cases State.sendRemote
  grind only [setFab_canon, sendOut_canon]
theorem remoteLoad_canon {k c ea cls target inc addr n} (h : s.Canon) : (s.remoteLoad k c ea cls target inc addr n).Canon := by
  fun_cases State.remoteLoad
  grind only [sendRemote_canon, setCtx_canon]
theorem loadBytes_canon {k c ea cls n} (h : s.Canon) : (s.loadBytes k c ea cls n).Canon := by
  fun_cases State.loadBytes <;> grind only [AccCanon, Got.Canon, OkCanon, setCtx_canon, setQuad_canon, virtual_canon, l1Load_canon,
    remoteLoad_canon]
theorem storeBytes_canon {k c ea cls bs} (h : s.Canon) : (s.storeBytes k c ea cls bs).Canon := by
  fun_cases State.storeBytes <;> grind only [AccCanon, Got.Canon, OkCanon, State.Canon, id_eq, setQuad_canon, setMem_canon, write_canon,
    virtual_canon, l1Store_canon, sendRemote_canon]
theorem run_canon {α : Type} {g : Got α} {k c f} (h : s.Canon) (hg : g.Canon) (hf : ∀ a t, t.Canon → Out.Canon (f a t)) :
    Out.Canon (g.run s k c f) := by
  cases g with
  | ok a t => exact hf a t hg
  | trap => exact raiseCtx_canon h
  | wait => exact hg

/-! ### Loads, stores and the words on full-empty bits -/

theorem loadWord_canon {size ext g rd ra cls imm} (h : s.Canon) : Out.Canon (loadWord size ext g rd ra cls imm s) :=
  ctl_canon h fun k c x => by
    dsimp only; split
    · exact raiseCtx_canon h
    · exact run_canon h (loadBytes_canon h) fun _ _ ht => ht
theorem storeWord_canon {size g rs ra cls imm} (h : s.Canon) : Out.Canon (storeWord size g rs ra cls imm s) :=
  ctl_canon h fun k c x => by
    dsimp only; split
    · exact raiseCtx_canon h
    · exact run_canon h (storeBytes_canon h) fun _ _ ht => ht
theorem padAccess_canon {k c ea n size body} (h : s.Canon) (hb : ∀ q off, Out.Canon (body q off)) :
    Out.Canon (padAccess s k c ea n size body) := by
  fun_cases padAccess <;> grind only [Out.Canon, raiseCtx_canon]
theorem feAccess_canon {g ra cls imm body} (h : s.Canon) (hb : ∀ k c x ea q off, Out.Canon (body k c x ea q off)) :
    Out.Canon (feAccess s g ra cls imm body) :=
  ctl_canon h fun k c x => by
    dsimp only; split
    · exact raiseCtx_canon h
    · split
      · exact h
      · exact padAccess_canon h fun q off => hb k c x _ q off
theorem feRead_canon {k c ea q off rd} (h : s.Canon) : (feRead s k c ea q off rd).Canon := by
  fun_cases feRead <;> grind only [raiseCtx_canon, setCtx_canon]
theorem serveLoad_canon {k c} (h : s.Canon) : (serveLoad s k c).Canon := by
  fun_cases serveLoad <;> grind only [feRead_canon]
theorem serveLoads_canon {q off} (h : s.Canon) : (serveLoads s q off).Canon := by
  fun_cases serveLoads
  grind only [serveLoad_canon, foldl_state_canon]
theorem fillGranule_canon {q off} (h : s.Canon) : (s.fillGranule q off).Canon := by
  fun_cases State.fillGranule <;> grind only [setQuad_canon, serveLoads_canon]
theorem feLoad_canon {k c ea q off rd f} (h : s.Canon) (hf : ∀ t, t.Canon → (f t).Canon) :
    Out.Canon (feLoad s k c ea q off rd f) := by
  fun_cases feLoad
  · exact raiseCtx_canon h
  · exact hf _ (feRead_canon h)
theorem feStore_canon {k c x q off rs} (h : s.Canon) : Out.Canon (feStore s k c x q off rs) :=
  fillGranule_canon (s := (s.setMem _).setCtx k c _) (write_canon h _ _)
theorem execLdfeW_canon {g rd ra cls imm} (h : s.Canon) : Out.Canon (execLdfeW g rd ra cls imm s) :=
  feAccess_canon h fun k c x ea q off => by split; exacts [feLoad_canon h fun _ ht => ht, h]
theorem execLdfeE_canon {g rd ra cls imm} (h : s.Canon) : Out.Canon (execLdfeE g rd ra cls imm s) :=
  feAccess_canon h fun k c x ea q off => by split; exacts [feLoad_canon h fun _ ht => ht, h]
theorem execStfeWe_canon {g rs ra cls imm} (h : s.Canon) : Out.Canon (execStfeWe g rs ra cls imm s) :=
  feAccess_canon h fun k c x ea q off => by split; exacts [h, feStore_canon h]

/-! ### Fetching, the engines' sections and what every engine word does -/

theorem fetch_canon {l pc o} (h : s.Canon) : (ILine.fetch l pc o s).Canon := by
  fun_cases ILine.fetch <;> grind only [Got.Canon]
theorem fetchMem_canon {k c x} (h : s.Canon) : (State.fetchWord.fetchMem s k c x).Canon := by
  fun_cases State.fetchWord.fetchMem <;> grind only [Got.Canon, OkCanon, virtual_canon, fetch_canon, setCore_canon, setCtx_canon,
    sendRemote_canon]
theorem fetchWord_canon {k c} (h : s.Canon) : (s.fetchWord k c).Canon := by
  fun_cases State.fetchWord <;> grind only [Got.Canon, fetchMem_canon]
theorem execInstructionFetch_canon {core c} (h : s.Canon) : Out.Canon (execInstructionFetch core c s) := by
  fun_cases execInstructionFetch <;> grind only [Got.Canon, Out.Canon, fetchWord_canon, setCtx_canon]
theorem execFork_canon {g ra e} (h : s.Canon) : Out.Canon (execFork g ra e s) :=
  ctl_canon h fun k c x => by
    dsimp only; split
    · exact raiseCtx_canon h
    · split
      · exact h
      · split <;> exact h
theorem execJoin_canon {g es} (h : s.Canon) : Out.Canon (execJoin g es s) := ctl_canon h fun k c x => by split <;> exact h
theorem execTwait_canon {g es} (h : s.Canon) : Out.Canon (execTwait g es s) := ctl_canon h fun k c x => by split <;> exact h
theorem execTpost_canon {g es} (h : s.Canon) : Out.Canon (execTpost g es s) :=
  ctl_canon h fun k c x => by
    split
    · exact h
    · split
      · exact h
      · exact raiseCtx_canon h
theorem streamPieces_canon {k e a l off} (h : s.Canon) : (s.streamPieces k e a l off).Canon := by
  fun_induction State.streamPieces <;> grind only [Got.Canon, setEng_canon, sendRemote_canon]
theorem streamBytes_canon {k e a n} (h : s.Canon) : (s.streamBytes k e a n).Canon := by
  fun_cases State.streamBytes <;> grind only [Got.Canon, OkCanon, virtual_canon, streamPieces_canon]
theorem streamWords_canon {k e a n i} (h : s.Canon) : (s.streamWords k e a n i).Canon := by
  fun_induction State.streamWords <;> grind only [Got.Canon, streamBytes_canon]
theorem fetchSection_canon {k e a} (h : s.Canon) : (s.fetchSection k e a).Canon := by
  fun_cases State.fetchSection <;> grind only [Got.Canon, streamBytes_canon, streamWords_canon]
theorem execSectionFetch_canon {core g} (h : s.Canon) : Out.Canon (execSectionFetch core g s) := by
  fun_cases execSectionFetch <;> grind only [Got.Canon, Out.Canon, fetchSection_canon, setEng_canon]
theorem execSectionExecute_canon {core g} (h : s.Canon) : Out.Canon (execSectionExecute core g s) := by
  fun_cases execSectionExecute <;> grind only [Out.Canon, raise_canon, setEng_canon]
theorem engWord_canon {own t skip body} (h : s.Canon) (hb : ∀ i t, t.Canon → (body i t).Canon) :
    Out.Canon (engWord s own t skip body) := by
  fun_cases engWord <;> grind only [Out.Canon, Iss.Canon, setCore_canon, raise_canon, setEng_canon]
theorem execIllegalOpcode_canon {f} (h : s.Canon) : Out.Canon (execIllegalOpcode f s) := by
  fun_cases execIllegalOpcode <;> grind only [Out.Canon, raiseCtx_canon, raise_canon]
theorem execEhalt_canon {t} (h : s.Canon) : Out.Canon (execEhalt t s) := by
  fun_cases execEhalt <;> grind only [Out.Canon, raise_canon, setEng_canon, setCore_canon]
theorem execEngineWordComplete_canon {core g} (h : s.Canon) : Out.Canon (execEngineWordComplete core g s) := by
  fun_cases execEngineWordComplete <;> grind only [Out.Canon, raise_canon, setCore_canon, setEng_canon]
theorem execEskip_canon {t e cond n} (h : s.Canon) : Out.Canon (execEskip t e cond n s) :=
  engWord_canon h fun i u hu => by
    split
    · trivial
    · split
      · trivial
      · exact hu
theorem execEflag_canon {t e} (h : s.Canon) : Out.Canon (execEflag t e s) :=
  engWord_canon h fun i u hu => by split; exacts [trivial, hu]

/-! ### The engines' port to memory and the event log -/

theorem portAt_canon {k ea n need} (h : s.Canon) : (s.portAt k ea n need).Canon := by
  fun_cases State.portAt <;> grind only [Got.Canon, OkCanon, virtual_canon]
theorem writePieces_canon {k loc ea cls data bad l off} (h : s.Canon) : (s.writePieces k loc ea cls data bad l off).Canon := by
  fun_induction State.writePieces <;> grind only [setMem_canon, send_canon, write_canon, addPoison_canon, foldl_canon, sendRemote_canon,
    State.Canon]
theorem portWrite_canon {k loc ea cls data bad} (h : s.Canon) : (s.portWrite k loc ea cls data bad).Canon := by
  fun_cases State.portWrite <;> grind only [Got.Canon, portAt_canon, writePieces_canon, setQuad_canon]
theorem logEvent_canon {type src count ctxid addr info} (h : s.Canon) : (s.logEvent type src count ctxid addr info).Canon := by
  fun_cases State.logEvent <;> grind only [MemSide.Canon, State.Canon, setMem_canon]
@[simp] theorem freeBytes_canon {n} : (s.freeBytes n).2.Canon ↔ s.Canon := .rfl

/-! ### The common end of an engine word -/

@[simp] theorem done_canon {i pt r} : (Issue.done i s pt r).Canon ↔ s.Canon := .rfl

/-! ### Array words: the stores of ADRAINM -/

theorem acceptRows_canon {k upc l} (h : s.Canon) : (acceptRows s k upc l).1.Canon := by
  fun_induction acceptRows <;> grind only [Got.Canon, portWrite_canon]
@[simp] theorem freeAcc_canon {k a} : (s.freeAcc k a).Canon ↔ s.Canon := .rfl
theorem execAdrainmStoresAccepted_canon {core} (h : s.Canon) : Out.Canon (execAdrainmStoresAccepted core s) := by
  fun_cases execAdrainmStoresAccepted <;> grind only [Out.Canon, acceptRows_canon, setEng_canon, raise_canon, freeAcc_canon]

/-! ### Cache ranges and fences -/

theorem rangeOp_canon {g ra rb wb drop} (h : s.Canon) : Out.Canon (rangeOp g ra rb wb drop s) :=
  ctl_canon h fun _ _ _ => advance_canon.2 (flushLines_canon h _ _ _)
theorem fence_canon {g has f} (h : s.Canon) (hf : ∀ k, (f s k).Canon) : Out.Canon (fence g has f s) :=
  ctl_canon h fun k _ _ => by split; exacts [h, hf k]
theorem relLines_canon {sc k} (h : s.Canon) : (relLines sc s k).Canon := by
  fun_cases relLines <;> grind only [flushLines_canon]
theorem acqLines_canon {sc k} (h : s.Canon) : (acqLines sc s k).Canon := by
  fun_cases acqLines <;> grind only [dropL1_canon]

/-! ### Atomics, queues and rings -/

theorem atomicDest_canon {k ea n} (h : s.Canon) : (atomicDest s k ea n).Canon := by
  fun_cases atomicDest <;> grind only [Got.Canon, OkCanon, virtual_canon]
theorem dropLineAt_canon {k flat n} (h : s.Canon) : (dropLineAt s k flat n).Canon := flushLines_canon h _ _ _
theorem atomic_canon {op g ra rb cls dbl exp ret} (h : s.Canon) (hr : ∀ t k c v, t.Canon → (ret t k c v).Canon) :
    Out.Canon (atomic op g ra rb cls dbl exp s ret) :=
  ctl_canon h fun k c x => by
    extract_lets n ea
    split
    · exact raiseCtx_canon h
    · split
      · exact h
      · refine run_canon h (atomicDest_canon h) fun flat t ht => ?_
        split
        · exact raiseCtx_canon h
        · exact hr _ _ _ _ (setNum_canon (dropLineAt_canon ht) _ _ _)
theorem amo_canon {op g rd ra rb cls dbl} (h : s.Canon) : Out.Canon (amo op g rd ra rb cls dbl s) :=
  atomic_canon h fun _ _ _ _ ht => ht
theorem red_canon {op g ra rb cls dbl} (h : s.Canon) : Out.Canon (red op g ra rb cls dbl s) :=
  atomic_canon h fun _ _ _ _ ht => ht
theorem queueOp_canon {g ra cls f} (h : s.Canon) (hf : ∀ k c x a d slot, Out.Canon (f k c x a d slot)) :
    Out.Canon (queueOp g ra cls s f) :=
  ctl_canon h fun k c x => by
    dsimp only; split
    · exact h
    · refine padAccess_canon h fun q off => ?_
      split
      · exact raiseCtx_canon h
      · split
        · exact raiseCtx_canon h
        · exact hf ..
theorem ringOp_canon {g n consumer f} (h : s.Canon) (hf : ∀ k c r l, Out.Canon (f k c r l)) :
    Out.Canon (ringOp g n consumer s f) :=
  ctl_canon h fun k c x => by
    split
    · exact raiseCtx_canon h
    · split
      · exact raiseCtx_canon h
      · exact hf ..
@[simp] theorem setRing_canon {k n r} : (setRing s k n r).Canon ↔ s.Canon := .rfl
theorem racq_canon {k c rd n consumer avail addr r} (h : s.Canon) : Out.Canon (racq s k c rd n consumer avail addr r) := by
  fun_cases racq <;> exact h
theorem rrel_canon {k c n none_ r} (h : s.Canon) : Out.Canon (rrel s k c n none_ r) := by
  fun_cases rrel <;> grind only [Out.Canon, raiseCtx_canon, advance_canon, setRing_canon]
theorem execQpush_canon {g pd ra rb cls} (h : s.Canon) : Out.Canon (execQpush g pd ra rb cls s) :=
  queueOp_canon h fun k c x a d slot => by
    split
    · exact setNum_canon (setNum_canon h _ _ _) _ _ _
    · exact h
theorem execQpop_canon {g rd ra pd cls} (h : s.Canon) : Out.Canon (execQpop g rd ra pd cls s) :=
  queueOp_canon h fun k c x a d slot => by
    split
    · split
      · exact raiseCtx_canon h
      · exact setNum_canon h _ _ _
    · exact h

/-! ### Barriers, spans and termination -/

theorem fromPeer_canon {src inc f} (h : s.Canon) (hf : (f s).Canon) : (s.fromPeer src inc f).Canon := by
  fun_cases State.fromPeer <;> grind only [send_canon]
theorem updCores_canon {ks f} (h : s.Canon) : (s.updCores ks f).Canon := by
  fun_cases State.updCores
  grind only [setCore_canon, foldl_state_canon]
theorem completePhase_canon {k sc} (h : s.Canon) : (s.completePhase k sc).Canon := by
  fun_cases State.completePhase <;> grind only [updCores_canon]
theorem completeSpan_canon {key members sp} (h : s.Canon) : (s.completeSpan key members sp).Canon := by
  fun_cases State.completeSpan <;> grind only [updCores_canon, setFab_canon]
theorem beginPhase_canon {key} (h : s.Canon) : (s.beginPhase key).Canon := by
  fun_cases State.beginPhase <;> grind only [setFab_canon]
theorem tellSpan_canon {fb key rank sp} (h : s.Canon) : (s.tellSpan fb key rank sp).Canon := by
  fun_cases State.tellSpan
  grind only [sendOut_canon, foldl_state_canon]
theorem podArrive_canon {k key rank cores sp} (h : s.Canon) : (s.podArrive k key rank cores sp).Canon := by
  fun_cases State.podArrive <;> grind only [beginPhase_canon, setFab_canon, tellSpan_canon, completeSpan_canon]
theorem arrive_canon {k c sc} (h : s.Canon) : (s.arrive k c sc).Canon := by
  fun_cases State.arrive <;> grind only [setCore_canon, podArrive_canon, completePhase_canon]
theorem barrier_canon {g sc body} (h : s.Canon) (hb : ∀ k c x a, Out.Canon (body k c x a)) : Out.Canon (barrier s g sc body) :=
  ctl_canon h fun k c x => by split; exacts [raiseCtx_canon h, hb ..]
@[simp] theorem dropSpan_canon {key} : (s.dropSpan key).Canon ↔ s.Canon := .rfl
theorem trmDo_canon {g f} (h : s.Canon) (hf : ∀ k c x t, Out.Canon (f k c x t)) : Out.Canon (trmDo g s f) :=
  ctl_canon h fun k c x => hf k c x _
@[simp] theorem setTrm_canon {k t} : (setTrm s k t).Canon ↔ s.Canon := .rfl
theorem execTrmTokenPass_canon {ctxid} (h : s.Canon) : Out.Canon (execTrmTokenPass ctxid s) := by
  fun_cases execTrmTokenPass <;> grind only [Out.Canon, updCores_canon, setTrm_canon]
theorem execPodBarrierArrival_canon {group sender} (h : s.Canon) : Out.Canon (execPodBarrierArrival group sender s) :=
  fromPeer_canon h (by grind only [beginPhase_canon, setFab_canon, completeSpan_canon])
theorem execBarA_canon {g sc} (h : s.Canon) : Out.Canon (execBarA g sc s) :=
  barrier_canon h fun k c x a => by split; exacts [h, arrive_canon h]
theorem execBarW_canon {g sc} (h : s.Canon) : Out.Canon (execBarW g sc s) :=
  barrier_canon h fun k c x a => by split <;> exact h
theorem execBarAw_canon {g sc} (h : s.Canon) : Out.Canon (execBarAw g sc s) :=
  barrier_canon h fun k c x a => by
    split
    · split <;> exact h
    · split
      · exact h
      · dsimp only; split <;> exact arrive_canon h
theorem execTrmSend_canon {g ra} (h : s.Canon) : Out.Canon (execTrmSend g ra s) :=
  trmDo_canon h fun k c x t => by
    dsimp only; split
    · exact raiseCtx_canon h
    · split <;> exact h
theorem execTrmIdle_canon {g} (h : s.Canon) : Out.Canon (execTrmIdle g s) := trmDo_canon h fun k c x t => by split <;> exact h
theorem execTrmBusy_canon {g} (h : s.Canon) : Out.Canon (execTrmBusy g s) := trmDo_canon h fun k c x t => by split <;> exact h

/-! ### Vector words: their results stay in the core -/

theorem vectorWord_canon {w body} (h : s.Canon) : Out.Canon (vectorWord w s body) :=
  engWord_canon h fun i t ht => by split; exacts [trivial, ht]
theorem float2_canon {w op} (h : s.Canon) : Out.Canon (float2 w s op) := vectorWord_canon h
theorem floatMinMax_canon {w mx} (h : s.Canon) : Out.Canon (floatMinMax w s mx) := vectorWord_canon h
theorem unary_canon {w fs u extra f1} (h : s.Canon) : Out.Canon (unary w s fs u extra f1) := vectorWord_canon h
theorem convWord_canon {w u ok f1} (h : s.Canon) : Out.Canon (convWord w s u ok f1) := vectorWord_canon h
theorem maskWord_canon {w fs u two ok f} (h : s.Canon) : Out.Canon (maskWord w s fs u two ok f) := vectorWord_canon h
theorem int2_canon {w sat op} (h : s.Canon) : Out.Canon (int2 w s sat op) := vectorWord_canon h
theorem bit2_canon {w op} (h : s.Canon) : Out.Canon (bit2 w s op) := vectorWord_canon h
theorem fillWord_canon {w fs bytes f} (h : s.Canon) : Out.Canon (fillWord w s fs bytes f) := vectorWord_canon h
theorem reduceWord_canon {w r} (h : s.Canon) : Out.Canon (reduceWord w s r) := vectorWord_canon h
theorem moveWord_canon {w u fs bytes ok f} (h : s.Canon) : Out.Canon (moveWord w s u fs bytes ok f) := vectorWord_canon h
theorem execVunpk_canon {w} (h : s.Canon) : Out.Canon (execVunpk w s) := by
  refine engWord_canon h fun i t ht => ?_
  extract_lets m
  split
  · split
    · extract_lets v
      split
      · trivial
      · split
        · split
          · trivial
          · extract_lets d2
            split
            · trivial
            · split
              · trivial
              · exact ht
        · trivial
    · trivial
  · trivial

/-! ### Copy words: windows and descriptors -/

theorem copyWord_canon {w deps body} (h : s.Canon) : Out.Canon (copyWord w s deps body) :=
  engWord_canon h fun i t ht => by
    split
    · trivial
    · split
      · trivial
      · trivial
      · exact ht
theorem landRow_canon {q off bs} (h : s.Canon) : (s.landRow q off bs).Canon := by
  fun_cases State.landRow
  grind only [State.Canon, fillGranule_canon, setMem_canon, write_canon, foldl_state_canon]
theorem windowFill_canon {k x} (h : s.Canon) : (windowFill s k x).1.Canon := by
  fun_cases windowFill
  grind only [landRow_canon, foldl_state_canon]
theorem readDesc_canon {i m' ea} (h : s.Canon) : (readDesc s i m' ea).Canon := by
  fun_cases readDesc <;> grind only [Got.Canon, setEng_canon, portAt_canon, sendRemote_canon, setQuad_canon]
theorem execCwin_canon {w} (h : s.Canon) : Out.Canon (execCwin w s) := by
  fun_cases execCwin <;> grind only [Got.Canon, Out.Canon, raise_canon, readDesc_canon, setQuad_canon, windowFill_canon, engWord_canon,
    setCore_canon, Iss.Canon]
theorem execCadv_canon {w} (h : s.Canon) : Out.Canon (execCadv w s) := by
  unfold execCadv
  refine engWord_canon h fun i t ht => ?_
  grind only [Iss.Canon, windowFill_canon, setQuad_canon, setCore_canon]
theorem execCpin_canon {w} (h : s.Canon) : Out.Canon (execCpin w s) := by
  unfold execCpin
  refine engWord_canon h fun i t ht => ?_
  grind only [Iss.Canon, setQuad_canon]
theorem execCunpin_canon {w} (h : s.Canon) : Out.Canon (execCunpin w s) := by
  refine engWord_canon h fun i t ht => ?_
  grind only [Iss.Canon, setQuad_canon]

/-! ### Command queues, completions and interrupts -/

theorem ownPiece_canon {pasid va need} (h : s.Canon) : OkCanon Prod.snd (s.ownPiece pasid va need) := by
  fun_cases State.ownPiece <;> grind only [OkCanon, translate_canon, ats_canon]
theorem ownAll_canon {pasid need l} (h : s.Canon) : OkCanon Prod.snd (s.ownAll pasid need l) := by
  fun_induction State.ownAll <;> grind only [OkCanon, ownPiece_canon]
theorem ownDests_canon {pasid va n need} (h : s.Canon) : OkCanon Prod.snd (s.ownDests pasid va n need) := by
  fun_cases State.ownDests <;> grind only [OkCanon, ownAll_canon]
theorem ownRead_canon {pasid va n} (h : s.Canon) : OkCanon Prod.snd (s.ownRead pasid va n) := by
  fun_cases State.ownRead <;> grind only [OkCanon, ownDests_canon]
theorem ownWrite_canon {pasid va bs} (h : s.Canon) : OkCanon id (s.ownWrite pasid va bs) := by
  fun_cases State.ownWrite <;> grind only [OkCanon, State.Canon, id_eq, ownDests_canon, setMem_canon, writeHere_canon]
@[simp] theorem setQueue_canon {q x} : (s.setQueue q x).Canon ↔ s.Canon := .rfl
@[simp] theorem updNode_canon {q idx f} : (s.updNode q idx f).Canon ↔ s.Canon := .rfl
@[simp] theorem setPhase_canon {q idx p} : (s.setPhase q idx p).Canon ↔ s.Canon := .rfl
@[simp] theorem pin_canon {ps} : (m.pin ps).Canon ↔ m.Canon := .rfl
@[simp] theorem unpin_canon {ps} : (m.unpin ps).Canon ↔ m.Canon := .rfl
theorem raiseMsix_canon {v} (h : s.Canon) : (s.raiseMsix v).Canon := by
  fun_cases State.raiseMsix <;> grind only [send_canon, setCmd_canon]
theorem execMsixUnmask_canon {entry} (h : s.Canon) : Out.Canon (execMsixUnmask entry s) := by
  fun_cases execMsixUnmask <;> grind only [Out.Canon, setCmd_canon, raiseMsix_canon]
theorem setMsix_canon {on mask} (h : s.Canon) : (s.setMsix on mask).Canon := by
  fun_cases State.setMsix <;> grind only [setCmd_canon, raiseMsix_canon, foldl_state_canon]
theorem dropNode_canon {q idx} (h : s.Canon) : (s.dropNode q idx).Canon := by
  fun_cases State.dropNode <;> grind only [State.Canon, setMem_canon, unpin_canon, setCmd_canon, setStages_canon]
theorem ringError_canon {q} (h : s.Canon) : (s.ringError q).Canon := by
  fun_cases State.ringError <;> grind only [setQueue_canon, dropNode_canon, setCmd_canon, raiseMsix_canon, foldl_state_canon]
theorem drainCompletions_canon {q n} (h : s.Canon) : (State.drainCompletions q n s).Canon := by
  fun_induction State.drainCompletions <;> grind only [OkCanon, id_eq, ownRead_canon, ownWrite_canon, ringError_canon, setQueue_canon,
    raiseMsix_canon]
theorem pushCompletion_canon {q c} (h : s.Canon) : (s.pushCompletion q c).Canon := by
  fun_cases State.pushCompletion <;> grind only [setQueue_canon, drainCompletions_canon]
@[simp] theorem record_canon {q idx status} : (s.record q idx status).Canon ↔ s.Canon := .rfl
theorem closeNode_canon {n e} (h : s.Canon) : (s.closeNode n e).Canon := by
  fun_cases State.closeNode <;> grind only [dropNode_canon, record_canon, pushCompletion_canon]
theorem closeAll_canon {l e} (h : s.Canon) : (s.closeAll l e).Canon := by
  fun_cases State.closeAll
  grind only [closeNode_canon, foldl_state_canon]
theorem completeNode_canon {q idx e} (h : s.Canon) : (s.completeNode q idx e).Canon := by
  fun_cases State.completeNode <;> grind only [closeNode_canon, setCmd_canon, closeAll_canon]
theorem execNodeComplete_canon {q idx} (h : s.Canon) : Out.Canon (execNodeComplete q idx s) := by
  fun_cases execNodeComplete <;> grind only [Out.Canon, completeNode_canon]
theorem retryCompletions_canon {q} (h : s.Canon) : (s.retryCompletions q).Canon := drainCompletions_canon h
theorem execCplheadReread_canon {q} (h : s.Canon) : Out.Canon (execCplheadReread q s) := by
  fun_cases execCplheadReread
  grind only [Out.Canon, retryCompletions_canon]
theorem execKick_canon {q} (h : s.Canon) : Out.Canon (execKick q s) := by
  fun_cases execKick <;> grind only [Out.Canon, setQueue_canon, retryCompletions_canon]
theorem execTailReadReturn_canon {q} (h : s.Canon) : Out.Canon (execTailReadReturn q s) := by
  fun_cases execTailReadReturn <;> grind only [OkCanon, Out.Canon, ownRead_canon, ringError_canon, setQueue_canon]
theorem enterRecord_canon {q v} (h : s.Canon) : (s.enterRecord q v).Canon := by
  fun_cases State.enterRecord <;> grind only [closeNode_canon, setCmd_canon, completeNode_canon]
theorem execRecordEnter_canon {q} (h : s.Canon) : Out.Canon (execRecordEnter q s) := by
  fun_cases execRecordEnter <;> grind only [OkCanon, Out.Canon, id_eq, ownRead_canon, ringError_canon, enterRecord_canon,
    setQueue_canon, ownWrite_canon]
theorem execQueueEnable_canon {q} (h : s.Canon) : Out.Canon (execQueueEnable q s) := by
  fun_cases execQueueEnable <;> grind only [OkCanon, Out.Canon, id_eq, setQueue_canon, setCmd_canon, setStages_canon, setFab_canon,
    ownWrite_canon, ringError_canon]
theorem abortNodes_canon {q} (h : s.Canon) : (s.abortNodes q).Canon := closeAll_canon h
theorem execQueueDisable_canon {q} (h : s.Canon) : Out.Canon (execQueueDisable q s) := by
  fun_cases execQueueDisable <;> grind only [Out.Canon, setQueue_canon, abortNodes_canon]
theorem execNop_canon {q idx} (h : s.Canon) : Out.Canon (execNop q idx s) := by
  fun_cases execNop <;> grind only [Out.Canon, setPhase_canon]
theorem execSignal_canon {q idx} (h : s.Canon) : Out.Canon (execSignal q idx s) := by
  fun_cases execSignal <;> grind only [OkCanon, Out.Canon, State.Canon, ownDests_canon, completeNode_canon, setMem_canon,
    writeHere_canon, setPhase_canon]
theorem waitRead_canon {n} (h : s.Canon) : (s.waitRead n).Canon := by
  fun_cases State.waitRead <;> grind only [OkCanon, ownRead_canon, completeNode_canon, setPhase_canon]
theorem execWait_canon {q idx} (h : s.Canon) : Out.Canon (execWait q idx s) := by
  fun_cases execWait <;> grind only [Out.Canon, waitRead_canon, setPhase_canon]
theorem execWaitPoll_canon {q idx} (h : s.Canon) : Out.Canon (execWaitPoll q idx s) := by
  fun_cases execWaitPoll <;> grind only [Out.Canon, waitRead_canon]
theorem execWaitTimeout_canon {q idx} (h : s.Canon) : Out.Canon (execWaitTimeout q idx s) := by
  fun_cases execWaitTimeout <;> grind only [Out.Canon, completeNode_canon]

/-! ### The Firn store's pools -/

theorem storedForm_canon {rows} (h : s.Canon) : (s.storedForm rows).2.Canon := by
  fun_cases State.storedForm <;> grind only [freeBytes_canon]
@[simp] theorem allocRuns_canon {used len n} : (s.allocRuns used len n).2.Canon ↔ s.Canon := .rfl
theorem poolPiece_canon {pasid va} (h : s.Canon) : OkCanon Prod.snd (s.poolPiece pasid va) := by
  fun_cases State.poolPiece <;> grind only [OkCanon, translate_canon, ats_canon]
theorem poolDests_canon {pasid base runs} (h : s.Canon) : OkCanon Prod.snd (s.poolDests pasid base runs) :=
  destAll_canon h fun _ _ _ ht => poolPiece_canon ht
theorem storeRows_canon {pasid base runs rows bad} (h : s.Canon) : OkCanon id (s.storeRows pasid base runs rows bad) := by
  fun_cases State.storeRows <;> grind only [OkCanon, State.Canon, id_eq, poolDests_canon, storedForm_canon, writeHere_canon,
    setMem_canon, addPoison_canon, foldl_canon]
theorem heldRows_canon {pasid base runs rows} (h : s.Canon) : OkCanon (fun x => x.2.2) (s.heldRows pasid base runs rows) := by
  fun_cases State.heldRows <;> grind only [OkCanon, poolDests_canon, freeBytes_canon]
theorem readSlot_canon {x} (h : s.Canon) : OkCanon (fun x => x.2.2) (s.readSlot x) := by
  fun_cases State.readSlot <;> grind only [OkCanon, heldRows_canon]
theorem putRows_canon {slots st toSpill rows bad} (h : s.Canon) : OkCanon Prod.snd (s.putRows slots st toSpill rows bad) := by
  fun_cases State.putRows <;> grind only [OkCanon, id_eq, allocRuns_canon, storeRows_canon]
theorem discardSlot_canon {ctxid x} (h : s.Canon) : (s.discardSlot ctxid x).2.Canon := by
  fun_cases State.discardSlot <;> grind only [OkCanon, putRows_canon]
theorem discardFirn_canon {ctxid} (h : s.Canon) : (s.discardFirn ctxid).Canon := by
  fun_cases State.discardFirn
  grind only [discardSlot_canon, setStages_canon, foldl_state_canon]

/-! ### Copy requests: data that returns and writes that are accepted -/

@[simp] theorem updFlight_canon {k f g} : (s.updFlight k f g).Canon ↔ s.Canon := .rfl
@[simp] theorem updReq_canon {k a g} : (s.updReq k a g).Canon ↔ s.Canon := .rfl
@[simp] theorem replaceReq_canon {k a ks} : (s.replaceReq k a ks).Canon ↔ s.Canon := .rfl
@[simp] theorem updColl_canon {id f} : (s.updColl id f).Canon ↔ s.Canon := .rfl
theorem tellMember_canon {c rank m'} (h : s.Canon) : (s.tellMember c rank m').Canon := sendOut_canon h
theorem tellWritten_canon {id} (h : s.Canon) : (s.tellWritten id).Canon := by
  fun_cases State.tellWritten <;> grind only [tellMember_canon, updColl_canon, foldl_state_canon]
@[simp] theorem dropColl_canon {id} : (s.dropColl id).Canon ↔ s.Canon := .rfl
theorem settleOne_canon {k f} (h : s.Canon) : SomeCanon id (s.settleOne k f) := by
  fun_cases State.settleOne <;> grind only [SomeCanon, id_eq, updFlight_canon, setCore_canon, tellWritten_canon, dropColl_canon]
theorem settleEnd_canon {k f} (h : s.Canon) : (s.settleEnd k f).Canon := by
  fun_cases State.settleEnd <;> grind only [updFlight_canon, logEvent_canon, setCore_canon, raise_canon]
theorem settleOne_getD_canon {k f} (h : s.Canon) : ((s.settleOne k f).getD s).Canon := by
  have h1 := settleOne_canon (k := k) (f := f) h
  cases e : s.settleOne k f with
  | none => exact h
  | some t => rw [e] at h1; exact h1
theorem settle_canon {k f} (h : s.Canon) : (s.settle k f).Canon :=
  settleEnd_canon (settleOne_getD_canon (settleOne_getD_canon (settleOne_getD_canon h)))
theorem writePerformed_canon {k id} (h : s.Canon) : (s.writePerformed k id).Canon := by
  fun_cases State.writePerformed <;> grind only [setEng_canon, settle_canon]
@[simp] theorem zeroRow_canon {k f row sec} : (s.zeroRow k f row sec).Canon ↔ s.Canon := .rfl
theorem readReq_canon {k a ea len} (h : s.Canon) : (s.readReq k a ea len).Canon := by
  fun_cases State.readReq <;> grind only [Come.Canon, Got.Canon, portAt_canon, setQuad_canon, updReq_canon, sendRemote_canon]
theorem openOverlap_canon {x src len dst data} (h : s.Canon) : (s.openOverlap x src len dst data).2.Canon := by
  fun_cases State.openOverlap <;> grind only [freeBytes_canon]
theorem placeData_canon {k a ea len zp pl bs bad sec} (h : s.Canon) : (s.placeData k a ea len zp pl bs bad sec).Canon := by
  fun_cases State.placeData <;> grind only [raise_canon, setCore_canon, settle_canon, replaceReq_canon, zeroRow_canon, updFlight_canon,
    openOverlap_canon]
theorem fixBefore_canon {k a n} (h : s.Canon) : (State.fixBefore k a n s).1.Canon := by
  fun_induction State.fixBefore <;> grind only [Come.Canon, readReq_canon, raise_canon, updReq_canon]
theorem metaSectors_canon {k ea n need} (h : s.Canon) : (s.metaSectors k ea n need).Canon := by
  fun_cases State.metaSectors <;> grind only [Got.Canon, portAt_canon]
theorem metaRows_canon {k f t rows cols n row l} (h : s.Canon) : (s.metaRows k f t rows cols n row l).Canon := by
  fun_induction State.metaRows <;> grind only [setCore_canon, zeroRow_canon]
theorem unstashRows_canon {k f t row n rows bad} (h : s.Canon) : (s.unstashRows k f t row n rows bad).Canon := by
  fun_cases State.unstashRows
  grind only [setCore_canon, zeroRow_canon, foldl_state_canon]
theorem unstash_canon {k a slot t row n zp ec} (h : s.Canon) : (s.unstash k a slot t row n zp ec).Canon := by
  fun_cases State.unstash <;> grind only [OkCanon, raise_canon, settle_canon, replaceReq_canon, setCore_canon, readSlot_canon,
    unstashRows_canon]
theorem returnData_canon {k a} (h : s.Canon) : (s.returnData k a).Canon := by
  fun_cases State.returnData <;> grind only [Come.Canon, Got.Canon, readReq_canon, raise_canon, placeData_canon, metaSectors_canon,
    settle_canon, replaceReq_canon, metaRows_canon, unstash_canon]
theorem land_canon {k a g ea len zp w t off landed q bs z} (h : s.Canon) :
    (State.landGranule.land k a g ea len zp w t off landed s q bs z).Canon := by
  fun_cases State.landGranule.land <;> grind only [landRow_canon, settle_canon, replaceReq_canon, updReq_canon]
theorem landGranule_canon {k a g ea len zp w t off landed zeroed} (h : s.Canon) :
    (s.landGranule k a g ea len zp w t off landed zeroed).Canon := by
  fun_cases State.landGranule <;> grind only [Come.Canon, State.Canon, raise_canon, readReq_canon, land_canon, zeroRow_canon,
    setMem_canon, zeroLanded_canon]
theorem execWindowGranuleLand_canon {core idx} (h : s.Canon) : Out.Canon (execWindowGranuleLand core idx s) := by
  fun_cases execWindowGranuleLand <;> grind only [Out.Canon, landGranule_canon]
@[simp] theorem flushNeve_canon {ds inv} : (m.flushNeve ds inv).Canon ↔ m.Canon := .rfl
theorem acceptWrite_canon {k a} (h : s.Canon) : (s.acceptWrite k a).Canon := by
  fun_cases State.acceptWrite <;> grind only [Got.Canon, OkCanon, State.Canon, portWrite_canon, raise_canon, updFlight_canon,
    settle_canon, replaceReq_canon, updReq_canon, metaSectors_canon, setMeta_canon, setMem_canon, virtual_canon, flushNeve_canon,
    foldl_canon]

/-! ### Teardown of gangs and stages -/

@[simp] theorem setChan_canon {c x} : (s.setChan c x).Canon ↔ s.Canon := .rfl
theorem updMsg_canon {c n f} (h : s.Canon) : (s.updMsg c n f).Canon := by
  fun_cases State.updMsg <;> grind only [setChan_canon, send_canon]
theorem cancelSent_canon {ctxid} (h : s.Canon) : (s.cancelSent ctxid).Canon := by
  fun_cases State.cancelSent
  grind only [setChan_canon, sendOut_canon, foldl_state_canon]
theorem releaseLease_canon {i} (h : s.Canon) : (s.releaseLease i).Canon := by
  fun_cases State.releaseLease <;> grind only [State.Canon, setMem_canon, unpin_canon]
@[simp] theorem forgetCores_canon {ks} : (s.forgetCores ks).Canon ↔ s.Canon := .rfl
theorem freeCores_canon {ks} (h : s.Canon) : (s.freeCores ks).Canon := updCores_canon h
theorem drainWrites_canon {k} (h : s.Canon) : (s.drainWrites k).Canon := by
  fun_cases State.drainWrites
  grind only [Got.Canon, State.Canon, portWrite_canon, foldl_state_canon]
theorem stopGang_canon {i} (h : s.Canon) : (s.stopGang i).Canon := by
  fun_cases State.stopGang
  grind only [drainWrites_canon, discardFirn_canon, cancelSent_canon, dropL1_canon, updCores_canon, forgetCores_canon,
    foldl_state_canon]
@[simp] theorem updInst_canon {ctxid f} : (s.updInst ctxid f).Canon ↔ s.Canon := .rfl
@[simp] theorem updStage_canon {key f} : (s.updStage key f).Canon ↔ s.Canon := .rfl
@[simp] theorem mark_canon {key} : (s.mark key).Canon ↔ s.Canon := .rfl
theorem removeInst_canon {i} (h : s.Canon) : (s.removeInst i).Canon := by
  fun_cases State.removeInst
  grind only [dropSpan_canon, releaseLease_canon, mark_canon, freeCores_canon, setCmd_canon]
theorem report_canon {key} (h : s.Canon) : (s.report key).Canon := by
  fun_cases State.report <;> grind only [sendOut_canon]
theorem discardInst_canon {i} (h : s.Canon) : (s.discardInst i).Canon := by
  fun_cases State.discardInst
  grind only [removeInst_canon, stopGang_canon, discardFirn_canon, cancelSent_canon]
theorem closeStage_canon {st e} (h : s.Canon) : (s.closeStage st e).Canon := by
  fun_cases State.closeStage
  grind only [discardInst_canon, setStages_canon, updMsg_canon, setCmd_canon, completeNode_canon, foldl_state_canon]
theorem countFault_canon {st r run e} (h : s.Canon) : (s.countFault st r run e).Canon := by
  fun_cases State.countFault <;> grind only [updStage_canon, closeStage_canon, report_canon]
theorem stepFaulted_canon {key i e} (h : s.Canon) : (s.stepFaulted key i e).Canon := by
  fun_cases State.stepFaulted <;> grind only [countFault_canon]
theorem finishFault_canon {ctxid} (h : s.Canon) : (s.finishFault ctxid).Canon := by
  fun_cases State.finishFault <;> grind only [removeInst_canon, completeNode_canon, stepFaulted_canon]
theorem recordDone_canon {r addr} (h : s.Canon) : (s.recordDone r addr).Canon := by
  fun_cases State.recordDone <;> grind only [updInst_canon, finishFault_canon, closeStage_canon, completeNode_canon]
theorem drainRecords_canon {n} (h : s.Canon) : (State.drainRecords n s).Canon := by
  fun_induction State.drainRecords <;> grind only [setCmd_canon, recordDone_canon, setMem_canon, write_canon, State.Canon]
theorem postRecords_canon {rs} (h : s.Canon) : (s.postRecords rs).Canon := drainRecords_canon h
theorem failInst_canon {i t} (h : s.Canon) : (s.failInst i t).Canon := by
  fun_cases State.failInst
  grind only [stopGang_canon, discardFirn_canon, cancelSent_canon, updInst_canon, postRecords_canon]
theorem failStage_canon {st tag t} (h : s.Canon) : (s.failStage st tag t).Canon := by
  fun_cases State.failStage <;> grind only [updStage_canon, postRecords_canon]
theorem failNode_canon {q idx pasid t} (h : s.Canon) : (s.failNode q idx pasid t).Canon := postRecords_canon h
theorem execFaultTeardown_canon {ctxid} (h : s.Canon) : Out.Canon (execFaultTeardown ctxid s) := by
  fun_cases execFaultTeardown <;> grind only [Out.Canon, stopGang_canon, updInst_canon, postRecords_canon]

/-! ### Notices and leases -/

theorem postNotice_canon {type pasid va len} (h : s.Canon) : (s.postNotice type pasid va len).Canon := by
  fun_cases State.postNotice <;> grind only [OkCanon, Posted.Canon, id_eq, ownWrite_canon, setCmd_canon]
@[simp] theorem keepNotice_canon {type va len} : (s.keepNotice type va len).Canon ↔ s.Canon := .rfl
theorem memNotice_canon {type va len} (h : s.Canon) : (s.memNotice type va len).Canon := by
  fun_cases State.memNotice <;> grind only [Posted.Canon, postNotice_canon, keepNotice_canon]
theorem postPromote_canon {g} (h : s.Canon) : (s.postPromote g).Canon := by
  fun_cases State.postPromote
  grind only [postNotice_canon]
theorem failNotice_canon {q idx desc} (h : s.Canon) : (s.failNotice q idx desc).Canon := completeNode_canon h
theorem nodeNotice_canon {q idx type pasid va len desc} (h : s.Canon) : (s.nodeNotice q idx type pasid va len desc).Canon := by
  fun_cases State.nodeNotice <;> grind only [Posted.Canon, postNotice_canon, setPhase_canon, failNotice_canon]
theorem failResume_canon {i} (h : s.Canon) : (s.failResume i).Canon := failInst_canon h
theorem failHeld_canon {n} (h : s.Canon) : (State.failHeld n s).Canon := by
  fun_induction State.failHeld <;> grind only [failNotice_canon, failResume_canon]
theorem serveOne_canon (h : s.Canon) : SomeCanon id s.serveOne := by
  fun_cases State.serveOne <;> grind only [MemSide.Canon, Posted.Canon, SomeCanon, State.Canon, id_eq, postNotice_canon, setPhase_canon,
    failHeld_canon, updInst_canon, setCmd_canon, postPromote_canon, setMem_canon]
theorem serve_canon {n} (h : s.Canon) : (State.serve n s).Canon := by
  fun_induction State.serve <;> grind only [SomeCanon, id_eq, serveOne_canon]
theorem execNqcfgWrite_canon {v} (h : s.Canon) : Out.Canon (execNqcfgWrite v s) := by
  fun_cases execNqcfgWrite
  grind only [Out.Canon, setCmd_canon, serve_canon, failHeld_canon]
theorem execNoticeackRetry_canon {nid} (h : s.Canon) : Out.Canon (execNoticeackRetry nid s) := by
  fun_cases execNoticeackRetry <;> grind only [Out.Canon, setPhase_canon, updInst_canon]
theorem execNoticeackFail_canon {nid} (h : s.Canon) : Out.Canon (execNoticeackFail nid s) := by
  fun_cases execNoticeackFail <;> grind only [Out.Canon, failNotice_canon, failResume_canon]
theorem unitPages_canon {pasid va} (h : s.Canon) : OkCanon Prod.snd (s.unitPages pasid va) := by
  fun_cases State.unitPages <;> grind only [OkCanon, translate_canon, ats_canon]
theorem walkLease_canon {pasid w l} (h : s.Canon) : (s.walkLease pasid w l).Canon := by
  fun_induction State.walkLease <;> grind only [Walked.Canon, OkCanon, unitPages_canon]
theorem execLeasePhase_canon {q idx} (h : s.Canon) : Out.Canon (execLeasePhase q idx s) := by
  fun_cases execLeasePhase <;> grind only [Out.Canon, State.Canon, Walked.Canon, walkLease_canon, nodeNotice_canon, updNode_canon,
    completeNode_canon, setMem_canon, pin_canon]
theorem execTlbInvalidate_canon {v} (h : s.Canon) : Out.Canon (execTlbInvalidate v s) := by
  fun_cases execTlbInvalidate <;> grind only [MemSide.Canon, Out.Canon, State.Canon, setMem_canon]
theorem performLines_canon {p drop} (h : s.Canon) : (s.performLines p drop).Canon := by
  fun_cases State.performLines
  grind only [flushLines_canon, foldl_state_canon]
theorem execTlbInvalidateDone_canon (h : s.Canon) : Out.Canon (execTlbInvalidateDone s) := by
  fun_cases execTlbInvalidateDone <;> grind only [MemSide.Canon, Out.Canon, State.Canon, performLines_canon]
theorem execAtsInvalidate_canon {pasid va len} (h : s.Canon) : Out.Canon (execAtsInvalidate pasid va len s) := by
  fun_cases execAtsInvalidate
  grind only [MemSide.Canon, Out.Canon, State.Canon, setMem_canon, send_canon, performLines_canon]

/-! ### Records that the command processor reads and writes -/

theorem fetchOwn_canon {pasid va n} (h : s.Canon) : (s.fetchOwn pasid va n).Canon := by
  fun_cases State.fetchOwn <;> grind only [Fetch.Canon, OkCanon, ownRead_canon]
theorem fetchFail_canon {q idx pasid f va n} (h : s.Canon) : (s.fetchFail q idx pasid f va n).Canon := by
  fun_cases State.fetchFail <;> grind only [nodeNotice_canon, completeNode_canon]
@[simp] theorem toLease_canon {q idx ranges} : (s.toLease q idx ranges).Canon ↔ s.Canon := .rfl
theorem execTask_canon {q idx} (h : s.Canon) : Out.Canon (execTask q idx s) := by
  fun_cases execTask <;> grind only [Fetch.Canon, Out.Canon, completeNode_canon, fetchOwn_canon, toLease_canon, updNode_canon,
    fetchFail_canon]
theorem stepRecords_canon {pasid lease0 l} (h : s.Canon) : (s.stepRecords pasid lease0 l).Canon := by
  fun_induction State.stepRecords <;> grind only [Parse.Canon, Fetch.Canon, fetchOwn_canon]
theorem variant_canon {pasid va first wdefer nver lease0} (h : s.Canon) : (s.variant pasid va first wdefer nver lease0).Canon := by
  fun_cases State.variant <;> grind only [Fetch.Canon, Parse.Canon, fetchOwn_canon, stepRecords_canon]
theorem variants_canon {pasid first wdefer nver lease0 l} (h : s.Canon) : (s.variants pasid first wdefer nver lease0 l).Canon := by
  fun_induction State.variants <;> grind only [Parse.Canon, variant_canon]
theorem execStage_canon {q idx} (h : s.Canon) : Out.Canon (execStage q idx s) := by
  fun_cases execStage <;> grind only [Fetch.Canon, Out.Canon, Parse.Canon, completeNode_canon, fetchOwn_canon, variants_canon,
    fetchFail_canon, setStages_canon, toLease_canon]
theorem virtualAs_canon {pasid ranges va n need} (h : s.Canon) : OkCanon Prod.snd (s.virtualAs pasid ranges va n need) := by
  fun_cases State.virtualAs <;> grind only [OkCanon, destAll_canon, pageDest_canon, windowDest_canon]
theorem setIo_canon {who f} (h : s.Canon) : (s.setIo who f).Canon := by
  fun_cases State.setIo <;> grind only [updNode_canon, updInst_canon]
theorem sendCp_canon {who pasid va target inc addr n data} (h : s.Canon) : (s.sendCp who pasid va target inc addr n data).2.Canon := by
  fun_cases State.sendCp
  grind only [setFab_canon, sendOut_canon]
theorem readAs_canon {who pasid va ds} (h : s.Canon) : (s.readAs who pasid va ds).Canon := by
  fun_cases State.readAs <;> grind only [CpRead.Canon, sendCp_canon, setIo_canon]
theorem writeAs_canon {who pasid va bs bad l off} (h : s.Canon) : (s.writeAs who pasid va bs bad l off).Canon := by
  fun_induction State.writeAs <;> grind only [State.Canon, setMem_canon, send_canon, write_canon, addPoison_canon, foldl_canon,
    sendCp_canon, setIo_canon]
theorem runXform_canon {who pasid ranges a} (h : s.Canon) : OkCanon Prod.snd (s.runXform who pasid ranges a) := by
  fun_cases State.runXform <;> grind only [CpRead.Canon, OkCanon, virtualAs_canon, readAs_canon, openOverlap_canon, writeAs_canon]
theorem execXform_canon {q idx} (h : s.Canon) : Out.Canon (execXform q idx s) := by
  fun_cases execXform <;> grind only [OkCanon, Out.Canon, runXform_canon, failNode_canon, setPhase_canon, toLease_canon,
    completeNode_canon, updNode_canon]

/-! ### Gangs: placing, launching and beginning -/

theorem clearQuads_canon {ks pasid} (h : s.Canon) : (s.clearQuads ks pasid).Canon := by
  fun_cases State.clearQuads
  grind only [clearQuad_canon, foldl_state_canon]
theorem execPartStart_canon {core} (h : s.Canon) : Out.Canon (execPartStart core s) := by
  fun_cases execPartStart <;> grind only [Out.Canon, setCore_canon]
theorem joinSpan_canon {k} (h : s.Canon) : (s.joinSpan k).Canon := by
  fun_cases State.joinSpan <;> grind only [setCore_canon]
theorem readTrip_canon {i} (h : s.Canon) : (s.readTrip i).Canon := by
  fun_cases State.readTrip <;> grind only [CpRead.Canon, OkCanon, TripRead.Canon, virtualAs_canon, readAs_canon]
@[simp] theorem takeCtxid_canon : (s.takeCtxid).2.Canon ↔ s.Canon := .rfl
theorem placeCores_canon {i} (h : s.Canon) : (s.placeCores i).Canon := by
  fun_cases State.placeCores
  grind only [setCore_canon, foldl_state_canon]
theorem begin_canon {i} (h : s.Canon) : (s.begin i).Canon := by
  fun_cases State.begin <;> grind only [TripRead.Canon, readTrip_canon, failInst_canon, placeCores_canon, updCores_canon, updInst_canon,
    joinSpan_canon, foldl_state_canon]
theorem launch_canon {i} (h : s.Canon) : (s.launch i).Canon := begin_canon (clearQuads_canon h)
theorem execRendezvous_canon {core} (h : s.Canon) : Out.Canon (execRendezvous core s) := by
  fun_cases execRendezvous <;> grind only [Out.Canon, raise_canon, setCore_canon]
theorem execIterLong_canon {core} (h : s.Canon) : Out.Canon (execIterLong core s) := by
  fun_cases execIterLong <;> grind only [Out.Canon, raise_canon]

/-! ### Special registers and the ends of parts -/

theorem movtsQbmode_canon {k c v} (h : s.Canon) : Out.Canon (movtsQbmode s k c v) := by
  fun_cases movtsQbmode <;> grind only [Out.Canon, raiseCtx_canon, advance_canon, setQuad_canon]
theorem failWaiters_canon {q b} (h : s.Canon) : (failWaiters s q b).Canon := by
  fun_cases failWaiters
  grind only [raiseCtx_canon, foldl_state_canon]
theorem execBankSwitchComplete_canon {quad bank} (h : s.Canon) : Out.Canon (execBankSwitchComplete quad bank s) := by
  fun_cases execBankSwitchComplete <;> grind only [Out.Canon, failWaiters_canon, switchBank_canon]
theorem execYield_canon {g} (h : s.Canon) : Out.Canon (execYield g s) :=
  ctl_canon h fun k c x => by split; exacts [raiseCtx_canon h, h]
theorem execDone_canon {g} (h : s.Canon) : Out.Canon (execDone g s) :=
  ctl_canon h fun k c x => by split; exacts [raiseCtx_canon h, h]
theorem execMovts_canon {g ra sel} (h : s.Canon) : Out.Canon (execMovts g ra sel s) :=
  ctl_canon h fun k c x => by
    dsimp only; split
    · exact h
    · exact h
    · exact movtsQbmode_canon h
    · exact raiseCtx_canon h

/-! ### Saving and resuming contexts -/

theorem bindResume_canon {i base stage} (h : s.Canon) : (s.bindResume i base stage).Canon := updCores_canon h
theorem execContextSave_canon {ctxid} (h : s.Canon) : Out.Canon (execContextSave ctxid s) := by
  fun_cases execContextSave <;> grind only [Out.Canon, dropL1_canon, saveArea_canon, freeCores_canon, releaseLease_canon, updInst_canon,
    updStage_canon, foldl_state_canon]
@[simp] theorem restoreBulk_canon {k i a} : (s.restoreBulk k i a).Canon ↔ s.Canon := .rfl
theorem restoreRanges_canon {q l a} (h : s.Canon) :
    (List.foldl (fun (t : State × Nat) x => (t.1.restoreRange q t.2 x, t.2 + x.2 + fullBytes x.2)) (s, a) l).1.Canon := by
  induction l generalizing s a with
  | nil => exact h
  | cons x l ih => exact ih (restoreRange_canon h q a x)
theorem switchBanks_canon {q} {l : List (Nat × Nat)} (h : s.Canon) :
    (l.foldl (fun t b => failWaiters (switchBank t q b.1 b.2) q b.1) s).Canon :=
  foldl_state_canon _ _ h fun _ b ht => failWaiters_canon (switchBank_canon ht q b.1 b.2)
theorem restoreCore_canon {i r} (h : s.Canon) : (s.restoreCore i r).Canon := by
  fun_cases State.restoreCore
  case case1 => exact restoreRanges_canon (switchBanks_canon (by grind only [setCore_canon, restoreBulk_canon]))
  case case2 => grind only [setCore_canon, restoreBulk_canon]
theorem restart_canon {i} (h : s.Canon) : (s.restart i).Canon := by
  fun_cases State.restart <;> grind only [updInst_canon, setCmd_canon, clearQuads_canon, raise_canon, setCore_canon, restoreCore_canon,
    updCores_canon, foldl_state_canon]
theorem resumeNotice_canon {i type va len} (h : s.Canon) : (s.resumeNotice i type va len).Canon := by
  fun_cases State.resumeNotice <;> grind only [Posted.Canon, postNotice_canon, updInst_canon, failResume_canon]
theorem execContextResume_canon {ctxid} (h : s.Canon) : Out.Canon (execContextResume ctxid s) := by
  fun_cases execContextResume <;> grind only [Out.Canon, State.Canon, Walked.Canon, restart_canon, walkLease_canon, updInst_canon,
    resumeNotice_canon, failInst_canon, setMem_canon, pin_canon]

/-! ### Firn words and events -/

theorem firnWord_canon {w deps body} (h : s.Canon) : Out.Canon (firnWord w s deps body) :=
  engWord_canon h fun i t ht => by
    split
    · trivial
    · split
      · trivial
      · exact ht
theorem execFirnWriteDone_canon {slot} (h : s.Canon) : Out.Canon (execFirnWriteDone slot s) := by
  fun_cases execFirnWriteDone <;> grind only [OkCanon, Out.Canon, putRows_canon, raise_canon, setStages_canon]
theorem execFirnFillDone_canon {slot} (h : s.Canon) : Out.Canon (execFirnFillDone slot s) := by
  fun_cases execFirnFillDone <;> grind only [OkCanon, Out.Canon, id_eq, setStages_canon, readSlot_canon, storeRows_canon]
theorem prefetchSlots_canon {st tags reserved fuel n} (h : s.Canon) : (State.prefetchSlots st tags reserved fuel n s).Canon := by
  fun_induction State.prefetchSlots <;> grind only [allocRuns_canon, setStages_canon]

/-! ### Stages of the scheduler -/

theorem arriveTag_canon {key q tag ch msg} (h : s.Canon) : (s.arriveTag key q tag ch msg).Canon := by
  fun_cases State.arriveTag <;> grind only [failStage_canon, updStage_canon]
@[simp] theorem rebudget_canon : (s.rebudget).Canon ↔ s.Canon := .rfl
theorem dispatchStep_canon {key p} (h : s.Canon) : (s.dispatchStep key p).Canon := by
  fun_cases State.dispatchStep <;> grind only [takeCtxid_canon, launch_canon]
theorem startStep_canon {st p} (h : s.Canon) : (s.startStep st p).Canon := by
  fun_cases State.startStep <;> grind only [updStage_canon, sendOut_canon, dispatchStep_canon, foldl_state_canon]
theorem prefetch_canon {key phase pref} (h : s.Canon) : (s.prefetch key phase pref).Canon := by
  fun_cases State.prefetch <;> grind only [prefetchSlots_canon]
theorem start_canon {st r e g} (h : s.Canon) : (s.start st r e g).Canon := prefetch_canon (startStep_canon h)
theorem restarts_canon {n key} (h : s.Canon) : (State.restarts n s key).Canon := by
  fun_induction State.restarts <;> grind only [updStage_canon, startStep_canon]
theorem resumes_canon {n l key} (h : s.Canon) : (State.resumes n s l key).Canon := by
  fun_induction State.resumes <;> grind only [bindResume_canon]
theorem picks_canon {n key} (h : s.Canon) : (State.picks n s key).Canon := by
  fun_induction State.picks <;> grind only [start_canon]
theorem evaluate_canon {key} (h : s.Canon) : (s.evaluate key).Canon := by
  fun_cases State.evaluate <;> grind only [updStage_canon, report_canon, restarts_canon, resumes_canon, picks_canon]
theorem execStarveExpiry_canon {stage row} (h : s.Canon) : Out.Canon (execStarveExpiry stage row s) := by
  fun_cases execStarveExpiry <;> grind only [Out.Canon, evaluate_canon]
theorem arm_canon {key} (h : s.Canon) : (s.arm key).Canon := by
  fun_cases State.arm <;> grind only [updStage_canon, updNode_canon, failStage_canon, arriveTag_canon, foldl_state_canon]
theorem ackEntry_canon {st p} (h : s.Canon) : (s.ackEntry st p).Canon := by
  fun_cases State.ackEntry <;> grind only [updMsg_canon]
theorem applyRetired_canon {key ctxid p again} (h : s.Canon) : (s.applyRetired key ctxid p again).Canon := by
  fun_cases State.applyRetired <;> grind only [setStages_canon, mark_canon, updStage_canon, ackEntry_canon, closeStage_canon,
    report_canon]
theorem applySpan_canon {n key} (h : s.Canon) : (State.applySpan n s key).Canon := by
  fun_induction State.applySpan <;> grind only [updStage_canon, applyRetired_canon]
theorem stepRetired_canon {key i g} (h : s.Canon) : (s.stepRetired key i g).Canon := by
  fun_cases State.stepRetired <;> grind only [applyRetired_canon, updStage_canon, applySpan_canon]
theorem dropStep_canon {st tag phase} (h : s.Canon) : (s.dropStep st tag phase).Canon := by
  fun_cases State.dropStep
  grind only [discardInst_canon, foldl_state_canon]
theorem memberFault_canon {key f} (h : s.Canon) : (s.memberFault key f).Canon := by
  fun_cases State.memberFault <;> grind only [countFault_canon, updStage_canon, dropStep_canon]
theorem execSpanReportReceive_canon {stage sender fwd bwd ended free} (h : s.Canon) :
    Out.Canon (execSpanReportReceive stage sender fwd bwd ended free s) := by
  fun_cases execSpanReportReceive <;> grind only [Out.Canon, fromPeer_canon, updStage_canon, applySpan_canon, memberFault_canon,
    foldl_state_canon]
theorem startDue_canon {n key} (h : s.Canon) : (State.startDue n s key).Canon := by
  fun_induction State.startDue <;> grind only [updStage_canon, dispatchStep_canon]
theorem execSpanStartTime_canon {stage} (h : s.Canon) : Out.Canon (execSpanStartTime stage s) := by
  fun_cases execSpanStartTime <;> grind only [Out.Canon, startDue_canon]
theorem execSpanPickReceive_canon {stage inc gang tag pick t adv} (h : s.Canon) :
    Out.Canon (execSpanPickReceive stage inc gang tag pick t adv s) := by
  fun_cases execSpanPickReceive <;> grind only [Out.Canon, fromPeer_canon, updStage_canon, dropStep_canon, startDue_canon]
theorem execSpanMemberLost_canon {stage member} (h : s.Canon) : Out.Canon (execSpanMemberLost stage member s) := by
  fun_cases execSpanMemberLost <;> grind only [Out.Canon, failStage_canon]

/-! ### Placement, preemption and retirement -/

@[simp] theorem dropReservation_canon {w} : (s.dropReservation w).Canon ↔ s.Canon := .rfl
theorem execPlacementReserve_canon {cand} (h : s.Canon) : Out.Canon (execPlacementReserve cand s) := by
  fun_cases execPlacementReserve <;> grind only [Out.Canon, setCmd_canon]
theorem serveQueue_canon {c} (h : s.Canon) : (s.serveQueue c).Canon := by
  fun_cases State.serveQueue <;> grind only [setCmd_canon]
theorem placeTask_canon {q idx base n} (h : s.Canon) : (s.placeTask q idx base n).Canon := by
  fun_cases State.placeTask <;> grind only [takeCtxid_canon, updNode_canon, launch_canon]
theorem placeCand_canon {c base} (h : s.Canon) : (s.placeCand c base).Canon := by
  fun_cases State.placeCand <;> grind only [dropReservation_canon, serveQueue_canon, placeTask_canon, bindResume_canon, arm_canon,
    updStage_canon]
theorem execPlaceNode_canon (h : s.Canon) : Out.Canon (execPlaceNode s) := by
  fun_cases execPlaceNode
  grind only [Out.Canon, placeCand_canon]
theorem requestStop_canon {i} (h : s.Canon) : (s.requestStop i).Canon := by
  fun_cases State.requestStop <;> grind only [updInst_canon, setCmd_canon, updCores_canon]
theorem execPreemptTimeout_canon {cand} (h : s.Canon) : Out.Canon (execPreemptTimeout cand s) := by
  fun_cases execPreemptTimeout <;> grind only [Out.Canon, requestStop_canon, foldl_state_canon]
theorem commitSent_canon {ctxid} (h : s.Canon) : (s.commitSent ctxid).Canon := by
  fun_cases State.commitSent
  grind only [setChan_canon, sendOut_canon, foldl_state_canon]
theorem execRetire_canon {ctxid} (h : s.Canon) : Out.Canon (execRetire ctxid s) := by
  fun_cases execRetire <;> grind only [Out.Canon, dropL1_canon, removeInst_canon, commitSent_canon, completeNode_canon,
    stepRetired_canon, foldl_state_canon]

/-! ### Channels and messages -/

theorem copyNow_canon {w deps held body} (h : s.Canon) (hb : ∀ i t, t.Canon → OkCanon id (body i t)) :
    Out.Canon (copyNow w s deps held body) :=
  engWord_canon h fun i t ht => by
    have hu := hb i t ht
    split
    · trivial
    · split
      · trivial
      · next e => rw [e] at hu; exact hu
theorem releaseOldest_canon {n c} (h : s.Canon) : (State.releaseOldest n s c).Canon := by
  fun_induction State.releaseOldest <;> grind only [updMsg_canon]
theorem sendMessage_canon {k a ch tag rows} (h : s.Canon) : (s.sendMessage k a ch tag rows).Canon := by
  fun_cases State.sendMessage <;> grind only [raise_canon, setFab_canon, setChan_canon, sendOut_canon, updFlight_canon,
    replaceReq_canon]
theorem recvMessage_canon {k a ch t row n ack ec} (h : s.Canon) : (s.recvMessage k a ch t row n ack ec).Canon := by
  fun_cases State.recvMessage <;> grind only [raise_canon, setCore_canon, setChan_canon, settle_canon, replaceReq_canon, updMsg_canon]
theorem breakEnd_canon {c} (h : s.Canon) : (s.breakEnd c).Canon := by
  unfold State.breakEnd
  extract_lets old s1 waits s2
  have h2 : s2.Canon := foldl_state_canon _ _ h fun t n ht => by
    extract_lets k
    split
    · exact raise_canon ht
    · exact ht
  split
  · exact failStage_canon h2
  · exact h2
theorem execChannelBroken_canon {c} (h : s.Canon) : Out.Canon (execChannelBroken c s) := by
  fun_cases execChannelBroken
  grind only [Out.Canon, breakEnd_canon]
theorem execChannelEndOpen_canon {c w0} (h : s.Canon) : Out.Canon (execChannelEndOpen c w0 s) := by
  fun_cases execChannelEndOpen
  grind only [Out.Canon, setChan_canon]
theorem execChannelEndClose_canon {c w0} (h : s.Canon) : Out.Canon (execChannelEndClose c w0 s) := by
  fun_cases execChannelEndClose
  grind only [Out.Canon, setChan_canon]
theorem arriveMessage_canon {c n tag} (h : s.Canon) : (s.arriveMessage c n tag).Canon := by
  fun_cases State.arriveMessage <;> grind only [arriveTag_canon]
theorem settleMessage_canon {c m' cancel} (h : s.Canon) : (s.settleMessage c m' cancel).Canon := by
  fun_cases State.settleMessage <;> grind only [updMsg_canon, setChan_canon, arriveMessage_canon]
theorem newMessage_canon {c src srcCh w0 n tag rows held} (h : s.Canon) : (s.newMessage c src srcCh w0 n tag rows held).Canon := by
  fun_cases State.newMessage <;> grind only [State.Canon, send_canon, breakEnd_canon, setMem_canon, write_canon, setChan_canon,
    updMsg_canon, arriveMessage_canon]
theorem execMessageDelivered_canon {c src end_ n tag rows held cancel} (h : s.Canon) :
    Out.Canon (execMessageDelivered c src end_ n tag rows held cancel s) := by
  fun_cases execMessageDelivered <;> grind only [Out.Canon, fromPeer_canon, settleMessage_canon, newMessage_canon]
theorem execMessageConfirm_canon {c n} (h : s.Canon) : Out.Canon (execMessageConfirm c n s) := by
  fun_cases execMessageConfirm <;> grind only [Out.Canon, setChan_canon, setEng_canon]
theorem execAckReceive_canon {c aseq} (h : s.Canon) : Out.Canon (execAckReceive c aseq s) := by
  fun_cases execAckReceive <;> grind only [Out.Canon, setChan_canon]
theorem execCchstStat_canon {w} (h : s.Canon) : Out.Canon (execCchstStat w s) :=
  copyNow_canon h fun i t ht => by split; exacts [trivial, ht]
theorem execCchstGrant_canon {w} (h : s.Canon) : Out.Canon (execCchstGrant w s) :=
  copyNow_canon h fun i t ht => by dsimp only; split; exacts [trivial, releaseOldest_canon ht]

/-! ### Batches of remote atomics -/

theorem batchRows_canon {k dst l} (h : s.Canon) : OkCanon (fun x => x.2.2) (s.batchRows k dst l) := by
  fun_induction State.batchRows <;> grind only [OkCanon, virtual_canon]
theorem applyElems_canon {op a l} (h : m.Canon) : ∀ old m1, applyElems op m a l = some (old, m1) → m1.Canon := by
  fun_induction applyElems <;> grind only [setNum_canon]
theorem applyRows_canon {op l} (h : m.Canon) : (applyRows op m l).2.1.Canon := by
  fun_induction applyRows <;> grind only [applyElems_canon]
@[simp] theorem takeBatchId_canon {target} : (s.takeBatchId target).2.Canon ↔ s.Canon := .rfl
theorem sendBatch_canon {k a op rows ret} (h : s.Canon) : (s.sendBatch k a op rows ret).Canon := by
  fun_cases State.sendBatch <;> grind only [OkCanon, State.Canon, batchRows_canon, raise_canon, takeBatchId_canon, sendOut_canon,
    setFab_canon, updFlight_canon, replaceReq_canon, applyRows_canon, setMem_canon, settle_canon]
@[simp] theorem dropBatch_canon {b} : (s.dropBatch b).Canon ↔ s.Canon := .rfl
theorem execBatchReply_canon {target id old} (h : s.Canon) : Out.Canon (execBatchReply target id old s) := by
  fun_cases execBatchReply <;> grind only [Out.Canon, dropBatch_canon, raise_canon, setEng_canon]
theorem execBatchResend_canon {target id} (h : s.Canon) : Out.Canon (execBatchResend target id s) := by
  fun_cases execBatchResend <;> grind only [Out.Canon, setFab_canon, sendOut_canon]
theorem execBatchReceive_canon {src inc id op rows} (h : s.Canon) : Out.Canon (execBatchReceive src inc id op rows s) :=
  fromPeer_canon h (by
    split
    · exact h
    · split
      · exact h
      · exact applyRows_canon h)

/-! ### Collectives and rings -/

theorem failColl_canon {c t} (h : s.Canon) : (s.failColl c t).Canon := by
  fun_cases State.failColl <;> grind only [setFab_canon, raise_canon, failNode_canon]
theorem nodeWrites_canon {who pasid ranges l} (h : s.Canon) : OkCanon id (s.nodeWrites who pasid ranges l) := by
  fun_induction State.nodeWrites <;> grind only [OkCanon, id_eq, virtualAs_canon, writeAs_canon]
theorem settleColl_canon {c q idx} (h : s.Canon) : (s.settleColl c q idx).Canon := by
  fun_cases State.settleColl <;> grind only [tellWritten_canon, setPhase_canon, dropColl_canon]
theorem settleWord_canon {k id} (h : s.Canon) : (s.settleWord k id).Canon := by
  fun_cases State.settleWord <;> grind only [settle_canon]
theorem collProgress_canon {id} (h : s.Canon) : (s.collProgress id).Canon := by
  fun_cases State.collProgress <;> grind only [settleWord_canon, settleColl_canon]
theorem endColl_canon {c ws flags status} (h : s.Canon) : (s.endColl c ws flags status).Canon := by
  fun_cases State.endColl <;> grind only [OkCanon, id_eq, setEng_canon, nodeWrites_canon, failColl_canon, collProgress_canon,
    updColl_canon]
theorem ringProgress_canon {id} (h : s.Canon) : (s.ringProgress id).Canon := by
  fun_cases State.ringProgress <;> grind only [endColl_canon]
theorem sendEast_canon {c x} (h : s.Canon) : (s.sendEast c x).Canon := by
  fun_cases State.sendEast <;> grind only [send_canon]
theorem beginRing_canon {c x ftzn bs} (h : s.Canon) : (s.beginRing c x ftzn bs).Canon := ringProgress_canon (sendEast_canon h)
theorem startRing_canon {k a op fs fd n src dst group ftzn} (h : s.Canon) : (s.startRing k a op fs fd n src dst group ftzn).Canon := by
  fun_cases State.startRing <;> grind only [Come.Canon, raise_canon, readReq_canon, updFlight_canon, replaceReq_canon, beginRing_canon]
theorem ringWord_canon {op w} (h : s.Canon) : Out.Canon (ringWord op w s) := copyWord_canon h
theorem execRingChunkReceive_canon {group sender terms agrees} (h : s.Canon) :
    Out.Canon (execRingChunkReceive group sender terms agrees s) :=
  fromPeer_canon h (by grind only [failColl_canon, updColl_canon, sendEast_canon, ringProgress_canon])

/-! ### Drift -/

theorem tellOthers_canon {c m'} (h : s.Canon) : (s.tellOthers c m').Canon := by
  fun_cases State.tellOthers
  grind only [tellMember_canon, foldl_state_canon]
theorem sendOffers_canon {c x} (h : s.Canon) : (s.sendOffers c x).Canon := tellOthers_canon h
theorem sendRefusals_canon {c x} (h : s.Canon) : (s.sendRefusals c x).Canon := tellOthers_canon h
theorem driftMove_canon {c old new} (h : s.Canon) : (s.driftMove c old new).Canon := by
  fun_cases State.driftMove <;> grind only [updColl_canon, sendOffers_canon, sendRefusals_canon, endColl_canon, collProgress_canon]
theorem beginDrift_canon {c d bs} (h : s.Canon) : (s.beginDrift c d bs).Canon := driftMove_canon (tellOthers_canon h)
theorem readDriftDesc_canon {k a desc ec} (h : s.Canon) : (s.readDriftDesc k a desc ec).Canon := by
  fun_cases State.readDriftDesc <;> grind only [Come.Canon, readReq_canon, raise_canon, replaceReq_canon]
theorem startDrift_canon {k a d ec} (h : s.Canon) : (s.startDrift k a d ec).Canon := by
  fun_cases State.startDrift <;> grind only [Come.Canon, raise_canon, updFlight_canon, replaceReq_canon, beginDrift_canon,
    readReq_canon]
theorem driftEvent_canon {group sender f} (h : s.Canon) (hf : ∀ t c x, t.Canon → (f t c x).Canon) :
    Out.Canon (driftEvent group sender s f) :=
  fromPeer_canon h (by grind only [failColl_canon])
theorem execDriftLoadsReceive_canon {group sender loads agrees} (h : s.Canon) :
    Out.Canon (execDriftLoadsReceive group sender loads agrees s) :=
  driftEvent_canon h fun t c x ht => by grind only [failColl_canon, driftMove_canon]
theorem execDriftOfferReceive_canon {group sender count} (h : s.Canon) :
    Out.Canon (execDriftOfferReceive group sender count s) :=
  driftEvent_canon h fun t c x ht => by grind only [driftMove_canon]
theorem execDriftRecordsReceive_canon {group sender recs refused marks written} (h : s.Canon) :
    Out.Canon (execDriftRecordsReceive group sender recs refused marks written s) :=
  driftEvent_canon h fun t c x ht => by grind only [driftMove_canon, tellMember_canon]

/-! ### The events of copy requests and collective nodes -/

theorem execCopyDataReturn_canon {core idx} (h : s.Canon) : Out.Canon (execCopyDataReturn core idx s) := by
  fun_cases execCopyDataReturn <;> grind only [Out.Canon, returnData_canon, fixBefore_canon, recvMessage_canon, startRing_canon,
    readDriftDesc_canon, startDrift_canon]
theorem execCopyWriteAccept_canon {core idx} (h : s.Canon) : Out.Canon (execCopyWriteAccept core idx s) := by
  fun_cases execCopyWriteAccept <;> grind only [Out.Canon, sendMessage_canon, sendBatch_canon, acceptWrite_canon]
theorem collRead_canon {n a len} (h : s.Canon) : (s.collRead n a len).Canon := by
  fun_cases State.collRead <;> grind only [CollRead.Canon, CpRead.Canon, OkCanon, virtualAs_canon, readAs_canon]
theorem beginColl_canon {n} (h : s.Canon) : OkCanon id (s.beginColl n) := by
  fun_cases State.beginColl <;> grind only [CollRead.Canon, OkCanon, id_eq, updNode_canon, collRead_canon, beginRing_canon,
    beginDrift_canon]
theorem execColl_canon {q idx} (h : s.Canon) : Out.Canon (execColl q idx s) := by
  fun_cases execColl <;> grind only [Fetch.Canon, OkCanon, Out.Canon, id_eq, completeNode_canon, fetchOwn_canon, toLease_canon,
    updNode_canon, beginColl_canon, failNode_canon]

/-! ### Tiers, grades, the Neve lines and calving -/

theorem allocate_canon {k va bank way evf} (h : s.Canon) : (s.allocate k va bank way evf).Canon := by
  fun_cases State.allocate <;> grind only [OkCanon, virtual_canon, setQuad_canon]
@[simp] theorem useNeve_canon {stack pline} : (m.useNeve stack pline).Canon ↔ m.Canon := .rfl
@[simp] theorem takeNeve_canon {x} : (m.takeNeve x).1.Canon ↔ m.Canon := .rfl
theorem settleNeve_canon {ctr n l} (h : m.Canon) : (MemSide.settleNeve ctr n m l).Canon := by
  induction n generalizing m l with
  | zero => exact h
  | succ n ih => exact foldl_canon _ _ h fun u x hu => ih (takeNeve_canon.2 hu)
theorem execNeveDisplace_canon {x pline sectors coding} (h : s.Canon) : Out.Canon (execNeveDisplace x pline sectors coding s) := by
  fun_cases execNeveDisplace <;> grind only [Out.Canon, State.Canon, setMem_canon, useNeve_canon, takeNeve_canon, settleNeve_canon]
theorem execPoisonDetect_canon {sector error} (h : s.Canon) : Out.Canon (execPoisonDetect sector error s) := by
  fun_cases execPoisonDetect <;> grind only [Out.Canon, State.Canon, logEvent_canon, setMem_canon, addPoison_canon]
theorem execMemoryEventRecord_canon (h : s.Canon) : Out.Canon (execMemoryEventRecord s) := by
  fun_cases execMemoryEventRecord <;> grind only [MemSide.Canon, Out.Canon, State.Canon, setMem_canon, write_canon]
theorem execRowActivation_canon {row checkFails} (h : s.Canon) : Out.Canon (execRowActivation row checkFails s) := by
  fun_cases execRowActivation
  grind only [MemSide.Canon, Out.Canon, State.Canon, setMem_canon, logEvent_canon]
theorem occupancy_canon {t old} (h : s.Canon) : (s.occupancy t old).Canon := by
  fun_cases State.occupancy <;> grind only [MemSide.Canon, State.Canon, rebudget_canon, setMem_canon]
theorem postCrossing_canon {high tier} (h : s.Canon) : (s.postCrossing high tier).Canon := by
  fun_cases State.postCrossing <;> grind only [MemSide.Canon, State.Canon, memNotice_canon, setMem_canon]
theorem execPromoteCount_canon {tier region} (h : s.Canon) : Out.Canon (execPromoteCount tier region s) := by
  fun_cases execPromoteCount <;> grind only [MemSide.Canon, Out.Canon, Posted.Canon, State.Canon, setMem_canon, postPromote_canon]
theorem execRgcmd_canon {v} (h : s.Canon) : Out.Canon (execRgcmd v s) := by
  fun_cases execRgcmd <;> grind only [MemSide.Canon, Out.Canon, State.Canon, setMem_canon, discard_canon, occupancy_canon]
theorem execRgcmdDone_canon (h : s.Canon) : Out.Canon (execRgcmdDone s) := by
  fun_cases execRgcmdDone <;> grind only [MemSide.Canon, Out.Canon, State.Canon, setMem_canon, discard_canon]
theorem execTmcmd_canon {v} (h : s.Canon) : Out.Canon (execTmcmd v s) := by
  fun_cases execTmcmd <;> grind only [MemSide.Canon, Out.Canon, State.Canon, setMem_canon]
theorem execTierMoveDone_canon (h : s.Canon) : Out.Canon (execTierMoveDone s) := by
  fun_cases execTierMoveDone <;> grind only [MemSide.Canon, Out.Canon, State.Canon, moveCells_canon, send_canon, setMem_canon,
    moveSide_canon, foldl_state_canon]
theorem execCalvctlGo_canon {v} (h : s.Canon) : Out.Canon (execCalvctlGo v s) := by
  fun_cases execCalvctlGo <;> grind only [MemSide.Canon, Out.Canon, State.Canon, setMem_canon, rebudget_canon]
theorem execCalvMapLoaded_canon (h : s.Canon) : Out.Canon (execCalvMapLoaded s) := by
  fun_cases execCalvMapLoaded
  grind only [MemSide.Canon, Out.Canon, State.Canon, setMem_canon]
theorem moveNeve_canon {ctr line stack} (h : m.Canon) : (m.moveNeve ctr line stack).Canon := by
  fun_cases MemSide.moveNeve
  grind only [MemSide.Canon, takeNeve_canon, settleNeve_canon]
theorem execCalvLineCopy_canon {uncorrectable} (h : s.Canon) : Out.Canon (execCalvLineCopy uncorrectable s) := by
  fun_cases execCalvLineCopy <;> grind only [MemSide.Canon, Out.Canon, State.Canon, addPoison_canon, moveNeve_canon, setMem_canon,
    logEvent_canon]
theorem execCalvMoveDone_canon (h : s.Canon) : Out.Canon (execCalvMoveDone s) := by
  fun_cases execCalvMoveDone
  grind only [MemSide.Canon, Out.Canon, State.Canon, setMem_canon]
theorem execCalvSettleDone_canon (h : s.Canon) : Out.Canon (execCalvSettleDone s) := by
  fun_cases execCalvSettleDone <;> grind only [MemSide.Canon, Out.Canon, State.Canon, setMem_canon, setMgmt_canon, memNotice_canon]
theorem execPhase_canon {core agent addr stamp} (h : s.Canon) : Out.Canon (execPhase core agent addr stamp s) := by
  fun_cases execPhase <;> grind only [Out.Canon, logEvent_canon, setCore_canon]

/-! ### Requests of other packages and their answers -/

theorem servePeer_canon {src inc addr len f} (h : s.Canon) (hf : (f s).Canon) : (s.servePeer src inc addr len f).Canon := by
  fun_cases State.servePeer <;> grind only [send_canon]
@[simp] theorem dropRemote_canon {id} : (s.dropRemote id).Canon ↔ s.Canon := .rfl
theorem takeAnswer_canon {r a} (h : s.Canon) : (s.takeAnswer r a).Canon := by
  fun_cases State.takeAnswer <;> grind only [setCtx_canon, raise_canon, setEng_canon]
theorem takeRead_canon {r data poisoned} (h : s.Canon) : (s.takeRead r data poisoned).Canon := by
  fun_cases State.takeRead <;> grind only [setIo_canon, setEng_canon, begin_canon, takeAnswer_canon]
theorem takeWritten_canon {r} (h : s.Canon) : (s.takeWritten r).Canon := by
  fun_cases State.takeWritten <;> grind only [writePerformed_canon, setIo_canon, collProgress_canon]
theorem execRemoteRequest_canon {m'} (h : s.Canon) : Out.Canon (execRemoteRequest m' s) := by
  fun_cases execRemoteRequest <;> grind only [Out.Canon, State.Canon, servePeer_canon, send_canon, setMem_canon, addPoison_canon,
    write_canon, takeRead_canon, dropRemote_canon, takeWritten_canon, foldl_canon]
theorem failRequest_canon {r t} (h : s.Canon) : (s.failRequest r t).Canon := by
  fun_cases State.failRequest <;> grind only [failColl_canon, failNode_canon, failInst_canon, raise_canon, takeAnswer_canon]
theorem loseMessage_canon {c m' t} (h : s.Canon) : (s.loseMessage c m' t).Canon := by
  fun_cases State.loseMessage
  grind only [raise_canon, breakEnd_canon]
theorem loseRequest_canon {pkg id old} (h : s.Canon) : (s.loseRequest pkg id old).Canon := by
  fun_cases State.loseRequest <;> grind only [setFab_canon, failRequest_canon, dropRemote_canon, raise_canon, dropBatch_canon,
    loseMessage_canon, failColl_canon]
theorem recordInc_canon {pkg inc} (h : s.Canon) : (s.recordInc pkg inc).Canon := by
  fun_cases State.recordInc <;> grind only [setFab_canon]
theorem execRemoteTimeout_canon {pkg id} (h : s.Canon) : Out.Canon (execRemoteTimeout pkg id s) := by
  fun_cases execRemoteTimeout
  grind only [Out.Canon, loseRequest_canon]
theorem execIncarnationAnnounce_canon {pkg inc} (h : s.Canon) : Out.Canon (execIncarnationAnnounce pkg inc s) := by
  fun_cases execIncarnationAnnounce <;> grind only [Out.Canon, recordInc_canon, setFab_canon, breakEnd_canon, failColl_canon,
    failStage_canon, foldl_state_canon]
theorem execTorusPortDown_canon {port} (h : s.Canon) : Out.Canon (execTorusPortDown port s) := by
  fun_cases execTorusPortDown
  grind only [Out.Canon, setFab_canon]
theorem execTorusPortUp_canon {port} (h : s.Canon) : Out.Canon (execTorusPortUp port s) := by
  fun_cases execTorusPortUp
  grind only [Out.Canon, setFab_canon, send_canon, foldl_state_canon]

/-! ### Accesses of the host -/

theorem execBar4Read_canon {off len} (h : s.Canon) : Out.Canon (execBar4Read off len s) := by
  fun_cases execBar4Read <;> grind only [Out.Canon, send_canon]
theorem execBar4Write_canon {off data} (h : s.Canon) : Out.Canon (execBar4Write off data s) := by
  fun_cases execBar4Write <;> grind only [Out.Canon, State.Canon, setMem_canon, bar4Write_canon]
@[simp] theorem liveApt_canon {e} : (s.liveApt e).Canon ↔ s.Canon := .rfl
theorem hostRead_canon {off} (h : s.Canon) : (hostRead off s).Canon := by
  fun_cases hostRead <;> grind only [send_canon, liveApt_canon]
theorem kickRead_canon {q off} (h : s.Canon) : (kickRead q off s).Canon := by
  fun_cases kickRead <;> grind only [send_canon]
theorem sizeBar4_canon {log2} (h : s.Canon) : (sizeBar4 log2 s).Canon := by
  fun_cases sizeBar4 <;> grind only [setCmd_canon]
theorem writeQueue_canon {q off v} (h : s.Canon) : (s.writeQueue q off v).Canon := by
  fun_cases State.writeQueue <;> grind only [setQueue_canon]
theorem writeTier_canon {t off v} (h : s.Canon) : (s.writeTier t off v).Canon := by
  fun_cases State.writeTier <;> grind only [MemSide.Canon, State.Canon, occupancy_canon, setMem_canon]
theorem writeMem_canon {off v} (h : s.Canon) : (s.writeMem off v).Canon := by
  fun_cases State.writeMem <;> grind only [MemSide.Canon, State.Canon, setMem_canon, writeTier_canon]
theorem writeGroup_canon {g w v} (h : s.Canon) : (s.writeGroup g w v).Canon := by
  fun_cases State.writeGroup <;> grind only [setFab_canon, failColl_canon]
@[simp] theorem writeApt_canon {e w v} : (s.writeApt e w v).Canon ↔ s.Canon := .rfl
theorem writeCqi_canon {off v} (h : s.Canon) : (s.writeCqi off v).Canon := by
  fun_cases State.writeCqi <;> grind only [MemSide.Canon, State.Canon, setCmd_canon, setMem_canon, drainRecords_canon]
theorem writeMgmt_canon {off v} (h : s.Canon) : (s.writeMgmt off v).Canon := by
  fun_cases State.writeMgmt <;> grind only [setMgmt_canon]
theorem writeMsix_canon {off v} (h : s.Canon) : (s.writeMsix off v).Canon := by
  fun_cases State.writeMsix <;> grind only [setCmd_canon]
theorem execRegisterWrite_canon {off v} (h : s.Canon) : Out.Canon (execRegisterWrite off v s) := by
  fun_cases execRegisterWrite <;> grind only [Out.Canon, writeApt_canon, writeQueue_canon, writeMgmt_canon, writeMem_canon,
    writeGroup_canon, setChan_canon, writeMsix_canon, writeCqi_canon]

/-! ### Power, resets and firmware -/

theorem logError_canon {cause} (h : s.Canon) : (s.logError cause).Canon := by
  unfold State.logError
  exact setMgmt_canon.2 h
theorem tripped_canon {cause} (h : s.Canon) : (s.tripped cause).Canon := by
  unfold State.tripped
  exact setMgmt_canon.2 (send_canon.2 (logError_canon h))
theorem execPowerControlTick_canon {x} (h : s.Canon) : Out.Canon (execPowerControlTick x s) := by
  fun_cases execPowerControlTick <;> grind only [Out.Canon, setMgmt_canon, tripped_canon]
theorem execTrip_canon {signs} (h : s.Canon) : Out.Canon (execTrip signs s) := by
  fun_cases execTrip
  grind only [Out.Canon, tripped_canon]
theorem execParkedEnter_canon (h : s.Canon) : Out.Canon (execParkedEnter s) := by
  fun_cases execParkedEnter
  grind only [Out.Canon, setMgmt_canon]
theorem execStackWarnWindow_canon {stack} (h : s.Canon) : Out.Canon (execStackWarnWindow stack s) := by
  fun_cases execStackWarnWindow
  grind only [Out.Canon, setMgmt_canon]
theorem execCorrectedError_canon {error} (h : s.Canon) : Out.Canon (execCorrectedError error s) := by
  unfold execCorrectedError
  extract_lets a stack st die g n post old s1 s2
  have h2 : s2.Canon := canon_of_cells h rfl
  split
  · exact h
  · split
    · exact memNotice_canon h2
    · exact h2
theorem bootImage_canon {g} (h : s.Canon) : (s.bootImage g).Canon := by
  fun_cases State.bootImage <;> grind only [fresh_canon, send_canon]
theorem execColdReset_canon (h : s.Canon) : Out.Canon (execColdReset s) := by
  fun_cases execColdReset
  grind only [Out.Canon, fresh_canon, bootImage_canon]
theorem execWarmReset_canon (h : s.Canon) : Out.Canon (execWarmReset s) := by
  fun_cases execWarmReset
  grind only [Out.Canon, fresh_canon, bootImage_canon]
theorem fwCommand_canon {cmd f} (h : s.Canon) (hf : (f s).2.Canon) : Out.Canon (fwCommand s cmd f) := by
  fun_cases fwCommand <;> grind only [Out.Canon, setMgmt_canon]
theorem execLoad_canon (h : s.Canon) : Out.Canon (execLoad s) := fwCommand_canon h (by grind only [bootImage_canon])
theorem execCommit_canon (h : s.Canon) : Out.Canon (execCommit s) :=
  fwCommand_canon h (by grind only [State.Canon, setMgmt_canon])
theorem execEnrol_canon (h : s.Canon) : Out.Canon (execEnrol s) := fwCommand_canon h (by grind only [setMgmt_canon])
theorem execUnenrol_canon (h : s.Canon) : Out.Canon (execUnenrol s) :=
  fwCommand_canon h (by grind only [State.Canon, setMgmt_canon])
theorem execQuote_canon (h : s.Canon) : Out.Canon (execQuote s) :=
  fwCommand_canon h (by grind only [State.Canon, setMem_canon, write_canon])
theorem execFwcmdComplete_canon (h : s.Canon) : Out.Canon (execFwcmdComplete s) := by
  fun_cases execFwcmdComplete
  grind only [Out.Canon, setMgmt_canon]

/-! ### Turns, and what they do beside instructions -/

theorem pass_canon {t} (h : s.Canon) : (s.pass t).Canon := by
  fun_cases State.pass <;> grind only [State.Canon]
theorem peekTurn_canon (h : s.Canon) : (s.peekTurn).2.Canon := by
  fun_cases State.peekTurn <;> grind only [State.Canon]
theorem nextTurn_canon (h : s.Canon) : (s.nextTurn).2.Canon := by
  fun_cases State.nextTurn <;> grind only [peekTurn_canon]
theorem evictLine_canon {k n} (h : s.Canon) : (evictLine s k n).Canon := by
  fun_cases evictLine <;> grind only [flushLines_canon]
theorem onCore_canon {k f} (h : s.Canon) : (s.onCore k f).Canon := by
  fun_cases State.onCore <;> grind only [setCore_canon]
theorem onQuad_canon {q f} (h : s.Canon) : (s.onQuad q f).Canon := by
  fun_cases State.onQuad <;> grind only [setQuad_canon]

/-! ### Every instruction and every step -/

theorem exec_canon (h : s.Canon) (i : Instr) : Out.Canon (exec i s) := by
  cases i with
  | add | sub | and | or | xor | sll | srl | sra | mul | mulh | mulhu | div | divu | rem | remu | min | max | minu | maxu | andn =>
    simp only [exec_add, exec_sub, exec_and, exec_or, exec_xor, exec_sll, exec_srl, exec_sra, exec_mul, exec_mulh, exec_mulhu, exec_div,
      exec_divu, exec_rem, exec_remu, exec_min, exec_max, exec_minu, exec_maxu, exec_andn]
    exact aluR_canon h
  | clz | popc =>
    simp only [exec_clz, exec_popc]
    exact aluR1_canon h
  | addi | andi | ori | xori =>
    simp only [exec_addi, exec_andi, exec_ori, exec_xori]
    exact aluI_canon h
  | slli | srli | srai | liu | addpc | sel =>
    simp only [exec_slli, exec_srli, exec_srai, exec_liu, exec_addpc, exec_sel]
    exact ctlX_canon h
  | cmp | cmpi | plog =>
    simp only [exec_cmp, exec_cmpi, exec_plog]
    exact ctlP_canon h
  | br | jal | invi | sete | gete | setts | getts | movs =>
    simp only [exec_br, exec_jal, exec_invi, exec_sete, exec_gete, exec_setts, exec_getts, exec_movs]
    exact ctl_canon h fun _ _ _ => h
  | jalr => exact execJalr_canon h
  | ldb | ldh | ldw | ldd | ldbu | ldhu | ldwu =>
    simp only [exec_ldb, exec_ldh, exec_ldw, exec_ldd, exec_ldbu, exec_ldhu, exec_ldwu]
    exact loadWord_canon h
  | ldfeW => exact execLdfeW_canon h
  | ldfeE => exact execLdfeE_canon h
  | ldfeN =>
    rw [exec_ldfeN]
    exact feAccess_canon h fun _ _ _ _ _ _ => feLoad_canon h fun _ ht => ht
  | stb | sth | stw | std =>
    simp only [exec_stb, exec_sth, exec_stw, exec_std]
    exact storeWord_canon h
  | stfeF =>
    rw [exec_stfeF]
    exact feAccess_canon h fun _ _ _ _ _ _ => feStore_canon h
  | stfeWe => exact execStfeWe_canon h
  | feqQ | feqClr =>
    simp only [exec_feqQ, exec_feqClr]
    exact feAccess_canon h fun _ _ _ _ _ _ => h
  | feqSet =>
    rw [exec_feqSet]
    exact feAccess_canon h fun _ _ _ _ _ _ => fillGranule_canon h
  | invr | wbr | wbinvr =>
    simp only [exec_invr, exec_wbr, exec_wbinvr]
    exact rangeOp_canon h
  | fenceCls =>
    rw [exec_fenceCls]
    exact fence_canon h fun _ => h
  | fenceRel =>
    rw [exec_fenceRel]
    exact fence_canon h fun _ => relLines_canon h
  | fenceAcq | fenceAr =>
    simp only [exec_fenceAcq, exec_fenceAr]
    exact fence_canon h fun _ => acqLines_canon h
  | amoSwap | amoAdd | amoAnd | amoOr | amoXor | amoMin | amoMax | amoMinu | amoMaxu | amoFadd | amoCas =>
    simp only [exec_amoSwap, exec_amoAdd, exec_amoAnd, exec_amoOr, exec_amoXor, exec_amoMin, exec_amoMax, exec_amoMinu, exec_amoMaxu,
      exec_amoFadd, exec_amoCas]
    exact amo_canon h
  | redAdd | redAnd | redOr | redXor | redMin | redMax | redMinu | redMaxu | redFadd =>
    simp only [exec_redAdd, exec_redAnd, exec_redOr, exec_redXor, exec_redMin, exec_redMax, exec_redMinu, exec_redMaxu, exec_redFadd]
    exact red_canon h
  | qpush => exact execQpush_canon h
  | qpop => exact execQpop_canon h
  | racqP | racqC =>
    simp only [exec_racqP, exec_racqC]
    exact ringOp_canon h fun _ _ _ _ => racq_canon h
  | rrelP | rrelC =>
    simp only [exec_rrelP, exec_rrelC]
    exact ringOp_canon h fun _ _ _ _ => rrel_canon h
  | fork => exact execFork_canon h
  | join => exact execJoin_canon h
  | twait => exact execTwait_canon h
  | tpost => exact execTpost_canon h
  | barA => exact execBarA_canon h
  | barW => exact execBarW_canon h
  | barAw => exact execBarAw_canon h
  | barTry =>
    rw [exec_barTry]
    exact barrier_canon h fun _ _ _ _ => h
  | trmSend => exact execTrmSend_canon h
  | trmIdle => exact execTrmIdle_canon h
  | trmBusy => exact execTrmBusy_canon h
  | trmTest =>
    rw [exec_trmTest]
    exact trmDo_canon h fun _ _ _ _ => h
  | movts => exact execMovts_canon h
  | trap =>
    rw [exec_trap]
    exact ctl_canon h fun _ _ _ => raiseCtx_canon h
  | yield => exact execYield_canon h
  | done => exact execDone_canon h
  | instructionFetch => exact execInstructionFetch_canon h
  | enop | azero | amma | ammas | ammaz | atbld | atmma | adist | aargmin | adrain | adrainm | ascacc | acent | acdiv | aaccld | aaccst
    | amova | vspars =>
    simp only [exec_enop, exec_azero, exec_amma, exec_ammas, exec_ammaz, exec_atbld, exec_atmma, exec_adist, exec_aargmin, exec_adrain,
      exec_adrainm, exec_ascacc, exec_acent, exec_acdiv, exec_aaccld, exec_aaccst, exec_amova, exec_vspars]
    refine engWord_canon h fun i t ht => ?_
    grind only [Iss.Canon, done_canon, setCore_canon]
  | ehalt => exact execEhalt_canon h
  | eskip => exact execEskip_canon h
  | eflag => exact execEflag_canon h
  | sectionFetch => exact execSectionFetch_canon h
  | sectionExecute => exact execSectionExecute_canon h
  | engineWordComplete => exact execEngineWordComplete_canon h
  | adrainmStoresAccepted => exact execAdrainmStoresAccepted_canon h
  | vadd | vsub | vmul =>
    simp only [exec_vadd, exec_vsub, exec_vmul]
    exact float2_canon h
  | vfma | vbmax | vpack | vzbm | vcsum | vscan | vmov | vtrans | vshuf | vsel | vext | vins | vmlog | vmpop | vmfirst | vsfc | vhist =>
    simp only [exec_vfma, exec_vbmax, exec_vpack, exec_vzbm, exec_vcsum, exec_vscan, exec_vmov, exec_vtrans, exec_vshuf, exec_vsel,
      exec_vext, exec_vins, exec_vmlog, exec_vmpop, exec_vmfirst, exec_vsfc, exec_vhist]
    exact vectorWord_canon h
  | vmin | vmax =>
    simp only [exec_vmin, exec_vmax]
    exact floatMinMax_canon h
  | vabs | vneg | vrcp | vrsq | vexp2 | vlog2 | vclamp | vshl | vshr | vpopc =>
    simp only [exec_vabs, exec_vneg, exec_vrcp, exec_vrsq, exec_vexp2, exec_vlog2, exec_vclamp, exec_vshl, exec_vshr, exec_vpopc]
    exact unary_canon h
  | vscale | vcvt | vquant =>
    simp only [exec_vscale, exec_vcvt, exec_vquant]
    exact convWord_canon h
  | vcmp | vclass | vicmp =>
    simp only [exec_vcmp, exec_vclass, exec_vicmp]
    exact maskWord_canon h
  | viadd | visub | vimul | vimin | vimax =>
    simp only [exec_viadd, exec_visub, exec_vimul, exec_vimin, exec_vimax]
    exact int2_canon h
  | vand | vor | vxor =>
    simp only [exec_vand, exec_vor, exec_vxor]
    exact bit2_canon h
  | viota | vfill =>
    simp only [exec_viota, exec_vfill]
    exact fillWord_canon h
  | vunpk => exact execVunpk_canon h
  | vrsum | vrmax | vrmin | vramax =>
    simp only [exec_vrsum, exec_vrmax, exec_vrmin, exec_vramax]
    exact reduceWord_canon h
  | vbcast | vrot =>
    simp only [exec_vbcast, exec_vrot]
    exact moveWord_canon h
  | cld | cst | ccpy | cfill | cgath | cscat | cdec | cenc | cxfm | cunst | cbat | csend | crecv | crepart | cpref | cflush | cmetaRead
    | cmetaWrite =>
    simp only [exec_cld, exec_cst, exec_ccpy, exec_cfill, exec_cgath, exec_cscat, exec_cdec, exec_cenc, exec_cxfm, exec_cunst,
      exec_cbat, exec_csend, exec_crecv, exec_crepart, exec_cpref, exec_cflush, exec_cmetaRead, exec_cmetaWrite]
    exact copyWord_canon h
  | cwin => exact execCwin_canon h
  | cadv => exact execCadv_canon h
  | windowGranuleLand => exact execWindowGranuleLand_canon h
  | copyDataReturn => exact execCopyDataReturn_canon h
  | copyWriteAccept => exact execCopyWriteAccept_canon h
  | cstash | csdrop =>
    simp only [exec_cstash, exec_csdrop]
    exact firnWord_canon h
  | cchstStat => exact execCchstStat_canon h
  | cchstGrant => exact execCchstGrant_canon h
  | cringSum | cringMax | cringBcast =>
    simp only [exec_cringSum, exec_cringMax, exec_cringBcast]
    exact ringWord_canon h
  | cpin => exact execCpin_canon h
  | cunpin => exact execCunpin_canon h
  | kick => exact execKick_canon h
  | tailReadReturn => exact execTailReadReturn_canon h
  | queueEnable => exact execQueueEnable_canon h
  | queueDisable => exact execQueueDisable_canon h
  | recordEnter => exact execRecordEnter_canon h
  | nop => exact execNop_canon h
  | task => exact execTask_canon h
  | stage => exact execStage_canon h
  | xform => exact execXform_canon h
  | coll => exact execColl_canon h
  | signal => exact execSignal_canon h
  | wait => exact execWait_canon h
  | waitPoll => exact execWaitPoll_canon h
  | waitTimeout => exact execWaitTimeout_canon h
  | nodeComplete => exact execNodeComplete_canon h
  | cplheadReread => exact execCplheadReread_canon h
  | msixUnmask => exact execMsixUnmask_canon h
  | leasePhase => exact execLeasePhase_canon h
  | noticeackRetry => exact execNoticeackRetry_canon h
  | noticeackFail => exact execNoticeackFail_canon h
  | nqcfgWrite => exact execNqcfgWrite_canon h
  | nqheadWrite =>
    rw [exec_nqheadWrite]
    exact serve_canon h
  | tlbInvalidate => exact execTlbInvalidate_canon h
  | tlbInvalidateDone => exact execTlbInvalidateDone_canon h
  | atsInvalidate => exact execAtsInvalidate_canon h
  | bar4Read => exact execBar4Read_canon h
  | bar4Write => exact execBar4Write_canon h
  | registerWrite => exact execRegisterWrite_canon h
  | placeNode => exact execPlaceNode_canon h
  | placementReserve => exact execPlacementReserve_canon h
  | preemptTimeout => exact execPreemptTimeout_canon h
  | contextSave => exact execContextSave_canon h
  | contextResume => exact execContextResume_canon h
  | partStart => exact execPartStart_canon h
  | rendezvous => exact execRendezvous_canon h
  | iterLong => exact execIterLong_canon h
  | retire => exact execRetire_canon h
  | faultTeardown => exact execFaultTeardown_canon h
  | frheadWrite =>
    rw [exec_frheadWrite]
    exact drainRecords_canon h
  | podBarrierArrival => exact execPodBarrierArrival_canon h
  | trmTokenPass => exact execTrmTokenPass_canon h
  | mbsEvaluate =>
    rw [exec_mbsEvaluate]
    exact evaluate_canon h
  | starveExpiry => exact execStarveExpiry_canon h
  | spanReportReceive => exact execSpanReportReceive_canon h
  | spanPickReceive => exact execSpanPickReceive_canon h
  | spanStartTime => exact execSpanStartTime_canon h
  | spanMemberLost => exact execSpanMemberLost_canon h
  | firnWriteDone => exact execFirnWriteDone_canon h
  | firnFillDone => exact execFirnFillDone_canon h
  | bankSwitchComplete => exact execBankSwitchComplete_canon h
  | neveDisplace => exact execNeveDisplace_canon h
  | poisonDetect => exact execPoisonDetect_canon h
  | memoryEventRecord => exact execMemoryEventRecord_canon h
  | rowActivation => exact execRowActivation_canon h
  | rowRefresh | acreset | parkRequest | parkClear | powerLoss =>
    simp only [exec_rowRefresh, exec_acreset, exec_parkRequest, exec_parkClear, exec_powerLoss]
    exact h
  | promoteCount => exact execPromoteCount_canon h
  | tierHigh | tierLow =>
    simp only [exec_tierHigh, exec_tierLow]
    exact postCrossing_canon h
  | rgcmd => exact execRgcmd_canon h
  | rgcmdDone => exact execRgcmdDone_canon h
  | tmcmd => exact execTmcmd_canon h
  | tierMoveDone => exact execTierMoveDone_canon h
  | calvctlGo => exact execCalvctlGo_canon h
  | calvMapLoaded => exact execCalvMapLoaded_canon h
  | calvLineCopy => exact execCalvLineCopy_canon h
  | calvMoveDone => exact execCalvMoveDone_canon h
  | calvSettleDone => exact execCalvSettleDone_canon h
  | phase => exact execPhase_canon h
  | channelEndOpen => exact execChannelEndOpen_canon h
  | channelEndClose => exact execChannelEndClose_canon h
  | messageDelivered => exact execMessageDelivered_canon h
  | messageConfirm => exact execMessageConfirm_canon h
  | ackReceive => exact execAckReceive_canon h
  | channelBroken => exact execChannelBroken_canon h
  | batchReceive => exact execBatchReceive_canon h
  | batchReply => exact execBatchReply_canon h
  | batchResend => exact execBatchResend_canon h
  | remoteRequest => exact execRemoteRequest_canon h
  | resetNak =>
    rw [exec_resetNak]
    exact loseRequest_canon (recordInc_canon h)
  | remoteTimeout => exact execRemoteTimeout_canon h
  | incarnationAnnounce => exact execIncarnationAnnounce_canon h
  | ringChunkReceive => exact execRingChunkReceive_canon h
  | driftLoadsReceive => exact execDriftLoadsReceive_canon h
  | driftOfferReceive => exact execDriftOfferReceive_canon h
  | driftRecordsReceive => exact execDriftRecordsReceive_canon h
  | powerControlTick => exact execPowerControlTick_canon h
  | trip => exact execTrip_canon h
  | linkRetrain | firmwareError =>
    simp only [exec_linkRetrain, exec_firmwareError]
    exact logError_canon h
  | parkedEnter => exact execParkedEnter_canon h
  | correctedError => exact execCorrectedError_canon h
  | stackWarnWindow => exact execStackWarnWindow_canon h
  | load => exact execLoad_canon h
  | commit => exact execCommit_canon h
  | enrol => exact execEnrol_canon h
  | unenrol => exact execUnenrol_canon h
  | quote => exact execQuote_canon h
  | coldReset => exact execColdReset_canon h
  | warmReset => exact execWarmReset_canon h
  | illegalOpcode => exact execIllegalOpcode_canon h
  | torusPortDown => exact execTorusPortDown_canon h
  | torusPortUp => exact execTorusPortUp_canon h
  | fwcmdComplete => exact execFwcmdComplete_canon h

theorem runDecoded_canon {r} (h : s.Canon) : Out.Canon (runDecoded r s) := by
  cases r with
  | ok i => exact exec_canon h i
  | error f => exact execIllegalOpcode_canon h

theorem stepContext_canon {k c} (h : s.Canon) : Out.Canon (stepContext s k c) := by
  unfold stepContext
  split
  · have hw := fetchWord_canon (k := k) (c := c) h
    split <;> rename_i e
    · rw [e] at hw; exact runDecoded_canon hw
    · exact raiseCtx_canon h
    · rw [e] at hw; exact hw
  · exact h

theorem stepEngine_canon {k e} (h : s.Canon) : Out.Canon (stepEngine s k e) := by
  unfold stepEngine
  split
  · split
    · split
      · exact runDecoded_canon h
      · exact h
    · exact h
  · exact h

theorem runAct_canon (h : s.Canon) (a : Act) : Out.Canon (runAct s a) := by
  cases a with
  | context k c => simp only [runAct]; split; exacts [stepContext_canon h, h]
  | engine k e => simp only [runAct]; split; exacts [stepEngine_canon h, h]
  | event i => exact exec_canon (s := { s with cur := .none }) h i
  | evaluate n => exact evaluate_canon (s := { s with cur := .none }) h
  | allocate k va bank way evf => simp only [runAct]; split; exacts [allocate_canon h, h]
  | evictD k n => simp only [runAct]; split; exacts [evictLine_canon h, h]
  | evictI | evictTlb => exact onCore_canon h
  | evictQuadTlb => exact onQuad_canon h
  | hostRead => exact hostRead_canon h
  | kickRead => exact kickRead_canon h
  | setMsix => exact setMsix_canon h
  | sizeBar4 => exact sizeBar4_canon h

theorem step_canon (h : s.Canon) : Out.Canon (step s) := by
  unfold step
  extract_lets n s1
  split
  · trivial
  · exact runAct_canon (pass_canon (nextTurn_canon h)) _

end Sys2Proof.Machine

/-- Settles O57: `Memory.wf s.mem.cells` is `s.Canon`, and `step_canon` says that the state after a step has it. -/
theorem memoryStaysCanonical : Obligations.MemoryStaysCanonical := by
  unfold Obligations.MemoryStaysCanonical Sys2Proof.Safety.Kept
  intro s t h e
  have ht := Sys2Proof.Machine.step_canon (s := s) h
  rwa [e] at ht

end

section
/-! MOVS, MOVTS and the switch of a bank (R12, R64, R65, R200, R284, R285): the values of the special registers, the branches of a MOVTS
to QBMODE, what a completed switch leaves in its quad and in memory, and the faults of the contexts that wait on its bank. -/

set_option Elab.async false

namespace Sys2Proof.Machine

open Sys2Proof.Safety

/-! ### Reading a special register -/

theorem exec_movs_runs {s : State} {k : Fin 128} {c : CtxId} {g : Guard} (h : Runs s k c g) (rd : Fin 32) (r : SpecReg) :
    exec (.movs g rd r) s = .next (s.retX k c rd (s.special k r)) := by
  rw [exec_movs, execMovs, ctl_runs h]

section
variable {s : State} {k : Fin 128} {c : CtxId} {g : Guard} (h : Runs s k c g) (rd : Fin 32) {r : SpecReg}
include h

/-- A special register that gives the number `v` reads as `v`. -/
theorem exec_movs_number {v : Nat} (hv : s.special k r = w64 v) :
    exec (.movs g rd r) s = .next (s.retX k c rd (BitVec.ofNat 64 v)) := by
  rw [exec_movs_runs h, hv, w64]

/-- A special register that gives a narrower field is zero-extended (R12). -/
theorem exec_movs_narrow {n : Nat} {x : BitVec n} (hx : s.special k r = x.setWidth 64) :
    exec (.movs g rd r) s = .next (s.retX k c rd (BitVec.ofNat 64 x.toNat)) := by
  rw [exec_movs_runs h, hx, BitVec.ofNat_toNat]

/-- A special register that gives a whole word reads as it is. -/
theorem exec_movs_word {x : W64} (hx : s.special k r = x) :
    exec (.movs g rd r) s = .next (s.retX k c rd (BitVec.ofNat 64 x.toNat)) :=
  exec_movs_narrow h rd (hx.trans (BitVec.setWidth_eq x).symm)

end

/-! ### Writing a special register -/

theorem exec_movts_fcsr {s : State} {k : Fin 128} {c : CtxId} {g : Guard} (h : Runs s k c g) (ra : Fin 32) :
    exec (.movts g ra .fcsr) s =
      .next ((s.setCore k { s.core k with fcsr := ((s.ctx k c).getX ra).setWidth 32 &&& fcsrMask }).advance k c) := by
  rw [exec_movts, execMovts, ctl_runs h]

theorem exec_movts_flags {s : State} {k : Fin 128} {c : CtxId} {g : Guard} (h : Runs s k c g) (ra : Fin 32) :
    exec (.movts g ra .flags) s =
      .next ((s.setCore k { s.core k with flags := ((s.ctx k c).getX ra).setWidth 32 &&& flagsMask }).advance k c) := by
  rw [exec_movts, execMovts, ctl_runs h]

theorem exec_movts_qbmode {s : State} {k : Fin 128} {c : CtxId} {g : Guard} (h : Runs s k c g) (ra : Fin 32) :
    exec (.movts g ra .qbmode) s = movtsQbmode s k c ((s.ctx k c).getX ra) := by
  rw [exec_movts, execMovts, ctl_runs h]

/-- Every other register is read-only (R65, R188). -/
theorem exec_movts_readOnly {s : State} {k : Fin 128} {c : CtxId} {g : Guard} (h : Runs s k c g) (ra : Fin 32) {r : SpecReg}
    (hf : r ≠ .fcsr) (hl : r ≠ .flags) (hq : r ≠ .qbmode) :
    exec (.movts g ra r) s = .next (s.raiseCtx k c (.plain .illegalOperand)) := by
  rw [exec_movts, execMovts, ctl_runs h]
  cases r with
  | fcsr => exact absurd rfl hf
  | flags => exact absurd rfl hl
  | qbmode => exact absurd rfl hq
  | _ => rfl

/-! ### MOVTS to QBMODE (R65, R284, R285) -/

/-- The mode that a value of QBMODE asks for a bank (R64). -/
def modeField (v : W64) (b : Nat) : Nat := bitsNat v.toNat (2 * b) 2

theorem modeField_reserved_iff (v : W64) :
    ((List.range 32).any fun b => bitsNat v.toNat (2 * b) 2 == 3) = true ↔ ∃ b, b < 32 ∧ modeField v b = 3 := by
  simp [modeField]

/-- The banks that begin to switch are those whose mode differs from the one asked for. -/
theorem Quad.mem_switches (q : Quad) (v : W64) (b m : Nat) :
    (b, m) ∈ q.switches v ↔ b < 32 ∧ modeField v b ≠ q.bankMode b ∧ m = modeField v b := by
  simp only [Quad.switches, modeField, List.mem_map, List.mem_filter, List.mem_range, bne_iff_ne, Prod.mk.injEq]
  constructor
  · rintro ⟨b, ⟨hb, hne⟩, rfl, rfl⟩
    exact ⟨hb, hne, rfl⟩
  · rintro ⟨hb, hne, rfl⟩
    exact ⟨b, ⟨hb, hne⟩, rfl, rfl⟩

/-- A MOVTS is refused for a FIFO bank that holds entries and is asked to switch. -/
theorem Quad.switchRefused_iff (q : Quad) (v : W64) :
    q.switchRefused (q.switches v) = true ↔
      ∃ b, b < 32 ∧ modeField v b ≠ q.bankMode b ∧ q.bankMode b = 2 ∧ q.entries b ≠ [] := by
  simp only [Quad.switchRefused, List.any_eq_true, Prod.exists, Quad.mem_switches, Bool.and_eq_true, beq_iff_eq, modeFifo,
    Bool.not_eq_true', List.isEmpty_eq_false_iff]
  constructor
  · rintro ⟨b, m, ⟨hb, hne, -⟩, hm, he⟩
    exact ⟨b, hb, hne, hm, he⟩
  · rintro ⟨b, hb, hne, hm, he⟩
    exact ⟨b, _, ⟨hb, hne, rfl⟩, hm, he⟩

section
variable {s : State} {k : Fin 128} {c : CtxId} {v : W64}

theorem movtsQbmode_noGrant (hg : (s.core k).qbGrant = false) : movtsQbmode s k c v = .next (s.raiseCtx k c (.plain .perm)) := by
  simp [movtsQbmode, hg]

theorem movtsQbmode_reserved (hg : (s.core k).qbGrant = true) (h3 : ∃ b, b < 32 ∧ modeField v b = 3) :
    movtsQbmode s k c v = .next (s.raiseCtx k c (.plain .illegalOperand)) := by
  simp only [movtsQbmode, hg, (modeField_reserved_iff v).mpr h3, Bool.not_true, Bool.false_eq_true, if_false, if_true]

/-- With the grant and no reserved mode, what is left is the wait, the check of the FIFOs and the switch. -/
theorem movtsQbmode_legal (hg : (s.core k).qbGrant = true) (h3 : ∀ b, b < 32 → modeField v b ≠ 3) :
    movtsQbmode s k c v =
      if (s.quad (quadOf k)).switching ≠ [] then .next s
      else if (s.quad (quadOf k)).switchRefused ((s.quad (quadOf k)).switches v) then .next (s.raiseCtx k c (.plain .illegalOperand))
      else .next ((s.setQuad (quadOf k) { s.quad (quadOf k) with switching := (s.quad (quadOf k)).switches v }).advance k c) := by
  have h3' : ((List.range 32).any fun b => bitsNat v.toNat (2 * b) 2 == 3) = false := by
    rw [← Bool.not_eq_true, modeField_reserved_iff]
    exact fun ⟨b, hb, h⟩ => h3 b hb h
  simp [movtsQbmode, hg, h3']

variable (hg : (s.core k).qbGrant = true) (h3 : ∀ b, b < 32 → modeField v b ≠ 3)
include hg h3

theorem movtsQbmode_waits (hs : (s.quad (quadOf k)).switching ≠ []) : movtsQbmode s k c v = .next s := by
  rw [movtsQbmode_legal hg h3, if_pos hs]

theorem movtsQbmode_refused (hs : (s.quad (quadOf k)).switching = [])
    (he : ∃ b, b < 32 ∧ modeField v b ≠ (s.quad (quadOf k)).bankMode b ∧ (s.quad (quadOf k)).bankMode b = 2 ∧
      (s.quad (quadOf k)).entries b ≠ []) :
    movtsQbmode s k c v = .next (s.raiseCtx k c (.plain .illegalOperand)) := by
  rw [movtsQbmode_legal hg h3, if_neg (not_not.mpr hs), if_pos ((Quad.switchRefused_iff ..).mpr he)]

theorem movtsQbmode_begins (hs : (s.quad (quadOf k)).switching = [])
    (he : ∀ b, b < 32 → modeField v b ≠ (s.quad (quadOf k)).bankMode b → (s.quad (quadOf k)).bankMode b = 2 →
      (s.quad (quadOf k)).entries b = []) :
    movtsQbmode s k c v =
      .next ((s.setQuad (quadOf k) { s.quad (quadOf k) with switching := (s.quad (quadOf k)).switches v }).advance k c) := by
  have hr : ¬ (s.quad (quadOf k)).switchRefused ((s.quad (quadOf k)).switches v) = true := by
    rw [Quad.switchRefused_iff]
    exact fun ⟨b, hb, hne, hm, hn⟩ => hn (he b hb hne hm)
  rw [movtsQbmode_legal hg h3, if_neg (not_not.mpr hs), if_neg hr]

end

/-! ### The fields of QBMODE after a switch -/

/-- The field of bank `b` replaced in a value of QBMODE. -/
def withField (v b m : Nat) : Nat := v - bitsNat v (2 * b) 2 * 2 ^ (2 * b) + m * 2 ^ (2 * b)

/-- A field that lies below bit `n` is not changed by dropping the bits from `n` on. -/
theorem bitsNat_mod {v lo w n : Nat} (h : lo + w ≤ n) : bitsNat (v % 2 ^ n) lo w = bitsNat v lo w := by
  obtain ⟨j, rfl⟩ := Nat.exists_eq_add_of_le h
  rw [bitsNat, bitsNat, Nat.pow_add, Nat.pow_add, Nat.mul_assoc, Nat.mod_mul_right_div_self, Nat.mod_mul_right_mod]

/-- A field that lies from bit `n` on is a field of the bits from `n` on. -/
theorem bitsNat_div {v lo w n : Nat} (h : n ≤ lo) : bitsNat v lo w = bitsNat (v / 2 ^ n) (lo - n) w := by
  rw [bitsNat, bitsNat, Nat.div_div_eq_div_mul, ← Nat.pow_add, Nat.add_sub_cancel' h]

/-- A value is its bits below a field, the field, and the bits above. -/
theorem eq_add_bitsNat (v lo w : Nat) : v = v % 2 ^ lo + 2 ^ lo * (bitsNat v lo w + 2 ^ w * (v / 2 ^ (lo + w))) := by
  rw [bitsNat, Nat.pow_add, ← Nat.div_div_eq_div_mul, Nat.mod_add_div, Nat.mod_add_div]

theorem withField_eq (v b m : Nat) :
    withField v b m = v % 2 ^ (2 * b) + 2 ^ (2 * b) * (m + 2 ^ 2 * (v / 2 ^ (2 * b + 2))) := by
  have h := eq_add_bitsNat v (2 * b) 2
  rw [Nat.mul_add, Nat.mul_comm _ (bitsNat v (2 * b) 2)] at h
  rw [withField, Nat.mul_add, Nat.mul_comm _ m]
  omega

theorem withField_mod (v b m : Nat) : withField v b m % 2 ^ (2 * b) = v % 2 ^ (2 * b) := by
  rw [withField_eq, Nat.add_mul_mod_self_left, Nat.mod_mod]

theorem withField_div (v b m : Nat) : withField v b m / 2 ^ (2 * b) = m + 2 ^ 2 * (v / 2 ^ (2 * b + 2)) := by
  rw [withField_eq, Nat.add_mul_div_left _ _ (Nat.two_pow_pos _), Nat.div_eq_of_lt (Nat.mod_lt _ (Nat.two_pow_pos _)), Nat.zero_add]

/-- Replacing the field of a bank gives that bank the mode and leaves the others theirs. -/
theorem bitsNat_withField (v b b' : Nat) {m : Nat} (hm : m < 4) :
    bitsNat (withField v b m) (2 * b') 2 = if b' = b then m else bitsNat v (2 * b') 2 := by
  rcases Nat.lt_trichotomy b' b with h | rfl | h
  · rw [if_neg (by omega), ← bitsNat_mod (n := 2 * b) (by omega), withField_mod, bitsNat_mod (by omega)]
  · rw [if_pos rfl, bitsNat, withField_div]
    omega
  · have hd : withField v b m / 2 ^ (2 * b + 2) = v / 2 ^ (2 * b + 2) := by
      rw [Nat.pow_add, ← Nat.div_div_eq_div_mul, withField_div, ← Nat.pow_add]
      omega
    rw [if_neg (by omega), bitsNat_div (n := 2 * b + 2) (by omega), hd, ← bitsNat_div (by omega)]

/-! ### What a completed switch leaves (R284, R285) -/

section
variable (s : State) (q : Fin 32) (b m : Nat)

/-- A completed switch changes nothing but the memory side and its quad. -/
theorem switchBank_eq : switchBank s q b m = (s.setMem (switchBank s q b m).mem).setQuad q ((switchBank s q b m).quad q) := by
  simp [switchBank]

@[simp] theorem switchBank_core (j : Fin 128) : (switchBank s q b m).core j = s.core j := rfl
@[simp] theorem switchBank_ctx (j : Fin 128) (d : CtxId) : (switchBank s q b m).ctx j d = s.ctx j d := rfl

theorem switchBank_mode : ((switchBank s q b m).quad q).mode = w64 (withField (s.quad q).mode.toNat b m) := by
  simp [switchBank, withField]

theorem switchBank_full : ((switchBank s q b m).quad q).full = kdelRange (b * 65536) ((b + 1) * 65536) (s.quad q).full := by
  simp [switchBank]

theorem switchBank_entries (b' : Nat) :
    ((switchBank s q b m).quad q).entries b' = if b' = b then [] else (s.quad q).entries b' := by
  have h : ((switchBank s q b m).quad q).entries b' = sget [] (serase b (s.quad q).fifo) b' := by simp [switchBank, Quad.entries]
  rw [h]
  split
  case isTrue e => rw [e, sget_serase_self]
  case isFalse e => exact sget_serase_ne _ _ e

theorem switchBank_isSwitching : ((switchBank s q b m).quad q).isSwitching b = false := by
  simp [switchBank, Quad.isSwitching]

/-- A bank that leaves cache or scratchpad mode is cleared; one that leaves FIFO mode has no bytes (R284). -/
theorem switchBank_byte (a : Nat) :
    (switchBank s q b m).mem.byte a =
      if (s.quad q).bankMode b ≠ 2 ∧ sramFlat q (b * 2 ^ 20) ≤ a ∧ a < sramFlat q (b * 2 ^ 20) + 2 ^ 20 then 0 else s.mem.byte a := by
  by_cases hm : (s.quad q).bankMode b = 2
  · simp [switchBank, modeFifo, hm]
  · simp [switchBank, modeFifo, hm, MemSide.byte, sget_sclear]

variable {b m}

theorem switchBank_modeField (hm : m < 4) {b' : Nat} (hb' : b' < 32) :
    bitsNat ((switchBank s q b m).quad q).mode.toNat (2 * b') 2 = if b' = b then m else bitsNat (s.quad q).mode.toNat (2 * b') 2 := by
  rw [switchBank_mode, w64, BitVec.toNat_ofNat, bitsNat_mod (by omega), bitsNat_withField _ _ _ hm]

theorem kmem_kdelRange (lo hi : Nat) (l : List Nat) (a : Nat) :
    kmem (kdelRange lo hi l) a = (kmem l a && (decide (a < lo) || decide (hi ≤ a))) := by
  rw [Bool.eq_iff_iff]
  simp [kmem, kdelRange]

/-- Every full bit of the bank is 0 (R284). -/
theorem switchBank_full_bank {o : Nat} (ho : o < 2 ^ 20) : kmem ((switchBank s q b m).quad q).full ((b * 2 ^ 20 + o) / 16) = false := by
  have hout : ¬ ((b * 2 ^ 20 + o) / 16 < b * 65536 ∨ (b + 1) * 65536 ≤ (b * 2 ^ 20 + o) / 16) := by omega
  rw [switchBank_full, kmem_kdelRange, ← Bool.decide_or, decide_eq_false hout, Bool.and_false]

theorem switchBank_full_other {j : Nat} (hj : j / 65536 ≠ b) :
    kmem ((switchBank s q b m).quad q).full j = kmem (s.quad q).full j := by
  have hout : j < b * 65536 ∨ (b + 1) * 65536 ≤ j := by omega
  simp [switchBank_full, kmem_kdelRange, hout]

end

/-! ### The contexts that wait at a word -/

/-- The cores with their numbers. -/
theorem State.mem_zipIdx_cores (s : State) (x : Core) (i : Nat) :
    (x, i) ∈ s.cores.toList.zipIdx ↔ i < 128 ∧ x = s.core (coreIx i) := by
  rw [List.mk_mem_zipIdx_iff_getElem?, List.getElem?_eq_some_iff]
  constructor
  · rintro ⟨h, rfl⟩
    have hi : i < 128 := by simpa using h
    exact ⟨hi, by simp [State.core, coreIx, Fin.ofNat, Nat.mod_eq_of_lt hi]⟩
  · rintro ⟨hi, rfl⟩
    exact ⟨by simpa using hi, by simp [State.core, coreIx, Fin.ofNat, Nat.mod_eq_of_lt hi]⟩

theorem coreIx_val (j : Fin 128) : coreIx j.val = j := by simp [coreIx]

theorem mem_allCtx (d : CtxId) : d ∈ allCtx := by cases d <;> decide

/-- The contexts that wait at a word are those that wait there on a core that no fault holds. -/
theorem State.mem_waiters (s : State) (p : CtxWait → Bool) (j : Fin 128) (d : CtxId) :
    (j, d) ∈ s.waiters p ↔ (s.core j).fault = none ∧ ∃ w, (s.ctx j d).waits = some w ∧ p w = true := by
  simp only [State.waiters, List.mem_flatMap, Prod.exists, State.mem_zipIdx_cores]
  constructor
  · rintro ⟨x, i, ⟨-, rfl⟩, hm⟩
    split at hm
    case isTrue => exact absurd hm List.not_mem_nil
    case isFalse hf =>
      obtain ⟨d', hd, e⟩ := List.mem_map.mp hm
      obtain ⟨rfl, rfl⟩ := Prod.mk.inj e
      exact ⟨by simpa using hf, (Option.any_eq_true ..).mp (List.mem_filter.mp hd).2⟩
  · rintro ⟨hf, hw⟩
    refine ⟨s.core j, j.val, ⟨j.isLt, by rw [coreIx_val]⟩, ?_⟩
    rw [hf, coreIx_val]
    exact List.mem_map_of_mem (List.mem_filter.mpr ⟨mem_allCtx d, (Option.any_eq_true ..).mpr hw⟩)

/-! ### Faults of several contexts -/

@[simp] theorem State.raise_quad (s : State) (k : Fin 128) (agent : Nat) (loc : W64) (tr : Trap) (q : Fin 32) :
    (s.raise k agent loc tr).quad q = s.quad q := by
  rcases s.raise_cases k agent loc tr with h | h <;> simp [h]
@[simp] theorem State.raiseCtx_quad (s : State) (k : Fin 128) (c : CtxId) (tr : Trap) (q : Fin 32) :
    (s.raiseCtx k c tr).quad q = s.quad q := s.raise_quad ..

/-- A core holds a fault with this trap. -/
def State.Holds (s : State) (j : Fin 128) (tr : Trap) : Prop := ∃ f, (s.core j).fault = some f ∧ f.trap = tr

/-- A core that has no fault holds the one that is raised on it. -/
theorem State.raiseCtx_holds {s : State} {j : Fin 128} (d : CtxId) (tr : Trap) (h : (s.core j).fault = none) :
    (s.raiseCtx j d tr).Holds j tr := by
  rw [State.raiseCtx, s.raise_takes j _ _ tr h]
  exact ⟨_, by rw [State.setCore_core_self], rfl⟩

/-- After a fault is raised on some core, each core has its former fault or one with the trap raised. -/
theorem State.raiseCtx_fault (s : State) (k : Fin 128) (c : CtxId) (tr : Trap) (j : Fin 128) :
    ((s.raiseCtx k c tr).core j).fault = (s.core j).fault ∨ (s.raiseCtx k c tr).Holds j tr := by
  rcases s.raise_cases k (ctxAgent c) (s.ctx k c).pc tr with h | h
  · exact .inl (by rw [State.raiseCtx, h])
  · by_cases e : j = k
    · subst e
      exact .inr ⟨_, by rw [State.raiseCtx, h, State.setCore_core_self], rfl⟩
    · exact .inl (by rw [State.raiseCtx, h, State.setCore_core_ne _ _ e])

theorem State.raiseCtx_keeps_holds {s : State} {j : Fin 128} {tr : Trap} (k : Fin 128) (c : CtxId) (h : s.Holds j tr) :
    (s.raiseCtx k c tr).Holds j tr := by
  rcases s.raiseCtx_fault k c tr j with e | e
  · exact h.imp fun f hf => ⟨e.trans hf.1, hf.2⟩
  · exact e

/-- The same trap raised at each context of a list. -/
def State.raiseAll (s : State) (l : List (Fin 128 × CtxId)) (tr : Trap) : State := l.foldl (fun t p => t.raiseCtx p.1 p.2 tr) s

theorem State.raiseAll_mem (s : State) (l : List (Fin 128 × CtxId)) (tr : Trap) : (s.raiseAll l tr).mem = s.mem :=
  foldl_keep (fun t : State => t.mem = s.mem) _ l s rfl fun t p _ h => by simpa using h

theorem State.raiseAll_quad (s : State) (l : List (Fin 128 × CtxId)) (tr : Trap) (q : Fin 32) : (s.raiseAll l tr).quad q = s.quad q :=
  foldl_keep (fun t : State => t.quad q = s.quad q) _ l s rfl fun t p _ h => by simpa using h

theorem State.raiseAll_keeps_holds {s : State} {j : Fin 128} {tr : Trap} (l : List (Fin 128 × CtxId)) (h : s.Holds j tr) :
    (s.raiseAll l tr).Holds j tr :=
  foldl_keep (fun t : State => t.Holds j tr) _ l s h fun _ _ _ ht => State.raiseCtx_keeps_holds _ _ ht

/-- A core of the list that has no fault holds one with the trap. -/
theorem State.raiseAll_holds {s : State} {j : Fin 128} {d : CtxId} {l : List (Fin 128 × CtxId)} (tr : Trap) (hl : (j, d) ∈ l)
    (h : (s.core j).fault = none) : (s.raiseAll l tr).Holds j tr := by
  induction l generalizing s with
  | nil => exact absurd hl List.not_mem_nil
  | cons p t ih =>
    rcases List.mem_cons.mp hl with rfl | ht
    · exact State.raiseAll_keeps_holds t (State.raiseCtx_holds d tr h)
    · rcases s.raiseCtx_fault p.1 p.2 tr j with e | e
      · exact ih ht (e.trans h)
      · exact State.raiseAll_keeps_holds t e

/-! ### The event that completes a switch -/

theorem failWaiters_eq (s : State) (q : Fin 32) (b : Nat) :
    failWaiters s q b = s.raiseAll (s.waiters (·.inBank q b)) (.plain .illegalOperand) := rfl

theorem failWaiters_mem (s : State) (q : Fin 32) (b : Nat) : (failWaiters s q b).mem = s.mem := s.raiseAll_mem ..

theorem failWaiters_quad (s : State) (q : Fin 32) (b : Nat) (q' : Fin 32) : (failWaiters s q b).quad q' = s.quad q' :=
  s.raiseAll_quad ..

/-- A core with a context that waits on the bank takes the fault (R200, R285). -/
theorem failWaiters_holds {s : State} {q : Fin 32} {b : Nat} {j : Fin 128} {d : CtxId} (hf : (s.core j).fault = none)
    (hw : ∃ w, (s.ctx j d).waits = some w ∧ w.inBank q b = true) : (failWaiters s q b).Holds j (.plain .illegalOperand) :=
  State.raiseAll_holds _ ((s.mem_waiters _ j d).mpr ⟨hf, hw⟩) hf

/-- Where no context waits on the bank, none faults. -/
theorem failWaiters_none {s : State} {q : Fin 32} {b : Nat}
    (h : ∀ j d, (s.core j).fault = none → ∀ w, (s.ctx j d).waits = some w → w.inBank q b = false) : failWaiters s q b = s := by
  have hn : s.waiters (·.inBank q b) = [] := by
    refine List.eq_nil_iff_forall_not_mem.mpr fun ⟨j, d⟩ hm => ?_
    obtain ⟨hf, w, hw, hb⟩ := (s.mem_waiters _ j d).mp hm
    exact absurd hb (by simp [h j d hf w hw])
  rw [failWaiters_eq, hn]
  rfl

theorem quadIx_val (q : Fin 32) : quadIx q.val = q := by simp [quadIx]

/-- A switch that is under way completes, and the contexts that wait on the bank fault (R284, R285). -/
theorem exec_bankSwitchComplete_switching {s : State} {q : Fin 32} {b m : Nat} (hb : b < 32)
    (h : (s.quad q).switching.find? (·.1 == b) = some (b, m)) :
    exec (.bankSwitchComplete q.val b) s = .next (failWaiters (switchBank s q b m) q b) := by
  simp [execBankSwitchComplete, quadIx_val, h, hb]

end Sys2Proof.Machine

open Sys2Proof.Machine in
/-- Settles O12: each special register reads by its row of `State.special`, a MOVTS takes the branch of its rule, and a completed
switch is the update `switchBank` followed by the faults of the waiting contexts, which change neither memory nor a quad. -/
theorem specialRegistersAndBanks : Obligations.SpecialRegistersAndBanks := by
  unfold Obligations.SpecialRegistersAndBanks
  refine ⟨?reads, ?writes, ?completes⟩
  case reads =>
    intro s k c g rd h
    have number {r : Sys2Proof.SpecReg} {v : Nat} := exec_movs_number h rd (r := r) (v := v)
    have narrow {r : Sys2Proof.SpecReg} {n : Nat} {x : BitVec n} := exec_movs_narrow h rd (r := r) (x := x)
    have word {r : Sys2Proof.SpecReg} {x : BitVec 64} := exec_movs_word h rd (r := r) (x := x)
    exact ⟨narrow rfl, narrow rfl, narrow rfl, narrow rfl, narrow rfl, narrow rfl, narrow rfl, narrow rfl, narrow rfl,
      number rfl, number rfl, number rfl, number rfl, number rfl, number rfl, number rfl, word rfl, number rfl,
      narrow rfl, narrow rfl, word rfl, word rfl, word rfl, word rfl, fun i => ⟨word rfl, word rfl⟩⟩
  case writes =>
    intro s k c g ra r h
    have hq := exec_movts_qbmode h ra
    exact ⟨exec_movts_fcsr h ra, exec_movts_flags h ra, exec_movts_readOnly h ra,
      fun hg => hq.trans (movtsQbmode_noGrant hg),
      fun hg h3 => hq.trans (movtsQbmode_reserved hg h3),
      fun hg h3 hs => hq.trans (movtsQbmode_waits hg h3 hs),
      fun hg h3 hs he => hq.trans (movtsQbmode_refused hg h3 hs he),
      fun hg h3 hs he => ⟨_, hq.trans (movtsQbmode_begins hg h3 hs he), Quad.mem_switches _ _⟩⟩
  case completes =>
    intro s q b m hb hm hf
    have he := exec_bankSwitchComplete_switching hb hf
    refine ⟨fun j d hj hw => ?waiting, (switchBank s q b m).quad q, (switchBank s q b m).mem, fun hn => ?unwaited,
      ⟨_, he, failWaiters_mem .., failWaiters_quad ..⟩, fun b' => switchBank_modeField s q (by omega),
      fun o => switchBank_full_bank s q, fun j => switchBank_full_other s q, fun hne o ho => ?cleared, fun a ha => ?kept,
      ?entries, fun b' hne => ?otherEntries, switchBank_isSwitching s q b m⟩
    case waiting =>
      obtain ⟨f, hf, htr⟩ := failWaiters_holds (s := switchBank s q b m) hj hw
      exact ⟨_, f, he, hf, htr⟩
    case unwaited => rw [he, failWaiters_none (s := switchBank s q b m) hn, ← switchBank_eq]
    case cleared => rw [switchBank_byte, if_pos ⟨hne, by unfold sramFlat; omega, by unfold sramFlat; omega⟩]
    case kept => rw [switchBank_byte, if_neg (by omega)]
    case entries => rw [switchBank_entries, if_pos rfl]
    case otherEntries => rw [switchBank_entries, if_neg hne]

end

section

/-! # Reserved bits of FCSR and of the tile shapes (O58)

`State.Clean s`: the reserved bits of FCSR and of every TSHAPE of every core are zero (R28, R67). Four kinds of
update write these registers: a move to FCSR and a shape, which mask the value; a core that is reset, freed or
begun, which has the zeros of reset; and a core resumed from a saved area, whose head is masked as it is read.
Everything else a step does to a core keeps `Core.modes`, the two fields together. One lemma `f_clean` per function
of the model says that what it returns is clean, in the order of the model's definitions; `step_clean` ends it. -/

set_option Elab.async false

namespace Sys2Proof.Machine

/-! ### The registers with reserved bits, and what leaves them as they are -/

/-- The registers of a core whose reserved bits read as zero: FCSR and the tile shapes. -/
def Core.modes (c : Core) : W32 × Vector W32 48 := (c.fcsr, c.tshape)

/-- The reserved bits of FCSR and of every tile shape are zero (R28, R67). -/
def ModesClean (x : W32 × Vector W32 48) : Prop := x.1 &&& 0xFFFFFFC8 = 0 ∧ ∀ n : Fin 48, x.2[n] &&& 0x3FF = 0

def CoresClean (v : Vector Core 128) : Prop := ∀ k : Fin 128, ModesClean v[k].modes

def State.Clean (s : State) : Prop := CoresClean s.cores

theorem State.Clean.core {s : State} (h : s.Clean) (k : Fin 128) : ModesClean (s.core k).modes := h k

theorem CoresClean.map {v : Vector Core 128} (h : CoresClean v) {f : Core → Core} (hf : ∀ c, (f c).modes = c.modes) :
    CoresClean (v.map f) := by
  intro k
  show ModesClean ((v.map f)[k.val]).modes
  rw [Vector.getElem_map, hf]
  exact h k

theorem reset_modesClean : ModesClean Core.reset.modes := by
  refine ⟨rfl, fun n => ?_⟩
  show (Vector.replicate 48 (0 : W32))[n] &&& 0x3FF = 0
  simp

theorem fcsr_modesClean {x : W32 × Vector W32 48} (h : ModesClean x) (v : W32) : ModesClean (v &&& fcsrMask, x.2) := by
  refine ⟨?_, h.2⟩
  show v &&& 0x37#32 &&& 0xFFFFFFC8#32 = 0
  rw [BitVec.and_assoc]
  exact BitVec.and_zero

theorem shapeMask_clean (v : W32) : v &&& 0xFFFFFC00#32 &&& 0x3FF = 0 := by
  rw [BitVec.and_assoc]
  exact BitVec.and_zero

theorem tshapeOf_modesClean {x : W32 × Vector W32 48} (h : ModesClean x) (t : Fin 48) (v : W64) :
    ModesClean (x.1, x.2.set t (tshapeOf v)) := by
  refine ⟨h.1, fun n => ?_⟩
  show (x.2.set t (tshapeOf v))[n.val] &&& 0x3FF = 0
  rw [Vector.getElem_set]
  split
  · exact shapeMask_clean _
  · exact h.2 n

theorem Core.consume_modes {c d : Core} {self srcs} (h : c.consume self srcs = some d) : d.modes = c.modes := by
  unfold Core.consume at h
  split at h
  · cases h
    exact foldl_keep (fun x : Core => x.modes = c.modes) _ _ c rfl fun _ _ _ hd => hd
  · cases h
theorem Core.post_modes {c d : Core} {self dsts} (h : c.post self dsts = .ok d) : d.modes = c.modes := by
  unfold Core.post at h
  split at h
  · cases h
  · cases h
    exact foldl_keep (fun x : Core => x.modes = c.modes) _ _ c rfl fun _ _ _ hd => hd

@[simp] theorem Core.setCtx_modes {c : Core} {i x} : (c.setCtx i x).modes = c.modes := by cases i <;> rfl
@[simp] theorem Core.setEng_modes {c : Core} {e y} : (c.setEng e y).modes = c.modes := by cases e <;> rfl
@[simp] theorem setArrive_modes {c : Core} {i sc v} : (setArrive c i sc v).modes = c.modes := by
  cases sc with
  | core => exact Core.setCtx_modes
  | quad | die | package | pod => rfl
@[simp] theorem setE_modes {c : Core} {n v} : (setE c n v).modes = c.modes := rfl
@[simp] theorem Core.setTileBytes_modes {c : Core} {t row byte bs} : (c.setTileBytes t row byte bs).modes = c.modes := rfl
@[simp] theorem Core.putRow_modes {c : Core} {t row f l} : (c.putRow t row f l).modes = c.modes := rfl
@[simp] theorem Core.putMeta_modes {c : Core} {t row cols vals} : (c.putMeta t row cols vals).modes = c.modes := rfl
@[simp] theorem Core.startPart_modes {c : Core} {r now} : (c.startPart r now).modes = c.modes := rfl
@[simp] theorem Core.freed_modes {c : Core} : c.freed.modes = Core.reset.modes := rfl
@[simp] theorem freshCore_modes {s : State} {i r old} : (s.freshCore i r old).modes = Core.reset.modes := rfl
@[simp] theorem setDone_modes {c : Core} {sc v} : (setDone c sc v).modes = c.modes := by cases sc <;> rfl
@[simp] theorem Core.nextPart_modes {c : Core} {trip b} : (c.nextPart trip b).modes = c.modes := by
  fun_cases Core.nextPart <;> rfl

theorem readHead_modesClean (c : Core) (v : Nat) : ModesClean (c.readHead v).modes := by
  constructor
  · show BitVec.ofNat 32 _ &&& fcsrMask &&& 0xFFFFFFC8 = 0
    exact (fcsr_modesClean reset_modesClean _).1
  · intro n
    show (Vector.map (fun v : W32 => v &&& 0xFFFFFC00#32) _)[n.val] &&& 0x3FF = 0
    rw [Vector.getElem_map]
    exact shapeMask_clean _

/-! ### Words of the array and of the vector engine -/

theorem foldl_modes {β : Type} (f : Core → β → Core) (l : List β) (c : Core) (hf : ∀ d b, (f d b).modes = d.modes) :
    (l.foldl f c).modes = c.modes :=
  foldl_keep (fun d : Core => d.modes = c.modes) f l c rfl fun d b _ hd => (hf d b).trans hd
theorem foldl_fst_modes {β : Type} (f : Core × Fl → β → Core × Fl) (l : List β) (x : Core × Fl)
    (hf : ∀ y b, (f y b).1.modes = y.1.modes) : (l.foldl f x).1.modes = x.1.modes :=
  foldl_keep (fun y : Core × Fl => y.1.modes = x.1.modes) f l x rfl fun y b _ hy => (hf y b).trans hy

@[simp] theorem Core.writeElems_modes {c : Core} {o row l} : (c.writeElems o row l).modes = c.modes := by
  fun_cases Core.writeElems <;> rfl
@[simp] theorem Core.writeMatRow_modes {c : Core} {o row0 i vals} : (c.writeMatRow o row0 i vals).modes = c.modes := by
  fun_cases Core.writeMatRow <;> simp +zetaDelta
@[simp] theorem Core.writeMat_modes {c : Core} {o row0 vals} : (c.writeMat o row0 vals).modes = c.modes :=
  foldl_modes _ _ _ fun _ _ => writeMatRow_modes
@[simp] theorem Core.mapCells_modes {c : Core} {a n m f} : (c.mapCells a n m f).1.modes = c.modes :=
  foldl_fst_modes _ _ _ fun _ _ => foldl_fst_modes _ _ _ fun _ _ => rfl
@[simp] theorem Core.zeroCells_modes {c : Core} {a n m} : (c.zeroCells a n m).modes = c.modes := mapCells_modes
@[simp] theorem prodCells_modes {i p w terms cols} : (prodCells i p w terms cols).1.modes = i.c.modes := Core.mapCells_modes
@[simp] theorem drainClear_modes {c : Core} {p w} : (drainClear c p w).modes = c.modes := by
  fun_cases drainClear <;> simp
@[simp] theorem addPoint_modes {env fa a x p} : (addPoint env fa a x p).1.modes = x.1.modes := by
  unfold addPoint
  split
  · exact foldl_fst_modes _ _ _ fun _ _ => rfl
  · rfl
@[simp] theorem Core.writeLanes_modes {c : Core} {o row w l} : (c.writeLanes o row w l).modes = c.modes := by
  fun_cases Core.writeLanes <;> rfl
@[simp] theorem VCtx.write_modes {v : VCtx} {c : Core} {o n l} : (v.write c o n l).modes = c.modes := by
  unfold VCtx.write
  split
  · exact Core.writeLanes_modes
  · exact foldl_modes _ _ _ fun _ _ => Core.writeLanes_modes
@[simp] theorem vlanes_modes {i : Issue} {m v d srcs every f} : (vlanes i m v d srcs every f).1.modes = i.c.modes :=
  foldl_fst_modes _ _ _ fun _ _ => VCtx.write_modes
@[simp] theorem packWrite_modes {c : Core} {d row0 rs} : (packWrite c d row0 rs).1.modes = c.modes :=
  foldl_fst_modes _ _ _ fun _ _ => by dsimp only; split; exacts [Core.writeElems_modes, rfl]

/-! ### Results that carry a state

The state in a result, where there is one, is clean. `π` says which part of a result is the state. -/

@[simp] def Out.Clean : Out → Prop
  | .next t => t.Clean
  | .fault _ | .refused _ => True

@[simp] def Got.Clean {α : Type} : Got α → Prop
  | .ok _ s | .wait s => s.Clean
  | .trap _ => True

@[simp] def AccClean {α : Type} (π : α → State) : Acc α → Prop
  | .ok a => (π a).Clean
  | .trap _ | .wait => True

@[simp] def OkClean {ε α : Type} (π : α → State) : Except ε α → Prop
  | .ok a => (π a).Clean
  | .error _ => True

@[simp] def SomeClean {α : Type} (π : α → State) : Option α → Prop
  | some a => (π a).Clean
  | none => True

@[simp] def Iss.Clean : Iss → Prop
  | .ok s _ => s.Clean
  | .trap _ | .hold => True

@[simp] def Come.Clean : Come → Prop
  | .all _ _ _ s | .wait s => s.Clean
  | .trap _ => True

@[simp] def Posted.Clean : Posted → Prop
  | .written _ s | .off s => s.Clean
  | .full => True

@[simp] def Walked.Clean : Walked → Prop
  | .done _ s | .missing _ _ _ _ s => s.Clean

@[simp] def Fetch.Clean : Fetch → Prop
  | .got _ s => s.Clean
  | .missing _ | .failed => True

@[simp] def Parse.Clean {α : Type} : Parse α → Prop
  | .ok _ s => s.Clean
  | .bad | .fetch .. => True

@[simp] def CpRead.Clean : CpRead → Prop
  | .all _ _ _ s | .wait s => s.Clean

@[simp] def TripRead.Clean : TripRead → Prop
  | .count _ s | .wait s => s.Clean
  | .bad _ => True

@[simp] def CollRead.Clean : CollRead → Prop
  | .got _ s | .wait s => s.Clean
  | .bad _ => True

/-! ### Updates of the state -/

variable {s : State}

theorem foldl_state_clean {β : Type} (f : State → β → State) (l : List β) {s : State} (h : s.Clean)
    (hf : ∀ s b, s.Clean → (f s b).Clean) : (l.foldl f s).Clean :=
  foldl_keep State.Clean f l s h fun s b _ => hf s b

theorem setCore_clean {k c} (h : s.Clean) (hc : ModesClean c.modes) : (s.setCore k c).Clean := by
  intro j
  show ModesClean ((s.cores.set k c)[j.val]).modes
  rw [Vector.getElem_set]
  split
  · exact hc
  · exact h j
@[simp] theorem setQuad_clean {q x} : (s.setQuad q x).Clean ↔ s.Clean := .rfl
@[simp] theorem setCmd_clean {c} : (s.setCmd c).Clean ↔ s.Clean := .rfl
@[simp] theorem setFab_clean {f} : (s.setFab f).Clean ↔ s.Clean := .rfl
@[simp] theorem setStages_clean {x} : (s.setStages x).Clean ↔ s.Clean := .rfl
@[simp] theorem setMgmt_clean {x} : (s.setMgmt x).Clean ↔ s.Clean := .rfl
@[simp] theorem setMem_clean {m} : (s.setMem m).Clean ↔ s.Clean := .rfl
@[simp] theorem send_clean {m} : (s.send m).Clean ↔ s.Clean := .rfl
/-- A core whose registers with reserved bits stay as they are. -/
theorem setCore_keep {k c} (h : s.Clean) (hc : c.modes = (s.core k).modes) : (s.setCore k c).Clean :=
    setCore_clean h (hc ▸ h.core k)
theorem setCore_clean_iff {k c} (hc : c.modes = (s.core k).modes) : (s.setCore k c).Clean ↔ s.Clean := by
  refine ⟨fun h j => ?_, fun h => setCore_keep h hc⟩
  by_cases e : j = k
  · have hk := h.core k
    rw [State.setCore_core_self, hc] at hk
    exact e ▸ hk
  · have hj := h.core j
    rwa [State.setCore_core_ne s c e] at hj
@[simp] theorem setCtx_clean {k c x} : (s.setCtx k c x).Clean ↔ s.Clean := setCore_clean_iff Core.setCtx_modes
@[simp] theorem setEng_clean {k e x} : (s.setEng k e x).Clean ↔ s.Clean := setCore_clean_iff Core.setEng_modes
@[simp] theorem retX_clean {k c rd v} : (s.retX k c rd v).Clean ↔ s.Clean := setCtx_clean
@[simp] theorem retP_clean {k c pd v} : (s.retP k c pd v).Clean ↔ s.Clean := setCtx_clean
theorem updCores_clean {ks f} (h : s.Clean) (hf : ∀ c : Core, ModesClean c.modes → ModesClean (f c).modes) :
    (s.updCores ks f).Clean :=
  foldl_state_clean _ _ h fun _ j ht => setCore_clean ht (hf _ (ht.core j))

theorem flushLines_clean {k p q} (h : s.Clean) : (s.flushLines k p q).Clean := by
  unfold State.flushLines
  exact setCore_keep (s := s.setMem _) h rfl
theorem clearQuad_clean {q pasid} (h : s.Clean) : (clearQuad s q pasid).Clean := by
  unfold clearQuad
  extract_lets q
  split <;> exact h
theorem switchBank_clean {q b m} (h : s.Clean) : (switchBank s q b m).Clean := h
theorem saveArea_clean {i r} (h : s.Clean) : (s.saveArea i r).Clean := h
theorem restoreRange_clean {q a x} (h : s.Clean) : (s.restoreRange q a x).Clean := h

/-! ### Faults, and the control words that work on registers alone -/

theorem sendOut_clean {fb target m'} (h : s.Clean) : (s.sendOut fb target m').Clean := by
  fun_cases State.sendOut <;> grind only [send_clean, setFab_clean]
@[simp] theorem advance_clean {k c} : (s.advance k c).Clean ↔ s.Clean := setCtx_clean
theorem raise_clean {k agent loc t} (h : s.Clean) : (s.raise k agent loc t).Clean := by
  fun_cases State.raise
  · exact setCore_keep h rfl
  · exact h
theorem raiseCtx_clean {k c t} (h : s.Clean) : (s.raiseCtx k c t).Clean := raise_clean h
theorem ctl_clean {g body} (h : s.Clean) (hb : ∀ k c x, Out.Clean (body k c x)) : Out.Clean (ctl s g body) := by
  fun_cases ctl <;> grind only [Out.Clean, advance_clean]
theorem ctlX_clean {g rd f} (h : s.Clean) : Out.Clean (ctlX s g rd f) := ctl_clean h fun _ _ _ => retX_clean.2 h
theorem ctlP_clean {g pd f} (h : s.Clean) : Out.Clean (ctlP s g pd f) := ctl_clean h fun _ _ _ => retP_clean.2 h
theorem aluR_clean {f g rd ra rb} (h : s.Clean) : Out.Clean (aluR f g rd ra rb s) := ctlX_clean h
theorem aluR1_clean {f g rd ra} (h : s.Clean) : Out.Clean (aluR1 f g rd ra s) := ctlX_clean h
theorem aluI_clean {f g rd ra imm} (h : s.Clean) : Out.Clean (aluI f g rd ra imm s) := ctlX_clean h
theorem hold_clean {k c w} (h : s.Clean) : Out.Clean (hold s k c w) := setCtx_clean.2 h
theorem execJalr_clean {g rd ra imm} (h : s.Clean) : Out.Clean (execJalr g rd ra imm s) :=
  ctl_clean h fun k c x => by dsimp only; split; exacts [raiseCtx_clean h, setCtx_clean.2 h]

/-! ### Translation, the L1 and the bytes of a load or a store -/

@[simp] theorem holdLeaf_clean {k t} : (s.holdLeaf k t).Clean ↔ s.Clean := setCore_clean_iff rfl
theorem translate_clean {k pasid va} (h : s.Clean) : (s.translate k pasid va).2.Clean := by
  fun_cases State.translate <;> grind only [holdLeaf_clean]
theorem ats_clean {pasid addr} (h : s.Clean) : (s.ats pasid addr).2.Clean := by
  fun_cases State.ats <;> grind only [State.Clean, setMem_clean]
theorem pageDest_clean {k pasid va n need} (h : s.Clean) : OkClean Prod.snd (s.pageDest k pasid va n need) := by
  fun_cases State.pageDest <;> grind only [OkClean, translate_clean, ats_clean]
theorem windowDest_clean {pasid va hwo} (h : s.Clean) : OkClean Prod.snd (s.windowDest pasid va hwo) := by
  fun_cases State.windowDest <;> grind only [OkClean]
theorem destAll_clean {f l} (h : s.Clean) (hf : ∀ t a b, t.Clean → OkClean Prod.snd (f t a b)) :
    OkClean Prod.snd (s.destAll f l) := by
  fun_induction State.destAll <;> grind only [OkClean]
theorem virtual_clean {k va n need} (h : s.Clean) : OkClean Prod.snd (s.virtual k va n need) := by
  fun_cases State.virtual
  case case3 => exact destAll_clean h fun t a b ht => windowDest_clean ht
  case case5 => exact destAll_clean h fun t a b ht => pageDest_clean ht
  all_goals trivial
theorem dropL1_clean {k} (h : s.Clean) : (s.dropL1 k).Clean := flushLines_clean h
theorem l1Part_clean {k ea va flat n} (h : s.Clean) : AccClean Prod.snd (s.l1Part k ea va flat n) := by
  fun_cases State.l1Part
  · trivial
  · trivial
  · exact setCore_keep h rfl
theorem accBind_clean {α β : Type} {π : α → State} {ρ : β → State} {x : Acc α} {f : α → Acc β} (hx : AccClean π x)
    (hf : ∀ a, (π a).Clean → AccClean ρ (f a)) : AccClean ρ (x.bind f) := by
  cases x with
  | ok a => exact hf a hx
  | trap | wait => trivial
theorem l1Load_clean {k va flat n} (h : s.Clean) : AccClean Prod.snd (s.l1Load k va flat n) := by
  fun_cases State.l1Load
  · exact l1Part_clean h
  · exact accBind_clean (l1Part_clean h) fun p hp => accBind_clean (l1Part_clean hp) fun q hq => hq
theorem l1Put_clean {k va flat bs} (h : s.Clean) : AccClean id (s.l1Put k va flat bs) := by
  fun_cases State.l1Put
  · trivial
  · exact setCore_keep h rfl
theorem l1Store_clean {k va flat bs} (h : s.Clean) : AccClean id (s.l1Store k va flat bs) := by
  fun_cases State.l1Store
  · exact l1Put_clean h
  · exact accBind_clean (l1Put_clean h) fun t ht => l1Put_clean ht
theorem sendRemote_clean {k who loc ea cls target inc addr len data} (h : s.Clean) :
    (s.sendRemote k who loc ea cls target inc addr len data).2.Clean := by
  fun_cases State.sendRemote
  grind only [setFab_clean, sendOut_clean]
theorem remoteLoad_clean {k c ea cls target inc addr n} (h : s.Clean) : (s.remoteLoad k c ea cls target inc addr n).Clean := by
  fun_cases State.remoteLoad
  grind only [sendRemote_clean, setCtx_clean]
theorem loadBytes_clean {k c ea cls n} (h : s.Clean) : (s.loadBytes k c ea cls n).Clean := by
  fun_cases State.loadBytes <;> grind only [AccClean, Got.Clean, OkClean, setCtx_clean, setQuad_clean, virtual_clean,
      l1Load_clean, remoteLoad_clean]
theorem storeBytes_clean {k c ea cls bs} (h : s.Clean) : (s.storeBytes k c ea cls bs).Clean := by
  fun_cases State.storeBytes <;> grind only [AccClean, Got.Clean, OkClean, State.Clean, id_eq, setQuad_clean, setMem_clean,
      virtual_clean, l1Store_clean, sendRemote_clean]
theorem run_clean {α : Type} {g : Got α} {k c f} (h : s.Clean) (hg : g.Clean) (hf : ∀ a t, t.Clean → Out.Clean (f a t)) :
    Out.Clean (g.run s k c f) := by
  cases g with
  | ok a t => exact hf a t hg
  | trap => exact raiseCtx_clean h
  | wait => exact hg

/-! ### Loads, stores and the words on full-empty bits -/

theorem loadWord_clean {size ext g rd ra cls imm} (h : s.Clean) : Out.Clean (loadWord size ext g rd ra cls imm s) :=
  ctl_clean h fun k c x => by
    dsimp only; split
    · exact raiseCtx_clean h
    · exact run_clean h (loadBytes_clean h) fun _ _ ht => setCtx_clean.2 ht
theorem storeWord_clean {size g rs ra cls imm} (h : s.Clean) : Out.Clean (storeWord size g rs ra cls imm s) :=
  ctl_clean h fun k c x => by
    dsimp only; split
    · exact raiseCtx_clean h
    · exact run_clean h (storeBytes_clean h) fun _ _ ht => advance_clean.2 ht
theorem padAccess_clean {k c ea n size body} (h : s.Clean) (hb : ∀ q off, Out.Clean (body q off)) :
    Out.Clean (padAccess s k c ea n size body) := by
  fun_cases padAccess <;> grind only [Out.Clean, raiseCtx_clean]
theorem feAccess_clean {g ra cls imm body} (h : s.Clean) (hb : ∀ k c x ea q off, Out.Clean (body k c x ea q off)) :
    Out.Clean (feAccess s g ra cls imm body) :=
  ctl_clean h fun k c x => by
    dsimp only; split
    · exact raiseCtx_clean h
    · split
      · exact h
      · exact padAccess_clean h fun q off => hb k c x _ q off
theorem feRead_clean {k c ea q off rd} (h : s.Clean) : (feRead s k c ea q off rd).Clean := by
  fun_cases feRead <;> grind only [raiseCtx_clean, setCtx_clean]
theorem serveLoad_clean {k c} (h : s.Clean) : (serveLoad s k c).Clean := by
  fun_cases serveLoad <;> grind only [feRead_clean]
theorem serveLoads_clean {q off} (h : s.Clean) : (serveLoads s q off).Clean := by
  fun_cases serveLoads
  grind only [serveLoad_clean, foldl_state_clean]
theorem fillGranule_clean {q off} (h : s.Clean) : (s.fillGranule q off).Clean := by
  fun_cases State.fillGranule <;> grind only [setQuad_clean, serveLoads_clean]
theorem feLoad_clean {k c ea q off rd f} (h : s.Clean) (hf : ∀ t, t.Clean → (f t).Clean) :
    Out.Clean (feLoad s k c ea q off rd f) := by
  fun_cases feLoad
  · exact raiseCtx_clean h
  · exact hf _ (feRead_clean h)
theorem feStore_clean {k c x q off rs} (h : s.Clean) : Out.Clean (feStore s k c x q off rs) :=
  fillGranule_clean (s := (s.setMem _).setCtx k c _) (setCtx_clean.2 h)
theorem execLdfeW_clean {g rd ra cls imm} (h : s.Clean) : Out.Clean (execLdfeW g rd ra cls imm s) :=
  feAccess_clean h fun k c x ea q off => by split; exacts [feLoad_clean h fun _ ht => ht, hold_clean h]
theorem execLdfeE_clean {g rd ra cls imm} (h : s.Clean) : Out.Clean (execLdfeE g rd ra cls imm s) :=
  feAccess_clean h fun k c x ea q off => by split; exacts [feLoad_clean h fun _ ht => ht, hold_clean h]
theorem execStfeWe_clean {g rs ra cls imm} (h : s.Clean) : Out.Clean (execStfeWe g rs ra cls imm s) :=
  feAccess_clean h fun k c x ea q off => by split; exacts [hold_clean h, feStore_clean h]

/-! ### Fetching, the engines' sections and what every engine word does -/

theorem fetch_clean {l pc o} (h : s.Clean) : (ILine.fetch l pc o s).Clean := by
  fun_cases ILine.fetch <;> grind only [Got.Clean]
theorem fetchMem_clean {k c x} (h : s.Clean) : (State.fetchWord.fetchMem s k c x).Clean := by
  fun_cases State.fetchWord.fetchMem <;> grind only [Got.Clean, OkClean, virtual_clean, fetch_clean, setCore_keep,
      Core.modes, setCtx_clean, sendRemote_clean]
theorem fetchWord_clean {k c} (h : s.Clean) : (s.fetchWord k c).Clean := by
  fun_cases State.fetchWord <;> grind only [Got.Clean, fetchMem_clean]
theorem execInstructionFetch_clean {core c} (h : s.Clean) : Out.Clean (execInstructionFetch core c s) := by
  fun_cases execInstructionFetch <;> grind only [Got.Clean, Out.Clean, fetchWord_clean, setCtx_clean]
theorem execFork_clean {g ra e} (h : s.Clean) : Out.Clean (execFork g ra e s) :=
  ctl_clean h fun k c x => by
    dsimp only; split
    · exact raiseCtx_clean h
    · split
      · exact advance_clean.2 (setEng_clean.2 h)
      · split
        · exact h
        · exact setEng_clean.2 h
theorem execJoin_clean {g es} (h : s.Clean) : Out.Clean (execJoin g es s) :=
  ctl_clean h fun k c x => by split; exacts [advance_clean.2 h, h]
theorem execTwait_clean {g es} (h : s.Clean) : Out.Clean (execTwait g es s) :=
  ctl_clean h fun k c x => by
    split
    · next hd => exact setCtx_clean.2 (setCore_keep h (Core.consume_modes hd))
    · exact hold_clean h
theorem execTpost_clean {g es} (h : s.Clean) : Out.Clean (execTpost g es s) :=
  ctl_clean h fun k c x => by
    split
    · exact h
    · split
      · next hd => exact advance_clean.2 (setCore_keep h (Core.post_modes hd))
      · exact raiseCtx_clean h
theorem streamPieces_clean {k e a l off} (h : s.Clean) : (s.streamPieces k e a l off).Clean := by
  fun_induction State.streamPieces <;> grind only [Got.Clean, setEng_clean, sendRemote_clean]
theorem streamBytes_clean {k e a n} (h : s.Clean) : (s.streamBytes k e a n).Clean := by
  fun_cases State.streamBytes <;> grind only [Got.Clean, OkClean, virtual_clean, streamPieces_clean]
theorem streamWords_clean {k e a n i} (h : s.Clean) : (s.streamWords k e a n i).Clean := by
  fun_induction State.streamWords <;> grind only [Got.Clean, streamBytes_clean]
theorem fetchSection_clean {k e a} (h : s.Clean) : (s.fetchSection k e a).Clean := by
  fun_cases State.fetchSection <;> grind only [Got.Clean, streamBytes_clean, streamWords_clean]
theorem execSectionFetch_clean {core g} (h : s.Clean) : Out.Clean (execSectionFetch core g s) := by
  fun_cases execSectionFetch <;> grind only [Got.Clean, Out.Clean, fetchSection_clean, setEng_clean]
theorem execSectionExecute_clean {core g} (h : s.Clean) : Out.Clean (execSectionExecute core g s) := by
  fun_cases execSectionExecute <;> grind only [Out.Clean, raise_clean, setEng_clean]
theorem engWord_clean {own t skip body} (h : s.Clean) (hb : ∀ i t, ModesClean i.c.modes → t.Clean → (body i t).Clean) :
    Out.Clean (engWord s own t skip body) := by
  unfold engWord
  split
  · split
    · trivial
    · split
      · exact h
      · next k e _ _ _ c hc =>
        have hm := Core.consume_modes hc
        have hr := hb (engIssue s k e c) (s.setCore k c) (hm ▸ h.core k) (setCore_keep h hm)
        dsimp only
        split
        · exact raise_clean h
        · exact h
        · next e => rw [e] at hr; exact setEng_clean.2 hr
  · trivial
theorem execIllegalOpcode_clean {f} (h : s.Clean) : Out.Clean (execIllegalOpcode f s) := by
  fun_cases execIllegalOpcode <;> grind only [Out.Clean, raiseCtx_clean, raise_clean]
theorem execEhalt_clean {t} (h : s.Clean) : Out.Clean (execEhalt t s) := by
  fun_cases execEhalt <;> grind only [Out.Clean, raise_clean, setEng_clean, setCore_keep, → Core.consume_modes, → Core.post_modes]
theorem execEngineWordComplete_clean {core g} (h : s.Clean) : Out.Clean (execEngineWordComplete core g s) := by
  fun_cases execEngineWordComplete <;> grind only [Out.Clean, raise_clean, setCore_keep, setEng_clean, → Core.post_modes,
      Core.modes]
theorem execEskip_clean {t e cond n} (h : s.Clean) : Out.Clean (execEskip t e cond n s) :=
  engWord_clean h fun i u hi hu => by
    split
    · trivial
    · split
      · trivial
      · exact hu
theorem execEflag_clean {t e} (h : s.Clean) : Out.Clean (execEflag t e s) :=
  engWord_clean h fun i u hi hu => by split; exacts [trivial, setCore_keep hu rfl]

/-! ### The engines' port to memory and the event log -/

theorem portAt_clean {k ea n need} (h : s.Clean) : (s.portAt k ea n need).Clean := by
  fun_cases State.portAt <;> grind only [Got.Clean, OkClean, virtual_clean]
theorem writePieces_clean {k loc ea cls data bad l off} (h : s.Clean) : (s.writePieces k loc ea cls data bad l off).Clean := by
  fun_induction State.writePieces <;> grind only [setMem_clean, send_clean, sendRemote_clean, State.Clean]
theorem portWrite_clean {k loc ea cls data bad} (h : s.Clean) : (s.portWrite k loc ea cls data bad).Clean := by
  fun_cases State.portWrite <;> grind only [Got.Clean, portAt_clean, writePieces_clean, setQuad_clean]
theorem logEvent_clean {type src count ctxid addr info} (h : s.Clean) : (s.logEvent type src count ctxid addr info).Clean := by
  fun_cases State.logEvent <;> grind only [State.Clean, setMem_clean]
@[simp] theorem freeBytes_clean {n} : (s.freeBytes n).2.Clean ↔ s.Clean := .rfl

/-! ### The common end of an engine word -/

theorem done_clean {i : Issue} {pt r} (h : s.Clean) (hi : ModesClean i.c.modes) (hr : r.1.modes = i.c.modes) :
    (i.done s pt r).Clean :=
  setCore_clean h (hr ▸ hi)

/-! ### Array words -/

theorem execAzero_clean {w} (h : s.Clean) : Out.Clean (execAzero w s) :=
  engWord_clean h fun i t hi ht => by grind only [Iss.Clean, done_clean, Core.zeroCells_modes]
theorem execAmma_clean {w} (h : s.Clean) : Out.Clean (execAmma w s) :=
  engWord_clean h fun i t hi ht => by grind only [Iss.Clean, done_clean, prodCells_modes]
theorem execAmmas_clean {w} (h : s.Clean) : Out.Clean (execAmmas w s) :=
  engWord_clean h fun i t hi ht => by grind only [Iss.Clean, done_clean, prodCells_modes]
theorem execAmmaz_clean {w} (h : s.Clean) : Out.Clean (execAmmaz w s) :=
  engWord_clean h fun i t hi ht => by grind only [Iss.Clean, done_clean, prodCells_modes]
theorem execAtbld_clean {w} (h : s.Clean) : Out.Clean (execAtbld w s) :=
  engWord_clean h fun i t hi ht => by grind only [Iss.Clean, done_clean, Core.modes]
theorem execAtmma_clean {w} (h : s.Clean) : Out.Clean (execAtmma w s) :=
  engWord_clean h fun i t hi ht => by grind only [Iss.Clean, done_clean, Core.mapCells_modes]
theorem execAdist_clean {w} (h : s.Clean) : Out.Clean (execAdist w s) :=
  engWord_clean h fun i t hi ht => by grind only [Iss.Clean, done_clean, Core.mapCells_modes]
theorem execAargmin_clean {w} (h : s.Clean) : Out.Clean (execAargmin w s) :=
  engWord_clean h fun i t hi ht => by grind only [Iss.Clean, done_clean, Core.writeElems_modes, foldl_fst_modes, setE_modes]
theorem execAdrain_clean {w} (h : s.Clean) : Out.Clean (execAdrain w s) :=
  engWord_clean h fun i t hi ht => by grind only [Iss.Clean, done_clean, Core.writeMat_modes, drainClear_modes]
theorem execAdrainm_clean {w} (h : s.Clean) : Out.Clean (execAdrainm w s) :=
  engWord_clean h fun i t hi ht => by grind only [Iss.Clean, done_clean, setCore_clean, drainClear_modes]
theorem execAscacc_clean {w} (h : s.Clean) : Out.Clean (execAscacc w s) :=
  engWord_clean h fun i t hi ht => by grind only [Iss.Clean, done_clean, Core.mapCells_modes]
theorem execAcent_clean {w} (h : s.Clean) : Out.Clean (execAcent w s) :=
  engWord_clean h fun i t hi ht => by grind only [Iss.Clean, done_clean, Core.zeroCells_modes, addPoint_modes,
      foldl_fst_modes, Core.modes]
theorem execAcdiv_clean {w} (h : s.Clean) : Out.Clean (execAcdiv w s) :=
  engWord_clean h fun i t hi ht => by grind only [Iss.Clean, done_clean, Core.writeMatRow_modes, foldl_fst_modes]
theorem execAaccld_clean {w} (h : s.Clean) : Out.Clean (execAaccld w s) :=
  engWord_clean h fun i t hi ht => by grind only [Iss.Clean, done_clean, Core.mapCells_modes]
theorem execAaccst_clean {w} (h : s.Clean) : Out.Clean (execAaccst w s) :=
  engWord_clean h fun i t hi ht => by grind only [Iss.Clean, done_clean, Core.writeMat_modes]
theorem execAmova_clean {w} (h : s.Clean) : Out.Clean (execAmova w s) :=
  engWord_clean h fun i t hi ht => by grind only [Iss.Clean, done_clean, Core.mapCells_modes]
theorem acceptRows_clean {k upc l} (h : s.Clean) : (acceptRows s k upc l).1.Clean := by
  fun_induction acceptRows <;> grind only [Got.Clean, portWrite_clean]
theorem freeAcc_clean {k a} (h : s.Clean) : (s.freeAcc k a).Clean := by
  unfold State.freeAcc
  extract_lets c acc
  clear_value acc
  exact setCore_keep (c := { c with acc := acc }) h rfl
theorem execAdrainmStoresAccepted_clean {core} (h : s.Clean) : Out.Clean (execAdrainmStoresAccepted core s) := by
  fun_cases execAdrainmStoresAccepted <;> grind only [Out.Clean, acceptRows_clean, setEng_clean, raise_clean, freeAcc_clean]

/-! ### Cache ranges and fences -/

theorem rangeOp_clean {g ra rb wb drop} (h : s.Clean) : Out.Clean (rangeOp g ra rb wb drop s) :=
  ctl_clean h fun _ _ _ => advance_clean.2 (flushLines_clean h)
theorem fence_clean {g has f} (h : s.Clean) (hf : ∀ k, (f s k).Clean) : Out.Clean (fence g has f s) :=
  ctl_clean h fun k _ _ => by split; exacts [h, advance_clean.2 (hf k)]
theorem relLines_clean {sc k} (h : s.Clean) : (relLines sc s k).Clean := by
  fun_cases relLines <;> grind only [flushLines_clean]
theorem acqLines_clean {sc k} (h : s.Clean) : (acqLines sc s k).Clean := by
  fun_cases acqLines <;> grind only [dropL1_clean]

/-! ### Atomics, queues and rings -/

theorem atomicDest_clean {k ea n} (h : s.Clean) : (atomicDest s k ea n).Clean := by
  fun_cases atomicDest <;> grind only [Got.Clean, OkClean, virtual_clean]
theorem dropLineAt_clean {k flat n} (h : s.Clean) : (dropLineAt s k flat n).Clean := flushLines_clean h
theorem atomic_clean {op g ra rb cls dbl exp ret} (h : s.Clean) (hr : ∀ t k c v, t.Clean → (ret t k c v).Clean) :
    Out.Clean (atomic op g ra rb cls dbl exp s ret) :=
  ctl_clean h fun k c x => by
    extract_lets n ea
    split
    · exact raiseCtx_clean h
    · split
      · exact h
      · refine run_clean h (atomicDest_clean h) fun flat t ht => ?_
        split
        · exact raiseCtx_clean h
        · exact hr _ _ _ _ (dropLineAt_clean ht)
theorem amo_clean {op g rd ra rb cls dbl} (h : s.Clean) : Out.Clean (amo op g rd ra rb cls dbl s) :=
  atomic_clean h fun _ _ _ _ ht => retX_clean.2 ht
theorem red_clean {op g ra rb cls dbl} (h : s.Clean) : Out.Clean (red op g ra rb cls dbl s) :=
  atomic_clean h fun _ _ _ _ ht => advance_clean.2 ht
theorem queueOp_clean {g ra cls f} (h : s.Clean) (hf : ∀ k c x a d slot, Out.Clean (f k c x a d slot)) :
    Out.Clean (queueOp g ra cls s f) :=
  ctl_clean h fun k c x => by
    dsimp only; split
    · exact h
    · refine padAccess_clean h fun q off => ?_
      split
      · exact raiseCtx_clean h
      · split
        · exact raiseCtx_clean h
        · exact hf ..
theorem ringOp_clean {g n consumer f} (h : s.Clean) (hf : ∀ k c r l, Out.Clean (f k c r l)) :
    Out.Clean (ringOp g n consumer s f) :=
  ctl_clean h fun k c x => by
    split
    · exact raiseCtx_clean h
    · split
      · exact raiseCtx_clean h
      · exact hf ..
@[simp] theorem setRing_clean {k n r} : (setRing s k n r).Clean ↔ s.Clean := setCore_clean_iff rfl
theorem racq_clean {k c rd n consumer avail addr r} (h : s.Clean) : Out.Clean (racq s k c rd n consumer avail addr r) := by
  fun_cases racq
  · exact setCtx_clean.2 (setRing_clean.2 h)
  · exact hold_clean h
theorem rrel_clean {k c n none_ r} (h : s.Clean) : Out.Clean (rrel s k c n none_ r) := by
  fun_cases rrel <;> grind only [Out.Clean, raiseCtx_clean, advance_clean, setRing_clean]
theorem execQpush_clean {g pd ra rb cls} (h : s.Clean) : Out.Clean (execQpush g pd ra rb cls s) :=
  queueOp_clean h fun k c x a d slot => by
    split <;> exact setCtx_clean.2 h
theorem execQpop_clean {g rd ra pd cls} (h : s.Clean) : Out.Clean (execQpop g rd ra pd cls s) :=
  queueOp_clean h fun k c x a d slot => by
    split
    · split
      · exact raiseCtx_clean h
      · exact setCtx_clean.2 h
    · exact setCtx_clean.2 h

/-! ### Barriers, spans and termination -/

theorem fromPeer_clean {src inc f} (h : s.Clean) (hf : (f s).Clean) : (s.fromPeer src inc f).Clean := by
  fun_cases State.fromPeer <;> grind only [send_clean]
theorem completePhase_clean {k sc} (h : s.Clean) : (s.completePhase k sc).Clean := by
  fun_cases State.completePhase <;> grind only [updCores_clean, setDone_modes]
theorem completeSpan_clean {key members sp} (h : s.Clean) : (s.completeSpan key members sp).Clean := by
  fun_cases State.completeSpan <;> grind only [updCores_clean, setDone_modes, setFab_clean]
theorem beginPhase_clean {key} (h : s.Clean) : (s.beginPhase key).Clean := by
  fun_cases State.beginPhase <;> grind only [setFab_clean]
theorem tellSpan_clean {fb key rank sp} (h : s.Clean) : (s.tellSpan fb key rank sp).Clean := by
  fun_cases State.tellSpan
  grind only [sendOut_clean, foldl_state_clean]
theorem podArrive_clean {k key rank cores sp} (h : s.Clean) : (s.podArrive k key rank cores sp).Clean := by
  fun_cases State.podArrive <;> grind only [beginPhase_clean, setFab_clean, tellSpan_clean, completeSpan_clean]
theorem arrive_clean {k c sc} (h : s.Clean) : (s.arrive k c sc).Clean := by
  fun_cases State.arrive <;> grind only [setCore_keep, setArrive_modes, podArrive_clean, completePhase_clean]
theorem barrier_clean {g sc body} (h : s.Clean) (hb : ∀ k c x a, Out.Clean (body k c x a)) : Out.Clean (barrier s g sc body) :=
  ctl_clean h fun k c x => by split; exacts [raiseCtx_clean h, hb ..]
@[simp] theorem dropSpan_clean {key} : (s.dropSpan key).Clean ↔ s.Clean := .rfl
theorem trmDo_clean {g f} (h : s.Clean) (hf : ∀ k c x t, Out.Clean (f k c x t)) : Out.Clean (trmDo g s f) :=
  ctl_clean h fun k c x => hf k c x _
@[simp] theorem setTrm_clean {k t} : (setTrm s k t).Clean ↔ s.Clean := setCore_clean_iff rfl
theorem execTrmTokenPass_clean {ctxid} (h : s.Clean) : Out.Clean (execTrmTokenPass ctxid s) := by
  fun_cases execTrmTokenPass <;> grind only [Out.Clean, updCores_clean, Core.modes, setTrm_clean]
theorem execPodBarrierArrival_clean {group sender} (h : s.Clean) : Out.Clean (execPodBarrierArrival group sender s) :=
  fromPeer_clean h (by grind only [beginPhase_clean, setFab_clean, completeSpan_clean])
theorem execBarA_clean {g sc} (h : s.Clean) : Out.Clean (execBarA g sc s) :=
  barrier_clean h fun k c x a => by split; exacts [h, advance_clean.2 (arrive_clean h)]
theorem execBarW_clean {g sc} (h : s.Clean) : Out.Clean (execBarW g sc s) :=
  barrier_clean h fun k c x a => by split; exacts [advance_clean.2 h, h]
theorem execBarAw_clean {g sc} (h : s.Clean) : Out.Clean (execBarAw g sc s) :=
  barrier_clean h fun k c x a => by
    split
    · split
      · exact advance_clean.2 (setCtx_clean.2 h)
      · exact h
    · split
      · exact h
      · dsimp only; split <;> exact setCtx_clean.2 (arrive_clean h)
theorem execTrmSend_clean {g ra} (h : s.Clean) : Out.Clean (execTrmSend g ra s) :=
  trmDo_clean h fun k c x t => by
    dsimp only; split
    · exact raiseCtx_clean h
    · split
      · exact advance_clean.2 (setTrm_clean.2 h)
      · exact advance_clean.2 h
theorem execTrmIdle_clean {g} (h : s.Clean) : Out.Clean (execTrmIdle g s) :=
  trmDo_clean h fun k c x t => advance_clean.2 (by split; exacts [h, setTrm_clean.2 h])
theorem execTrmBusy_clean {g} (h : s.Clean) : Out.Clean (execTrmBusy g s) :=
  trmDo_clean h fun k c x t => advance_clean.2 (by split; exacts [h, setTrm_clean.2 h])

/-! ### Vector words: their results leave the registers with reserved bits as they are -/

@[simp] def KeepsModes (c : Core) : Option (Core × Fl) → Prop
  | some r => r.1.modes = c.modes
  | none => True

theorem vectorWord_clean {w body} (h : s.Clean) (hb : ∀ i m o, KeepsModes i.c (body i m o)) : Out.Clean (vectorWord w s body) :=
  engWord_clean h fun i t hi ht => by
    have hr := hb i w.mod w.ops
    split
    · trivial
    · next e => rw [e] at hr; exact done_clean ht hi hr
theorem float2_clean {w op} (h : s.Clean) : Out.Clean (float2 w s op) :=
  vectorWord_clean h fun i m o => by grind only [KeepsModes, vlanes_modes]
theorem floatMinMax_clean {w mx} (h : s.Clean) : Out.Clean (floatMinMax w s mx) :=
  vectorWord_clean h fun i m o => by grind only [KeepsModes, vlanes_modes]
theorem unary_clean {w fs u extra f1} (h : s.Clean) : Out.Clean (unary w s fs u extra f1) :=
  vectorWord_clean h fun i m o => by grind only [KeepsModes, vlanes_modes]
theorem convWord_clean {w u ok f1} (h : s.Clean) : Out.Clean (convWord w s u ok f1) :=
  vectorWord_clean h fun i m o => by grind only [KeepsModes, vlanes_modes]
theorem maskWord_clean {w fs u two ok f} (h : s.Clean) : Out.Clean (maskWord w s fs u two ok f) :=
  vectorWord_clean h fun i m o => by grind only [KeepsModes, Core.modes]
theorem int2_clean {w sat op} (h : s.Clean) : Out.Clean (int2 w s sat op) :=
  vectorWord_clean h fun i m o => by grind only [KeepsModes, vlanes_modes]
theorem bit2_clean {w op} (h : s.Clean) : Out.Clean (bit2 w s op) :=
  vectorWord_clean h fun i m o => by grind only [KeepsModes, vlanes_modes]
theorem fillWord_clean {w fs bytes f} (h : s.Clean) : Out.Clean (fillWord w s fs bytes f) :=
  vectorWord_clean h fun i m o => by grind only [KeepsModes, vlanes_modes]
theorem reduceWord_clean {w r} (h : s.Clean) : Out.Clean (reduceWord w s r) :=
  vectorWord_clean h fun i m o => by grind only [KeepsModes, packWrite_modes]
theorem moveWord_clean {w u fs bytes ok f} (h : s.Clean) : Out.Clean (moveWord w s u fs bytes ok f) :=
  vectorWord_clean h fun i m o => by grind only [KeepsModes, vlanes_modes]
theorem execVfma_clean {w} (h : s.Clean) : Out.Clean (execVfma w s) :=
  vectorWord_clean h fun i m o => by grind only [KeepsModes, vlanes_modes]
theorem execVbmax_clean {w} (h : s.Clean) : Out.Clean (execVbmax w s) :=
  vectorWord_clean h fun i m o => by grind only [KeepsModes, packWrite_modes]
theorem execVpack_clean {w} (h : s.Clean) : Out.Clean (execVpack w s) :=
  vectorWord_clean h fun i m o => by grind only [KeepsModes, VCtx.write_modes, foldl_fst_modes]
theorem execVzbm_clean {w} (h : s.Clean) : Out.Clean (execVzbm w s) :=
  vectorWord_clean h fun i m o => by grind only [KeepsModes, vlanes_modes]
theorem execVcsum_clean {w} (h : s.Clean) : Out.Clean (execVcsum w s) :=
  vectorWord_clean h fun i m o => by grind only [KeepsModes, packWrite_modes]
theorem execVscan_clean {w} (h : s.Clean) : Out.Clean (execVscan w s) :=
  vectorWord_clean h fun i m o => by grind only [KeepsModes, VCtx.write_modes, foldl_fst_modes]
theorem execVmov_clean {w} (h : s.Clean) : Out.Clean (execVmov w s) :=
  vectorWord_clean h fun i m o => by grind only [KeepsModes, vlanes_modes]
theorem execVtrans_clean {w} (h : s.Clean) : Out.Clean (execVtrans w s) :=
  vectorWord_clean h fun i m o => by grind only [KeepsModes, Core.writeElems_modes, foldl_modes]
theorem execVshuf_clean {w} (h : s.Clean) : Out.Clean (execVshuf w s) :=
  vectorWord_clean h fun i m o => by grind only [KeepsModes, vlanes_modes]
theorem execVsel_clean {w} (h : s.Clean) : Out.Clean (execVsel w s) :=
  vectorWord_clean h fun i m o => by grind only [KeepsModes, vlanes_modes]
theorem execVext_clean {w} (h : s.Clean) : Out.Clean (execVext w s) :=
  vectorWord_clean h fun i m o => by grind only [KeepsModes, setE_modes]
theorem execVins_clean {w} (h : s.Clean) : Out.Clean (execVins w s) :=
  vectorWord_clean h fun i m o => by grind only [KeepsModes, VCtx.write_modes]
theorem execVmlog_clean {w} (h : s.Clean) : Out.Clean (execVmlog w s) :=
  vectorWord_clean h fun i m o => by grind only [KeepsModes, Core.modes]
theorem execVmpop_clean {w} (h : s.Clean) : Out.Clean (execVmpop w s) :=
  vectorWord_clean h fun i m o => by grind only [KeepsModes, setE_modes]
theorem execVmfirst_clean {w} (h : s.Clean) : Out.Clean (execVmfirst w s) :=
  vectorWord_clean h fun i m o => by grind only [KeepsModes, setE, Core.modes]
theorem execVsfc_clean {w} (h : s.Clean) : Out.Clean (execVsfc w s) :=
  vectorWord_clean h fun i m o => by grind only [KeepsModes, vlanes_modes]
theorem execVhist_clean {w} (h : s.Clean) : Out.Clean (execVhist w s) :=
  vectorWord_clean h fun i m o => by grind only [KeepsModes, packWrite_modes]
theorem execVspars_clean {w} (h : s.Clean) : Out.Clean (execVspars w s) :=
  engWord_clean h fun i t hi ht => by grind only [Iss.Clean, done_clean, VCtx.write_modes, Core.writeLanes_modes, foldl_modes]
theorem execVunpk_clean {w} (h : s.Clean) : Out.Clean (execVunpk w s) := by
  refine engWord_clean h fun i t hi ht => ?_
  extract_lets m
  split
  · split
    · extract_lets v
      split
      · trivial
      · split
        · split
          · trivial
          · extract_lets d2
            split
            · trivial
            · split
              · trivial
              · refine done_clean ht hi (foldl_fst_modes _ _ _ fun _ _ => ?_)
                exact VCtx.write_modes.trans VCtx.write_modes
        · trivial
    · trivial
  · trivial

/-! ### Copy words: windows and descriptors -/

@[simp] def CIss.KeepsModes (c : Core) : CIss → Prop
  | .go d _ _ => d.modes = c.modes
  | .trap _ | .hold => True

theorem copyWord_clean {w deps body} (h : s.Clean) (hb : ∀ i t, (body i t).KeepsModes i.c) : Out.Clean (copyWord w s deps body) :=
  engWord_clean h fun i t hi ht => by
    have hr := hb i t
    split
    · trivial
    · split
      · trivial
      · trivial
      · next e => rw [e] at hr; exact setCore_clean ht (hr ▸ hi)
theorem goChecked_keepsModes {i w acc c d fl reqs} (h : d.modes = c.modes) : (goChecked s i w acc d fl reqs).KeepsModes c := by
  fun_cases goChecked
  · trivial
  · exact h
theorem landRow_clean {q off bs} (h : s.Clean) : (s.landRow q off bs).Clean := by
  fun_cases State.landRow
  grind only [State.Clean, fillGranule_clean, setMem_clean, foldl_state_clean]
theorem windowFill_clean {k x} (h : s.Clean) : (windowFill s k x).1.Clean := by
  fun_cases windowFill
  grind only [landRow_clean, foldl_state_clean]
theorem readDesc_clean {i m' ea} (h : s.Clean) : (readDesc s i m' ea).Clean := by
  fun_cases readDesc <;> grind only [Got.Clean, setEng_clean, portAt_clean, sendRemote_clean, setQuad_clean]
theorem execCwin_clean {w} (h : s.Clean) : Out.Clean (execCwin w s) := by
  fun_cases execCwin <;> grind only [Got.Clean, Out.Clean, raise_clean, readDesc_clean, setQuad_clean, windowFill_clean,
      engWord_clean, setCore_clean, Core.modes, Iss.Clean]
theorem execCadv_clean {w} (h : s.Clean) : Out.Clean (execCadv w s) := by
  unfold execCadv
  refine engWord_clean h fun i t hi ht => ?_
  grind only [Iss.Clean, windowFill_clean, setQuad_clean, setCore_keep, Core.modes]
theorem execCpin_clean {w} (h : s.Clean) : Out.Clean (execCpin w s) := by
  unfold execCpin
  refine engWord_clean h fun i t hi ht => ?_
  grind only [Iss.Clean, setQuad_clean]
theorem execCunpin_clean {w} (h : s.Clean) : Out.Clean (execCunpin w s) := by
  refine engWord_clean h fun i t hi ht => ?_
  grind only [Iss.Clean, setQuad_clean]

/-! ### Command queues, completions and interrupts -/

theorem ownPiece_clean {pasid va need} (h : s.Clean) : OkClean Prod.snd (s.ownPiece pasid va need) := by
  fun_cases State.ownPiece <;> grind only [OkClean, translate_clean, ats_clean]
theorem ownAll_clean {pasid need l} (h : s.Clean) : OkClean Prod.snd (s.ownAll pasid need l) := by
  fun_induction State.ownAll <;> grind only [OkClean, ownPiece_clean]
theorem ownDests_clean {pasid va n need} (h : s.Clean) : OkClean Prod.snd (s.ownDests pasid va n need) := by
  fun_cases State.ownDests <;> grind only [OkClean, ownAll_clean]
theorem ownRead_clean {pasid va n} (h : s.Clean) : OkClean Prod.snd (s.ownRead pasid va n) := by
  fun_cases State.ownRead <;> grind only [OkClean, ownDests_clean]
theorem ownWrite_clean {pasid va bs} (h : s.Clean) : OkClean id (s.ownWrite pasid va bs) := by
  fun_cases State.ownWrite <;> grind only [OkClean, State.Clean, id_eq, ownDests_clean, setMem_clean]
@[simp] theorem setQueue_clean {q x} : (s.setQueue q x).Clean ↔ s.Clean := .rfl
@[simp] theorem updNode_clean {q idx f} : (s.updNode q idx f).Clean ↔ s.Clean := .rfl
@[simp] theorem setPhase_clean {q idx p} : (s.setPhase q idx p).Clean ↔ s.Clean := .rfl
theorem raiseMsix_clean {v} (h : s.Clean) : (s.raiseMsix v).Clean := by
  fun_cases State.raiseMsix <;> grind only [send_clean, setCmd_clean]
theorem execMsixUnmask_clean {entry} (h : s.Clean) : Out.Clean (execMsixUnmask entry s) := by
  fun_cases execMsixUnmask <;> grind only [Out.Clean, setCmd_clean, raiseMsix_clean]
theorem setMsix_clean {on mask} (h : s.Clean) : (s.setMsix on mask).Clean := by
  fun_cases State.setMsix <;> grind only [setCmd_clean, raiseMsix_clean, foldl_state_clean]
theorem dropNode_clean {q idx} (h : s.Clean) : (s.dropNode q idx).Clean := by
  fun_cases State.dropNode <;> grind only [State.Clean, setMem_clean, setCmd_clean, setStages_clean]
theorem ringError_clean {q} (h : s.Clean) : (s.ringError q).Clean := by
  fun_cases State.ringError <;> grind only [setQueue_clean, dropNode_clean, setCmd_clean, raiseMsix_clean, foldl_state_clean]
theorem drainCompletions_clean {q n} (h : s.Clean) : (State.drainCompletions q n s).Clean := by
  fun_induction State.drainCompletions <;> grind only [OkClean, id_eq, ownRead_clean, ownWrite_clean, ringError_clean,
      setQueue_clean, raiseMsix_clean]
theorem pushCompletion_clean {q c} (h : s.Clean) : (s.pushCompletion q c).Clean := by
  fun_cases State.pushCompletion <;> grind only [setQueue_clean, drainCompletions_clean]
@[simp] theorem record_clean {q idx status} : (s.record q idx status).Clean ↔ s.Clean := .rfl
theorem closeNode_clean {n e} (h : s.Clean) : (s.closeNode n e).Clean := by
  fun_cases State.closeNode <;> grind only [dropNode_clean, record_clean, pushCompletion_clean]
theorem closeAll_clean {l e} (h : s.Clean) : (s.closeAll l e).Clean := by
  fun_cases State.closeAll
  grind only [closeNode_clean, foldl_state_clean]
theorem completeNode_clean {q idx e} (h : s.Clean) : (s.completeNode q idx e).Clean := by
  fun_cases State.completeNode <;> grind only [closeNode_clean, setCmd_clean, closeAll_clean]
theorem execNodeComplete_clean {q idx} (h : s.Clean) : Out.Clean (execNodeComplete q idx s) := by
  fun_cases execNodeComplete <;> grind only [Out.Clean, completeNode_clean]
theorem retryCompletions_clean {q} (h : s.Clean) : (s.retryCompletions q).Clean := drainCompletions_clean h
theorem execCplheadReread_clean {q} (h : s.Clean) : Out.Clean (execCplheadReread q s) := by
  fun_cases execCplheadReread
  grind only [Out.Clean, retryCompletions_clean]
theorem execKick_clean {q} (h : s.Clean) : Out.Clean (execKick q s) := by
  fun_cases execKick <;> grind only [Out.Clean, setQueue_clean, retryCompletions_clean]
theorem execTailReadReturn_clean {q} (h : s.Clean) : Out.Clean (execTailReadReturn q s) := by
  fun_cases execTailReadReturn <;> grind only [OkClean, Out.Clean, ownRead_clean, ringError_clean, setQueue_clean]
theorem enterRecord_clean {q v} (h : s.Clean) : (s.enterRecord q v).Clean := by
  fun_cases State.enterRecord <;> grind only [closeNode_clean, setCmd_clean, completeNode_clean]
theorem execRecordEnter_clean {q} (h : s.Clean) : Out.Clean (execRecordEnter q s) := by
  fun_cases execRecordEnter <;> grind only [OkClean, Out.Clean, id_eq, ownRead_clean, ringError_clean, enterRecord_clean,
      setQueue_clean, ownWrite_clean]
theorem execQueueEnable_clean {q} (h : s.Clean) : Out.Clean (execQueueEnable q s) := by
  fun_cases execQueueEnable <;> grind only [OkClean, Out.Clean, id_eq, setQueue_clean, setCmd_clean, setStages_clean,
      setFab_clean, ownWrite_clean, ringError_clean]
theorem abortNodes_clean {q} (h : s.Clean) : (s.abortNodes q).Clean := closeAll_clean h
theorem execQueueDisable_clean {q} (h : s.Clean) : Out.Clean (execQueueDisable q s) := by
  fun_cases execQueueDisable <;> grind only [Out.Clean, setQueue_clean, abortNodes_clean]
theorem execNop_clean {q idx} (h : s.Clean) : Out.Clean (execNop q idx s) := by
  fun_cases execNop <;> grind only [Out.Clean, setPhase_clean]
theorem execSignal_clean {q idx} (h : s.Clean) : Out.Clean (execSignal q idx s) := by
  fun_cases execSignal <;> grind only [OkClean, Out.Clean, State.Clean, ownDests_clean, completeNode_clean, setMem_clean,
      setPhase_clean]
theorem waitRead_clean {n} (h : s.Clean) : (s.waitRead n).Clean := by
  fun_cases State.waitRead <;> grind only [OkClean, ownRead_clean, completeNode_clean, setPhase_clean]
theorem execWait_clean {q idx} (h : s.Clean) : Out.Clean (execWait q idx s) := by
  fun_cases execWait <;> grind only [Out.Clean, waitRead_clean, setPhase_clean]
theorem execWaitPoll_clean {q idx} (h : s.Clean) : Out.Clean (execWaitPoll q idx s) := by
  fun_cases execWaitPoll <;> grind only [Out.Clean, waitRead_clean]
theorem execWaitTimeout_clean {q idx} (h : s.Clean) : Out.Clean (execWaitTimeout q idx s) := by
  fun_cases execWaitTimeout <;> grind only [Out.Clean, completeNode_clean]

/-! ### The Firn store's pools -/

theorem storedForm_clean {rows} (h : s.Clean) : (s.storedForm rows).2.Clean := by
  fun_cases State.storedForm <;> grind only [freeBytes_clean]
@[simp] theorem allocRuns_clean {used len n} : (s.allocRuns used len n).2.Clean ↔ s.Clean := .rfl
theorem poolPiece_clean {pasid va} (h : s.Clean) : OkClean Prod.snd (s.poolPiece pasid va) := by
  fun_cases State.poolPiece <;> grind only [OkClean, translate_clean, ats_clean]
theorem poolDests_clean {pasid base runs} (h : s.Clean) : OkClean Prod.snd (s.poolDests pasid base runs) :=
  destAll_clean h fun _ _ _ ht => poolPiece_clean ht
theorem storeRows_clean {pasid base runs rows bad} (h : s.Clean) : OkClean id (s.storeRows pasid base runs rows bad) := by
  fun_cases State.storeRows <;> grind only [OkClean, State.Clean, id_eq, poolDests_clean, storedForm_clean, setMem_clean]
theorem heldRows_clean {pasid base runs rows} (h : s.Clean) : OkClean (fun x => x.2.2) (s.heldRows pasid base runs rows) := by
  fun_cases State.heldRows <;> grind only [OkClean, poolDests_clean, freeBytes_clean]
theorem readSlot_clean {x} (h : s.Clean) : OkClean (fun x => x.2.2) (s.readSlot x) := by
  fun_cases State.readSlot <;> grind only [OkClean, heldRows_clean]
theorem putRows_clean {slots st toSpill rows bad} (h : s.Clean) : OkClean Prod.snd (s.putRows slots st toSpill rows bad) := by
  fun_cases State.putRows <;> grind only [OkClean, id_eq, allocRuns_clean, storeRows_clean]
theorem discardSlot_clean {ctxid x} (h : s.Clean) : (s.discardSlot ctxid x).2.Clean := by
  fun_cases State.discardSlot <;> grind only [OkClean, putRows_clean]
theorem discardFirn_clean {ctxid} (h : s.Clean) : (s.discardFirn ctxid).Clean := by
  fun_cases State.discardFirn
  grind only [discardSlot_clean, setStages_clean, foldl_state_clean]

/-! ### Copy words -/

theorem execCld_clean {w} (h : s.Clean) : Out.Clean (execCld w s) :=
  copyWord_clean h fun i t => by grind only [CIss.KeepsModes, goChecked_keepsModes, illegal]
theorem execCst_clean {w} (h : s.Clean) : Out.Clean (execCst w s) :=
  copyWord_clean h fun i t => by grind only [CIss.KeepsModes, goChecked_keepsModes, illegal]
theorem execCcpy_clean {w} (h : s.Clean) : Out.Clean (execCcpy w s) :=
  copyWord_clean h fun i t => by grind only [CIss.KeepsModes, goChecked_keepsModes, illegal]
theorem execCfill_clean {w} (h : s.Clean) : Out.Clean (execCfill w s) :=
  copyWord_clean h fun i t => by grind only [CIss.KeepsModes, goChecked_keepsModes, illegal]
theorem execCgath_clean {w} (h : s.Clean) : Out.Clean (execCgath w s) :=
  copyWord_clean h fun i t => by
    split
    · trivial
    · split
      · trivial
      · dsimp only
        split
        · trivial
        · split
          · trivial
          · -- the rows that no request fills are zeroed in the tiles, which leaves the modes alone
            exact goChecked_keepsModes (foldl_modes _ _ _ fun d r => by split <;> rfl)
theorem execCscat_clean {w} (h : s.Clean) : Out.Clean (execCscat w s) :=
  copyWord_clean h fun i t => by grind only [CIss.KeepsModes, goChecked_keepsModes, illegal]
theorem execCdec_clean {w} (h : s.Clean) : Out.Clean (execCdec w s) :=
  copyWord_clean h fun i t => by grind only [CIss.KeepsModes, goChecked_keepsModes, illegal, setE_modes]
theorem execCenc_clean {w} (h : s.Clean) : Out.Clean (execCenc w s) :=
  copyWord_clean h fun i t => by grind only [CIss.KeepsModes, goChecked_keepsModes, illegal]
theorem execCxfm_clean {w} (h : s.Clean) : Out.Clean (execCxfm w s) :=
  copyWord_clean h fun i t => by grind only [CIss.KeepsModes, goChecked_keepsModes, illegal]
theorem execCunst_clean {w} (h : s.Clean) : Out.Clean (execCunst w s) :=
  copyWord_clean h fun i t => by grind only [CIss.KeepsModes, goChecked_keepsModes, illegal]
theorem execCbat_clean {w} (h : s.Clean) : Out.Clean (execCbat w s) :=
  copyWord_clean h fun i t => by grind only [CIss.KeepsModes, goChecked_keepsModes, illegal]
theorem execCsend_clean {w} (h : s.Clean) : Out.Clean (execCsend w s) :=
  copyWord_clean h fun i t => by grind only [CIss.KeepsModes, goChecked_keepsModes, illegal]
theorem execCrecv_clean {w} (h : s.Clean) : Out.Clean (execCrecv w s) :=
  copyWord_clean h fun i t => by grind only [CIss.KeepsModes, goChecked_keepsModes, illegal]
theorem execCrepart_clean {w} (h : s.Clean) : Out.Clean (execCrepart w s) :=
  copyWord_clean h fun i t => by grind only [CIss.KeepsModes, goChecked_keepsModes, illegal]
theorem execCpref_clean {w} (h : s.Clean) : Out.Clean (execCpref w s) :=
  copyWord_clean h fun i t => by grind only [CIss.KeepsModes, goChecked_keepsModes, illegal]
theorem execCflush_clean {w} (h : s.Clean) : Out.Clean (execCflush w s) :=
  copyWord_clean h fun i t => by grind only [CIss.KeepsModes, goChecked_keepsModes, illegal]
theorem execCmetaRead_clean {w} (h : s.Clean) : Out.Clean (execCmetaRead w s) :=
  copyWord_clean h fun i t => by grind only [CIss.KeepsModes, goChecked_keepsModes, illegal]
theorem execCmetaWrite_clean {w} (h : s.Clean) : Out.Clean (execCmetaWrite w s) :=
  copyWord_clean h fun i t => by grind only [CIss.KeepsModes, goChecked_keepsModes, illegal]

/-! ### Copy requests: data that returns and writes that are accepted -/

@[simp] theorem updFlight_clean {k f g} : (s.updFlight k f g).Clean ↔ s.Clean := setEng_clean
@[simp] theorem updReq_clean {k a g} : (s.updReq k a g).Clean ↔ s.Clean := setEng_clean
@[simp] theorem replaceReq_clean {k a ks} : (s.replaceReq k a ks).Clean ↔ s.Clean := setEng_clean
@[simp] theorem updColl_clean {id f} : (s.updColl id f).Clean ↔ s.Clean := .rfl
theorem tellMember_clean {c rank m'} (h : s.Clean) : (s.tellMember c rank m').Clean := sendOut_clean h
theorem tellWritten_clean {id} (h : s.Clean) : (s.tellWritten id).Clean := by
  fun_cases State.tellWritten <;> grind only [tellMember_clean, updColl_clean, foldl_state_clean]
@[simp] theorem dropColl_clean {id} : (s.dropColl id).Clean ↔ s.Clean := .rfl
theorem settleOne_clean {k f} (h : s.Clean) : SomeClean id (s.settleOne k f) := by
  fun_cases State.settleOne <;> grind only [SomeClean, id_eq, updFlight_clean, setCore_keep, setE_modes, tellWritten_clean,
      dropColl_clean]
theorem settleEnd_clean {k f} (h : s.Clean) : (s.settleEnd k f).Clean := by
  fun_cases State.settleEnd <;> grind only [updFlight_clean, logEvent_clean, setCore_keep, Core.modes, raise_clean]
theorem settleOne_getD_clean {k f} (h : s.Clean) : ((s.settleOne k f).getD s).Clean := by
  have h1 := settleOne_clean (k := k) (f := f) h
  cases e : s.settleOne k f with
  | none => exact h
  | some t => rw [e] at h1; exact h1
theorem settle_clean {k f} (h : s.Clean) : (s.settle k f).Clean :=
  settleEnd_clean (settleOne_getD_clean (settleOne_getD_clean (settleOne_getD_clean h)))
theorem writePerformed_clean {k id} (h : s.Clean) : (s.writePerformed k id).Clean := by
  fun_cases State.writePerformed <;> grind only [setEng_clean, settle_clean]
@[simp] theorem zeroRow_clean {k f row sec} : (s.zeroRow k f row sec).Clean ↔ s.Clean := updFlight_clean
theorem readReq_clean {k a ea len} (h : s.Clean) : (s.readReq k a ea len).Clean := by
  fun_cases State.readReq <;> grind only [Come.Clean, Got.Clean, portAt_clean, setQuad_clean, updReq_clean, sendRemote_clean]
theorem openOverlap_clean {x src len dst data} (h : s.Clean) : (s.openOverlap x src len dst data).2.Clean := by
  fun_cases State.openOverlap <;> grind only [freeBytes_clean]
theorem placeData_clean {k a ea len zp pl bs bad sec} (h : s.Clean) : (s.placeData k a ea len zp pl bs bad sec).Clean := by
  fun_cases State.placeData <;> grind only [raise_clean, setCore_keep, Core.putRow_modes, settle_clean, replaceReq_clean,
      zeroRow_clean, updFlight_clean, openOverlap_clean]
theorem fixBefore_clean {k a n} (h : s.Clean) : (State.fixBefore k a n s).1.Clean := by
  fun_induction State.fixBefore <;> grind only [Come.Clean, readReq_clean, raise_clean, updReq_clean]
theorem metaSectors_clean {k ea n need} (h : s.Clean) : (s.metaSectors k ea n need).Clean := by
  fun_cases State.metaSectors <;> grind only [Got.Clean, portAt_clean]
theorem metaRows_clean {k f t rows cols n row l} (h : s.Clean) : (s.metaRows k f t rows cols n row l).Clean := by
  fun_induction State.metaRows <;> grind only [setCore_keep, Core.putMeta_modes, zeroRow_clean]
theorem unstashRows_clean {k f t row n rows bad} (h : s.Clean) : (s.unstashRows k f t row n rows bad).Clean := by
  fun_cases State.unstashRows
  grind only [setCore_keep, Core.setTileBytes_modes, zeroRow_clean, foldl_state_clean]
theorem unstash_clean {k a slot t row n zp ec} (h : s.Clean) : (s.unstash k a slot t row n zp ec).Clean := by
  fun_cases State.unstash <;> grind only [OkClean, raise_clean, settle_clean, replaceReq_clean, setCore_keep, setE_modes,
      readSlot_clean, unstashRows_clean]
theorem returnData_clean {k a} (h : s.Clean) : (s.returnData k a).Clean := by
  fun_cases State.returnData <;> grind only [Come.Clean, Got.Clean, readReq_clean, raise_clean, placeData_clean,
      metaSectors_clean, settle_clean, replaceReq_clean, metaRows_clean, unstash_clean]
theorem land_clean {k a g ea len zp w t off landed q bs z} (h : s.Clean) :
    (State.landGranule.land k a g ea len zp w t off landed s q bs z).Clean := by
  fun_cases State.landGranule.land <;> grind only [landRow_clean, settle_clean, replaceReq_clean, updReq_clean]
theorem landGranule_clean {k a g ea len zp w t off landed zeroed} (h : s.Clean) :
    (s.landGranule k a g ea len zp w t off landed zeroed).Clean := by
  fun_cases State.landGranule <;> grind only [Come.Clean, State.Clean, raise_clean, readReq_clean, land_clean,
      zeroRow_clean, setMem_clean]
theorem execWindowGranuleLand_clean {core idx} (h : s.Clean) : Out.Clean (execWindowGranuleLand core idx s) := by
  fun_cases execWindowGranuleLand <;> grind only [Out.Clean, landGranule_clean]
theorem acceptWrite_clean {k a} (h : s.Clean) : (s.acceptWrite k a).Clean := by
  fun_cases State.acceptWrite <;> grind only [Got.Clean, OkClean, State.Clean, portWrite_clean, raise_clean,
      updFlight_clean, settle_clean, replaceReq_clean, updReq_clean, metaSectors_clean, setMem_clean, virtual_clean]

/-! ### Teardown of gangs and stages -/

@[simp] theorem setChan_clean {c x} : (s.setChan c x).Clean ↔ s.Clean := .rfl
theorem updMsg_clean {c n f} (h : s.Clean) : (s.updMsg c n f).Clean := by
  fun_cases State.updMsg <;> grind only [setChan_clean, send_clean]
theorem cancelSent_clean {ctxid} (h : s.Clean) : (s.cancelSent ctxid).Clean := by
  fun_cases State.cancelSent
  grind only [setChan_clean, sendOut_clean, foldl_state_clean]
theorem releaseLease_clean {i} (h : s.Clean) : (s.releaseLease i).Clean := by
  fun_cases State.releaseLease <;> grind only [State.Clean, setMem_clean]
@[simp] theorem forgetCores_clean {ks} : (s.forgetCores ks).Clean ↔ s.Clean := .rfl
theorem freeCores_clean {ks} (h : s.Clean) : (s.freeCores ks).Clean := updCores_clean h fun _ _ => reset_modesClean
theorem drainWrites_clean {k} (h : s.Clean) : (s.drainWrites k).Clean := by
  fun_cases State.drainWrites
  grind only [Got.Clean, State.Clean, portWrite_clean, foldl_state_clean]
theorem stopGang_clean {i} (h : s.Clean) : (s.stopGang i).Clean := by
  fun_cases State.stopGang
  grind only [drainWrites_clean, discardFirn_clean, cancelSent_clean, dropL1_clean, updCores_clean, reset_modesClean,
      Core.freed_modes, Core.modes, forgetCores_clean, foldl_state_clean]
@[simp] theorem updInst_clean {ctxid f} : (s.updInst ctxid f).Clean ↔ s.Clean := .rfl
@[simp] theorem updStage_clean {key f} : (s.updStage key f).Clean ↔ s.Clean := .rfl
@[simp] theorem mark_clean {key} : (s.mark key).Clean ↔ s.Clean := .rfl
theorem removeInst_clean {i} (h : s.Clean) : (s.removeInst i).Clean := by
  fun_cases State.removeInst
  grind only [dropSpan_clean, releaseLease_clean, mark_clean, freeCores_clean, setCmd_clean]
theorem report_clean {key} (h : s.Clean) : (s.report key).Clean := by
  fun_cases State.report <;> grind only [sendOut_clean]
theorem discardInst_clean {i} (h : s.Clean) : (s.discardInst i).Clean := by
  fun_cases State.discardInst
  grind only [removeInst_clean, stopGang_clean, discardFirn_clean, cancelSent_clean]
theorem closeStage_clean {st e} (h : s.Clean) : (s.closeStage st e).Clean := by
  fun_cases State.closeStage
  grind only [discardInst_clean, setStages_clean, updMsg_clean, setCmd_clean, completeNode_clean, foldl_state_clean]
theorem countFault_clean {st r run e} (h : s.Clean) : (s.countFault st r run e).Clean := by
  fun_cases State.countFault <;> grind only [updStage_clean, closeStage_clean, report_clean]
theorem stepFaulted_clean {key i e} (h : s.Clean) : (s.stepFaulted key i e).Clean := by
  fun_cases State.stepFaulted <;> grind only [countFault_clean]
theorem finishFault_clean {ctxid} (h : s.Clean) : (s.finishFault ctxid).Clean := by
  fun_cases State.finishFault <;> grind only [removeInst_clean, completeNode_clean, stepFaulted_clean]
theorem recordDone_clean {r addr} (h : s.Clean) : (s.recordDone r addr).Clean := by
  fun_cases State.recordDone <;> grind only [updInst_clean, finishFault_clean, closeStage_clean, completeNode_clean]
theorem drainRecords_clean {n} (h : s.Clean) : (State.drainRecords n s).Clean := by
  fun_induction State.drainRecords <;> grind only [setCmd_clean, recordDone_clean, setMem_clean, State.Clean]
theorem postRecords_clean {rs} (h : s.Clean) : (s.postRecords rs).Clean := drainRecords_clean h
theorem failInst_clean {i t} (h : s.Clean) : (s.failInst i t).Clean := by
  fun_cases State.failInst
  grind only [stopGang_clean, discardFirn_clean, cancelSent_clean, updInst_clean, postRecords_clean]
theorem failStage_clean {st tag t} (h : s.Clean) : (s.failStage st tag t).Clean := by
  fun_cases State.failStage <;> grind only [updStage_clean, postRecords_clean]
theorem failNode_clean {q idx pasid t} (h : s.Clean) : (s.failNode q idx pasid t).Clean := postRecords_clean h
theorem execFaultTeardown_clean {ctxid} (h : s.Clean) : Out.Clean (execFaultTeardown ctxid s) := by
  fun_cases execFaultTeardown <;> grind only [Out.Clean, stopGang_clean, updInst_clean, postRecords_clean]

/-! ### Notices and leases -/

theorem postNotice_clean {type pasid va len} (h : s.Clean) : (s.postNotice type pasid va len).Clean := by
  fun_cases State.postNotice <;> grind only [OkClean, Posted.Clean, id_eq, ownWrite_clean, setCmd_clean]
@[simp] theorem keepNotice_clean {type va len} : (s.keepNotice type va len).Clean ↔ s.Clean := .rfl
theorem memNotice_clean {type va len} (h : s.Clean) : (s.memNotice type va len).Clean := by
  fun_cases State.memNotice <;> grind only [Posted.Clean, postNotice_clean, keepNotice_clean]
theorem postPromote_clean {g} (h : s.Clean) : (s.postPromote g).Clean := by
  fun_cases State.postPromote
  grind only [postNotice_clean]
theorem failNotice_clean {q idx desc} (h : s.Clean) : (s.failNotice q idx desc).Clean := completeNode_clean h
theorem nodeNotice_clean {q idx type pasid va len desc} (h : s.Clean) : (s.nodeNotice q idx type pasid va len desc).Clean := by
  fun_cases State.nodeNotice <;> grind only [Posted.Clean, postNotice_clean, setPhase_clean, failNotice_clean]
theorem failResume_clean {i} (h : s.Clean) : (s.failResume i).Clean := failInst_clean h
theorem failHeld_clean {n} (h : s.Clean) : (State.failHeld n s).Clean := by
  fun_induction State.failHeld <;> grind only [failNotice_clean, failResume_clean]
theorem serveOne_clean (h : s.Clean) : SomeClean id s.serveOne := by
  fun_cases State.serveOne <;> grind only [Posted.Clean, SomeClean, State.Clean, id_eq, postNotice_clean, setPhase_clean,
      failHeld_clean, updInst_clean, setCmd_clean, postPromote_clean, setMem_clean]
theorem serve_clean {n} (h : s.Clean) : (State.serve n s).Clean := by
  fun_induction State.serve <;> grind only [SomeClean, id_eq, serveOne_clean]
theorem execNqcfgWrite_clean {v} (h : s.Clean) : Out.Clean (execNqcfgWrite v s) := by
  fun_cases execNqcfgWrite
  grind only [Out.Clean, setCmd_clean, serve_clean, failHeld_clean]
theorem execNoticeackRetry_clean {nid} (h : s.Clean) : Out.Clean (execNoticeackRetry nid s) := by
  fun_cases execNoticeackRetry <;> grind only [Out.Clean, setPhase_clean, updInst_clean]
theorem execNoticeackFail_clean {nid} (h : s.Clean) : Out.Clean (execNoticeackFail nid s) := by
  fun_cases execNoticeackFail <;> grind only [Out.Clean, failNotice_clean, failResume_clean]
theorem unitPages_clean {pasid va} (h : s.Clean) : OkClean Prod.snd (s.unitPages pasid va) := by
  fun_cases State.unitPages <;> grind only [OkClean, translate_clean, ats_clean]
theorem walkLease_clean {pasid w l} (h : s.Clean) : (s.walkLease pasid w l).Clean := by
  fun_induction State.walkLease <;> grind only [Walked.Clean, OkClean, unitPages_clean]
theorem execLeasePhase_clean {q idx} (h : s.Clean) : Out.Clean (execLeasePhase q idx s) := by
  fun_cases execLeasePhase <;> grind only [Out.Clean, State.Clean, Walked.Clean, walkLease_clean, nodeNotice_clean,
      updNode_clean, completeNode_clean, setMem_clean]
theorem execTlbInvalidate_clean {v} (h : s.Clean) : Out.Clean (execTlbInvalidate v s) := by
  fun_cases execTlbInvalidate <;> grind only [Out.Clean, State.Clean, setMem_clean]
theorem performLines_clean {p drop} (h : s.Clean) : (s.performLines p drop).Clean := by
  fun_cases State.performLines
  grind only [flushLines_clean, foldl_state_clean]
theorem execTlbInvalidateDone_clean (h : s.Clean) : Out.Clean (execTlbInvalidateDone s) := by
  fun_cases execTlbInvalidateDone <;> grind only [Out.Clean, State.Clean, CoresClean.map, Core.modes, performLines_clean]
theorem execAtsInvalidate_clean {pasid va len} (h : s.Clean) : Out.Clean (execAtsInvalidate pasid va len s) := by
  fun_cases execAtsInvalidate
  grind only [Out.Clean, State.Clean, setMem_clean, send_clean, performLines_clean]

/-! ### Records that the command processor reads and writes -/

theorem fetchOwn_clean {pasid va n} (h : s.Clean) : (s.fetchOwn pasid va n).Clean := by
  fun_cases State.fetchOwn <;> grind only [Fetch.Clean, OkClean, ownRead_clean]
theorem fetchFail_clean {q idx pasid f va n} (h : s.Clean) : (s.fetchFail q idx pasid f va n).Clean := by
  fun_cases State.fetchFail <;> grind only [nodeNotice_clean, completeNode_clean]
@[simp] theorem toLease_clean {q idx ranges} : (s.toLease q idx ranges).Clean ↔ s.Clean := .rfl
theorem execTask_clean {q idx} (h : s.Clean) : Out.Clean (execTask q idx s) := by
  fun_cases execTask <;> grind only [Fetch.Clean, Out.Clean, completeNode_clean, fetchOwn_clean, toLease_clean,
      updNode_clean, fetchFail_clean]
theorem stepRecords_clean {pasid lease0 l} (h : s.Clean) : (s.stepRecords pasid lease0 l).Clean := by
  fun_induction State.stepRecords <;> grind only [Parse.Clean, Fetch.Clean, fetchOwn_clean]
theorem variant_clean {pasid va first wdefer nver lease0} (h : s.Clean) :
    (s.variant pasid va first wdefer nver lease0).Clean := by
  fun_cases State.variant <;> grind only [Fetch.Clean, Parse.Clean, fetchOwn_clean, stepRecords_clean]
theorem variants_clean {pasid first wdefer nver lease0 l} (h : s.Clean) :
    (s.variants pasid first wdefer nver lease0 l).Clean := by
  fun_induction State.variants <;> grind only [Parse.Clean, variant_clean]
theorem execStage_clean {q idx} (h : s.Clean) : Out.Clean (execStage q idx s) := by
  fun_cases execStage <;> grind only [Fetch.Clean, Out.Clean, Parse.Clean, completeNode_clean, fetchOwn_clean,
      variants_clean, fetchFail_clean, setStages_clean, toLease_clean]
theorem virtualAs_clean {pasid ranges va n need} (h : s.Clean) : OkClean Prod.snd (s.virtualAs pasid ranges va n need) := by
  fun_cases State.virtualAs <;> grind only [OkClean, destAll_clean, pageDest_clean, windowDest_clean]
theorem setIo_clean {who f} (h : s.Clean) : (s.setIo who f).Clean := by
  fun_cases State.setIo <;> grind only [updNode_clean, updInst_clean]
theorem sendCp_clean {who pasid va target inc addr n data} (h : s.Clean) :
    (s.sendCp who pasid va target inc addr n data).2.Clean := by
  fun_cases State.sendCp
  grind only [setFab_clean, sendOut_clean]
theorem readAs_clean {who pasid va ds} (h : s.Clean) : (s.readAs who pasid va ds).Clean := by
  fun_cases State.readAs <;> grind only [CpRead.Clean, sendCp_clean, setIo_clean]
theorem writeAs_clean {who pasid va bs bad l off} (h : s.Clean) : (s.writeAs who pasid va bs bad l off).Clean := by
  fun_induction State.writeAs <;> grind only [State.Clean, setMem_clean, send_clean, sendCp_clean, setIo_clean]
theorem runXform_clean {who pasid ranges a} (h : s.Clean) : OkClean Prod.snd (s.runXform who pasid ranges a) := by
  fun_cases State.runXform <;> grind only [CpRead.Clean, OkClean, virtualAs_clean, readAs_clean, openOverlap_clean, writeAs_clean]
theorem execXform_clean {q idx} (h : s.Clean) : Out.Clean (execXform q idx s) := by
  fun_cases execXform <;> grind only [OkClean, Out.Clean, runXform_clean, failNode_clean, setPhase_clean, toLease_clean,
      completeNode_clean, updNode_clean]

/-! ### Gangs: placing, launching and beginning -/

theorem clearQuads_clean {ks pasid} (h : s.Clean) : (s.clearQuads ks pasid).Clean := by
  fun_cases State.clearQuads
  grind only [clearQuad_clean, foldl_state_clean]
theorem execPartStart_clean {core} (h : s.Clean) : Out.Clean (execPartStart core s) := by
  fun_cases execPartStart <;> grind only [Out.Clean, setCore_keep, Core.startPart_modes]
theorem joinSpan_clean {k} (h : s.Clean) : (s.joinSpan k).Clean := by
  fun_cases State.joinSpan <;> grind only [setCore_keep, setDone_modes, setArrive_modes]
theorem readTrip_clean {i} (h : s.Clean) : (s.readTrip i).Clean := by
  fun_cases State.readTrip <;> grind only [CpRead.Clean, OkClean, TripRead.Clean, virtualAs_clean, readAs_clean]
@[simp] theorem takeCtxid_clean : (s.takeCtxid).2.Clean ↔ s.Clean := .rfl
theorem placeCores_clean {i} (h : s.Clean) : (s.placeCores i).Clean := by
  fun_cases State.placeCores
  grind only [setCore_clean, freshCore_modes, reset_modesClean, foldl_state_clean]
theorem begin_clean {i} (h : s.Clean) : (s.begin i).Clean := by
  fun_cases State.begin <;> grind only [TripRead.Clean, readTrip_clean, failInst_clean, placeCores_clean, updCores_clean,
      Core.startPart_modes, Core.freed_modes, reset_modesClean, Core.modes, updInst_clean, joinSpan_clean, foldl_state_clean]
theorem launch_clean {i} (h : s.Clean) : (s.launch i).Clean := begin_clean (clearQuads_clean h)
theorem execRendezvous_clean {core} (h : s.Clean) : Out.Clean (execRendezvous core s) := by
  fun_cases execRendezvous <;> grind only [Out.Clean, raise_clean, setCore_keep, Core.nextPart_modes, Core.modes]
theorem execIterLong_clean {core} (h : s.Clean) : Out.Clean (execIterLong core s) := by
  fun_cases execIterLong <;> grind only [Out.Clean, raise_clean]

/-! ### Special registers and the ends of parts -/

theorem movtsQbmode_clean {k c v} (h : s.Clean) : Out.Clean (movtsQbmode s k c v) := by
  fun_cases movtsQbmode <;> grind only [Out.Clean, raiseCtx_clean, advance_clean, setQuad_clean]
theorem failWaiters_clean {q b} (h : s.Clean) : (failWaiters s q b).Clean := by
  fun_cases failWaiters
  grind only [raiseCtx_clean, foldl_state_clean]
theorem execBankSwitchComplete_clean {quad bank} (h : s.Clean) : Out.Clean (execBankSwitchComplete quad bank s) := by
  fun_cases execBankSwitchComplete <;> grind only [Out.Clean, failWaiters_clean, switchBank_clean]
theorem execYield_clean {g} (h : s.Clean) : Out.Clean (execYield g s) :=
  ctl_clean h fun k c x => by split; exacts [raiseCtx_clean h, setCtx_clean.2 h]
theorem execDone_clean {g} (h : s.Clean) : Out.Clean (execDone g s) :=
  ctl_clean h fun k c x => by split; exacts [raiseCtx_clean h, setCtx_clean.2 h]
theorem execMovts_clean {g ra sel} (h : s.Clean) : Out.Clean (execMovts g ra sel s) :=
  ctl_clean h fun k c x => by
    dsimp only; split
    · exact advance_clean.2 (setCore_clean h (fcsr_modesClean (h.core k) _))
    · exact advance_clean.2 (setCore_keep h rfl)
    · exact movtsQbmode_clean h
    · exact raiseCtx_clean h

/-! ### Saving and resuming contexts -/

theorem bindResume_clean {i base stage} (h : s.Clean) : (s.bindResume i base stage).Clean :=
    updCores_clean h fun _ _ => reset_modesClean
theorem execContextSave_clean {ctxid} (h : s.Clean) : Out.Clean (execContextSave ctxid s) := by
  fun_cases execContextSave <;> grind only [Out.Clean, dropL1_clean, saveArea_clean, freeCores_clean, releaseLease_clean,
      updInst_clean, updStage_clean, foldl_state_clean]
theorem restoreBulk_clean {k i a} (h : s.Clean) : (s.restoreBulk k i a).Clean := by
  unfold State.restoreBulk
  extract_lets t nt src f0 tiles f1 acc f2 c
  clear_value tiles acc f2
  exact setCore_keep (c := { c with tiles := tiles, acc := acc, table := _, counts := _ }) h rfl
theorem restoreRanges_clean {q l a} (h : s.Clean) :
    (List.foldl (fun (t : State × Nat) x => (t.1.restoreRange q t.2 x, t.2 + x.2 + fullBytes x.2)) (s, a) l).1.Clean := by
  induction l generalizing s a with
  | nil => exact h
  | cons x l ih => exact ih (restoreRange_clean h)
theorem switchBanks_clean {q} {l : List (Nat × Nat)} (h : s.Clean) :
    (l.foldl (fun t b => failWaiters (switchBank t q b.1 b.2) q b.1) s).Clean :=
  foldl_state_clean _ _ h fun _ _ ht => failWaiters_clean (switchBank_clean ht)
theorem restoreCore_clean {i r} (h : s.Clean) : (s.restoreCore i r).Clean := by
  fun_cases State.restoreCore
  case case1 => exact restoreRanges_clean (switchBanks_clean (by grind only [setCore_clean, setCore_keep, setDone_modes,
      readHead_modesClean, Core.modes, restoreBulk_clean]))
  case case2 => grind only [setCore_clean, setCore_keep, setDone_modes, readHead_modesClean, Core.modes, restoreBulk_clean]
theorem restart_clean {i} (h : s.Clean) : (s.restart i).Clean := by
  fun_cases State.restart <;> grind only [updInst_clean, setCmd_clean, clearQuads_clean, raise_clean, setCore_clean,
      freshCore_modes, reset_modesClean, Core.modes, restoreCore_clean, updCores_clean, Core.startPart_modes, foldl_state_clean]
theorem resumeNotice_clean {i type va len} (h : s.Clean) : (s.resumeNotice i type va len).Clean := by
  fun_cases State.resumeNotice <;> grind only [Posted.Clean, postNotice_clean, updInst_clean, failResume_clean]
theorem execContextResume_clean {ctxid} (h : s.Clean) : Out.Clean (execContextResume ctxid s) := by
  fun_cases execContextResume <;> grind only [Out.Clean, State.Clean, Walked.Clean, restart_clean, walkLease_clean,
      updInst_clean, resumeNotice_clean, failInst_clean, setMem_clean]

/-! ### Firn words and events -/

theorem firnWord_clean {w deps body} (h : s.Clean) : Out.Clean (firnWord w s deps body) :=
  engWord_clean h fun i t hi ht => by
    split
    · trivial
    · split
      · trivial
      · exact ht
theorem execFirnWriteDone_clean {slot} (h : s.Clean) : Out.Clean (execFirnWriteDone slot s) := by
  fun_cases execFirnWriteDone <;> grind only [OkClean, Out.Clean, putRows_clean, raise_clean, setStages_clean]
theorem execFirnFillDone_clean {slot} (h : s.Clean) : Out.Clean (execFirnFillDone slot s) := by
  fun_cases execFirnFillDone <;> grind only [OkClean, Out.Clean, id_eq, setStages_clean, readSlot_clean, storeRows_clean]
theorem prefetchSlots_clean {st tags reserved fuel n} (h : s.Clean) : (State.prefetchSlots st tags reserved fuel n s).Clean := by
  fun_induction State.prefetchSlots <;> grind only [allocRuns_clean, setStages_clean]

/-! ### Stages of the scheduler -/

theorem arriveTag_clean {key q tag ch msg} (h : s.Clean) : (s.arriveTag key q tag ch msg).Clean := by
  fun_cases State.arriveTag <;> grind only [failStage_clean, updStage_clean]
@[simp] theorem rebudget_clean : (s.rebudget).Clean ↔ s.Clean := .rfl
theorem dispatchStep_clean {key p} (h : s.Clean) : (s.dispatchStep key p).Clean := by
  fun_cases State.dispatchStep <;> grind only [takeCtxid_clean, launch_clean]
theorem startStep_clean {st p} (h : s.Clean) : (s.startStep st p).Clean := by
  fun_cases State.startStep <;> grind only [updStage_clean, sendOut_clean, dispatchStep_clean, foldl_state_clean]
theorem prefetch_clean {key phase pref} (h : s.Clean) : (s.prefetch key phase pref).Clean := by
  fun_cases State.prefetch <;> grind only [prefetchSlots_clean]
theorem start_clean {st r e g} (h : s.Clean) : (s.start st r e g).Clean := prefetch_clean (startStep_clean h)
theorem restarts_clean {n key} (h : s.Clean) : (State.restarts n s key).Clean := by
  fun_induction State.restarts <;> grind only [updStage_clean, startStep_clean]
theorem resumes_clean {n l key} (h : s.Clean) : (State.resumes n s l key).Clean := by
  fun_induction State.resumes <;> grind only [bindResume_clean]
theorem picks_clean {n key} (h : s.Clean) : (State.picks n s key).Clean := by
  fun_induction State.picks <;> grind only [start_clean]
theorem evaluate_clean {key} (h : s.Clean) : (s.evaluate key).Clean := by
  fun_cases State.evaluate <;> grind only [updStage_clean, report_clean, restarts_clean, resumes_clean, picks_clean]
theorem execStarveExpiry_clean {stage row} (h : s.Clean) : Out.Clean (execStarveExpiry stage row s) := by
  fun_cases execStarveExpiry <;> grind only [Out.Clean, evaluate_clean]
theorem arm_clean {key} (h : s.Clean) : (s.arm key).Clean := by
  fun_cases State.arm <;> grind only [updStage_clean, updNode_clean, failStage_clean, arriveTag_clean, foldl_state_clean]
theorem ackEntry_clean {st p} (h : s.Clean) : (s.ackEntry st p).Clean := by
  fun_cases State.ackEntry <;> grind only [updMsg_clean]
theorem applyRetired_clean {key ctxid p again} (h : s.Clean) : (s.applyRetired key ctxid p again).Clean := by
  fun_cases State.applyRetired <;> grind only [setStages_clean, mark_clean, updStage_clean, ackEntry_clean,
      closeStage_clean, report_clean]
theorem applySpan_clean {n key} (h : s.Clean) : (State.applySpan n s key).Clean := by
  fun_induction State.applySpan <;> grind only [updStage_clean, applyRetired_clean]
theorem stepRetired_clean {key i g} (h : s.Clean) : (s.stepRetired key i g).Clean := by
  fun_cases State.stepRetired <;> grind only [applyRetired_clean, updStage_clean, applySpan_clean]
theorem dropStep_clean {st tag phase} (h : s.Clean) : (s.dropStep st tag phase).Clean := by
  fun_cases State.dropStep
  grind only [discardInst_clean, foldl_state_clean]
theorem memberFault_clean {key f} (h : s.Clean) : (s.memberFault key f).Clean := by
  fun_cases State.memberFault <;> grind only [countFault_clean, updStage_clean, dropStep_clean]
theorem execSpanReportReceive_clean {stage sender fwd bwd ended free} (h : s.Clean) :
    Out.Clean (execSpanReportReceive stage sender fwd bwd ended free s) := by
  fun_cases execSpanReportReceive <;> grind only [Out.Clean, fromPeer_clean, updStage_clean, applySpan_clean,
      memberFault_clean, foldl_state_clean]
theorem startDue_clean {n key} (h : s.Clean) : (State.startDue n s key).Clean := by
  fun_induction State.startDue <;> grind only [updStage_clean, dispatchStep_clean]
theorem execSpanStartTime_clean {stage} (h : s.Clean) : Out.Clean (execSpanStartTime stage s) := by
  fun_cases execSpanStartTime <;> grind only [Out.Clean, startDue_clean]
theorem execSpanPickReceive_clean {stage inc gang tag pick t adv} (h : s.Clean) :
    Out.Clean (execSpanPickReceive stage inc gang tag pick t adv s) := by
  fun_cases execSpanPickReceive <;> grind only [Out.Clean, fromPeer_clean, updStage_clean, dropStep_clean, startDue_clean]
theorem execSpanMemberLost_clean {stage member} (h : s.Clean) : Out.Clean (execSpanMemberLost stage member s) := by
  fun_cases execSpanMemberLost <;> grind only [Out.Clean, failStage_clean]

/-! ### Placement, preemption and retirement -/

@[simp] theorem dropReservation_clean {w} : (s.dropReservation w).Clean ↔ s.Clean := .rfl
theorem execPlacementReserve_clean {cand} (h : s.Clean) : Out.Clean (execPlacementReserve cand s) := by
  fun_cases execPlacementReserve <;> grind only [Out.Clean, setCmd_clean]
theorem serveQueue_clean {c} (h : s.Clean) : (s.serveQueue c).Clean := by
  fun_cases State.serveQueue <;> grind only [setCmd_clean]
theorem placeTask_clean {q idx base n} (h : s.Clean) : (s.placeTask q idx base n).Clean := by
  fun_cases State.placeTask <;> grind only [takeCtxid_clean, updNode_clean, launch_clean]
theorem placeCand_clean {c base} (h : s.Clean) : (s.placeCand c base).Clean := by
  fun_cases State.placeCand <;> grind only [dropReservation_clean, serveQueue_clean, placeTask_clean, bindResume_clean,
      arm_clean, updStage_clean]
theorem execPlaceNode_clean (h : s.Clean) : Out.Clean (execPlaceNode s) := by
  fun_cases execPlaceNode
  grind only [Out.Clean, placeCand_clean]
theorem requestStop_clean {i} (h : s.Clean) : (s.requestStop i).Clean := by
  fun_cases State.requestStop <;> grind only [updInst_clean, setCmd_clean, updCores_clean, Core.modes]
theorem execPreemptTimeout_clean {cand} (h : s.Clean) : Out.Clean (execPreemptTimeout cand s) := by
  fun_cases execPreemptTimeout <;> grind only [Out.Clean, requestStop_clean, foldl_state_clean]
theorem commitSent_clean {ctxid} (h : s.Clean) : (s.commitSent ctxid).Clean := by
  fun_cases State.commitSent
  grind only [setChan_clean, sendOut_clean, foldl_state_clean]
theorem execRetire_clean {ctxid} (h : s.Clean) : Out.Clean (execRetire ctxid s) := by
  fun_cases execRetire <;> grind only [Out.Clean, dropL1_clean, removeInst_clean, commitSent_clean, completeNode_clean,
      stepRetired_clean, foldl_state_clean]

/-! ### Channels and messages -/

theorem copyNow_clean {w deps held body} (h : s.Clean) (hb : ∀ i t, t.Clean → OkClean id (body i t)) :
    Out.Clean (copyNow w s deps held body) :=
  engWord_clean h fun i t hi ht => by
    have hu := hb i t ht
    split
    · trivial
    · split
      · trivial
      · next e => rw [e] at hu; exact hu
theorem releaseOldest_clean {n c} (h : s.Clean) : (State.releaseOldest n s c).Clean := by
  fun_induction State.releaseOldest <;> grind only [updMsg_clean]
theorem sendMessage_clean {k a ch tag rows} (h : s.Clean) : (s.sendMessage k a ch tag rows).Clean := by
  fun_cases State.sendMessage <;> grind only [raise_clean, setFab_clean, setChan_clean, sendOut_clean, updFlight_clean,
      replaceReq_clean]
theorem recvMessage_clean {k a ch t row n ack ec} (h : s.Clean) : (s.recvMessage k a ch t row n ack ec).Clean := by
  fun_cases State.recvMessage <;> grind only [raise_clean, setCore_keep, setE_modes, foldl_modes, Core.setTileBytes_modes,
      setChan_clean, settle_clean, replaceReq_clean, updMsg_clean]
theorem breakEnd_clean {c} (h : s.Clean) : (s.breakEnd c).Clean := by
  unfold State.breakEnd
  extract_lets old s1 waits s2
  have h2 : s2.Clean := foldl_state_clean _ _ h fun t n ht => by
    extract_lets k
    split
    · exact raise_clean ht
    · exact ht
  split
  · exact failStage_clean h2
  · exact h2
theorem execChannelBroken_clean {c} (h : s.Clean) : Out.Clean (execChannelBroken c s) := by
  fun_cases execChannelBroken
  grind only [Out.Clean, breakEnd_clean]
theorem execChannelEndOpen_clean {c w0} (h : s.Clean) : Out.Clean (execChannelEndOpen c w0 s) := by
  fun_cases execChannelEndOpen
  grind only [Out.Clean, setChan_clean]
theorem execChannelEndClose_clean {c w0} (h : s.Clean) : Out.Clean (execChannelEndClose c w0 s) := by
  fun_cases execChannelEndClose
  grind only [Out.Clean, setChan_clean]
theorem arriveMessage_clean {c n tag} (h : s.Clean) : (s.arriveMessage c n tag).Clean := by
  fun_cases State.arriveMessage <;> grind only [arriveTag_clean]
theorem settleMessage_clean {c m' cancel} (h : s.Clean) : (s.settleMessage c m' cancel).Clean := by
  fun_cases State.settleMessage <;> grind only [updMsg_clean, setChan_clean, arriveMessage_clean]
theorem newMessage_clean {c src srcCh w0 n tag rows held} (h : s.Clean) :
    (s.newMessage c src srcCh w0 n tag rows held).Clean := by
  fun_cases State.newMessage <;> grind only [State.Clean, send_clean, breakEnd_clean, setMem_clean, setChan_clean,
      updMsg_clean, arriveMessage_clean]
theorem execMessageDelivered_clean {c src end_ n tag rows held cancel} (h : s.Clean) :
    Out.Clean (execMessageDelivered c src end_ n tag rows held cancel s) := by
  fun_cases execMessageDelivered <;> grind only [Out.Clean, fromPeer_clean, settleMessage_clean, newMessage_clean]
theorem execMessageConfirm_clean {c n} (h : s.Clean) : Out.Clean (execMessageConfirm c n s) := by
  fun_cases execMessageConfirm <;> grind only [Out.Clean, setChan_clean, setEng_clean]
theorem execAckReceive_clean {c aseq} (h : s.Clean) : Out.Clean (execAckReceive c aseq s) := by
  fun_cases execAckReceive <;> grind only [Out.Clean, setChan_clean]
theorem execCchstStat_clean {w} (h : s.Clean) : Out.Clean (execCchstStat w s) :=
  copyNow_clean h fun i t ht => by split; exacts [trivial, setCore_keep ht rfl]
theorem execCchstGrant_clean {w} (h : s.Clean) : Out.Clean (execCchstGrant w s) :=
  copyNow_clean h fun i t ht => by dsimp only; split; exacts [trivial, setCore_keep (releaseOldest_clean ht) rfl]

/-! ### Batches of remote atomics -/

theorem batchRows_clean {k dst l} (h : s.Clean) : OkClean (fun x => x.2.2) (s.batchRows k dst l) := by
  fun_induction State.batchRows <;> grind only [OkClean, virtual_clean]
@[simp] theorem takeBatchId_clean {target} : (s.takeBatchId target).2.Clean ↔ s.Clean := .rfl
theorem sendBatch_clean {k a op rows ret} (h : s.Clean) : (s.sendBatch k a op rows ret).Clean := by
  fun_cases State.sendBatch <;> grind only [OkClean, State.Clean, batchRows_clean, raise_clean, takeBatchId_clean,
      sendOut_clean, setFab_clean, updFlight_clean, replaceReq_clean, setMem_clean, settle_clean]
@[simp] theorem dropBatch_clean {b} : (s.dropBatch b).Clean ↔ s.Clean := .rfl
theorem execBatchReply_clean {target id old} (h : s.Clean) : Out.Clean (execBatchReply target id old s) := by
  fun_cases execBatchReply <;> grind only [Out.Clean, dropBatch_clean, raise_clean, setEng_clean]
theorem execBatchResend_clean {target id} (h : s.Clean) : Out.Clean (execBatchResend target id s) := by
  fun_cases execBatchResend <;> grind only [Out.Clean, setFab_clean, sendOut_clean]
theorem execBatchReceive_clean {src inc id op rows} (h : s.Clean) : Out.Clean (execBatchReceive src inc id op rows s) :=
  fromPeer_clean h (by
    split
    · exact h
    · split
      · exact h
      · exact h)

/-! ### Collectives and rings -/

theorem failColl_clean {c t} (h : s.Clean) : (s.failColl c t).Clean := by
  fun_cases State.failColl <;> grind only [setFab_clean, raise_clean, failNode_clean]
theorem nodeWrites_clean {who pasid ranges l} (h : s.Clean) : OkClean id (s.nodeWrites who pasid ranges l) := by
  fun_induction State.nodeWrites <;> grind only [OkClean, id_eq, virtualAs_clean, writeAs_clean]
theorem settleColl_clean {c q idx} (h : s.Clean) : (s.settleColl c q idx).Clean := by
  fun_cases State.settleColl <;> grind only [tellWritten_clean, setPhase_clean, dropColl_clean]
theorem settleWord_clean {k id} (h : s.Clean) : (s.settleWord k id).Clean := by
  fun_cases State.settleWord <;> grind only [settle_clean]
theorem collProgress_clean {id} (h : s.Clean) : (s.collProgress id).Clean := by
  fun_cases State.collProgress <;> grind only [settleWord_clean, settleColl_clean]
theorem endColl_clean {c ws flags status} (h : s.Clean) : (s.endColl c ws flags status).Clean := by
  fun_cases State.endColl <;> grind only [OkClean, id_eq, setEng_clean, nodeWrites_clean, failColl_clean,
      collProgress_clean, updColl_clean]
theorem ringProgress_clean {id} (h : s.Clean) : (s.ringProgress id).Clean := by
  fun_cases State.ringProgress <;> grind only [endColl_clean]
theorem sendEast_clean {c x} (h : s.Clean) : (s.sendEast c x).Clean := by
  fun_cases State.sendEast <;> grind only [send_clean]
theorem beginRing_clean {c x ftzn bs} (h : s.Clean) : (s.beginRing c x ftzn bs).Clean := ringProgress_clean (sendEast_clean h)
theorem startRing_clean {k a op fs fd n src dst group ftzn} (h : s.Clean) :
    (s.startRing k a op fs fd n src dst group ftzn).Clean := by
  fun_cases State.startRing <;> grind only [Come.Clean, raise_clean, readReq_clean, updFlight_clean, replaceReq_clean,
      beginRing_clean]
theorem ringWord_clean {op w} (h : s.Clean) : Out.Clean (ringWord op w s) :=
  copyWord_clean h fun i t => by grind only [CIss.KeepsModes, illegal]
theorem execRingChunkReceive_clean {group sender terms agrees} (h : s.Clean) :
    Out.Clean (execRingChunkReceive group sender terms agrees s) :=
  fromPeer_clean h (by grind only [failColl_clean, updColl_clean, sendEast_clean, ringProgress_clean])

/-! ### Drift -/

theorem tellOthers_clean {c m'} (h : s.Clean) : (s.tellOthers c m').Clean := by
  fun_cases State.tellOthers
  grind only [tellMember_clean, foldl_state_clean]
theorem sendOffers_clean {c x} (h : s.Clean) : (s.sendOffers c x).Clean := tellOthers_clean h
theorem sendRefusals_clean {c x} (h : s.Clean) : (s.sendRefusals c x).Clean := tellOthers_clean h
theorem driftMove_clean {c old new} (h : s.Clean) : (s.driftMove c old new).Clean := by
  fun_cases State.driftMove <;> grind only [updColl_clean, sendOffers_clean, sendRefusals_clean, endColl_clean,
      collProgress_clean]
theorem beginDrift_clean {c d bs} (h : s.Clean) : (s.beginDrift c d bs).Clean := driftMove_clean (tellOthers_clean h)
theorem readDriftDesc_clean {k a desc ec} (h : s.Clean) : (s.readDriftDesc k a desc ec).Clean := by
  fun_cases State.readDriftDesc <;> grind only [Come.Clean, readReq_clean, raise_clean, replaceReq_clean]
theorem startDrift_clean {k a d ec} (h : s.Clean) : (s.startDrift k a d ec).Clean := by
  fun_cases State.startDrift <;> grind only [Come.Clean, raise_clean, updFlight_clean, replaceReq_clean, beginDrift_clean,
      readReq_clean]
theorem driftEvent_clean {group sender f} (h : s.Clean) (hf : ∀ t c x, t.Clean → (f t c x).Clean) :
    Out.Clean (driftEvent group sender s f) :=
  fromPeer_clean h (by grind only [failColl_clean])
theorem execDriftLoadsReceive_clean {group sender loads agrees} (h : s.Clean) :
    Out.Clean (execDriftLoadsReceive group sender loads agrees s) :=
  driftEvent_clean h fun t c x ht => by grind only [failColl_clean, driftMove_clean]
theorem execDriftOfferReceive_clean {group sender count} (h : s.Clean) :
    Out.Clean (execDriftOfferReceive group sender count s) :=
  driftEvent_clean h fun t c x ht => by grind only [driftMove_clean]
theorem execDriftRecordsReceive_clean {group sender recs refused marks written} (h : s.Clean) :
    Out.Clean (execDriftRecordsReceive group sender recs refused marks written s) :=
  driftEvent_clean h fun t c x ht => by grind only [driftMove_clean, tellMember_clean]

/-! ### The events of copy requests and collective nodes -/

theorem execCopyDataReturn_clean {core idx} (h : s.Clean) : Out.Clean (execCopyDataReturn core idx s) := by
  fun_cases execCopyDataReturn <;> grind only [Out.Clean, returnData_clean, fixBefore_clean, recvMessage_clean,
      startRing_clean, readDriftDesc_clean, startDrift_clean]
theorem execCopyWriteAccept_clean {core idx} (h : s.Clean) : Out.Clean (execCopyWriteAccept core idx s) := by
  fun_cases execCopyWriteAccept <;> grind only [Out.Clean, sendMessage_clean, sendBatch_clean, acceptWrite_clean]
theorem collRead_clean {n a len} (h : s.Clean) : (s.collRead n a len).Clean := by
  fun_cases State.collRead <;> grind only [CollRead.Clean, CpRead.Clean, OkClean, virtualAs_clean, readAs_clean]
theorem beginColl_clean {n} (h : s.Clean) : OkClean id (s.beginColl n) := by
  fun_cases State.beginColl <;> grind only [CollRead.Clean, OkClean, id_eq, updNode_clean, collRead_clean, beginRing_clean,
      beginDrift_clean]
theorem execColl_clean {q idx} (h : s.Clean) : Out.Clean (execColl q idx s) := by
  fun_cases execColl <;> grind only [Fetch.Clean, OkClean, Out.Clean, id_eq, completeNode_clean, fetchOwn_clean,
      toLease_clean, updNode_clean, beginColl_clean, failNode_clean]

/-! ### Tiers, grades, the Neve lines and calving -/

theorem allocate_clean {k va bank way evf} (h : s.Clean) : (s.allocate k va bank way evf).Clean := by
  fun_cases State.allocate <;> grind only [OkClean, virtual_clean, setQuad_clean]
theorem execNeveDisplace_clean {x pline sectors coding} (h : s.Clean) :
    Out.Clean (execNeveDisplace x pline sectors coding s) := by
  fun_cases execNeveDisplace <;> grind only [Out.Clean, State.Clean, setMem_clean]
theorem execPoisonDetect_clean {sector error} (h : s.Clean) : Out.Clean (execPoisonDetect sector error s) := by
  fun_cases execPoisonDetect <;> grind only [Out.Clean, State.Clean, logEvent_clean, setMem_clean]
theorem execMemoryEventRecord_clean (h : s.Clean) : Out.Clean (execMemoryEventRecord s) := by
  fun_cases execMemoryEventRecord <;> grind only [Out.Clean, State.Clean, setMem_clean]
theorem execRowActivation_clean {row checkFails} (h : s.Clean) : Out.Clean (execRowActivation row checkFails s) := by
  fun_cases execRowActivation
  grind only [Out.Clean, State.Clean, setMem_clean, logEvent_clean]
theorem occupancy_clean {t old} (h : s.Clean) : (s.occupancy t old).Clean := by
  fun_cases State.occupancy <;> grind only [State.Clean, rebudget_clean, setMem_clean]
theorem postCrossing_clean {high tier} (h : s.Clean) : (s.postCrossing high tier).Clean := by
  fun_cases State.postCrossing <;> grind only [State.Clean, memNotice_clean, setMem_clean]
theorem execPromoteCount_clean {tier region} (h : s.Clean) : Out.Clean (execPromoteCount tier region s) := by
  fun_cases execPromoteCount <;> grind only [Out.Clean, Posted.Clean, State.Clean, setMem_clean, postPromote_clean]
theorem execRgcmd_clean {v} (h : s.Clean) : Out.Clean (execRgcmd v s) := by
  fun_cases execRgcmd <;> grind only [Out.Clean, State.Clean, setMem_clean, occupancy_clean]
theorem execRgcmdDone_clean (h : s.Clean) : Out.Clean (execRgcmdDone s) := by
  fun_cases execRgcmdDone <;> grind only [Out.Clean, State.Clean, setMem_clean]
theorem execTmcmd_clean {v} (h : s.Clean) : Out.Clean (execTmcmd v s) := by
  fun_cases execTmcmd <;> grind only [Out.Clean, State.Clean, setMem_clean]
theorem execTierMoveDone_clean (h : s.Clean) : Out.Clean (execTierMoveDone s) := by
  fun_cases execTierMoveDone <;> grind only [Out.Clean, State.Clean, send_clean, setMem_clean, foldl_state_clean]
theorem execCalvctlGo_clean {v} (h : s.Clean) : Out.Clean (execCalvctlGo v s) := by
  fun_cases execCalvctlGo <;> grind only [Out.Clean, State.Clean, setMem_clean, rebudget_clean]
theorem execCalvMapLoaded_clean (h : s.Clean) : Out.Clean (execCalvMapLoaded s) := by
  fun_cases execCalvMapLoaded
  grind only [Out.Clean, State.Clean, setMem_clean]
theorem execCalvLineCopy_clean {uncorrectable} (h : s.Clean) : Out.Clean (execCalvLineCopy uncorrectable s) := by
  fun_cases execCalvLineCopy <;> grind only [Out.Clean, State.Clean, setMem_clean, logEvent_clean]
theorem execCalvMoveDone_clean (h : s.Clean) : Out.Clean (execCalvMoveDone s) := by
  fun_cases execCalvMoveDone
  grind only [Out.Clean, State.Clean, setMem_clean]
theorem execCalvSettleDone_clean (h : s.Clean) : Out.Clean (execCalvSettleDone s) := by
  fun_cases execCalvSettleDone <;> grind only [Out.Clean, State.Clean, setMem_clean, setMgmt_clean, memNotice_clean]
theorem execPhase_clean {core agent addr stamp} (h : s.Clean) : Out.Clean (execPhase core agent addr stamp s) := by
  fun_cases execPhase <;> grind only [Out.Clean, logEvent_clean, setCore_keep, Core.modes]

/-! ### Requests of other packages and their answers -/

theorem servePeer_clean {src inc addr len f} (h : s.Clean) (hf : (f s).Clean) : (s.servePeer src inc addr len f).Clean := by
  fun_cases State.servePeer <;> grind only [send_clean]
@[simp] theorem dropRemote_clean {id} : (s.dropRemote id).Clean ↔ s.Clean := .rfl
theorem takeAnswer_clean {r a} (h : s.Clean) : (s.takeAnswer r a).Clean := by
  fun_cases State.takeAnswer <;> grind only [setCtx_clean, raise_clean, setEng_clean]
theorem takeRead_clean {r data poisoned} (h : s.Clean) : (s.takeRead r data poisoned).Clean := by
  fun_cases State.takeRead <;> grind only [setIo_clean, setEng_clean, begin_clean, takeAnswer_clean]
theorem takeWritten_clean {r} (h : s.Clean) : (s.takeWritten r).Clean := by
  fun_cases State.takeWritten <;> grind only [writePerformed_clean, setIo_clean, collProgress_clean]
theorem execRemoteRequest_clean {m'} (h : s.Clean) : Out.Clean (execRemoteRequest m' s) := by
  fun_cases execRemoteRequest <;> grind only [Out.Clean, State.Clean, servePeer_clean, send_clean, setMem_clean,
      takeRead_clean, dropRemote_clean, takeWritten_clean]
theorem failRequest_clean {r t} (h : s.Clean) : (s.failRequest r t).Clean := by
  fun_cases State.failRequest <;> grind only [failColl_clean, failNode_clean, failInst_clean, raise_clean, takeAnswer_clean]
theorem loseMessage_clean {c m' t} (h : s.Clean) : (s.loseMessage c m' t).Clean := by
  fun_cases State.loseMessage
  grind only [raise_clean, breakEnd_clean]
theorem loseRequest_clean {pkg id old} (h : s.Clean) : (s.loseRequest pkg id old).Clean := by
  fun_cases State.loseRequest <;> grind only [setFab_clean, failRequest_clean, dropRemote_clean, raise_clean,
      dropBatch_clean, loseMessage_clean, failColl_clean]
theorem recordInc_clean {pkg inc} (h : s.Clean) : (s.recordInc pkg inc).Clean := by
  fun_cases State.recordInc <;> grind only [setFab_clean]
theorem execRemoteTimeout_clean {pkg id} (h : s.Clean) : Out.Clean (execRemoteTimeout pkg id s) := by
  fun_cases execRemoteTimeout
  grind only [Out.Clean, loseRequest_clean]
theorem execIncarnationAnnounce_clean {pkg inc} (h : s.Clean) : Out.Clean (execIncarnationAnnounce pkg inc s) := by
  fun_cases execIncarnationAnnounce <;> grind only [Out.Clean, recordInc_clean, setFab_clean, breakEnd_clean,
      failColl_clean, failStage_clean, foldl_state_clean]
theorem execTorusPortDown_clean {port} (h : s.Clean) : Out.Clean (execTorusPortDown port s) := by
  fun_cases execTorusPortDown
  grind only [Out.Clean, setFab_clean]
theorem execTorusPortUp_clean {port} (h : s.Clean) : Out.Clean (execTorusPortUp port s) := by
  fun_cases execTorusPortUp
  grind only [Out.Clean, setFab_clean, send_clean, foldl_state_clean]

/-! ### Accesses of the host -/

theorem execBar4Read_clean {off len} (h : s.Clean) : Out.Clean (execBar4Read off len s) := by
  fun_cases execBar4Read <;> grind only [Out.Clean, send_clean]
theorem execBar4Write_clean {off data} (h : s.Clean) : Out.Clean (execBar4Write off data s) := by
  fun_cases execBar4Write <;> grind only [Out.Clean, State.Clean, setMem_clean]
@[simp] theorem liveApt_clean {e} : (s.liveApt e).Clean ↔ s.Clean := .rfl
theorem hostRead_clean {off} (h : s.Clean) : (hostRead off s).Clean := by
  fun_cases hostRead <;> grind only [send_clean, liveApt_clean]
theorem kickRead_clean {q off} (h : s.Clean) : (kickRead q off s).Clean := by
  fun_cases kickRead <;> grind only [send_clean]
theorem sizeBar4_clean {log2} (h : s.Clean) : (sizeBar4 log2 s).Clean := by
  fun_cases sizeBar4 <;> grind only [setCmd_clean]
theorem writeQueue_clean {q off v} (h : s.Clean) : (s.writeQueue q off v).Clean := by
  fun_cases State.writeQueue <;> grind only [setQueue_clean]
theorem writeTier_clean {t off v} (h : s.Clean) : (s.writeTier t off v).Clean := by
  fun_cases State.writeTier <;> grind only [State.Clean, occupancy_clean, setMem_clean]
theorem writeMem_clean {off v} (h : s.Clean) : (s.writeMem off v).Clean := by
  fun_cases State.writeMem <;> grind only [State.Clean, setMem_clean, writeTier_clean]
theorem writeGroup_clean {g w v} (h : s.Clean) : (s.writeGroup g w v).Clean := by
  fun_cases State.writeGroup <;> grind only [setFab_clean, failColl_clean]
@[simp] theorem writeApt_clean {e w v} : (s.writeApt e w v).Clean ↔ s.Clean := .rfl
theorem writeCqi_clean {off v} (h : s.Clean) : (s.writeCqi off v).Clean := by
  fun_cases State.writeCqi <;> grind only [State.Clean, setCmd_clean, setMem_clean, drainRecords_clean]
theorem writeMgmt_clean {off v} (h : s.Clean) : (s.writeMgmt off v).Clean := by
  fun_cases State.writeMgmt <;> grind only [setMgmt_clean]
theorem writeMsix_clean {off v} (h : s.Clean) : (s.writeMsix off v).Clean := by
  fun_cases State.writeMsix <;> grind only [setCmd_clean]
theorem execRegisterWrite_clean {off v} (h : s.Clean) : Out.Clean (execRegisterWrite off v s) := by
  fun_cases execRegisterWrite <;> grind only [Out.Clean, writeApt_clean, writeQueue_clean, writeMgmt_clean, writeMem_clean,
      writeGroup_clean, setChan_clean, writeMsix_clean, writeCqi_clean]

/-! ### Power, resets and firmware -/

theorem logError_clean {cause} (h : s.Clean) : (s.logError cause).Clean := by
  unfold State.logError
  exact setMgmt_clean.2 h
theorem tripped_clean {cause} (h : s.Clean) : (s.tripped cause).Clean := by
  unfold State.tripped
  exact setMgmt_clean.2 (send_clean.2 (logError_clean h))
theorem execPowerControlTick_clean {x} (h : s.Clean) : Out.Clean (execPowerControlTick x s) := by
  fun_cases execPowerControlTick <;> grind only [Out.Clean, setMgmt_clean, tripped_clean]
theorem execTrip_clean {signs} (h : s.Clean) : Out.Clean (execTrip signs s) := by
  fun_cases execTrip
  grind only [Out.Clean, tripped_clean]
theorem execParkedEnter_clean (h : s.Clean) : Out.Clean (execParkedEnter s) := by
  fun_cases execParkedEnter
  grind only [Out.Clean, setMgmt_clean]
theorem execStackWarnWindow_clean {stack} (h : s.Clean) : Out.Clean (execStackWarnWindow stack s) := by
  fun_cases execStackWarnWindow
  grind only [Out.Clean, setMgmt_clean]
theorem execCorrectedError_clean {error} (h : s.Clean) : Out.Clean (execCorrectedError error s) := by
  unfold execCorrectedError
  extract_lets a stack st die g n post old s1 s2
  have h2 : s2.Clean := h
  split
  · exact h
  · split
    · exact memNotice_clean h2
    · exact h2
theorem fresh_clean {g n} : (s.fresh g n).Clean := by
  intro k
  show ModesClean ((Vector.replicate 128 Core.reset)[k.val]).modes
  rw [Vector.getElem_replicate]
  exact reset_modesClean
theorem bootImage_clean {g} : (s.bootImage g).Clean := by
  fun_cases State.bootImage <;> grind only [fresh_clean, send_clean]
theorem execColdReset_clean : Out.Clean (execColdReset s) := by
  fun_cases execColdReset
  grind only [Out.Clean, fresh_clean, bootImage_clean]
theorem execWarmReset_clean : Out.Clean (execWarmReset s) := by
  fun_cases execWarmReset
  grind only [Out.Clean, fresh_clean, bootImage_clean]
theorem fwCommand_clean {cmd f} (h : s.Clean) (hf : (f s).2.Clean) : Out.Clean (fwCommand s cmd f) := by
  fun_cases fwCommand <;> grind only [Out.Clean, setMgmt_clean]
theorem execLoad_clean (h : s.Clean) : Out.Clean (execLoad s) := fwCommand_clean h (by grind only [bootImage_clean])
theorem execCommit_clean (h : s.Clean) : Out.Clean (execCommit s) :=
  fwCommand_clean h (by grind only [State.Clean, setMgmt_clean])
theorem execEnrol_clean (h : s.Clean) : Out.Clean (execEnrol s) := fwCommand_clean h (by grind only [setMgmt_clean])
theorem execUnenrol_clean (h : s.Clean) : Out.Clean (execUnenrol s) :=
  fwCommand_clean h (by grind only [State.Clean, setMgmt_clean])
theorem execQuote_clean (h : s.Clean) : Out.Clean (execQuote s) :=
  fwCommand_clean h (by grind only [setMgmt_clean, setMem_clean])
theorem execFwcmdComplete_clean (h : s.Clean) : Out.Clean (execFwcmdComplete s) := by
  fun_cases execFwcmdComplete
  grind only [Out.Clean, setMgmt_clean]

/-! ### Turns, and what they do beside instructions -/

theorem pass_clean {t} (h : s.Clean) : (s.pass t).Clean := by
  fun_cases State.pass <;> grind only [State.Clean]
theorem peekTurn_clean (h : s.Clean) : (s.peekTurn).2.Clean := by
  fun_cases State.peekTurn <;> grind only [State.Clean]
theorem nextTurn_clean (h : s.Clean) : (s.nextTurn).2.Clean := by
  fun_cases State.nextTurn <;> grind only [peekTurn_clean]
theorem evictLine_clean {k n} (h : s.Clean) : (evictLine s k n).Clean := by
  fun_cases evictLine <;> grind only [flushLines_clean]
theorem onCore_clean {k f} (h : s.Clean) (hf : ∀ c : Core, (f c).modes = c.modes) : (s.onCore k f).Clean := by
  fun_cases State.onCore
  · exact setCore_keep h (hf _)
  · exact h
theorem onQuad_clean {q f} (h : s.Clean) : (s.onQuad q f).Clean := by
  fun_cases State.onQuad <;> grind only [setQuad_clean]

/-! ### Every instruction and every step -/

theorem exec_clean (h : s.Clean) (i : Instr) : Out.Clean (exec i s) := by
  cases i with
  | add | sub | and | or | xor | sll | srl | sra | mul | mulh | mulhu | div | divu | rem | remu | min | max | minu | maxu | andn =>
    simp only [exec_add, exec_sub, exec_and, exec_or, exec_xor, exec_sll, exec_srl, exec_sra, exec_mul, exec_mulh,
        exec_mulhu, exec_div,
      exec_divu, exec_rem, exec_remu, exec_min, exec_max, exec_minu, exec_maxu, exec_andn]
    exact aluR_clean h
  | clz | popc =>
    simp only [exec_clz, exec_popc]
    exact aluR1_clean h
  | addi | andi | ori | xori =>
    simp only [exec_addi, exec_andi, exec_ori, exec_xori]
    exact aluI_clean h
  | slli | srli | srai | liu | addpc | sel =>
    simp only [exec_slli, exec_srli, exec_srai, exec_liu, exec_addpc, exec_sel]
    exact ctlX_clean h
  | cmp | cmpi | plog =>
    simp only [exec_cmp, exec_cmpi, exec_plog]
    exact ctlP_clean h
  | br | jal | gete | getts | movs =>
    simp only [exec_br, exec_jal, exec_gete, exec_getts, exec_movs]
    exact ctl_clean h fun _ _ _ => setCtx_clean.2 h
  | invi | sete =>
    simp only [exec_invi, exec_sete]
    exact ctl_clean h fun _ _ _ => advance_clean.2 (setCore_keep h rfl)
  | setts =>
    rw [exec_setts]
    exact ctl_clean h fun k _ _ => advance_clean.2 (setCore_clean h (tshapeOf_modesClean (h.core k) _ _))
  | jalr => exact execJalr_clean h
  | ldb | ldh | ldw | ldd | ldbu | ldhu | ldwu =>
    simp only [exec_ldb, exec_ldh, exec_ldw, exec_ldd, exec_ldbu, exec_ldhu, exec_ldwu]
    exact loadWord_clean h
  | ldfeW => exact execLdfeW_clean h
  | ldfeE => exact execLdfeE_clean h
  | ldfeN =>
    rw [exec_ldfeN]
    exact feAccess_clean h fun _ _ _ _ _ _ => feLoad_clean h fun _ ht => ht
  | stb | sth | stw | std =>
    simp only [exec_stb, exec_sth, exec_stw, exec_std]
    exact storeWord_clean h
  | stfeF =>
    rw [exec_stfeF]
    exact feAccess_clean h fun _ _ _ _ _ _ => feStore_clean h
  | stfeWe => exact execStfeWe_clean h
  | feqQ | feqClr =>
    simp only [exec_feqQ, exec_feqClr]
    exact feAccess_clean h fun _ _ _ _ _ _ => setCtx_clean.2 h
  | feqSet =>
    rw [exec_feqSet]
    exact feAccess_clean h fun _ _ _ _ _ _ => fillGranule_clean (advance_clean.2 h)
  | invr | wbr | wbinvr =>
    simp only [exec_invr, exec_wbr, exec_wbinvr]
    exact rangeOp_clean h
  | fenceCls =>
    rw [exec_fenceCls]
    exact fence_clean h fun _ => h
  | fenceRel =>
    rw [exec_fenceRel]
    exact fence_clean h fun _ => relLines_clean h
  | fenceAcq | fenceAr =>
    simp only [exec_fenceAcq, exec_fenceAr]
    exact fence_clean h fun _ => acqLines_clean h
  | amoSwap | amoAdd | amoAnd | amoOr | amoXor | amoMin | amoMax | amoMinu | amoMaxu | amoFadd | amoCas =>
    simp only [exec_amoSwap, exec_amoAdd, exec_amoAnd, exec_amoOr, exec_amoXor, exec_amoMin, exec_amoMax, exec_amoMinu,
        exec_amoMaxu,
      exec_amoFadd, exec_amoCas]
    exact amo_clean h
  | redAdd | redAnd | redOr | redXor | redMin | redMax | redMinu | redMaxu | redFadd =>
    simp only [exec_redAdd, exec_redAnd, exec_redOr, exec_redXor, exec_redMin, exec_redMax, exec_redMinu, exec_redMaxu,
        exec_redFadd]
    exact red_clean h
  | qpush => exact execQpush_clean h
  | qpop => exact execQpop_clean h
  | racqP | racqC =>
    simp only [exec_racqP, exec_racqC]
    exact ringOp_clean h fun _ _ _ _ => racq_clean h
  | rrelP | rrelC =>
    simp only [exec_rrelP, exec_rrelC]
    exact ringOp_clean h fun _ _ _ _ => rrel_clean h
  | fork => exact execFork_clean h
  | join => exact execJoin_clean h
  | twait => exact execTwait_clean h
  | tpost => exact execTpost_clean h
  | barA => exact execBarA_clean h
  | barW => exact execBarW_clean h
  | barAw => exact execBarAw_clean h
  | barTry =>
    rw [exec_barTry]
    exact barrier_clean h fun _ _ _ _ => retP_clean.2 h
  | trmSend => exact execTrmSend_clean h
  | trmIdle => exact execTrmIdle_clean h
  | trmBusy => exact execTrmBusy_clean h
  | trmTest =>
    rw [exec_trmTest]
    exact trmDo_clean h fun _ _ _ _ => retP_clean.2 h
  | movts => exact execMovts_clean h
  | trap =>
    rw [exec_trap]
    exact ctl_clean h fun _ _ _ => raiseCtx_clean h
  | yield => exact execYield_clean h
  | done => exact execDone_clean h
  | instructionFetch => exact execInstructionFetch_clean h
  | enop =>
    rw [exec_enop]
    exact engWord_clean h fun _ _ _ ht => ht
  | azero => exact execAzero_clean h
  | amma => exact execAmma_clean h
  | ammas => exact execAmmas_clean h
  | ammaz => exact execAmmaz_clean h
  | atbld => exact execAtbld_clean h
  | atmma => exact execAtmma_clean h
  | adist => exact execAdist_clean h
  | aargmin => exact execAargmin_clean h
  | adrain => exact execAdrain_clean h
  | adrainm => exact execAdrainm_clean h
  | ascacc => exact execAscacc_clean h
  | acent => exact execAcent_clean h
  | acdiv => exact execAcdiv_clean h
  | aaccld => exact execAaccld_clean h
  | aaccst => exact execAaccst_clean h
  | amova => exact execAmova_clean h
  | ehalt => exact execEhalt_clean h
  | eskip => exact execEskip_clean h
  | eflag => exact execEflag_clean h
  | sectionFetch => exact execSectionFetch_clean h
  | sectionExecute => exact execSectionExecute_clean h
  | engineWordComplete => exact execEngineWordComplete_clean h
  | adrainmStoresAccepted => exact execAdrainmStoresAccepted_clean h
  | vadd | vsub | vmul =>
    simp only [exec_vadd, exec_vsub, exec_vmul]
    exact float2_clean h
  | vfma => exact execVfma_clean h
  | vbmax => exact execVbmax_clean h
  | vpack => exact execVpack_clean h
  | vzbm => exact execVzbm_clean h
  | vcsum => exact execVcsum_clean h
  | vscan => exact execVscan_clean h
  | vmov => exact execVmov_clean h
  | vtrans => exact execVtrans_clean h
  | vshuf => exact execVshuf_clean h
  | vsel => exact execVsel_clean h
  | vext => exact execVext_clean h
  | vins => exact execVins_clean h
  | vmlog => exact execVmlog_clean h
  | vmpop => exact execVmpop_clean h
  | vmfirst => exact execVmfirst_clean h
  | vsfc => exact execVsfc_clean h
  | vhist => exact execVhist_clean h
  | vspars => exact execVspars_clean h
  | vunpk => exact execVunpk_clean h
  | vmin | vmax =>
    simp only [exec_vmin, exec_vmax]
    exact floatMinMax_clean h
  | vabs | vneg | vrcp | vrsq | vexp2 | vlog2 | vclamp | vshl | vshr | vpopc =>
    simp only [exec_vabs, exec_vneg, exec_vrcp, exec_vrsq, exec_vexp2, exec_vlog2, exec_vclamp, exec_vshl, exec_vshr, exec_vpopc]
    exact unary_clean h
  | vscale | vcvt | vquant =>
    simp only [exec_vscale, exec_vcvt, exec_vquant]
    exact convWord_clean h
  | vcmp | vclass | vicmp =>
    simp only [exec_vcmp, exec_vclass, exec_vicmp]
    exact maskWord_clean h
  | viadd | visub | vimul | vimin | vimax =>
    simp only [exec_viadd, exec_visub, exec_vimul, exec_vimin, exec_vimax]
    exact int2_clean h
  | vand | vor | vxor =>
    simp only [exec_vand, exec_vor, exec_vxor]
    exact bit2_clean h
  | viota | vfill =>
    simp only [exec_viota, exec_vfill]
    exact fillWord_clean h
  | vrsum | vrmax | vrmin | vramax =>
    simp only [exec_vrsum, exec_vrmax, exec_vrmin, exec_vramax]
    exact reduceWord_clean h
  | vbcast | vrot =>
    simp only [exec_vbcast, exec_vrot]
    exact moveWord_clean h
  | cld => exact execCld_clean h
  | cst => exact execCst_clean h
  | ccpy => exact execCcpy_clean h
  | cfill => exact execCfill_clean h
  | cgath => exact execCgath_clean h
  | cscat => exact execCscat_clean h
  | cdec => exact execCdec_clean h
  | cenc => exact execCenc_clean h
  | cxfm => exact execCxfm_clean h
  | cunst => exact execCunst_clean h
  | cbat => exact execCbat_clean h
  | csend => exact execCsend_clean h
  | crecv => exact execCrecv_clean h
  | crepart => exact execCrepart_clean h
  | cpref => exact execCpref_clean h
  | cflush => exact execCflush_clean h
  | cmetaRead => exact execCmetaRead_clean h
  | cmetaWrite => exact execCmetaWrite_clean h
  | cwin => exact execCwin_clean h
  | cadv => exact execCadv_clean h
  | windowGranuleLand => exact execWindowGranuleLand_clean h
  | copyDataReturn => exact execCopyDataReturn_clean h
  | copyWriteAccept => exact execCopyWriteAccept_clean h
  | cstash | csdrop =>
    simp only [exec_cstash, exec_csdrop]
    exact firnWord_clean h
  | cchstStat => exact execCchstStat_clean h
  | cchstGrant => exact execCchstGrant_clean h
  | cringSum | cringMax | cringBcast =>
    simp only [exec_cringSum, exec_cringMax, exec_cringBcast]
    exact ringWord_clean h
  | cpin => exact execCpin_clean h
  | cunpin => exact execCunpin_clean h
  | kick => exact execKick_clean h
  | tailReadReturn => exact execTailReadReturn_clean h
  | queueEnable => exact execQueueEnable_clean h
  | queueDisable => exact execQueueDisable_clean h
  | recordEnter => exact execRecordEnter_clean h
  | nop => exact execNop_clean h
  | task => exact execTask_clean h
  | stage => exact execStage_clean h
  | xform => exact execXform_clean h
  | coll => exact execColl_clean h
  | signal => exact execSignal_clean h
  | wait => exact execWait_clean h
  | waitPoll => exact execWaitPoll_clean h
  | waitTimeout => exact execWaitTimeout_clean h
  | nodeComplete => exact execNodeComplete_clean h
  | cplheadReread => exact execCplheadReread_clean h
  | msixUnmask => exact execMsixUnmask_clean h
  | leasePhase => exact execLeasePhase_clean h
  | noticeackRetry => exact execNoticeackRetry_clean h
  | noticeackFail => exact execNoticeackFail_clean h
  | nqcfgWrite => exact execNqcfgWrite_clean h
  | nqheadWrite =>
    rw [exec_nqheadWrite]
    exact serve_clean h
  | tlbInvalidate => exact execTlbInvalidate_clean h
  | tlbInvalidateDone => exact execTlbInvalidateDone_clean h
  | atsInvalidate => exact execAtsInvalidate_clean h
  | bar4Read => exact execBar4Read_clean h
  | bar4Write => exact execBar4Write_clean h
  | registerWrite => exact execRegisterWrite_clean h
  | placeNode => exact execPlaceNode_clean h
  | placementReserve => exact execPlacementReserve_clean h
  | preemptTimeout => exact execPreemptTimeout_clean h
  | contextSave => exact execContextSave_clean h
  | contextResume => exact execContextResume_clean h
  | partStart => exact execPartStart_clean h
  | rendezvous => exact execRendezvous_clean h
  | iterLong => exact execIterLong_clean h
  | retire => exact execRetire_clean h
  | faultTeardown => exact execFaultTeardown_clean h
  | frheadWrite =>
    rw [exec_frheadWrite]
    exact drainRecords_clean h
  | podBarrierArrival => exact execPodBarrierArrival_clean h
  | trmTokenPass => exact execTrmTokenPass_clean h
  | mbsEvaluate =>
    rw [exec_mbsEvaluate]
    exact evaluate_clean h
  | starveExpiry => exact execStarveExpiry_clean h
  | spanReportReceive => exact execSpanReportReceive_clean h
  | spanPickReceive => exact execSpanPickReceive_clean h
  | spanStartTime => exact execSpanStartTime_clean h
  | spanMemberLost => exact execSpanMemberLost_clean h
  | firnWriteDone => exact execFirnWriteDone_clean h
  | firnFillDone => exact execFirnFillDone_clean h
  | bankSwitchComplete => exact execBankSwitchComplete_clean h
  | neveDisplace => exact execNeveDisplace_clean h
  | poisonDetect => exact execPoisonDetect_clean h
  | memoryEventRecord => exact execMemoryEventRecord_clean h
  | rowActivation => exact execRowActivation_clean h
  | rowRefresh | acreset | parkRequest | parkClear | powerLoss =>
    simp only [exec_rowRefresh, exec_acreset, exec_parkRequest, exec_parkClear, exec_powerLoss]
    exact h
  | promoteCount => exact execPromoteCount_clean h
  | tierHigh | tierLow =>
    simp only [exec_tierHigh, exec_tierLow]
    exact postCrossing_clean h
  | rgcmd => exact execRgcmd_clean h
  | rgcmdDone => exact execRgcmdDone_clean h
  | tmcmd => exact execTmcmd_clean h
  | tierMoveDone => exact execTierMoveDone_clean h
  | calvctlGo => exact execCalvctlGo_clean h
  | calvMapLoaded => exact execCalvMapLoaded_clean h
  | calvLineCopy => exact execCalvLineCopy_clean h
  | calvMoveDone => exact execCalvMoveDone_clean h
  | calvSettleDone => exact execCalvSettleDone_clean h
  | phase => exact execPhase_clean h
  | channelEndOpen => exact execChannelEndOpen_clean h
  | channelEndClose => exact execChannelEndClose_clean h
  | messageDelivered => exact execMessageDelivered_clean h
  | messageConfirm => exact execMessageConfirm_clean h
  | ackReceive => exact execAckReceive_clean h
  | channelBroken => exact execChannelBroken_clean h
  | batchReceive => exact execBatchReceive_clean h
  | batchReply => exact execBatchReply_clean h
  | batchResend => exact execBatchResend_clean h
  | remoteRequest => exact execRemoteRequest_clean h
  | resetNak =>
    rw [exec_resetNak]
    exact loseRequest_clean (recordInc_clean h)
  | remoteTimeout => exact execRemoteTimeout_clean h
  | incarnationAnnounce => exact execIncarnationAnnounce_clean h
  | ringChunkReceive => exact execRingChunkReceive_clean h
  | driftLoadsReceive => exact execDriftLoadsReceive_clean h
  | driftOfferReceive => exact execDriftOfferReceive_clean h
  | driftRecordsReceive => exact execDriftRecordsReceive_clean h
  | powerControlTick => exact execPowerControlTick_clean h
  | trip => exact execTrip_clean h
  | linkRetrain | firmwareError =>
    simp only [exec_linkRetrain, exec_firmwareError]
    exact logError_clean h
  | parkedEnter => exact execParkedEnter_clean h
  | correctedError => exact execCorrectedError_clean h
  | stackWarnWindow => exact execStackWarnWindow_clean h
  | load => exact execLoad_clean h
  | commit => exact execCommit_clean h
  | enrol => exact execEnrol_clean h
  | unenrol => exact execUnenrol_clean h
  | quote => exact execQuote_clean h
  | coldReset => exact execColdReset_clean
  | warmReset => exact execWarmReset_clean
  | illegalOpcode => exact execIllegalOpcode_clean h
  | torusPortDown => exact execTorusPortDown_clean h
  | torusPortUp => exact execTorusPortUp_clean h
  | fwcmdComplete => exact execFwcmdComplete_clean h

theorem runDecoded_clean {r} (h : s.Clean) : Out.Clean (runDecoded r s) := by
  cases r with
  | ok i => exact exec_clean h i
  | error f => exact execIllegalOpcode_clean h

theorem stepContext_clean {k c} (h : s.Clean) : Out.Clean (stepContext s k c) := by
  unfold stepContext
  split
  · have hw := fetchWord_clean (k := k) (c := c) h
    split <;> rename_i e
    · rw [e] at hw; exact runDecoded_clean hw
    · exact raiseCtx_clean h
    · rw [e] at hw; exact hw
  · exact h

theorem stepEngine_clean {k e} (h : s.Clean) : Out.Clean (stepEngine s k e) := by
  unfold stepEngine
  split
  · split
    · split
      · exact runDecoded_clean h
      · exact h
    · exact h
  · exact h

theorem runAct_clean (h : s.Clean) (a : Act) : Out.Clean (runAct s a) := by
  cases a with
  | context k c => simp only [runAct]; split; exacts [stepContext_clean h, h]
  | engine k e => simp only [runAct]; split; exacts [stepEngine_clean h, h]
  | event i => exact exec_clean (s := { s with cur := .none }) h i
  | evaluate n => exact evaluate_clean (s := { s with cur := .none }) h
  | allocate k va bank way evf => simp only [runAct]; split; exacts [allocate_clean h, h]
  | evictD k n => simp only [runAct]; split; exacts [evictLine_clean h, h]
  | evictI | evictTlb => exact onCore_clean h fun _ => rfl
  | evictQuadTlb => exact onQuad_clean h
  | hostRead => exact hostRead_clean h
  | kickRead => exact kickRead_clean h
  | setMsix => exact setMsix_clean h
  | sizeBar4 => exact sizeBar4_clean h

theorem step_clean (h : s.Clean) : Out.Clean (step s) := by
  unfold step
  extract_lets n s1
  split
  · trivial
  · exact runAct_clean (pass_clean (nextTurn_clean h)) _

end Sys2Proof.Machine

/-- Settles O58: `State.Clean` is the statement's condition on every core, and `step_clean` gives it for the state after
a step. -/
theorem reservedBitsStayZero : Obligations.ReservedBitsStayZero := by
  unfold Obligations.ReservedBitsStayZero Sys2Proof.Safety.Kept
  intro s t h e
  have ht := Sys2Proof.Machine.step_clean (s := s) h
  rw [e] at ht
  exact ht

end

section
/-! Reductions, column sums and scans of the vector engine (O26; R252, R271, R272). VRSUM to VRAMAX and VCSUM write packed results:
`packOnes_become` says which elements such a write changes, and `packedWord_of_packWrite` what a word that does only that leaves. A
scan of a vector writes prefix sums: `scanLanes_eq` gives each lane the sum of the lanes up to it, and `scanFlags_iff` says that the
flags of the steps are the flags of these sums. -/

set_option Elab.async false

namespace Sys2Proof.Machine

open Sys2Proof.Safety

/-! ### Packed results (R252) -/

theorem fmt_lanes_pos (f : Fmt) : 0 < f.lanes := by cases f <;> decide

theorem fmtIn_of_mem {n : Nat} {f : Fmt} {l : List Fmt} (h : Fmt.ofCode n = some f) (hf : f ∈ l) : fmtIn n l = some f := by
  simp [fmtIn, h, hf]

/-- Row and column of result `e` of a packed write. -/
theorem packed_pos_iff {row0 row j e L : Nat} (hL : 0 < L) :
    (row = row0 + e / L ∧ e % L = j) ↔ (row0 ≤ row ∧ j < L ∧ (row - row0) * L + j = e) := by
  constructor
  · rintro ⟨rfl, rfl⟩
    refine ⟨Nat.le_add_right .., Nat.mod_lt _ hL, ?_⟩
    rw [Nat.add_sub_cancel_left, Nat.mul_comm, Nat.div_add_mod]
  · rintro ⟨hr, hj, rfl⟩
    rw [Nat.mul_comm, Nat.mul_add_div hL, Nat.mul_add_mod, Nat.div_eq_of_lt hj, Nat.mod_eq_of_lt hj]
    omega

/-- One result of a packed write. -/
def packOne (c : Core) (o : TileOp) (row0 e v : Nat) : Core :=
  if packInside o row0 e then c.writeElems o (row0 + e / o.sh.fmt.lanes) [(e % o.sh.fmt.lanes, v)] else c

theorem packOne_become (c : Core) (o : TileOp) (row0 e v : Nat) (h127 : o.sh.rows ≤ 127) :
    ElementsBecome c (packOne c o row0 e v) o o.sh.fmt.width fun row j =>
      if row0 ≤ row ∧ j < o.sh.fmt.lanes ∧ (row - row0) * o.sh.fmt.lanes + j = e then some v else none := by
  have hL := fmt_lanes_pos o.sh.fmt
  have hw := fmt_width_pos o.sh.fmt
  unfold packOne
  simp only [← packed_pos_iff hL]
  split
  case isTrue =>
    refine elementsBecome_congr (fun row j _ _ _ => ?_) (writeElems_become c o _ [(e % o.sh.fmt.lanes, v)] hw h127 (by simp))
    by_cases hr : row = row0 + e / o.sh.fmt.lanes
    · by_cases hj : e % o.sh.fmt.lanes = j <;> simp [rowWrite, hr, hj]
    · simp [rowWrite, hr]
  case isFalse hin =>
    refine elementsBecome_congr (fun row j ht hr hj => ?_) (elementsBecome_none c o _)
    -- a position inside the extent is not that of a result outside it
    rw [if_neg]
    rintro ⟨rfl, rfl⟩
    refine hin ?_
    have hj' := Nat.lt_of_mul_lt_mul_right hj
    simp only [packInside, Bool.or_eq_true, Bool.and_eq_true, decide_eq_true_eq]
    exact .inr ⟨hr, Nat.lt_succ_iff.mp hj'⟩

/-- A packed write in its two parts. -/
theorem packWrite_eq (c : Core) (o : TileOp) (row0 : Nat) (es : List Nat) (res : Nat → Nat × Fl) :
    packWrite c o row0 (es.map fun e => (e, res e)) =
      (es.foldl (fun x e => packOne x o row0 e (res e).1) c, es.foldl (fun fl e => fl ||| (res e).2) 0) := by
  unfold packWrite
  rw [List.foldl_map]
  generalize (0 : Fl) = fl
  induction es generalizing c fl with
  | nil => rfl
  | cons e t ih => exact ih ..

/-- The elements that a packed write changes: those of its results (R252). -/
theorem packOnes_become (c : Core) (o : TileOp) (row0 : Nat) (es : List Nat) (val : Nat → Nat) (h127 : o.sh.rows ≤ 127) :
    ElementsBecome c (es.foldl (fun x e => packOne x o row0 e (val e)) c) o o.sh.fmt.width fun row j =>
      let e := (row - row0) * o.sh.fmt.lanes + j
      if row0 ≤ row ∧ j < o.sh.fmt.lanes ∧ e ∈ es then some (val e) else none := by
  induction es generalizing c with
  | nil => exact elementsBecome_congr (fun _ _ _ _ _ => by simp) (elementsBecome_none c o _)
  | cons e t ih =>
    refine elementsBecome_congr (fun row j _ _ _ => ?_) (elementsBecome_trans (packOne_become c o row0 e (val e) h127) (ih _))
    by_cases hp : row0 ≤ row ∧ j < o.sh.fmt.lanes
    · by_cases he : (row - row0) * o.sh.fmt.lanes + j = e
      · by_cases ht : e ∈ t <;> simp [hp, he, ht]
      · simp [hp, he]
    · rw [if_neg (fun h => hp ⟨h.1, h.2.1⟩), if_neg (fun h => hp ⟨h.1, h.2.1⟩)]
      exact (if_neg (fun h => hp ⟨h.1, h.2.1⟩)).symm

/-- A vector word whose effect is a packed write of the results that `has` picks. -/
theorem packedWord_of_packWrite {ins : Instr} {s : State} {k : Fin 128} {w : VgWord} {d : Core} {o : TileOp} {row0 count : Nat}
    {has : Nat → Bool} {res : Nat → Nat × Fl} {body : Issue → ModVG → Ops4 → Option (Core × Fl)} (h : Issues s k .v w.tok d)
    (h127 : o.sh.rows ≤ 127) (hx : exec ins s = vectorWord w s body)
    (hb : body (engIssue s k .v d) w.mod w.ops =
      some (packWrite d o row0 (((List.range count).filter has).map fun e => (e, res e)))) :
    PackedWord ins s k w.tok d o row0 count has res := by
  rw [packWrite_eq] at hb
  refine ⟨_, _, hx.trans (vectorWord_done h hb), elementsBecome_congr (fun row j _ _ _ => ?_) (packOnes_become d o row0 _ _ h127),
    fun b => ?_⟩
  · simp only [List.mem_filter, List.mem_range]
  · rw [foldl_or_bit]
    simp [and_assoc]

/-! ### Reductions (R52, R271) -/

/-- The formats of a reduction are both floating-point or both integer (R271). -/
theorem redFmtOk_of {f g : Fmt} (h : (f ∈ [Fmt.fp32, .bf16, .fp16, .k8, .k8w] ∧ g ∈ [Fmt.fp32, .bf16, .fp16]) ∨
    (f ∈ [Fmt.int32, .int16, .int8, .uint8] ∧ g ∈ [Fmt.int32, .int16, .int8, .uint8])) :
    redFmtOk f g = true ∧ f ∈ f5 ++ i4 ∧ g ∈ f3 ++ i4 := by
  simp only [redFmtOk, Bool.or_eq_true, Bool.and_eq_true, List.contains_iff_mem, List.mem_append]
  exact ⟨h, h.imp (·.1) (·.1), h.imp (·.2) (·.2)⟩

section
variable {s : State} {k : Fin 128} {w : VgWord} {d : Core} {f g : Fmt} {rm : Rm} {o a : TileOp}

theorem reduceWord_packed {ins : Instr} {kind : Red} (h : Issues s k .v w.tok d) (hx : exec ins s = reduceWord w s kind)
    (hf : fmtIn w.mod.fmt.val (f5 ++ i4) = some f) (hg : fmtIn w.mod.dfmt.val (f3 ++ i4) = some g) (hok : redFmtOk f g = true)
    (hrm : (engIssue s k .v d).rm w.mod.rm (f.isFloat || g.isFloat) = some rm) (ho : (engIssue s k .v d).rowOp 0 w.ops.d g = some o)
    (ha : (engIssue s k .v d).vsrc 1 w.ops.s1 f = some a) (hu : vuse redUse w.mod [o, a] = true)
    (hfit : (mkV (engIssue s k .v d) w.mod f.width false false).fits a = true)
    (hp : packFits o (w.mod.row.val + (engIssue s k .v d).rowoff) (w.mod.nv.val + 1) = true) :
    PackedWord ins s k w.tok d o (w.mod.row.val + (engIssue s k .v d).rowoff) (w.mod.nv.val + 1) (fun _ => true) fun n =>
      let y := mkV (engIssue s k .v d) w.mod f.width false false
      reduceLanes (engIssue s k .v d).env kind f g rm w.mod.sat
        ((List.range y.lanes).map fun q => if laneOn d w.mod q && y.inside a n q then some (nth 0 (y.read d a n) q) else none) := by
  refine packedWord_of_packWrite h (tileOp_rows ho) hx ?_
  have hp' : packFits o (mkV (engIssue s k .v d) w.mod f.width false false).row0
    ((mkV (engIssue s k .v d) w.mod f.width false false).nv + 1) = true := hp
  simp only [hf, hg, hrm, ho, ha, hok, hu, hfit, hp', Bool.and_self, if_true, List.filter_true]
  rfl

theorem execVcsum_packed {ins : Instr} (h : Issues s k .v w.tok d) (hx : exec ins s = execVcsum w s)
    (hf : fmtIn w.mod.fmt.val (f5 ++ i4) = some f) (hg : fmtIn w.mod.dfmt.val (f3 ++ i4) = some g) (hok : redFmtOk f g = true)
    (hrm : (engIssue s k .v d).rm w.mod.rm (f.isFloat || g.isFloat) = some rm) (ho : (engIssue s k .v d).rowOp 0 w.ops.d g = some o)
    (ha : (engIssue s k .v d).vsrc 1 w.ops.s1 f = some a) (hu : vuse redUse w.mod [o, a] = true)
    (hfit : (mkV (engIssue s k .v d) w.mod f.width false false).fits a = true)
    (hp : packFits o (w.mod.row.val + (engIssue s k .v d).rowoff) (1024 / f.width) = true) :
    PackedWord ins s k w.tok d o (w.mod.row.val + (engIssue s k .v d).rowoff) (1024 / f.width)
      (fun q => laneOn d w.mod q && packInside o (w.mod.row.val + (engIssue s k .v d).rowoff) q) fun q =>
        let y := mkV (engIssue s k .v d) w.mod f.width false false
        let t := (List.range (w.mod.nv.val + 1)).foldl (fun x n => runAdd (engIssue s k .v d).env f x (nth 0 (y.read d a n) q)) (0, 0)
        let r := runOut (engIssue s k .v d).env f g rm w.mod.sat t.1
        (r.1, t.2 ||| r.2) := by
  refine packedWord_of_packWrite h (tileOp_rows ho) hx ?_
  have hp' : packFits o (mkV (engIssue s k .v d) w.mod f.width false false).row0
    (mkV (engIssue s k .v d) w.mod f.width false false).lanes = true := hp
  simp only [hf, hg, hrm, ho, ha, hok, hu, hfit, hp', Bool.and_self, if_true, List.foldl_map]
  rfl

end

/-! ### Scans (R53, R272) -/

theorem runAdd_fst (env : NumEnv) (f : Fmt) (x : W32 × Fl) (b : Nat) : (runAdd env f x b).1 = (runAdd env f (x.1, 0) b).1 := rfl

theorem runAdd_snd (env : NumEnv) (f : Fmt) (x : W32 × Fl) (b : Nat) : (runAdd env f x b).2 = x.2 ||| (runAdd env f (x.1, 0) b).2 := by
  simp [runAdd]

section
variable (env : NumEnv) (f : Fmt) (rm : Rm) (sat : Bool) (on : Nat → Bool) (b : Nat → Nat)

/-- The running sum of the lanes below `n` that take part, with the flags of its steps. -/
def scanSum (n : Nat) : W32 × Fl := ((List.range n).filter on).foldl (fun x j => runAdd env f x (b j)) (0, 0)

/-- The flags of the step in which lane `q` adds to the running sum. -/
def scanStepFlags (q : Nat) : Fl := (runAdd env f ((scanSum env f on b q).1, 0) (b q)).2

theorem scanSum_succ (n : Nat) :
    scanSum env f on b (n + 1) = if on n then runAdd env f (scanSum env f on b n) (b n) else scanSum env f on b n := by
  unfold scanSum
  rw [List.range_succ, List.filter_append, List.foldl_append]
  cases h : on n <;> simp [h]

theorem scanSum_flags (n i : Nat) :
    (scanSum env f on b n).2.getLsbD i = true ↔ ∃ j, j < n ∧ on j = true ∧ (scanStepFlags env f on b j).getLsbD i = true := by
  induction n with
  | zero => simp [scanSum]
  | succ n ih =>
    rw [scanSum_succ]
    cases hn : on n with
    | false =>
      rw [if_neg (by simp), ih]
      refine exists_congr fun j => ⟨fun ⟨h, h'⟩ => ⟨by omega, h'⟩, fun ⟨h, h', hb⟩ => ⟨?_, h', hb⟩⟩
      have : j ≠ n := by rintro rfl; simp [hn] at h'
      omega
    | true =>
      rw [if_pos rfl, runAdd_snd, BitVec.getLsbD_or, Bool.or_eq_true, ih]
      constructor
      · rintro (⟨j, hj, hb⟩ | hb)
        · exact ⟨j, by omega, hb⟩
        · exact ⟨n, by omega, hn, hb⟩
      · rintro ⟨j, hj, hon, hb⟩
        rcases Nat.lt_succ_iff_lt_or_eq.mp hj with hj | rfl
        · exact .inl ⟨j, hj, hon, hb⟩
        · exact .inr hb

/-- A scan of a list that ends in one more lane. -/
theorem scanLanes_snoc (l : List (Nat × Nat)) (x : W32) (q v : Nat) :
    scanLanes env f rm sat x (l ++ [(q, v)]) = scanLanes env f rm sat x l ++
      (let r := runAdd env f ((l.foldl (fun y p => runAdd env f y p.2) (x, 0)).1, 0) v
       let u := runOut env f f rm sat r.1
       [(q, u.1, r.2 ||| u.2)]) := by
  have fst : ∀ (l : List (Nat × Nat)) (y : W32 × Fl),
      (l.foldl (fun y p => runAdd env f y p.2) y).1 = (l.foldl (fun y p => runAdd env f y p.2) (y.1, 0)).1 := by
    intro l
    induction l with
    | nil => exact fun _ => rfl
    | cons p t ih => exact fun y => by rw [List.foldl_cons, List.foldl_cons, ih, ih (runAdd env f (y.1, 0) p.2), runAdd_fst]
  induction l generalizing x with
  | nil => rfl
  | cons p t ih => rw [List.cons_append, scanLanes, scanLanes, ih, List.foldl_cons, fst t (runAdd ..)]; rfl

/-- A scan gives each of its lanes the sum of the lanes up to it. -/
theorem scanLanes_eq (n : Nat) :
    scanLanes env f rm sat 0 (((List.range n).filter on).map fun q => (q, b q)) = ((List.range n).filter on).map fun q =>
      let u := runOut env f f rm sat (scanSum env f on b (q + 1)).1
      (q, u.1, scanStepFlags env f on b q ||| u.2) := by
  induction n with
  | zero => rfl
  | succ n ih =>
    rw [List.range_succ, List.filter_append, List.map_append, List.map_append, ← ih]
    cases hn : on n with
    | false => simp [hn]
    | true =>
      have hs : (scanSum env f on b (n + 1)).1 = (runAdd env f ((scanSum env f on b n).1, 0) (b n)).1 := by
        rw [scanSum_succ, if_pos hn, runAdd_fst]
      simp only [List.filter_cons, hn, if_true, List.filter_nil, List.map_cons, List.map_nil, scanLanes_snoc, List.foldl_map, hs]
      rfl

/-- The flags of the lanes of a scan: each step's flags stand in the first lane that has them and in all later ones. -/
theorem scanFlags_iff (n i : Nat) :
    (∃ q, (q < n ∧ on q = true) ∧
        (scanStepFlags env f on b q ||| (runOut env f f rm sat (scanSum env f on b (q + 1)).1).2).getLsbD i = true) ↔
      ∃ q, (q < n ∧ on q = true) ∧
        ((scanSum env f on b (q + 1)).2 ||| (runOut env f f rm sat (scanSum env f on b (q + 1)).1).2).getLsbD i = true := by
  simp only [BitVec.getLsbD_or, Bool.or_eq_true, scanSum_flags]
  constructor
  · rintro ⟨q, hq, h | h⟩
    · exact ⟨q, hq, .inl ⟨q, by omega, hq.2, h⟩⟩
    · exact ⟨q, hq, .inr h⟩
  · rintro ⟨q, hq, ⟨j, hj, hon, h⟩ | h⟩
    · exact ⟨j, ⟨by omega, hon⟩, .inl h⟩
    · exact ⟨q, hq, .inr h⟩

end

/-- One vector of a scan (R272). -/
def scanVector (i : Issue) (m : ModVG) (v : VCtx) (o a : TileOp) (f : Fmt) (rm : Rm) (x : Core × Fl) (n : Nat) : Core × Fl :=
  let xs := v.read x.1 a n
  let rs := scanLanes i.env f rm m.sat 0
    (((List.range v.lanes).filter fun q => laneOn i.c m q && v.inside a n q && v.inside o n q).map fun q => (q, nth 0 xs q))
  (v.write x.1 o n (rs.map fun r => (r.1, r.2.1)), rs.foldl (fun h r => h ||| r.2.2) x.2)

theorem scanVector_writes (i : Issue) (m : ModVG) (v : VCtx) (o a : TileOp) (f : Fmt) (rm : Rm) (x : Core × Fl) (n : Nat)
    (h127 : o.sh.rows ≤ 127) :
    let on (q : Nat) : Bool := laneOn i.c m q && v.inside a n q && v.inside o n q
    WritesLanes v o n (fun q => q < v.lanes ∧ on q = true) (fun q =>
      let t := scanSum i.env f on (fun j => nth 0 (v.read x.1 a n) j) (q + 1)
      let u := runOut i.env f f rm m.sat t.1
      (u.1, t.2 ||| u.2)) x (scanVector i m v o a f rm x n) := by
  intro on
  have hon : ∀ q, q ∈ (List.range v.lanes).filter on ↔ q < v.lanes ∧ on q = true := by simp
  have hrs := scanLanes_eq i.env f rm m.sat on (fun j => nth 0 (v.read x.1 a n) j) v.lanes
  unfold scanVector
  dsimp only at hrs ⊢
  rw [show (fun q => laneOn i.c m q && v.inside a n q && v.inside o n q) = on from rfl, hrs, List.map_map]
  obtain ⟨written, h1, h2, h3⟩ := vctx_write_become v x.1 o n
    (((List.range v.lanes).filter on).map fun q => (q, (runOut i.env f f rm m.sat
      (scanSum i.env f on (fun j => nth 0 (v.read x.1 a n) j) (q + 1)).1).1)) h127
    (by simpa [Function.comp_def] using List.filter_sublist.nodup List.nodup_range)
  refine ⟨⟨written, h1, fun q hq => h2 _ (List.mem_map_of_mem ((hon q).mpr hq)), fun row j u hu => ?_⟩, fun b => ?_⟩
  · obtain ⟨p, hp, he⟩ := h3 row j u hu
    obtain ⟨q, hq, rfl⟩ := List.mem_map.mp hp
    exact ⟨q, (hon q).mp hq, he⟩
  · rw [List.foldl_map, foldl_or_bit]
    simp only [hon]
    exact or_congr_right (scanFlags_iff ..)

/-- A scan issues with its vectors done in turn. -/
theorem execVscan_issues {ins : Instr} {s : State} {k : Fin 128} {w : VgWord} {d : Core} {f : Fmt} {rm : Rm} {o a : TileOp}
    (h : Issues s k .v w.tok d) (hx : exec ins s = execVscan w s) (hf : fmtIn w.mod.fmt.val (f5 ++ i4) = some f)
    (hd : w.mod.dfmt = w.mod.fmt) (hok : redFmtOk f f = true) (hrm : (engIssue s k .v d).rm w.mod.rm f.isFloat = some rm)
    (ho : (engIssue s k .v d).vdst w.ops.d f = some o) (ha : (engIssue s k .v d).vsrc 1 w.ops.s1 f = some a)
    (hu : vuse redUse w.mod [o, a] = true) (hfo : (mkV (engIssue s k .v d) w.mod f.width false false).fits o = true)
    (hfa : (mkV (engIssue s k .v d) w.mod f.width false false).fits a = true) :
    let r := (List.range (w.mod.nv.val + 1)).foldl
      (scanVector (engIssue s k .v d) w.mod (mkV (engIssue s k .v d) w.mod f.width false false) o a f rm) (d, 0)
    IssuesWith ins s k .v w.tok d r.1 r.2 := by
  refine hx.trans (vectorWord_done h ?_)
  have hd' : (w.mod.dfmt == w.mod.fmt) = true := by simpa using hd
  simp only [hf, hrm, ho, ha, hd', hok, hu, hfo, hfa, Bool.and_self, if_true]
  rfl

end Sys2Proof.Machine

open Sys2Proof Sys2Proof.Machine in
/-- Settles O26: a reduction and VCSUM are packed writes of their results, and each vector of VSCAN writes the prefix sums of its
lanes. -/
theorem vectorReductions : Obligations.VectorReductions := by
  unfold Obligations.VectorReductions
  intro s k w d f g rm o a h i m takes row0 y use red fmts
  refine ⟨fun hf hg hfmt hrm ho ha hu hfit => ?_, fun hf hd hmem hrm ho ha hu hfo hfa => ?_⟩
  · obtain ⟨hok, hmf, hmg⟩ := redFmtOk_of hfmt
    have hf := fmtIn_of_mem hf hmf
    have hg := fmtIn_of_mem hg hmg
    have reduce (kind : Red) {ins : Instr} (hx : exec ins s = reduceWord w s kind) :=
      reduceWord_packed h hx hf hg hok hrm ho ha hu hfit
    exact ⟨fun hp => ⟨reduce .sum rfl hp, reduce .max rfl hp, reduce .min rfl hp, reduce .amax rfl hp⟩,
      fun hp => execVcsum_packed h rfl hf hg hok hrm ho ha hu hfit hp⟩
  · have hmf : redFmtOk f f = true ∧ f ∈ f5 ++ i4 := by
      simp only [List.mem_cons, List.not_mem_nil, or_false] at hmem
      rcases hmem with rfl | rfl | rfl | rfl | rfl | rfl | rfl <;> decide
    have hf := fmtIn_of_mem hf hmf.2
    exact ⟨_, _, execVscan_issues h rfl hf hd hmf.1 hrm ho ha hu hfo hfa,
      chain_foldl _ (fun n x => scanVector_writes i m y o a f rm x n (tileOp_rows ho)) (m.nv.val + 1) (d, 0)⟩

end

section
/-! What a rounding mode selects (O60; R29, R33, R40). `Picks` says which of two neighbouring magnitudes a mode takes, and
`picks_of_roundsUp` that `roundsUp` takes it; `Picks.roundedTo` turns this into the selection from a set of values that has none
between the two. The modes of a negative value are those of its magnitude
with the two directed ones exchanged (`Rm.flip`). -/

set_option Elab.async false

namespace Sys2Proof.Machine

/-! ### Choosing between two neighbours (R29) -/

/-- (-1)^neg. -/
def signQ (neg : Bool) : ℚ := if neg = true then -1 else 1

/-- What a mode makes of a magnitude n * u + d with 0 ≤ d < u: n' units (R29). -/
def Picks (rm : Rm) (neg : Bool) (n n' : Nat) (d u : ℚ) : Prop :=
  match rm with
  | .rne => n' = n ∧ (2 * d < u ∨ 2 * d = u ∧ n % 2 = 0) ∨ n' = n + 1 ∧ (u < 2 * d ∨ 2 * d = u ∧ n % 2 = 1)
  | .rtz => n' = n
  | .rup => n' = n ∧ (d = 0 ∨ neg = true) ∨ n' = n + 1 ∧ d ≠ 0 ∧ neg = false
  | .rdn => n' = n ∧ (d = 0 ∨ neg = false) ∨ n' = n + 1 ∧ d ≠ 0 ∧ neg = true
  | .rna => n' = n ∧ 2 * d < u ∨ n' = n + 1 ∧ u ≤ 2 * d

theorem picks_of_roundsUp (rm : Rm) (neg : Bool) (n r : Nat) {de : Nat} (hde : 0 < de) {u : ℚ} (hu : 0 < u) :
    Picks rm neg n (if roundsUp rm neg n r de then n + 1 else n) (r / de * u) u := by
  have hq : (0 : ℚ) < de := by exact_mod_cast hde
  have hz : (r : ℚ) / de * u = 0 ↔ r = 0 := by simp [hu.ne', hq.ne']
  have hd : ∀ x y : Nat, ((x : ℚ) < y ↔ x < y) := fun x y => Nat.cast_lt
  -- twice the remainder against the unit, in units and in integers
  have hlt : 2 * ((r : ℚ) / de * u) < u ↔ 2 * r < de := by
    rw [← hd, show 2 * ((r : ℚ) / de * u) = (2 * r : Nat) / de * u by push_cast; ring, mul_lt_iff_lt_one_left hu, div_lt_one hq]
  have heq : 2 * ((r : ℚ) / de * u) = u ↔ 2 * r = de := by
    rw [show 2 * ((r : ℚ) / de * u) = (2 * r : Nat) / de * u by push_cast; ring, mul_eq_right₀ hu.ne', div_eq_one_iff_eq hq.ne',
      Nat.cast_inj]
  have hgt : u < 2 * ((r : ℚ) / de * u) ↔ de < 2 * r := by
    rw [← not_le, le_iff_lt_or_eq, hlt, heq]; omega
  cases rm with
  | rne =>
    simp only [Picks, hlt, heq, hgt, roundsUp, Bool.or_eq_true, Bool.and_eq_true, decide_eq_true_eq, beq_iff_eq]
    split <;> omega
  | rtz => simp [Picks, roundsUp]
  | rup =>
    simp only [Picks, ne_eq, hz]
    cases neg <;> by_cases h : r = 0 <;> simp [roundsUp, h]
  | rdn =>
    simp only [Picks, ne_eq, hz]
    cases neg <;> by_cases h : r = 0 <;> simp [roundsUp, h]
  | rna =>
    simp only [Picks, ← not_lt, hlt, roundsUp, decide_eq_true_eq]
    split <;> omega

/-- `y` is the value of a set that the mode selects from `v` (R33); `even` stands for the tie-break of RNE. -/
def RoundedTo (rm : Rm) (v y : ℚ) (even : Prop) (R : ℚ → Prop) : Prop :=
  match rm with
  | .rne => ∀ z, R z → |y - v| ≤ |z - v| ∧ (|y - v| = |z - v| → z ≠ y → even)
  | .rtz => |y| ≤ |v| ∧ 0 ≤ y * v ∧ ∀ z, R z → |z| ≤ |v| → |z| ≤ |y|
  | .rup => v ≤ y ∧ ∀ z, R z → v ≤ z → y ≤ z
  | .rdn => y ≤ v ∧ ∀ z, R z → z ≤ v → z ≤ y
  | .rna => ∀ z, R z → |y - v| ≤ |z - v| ∧ (|y - v| = |z - v| → z ≠ y → |z| < |y|)

/-- The mode that does to -v what another does to v. -/
def Rm.flip : Rm → Rm
  | .rup => .rdn
  | .rdn => .rup
  | rm => rm

theorem picks_flip {rm : Rm} {n n' : Nat} {d u : ℚ} : Picks rm true n n' d u ↔ Picks rm.flip false n n' d u := by
  cases rm <;> simp [Picks, Rm.flip]

theorem RoundedTo.neg {rm : Rm} {v y : ℚ} {even : Prop} {R : ℚ → Prop} (h : RoundedTo rm.flip v y even fun z => R (-z)) :
    RoundedTo rm (-v) (-y) even R := by
  have hs : ∀ a b : ℚ, |-a - -b| = |a - b| := fun a b => by rw [neg_sub_neg, abs_sub_comm]
  have hz : ∀ a b : ℚ, |a - -b| = |-a - b| := fun a b => by rw [← abs_neg]; congr 1; ring
  have hR : ∀ z, R z → R (- -z) := fun z hz => by rwa [neg_neg]
  cases rm with
  | rne =>
    intro z r
    rw [hs, hz]
    exact (h (-z) (hR z r)).imp_right fun he e hn => he e fun hy => hn (by rw [← hy, neg_neg])
  | rtz =>
    refine ⟨by simpa using h.1, by simpa using h.2.1, fun z r hv => ?_⟩
    rw [abs_neg] at hv ⊢
    simpa using h.2.2 (-z) (hR z r) (by rwa [abs_neg])
  | rup => exact ⟨neg_le_neg h.1, fun z r hv => neg_le.mp (h.2 (-z) (hR z r) (neg_le.mp hv))⟩
  | rdn => exact ⟨neg_le_neg h.1, fun z r hv => le_neg.mp (h.2 (-z) (hR z r) (le_neg.mp hv))⟩
  | rna =>
    intro z r
    rw [hs, hz, abs_neg y, ← abs_neg z]
    exact (h (-z) (hR z r)).imp_right fun he e hn => he e fun hy => hn (by rw [← hy, neg_neg])

/-- The distances from `L + d` to a set with nothing strictly between `L` and `L + u`. -/
theorem gap_dist {L d u z : ℚ} (hd : 0 ≤ d) (hu : d < u) (h : z ≤ L ∨ L + u ≤ z) :
    |L - (L + d)| = d ∧ |L + u - (L + d)| = u - d ∧
      (z ≤ L ∧ |z - (L + d)| = L + d - z ∨ L + u ≤ z ∧ |z - (L + d)| = z - (L + d)) := by
  refine ⟨by rw [abs_sub_comm, add_sub_cancel_left, abs_of_nonneg hd], ?_, h.imp (fun hz => ⟨hz, ?_⟩) fun hz => ⟨hz, ?_⟩⟩
  · rw [add_sub_add_left_eq_sub, abs_of_nonneg (by linarith)]
  · rw [abs_sub_comm, abs_of_nonneg (by linarith)]
  · rw [abs_of_nonneg (by linarith)]

/-- The choice for a magnitude, in a set with nothing strictly between its two neighbours. -/
theorem Picks.roundedTo_pos {rm : Rm} {n n' : Nat} {d u : ℚ} {R : ℚ → Prop} (h : Picks rm false n n' d u) (hd : 0 ≤ d) (hu : d < u)
    (gap : ∀ z, R z → |z| ≤ n * u ∨ (n + 1) * u ≤ |z|) : RoundedTo rm (n * u + d) (n' * u) (n' % 2 = 0) R := by
  have hL : 0 ≤ (n : ℚ) * u := mul_nonneg (Nat.cast_nonneg _) (hd.trans hu.le)
  have hs : ((n + 1 : Nat) : ℚ) * u = n * u + u := by push_cast; ring
  simp only [add_mul, one_mul] at gap
  have near : ∀ z, R z → z ≤ n * u ∨ n * u + u ≤ z := fun z hz => by
    rcases gap z hz with h | h
    · exact .inl (le_of_abs_le h)
    · rcases abs_cases z with ⟨e, -⟩ | ⟨-, e⟩
      · exact .inr (e ▸ h)
      · exact .inl (e.le.trans hL)
  cases rm with
  | rne =>
    intro z r
    obtain ⟨h1, h2, h3⟩ := gap_dist hd hu (near z r)
    rcases h with ⟨rfl, h⟩ | ⟨rfl, h⟩
    · rw [h1]
      rcases h3 with ⟨hz, e⟩ | ⟨hz, e⟩ <;> rw [e]
      · exact ⟨by linarith, fun he hn => absurd (by linarith) hn⟩
      · rcases h with h | ⟨h, he⟩
        · exact ⟨by linarith, fun he => by linarith⟩
        · exact ⟨by linarith, fun _ _ => he⟩
    · rw [hs, h2]
      rcases h3 with ⟨hz, e⟩ | ⟨hz, e⟩ <;> rw [e]
      · rcases h with h | ⟨h, he⟩
        · exact ⟨by linarith, fun he => by linarith⟩
        · exact ⟨by linarith, fun _ _ => by omega⟩
      · exact ⟨by linarith, fun he hn => absurd (by linarith) hn⟩
  | rna =>
    intro z r
    obtain ⟨h1, h2, h3⟩ := gap_dist hd hu (near z r)
    rcases h with ⟨rfl, h⟩ | ⟨rfl, h⟩
    · rw [h1]
      rcases h3 with ⟨hz, e⟩ | ⟨hz, e⟩ <;> rw [e]
      · exact ⟨by linarith, fun he hn => absurd (by linarith) hn⟩
      · exact ⟨by linarith, fun he => by linarith⟩
    · rw [hs, h2]
      rcases h3 with ⟨hz, e⟩ | ⟨hz, e⟩ <;> rw [e]
      · refine ⟨by linarith, fun he hn => ?_⟩
        -- a tie: the other neighbour is the lower one
        rw [abs_of_nonneg (by linarith : 0 ≤ (n : ℚ) * u + u), abs_lt]
        constructor <;> linarith
      · exact ⟨by linarith, fun he hn => absurd (by linarith) hn⟩
  | rtz =>
    cases h
    have hv : |(n : ℚ) * u + d| = n * u + d := abs_of_nonneg (by linarith)
    rw [RoundedTo, hv, abs_of_nonneg hL]
    refine ⟨by linarith, mul_nonneg hL (by linarith), fun z r hz => ?_⟩
    rcases gap z r with h | h
    · exact h
    · linarith
  | rup =>
    rcases h with ⟨rfl, rfl | h⟩ | ⟨rfl, h, -⟩
    · exact ⟨by simp, fun z _ hz => by simpa using hz⟩
    · cases h
    · rw [RoundedTo, hs]
      refine ⟨by linarith, fun z r hz => (near z r).resolve_left fun h' => h ?_⟩
      linarith
  | rdn =>
    rcases h with ⟨rfl, -⟩ | ⟨-, -, h⟩
    · refine ⟨by linarith, fun z r hz => (near z r).resolve_right fun h' => ?_⟩
      linarith
    · cases h

/-- The choice for a value of either sign, in a symmetric set with nothing strictly between the neighbours of the magnitude. -/
theorem Picks.roundedTo {rm : Rm} {neg : Bool} {n n' : Nat} {d u : ℚ} {R : ℚ → Prop} (h : Picks rm neg n n' d u)
    (hd : 0 ≤ d) (hu : d < u) (gap : ∀ z, R z → |z| ≤ n * u ∨ (n + 1) * u ≤ |z|) :
    RoundedTo rm (signQ neg * (n * u + d)) (signQ neg * (n' * u)) (n' % 2 = 0) R := by
  cases neg with
  | false =>
    simp only [signQ, Bool.false_eq_true, if_false, one_mul]
    exact h.roundedTo_pos hd hu gap
  | true =>
    simp only [signQ, if_true, neg_mul, one_mul]
    exact .neg ((picks_flip.mp h).roundedTo_pos hd hu fun z hz => by simpa using gap (-z) hz)

end Sys2Proof.Machine

end

section
/-! Encodings and the grid of a floating-point format (O60; R22, R23, R33). `OnGrid` is a magnitude as ROUND takes it apart: whole units
and a rest. `roundRat_eq` gives ROUND in these terms, `OnGrid.gap` says that no value of the format lies between two neighbours, and
`packBits_isVal` that packed bits have the value of their units. -/

set_option Elab.async false

namespace Sys2Proof.Machine

/-! ### Magnitudes -/

theorem zpow_toNat (q : Int) : (2 : ℚ) ^ q = 2 ^ q.toNat / 2 ^ (-q).toNat := by
  rw [← zpow_natCast, ← zpow_natCast, ← zpow_sub₀ two_ne_zero]
  congr 1
  omega

/-- The magnitude m * 2^e / d. -/
theorem ratOf_div (m : Nat) (e : Int) (d : Nat) : ((ratOf m e d).1 : ℚ) / (ratOf m e d).2 = m * 2 ^ e / d := by
  rw [ratOf, zpow_toNat]
  push_cast
  rw [mul_div_assoc', div_div, mul_comm (d : ℚ)]

theorem ratOf_den_pos {m : Nat} {e : Int} {d : Nat} (hd : 0 < d) : 0 < (ratOf m e d).2 := Nat.mul_pos hd (Nat.two_pow_pos _)

theorem floorLog2_spec {num den : Nat} (hn : num ≠ 0) (hd : 0 < den) :
    (2 : ℚ) ^ floorLog2 num den ≤ num / den ∧ (num : ℚ) / den < 2 ^ (floorLog2 num den + 1) := by
  have hd' : (0 : ℚ) < den := by exact_mod_cast hd
  have nlo : (2 : ℚ) ^ (Nat.log2 num : Int) ≤ num := by exact_mod_cast Nat.log2_self_le hn
  have nhi : (num : ℚ) < 2 ^ ((Nat.log2 num : Int) + 1) := by exact_mod_cast Nat.lt_log2_self
  have dlo : (2 : ℚ) ^ (Nat.log2 den : Int) ≤ den := by exact_mod_cast Nat.log2_self_le hd.ne'
  have dhi : (den : ℚ) < 2 ^ ((Nat.log2 den : Int) + 1) := by exact_mod_cast Nat.lt_log2_self
  have test : ∀ k : Int, den * 2 ^ k.toNat ≤ num * 2 ^ (-k).toNat ↔ (2 : ℚ) ^ k ≤ num / den := fun k => by
    rw [zpow_toNat, div_le_div_iff₀ (by positivity) hd', mul_comm _ (den : ℚ)]
    exact_mod_cast Iff.rfl
  have cancel : ∀ a b : Int, (2 : ℚ) ^ (a - b) * 2 ^ b = 2 ^ a := fun a b => by rw [← zpow_add₀ two_ne_zero, Int.sub_add_cancel]
  unfold floorLog2
  extract_lets k
  split
  · rename_i h
    refine ⟨(test k).mp h, (div_lt_iff₀ hd').mpr (nhi.trans_le ?_)⟩
    rw [← cancel _ (Nat.log2 den : Int), show ((Nat.log2 num : Int) + 1) - Nat.log2 den = k + 1 by omega]
    gcongr
  · rename_i h
    rw [test, not_le] at h
    refine ⟨(le_div_iff₀ hd').mpr (le_trans ?_ nlo), by rwa [Int.sub_add_cancel]⟩
    rw [← cancel (Nat.log2 num) ((Nat.log2 den : Int) + 1), show (Nat.log2 num : Int) - (Nat.log2 den + 1) = k - 1 by omega]
    gcongr

/-- A magnitude in units of 2^q: the whole units, and the rest. -/
theorem units_and_rest (num : Nat) {den : Nat} (hd : 0 < den) (q : Int) :
    let nu := num * 2 ^ (-q).toNat
    let de := den * 2 ^ q.toNat
    (num : ℚ) / den = (nu / de : Nat) * 2 ^ q + ((nu % de : Nat) / de * 2 ^ q : ℚ) := by
  intro nu de
  have hde : (de : ℚ) ≠ 0 := by exact_mod_cast (Nat.mul_pos hd (Nat.two_pow_pos _)).ne'
  have hnu : (nu : ℚ) / de * 2 ^ q = num / den := by
    rw [zpow_toNat]
    simp only [nu, de, Nat.cast_mul, Nat.cast_pow, Nat.cast_ofNat]
    field_simp
  rw [← hnu, ← add_mul]
  congr 1
  rw [div_eq_iff hde, add_mul, div_mul_cancel₀ _ hde]
  exact_mod_cast (Nat.div_add_mod' nu de).symm

/-! ### The grid of a format (R22, R33) -/

/-- A magnitude on the grid of a format: n units of 2^q and a rest below a unit; n has F + 1 bits, fewer only at the smallest unit. -/
structure OnGrid (s : FSpec) (a : ℚ) (q : Int) (n : Nat) (d : ℚ) : Prop where
  unit_ge : s.minExp - s.fbits ≤ q
  units_lt : n < 2 ^ (s.fbits + 1)
  unit_of_lt : n < 2 ^ s.fbits → q = s.minExp - s.fbits
  rest_nonneg : 0 ≤ d
  rest_lt : d < 2 ^ q
  eq : a = n * 2 ^ q + d

/-- Rounding of n units to n' goes beyond the largest value (R37, log entry 80). -/
@[reducible] def Beyond (s : FSpec) (q : Int) (n' : Nat) : Prop :=
  s.maxExp - s.fbits < q ∨ (q = s.maxExp - s.fbits ∧ 2 ^ (s.fbits + 1) ≤ n')

/-- The flags of a result that does not overflow (R31). -/
def restFlags (s : FSpec) (n : Nat) (d : ℚ) : Fl := if d = 0 then 0 else flNX ||| flIf (n < 2 ^ s.fbits) flUF

theorem spec_minExp_lt_maxExp (f : Fmt) : f.spec.minExp < f.spec.maxExp := by cases f <;> decide

theorem onGrid_max {s : FSpec} {num den : Nat} (hn : num ≠ 0) (hd : 0 < den) {q : Int}
    (hq : q = max (floorLog2 num den - s.fbits) (s.minExp - s.fbits)) :
    OnGrid s (num / den) q (num * 2 ^ (-q).toNat / (den * 2 ^ q.toNat))
      ((num * 2 ^ (-q).toNat % (den * 2 ^ q.toNat) : Nat) / (den * 2 ^ q.toNat : Nat) * 2 ^ q) := by
  obtain ⟨hlo, hhi⟩ := floorLog2_spec hn hd
  have he := units_and_rest num hd q
  have hde : 0 < den * 2 ^ q.toNat := Nat.mul_pos hd (Nat.two_pow_pos _)
  dsimp only at he
  generalize num * 2 ^ (-q).toNat = nu at he ⊢
  generalize den * 2 ^ q.toNat = de at he hde ⊢
  have hdeQ : (0 : ℚ) < de := by exact_mod_cast hde
  have hr : ((nu % de : Nat) : ℚ) < de := by exact_mod_cast Nat.mod_lt nu hde
  have h0 : (0 : ℚ) ≤ (nu % de : Nat) / de * 2 ^ q := by positivity
  have h1 : ((nu % de : Nat) / de * 2 ^ q : ℚ) < 2 ^ q := mul_lt_of_lt_one_left (by positivity) ((div_lt_one hdeQ).mpr hr)
  have pw : ∀ F : Nat, ((2 ^ F : Nat) : ℚ) * 2 ^ q = 2 ^ (q + F) := fun F => by
    push_cast
    rw [add_comm, zpow_add₀ two_ne_zero, zpow_natCast]
  refine ⟨by omega, ?_, fun hlt => ?_, h0, h1, he⟩
  · -- the magnitude is below 2^(q + F + 1)
    have : ((nu / de : Nat) : ℚ) * 2 ^ q < (2 ^ (s.fbits + 1) : Nat) * 2 ^ q := by
      rw [pw]
      calc ((nu / de : Nat) : ℚ) * 2 ^ q ≤ num / den := by linarith
        _ < 2 ^ (floorLog2 num den + 1) := hhi
        _ ≤ 2 ^ (q + (s.fbits + 1 : Nat)) := zpow_le_zpow_right₀ one_le_two (by omega)
    exact_mod_cast lt_of_mul_lt_mul_right this (by positivity)
  · -- a unit above the smallest leaves a magnitude of at least 2^(q + F)
    by_contra hne
    have hq' : floorLog2 num den = q + s.fbits := by omega
    have hle : ((nu / de : Nat) + 1 : ℚ) ≤ (2 ^ s.fbits : Nat) := by exact_mod_cast hlt
    have := mul_le_mul_of_nonneg_right hle (by positivity : (0 : ℚ) ≤ 2 ^ q)
    rw [pw, ← hq', add_mul, one_mul] at this
    linarith

/-- ROUND of a finite value in terms of its grid (R33). -/
theorem roundRat_eq (f : Fmt) (rm : Rm) (sat neg : Bool) (num : Nat) {den : Nat} (hd : 0 < den) :
    ∃ q n d n', OnGrid f.spec (num / den) q n d ∧ Picks rm neg n n' d (2 ^ q) ∧ roundRat f rm sat neg num den =
      if Beyond f.spec q n' then overflowBits f rm sat neg else (packBits f neg n' q, restFlags f.spec n d) := by
  have hmm := spec_minExp_lt_maxExp f
  unfold roundRat
  split
  case isTrue h =>
    subst h
    refine ⟨f.spec.minExp - f.spec.fbits, 0, 0, 0,
      ⟨le_rfl, Nat.two_pow_pos _, fun _ => rfl, le_rfl, by positivity, by simp⟩, ?_, ?_⟩
    · cases rm <;> simp [Picks, zpow_pos]
    · rw [if_neg (by unfold Beyond; omega)]
      simp [packBits, restFlags]
  case isFalse h =>
    extract_lets s q nu de n r n'
    have hde : 0 < de := Nat.mul_pos hd (Nat.two_pow_pos _)
    have hdeQ : (de : ℚ) ≠ 0 := by exact_mod_cast hde.ne'
    have hpow : (0 : ℚ) < 2 ^ q := by positivity
    refine ⟨q, n, r / de * 2 ^ q, n', onGrid_max h hd rfl, picks_of_roundsUp rm neg n r hde hpow, ?_⟩
    have hr : (r : ℚ) / de * 2 ^ q = 0 ↔ r = 0 := by simp [hpow.ne', hdeQ]
    simp only [Beyond, restFlags, hr, s]

/-! ### Encodings (R22, R23) -/

/-- The value of a finite number. -/
def IsVal (v : FVal) (neg : Bool) (x : ℚ) : Prop := ∃ (m : Nat) (e : Int), v = .fin neg m e ∧ signQ neg * m * 2 ^ e = x

/-- An encoding of a finite value. -/
def Represents (f : Fmt) (b : Nat) (x : ℚ) : Prop := b < 2 ^ f.width ∧ ∃ neg, IsVal (FVal.ofBits f b) neg x

/-- The encoding with these fields. -/
def encode (s : FSpec) (neg : Bool) (e fr : Nat) : Nat := (neg.toNat * 2 ^ s.ebits + e) * 2 ^ s.fbits + fr

theorem spec_width {f : Fmt} (h : f.isFloat) : f.width = f.spec.ebits + f.spec.fbits + 1 := by revert h; cases f <;> decide
theorem spec_fbits_pos (f : Fmt) : 0 < f.spec.fbits := by cases f <;> decide
theorem spec_inf {f : Fmt} (h : f.isFloat) : f.spec.inf = !f.isK := by revert h; cases f <;> decide

section
variable {s : FSpec} {neg : Bool} {e fr : Nat}

theorem encode_frac (hfr : fr < 2 ^ s.fbits) : encode s neg e fr % 2 ^ s.fbits = fr := by
  rw [encode, Nat.mul_comm, Nat.mul_add_mod, Nat.mod_eq_of_lt hfr]
theorem encode_upper (hfr : fr < 2 ^ s.fbits) : encode s neg e fr / 2 ^ s.fbits = neg.toNat * 2 ^ s.ebits + e := by
  rw [encode, Nat.mul_comm, Nat.mul_add_div (Nat.two_pow_pos _), Nat.div_eq_of_lt hfr, Nat.add_zero]
theorem encode_exp (he : e < 2 ^ s.ebits) (hfr : fr < 2 ^ s.fbits) : encode s neg e fr / 2 ^ s.fbits % 2 ^ s.ebits = e := by
  rw [encode_upper hfr, Nat.mul_comm, Nat.mul_add_mod, Nat.mod_eq_of_lt he]
theorem encode_sign (he : e < 2 ^ s.ebits) (hfr : fr < 2 ^ s.fbits) : encode s neg e fr / 2 ^ (s.ebits + s.fbits) = neg.toNat := by
  rw [Nat.add_comm, Nat.pow_add, ← Nat.div_div_eq_div_mul, encode_upper hfr, Nat.mul_comm, Nat.mul_add_div (Nat.two_pow_pos _),
    Nat.div_eq_of_lt he, Nat.add_zero]
theorem encode_lt (he : e < 2 ^ s.ebits) (hfr : fr < 2 ^ s.fbits) : encode s neg e fr < 2 ^ (s.ebits + s.fbits + 1) := by
  have h := encode_sign (neg := neg) he hfr
  rw [Nat.pow_succ, Nat.mul_comm, ← Nat.div_lt_iff_lt_mul (Nat.two_pow_pos _), h]
  exact Bool.toNat_lt neg

/-- Every encoding is made of its fields. -/
theorem encode_fields {b : Nat} (hb : b < 2 ^ (s.ebits + s.fbits + 1)) :
    b = encode s (b / 2 ^ (s.ebits + s.fbits) == 1) (b / 2 ^ s.fbits % 2 ^ s.ebits) (b % 2 ^ s.fbits) := by
  have h1 : b / 2 ^ (s.ebits + s.fbits) < 2 := Nat.div_lt_of_lt_mul (by rwa [← Nat.pow_succ])
  have h2 : (b / 2 ^ (s.ebits + s.fbits) == 1).toNat = b / 2 ^ s.fbits / 2 ^ s.ebits := by
    rw [Nat.div_div_eq_div_mul, ← Nat.pow_add, Nat.add_comm s.fbits]
    rcases Nat.lt_succ_iff_lt_or_eq.mp h1 with h | h
    · rw [Nat.lt_one_iff.mp h]; rfl
    · rw [h]; rfl
  rw [encode, h2, Nat.div_add_mod', Nat.div_add_mod']
end

section
variable {f : Fmt} {neg : Bool} {e fr : Nat}

theorem ofBits_encode (he : e < 2 ^ f.spec.ebits) (hfr : fr < 2 ^ f.spec.fbits) :
    FVal.ofBits f (encode f.spec neg e fr) =
      if f.isK && e == 0 && fr == 0 then (if neg then .nan else .fin false 0 0)
      else if e == 0 then .fin neg fr (f.spec.minExp - f.spec.fbits)
      else if f.spec.inf && e == 2 ^ f.spec.ebits - 1 then (if fr == 0 then .inf neg else .nan)
      else .fin neg (2 ^ f.spec.fbits + fr) ((e : Int) - f.spec.bias - f.spec.fbits) := by
  unfold FVal.ofBits
  simp only [encode_frac hfr, encode_exp he hfr, encode_sign he hfr]
  cases neg <;> rfl

/-- A subnormal value or zero (R23); the K formats have no -0. -/
theorem isVal_subnormal (hfr : fr < 2 ^ f.spec.fbits) (hk : ¬ (f.isK = true ∧ neg = true ∧ fr = 0)) :
    IsVal (FVal.ofBits f (encode f.spec neg 0 fr)) neg (signQ neg * (fr * 2 ^ (f.spec.minExp - f.spec.fbits))) := by
  rw [ofBits_encode (Nat.two_pow_pos _) hfr]
  by_cases h0 : f.isK = true ∧ fr = 0
  · obtain ⟨h, rfl⟩ := h0
    have hn : neg = false := by simpa [h] using hk
    subst hn
    exact ⟨0, 0, by simp [h], by simp⟩
  · rw [if_neg (by simpa using h0), if_pos (beq_self_eq_true 0)]
    exact ⟨_, _, rfl, mul_assoc ..⟩

/-- A normal value (R23). -/
theorem isVal_normal (he : e < 2 ^ f.spec.ebits) (hfr : fr < 2 ^ f.spec.fbits) (h0 : e ≠ 0)
    (htop : f.spec.inf = true → e ≠ 2 ^ f.spec.ebits - 1) :
    IsVal (FVal.ofBits f (encode f.spec neg e fr)) neg
      (signQ neg * ((2 ^ f.spec.fbits + fr : Nat) * 2 ^ ((e : Int) - f.spec.bias - f.spec.fbits))) := by
  rw [ofBits_encode he hfr, if_neg (by simp [h0]), if_neg (by simpa using h0), if_neg (by simpa using htop)]
  exact ⟨_, _, rfl, mul_assoc ..⟩

end

/-- A finite value is a number of at most F + 1 bits in a unit that is no smaller than the smallest. -/
theorem ofBits_fin {f : Fmt} {b m : Nat} {neg : Bool} {e : Int} (h : FVal.ofBits f b = .fin neg m e) :
    m < 2 ^ (f.spec.fbits + 1) ∧ (m = 0 ∨ f.spec.minExp - f.spec.fbits ≤ e) := by
  have hfr : b % 2 ^ f.spec.fbits < 2 ^ f.spec.fbits := Nat.mod_lt _ (Nat.two_pow_pos _)
  unfold FVal.ofBits at h
  dsimp only at h
  generalize b / 2 ^ f.spec.fbits % 2 ^ f.spec.ebits = e' at h
  have h2 : 2 ^ (f.spec.fbits + 1) = 2 ^ f.spec.fbits + 2 ^ f.spec.fbits := by rw [Nat.pow_succ]; omega
  rw [h2]
  split at h
  · split at h
    · cases h
    · obtain ⟨-, rfl, -⟩ := FVal.fin.inj h
      exact ⟨by omega, .inl rfl⟩
  · split at h
    · obtain ⟨-, rfl, rfl⟩ := FVal.fin.inj h
      exact ⟨by omega, .inr le_rfl⟩
    · rename_i he
      split at h
      · split at h <;> cases h
      · obtain ⟨-, rfl, rfl⟩ := FVal.fin.inj h
        refine ⟨by omega, .inr ?_⟩
        have : e' ≠ 0 := by simpa using he
        unfold FSpec.minExp
        omega

/-- No value of a format lies strictly between two neighbours of the grid. -/
theorem OnGrid.gap {f : Fmt} {a d z : ℚ} {q : Int} {n b : Nat} (hg : OnGrid f.spec a q n d) (hz : Represents f b z) :
    |z| ≤ n * 2 ^ q ∨ (n + 1) * 2 ^ q ≤ |z| := by
  obtain ⟨-, neg, m, e, hv, rfl⟩ := hz
  obtain ⟨hm, he⟩ := ofBits_fin hv
  have habs : |signQ neg * m * 2 ^ e| = (m : ℚ) * 2 ^ e := by
    rw [mul_assoc, abs_mul, abs_of_nonneg (by positivity : (0 : ℚ) ≤ m * 2 ^ e)]
    cases neg <;> simp [signQ]
  rw [habs]
  rcases he with rfl | he
  · exact .inl (by rw [Nat.cast_zero, zero_mul]; positivity)
  · by_cases hq : q ≤ e
    · -- a whole number of units
      have hj : (m : ℚ) * 2 ^ e = (m * 2 ^ (e - q).toNat : Nat) * 2 ^ q := by
        rw [show e = ((e - q).toNat : Int) + q by omega, zpow_add₀ two_ne_zero, zpow_natCast]
        push_cast
        rw [show (((e - q).toNat : Int) + q - q).toNat = (e - q).toNat by omega, mul_assoc]
      rw [hj]
      rcases Nat.lt_or_ge n (m * 2 ^ (e - q).toNat) with h | h
      rotate_left
      · exact .inl (by gcongr)
      · refine .inr ?_
        have : ((n + 1 : Nat) : ℚ) ≤ (m * 2 ^ (e - q).toNat : Nat) := by exact_mod_cast h
        push_cast at this ⊢
        gcongr
    · -- a value in a smaller unit is below 2^(q + F)
      have hn : 2 ^ f.spec.fbits ≤ n := by
        by_contra h
        have := hg.unit_of_lt (by omega)
        omega
      refine .inl ?_
      calc (m : ℚ) * 2 ^ e ≤ (2 ^ (f.spec.fbits + 1) : Nat) * 2 ^ (q - 1) := by
            gcongr
            · exact one_le_two
            · omega
        _ = (2 ^ f.spec.fbits : Nat) * 2 ^ q := by
            rw [Nat.pow_succ, zpow_sub_one₀ two_ne_zero]
            push_cast
            ring
        _ ≤ n * 2 ^ q := by gcongr

/-! ### The bits of a magnitude -/

/-- The exponent field of a normal value in the range. -/
theorem exp_lt {f : Fmt} (hf : f.isFloat) {e : Nat} (h : (e : Int) ≤ f.spec.maxExp + f.spec.bias) :
    e < 2 ^ f.spec.ebits ∧ (f.spec.inf = true → e ≠ 2 ^ f.spec.ebits - 1) := by
  revert hf h; cases f <;> simp [Fmt.isFloat, Fmt.spec, FSpec.maxExp] <;> omega

theorem encode_mod_two {f : Fmt} {neg : Bool} {e fr : Nat} : encode f.spec neg e fr % 2 = fr % 2 := by
  obtain ⟨k, hk⟩ := Nat.exists_eq_succ_of_ne_zero (spec_fbits_pos f).ne'
  rw [encode, hk, Nat.pow_succ, ← Nat.mul_assoc, Nat.mul_add_mod']

theorem signBit_encode {f : Fmt} (hf : f.isFloat) {neg : Bool} {e fr : Nat} :
    e * 2 ^ f.spec.fbits + fr + signBit f neg = encode f.spec neg e fr := by
  have hw := spec_width hf
  cases neg <;> simp [signBit, encode, hw, Nat.add_mul, Nat.pow_add]
  omega

/-- The fields of a packed magnitude. -/
def packFields (s : FSpec) (n : Nat) (q : Int) : Nat × Nat :=
  if n < 2 ^ s.fbits then (0, n)
  else if n = 2 ^ (s.fbits + 1) then ((q + 1 + s.fbits + s.bias).toNat, 0)
  else ((q + s.fbits + s.bias).toNat, n - 2 ^ s.fbits)

theorem packBits_eq {f : Fmt} (hf : f.isFloat) {neg : Bool} {n : Nat} {q : Int} (hq : f.spec.minExp - f.spec.fbits ≤ q)
    (h0 : ¬ (f.isK = true ∧ n = 0)) :
    packBits f neg n q = encode f.spec neg (packFields f.spec n q).1 (packFields f.spec n q).2 := by
  have hpos : 0 < 2 ^ f.spec.fbits := Nat.two_pow_pos _
  unfold FSpec.minExp at hq
  rw [← signBit_encode hf]
  unfold packBits packFields
  extract_lets s mag
  have hmag : mag = 0 → n = 0 := fun h => by
    unfold mag s at h
    split at h
    · exact h
    · split at h <;> simp only [Nat.add_eq_zero_iff, Nat.mul_eq_zero] at h <;> omega
  have hmag' : mag = (packFields f.spec n q).1 * 2 ^ f.spec.fbits + (packFields f.spec n q).2 := by
    unfold mag s packFields
    split
    · simp
    · split <;> rfl
  rw [if_neg fun h => h0 (((Bool.and_eq_true _ _).mp h).imp_right fun h => hmag (eq_of_beq h))]
  rw [hmag']; rfl

theorem packBits_zero (f : Fmt) (neg : Bool) (q : Int) : packBits f neg 0 q = if f.isK then 0 else signBit f neg := by
  simp [packBits]

/-- A magnitude of the grid that does not go beyond the largest value is representable, and packed to its value (R22, R23). -/
theorem packBits_isVal {f : Fmt} (hf : f.isFloat) (neg : Bool) {n : Nat} {q : Int} (hq : f.spec.minExp - f.spec.fbits ≤ q)
    (hn : n ≤ 2 ^ (f.spec.fbits + 1)) (hsub : n < 2 ^ f.spec.fbits → q = f.spec.minExp - f.spec.fbits) (hb : ¬ Beyond f.spec q n) :
    Represents f (packBits f neg n q) (signQ neg * (n * 2 ^ q)) ∧ packBits f neg n q % 2 = n % 2 := by
  have hpos : 0 < 2 ^ f.spec.fbits := Nat.two_pow_pos _
  have hF := spec_fbits_pos f
  by_cases h0 : f.isK = true ∧ n = 0
  · obtain ⟨hk, rfl⟩ := h0
    rw [packBits_zero, if_pos hk]
    refine ⟨⟨Nat.two_pow_pos _, false, 0, 0, ?_, by simp⟩, rfl⟩
    simp [FVal.ofBits, hk]
  · rw [packBits_eq hf hq h0, encode_mod_two]
    unfold Represents
    rw [spec_width hf]
    unfold packFields
    unfold FSpec.minExp at hq
    have h2 : 2 ^ (f.spec.fbits + 1) = 2 * 2 ^ f.spec.fbits := by rw [Nat.pow_succ, Nat.mul_comm]
    split
    · rename_i hlt
      refine ⟨⟨encode_lt (Nat.two_pow_pos _) hlt, neg, ?_⟩, rfl⟩
      rw [hsub hlt]
      exact isVal_subnormal hlt fun h => h0 ⟨h.1, h.2.2⟩
    · split
      · rename_i h1 h
        have he : (((q + 1 + f.spec.fbits + f.spec.bias).toNat : Nat) : Int) = q + 1 + f.spec.fbits + f.spec.bias := by omega
        have hv : (n : ℚ) * 2 ^ q =
            (2 ^ f.spec.fbits + 0 : Nat) * 2 ^ (((q + 1 + f.spec.fbits + f.spec.bias).toNat : Int) - f.spec.bias - f.spec.fbits) := by
          rw [he, h, show q + 1 + f.spec.fbits + f.spec.bias - f.spec.bias - f.spec.fbits = q + 1 by ring, zpow_add_one₀ two_ne_zero]
          push_cast
          ring
        rw [hv]
        have hlt := exp_lt (e := (q + 1 + f.spec.fbits + f.spec.bias).toNat) hf (by omega)
        exact ⟨⟨encode_lt hlt.1 hpos, neg, isVal_normal hlt.1 hpos (by omega) hlt.2⟩, by omega⟩
      · rename_i h1 h
        have he : (((q + f.spec.fbits + f.spec.bias).toNat : Nat) : Int) = q + f.spec.fbits + f.spec.bias := by omega
        have hfr : n - 2 ^ f.spec.fbits < 2 ^ f.spec.fbits := by omega
        have hv : (n : ℚ) * 2 ^ q = (2 ^ f.spec.fbits + (n - 2 ^ f.spec.fbits) : Nat) *
            2 ^ (((q + f.spec.fbits + f.spec.bias).toNat : Int) - f.spec.bias - f.spec.fbits) := by
          rw [he, show q + f.spec.fbits + f.spec.bias - f.spec.bias - f.spec.fbits = q by ring, Nat.add_sub_cancel' (by omega)]
        rw [hv]
        have hlt := exp_lt (e := (q + f.spec.fbits + f.spec.bias).toNat) hf (by omega)
        refine ⟨⟨encode_lt hlt.1 hfr, neg, isVal_normal hlt.1 hfr (by omega) hlt.2⟩, ?_⟩
        have hev : 2 ∣ 2 ^ f.spec.fbits := dvd_pow_self 2 hF.ne'
        dsimp only
        omega

end Sys2Proof.Machine

end

section
/-! ROUND of finite values, and conversions (O60; R33, R37, R39 to R42, log entry 80). `beyond_iff_away` ties the model's overflow test
to the magnitudes that a mode rounds beyond the largest value; `roundTo_within`, `roundTo_largest` and `roundTo_away` are the three
cases of ROUND. -/

set_option Elab.async false

namespace Sys2Proof.Machine

/-! ### The end of a format's range (R37, log entry 80) -/

/-- The unit of the largest values of a format. -/
def FSpec.topUnit (s : FSpec) : ℚ := 2 ^ (s.maxExp - s.fbits)

/-- The largest value of a format (R22). -/
def FSpec.largest (s : FSpec) : ℚ := (2 - 2 ^ (-(s.fbits : Int))) * 2 ^ s.maxExp

/-- A magnitude that a mode rounds beyond the largest value. -/
def Away (s : FSpec) (rm : Rm) (neg : Bool) (a : ℚ) : Prop :=
  match rm with
  | .rne => s.largest + s.topUnit / 2 ≤ a
  | .rna => s.largest + s.topUnit / 2 ≤ a
  | .rtz => s.largest + s.topUnit ≤ a
  | .rup => if neg = true then s.largest + s.topUnit ≤ a else s.largest < a
  | .rdn => if neg = true then s.largest < a else s.largest + s.topUnit ≤ a

theorem topUnit_pos (s : FSpec) : 0 < s.topUnit := zpow_pos two_pos _

theorem largest_eq (s : FSpec) : s.largest + s.topUnit = (2 ^ (s.fbits + 1) : Nat) * s.topUnit := by
  unfold FSpec.largest FSpec.topUnit
  rw [sub_eq_add_neg s.maxExp, zpow_add₀ two_ne_zero, zpow_neg, zpow_natCast]
  push_cast
  field_simp
  ring

theorem Away.largest_lt {s : FSpec} {rm : Rm} {neg : Bool} {a : ℚ} (h : Away s rm neg a) : s.largest < a := by
  have hu := topUnit_pos s
  cases rm <;> cases neg <;> simp only [Away, if_true, Bool.false_eq_true, if_false] at h <;> linarith

theorem away_of_le {s : FSpec} {rm : Rm} {neg : Bool} {a : ℚ} (h : s.largest + s.topUnit ≤ a) : Away s rm neg a := by
  have hu := topUnit_pos s
  cases rm <;> cases neg <;> simp only [Away, if_true, Bool.false_eq_true, if_false] <;> linarith

theorem Picks.le_succ {rm : Rm} {neg : Bool} {n n' : Nat} {d u : ℚ} (h : Picks rm neg n n' d u) : n' = n ∨ n' = n + 1 := by
  cases rm <;> simp only [Picks] at h <;> tauto

theorem Picks.exact_iff {rm : Rm} {neg : Bool} {n n' : Nat} {d u : ℚ} (h : Picks rm neg n n' d u) (hu : d < u) (hd : 0 ≤ d) :
    (n' : ℚ) * u = n * u + d ↔ d = 0 := by
  constructor
  · rcases h.le_succ with rfl | rfl
    · intro e; linarith
    · intro e; push_cast at e; linarith
  · rintro rfl
    have hn : n' ≠ n + 1 := fun e => by
      cases rm with
      | rne =>
        rcases h with ⟨h, -⟩ | ⟨-, h | ⟨h, -⟩⟩
        · omega
        · linarith
        · linarith
      | rna =>
        rcases h with ⟨h, -⟩ | ⟨-, h⟩
        · omega
        · linarith
      | rtz =>
        cases h
        omega
      | rup | rdn =>
        rcases h with ⟨h, -⟩ | ⟨-, h, -⟩
        · omega
        · exact h rfl
    rw [h.le_succ.resolve_right hn, add_zero]

section
variable {s : FSpec} {a d : ℚ} {q : Int} {n n' : Nat} {rm : Rm} {neg : Bool}

theorem OnGrid.nonneg (hg : OnGrid s a q n d) : 0 ≤ a := hg.eq ▸ add_nonneg (by positivity) hg.rest_nonneg

theorem OnGrid.lt (hg : OnGrid s a q n d) : a < (n + 1 : Nat) * 2 ^ q := by
  have := hg.rest_lt
  rw [hg.eq]; push_cast; linarith

/-- A unit above that of the largest values puts the magnitude beyond them. -/
theorem OnGrid.largest_of_unit (hg : OnGrid s a q n d) (hm : s.minExp < s.maxExp) (hq : s.maxExp - s.fbits < q) :
    s.largest + s.topUnit ≤ a := by
  have hn : 2 ^ s.fbits ≤ n := by
    by_contra h
    have := hg.unit_of_lt (by omega)
    omega
  calc s.largest + s.topUnit = (2 ^ s.fbits : Nat) * 2 ^ (s.maxExp - s.fbits + 1) := by
        rw [largest_eq, FSpec.topUnit, zpow_add_one₀ two_ne_zero, Nat.pow_succ]; push_cast; ring
    _ ≤ n * 2 ^ q := mul_le_mul (by exact_mod_cast hn) (zpow_le_zpow_right₀ one_le_two (by omega)) (by positivity) (by positivity)
    _ ≤ a := by rw [hg.eq]; linarith [hg.rest_nonneg]

/-- A unit below it keeps the magnitude within the range. -/
theorem OnGrid.le_largest_of_unit (hg : OnGrid s a q n d) (hq : q < s.maxExp - s.fbits) : a ≤ s.largest := by
  have hu := topUnit_pos s
  have h1 : (1 : ℚ) ≤ (2 ^ s.fbits : Nat) := by exact_mod_cast Nat.one_le_two_pow
  have h2 := largest_eq s
  have h3 : a ≤ (2 ^ s.fbits : Nat) * s.topUnit := by
    calc a ≤ (n + 1 : Nat) * 2 ^ q := hg.lt.le
      _ ≤ (2 ^ (s.fbits + 1) : Nat) * 2 ^ (s.maxExp - s.fbits - 1) :=
        mul_le_mul (by exact_mod_cast hg.units_lt) (zpow_le_zpow_right₀ one_le_two (by omega)) (by positivity) (by positivity)
      _ = (2 ^ s.fbits : Nat) * s.topUnit := by
        rw [FSpec.topUnit, zpow_sub_one₀ two_ne_zero, Nat.pow_succ]; push_cast; ring
  rw [Nat.pow_succ] at h2
  push_cast at h1 h2 h3
  nlinarith

/-- In the unit of the largest values, fewer units than the largest keep the magnitude within the range. -/
theorem OnGrid.le_largest_of_units (hg : OnGrid s a q n d) (hq : q = s.maxExp - s.fbits) (hn : n + 1 < 2 ^ (s.fbits + 1)) :
    a ≤ s.largest := by
  have hu := topUnit_pos s
  have h2 := largest_eq s
  have h3 : ((n + 1 : Nat) : ℚ) + 1 ≤ (2 ^ (s.fbits + 1) : Nat) := by exact_mod_cast hn
  have h4 := hg.lt
  rw [hq] at h4
  change a < _ * s.topUnit at h4
  nlinarith

/-- In the unit of the largest values, the largest number of units. -/
theorem OnGrid.eq_largest_add (hg : OnGrid s a q n d) (hq : q = s.maxExp - s.fbits) (hn : n + 1 = 2 ^ (s.fbits + 1)) :
    a = s.largest + d := by
  have h2 := largest_eq s
  rw [← hn] at h2
  have h3 : (2 : ℚ) ^ q = s.topUnit := by rw [hq, FSpec.topUnit]
  rw [hg.eq, h3]
  push_cast at h2
  linarith

theorem beyond_iff_away (hg : OnGrid s a q n d) (hp : Picks rm neg n n' d (2 ^ q)) (hm : s.minExp < s.maxExp) :
    Beyond s q n' ↔ Away s rm neg a := by
  have hn' := hp.le_succ
  rcases lt_trichotomy q (s.maxExp - s.fbits) with hq | hq | hq
  · exact ⟨fun h => by unfold Beyond at h; omega, fun h => absurd (hg.le_largest_of_unit hq) (not_le.mpr h.largest_lt)⟩
  · by_cases hn : n + 1 < 2 ^ (s.fbits + 1)
    · exact ⟨fun h => by unfold Beyond at h; omega, fun h => absurd (hg.le_largest_of_units hq hn) (not_le.mpr h.largest_lt)⟩
    · -- the magnitude lies between the largest value and the next unit, an even number of units
      have hlt := hg.units_lt
      have hn : n + 1 = 2 ^ (s.fbits + 1) := by omega
      have hodd : n % 2 = 1 := by rw [Nat.pow_succ] at hn; omega
      have hu : (2 : ℚ) ^ q = s.topUnit := by rw [hq, FSpec.topUnit]
      have hd := hg.rest_nonneg
      have hdu := hg.rest_lt
      rw [hu] at hp hdu
      rw [hg.eq_largest_add hq hn]
      have hb : Beyond s q n' ↔ n' = n + 1 := by unfold Beyond; omega
      rw [hb]
      -- a mode that rounds this sign toward zero, and one that rounds it away from zero
      have inw : n' = n → (n' = n + 1 ↔ s.largest + s.topUnit ≤ s.largest + d) := fun h =>
        ⟨fun h => by omega, fun h => by linarith⟩
      have out : n' = n ∧ d = 0 ∨ n' = n + 1 ∧ ¬ d = 0 → (n' = n + 1 ↔ s.largest < s.largest + d) := by
        rintro (⟨rfl, rfl⟩ | ⟨rfl, h⟩)
        · exact ⟨fun h => by omega, fun h => by linarith⟩
        · exact ⟨fun _ => by linarith [lt_of_le_of_ne hd (Ne.symm h)], fun _ => rfl⟩
      cases rm with
      | rne =>
        rcases hp with ⟨rfl, h⟩ | ⟨rfl, h⟩
        · have : 2 * d < s.topUnit := h.resolve_right fun h => by omega
          exact ⟨fun h => by omega, fun h : s.largest + s.topUnit / 2 ≤ _ => by linarith⟩
        · have : s.topUnit ≤ 2 * d := h.elim le_of_lt fun h => h.1.ge
          exact ⟨fun _ => show s.largest + s.topUnit / 2 ≤ _ by linarith, fun _ => rfl⟩
      | rna =>
        rcases hp with ⟨rfl, h⟩ | ⟨rfl, h⟩
        · exact ⟨fun h => by omega, fun h : s.largest + s.topUnit / 2 ≤ _ => by linarith⟩
        · exact ⟨fun _ => show s.largest + s.topUnit / 2 ≤ _ by linarith, fun _ => rfl⟩
      | rtz => exact inw hp
      | rup =>
        cases neg with
        | false => exact out (by simpa [Picks] using hp)
        | true => exact inw (by simpa [Picks] using hp)
      | rdn =>
        cases neg with
        | false => exact inw (by simpa [Picks] using hp)
        | true => exact out (by simpa [Picks] using hp)
  · exact ⟨fun _ => away_of_le (hg.largest_of_unit hm hq), fun _ => .inl hq⟩
end

/-! ### ROUND of a finite value (R33, R37) -/

theorem abs_signQ_mul (neg : Bool) {a : ℚ} (h : 0 ≤ a) : |signQ neg * a| = a := by
  rw [abs_mul, abs_of_nonneg h]
  cases neg <;> simp [signQ]

theorem restFlags_eq {s : FSpec} {a d : ℚ} {q : Int} {n : Nat} (hg : OnGrid s a q n d) (hd : d ≠ 0) :
    restFlags s n d = if a < 2 ^ s.minExp then 0x18 else 0x10 := by
  -- fewer than 2^F units are those below the smallest normal value
  have hiff : n < 2 ^ s.fbits ↔ a < 2 ^ s.minExp := by
    have hp : ∀ q : Int, ((2 ^ s.fbits : Nat) : ℚ) * 2 ^ q = 2 ^ (q + s.fbits) := fun q => by
      push_cast
      rw [add_comm, zpow_add₀ two_ne_zero, zpow_natCast]
    constructor
    · intro h
      refine hg.lt.trans_le ?_
      rw [hg.unit_of_lt h, show (2 : ℚ) ^ s.minExp = (2 ^ s.fbits : Nat) * 2 ^ (s.minExp - s.fbits) by rw [hp, Int.sub_add_cancel]]
      gcongr
      exact h
    · intro h
      by_contra hn
      have h1 : (2 : ℚ) ^ s.minExp ≤ n * 2 ^ q := by
        calc (2 : ℚ) ^ s.minExp ≤ 2 ^ (q + s.fbits) := zpow_le_zpow_right₀ one_le_two (by have := hg.unit_ge; omega)
          _ = (2 ^ s.fbits : Nat) * 2 ^ q := (hp q).symm
          _ ≤ n * 2 ^ q := by gcongr; omega
      rw [hg.eq] at h
      linarith [hg.rest_nonneg]
  rw [restFlags, if_neg hd]
  by_cases h : n < 2 ^ s.fbits
  · simp only [h, decide_true, if_pos (hiff.mp h)]; rfl
  · simp only [h, decide_false, if_neg (fun h' => h (hiff.mpr h'))]; rfl

/-- `r` is what ROUND gives for `v`, of a sign, within the range: the value that the mode selects from the values of the format, with
NX where it differs, and UF below the smallest normal value. -/
def RoundsWithin (f : Fmt) (rm : Rm) (neg : Bool) (v : ℚ) (r : Nat × Fl) : Prop :=
  ∃ y, Represents f r.1 y ∧ RoundedTo rm v y (r.1 % 2 = 0) (fun z => ∃ b, Represents f b z) ∧
    (y = 0 → f.isK = false → r.1 = signBit f neg) ∧ (y = v → r.2 = 0) ∧
    (y ≠ v → r.2 = if |v| < 2 ^ f.spec.minExp then 0x18 else 0x10)

section
variable {f : Fmt} (hf : f.isFloat) (rm : Rm) (sat neg : Bool) (num : Nat) {den : Nat} (hd : 0 < den)
include hf hd

theorem roundRat_within (h : (num : ℚ) / den ≤ f.spec.largest) :
    RoundsWithin f rm neg (signQ neg * (num / den)) (roundRat f rm sat neg num den) := by
  obtain ⟨q, n, d, n', hg, hp, e⟩ := roundRat_eq f rm sat neg num hd
  have hb : ¬ Beyond f.spec q n' := fun hb =>
    absurd h (not_le.mpr ((beyond_iff_away hg hp (spec_minExp_lt_maxExp f)).mp hb).largest_lt)
  have hn := hp.le_succ
  have hlt := hg.units_lt
  rw [if_neg hb] at e
  rw [e]
  obtain ⟨hrep, hpar⟩ := packBits_isVal hf neg (n := n') hg.unit_ge (by omega) (fun h => hg.unit_of_lt (by omega)) hb
  have hq : (0 : ℚ) < 2 ^ q := by positivity
  have hsign : signQ neg ≠ 0 := by cases neg <;> simp [signQ]
  have hy : signQ neg * (n' * 2 ^ q) = signQ neg * (num / den) ↔ d = 0 := by
    rw [mul_right_inj' hsign, hg.eq, hp.exact_iff hg.rest_lt hg.rest_nonneg]
  refine ⟨_, hrep, ?_, fun h0 hk => ?_, fun h0 => ?_, fun h0 => ?_⟩
  · have := hp.roundedTo (R := fun z => ∃ b, Represents f b z) hg.rest_nonneg hg.rest_lt fun z ⟨b, hz⟩ => hg.gap hz
    rwa [← hg.eq, ← hpar] at this
  · have : n' = 0 := by simpa [hsign, hq.ne'] using h0
    rw [this, packBits_zero, hk]
    rfl
  · rw [restFlags, if_pos (hy.mp h0)]
  · rw [abs_signQ_mul neg hg.nonneg]
    exact restFlags_eq hg (mt hy.mpr h0)

omit hf in
theorem roundRat_away (h : Away f.spec rm neg (num / den)) : roundRat f rm sat neg num den = overflowBits f rm sat neg := by
  obtain ⟨q, n, d, n', hg, hp, e⟩ := roundRat_eq f rm sat neg num hd
  rw [e, if_pos ((beyond_iff_away hg hp (spec_minExp_lt_maxExp f)).mpr h)]

theorem roundRat_largest (h : f.spec.largest < num / den) (ha : ¬ Away f.spec rm neg (num / den)) :
    roundRat f rm sat neg num den = (maxFinite f + signBit f neg, 0x10) := by
  obtain ⟨q, n, d, n', hg, hp, e⟩ := roundRat_eq f rm sat neg num hd
  have hm := spec_minExp_lt_maxExp f
  have hb : ¬ Beyond f.spec q n' := mt (beyond_iff_away hg hp hm).mp ha
  have hn := hp.le_succ
  have hlt := hg.units_lt
  -- the unit is that of the largest values, and the number of units the largest
  have hq : q = f.spec.maxExp - f.spec.fbits := by
    rcases lt_trichotomy q (f.spec.maxExp - f.spec.fbits) with hq | hq | hq
    · exact absurd (hg.le_largest_of_unit hq) (not_le.mpr h)
    · exact hq
    · exact absurd (.inl hq) hb
  have hn1 : n + 1 = 2 ^ (f.spec.fbits + 1) := by
    by_contra hne
    exact absurd (hg.le_largest_of_units hq (by omega)) (not_le.mpr h)
  have hn' : n' = 2 ^ (f.spec.fbits + 1) - 1 := by unfold Beyond at hb; omega
  have hd : d ≠ 0 := fun h0 => by
    rw [hg.eq_largest_add hq hn1, h0] at h
    linarith
  have hfl : restFlags f.spec n d = 0x10 := by
    have : ¬ n < 2 ^ f.spec.fbits := by rw [Nat.pow_succ] at hn1; have := Nat.one_le_two_pow (n := f.spec.fbits); omega
    simp only [restFlags, if_neg hd, this, decide_false]; rfl
  rw [e, if_neg hb, hfl, hn', hq]
  congr 1
  revert hf
  cases f <;> cases neg <;> decide
end

theorem roundTo_fin {f : Fmt} {env : NumEnv} (he : f = .fp32 → env.ftz32 = false) (rm : Rm) (sat neg : Bool) (m : Nat) (e : Int) :
    roundTo env f rm sat (.fin neg m e) = roundRat f rm sat neg (ratOf m e 1).1 (ratOf m e 1).2 := by
  unfold roundTo ftzOut
  refine if_neg ?_
  simp only [Bool.and_eq_true, beq_iff_eq]
  rintro ⟨⟨h, h'⟩, -⟩
  simp [he h] at h'

theorem ratOf_magnitude (neg : Bool) (m : Nat) (e : Int) :
    ((ratOf m e 1).1 : ℚ) / (ratOf m e 1).2 = |signQ neg * m * 2 ^ e| ∧
      signQ neg * ((ratOf m e 1).1 / (ratOf m e 1).2) = signQ neg * m * 2 ^ e := by
  rw [ratOf_div, Nat.cast_one, div_one, mul_assoc, abs_signQ_mul neg (by positivity)]
  exact ⟨rfl, rfl⟩

section
variable {f : Fmt} (hf : f.isFloat) {env : NumEnv} (he : f = .fp32 → env.ftz32 = false) (rm : Rm) (sat neg : Bool) (m : Nat) (e : Int)
include he

include hf in
theorem roundTo_within (h : |signQ neg * m * 2 ^ e| ≤ f.spec.largest) :
    RoundsWithin f rm neg (signQ neg * m * 2 ^ e) (roundTo env f rm sat (.fin neg m e)) := by
  obtain ⟨ha, hv⟩ := ratOf_magnitude neg m e
  rw [roundTo_fin he, ← hv]
  exact roundRat_within hf rm sat neg _ (ratOf_den_pos one_pos) (ha ▸ h)

theorem roundTo_away (h : Away f.spec rm neg |signQ neg * m * 2 ^ e|) :
    roundTo env f rm sat (.fin neg m e) = overflowBits f rm sat neg := by
  rw [roundTo_fin he]
  exact roundRat_away rm sat neg _ (ratOf_den_pos one_pos) ((ratOf_magnitude neg m e).1 ▸ h)

include hf in
theorem roundTo_largest (h : f.spec.largest < |signQ neg * m * 2 ^ e|) (ha : ¬ Away f.spec rm neg |signQ neg * m * 2 ^ e|) :
    roundTo env f rm sat (.fin neg m e) = (maxFinite f + signBit f neg, 0x10) := by
  rw [← (ratOf_magnitude neg m e).1] at h ha
  rw [roundTo_fin he]
  exact roundRat_largest hf rm sat neg _ (ratOf_den_pos one_pos) h ha
end

/-! ### Rounding to an integer (R40) -/

/-- `z` is the integer that the mode selects from `x` (R29, R40). -/
def RoundedToInt (rm : Rm) (x : ℚ) (z : Int) : Prop :=
  match rm with
  | .rne => |x - z| ≤ 1 / 2 ∧ (|x - z| = 1 / 2 → z % 2 = 0)
  | .rtz => |(z : ℚ)| ≤ |x| ∧ |x| < |(z : ℚ)| + 1 ∧ 0 ≤ z * x
  | .rup => x ≤ z ∧ (z : ℚ) < x + 1
  | .rdn => (z : ℚ) ≤ x ∧ x < z + 1
  | .rna => |x - z| ≤ 1 / 2 ∧ (|x - z| = 1 / 2 → |x| < |(z : ℚ)|)

theorem RoundedToInt.neg {rm : Rm} {x : ℚ} {z : Int} (h : RoundedToInt rm.flip x z) : RoundedToInt rm (-x) (-z) := by
  have hs : |-x - ((-z : Int) : ℚ)| = |x - z| := by rw [Int.cast_neg, neg_sub_neg, abs_sub_comm]
  have hz : |((-z : Int) : ℚ)| = |(z : ℚ)| := by rw [Int.cast_neg, abs_neg]
  cases rm with
  | rne =>
    rw [RoundedToInt, hs]
    exact ⟨h.1, fun e => by have := h.2 e; omega⟩
  | rtz =>
    rw [RoundedToInt, hz, abs_neg, Int.cast_neg, neg_mul_neg]
    exact h
  | rup =>
    obtain ⟨h1, h2⟩ : (z : ℚ) ≤ x ∧ x < z + 1 := h
    rw [RoundedToInt, Int.cast_neg]
    constructor <;> linarith
  | rdn =>
    obtain ⟨h1, h2⟩ : x ≤ z ∧ (z : ℚ) < x + 1 := h
    rw [RoundedToInt, Int.cast_neg]
    constructor <;> linarith
  | rna =>
    rw [RoundedToInt, hs, hz, abs_neg]
    exact h

theorem Picks.roundedToInt_pos {rm : Rm} {n n' : Nat} {d : ℚ} (h : Picks rm false n n' d 1) (hd : 0 ≤ d) (hu : d < 1) :
    RoundedToInt rm (n + d) n' := by
  have hn : (0 : ℚ) ≤ n := Nat.cast_nonneg n
  -- the distance to the lower and to the upper neighbour
  have lo : |(n + d : ℚ) - ((n : Nat) : Int)| = d := by
    rw [Int.cast_natCast, add_sub_cancel_left, abs_of_nonneg hd]
  have hi : |(n + d : ℚ) - ((n + 1 : Nat) : Int)| = 1 - d := by
    rw [abs_sub_comm, Int.cast_natCast, Nat.cast_add_one, add_sub_add_left_eq_sub, abs_of_nonneg (by linarith)]
  cases rm with
  | rne =>
    rcases h with ⟨rfl, h⟩ | ⟨rfl, h⟩ <;> rw [RoundedToInt]
    · rw [lo]
      exact ⟨by rcases h with h | h <;> linarith, fun e => by rcases h with h | h; exacts [by linarith, by omega]⟩
    · rw [hi]
      exact ⟨by rcases h with h | h <;> linarith, fun e => by rcases h with h | h; exacts [by linarith, by omega]⟩
  | rna =>
    rcases h with ⟨rfl, h⟩ | ⟨rfl, h⟩ <;> rw [RoundedToInt]
    · rw [lo]
      exact ⟨by linarith, fun e => by linarith⟩
    · rw [hi]
      refine ⟨by linarith, fun e => ?_⟩
      rw [Int.cast_natCast, Nat.abs_cast, abs_of_nonneg (by linarith)]
      push_cast
      linarith
  | rtz =>
    cases h
    rw [RoundedToInt, Int.cast_natCast, Nat.abs_cast, abs_of_nonneg (by linarith)]
    exact ⟨by linarith, by linarith, mul_nonneg hn (by linarith)⟩
  | rup =>
    rw [RoundedToInt]
    rcases h with ⟨rfl, rfl | h⟩ | ⟨rfl, h, -⟩
    · simp
    · cases h
    · have := lt_of_le_of_ne hd (Ne.symm h)
      push_cast
      constructor <;> linarith
  | rdn =>
    rw [RoundedToInt]
    rcases h with ⟨rfl, -⟩ | ⟨-, -, h⟩
    · push_cast
      constructor <;> linarith
    · cases h

/-- The rounding of a finite value to an integer, and whether it is inexact (R40). -/
theorem roundToInt_spec (rm : Rm) (neg : Bool) (m : Nat) (e : Int) :
    RoundedToInt rm (signQ neg * m * 2 ^ e) (roundToInt rm neg m e).1 ∧
      ((roundToInt rm neg m e).2 = true ↔ ((roundToInt rm neg m e).1 : ℚ) ≠ signQ neg * m * 2 ^ e) := by
  have hden := ratOf_den_pos (m := m) (e := e) one_pos
  have hx := ratOf_div m e 1
  unfold roundToInt
  extract_lets q n r n'
  have hq : (0 : ℚ) < q.2 := by exact_mod_cast hden
  have hr : (r : ℚ) < q.2 := by exact_mod_cast Nat.mod_lt _ hden
  have hp : Picks rm neg n n' (r / q.2) 1 := by
    simpa using picks_of_roundsUp rm neg n r hden one_pos
  have hd : (0 : ℚ) ≤ r / q.2 := by positivity
  have hu : (r : ℚ) / q.2 < 1 := (div_lt_one hq).mpr hr
  have ha : (m : ℚ) * 2 ^ e = n + r / q.2 := by
    rw [Nat.cast_one, div_one] at hx
    rw [← hx, div_eq_iff hq.ne', add_mul, div_mul_cancel₀ _ hq.ne']
    exact_mod_cast (Nat.div_add_mod' q.1 q.2).symm
  have hz : (r : ℚ) / q.2 = 0 ↔ r = 0 := by simp [hq.ne']
  have hex := hp.exact_iff hu hd
  rw [mul_one, mul_one, hz] at hex
  rw [mul_assoc, ha]
  cases neg with
  | false =>
    simp only [signQ, Bool.false_eq_true, if_false, one_mul]
    exact ⟨hp.roundedToInt_pos hd hu, by simp [hex]⟩
  | true =>
    simp only [signQ, if_true, neg_mul, one_mul]
    refine ⟨.neg ((picks_flip.mp hp).roundedToInt_pos hd hu), ?_⟩
    rw [bne_iff_ne, ne_eq, ne_eq, ← hex]
    push_cast
    rw [neg_inj]

/-! ### Conversions (R38 to R42) -/

theorem decodeFloat_eq {f : Fmt} (hf : f.isFloat) (env : NumEnv) {b : Nat} (hb : b < 2 ^ f.width) :
    decodeFloat env f b = if isSubnormalBits f b = true ∧ (if f = .fp32 then env.ftz32 else env.ftzn) = true
      then .fin (b / 2 ^ (f.width - 1) == 1) 0 0 else FVal.ofBits f b := by
  have hw := spec_width hf
  have h1 : b / 2 ^ (f.spec.ebits + f.spec.fbits) < 2 := Nat.div_lt_of_lt_mul (by rw [hw] at hb; rwa [← Nat.pow_succ])
  rw [hw, Nat.add_sub_cancel]
  unfold decodeFloat
  simp only [Nat.mod_eq_of_lt h1, Bool.and_eq_true, beq_iff_eq, and_comm]

theorem intOfBits_eq {f : Fmt} {b : Nat} (hb : b < 2 ^ f.width) :
    intOfBits f b = if f ∈ [Fmt.int32, .int16, .int8, .int4] ∧ 2 ^ (f.width - 1) ≤ b then (b : Int) - 2 ^ f.width else b := by
  have hs : f.isSigned = true ↔ f ∈ [Fmt.int32, .int16, .int8, .int4] := by cases f <;> decide
  unfold intOfBits
  simp only [Nat.mod_eq_of_lt hb, Bool.and_eq_true, decide_eq_true_eq, hs]

theorem minInt_eq (g : Fmt) : g.minInt = if g ∈ [Fmt.int32, .int16, .int8, .int4] then -2 ^ (g.width - 1) else 0 := by
  cases g <;> rfl
theorem maxInt_eq (g : Fmt) :
    g.maxInt = if g ∈ [Fmt.int32, .int16, .int8, .int4] then 2 ^ (g.width - 1) - 1 else 2 ^ g.width - 1 := by
  cases g <;> rfl

theorem roundTo_zero (env : NumEnv) (f : Fmt) (rm : Rm) (sat : Bool) (e : Int) : roundTo env f rm sat (.fin false 0 e) = (0, 0) := by
  unfold roundTo ftzOut
  simp [ratOf, roundRat, packBits_zero, signBit, isSubnormalBits]

theorem floatToInt_fin (g : Fmt) (rm : Rm) (neg : Bool) (m : Nat) (e : Int) :
    ∃ z : Int, RoundedToInt rm (signQ neg * m * 2 ^ e) z ∧ floatToInt g rm (.fin neg m e) =
      let nx : Fl := if (z : ℚ) = signQ neg * m * 2 ^ e then 0 else 0x10
      if z < g.minInt then (bitsOfInt g.width g.minInt, nx ||| 1)
      else if g.maxInt < z then (bitsOfInt g.width g.maxInt, nx ||| 1)
      else (bitsOfInt g.width z, nx) := by
  obtain ⟨h1, h2⟩ := roundToInt_spec rm neg m e
  refine ⟨_, h1, ?_⟩
  have hnx : flIf (roundToInt rm neg m e).2 flNX =
      if ((roundToInt rm neg m e).1 : ℚ) = signQ neg * m * 2 ^ e then 0 else 0x10 := by
    by_cases h : ((roundToInt rm neg m e).1 : ℚ) = signQ neg * m * 2 ^ e
    · rw [if_pos h, Bool.eq_false_iff.mpr fun h' => h2.mp h' h]; rfl
    · rw [if_neg h, h2.mpr h]; rfl
  simp only [floatToInt, hnx]
  rfl

theorem intToInt_eq (g : Fmt) (sat : Bool) (i : Int) :
    (g.minInt ≤ i → i ≤ g.maxInt → intToInt g sat i = (bitsOfInt g.width i, 0)) ∧
    (i < g.minInt → intToInt g sat i = if sat = true then (bitsOfInt g.width g.minInt, 4) else (bitsOfInt g.width i, 0)) ∧
    (g.maxInt < i → intToInt g sat i = if sat = true then (bitsOfInt g.width g.maxInt, 4) else (bitsOfInt g.width i, 0)) := by
  have hmm : g.minInt ≤ g.maxInt := by cases g <;> decide
  unfold intToInt
  refine ⟨fun h1 h2 => if_pos ⟨h1, h2⟩, fun h => ?_, fun h => ?_⟩
  · rw [if_neg (by omega), if_pos h]; rfl
  · rw [if_neg (by omega), if_neg (not_lt.mpr (hmm.trans h.le))]; rfl

section
variable {f g : Fmt} (env : NumEnv) (rm : Rm) (sat : Bool) {b : Nat} (hne : f ≠ g)
include hne

theorem convert_float_float (hf : f.isFloat) (hg : g.isFloat) : convert env f g rm sat b = roundTo env g rm sat (decodeFloat env f b) := by
  simp [convert, hne, hf, hg, convFloat]
theorem convert_float_int (hf : f.isFloat) (hg : g.isFloat = false) : convert env f g rm sat b = floatToInt g rm (decodeFloat env f b) := by
  simp [convert, hne, hf, hg]
theorem convert_int_float (hf : f.isFloat = false) (hg : g.isFloat) :
    convert env f g rm sat b = roundTo env g rm sat (FVal.ofInt (intOfBits f b)) := by
  simp [convert, hne, hf, hg]
theorem convert_int_int (hf : f.isFloat = false) (hg : g.isFloat = false) : convert env f g rm sat b = intToInt g sat (intOfBits f b) := by
  simp [convert, hne, hf, hg]
end

/-! ### The statement's terms -/

section
variable {f : Fmt} {b fr : Nat} {neg : Bool}

/-- R23 for exponent field zero. -/
theorem isVal_exp_zero (hfr : fr < 2 ^ f.spec.fbits) (hb : b = encode f.spec neg 0 fr) (hk : ¬ (f.isK = true ∧ b = 0x80)) :
    IsVal (FVal.ofBits f b) neg (signQ neg * (fr / 2 ^ f.spec.fbits) * 2 ^ (1 - f.spec.bias)) := by
  have h := isVal_subnormal (neg := neg) hfr fun ⟨h, hn, h0⟩ => hk ⟨h, by
    subst hn h0
    rw [hb]
    revert h
    cases f <;> decide⟩
  rw [← hb, FSpec.minExp, zpow_sub₀ two_ne_zero, zpow_natCast] at h
  convert h using 1
  ring

/-- R23 for the other exponent fields of finite values. -/
theorem isVal_exp_pos {e : Nat} (he : e < 2 ^ f.spec.ebits) (hfr : fr < 2 ^ f.spec.fbits) (hb : b = encode f.spec neg e fr) (h0 : e ≠ 0)
    (htop : f.spec.inf = true → e ≠ 2 ^ f.spec.ebits - 1) :
    IsVal (FVal.ofBits f b) neg (signQ neg * (1 + fr / 2 ^ f.spec.fbits) * 2 ^ ((e : Int) - f.spec.bias)) := by
  have h := isVal_normal (neg := neg) he hfr h0 htop
  rw [← hb, zpow_sub₀ two_ne_zero, zpow_natCast] at h
  convert h using 1
  push_cast
  field_simp

/-- R23 for the largest exponent field of a format with infinities. -/
theorem ofBits_exp_top (hfr : fr < 2 ^ f.spec.fbits) (hb : b = encode f.spec neg (2 ^ f.spec.ebits - 1) fr)
    (hk : f.isK = false) (hi : f.spec.inf = true) : FVal.ofBits f b = if fr = 0 then .inf neg else .nan := by
  have he : 2 ^ f.spec.ebits - 1 ≠ 0 := by cases f <;> decide
  have hlt : 2 ^ f.spec.ebits - 1 < 2 ^ f.spec.ebits := Nat.sub_lt (Nat.two_pow_pos _) one_pos
  rw [hb, ofBits_encode hlt hfr, if_neg (by simp [hk]), if_neg (by simpa using he), if_pos (by simp [hi])]
  simp only [beq_iff_eq]

end

theorem maxExp_eq {f : Fmt} (hf : f.isFloat) :
    (2 : Int) ^ f.spec.ebits - (if f = .k8 ∨ f = .k8w then 1 else 2) - f.spec.bias = f.spec.maxExp := by
  revert hf
  cases f <;> decide

theorem overflowBits_k {f : Fmt} (hk : f.isK = true) (rm : Rm) (neg : Bool) : overflowBits f rm false neg = (0x80, 0x34) := by
  simp only [overflowBits, hk, if_true, Bool.false_eq_true, if_false]
  rfl
/-- Overflow of a format with infinities (R37). -/
theorem overflowBits_inf {f : Fmt} (hk : f.isK = false) (rm : Rm) (neg : Bool) : overflowBits f rm false neg =
    match rm with
    | .rne => (infBits f + signBit f neg, 0x34)
    | .rna => (infBits f + signBit f neg, 0x34)
    | .rtz => (maxFinite f + signBit f neg, 0x14)
    | .rup => if neg = true then (maxFinite f + signBit f neg, 0x14) else (infBits f + signBit f neg, 0x34)
    | .rdn => if neg = true then (infBits f + signBit f neg, 0x34) else (maxFinite f + signBit f neg, 0x14) := by
  simp only [overflowBits, hk, Bool.false_eq_true, if_false]
  cases rm <;> rfl

end Sys2Proof.Machine

open Sys2Proof Sys2Proof.Machine in
/-- Settles O60: the value of an encoding by its fields, ROUND of a finite value within the range and beyond it, and the four rules of
conversion. -/
theorem numbersAndConversions : Obligations.NumbersAndConversions := by
  unfold Obligations.NumbersAndConversions
  intro floats ints fields isK sign isVal
  have hfl : ∀ f ∈ floats, f.isFloat = true := by decide
  have hin : ∀ f ∈ ints, f.isFloat = false := by decide
  have hfields : ∀ f ∈ floats, fields f = (f.spec.fbits, f.spec.ebits, f.spec.bias) := by decide
  have hK : ∀ f, isK f ↔ f.isK = true := fun f => by cases f <;> simp [isK, Fmt.isK]
  refine ⟨fun f hf b hb => ?_, ?_, ?_⟩
  · have hf' := hfl f hf
    rw [hfields f hf]
    intro fw ew bias neg e fr
    have hneg : neg = (b / 2 ^ (f.spec.ebits + f.spec.fbits) == 1) := by rw [Nat.add_comm]
    have hb' : b = encode f.spec neg e fr := by rw [hneg]; exact encode_fields (spec_width hf' ▸ hb)
    have he : e < 2 ^ ew := Nat.mod_lt _ (Nat.two_pow_pos _)
    have hfr : fr < 2 ^ fw := Nat.mod_lt _ (Nat.two_pow_pos _)
    have hinf := spec_inf hf'
    rw [hK]
    refine ⟨fun hk h => ?_, fun h hk => ?_, fun h0 htop => ?_, fun h hk => ?_⟩
    · subst h
      revert hk
      cases f <;> decide
    · exact isVal_exp_zero hfr (h ▸ hb') hk
    · exact isVal_exp_pos he hfr hb' h0 fun hi => htop.resolve_right fun hk => by rw [hi, hk] at hinf; cases hinf
    · have hk : f.isK = false := by simpa using hk
      exact ofBits_exp_top hfr (h ▸ hb') hk (by rw [hinf, hk]; rfl)
  · intro f hf env rm sat neg m e henv
    rw [hfields f hf]
    intro fw ew bias v top largest unit r rep mx inf
    have hf' := hfl f hf
    have htop : top = f.spec.maxExp := maxExp_eq hf'
    have hlargest : largest = f.spec.largest := by unfold largest; rw [htop]; rfl
    have hunit : unit = f.spec.topUnit := by unfold unit; rw [htop]; rfl
    have hmx : mx = maxFinite f + signBit f neg := by
      unfold mx
      rw [Nat.add_comm (maxFinite f), signBit]
      congr 1
      clear * - hf'
      revert hf'
      cases f <;> decide
    have hinf : f.isK = false → inf = infBits f + signBit f neg := fun hk => by
      unfold inf
      rw [Nat.add_comm (infBits f), signBit]
      congr 1
      clear * - hf' hk
      revert hf' hk
      cases f <;> decide
    rw [hK]
    clear_value largest unit mx inf
    subst hlargest hunit hmx
    have hover (ha : Away f.spec rm neg |v|) : r = overflowBits f rm sat neg := roundTo_away henv rm sat neg m e ha
    clear_value top
    refine ⟨fun h => ?_, fun h ha => ?_, fun ha hs => ?_, fun ha hs hk => ?_, fun ha hs hk => ?_⟩
    · obtain ⟨y, hrep, hsel, hzero, heq, hne⟩ := roundTo_within hf' henv rm sat neg m e h
      refine ⟨y, hrep, ?_, fun h0 hk => hzero h0 (by simpa using hk), heq, hne⟩
      cases rm with
      | rtz => exact ⟨hsel.1, hsel.2.1, fun b z hz => hsel.2.2 z ⟨b, hz⟩⟩
      | rup | rdn => exact ⟨hsel.1, fun b z hz => hsel.2 z ⟨b, hz⟩⟩
      | rne | rna => exact fun b z hz => hsel z ⟨b, hz⟩
    · exact roundTo_largest hf' henv rm sat neg m e h fun h' => ha (by cases rm <;> exact h')
    · rw [hover (by cases rm <;> exact ha), hs]
      rfl
    · rw [hover (by cases rm <;> exact ha), hs]
      exact overflowBits_k hk rm neg
    · have hk : f.isK = false := by simpa using hk
      rw [hover (by cases rm <;> exact ha), hs, overflowBits_inf hk, ← hinf hk]
      cases rm with
      | rne | rna | rtz => rfl
      | rup | rdn => cases neg <;> rfl
  · intro f g env rm sat b hne hb into v i lo hi bits
    have hlo : lo = g.minInt := (minInt_eq g).symm
    have hhi : hi = g.maxInt := (maxInt_eq g).symm
    have hi' : i = intOfBits f b := (intOfBits_eq hb).symm
    have hbits : ∀ z, bits z = bitsOfInt g.width z := fun _ => rfl
    have hindex : ∀ f, f ∈ ints ∨ f = .ix4 ∨ f = .ix8 → f.isFloat = false := by
      rintro f (h | rfl | rfl)
      exacts [hin f h, rfl, rfl]
    refine ⟨fun hf hg => ?_, fun hf hg => ?_, fun hf hg => ?_, fun hf hg => ?_⟩
    · have hinto : into = roundTo env g rm sat v :=
        (convert_float_float env rm sat hne (hfl f hf) (hfl g hg)).trans (congrArg _ (decodeFloat_eq (hfl f hf) env hb))
      clear_value v
      rw [hinto]
      refine ⟨fun h => ?_, fun neg h => ?_, fun neg m e h => by rw [h]⟩
      · subst h
        cases g <;> rfl
      · subst h
        simp only [floats, List.mem_cons, List.not_mem_nil, or_false] at hg
        rcases hg with rfl | rfl | rfl | rfl | rfl <;> cases neg <;> cases sat <;> rfl
    · have hinto : into = floatToInt g rm v :=
        (convert_float_int env rm sat hne (hfl f hf) (hin g hg)).trans (congrArg _ (decodeFloat_eq (hfl f hf) env hb))
      clear_value v lo hi bits
      rw [hinto]
      refine ⟨fun h => ?_, fun neg h => ?_, fun neg m e h => ?_⟩
      · rw [h]; rfl
      · rw [h, hlo, hhi, hbits]; rfl
      · intro x
        obtain ⟨z, hz, heq⟩ := floatToInt_fin g rm neg m e
        refine ⟨z, ?_, fun hx => ?_, fun hx => ?_⟩
        · cases rm <;> exact hz
        · have hx : (z : ℚ) = signQ neg * m * 2 ^ e := hx
          simp only [h, heq, if_pos hx, hlo, hhi, hbits]; rfl
        · have hx : ¬ (z : ℚ) = signQ neg * m * 2 ^ e := hx
          simp only [h, heq, if_neg hx, hlo, hhi, hbits]; rfl
    · have hinto := convert_int_float env rm sat (b := b) hne (hin f hf) (hfl g hg)
      rw [← hi'] at hinto
      exact ⟨hinto, fun h => by rw [h] at hinto; exact hinto.trans (roundTo_zero ..)⟩
    · have hinto : into = intToInt g sat i := by rw [hi']; exact convert_int_int env rm sat hne (hindex f hf) (hindex g hg)
      rw [hinto, hlo, hhi]
      simp only [hbits]
      exact intToInt_eq g sat i

end

section

/-! # What reset leaves (O59)

One lemma per kind of value that reads through an accessor: a context, a tile row, a token counter, the mode of a bank, the state
of a channel end. What is a field of the state at reset is read off its definition. -/

set_option Elab.async false

namespace Sys2Proof.Machine

@[simp] theorem State.reset_core (k : Fin 128) : State.reset.core k = .reset := by simp [State.core, State.reset]
@[simp] theorem State.reset_quad (q : Fin 32) : State.reset.quad q = .reset := by simp [State.quad, State.reset]
@[simp] theorem State.reset_ctx (k : Fin 128) (c : CtxId) : State.reset.ctx k c = .reset := by
  cases c <;> simp [State.ctx, Core.ctx, Core.reset]

/-- The general registers read 0 at reset (R62). -/
theorem Ctx.reset_getX (r : Fin 32) : Ctx.reset.getX r = 0 := by simp [Ctx.getX, Ctx.reset]

/-- Of the predicates only p0 reads true at reset (R62). -/
theorem Ctx.reset_getP (r : Fin 8) : Ctx.reset.getP r = (r == 0) := by
  revert r
  decide

/-- A run of bytes that nothing has written has the value 0. -/
theorem leNum_sgetRun_nil (a n : Nat) : leNum (sgetRun (0 : Byte) [] a n) = 0 := by
  induction n generalizing a with
  | zero => rfl
  | succ n ih =>
    rw [sgetRun, leNum, ih]
    rfl

/-- The tiles are zero at reset (R63). -/
theorem Core.reset_rowBits (t row : Nat) : Core.reset.rowBits t row = 0 := leNum_sgetRun_nil ..

/-- Every token counter is zero at reset (R70). -/
theorem Core.reset_getTok (p q : Nat) : Core.reset.getTok p q = 0 := by simp [Core.getTok, Core.reset]

/-- Every bank is in cache mode at reset (R284). -/
theorem Quad.reset_bankMode (b : Nat) : Quad.reset.bankMode b = 0 := by simp [Quad.bankMode, Quad.reset, bitsNat]

/-- Every channel end is idle at reset (R363). -/
theorem Fabric.reset_channels (n : Fin 32) : Fabric.reset.channels[n].state = .idle := by
  simp [Fabric.reset, ChEnd.reset]

end Sys2Proof.Machine

open Sys2Proof.Machine in
/-- Settles O59: cores, quads and contexts at reset by their accessors, everything else by the definition of the state at reset. -/
theorem resetState : Obligations.ResetState := by
  unfold Obligations.ResetState
  refine ⟨fun k c => ?ctx, fun k => ?core, fun q => ?quad, fun q => rfl, rfl, rfl, Fabric.reset_channels, rfl, rfl, rfl, rfl, rfl,
    rfl, fun r => rfl, rfl, rfl, rfl, rfl, rfl, rfl, rfl, rfl⟩
  case ctx =>
    rw [State.reset_ctx]
    exact ⟨Ctx.reset_getX, Ctx.reset_getP⟩
  case core =>
    rw [State.reset_core]
    have constant {n : Nat} {α : Type} (v : α) (r : Fin n) : (Vector.replicate n v)[r] = v := by simp
    exact ⟨constant 0, Core.reset_rowBits, constant 0, fun _ _ _ => rfl, constant _, fun _ => rfl, constant 0,
      fun p q _ _ => Core.reset_getTok p q, rfl, rfl⟩
  case quad =>
    rw [State.reset_quad]
    exact ⟨fun b _ => Quad.reset_bankMode b, rfl⟩

end

section

/-! # Words whose guard fails (O3)

Every word with a guard runs a body under `ctl` (R74). Each shared operation of the control core is such a run, so each word is. -/

set_option Elab.async false

namespace Sys2Proof.Machine

open Sys2Proof.Safety

/-- An answer is that of some body under a guard. -/
def UnderGuard (s : State) (g : Guard) (o : Out) : Prop := ∃ body : Fin 128 → CtxId → Ctx → Out, o = ctl s g body

variable {s : State} {g : Guard}

theorem ctl_underGuard {body : Fin 128 → CtxId → Ctx → Out} : UnderGuard s g (ctl s g body) := ⟨_, rfl⟩
theorem ctlX_underGuard {rd f} : UnderGuard s g (ctlX s g rd f) := ctl_underGuard
theorem ctlP_underGuard {pd f} : UnderGuard s g (ctlP s g pd f) := ctl_underGuard
theorem aluR_underGuard {f rd ra rb} : UnderGuard s g (aluR f g rd ra rb s) := ctlX_underGuard
theorem aluR1_underGuard {f rd ra} : UnderGuard s g (aluR1 f g rd ra s) := ctlX_underGuard
theorem aluI_underGuard {f rd ra imm} : UnderGuard s g (aluI f g rd ra imm s) := ctlX_underGuard
theorem loadWord_underGuard {size ext rd ra cls imm} : UnderGuard s g (loadWord size ext g rd ra cls imm s) := ctl_underGuard
theorem storeWord_underGuard {size rs ra cls imm} : UnderGuard s g (storeWord size g rs ra cls imm s) := ctl_underGuard
theorem feAccess_underGuard {ra cls imm body} : UnderGuard s g (feAccess s g ra cls imm body) := ctl_underGuard
theorem rangeOp_underGuard {ra rb wb drop} : UnderGuard s g (rangeOp g ra rb wb drop s) := ctl_underGuard
theorem fence_underGuard {has f} : UnderGuard s g (fence g has f s) := ctl_underGuard
theorem atomic_underGuard {op ra rb cls dbl exp ret} : UnderGuard s g (atomic op g ra rb cls dbl exp s ret) := ctl_underGuard
theorem amo_underGuard {op rd ra rb cls dbl} : UnderGuard s g (amo op g rd ra rb cls dbl s) := atomic_underGuard
theorem red_underGuard {op ra rb cls dbl} : UnderGuard s g (red op g ra rb cls dbl s) := atomic_underGuard
theorem queueOp_underGuard {ra cls f} : UnderGuard s g (queueOp g ra cls s f) := ctl_underGuard
theorem ringOp_underGuard {n consumer f} : UnderGuard s g (ringOp g n consumer s f) := ctl_underGuard
theorem barrier_underGuard {sc body} : UnderGuard s g (barrier s g sc body) := ctl_underGuard
theorem trmDo_underGuard {f} : UnderGuard s g (trmDo g s f) := ctl_underGuard

/-- Every word that has a guard runs under it (R74). -/
theorem exec_underGuard {i : Instr} (h : guardOf i = some g) (s : State) : UnderGuard s g (exec i s) := by
  cases i with
  | add | sub | and | or | xor | sll | srl | sra | mul | mulh | mulhu | div | divu | rem | remu | min | max | minu | maxu | andn =>
    cases h
    simp only [exec_add, exec_sub, exec_and, exec_or, exec_xor, exec_sll, exec_srl, exec_sra, exec_mul, exec_mulh,
      exec_mulhu, exec_div, exec_divu, exec_rem, exec_remu, exec_min, exec_max, exec_minu, exec_maxu, exec_andn]
    exact aluR_underGuard
  | clz | popc =>
    cases h
    simp only [exec_clz, exec_popc]
    exact aluR1_underGuard
  | addi | andi | ori | xori =>
    cases h
    simp only [exec_addi, exec_andi, exec_ori, exec_xori]
    exact aluI_underGuard
  | slli | srli | srai | liu | addpc | sel =>
    cases h
    simp only [exec_slli, exec_srli, exec_srai, exec_liu, exec_addpc, exec_sel]
    exact ctlX_underGuard
  | cmp | cmpi | plog =>
    cases h
    simp only [exec_cmp, exec_cmpi, exec_plog]
    exact ctlP_underGuard
  | br | jal | jalr | invi | fork | join | sete | gete | twait | tpost | setts | getts | movs | movts | trap | yield | done =>
    cases h
    simp only [exec_br, exec_jal, exec_jalr, exec_invi, exec_fork, exec_join, exec_sete, exec_gete, exec_twait, exec_tpost,
      exec_setts, exec_getts, exec_movs, exec_movts, exec_trap, exec_yield, exec_done]
    exact ctl_underGuard
  | ldb | ldh | ldw | ldd | ldbu | ldhu | ldwu =>
    cases h
    simp only [exec_ldb, exec_ldh, exec_ldw, exec_ldd, exec_ldbu, exec_ldhu, exec_ldwu]
    exact loadWord_underGuard
  | stb | sth | stw | std =>
    cases h
    simp only [exec_stb, exec_sth, exec_stw, exec_std]
    exact storeWord_underGuard
  | ldfeW | ldfeE | ldfeN | stfeF | stfeWe | feqQ | feqClr | feqSet =>
    cases h
    simp only [exec_ldfeW, exec_ldfeE, exec_ldfeN, exec_stfeF, exec_stfeWe, exec_feqQ, exec_feqClr, exec_feqSet]
    exact feAccess_underGuard
  | invr | wbr | wbinvr =>
    cases h
    simp only [exec_invr, exec_wbr, exec_wbinvr]
    exact rangeOp_underGuard
  | fenceCls | fenceRel | fenceAcq | fenceAr =>
    cases h
    simp only [exec_fenceCls, exec_fenceRel, exec_fenceAcq, exec_fenceAr]
    exact fence_underGuard
  | amoSwap | amoAdd | amoAnd | amoOr | amoXor | amoMin | amoMax | amoMinu | amoMaxu | amoFadd | amoCas =>
    cases h
    simp only [exec_amoSwap, exec_amoAdd, exec_amoAnd, exec_amoOr, exec_amoXor, exec_amoMin, exec_amoMax, exec_amoMinu,
      exec_amoMaxu, exec_amoFadd, exec_amoCas]
    exact amo_underGuard
  | redAdd | redAnd | redOr | redXor | redMin | redMax | redMinu | redMaxu | redFadd =>
    cases h
    simp only [exec_redAdd, exec_redAnd, exec_redOr, exec_redXor, exec_redMin, exec_redMax, exec_redMinu, exec_redMaxu,
      exec_redFadd]
    exact red_underGuard
  | qpush | qpop =>
    cases h
    simp only [exec_qpush, exec_qpop]
    exact queueOp_underGuard
  | racqP | racqC | rrelP | rrelC =>
    cases h
    simp only [exec_racqP, exec_racqC, exec_rrelP, exec_rrelC]
    exact ringOp_underGuard
  | barA | barW | barAw | barTry =>
    cases h
    simp only [exec_barA, exec_barW, exec_barAw, exec_barTry]
    exact barrier_underGuard
  | trmSend | trmIdle | trmBusy | trmTest =>
    cases h
    simp only [exec_trmSend, exec_trmIdle, exec_trmBusy, exec_trmTest]
    exact trmDo_underGuard
  | _ => cases h

end Sys2Proof.Machine

open Sys2Proof Sys2Proof.Machine in
/-- Settles O3: a word with a guard is a body under `ctl`, which passes where the guard fails. -/
theorem guardedWordPasses : Obligations.GuardedWordPasses := by
  unfold Obligations.GuardedWordPasses
  intro i s k c g hi hc hg
  obtain ⟨body, hb⟩ := exec_underGuard hi s
  rw [hb, ctl_passes hc hg]

end

section

/-! # A word that fills the granule on which its own context waits (O13)

FEQ.set satisfies every LDFE.w that waits on the granule (R200), that of the context which runs it among them: the state of a
context names the wait apart from its word, and nothing ties the two together. So where `waits` still names an LDFE.w of x1
while the context runs a FEQ.set on its granule, the word writes x1, which it does not name. -/

set_option Elab.async false

namespace Sys2Proof.Machine

open Sys2Proof.Safety

/-- Offset 0 of the scratchpad of the core's own quad. -/
def padStart : W64 := 0xFE00000000000000

/-- CP of core 0 has `padStart` in x2 and waits there, by an LDFE.w of x1. -/
def waitingCtx : Ctx := { Ctx.reset.setX 2 padStart with waits := some (.load 0 0 padStart 1) }

/-- Bank 0 of quad 0 is in scratchpad mode, byte 0 of it is 1 and its granule empty; CP of core 0 runs and is `waitingCtx`. -/
def waitingState : State :=
  let s := { State.reset with cur := .context 0 .cp }
  ((s.setMem { s.mem with cells := [(sramFlat 0 0, 1)] }).setQuad 0 { Quad.reset with mode := 1 }).setCtx 0 .cp waitingCtx

/-- FEQ.set of the granule at x2. -/
def fillOwnGranule : Instr := .feqSet { gs := false, gp := 0 } 2 0 0

/-- The word answers a state in which x1 is 1. -/
theorem fillOwnGranule_writes : ∃ t, exec fillOwnGranule waitingState = .next t ∧ (t.ctx 0 .cp).getX 1 = 1 := by
  have h : (match exec fillOwnGranule waitingState with
    | .next t => (t.ctx 0 .cp).getX 1
    | _ => 0) = 1 := by decide +kernel
  split at h
  case h_1 t ht => exact ⟨t, ht, h⟩
  case h_2 => cases h

theorem waitingState_x1 : (waitingState.ctx 0 .cp).getX 1 = 0 := by decide +kernel

end Sys2Proof.Machine

open Sys2Proof.Machine Sys2Proof.Safety in
/-- Refutes O13: in `waitingState` the word `fillOwnGranule`, which names no destination, changes x1 of the context that runs it. -/
theorem not_controlWordFrame : ¬ Obligations.ControlWordFrame := by
  unfold Obligations.ControlWordFrame
  rintro ⟨hregs, -, -⟩
  obtain ⟨t, ht, hx⟩ := fillOwnGranule_writes
  obtain ⟨-, hkeeps, -⟩ := hregs fillOwnGranule waitingState t 0 .cp rfl rfl ht
  have h : (1 : BitVec 64) = 0 := hx.symm.trans ((hkeeps 1 nofun).trans waitingState_x1)
  exact absurd h (by decide)

end

section

/-! # Token counters (R70)

What consuming and posting tokens answers, what the counters then are, and that nothing else of the core changes. -/

set_option Elab.async false

namespace Sys2Proof.Machine

/-- One token of each counter (x, self) is taken. -/
def Core.subToks (c : Core) (self : Nat) (srcs : List Nat) : Core := srcs.foldl (fun d x => d.subTok x self) c
/-- One token goes to each counter (self, x). -/
def Core.addToks (c : Core) (self : Nat) (dsts : List Nat) : Core := dsts.foldl (fun d x => d.addTok self x) c

theorem Core.consume_eq_some {c : Core} {self : Nat} {srcs : List Nat} (h : ∀ x ∈ srcs, c.getTok x self ≠ 0) :
    c.consume self srcs = some (c.subToks self srcs) := if_pos (by simpa using h)

theorem Core.consume_eq_none {c : Core} {self x : Nat} {srcs : List Nat} (hx : x ∈ srcs) (h : c.getTok x self = 0) :
    c.consume self srcs = none := if_neg (by simpa using ⟨x, hx, h⟩)

theorem Core.consume_inv {c d : Core} {self : Nat} {srcs : List Nat} (h : c.consume self srcs = some d) :
    d = c.subToks self srcs := by
  unfold Core.consume at h
  split at h
  · exact (Option.some.inj h).symm
  · cases h

theorem Core.post_eq_ok {c : Core} {self : Nat} {dsts : List Nat} (h : ∀ x ∈ dsts, c.getTok self x ≠ 15) :
    c.post self dsts = .ok (c.addToks self dsts) := by
  have hn : (dsts.find? fun x => c.getTok self x == 15) = none := by simpa using h
  rw [Core.post, hn]
  rfl

/-- The fault names the first agent of the list whose counter is full. -/
theorem Core.post_eq_error {c : Core} {self x : Nat} {before after : List Nat} (h : c.getTok self x = 15)
    (hb : ∀ y ∈ before, c.getTok self y ≠ 15) : c.post self (before ++ x :: after) = .error x := by
  have hn : (before.find? fun y => c.getTok self y == 15) = none := by simpa using hb
  have hf : ((before ++ x :: after).find? fun y => c.getTok self y == 15) = some x := by
    rw [List.find?_append, hn, List.find?_cons, h]
    rfl
  rw [Core.post, hf]

theorem Core.subToks_eq (c : Core) (self : Nat) (srcs : List Nat) : c.subToks self srcs = { c with tok := (c.subToks self srcs).tok } :=
  foldl_keep (fun d : Core => d = { c with tok := d.tok }) _ srcs c rfl fun d x _ hd => by rw [hd]; rfl

theorem Core.addToks_eq (c : Core) (self : Nat) (dsts : List Nat) : c.addToks self dsts = { c with tok := (c.addToks self dsts).tok } :=
  foldl_keep (fun d : Core => d = { c with tok := d.tok }) _ dsts c rfl fun d x _ hd => by rw [hd]; rfl

theorem Core.subToks_eng (c : Core) (self : Nat) (srcs : List Nat) (e : Engine) : (c.subToks self srcs).eng e = c.eng e := by
  rw [Core.subToks_eq]
  cases e <;> rfl
theorem Core.subToks_ctx (c : Core) (self : Nat) (srcs : List Nat) (j : CtxId) : (c.subToks self srcs).ctx j = c.ctx j := by
  rw [Core.subToks_eq]
  cases j <;> rfl
theorem Core.addToks_eng (c : Core) (self : Nat) (dsts : List Nat) (e : Engine) : (c.addToks self dsts).eng e = c.eng e := by
  rw [Core.addToks_eq]
  cases e <;> rfl

/-! ### The counters -/

/-- Different agents have different counters. -/
theorem tokIx_inj {p q p' q' : Nat} (hp : p < 4) (hq : q < 4) (hp' : p' < 4) (hq' : q' < 4) :
    tokIx p q = tokIx p' q' ↔ p = p' ∧ q = q' := by
  simp only [tokIx, Fin.ext_iff, Fin.val_ofNat]
  omega

theorem Core.getTok_lt (c : Core) (p q : Nat) : c.getTok p q < 16 := BitVec.isLt _

theorem Core.getTok_addTok (c : Core) {self x p q : Nat} (hs : self < 4) (hx : x < 4) (hp : p < 4) (hq : q < 4)
    (h : c.getTok self x ≠ 15) : (c.addTok self x).getTok p q = if p = self ∧ q = x then c.getTok p q + 1 else c.getTok p q := by
  have hlt := c.getTok_lt self x
  split
  case isTrue he =>
    obtain ⟨rfl, rfl⟩ := he
    simp only [Core.getTok, Core.addTok, Fin.getElem_fin, Vector.getElem_set_self, BitVec.toNat_add] at h hlt ⊢
    simp
    omega
  case isFalse he =>
    have hi : ¬ ((tokIx self x).val = (tokIx p q).val) := fun e => he (by
      obtain ⟨rfl, rfl⟩ := (tokIx_inj hs hx hp hq).mp (Fin.ext e)
      exact ⟨rfl, rfl⟩)
    simp only [Core.getTok, Core.addTok, Fin.getElem_fin, Vector.getElem_set, if_neg hi]

theorem Core.getTok_subTok (c : Core) {self x p q : Nat} (hs : self < 4) (hx : x < 4) (hp : p < 4) (hq : q < 4)
    (h : c.getTok x self ≠ 0) : (c.subTok x self).getTok p q = if p = x ∧ q = self then c.getTok p q - 1 else c.getTok p q := by
  have hlt := c.getTok_lt x self
  split
  case isTrue he =>
    obtain ⟨rfl, rfl⟩ := he
    simp only [Core.getTok, Core.subTok, Fin.getElem_fin, Vector.getElem_set_self, BitVec.toNat_sub] at h hlt ⊢
    simp
    omega
  case isFalse he =>
    have hi : ¬ ((tokIx x self).val = (tokIx p q).val) := fun e => he (by
      obtain ⟨rfl, rfl⟩ := (tokIx_inj hx hs hp hq).mp (Fin.ext e)
      exact ⟨rfl, rfl⟩)
    simp only [Core.getTok, Core.subTok, Fin.getElem_fin, Vector.getElem_set, if_neg hi]

/-- Each counter that a post names rises by one, the others stay (R70). -/
theorem Core.getTok_addToks {self : Nat} (hs : self < 4) {p q : Nat} (hp : p < 4) (hq : q < 4) {l : List Nat} (hl : ∀ x ∈ l, x < 4)
    (hn : l.Nodup) {c : Core} (h : ∀ x ∈ l, c.getTok self x ≠ 15) :
    (c.addToks self l).getTok p q = if p = self ∧ q ∈ l then c.getTok p q + 1 else c.getTok p q := by
  induction l generalizing c with
  | nil => simp [Core.addToks]
  | cons x l ih =>
    simp only [List.mem_cons, forall_eq_or_imp, List.nodup_cons] at hl hn h
    obtain ⟨hx, hl⟩ := hl
    obtain ⟨hxl, hn⟩ := hn
    obtain ⟨h, hr⟩ := h
    have hne : ∀ y ∈ l, y ≠ x := fun y hy e => hxl (e ▸ hy)
    have hr' : ∀ y ∈ l, (c.addTok self x).getTok self y ≠ 15 := fun y hy => by
      rw [c.getTok_addTok hs hx hs (hl y hy) h, if_neg (fun e => hne y hy e.2)]
      exact hr y hy
    show ((c.addTok self x).addToks self l).getTok p q = _
    rw [ih hl hn hr', c.getTok_addTok hs hx hp hq h]
    by_cases hql : q ∈ l
    · simp [hql, hne q hql]
    · simp [hql]

/-- Each counter that a wait names falls by one, the others stay (R70). -/
theorem Core.getTok_subToks {self : Nat} (hs : self < 4) {p q : Nat} (hp : p < 4) (hq : q < 4) {l : List Nat} (hl : ∀ x ∈ l, x < 4)
    (hn : l.Nodup) {c : Core} (h : ∀ x ∈ l, c.getTok x self ≠ 0) :
    (c.subToks self l).getTok p q = if q = self ∧ p ∈ l then c.getTok p q - 1 else c.getTok p q := by
  induction l generalizing c with
  | nil => simp [Core.subToks]
  | cons x l ih =>
    simp only [List.mem_cons, forall_eq_or_imp, List.nodup_cons] at hl hn h
    obtain ⟨hx, hl⟩ := hl
    obtain ⟨hxl, hn⟩ := hn
    obtain ⟨h, hr⟩ := h
    have hne : ∀ y ∈ l, y ≠ x := fun y hy e => hxl (e ▸ hy)
    have hr' : ∀ y ∈ l, (c.subTok x self).getTok y self ≠ 0 := fun y hy => by
      rw [c.getTok_subTok hs hx (hl y hy) hs h, if_neg (fun e => hne y hy e.1)]
      exact hr y hy
    show ((c.subTok x self).subToks self l).getTok p q = _
    rw [ih hl hn hr', c.getTok_subTok hs hx hp hq h]
    by_cases hpl : p ∈ l
    · simp [hpl, hne p hpl]
    · simp [hpl, and_comm]

/-! ### The agents that a word names -/

theorem tokNum_lt (e : Engine) : tokNum e < 4 := by cases e <;> decide

/-- The agents of a token field are different, and agents. -/
theorem tokAgents_nodup (e : Engine) (f : Fin 8) : (tokAgents e f).Nodup ∧ ∀ q ∈ tokAgents e f, q < 4 := by
  cases e <;> revert f <;> decide

theorem mem_engSetAgents (m : EngSet) (x : Nat) :
    x ∈ engSetAgents m ↔ (x = 1 ∧ m.a = true) ∨ (x = 2 ∧ m.v = true) ∨ (x = 3 ∧ m.c = true) := by
  simp [engSetAgents, and_comm]

theorem mem_engSetEngines (m : EngSet) (x : Engine) :
    x ∈ engSetEngines m ↔ (x = .a ∧ m.a = true) ∨ (x = .v ∧ m.v = true) ∨ (x = .c ∧ m.c = true) := by
  simp [engSetEngines, and_comm]

theorem engSetAgents_sorted (m : EngSet) : (engSetAgents m).Pairwise (· < ·) := by
  obtain ⟨a, v, c⟩ := m
  cases a <;> cases v <;> cases c <;> decide

theorem engSetAgents_nodup (m : EngSet) : (engSetAgents m).Nodup := (engSetAgents_sorted m).imp Nat.ne_of_lt

theorem engSetAgents_lt (m : EngSet) {x : Nat} (h : x ∈ engSetAgents m) : x < 4 := by
  rw [mem_engSetAgents] at h
  omega

/-- A word names agents in rising order: of two that it names, the lower stands first. -/
theorem engSetAgents_split {m : EngSet} {x : Nat} (h : x ∈ engSetAgents m) :
    ∃ before after, engSetAgents m = before ++ x :: after ∧ ∀ y ∈ before, y < x ∧ y ∈ engSetAgents m := by
  obtain ⟨before, after, e⟩ := List.append_of_mem h
  refine ⟨before, after, e, fun y hy => ⟨?_, e ▸ List.mem_append_left _ hy⟩⟩
  have hs := engSetAgents_sorted m
  rw [e, List.pairwise_append] at hs
  exact hs.2.2 y hy x List.mem_cons_self

end Sys2Proof.Machine

end

section

/-! # Driving the engines from a context (O10)

What each of FORK, JOIN, SETE, GETE, SETTS, GETTS, TWAIT and TPOST answers where its guard holds (R211 to R215). -/

set_option Elab.async false

namespace Sys2Proof.Machine

open Sys2Proof.Safety

section
variable {s : State} {k : Fin 128} {c : CtxId} {g : Guard}

/-! ### FORK and JOIN (R211, R212) -/

/-- A FORK of a context may start the engine: no stream runs and no other context's FORK stands before it (R211). -/
def Eng.startsFor (y : Eng) (c : CtxId) : Prop := y.run = false ∧ (y.forks = [] ∨ ∃ r, y.forks = c :: r)

theorem Eng.startsFor_iff (y : Eng) (c : CtxId) : y.startsFor c ↔ (!y.run && (y.forks.head?.getD c == c)) = true := by
  cases h : y.forks <;> simp [Eng.startsFor, h]

theorem exec_fork_misaligned (h : Runs s k c g) {ra : Fin 32} {e : Engine} (ha : ((s.ctx k c).getX ra).toNat % 16 ≠ 0) :
    exec (.fork g ra e) s = .next (s.raiseCtx k c (.at .align ((s.ctx k c).getX ra))) := by
  rw [exec_fork, execFork, ctl_runs h]
  exact if_pos (by simpa [isAligned] using ha)

theorem exec_fork_aligned (h : Runs s k c g) {ra : Fin 32} {e : Engine} (ha : ((s.ctx k c).getX ra).toNat % 16 = 0) :
    exec (.fork g ra e) s =
      if !(s.eng k e).run && ((s.eng k e).forks.head?.getD c == c) then
        .next ((s.setEng k e ({ s.eng k e with forks := (s.eng k e).forks.filter (· != c) }.start ((s.ctx k c).getX ra) false)).advance k c)
      else if (s.eng k e).forks.contains c then .next s
      else .next (s.setEng k e { s.eng k e with forks := (s.eng k e).forks ++ [c] }) := by
  rw [exec_fork, execFork, ctl_runs h]
  exact if_neg (by simpa [isAligned] using ha)

theorem exec_join_go (h : Runs s k c g) {m : EngSet}
    (hm : ∀ x ∈ engSetEngines m, (s.eng k x).run = false ∧ (s.eng k x).forks = []) :
    exec (.join g m) s = .next (s.advance k c) := by
  rw [exec_join, execJoin, ctl_runs h]
  exact if_pos (by simpa using hm)

theorem exec_join_wait (h : Runs s k c g) {m : EngSet}
    (hm : ∃ x ∈ engSetEngines m, (s.eng k x).run = true ∨ (s.eng k x).forks ≠ []) : exec (.join g m) s = .next s := by
  obtain ⟨x, hx, hr⟩ := hm
  rw [exec_join, execJoin, ctl_runs h]
  refine if_neg fun hall => ?_
  have hf := List.all_eq_true.mp hall x hx
  simp only [Bool.and_eq_true, Bool.not_eq_true', List.isEmpty_iff] at hf
  rcases hr with hr | hr
  · exact absurd hf.1 (by simp [hr])
  · exact hr hf.2

/-! ### Shapes (R67, R215) -/

/-- A shape is bits [31:10] of the value over ten zero bits. -/
theorem tshapeOf_eq (v : W64) : tshapeOf v = (v.extractLsb' 10 22 ++ (0 : BitVec 10) : BitVec 32) := by
  refine BitVec.eq_of_getLsbD_eq fun i hi => ?_
  have hmask : ∀ i, i < 32 → (0xFFFFFC00#32).getLsbD i = decide (10 ≤ i) := by decide
  simp only [tshapeOf, BitVec.getLsbD_and, BitVec.getLsbD_setWidth, hmask i hi, BitVec.getLsbD_append, BitVec.getLsbD_extractLsb']
  by_cases h : i < 10
  · simp [h]
  · have h22 : i - 10 < 22 := by omega
    have hadd : 10 + (i - 10) = i := by omega
    simp [h, hi, h22, hadd]
    omega

/-! ### TWAIT (R214) -/

/-- Where no lower slot waits for tokens, lower slots leave the counters as they are. -/
theorem Core.afterLower_none {d : Core} {c : CtxId}
    (h : ∀ j, ctxAgent j < ctxAgent c → ∀ m, (d.ctx j).waits ≠ some (.tokens m)) : d.afterLower c = d := by
  refine foldl_keep (fun x : Core => x = d) _ _ d rfl fun x j hj hx => ?_
  have hlt : ctxAgent j < ctxAgent c := by simpa using (List.mem_filter.mp hj).2
  rw [hx, Core.takeFirst]
  split
  case h_1 m hm => exact absurd hm (h j hlt m)
  case h_2 => rfl

theorem exec_twait_eq (h : Runs s k c g) (m : EngSet) :
    exec (.twait g m) s =
      match ((s.core k).afterLower c).consume 0 (engSetAgents m), (s.core k).consume 0 (engSetAgents m) with
      | some _, some d => .next ((s.setCore k d).setCtx k c (d.ctx c).go.step)
      | _, _ => hold s k c (.tokens m) := by
  rw [exec_twait, execTwait]
  exact ctl_runs h _

/-- TWAIT takes its tokens where each counter named is nonzero and lower slots leave it so. -/
theorem exec_twait_takes (h : Runs s k c g) {m : EngSet} (hc : ∀ x ∈ engSetAgents m, (s.core k).getTok x 0 ≠ 0)
    (hl : ∀ x ∈ engSetAgents m, ((s.core k).afterLower c).getTok x 0 ≠ 0) :
    exec (.twait g m) s =
      .next ((s.setCore k ((s.core k).subToks 0 (engSetAgents m))).setCtx k c (s.ctx k c).go.step) := by
  rw [exec_twait_eq h, Core.consume_eq_some hl, Core.consume_eq_some hc]
  simp only [Core.subToks_ctx]
  rfl

theorem exec_twait_waits (h : Runs s k c g) {m : EngSet}
    (hx : ∃ x ∈ engSetAgents m, (s.core k).getTok x 0 = 0 ∨ ((s.core k).afterLower c).getTok x 0 = 0) :
    exec (.twait g m) s = hold s k c (.tokens m) := by
  obtain ⟨x, hx, h0⟩ := hx
  rw [exec_twait_eq h]
  rcases h0 with h0 | h0
  · rw [Core.consume_eq_none hx h0]
    split
    case h_1 he => cases he
    case h_2 => rfl
  · rw [Core.consume_eq_none hx h0]

/-! ### TPOST (R214) -/

theorem exec_tpost_stalls (h : Runs s k c g) {m : EngSet} (hs : (s.quad (quadOf k)).switching ≠ []) : exec (.tpost g m) s = .next s := by
  rw [exec_tpost, execTpost, ctl_runs h]
  exact if_pos (by simpa using hs)

theorem exec_tpost_eq (h : Runs s k c g) {m : EngSet} (hs : (s.quad (quadOf k)).switching = []) :
    exec (.tpost g m) s =
      match (s.core k).post 0 (engSetAgents m) with
      | .ok d => .next ((s.setCore k d).advance k c)
      | .error x => .next (s.raiseCtx k c ⟨.tokenOverflow, 0, tokInfo 0 x⟩) := by
  rw [exec_tpost, execTpost, ctl_runs h]
  exact if_neg (by simp [hs])

theorem exec_tpost_posts (h : Runs s k c g) {m : EngSet} (hs : (s.quad (quadOf k)).switching = [])
    (hc : ∀ x ∈ engSetAgents m, (s.core k).getTok 0 x ≠ 15) :
    exec (.tpost g m) s = .next ((s.setCore k ((s.core k).addToks 0 (engSetAgents m))).advance k c) := by
  rw [exec_tpost_eq h hs, Core.post_eq_ok hc]

/-- TPOST faults with the lowest agent whose counter is full. -/
theorem exec_tpost_overflow (h : Runs s k c g) {m : EngSet} {x : Nat} (hs : (s.quad (quadOf k)).switching = [])
    (hx : x ∈ engSetAgents m) (h15 : (s.core k).getTok 0 x = 15) (hb : ∀ y < x, y ∈ engSetAgents m → (s.core k).getTok 0 y ≠ 15) :
    exec (.tpost g m) s = .next (s.raiseCtx k c ⟨.tokenOverflow, 0, tokInfo 0 x⟩) := by
  obtain ⟨before, after, e, hlt⟩ := engSetAgents_split hx
  have hp := Core.post_eq_error (after := after) h15 fun y hy => hb y (hlt y hy).1 (hlt y hy).2
  rw [exec_tpost_eq h hs, e, hp]

end

end Sys2Proof.Machine

open Sys2Proof.Machine in
/-- Settles O10: each word takes the branch of its rule, and the counters that a TWAIT or a TPOST names change by one. -/
theorem drivingEnginesAndTokens : Obligations.DrivingEnginesAndTokens := by
  unfold Obligations.DrivingEnginesAndTokens
  refine ⟨?engines, ?tokens⟩
  case engines =>
    intro s k c g rd ra e en m t h a y named mine
    have hmine : mine ↔ (!y.run && (y.forks.head?.getD c == c)) = true := y.startsFor_iff c
    have hnamed : ∀ x, named x ↔ x ∈ engSetEngines m := fun x => by
      rw [mem_engSetEngines]
      cases x <;> simp [named]
    refine ⟨exec_fork_misaligned h, fun ha hm => ?starts, fun ha hm hc => ?stands, fun ha hm hc => ?queues,
      fun hj => exec_join_go h fun x hx => hj x ((hnamed x).mpr hx), fun ⟨x, hx, hr⟩ => exec_join_wait h ⟨x, (hnamed x).mp hx, hr⟩,
      by rw [exec_sete, execSete, ctl_runs h]; rfl, by rw [exec_gete, execGete, ctl_runs h], ?shape,
      by rw [exec_getts, execGetts, ctl_runs h]⟩
    case starts => exact (exec_fork_aligned h ha).trans (if_pos (hmine.mp hm))
    case stands =>
      rw [exec_fork_aligned h ha, if_neg (mt hmine.mpr hm), if_pos (List.contains_iff_mem.mpr hc)]
    case queues =>
      rw [exec_fork_aligned h ha, if_neg (mt hmine.mpr hm), if_neg (mt List.contains_iff_mem.mp hc)]
    case shape =>
      rw [exec_setts, execSetts, ctl_runs h, tshapeOf_eq]
  case tokens =>
    intro s k c g m h named core left
    have hnamed : ∀ x, named x ↔ x ∈ engSetAgents m := fun x => (mem_engSetAgents m x).symm
    simp only [hnamed]
    have hlt : ∀ x ∈ engSetAgents m, x < 4 := fun x => engSetAgents_lt m
    have hnd := engSetAgents_nodup m
    refine ⟨Core.afterLower_none, fun hc => ⟨_, exec_twait_takes h (fun x hx => (hc x hx).1) fun x hx => (hc x hx).2, Core.subToks_eq ..,
      fun x y hx hy => ?taken⟩, exec_twait_waits h, exec_tpost_stalls h, fun hs hc => ⟨_, exec_tpost_posts h hs hc, Core.addToks_eq ..,
      fun x y hx hy => ?posted⟩, fun x hs hx h15 hb => ?overflow⟩
    case taken =>
      refine ⟨fun hn => ?_, fun hn => ?_⟩
      · rw [Core.getTok_subToks (by decide) hx (by decide) hlt hnd fun z hz => (hc z hz).1, if_pos ⟨rfl, hn⟩]
        have := (hc x hn).1
        omega
      · rw [Core.getTok_subToks (by decide) hx hy hlt hnd fun z hz => (hc z hz).1, if_neg fun e => hn ⟨e.2, e.1⟩]
    case posted =>
      refine ⟨fun hn => ?_, fun hn => ?_⟩
      · rw [Core.getTok_addToks (by decide) (by decide) hy hlt hnd hc, if_pos ⟨rfl, hn⟩]
      · rw [Core.getTok_addToks (by decide) hx hy hlt hnd hc, if_neg hn]
    case overflow =>
      have hi : tokInfo 0 x = BitVec.ofNat 64 x := by simp [tokInfo]
      rw [exec_tpost_overflow h hs hx h15 hb, hi]

end

section

/-! # The common engine words and completion (O16)

How ENOP, ESKIP, EFLAG and EHALT issue (R99), and which word of an engine completes next and what it posts (R70, R320). -/

set_option Elab.async false

namespace Sys2Proof.Machine

open Sys2Proof.Safety

section
variable {s : State} {k : Fin 128} {e : Engine} {t : Tok} {d : Core}

/-! ### Issue -/

/-- A word whose tokens are not there is held. -/
theorem engWord_waits (hc : s.cur = .engine k e) (hn : (s.core k).consume (tokNum e) (tokAgents e t.wt) = none) {own : Engine → Bool}
    (ho : own e = true) (skip : Issue → Nat) (body : Issue → State → Iss) : engWord s own t skip body = .next s := by
  simp only [engWord, hc, ho, hn]
  rfl

/-- A word whose body holds it changes nothing. -/
theorem engWord_holds (h : Issues s k e t d) {own : Engine → Bool} (ho : own e = true) {skip : Issue → Nat} {body : Issue → State → Iss}
    (hb : body (engIssue s k e d) (s.setCore k d) = .hold) : engWord s own t skip body = .next s := by
  obtain ⟨hc, hd⟩ := h
  simp only [engWord, hc, ho, hd, hb]
  rfl

/-- A word that has its effect on the core and passes over words. -/
theorem engWord_issued (h : Issues s k e t d) {own : Engine → Bool} (ho : own e = true) {skip : Issue → Nat}
    {body : Issue → State → Iss} {c : Core} {f : Flight} (hb : body (engIssue s k e d) (s.setCore k d) = .ok (s.setCore k c) f) :
    engWord s own t skip body = .next (issued s k e c f (skip (engIssue s k e d))) := by
  rw [engWord_issues h ho hb]
  unfold issued State.setEng State.eng
  rw [State.setCore_core_self, State.setCore_setCore]

/-- Consuming tokens leaves the engines as they are. -/
theorem eng_of_issues (h : Issues s k e t d) (x : Engine) : d.eng x = s.eng k x := by
  obtain ⟨-, hd⟩ := h
  rw [Core.consume_inv hd, Core.subToks_eng]
  rfl

theorem eBusy_iff (c : Core) (n : Nat) : eBusy c n = true ↔ ∃ f ∈ (c.eng .c).flight, f.complete = false ∧ n ∈ f.we := by
  simp [eBusy, Core.eng]

/-! ### ESKIP, EFLAG and EHALT (R99) -/

theorem exec_eskip_zero (h : Issues s k e t d) (r : Fin 32) (cond : SkipCond) :
    exec (.eskip t r cond 0) s = .next (s.raise k (engAgent e) (engIssue s k e d).upc (.plain .illegalOperand)) := by
  rw [exec_eskip, execEskip]
  exact engWord_traps h rfl (if_pos rfl)

theorem exec_eskip_busy (h : Issues s k .c t d) {r : Fin 32} (cond : SkipCond) {n : Fin 256} (hn : n ≠ 0)
    (hb : eBusy d r.val = true) : exec (.eskip t r cond n) s = .next s := by
  rw [exec_eskip, execEskip]
  refine engWord_holds h rfl ((if_neg hn).trans (if_pos ?_))
  simpa [engIssue] using hb

theorem exec_eskip_issues (h : Issues s k e t d) {r : Fin 32} (cond : SkipCond) {n : Fin 256} (hn : n ≠ 0)
    (hb : e = .c → eBusy d r.val = false) :
    exec (.eskip t r cond n) s = .next (issued s k e d (Flight.plain (engIssue s k e d).upc t.pt)
      (if skipHolds cond d.e[r] (engIssue s k e d).r (engIssue s k e d).reps then n.val else 0)) := by
  rw [exec_eskip, execEskip]
  refine engWord_issued h rfl ((if_neg hn).trans (if_neg ?_))
  simpa [engIssue] using hb

theorem exec_eflag_issues (h : Issues s k e t d) (r : Fin 32) (hf : (s.eng k e).flight = []) : exec (.eflag t r) s =
    .next (issued s k e { d with e := d.e.set r (d.flags.setWidth 64) } (Flight.plain (engIssue s k e d).upc t.pt) 0) := by
  have hd := eng_of_issues h e
  rw [exec_eflag, execEflag]
  refine engWord_issued h rfl ?_
  have hf' : ((s.core k).eng e).flight = [] := hf
  simp [engIssue, State.eng, setE, hd, hf']

theorem exec_eflag_holds (h : Issues s k e t d) (r : Fin 32) (hf : (s.eng k e).flight ≠ []) : exec (.eflag t r) s = .next s := by
  have hd := eng_of_issues h e
  rw [exec_eflag, execEflag]
  refine engWord_holds h rfl ?_
  have hf' : ((s.core k).eng e).flight ≠ [] := hf
  simp [engIssue, State.eng, hd, hf']

theorem exec_ehalt_holds (hc : s.cur = .engine k e) (hf : (s.eng k e).flight ≠ []) : exec (.ehalt t) s = .next s := by
  simp [execEhalt, hc, hf]

theorem exec_ehalt_ends (h : Issues s k e t d) (hf : (s.eng k e).flight = [])
    (hp : ∀ q ∈ tokAgents e t.pt, d.getTok (tokNum e) q ≠ 15) :
    exec (.ehalt t) s = .next ((s.setCore k (d.addToks (tokNum e) (tokAgents e t.pt))).setEng k e
      { s.eng k e with run := false, buf := none, cur := none, got := [], asked := none }) := by
  obtain ⟨hc, hd⟩ := h
  simp [execEhalt, hc, hf, hd, Core.post_eq_ok hp]

theorem skipHolds_iff (cond : SkipCond) (v : W64) (x reps : Nat) : skipHolds cond v x reps = true ↔ match cond with
    | .eqz => v = 0
    | .nez => v ≠ 0
    | .ltz => v.toInt < 0
    | .gez => 0 ≤ v.toInt
    | .first => x = 0
    | .last => x + 1 = reps
    | .nfirst => x ≠ 0
    | .nlast => x + 1 ≠ reps := by
  cases cond <;> simp [skipHolds, BitVec.slt]

/-! ### Completion (R70, R320) -/

theorem Flight.complete_of {f : Flight} (hr : f.reqs = []) (hw : f.wait = .none) (ho : f.out = []) : f.complete = true := by
  rw [Flight.complete, hr, hw, ho]
  rfl

/-- The first complete word completes next; in the copy engine it must be the oldest. -/
theorem Eng.completing_eq {y : Eng} {f : Flight} {pre l : List Flight} (hy : y.flight = pre ++ f :: l) (hf : f.complete = true)
    (hp : ∀ x ∈ pre, x.complete = false) (hc : e = .c → pre = []) : y.completing e = some f := by
  have hfind : y.flight.find? (·.complete) = some f := by
    rw [hy, List.find?_append, List.find?_eq_none.mpr (by simpa using hp)]
    simp [hf]
  cases e with
  | a => exact hfind
  | v => exact hfind
  | c => simp [Eng.completing, hy, hc rfl, hf]

theorem erase_first_complete {f : Flight} {pre l : List Flight} (hf : f.complete = true) (hp : ∀ x ∈ pre, x.complete = false) :
    (pre ++ f :: l).erase f = pre ++ l := by
  have hn : f ∉ pre := fun hm => by simpa [hf] using hp f hm
  rw [List.erase_append_right _ hn, List.erase_cons_head]

theorem exec_engineWordComplete_posts {f : Flight} {pre l : List Flight} (hy : (s.eng k e).flight = pre ++ f :: l)
    (hf : f.complete = true) (hp : ∀ x ∈ pre, x.complete = false) (hc : e = .c → pre = []) (hk : (s.core k).fault = none)
    (ht : ∀ q ∈ tokAgents e f.pt, (s.core k).getTok (tokNum e) q ≠ 15) :
    exec (.engineWordComplete k.val e) s = .next ((s.setCore k
      (Core.addToks { s.core k with flags := (s.core k).flags ||| f.flags } (tokNum e) (tokAgents e f.pt))).setEng k e
        { s.eng k e with flight := pre ++ l }) := by
  have hpost := Core.post_eq_ok (c := { s.core k with flags := orFlags (s.core k).flags f.flags }) ht
  simp only [exec_engineWordComplete, execEngineWordComplete, coreIx_val, Eng.completing_eq hy hf hp hc]
  rw [if_pos ⟨k.isLt, hk⟩, hpost, hy, erase_first_complete hf hp]
  rfl

end

end Sys2Proof.Machine

open Sys2Proof.Machine in
/-- Settles O16: each word takes the branch of its rule, and a post raises the counters of the agents it names, which differ. -/
theorem commonEngineWords : Obligations.CommonEngineWords := by
  unfold Obligations.CommonEngineWords
  intro s k e t d r cond n self upc x reps val holds posts
  have hself : self = tokNum e := by cases e <;> rfl
  have hposts : ∀ (a : Core) (f : Fin 8), (∀ q ∈ tokAgents e f, a.getTok (tokNum e) q ≠ 15) →
      posts a (a.addToks (tokNum e) (tokAgents e f)) (tokAgents e f) := fun a f h => by
    obtain ⟨hnd, hlt⟩ := tokAgents_nodup e f
    refine ⟨Core.addToks_eq .., fun p q hp hq => ?_⟩
    rw [hself, Core.getTok_addToks (tokNum_lt e) hp hq hlt hnd h]
  rw [hself]
  refine ⟨fun hc hn => ?waits, fun h => ⟨?enop, ?zero, ?busy, ?skip, exec_eflag_issues h r,
    fun hf => ⟨exec_eflag_holds h r hf, exec_ehalt_holds h.1 hf⟩,
    fun hf hp => ⟨_, hposts d t.pt hp, exec_ehalt_ends h hf hp⟩⟩, ?completes⟩
  case waits =>
    rw [exec_enop, exec_eskip, exec_eflag]
    exact ⟨engWord_waits hc hn rfl .., engWord_waits hc hn rfl .., engWord_waits hc hn rfl ..⟩
  case enop =>
    rw [exec_enop, execEnop]
    exact engWord_issued h rfl rfl
  case zero =>
    rintro rfl
    exact exec_eskip_zero h r cond
  case busy =>
    rintro hn rfl hb
    refine exec_eskip_busy h cond hn ((eBusy_iff d r.val).mpr ?_)
    rwa [eng_of_issues h .c]
  case skip =>
    intro hn hb m hm hm0
    have hbusy : e = .c → eBusy d r.val = false := fun he => by
      rw [← Bool.not_eq_true, eBusy_iff, eng_of_issues h .c]
      rintro ⟨f, hf, hcomp, hwe⟩
      exact hb f (he ▸ hf) he hcomp hwe
    have hskip : (if skipHolds cond d.e[r] (engIssue s k e d).r (engIssue s k e d).reps then n.val else 0) = m := by
      have hcond : skipHolds cond d.e[r] (engIssue s k e d).r (engIssue s k e d).reps = true ↔ holds := skipHolds_iff ..
      by_cases hh : holds
      · rw [hm hh, if_pos (hcond.mpr hh)]
      · rw [hm0 hh, if_neg (mt hcond.mp hh)]
    rw [exec_eskip_issues h cond hn hbusy, hskip]
  case completes =>
    intro f pre l hy hr hw ho hp hc hk ht
    exact ⟨_, hposts _ f.pt ht, exec_engineWordComplete_posts hy (Flight.complete_of hr hw ho) hp hc hk ht⟩

end

section

/-! # The parts of an instance (O40)

How the sequencer of a core starts a part (R187), what the rendezvous at its end answers (R70, R187, R392), and when the watchdog
fires (R394). -/

set_option Elab.async false

namespace Sys2Proof.Machine

/-! ### Starting a part (R187) -/

theorem Core.startPart_ctx (c : Core) (r : TaskRec) (now : Nat) (x : CtxId) :
    (c.startPart r now).ctx x = (c.ctx x).startPart r (ctxAgent x) c.part.num := by cases x <;> rfl

theorem Core.startPart_eng (c : Core) (r : TaskRec) (now : Nat) (e : Engine) :
    (c.startPart r now).eng e = (c.eng e).startPart r (engAgent e) c.part.num := by cases e <;> rfl

theorem TaskRec.addr_eq (r : TaskRec) (agent part : Nat) : r.addr agent part = nth 0 r.agents (3 * agent + part) := by
  rw [TaskRec.addr, Nat.mul_comm]

section
variable {r : TaskRec} {agent part : Nat}

theorem TaskRec.hasPart_of_ne (h : r.addr agent part ≠ 0) : r.hasPart agent part = true := bne_iff_ne.mpr h
theorem TaskRec.hasPart_of_eq (h : r.addr agent part = 0) : ¬ r.hasPart agent part = true := by simp [TaskRec.hasPart, h]

/-- A part starts an agent without touching its registers (R187). -/
theorem Ctx.startPart_regs (c : Ctx) : (c.startPart r agent part).x = c.x ∧ (c.startPart r agent part).p = c.p := by
  unfold Ctx.startPart
  split <;> exact ⟨rfl, rfl⟩

theorem Ctx.startPart_of_ne (c : Ctx) (h : r.addr agent part ≠ 0) :
    (c.startPart r agent part).pc = r.addr agent part ∧ (c.startPart r agent part).run = .running := by
  rw [Ctx.startPart, if_pos (TaskRec.hasPart_of_ne h)]
  exact ⟨rfl, rfl⟩

theorem Ctx.startPart_of_eq (c : Ctx) (h : r.addr agent part = 0) : (c.startPart r agent part).run = .idle := by
  rw [Ctx.startPart, if_neg (TaskRec.hasPart_of_eq h)]

theorem Eng.startPart_of_ne (y : Eng) (h : r.addr agent part ≠ 0) :
    y.startPart r agent part = y.start (r.addr agent part) true := if_pos (TaskRec.hasPart_of_ne h)

theorem Eng.startPart_of_eq (y : Eng) (h : r.addr agent part = 0) : y.startPart r agent part = y :=
  if_neg (TaskRec.hasPart_of_eq h)

end

/-! ### The rendezvous (R70, R187, R392) -/

theorem Core.partEnded_iff (c : Core) : c.partEnded = true ↔
    (∀ x, (c.ctx x).run ≠ .running) ∧ ∀ e, (c.eng e).run = false ∧ (c.eng e).forks = [] ∧ (c.eng e).flight = [] := by
  have hctx : (∀ x, (c.ctx x).run ≠ .running) ↔ c.ld.run ≠ .running ∧ c.cp.run ≠ .running ∧ c.st.run ≠ .running :=
    ⟨fun h => ⟨h .ld, h .cp, h .st⟩, fun ⟨hl, hp, hs⟩ x => by cases x <;> assumption⟩
  have heng : ∀ p : Eng → Prop, (∀ e, p (c.eng e)) ↔ p c.a ∧ p c.v ∧ p c.c := fun p =>
    ⟨fun h => ⟨h .a, h .v, h .c⟩, fun ⟨ha, hv, hc⟩ e => by cases e <;> assumption⟩
  rw [hctx, heng fun y => y.run = false ∧ y.forks = [] ∧ y.flight = []]
  simp [Core.partEnded, and_assoc]

theorem Core.residue_eq_some {c : Core} {n : Nat} (hn : n < 16) (h : c.getTok (n / 4) (n % 4) ≠ 0)
    (hb : ∀ m < n, c.getTok (m / 4) (m % 4) = 0) : c.residue = some n := by
  rw [Core.residue, List.find?_range_eq_some]
  exact ⟨by simpa using h, List.mem_range.mpr hn, fun m hm => by simpa using hb m hm⟩

theorem Core.residue_eq_none {c : Core} (h : ∀ m < 16, c.getTok (m / 4) (m % 4) = 0) : c.residue = none := by
  rw [Core.residue, List.find?_range_eq_none]
  exact fun m hm => by simpa using h m hm

/-- The core with its contexts out of their part. -/
def Core.idled (c : Core) : Core :=
  { c with ld := { c.ld with run := .idle }, cp := { c.cp with run := .idle }, st := { c.st with run := .idle } }

theorem Core.idled_ctx (c : Core) (x : CtxId) : c.idled.ctx x = { c.ctx x with run := .idle } := by cases x <;> rfl

/-- The iteration at whose boundary a pre-emption stops the instance (R392). -/
def Inst.boundary (i : Inst) : Option Nat :=
  match i.state with
  | .stopping n => some n
  | _ => none

theorem Inst.boundary_eq_some (i : Inst) (n : Nat) : i.boundary = some n ↔ i.state = .stopping n := by
  unfold Inst.boundary
  split
  case h_1 m hm => simp [hm]
  case h_2 hm => simpa using hm n

/-- Going on changes the part, the sequencer and the iteration, and nothing else of the core. -/
theorem Core.nextPart_eq (c : Core) (trip : Nat) (b : Option Nat) :
    ∃ p q d, c.nextPart trip b = { c with part := p, seq := q, disp := d } := by
  fun_cases Core.nextPart
  all_goals exact ⟨_, _, _, rfl⟩

section
variable {c : Core} {trip : Nat} {b : Option Nat}

theorem Core.nextPart_prologue (h : c.part = .prologue) : (c.nextPart trip b).seq = .ready ∧
    (trip = 0 → (c.nextPart trip b).part = .epilogue) ∧
    (trip ≠ 0 → (c.nextPart trip b).part = .kernel ∧ (c.nextPart trip b).disp.iter = 0) := by
  simp only [Core.nextPart, h]
  split
  case isTrue h0 => exact ⟨rfl, fun _ => rfl, fun hn => absurd h0 hn⟩
  case isFalse h0 => exact ⟨rfl, fun hz => absurd hz h0, fun _ => ⟨rfl, rfl⟩⟩

theorem Core.nextPart_kernel (h : c.part = .kernel) :
    (c.disp.iter.toNat + 1 < trip →
      (c.nextPart trip b).part = .kernel ∧ (c.nextPart trip b).disp.iter = BitVec.ofNat 32 (c.disp.iter.toNat + 1)) ∧
    (trip ≤ c.disp.iter.toNat + 1 →
      (c.nextPart trip b).part = .epilogue ∧ (c.nextPart trip b).disp.iter = BitVec.ofNat 32 trip) ∧
    (c.nextPart trip b).seq = if b = some c.disp.iter.toNat then .stopped c.since else .ready := by
  simp only [Core.nextPart, h, beq_iff_eq]
  split
  case isTrue hlt => exact ⟨fun _ => ⟨rfl, rfl⟩, fun hle => absurd hlt (Nat.not_lt.mpr hle), rfl⟩
  case isFalse hge => exact ⟨fun hlt => absurd hlt hge, fun _ => ⟨rfl, rfl⟩, rfl⟩

theorem Core.nextPart_epilogue (h : c.part = .epilogue) : (c.nextPart trip b).seq = .complete := by
  simp only [Core.nextPart, h]

end

section
variable {s : State} {k : Fin 128} {i : Inst} (hi : s.instOf k = some i) (hf : (s.core k).fault = none)
include hi hf

theorem exec_partStart_ready (hq : (s.core k).seq = .ready) :
    exec (.partStart k.val) s = .next (s.setCore k ((s.core k).startPart i.trec s.time)) := by
  simp [execPartStart, coreIx_val, hi, hq, hf]

variable {since : Nat}

omit hf in
theorem exec_rendezvous_early (hq : (s.core k).seq = .running since) (he : ¬ (s.core k).partEnded = true) :
    exec (.rendezvous k.val) s = .next s := by
  simp [execRendezvous, coreIx_val, hi, hq, he]

theorem exec_rendezvous_residue (hq : (s.core k).seq = .running since) (he : (s.core k).partEnded = true) {n : Nat}
    (hn : (s.core k).residue = some n) :
    exec (.rendezvous k.val) s = .next (s.raise k 7 0 ⟨.tokenResidue, 0, BitVec.ofNat 64 n⟩) := by
  simp [execRendezvous, coreIx_val, hi, hq, he, hf, hn, w64]

theorem exec_rendezvous_goes (hq : (s.core k).seq = .running since) (he : (s.core k).partEnded = true)
    (hn : (s.core k).residue = none) :
    exec (.rendezvous k.val) s = .next (s.setCore k ((s.core k).idled.nextPart i.trip i.boundary)) := by
  simp only [exec_rendezvous, execRendezvous, coreIx_val]
  split
  case h_1 hi' =>
    obtain rfl := Option.some.inj (hi.symm.trans hi')
    rw [if_pos ⟨k.isLt, he, hf⟩, hn]
    rfl
  case h_2 hno => exact absurd hi (hno _ _ hq)

/-! ### The watchdog (R394) -/

theorem exec_iterLong_fires {t : Nat} (hw : (s.core k).watched = some t) (h : t + i.wdog * 1000 < s.time) :
    exec (.iterLong k.val) s =
      .next (s.raise k 7 0 ⟨.iterLong, 0, BitVec.ofNat 64 ((s.core k).unended + 256 * (s.core k).watchedPart)⟩) := by
  simp [execIterLong, coreIx_val, hi, hf, hw, Config.usNs, h, w64]

omit hf in
theorem exec_iterLong_early {t : Nat} (hw : (s.core k).watched = some t) (h : s.time ≤ t + i.wdog * 1000) :
    exec (.iterLong k.val) s = .next s := by
  simp [execIterLong, coreIx_val, hi, hw, Config.usNs, Nat.not_lt.mpr h]

end

end Sys2Proof.Machine

open Sys2Proof.Machine in
/-- Settles O40: each event takes the branch of its rule, by what the sequencer of the core is doing. -/
theorem partsOfInstances : Obligations.PartsOfInstances := by
  unfold Obligations.PartsOfInstances
  intro s k i hi hf c r
  refine ⟨fun hq => ⟨_, exec_partStart_ready hi hf hq, rfl, ?contexts, ?engines⟩,
    fun since hq => ?running, fun since hq h => ?stopped⟩
  case contexts =>
    intro x a
    have ha : r.addr (ctxAgent x) c.part.num = a := r.addr_eq ..
    obtain ⟨hx, hp⟩ := (c.ctx x).startPart_regs (r := r) (agent := ctxAgent x) (part := c.part.num)
    rw [Core.startPart_ctx]
    exact ⟨hx, hp, ha ▸ (c.ctx x).startPart_of_ne, ha ▸ (c.ctx x).startPart_of_eq⟩
  case engines =>
    intro e a
    have ha : r.addr (engAgent e) c.part.num = a := r.addr_eq ..
    rw [Core.startPart_eng, ← ha]
    refine ⟨fun h => ?_, (c.eng e).startPart_of_eq⟩
    rw [(c.eng e).startPart_of_ne h]
    exact ⟨rfl, rfl, rfl⟩
  case running =>
    have hended := c.partEnded_iff
    have hwatched : c.watched = some since := by rw [Core.watched, hq]
    have hpart : c.watchedPart = c.part.num := by rw [Core.watchedPart, hq]
    refine ⟨fun he => exec_rendezvous_early hi hq (mt hended.mp he),
      fun n hn he ht hb => exec_rendezvous_residue hi hf hq (hended.mpr he) (Core.residue_eq_some hn ht hb),
      fun he ht => ⟨_, exec_rendezvous_goes hi hf hq (hended.mpr he) (Core.residue_eq_none ht), ?goes⟩,
      fun h => hpart ▸ exec_iterLong_fires hi hf hwatched h, exec_iterLong_early hi hwatched⟩
    have hsince : c.idled.since = since := by simp [Core.since, Core.idled, c, hq]
    obtain ⟨p, q, d, hkeeps⟩ := c.idled.nextPart_eq i.trip i.boundary
    refine ⟨fun x => ?_, by rw [hkeeps]; rfl, by rw [hkeeps]; rfl, by rw [hkeeps]; rfl,
      fun h => Core.nextPart_prologue (c := c.idled) h, fun h => ?_, fun h => Core.nextPart_epilogue (c := c.idled) h⟩
    · rw [← c.idled_ctx x, hkeeps]
      cases x <;> rfl
    · obtain ⟨hmore, hlast, hseq⟩ := Core.nextPart_kernel (c := c.idled) (trip := i.trip) (b := i.boundary) h
      refine ⟨hmore, hlast, hseq.trans ?_⟩
      simp only [Inst.boundary_eq_some, hsince]
      rfl
  case stopped =>
    have hwatched : c.watched = some since := by rw [Core.watched, hq]
    have hpart : c.watchedPart = 1 := by rw [Core.watchedPart, hq]; rfl
    have hfires := exec_iterLong_fires hi hf hwatched h
    rw [hpart] at hfires
    exact hfires

end

section

/-! # Placing, reserving and pre-empting (O41)

The order of what waits for cores (R151), which of it is placed and where (R149), how a TASK node's instance takes fresh cores (R62 to
R64, R150), reservations (R152) and the request that stops a gang (R153, R392, R393). -/

set_option Elab.async false

namespace Sys2Proof.Machine

/-! ### The order of what waits (R151) -/

/-- What R151 asks of two that wait, `a` the earlier: its priority is not lower; with equal priorities suspended work is behind suspended
work alone, of which the longest waiting is first. -/
def Cand.NoLater (a b : Cand) : Prop :=
  b.prio ≤ a.prio ∧ (a.prio = b.prio → b.suspended = true → a.suspended = true ∧ a.since ≤ b.since)

theorem Cand.NoLater.trans {a b c : Cand} (hab : a.NoLater b) (hbc : b.NoLater c) : a.NoLater c := by
  obtain ⟨hp, hs⟩ := hab
  obtain ⟨hp', hs'⟩ := hbc
  refine ⟨hp'.trans hp, fun he hc => ?_⟩
  obtain ⟨hb, hle⟩ := hs' (by omega) hc
  obtain ⟨ha, hle'⟩ := hs (by omega) hb
  exact ⟨ha, hle'.trans hle⟩

/-- The scheduler's comparison keeps the order, whichever way it goes. -/
theorem noLater_of_before {s : State} {a b : Cand} : if s.before a b = true then a.NoLater b else b.NoLater a := by
  unfold Cand.NoLater State.before
  by_cases hp : a.prio = b.prio
  case neg =>
    by_cases hlt : b.prio < a.prio <;> simp [hp, Ne.symm hp, hlt] <;> omega
  case pos =>
    cases ha : a.suspended <;> cases hb : b.suspended <;> simp [hp]
    by_cases hlt : a.since < b.since <;> simp [hlt] <;> omega

theorem mem_insertCand {s : State} {c y : Cand} {l : List Cand} : y ∈ s.insertCand c l ↔ y = c ∨ y ∈ l := by
  induction l with
  | nil => simp [State.insertCand]
  | cons x l ih =>
    unfold State.insertCand
    split
    · simp
    · simp only [List.mem_cons, ih]
      tauto

theorem insertCand_ordered {s : State} {c : Cand} {l : List Cand} (h : l.Pairwise Cand.NoLater) :
    (s.insertCand c l).Pairwise Cand.NoLater := by
  induction l with
  | nil => simp [State.insertCand]
  | cons x l ih =>
    obtain ⟨hx, hl⟩ := List.pairwise_cons.mp h
    have hcmp := noLater_of_before (s := s) (a := c) (b := x)
    unfold State.insertCand
    split
    case isTrue hb =>
      rw [if_pos hb] at hcmp
      refine List.pairwise_cons.mpr ⟨fun y hy => ?_, h⟩
      rcases List.mem_cons.mp hy with rfl | hy
      · exact hcmp
      · exact hcmp.trans (hx y hy)
    case isFalse hb =>
      rw [if_neg hb] at hcmp
      refine List.pairwise_cons.mpr ⟨fun y hy => ?_, ih hl⟩
      rcases mem_insertCand.mp hy with rfl | hy
      · exact hcmp
      · exact hx y hy

theorem State.cands_ordered (s : State) : s.cands.Pairwise Cand.NoLater := by
  unfold State.cands
  split
  · exact .nil
  · exact foldl_keep (fun l : List Cand => l.Pairwise Cand.NoLater) _ _ _ .nil fun l c _ h => insertCand_ordered h

/-! ### The candidate that is placed (R149, R151) -/

theorem exec_placeNode_none {s : State} (h : ∀ c ∈ s.cands, ∀ b ∈ c.bases, s.fits c b = false) : exec .placeNode s = .next s := by
  have hn : (s.cands.findSome? fun c => (c.bases.find? (s.fits c)).map fun b => (c, b)) = none := by
    simpa [List.findSome?_eq_none_iff] using h
  rw [exec_placeNode, execPlaceNode, hn]

theorem exec_placeNode_first {s : State} {before after : List Cand} {c : Cand} {bl br : List Nat} {base : Nat}
    (hs : s.cands = before ++ c :: after) (hb : ∀ x ∈ before, ∀ b ∈ x.bases, s.fits x b = false) (hc : c.bases = bl ++ base :: br)
    (hl : ∀ b ∈ bl, s.fits c b = false) (hf : s.fits c base = true) : exec .placeNode s = .next (s.placeCand c base) := by
  have hbase : c.bases.find? (s.fits c) = some base := by
    rw [hc, List.find?_append, List.find?_eq_none.mpr (by simpa using hl)]
    simp [hf]
  have hfirst : (s.cands.findSome? fun c => (c.bases.find? (s.fits c)).map fun b => (c, b)) = some (c, base) := by
    rw [hs, List.findSome?_append, List.findSome?_eq_none_iff.mpr (by simpa using hb)]
    simp [hbase]
  rw [exec_placeNode, execPlaceNode, hfirst]

/-- Serving a queue and dropping a reservation leave all but the turns of the queues and the reservations. -/
theorem serveQueue_dropReservation (s : State) (c : Cand) (w : Waiter) :
    ∃ v r, (s.serveQueue c).dropReservation w = s.setCmd { s.cmd with served := v, reservations := r } := by
  unfold State.serveQueue State.dropReservation
  split
  · split <;> exact ⟨_, _, rfl⟩
  · exact ⟨_, _, rfl⟩

/-! ### Lists in which one element changes -/

theorem find?_updFirst {α : Type} {p : α → Bool} {f : α → α} {l : List α} {x : α} (h : l.find? p = some x) (hf : p (f x) = true) :
    (updFirst p f l).find? p = some (f x) := by
  induction l with
  | nil => cases h
  | cons y l ih =>
    unfold updFirst
    cases hy : p y with
    | true =>
      obtain rfl : y = x := by simpa [hy] using h
      simp [hf]
    | false =>
      have h' : l.find? p = some x := by simpa [hy] using h
      simp [hy, ih h']

theorem updFirst_append_last {α : Type} {p : α → Bool} {f : α → α} {l : List α} {x : α} (hl : ∀ y ∈ l, p y = false) (hx : p x = true) :
    updFirst p f (l ++ [x]) = l ++ [f x] := by
  induction l with
  | nil => simp [updFirst, hx]
  | cons y l ih => simp [updFirst, hl y List.mem_cons_self, ih fun z hz => hl z (List.mem_cons_of_mem y hz)]

/-! ### The cores of an instance -/

section
variable {i : Inst}

theorem Inst.coreIx_mem_cores {n : Nat} (h : n < i.ncores) : coreIx (i.base + n) ∈ i.cores :=
  List.mem_map.mpr ⟨n, List.mem_range.mpr h, rfl⟩

theorem Inst.rank_mem_cores {n : Nat} (h : n < i.ncores) : (coreIx (i.base + n), n) ∈ i.cores.zipIdx := by
  rw [List.mk_mem_zipIdx_iff_getElem?]
  simp [Inst.cores, h]

variable (hfit : i.base + i.ncores ≤ 128)
include hfit

theorem Inst.cores_nodup : i.cores.Nodup := by
  refine List.Nodup.map_on (fun x hx y hy he => ?_) List.nodup_range
  rw [List.mem_range] at hx hy
  simp only [coreIx, Fin.ext_iff, Fin.val_ofNat] at he
  omega

theorem Inst.not_mem_cores {k : Fin 128} (hk : k.val < i.base ∨ i.base + i.ncores ≤ k.val) : k ∉ i.cores := by
  intro hm
  obtain ⟨n, hn, he⟩ := List.mem_map.mp hm
  rw [List.mem_range] at hn
  simp only [coreIx, Fin.ext_iff, Fin.val_ofNat] at he
  omega

end

/-- Nothing but cores differs. -/
def State.CoresOnly (s t : State) : Prop := t = { s with cores := t.cores }

theorem State.CoresOnly.refl (s : State) : s.CoresOnly s := rfl
theorem State.CoresOnly.trans {s t u : State} (h : s.CoresOnly t) (h' : t.CoresOnly u) : s.CoresOnly u := by
  unfold State.CoresOnly at *
  rw [h', h]
theorem State.coresOnly_setCore (s : State) (k : Fin 128) (c : Core) : s.CoresOnly (s.setCore k c) := rfl
theorem State.CoresOnly.cmd {s t : State} (h : s.CoresOnly t) : t.cmd = s.cmd := by rw [h]

/-- Setting different cores one after the other: each gets its value while it is still as it was, and the others stay. -/
theorem core_foldl_setCore {γ : Type} (tgt : γ → Fin 128) (f : State → γ → Core) (l : List γ) (s : State) :
    s.CoresOnly (l.foldl (fun u x => u.setCore (tgt x) (f u x)) s) ∧
    (∀ k, k ∉ l.map tgt → (l.foldl (fun u x => u.setCore (tgt x) (f u x)) s).core k = s.core k) ∧
    ((l.map tgt).Nodup → ∀ x ∈ l, ∃ u, s.CoresOnly u ∧ u.core (tgt x) = s.core (tgt x) ∧
      (l.foldl (fun u x => u.setCore (tgt x) (f u x)) s).core (tgt x) = f u x) := by
  induction l generalizing s with
  | nil => exact ⟨.refl s, fun _ _ => rfl, fun _ _ h => by cases h⟩
  | cons y l ih =>
    obtain ⟨honly, hout, hin⟩ := ih (s.setCore (tgt y) (f s y))
    have hset := s.coresOnly_setCore (tgt y) (f s y)
    simp only [List.map_cons, List.mem_cons, not_or, List.nodup_cons, List.foldl_cons]
    refine ⟨hset.trans honly, fun k ⟨hk, hkl⟩ => (hout k hkl).trans (s.setCore_core_ne _ hk), fun ⟨hy, hn⟩ x hx => ?_⟩
    rcases hx with rfl | hx
    · exact ⟨s, .refl s, rfl, (hout _ hy).trans (s.setCore_core_self ..)⟩
    · obtain ⟨u, hu, hc, hf⟩ := hin hn x hx
      have hne : tgt x ≠ tgt y := fun e => hy (e ▸ List.mem_map_of_mem hx)
      exact ⟨u, hset.trans hu, hc.trans (s.setCore_core_ne _ hne), hf⟩

/-! ### An instance takes fresh cores (R62 to R64, R150) -/

/-- The core as the count of its group span leaves it (R359). -/
def State.joinedCore (s : State) (k : Fin 128) : Core :=
  match s.podSpan k with
  | .group g .. =>
    let p : W32 := BitVec.ofNat 32 (sget 0 s.fab.groupP g)
    setDone (setArrive (s.core k) .ld .pod p) .pod p
  | _ => s.core k

theorem State.joinSpan_eq (s : State) (k : Fin 128) : s.joinSpan k = s.setCore k (s.joinedCore k) := by
  unfold State.joinSpan State.joinedCore
  cases s.podSpan k <;> simp

/-- The count of a span is all that joining it changes. -/
theorem State.joinedCore_eq (s : State) (k : Fin 128) : ∃ a p, s.joinedCore k = { s.core k with barA := a, barP := p } := by
  unfold State.joinedCore
  split <;> exact ⟨_, _, rfl⟩

theorem clearQuad_keeps (s : State) (q : Fin 32) (pasid : Nat) :
    (clearQuad s q pasid).cores = s.cores ∧ (clearQuad s q pasid).cmd = s.cmd ∧ (clearQuad s q pasid).time = s.time := by
  unfold clearQuad
  extract_lets x
  split <;> exact ⟨rfl, rfl, rfl⟩

theorem State.clearQuads_keeps (s : State) (ks : List (Fin 128)) (pasid : Nat) :
    (s.clearQuads ks pasid).cores = s.cores ∧ (s.clearQuads ks pasid).cmd = s.cmd ∧ (s.clearQuads ks pasid).time = s.time :=
  foldl_keep (fun t : State => t.cores = s.cores ∧ t.cmd = s.cmd ∧ t.time = s.time) _ _ s ⟨rfl, rfl, rfl⟩
    fun t q _ ⟨hc, hd, ht⟩ => by
      obtain ⟨hc', hd', ht'⟩ := clearQuad_keeps t q pasid
      exact ⟨hc'.trans hc, hd'.trans hd, ht'.trans ht⟩

/-- Each core of an instance is fresh, at its rank (R62). -/
theorem State.placeCores_spec (s : State) (i : Inst) : s.CoresOnly (s.placeCores i) ∧
    (∀ k, k ∉ i.cores → (s.placeCores i).core k = s.core k) ∧
    (i.base + i.ncores ≤ 128 → ∀ n < i.ncores, ∃ u c, (s.placeCores i).core (coreIx (i.base + n)) = State.freshCore u i n c) := by
  have hfst : (i.cores.zipIdx).map Prod.fst = i.cores := List.zipIdx_map_fst 0 i.cores
  obtain ⟨honly, hout, hin⟩ := core_foldl_setCore Prod.fst (fun u p => u.freshCore i p.2 (u.core p.1)) i.cores.zipIdx s
  rw [hfst] at hout hin
  refine ⟨honly, hout, fun hfit n hn => ?_⟩
  obtain ⟨u, -, -, h⟩ := hin (Inst.cores_nodup hfit) _ (Inst.rank_mem_cores hn)
  exact ⟨u, _, h⟩

/-- Cores take the counts of their spans, one after the other. -/
def State.joinSpans (s : State) (ks : List (Fin 128)) : State := ks.foldl (fun u k => u.joinSpan k) s

theorem State.joinSpans_spec (s : State) (ks : List (Fin 128)) : s.CoresOnly (s.joinSpans ks) ∧
    (∀ k, k ∉ ks → (s.joinSpans ks).core k = s.core k) ∧
    (ks.Nodup → ∀ k ∈ ks, ∃ a p, (s.joinSpans ks).core k = { s.core k with barA := a, barP := p }) := by
  obtain ⟨honly, hout, hin⟩ := core_foldl_setCore id (fun u k => u.joinedCore k) ks s
  simp only [State.joinSpans, State.joinSpan_eq]
  rw [List.map_id] at hout hin
  refine ⟨honly, hout, fun hn k hk => ?_⟩
  obtain ⟨u, -, hc, h⟩ := hin hn k hk
  obtain ⟨a, p, hj⟩ := u.joinedCore_eq k
  have hc : u.core k = s.core k := hc
  exact ⟨a, p, h.trans (by rw [hj, hc])⟩

theorem State.updCores_spec (s : State) (ks : List (Fin 128)) (f : Core → Core) : s.CoresOnly (s.updCores ks f) ∧
    (∀ k, k ∉ ks → (s.updCores ks f).core k = s.core k) ∧ (ks.Nodup → ∀ k ∈ ks, (s.updCores ks f).core k = f (s.core k)) := by
  obtain ⟨honly, hout, hin⟩ := core_foldl_setCore id (fun u k => f (u.core k)) ks s
  rw [List.map_id] at hout hin
  refine ⟨honly, hout, fun hn k hk => ?_⟩
  obtain ⟨u, -, hc, h⟩ := hin hn k hk
  exact h.trans (congrArg f hc)

/-- Cores that a change leaves as they are. -/
theorem State.core_updCores_of_fixed {s : State} {ks : List (Fin 128)} {f : Core → Core} (h : ∀ k ∈ ks, f (s.core k) = s.core k) :
    ∀ k, (s.updCores ks f).core k = s.core k :=
  foldl_keep (fun t : State => ∀ k, t.core k = s.core k) _ ks s (fun _ => rfl) fun t j hj ht k => by
    rcases eq_or_ne k j with rfl | hne
    · rw [State.setCore_core_self, ht, h _ hj]
    · rw [State.setCore_core_ne _ _ hne, ht]

/-- What becomes of an instance whose trip count is known. -/
def Inst.begun (x : Inst) (n : Nat) : Inst := { x with trip := n, state := .running }

theorem State.begin_eq (s : State) {i : Inst} (h : i.trec.tripmem = false) : s.begin i =
    (((s.updInst i.ctxid fun x => x.begun i.trec.trip.toNat).placeCores { i with trip := i.trec.trip.toNat }).joinSpans i.cores).updCores
      i.cores fun c => c.startPart i.trec s.time := by
  simp only [State.begin, State.readTrip, h, Bool.not_false, if_true]
  rfl

/-- A fresh core of rank `n` of an instance whose record has the trip count, with the counts of its span. -/
def State.memberCore (u : State) (i : Inst) (n : Nat) (c : Core) (a : Vector W32 4) (p : Vector W32 5) : Core :=
  { u.freshCore { i with trip := i.trec.trip.toNat } n c with barA := a, barP := p }

/-- On each core of an instance its prologue has started, everything else but the counts of its span being fresh. -/
def State.RunsPrologue (t : State) (i : Inst) (now : Nat) : Prop :=
  ∀ n < i.ncores, ∃ u c a p, t.core (coreIx (i.base + n)) = (State.memberCore u i n c a p).startPart i.trec now

/-- What beginning an instance of a record with its own trip count does to the command processor and to the cores. -/
theorem State.begin_spec (s : State) {i : Inst} (h : i.trec.tripmem = false) (hfit : i.base + i.ncores ≤ 128) :
    (s.begin i).cmd = (s.updInst i.ctxid fun x => x.begun i.trec.trip.toNat).cmd ∧
    (∀ k, k ∉ i.cores → (s.begin i).core k = s.core k) ∧
    (s.begin i).RunsPrologue i s.time := by
  rw [State.begin_eq s h]
  obtain ⟨hplaced, hplacedOut, hplacedIn⟩ :=
    (s.updInst i.ctxid fun x => x.begun i.trec.trip.toNat).placeCores_spec { i with trip := i.trec.trip.toNat }
  generalize (s.updInst i.ctxid fun x => x.begun i.trec.trip.toNat).placeCores { i with trip := i.trec.trip.toNat } = s1 at *
  obtain ⟨hjoined, hjoinedOut, hjoinedIn⟩ := s1.joinSpans_spec i.cores
  generalize s1.joinSpans i.cores = s2 at *
  obtain ⟨hstarted, hstartedOut, hstartedIn⟩ := s2.updCores_spec i.cores fun c => c.startPart i.trec s.time
  refine ⟨((hplaced.trans hjoined).trans hstarted).cmd,
    fun k hk => (hstartedOut k hk).trans ((hjoinedOut k hk).trans (hplacedOut k hk)), fun n hn => ?_⟩
  have hnd := Inst.cores_nodup hfit
  have hm := Inst.coreIx_mem_cores hn
  obtain ⟨u, c, hfresh⟩ := hplacedIn hfit n hn
  obtain ⟨a, p, hj⟩ := hjoinedIn hnd _ hm
  have hf : s1.core (coreIx (i.base + n)) = u.freshCore { i with trip := i.trec.trip.toNat } n c := hfresh
  refine ⟨u, c, a, p, (hstartedIn hnd _ hm).trans ?_⟩
  rw [hj, hf]
  rfl

theorem State.launch_spec (s : State) {i : Inst} (h : i.trec.tripmem = false) (hfit : i.base + i.ncores ≤ 128) :
    (s.launch i).cmd = { s.cmd with
      insts := updFirst (·.ctxid == i.ctxid) (fun x => x.begun i.trec.trip.toNat) (s.cmd.insts ++ [i]) } ∧
    (∀ k, k ∉ i.cores → (s.launch i).core k = s.core k) ∧
    (s.launch i).RunsPrologue i s.time := by
  obtain ⟨hcores, hcmd, htime⟩ := (s.setCmd { s.cmd with insts := s.cmd.insts ++ [i] }).clearQuads_keeps i.cores i.pasid
  rw [State.launch]
  generalize (s.setCmd { s.cmd with insts := s.cmd.insts ++ [i] }).clearQuads i.cores i.pasid = t at *
  obtain ⟨hcmd', hout, hin⟩ := t.begin_spec h hfit
  refine ⟨hcmd'.trans ?_, fun k hk => (hout k hk).trans (congrArg (·[k]) hcores), fun n hn => ?_⟩
  · rw [State.updInst, State.setCmd_cmd, hcmd]
    rfl
  · rw [htime] at hin
    exact hin n hn

/-! ### A TASK node becomes an instance (R150) -/

/-- The instance of a TASK node of queue `q` placed on `n` cores from `base` on. -/
def State.taskInst (s : State) (q idx base n : Nat) (x : Node) (r : TaskRec) : Inst :=
  { ctxid := s.cmd.nextCtx, pasid := x.pasid, prio := (s.queue q).prio, node := some (q, idx), stage := none, tag := 0, phase := 3
    wver := 0, var := 0, run := 0, trec := r, base := base, ncores := n, trip := 0
    wdog := wdogOf (bitsNat x.cmd.payload 96 32) s.cmd.wddef, ranges := x.ranges, walk := .start, pins := x.pins, leased := x.leased
    state := .running, resumed := false, tstart := s.time, slots := [], ending := none, io := .reset, faultQuad := none }

/-- The node of an instance that has begun. -/
def State.taskNode (s : State) (x : Node) : Node :=
  { x with phase := .running, leased := false, pins := [], ctxid := s.cmd.nextCtx, tstart := s.time }

theorem State.placeTask_eq {s : State} {q idx base n : Nat} {x : Node} {r : TaskRec} (hx : s.node? q idx = some x)
    (hr : x.trec = some r) :
    s.placeTask q idx base n = (s.takeCtxid.2.updNode q idx s.taskNode).launch (s.taskInst q idx base n x r) := by
  rw [State.placeTask, hx]
  simp only [hr]
  rfl

/-- Placing a candidate serves its queue and drops its reservation first, which leaves nodes and instances. -/
theorem State.placeCand_eq (s : State) (c : Cand) (base : Nat) : ∃ v r, let s1 := s.setCmd { s.cmd with served := v, reservations := r }
    (∀ q idx, c.who = .node q idx → s.placeCand c base = s1.placeTask q idx base c.ncores) ∧
    ∀ n i, c.who = .inst n → s1.inst? n = some i → s.placeCand c base = s1.bindResume i base none := by
  obtain ⟨v, r, h⟩ := serveQueue_dropReservation s c c.who
  refine ⟨v, r, fun q idx hw => ?_, fun n i hw hi => ?_⟩
  · rw [State.placeCand, h, hw]
  · rw [State.placeCand, h, hw]
    simp only [hi]

theorem Ctx.getX_of_reset {c : Ctx} (h : c.x = Ctx.reset.x) (j : Fin 32) : c.getX j = 0 := by
  simp [Ctx.getX, h, Ctx.reset]

theorem Ctx.getP_of_reset {c : Ctx} (h : c.p = Ctx.reset.p) {j : Fin 8} (hj : j ≠ 0) : c.getP j = false := by
  have hne : ¬ (0 : Nat) = j.val := fun e => hj (Fin.ext e.symm)
  simp [Ctx.getP, hj, h, Ctx.reset, hne]

/-- The contexts of a fresh core have the registers of reset. -/
theorem State.memberCore_ctx (u : State) (i : Inst) (n : Nat) (c : Core) (a : Vector W32 4) (p : Vector W32 5) (z : CtxId) :
    ((u.memberCore i n c a p).ctx z).x = Ctx.reset.x ∧ ((u.memberCore i n c a p).ctx z).p = Ctx.reset.p := by
  cases z <;> exact ⟨rfl, rfl⟩

/-- What R64 and R150 give a core of rank `n` of a fresh instance of no stage. -/
theorem State.RunsPrologue.core {t : State} {i : Inst} {now n : Nat} (h : t.RunsPrologue i now) (hs : i.stage = none) (hn : n < i.ncores) :
    let d := t.core (coreIx (i.base + n))
    d.disp.grank = BitVec.ofNat 7 n ∧ d.disp.iter = 0 ∧ d.disp.trip = i.trec.trip ∧ d.disp.ctxid = BitVec.ofNat 32 i.ctxid ∧
    d.disp.gang = BitVec.ofNat 16 i.base ∧ d.disp.stage = 0xFFFF ∧ d.pasid = i.pasid ∧ d.ranges = i.ranges ∧
    d.inst = some i.ctxid ∧ d.part = .prologue ∧ d.seq = .running now ∧ d.fault = none ∧ d.flags = 0 ∧ d.fcsr = 0 ∧
    (∀ z : CtxId, (∀ j, (d.ctx z).getX j = 0) ∧ (∀ j : Fin 8, j ≠ 0 → (d.ctx z).getP j = false) ∧
      ((nth 0 i.trec.agents (3 * ctxAgent z)) ≠ 0 →
        (d.ctx z).pc = nth 0 i.trec.agents (3 * ctxAgent z) ∧ (d.ctx z).run = .running)) ∧
    (∀ j : Fin 32, d.e[j] = 0) ∧ d.dl1 = [] := by
  obtain ⟨u, c, a, p, he⟩ := h n hn
  have hstage : u.stageNum { i with trip := i.trec.trip.toNat } = 0xFFFF := by simp [State.stageNum, hs]
  intro d
  have hd : d = _ := he
  refine hd ▸ ⟨rfl, rfl, (BitVec.ofNat_toNat 32 _).trans (BitVec.setWidth_eq _), rfl, rfl, congrArg (BitVec.ofNat 16) hstage,
    rfl, rfl, rfl, rfl, rfl, rfl, rfl, rfl, fun z => ?_, fun j => ?_, rfl⟩
  · obtain ⟨hx, hp⟩ := u.memberCore_ctx i n c a p z
    obtain ⟨hx', hp'⟩ := Ctx.startPart_regs (r := i.trec) (agent := ctxAgent z) (part := 0) ((u.memberCore i n c a p).ctx z)
    have hpc : i.trec.addr (ctxAgent z) 0 = nth 0 i.trec.agents (3 * ctxAgent z) := i.trec.addr_eq ..
    rw [Core.startPart_ctx, ← hpc]
    exact ⟨Ctx.getX_of_reset (hx'.trans hx), fun j hj => Ctx.getP_of_reset (hp'.trans hp) hj, Ctx.startPart_of_ne _⟩
  · simp [Core.startPart, State.memberCore, State.freshCore, Core.freed, Core.reset]

/-! ### A suspended instance is placed again (R396) -/

theorem State.bindResume_inst {s : State} {i : Inst} (h : s.inst? i.ctxid = some i) (base : Nat) (g : Option (Nat × Nat)) :
    (s.bindResume i base g).inst? i.ctxid = some { i with base := base, stage := g, state := .placed, walk := .start } := by
  obtain ⟨honly, -⟩ := State.updCores_spec ((s.setCmd { s.cmd with
      reservations := s.cmd.reservations.filter fun r => r.who != .inst i.ctxid }).updInst i.ctxid fun _ =>
        { i with base := base, stage := g, state := .placed, walk := .start })
    (Inst.cores { i with base := base, stage := g, state := .placed, walk := .start })
    fun c => { c.freed with inst := some i.ctxid, seq := .held, pasid := i.pasid }
  rw [State.inst?, State.bindResume, honly.cmd]
  exact find?_updFirst h (by simp)

/-! ### Reservations (R152) -/

section
variable {s : State} {j : Nat} {c : Cand} {b : Nat} {br : List Nat} (hj : s.cands[j]? = some c)
include hj

theorem exec_placementReserve_late (hw : c.wants = b :: br) (ht : c.since + 1000000 ≤ s.time)
    (hr : ∀ r ∈ s.cmd.reservations, r.who ≠ c.who) : exec (.placementReserve j) s =
      .next (s.setCmd { s.cmd with reservations := s.cmd.reservations ++ [⟨c.who, c.prio, b, c.ncores⟩] }) := by
  simp only [exec_placementReserve, execPlacementReserve, hj, hw]
  exact if_pos ⟨ht, by simpa using hr⟩

theorem exec_placementReserve_early (hw : c.wants = b :: br) (ht : s.time < c.since + 1000000) :
    exec (.placementReserve j) s = .next s := by
  simp only [exec_placementReserve, execPlacementReserve, hj, hw]
  exact if_neg fun h => absurd h.1 (Nat.not_le.mpr ht)

/-! ### Pre-emption (R153, R392, R393) -/

theorem exec_preemptTimeout_early (ht : s.time < c.since + 100000) : exec (.preemptTimeout j) s = .next s := by
  simp only [exec_preemptTimeout, execPreemptTimeout, hj]
  exact if_pos (by simpa using .inr ht)

/-- Work that has waited 100 µs stops the one instance on its first placement, where the pool takes it. -/
theorem exec_preemptTimeout_stops (hs : c.suspended = false) (hb : c.bases = b :: br) (ht : c.since + 100000 ≤ s.time)
    (hr : reserved c b s.cmd.reservations = false) {i : Inst} (hv : s.victims c b = some [i]) (hi : i.state = .running)
    (hp : s.poolTakes i = true) : exec (.preemptTimeout j) s = .next (s.requestStop i) := by
  have htake : s.poolTakesAll [i] = true := by
    have hroom : i.ncores ≤ s.ctxFree.length := by
      simp only [State.poolTakes, Bool.and_eq_true, decide_eq_true_eq] at hp
      exact hp.1.2
    simp [State.poolTakesAll, hi, hp, hroom]
  have hearly : (c.suspended || decide (s.time < c.since + 100 * Config.usNs)) = false := by
    rw [hs, Bool.false_or, decide_eq_false_iff_not]
    exact Nat.not_lt.mpr ht
  simp only [exec_preemptTimeout, execPreemptTimeout, hj, hearly, hb, List.findSome?_cons, hr, hv, htake]
  rfl

end

/-- The greatest of numbers. -/
theorem foldl_max_spec (l : List Nat) (b : Nat) :
    b ≤ l.foldl max b ∧ (∀ x ∈ l, x ≤ l.foldl max b) ∧ (l.foldl max b = b ∨ l.foldl max b ∈ l) := by
  induction l generalizing b with
  | nil => simp
  | cons y l ih =>
    obtain ⟨hb, hl, hm⟩ := ih (max b y)
    simp only [List.foldl_cons, List.mem_cons, forall_eq_or_imp]
    refine ⟨by omega, ⟨by omega, hl⟩, ?_⟩
    rcases hm with hm | hm
    · rcases Nat.le_total b y with hby | hby
      · exact .inr (.inl (by omega))
      · exact .inl (by omega)
    · exact .inr (.inr hm)

/-- Where every core runs the kernel, the boundary is the iteration of the fastest (R392). -/
theorem State.boundary_kernel {s : State} {i : Inst} (ht : i.trip ≠ 0)
    (hk : ∀ k ∈ i.cores, (s.core k).part = .kernel ∧ ∃ since, (s.core k).seq = .running since) :
    ∃ m, s.boundary i = some m ∧ (∀ k ∈ i.cores, (s.core k).disp.iter.toNat ≤ m) ∧
      (i.ncores = 0 ∨ ∃ k ∈ i.cores, (s.core k).disp.iter.toNat = m) := by
  have hrep : i.cores.map (fun k => (s.core k).reported) = i.cores.map fun k => some ((s.core k).disp.iter.toNat + 1) :=
    List.map_congr_left fun k hm => by
      obtain ⟨hp, since, hq⟩ := hk k hm
      simp [Core.reported, hp, hq]
  obtain ⟨-, hle, hmem⟩ := foldl_max_spec (i.cores.map fun k => (s.core k).disp.iter.toNat + 1) 0
  refine ⟨(i.cores.map fun k => (s.core k).disp.iter.toNat + 1).foldl max 0 - 1, ?_, fun k hm => ?_, ?_⟩
  · simp [State.boundary, hrep, ht, Function.comp_def]
  · have := hle _ (List.mem_map_of_mem hm)
    omega
  · rcases hmem with h0 | hmem
    · refine .inl (Nat.eq_zero_of_not_pos fun hpos => ?_)
      have := hle _ (List.mem_map_of_mem (Inst.coreIx_mem_cores hpos))
      omega
    · obtain ⟨k, hm, hv⟩ := List.mem_map.mp hmem
      exact .inr ⟨k, hm, by omega⟩

/-- A request for a gang in its kernel marks the instance and takes pool slots, and no core stops yet (R392, R393). -/
theorem State.requestStop_kernel {s : State} {i : Inst} {m : Nat} (hs : i.state = .running) (hb : s.boundary i = some m)
    (hi : s.inst? i.ctxid = some i) (hk : ∀ k ∈ i.cores, ∃ since, (s.core k).seq = .running since) :
    (s.requestStop i).inst? i.ctxid = some { i with state := .stopping m, slots := s.ctxFree.take i.ncores } ∧
    (s.requestStop i).cmd.slotsUsed = s.cmd.slotsUsed ++ s.ctxFree.take i.ncores ∧ ∀ k, (s.requestStop i).core k = s.core k := by
  simp only [State.requestStop, hs, hb]
  refine ⟨?_, ?_, State.core_updCores_of_fixed fun k hm => ?_⟩
  · rw [State.inst?, (State.updCores_spec _ _ _).1.cmd]
    exact find?_updFirst hi (by simp)
  · rw [(State.updCores_spec _ _ _).1.cmd]
    rfl
  · obtain ⟨since, hq⟩ := hk k hm
    exact if_neg (by simp [State.updInst, hq])

end Sys2Proof.Machine

open Sys2Proof.Machine in
/-- Settles O41: the candidates are inserted in order, the first that fits is the one `findSome?` finds, and the instance that it becomes
sets its own cores, each of them once. -/
theorem placingAndPreempting : Obligations.PlacingAndPreempting := by
  unfold Obligations.PlacingAndPreempting
  intro s
  refine ⟨fun i j a b hij ha hb => ?order, exec_placeNode_none,
    fun before after c bl br base hs hbefore hc hbl hf hfit => ⟨fun q idx x r hw hx hr htrip hnew => ?task, fun n i hw hi hn => ?resume⟩,
    fun j c b br hj hw => ⟨exec_placementReserve_late hj hw, exec_placementReserve_early hj hw⟩,
    fun j c b br i hj hs hb ht hr hv hi hself hp htrip hk => ?preempt, fun j c hj => exec_preemptTimeout_early hj⟩
  case order =>
    obtain ⟨hi, rfl⟩ := List.getElem?_eq_some_iff.mp ha
    obtain ⟨hj, rfl⟩ := List.getElem?_eq_some_iff.mp hb
    exact List.pairwise_iff_getElem.mp s.cands_ordered i j hi hj hij
  case task =>
    obtain ⟨v, rs, hplace, -⟩ := s.placeCand_eq c base
    have hgo := (exec_placeNode_first hs hbefore hc hbl hf).trans (congrArg _ ((hplace q idx hw).trans (State.placeTask_eq hx hr)))
    obtain ⟨hcmd, hout, hin⟩ := State.launch_spec _ (i := State.taskInst _ q idx base c.ncores x r) htrip hfit
    refine ⟨_, (s.taskInst q idx base c.ncores x r).begun r.trip.toNat, hgo, ?_,
      rfl, rfl, rfl, rfl, rfl, rfl, rfl, rfl, rfl, rfl, rfl, rfl, ⟨s.taskNode x, ?_, rfl⟩, fun n hn => hin.core rfl hn, fun k hk => hout k (Inst.not_mem_cores hfit hk)⟩
    · rw [hcmd]
      exact updFirst_append_last (fun j hj => beq_eq_false_iff_ne.mpr (hnew j hj)) (beq_self_eq_true _)
    · rw [State.node?, hcmd]
      have hself : x.is q idx = true := List.find?_some (p := fun y : Node => y.is q idx) hx
      exact find?_updFirst hx hself
  case resume =>
    obtain ⟨v, rs, -, hplace⟩ := s.placeCand_eq c base
    refine ⟨_, (exec_placeNode_first hs hbefore hc hbl hf).trans (congrArg _ (hplace n i hw hi)), ?_⟩
    exact hn ▸ State.bindResume_inst (hn.symm ▸ hi) base none
  case preempt =>
    obtain ⟨m, hm, hle, hmem⟩ := State.boundary_kernel htrip hk
    obtain ⟨hinst, hslots, hcore⟩ := State.requestStop_kernel hi hm hself fun k hm => (hk k hm).2
    exact ⟨_, m, exec_preemptTimeout_stops hj hs hb ht hr hv hi hp, hle, hmem, hinst, hslots, hcore⟩

end

section

/-! # The frame of array and vector words (O56)

`Shared` says which of the registers that the engines of a core share a word may write; `Core.kept w` is the core with those blanked,
so that two cores with the same `kept w` differ in nothing else. Each update of a core keeps it where the register that it writes is
allowed; each word keeps it where `Instr.writes` allows what its rule names; and an engine word changes, besides its body's core, only
its engine, the token counters and the fault. -/

set_option Elab.async false

namespace Sys2Proof.Machine

open Sys2Proof.Safety

/-! ### What a word may write -/

/-- Which of the shared registers of a core may change. -/
structure Shared where
  e : Bool := false
  m : Bool := false
  acc : Bool := false
  tiles : Bool := false
  table : Bool := false
  counts : Bool := false

/-- The core with the shared registers that may change as at reset. -/
def Core.kept (w : Shared) (c : Core) : Core :=
  { c with
    e := if w.e then Core.reset.e else c.e
    m := if w.m then Core.reset.m else c.m
    acc := if w.acc then Core.reset.acc else c.acc
    tiles := if w.tiles then Core.reset.tiles else c.tiles
    table := if w.table then Core.reset.table else c.table
    counts := if w.counts then Core.reset.counts else c.counts }

/-- The array word that writes the table (R235). -/
def writesTable : Instr → Bool
  | .atbld _ => true
  | _ => false

/-- The array word that writes the centroid counts (R243). -/
def writesCounts : Instr → Bool
  | .acent _ => true
  | _ => false

/-- What an array or vector word may write of the shared registers. -/
def instrWrites (i : Instr) : Shared where
  e := writesE i
  m := writesMask i
  acc := writesAcc i
  tiles := writesTile i
  table := writesTable i
  counts := writesCounts i

section
variable {w : Shared}

theorem foldl_kept {β : Type} (f : Core → β → Core) (l : List β) (c : Core) (hf : ∀ d b, (f d b).kept w = d.kept w) :
    (l.foldl f c).kept w = c.kept w :=
  foldl_keep (fun d : Core => d.kept w = c.kept w) f l c rfl fun d b _ hd => (hf d b).trans hd
theorem foldl_fst_kept {β : Type} (f : Core × Fl → β → Core × Fl) (l : List β) (x : Core × Fl)
    (hf : ∀ y b, (f y b).1.kept w = y.1.kept w) : (l.foldl f x).1.kept w = x.1.kept w :=
  foldl_keep (fun y : Core × Fl => y.1.kept w = x.1.kept w) f l x rfl fun y b _ hy => (hf y b).trans hy

/-! ### Updates of one register -/

theorem kept_setE {c : Core} {n v} (h : w.e = true) : (setE c n v).kept w = c.kept w := by simp [Core.kept, setE, h]
theorem kept_setM {c : Core} {v} (h : w.m = true) : Core.kept w { c with m := v } = c.kept w := by simp [Core.kept, h]
theorem kept_setTable {c : Core} {v} (h : w.table = true) : Core.kept w { c with table := v } = c.kept w := by simp [Core.kept, h]
theorem kept_setCounts {c : Core} {v} (h : w.counts = true) : Core.kept w { c with counts := v } = c.kept w := by simp [Core.kept, h]
theorem kept_setCell {c : Core} {a i j v} (h : w.acc = true) : (c.setCell a i j v).kept w = c.kept w := by
  simp [Core.kept, Core.setCell, h]
theorem kept_setRowBits {c : Core} {t row v} (h : w.tiles = true) : (c.setRowBits t row v).kept w = c.kept w := by
  simp [Core.kept, Core.setRowBits, Core.setTileBytes, h]

/-! ### Tiles -/

section
variable (h : w.tiles = true)
include h

theorem kept_writeElems {c : Core} {o row l} : (c.writeElems o row l).kept w = c.kept w := by
  fun_cases Core.writeElems
  · rfl
  · rfl
  · exact kept_setRowBits h
theorem kept_writeMatRow {c : Core} {o row0 i vals} : (c.writeMatRow o row0 i vals).kept w = c.kept w := by
  fun_cases Core.writeMatRow <;> simp +zetaDelta only [kept_writeElems h]
theorem kept_writeMat {c : Core} {o row0 vals} : (c.writeMat o row0 vals).kept w = c.kept w :=
  foldl_kept _ _ _ fun _ _ => kept_writeMatRow h
theorem kept_writeLanes {c : Core} {o row n l} : (c.writeLanes o row n l).kept w = c.kept w := by
  fun_cases Core.writeLanes
  · rfl
  · rfl
  · exact kept_setRowBits h
theorem kept_vecWrite {v : VCtx} {c : Core} {o n l} : (v.write c o n l).kept w = c.kept w := by
  unfold VCtx.write
  split
  · exact kept_writeLanes h
  · exact foldl_kept _ _ _ fun _ _ => kept_writeLanes h
theorem kept_vlanes {i : Issue} {m v d srcs every f} : (vlanes i m v d srcs every f).1.kept w = i.c.kept w :=
  foldl_fst_kept _ _ _ fun _ _ => kept_vecWrite h
theorem kept_packWrite {c : Core} {d row0 rs} : (packWrite c d row0 rs).1.kept w = c.kept w :=
  foldl_fst_kept _ _ _ fun _ _ => by dsimp only; split; exacts [kept_writeElems h, rfl]

end

/-! ### Accumulators -/

section
variable (h : w.acc = true)
include h

theorem kept_mapCells {c : Core} {a n m f} : (c.mapCells a n m f).1.kept w = c.kept w :=
  foldl_fst_kept _ _ _ fun _ _ => foldl_fst_kept _ _ _ fun _ _ => kept_setCell h
theorem kept_zeroCells {c : Core} {a n m} : (c.zeroCells a n m).kept w = c.kept w := kept_mapCells h
theorem kept_prodCells {i p x terms cols} : (prodCells i p x terms cols).1.kept w = i.c.kept w := kept_mapCells h
theorem kept_drainClear {c : Core} {p x} : (drainClear c p x).kept w = c.kept w := by
  fun_cases drainClear
  · exact kept_zeroCells h
  · rfl
theorem kept_addPoint {env fa a x p} (hc : w.counts = true) : (addPoint env fa a x p).1.kept w = x.1.kept w := by
  unfold addPoint
  split
  · exact (kept_setCounts hc).trans (foldl_fst_kept _ _ _ fun _ _ => kept_setCell h)
  · rfl

end

/-! ### Engine words -/

/-- A body that issues sets the core of its word, and of the shared registers writes what `w` allows. -/
def Iss.Writes (w : Shared) (i : Issue) (u : State) : Iss → Prop
  | .ok t _ => ∃ c, t = u.setCore i.k c ∧ c.kept w = i.c.kept w
  | .trap _ | .hold => True

theorem done_writes {i : Issue} {u : State} {pt : Fin 8} {r : Core × Fl} (h : r.1.kept w = i.c.kept w) : (i.done u pt r).Writes w i u :=
  ⟨r.1, rfl, h⟩

theorem trap_writes {i : Issue} {u : State} {t : Trap} : (Iss.trap t).Writes w i u := trivial

/-- Of a core at most engine `g`, the token counters, the fault and what `w` allows differ. -/
def WordFrame (w : Shared) (g : Engine) (x y : Core) : Prop :=
  (Core.setEng { y with tok := x.tok, fault := x.fault } g (x.eng g)).kept w = x.kept w

/-- A word of engine `g` that answers a next state changes nothing outside its core, and there what `w` allows. -/
def Out.Frames (w : Shared) (s : State) (o : Out) : Prop :=
  ∀ k g t, s.cur = .engine k g → o = .next t → OnlyCore s t k ∧ WordFrame w g (s.core k) (t.core k)

theorem wordFrame_refl (g : Engine) (x : Core) : WordFrame w g x x := by cases g <;> rfl
theorem wordFrame_fault (g : Engine) (x : Core) (f : Option FaultInfo) : WordFrame w g x { x with fault := f } := by cases g <;> rfl

/-- A word that takes tokens and issues with the core `c`. -/
theorem wordFrame_issued {g : Engine} {x c : Core} {self : Nat} {srcs : List Nat} (h : c.kept w = (x.subToks self srcs).kept w) (y : Eng) :
    WordFrame w g x (c.setEng g y) := by
  have hcore : (Core.setEng { c.setEng g y with tok := x.tok, fault := x.fault } g (x.eng g)).kept w =
      Core.setEng { c.kept w with tok := x.tok, fault := x.fault } g (x.eng g) := by cases g <;> rfl
  rw [WordFrame, hcore, h, Core.subToks_eq]
  cases g <;> rfl

theorem engWord_frames {s : State} {own : Engine → Bool} {t : Tok} {skip : Issue → Nat} {body : Issue → State → Iss}
    (hb : ∀ i u, (body i u).Writes w i u) : Out.Frames w s (engWord s own t skip body) := by
  intro k g t hc h
  unfold engWord at h
  rw [hc] at h
  dsimp only at h
  split at h
  case isTrue => cases h
  case isFalse =>
    split at h
    case h_1 =>
      cases h
      exact ⟨(s.setCore_self k).symm, wordFrame_refl ..⟩
    case h_2 d hd =>
      have hw := hb (engIssue s k g d) (s.setCore k d)
      split at h
      case h_1 tr _ =>
        cases h
        rcases s.raise_cases k (engAgent g) (engIssue s k g d).upc tr with e | e <;> rw [e]
        · exact ⟨(s.setCore_self k).symm, wordFrame_refl ..⟩
        · exact ⟨by rw [OnlyCore, State.setCore_core_self], by rw [State.setCore_core_self]; exact wordFrame_fault ..⟩
      case h_2 =>
        cases h
        exact ⟨(s.setCore_self k).symm, wordFrame_refl ..⟩
      case h_3 u f hok =>
        rw [hok] at hw
        obtain ⟨c, rfl, hk⟩ := hw
        have hkd : c.kept w = d.kept w := hk
        rw [Core.consume_inv hd] at hkd
        cases h
        simp only [State.setEng, engIssue, State.setCore_setCore, State.setCore_core_self, OnlyCore]
        exact ⟨trivial, wordFrame_issued hkd _⟩

/-- What a vector word's body gives keeps all but what `w` allows. -/
@[simp] def SomeKept (w : Shared) (c : Core) : Option (Core × Fl) → Prop
  | some r => r.1.kept w = c.kept w
  | none => True

theorem vectorWord_frames {s : State} {x : VgWord} {body : Issue → ModVG → Ops4 → Option (Core × Fl)}
    (hb : ∀ i m o, SomeKept w i.c (body i m o)) : Out.Frames w s (vectorWord x s body) :=
  engWord_frames fun i u => by
    have hr := hb i x.mod x.ops
    split
    · exact trap_writes
    · next e =>
      rw [e] at hr
      exact done_writes hr

end

/-! ### Array words

A body traps or is done with the core that its updates give; which updates these are is what each lemma cites. -/

section
variable {s : State}

theorem execAzero_frames {x} : Out.Frames { acc := true } s (execAzero x s) :=
  engWord_frames fun i t => by grind only [Iss.Writes, done_writes, kept_zeroCells]
theorem execAmma_frames {x} : Out.Frames { acc := true } s (execAmma x s) :=
  engWord_frames fun i t => by grind only [Iss.Writes, done_writes, kept_prodCells]
theorem execAmmas_frames {x} : Out.Frames { acc := true } s (execAmmas x s) :=
  engWord_frames fun i t => by grind only [Iss.Writes, done_writes, kept_prodCells]
theorem execAmmaz_frames {x} : Out.Frames { acc := true } s (execAmmaz x s) :=
  engWord_frames fun i t => by grind only [Iss.Writes, done_writes, kept_prodCells]
theorem execAtmma_frames {x} : Out.Frames { acc := true } s (execAtmma x s) :=
  engWord_frames fun i t => by grind only [Iss.Writes, done_writes, kept_mapCells]
theorem execAdist_frames {x} : Out.Frames { acc := true } s (execAdist x s) :=
  engWord_frames fun i t => by grind only [Iss.Writes, done_writes, kept_mapCells]
theorem execAdrainm_frames {x} : Out.Frames { acc := true } s (execAdrainm x s) :=
  engWord_frames fun i t => by grind only [Iss.Writes, done_writes, kept_drainClear]
theorem execAscacc_frames {x} : Out.Frames { acc := true } s (execAscacc x s) :=
  engWord_frames fun i t => by grind only [Iss.Writes, done_writes, kept_mapCells]
theorem execAaccld_frames {x} : Out.Frames { acc := true } s (execAaccld x s) :=
  engWord_frames fun i t => by grind only [Iss.Writes, done_writes, kept_mapCells]
theorem execAmova_frames {x} : Out.Frames { acc := true } s (execAmova x s) :=
  engWord_frames fun i t => by grind only [Iss.Writes, done_writes, kept_mapCells]
theorem execAtbld_frames {x} : Out.Frames { table := true } s (execAtbld x s) :=
  engWord_frames fun i t => by grind only [Iss.Writes, done_writes, kept_setTable]
theorem execAargmin_frames {x} : Out.Frames { e := true, tiles := true } s (execAargmin x s) :=
  engWord_frames fun i t => by grind only [Iss.Writes, done_writes, kept_writeElems, foldl_fst_kept, kept_setE]
theorem execAdrain_frames {x} : Out.Frames { acc := true, tiles := true } s (execAdrain x s) :=
  engWord_frames fun i t => by grind only [Iss.Writes, done_writes, kept_writeMat, kept_drainClear]
theorem execAcent_frames {x} : Out.Frames { acc := true, counts := true } s (execAcent x s) :=
  engWord_frames fun i t => by grind only [Iss.Writes, done_writes, kept_zeroCells, kept_setCounts, kept_addPoint, foldl_fst_kept]
theorem execAcdiv_frames {x} : Out.Frames { tiles := true } s (execAcdiv x s) :=
  engWord_frames fun i t => by grind only [Iss.Writes, done_writes, kept_writeMatRow, foldl_fst_kept]
theorem execAaccst_frames {x} : Out.Frames { tiles := true } s (execAaccst x s) :=
  engWord_frames fun i t => by grind only [Iss.Writes, done_writes, kept_writeMat]

/-! ### Vector words -/

theorem float2_frames {x op} : Out.Frames { tiles := true } s (float2 x s op) :=
  vectorWord_frames fun i m o => by grind only [SomeKept, kept_vlanes]
theorem floatMinMax_frames {x mx} : Out.Frames { tiles := true } s (floatMinMax x s mx) :=
  vectorWord_frames fun i m o => by grind only [SomeKept, kept_vlanes]
theorem unary_frames {x fs u extra f1} : Out.Frames { tiles := true } s (unary x s fs u extra f1) :=
  vectorWord_frames fun i m o => by grind only [SomeKept, kept_vlanes]
theorem convWord_frames {x u ok f1} : Out.Frames { tiles := true } s (convWord x s u ok f1) :=
  vectorWord_frames fun i m o => by grind only [SomeKept, kept_vlanes]
theorem maskWord_frames {x fs u two ok f} : Out.Frames { m := true } s (maskWord x s fs u two ok f) :=
  vectorWord_frames fun i m o => by grind only [SomeKept, kept_setM]
theorem int2_frames {x sat op} : Out.Frames { tiles := true } s (int2 x s sat op) :=
  vectorWord_frames fun i m o => by grind only [SomeKept, kept_vlanes]
theorem bit2_frames {x op} : Out.Frames { tiles := true } s (bit2 x s op) :=
  vectorWord_frames fun i m o => by grind only [SomeKept, kept_vlanes]
theorem fillWord_frames {x fs bytes f} : Out.Frames { tiles := true } s (fillWord x s fs bytes f) :=
  vectorWord_frames fun i m o => by grind only [SomeKept, kept_vlanes]
theorem reduceWord_frames {x k} : Out.Frames { tiles := true } s (reduceWord x s k) :=
  vectorWord_frames fun i m o => by grind only [SomeKept, kept_packWrite]
theorem moveWord_frames {x u fs bytes ok f} : Out.Frames { tiles := true } s (moveWord x s u fs bytes ok f) :=
  vectorWord_frames fun i m o => by grind only [SomeKept, kept_vlanes]
theorem execVfma_frames {x} : Out.Frames { tiles := true } s (execVfma x s) :=
  vectorWord_frames fun i m o => by grind only [SomeKept, kept_vlanes]
theorem execVbmax_frames {x} : Out.Frames { tiles := true } s (execVbmax x s) :=
  vectorWord_frames fun i m o => by grind only [SomeKept, kept_packWrite]
theorem execVpack_frames {x} : Out.Frames { tiles := true } s (execVpack x s) :=
  vectorWord_frames fun i m o => by grind only [SomeKept, kept_vecWrite, foldl_fst_kept]
theorem execVzbm_frames {x} : Out.Frames { tiles := true } s (execVzbm x s) :=
  vectorWord_frames fun i m o => by grind only [SomeKept, kept_vlanes]
theorem execVcsum_frames {x} : Out.Frames { tiles := true } s (execVcsum x s) :=
  vectorWord_frames fun i m o => by grind only [SomeKept, kept_packWrite]
theorem execVscan_frames {x} : Out.Frames { tiles := true } s (execVscan x s) :=
  vectorWord_frames fun i m o => by grind only [SomeKept, kept_vecWrite, foldl_fst_kept]
theorem execVmov_frames {x} : Out.Frames { tiles := true } s (execVmov x s) :=
  vectorWord_frames fun i m o => by grind only [SomeKept, kept_vlanes]
theorem execVtrans_frames {x} : Out.Frames { tiles := true } s (execVtrans x s) :=
  vectorWord_frames fun i m o => by grind only [SomeKept, kept_writeElems, foldl_kept]
theorem execVshuf_frames {x} : Out.Frames { tiles := true } s (execVshuf x s) :=
  vectorWord_frames fun i m o => by grind only [SomeKept, kept_vlanes]
theorem execVsel_frames {x} : Out.Frames { tiles := true } s (execVsel x s) :=
  vectorWord_frames fun i m o => by grind only [SomeKept, kept_vlanes]
theorem execVext_frames {x} : Out.Frames { e := true } s (execVext x s) :=
  vectorWord_frames fun i m o => by grind only [SomeKept, kept_setE]
theorem execVins_frames {x} : Out.Frames { tiles := true } s (execVins x s) :=
  vectorWord_frames fun i m o => by grind only [SomeKept, kept_vecWrite]
theorem execVmlog_frames {x} : Out.Frames { m := true } s (execVmlog x s) :=
  vectorWord_frames fun i m o => by grind only [SomeKept, kept_setM]
theorem execVmpop_frames {x} : Out.Frames { e := true } s (execVmpop x s) :=
  vectorWord_frames fun i m o => by grind only [SomeKept, kept_setE]
theorem execVmfirst_frames {x} : Out.Frames { e := true, m := true } s (execVmfirst x s) :=
  vectorWord_frames fun i m o => by grind only [SomeKept, kept_setE, kept_setM]
theorem execVsfc_frames {x} : Out.Frames { tiles := true } s (execVsfc x s) :=
  vectorWord_frames fun i m o => by grind only [SomeKept, kept_vlanes]
theorem execVhist_frames {x} : Out.Frames { tiles := true } s (execVhist x s) :=
  vectorWord_frames fun i m o => by grind only [SomeKept, kept_packWrite]

/-- VUNPK writes both its halves with the same write. -/
theorem execVunpk_frames {x} : Out.Frames { tiles := true } s (execVunpk x s) := by
  refine engWord_frames fun i u => ?_
  dsimp only
  split
  case h_2 => exact trap_writes
  case h_1 =>
    split
    case h_2 => exact trap_writes
    case h_1 =>
      split
      case h_1 => exact trap_writes
      case h_2 =>
        split
        case isFalse => exact trap_writes
        case isTrue =>
          split
          case h_1 => exact trap_writes
          case h_2 =>
            split
            case isTrue => exact trap_writes
            case isFalse =>
              split
              case isTrue => exact trap_writes
              case isFalse =>
                exact done_writes (foldl_fst_kept _ _ _ fun _ _ => (kept_vecWrite rfl).trans (kept_vecWrite rfl))

theorem execVspars_frames {x} : Out.Frames { tiles := true } s (execVspars x s) :=
  engWord_frames fun i t => by grind only [Iss.Writes, done_writes, kept_vecWrite, kept_writeLanes, foldl_kept]

/-- An array or vector word changes of its core what its kind writes, and nothing else of the state. -/
theorem exec_frames {i : Instr} {g : Engine} (h : computesOn i = some g) : Out.Frames (instrWrites i) s (exec i s) := by
  cases i with
  | azero =>
    rw [exec_azero]
    exact execAzero_frames
  | amma =>
    rw [exec_amma]
    exact execAmma_frames
  | ammas =>
    rw [exec_ammas]
    exact execAmmas_frames
  | ammaz =>
    rw [exec_ammaz]
    exact execAmmaz_frames
  | atbld =>
    rw [exec_atbld]
    exact execAtbld_frames
  | atmma =>
    rw [exec_atmma]
    exact execAtmma_frames
  | adist =>
    rw [exec_adist]
    exact execAdist_frames
  | aargmin =>
    rw [exec_aargmin]
    exact execAargmin_frames
  | adrain =>
    rw [exec_adrain]
    exact execAdrain_frames
  | adrainm =>
    rw [exec_adrainm]
    exact execAdrainm_frames
  | ascacc =>
    rw [exec_ascacc]
    exact execAscacc_frames
  | acent =>
    rw [exec_acent]
    exact execAcent_frames
  | acdiv =>
    rw [exec_acdiv]
    exact execAcdiv_frames
  | aaccld =>
    rw [exec_aaccld]
    exact execAaccld_frames
  | aaccst =>
    rw [exec_aaccst]
    exact execAaccst_frames
  | amova =>
    rw [exec_amova]
    exact execAmova_frames
  | vadd | vsub | vmul =>
    simp only [exec_vadd, exec_vsub, exec_vmul]
    exact float2_frames
  | vmin | vmax =>
    simp only [exec_vmin, exec_vmax]
    exact floatMinMax_frames
  | vabs | vneg | vrcp | vrsq | vexp2 | vlog2 | vclamp | vshl | vshr | vpopc =>
    simp only [exec_vabs, exec_vneg, exec_vrcp, exec_vrsq, exec_vexp2, exec_vlog2, exec_vclamp, exec_vshl, exec_vshr,
      exec_vpopc]
    exact unary_frames
  | vscale | vcvt | vquant =>
    simp only [exec_vscale, exec_vcvt, exec_vquant]
    exact convWord_frames
  | vcmp | vclass | vicmp =>
    simp only [exec_vcmp, exec_vclass, exec_vicmp]
    exact maskWord_frames
  | viadd | visub | vimul | vimin | vimax =>
    simp only [exec_viadd, exec_visub, exec_vimul, exec_vimin, exec_vimax]
    exact int2_frames
  | vand | vor | vxor =>
    simp only [exec_vand, exec_vor, exec_vxor]
    exact bit2_frames
  | viota | vfill =>
    simp only [exec_viota, exec_vfill]
    exact fillWord_frames
  | vrsum | vrmax | vrmin | vramax =>
    simp only [exec_vrsum, exec_vrmax, exec_vrmin, exec_vramax]
    exact reduceWord_frames
  | vbcast | vrot =>
    simp only [exec_vbcast, exec_vrot]
    exact moveWord_frames
  | vfma =>
    rw [exec_vfma]
    exact execVfma_frames
  | vbmax =>
    rw [exec_vbmax]
    exact execVbmax_frames
  | vpack =>
    rw [exec_vpack]
    exact execVpack_frames
  | vunpk =>
    rw [exec_vunpk]
    exact execVunpk_frames
  | vspars =>
    rw [exec_vspars]
    exact execVspars_frames
  | vzbm =>
    rw [exec_vzbm]
    exact execVzbm_frames
  | vcsum =>
    rw [exec_vcsum]
    exact execVcsum_frames
  | vscan =>
    rw [exec_vscan]
    exact execVscan_frames
  | vmov =>
    rw [exec_vmov]
    exact execVmov_frames
  | vtrans =>
    rw [exec_vtrans]
    exact execVtrans_frames
  | vshuf =>
    rw [exec_vshuf]
    exact execVshuf_frames
  | vsel =>
    rw [exec_vsel]
    exact execVsel_frames
  | vext =>
    rw [exec_vext]
    exact execVext_frames
  | vins =>
    rw [exec_vins]
    exact execVins_frames
  | vmlog =>
    rw [exec_vmlog]
    exact execVmlog_frames
  | vmpop =>
    rw [exec_vmpop]
    exact execVmpop_frames
  | vmfirst =>
    rw [exec_vmfirst]
    exact execVmfirst_frames
  | vsfc =>
    rw [exec_vsfc]
    exact execVsfc_frames
  | vhist =>
    rw [exec_vhist]
    exact execVhist_frames
  | _ => cases h

end

/-! ### The parts of a core in the frame -/

section
variable {w : Shared} {g : Engine} {x y : Core}

/-- What is not of the engines, the token counters, the fault and the shared registers stays. -/
theorem WordFrame.rest (h : WordFrame w g x y) (hg : g = .a ∨ g = .v) :
    y = { x with a := y.a, v := y.v, tok := y.tok, tiles := y.tiles, acc := y.acc, e := y.e, m := y.m, table := y.table,
                 counts := y.counts, fault := y.fault } := by
  rcases hg with rfl | rfl
  all_goals exact congrArg (fun z : Core => { z with
    a := y.a, v := y.v, tok := y.tok, tiles := y.tiles, acc := y.acc, e := y.e, m := y.m, table := y.table, counts := y.counts
    fault := y.fault }) h

theorem WordFrame.eng (h : WordFrame w g x y) {e : Engine} (he : e ≠ g) : y.eng e = x.eng e := by
  have hk : ∀ c : Core, (c.kept w).eng e = c.eng e := fun c => by cases e <;> rfl
  have heng := congrArg (Core.eng · e) h
  simp only [hk, Core.setEng_eng_ne _ _ he] at heng
  rw [← heng]
  cases e <;> rfl

/-- A shared register that `w` does not allow stays. -/
theorem WordFrame.shared (h : WordFrame w g x y) :
    (w.e = false → y.e = x.e) ∧ (w.m = false → y.m = x.m) ∧ (w.acc = false → y.acc = x.acc) ∧
    (w.tiles = false → y.tiles = x.tiles) ∧ (w.table = false → y.table = x.table) ∧ (w.counts = false → y.counts = x.counts) := by
  refine ⟨fun hw => ?e, fun hw => ?m, fun hw => ?acc, fun hw => ?tiles, fun hw => ?table, fun hw => ?counts⟩
  case e => cases g <;> simpa [Core.kept, Core.setEng, hw] using congrArg Core.e h
  case m => cases g <;> simpa [Core.kept, Core.setEng, hw] using congrArg Core.m h
  case acc => cases g <;> simpa [Core.kept, Core.setEng, hw] using congrArg Core.acc h
  case tiles => cases g <;> simpa [Core.kept, Core.setEng, hw] using congrArg Core.tiles h
  case table => cases g <;> simpa [Core.kept, Core.setEng, hw] using congrArg Core.table h
  case counts => cases g <;> simpa [Core.kept, Core.setEng, hw] using congrArg Core.counts h

end

/-- Array words run on engine A, vector words on V. -/
theorem computesOn_engine {i : Instr} {g : Engine} (h : computesOn i = some g) : g = .a ∨ g = .v := by
  revert h
  fun_cases computesOn i
  all_goals simp +contextual

theorem writesTable_eq_false {i : Instr} (h : ∀ w, i ≠ .atbld w) : writesTable i = false := by
  fun_cases writesTable i
  · exact absurd rfl (h _)
  · rfl

theorem writesCounts_eq_false {i : Instr} (h : ∀ w, i ≠ .acent w) : writesCounts i = false := by
  fun_cases writesCounts i
  · exact absurd rfl (h _)
  · rfl

end Sys2Proof.Machine

open Sys2Proof.Machine in
/-- Settles O56: the frame of the word's execution, read off part by part of its core. -/
theorem engineWordFrame : Obligations.EngineWordFrame := by
  unfold Obligations.EngineWordFrame
  intro i s t k g hi hc h x y
  obtain ⟨honly, hframe⟩ := exec_frames hi k g t hc h
  obtain ⟨he, hm, hacc, htiles, htable, hcounts⟩ := hframe.shared
  refine ⟨honly, hframe.rest (computesOn_engine hi), fun hg => ?_, fun hg => ?_, he, hm, hacc, htiles,
    fun hw => htable (writesTable_eq_false hw), fun hw => hcounts (writesCounts_eq_false hw)⟩
  · exact hframe.eng (e := .v) (by simp [hg])
  · exact hframe.eng (e := .a) (by simp [hg])

end

section

/-! # Words and their encodings (O55, O54) -/

set_option Elab.async false

namespace Sys2Proof.Laws.RoundTrip

/-- R81 to R99: every instruction, by the lemma of its own name; the arguments stand in the order of the constructors. -/
theorem statement_of_every (i : Instr) : Statement i :=
  Instr.casesOn (motive := Statement) i
    add sub and or xor sll srl sra mul mulh mulhu div divu rem remu min max minu maxu clz popc andn addi andi ori xori slli srli
    srai liu addpc cmp cmpi plog sel br jal jalr ldb ldh ldw ldd ldbu ldhu ldwu ldfeW ldfeE ldfeN stb sth stw std stfeF stfeWe
    feqQ feqClr feqSet invr wbr wbinvr invi fenceCls fenceRel fenceAcq fenceAr amoSwap amoAdd amoAnd amoOr amoXor amoMin amoMax
    amoMinu amoMaxu amoFadd amoCas redAdd redAnd redOr redXor redMin redMax redMinu redMaxu redFadd qpush qpop racqP racqC rrelP
    rrelC fork join sete gete twait tpost setts getts barA barW barAw barTry trmSend trmIdle trmBusy trmTest movs movts trap yield
    done instructionFetch enop ehalt eskip eflag sectionFetch sectionExecute engineWordComplete azero amma ammas ammaz atbld atmma
    adist aargmin adrain adrainm adrainmStoresAccepted ascacc acent acdiv aaccld aaccst amova vadd vsub vmul vfma vmin vmax vabs
    vneg vrcp vrsq vexp2 vlog2 vscale vclamp vcmp vclass viadd visub vimul vimin vimax vand vor vxor vshl vshr vpopc vicmp viota
    vcvt vquant vbmax vpack vunpk vspars vzbm vrsum vrmax vrmin vramax vcsum vscan vmov vtrans vbcast vshuf vrot vsel vext vins
    vfill vmlog vmpop vmfirst vsfc vhist cld cst ccpy cfill cwin cadv windowGranuleLand cgath cscat copyDataReturn copyWriteAccept
    cdec cenc cxfm cstash cunst csdrop cbat csend crecv cchstStat cchstGrant cringSum cringMax cringBcast crepart cpin cunpin
    cpref cflush cmetaRead cmetaWrite kick tailReadReturn queueEnable queueDisable recordEnter nop task stage xform coll signal
    wait waitPoll waitTimeout nodeComplete cplheadReread msixUnmask leasePhase noticeackRetry noticeackFail nqcfgWrite nqheadWrite
    tlbInvalidate tlbInvalidateDone atsInvalidate bar4Read bar4Write registerWrite placeNode placementReserve preemptTimeout
    contextSave contextResume partStart rendezvous iterLong retire faultTeardown frheadWrite podBarrierArrival trmTokenPass
    mbsEvaluate starveExpiry spanReportReceive spanPickReceive spanStartTime spanMemberLost firnWriteDone firnFillDone
    bankSwitchComplete neveDisplace poisonDetect memoryEventRecord rowActivation rowRefresh promoteCount acreset tierHigh tierLow
    rgcmd rgcmdDone tmcmd tierMoveDone calvctlGo calvMapLoaded calvLineCopy calvMoveDone calvSettleDone phase channelEndOpen
    channelEndClose messageDelivered messageConfirm ackReceive channelBroken batchReceive batchReply batchResend remoteRequest
    resetNak remoteTimeout incarnationAnnounce ringChunkReceive driftLoadsReceive driftOfferReceive driftRecordsReceive
    powerControlTick trip linkRetrain parkRequest parkedEnter parkClear correctedError stackWarnWindow load commit enrol unenrol
    quote coldReset warmReset illegalOpcode torusPortDown torusPortUp powerLoss fwcmdComplete firmwareError

end Sys2Proof.Laws.RoundTrip

/-- Settles O55: `Statement` holds of every instruction. -/
theorem decodeReadsWhatEncodeWrites : Obligations.DecodeReadsWhatEncodeWrites := by
  unfold Obligations.DecodeReadsWhatEncodeWrites
  exact fun i n w hwf he => Sys2Proof.Laws.RoundTrip.statement_of_every i hwf n w he

/-- Settles O54: each word is what the encoder writes for its instruction; the two words that are no instruction's are decoded to nothing. -/
theorem sampleWordsDecode : Obligations.SampleWordsDecode := by
  unfold Obligations.SampleWordsDecode
  have reads {n w : Nat} (i : Sys2Proof.Instr) (hwf : i.wf = true) (he : Sys2Proof.encode i = some (n, w)) :
      Sys2Proof.decodeTableWord n w = some i := decodeReadsWhatEncodeWrites i n w hwf he
  refine ⟨reads _ rfl rfl, rfl, rfl, reads _ rfl rfl, reads _ rfl rfl, reads _ rfl rfl, reads _ rfl rfl, reads _ rfl rfl,
    reads _ rfl rfl, reads _ rfl rfl, reads _ rfl rfl, reads _ rfl rfl, reads _ rfl rfl, reads _ rfl rfl, reads _ rfl rfl,
    reads _ rfl rfl, reads _ rfl rfl, reads _ rfl rfl, reads _ rfl rfl⟩

end

section

/-! # Fetching words and sections (O15)

A word comes through the instruction L1 (R185, R301): the line that holds it, or the line as memory has it. A section comes whole: its
header, then its words (R100, R101). The events of fetching follow from what a fetch answers. -/

set_option Elab.async false

namespace Sys2Proof.Machine

open Sys2Proof.Safety

/-! ### Lines of the instruction L1 -/

/-- A run within a run that is read. -/
theorem sgetRun_slice {α : Type} (d : α) (l : List (Nat × α)) {a n o m : Nat} (h : o + m ≤ n) :
    ((sgetRun d l a n).drop o).take m = sgetRun d l (a + o) m := by
  refine List.ext_getElem ?_ fun i h1 h2 => ?_
  · simp only [List.length_take, List.length_drop, sgetRun_length]
    omega
  · rw [List.getElem_take, List.getElem_drop, sgetRun_getElem, sgetRun_getElem, Nat.add_assoc]

/-- No sector that the bytes touch is poisoned, so that of the first byte is not (R301). -/
theorem MemSide.kmem_of_poisonedAt {m : MemSide} {a n : Nat} (hn : 0 < n) (h : m.poisonedAt a n = none) :
    ¬ kmem m.poison (a / 64) = true := by
  intro hmem
  have hno := List.find?_eq_none.mp h (a / 64) (List.contains_iff_mem.mp hmem)
  simp only [Bool.and_eq_true, decide_eq_true_eq] at hno
  omega

theorem MemSide.toNat_num (m : MemSide) (a : Nat) : (BitVec.ofNat 32 (m.num a 4)).toNat = m.num a 4 := by
  have hlt : m.num a 4 < 256 ^ (m.read a 4).length := leNum_lt _
  rw [MemSide.read, sgetRun_length] at hlt
  exact (BitVec.toNat_ofNat ..).trans (Nat.mod_eq_of_lt hlt)

section
variable {flat : Nat}

theorem MemSide.iline_word (m : MemSide) (h : flat % 4 = 0) :
    (m.iline (flat / 128 * 128)).word (flat % 128) = BitVec.ofNat 32 (m.num flat 4) := by
  have hslice := sgetRun_slice (0 : Byte) m.cells (a := flat / 128 * 128) (show flat % 128 + 4 ≤ 128 by omega)
  rw [Nat.div_add_mod'] at hslice
  exact congrArg (fun bs => BitVec.ofNat 32 (leNum bs)) hslice

theorem MemSide.mem_iline_poison (m : MemSide) (j : Nat) :
    j ∈ (m.iline (flat / 128 * 128)).poison ↔ j < 2 ∧ kmem m.poison (flat / 128 * 2 + j) = true := by
  have hsector : flat / 128 * 128 / 64 = flat / 128 * 2 := by omega
  have htwo : j ∈ [0, 1] ↔ j < 2 := by simp only [List.mem_cons, List.not_mem_nil, or_false]; omega
  rw [MemSide.iline, List.mem_filter, hsector, htwo]

/-- The poison of a line as memory has it is that of the word's own sector (R301). -/
theorem MemSide.sector_mem_iline (m : MemSide) :
    flat % 128 / 64 ∈ (m.iline (flat / 128 * 128)).poison ↔ kmem m.poison (flat / 64) = true := by
  have hsector : flat / 128 * 2 + flat % 128 / 64 = flat / 64 := by omega
  rw [MemSide.mem_iline_poison, hsector, and_iff_right (by omega)]

variable {l : ILine} {pc : W64} {o : Nat} {s : State}

theorem ILine.fetch_of_sound (h : o / 64 ∉ l.poison) : l.fetch pc o s = .ok (l.word o) s := by
  rw [ILine.fetch, if_neg (by rwa [List.contains_iff_mem])]

theorem ILine.fetch_of_poisoned (h : o / 64 ∈ l.poison) : l.fetch pc o s = .trap (poisonTrap pc (l.pa / 64 + o / 64)) := by
  rw [ILine.fetch, if_pos (List.contains_iff_mem.mpr h)]

end

/-! ### The word at a PC (R185) -/

section
variable {s u : State} {k : Fin 128} {c : CtxId} {flat : Nat} {l : ILine}

theorem fetchWord_of_ahead {w : W32} (h : (s.ctx k c).ahead = some ((s.ctx k c).pc, w)) : s.fetchWord k c = .ok w s := by
  simp [State.fetchWord, h]

/-- A word that was not fetched ahead is fetched. -/
theorem fetchWord_eq_fetchMem (h : ∀ a w, (s.ctx k c).ahead = some (a, w) → a ≠ (s.ctx k c).pc) :
    s.fetchWord k c = State.fetchWord.fetchMem s k c (s.ctx k c) := by
  unfold State.fetchWord
  dsimp only
  split
  case h_1 a w ha => exact if_neg (h a w ha)
  case h_2 => rfl

variable (hahead : ∀ a w, (s.ctx k c).ahead = some (a, w) → a ≠ (s.ctx k c).pc) (hhere : HereAt s k (s.ctx k c).pc 4 .fetch flat u)
include hahead hhere

theorem fetchWord_of_hit (hl : (u.core k).il1.find? (·.pa == flat / 128 * 128) = some l) :
    s.fetchWord k c = l.fetch (s.ctx k c).pc (flat % 128) u := by
  obtain ⟨host, m, ds, hspace, hvirt⟩ := hhere
  rw [fetchWord_eq_fetchMem hahead]
  simp only [State.fetchWord.fetchMem, hspace, hvirt, hl]

/-- A line that the L1 does not hold comes in as memory has it (R185). -/
theorem fetchWord_of_miss (hl : (u.core k).il1.find? (·.pa == flat / 128 * 128) = none) :
    s.fetchWord k c = (u.mem.iline (flat / 128 * 128)).fetch (s.ctx k c).pc (flat % 128)
      (u.setCore k { u.core k with il1 := (u.mem.iline (flat / 128 * 128) :: (u.core k).il1).take l1Lines }) := by
  obtain ⟨host, m, ds, hspace, hvirt⟩ := hhere
  rw [fetchWord_eq_fetchMem hahead]
  simp only [State.fetchWord.fetchMem, hspace, hvirt, hl]

end

/-! ### A word fetched ahead (R185) -/

section
variable {s t : State} {k : Fin 128} {c : CtxId}

/-- A word that comes in with its line leaves the contexts as they are. -/
theorem ctx_setCore_il1 (u : State) (k : Fin 128) (c : CtxId) (l : List ILine) :
    (u.setCore k { u.core k with il1 := l }).ctx k c = u.ctx k c := by
  rw [State.ctx, State.setCore_core_self]
  cases c <;> rfl

variable (hrun : (s.ctx k c).run = .running) (hf : (s.core k).fault = none)
include hrun hf

theorem exec_instructionFetch_of_ok {w : W32} (h : s.fetchWord k c = .ok w t) :
    exec (.instructionFetch k.val c) s = .next (t.setCtx k c { t.ctx k c with ahead := some ((s.ctx k c).pc, w) }) := by
  simp only [exec_instructionFetch, execInstructionFetch, coreIx_val]
  rw [if_pos ⟨k.isLt, hrun, hf⟩, h]

/-- A fetch ahead that fails raises nothing. -/
theorem exec_instructionFetch_of_trap {tr : Trap} (h : s.fetchWord k c = .trap tr) : exec (.instructionFetch k.val c) s = .next s := by
  simp only [exec_instructionFetch, execInstructionFetch, coreIx_val]
  rw [if_pos ⟨k.isLt, hrun, hf⟩, h]

end

/-! ### Sections (R100, R101) -/

section
variable {s u v : State} {k : Fin 128} {e : Engine} {a : W64} {bs : List Byte} {ws : List (BitVec 96)}

/-- What the header of a section obeys (R100). -/
theorem headerOk_iff (h : Nat) : headerOk e h = true ↔
    (bitsNat h 60 4 = 0xA ∧ bitsNat h 58 2 = engCode e) ∧ 1 ≤ (readHeader h).nwords ∧ (readHeader h).nwords ≤ 2730 ∧
      ((readHeader h).repsrc = true ∨ (readHeader h).repe = 0) := by
  simp [headerOk, and_assoc]

variable (hb : s.streamBytes k e a 8 = .ok bs u)
include hb

theorem fetchSection_of_good (hok : headerOk e (leNum bs) = true)
    (hw : u.streamWords k e a (readHeader (leNum bs)).nwords 0 = .ok (ws, none) v) :
    s.fetchSection k e a = .ok ⟨a, readHeader (leNum bs), ws, none⟩ v := by
  simp [State.fetchSection, hb, hok, hw]

/-- A header that is not well formed is fetched alone, with the fault that it is to raise. -/
theorem fetchSection_of_bad (hok : ¬ headerOk e (leNum bs) = true) :
    s.fetchSection k e a = .ok ⟨a, readHeader (leNum bs), [], some ((readHeader (leNum bs)).secnum, 0xFFF, .at .decodeFormat a)⟩ u := by
  simp [State.fetchSection, hb, hok]

end

section
variable {s t : State} {k : Fin 128} {e : Engine} {f : Fetched}

section
variable (hf : (s.core k).fault = none) (hrun : (s.eng k e).run = true) (hbuf : (s.eng k e).buf = none)
  (hsec : s.fetchSection k e (s.eng k e).next = .ok f t)
include hf hrun hbuf hsec

/-- The stream buffer has no room for the section (R14). -/
theorem exec_sectionFetch_of_full (hfull : ¬ (s.eng k e).curSize + f.size ≤ streamBuffer) : exec (.sectionFetch k.val e) s = .next s := by
  simp only [exec_sectionFetch, execSectionFetch, coreIx_val]
  rw [if_pos ⟨k.isLt, hrun, hbuf, hf⟩, hsec]
  exact if_pos (Nat.lt_of_not_le hfull)

theorem exec_sectionFetch_of_room (hroom : (s.eng k e).curSize + f.size ≤ streamBuffer) :
    exec (.sectionFetch k.val e) s = .next (t.setEng k e
      { t.eng k e with buf := some f, next := nextHeader (s.eng k e).next f.hdr.nwords, got := [], asked := none }) := by
  simp only [exec_sectionFetch, execSectionFetch, coreIx_val]
  rw [if_pos ⟨k.isLt, hrun, hbuf, hf⟩, hsec]
  exact if_neg (Nat.not_lt.mpr hroom)

end

/-- The repetitions of a section that comes to be executed (R101, R102). -/
def Fetched.reps (f : Fetched) (c : Core) : Nat :=
  if f.hdr.repsrc = true then (c.e[f.hdr.repe]).toNat % 2 ^ 32 else f.hdr.repimm + 1

theorem exec_sectionExecute_of_good (hf : (s.core k).fault = none) (hrun : (s.eng k e).run = true) (hcur : (s.eng k e).cur = none)
    (hbuf : (s.eng k e).buf = some f) (hbad : f.bad = none) :
    exec (.sectionExecute k.val e) s = .next (s.setEng k e { s.eng k e with
      buf := none, cur := if f.reps (s.core k) = 0 then none else some ⟨f, f.reps (s.core k), 0, 0⟩ }) := by
  simp only [exec_sectionExecute, execSectionExecute, coreIx_val]
  rw [if_pos ⟨k.isLt, hrun, hcur, hf⟩, hbuf]
  dsimp only
  rw [hbad]
  rfl

end

end Sys2Proof.Machine

open Sys2Proof.Machine in
/-- Settles O15: a context's fetch is answered by the line that the L1 holds or by the line as memory has it, an engine's by the
section that its header heads; a section that comes to be executed has the repetitions of `Fetched.reps`. -/
theorem sectionsAndFetch : Obligations.SectionsAndFetch := by
  unfold Obligations.SectionsAndFetch
  intro s u v k c e flat bs ws hf x y h hdr named good
  have hgood : good ↔ headerOk e (leNum bs) = true := (headerOk_iff h).symm
  refine ⟨fun hrun hahead hhere halign => ⟨fun l hl => ⟨fun hsound => ?hit, fun hpoison => ?hitPoisoned⟩, fun hl => ⟨fun hsound => ?miss,
    fun hpoison => ?missPoisoned⟩⟩, fun hrun hbuf hb => ⟨fun hok hw hroom => ?full, fun hok hroom hw => ?fetched,
    fun hbad hroom => ?malformed⟩, fun f hrun hcur hbuf hbad => ?executed⟩
  case hit =>
    exact exec_instructionFetch_of_ok hrun hf ((fetchWord_of_hit hahead hhere hl).trans (ILine.fetch_of_sound hsound))
  case hitPoisoned =>
    exact exec_instructionFetch_of_trap hrun hf ((fetchWord_of_hit hahead hhere hl).trans (ILine.fetch_of_poisoned hpoison))
  case miss =>
    have hclean := mt (MemSide.sector_mem_iline u.mem).mp (ne_true_of_eq_false hsound)
    refine ⟨u.mem.iline (flat / 128 * 128), ?_, rfl, rfl, MemSide.mem_iline_poison u.mem⟩
    rw [exec_instructionFetch_of_ok hrun hf ((fetchWord_of_miss hahead hhere hl).trans (ILine.fetch_of_sound hclean)),
      MemSide.iline_word u.mem halign, ctx_setCore_il1]
    rfl
  case missPoisoned =>
    have hpoisoned := (MemSide.sector_mem_iline u.mem).mpr hpoison
    exact exec_instructionFetch_of_trap hrun hf ((fetchWord_of_miss hahead hhere hl).trans (ILine.fetch_of_poisoned hpoisoned))
  case full =>
    exact exec_sectionFetch_of_full hf hrun hbuf (fetchSection_of_good hb (hgood.mp hok) hw) hroom
  case fetched =>
    have hsec := fetchSection_of_good hb (hgood.mp hok) hw
    have hexec := exec_sectionFetch_of_room hf hrun hbuf hsec hroom
    exact hexec
  case malformed =>
    have hsec := fetchSection_of_bad hb (mt hgood.mpr hbad)
    exact ⟨_, exec_sectionFetch_of_room hf hrun hbuf hsec hroom⟩
  case executed =>
    have hexec := exec_sectionExecute_of_good hf hrun hcur hbuf hbad
    refine ⟨fun hreps => ?_, fun hreps => ?_⟩
    · rw [if_neg (show f.reps (s.core k) ≠ 0 from hreps)] at hexec
      exact hexec
    · rw [if_pos (show f.reps (s.core k) = 0 from hreps)] at hexec
      exact hexec

end

section

/-! # A step runs the decoded word (O53)

With power a step does what its turn names (R428). The turn of a context or of an engine that is ready to issue decodes its word and
runs it (R81, R102, R185); a core that stopped on a fault in an earlier cycle issues nothing (R384). -/

set_option Elab.async false

namespace Sys2Proof.Machine

open Sys2Proof.Safety

/-! ### The turn of a step -/

theorem step_of_powered {s : State} (h : (s.nextTurn.2.pass s.nextTurn.1).mgmt.powered = true) :
    step s = runAct (s.nextTurn.2.pass s.nextTurn.1) s.nextTurn.1.act := by
  simp [step, h]

/-- A word is run as it was decoded, or raises the fault of its decoding (R81). -/
theorem runs_of_eq_runDecoded {o : Out} {r : Except DecodeFault Instr} {t : State} (h : o = runDecoded r t) :
    (∀ i, r = .ok i → o = exec i t) ∧ ∀ f, r = .error f → o = exec (.illegalOpcode f) t :=
  ⟨fun i hi => by rw [h, hi]; rfl, fun f hf => by rw [h, hf]; rfl⟩

section
variable {s t : State} {k : Fin 128} {c : CtxId} {e : Engine}

theorem runAct_context : runAct s (.context k.val c) = stepContext s k c := by
  rw [runAct, if_pos k.isLt, coreIx_val]

theorem runAct_engine : runAct s (.engine k.val e) = stepEngine s k e := by
  rw [runAct, if_pos k.isLt, coreIx_val]

theorem issues_of_no_fault (h : (s.core k).fault = none) : s.issues k = true := by
  rw [State.issues, h]

theorem not_issues_of_fault {f : FaultInfo} (h : (s.core k).fault = some f) (hcyc : f.cyc ≠ s.cyc.toNat) : ¬ s.issues k = true := by
  rw [State.issues, h]
  exact fun hcyc' => hcyc (eq_of_beq hcyc')

/-! ### Contexts -/

theorem stepContext_of_stopped (h : ¬ s.issues k = true) : stepContext s k c = .next s :=
  if_neg fun hissue => h hissue.2

section
variable (hrun : (s.ctx k c).run = .running) (hf : (s.core k).fault = none)
include hrun hf

theorem stepContext_of_ok {w : W32} (h : s.fetchWord k c = .ok w t) :
    stepContext s k c = runDecoded (decodeControl w.toNat) { t with cur := .context k c } := by
  rw [stepContext, if_pos ⟨hrun, issues_of_no_fault hf⟩, h]

theorem stepContext_of_trap {tr : Trap} (h : s.fetchWord k c = .trap tr) : stepContext s k c = .next (s.raiseCtx k c tr) := by
  rw [stepContext, if_pos ⟨hrun, issues_of_no_fault hf⟩, h]

end

/-! ### Engines -/

theorem stepEngine_of_stopped (h : ¬ s.issues k = true) : stepEngine s k e = .next s := by
  unfold stepEngine
  split
  case h_1 => exact if_neg h
  case h_2 => rfl

theorem stepEngine_of_word {x : Exec} {w : BitVec 96} (hrun : (s.eng k e).run = true) (hcur : (s.eng k e).cur = some x)
    (hf : (s.core k).fault = none) (hw : x.sec.words[x.w]? = some w) :
    stepEngine s k e = runDecoded (decodeEngine e w.toNat) { s with cur := .engine k e } := by
  simp only [stepEngine, hrun, hcur, issues_of_no_fault hf, hw, if_true]

/-! ### Words that cannot be decoded (R81) -/

theorem exec_illegalOpcode_context {f : DecodeFault} (h : s.cur = .context k c) :
    exec (.illegalOpcode f) s = .next (s.raiseCtx k c (.plain (match f with
      | .illegalOpcode => .illegalOpcode
      | .illegalOperand => .illegalOperand))) := by
  simp only [exec_illegalOpcode, execIllegalOpcode, h]
  cases f <;> rfl

theorem exec_illegalOpcode_engine {f : DecodeFault} (h : s.cur = .engine k e) :
    exec (.illegalOpcode f) s = .next (s.raise k (engAgent e) (engIssue s k e (s.core k)).upc (.plain (match f with
      | .illegalOpcode => .illegalOpcode
      | .illegalOperand => .illegalOperand))) := by
  simp only [exec_illegalOpcode, execIllegalOpcode, h]
  cases f <;> rfl

end

end Sys2Proof.Machine

open Sys2Proof.Machine in
/-- Settles O53: a step with power is `runAct` of its turn, and the turn runs the word that the fetch, or the section, answers. -/
theorem stepRunsTheDecodedWord : Obligations.StepRunsTheDecodedWord := by
  unfold Obligations.StepRunsTheDecodedWord
  intro s k c e turn v x runs
  refine ⟨fun hpower => ?_, fun f => ⟨exec_illegalOpcode_context, exec_illegalOpcode_engine⟩⟩
  have hstep : step s = runAct v turn.act := step_of_powered hpower
  have hcontext (h : turn.act = .context k.val c) : step s = stepContext v k c := by rw [hstep, h, runAct_context]
  have hengine (h : turn.act = .engine k.val e) : step s = stepEngine v k e := by rw [hstep, h, runAct_engine]
  refine ⟨fun hact hrun hf => ⟨fun w hw => ?ahead, fun flat u hahead hhere halign => ⟨fun l hl => ⟨fun hsound => ?hit,
    fun hpoison => ?hitPoisoned⟩, fun hl hclean => ?miss⟩⟩, fun y w hact hrun hcur hf hw => ?engine, fun i hact => ?event,
    fun n hact => ?evaluate, fun f hact hf hcyc => ?stopped⟩
  case ahead =>
    exact runs_of_eq_runDecoded ((hcontext hact).trans (stepContext_of_ok hrun hf (fetchWord_of_ahead hw)))
  case hit =>
    have hfetch := (fetchWord_of_hit hahead hhere hl).trans (ILine.fetch_of_sound hsound)
    exact runs_of_eq_runDecoded ((hcontext hact).trans (stepContext_of_ok hrun hf hfetch))
  case hitPoisoned =>
    have hfetch := (fetchWord_of_hit hahead hhere hl).trans (ILine.fetch_of_poisoned hpoison)
    exact ⟨_, (hcontext hact).trans (stepContext_of_trap hrun hf hfetch)⟩
  case miss =>
    have hsound := mt (MemSide.sector_mem_iline u.mem).mp (MemSide.kmem_of_poisonedAt (by decide) hclean)
    have hfetch := (fetchWord_of_miss hahead hhere hl).trans (ILine.fetch_of_sound hsound)
    have hruns := (hcontext hact).trans (stepContext_of_ok hrun hf hfetch)
    rw [MemSide.iline_word u.mem halign, MemSide.toNat_num] at hruns
    refine ⟨u.mem.iline (flat / 128 * 128), rfl, rfl, fun j hj => ?_, runs_of_eq_runDecoded hruns⟩
    rw [MemSide.mem_iline_poison, and_iff_right hj]
  case engine =>
    exact runs_of_eq_runDecoded ((hengine hact).trans (stepEngine_of_word hrun hcur hf hw))
  case event =>
    rw [hstep, hact, runAct]
  case evaluate =>
    rw [hstep, hact, runAct, exec_mbsEvaluate]
  case stopped =>
    have hstop := not_issues_of_fault hf hcyc
    rcases hact with hact | hact
    · rw [hcontext hact, stepContext_of_stopped hstop]
    · rw [hengine hact, stepEngine_of_stopped hstop]

end

section

/-! # Queue blocks, the package's own accesses, and what closing nodes leaves (R112, R123, R127, R128)

An own access changes nothing but the ATC. Every way in which nodes leave the graph keeps one relation, `State.Closes`: nodes only go,
those that stay keep their predecessors and their phase, and instances, cores and the fabric are as they were. -/

set_option Elab.async false

namespace Sys2Proof.Machine
open Sys2Proof.Safety

/-! ### Sparse lists: a second write at a key replaces the first -/

section
variable {α : Type}

theorem serase_sinsert (a : Nat) (v : α) (l : List (Nat × α)) : serase a (sinsert a v l) = serase a l := by
  induction l with
  | nil => simp [sinsert, serase]
  | cons p l ih =>
    obtain ⟨k, w⟩ := p
    unfold sinsert
    split
    · simp [serase]
    · simp only [serase, List.filter_cons] at ih ⊢
      split <;> simp [ih]

theorem sset_sset [DecidableEq α] (d : α) (l : List (Nat × α)) (a : Nat) (v w : α) : sset d (sset d l a v) a w = sset d l a w := by
  have h : serase a (sset d l a v) = serase a l := by
    unfold sset
    split
    · simp [serase, List.filter_filter]
    · rw [serase_sinsert]; simp [serase, List.filter_filter]
  unfold sset at h ⊢
  rw [h]

end

/-! ### Queue blocks -/

section
variable (s : State) (q : Nat) (x y : Queue)

@[simp] theorem State.queue_setQueue_self : (s.setQueue q x).queue q = x := sget_sset_self ..
theorem State.queue_setQueue_ne {p : Nat} (h : p ≠ q) : (s.setQueue q x).queue p = s.queue p := sget_sset_ne _ _ _ h
@[simp] theorem State.setQueue_setQueue : (s.setQueue q x).setQueue q y = s.setQueue q y := by
  simp [State.setQueue, State.setCmd, sset_sset]
@[simp] theorem State.setQueue_nodes : (s.setQueue q x).cmd.nodes = s.cmd.nodes := rfl
@[simp] theorem State.setQueue_insts : (s.setQueue q x).cmd.insts = s.cmd.insts := rfl
@[simp] theorem State.setQueue_mem : (s.setQueue q x).mem = s.mem := rfl
@[simp] theorem State.setQueue_time : (s.setQueue q x).time = s.time := rfl
@[simp] theorem State.setQueue_fab : (s.setQueue q x).fab = s.fab := rfl
@[simp] theorem State.setQueue_stages : (s.setQueue q x).stages = s.stages := rfl

end

/-! ### Own accesses: only the ATC changes, and one run of bytes is read or written -/

/-- Nothing changes but the ATC. -/
def State.AtcOnly (s u : State) : Prop := u = s.setMem { s.mem with atc := u.mem.atc }

section
variable {s u w : State}

theorem State.AtcOnly.refl (s : State) : s.AtcOnly s := rfl
theorem State.AtcOnly.trans (h : s.AtcOnly u) (h' : u.AtcOnly w) : s.AtcOnly w := by
  unfold State.AtcOnly at *
  rw [h] at h'
  exact h'
theorem State.AtcOnly.cmd (h : s.AtcOnly u) : u.cmd = s.cmd := by rw [h]; rfl
theorem State.AtcOnly.fab (h : s.AtcOnly u) : u.fab = s.fab := by rw [h]; rfl
theorem State.AtcOnly.mgmt (h : s.AtcOnly u) : u.mgmt = s.mgmt := by rw [h]; rfl
theorem State.AtcOnly.stages (h : s.AtcOnly u) : u.stages = s.stages := by rw [h]; rfl
theorem State.AtcOnly.cores (h : s.AtcOnly u) : u.cores = s.cores := by rw [h]; rfl
theorem State.AtcOnly.time (h : s.AtcOnly u) : u.time = s.time := by rw [h]; rfl
theorem State.AtcOnly.queue (h : s.AtcOnly u) (q : Nat) : u.queue q = s.queue q := by rw [State.queue, h.cmd]; rfl
theorem State.AtcOnly.node? (h : s.AtcOnly u) (q idx : Nat) : u.node? q idx = s.node? q idx := by rw [State.node?, h.cmd]; rfl

theorem State.translate_none (s : State) (pasid va : Nat) : (s.translate none pasid va).2 = s := by
  unfold State.translate
  simp only [Option.bind_none]
  split
  · rfl
  · split <;> rfl

theorem State.ats_atcOnly (s : State) (pasid a : Nat) : s.AtcOnly (s.ats pasid a).2 := by
  unfold State.ats
  extract_lets page
  split
  · exact .refl s
  · split
    · split
      · split
        · rfl
        · exact .refl s
      · exact .refl s
    · exact .refl s

theorem State.ownPiece_atcOnly {pasid va : Nat} {need : Need} {d : Dest} (h : s.ownPiece pasid va need = .ok (d, u)) : s.AtcOnly u := by
  have ht := s.translate_none pasid va
  unfold State.ownPiece at h
  split at h
  · cases h
  · cases h
  · rename_i log2 l s1 hw
    obtain rfl : s1 = s := by rw [hw] at ht; exact ht
    dsimp only at h
    split at h
    · cases h
    · split at h
      · cases h
      · split at h
        · have ha := State.ats_atcOnly s1 pasid (l.ma + va % 2 ^ log2)
          split at h
          · rename_i he
            rw [he] at ha
            cases h
            exact ha
          · cases h
        · split at h
          · cases h
            exact .refl _
          · cases h

theorem State.ownAll_atcOnly {pasid : Nat} {need : Need} {ps : List (Nat × Nat)} {ds : List (Dest × Nat)}
    (h : s.ownAll pasid need ps = .ok (ds, u)) : s.AtcOnly u := by
  induction ps generalizing s ds with
  | nil =>
    cases h
    exact .refl _
  | cons p ps ih =>
    obtain ⟨va, n⟩ := p
    unfold State.ownAll at h
    split at h
    · cases h
    · rename_i hp
      split at h
      · cases h
      · rename_i ht
        cases h
        exact (State.ownPiece_atcOnly hp).trans (ih ht)

theorem State.ownDests_atcOnly {pasid va n : Nat} {need : Need} {ds : List (Dest × Nat)}
    (h : s.ownDests pasid va n need = .ok (ds, u)) : s.AtcOnly u := by
  unfold State.ownDests at h
  split at h
  · cases h
  · rename_i ha
    split at h
    · cases h
    · cases h
      exact State.ownAll_atcOnly ha

theorem State.ownRead_atcOnly {pasid va n : Nat} {bs : List Byte} (h : s.ownRead pasid va n = .ok (bs, u)) : s.AtcOnly u := by
  unfold State.ownRead at h
  split at h
  · cases h
  · rename_i hd
    cases h
    exact State.ownDests_atcOnly hd

/-- A write of the package's own changes memory alone. -/
theorem State.ownWrite_memOnly {pasid va : Nat} {bs : List Byte} (h : s.ownWrite pasid va bs = .ok u) : u = s.setMem u.mem := by
  unfold State.ownWrite at h
  split at h
  · cases h
  · rename_i hd
    cases h
    rw [State.ownDests_atcOnly hd]
    rfl

variable {pasid va n f : Nat} {need : Need}

theorem State.atcOnly_of_ownAt (h : OwnAt s pasid va n need f u) : s.AtcOnly u := State.ownDests_atcOnly h.choose_spec

theorem gatherPieces_here (m : MemSide) (got : List (Nat × List Byte)) (f n off : Nat) (host : Bool) :
    gatherPieces m got [(.here f host, n)] off = some (m.read f n) := by
  simp [gatherPieces]

theorem writeHere_here (m : MemSide) (bs : List Byte) (f : Nat) (host : Bool) :
    writeHere m bs [(.here f host, bs.length)] = m.write f bs := by
  simp [writeHere]

theorem State.ownRead_of_ownAt (h : OwnAt s pasid va n .read f u) : s.ownRead pasid va n = .ok (u.mem.read f n, u) := by
  obtain ⟨host, hd⟩ := h
  simp [State.ownRead, hd, gatherPieces_here]

theorem State.ownWrite_of_ownAt {bs : List Byte} (hn : bs.length = n) (h : OwnAt s pasid va n .write f u) :
    s.ownWrite pasid va bs = .ok (wrote u f bs) := by
  obtain ⟨host, hd⟩ := h
  subst hn
  simp [State.ownWrite, hd, writeHere_here, wrote]

end

/-! ### What closing nodes leaves -/

/-- Nodes and queues only go: each node that is left stood there before with its predecessors and its phase, a queue that is off and
reads no TAIL stays so, and instances, cores and the fabric are as they were. -/
structure State.Closes (s t : State) : Prop where
  nodes : ∀ y ∈ t.cmd.nodes, ∃ x ∈ s.cmd.nodes, y.q = x.q ∧ y.idx = x.idx ∧ y.preds = x.preds ∧ y.phase = x.phase
  count : t.cmd.nodes.length ≤ s.cmd.nodes.length
  queue : ∀ q, (s.queue q).en = false → (s.queue q).reading = false → (t.queue q).en = false ∧ (t.queue q).reading = false
  insts : t.cmd.insts = s.cmd.insts
  nqcfg : t.cmd.nqcfg = s.cmd.nqcfg
  cores : t.cores = s.cores
  fab : t.fab = s.fab

section
variable {s t u : State}

theorem State.Closes.refl (s : State) : s.Closes s := ⟨fun y hy => ⟨y, hy, rfl, rfl, rfl, rfl⟩, le_rfl, fun _ h h' => ⟨h, h'⟩, rfl, rfl, rfl, rfl⟩

theorem State.Closes.trans (h : s.Closes t) (h' : t.Closes u) : s.Closes u where
  nodes y hy := by
    obtain ⟨x, hx, hq, hi, hp, hf⟩ := h'.nodes y hy
    obtain ⟨z, hz, hq', hi', hp', hf'⟩ := h.nodes x hx
    exact ⟨z, hz, hq.trans hq', hi.trans hi', hp.trans hp', hf.trans hf'⟩
  count := h'.count.trans h.count
  queue q he hr := (h.queue q he hr).elim (h'.queue q)
  insts := h'.insts.trans h.insts
  nqcfg := h'.nqcfg.trans h.nqcfg
  cores := h'.cores.trans h.cores
  fab := h'.fab.trans h.fab

/-- A change of other parts closes nothing. -/
theorem State.Closes.of_eq (hn : t.cmd.nodes = s.cmd.nodes) (hq : t.cmd.queues = s.cmd.queues) (hi : t.cmd.insts = s.cmd.insts)
    (hc : t.cmd.nqcfg = s.cmd.nqcfg) (hk : t.cores = s.cores) (hf : t.fab = s.fab) : s.Closes t where
  nodes y hy := ⟨y, hn ▸ hy, rfl, rfl, rfl, rfl⟩
  count := by rw [hn]
  queue q he hr := by
    have e : t.queue q = s.queue q := by rw [State.queue, hq]; rfl
    exact e ▸ ⟨he, hr⟩
  insts := hi
  nqcfg := hc
  cores := hk
  fab := hf

theorem State.closes_of_mem {m : MemSide} (h : t = s.setMem m) : s.Closes t := by
  subst h
  exact .of_eq rfl rfl rfl rfl rfl rfl

theorem State.AtcOnly.closes (h : s.AtcOnly t) : s.Closes t := State.closes_of_mem h

theorem State.closes_setQueue (s : State) (q : Nat) (x : Queue)
    (h : (s.queue q).en = false → (s.queue q).reading = false → x.en = false ∧ x.reading = false) : s.Closes (s.setQueue q x) where
  nodes y hy := ⟨y, hy, rfl, rfl, rfl, rfl⟩
  count := le_rfl
  queue p he hr := by
    rcases eq_or_ne p q with rfl | hp
    · rw [State.queue_setQueue_self]
      exact h he hr
    · rw [State.queue_setQueue_ne _ _ _ hp]
      exact ⟨he, hr⟩
  insts := rfl
  nqcfg := rfl
  cores := rfl
  fab := rfl

theorem State.raiseMsix_closes (s : State) (v : Nat) : s.Closes (s.raiseMsix v) := by
  unfold State.raiseMsix
  split
  · exact .of_eq rfl rfl rfl rfl rfl rfl
  · exact .of_eq rfl rfl rfl rfl rfl rfl

theorem State.dropNode_nodes (s : State) (q idx : Nat) : (s.dropNode q idx).cmd.nodes = s.cmd.nodes.filter fun x => !x.is q idx := by
  unfold State.dropNode
  split
  · rename_i h
    exact (List.filter_eq_self.mpr fun x hx => by simpa using List.find?_eq_none.mp h x hx).symm
  · extract_lets s1 c keys s2
    simp only [State.setStages_cmd, s2, State.setCmd_cmd, c, s1]
    split <;> rfl

theorem State.dropNode_queue (s : State) (q idx p : Nat) : (s.dropNode q idx).queue p = s.queue p := by
  unfold State.dropNode
  split
  · rfl
  · extract_lets s1 c keys s2
    simp only [State.queue, State.setStages_cmd, s2, State.setCmd_cmd, c, s1]
    split <;> rfl

theorem State.dropNode_closes (s : State) (q idx : Nat) : s.Closes (s.dropNode q idx) where
  nodes y hy := ⟨y, (List.mem_filter.mp (s.dropNode_nodes q idx ▸ hy)).1, rfl, rfl, rfl, rfl⟩
  count := by
    rw [State.dropNode_nodes]
    exact List.length_filter_le ..
  queue p he hr := by
    rw [State.dropNode_queue]
    exact ⟨he, hr⟩
  insts := by
    unfold State.dropNode
    split
    · rfl
    · dsimp only
      split <;> rfl
  nqcfg := by
    unfold State.dropNode
    split
    · rfl
    · dsimp only
      split <;> rfl
  cores := by
    unfold State.dropNode
    split
    · rfl
    · dsimp only
      split <;> rfl
  fab := by
    unfold State.dropNode
    split
    · rfl
    · dsimp only
      split <;> rfl

/-- A chain of steps that each close nodes. -/
theorem foldl_closes {β : Type} (f : State → β → State) (l : List β) (h : ∀ (t : State) x, t.Closes (f t x)) (s : State) : s.Closes (l.foldl f s) :=
  foldl_keep (fun t => s.Closes t) f l s (.refl s) fun t x _ ht => ht.trans (h t x)

theorem State.ringError_closes (s : State) (q : Nat) : s.Closes (s.ringError q) := by
  unfold State.ringError
  extract_lets x s1 mine s2 c s3
  have h1 : s.Closes s1 := s.closes_setQueue q _ fun _ _ => ⟨rfl, rfl⟩
  have h2 : s1.Closes s2 := foldl_closes _ _ (fun t (n : Node) => t.dropNode_closes q n.idx) s1
  have h3 : s2.Closes s3 := by
    refine ⟨fun y hy => ?_, by simp [s3, c], fun _ he hr => ⟨he, hr⟩, rfl, rfl, rfl, rfl⟩
    obtain ⟨x, hx, rfl⟩ := List.mem_map.mp hy
    refine ⟨x, hx, ?_⟩
    split <;> exact ⟨rfl, rfl, rfl, rfl⟩
  have h4 := (h1.trans h2).trans h3
  split
  · exact h4.trans (s3.raiseMsix_closes _)
  · exact h4

theorem State.drainCompletions_closes (q fuel : Nat) (s : State) : s.Closes (State.drainCompletions q fuel s) := by
  induction fuel generalizing s with
  | zero => exact .refl s
  | succ fuel ih =>
    unfold State.drainCompletions
    extract_lets x
    split
    · exact .refl s
    · split
      · exact s.ringError_closes q
      · rename_i s1 hr
        have h1 := State.ownRead_atcOnly hr
        have hx : s1.queue q = x := h1.queue q
        split
        · refine h1.closes.trans (s1.closes_setQueue q _ fun he hr => ?_)
          rw [hx] at he hr
          exact ⟨he, hr⟩
        · split
          · exact h1.closes.trans (s1.ringError_closes q)
          · rename_i s2 hw
            have h2 := h1.closes.trans (State.closes_of_mem (State.ownWrite_memOnly hw))
            split
            · exact h2.trans (s2.ringError_closes q)
            · rename_i s3 hw'
              have h3 := h2.trans (State.closes_of_mem (State.ownWrite_memOnly hw'))
              extract_lets s4 s5
              have hx3 : s3.queue q = x := by
                rw [State.ownWrite_memOnly hw', State.ownWrite_memOnly hw]
                exact hx
              have h4 : s3.Closes s4 := s3.closes_setQueue q _ fun he hr => by
                rw [hx3] at he hr
                exact ⟨he, hr⟩
              have h5 : s4.Closes s5 := by
                simp only [s5]
                split
                · exact s4.raiseMsix_closes _
                · exact .refl _
              exact ((h3.trans h4).trans h5).trans (ih s5)

theorem State.pushCompletion_closes (s : State) (q : Nat) (c : Completion) : s.Closes (s.pushCompletion q c) := by
  unfold State.pushCompletion
  extract_lets x s1
  have h1 : s.Closes s1 := s.closes_setQueue q _ fun he hr => ⟨he, hr⟩
  split
  · exact h1.trans (State.drainCompletions_closes q 1 s1)
  · exact h1

theorem State.record_closes (s : State) (q idx status : Nat) : s.Closes (s.record q idx status) :=
  s.closes_setQueue q _ fun he hr => ⟨he, hr⟩

/-- All that closing a node does after the node is gone closes at most other nodes. -/
theorem State.dropNode_closes_closeNode (s : State) (n : Node) (e : Ending) : (s.dropNode n.q n.idx).Closes (s.closeNode n e) := by
  unfold State.closeNode
  extract_lets s1 s2
  split
  · exact .refl _
  · have h2 : s1.Closes s2 := by
      simp only [s2]
      split
      · exact s1.record_closes ..
      · exact .refl _
    split
    · exact h2
    · exact h2.trans (s2.pushCompletion_closes ..)

theorem State.closeNode_closes (s : State) (n : Node) (e : Ending) : s.Closes (s.closeNode n e) :=
  (s.dropNode_closes n.q n.idx).trans (s.dropNode_closes_closeNode n e)

/-- No node of a queue with an index. -/
def State.NoNode (s : State) (q idx : Nat) : Prop := ∀ y ∈ s.cmd.nodes, ¬ (y.q = q ∧ y.idx = idx)

theorem Node.is_iff {n : Node} {q idx : Nat} : n.is q idx = true ↔ n.q = q ∧ n.idx = idx := by simp [Node.is]

theorem State.noNode_iff {q idx : Nat} : s.NoNode q idx ↔ s.node? q idx = none := by
  simp [State.NoNode, State.node?, List.find?_eq_none, Node.is]

theorem State.NoNode.closes {q idx : Nat} (h : s.NoNode q idx) (hc : s.Closes t) : t.NoNode q idx := by
  intro y hy ⟨hq, hi⟩
  obtain ⟨x, hx, hxq, hxi, -⟩ := hc.nodes y hy
  exact h x hx ⟨hxq ▸ hq, hxi ▸ hi⟩

theorem State.noNode_dropNode (s : State) (q idx : Nat) : (s.dropNode q idx).NoNode q idx := by
  intro y hy h
  rw [State.dropNode_nodes, List.mem_filter, Node.is_iff.mpr h] at hy
  simp at hy

theorem State.noNode_closeNode (s : State) (n : Node) (e : Ending) : (s.closeNode n e).NoNode n.q n.idx :=
  (s.noNode_dropNode _ _).closes (s.dropNode_closes_closeNode n e)

theorem State.node?_key {q idx : Nat} {n : Node} (h : s.node? q idx = some n) : n.q = q ∧ n.idx = idx :=
  Node.is_iff.mp (List.find?_some (p := fun x : Node => x.is q idx) h)

theorem State.closeAll_closes (s : State) (l : List (Nat × Nat)) (e : Ending) : s.Closes (s.closeAll l e) := by
  refine foldl_closes _ l (fun t x => ?_) s
  split
  · exact t.closeNode_closes _ e
  · exact .refl t

/-- Each node that is listed is gone. -/
theorem State.noNode_closeAll (l : List (Nat × Nat)) (e : Ending) (s : State) : ∀ x ∈ l, (s.closeAll l e).NoNode x.1 x.2 := by
  induction l generalizing s with
  | nil => simp
  | cons p l ih =>
    intro x hx
    obtain ⟨q, idx⟩ := p
    have hstep : (s.closeAll [(q, idx)] e).NoNode q idx := by
      cases h : s.node? q idx with
      | none => simpa [State.closeAll, h] using State.noNode_iff.mpr h
      | some n =>
        obtain ⟨rfl, rfl⟩ := State.node?_key h
        simpa [State.closeAll, h] using s.noNode_closeNode n e
    rcases List.mem_cons.mp hx with rfl | hx
    · exact hstep.closes (State.closeAll_closes _ l e)
    · exact ih (s.closeAll [(q, idx)] e) x hx

/-- Every node of the queue that names the failed one fails with it. -/
theorem mem_failClosure {q : Nat} {failed : List Nat} {l : List Node} {n : Node} {i : Nat} (hn : n ∈ l) (hq : n.q = q) (hi : i ∈ n.preds)
    (hf : i ∈ failed) : n ∈ failClosure q failed l := by
  induction l generalizing failed with
  | nil => cases hn
  | cons x l ih =>
    have hhead : x = n → (x.q == q && x.preds.any failed.contains) = true := by
      rintro rfl
      simpa [hq] using ⟨i, hi, hf⟩
    unfold failClosure
    rcases List.mem_cons.mp hn with rfl | hn
    · simp [hhead rfl]
    · split
      · exact List.mem_cons_of_mem _ (ih hn (List.mem_cons_of_mem _ hf))
      · exact ih hn hf

/-- No node names a failed one: none fails with it. -/
theorem failClosure_eq_nil {q : Nat} {failed : List Nat} {l : List Node} (h : ∀ n ∈ l, n.q = q → ∀ i ∈ n.preds, i ∉ failed) :
    failClosure q failed l = [] := by
  induction l with
  | nil => rfl
  | cons x l ih =>
    have hx : (x.q == q && x.preds.any failed.contains) = false := by
      have := h x List.mem_cons_self
      simpa using this
    unfold failClosure
    rw [hx]
    exact ih fun n hn => h n (List.mem_cons_of_mem _ hn)

end
end Sys2Proof.Machine

end

section

/-! # Queue steps and interrupts (O36)

One lemma per step of a queue. A completion record, whether its node has just ended or it has waited, is written by
`State.drainCompletions_one`. -/

set_option Elab.async false

/-! ### Queue steps -/

namespace Sys2Proof.Machine
open Sys2Proof.Safety

theorem Completion.bytes_length (c : Completion) (t size : Nat) : (c.bytes t size).length = 64 := by
  simp [Completion.bytes, leBytesOf_length]

/-- A queue that fails is off, and only dispatched nodes of it are left, as orphans (R123). -/
theorem State.ringError_spec (s : State) (q : Nat) :
    ((s.ringError q).queue q).en = false ∧ ((s.ringError q).queue q).ringerr = true ∧
    ∀ n ∈ (s.ringError q).cmd.nodes, n.q = q → n.phase.dispatched = true ∧ n.orphan = true := by
  unfold State.ringError
  extract_lets x s1 mine s2 c s3
  have hq : s2.queue q = s1.queue q :=
    foldl_keep (fun t : State => t.queue q = s1.queue q) _ _ s1 rfl fun t n _ ht => (t.dropNode_queue q n.idx q).trans ht
  have hn : ∀ n ∈ s2.cmd.nodes, n.q = q → n.phase.dispatched = true := by
    intro n hn hnq
    have hfrom : ∀ (l : List Node) (t : State), n ∈ (l.foldl (fun t n => t.dropNode q n.idx) t).cmd.nodes →
        n ∈ t.cmd.nodes ∧ ∀ m ∈ l, n.idx ≠ m.idx := by
      intro l
      induction l with
      | nil => exact fun t h => ⟨h, by simp⟩
      | cons m l ih =>
        intro t h
        obtain ⟨h1, h2⟩ := ih _ h
        rw [State.dropNode_nodes, List.mem_filter] at h1
        refine ⟨h1.1, fun m' hm' => ?_⟩
        rcases List.mem_cons.mp hm' with rfl | hm'
        · simpa [Node.is, hnq] using h1.2
        · exact h2 m' hm'
    obtain ⟨h1, h2⟩ := hfrom _ s1 hn
    by_contra hd
    exact h2 n (List.mem_filter.mpr ⟨List.mem_filter.mpr ⟨h1, by simpa using hnq⟩, by simpa using hd⟩) rfl
  have h3 : (s3.queue q).en = false ∧ (s3.queue q).ringerr = true ∧ ∀ n ∈ s3.cmd.nodes, n.q = q → n.phase.dispatched = true ∧ n.orphan = true := by
    have e : s3.queue q = s1.queue q := hq
    rw [e]
    simp only [s1, State.queue_setQueue_self, true_and]
    intro n hn' hnq
    obtain ⟨y, hy, rfl⟩ := List.mem_map.mp hn'
    split at hnq
    · rename_i h
      rw [if_pos h]
      exact ⟨hn y hy hnq, rfl⟩
    · rename_i h
      exact absurd hnq (by simpa using h)
  split
  · unfold State.raiseMsix
    split <;> exact h3
  · exact h3

/-- The one completion that waits: it stays where CPLHEAD shows a full ring; otherwise its record and CPLTAIL are written, and its
message goes out (R122, R124). -/
theorem State.drainCompletions_one {s u : State} {q : Nat} {c : Completion} {f1 : Nat} (hw : (s.queue q).waiting = [c])
    (hr : OwnAt s (s.queue q).pasid ((s.queue q).qcb.toNat + 8) 4 .read f1 u) :
    let x := s.queue q
    let used := (x.cpltail - BitVec.ofNat 32 (leNum (u.mem.read f1 4))).toNat
    (used = x.csize → State.drainCompletions q 1 s = u.setQueue q { x with cplRead := s.time }) ∧
    (used ≠ x.csize → ∀ (v w : State) (f2 f3 : Nat),
      OwnAt u x.pasid (x.cbase.toNat + 64 * (x.cpltail.toNat % x.csize)) 64 .write f2 v →
      OwnAt (wrote v f2 (c.bytes x.cpltail.toNat x.csize)) x.pasid (x.qcb.toNat + 12) 4 .write f3 w →
      let z := (wrote w f3 (leBytesOf 4 (x.cpltail + 1).toNat)).setQueue q { x with cpltail := x.cpltail + 1, waiting := [], cplRead := s.time }
      State.drainCompletions q 1 s = if x.irqen = true ∧ c.irq = true then z.raiseMsix x.vec else z) := by
  intro x used
  have hw' : x.waiting = [c] := hw
  have h1 := State.ownRead_of_ownAt hr
  constructor
  · intro hu
    simp only [State.drainCompletions, hw, h1]
    rw [if_pos hu, ← hw]
  · intro hu v w f2 f3 h2 h3 z
    have h2' := State.ownWrite_of_ownAt (c.bytes_length x.cpltail.toNat x.csize) h2
    have h3' := State.ownWrite_of_ownAt (leBytesOf_length 4 (x.cpltail + 1).toNat) h3
    simp only [State.drainCompletions, hw, h1]
    rw [if_neg hu]
    simp only [x] at h2' h3'
    simp only [h2', h3', Bool.and_eq_true]
    rfl

/-! #### Entering a record -/

/-- The indices of a queue's nodes that a record can name. -/
def State.namedNodes (s : State) (q : Nat) : List Nat := (s.cmd.nodes.filter fun n => n.q == q && decide (n.idx < 2 ^ 32)).map (·.idx)

theorem State.namedNodes_known {s : State} {q i : Nat} (h : i ∈ s.namedNodes q) : (s.node? q i).isSome = true := by
  obtain ⟨n, hn, rfl⟩ := List.mem_map.mp h
  obtain ⟨hn, hk⟩ := List.mem_filter.mp hn
  refine List.find?_isSome.mpr ⟨n, hn, ?_⟩
  simp only [Bool.and_eq_true, beq_iff_eq] at hk
  exact Node.is_iff.mpr ⟨hk.1, rfl⟩

/-- A record whose fields are legal is entered. -/
theorem State.recordStatus_eq_ok {s : State} {q v : Nat} {idx : W32} (hseq : bitsNat v 32 32 = idx.toNat) (hkind : bitsNat v 0 16 ≤ 6)
    (hres : bitsNat v 19 5 = 0) (hn : bitsNat v 24 8 ≤ 4) (hp : payloadOk (bitsNat v 0 16) (bitsNat v 256 256) = true)
    (hz : ∀ i, i < 4 → bitsNat v 24 8 ≤ i → bitsNat v (64 + 32 * i) 32 = 0)
    (hk : ∀ i, i < bitsNat v 24 8 → let p := bitsNat v (64 + 32 * i) 32
      1 ≤ (idx - BitVec.ofNat 32 p).toNat ∧ (idx - BitVec.ofNat 32 p).toNat ≤ 4096 ∧ (p ∈ s.namedNodes q ∨ (p, 0) ∈ (s.queue q).hist)) :
    s.recordStatus q idx v = stOk := by
  unfold State.recordStatus
  extract_lets kind npred seq preds known
  have hs : seq = idx := by
    apply BitVec.eq_of_toNat_eq
    simp only [seq, hseq, BitVec.toNat_ofNat]
    omega
  have hdrop : (preds.drop npred).any (· != 0) = false := by
    rw [List.any_eq_false]
    intro p hp
    obtain ⟨i, hi, he⟩ := List.mem_drop_iff_getElem.mp hp
    have hlen : npred + i < 4 := by simpa [preds, Nat.add_comm] using hi
    rw [← he]
    simpa [preds] using hz (npred + i) hlen (Nat.le_add_right ..)
  have htake : ((preds.take npred).any fun p =>
      let d := (seq - BitVec.ofNat 32 p).toNat
      d == 0 || decide (4096 < d) || !known p) = false := by
    rw [List.any_eq_false]
    intro p hp
    obtain ⟨i, hi, he⟩ := List.mem_take_iff_getElem.mp hp
    have hlen : i < npred := by
      have := hi
      simp only [preds, List.length_map, List.length_range] at this
      omega
    obtain ⟨h1, h2, h3⟩ := hk i hlen
    have hpe : bitsNat v (64 + 32 * i) 32 = p := by simpa [preds] using he
    rw [hpe] at h1 h2 h3
    have hknown : known p = true := by
      simp only [known, Bool.or_eq_true]
      rcases h3 with h3 | h3
      · exact .inr (State.namedNodes_known h3)
      · exact .inl (List.any_eq_true.mpr ⟨_, h3, by simp⟩)
    simp only [hs, hknown, Bool.not_true, Bool.or_false, Bool.or_eq_true, beq_iff_eq, decide_eq_true_eq, not_or]
    omega
  rw [if_neg (by simpa using hs), if_neg, if_neg (by omega)]
  simp only [hdrop, htake, noBits, hres, hp, not_or, kind]
  exact ⟨by omega, by simp, by simp, by simp, by simp⟩

/-- What entering a legal record adds: one node, which waits for those of its predecessors that are still there. -/
theorem State.enterRecord_ok {s : State} {q v : Nat} (hst : s.recordStatus q (s.queue q).head v = stOk) (hn : bitsNat v 24 8 ≤ 4)
    (hh : ∀ h ∈ (s.queue q).hist, h.2 = 0) :
    let x := s.queue q
    let ps := ((List.range (bitsNat v 24 8)).map (fun i => bitsNat v (64 + 32 * i) 32) ++
      (if bitsNat v 18 1 = 1 then s.namedNodes q else [])).eraseDups.filter fun i => (s.namedNodes q).contains i
    s.enterRecord q v = s.setCmd { s.cmd with nodes := s.cmd.nodes ++
      [⟨q, x.head.toNat, x.pasid, ⟨bitsNat v 0 16, bitsNat v 16 1 == 1, bitsNat v 17 1 == 1, bitsNat v 192 64, bitsNat v 256 256⟩, ps,
        if ps = [] then .due else .counting, none, [], .start, [], false, 0, 0, false, 0, .reset⟩] } := by
  intro x ps
  have hmin : min 4 (bitsNat v 24 8) = bitsNat v 24 8 := Nat.min_eq_right hn
  have hps : ((if bitsNat v 18 1 = 1 then (List.range (bitsNat v 24 8)).map (fun i => bitsNat v (64 + 32 * i) 32) ++ s.namedNodes q
      else (List.range (bitsNat v 24 8)).map fun i => bitsNat v (64 + 32 * i) 32).eraseDups).filter (s.namedNodes q).contains = ps := by
    simp only [ps]
    split
    · rfl
    · rw [List.append_nil]
  unfold State.enterRecord
  extract_lets idx cmd st listed mine all open_ n c s1
  have hst' : st = stOk := hst
  have hopen : open_ = ps := by
    rw [← hps]
    simp only [open_, all, listed, hmin]
    rfl
  have hnone : (all.any fun p => (x.hist.find? fun h => h.1 == p).any fun h => h.2 != stOk) = false := by
    rw [List.any_eq_false]
    intro p _ hany
    obtain ⟨h, hf, hb⟩ := (Option.any_eq_true ..).mp hany
    have := hh h (List.mem_of_find?_eq_some hf)
    simp [this, stOk] at hb
  rw [if_neg (by simp [hst']), hnone, if_neg (by simp)]
  simp only [s1, c, n, hopen, List.isEmpty_iff]
  rfl

/-! #### Completing a node -/

/-- The node that completes is gone; the successors of one that failed are gone too, those of one that is OK wait for one less. -/
theorem State.completeNode_spec {s : State} {q idx : Nat} {n : Node} (e : Ending) (h : s.node? q idx = some n) :
    (s.completeNode q idx e).NoNode q idx ∧
    (e.status ≠ 0 → s.Closes (s.completeNode q idx e) ∧ ∀ y ∈ (s.completeNode q idx e).cmd.nodes, y.q = q → idx ∉ y.preds) := by
  obtain ⟨rfl, rfl⟩ := State.node?_key h
  have hgone := s.noNode_closeNode n e
  unfold State.completeNode
  rw [h]
  dsimp only
  split
  · rename_i hok
    refine ⟨fun y hy => ?_, fun hne => absurd hok hne⟩
    obtain ⟨z, hz, rfl⟩ := List.mem_map.mp hy
    have := hgone z hz
    split <;> exact this
  · have hcl := State.closeAll_closes (s.closeNode n e) ((failClosure n.q [n.idx] (s.closeNode n e).cmd.nodes).map fun x => (n.q, x.idx))
      (.status! stPredFailed)
    refine ⟨hgone.closes hcl, fun _ => ⟨(s.closeNode_closes n e).trans hcl, fun y hy hyq hp => ?_⟩⟩
    obtain ⟨x, hx, hq, hi, hpr, -⟩ := hcl.nodes y hy
    have hmem : x ∈ failClosure n.q [n.idx] (s.closeNode n e).cmd.nodes :=
      mem_failClosure hx (hq ▸ hyq) (hpr ▸ hp) (by simp)
    exact State.noNode_closeAll _ _ _ _ (List.mem_map_of_mem (f := fun x => (n.q, x.idx)) hmem) y hy ⟨hyq, hi⟩

/-- The nodes that are left when one with NOCPL is OK. -/
theorem State.completeNode_nocpl {s : State} {q idx : Nat} {n : Node} {e : Ending} (h : s.node? q idx = some n) (he : e.status = 0)
    (hn : n.cmd.nocpl = true) :
    (s.completeNode q idx e).cmd.nodes = (s.cmd.nodes.filter fun y => !y.is q idx).map fun y =>
      if y.q = q ∧ idx ∈ y.preds then
        let p := y.preds.filter (· != idx)
        { y with preds := p, phase := if p = [] ∧ y.phase = .counting then .due else y.phase }
      else y := by
  obtain ⟨rfl, rfl⟩ := State.node?_key h
  have hnodes : (s.closeNode n e).cmd.nodes = s.cmd.nodes.filter fun y => !y.is n.q n.idx := by
    rw [← State.dropNode_nodes]
    unfold State.closeNode
    extract_lets s1 s2
    rw [if_pos (by simp [hn, he] : (n.cmd.nocpl && e.status == 0) = true)]
    simp only [s2]
    split
    · rfl
    · split <;> rfl
  unfold State.completeNode
  rw [h]
  dsimp only
  rw [show e.status = stOk from he, if_pos rfl, State.setCmd_cmd]
  dsimp only
  rw [hnodes]
  simp

/-- A node that nothing is kept for and that nothing waits for leaves with its completion record at the end of the queue's. -/
theorem State.completeNode_alone {s : State} {q idx : Nat} {n : Node} (e : Ending) (h : s.node? q idx = some n) (hi : n.idx < 2 ^ 32)
    (ho : n.orphan = false) (hl : n.leased = false) (hc : n.cmd.nocpl = false ∨ e.status ≠ 0)
    (hp : ∀ y ∈ s.cmd.nodes, y.q = q → n.idx ∉ y.preds) (hr : ∀ r ∈ s.cmd.reservations, r.who ≠ .node q n.idx)
    (hg : ∀ g ∈ s.stages.list, ¬ (g.q = q ∧ g.idx = n.idx)) :
    s.completeNode q idx e =
      ((s.setCmd { s.cmd with nodes := s.cmd.nodes.filter fun z => !z.is q n.idx }).record q n.idx e.status).pushCompletion q
        ⟨n.idx, n.cmd.kind, e.status, n.cmd.userdata, n.ctxid, e.fcode, e.frec, n.tstart, s.time, e.flags, e.status != 0 || n.cmd.cplirq⟩ := by
  obtain ⟨rfl, rfl⟩ := State.node?_key h
  have hkeys : (s.stages.list.filter fun x => x.q == n.q && x.idx == n.idx) = [] :=
    List.filter_eq_nil_iff.mpr fun g hg' => by simpa using hg g hg'
  have hstages : (s.stages.list.filter fun x => !(x.q == n.q && x.idx == n.idx)) = s.stages.list :=
    List.filter_eq_self.mpr fun g hg' => by simpa [-not_and, not_and_or] using hg g hg'
  have hdrop : s.dropNode n.q n.idx = s.setCmd { s.cmd with nodes := s.cmd.nodes.filter fun z => !z.is n.q n.idx } := by
    unfold State.dropNode
    rw [h]
    simp only [hl, Bool.false_eq_true, if_false, hkeys, List.map_nil, State.setCmd_stages, hstages]
    rw [(List.filter_eq_self (l := s.cmd.reservations)).mpr]
    · rfl
    · intro r hr'
      split
      · rfl
      · simpa using hr r hr'
  have hclose : s.closeNode n e =
      ((s.setCmd { s.cmd with nodes := s.cmd.nodes.filter fun z => !z.is n.q n.idx }).record n.q n.idx e.status).pushCompletion n.q
        ⟨n.idx, n.cmd.kind, e.status, n.cmd.userdata, n.ctxid, e.fcode, e.frec, n.tstart, s.time, e.flags, e.status != 0 || n.cmd.cplirq⟩ := by
    have hcpl : (n.cmd.nocpl && e.status == 0) = false := by
      rcases hc with hc | hc
      · simp [hc]
      · simp [hc]
    unfold State.closeNode
    simp only [ho, Bool.false_eq_true, if_false, hi, if_true, hcpl, hdrop, Nat.mod_eq_of_lt hi]
  have hnone : ∀ y ∈ (s.closeNode n e).cmd.nodes, y.q = n.q → n.idx ∉ y.preds := fun y hy hq => by
    obtain ⟨x, hx, hxq, -, hxp, -⟩ := (s.closeNode_closes n e).nodes y hy
    exact hxp ▸ hp x hx (hxq ▸ hq)
  rw [← hclose]
  unfold State.completeNode
  rw [h]
  dsimp only
  split
  · have hmap : ((s.closeNode n e).cmd.nodes.map fun x =>
        if x.q == n.q && x.preds.contains n.idx then
          let p := x.preds.filter (· != n.idx)
          { x with preds := p, phase := if p.isEmpty && x.phase == .counting then .due else x.phase }
        else x) = (s.closeNode n e).cmd.nodes := by
      refine (List.map_congr_left fun y hy => if_neg ?_).trans (List.map_id _)
      simpa using hnone y hy
    rw [hmap]
    rfl
  · rw [failClosure_eq_nil fun y hy hq i hi => by
      rw [List.mem_singleton]
      rintro rfl
      exact hnone y hy hq hi]
    rfl

end Sys2Proof.Machine

namespace Sys2Proof.Machine
open Sys2Proof.Safety

/-! #### The steps of a queue, one by one -/

section
variable {s : State} {q : Nat}

/-- What the state's own check of a queue's configuration refuses (R113). -/
theorem State.enableRefused_iff (x : Queue) : s.enableRefused x = true ↔
    10 < bitsNat x.qcfg.toNat 40 4 ∨ 10 < bitsNat x.qcfg.toNat 36 4 ∨ s.pasidEntry x.pasid = none ∨
    x.qbase.toNat % 4096 ≠ 0 ∨ x.qcb.toNat % 64 ≠ 0 ∨ x.cbase.toNat % 4096 ≠ 0 := by
  simp [State.enableRefused, or_assoc]

theorem map_eq_self {α : Type} {f : α → α} {l : List α} (h : ∀ x ∈ l, f x = x) : l.map f = l :=
  (List.map_congr_left h).trans (List.map_id l)

theorem State.retryCompletions_of_none (h : (s.queue q).waiting = []) : s.retryCompletions q = s := by
  simp [State.retryCompletions, h, State.drainCompletions]

theorem State.retryCompletions_of_one {c : Completion} (h : (s.queue q).waiting = [c]) :
    s.retryCompletions q = State.drainCompletions q 1 s := by
  simp [State.retryCompletions, h]

variable (hq : q < 4096)
include hq

/-- A kick with nothing to retry only asks for a read of TAIL (R115). -/
theorem goes_kick (hen : (s.queue q).en = true) (hw : (s.queue q).waiting = []) :
    Goes (.kick q) s (s.setQueue q (if (s.queue q).reading = true then { s.queue q with again := true } else { s.queue q with reading := true })) := by
  show execKick q s = _
  unfold execKick
  rw [if_pos ⟨hq, hen⟩]
  exact congrArg Host.Outcome.next (State.retryCompletions_of_none (by
    rw [State.queue_setQueue_self]
    split <;> exact hw))

theorem goes_tailReadReturn {u : State} {flat : Nat} (hen : (s.queue q).en = true) (hr : (s.queue q).reading = true)
    (hat : OwnAt s (s.queue q).pasid ((s.queue q).qcb.toNat + 4) 4 .read flat u) :
    let x := s.queue q
    let tail : W32 := BitVec.ofNat 32 (leNum (u.mem.read flat 4))
    let y := { x with reading := x.again, again := false }
    let legal : Prop := (tail - x.head).toNat ≤ x.qsize ∧ (tail - x.tail).toNat ≤ (tail - x.head).toNat
    (legal → Goes (.tailReadReturn q) s (u.setQueue q { y with tail := tail })) ∧
    (¬ legal → Goes (.tailReadReturn q) s (u.setQueue q { y with kickerr := true })) := by
  intro x tail y legal
  constructor
  all_goals
    intro h
    show execTailReadReturn q s = _
    unfold execTailReadReturn
    rw [if_pos ⟨hq, hen, hr⟩]
    simp only [State.ownRead_of_ownAt hat]
  · exact if_pos h
  · exact if_neg h

theorem goes_tailReadReturn_error {e : OwnFail} (hen : (s.queue q).en = true) (hr : (s.queue q).reading = true)
    (he : s.ownDests (s.queue q).pasid ((s.queue q).qcb.toNat + 4) 4 .read = .error e) :
    Goes (.tailReadReturn q) s (s.ringError q) := by
  show execTailReadReturn q s = _
  unfold execTailReadReturn
  simp only [hq, hen, hr, and_self, if_true, State.ownRead, he]

/-- The record that is read enters as the next node, and HEAD is written (R116, R126). -/
theorem goes_recordEnter {u w : State} {flat f2 : Nat} {nodes : List Node} (hen : (s.queue q).en = true)
    (hne : (s.queue q).head ≠ (s.queue q).tail) (hw : (s.queue q).waiting = [])
    (hmine : (s.cmd.nodes.filter fun n => n.q == q).length < 4096) (hall : s.cmd.nodes.length < 65536)
    (hat : OwnAt s (s.queue q).pasid ((s.queue q).qbase.toNat + 64 * ((s.queue q).head.toNat % (s.queue q).qsize)) 64 .read flat u)
    (hent : u.enterRecord q (leNum (u.mem.read flat 64)) = u.setCmd { u.cmd with nodes := nodes })
    (hout : OwnAt ((u.setCmd { u.cmd with nodes := nodes }).setQueue q { s.queue q with head := (s.queue q).head + 1 })
      (s.queue q).pasid (s.queue q).qcb.toNat 4 .write f2 w) :
    Goes (.recordEnter q) s (wrote w f2 (leBytesOf 4 ((s.queue q).head + 1).toNat)) := by
  have hy : (u.setCmd { u.cmd with nodes := nodes }).queue q = s.queue q := (State.atcOnly_of_ownAt hat).queue q
  show execRecordEnter q s = _
  unfold execRecordEnter
  rw [if_pos ⟨hq, hen, hne, hw, hmine, hall⟩]
  simp only [State.ownRead_of_ownAt hat, hent, hy]
  rw [if_neg (by simp [hen]), State.ownWrite_of_ownAt (leBytesOf_length 4 _) hout]

/-- With nothing left over from an earlier enabling, one only resets the indices (R113). -/
theorem goes_queueEnable (hen : (s.queue q).en = false) (hload : s.mgmt.hostLoad = false) (hn : ∀ n ∈ s.cmd.nodes, n.q ≠ q)
    (hi : ∀ i ∈ s.cmd.insts, ∀ k, i.node ≠ some (q, k)) (hg : ∀ g ∈ s.stages.list, g.q ≠ q)
    (hc : ∀ c ∈ s.fab.colls, ∀ k, c.node ≠ some (q, k)) (hr : ∀ r ∈ s.fab.remote, ∀ k, r.who ≠ .node q k)
    (hf : ∀ r ∈ s.cmd.frwait, ∀ k, r.who ≠ .node q k) :
    let x := s.queue q
    let t := s.setQueue q { x with en := true, tail := 0, head := 0, cpltail := 0, reading := false, again := false, waiting := [], hist := [] }
    (s.enableRefused x = true → Goes (.queueEnable q) s (s.setQueue q { x with cfgerr := true })) ∧
    (∀ (u v : State) (f1 f2 : Nat), s.enableRefused x = false → OwnAt t x.pasid x.qcb.toNat 4 .write f1 u →
      OwnAt (wrote u f1 [0, 0, 0, 0]) x.pasid (x.qcb.toNat + 12) 4 .write f2 v →
      Goes (.queueEnable q) s (wrote v f2 [0, 0, 0, 0])) := by
  intro x t
  constructor
  · intro hbad
    show execQueueEnable q s = _
    unfold execQueueEnable
    rw [if_pos ⟨hq, hen, hload⟩, if_pos hbad]
  · intro u v f1 f2 hgood h1 h2
    have w1 := State.ownWrite_of_ownAt (bs := leBytesOf 4 0) rfl h1
    have w2 := State.ownWrite_of_ownAt (bs := leBytesOf 4 0) rfl h2
    show execQueueEnable q s = _
    unfold execQueueEnable
    rw [if_pos ⟨hq, hen, hload⟩, if_neg (by simpa [x] using hgood)]
    extract_lets old c s1 st s2 fb s3 s4
    have h1' : s1 = s := by
      simp only [s1, c]
      rw [map_eq_self, map_eq_self, map_eq_self]
      · rfl
      · intro r hr'
        split
        · rename_i p k he
          exact if_neg fun e => hf r hr' k (by rw [he, e])
        · rfl
      · intro i hi'
        split
        · rename_i p k he
          exact if_neg fun e => hi i hi' k (by rw [he, e])
        · rfl
      · intro n hn'
        exact if_neg (by simpa using hn n hn')
    have h2' : s2 = s := by
      simp only [s2, st, h1']
      rw [map_eq_self]
      · rfl
      · intro g hg'
        exact if_neg (by simpa using hg g hg')
    have h3' : s3 = s := by
      simp only [s3, fb, h2']
      rw [map_eq_self, map_eq_self]
      · rfl
      · intro n hn'
        split
        · rename_i p k he
          exact if_neg fun e => hc n hn' k (by rw [he, e])
        · rfl
      · intro r hr'
        split
        · rename_i p k he
          exact if_neg fun e => hr r hr' k (by rw [he, e])
        · rfl
    have h4 : s4 = t := by
      simp only [s4, h3']
      rfl
    simp only [h4]
    simp only [x] at w1 w2
    rw [w1]
    dsimp only
    rw [show leBytesOf 4 0 = [0, 0, 0, 0] from rfl] at w2 ⊢
    rw [w2]

/-- Nodes that have not been dispatched are gone when their queue is off (R113). -/
theorem goes_queueDisable (hen : (s.queue q).en = true) :
    let t := (s.setQueue q { s.queue q with en := false, reading := false, again := false }).abortNodes q
    Goes (.queueDisable q) s t ∧ (t.queue q).en = false ∧ (t.queue q).reading = false ∧
    (∀ n ∈ t.cmd.nodes, n.q = q → n.phase.dispatched = true) ∧
    ((∀ n ∈ s.cmd.nodes, n.q = q → n.phase.dispatched = true) →
      t = s.setQueue q { s.queue q with en := false, reading := false, again := false }) := by
  intro t
  set u := s.setQueue q { s.queue q with en := false, reading := false, again := false } with hu
  have huq : u.queue q = { s.queue q with en := false, reading := false, again := false } := State.queue_setQueue_self ..
  have hcl : u.Closes t := State.closeAll_closes ..
  obtain ⟨he, hr⟩ := hcl.queue q (by rw [huq]) (by rw [huq])
  refine ⟨?_, he, hr, fun n hn hnq => ?_, fun hd => ?_⟩
  · show execQueueDisable q s = _
    unfold execQueueDisable
    rw [if_pos ⟨hq, hen⟩]
  · by_contra hnd
    obtain ⟨x, hx, hxq, hxi, -, hxp⟩ := hcl.nodes n hn
    have hmem : (q, x.idx) ∈ (u.cmd.nodes.filter fun n => n.q == q && !n.phase.dispatched).map fun n => (q, n.idx) := by
      refine List.mem_map_of_mem (f := fun n => (q, n.idx)) (List.mem_filter.mpr ⟨hx, ?_⟩)
      simpa [← hxq, hnq, ← hxp] using hnd
    exact State.noNode_closeAll _ _ u _ hmem n hn ⟨hnq, hxi⟩
  · have hnone : (u.cmd.nodes.filter fun n => n.q == q && !n.phase.dispatched) = [] :=
      List.filter_eq_nil_iff.mpr fun n hn => by
        have := hd n hn
        simpa using this
    show u.abortNodes q = u
    unfold State.abortNodes
    rw [hnone]
    rfl

end

/-! #### MSI-X -/

/-- Unmasking an entry sends its message where one is pending and the function may send (R125). -/
theorem goes_msixUnmask (s : State) {v : Nat} (hv : v < 2048) :
    let w (d : Nat) : Nat := (sget (0 : W32) s.cmd.msix (v * 4 + d)).toNat
    let t := s.setCmd { s.cmd with unmasked := kadd v s.cmd.unmasked, pba := kdel v s.cmd.pba }
    let out : Bool := s.cmd.msixOn && !s.cmd.msixMask && s.cmd.pba.contains v
    (out = false → Goes (.msixUnmask v) s (s.setCmd { s.cmd with unmasked := kadd v s.cmd.unmasked })) ∧
    (out = true → Goes (.msixUnmask v) s (t.send (.interrupt (w 0 + w 1 * 2 ^ 32) (sget (0 : W32) s.cmd.msix (v * 4 + 2)).toNat))) := by
  intro w t out
  constructor
  · intro h
    show execMsixUnmask v s = _
    unfold execMsixUnmask
    rw [if_pos hv]
    exact if_neg ((Bool.not_eq_true out).mpr h)
  · intro h
    show execMsixUnmask v s = _
    unfold execMsixUnmask
    rw [if_pos hv]
    have h' := h
    simp only [out, Bool.and_eq_true, Bool.not_eq_true'] at h'
    obtain ⟨⟨hon, hmask⟩, -⟩ := h'
    refine (if_pos h).trans ?_
    unfold State.raiseMsix
    have hin : (kadd v s.cmd.unmasked).contains v = true := by simpa [kmem] using kmem_kadd v v s.cmd.unmasked
    rw [if_pos (by simpa [hon, hmask] using hin)]
    rfl

end Sys2Proof.Machine

open Sys2Proof.Machine Sys2Proof.Safety in
/-- Settles O36, a step of the queue at a time; that the nodes left are those it names rests on `State.Closes`, which every way of
closing nodes keeps. -/
theorem queueStepsAndInterrupts : Obligations.QueueStepsAndInterrupts := by
  unfold Obligations.QueueStepsAndInterrupts
  refine ⟨fun s q hq => ?_, fun s v hv => ?_⟩
  · intro x
    refine ⟨goes_kick hq, ?off, fun u flat => goes_tailReadReturn hq, ?failed, ?entered, ?outstanding, ?completes, ?recorded, ?reread,
      ?enabled, ?disabled⟩
    case off =>
      intro hen
      show execKick q s = _
      unfold execKick
      rw [if_neg (by simp [show (s.queue q).en = false from hen])]
    case failed =>
      intro e hen hr he
      exact ⟨_, goes_tailReadReturn_error hq hen hr he, s.ringError_spec q⟩
    case entered =>
      intro u w flat f2 hen hne hw hmine hall hat v npred pred mine ps cmd hseq hkind hres hn hp hz hk hh n t hout
      have hu : u.cmd = s.cmd := (State.atcOnly_of_ownAt hat).cmd
      have hx : u.queue q = x := (State.atcOnly_of_ownAt hat).queue q
      refine goes_recordEnter hq hen hne hw hmine hall hat (nodes := s.cmd.nodes ++ [n]) ?_ ?_
      · have hnamed : u.namedNodes q = mine := by simp [State.namedNodes, hu, mine]
        have hst : u.recordStatus q (u.queue q).head v = stOk := by
          rw [hx]
          refine State.recordStatus_eq_ok hseq hkind hres hn hp hz fun i hi => ?_
          rw [hnamed, hx]
          exact hk i hi
        rw [State.enterRecord_ok hst hn (by rw [hx]; exact hh), hnamed, hx, hu]
      · rwa [← hu]
    case outstanding =>
      intro n e h hph hout
      show execNodeComplete q n.idx s = _
      simp [execNodeComplete, h, hph, hout]
    case completes =>
      intro n e h hph hout
      obtain ⟨hgone, hfail⟩ := State.completeNode_spec e h
      refine ⟨s.completeNode q n.idx e, ?_, State.noNode_iff.mp hgone, fun he => (hfail he).2, State.completeNode_nocpl h⟩
      show execNodeComplete q n.idx s = _
      simp [execNodeComplete, h, hph, hout]
    case recorded =>
      intro n e u v w f1 f2 f3 h hph hout hi ho hl hc hp hr hg hw c y t hat used
      have hclose : s.completeNode q n.idx e = State.drainCompletions q 1 t := by
        have hx : (s.setCmd { s.cmd with nodes := s.cmd.nodes.filter fun z => !z.is q n.idx }).queue q = x := rfl
        rw [State.completeNode_alone e h hi ho hl hc hp hr hg, State.pushCompletion, State.record, State.queue_setQueue_self, hx,
          State.setQueue_setQueue]
        have hw' : x.waiting = [] := hw
        simp only [hw', List.nil_append, List.isEmpty_nil, if_true]
        rfl
      have hexec : exec (.nodeComplete q n.idx) s = .next (State.drainCompletions q 1 t) := by
        show execNodeComplete q n.idx s = _
        simp [execNodeComplete, h, hph, hout, hclose]
      have htq : t.queue q = { y with waiting := [c] } := State.queue_setQueue_self ..
      obtain ⟨hfull, hroom⟩ := State.drainCompletions_one (c := c) (by rw [htq]) (by rw [htq]; exact hat)
      rw [htq] at hfull hroom
      refine ⟨fun hu => ?_, fun hu h2 h3 => ?_⟩
      · rw [Goes, hexec, hfull hu]
        rfl
      · rw [Goes, hexec, hroom hu v w f2 f3 h2 h3]
        rfl
    case reread =>
      intro c u v w f1 f2 f3 hw hat used
      obtain ⟨hfull, hroom⟩ := State.drainCompletions_one hw hat
      have hexec : exec (.cplheadReread q) s = .next (State.drainCompletions q 1 s) := by
        show execCplheadReread q s = _
        rw [execCplheadReread, if_pos hq, State.retryCompletions_of_one hw]
      refine ⟨fun hu => ?_, fun hu h2 h3 => ?_⟩
      · rw [Goes, hexec, hfull hu]
      · rw [Goes, hexec, hroom hu v w f2 f3 h2 h3]
    case enabled =>
      intro hen hload hn hi hg hc hr hf bad t
      obtain ⟨hbad, hgood⟩ := goes_queueEnable hq hen hload hn hi hg hc hr hf
      have hiff : s.enableRefused x = true ↔ bad := State.enableRefused_iff x
      exact ⟨fun h => hbad (hiff.mpr h), fun u v f1 f2 h => hgood u v f1 f2 (by rwa [← Bool.not_eq_true, hiff])⟩
    case disabled => exact fun hen => ⟨_, goes_queueDisable hq hen⟩
  · intro w t
    obtain ⟨hkept, hsent⟩ := goes_msixUnmask s hv
    refine ⟨fun hp => hkept (by simp [hp]), fun hm => hkept ?_, fun hp hon hmask => hsent (by simp [hp, hon, hmask])⟩
    rcases hm with hm | hm <;> simp [hm]

end

section

/-! # BAR4 and the registers (O39)

The offset of a register leads to one block, which one lemma for each block says; there the write is that of the register alone. -/

set_option Elab.async false

namespace Sys2Proof.Machine
open Sys2Proof.Safety

/-! ### BAR4 (R106, R298, R301) -/

section
variable {s : State} {off len : Nat} {data : List Byte}

theorem goes_bar4Read_past (h : 2 ^ s.cmd.bar4 < off + len) : Goes (.bar4Read off len) s s := if_pos (.inr h)
theorem goes_bar4Write_past (h : 2 ^ s.cmd.bar4 < off + data.length) : Goes (.bar4Write off data) s s := if_pos (.inr h)

theorem goes_bar4Read (hl : s.mgmt.hostLoad = false) (h : off + len ≤ 2 ^ s.cmd.bar4) :
    Goes (.bar4Read off len) s (s.send (.bar4Data ((List.range len).map fun i => s.mem.bar4Byte (s.cmd.apbase.toNat + off + i))
      (s.mem.bar4Poison (s.cmd.apbase.toNat + off) len))) :=
  if_neg (not_or.mpr ⟨by simp [hl], Nat.not_lt.mpr h⟩)

theorem MemSide.bar4Poison_iff (m : MemSide) (a n : Nat) : m.bar4Poison a n = true ↔
    ∃ p ∈ m.poison, a < p * 64 + 64 ∧ p * 64 < a + n ∧ m.gradeAt (p * 64) ≠ gradeNone := by
  simp [MemSide.bar4Poison, and_assoc]

/-- Bytes within one 64 KiB page are one piece. -/
theorem pieces_of_page {fuel a n : Nat} (hn : 0 < n) (h : a / 65536 = (a + n - 1) / 65536) : pieces 0 (fuel + 2) a n = [(a, n)] := by
  have hk : min n (65536 - (a + 0) % 65536) = n := by omega
  rw [pieces, if_neg (by omega), hk]
  simp [pieces]

/-- A write within one page writes the bytes, or is discarded where the region is NONE. -/
theorem goes_bar4Write (hl : s.mgmt.hostLoad = false) (h : off + data.length ≤ 2 ^ s.cmd.bar4) (hn : 0 < data.length)
    (hp : (s.cmd.apbase.toNat + off) / 65536 = (s.cmd.apbase.toNat + off + data.length - 1) / 65536) :
    Goes (.bar4Write off data) s (if s.mem.gradeAt (s.cmd.apbase.toNat + off) = gradeNone then s
      else wrote s (s.cmd.apbase.toNat + off) data) := by
  refine (if_neg (not_or.mpr ⟨by simp [hl], Nat.not_lt.mpr h⟩)).trans ?_
  rw [pieces_of_page hn hp]
  simp only [MemSide.bar4Write, List.take_length]
  split <;> rfl

end

/-! ### Where the offset of a register leads (R109) -/

section
variable {s : State} (hl : s.mgmt.hostLoad = false) (v : W64)
include hl

/-- The registers of the command processor: below the apertures, and from the fault ring to the counters of accesses. -/
theorem goes_registerWrite_cqi {off : Nat} (h : off < 0x100 ∨ 0xB0000 ≤ off ∧ off < 0xC0000) :
    Goes (.registerWrite off v) s (s.writeCqi off v) := by
  show execRegisterWrite off v s = _
  unfold execRegisterWrite
  rw [if_neg (by simp [hl]), if_neg (by omega), if_neg (by omega), if_neg (by omega), if_neg (by omega), if_neg (by omega),
    if_neg (by omega), if_neg (by omega), if_neg (by omega)]

theorem goes_registerWrite_apt {e w : Nat} (he : e < 64) (hw : w < 4) :
    Goes (.registerWrite (0x100 + 32 * e + 8 * w) v) s (s.writeApt e w v) := by
  show execRegisterWrite _ v s = _
  unfold execRegisterWrite
  rw [if_neg (by simp [hl]), if_pos (by omega), if_pos (by omega), show (0x100 + 32 * e + 8 * w - 0x100) / 32 = e by omega,
    show (0x100 + 32 * e + 8 * w) % 32 / 8 = w by omega]

theorem goes_registerWrite_queue {q o : Nat} (hq : q < 4096) (ho : o < 64) :
    Goes (.registerWrite (0x10000 + 64 * q + o) v) s (s.writeQueue q o v) := by
  show execRegisterWrite _ v s = _
  unfold execRegisterWrite
  rw [if_neg (by simp [hl]), if_neg (by omega), if_pos (by omega), show (0x10000 + 64 * q + o - 0x10000) / 64 = q by omega,
    show (0x10000 + 64 * q + o) % 64 = o by omega]

theorem goes_registerWrite_mgmt {off : Nat} (h : 0x80000 ≤ off) (h' : off < 0x90000) :
    Goes (.registerWrite off v) s (s.writeMgmt off v) := by
  show execRegisterWrite off v s = _
  unfold execRegisterWrite
  rw [if_neg (by simp [hl]), if_neg (by omega), if_neg (by omega), if_pos ⟨h, h'⟩]

theorem goes_registerWrite_mem {off : Nat} (h : 0x90000 ≤ off) (h' : off < 0xA0000) :
    Goes (.registerWrite off v) s (s.writeMem off v) := by
  show execRegisterWrite off v s = _
  unfold execRegisterWrite
  rw [if_neg (by simp [hl]), if_neg (by omega), if_neg (by omega), if_neg (by omega), if_pos ⟨h, h'⟩]

theorem goes_registerWrite_group {e w : Nat} (he : e < 16) (hw : w < 8) :
    Goes (.registerWrite (0xA0000 + 64 * e + 8 * w) v) s (s.writeGroup e w v) := by
  show execRegisterWrite _ v s = _
  unfold execRegisterWrite
  rw [if_neg (by simp [hl]), if_neg (by omega), if_neg (by omega), if_neg (by omega), if_neg (by omega), if_pos (by omega),
    show (0xA0000 + 64 * e + 8 * w - 0xA0000) / 64 = e by omega, show (0xA0000 + 64 * e + 8 * w) % 64 / 8 = w by omega]

theorem goes_registerWrite_chan (e : Fin 32) :
    Goes (.registerWrite (0xA0400 + 64 * e.val + 8) v) s (if (s.chan e).isSend = true then s
      else s.setChan e { s.chan e with w1 := v &&& 0x0000FFFFFFFFFFFF#64 }) := by
  have he : chIx ((0xA0400 + 64 * e.val + 8 - 0xA0400) / 64) = e := by
    apply Fin.ext
    simp only [chIx, Fin.val_ofNat]
    omega
  show execRegisterWrite _ v s = _
  unfold execRegisterWrite
  rw [if_neg (by simp [hl]), if_neg (by omega), if_neg (by omega), if_neg (by omega), if_neg (by omega), if_neg (by omega),
    if_pos (by omega), if_pos (by omega), he]

theorem goes_registerWrite_msix {e d : Nat} (he : e < 2048) (hd : d < 16) :
    Goes (.registerWrite (0xD0000 + 16 * e + d) v) s (s.writeMsix (0xD0000 + 16 * e + d) v) := by
  show execRegisterWrite _ v s = _
  unfold execRegisterWrite
  rw [if_neg (by simp [hl]), if_neg (by omega), if_neg (by omega), if_neg (by omega), if_neg (by omega), if_neg (by omega),
    if_neg (by omega), if_neg (by omega), if_pos (by omega)]

end

/-! ### What the registers do -/

/-- BUSY of a command register. -/
theorem and_bitBusy_eq_zero (c : W64) : c &&& bitBusy = 0 ↔ c.getLsbD 62 = false := by
  have h : bitBusy = BitVec.twoPow 64 62 := rfl
  rw [h, BitVec.and_twoPow]
  cases c.getLsbD 62 <;> decide

theorem State.writeQueue_of_off {s : State} {q : Nat} (h : (s.queue q).en = false) (v : W64) :
    s.writeQueue q 0 v = s.setQueue q { s.queue q with qbase := v } ∧ s.writeQueue q 8 v = s.setQueue q { s.queue q with qcb := v } ∧
    s.writeQueue q 0x10 v = s.setQueue q { s.queue q with cbase := v } ∧
    s.writeQueue q 0x18 v = s.setQueue q { s.queue q with qcfg := v &&& 0xFFFFFFFFFFC00000#64 } := by
  have hput (y : Queue) : (if (s.queue q).en = true then s else s.setQueue q y) = s.setQueue q y := if_neg (by simp [h])
  exact ⟨hput _, hput _, hput _, hput _⟩

theorem State.writeQueue_of_on {s : State} {q : Nat} (h : (s.queue q).en = true) (v : W64) :
    s.writeQueue q 0 v = s ∧ s.writeQueue q 8 v = s ∧ s.writeQueue q 0x10 v = s ∧ s.writeQueue q 0x18 v = s :=
  ⟨if_pos h, if_pos h, if_pos h, if_pos h⟩

/-- The registers of a move take a value only while no move is under way (R308). -/
theorem State.writeMem_move (s : State) (v : W64) :
    (s.mem.tmcmd.getLsbD 62 = false → s.writeMem 0x90060 v = s.setMem { s.mem with tmsrc := v } ∧
      s.writeMem 0x90068 v = s.setMem { s.mem with tmdst := v } ∧ s.writeMem 0x90070 v = s.setMem { s.mem with tmlen := v }) ∧
    (s.mem.tmcmd.getLsbD 62 = true → s.writeMem 0x90060 v = s ∧ s.writeMem 0x90068 v = s ∧ s.writeMem 0x90070 v = s) := by
  constructor
  · intro h
    have h' := (and_bitBusy_eq_zero _).mpr h
    exact ⟨if_pos h', if_pos h', if_pos h'⟩
  · intro h
    have h' : ¬ s.mem.tmcmd &&& bitBusy = 0 := by rw [and_bitBusy_eq_zero, h]; decide
    exact ⟨if_neg h', if_neg h', if_neg h'⟩

/-- The watermarks of a tier (R307). -/
theorem goes_registerWrite_tier {s : State} (hl : s.mgmt.hostLoad = false) (v : W64) (t : Fin 3) :
    Goes (.registerWrite (0x90108 + 0x20 * t.val) v) s (s.setMem { s.mem with thigh := s.mem.thigh.set t v }) ∧
    Goes (.registerWrite (0x90110 + 0x20 * t.val) v) s (s.setMem { s.mem with tlow := s.mem.tlow.set t v }) := by
  fin_cases t <;> exact ⟨goes_registerWrite_mem hl v (by decide) (by decide), goes_registerWrite_mem hl v (by decide) (by decide)⟩

/-- A group entry whose V is set (R357). -/
theorem State.writeGroup_valid (s : State) (e : Nat) {v : W64} (h : v.getLsbD 63 = true) :
    s.writeGroup e 0 v = s.setFab { s.fab with groups := sset 0 s.fab.groups (e * 8) (v &&& 0xC00FFFFFFFFFFF7F#64) } := if_pos h

/-- Masking an entry of the MSI-X table (R125). -/
theorem State.writeMsix_mask (s : State) {e : Nat} (he : e < 2048) {v : W64} (h : v.getLsbD 0 = true) :
    s.writeMsix (0xD0000 + 16 * e + 12) v = s.setCmd { s.cmd with unmasked := kdel e s.cmd.unmasked } := by
  unfold State.writeMsix
  rw [if_neg (by omega), if_pos (by omega), if_pos h, show (0xD0000 + 16 * e + 12 - 0xD0000) / 16 = e by omega]

end Sys2Proof.Machine

open Sys2Proof.Machine Sys2Proof.Safety in
/-- Settles O39: the offset of a register leads to its block, where the write is that of the register alone. -/
theorem hostAccesses : Obligations.HostAccesses := by
  unfold Obligations.HostAccesses
  refine ⟨fun s off len data hl => ?bar4, fun s v hl => ?registers⟩
  case bar4 =>
    intro a
    refine ⟨goes_bar4Read_past, goes_bar4Write_past, fun h => ⟨_, _, goes_bar4Read hl h, by simp, fun i hi => ?_,
      s.mem.bar4Poison_iff a len⟩, fun h hp hn => ?_⟩
    · simp [nth, hi, MemSide.bar4Byte, a]
    · have hgoes := goes_bar4Write hl h hn hp
      exact ⟨fun hg => by rwa [if_neg hg] at hgoes, fun hg => by rwa [if_pos hg] at hgoes⟩
  case registers =>
    intro c m g w32 writes
    have cqi (off : Nat) (h : off < 0x100 ∨ 0xB0000 ≤ off ∧ off < 0xC0000) : writes off (s.writeCqi off v) := goes_registerWrite_cqi hl v h
    have mgmt (off : Nat) (h : 0x80000 ≤ off) (h' : off < 0x90000) : writes off (s.writeMgmt off v) := goes_registerWrite_mgmt hl v h h'
    have mem (off : Nat) (h : 0x90000 ≤ off) (h' : off < 0xA0000) : writes off (s.writeMem off v) := goes_registerWrite_mem hl v h h'
    refine ⟨⟨cqi 0x18 (by decide), cqi 0x20 (by decide), cqi 0x28 (by decide), cqi 0x40 (by decide), cqi 0x70 (by decide),
      cqi 0x78 (by decide), cqi 0xB0000 (by decide), cqi 0xB0040 (by decide), fun hw => ?ring, cqi 0xB0020 (by decide)⟩,
      fun q hq => ⟨fun hoff => ?queueOff, fun hon => ?queueOn, goes_registerWrite_queue hl v hq (by decide)⟩,
      fun e he => goes_registerWrite_apt hl v (w := 1) he (by decide), fun e he h63 => ?group, goes_registerWrite_chan hl v,
      ⟨fun h => ?still, fun h => ?moving, mem 0x90200 (by decide) (by decide), mem 0x90208 (by decide) (by decide),
        mem 0x90214 (by decide) (by decide), mem 0x90218 (by decide) (by decide), mem 0x90280 (by decide) (by decide),
        goes_registerWrite_tier hl v⟩,
      ⟨mgmt 0x80004 (by decide) (by decide), mgmt 0x80060 (by decide) (by decide), mgmt 0x8000C (by decide) (by decide), fun h => ?fwcmd,
        fun h => ?fwIdle, fun h => ?fwBusy⟩,
      ⟨cqi 0x0 (by decide), cqi 0x8 (by decide), cqi 0x14 (by decide), mgmt 0x80000 (by decide) (by decide),
        mem 0x90000 (by decide) (by decide), mem 0x90008 (by decide) (by decide), cqi 0xB0010 (by decide)⟩,
      fun e he h => ?msix⟩
    case ring =>
      have h : s.writeCqi 0xB0008 v = s.setCmd { s.cmd with frcfg := v &&& 0xF1 } := by
        have h0 : s.cmd.frwait.length = 0 := congrArg List.length hw
        show State.drainRecords s.cmd.frwait.length _ = _
        rw [h0]
        rfl
      exact h ▸ cqi 0xB0008 (by decide)
    case queueOff =>
      obtain ⟨h0, h8, h10, h18⟩ := State.writeQueue_of_off hoff v
      exact ⟨h0 ▸ goes_registerWrite_queue hl v hq (by decide), h8 ▸ goes_registerWrite_queue hl v hq (by decide),
        h10 ▸ goes_registerWrite_queue hl v hq (by decide), h18 ▸ goes_registerWrite_queue hl v hq (by decide)⟩
    case queueOn =>
      obtain ⟨h0, h8, h10, h18⟩ := State.writeQueue_of_on hon v
      have queue (o : Nat) (ho : o < 64) (h : s.writeQueue q o v = s) : writes (0x10000 + 64 * q + o) s := by
        simpa only [h] using goes_registerWrite_queue hl v hq ho
      exact ⟨queue 0 (by decide) h0, queue 8 (by decide) h8, queue 0x10 (by decide) h10, queue 0x18 (by decide) h18⟩
    case group => exact State.writeGroup_valid s e h63 ▸ goes_registerWrite_group hl v (w := 0) he (by decide)
    case still =>
      obtain ⟨h1, h2, h3⟩ := (s.writeMem_move v).1 h
      exact ⟨h1 ▸ mem 0x90060 (by decide) (by decide), h2 ▸ mem 0x90068 (by decide) (by decide), h3 ▸ mem 0x90070 (by decide) (by decide)⟩
    case moving =>
      obtain ⟨h1, h2, h3⟩ := (s.writeMem_move v).2 h
      have kept (off : Nat) (h : 0x90000 ≤ off) (h' : off < 0xA0000) (he : s.writeMem off v = s) : writes off s := by
        simpa only [he] using mem off h h'
      exact ⟨kept 0x90060 (by decide) (by decide) h1, kept 0x90068 (by decide) (by decide) h2, kept 0x90070 (by decide) (by decide) h3⟩
    case fwcmd => exact (if_neg (by rw [h]; decide) : s.writeMgmt 0x800C0 v = _) ▸ mgmt 0x800C0 (by decide) (by decide)
    case fwIdle =>
      have h' : ¬ s.mgmt.fwbusy = true := (Bool.not_eq_true _).mpr h
      have ha : s.writeMgmt 0x800C8 v = s.setMgmt { s.mgmt with fwarg := v } := if_neg h'
      have hn : s.writeMgmt 0x800D0 v = s.setMgmt { s.mgmt with fwlen := v } := if_neg h'
      exact ⟨ha ▸ mgmt 0x800C8 (by decide) (by decide), hn ▸ mgmt 0x800D0 (by decide) (by decide)⟩
    case fwBusy =>
      have kept (off : Nat) (h : 0x80000 ≤ off) (h' : off < 0x90000) (he : s.writeMgmt off v = s) : writes off s := by
        simpa only [he] using mgmt off h h'
      exact ⟨kept 0x800C8 (by decide) (by decide) (if_pos h), kept 0x800D0 (by decide) (by decide) (if_pos h)⟩
    case msix => exact State.writeMsix_mask s he h ▸ goes_registerWrite_msix hl v he (by decide)

end

section

/-! # Leases, notices, and invalidation of translations (O38)

A notice is written, held back or counts as FAIL, which three lemmas about `State.postNotice` say. With notices off each step of
`State.failHeld` closes at least one node, so that its fuel lasts. An invalidation first writes lines back, which changes nothing but
the data L1s and bytes of memory (`State.L1sOnly`). -/

set_option Elab.async false

namespace Sys2Proof.Machine
open Sys2Proof.Safety

/-! ### Notices (R135) -/

section
variable {s u : State}

/-- NQCFG.EN (R135). -/
theorem State.nqEn_eq (s : State) : s.nqEn = s.cmd.nqcfg.getLsbD 0 := by
  simp [State.nqEn, bitsNat, BitVec.getLsbD, Nat.testBit, Nat.one_and_eq_mod_two]

theorem noticeBytes_length (type pasid va len nid : Nat) : (noticeBytes type pasid va len nid).length = 32 := by
  simp [noticeBytes, leBytesOf_length]

/-- The PASID of the notification queue (R109). -/
theorem bitsNat_nqPasid (v : W64) : bitsNat v.toNat 44 20 = v.toNat / 2 ^ 44 := by
  have := v.isLt
  unfold bitsNat
  omega

/-- A notice is written, and NQTAIL goes on. -/
theorem State.postNotice_written {type pasid va len flat : Nat} (hon : s.cmd.nqcfg.getLsbD 0 = true)
    (hroom : (s.cmd.nqtail - s.cmd.nqhead).toNat < 1024)
    (hat : OwnAt s (s.cmd.nqcfg.toNat / 2 ^ 44) (s.cmd.nqbase.toNat + 32 * (s.cmd.nqtail.toNat % 1024)) 32 .write flat u) :
    s.postNotice type pasid va len = .written s.cmd.nqtail.toNat
      ((wrote u flat (noticeBytes type pasid va len s.cmd.nqtail.toNat)).setCmd { u.cmd with nqtail := u.cmd.nqtail + 1 }) := by
  have hfull : s.nqFull = false := decide_eq_false (Nat.not_le.mpr hroom)
  unfold State.postNotice
  rw [State.nqEn_eq, hon, hfull]
  simp only [Bool.not_true, Bool.false_eq_true, if_false, bitsNat_nqPasid,
    State.ownWrite_of_ownAt (noticeBytes_length type pasid va len s.cmd.nqtail.toNat) hat]
  rfl

theorem State.postNotice_full {type pasid va len : Nat} (hon : s.cmd.nqcfg.getLsbD 0 = true)
    (hfull : 1024 ≤ (s.cmd.nqtail - s.cmd.nqhead).toNat) : s.postNotice type pasid va len = .full := by
  have hf : s.nqFull = true := decide_eq_true hfull
  unfold State.postNotice
  rw [State.nqEn_eq, hon, hf]
  rfl

theorem State.postNotice_off {type pasid va len : Nat} (hoff : s.cmd.nqcfg.getLsbD 0 = false) : s.postNotice type pasid va len = .off s := by
  unfold State.postNotice
  rw [State.nqEn_eq, hoff]
  rfl

/-! ### Notices that are held back -/

/-- A node whose notice is held back. -/
def Node.held (n : Node) : Bool := match n.phase with
  | .noticeHeld .. => true
  | _ => false

/-- The key of such a node, and whether its notice is about a record or descriptor. -/
def Node.heldKey (n : Node) : Option (Nat × Nat × Bool) := match n.phase with
  | .noticeHeld _ _ _ d => some (n.q, n.idx, d)
  | _ => none

/-- An instance whose notice is held back. -/
def Inst.held (i : Inst) : Bool := match i.state with
  | .noticeHeld .. => true
  | _ => false

theorem Node.held_eq_false {n : Node} : n.held = false ↔ ∀ ty va len d, n.phase ≠ .noticeHeld ty va len d := by
  unfold Node.held
  split
  · rename_i h
    exact ⟨nofun, fun hf => (hf _ _ _ _ h).elim⟩
  · rename_i h
    exact ⟨fun _ => h, fun _ => rfl⟩

theorem Inst.held_eq_false {i : Inst} : i.held = false ↔ ∀ ty va len, i.state ≠ .noticeHeld ty va len := by
  unfold Inst.held
  split
  · rename_i h
    exact ⟨nofun, fun hf => (hf _ _ _ h).elim⟩
  · rename_i h
    exact ⟨fun _ => h, fun _ => rfl⟩

/-- No notice of a node or of an instance is held back. -/
def State.NoneHeld (s : State) : Prop := (∀ n ∈ s.cmd.nodes, n.held = false) ∧ ∀ i ∈ s.cmd.insts, i.held = false

theorem State.noneHeld_iff : s.NoneHeld ↔ (∀ n ∈ s.cmd.nodes, ∀ ty va len d, n.phase ≠ .noticeHeld ty va len d) ∧
    ∀ i ∈ s.cmd.insts, ∀ ty va len, i.state ≠ .noticeHeld ty va len := by
  simp only [State.NoneHeld, Node.held_eq_false, Inst.held_eq_false]

/-- With nothing that waits, nothing is written. -/
theorem State.serveOne_eq_none (h : s.NoneHeld) (hk : s.cmd.kept = []) (hp : s.mem.pending = []) : s.serveOne = none := by
  unfold State.serveOne
  split
  · rfl
  · rw [List.findSome?_eq_none_iff.mpr, List.findSome?_eq_none_iff.mpr, hk, hp]
    · intro i hi
      have := h.2 i hi
      unfold Inst.held at this
      split <;> simp_all
    · intro n hn
      have := h.1 n hn
      unfold Node.held at this
      split <;> simp_all

theorem State.serve_eq_self {fuel : Nat} (h : s.serveOne = none) : State.serve fuel s = s := by
  cases fuel with
  | zero => rfl
  | succ fuel => rw [State.serve, h]

theorem State.failHeld_eq_self {fuel : Nat} (h : s.NoneHeld) : State.failHeld fuel s = s := by
  cases fuel with
  | zero => rfl
  | succ fuel =>
    rw [State.failHeld, List.findSome?_eq_none_iff.mpr]
    · dsimp only
      rw [List.find?_eq_none.mpr]
      intro i hi
      exact (Bool.not_eq_true _).mpr (h.2 i hi)
    · intro n hn
      have := h.1 n hn
      unfold Node.held at this
      split <;> simp_all

theorem Node.heldKey_eq_none {n : Node} : n.heldKey = none ↔ n.held = false := by
  unfold Node.heldKey Node.held
  split <;> simp

theorem Node.heldKey_eq_some {n : Node} {q idx : Nat} {d : Bool} (h : n.heldKey = some (q, idx, d)) : n.q = q ∧ n.idx = idx := by
  unfold Node.heldKey at h
  split at h
  · cases h
    exact ⟨rfl, rfl⟩
  · cases h

theorem State.failHeld_succ {fuel q idx : Nat} {d : Bool} (h : s.cmd.nodes.findSome? Node.heldKey = some (q, idx, d)) :
    State.failHeld (fuel + 1) s = State.failHeld fuel (s.failNotice q idx d) := by
  rw [State.failHeld]
  split
  · rename_i heq
    cases heq.symm.trans h
    rfl
  · rename_i heq
    cases heq.symm.trans h

/-- A node that fails leaves at least one node less. -/
theorem State.completeNode_length_lt {q idx : Nat} {n : Node} {e : Ending} (h : s.node? q idx = some n) (he : e.status ≠ 0) :
    (s.completeNode q idx e).cmd.nodes.length < s.cmd.nodes.length := by
  obtain ⟨rfl, rfl⟩ := State.node?_key h
  have hdrop : (s.dropNode n.q n.idx).cmd.nodes.length < s.cmd.nodes.length := by
    rw [State.dropNode_nodes]
    refine List.length_filter_lt_length_iff_exists.mpr ⟨n, List.mem_of_find?_eq_some h, ?_⟩
    simp [Node.is]
  have hclose : (s.closeNode n e).cmd.nodes.length < s.cmd.nodes.length := (s.dropNode_closes_closeNode n e).count.trans_lt hdrop
  unfold State.completeNode
  rw [h]
  dsimp only
  rw [if_neg (by exact he)]
  exact (State.closeAll_closes _ _ _).count.trans_lt hclose

/-- With notices off, every node whose notice is held back fails (R135). -/
theorem State.failHeld_noneHeld {fuel : Nat} (hf : s.cmd.nodes.length ≤ fuel) (hi : ∀ i ∈ s.cmd.insts, i.held = false) :
    (State.failHeld fuel s).NoneHeld ∧ (State.failHeld fuel s).cmd.nqcfg = s.cmd.nqcfg := by
  induction fuel generalizing s with
  | zero =>
    have hn : s.cmd.nodes = [] := List.length_eq_zero_iff.mp (Nat.le_zero.mp hf)
    exact ⟨⟨by simp [State.failHeld, hn], hi⟩, rfl⟩
  | succ fuel ih =>
    cases hfind : s.cmd.nodes.findSome? Node.heldKey with
    | none =>
      have hnone : s.NoneHeld := ⟨fun n hn => Node.heldKey_eq_none.mp (List.findSome?_eq_none_iff.mp hfind n hn), hi⟩
      rw [State.failHeld_eq_self hnone]
      exact ⟨hnone, rfl⟩
    | some x =>
      obtain ⟨q, idx, d⟩ := x
      obtain ⟨n, hn, hx⟩ := List.exists_of_findSome?_eq_some hfind
      have hkey := Node.heldKey_eq_some hx
      obtain ⟨m, hm⟩ : ∃ m, s.node? q idx = some m :=
        Option.isSome_iff_exists.mp (List.find?_isSome.mpr ⟨n, hn, Node.is_iff.mpr hkey⟩)
      have hst : (Ending.status! (if d = true then stTranslation else stUnmapped)).status ≠ 0 := by
        cases d <;> decide
      have hcl : s.Closes (s.failNotice q idx d) := ((State.completeNode_spec _ hm).2 hst).1
      have hlt : (s.failNotice q idx d).cmd.nodes.length < s.cmd.nodes.length := State.completeNode_length_lt hm hst
      rw [State.failHeld_succ hfind]
      obtain ⟨h1, h2⟩ := ih (s := s.failNotice q idx d) (by omega) (by rw [hcl.insts]; exact hi)
      exact ⟨h1, h2.trans hcl.nqcfg⟩

end

/-! ### A held notice is written (R135) -/

/-- The first element that has a value is the only one. -/
theorem findSome?_of_unique {α β : Type} {f : α → Option β} {l : List α} {x : α} {b : β} (hx : x ∈ l) (hf : f x = some b)
    (hu : ∀ y ∈ l, y ≠ x → f y = none) : l.findSome? f = some b := by
  induction l with
  | nil => cases hx
  | cons y l ih =>
    rw [List.findSome?_cons]
    by_cases hy : y = x
    · rw [hy, hf]
    · rw [hu y List.mem_cons_self hy]
      exact ih ((List.mem_cons.mp hx).resolve_left (Ne.symm hy)) fun z hz => hu z (List.mem_cons_of_mem _ hz)

section
variable {s u : State}

/-- A node whose notice is held back, with what the notice says. -/
def Node.heldNotice (n : Node) : Option (Node × Nat × Nat × Nat × Bool) := match n.phase with
  | .noticeHeld t va len d => some (n, t, va, len, d)
  | _ => none

theorem Node.heldNotice_eq_none {n : Node} : n.heldNotice = none ↔ n.held = false := by
  unfold Node.heldNotice Node.held
  split <;> simp

theorem State.serveOne_held {n : Node} {ty va len flat : Nat} {d : Bool} (hn : s.cmd.nodes.findSome? Node.heldNotice = some (n, ty, va, len, d))
    (hon : s.cmd.nqcfg.getLsbD 0 = true) (hroom : (s.cmd.nqtail - s.cmd.nqhead).toNat < 1024)
    (hat : OwnAt s (s.cmd.nqcfg.toNat / 2 ^ 44) (s.cmd.nqbase.toNat + 32 * (s.cmd.nqtail.toNat % 1024)) 32 .write flat u) :
    s.serveOne = some (((wrote u flat (noticeBytes ty n.pasid va len s.cmd.nqtail.toNat)).setCmd
      { u.cmd with nqtail := u.cmd.nqtail + 1 }).setPhase n.q n.idx (.notice s.cmd.nqtail.toNat d)) := by
  have hfull : s.nqFull = false := decide_eq_false (Nat.not_le.mpr hroom)
  unfold State.serveOne
  rw [if_neg (by rw [State.nqEn_eq, hon, hfull]; decide)]
  split
  · rename_i heq
    cases heq.symm.trans hn
    rw [State.postNotice_written hon hroom hat]
  · rename_i heq
    cases heq.symm.trans hn

/-- The only node whose notice is held back is found. -/
theorem findSome?_heldNotice {l : List Node} {n : Node} {ty va len : Nat} {d : Bool} (h : l.filter Node.held = [n])
    (hp : n.phase = .noticeHeld ty va len d) : l.findSome? Node.heldNotice = some (n, ty, va, len, d) := by
  have hmem : n ∈ l := (List.mem_filter.mp (h ▸ List.mem_singleton_self n)).1
  refine findSome?_of_unique hmem (by simp [Node.heldNotice, hp]) fun y hy hne => Node.heldNotice_eq_none.mpr ?_
  by_contra hh
  have hmem' : y ∈ l.filter Node.held := List.mem_filter.mpr ⟨hy, (Bool.not_eq_false _).mp hh⟩
  rw [h, List.mem_singleton] at hmem'
  exact hne hmem'

/-- Where one element alone satisfies `p`, and what takes its place does not, none does. -/
theorem filter_updFirst_eq_nil {α : Type} {p k : α → Bool} {f : α → α} {l : List α} {x : α} (h : l.filter p = [x]) (hk : l.find? k = some x)
    (hf : p (f x) = false) : (updFirst k f l).filter p = [] := by
  induction l with
  | nil => cases hk
  | cons y l ih =>
    have hx : p x = true := (List.mem_filter.mp (h ▸ List.mem_singleton_self x)).2
    unfold updFirst
    by_cases hy : k y = true
    · obtain rfl : y = x := by simpa [hy] using hk
      rw [List.filter_cons_of_pos hx] at h
      rw [if_pos hy, List.filter_cons_of_neg (by simp [hf])]
      exact (List.cons.inj h).2
    · have hk' : l.find? k = some x := by rwa [List.find?_cons_of_neg hy] at hk
      have hpy : ¬ p y = true := fun hpy => by
        rw [List.filter_cons_of_pos hpy] at h
        exact hy ((List.cons.inj h).1 ▸ List.find?_some hk')
      rw [List.filter_cons_of_neg hpy] at h
      rw [if_neg hy, List.filter_cons_of_neg hpy]
      exact ih h hk'

/-- A write is what a read of the same bytes gives. -/
theorem MemSide.read_write_self (m : MemSide) (a : Nat) (bs : List Byte) : (m.write a bs).read a bs.length = bs :=
  sgetRun_ssetRun ..

/-- The one notice that is held back goes into the ring, and no other follows it. -/
theorem State.serve_held {fuel flat : Nat} {n : Node} {ty va len : Nat} {d : Bool} (hn : s.cmd.nodes.filter Node.held = [n])
    (hp : n.phase = .noticeHeld ty va len d) (hk : s.node? n.q n.idx = some n) (hi : ∀ i ∈ s.cmd.insts, i.held = false)
    (hkept : s.cmd.kept = []) (hpend : s.mem.pending = []) (hon : s.cmd.nqcfg.getLsbD 0 = true)
    (hroom : (s.cmd.nqtail - s.cmd.nqhead).toNat < 1024)
    (hat : OwnAt s (s.cmd.nqcfg.toNat / 2 ^ 44) (s.cmd.nqbase.toNat + 32 * (s.cmd.nqtail.toNat % 1024)) 32 .write flat u) :
    State.serve (fuel + 1) s = ((wrote u flat (noticeBytes ty n.pasid va len s.cmd.nqtail.toNat)).setCmd
      { u.cmd with nqtail := u.cmd.nqtail + 1 }).setPhase n.q n.idx (.notice s.cmd.nqtail.toNat d) := by
  rw [State.serve, State.serveOne_held (findSome?_heldNotice hn hp) hon hroom hat]
  have hu := State.atcOnly_of_ownAt hat
  refine State.serve_eq_self (State.serveOne_eq_none ⟨fun y hy => ?_, fun i hi' => hi i ?_⟩ ?_ ?_)
  · have hnil : (updFirst (·.is n.q n.idx) (fun x => { x with phase := .notice s.cmd.nqtail.toNat d }) u.cmd.nodes).filter Node.held = [] :=
      filter_updFirst_eq_nil (by rwa [hu.cmd]) ((hu.node? n.q n.idx).trans hk) rfl
    exact (Bool.not_eq_true _).mp (List.filter_eq_nil_iff.mp hnil y hy)
  · rw [← hu.cmd]
    exact hi'
  · rw [← hkept, ← hu.cmd]
    rfl
  · rw [← hpend, hu]
    rfl

end

/-! ### The lease phase (R133) -/

section
variable {s u : State} {q idx : Nat} {n : Node} {w : LeaseWalk} (h : s.node? q idx = some n) (hp : n.phase = .leasing)
include h hp

/-- All units of the ranges are translated: the lease is refused, waits for one of the 4096, or is granted. -/
theorem goes_leasePhase_done (hw : s.walkLease n.pasid n.walk (leaseUnits n.ranges) = .done w u) :
    Goes (.leasePhase q idx) s (if w.bad.isSome then u.completeNode q idx (.status! stLeasePerm)
      else if 4096 ≤ u.leasesHeld then s
      else (u.setMem (u.mem.pin w.pages)).updNode q idx fun x => { x with pins := w.pages, leased := true, phase := .ready s.time }) := by
  show execLeasePhase q idx s = _
  unfold execLeasePhase
  rw [h]
  dsimp only
  rw [if_neg (by simp [hp]), hw]
  dsimp only
  split
  · rfl
  · split <;> rfl

/-- A unit has no translation: a notice goes out for it. -/
theorem goes_leasePhase_missing {va len : Nat} {host : Bool}
    (hw : s.walkLease n.pasid n.walk (leaseUnits n.ranges) = .missing w va len host u) :
    Goes (.leasePhase q idx) s
      ((u.updNode q idx fun x => { x with walk := w }).nodeNotice q idx (if host then typeHost else typePage) n.pasid va len false) := by
  show execLeasePhase q idx s = _
  unfold execLeasePhase
  rw [h]
  dsimp only
  rw [if_neg (by simp [hp]), hw]

end

/-! ### NQCFG (R109, R135) -/

/-- What a write leaves in NQCFG: PASID and EN, and NQERR where it is not cleared. -/
def nqcfgOf (old v : W64) : W64 := (v &&& 0xFFFFF00000000001#64) ||| (old &&& 2 &&& ~~~v)

theorem nqcfgOf_en (old v : W64) : (nqcfgOf old v).getLsbD 0 = v.getLsbD 0 := by
  have h1 : (0xFFFFF00000000001#64).getLsbD 0 = true := by decide
  have h2 : (2 : W64).getLsbD 0 = false := by decide
  rw [nqcfgOf, BitVec.getLsbD_or, BitVec.getLsbD_and, BitVec.getLsbD_and, BitVec.getLsbD_and, h1, h2, Bool.and_true, Bool.and_false,
    Bool.false_and, Bool.or_false]

section
variable {s : State} {v : W64}

theorem goes_nqcfgWrite_noneHeld (h : s.NoneHeld) (hk : s.cmd.kept = []) (hp : s.mem.pending = []) :
    Goes (.nqcfgWrite v) s (s.setCmd { s.cmd with nqcfg := nqcfgOf s.cmd.nqcfg v }) := by
  show execNqcfgWrite v s = _
  unfold execNqcfgWrite
  dsimp only
  split
  · exact congrArg Host.Outcome.next (State.serve_eq_self (State.serveOne_eq_none h hk hp))
  · exact congrArg Host.Outcome.next (State.failHeld_eq_self h)

theorem goes_nqcfgWrite_off (hoff : v.getLsbD 0 = false) : let t := s.setCmd { s.cmd with nqcfg := nqcfgOf s.cmd.nqcfg v }
    Goes (.nqcfgWrite v) s (t.failHeld (t.cmd.nodes.length + t.cmd.insts.length)) := by
  intro t
  have hen : t.nqEn = false := by rw [State.nqEn_eq, ← hoff]; exact nqcfgOf_en ..
  show execNqcfgWrite v s = _
  exact congrArg Host.Outcome.next (if_neg (by rw [Bool.not_eq_true]; exact hen))

end

/-! ### Answers to a notice (R136) -/

/-- What the answer to a notice looks at. -/
theorem goes_noticeack {s : State} {n : Node} {nid : Nat} {desc : Bool} (hn : n ∈ s.cmd.nodes) (hp : n.phase = .notice nid desc)
    (hu : ∀ x ∈ s.cmd.nodes, x ≠ n → ∀ d, x.phase ≠ .notice nid d) :
    Goes (.noticeackRetry nid) s (s.setPhase n.q n.idx (if desc = true then .due else .leasing)) ∧
    Goes (.noticeackFail nid) s (s.failNotice n.q n.idx desc) := by
  constructor
  · show execNoticeackRetry nid s = _
    unfold execNoticeackRetry
    rw [findSome?_of_unique (b := (n, desc)) hn (by simp [hp])]
    intro y hy hne
    have := hu y hy hne
    split
    · rename_i k d hk
      exact if_neg fun (e : k = nid) => this d (by rw [hk, e])
    · rfl
  · show execNoticeackFail nid s = _
    unfold execNoticeackFail
    rw [findSome?_of_unique (b := (n, desc)) hn (by simp [hp])]
    intro y hy hne
    have := hu y hy hne
    split
    · rename_i k d hk
      exact if_neg fun (e : k = nid) => this d (by rw [hk, e])
    · rfl

theorem goes_noticeackRetry_inst {s : State} {i : Inst} {nid : Nat} (hi : s.cmd.insts.find? (fun x => x.state == .notice nid) = some i)
    (hn : ∀ x ∈ s.cmd.nodes, ∀ d, x.phase ≠ .notice nid d) :
    Goes (.noticeackRetry nid) s (s.updInst i.ctxid fun x => { x with state := .placed }) := by
  show execNoticeackRetry nid s = _
  unfold execNoticeackRetry
  rw [List.findSome?_eq_none_iff.mpr, hi]
  intro y hy
  split
  · rename_i k d hk
    exact if_neg fun (e : k = nid) => hn y hy d (by rw [hk, e])
  · rfl

/-! ### TLBINVC (R144) -/

/-- A flag of a register. -/
def flagAt (b : Bool) (n : Nat) : W32 := if b then 1 <<< n else 0

/-- TLBINVC as a write of it leaves the register: the fields of `x`, BUSY and ERR. -/
def tlbinvcOf (x : W32) (busy err : Bool) : W32 := (x &&& 0x200FFFFF) ||| flagAt busy 31 ||| flagAt err 30

theorem tlbinvcOf_bit (x : W32) (busy err : Bool) (i : Nat) : (tlbinvcOf x busy err).getLsbD i =
    ((x.getLsbD i && (0x200FFFFF#32).getLsbD i) || (flagAt busy 31).getLsbD i || (flagAt err 30).getLsbD i) := by
  simp only [tlbinvcOf, BitVec.getLsbD_or, BitVec.getLsbD_and]
  rfl

theorem tlbinvcOf_bits (x : W32) (busy err : Bool) : (tlbinvcOf x busy err).getLsbD 31 = busy ∧ (tlbinvcOf x busy err).getLsbD 30 = err ∧
    (tlbinvcOf x busy err).getLsbD 28 = false ∧ (tlbinvcOf x busy err).toNat % 2 ^ 20 = x.toNat % 2 ^ 20 := by
  have hflags (i : Nat) (hi : (0x200FFFFF#32).getLsbD i = false) :
      (tlbinvcOf x busy err).getLsbD i = ((flagAt busy 31).getLsbD i || (flagAt err 30).getLsbD i) := by
    rw [tlbinvcOf_bit, hi, Bool.and_false, Bool.false_or]
  have hlow : (tlbinvcOf x busy err).setWidth 20 = x.setWidth 20 := by
    apply BitVec.eq_of_getLsbD_eq
    intro i hi
    have hmask : ∀ i : Fin 20, (0x200FFFFF#32).getLsbD i.val = true := by decide
    have hbusy : ∀ i : Fin 20, (flagAt busy 31).getLsbD i.val = false := by cases busy <;> decide
    have herr : ∀ i : Fin 20, (flagAt err 30).getLsbD i.val = false := by cases err <;> decide
    rw [BitVec.getLsbD_setWidth, BitVec.getLsbD_setWidth, tlbinvcOf_bit, hmask ⟨i, hi⟩, hbusy ⟨i, hi⟩, herr ⟨i, hi⟩, Bool.and_true,
      Bool.or_false, Bool.or_false]
  refine ⟨?bit31, ?bit30, ?bit28, by simpa using congrArg BitVec.toNat hlow⟩
  case bit31 =>
    rw [hflags 31 (by decide)]
    cases busy <;> cases err <;> decide
  case bit30 =>
    rw [hflags 30 (by decide)]
    cases busy <;> cases err <;> decide
  case bit28 =>
    rw [hflags 28 (by decide)]
    cases busy <;> cases err <;> decide

theorem goes_tlbInvalidate_idle {s : State} {v : W32} (hgo : v.getLsbD 28 = true) (hidle : s.mem.tlbinvc.getLsbD 31 = false) :
    Goes (.tlbInvalidate v) s (s.setMem { s.mem with
      tlbinvc := tlbinvcOf v true (s.mem.tlbinvc.getLsbD 30 && !v.getLsbD 30)
      tlbRun := some (v.toNat % 2 ^ 20, v.getLsbD 29, s.mem.tlbinva.toNat, s.mem.tlbinvl.toNat) }) := by
  have h20 : bitsNat v.toNat 0 20 = v.toNat % 2 ^ 20 := by simp [bitsNat]
  show execTlbInvalidate v s = _
  unfold execTlbInvalidate
  simp only [hgo, hidle, h20, Bool.not_false, Bool.and_self, Bool.false_and, Bool.false_eq_true, if_true, if_false]
  rfl

theorem goes_tlbInvalidate_busy {s : State} {v : W32} (hgo : v.getLsbD 28 = true) (hbusy : s.mem.tlbinvc.getLsbD 31 = true) :
    Goes (.tlbInvalidate v) s (s.setMem { s.mem with tlbinvc := tlbinvcOf s.mem.tlbinvc true true }) := by
  show execTlbInvalidate v s = _
  unfold execTlbInvalidate
  simp only [hgo, hbusy, Bool.not_true, Bool.and_self, Bool.and_false, Bool.false_eq_true, if_true, if_false]
  rfl

/-! ### Lines that are written back (R144, R145, R347) -/

/-- Nothing changes but the data L1s and bytes of memory. -/
structure State.L1sOnly (s t : State) : Prop where
  rest : t = { s with cores := t.cores, mem := { s.mem with cells := t.mem.cells, poison := t.mem.poison } }
  core : ∀ k, t.core k = { s.core k with dl1 := (t.core k).dl1 }

theorem State.L1sOnly.refl (s : State) : s.L1sOnly s := ⟨rfl, fun _ => rfl⟩

theorem State.L1sOnly.trans {s t u : State} (h : s.L1sOnly t) (h' : t.L1sOnly u) : s.L1sOnly u where
  rest := by
    have e := h'.rest
    rw [h.rest] at e
    exact e
  core k := by
    have e := h'.core k
    rw [h.core k] at e
    exact e

theorem OnlyL1.l1sOnly {s t : State} {k : Fin 128} (h : OnlyL1 s t k) : s.L1sOnly t where
  rest := by
    unfold OnlyL1 at h
    rw [h]
    rfl
  core j := by
    unfold OnlyL1 at h
    rw [h]
    rcases eq_or_ne j k with rfl | hj
    · rw [State.setCore_core_self]
    · rw [State.setCore_core_ne _ _ hj]
      rfl

theorem State.performLines_l1sOnly (s : State) (p : Core → DLine → Bool) (drop : Bool) : s.L1sOnly (s.performLines p drop) := by
  refine foldl_keep (fun t => s.L1sOnly t) _ _ s (.refl s) fun t k _ ht => ?_
  split
  · exact ht
  · exact ht.trans (OnlyL1.l1sOnly (flushLines_ok t k _ _).1)

/-- With empty data L1s nothing is to be performed. -/
theorem State.performLines_eq_self {s : State} (h : ∀ k, (s.core k).dl1 = []) (p : Core → DLine → Bool) (drop : Bool) :
    s.performLines p drop = s := by
  refine foldl_keep (fun t => t = s) _ _ s rfl fun t k _ ht => ?_
  rw [ht, h k]
  rfl

/-! ### The end of an invalidation (R144, R145) -/

section
variable {s : State} {pasid base len : Nat} {all : Bool}

theorem hitBy_iff {p a n : Nat} : hitBy (pasid, all, base, len) p a n = true ↔
    p = pasid ∧ (all = true ∨ a < base + len ∧ base < a + n) := by
  simp [hitBy]

theorem goes_tlbInvalidateDone_waits (hrun : s.mem.tlbRun = some (pasid, all, base, len)) {r : RemoteReq} (hr : r ∈ s.fab.remote)
    (hp : r.pasid = pasid) (hover : all = true ∨ r.ea.toNat < base + len ∧ base < r.ea.toNat + r.len) : Goes .tlbInvalidateDone s s := by
  have huse : s.usersOf (pasid, all, base, len) = true := by
    simp only [State.usersOf, Bool.or_eq_true, List.any_eq_true]
    exact .inl ⟨r, hr, hitBy_iff.mpr ⟨hp, hover⟩⟩
  show execTlbInvalidateDone s = _
  unfold execTlbInvalidateDone
  rw [hrun]
  exact if_pos huse

/-- Which entries of a TLB an invalidation leaves. -/
theorem mem_dropTlb {l : List TlbEntry} {e : TlbEntry} : e ∈ dropTlb (pasid, all, base, len) l ↔
    e ∈ l ∧ (e.pasid = pasid → all = false ∧ (base + len ≤ e.base ∨ e.base + 2 ^ e.log2 ≤ base)) := by
  rw [dropTlb, List.mem_filter, and_congr_right_iff]
  intro _
  rw [Bool.not_eq_true', ← Bool.not_eq_true, hitBy_iff]
  cases all
  · simp only [Bool.false_eq_true, false_or, true_and]
    omega
  · simp

/-- The state after the invalidation, from the one in which the lines are written back. -/
def State.tlbDropped (s : State) (r : Nat × Bool × Nat × Nat) : State :=
  { s with
    cores := s.cores.map fun c => { c with tlb := dropTlb r c.tlb }
    quads := s.quads.map fun q => { q with tlb := dropTlb r q.tlb }
    mem := { s.mem with
      atc := s.mem.atc.filter fun t => t.pasid != r.1
      tlbRun := none
      tlbinvc := s.mem.tlbinvc &&& 0x7FFFFFFF } }

theorem State.tlbDropped_core (s : State) (r : Nat × Bool × Nat × Nat) (k : Fin 128) :
    (s.tlbDropped r).core k = { s.core k with tlb := dropTlb r (s.core k).tlb } := by
  simp [State.tlbDropped, State.core]

theorem State.tlbDropped_quad (s : State) (r : Nat × Bool × Nat × Nat) (q : Fin 32) :
    (s.tlbDropped r).quad q = { s.quad q with tlb := dropTlb r (s.quad q).tlb } := by
  simp [State.tlbDropped, State.quad]

theorem goes_tlbInvalidateDone (hrun : s.mem.tlbRun = some (pasid, all, base, len)) (hr : ∀ r ∈ s.fab.remote, r.pasid ≠ pasid)
    (hb : ∀ b ∈ s.fab.batches, (s.core (coreIx b.core)).pasid ≠ pasid) :
    ∃ t, s.L1sOnly t ∧ ((∀ k, (s.core k).dl1 = []) → t = s) ∧ Goes .tlbInvalidateDone s (t.tlbDropped (pasid, all, base, len)) := by
  have huse : ¬ s.usersOf (pasid, all, base, len) = true := by
    simp only [State.usersOf, Bool.or_eq_true, List.any_eq_true, beq_iff_eq, not_or, not_exists, not_and]
    exact ⟨fun r hr' hh => hr r hr' (hitBy_iff.mp hh).1, hb⟩
  refine ⟨s.performLines (fun c l => hitBy (pasid, all, base, len) c.pasid l.va.toNat 128) false, State.performLines_l1sOnly s _ false,
    fun h => State.performLines_eq_self h _ false, ?_⟩
  show execTlbInvalidateDone s = _
  unfold execTlbInvalidateDone
  rw [hrun]
  exact if_neg huse

/-- The bits of TLBINVC but BUSY. -/
theorem getLsbD_and_mask31 (c : W32) : (c &&& 0x7FFFFFFF).getLsbD 31 = false ∧ ∀ b, b < 31 → (c &&& 0x7FFFFFFF).getLsbD b = c.getLsbD b := by
  have hmask : ∀ b : Fin 31, (0x7FFFFFFF#32).getLsbD b.val = true := by decide
  refine ⟨?_, fun b hb => ?_⟩
  · rw [BitVec.getLsbD_and, show (0x7FFFFFFF : W32).getLsbD 31 = false by decide, Bool.and_false]
  · rw [BitVec.getLsbD_and]
    exact (congrArg _ (hmask ⟨b, hb⟩)).trans (Bool.and_true _)

end

/-- Address translations of the host are taken back. -/
theorem goes_atsInvalidate (s : State) (pasid va len : Nat) :
    ∃ t, s.L1sOnly t ∧ ((∀ k, (s.core k).dl1 = []) → t = s) ∧ Goes (.atsInvalidate pasid va len) s
      ((t.setMem { t.mem with
        atc := t.mem.atc.filter fun e => !(e.pasid == pasid && decide (e.page * 65536 < va + len) && decide (va < (e.page + 1) * 65536))
        atsEpoch := t.mem.atsEpoch + 1 }).send (.atsDone pasid va len)) :=
  ⟨_, State.performLines_l1sOnly s _ true, fun h => State.performLines_eq_self h _ true, rfl⟩

end Sys2Proof.Machine

open Sys2Proof.Machine Sys2Proof.Safety in
/-- Settles O38: a notice that cannot be written stays with its node until the ring has room, and an invalidation drops entries of the
TLBs once the lines of the data L1s are written back. -/
theorem leasesNoticesAndInvalidation : Obligations.LeasesNoticesAndInvalidation := by
  unfold Obligations.LeasesNoticesAndInvalidation
  refine ⟨fun s u => ⟨fun q idx n h hp => ⟨?leased, ?refused, ?crowded, fun w va len host hw => ?missing⟩,
    fun q idx type pasid va len flat desc => ⟨fun hon hroom hat => ?written, fun hon hfull => ?full, fun hoff => ?off⟩,
    fun n nid desc => goes_noticeack, fun i nid => goes_noticeackRetry_inst, fun v h => ⟨fun hidle hkept hpend => ?nothingHeld,
      fun hoff hi => ?turnedOff, fun n q ty va len d flat hn hp hk hi hkept hpend hon hroom hat => ?heldGoes⟩⟩,
    fun s v => ⟨fun hgo hidle => ?starts, fun hgo hbusy => ?refusedBusy, fun pasid all base len r hrun hr hp => ?waits,
      fun pasid all base len hrun hr hb => ?dropped, fun pasid va len => ?ats⟩⟩
  case leased =>
    intro w hw hbad hheld
    have hgoes := goes_leasePhase_done h hp hw
    rwa [hbad, if_neg (by decide), if_neg (by omega)] at hgoes
  case refused =>
    intro w a hw hbad
    have hgoes := goes_leasePhase_done h hp hw
    rwa [hbad, if_pos (Option.isSome_some)] at hgoes
  case crowded =>
    intro w hw hbad hheld
    have hgoes := goes_leasePhase_done h hp hw
    rwa [hbad, if_neg (by decide), if_pos hheld] at hgoes
  case missing => exact goes_leasePhase_missing h hp hw
  case written =>
    rw [State.nodeNotice, State.postNotice_written hon (Nat.not_le.mp hroom) hat]
    rfl
  case full => rw [State.nodeNotice, State.postNotice_full hon hfull]
  case off =>
    rw [State.nodeNotice, State.postNotice_off ((Bool.not_eq_true _).mp hoff)]
    rfl
  case nothingHeld =>
    have hnone : s.NoneHeld := State.noneHeld_iff.mpr hidle
    exact ⟨goes_nqcfgWrite_noneHeld hnone hkept hpend,
      congrArg Host.Outcome.next (State.serve_eq_self (State.serveOne_eq_none hnone hkept hpend))⟩
  case turnedOff =>
    have hinsts : ∀ i ∈ s.cmd.insts, i.held = false := fun i hi' => Inst.held_eq_false.mpr (hi i hi')
    obtain ⟨hnone, hcfg⟩ := State.failHeld_noneHeld
      (s := s.setCmd { s.cmd with nqcfg := nqcfgOf s.cmd.nqcfg v }) (Nat.le_add_right _ s.cmd.insts.length) hinsts
    exact ⟨_, goes_nqcfgWrite_off hoff, hcfg, State.noneHeld_iff.mp hnone⟩
  case heldGoes =>
    obtain ⟨rfl, -⟩ := State.node?_key hk
    have hu := State.atcOnly_of_ownAt hat
    have hserve := State.serve_held (fuel := 1024) (s := s.setCmd { s.cmd with nqhead := h }) hn hp hk
      (fun i hi' => Inst.held_eq_false.mpr (hi i hi')) hkept hpend hon hroom hat
    refine ⟨_, congrArg Host.Outcome.next hserve, ?_, ?_, ?_, _, ?_, rfl⟩
    · have hread := MemSide.read_write_self u.mem flat (noticeBytes ty n.pasid va len s.cmd.nqtail.toNat)
      rw [noticeBytes_length] at hread
      exact hread
    · show u.cmd.nqtail + 1 = _
      rw [hu.cmd]
      rfl
    · exact congrArg CmdProc.nqhead hu.cmd
    · refine find?_updFirst (f := fun x : Node => { x with phase := .notice s.cmd.nqtail.toNat d }) ?_ ?_
      · exact (hu.node? n.q n.idx).trans hk
      · exact Node.is_iff.mpr ⟨rfl, rfl⟩
  case starts =>
    obtain ⟨h31, h30, h28, hlow⟩ := tlbinvcOf_bits v true (s.mem.tlbinvc.getLsbD 30 && !v.getLsbD 30)
    exact ⟨_, goes_tlbInvalidate_idle hgo hidle, h31, h28, h30, hlow⟩
  case refusedBusy =>
    obtain ⟨h31, h30, -, hlow⟩ := tlbinvcOf_bits s.mem.tlbinvc true true
    exact ⟨_, goes_tlbInvalidate_busy hgo hbusy, h31, h30, hlow⟩
  case waits => exact goes_tlbInvalidateDone_waits hrun hr hp
  case dropped =>
    obtain ⟨t, ht, hsame, hgoes⟩ := goes_tlbInvalidateDone hrun hr hb
    have hmem : t.mem = { s.mem with cells := t.mem.cells, poison := t.mem.poison } := congrArg State.mem ht.rest
    obtain ⟨hbusy, hbits⟩ := getLsbD_and_mask31 t.mem.tlbinvc
    refine ⟨_, hgoes, fun k e => ?_, fun q e => ?_, fun e => ?_, rfl, hbusy, fun b hb => ?_, fun hempty => ?_⟩
    · rw [State.tlbDropped_core, ht.core k]
      exact mem_dropTlb
    · have hq : t.quad q = s.quad q := by rw [ht.rest]; rfl
      rw [State.tlbDropped_quad, hq]
      exact mem_dropTlb
    · show e ∈ t.mem.atc.filter _ ↔ _
      rw [hmem]
      simp
    · refine (hbits b hb).trans ?_
      rw [hmem]
    · rw [hsame hempty]
      rfl
  case ats =>
    obtain ⟨t, ht, hsame, hgoes⟩ := goes_atsInvalidate s pasid va len
    have hmem : t.mem = { s.mem with cells := t.mem.cells, poison := t.mem.poison } := congrArg State.mem ht.rest
    refine ⟨_, hgoes, fun e => ?_, fun hempty => ?_⟩
    · show e ∈ t.mem.atc.filter _ ↔ _
      rw [hmem, List.mem_filter]
      simp only [Bool.not_eq_true', Bool.and_eq_false_iff, beq_eq_false_iff_ne, decide_eq_false_iff_not, not_lt, or_assoc]
      tauto
    · rw [hsame hempty]
      rfl

end

section

/-! # The commands of nodes (O37)

Each kind of node has one lemma for what its step comes to. For TASK and STAGE they rest on what the record or descriptor parses to,
and the checks of a record that the statement names are lemmas about `parseTask` and `placements`. -/

set_option Elab.async false

namespace Sys2Proof.Machine
open Sys2Proof.Safety

/-! ### Two changes of the same node -/

theorem updFirst_updFirst {α : Type} {p : α → Bool} {f g : α → α} (l : List α) (hg : ∀ x, p (g x) = p x) :
    updFirst p f (updFirst p g l) = updFirst p (fun x => f (g x)) l := by
  induction l with
  | nil => rfl
  | cons x l ih =>
    by_cases hx : p x = true
    · simp [updFirst, hx, hg]
    · simp [updFirst, hx, ih]

theorem State.updNode_updNode (s : State) (q idx : Nat) (f g : Node → Node) (hg : ∀ x, (g x).is q idx = x.is q idx) :
    (s.updNode q idx g).updNode q idx f = s.updNode q idx fun x => f (g x) :=
  congrArg (fun l => s.setCmd { s.cmd with nodes := l }) (updFirst_updFirst (p := fun x : Node => x.is q idx) s.cmd.nodes hg)

/-! ### NOP, SIGNAL and WAIT (R118, R119) -/

theorem Node.isDue_of {n : Node} {k : Nat} (hd : n.cmd.kind = k ∧ n.phase = .due) : n.isDue k = true := by
  simp [Node.isDue, hd]

section
variable {s u : State} {q idx : Nat} {n : Node} {flat : Nat} (h : s.node? q idx = some n)
include h

theorem goes_nop (hd : n.cmd.kind = 0 ∧ n.phase = .due) : Goes (.nop q idx) s (s.setPhase q idx (.ended (.status! stOk))) := by
  show execNop q idx s = _
  unfold execNop
  rw [h]
  exact congrArg Host.Outcome.next (if_pos (Node.isDue_of hd))

/-- SIGNAL leaves the value, or the sum, in the word. -/
theorem goes_signal (hd : n.cmd.kind = 5 ∧ n.phase = .due) (hat : OwnAt s n.pasid (bitsNat n.cmd.payload 0 64) 8 .both flat u) :
    Goes (.signal q idx) s ((wrote u flat (leBytesOf 8 (if bitsNat n.cmd.payload 128 8 = 1
      then leNum (u.mem.read flat 8) + bitsNat n.cmd.payload 64 64 else bitsNat n.cmd.payload 64 64))).setPhase q idx (.ended (.status! stOk))) := by
  obtain ⟨host, hds⟩ := hat
  show execSignal q idx s = _
  unfold execSignal
  rw [h]
  dsimp only
  rw [if_neg (by simp [Node.isDue_of hd]), hds]
  dsimp only
  rw [gatherPieces_here, Option.getD_some]
  have hw (v : Nat) := writeHere_here u.mem (leBytesOf 8 v) flat host
  simp only [leBytesOf_length] at hw
  rw [hw]
  rfl

theorem goes_signal_error {e : OwnFail} (hd : n.cmd.kind = 5 ∧ n.phase = .due)
    (he : s.ownDests n.pasid (bitsNat n.cmd.payload 0 64) 8 .both = .error e) :
    Goes (.signal q idx) s (s.completeNode q idx (.status! stTranslation)) := by
  show execSignal q idx s = _
  unfold execSignal
  rw [h]
  dsimp only
  rw [if_neg (by simp [Node.isDue_of hd]), he]

end

theorem waitHolds_iff (cond v want : Nat) : waitHolds cond v want = true ↔ match cond with
    | 0 => v = want
    | 1 => want ≤ v
    | _ => v ≠ want := by
  unfold waitHolds
  split <;> simp

/-- WAIT reads its word: it ends where the condition holds, and otherwise reads again later. -/
theorem State.waitRead_at {t u : State} {n : Node} {flat : Nat} (hat : OwnAt t n.pasid (bitsNat n.cmd.payload 0 64) 8 .read flat u) :
    t.waitRead n = if waitHolds (bitsNat n.cmd.payload 128 8) (leNum (u.mem.read flat 8)) (bitsNat n.cmd.payload 64 64) = true
      then u.setPhase n.q n.idx (.ended (.status! stOk)) else u := by
  rw [State.waitRead, State.ownRead_of_ownAt hat]

theorem State.waitRead_error {t : State} {n : Node} {e : OwnFail}
    (he : t.ownDests n.pasid (bitsNat n.cmd.payload 0 64) 8 .read = .error e) :
    t.waitRead n = t.completeNode n.q n.idx (.status! stTranslation) := by
  simp only [State.waitRead, State.ownRead, he]

section
variable {s : State} {q idx : Nat} {n : Node} (h : s.node? q idx = some n)
include h

theorem goes_wait (hd : n.cmd.kind = 6 ∧ n.phase = .due) :
    Goes (.wait q idx) s ((s.setPhase q idx (.polling s.time)).waitRead n) := by
  show execWait q idx s = _
  unfold execWait
  rw [h]
  exact congrArg Host.Outcome.next (if_pos (Node.isDue_of hd))

theorem goes_waitPoll {t0 : Nat} (hp : n.phase = .polling t0) : Goes (.waitPoll q idx) s (s.waitRead n) := by
  show execWaitPoll q idx s = _
  simp only [execWaitPoll, h, hp]

theorem goes_waitTimeout {t0 : Nat} (hp : n.phase = .polling t0) :
    Goes (.waitTimeout q idx) s (if bitsNat n.cmd.payload 160 32 ≠ 0 ∧ t0 + bitsNat n.cmd.payload 160 32 * 1000 ≤ s.time
      then s.completeNode q idx (.status! stWaitTimeout) else s) := by
  show execWaitTimeout q idx s = _
  simp only [execWaitTimeout, h, hp]
  rfl

end

/-! ### Task records (R130 to R132) -/

/-- The level and the count of a gang field (R149). -/
theorem bitsNat_level {g : Nat} (hg : g < 2 ^ 16) : bitsNat g 14 2 = g / 2 ^ 14 := by
  unfold bitsNat
  omega

theorem bitsNat_zero (v n : Nat) : bitsNat v 0 n = v % 2 ^ n := by simp [bitsNat]

theorem bitsNat_lt (v lo n : Nat) : bitsNat v lo n < 2 ^ n := Nat.mod_lt _ (Nat.two_pow_pos n)

section
variable {v : Nat}

theorem parseTask_none_of_part {i : Nat} (hi : i < 18) (h : bitsNat v (64 * i) 64 % (if i < 9 then 4 else 16) ≠ 0) :
    parseTask v none = none := by
  have hany : (((List.range 18).map fun i => bitsNat v (64 * i) 64).zipIdx.any fun p => p.1 % (if p.2 < 9 then 4 else 16) != 0) = true := by
    rw [List.any_eq_true]
    refine ⟨(bitsNat v (64 * i) 64, i), ?_, by simpa using h⟩
    rw [List.mk_mem_zipIdx_iff_getElem?]
    simp [hi]
  unfold parseTask
  refine if_pos ?_
  simp only [hany, Bool.or_true, Bool.true_or]

theorem parseTask_none_of_kernel (ht : bitsNat v 0x480 32 ≠ 0) (h : ∀ a, a < 6 → bitsNat v (64 * (a * 3 + 1)) 64 = 0) :
    parseTask v none = none := by
  have hall : (bitsNat v 0x480 32 != 0 &&
      (List.range 6).all fun a => nth 0 ((List.range 18).map fun i => bitsNat v (64 * i) 64) (a * 3 + 1) == 0) = true := by
    rw [Bool.and_eq_true, List.all_eq_true]
    refine ⟨by simpa using ht, fun a ha => ?_⟩
    have ha' : a < 6 := List.mem_range.mp ha
    have hlt : a * 3 + 1 < 18 := by omega
    simp [nth, hlt, h a ha']
  unfold parseTask
  refine if_pos ?_
  simp only [hall, Bool.or_true, Bool.true_or]

theorem parseTask_none_of_reserved (h : bitsNat v 0x4A0 16 / 8 ≠ 0 ∨ bitsNat v 0x4B0 16 % 128 ≠ 0 ∨ 2 ^ 52 ≤ bitsNat v 0x4C0 64) :
    parseTask v none = none := by
  have hbad : (bitsNat v 0x4A0 16 / 8 != 0) = true ∨ (bitsNat (bitsNat v 0x4B0 16) 0 7 != 0) = true ∨ (bitsNat v 0x4C0 64 / 2 ^ 52 != 0) = true := by
    rcases h with h | h | h
    · exact .inl (by simpa using h)
    · exact .inr (.inl (by rw [bitsNat_zero]; simpa using h))
    · refine .inr (.inr ?_)
      rw [bne_iff_ne]
      omega
  unfold parseTask
  refine if_pos ?_
  rcases hbad with hb | hb | hb <;> simp only [hb, Option.isNone_none, Bool.true_and, Bool.or_true, Bool.true_or]

theorem parseTask_none_of_gang (h : 128 < gangSize (bitsNat (bitsNat v 0x4B0 16) 14 2) (bitsNat (bitsNat v 0x4B0 16) 7 7)) :
    parseTask v none = none := by
  unfold parseTask
  refine if_pos ?_
  simp only [decide_eq_true h, Option.isNone_none, Bool.or_true, Bool.true_and, Bool.true_or]

/-- The record that passes the checks. -/
theorem parseTask_some {r : TaskRec} (h : parseTask v none = some r) :
    r.agents = ((List.range 18).map fun i => bitsNat v (64 * i) 64).map w64 ∧ r.trip = BitVec.ofNat 32 (bitsNat v 0x480 32) ∧
    r.tripmem = (bitsNat (bitsNat v 0x4A0 16) 0 1 == 1) ∧ r.level = bitsNat (bitsNat v 0x4B0 16) 14 2 ∧
    r.count = bitsNat (bitsNat v 0x4B0 16) 7 7 ∧
    r.leases = ((List.range 8).map fun i => leaseEntry (bitsNat v (0x600 + 64 * i) 64)).filterMap id ∧
    gangSize r.level r.count ≤ 128 := by
  by_cases hg : 128 < gangSize (bitsNat (bitsNat v 0x4B0 16) 14 2) (bitsNat (bitsNat v 0x4B0 16) 7 7)
  · rw [parseTask_none_of_gang hg] at h
    cases h
  · unfold parseTask at h
    have hr := (Option.ite_none_left_eq_some.mp h).2
    cases hr
    exact ⟨rfl, rfl, rfl, rfl, rfl, rfl, Nat.not_lt.mp hg⟩

end

/-- A lease entry in its fields (R132). -/
theorem leaseEntry_of_lt {e : Nat} (he : e < 2 ^ 64) :
    leaseEntry e = if e / 2 ^ 41 % 2 ^ 22 = 0 then none else some ⟨e % 2 ^ 41 * 65536, e / 2 ^ 41 % 2 ^ 22 * 65536, e / 2 ^ 63 == 1⟩ := by
  have h63 : bitsNat e 63 1 = e / 2 ^ 63 := by unfold bitsNat; omega
  rw [leaseEntry, h63, bitsNat_zero]
  rfl

/-! ### Placements (R149) -/

theorem levelSize_cases (l : Nat) : levelSize l = 1 ∨ levelSize l = 4 ∨ levelSize l = 32 ∨ levelSize l = 128 := by
  unfold levelSize
  split <;> simp

theorem placements_eq_nil {core0 level count : Nat} (h : core0 ≠ 0xFFFF)
    (hbad : core0 % levelSize level ≠ 0 ∨ 128 < core0 + gangSize level count) : placements core0 level count = [] := by
  unfold placements
  rw [if_neg h, if_neg]
  unfold gangSize at hbad
  rintro ⟨hmod, hfit⟩
  rcases levelSize_cases level with hs | hs | hs | hs <;> rw [hs] at hbad hmod hfit <;> omega

theorem placements_ne_nil {core0 level count : Nat} (hg : gangSize level count ≤ 128)
    (h : core0 = 0xFFFF ∨ core0 % levelSize level = 0 ∧ core0 + gangSize level count ≤ 128) : placements core0 level count ≠ [] := by
  unfold placements
  unfold gangSize at hg h
  by_cases hc : core0 = 0xFFFF
  · rw [if_pos hc]
    have hpos : 0 < 128 / levelSize level + 1 - (count + 1) := by
      rcases levelSize_cases level with hs | hs | hs | hs <;> rw [hs] at hg ⊢ <;> omega
    simp only [ne_eq, List.map_eq_nil_iff, List.range_eq_nil]
    omega
  · obtain ⟨hmod, hfit⟩ := h.resolve_left hc
    rw [if_neg hc, if_pos]
    · simp
    · refine ⟨hmod, ?_⟩
      rcases levelSize_cases level with hs | hs | hs | hs <;> rw [hs] at hmod hfit ⊢ <;> omega

/-! ### TASK (R132) -/

/-- What becomes of a TASK node whose record has been read and parsed. -/
def State.taskRead (u : State) (q idx : Nat) (n : Node) : Option TaskRec → Out
  | none => .next (u.completeNode q idx (.status! stBadRecord))
  | some r => if (placements (bitsNat n.cmd.payload 64 16) r.level r.count).isEmpty then
      .next (u.completeNode q idx (.status! stUnplaceable))
    else .next ((u.updNode q idx fun x => { x with trec := some r }).toLease q idx r.leases)

section
variable {s u : State} {q idx : Nat} {n : Node} {flat : Nat} (h : s.node? q idx = some n) (hd : n.cmd.kind = 1 ∧ n.phase = .due)
include h hd

theorem goes_task_misaligned (ha : bitsNat n.cmd.payload 0 64 % 256 ≠ 0) :
    Goes (.task q idx) s (s.completeNode q idx (.status! stBadRecord)) := by
  show execTask q idx s = _
  unfold execTask
  rw [h]
  dsimp only
  rw [if_neg (by simp [Node.isDue_of hd]), if_pos ha]

variable (ha : bitsNat n.cmd.payload 0 64 % 256 = 0)
include ha

/-- The record of TASK has been read: it is refused, has no placement, or its ranges are to be leased. -/
theorem goes_task (hat : OwnAt s n.pasid (bitsNat n.cmd.payload 0 64) 256 .read flat u) :
    let v := leNum (u.mem.read flat 256)
    (parseTask v none = none → Goes (.task q idx) s (u.completeNode q idx (.status! stBadRecord))) ∧
    (∀ r, parseTask v none = some r →
      (placements (bitsNat n.cmd.payload 64 16) r.level r.count = [] → Goes (.task q idx) s (u.completeNode q idx (.status! stUnplaceable))) ∧
      (placements (bitsNat n.cmd.payload 64 16) r.level r.count ≠ [] → Goes (.task q idx) s (u.updNode q idx fun x =>
        { x with trec := some r, phase := .leasing, ranges := r.leases, walk := .start }))) := by
  intro v
  have hexec : execTask q idx s = u.taskRead q idx n (parseTask v none) := by
    unfold execTask
    rw [h]
    dsimp only
    rw [if_neg (by simp [Node.isDue_of hd]), if_neg (by simp [ha]), State.fetchOwn, State.ownRead_of_ownAt hat]
    dsimp only
    cases parseTask v none with
    | none => rfl
    | some r => rfl
  refine ⟨fun hn => hexec.trans (by rw [hn, State.taskRead]), fun r hr => ⟨fun hp => hexec.trans ?_, fun hp => hexec.trans ?_⟩⟩
  · rw [hr]
    exact if_pos (by rw [hp]; rfl)
  · rw [hr]
    refine (if_neg (by simpa using hp)).trans (congrArg Host.Outcome.next ?_)
    exact State.updNode_updNode u q idx _ _ fun _ => rfl

theorem goes_task_missing {va : Nat} (he : s.ownDests n.pasid (bitsNat n.cmd.payload 0 64) 256 .read = .error (.missing va false)) :
    Goes (.task q idx) s (s.nodeNotice q idx typeDesc n.pasid va (bitsNat n.cmd.payload 0 64 + 256 - va) true) := by
  show execTask q idx s = _
  unfold execTask
  rw [h]
  dsimp only
  rw [if_neg (by simp [Node.isDue_of hd]), if_neg (by simp [ha]), State.fetchOwn, State.ownRead, he]
  rfl

end

/-! ### STAGE (R154 to R158) -/

/-- Footprints that do not fall from one to the next. -/
theorem footsRise_of_le {l : List Nat} (h : ∀ i j, i < j → j < l.length → nth 0 l i ≤ nth 0 l j) : footsRise l = true := by
  induction l with
  | nil => rfl
  | cons a l ih =>
    cases l with
    | nil => rfl
    | cons b l =>
      have hab : a ≤ b := h 0 1 (by decide) (by simp)
      have htail : footsRise (b :: l) = true := ih fun i j hij hj => by
        have := h (i + 1) (j + 1) (by omega) (by simpa using hj)
        simpa [nth] using this
      simp [footsRise, hab, htail]

section
variable {s u : State} {q idx : Nat} {n : Node} {flat : Nat} (h : s.node? q idx = some n) (hd : n.cmd.kind = 2 ∧ n.phase = .due)
include h hd

theorem goes_stage_misaligned (ha : bitsNat n.cmd.payload 0 64 % 256 ≠ 0) :
    Goes (.stage q idx) s (s.completeNode q idx (.status! stBadRecord)) := by
  show execStage q idx s = _
  unfold execStage
  rw [h]
  dsimp only
  rw [if_neg (by simp [Node.isDue_of hd]), if_pos ha]

variable (ha : bitsNat n.cmd.payload 0 64 % 256 = 0) (hat : OwnAt s n.pasid (bitsNat n.cmd.payload 0 64) 256 .read flat u)
include ha hat

theorem goes_stage_badRecord (hv : parseDesc (leNum (u.mem.read flat 256)) = none) :
    Goes (.stage q idx) s (u.completeNode q idx (.status! stBadRecord)) := by
  show execStage q idx s = _
  unfold execStage
  rw [h]
  dsimp only
  rw [if_neg (by simp [Node.isDue_of hd]), if_neg (by simp [ha]), State.fetchOwn, State.ownRead_of_ownAt hat]
  dsimp only
  rw [hv]

theorem goes_stage {d : StageDesc} {gs : List Gang} {vars : List Nat} {l0 : Option LeaseRange} {vs : List Variant} {w : State}
    (hv : parseDesc (leNum (u.mem.read flat 256)) = some (d, gs, vars, l0))
    (hvs : u.variants n.pasid d.first d.wdefer d.nver l0 vars = .ok vs w) (hfoot : footsRise (vs.map (·.foot)) = true)
    (hgs : ∀ g ∈ gs, placements g.core0 g.level g.count ≠ []) :
    Goes (.stage q idx) s ((w.setStages { w.stages with list := w.stages.list ++
      [{ key := w.stages.next, q := q, idx := idx, pasid := n.pasid, prio := (s.queue q).prio, desc := d, variants := vs, gangs := gs
         armed := false, dirty := false, newQ := [], fwdQ := [], bwdQ := [], wgtQ := [], seen := [], tags := [], entered := 0, finished := 0
         cur := 0, hold := List.replicate d.nver 0, lastphase := none, adv := none, budget := 0, reissues := [], faults := []
         ending := none, reports := [], picks := [], spanRetired := [], spanFaulted := [], runs := [] }], next := w.stages.next + 1 }).toLease
      q idx d.pinned) := by
  have hany : (gs.any fun g => (placements g.core0 g.level g.count).isEmpty) = false := by
    rw [List.any_eq_false]
    intro g hg
    simpa using hgs g hg
  show execStage q idx s = _
  unfold execStage
  rw [h]
  dsimp only
  rw [if_neg (by simp [Node.isDue_of hd]), if_neg (by simp [ha]), State.fetchOwn, State.ownRead_of_ownAt hat]
  dsimp only
  rw [hv]
  dsimp only
  rw [hvs]
  dsimp only
  rw [hfoot, hany]
  rfl

end

/-! ### XFORM (R119, R335) -/

/-- The destination of a transform is that of the command. -/
theorem xformArgs_dst {p : Nat} {a : XformArgs} (h : xformArgs p = some a) : a.dst = bitsNat p 64 64 := by
  unfold xformArgs at h
  dsimp only at h
  split at h
  · split at h
    · cases h
    · obtain ⟨r, -, rfl⟩ := Option.map_eq_some_iff.mp h
      rfl
  · cases h

section
variable {s : State} {q idx : Nat} {n : Node} (h : s.node? q idx = some n) (hk : n.cmd.kind = 3)
include h hk

theorem goes_xform_due {a : XformArgs} (ha : xformArgs n.cmd.payload = some a) (hout : 0 < a.outLen) (hlen : bitsNat n.cmd.payload 128 32 ≠ 0)
    (hp : n.phase = .due) : Goes (.xform q idx) s (s.toLease q idx
      [⟨bitsNat n.cmd.payload 0 64, bitsNat n.cmd.payload 128 32, false⟩, ⟨bitsNat n.cmd.payload 64 64, a.outLen, true⟩]) := by
  show execXform q idx s = _
  unfold execXform
  rw [h]
  dsimp only
  rw [if_neg (by simp [hk]), ha, hp]
  dsimp only
  rw [if_neg hlen, if_neg (by omega), xformArgs_dst ha]
  rfl

/-- What the transform comes to where it runs. -/
def State.xformRuns (q idx : Nat) (n : Node) (a : XformArgs) (t : State) : Out :=
  match t.runXform (.node q idx) n.pasid n.ranges a with
  | .error tr => .next (t.failNode q idx n.pasid tr)
  | .ok (true, t1) => .next (t1.setPhase q idx (.ended (.status! stOk)))
  | .ok (false, t1) => .next t1

theorem exec_xform_ready {a : XformArgs} (ha : xformArgs n.cmd.payload = some a) {t0 : Nat} (hp : n.phase = .ready t0)
    (hact : s.mgmt.pstate = .active) :
    execXform q idx s = State.xformRuns q idx n a (s.updNode q idx fun x => { x with phase := .running, tstart := s.time }) := by
  unfold execXform
  rw [h]
  dsimp only
  rw [if_neg (by simp [hk]), ha, hp]
  dsimp only
  rw [if_neg (by simp [hact])]
  rfl

theorem exec_xform_running {a : XformArgs} (ha : xformArgs n.cmd.payload = some a) (hp : n.phase = .running) :
    execXform q idx s = State.xformRuns q idx n a s := by
  unfold execXform
  rw [h]
  dsimp only
  rw [if_neg (by simp [hk]), ha, hp]
  rfl

theorem goes_xform_badCommand (ha : xformArgs n.cmd.payload = none) {t0 : Nat} (hp : n.phase = .ready t0) (hact : s.mgmt.pstate = .active) :
    Goes (.xform q idx) s (s.completeNode q idx (.status! stBadCommand)) := by
  show execXform q idx s = _
  unfold execXform
  rw [h]
  dsimp only
  rw [if_neg (by simp [hk]), ha, hp]
  dsimp only
  rw [if_neg (by simp [hact])]

end

/-- The three ways in which a run of a transform goes on. -/
theorem goes_of_xformRuns {s t : State} {q idx : Nat} {n : Node} {a : XformArgs} (he : execXform q idx s = State.xformRuns q idx n a t) :
    (∀ w, t.runXform (.node q idx) n.pasid n.ranges a = .ok (true, w) → Goes (.xform q idx) s (w.setPhase q idx (.ended ⟨0, 0, 0, 0⟩))) ∧
    (∀ w, t.runXform (.node q idx) n.pasid n.ranges a = .ok (false, w) → Goes (.xform q idx) s w) ∧
    (∀ x, t.runXform (.node q idx) n.pasid n.ranges a = .error x → Goes (.xform q idx) s (t.failNode q idx n.pasid x)) := by
  refine ⟨fun w hw => he.trans ?_, fun w hw => he.trans ?_, fun x hx => he.trans ?_⟩
  · rw [State.xformRuns, hw]
    rfl
  · rw [State.xformRuns, hw]
  · rw [State.xformRuns, hx]

end Sys2Proof.Machine

open Sys2Proof.Machine Sys2Proof.Safety in
/-- Settles O37, a kind of node at a time; that the checks of a task record refuse what the statement names rests on `parseTask`. -/
theorem nodeCommands : Obligations.NodeCommands := by
  unfold Obligations.NodeCommands
  intro s u q idx n flat h pasid p addr due ends done
  obtain ⟨hq, hi⟩ := State.node?_key h
  refine ⟨goes_nop h, fun hd hat => ⟨fun h0 => ?store, fun h1 => ?add⟩, fun e => goes_signal_error h, ?wait,
    goes_task_misaligned h, fun hd ha hat => ?task, fun va hd ha he => goes_task_missing h hd ha he,
    goes_stage_misaligned h, fun hd ha hat => ⟨goes_stage_badRecord h hd ha hat, fun d gs vars l0 vs w hv hvs hf hg => ?stage⟩,
    fun a hk ha hout hlen => ⟨goes_xform_due h hk ha hout hlen, fun t0 hp hact => ?ready, fun hp => ?running⟩,
    fun t0 hk hp hact ha => goes_xform_badCommand h hk ha hp hact⟩
  case store =>
    have h0 : bitsNat n.cmd.payload 128 8 = 0 := h0
    have hgoes := goes_signal h hd hat
    rwa [if_neg (by rw [h0]; decide)] at hgoes
  case add =>
    have hgoes := goes_signal h hd hat
    rwa [if_pos h1] at hgoes
  case wait =>
    intro holds reads
    have hreads (i : Sys2Proof.Instr) (t : State) (hgoes : Goes i s (t.waitRead n)) : reads i t := by
      refine ⟨fun hat => ⟨fun hh => ?_, fun hh => ?_⟩, fun e he => ?_⟩
      · rwa [State.waitRead_at hat, if_pos ((waitHolds_iff ..).mpr hh), hq, hi] at hgoes
      · rwa [State.waitRead_at hat, if_neg fun hw => hh ((waitHolds_iff ..).mp hw)] at hgoes
      · rwa [State.waitRead_error he, hq, hi] at hgoes
    refine ⟨fun hd => hreads _ _ (goes_wait h hd), fun t0 hp => ⟨hreads _ _ (goes_waitPoll h hp), fun h0 h1 => ?_, fun h0 => ?_⟩⟩
    · have hgoes := goes_waitTimeout h hp
      rwa [if_pos ⟨h0, h1⟩] at hgoes
    · have hgoes := goes_waitTimeout h hp
      rwa [if_neg fun ⟨h1, h2⟩ => h0.elim h1 (Nat.not_lt.mpr h2)] at hgoes
  case task =>
    intro v at_ bad
    obtain ⟨hnone, hsome⟩ := goes_task h hd ha hat
    have hlevel : bitsNat (at_ 0x96 16) 14 2 = at_ 0x96 16 / 2 ^ 14 := bitsNat_level (bitsNat_lt ..)
    refine ⟨fun ⟨i, hi, hb⟩ => hnone (parseTask_none_of_part hi ?part), fun ht hb => hnone (parseTask_none_of_kernel ht fun a ha => ?kernel),
      fun hb => hnone (parseTask_none_of_reserved hb), fun hb => hnone (parseTask_none_of_gang ?gang), fun r hr => ?some⟩
    case part => rwa [show 64 * i = 8 * (8 * i) by omega]
    case kernel => rw [show 64 * (a * 3 + 1) = 8 * (24 * a + 8) by omega]; exact hb a ha
    case gang => rwa [← hlevel] at hb
    case some =>
      obtain ⟨hagents, htrip, hmem, hlev, hcount, hleases, hfit⟩ := parseTask_some hr
      obtain ⟨hunplaced, hplaced⟩ := hsome r hr
      refine ⟨fun i hi => ?_, ?_, ?_, hlev.trans hlevel, hcount, ?_, fun hc hb => hunplaced (placements_eq_nil hc hb),
        fun hc => hplaced (placements_ne_nil hfit hc)⟩
      · rw [hagents, show at_ (8 * i) 64 = bitsNat v (64 * i) 64 by simp only [at_]; congr 1; omega]
        simp [nth, hi]
      · rw [htrip, BitVec.toNat_ofNat]
        exact Nat.mod_eq_of_lt (bitsNat_lt ..)
      · rw [hmem, bitsNat_zero]
        rfl
      · rw [hleases, List.filterMap_map, List.filterMap_map]
        refine List.filterMap_congr fun i _ => ?_
        simp only [Function.comp_apply, id]
        rw [leaseEntry_of_lt (bitsNat_lt ..), show at_ (0xC0 + 8 * i) 64 = bitsNat v (0x600 + 64 * i) 64 by simp only [at_]; congr 1; omega]
  case stage =>
    have hfoot : footsRise (vs.map (·.foot)) = true := footsRise_of_le fun i j hij hj => hf i j hij (by simpa using hj)
    exact ⟨_, rfl, rfl, rfl, rfl, rfl, rfl, rfl, rfl, rfl, rfl, rfl, rfl, rfl, rfl, rfl, goes_stage h hd ha hat hv hvs hfoot hg⟩
  case ready => exact goes_of_xformRuns (exec_xform_ready h hk ha hp hact)
  case running => exact goes_of_xformRuns (exec_xform_running h hk ha hp)

end

section

/-! # Requests between packages, and losses (O48)

A batch, a request of a peer and an answer each have a lemma for their event. What an announcement of a new incarnation leaves is the
relation `State.Links` (the incarnations, the replay table, the ends that are broken), which closing a stage, an instance, a collective
or a node keeps; the loss of a message keeps `State.HoldsNow` of the core that waits for it. -/

set_option Elab.async false

namespace Sys2Proof.Machine
open Sys2Proof.Safety

/-! ### What leaves the fabric alone -/

section
variable {s t : State}

@[simp] theorem State.raise_fab (s : State) (k : Fin 128) (agent : Nat) (loc : W64) (tr : Trap) : (s.raise k agent loc tr).fab = s.fab := by
  unfold State.raise
  split <;> rfl

@[simp] theorem State.raise_stages (s : State) (k : Fin 128) (agent : Nat) (loc : W64) (tr : Trap) :
    (s.raise k agent loc tr).stages = s.stages := by
  unfold State.raise
  split <;> rfl

theorem State.updCores_fab (s : State) (ks : List (Fin 128)) (f : Core → Core) : (s.updCores ks f).fab = s.fab :=
  foldl_keep (fun t : State => t.fab = s.fab) _ ks s rfl fun _ _ _ ht => ht

theorem OnlyTlb.fab (h : OnlyTlb s t) : t.fab = s.fab := by rw [h.rest]

theorem State.poolPiece_fab {pasid va : Nat} {d : Dest} (h : s.poolPiece pasid va = .ok (d, t)) : t.fab = s.fab := by
  unfold State.poolPiece at h
  have ht := s.translate_none pasid va
  split at h
  · rename_i log2 l s1 hw
    obtain rfl : s1 = s := by rw [hw] at ht; exact ht
    dsimp only at h
    split at h
    · cases h
    · split at h
      · have ha := State.ats_atcOnly s1 pasid (l.ma + va % 2 ^ log2)
        split at h
        · rename_i he
          rw [he] at ha
          cases h
          exact ha.fab
        · cases h
      · split at h
        · cases h
        · cases h
          rfl
  · cases h
  · cases h

/-- Where every piece leaves the fabric alone, so does their list. -/
theorem State.destAll_fab {f : State → Nat → Nat → Except Trap (Dest × State)}
    (hf : ∀ (s : State) a n d t, f s a n = .ok (d, t) → t.fab = s.fab) {l : List (Nat × Nat)} {ds : List (Dest × Nat)}
    (h : s.destAll f l = .ok (ds, t)) : t.fab = s.fab := by
  induction l generalizing s ds with
  | nil =>
    cases h
    rfl
  | cons p l ih =>
    obtain ⟨a, n⟩ := p
    unfold State.destAll at h
    split at h
    · cases h
    · rename_i hp
      split at h
      · cases h
      · rename_i ht
        cases h
        exact (ih ht).trans (hf _ _ _ _ _ hp)

theorem State.storeRows_fab {pasid base : Nat} {runs : List (Nat × Nat)} {rows : List (List Byte)} {bad : List Nat}
    (h : s.storeRows pasid base runs rows bad = .ok t) : t.fab = s.fab := by
  unfold State.storeRows at h
  split at h
  · cases h
  · rename_i ds s1 hd
    have h1 : s1.fab = s.fab := State.destAll_fab (fun _ _ _ _ _ hp => State.poolPiece_fab hp) hd
    have h2 : (s1.storedForm rows).2.fab = s1.fab := by
      unfold State.storedForm
      split <;> rfl
    cases h
    exact h2.trans h1

theorem State.discardSlot_fab (s : State) (ctxid : Nat) (x : Slot) : (s.discardSlot ctxid x).2.fab = s.fab := by
  unfold State.discardSlot
  split
  · rfl
  · dsimp only
    split
    · rfl
    · rfl
    · split
      · rfl
      · split
        · rfl
        · split
          · rename_i hp
            unfold State.putRows at hp
            dsimp only at hp
            split at hp
            · cases hp
            · rename_i hs
              cases hp
              have hf := State.storeRows_fab hs
              exact hf
          · rfl

theorem State.discardFirn_fab (s : State) (ctxid : Nat) : (s.discardFirn ctxid).fab = s.fab := by
  unfold State.discardFirn
  refine foldl_keep (fun t : State => t.fab = s.fab) _ _ s rfl fun t x _ ht => ?_
  have hd := t.discardSlot_fab ctxid x
  dsimp only
  split
  · rename_i he
    rw [he] at hd
    exact hd.trans ht
  · rename_i he
    rw [he] at hd
    exact hd.trans ht

theorem State.completeNode_fab (s : State) (q idx : Nat) (e : Ending) : (s.completeNode q idx e).fab = s.fab := by
  unfold State.completeNode
  split
  · rfl
  · rename_i n _
    dsimp only
    split
    · exact (s.closeNode_closes n e).fab
    · exact ((s.closeNode_closes n e).trans (State.closeAll_closes _ _ _)).fab

theorem State.updMsg_chan (s : State) (c d : Fin 32) (n : Nat) (f : Msg → Msg) : ((s.updMsg c n f).chan d).state = (s.chan d).state := by
  have hset (x : ChEnd) (hx : x.state = (s.chan c).state) : ((s.setChan c x).chan d).state = (s.chan d).state := by
    rcases eq_or_ne c d with rfl | hne
    · simpa [State.setChan, State.chan] using hx
    · simp [State.setChan, State.chan, Fin.val_ne_of_ne hne]
  unfold State.updMsg
  extract_lets x l sseq r s1
  split
  · exact hset _ rfl
  · exact hset _ rfl

end

/-! ### What taking down an instance or a stage keeps of the links to other packages -/

/-- The incarnations announced, the replay table, and channel ends that are broken. -/
def State.Links (s : State) (incs : List (Nat × Nat)) (replay : List Replay) (dead : List (Fin 32)) : Prop :=
  s.fab.incs = incs ∧ s.fab.replay = replay ∧ ∀ c ∈ dead, (s.chan c).state = .broken

section
variable {s t : State} {I : List (Nat × Nat)} {R : List Replay} {D : List (Fin 32)}

theorem State.Links.of_fab (h : s.Links I R D) (e : t.fab = s.fab) : t.Links I R D := by
  unfold State.Links State.chan at *
  rwa [e]

/-- Other parts of the fabric may change. -/
theorem State.Links.of_parts (h : s.Links I R D) (hi : t.fab.incs = s.fab.incs) (hr : t.fab.replay = s.fab.replay)
    (hc : ∀ c, (t.chan c).state = (s.chan c).state) : t.Links I R D :=
  ⟨hi.trans h.1, hr.trans h.2.1, fun c hd => (hc c).trans (h.2.2 c hd)⟩

theorem foldl_links {β : Type} (f : State → β → State) (l : List β) (h : s.Links I R D)
    (hf : ∀ (t : State) b, t.Links I R D → (f t b).Links I R D) : (l.foldl f s).Links I R D :=
  foldl_keep (fun t => t.Links I R D) f l s h fun t b _ => hf t b

theorem State.sendOut_links {fb : Bool} {target : Nat} {m : OutMsg} (h : s.Links I R D) : (s.sendOut fb target m).Links I R D := by
  unfold State.sendOut
  split
  · exact h.of_fab rfl
  · exact h.of_parts rfl rfl fun _ => rfl

theorem State.setChan_links {c : Fin 32} {x : ChEnd} (hx : x.state = (s.chan c).state) (h : s.Links I R D) : (s.setChan c x).Links I R D := by
  refine h.of_parts rfl rfl fun d => ?_
  rcases eq_or_ne c d with rfl | hne
  · simpa [State.setChan, State.chan] using hx
  · simp [State.setChan, State.chan, Fin.val_ne_of_ne hne]

theorem State.sendRemote_links {k : Fin 128} {who : RemoteFor} {loc ea : W64} {cls target inc addr len : Nat}
    {data : Option (List Byte × List (Nat × Nat))} (h : s.Links I R D) :
    (s.sendRemote k who loc ea cls target inc addr len data).2.Links I R D :=
  State.sendOut_links (h.of_parts rfl rfl fun _ => rfl)

theorem State.writePieces_links {k : Fin 128} {loc ea : W64} {cls : Nat} {data : List Byte} {bad : List (Nat × Nat)} {ds : List (Dest × Nat)}
    {off : Nat} (h : s.Links I R D) : (s.writePieces k loc ea cls data bad ds off).Links I R D := by
  induction ds generalizing s off with
  | nil => exact h
  | cons p ds ih =>
    obtain ⟨d, n⟩ := p
    unfold State.writePieces
    refine ih ?_
    split
    · dsimp only
      split
      · split
        · exact h.of_fab rfl
        · exact h.of_fab rfl
      · exact h.of_fab rfl
    · exact State.sendRemote_links h

theorem State.portAt_fab {k : Fin 128} {ea : W64} {n : Nat} {need : Need} {p : PortAt} (h : s.portAt k ea n need = .ok p t) : t.fab = s.fab := by
  unfold State.portAt at h
  split at h
  · cases h
  · dsimp only at h
    split at h
    · split at h <;> cases h
      rfl
    · split at h <;> cases h
      rfl
  · split at h
    · cases h
    · rename_i hv
      cases h
      exact (virtual_onlyTlb hv).fab

theorem State.portWrite_links {k : Fin 128} {loc ea : W64} {cls : Nat} {data : List Byte} {bad : List (Nat × Nat)} {bs : List Byte}
    (hw : s.portWrite k loc ea cls data bad = .ok bs t) (h : s.Links I R D) : t.Links I R D := by
  unfold State.portWrite at hw
  split at hw
  · cases hw
  · cases hw
  · rename_i hp
    cases hw
    exact State.writePieces_links (h.of_fab (State.portAt_fab hp))
  · rename_i hp
    cases hw
    exact (h.of_fab (State.portAt_fab hp)).of_fab rfl
  · cases hw

theorem State.drainWrites_links {k : Fin 128} (h : s.Links I R D) : (s.drainWrites k).Links I R D := by
  unfold State.drainWrites
  refine foldl_links _ _ h fun t w ht => ?_
  dsimp only
  split
  · split
    · rename_i hw
      exact State.portWrite_links hw (ht.of_fab rfl)
    · exact ht.of_fab rfl
  · exact ht.of_fab rfl

theorem State.cancelSent_links {ctxid : Nat} (h : s.Links I R D) : (s.cancelSent ctxid).Links I R D :=
  foldl_links _ _ h fun _ _ ht => foldl_links _ _ (State.setChan_links rfl ht) fun _ _ hu => State.sendOut_links hu

theorem State.forgetCores_links {ks : List (Fin 128)} (h : s.Links I R D) : (s.forgetCores ks).Links I R D :=
  h.of_parts rfl rfl fun _ => rfl

theorem State.freeCores_links {ks : List (Fin 128)} (h : s.Links I R D) : (s.freeCores ks).Links I R D :=
  (State.forgetCores_links h).of_fab (State.updCores_fab ..)

theorem State.stopGang_links {i : Inst} (h : s.Links I R D) : (s.stopGang i).Links I R D := by
  unfold State.stopGang
  extract_lets ks s1 s2 s3
  have h1 : s1.Links I R D := foldl_links _ _ h fun _ _ ht => State.drainWrites_links ht
  have h2 : s2.Links I R D := (State.cancelSent_links h1).of_fab (State.discardFirn_fab ..)
  have h3 : s3.Links I R D := foldl_links _ _ h2 fun _ _ ht => ht.of_fab rfl
  exact (State.forgetCores_links h3).of_fab (State.updCores_fab ..)

theorem State.removeInst_links {i : Inst} (h : s.Links I R D) : (s.removeInst i).Links I R D := by
  unfold State.removeInst
  extract_lets s0 s1 s2 c
  have h0 : s0.Links I R D := by
    simp only [s0]
    split
    · exact h.of_parts rfl rfl fun _ => rfl
    · exact h
  have h1 : s1.Links I R D := by
    refine h0.of_fab ?_
    simp only [s1, State.releaseLease]
    split <;> split <;> rfl
  have h2 : s2.Links I R D := by
    simp only [s2]
    split
    · exact State.freeCores_links h1
    · exact h1
  exact h2.of_fab rfl

theorem State.report_links {key : Nat} (h : s.Links I R D) : (s.report key).Links I R D := by
  unfold State.report
  split
  · split
    · exact State.sendOut_links h
    · exact h
  · exact h

/-- An instance is stopped on its cores, or what it has sent is taken back. -/
theorem State.stopped_links {i : Inst} (h : s.Links I R D) :
    (if i.holdsCores then s.stopGang i else (s.cancelSent i.ctxid).discardFirn i.ctxid).Links I R D := by
  split
  · exact State.stopGang_links h
  · exact (State.cancelSent_links h).of_fab (State.discardFirn_fab ..)

theorem State.updMsg_links {c : Fin 32} {n : Nat} {f : Msg → Msg} (h : s.Links I R D) : (s.updMsg c n f).Links I R D := by
  refine h.of_parts ?_ ?_ fun d => State.updMsg_chan ..
  · unfold State.updMsg
    dsimp only
    split <;> rfl
  · unfold State.updMsg
    dsimp only
    split <;> rfl

theorem State.closeStage_links {st : Stage} {e : Ending} (h : s.Links I R D) : (s.closeStage st e).Links I R D := by
  unfold State.closeStage
  extract_lets mine s1 c s2 ack s3 s4 c5 s5
  have h1 : s1.Links I R D := foldl_links _ _ h fun _ _ ht => State.removeInst_links (State.stopped_links ht)
  have h2 : s2.Links I R D := h1.of_fab rfl
  have hack (t : State) (ch : Nat) (x : Entry) (ht : t.Links I R D) : (ack t ch x).Links I R D := by
    simp only [ack]
    split
    · split
      · exact State.updMsg_links ht
      · exact ht
    · exact ht
  have h3 : s3.Links I R D := foldl_links _ _ h2 fun t x => hack t _ x
  have h4 : s4.Links I R D := foldl_links _ _ h3 fun t x => hack t _ x
  exact (h4.of_fab (t := s5) rfl).of_fab (State.completeNode_fab ..)

theorem State.stepFaulted_links {key : Nat} {i : Inst} {e : Ending} (h : s.Links I R D) : (s.stepFaulted key i e).Links I R D := by
  unfold State.stepFaulted
  split
  · exact h
  · unfold State.countFault
    extract_lets t n limit away s1
    split
    · exact State.closeStage_links (State.report_links (h.of_fab rfl))
    · exact h.of_fab rfl

theorem State.finishFault_links {ctxid : Nat} (h : s.Links I R D) : (s.finishFault ctxid).Links I R D := by
  unfold State.finishFault
  split
  · exact h
  · split
    · exact h
    · have h1 := State.removeInst_links (i := ‹Inst›) h
      dsimp only
      split
      · exact h1.of_fab (State.completeNode_fab ..)
      · exact State.stepFaulted_links h1
      · exact h1

theorem State.recordDone_links {r : PendingRecord} {addr : Nat} (h : s.Links I R D) : (s.recordDone r addr).Links I R D := by
  unfold State.recordDone
  split
  · extract_lets s1
    have h1 : s1.Links I R D := h.of_fab rfl
    split
    · exact h1
    · exact State.finishFault_links h1
  · split
    · split
      · exact State.closeStage_links h
      · exact h
    · exact h
  · split
    · split
      · exact h.of_fab (State.completeNode_fab ..)
      · exact h
    · exact h

theorem State.drainRecords_links {fuel : Nat} (h : s.Links I R D) : (State.drainRecords fuel s).Links I R D := by
  induction fuel generalizing s with
  | zero => exact h
  | succ fuel ih =>
    unfold State.drainRecords
    split
    · exact h
    · dsimp only
      split
      · exact ih (State.recordDone_links (h.of_fab rfl))
      · split
        · exact h
        · exact ih (State.recordDone_links (h.of_fab rfl))

theorem State.postRecords_links {rs : List PendingRecord} (h : s.Links I R D) : (s.postRecords rs).Links I R D :=
  State.drainRecords_links (h.of_fab rfl)

theorem State.failStage_links {st : Stage} {tag : Nat} {tr : Trap} (h : s.Links I R D) : (s.failStage st tag tr).Links I R D := by
  unfold State.failStage
  split
  · exact h
  · exact State.postRecords_links (h.of_fab rfl)

theorem State.failNode_links {q idx pasid : Nat} {tr : Trap} (h : s.Links I R D) : (s.failNode q idx pasid tr).Links I R D :=
  State.postRecords_links (h.of_fab rfl)

theorem State.failColl_links {c : Coll} {tr : Trap} (h : s.Links I R D) : (s.failColl c tr).Links I R D := by
  unfold State.failColl
  have h1 : (s.setFab { s.fab with colls := s.fab.colls.filter fun x => x.id != c.id }).Links I R D := h.of_parts rfl rfl fun _ => rfl
  dsimp only
  split
  · exact h1.of_fab (State.raise_fab ..)
  · exact State.failNode_links h1
  · exact h1

/-- A copy word that waits for a confirmation on channel `ch`. -/
def Flight.awaits (ch : Nat) (f : Flight) : Bool := match f.wait with
  | .message c _ => c == ch
  | _ => false

/-- The word of core `k` that waits at a channel faults. -/
def State.faultWaiter (c : Fin 32) (s : State) (k : Fin 128) : State :=
  match (s.eng k .c).flight.find? (Flight.awaits c.val) with
  | some f => s.raise k 5 f.upc (chanTrap c.val)
  | none => s

def State.faultWaiters (s : State) (c : Fin 32) : State := (List.range 128).foldl (fun t n => t.faultWaiter c (coreIx n)) s

theorem State.faultWaiters_fab (s : State) (c : Fin 32) : (s.faultWaiters c).fab = s.fab := by
  refine foldl_keep (fun t : State => t.fab = s.fab) _ _ s rfl fun t n _ ht => ?_
  unfold State.faultWaiter
  split
  · exact (State.raise_fab ..).trans ht
  · exact ht

/-- A channel end breaks. -/
def State.broken (s : State) (c : Fin 32) : State := s.setChan c { s.chan c with state := .broken }

theorem State.broken_chan (s : State) (c : Fin 32) : (s.broken c).chan c = { s.chan c with state := .broken } := by
  simp [State.broken, State.setChan, State.chan]

theorem State.broken_fab {s t : State} (h : t.fab = s.fab) (c : Fin 32) : (t.broken c).fab = (s.broken c).fab := by
  unfold State.broken State.setChan State.chan
  rw [h]
  rfl

/-- The stage an end is bound to fails. -/
def State.failBound (s : State) (c : Fin 32) : State :=
  match s.boundStage c with
  | some (st, _) => s.failStage st 0 (chanTrap c.val)
  | none => s

theorem State.breakEnd_eq (s : State) (c : Fin 32) :
    s.breakEnd c = ((s.broken c).faultWaiters c).failBound c := by
  unfold State.breakEnd
  extract_lets x s1 waits s2
  have hw : waits = Flight.awaits c.val := rfl
  have h2 : s2 = s1.faultWaiters c := by
    simp only [s2, hw]
    rfl
  have h1 : s1 = s.broken c := rfl
  rw [h2, h1]
  unfold State.failBound
  generalize ((s.broken c).faultWaiters c).boundStage c = o
  cases o with
  | none => rfl
  | some p => rfl

/-- The end that breaks is broken, and those that were stay so. -/
theorem State.breakEnd_links {c : Fin 32} (h : s.Links I R D) : (s.breakEnd c).Links I R (c :: D) := by
  have h1 : (s.broken c).Links I R (c :: D) := by
    refine ⟨h.1, h.2.1, fun d hd => ?_⟩
    rcases eq_or_ne c d with rfl | hne
    · rw [State.broken_chan]
    · have := h.2.2 d ((List.mem_cons.mp hd).resolve_left (Ne.symm hne))
      simpa [State.broken, State.setChan, State.chan, Fin.val_ne_of_ne hne] using this
  have h2 := h1.of_fab (State.faultWaiters_fab _ c)
  rw [State.breakEnd_eq]
  unfold State.failBound
  split
  · exact State.failStage_links h2
  · exact h2

theorem foldl_breakEnd_links (l : List (Fin 32)) (h : s.Links I R D) : (l.foldl (fun (t : State) c => t.breakEnd c) s).Links I R (l.reverse ++ D) := by
  induction l generalizing s D with
  | nil => exact h
  | cons c l ih => simpa using ih (State.breakEnd_links (c := c) h)

end

end Sys2Proof.Machine

namespace Sys2Proof.Machine
open Sys2Proof.Safety

/-! ### Batches (R361, R362) -/

section
variable {s : State}

theorem State.fromPeer_stale {src inc : Nat} {f : State → State} (h : inc ≠ s.cmd.incarn) :
    s.fromPeer src inc f = s.send (.resetNak src s.cmd.incarn) := if_pos h

theorem State.fromPeer_here {src : Nat} {f : State → State} : s.fromPeer src s.cmd.incarn f = f s := if_neg (not_not_intro rfl)

theorem goes_batchReceive_stale {src inc id : Nat} {op : AtomicOp} {rows : List BatchRow} (h : inc ≠ s.cmd.incarn) :
    Goes (.batchReceive src inc id op rows) s (s.send (.resetNak src s.cmd.incarn)) :=
  congrArg Host.Outcome.next (State.fromPeer_stale h)

/-- The low bits of an id decide nothing where the whole id is compared. -/
theorem replayAt_eq (src id : Nat) :
    (fun r : Replay => r.src == src && r.id % 256 == id % 256 && r.id == id) = fun r => r.src == src && r.id == id := by
  funext r
  by_cases h : r.id = id
  · rw [h, beq_self_eq_true, beq_self_eq_true, Bool.and_true]
  · rw [beq_false_of_ne h, Bool.and_false, Bool.and_false]

theorem goes_batchReceive_again {src id : Nat} {op : AtomicOp} {rows : List BatchRow} {r : Replay}
    (h : s.fab.replay.find? (fun r => r.src == src && r.id == id) = some r) :
    Goes (.batchReceive src s.cmd.incarn id op rows) s (s.send (.batchReply src id r.reply)) := by
  show execBatchReceive src s.cmd.incarn id op rows s = _
  unfold execBatchReceive
  rw [State.fromPeer_here]
  dsimp only
  rw [replayAt_eq, h]

theorem applyRows_single {op : AtomicOp} {m : MemSide} {a : Nat} {e : W32} (h : m.poisonedAt a 4 = none) :
    applyRows op m [⟨a, [e]⟩] = ([[BitVec.ofNat 32 (m.num a 4)]], m.setNum a 4 (atomicOp op 32 (m.num a 4) e.toNat 0), none) := by
  simp [applyRows, applyElems, h]

/-- A batch of one element that has not been applied here: refused in a NONE region, else applied and kept for the replay table. -/
theorem goes_batchReceive_element {src id addr : Nat} {op : AtomicOp} {e : W32}
    (hnew : ∀ r ∈ s.fab.replay, ¬ (r.src = src ∧ r.id = id)) :
    (s.mem.gradeAt addr = 3 → Goes (.batchReceive src s.cmd.incarn id op [⟨addr, [e]⟩]) s (s.send (.remoteRefused src addr))) ∧
    (s.mem.gradeAt addr ≠ 3 → s.mem.poisonedAt addr 4 = none →
      Goes (.batchReceive src s.cmd.incarn id op [⟨addr, [e]⟩]) s
        (((wrote s addr (leBytesOf 4 (atomicOp op 32 (s.mem.num addr 4) e.toNat 0))).setFab { s.fab with
          replay := s.fab.replay.filter (fun r => !(r.src == src && r.id % 256 == id % 256)) ++
            [⟨src, id, [[BitVec.ofNat 32 (s.mem.num addr 4)]]⟩] }).send (.batchReply src id [[BitVec.ofNat 32 (s.mem.num addr 4)]]))) := by
  have hf : s.fab.replay.find? (fun r => r.src == src && r.id == id) = none := by
    rw [List.find?_eq_none]
    intro r hr
    simpa using hnew r hr
  constructor
  · intro hg
    show execBatchReceive src s.cmd.incarn id op [⟨addr, [e]⟩] s = _
    unfold execBatchReceive
    rw [State.fromPeer_here]
    dsimp only
    rw [replayAt_eq, hf]
    simp [hg, gradeNone]
  · intro hg hp
    show execBatchReceive src s.cmd.incarn id op [⟨addr, [e]⟩] s = _
    unfold execBatchReceive
    rw [State.fromPeer_here]
    dsimp only
    rw [replayAt_eq, hf]
    have hr : [(⟨addr, [e]⟩ : BatchRow)].find? (fun r => s.mem.gradeAt r.addr == gradeNone) = none := by simp [hg, gradeNone]
    rw [hr, applyRows_single hp]
    rfl

theorem State.waitsOut_of_parked {m : OutMsg} (h : s.fab.parked = []) : s.waitsOut m = false := by simp [State.waitsOut, h]

/-- Where each row of a word goes to one place, its image is the rows' old values. -/
theorem imageRows_replicate (cols : Nat) (l : List (List W32)) : imageRows cols (List.replicate l.length 1) l = l := by
  induction l with
  | nil => rfl
  | cons x l ih =>
    rw [List.length_cons, List.replicate_succ, imageRows]
    · simp [ih]
    · simp

theorem imageWrites_some (a : W64) (rows : List (List W32)) : imageWrites (some a) rows = (List.range rows.length).map fun j =>
    .write (a + w64 (128 * j)) ((nth [] rows j).flatMap fun v => leBytesOf 4 v.toNat) [] := by
  refine List.ext_getElem (by simp [imageWrites]) fun j h1 h2 => ?_
  have hj : j < rows.length := by simpa using h2
  simp [imageWrites, nth, hj]

/-- The word of a batch whose reply has come, with what is left of it. -/
def Flight.replied (target id : Nat) (reqs : List Req) (f : Flight) : Flight :=
  if f.wait = .batch target id then { f with wait := .none, reqs := f.reqs ++ reqs } else f

theorem execBatchReply_eq {src id : Nat} {old : List (List W32)} {b : Batch} (hp : s.fab.parked = [])
    (hb : s.fab.batches.find? (fun x => x.target == src && x.id == id) = some b) :
    execBatchReply src id old s = .next (if old.length < b.rows.length then
        (s.dropBatch b).raise (coreIx b.core) 5 b.upc (poisonTrap b.ea remoteSector)
      else (s.dropBatch b).setEng (coreIx b.core) .c { (s.dropBatch b).eng (coreIx b.core) .c with
        flight := ((s.dropBatch b).eng (coreIx b.core) .c).flight.map
          (Flight.replied src id ((imageWrites b.ret (imageRows b.cols b.parts old)).map fun x => s.newReq b.cls x)) }) := by
  unfold execBatchReply
  have hq : (fun b : Batch => b.target == src && b.id == id && !s.waitsOut (.batch src b.inc id b.op b.rows)) =
      fun b => b.target == src && b.id == id := by
    funext b
    rw [State.waitsOut_of_parked hp]
    simp
  rw [hq, hb]
  dsimp only
  split
  · rfl
  · rfl

/-- Whether a message has a port to leave by (R390). -/
def State.mayLeave (s : State) (fb : Bool) (target : Nat) : Prop :=
  target = s.pkg ∨ s.outPort target ∉ s.fab.portsDown ∨ fb = true ∧ oppositePort (s.outPort target) ∉ s.fab.portsDown

theorem State.portOpen_iff (fb : Bool) (target : Nat) : s.portOpen fb target = true ↔ s.mayLeave fb target := by
  simp [State.portOpen, State.mayLeave, or_assoc]

/-- The sending of a batch again: its time is that of now. -/
theorem execBatchResend_eq {src id : Nat} {b : Batch} (hp : s.fab.parked = [])
    (hb : s.fab.batches.find? (fun x => x.target == src && x.id == id) = some b) :
    execBatchResend src id s = .next (if s.time < b.last + 5000 then s else
      (s.setFab { s.fab with batches := s.fab.batches.map fun x => if x.serial = b.serial then { x with last := s.time } else x }).sendOut
        (s.coreFalls (coreIx b.core)) src (.batch src b.inc id b.op b.rows)) := by
  unfold execBatchResend
  rw [hb]
  dsimp only
  rw [State.waitsOut_of_parked hp, Bool.or_false]
  by_cases h : s.time < b.last + 5000
  · rw [if_pos h]
    exact if_pos (decide_eq_true h)
  · rw [if_neg h]
    exact if_neg fun e => h (of_decide_eq_true e)

/-! ### Requests of peers (R147, R298) -/

theorem MemSide.meetsNone_iff {m : MemSide} {a n : Nat} (hn : 0 < n) (h : ∀ b, a ≤ b → b < a + n → m.gradeAt b ≠ 3) : m.meetsNone a n = false := by
  unfold MemSide.meetsNone
  rw [List.any_eq_false]
  intro i _
  have := h (min (a + 65536 * i) (a + n - 1)) (by omega) (by omega)
  simpa [gradeNone] using this

theorem MemSide.meetsNone_first {m : MemSide} {a n : Nat} (hn : 0 < n) (h : m.gradeAt a = 3) : m.meetsNone a n = true := by
  unfold MemSide.meetsNone
  rw [List.any_eq_true]
  refine ⟨0, List.mem_range.mpr (by omega), ?_⟩
  have e : min (a + 65536 * 0) (a + n - 1) = a := by omega
  simp only [e, h, gradeNone, beq_self_eq_true]

theorem State.servePeer_stale {src inc addr len : Nat} {f : State → State} (h : inc ≠ s.cmd.incarn) :
    s.servePeer src inc addr len f = s.send (.resetNak src s.cmd.incarn) := if_pos h

theorem State.servePeer_refused {src addr len : Nat} {f : State → State} (hn : 0 < len) (h : s.mem.gradeAt addr = 3) :
    s.servePeer src s.cmd.incarn addr len f = s.send (.remoteRefused src addr) := by
  unfold State.servePeer
  rw [if_neg (not_not_intro rfl), if_pos (MemSide.meetsNone_first hn h)]

theorem State.servePeer_here {src addr len : Nat} {f : State → State} (hn : 0 < len)
    (h : ∀ a, addr ≤ a → a < addr + len → s.mem.gradeAt a ≠ 3) : s.servePeer src s.cmd.incarn addr len f = f s := by
  unfold State.servePeer
  rw [if_neg (not_not_intro rfl), if_neg (by simp [MemSide.meetsNone_iff hn h])]

/-- Poison changes no byte. -/
theorem foldl_addPoison_cells (m : MemSide) (l : List Nat) : (l.foldl (fun x p => x.addPoison p) m).cells = m.cells :=
  foldl_keep (fun x : MemSide => x.cells = m.cells) _ l m rfl fun _ _ _ h => h

theorem mem_kadd {a b : Nat} {l : List Nat} : b ∈ kadd a l ↔ b ∈ l ∨ b = a := by
  simpa [kmem] using Bool.eq_iff_iff.mp (kmem_kadd a b l)

theorem mem_foldl_addPoison {m : MemSide} {l : List Nat} {p : Nat} (h : p ∈ l ∨ p ∈ m.poison) :
    p ∈ (l.foldl (fun x p => x.addPoison p) m).poison := by
  induction l generalizing m with
  | nil => simpa using h
  | cons q l ih =>
    rw [List.foldl_cons]
    refine ih ?_
    rcases h with h | h
    · rcases List.mem_cons.mp h with rfl | h
      · exact .inr (mem_kadd.mpr (.inr rfl))
      · exact .inl h
    · exact .inr (mem_kadd.mpr (.inl h))

/-- The sector of a byte of a run is among those that the runs within the data touch. -/
theorem mem_sectorsOf_runsIn {bad : List (Nat × Nat)} {r : Nat × Nat} {addr len j : Nat} (hr : r ∈ bad) (h1 : r.1 ≤ j) (h2 : j < r.1 + r.2)
    (h3 : j < len) : (addr + j) / 64 ∈ sectorsOf addr (runsIn bad 0 len) := by
  have hrun : (r.1, min len (r.1 + r.2) - r.1) ∈ runsIn bad 0 len := by
    unfold runsIn
    refine List.mem_map.mpr ⟨r, List.mem_filter.mpr ⟨hr, ?_⟩, ?_⟩
    · simp only [Bool.and_eq_true, decide_eq_true_eq]
      omega
    · simp
  unfold sectorsOf
  refine List.mem_flatMap.mpr ⟨_, hrun, List.mem_map.mpr ⟨(addr + j) / 64 - (addr + r.1) / 64, List.mem_range.mpr ?_, ?_⟩⟩
  · dsimp only
    omega
  · dsimp only
    omega

theorem goes_inWrite {src addr : Nat} {data : List Byte} (bad : List (Nat × Nat)) (hd : 0 < data.length)
    (h : ∀ a, addr ≤ a → a < addr + data.length → s.mem.gradeAt a ≠ 3) : Goes (.remoteRequest (.inWrite src s.cmd.incarn addr data bad)) s
      (s.setMem ((sectorsOf addr (runsIn bad 0 data.length)).foldl (fun x p => x.addPoison p) (s.mem.write addr data))) :=
  congrArg Host.Outcome.next (State.servePeer_here hd h)

/-! ### Answers to requests of this package, and their loss (R353, R389) -/

/-- A stronger predicate that the first element found satisfies finds the same one. -/
theorem find?_of_stronger {α : Type} {p q : α → Bool} {l : List α} {x : α} (h : l.find? p = some x) (hq : q x = true)
    (hpq : ∀ y, q y = true → p y = true) : l.find? q = some x := by
  induction l with
  | nil => cases h
  | cons y l ih =>
    rw [List.find?_cons] at h ⊢
    by_cases hp : p y = true
    · rw [hp] at h
      obtain rfl := Option.some.inj h
      rw [hq]
    · have hqy : q y = false := by simpa using fun hy => hp (hpq y hy)
      rw [Bool.not_eq_true] at hp
      rw [hp] at h
      rw [hqy]
      exact ih h

theorem State.answered_eq {id : Nat} {r : RemoteReq} (hp : s.fab.parked = []) (hr : s.fab.remote.find? (fun y => y.id == id) = some r) :
    s.answered id r.write = some r := by
  unfold State.answered
  rw [hp]
  have hid : r.id = id := by simpa using List.find?_some hr
  exact find?_of_stronger hr (by simp [hid]) fun y hy => by
    rw [Bool.and_eq_true] at hy
    exact hy.1

theorem goes_readDone {id : Nat} {r : RemoteReq} {data : List Byte} {c : CtxId} (poisoned : Bool) (hp : s.fab.parked = [])
    (hr : s.fab.remote.find? (fun y => y.id == id) = some r) (hc : r.who = .context c) (hw : r.write = false) (hl : data.length = r.len) :
    Goes (.remoteRequest (.readDone id data poisoned)) s ((s.dropRemote id).takeAnswer r (if poisoned then .poisoned else .bytes data)) := by
  have ha := State.answered_eq hp hr
  rw [hw] at ha
  show execRemoteRequest (.readDone id data poisoned) s = _
  unfold execRemoteRequest
  rw [ha]
  dsimp only
  rw [if_pos hl]
  unfold State.takeRead
  dsimp only
  rw [hc]

theorem goes_writeDone {id : Nat} {r : RemoteReq} {c : CtxId} (hp : s.fab.parked = [])
    (hr : s.fab.remote.find? (fun y => y.id == id) = some r) (hc : r.who = .context c) (hw : r.write = true) :
    Goes (.remoteRequest (.writeDone id)) s (s.dropRemote id) := by
  have ha := State.answered_eq hp hr
  rw [hw] at ha
  show execRemoteRequest (.writeDone id) s = _
  unfold execRemoteRequest
  rw [ha]
  dsimp only
  unfold State.takeWritten
  rw [hc]

/-- Whether the loss of a request may still fault its core (R385, R399). -/
def State.mayFault (s : State) (r : RemoteReq) : Prop := r.write = true → ∃ j ∈ s.gangOf (coreIx r.core), (s.core j).seq ≠ .complete

/-- A request of a context that is lost faults its core; a store does so while a core of the gang has not completed. -/
theorem State.failRequest_context {r : RemoteReq} {c : CtxId} (t : Trap) (hc : r.who = .context c) :
    (s.mayFault r → s.failRequest r t = s.raise (coreIx r.core) r.agent r.loc t) ∧
    (¬ s.mayFault r → s.failRequest r t = s) := by
  have ha : r.agent = ctxAgent c := by simp [RemoteReq.agent, hc]
  have hg : s.gangComplete (coreIx r.core) = true ↔ ¬ ∃ j ∈ s.gangOf (coreIx r.core), (s.core j).seq ≠ .complete := by
    simp [State.gangComplete]
  constructor
  · intro h
    unfold State.failRequest
    dsimp only
    rw [hc]
    cases hw : r.write with
    | false => simp [State.takeAnswer, hc, ha]
    | true =>
      have : s.gangComplete (coreIx r.core) ≠ true := fun e => hg.mp e (h hw)
      simp [this]
  · intro h
    obtain ⟨hw, hn⟩ := Classical.not_imp.mp h
    unfold State.failRequest
    dsimp only
    rw [hc]
    simp [hw, hg.mpr hn]

/-- Nothing waits for a port. -/
theorem State.setFab_parked {p : Nat × Bool × OutMsg → Bool} (h : s.fab.parked = []) :
    s.setFab { s.fab with parked := s.fab.parked.filter p } = s := by
  have : s.fab.parked.filter p = s.fab.parked := by rw [h, List.filter_nil]
  rw [this]
  rfl

theorem State.loseRequest_remote {id old : Nat} {r : RemoteReq} (hp : s.fab.parked = [])
    (hr : s.fab.remote.find? (fun y => y.id == id) = some r) (ho : r.sent ≤ old) :
    s.loseRequest r.target id old = (s.dropRemote id).failRequest r (lostTrap r.ea r.target (s.incOf r.target)) := by
  have hid : r.id = id := by simpa using List.find?_some hr
  have hq : s.fab.remote.find? (fun y => y.id == id && y.target == r.target && decide (y.sent ≤ old)) = some r :=
    find?_of_stronger hr (by simp [hid, ho]) fun y hy => by
      simp only [Bool.and_eq_true] at hy
      exact hy.1.1
  unfold State.loseRequest
  dsimp only
  rw [State.setFab_parked hp, hq]

/-- A number that nothing carries, or only what was sent later, loses nothing. -/
theorem State.loseRequest_none {pkg id old : Nat} (hp : s.fab.parked = []) (hr : ∀ y ∈ s.fab.remote, y.id = id → old < y.sent)
    (hb : ∀ b ∈ s.fab.batches, b.serial ≠ id) (hm : ∀ i : Fin 32, ∀ m ∈ (s.chan i).sent, m.serial ≠ id) (hc : ∀ c ∈ s.fab.colls, c.id ≠ id) :
    s.loseRequest pkg id old = s := by
  have h1 : s.fab.remote.find? (fun y => y.id == id && y.target == pkg && decide (y.sent ≤ old)) = none := by
    rw [List.find?_eq_none]
    intro y hy
    by_cases e : y.id = id
    · have := hr y hy e
      simp [this]
    · simp [e]
  have h2 : s.fab.batches.find? (fun b => b.serial == id && b.target == pkg && decide (b.first ≤ old)) = none := by
    rw [List.find?_eq_none]
    intro b h
    simp [hb b h]
  have h3 : s.messageOf pkg id old = none := by
    unfold State.messageOf
    rw [List.findSome?_eq_none_iff]
    intro c _
    split
    · rw [Option.map_eq_none_iff, List.find?_eq_none]
      intro m h
      simp [hm c m h]
    · rfl
  have h4 : s.fab.colls.find? (fun c => c.id == id && s.collMember c pkg) = none := by
    rw [List.find?_eq_none]
    intro c h
    simp [hc c h]
  unfold State.loseRequest
  dsimp only
  rw [State.setFab_parked hp, h1, h2, h3, h4]

theorem State.recordInc_newer {pkg inc : Nat} (h : s.incOf pkg < inc) :
    s.recordInc pkg inc = s.setFab { s.fab with incs := sset 0 s.fab.incs pkg inc } := if_pos h

theorem lostAfter_eq : lostAfter = 20000 := rfl

end

end Sys2Proof.Machine

namespace Sys2Proof.Machine
open Sys2Proof.Safety

/-! ### The loss of a message (R364, R389) -/

section
variable {s t : State}

/-- The core holds this fault, taken by the copy engine in this cycle; the stages and the fabric are those given. -/
def State.HoldsNow (s : State) (k : Fin 128) (g : FaultInfo) (st : Stages) (fab : Fabric) : Prop :=
  (s.core k).fault = some g ∧ g.cyc = s.cyc.toNat ∧ g.agent = 5 ∧ s.stages = st ∧ s.fab = fab

/-- A fault of the same cycle and agent does not take the place of one held. -/
theorem State.raise_holdsNow {k : Fin 128} {g : FaultInfo} {st : Stages} {fab : Fabric} (h : s.HoldsNow k g st fab) (j : Fin 128) (loc : W64) (tr : Trap) :
    (s.raise j 5 loc tr).HoldsNow k g st fab := by
  obtain ⟨hf, hc, ha, hs, hb⟩ := h
  by_cases e : j = k
  · have hw : faultWins (s.core j).fault s.cyc.toNat 5 = false := by simp [faultWins, e, hf, ha]
    have : s.raise j 5 loc tr = s := by
      unfold State.raise
      rw [hw]
      rfl
    rw [this]
    exact ⟨hf, hc, ha, hs, hb⟩
  · refine ⟨?_, ?_, ha, (State.raise_stages ..).trans hs, (State.raise_fab ..).trans hb⟩
    · rcases s.raise_cases j 5 loc tr with h | h
      · rw [h, hf]
      · rw [h, State.setCore_core_ne _ _ (Ne.symm e), hf]
    · rw [hc]
      rcases s.raise_cases j 5 loc tr with h | h <;> rw [h]
      rfl

theorem State.faultWaiters_holdsNow {k : Fin 128} {g : FaultInfo} {st : Stages} {fab : Fabric} (h : s.HoldsNow k g st fab) (c : Fin 32) :
    (s.faultWaiters c).HoldsNow k g st fab := by
  refine foldl_keep (fun t : State => t.HoldsNow k g st fab) _ _ s h fun t n _ ht => ?_
  unfold State.faultWaiter
  split
  · exact State.raise_holdsNow ht _ _ _
  · exact ht

theorem State.failBound_none {c : Fin 32} (h : s.boundStage c = none) : s.failBound c = s := by
  unfold State.failBound
  rw [h]

/-- The end a message was sent on, where only that end has sent any. -/
theorem State.messageOf_only {c : Fin 32} {m : Sent} {old : Nat} (hother : ∀ i, i ≠ c → (s.chan i).sent = []) (hm : (s.chan c).sent = [m])
    (hconf : m.confirmed = false) (hold : m.time ≤ old) : s.messageOf (s.chan c).peer m.serial old = some (c, m) := by
  unfold State.messageOf
  have hc : c ∈ (List.range 32).map chIx := List.mem_map.mpr ⟨c.val, List.mem_range.mpr c.isLt, by simp [chIx]⟩
  refine findSome?_of_unique hc ?_ fun i _ hi => ?_
  · rw [if_pos rfl, hm]
    simp [hconf, hold]
  · rw [hother i hi]
    split <;> rfl

/-- The core whose word waits for the confirmation of a lost message holds its fault, and the end is broken. -/
theorem State.loseMessage_holds {c : Fin 32} {m : Sent} {f : Flight} (tr : Trap) (hb : s.boundStage c = none)
    (hf : f ∈ (s.eng (coreIx m.core) .c).flight) (hw : f.wait = .message c.val m.n) (hnone : (s.core (coreIx m.core)).fault = none) :
    ∃ g, (s.loseMessage c m tr).chan c = { s.chan c with state := .broken } ∧ ((s.loseMessage c m tr).core (coreIx m.core)).fault = some g ∧
      g.trap = tr ∧ g.agent = 5 := by
  unfold State.loseMessage
  extract_lets waits s1
  obtain ⟨y, hy⟩ : ∃ y, (s.eng (coreIx m.core) .c).flight.find? waits = some y :=
    Option.isSome_iff_exists.mp (List.find?_isSome.mpr ⟨f, hf, by simp [waits, hw]⟩)
  have h1 : s1 = s.raise (coreIx m.core) 5 y.upc tr := by
    simp only [s1]
    rw [hy]
  have hr := s.raise_takes (coreIx m.core) 5 y.upc tr hnone
  have hnow : s1.HoldsNow (coreIx m.core) (s.faultInfo (coreIx m.core) 5 y.upc tr s.mem.mphase) s.stages s.fab := by
    rw [h1, hr]
    exact ⟨by rw [State.setCore_core_self], rfl, rfl, rfl, rfl⟩
  have hnow2 : (s1.broken c).HoldsNow (coreIx m.core) (s.faultInfo (coreIx m.core) 5 y.upc tr s.mem.mphase) s.stages (s.broken c).fab := by
    obtain ⟨hcore, hcyc, hag, hst, hfab⟩ := hnow
    exact ⟨hcore, hcyc, hag, hst, State.broken_fab hfab c⟩
  obtain ⟨hcore, -, hag, hst, hfab⟩ := State.faultWaiters_holdsNow hnow2 c
  have hnb : ((s1.broken c).faultWaiters c).boundStage c = none := by
    unfold State.boundStage
    rw [hst]
    exact hb
  rw [State.breakEnd_eq, State.failBound_none hnb]
  exact ⟨_, (congrArg (fun x : Fabric => x.channels[c]) hfab).trans (s.broken_chan c), hcore, rfl, rfl⟩

theorem State.loseRequest_message {pkg id old : Nat} {c : Fin 32} {m : Sent} (hp : s.fab.parked = []) (hr : ∀ y ∈ s.fab.remote, y.id ≠ id)
    (hb : ∀ b ∈ s.fab.batches, b.serial ≠ id) (hm : s.messageOf pkg id old = some (c, m)) :
    s.loseRequest pkg id old = s.loseMessage c m (lostTrap 0 pkg (s.incOf pkg)) := by
  have h1 : s.fab.remote.find? (fun y => y.id == id && y.target == pkg && decide (y.sent ≤ old)) = none := by
    rw [List.find?_eq_none]
    intro y hy
    simp [hr y hy]
  have h2 : s.fab.batches.find? (fun b => b.serial == id && b.target == pkg && decide (b.first ≤ old)) = none := by
    rw [List.find?_eq_none]
    intro b h
    simp [hb b h]
  unfold State.loseRequest
  dsimp only
  rw [State.setFab_parked hp, h1, h2, hm]

theorem goes_messageTimeout {c : Fin 32} {m : Sent} (hp : s.fab.parked = []) (hr : ∀ y ∈ s.fab.remote, y.id ≠ m.serial)
    (hb : ∀ b ∈ s.fab.batches, b.serial ≠ m.serial) (hother : ∀ i, i ≠ c → (s.chan i).sent = []) (hm : (s.chan c).sent = [m])
    (hconf : m.confirmed = false) (htime : m.time + 20000 ≤ s.time) :
    Goes (.remoteTimeout (s.chan c).peer m.serial) s (s.loseMessage c m (lostTrap 0 (s.chan c).peer (s.incOf (s.chan c).peer))) := by
  show execRemoteTimeout (s.chan c).peer m.serial s = _
  unfold execRemoteTimeout
  rw [lostAfter_eq, if_pos (by omega), State.loseRequest_message hp hr hb (State.messageOf_only hother hm hconf (by omega))]

/-! ### A new incarnation of a package (R389) -/

theorem goes_incarnationAnnounce {pkg inc : Nat} (hpkg : pkg ≠ s.pkg) (hinc : s.incOf pkg < inc) : ∃ t, Goes (.incarnationAnnounce pkg inc) s t ∧
    t.Links (sset 0 s.fab.incs pkg inc) (s.fab.replay.filter fun r => r.src != pkg) (s.endsTo pkg).reverse := by
  show ∃ t, execIncarnationAnnounce pkg inc s = .next t ∧ _
  unfold execIncarnationAnnounce
  rw [if_neg (by omega)]
  extract_lets s1 f s2 s3 s4
  refine ⟨_, rfl, ?_⟩
  have hs1 : s1 = s.setFab { s.fab with incs := sset 0 s.fab.incs pkg inc } := State.recordInc_newer hinc
  have h2 : s2.Links (sset 0 s.fab.incs pkg inc) (s.fab.replay.filter fun r => r.src != pkg) [] := by
    refine ⟨?_, ?_, fun c hc => absurd hc List.not_mem_nil⟩
    · simp only [s2, f, hs1]
      rfl
    · simp only [s2, f, hs1]
      rfl
  have hends : s2.endsTo pkg = s.endsTo pkg := by
    simp only [s2, f, hs1]
    rfl
  have h3 : s3.Links (sset 0 s.fab.incs pkg inc) (s.fab.replay.filter fun r => r.src != pkg) (s.endsTo pkg).reverse := by
    have := foldl_breakEnd_links (s2.endsTo pkg) h2
    rw [List.append_nil, hends] at this
    simp only [s3]
    rwa [hends]
  have h4 : s4.Links (sset 0 s.fab.incs pkg inc) (s.fab.replay.filter fun r => r.src != pkg) (s.endsTo pkg).reverse :=
    foldl_links _ _ h3 fun _ _ ht => State.failColl_links ht
  exact foldl_links _ _ h4 fun _ _ ht => State.failStage_links ht

theorem State.mem_endsTo {pkg : Nat} {c : Fin 32} (ho : (s.chan c).state = .opened) (hp : (s.chan c).peer = pkg) : c ∈ s.endsTo pkg := by
  unfold State.endsTo
  refine List.mem_filter.mpr ⟨List.mem_map.mpr ⟨c.val, List.mem_range.mpr c.isLt, by simp [chIx]⟩, ?_⟩
  simp [ho, hp]

/-! ### Torus ports (R390) -/

theorem goes_torusPortDown {port : Nat} (h : port < 6) : Goes (.torusPortDown port) s (s.setFab { s.fab with portsDown := kadd port s.fab.portsDown }) :=
  congrArg Host.Outcome.next (if_pos h)

/-- This package with a port up again. -/
def State.portUp (s : State) (port : Nat) : State := s.setFab { s.fab with portsDown := kdel port s.fab.portsDown }

theorem goes_torusPortUp_empty {port : Nat} (h : s.fab.parked = []) : Goes (.torusPortUp port) s (s.portUp port) := by
  have hp : (s.portUp port).fab.parked = [] := h
  show execTorusPortUp port s = _
  unfold execTorusPortUp
  change Host.Outcome.next (List.foldl _ ((s.portUp port).setFab { (s.portUp port).fab with parked := (s.portUp port).fab.parked.filter _ })
    ((s.portUp port).fab.parked.filter _)) = _
  rw [State.setFab_parked hp, hp]
  rfl

/-- The one message that waits leaves once its port is open. -/
theorem goes_torusPortUp_one {port dst : Nat} {fb : Bool} {m : OutMsg} (h : s.fab.parked = [(dst, fb, m)]) (hw : s.wanted m = true) :
    ((s.portUp port).portOpen fb dst = true →
      Goes (.torusPortUp port) s (((s.portUp port).setFab { (s.portUp port).fab with parked := [] }).send m)) ∧
    ((s.portUp port).portOpen fb dst = false → Goes (.torusPortUp port) s (s.portUp port)) := by
  have hp : (s.portUp port).fab.parked = [(dst, fb, m)] := h
  have hw' : (s.portUp port).wanted m = true := by
    rw [← hw]
    unfold State.wanted
    split <;> rfl
  have he : exec (.torusPortUp port) s = .next (((s.portUp port).fab.parked.filter
      fun x => (s.portUp port).portOpen x.2.1 x.1 && (s.portUp port).wanted x.2.2).foldl (fun (t : State) x => t.send x.2.2)
      ((s.portUp port).setFab { (s.portUp port).fab with parked := (s.portUp port).fab.parked.filter fun x => !(s.portUp port).portOpen x.2.1 x.1 })) := rfl
  constructor
  · intro ho
    rw [Goes, he, hp]
    simp [ho, hw']
  · intro ho
    have hk : (s.portUp port).setFab { (s.portUp port).fab with parked := [(dst, fb, m)] } = s.portUp port := by
      rw [← hp]
      rfl
    rw [Goes, he, hp]
    simp [ho, hk]

end

end Sys2Proof.Machine

namespace Sys2Proof.Machine
open Sys2Proof.Safety

/-! ### The clauses of the obligation -/

section
variable {s : State}

theorem goes_batchReply_short {src id : Nat} {old : List (List W32)} {b : Batch} (hp : s.fab.parked = [])
    (hb : s.fab.batches.find? (fun x => x.target == src && x.id == id) = some b) (hl : old.length < b.rows.length) :
    ∃ i, Goes (.batchReply src id old) s ((s.dropBatch b).raise (coreIx b.core) 5 b.upc ⟨.uncorrectable, b.ea, i⟩) := by
  have h := execBatchReply_eq (old := old) hp hb
  rw [if_pos hl] at h
  exact ⟨_, h⟩

theorem goes_batchReply {src id : Nat} {old : List (List W32)} {b : Batch} (hp : s.fab.parked = [])
    (hb : s.fab.batches.find? (fun x => x.target == src && x.id == id) = some b) (hl : b.rows.length ≤ old.length) :
    Goes (.batchReply src id old) s ((s.dropBatch b).setEng (coreIx b.core) .c { s.eng (coreIx b.core) .c with
      flight := (s.eng (coreIx b.core) .c).flight.map
        (Flight.replied src id ((imageWrites b.ret (imageRows b.cols b.parts old)).map fun x => s.newReq b.cls x)) }) := by
  have h := execBatchReply_eq (old := old) hp hb
  rw [if_neg (by omega)] at h
  exact h

theorem goes_batchResend {src id : Nat} {b : Batch} (hp : s.fab.parked = [])
    (hb : s.fab.batches.find? (fun x => x.target == src && x.id == id) = some b) (hl : b.last + 5000 ≤ s.time) :
    Goes (.batchResend src id) s
      ((s.setFab { s.fab with batches := s.fab.batches.map fun x => if x.serial = b.serial then { x with last := s.time } else x }).sendOut
        (s.coreFalls (coreIx b.core)) src (.batch src b.inc id b.op b.rows)) := by
  have h := execBatchResend_eq hp hb
  rw [if_neg (by omega)] at h
  exact h

/-- What is sent while its port is open leaves, and else waits. -/
theorem State.sendOut_cases {fb : Bool} {target : Nat} {m : OutMsg} (hp : s.fab.parked = []) :
    (s.mayLeave fb target → s.sendOut fb target m = s.send m) ∧
    (¬ s.mayLeave fb target → s.sendOut fb target m = s.setFab { s.fab with parked := [(target, fb, m)] }) := by
  unfold State.sendOut
  rw [hp, ← State.portOpen_iff]
  exact ⟨fun h => if_pos h, fun h => if_neg h⟩

theorem goes_resetNak {id inc : Nat} {r : RemoteReq} {c : CtxId} (hp : s.fab.parked = [])
    (hr : s.fab.remote.find? (fun y => y.id == id) = some r) (hc : r.who = .context c) (ho : r.sent ≤ s.time) (hi : s.incOf r.target < inc) :
    (s.mayFault r → Goes (.resetNak r.target id inc) s
      (((s.recordInc r.target inc).dropRemote id).raise (coreIx r.core) r.agent r.loc (lostTrap r.ea r.target inc))) ∧
    (¬ s.mayFault r →
      Goes (.resetNak r.target id inc) s ((s.recordInc r.target inc).dropRemote id)) := by
  have hu := State.recordInc_newer hi
  have hl : (s.recordInc r.target inc).loseRequest r.target id s.time =
      ((s.recordInc r.target inc).dropRemote id).failRequest r (lostTrap r.ea r.target inc) := by
    have h : (s.recordInc r.target inc).incOf r.target = inc := by
      rw [hu]
      exact sget_sset_self ..
    have := State.loseRequest_remote (s := s.recordInc r.target inc) (id := id) (old := s.time) (by rw [hu]; exact hp) (by rw [hu]; exact hr) ho
    rw [this, h]
  have hf := ((s.recordInc r.target inc).dropRemote id).failRequest_context (lostTrap r.ea r.target inc) hc
  rw [← hl] at hf
  rw [hu] at hf ⊢
  exact ⟨fun h => congrArg Host.Outcome.next ((congrArg (fun u => State.loseRequest u _ _ _) hu).trans (hf.1 h)),
    fun h => congrArg Host.Outcome.next ((congrArg (fun u => State.loseRequest u _ _ _) hu).trans (hf.2 h))⟩

theorem goes_remoteTimeout {id : Nat} {r : RemoteReq} {c : CtxId} (hp : s.fab.parked = [])
    (hr : s.fab.remote.find? (fun y => y.id == id) = some r) (hc : r.who = .context c) (ho : r.sent + 20000 ≤ s.time) :
    (s.mayFault r → Goes (.remoteTimeout r.target id) s
      ((s.dropRemote id).raise (coreIx r.core) r.agent r.loc (lostTrap r.ea r.target (s.incOf r.target)))) ∧
    (¬ s.mayFault r →
      Goes (.remoteTimeout r.target id) s (s.dropRemote id)) := by
  have he : exec (.remoteTimeout r.target id) s = .next ((s.dropRemote id).failRequest r (lostTrap r.ea r.target (s.incOf r.target))) := by
    show execRemoteTimeout r.target id s = _
    unfold execRemoteTimeout
    rw [lostAfter_eq, if_pos (by omega), State.loseRequest_remote hp hr (by omega)]
  have hf := (s.dropRemote id).failRequest_context (lostTrap r.ea r.target (s.incOf r.target)) hc
  exact ⟨fun h => he.trans (congrArg Host.Outcome.next (hf.1 h)), fun h => he.trans (congrArg Host.Outcome.next (hf.2 h))⟩

theorem goes_remoteTimeout_early {id : Nat} {r : RemoteReq} (hp : s.fab.parked = []) (ht : s.time < r.sent + 20000)
    (hr : ∀ y ∈ s.fab.remote, y.id = id → y = r) (hb : ∀ b ∈ s.fab.batches, b.serial ≠ id)
    (hm : ∀ i : Fin 32, ∀ m ∈ (s.chan i).sent, m.serial ≠ id) (hc : ∀ c ∈ s.fab.colls, c.id ≠ id) : Goes (.remoteTimeout r.target id) s s := by
  show execRemoteTimeout r.target id s = _
  unfold execRemoteTimeout
  rw [lostAfter_eq]
  split
  · refine congrArg Host.Outcome.next (State.loseRequest_none hp (fun y hy e => ?_) hb hm hc)
    rw [hr y hy e]
    omega
  · rfl

/-- The reply of a batch and its sending again. -/
theorem batchReply_clauses {src id : Nat} {b : Batch} {old : List (List W32)} (hp : s.fab.parked = [])
    (hb : s.fab.batches.find? (fun x => x.target == src && x.id == id) = some b) :
    let k := coreIx b.core
    let t := s.dropBatch b
    let ends (reqs : List Req) : State :=
      t.setEng k .c { s.eng k .c with flight := (s.eng k .c).flight.map (Flight.replied src id reqs) }
    (old.length < b.rows.length → ∃ i, Goes (.batchReply src id old) s (t.raise k 5 b.upc ⟨.uncorrectable, b.ea, i⟩)) ∧
    (b.rows.length ≤ old.length → b.ret = none → Goes (.batchReply src id old) s (ends [])) ∧
    (∀ img, b.rows.length ≤ old.length → b.ret = some img → b.parts = List.replicate old.length 1 → Goes (.batchReply src id old) s
      (ends ((List.range old.length).map fun j => s.newReq b.cls
        (.write (img + BitVec.ofNat 64 (128 * j)) ((nth [] old j).flatMap fun v => leBytesOf 4 v.toNat) [])))) := by
  refine ⟨goes_batchReply_short hp hb, fun hl hret => ?_, fun img hl hret hparts => ?_⟩
  · have h := goes_batchReply hp hb hl
    rw [hret] at h
    exact h
  · have h := goes_batchReply hp hb hl
    rw [hret, hparts, imageRows_replicate, imageWrites_some, List.map_map] at h
    exact h

/-- A read or write of a peer. -/
theorem peer_clauses {src inc addr len : Nat} {data : List Byte} (hlen : 0 < len) (hdata : 0 < data.length) :
    let may (n : Nat) : Prop := ∀ a, addr ≤ a → a < addr + n → s.mem.gradeAt a ≠ 3
    (may len → Goes (.remoteRequest (.inRead src s.cmd.incarn addr len)) s
      (s.send (.remoteReply src (s.mem.read addr len) (s.mem.poisonedAt addr len).isSome))) ∧
    (may data.length → Goes (.remoteRequest (.inWrite src s.cmd.incarn addr data [])) s (wrote s addr data) ∧
      ∀ bad, ∃ m, Goes (.remoteRequest (.inWrite src s.cmd.incarn addr data bad)) s (s.setMem m) ∧
        (∀ a, m.byte a = (wrote s addr data).mem.byte a) ∧
        ∀ r ∈ bad, ∀ j, r.1 ≤ j → j < r.1 + r.2 → j < data.length → (addr + j) / 64 ∈ m.poison) ∧
    (inc ≠ s.cmd.incarn → Goes (.remoteRequest (.inRead src inc addr len)) s (s.send (.resetNak src s.cmd.incarn)) ∧
      ∀ bad, Goes (.remoteRequest (.inWrite src inc addr data bad)) s (s.send (.resetNak src s.cmd.incarn))) ∧
    (s.mem.gradeAt addr = 3 → Goes (.remoteRequest (.inRead src s.cmd.incarn addr len)) s (s.send (.remoteRefused src addr)) ∧
      ∀ bad, Goes (.remoteRequest (.inWrite src s.cmd.incarn addr data bad)) s (s.send (.remoteRefused src addr))) := by
  refine ⟨fun h => ?reads, fun h => ⟨goes_inWrite [] hdata h, fun bad => ⟨_, goes_inWrite bad hdata h, fun a => ?bytes,
    fun r hr j h1 h2 h3 => ?poison⟩⟩, fun h => ⟨?staleRead, fun bad => ?staleWrite⟩, fun h => ⟨?noRead, fun bad => ?noWrite⟩⟩
  case reads => exact congrArg Host.Outcome.next (State.servePeer_here hlen h)
  case bytes =>
    unfold MemSide.byte
    rw [foldl_addPoison_cells]
    rfl
  case poison => exact mem_foldl_addPoison (.inl (mem_sectorsOf_runsIn hr h1 h2 h3))
  case staleRead => exact congrArg Host.Outcome.next (State.servePeer_stale h)
  case staleWrite => exact congrArg Host.Outcome.next (State.servePeer_stale h)
  case noRead => exact congrArg Host.Outcome.next (State.servePeer_refused hlen h)
  case noWrite => exact congrArg Host.Outcome.next (State.servePeer_refused hdata h)

/-- The answer to a read of a context. -/
theorem readDone_clauses {id : Nat} {r : RemoteReq} {data : List Byte} {c : CtxId} (hp : s.fab.parked = [])
    (hr : s.fab.remote.find? (fun y => y.id == id) = some r) (hc : r.who = .context c) (hw : r.write = false) (hl : data.length = r.len) :
    ((s.ctx (coreIx r.core) c).remote = some ⟨id, none⟩ → Goes (.remoteRequest (.readDone id data false)) s
      ((s.dropRemote id).setCtx (coreIx r.core) c { s.ctx (coreIx r.core) c with remote := some ⟨id, some (.bytes data)⟩ })) ∧
    ∃ i, Goes (.remoteRequest (.readDone id data true)) s
      ((s.dropRemote id).raise (coreIx r.core) (ctxAgent c) r.loc ⟨.uncorrectable, r.ea, i⟩) := by
  have hid : r.id = id := by simpa using List.find?_some hr
  have hbad := goes_readDone true hp hr hc hw hl
  unfold State.takeAnswer at hbad
  rw [hc] at hbad
  refine ⟨fun hwait => ?_, _, hbad⟩
  refine (goes_readDone false hp hr hc hw hl).trans (congrArg Host.Outcome.next ?_)
  have hwait' : ((s.dropRemote id).ctx (coreIx r.core) c).remote = some ⟨id, none⟩ := hwait
  unfold State.takeAnswer
  dsimp only
  rw [hc]
  simp only [Bool.false_eq_true, if_false]
  rw [hwait']
  simp only [hid, if_true]
  rfl

end

end Sys2Proof.Machine

open Sys2Proof.Machine Sys2Proof.Safety in
/-- Settles O48: each event of the fabric has its lemma; what a new incarnation leaves is read off `State.Links`, which every way of
taking down an end, a collective or a stage keeps. -/
theorem requestsBetweenPackages : Obligations.RequestsBetweenPackages := by
  intro s src inc id addr now
  refine ⟨fun op rows h => goes_batchReceive_stale h, fun op rows reply h => goes_batchReceive_again h, fun op e h => goes_batchReceive_element h,
    ?reply, ?peer, ?answer, ?message, ?incarnation, ?ports⟩
  case reply =>
    intro b old hp hb k t ends
    obtain ⟨h1, h2, h3⟩ := batchReply_clauses (old := old) hp hb
    refine ⟨h1, h2, h3, fun hl => ?_, fun hl => ?_⟩
    · intro due p open_
      have h := goes_batchResend hp hb hl
      obtain ⟨hopen, hshut⟩ := State.sendOut_cases (s := due) (fb := s.coreFalls k) (target := src) (m := .batch src b.inc id b.op b.rows) hp
      exact ⟨fun ho => h.trans (congrArg Host.Outcome.next (hopen ho)), fun ho => h.trans (congrArg Host.Outcome.next (hshut ho))⟩
    · have h := execBatchResend_eq hp hb
      rw [if_pos hl] at h
      exact h
  case peer =>
    intro len data hlen hdata may
    exact peer_clauses hlen hdata
  case answer =>
    intro r data c hp hr hc k t lost
    refine ⟨goes_writeDone hp hr hc, fun hw hl => (readDone_clauses hp hr hc hw hl).1, fun hw hl => (readDone_clauses hp hr hc hw hl).2,
      fun ho hi => ?_, fun ho => goes_remoteTimeout hp hr hc ho, fun ht hy hb hm hcs => goes_remoteTimeout_early hp ht hy hb hm hcs⟩
    have h := goes_resetNak hp hr hc ho hi
    rw [State.recordInc_newer hi] at h
    exact h
  case message =>
    intro c m f k hp hr hb hother hm hconf htime hbound hf hw hnone pkg
    obtain ⟨g, hchan, hg, htrap, hag⟩ := State.loseMessage_holds (lostTrap 0 pkg (s.incOf pkg)) hbound hf hw hnone
    exact ⟨_, g, goes_messageTimeout hp hr hb hother hm hconf htime, hchan, hg, htrap, hag⟩
  case incarnation =>
    intro pkg hpkg
    refine ⟨fun hinc => ?_, fun hinc => ?_⟩
    · obtain ⟨t, ht, hincs, hreplay, hdead⟩ := goes_incarnationAnnounce hpkg hinc
      refine ⟨t, ht, ?_, fun r => ?_, fun c ho hc => hdead c (List.mem_reverse.mpr (State.mem_endsTo ho hc))⟩
      · unfold State.incOf
        rw [hincs]
        exact sget_sset_self ..
      · rw [hreplay]
        simp
    · exact if_pos (.inr hinc)
  case ports =>
    intro port up
    exact ⟨fun h => goes_torusPortDown h, fun h => goes_torusPortUp_empty h, fun dst fb m hp hw => goes_torusPortUp_one hp hw⟩

end

section

/-! # Pod barriers, the token of a gang, and collectives (O49)

An arrival at a pod barrier leaves the words of every entry as they are, so that the spans of the cores stay; the members of a CRING
and of a Drift each have a lemma for what one message comes to; a COLL node has one for each of its phases. -/

set_option Elab.async false

namespace Sys2Proof.Machine
open Sys2Proof.Safety

/-! ### Pod barriers (R217, R358, R359) -/

section
variable {s : State}

theorem find?_sinsert {α : Type} {a b : Nat} {v : α} {l : List (Nat × α)} (h : ∀ e ∈ l, e.1 ≠ a) :
    (sinsert a v l).find? (·.1 == b) = if a = b then some (a, v) else l.find? (·.1 == b) := by
  induction l with
  | nil =>
    by_cases hab : a = b
    · simp [sinsert, hab]
    · simp [sinsert, hab]
  | cons e l ih =>
    obtain ⟨k, w⟩ := e
    have hk : k ≠ a := h (k, w) List.mem_cons_self
    have hl := ih fun e he => h e (List.mem_cons_of_mem _ he)
    unfold sinsert
    split
    · by_cases hab : a = b
      · rw [List.find?_cons_of_pos (by simpa using hab), if_pos hab]
      · rw [List.find?_cons_of_neg (by simpa using hab), if_neg hab]
    · by_cases hkb : k = b
      · have hab : a ≠ b := fun e => hk (hkb.trans e.symm)
        rw [List.find?_cons_of_pos (by simpa using hkb), if_neg hab, List.find?_cons_of_pos (by simpa using hkb)]
      · rw [List.find?_cons_of_neg (by simpa using hkb), hl, List.find?_cons_of_neg (by simpa using hkb)]

/-- A phase that begins keeps the words of every entry, and only the table of phases under way differs. -/
theorem State.beginPhase_spec (s : State) {group : Nat} (hg : group < 16) : (∀ g w, w < 2 → (s.beginPhase group).barrierWord g w = s.barrierWord g w) ∧
    (∃ e ∈ (s.beginPhase group).fab.groupAt, e.1 = group) ∧
    s.beginPhase group = s.setFab { s.fab with groupAt := (s.beginPhase group).fab.groupAt } := by
  by_cases hany : s.fab.groupAt.any (·.1 == group) = true
  · have hs : s.beginPhase group = s := if_pos (.inr hany)
    rw [hs]
    refine ⟨fun _ _ _ => rfl, ?_, rfl⟩
    simpa using hany
  · have hs : s.beginPhase group = s.setFab { s.fab with
        groupAt := sinsert group (sget 0 s.fab.groups (group * 8), sget 0 s.fab.groups (group * 8 + 1)) s.fab.groupAt } := if_neg fun h => h.elim (by omega) hany
    have hno : ∀ e ∈ s.fab.groupAt, e.1 ≠ group := fun e he h => hany (List.any_eq_true.mpr ⟨e, he, by simpa using h⟩)
    have hfind (g : Nat) := find?_sinsert (b := g) (v := (sget (0 : W64) s.fab.groups (group * 8), sget (0 : W64) s.fab.groups (group * 8 + 1))) hno
    rw [hs]
    refine ⟨fun g w hw => ?_, ?_, rfl⟩
    · unfold State.barrierWord
      dsimp only [State.setFab_fab]
      rw [hfind]
      by_cases hgg : group = g
      · have hn : s.fab.groupAt.find? (·.1 == g) = none := by
          rw [List.find?_eq_none]
          intro e he
          simpa [← hgg] using hno e he
        rw [if_pos hgg, hn]
        obtain rfl | rfl : w = 0 ∨ w = 1 := by omega
        · rw [← hgg]
          rfl
        · rw [← hgg]
          rfl
      · rw [if_neg hgg]
        rfl
    · have := hfind group
      rw [if_pos rfl] at this
      exact ⟨_, List.mem_of_find?_eq_some this, rfl⟩

/-- The span of a core rests on the words of the entries and on the instances and stages. -/
theorem State.podSpan_congr {t : State} (hw : ∀ g, t.barrierWord g 0 = s.barrierWord g 0) (hcmd : t.cmd = s.cmd) (hst : t.stages = s.stages)
    (hpod : t.pod = s.pod) {k : Fin 128} (hcore : t.core k = s.core k) : t.podSpan k = s.podSpan k := by
  have hgs (g : Nat) : t.groupSpan g = s.groupSpan g := by
    unfold State.groupSpan
    rw [hw]
  have hsg (p : Nat) : t.spanGroup p = s.spanGroup p := by
    unfold State.spanGroup
    simp only [hw]
  have hi : t.instOf k = s.instOf k := by
    unfold State.instOf
    rw [hcore, hcmd]
  have hpkg : t.pkg = s.pkg := by
    unfold State.pkg
    rw [hpod]
  have hstep : t.stepSpan = s.stepSpan := by
    funext i
    unfold State.stepSpan State.stageOf
    rw [hst, hpkg]
  unfold State.podSpan
  rw [hi, hcore, hsg, hstep]
  simp only [hgs]

theorem doneCount_setDone_pod (x : Core) (v : W32) :
    doneCount (setDone x .pod v) .pod = v ∧ ∀ sc, sc ≠ .pod → doneCount (setDone x .pod v) sc = doneCount x sc := by
  refine ⟨by simp [doneCount, setDone], fun sc h => ?_⟩
  cases sc with
  | core => simp [doneCount, setDone]
  | quad => simp [doneCount, setDone]
  | die => simp [doneCount, setDone]
  | package => simp [doneCount, setDone]
  | pod => exact absurd rfl h

theorem State.spanOf_group {group : Nat} (hg : group < 16) : s.spanOf group = some (s.groupSpan group) := if_pos hg

theorem State.spanPkg_group {group rank : Nat} : s.spanPkg (s.groupSpan group) rank = s.listPkg (s.barrierWord group 1) rank := rfl

theorem goes_podArrival_stale {group member inc : Nat} (hg : group < 16) (h : inc ≠ s.cmd.incarn) :
    Goes (.podBarrierArrival group ⟨member, inc⟩) s (s.send (.resetNak (s.listPkg (s.barrierWord group 1) member) s.cmd.incarn)) := by
  show execPodBarrierArrival group ⟨member, inc⟩ s = _
  unfold execPodBarrierArrival
  dsimp only
  rw [State.fromPeer_stale h, State.spanOf_group hg]
  rfl

/-- This package once the arrival of a member has been counted. -/
def State.podArrived (s : State) (group member : Nat) : State :=
  (s.beginPhase group).setFab { (s.beginPhase group).fab with arrived := (s.beginPhase group).fab.arrived ++ [group * 4096 + member] }

theorem State.podArrived_spec {group : Nat} (hg : group < 16) (member : Nat) :
    (∀ g w, w < 2 → (s.podArrived group member).barrierWord g w = s.barrierWord g w) ∧
    (∃ e ∈ (s.podArrived group member).fab.groupAt, e.1 = group) ∧ s.podArrived group member =
      s.setFab { s.fab with groupAt := (s.podArrived group member).fab.groupAt, arrived := s.fab.arrived ++ [group * 4096 + member] } := by
  obtain ⟨hw, hat, heq⟩ := s.beginPhase_spec hg
  refine ⟨hw, hat, ?_⟩
  unfold State.podArrived
  rw [heq]
  rfl

theorem goes_podArrival {group member : Nat} (hg : group < 16) : Goes (.podBarrierArrival group ⟨member, s.cmd.incarn⟩) s
    ((s.podArrived group member).completeSpan group (bitsNat (s.barrierWord group 0) 8 12 + 1) (s.groupSpan group)) := by
  obtain ⟨hw, -, -⟩ := s.podArrived_spec hg member
  have hspan : (s.podArrived group member).groupSpan group = s.groupSpan group := by
    unfold State.groupSpan
    rw [hw _ _ (by omega)]
  show execPodBarrierArrival group ⟨member, s.cmd.incarn⟩ s = _
  unfold execPodBarrierArrival
  dsimp only
  rw [State.fromPeer_here]
  change Host.Outcome.next (match (s.podArrived group member).spanOf group with
    | some sp => (s.podArrived group member).completeSpan group sp.members sp
    | none => s.podArrived group member) = _
  rw [State.spanOf_group hg, hspan]
  rfl

/-- Whether the members of a span have all arrived. -/
theorem State.ranksArrived_iff (s : State) (key members : Nat) :
    (((List.range members).map fun r => key * 4096 + r).all fun r => s.fab.arrived.contains r) = true ↔
      ∀ r, r < members → key * 4096 + r ∈ s.fab.arrived := by
  simp [List.all_eq_true]

/-- The completed phase counts at the cores of the span and leaves the others. -/
theorem State.completeSpan_all {key members : Nat} {sp : PodSpan} (h : ∀ r, r < members → key * 4096 + r ∈ s.fab.arrived) :
    (s.completeSpan key members sp).fab.groupP = sset 0 s.fab.groupP key (sget 0 s.fab.groupP key + 1) ∧ ∀ k : Fin 128,
      ((s.core k).inst ≠ none → s.podSpan k = sp →
        (s.completeSpan key members sp).core k = setDone (s.core k) .pod (BitVec.ofNat 32 (sget 0 s.fab.groupP key + 1))) ∧
      ((s.core k).inst = none ∨ s.podSpan k ≠ sp → (s.completeSpan key members sp).core k = s.core k) := by
  unfold State.completeSpan
  extract_lets ranks p src f
  rw [if_pos ((s.ranksArrived_iff key members).mpr h)]
  obtain ⟨honly, hout, hin⟩ := (s.setFab f).updCores_spec (s.spanCores sp) fun x => setDone x .pod (BitVec.ofNat 32 p)
  have hnodup : (s.spanCores sp).Nodup := by
    refine List.Nodup.filter _ (List.Nodup.map_on (fun x hx y hy he => ?_) List.nodup_range)
    rw [List.mem_range] at hx hy
    simp only [coreIx, Fin.ext_iff, Fin.val_ofNat] at he
    omega
  have hmem (k : Fin 128) : k ∈ s.spanCores sp ↔ (s.core k).inst ≠ none ∧ s.podSpan k = sp := by
    unfold State.spanCores
    have hk : k ∈ (List.range 128).map coreIx := List.mem_map.mpr ⟨k.val, List.mem_range.mpr k.isLt, coreIx_val k⟩
    rw [List.mem_filter]
    simp [hk, Option.isSome_iff_ne_none]
  refine ⟨?_, fun k => ⟨fun hi hs => hin hnodup k ((hmem k).mpr ⟨hi, hs⟩), fun ho => hout k fun hk => ?_⟩⟩
  · rw [honly]
    rfl
  · obtain ⟨hi, hs⟩ := (hmem k).mp hk
    rcases ho with h | h
    · exact hi h
    · exact h hs

theorem State.completeSpan_some {key members : Nat} {sp : PodSpan} (h : ¬ ∀ r, r < members → key * 4096 + r ∈ s.fab.arrived) :
    s.completeSpan key members sp = s := if_neg fun e => h ((s.ranksArrived_iff key members).mp e)

theorem podArrival_clauses {group member : Nat} (hg : group < 16) :
    let w := s.barrierWord group 0
    let members := bitsNat w 8 12 + 1
    let span : PodSpan := .group group (bitsNat w 20 12) members (bitsNat w 0 7 + 1)
    let all : Prop := ∀ r, r < members → r = member ∨ group * 4096 + r ∈ s.fab.arrived
    let p := sget 0 s.fab.groupP group + 1
    (¬ all → ∃ t, Goes (.podBarrierArrival group ⟨member, s.cmd.incarn⟩) s t ∧ (∃ e ∈ t.fab.groupAt, e.1 = group) ∧
      t = s.setFab { s.fab with groupAt := t.fab.groupAt, arrived := s.fab.arrived ++ [group * 4096 + member] } ∧
      t.barrierWord group 0 = w ∧ t.barrierWord group 1 = s.barrierWord group 1) ∧
    (all → ∃ t, Goes (.podBarrierArrival group ⟨member, s.cmd.incarn⟩) s t ∧ t.fab.groupP = sset 0 s.fab.groupP group p ∧ ∀ k : Fin 128,
      ((s.core k).inst ≠ none → s.podSpan k = span → doneCount (t.core k) .pod = BitVec.ofNat 32 p ∧
        ∀ sc, sc ≠ .pod → doneCount (t.core k) sc = doneCount (s.core k) sc) ∧
      ((s.core k).inst = none ∨ s.podSpan k ≠ span → t.core k = s.core k)) := by
  intro w members span all p
  obtain ⟨hw, hat, heq⟩ := s.podArrived_spec hg member
  have hgoes := goes_podArrival (s := s) (member := member) hg
  have harr : (s.podArrived group member).fab.arrived = s.fab.arrived ++ [group * 4096 + member] := by
    rw [heq]
    rfl
  have hall : (∀ r, r < members → group * 4096 + r ∈ (s.podArrived group member).fab.arrived) ↔ all := by
    rw [harr]
    refine forall₂_congr fun r _ => ?_
    simp [or_comm]
  refine ⟨fun hn => ?_, fun ha => ?_⟩
  · rw [State.completeSpan_some (mt hall.mp hn)] at hgoes
    exact ⟨_, hgoes, hat, heq, hw _ _ (by omega), hw _ _ (by omega)⟩
  · obtain ⟨hp, hk⟩ := State.completeSpan_all (sp := s.groupSpan group) (hall.mpr ha)
    have hcore (k : Fin 128) : (s.podArrived group member).core k = s.core k := by
      rw [heq]
      rfl
    have hspan (k : Fin 128) : (s.podArrived group member).podSpan k = s.podSpan k :=
      State.podSpan_congr (fun g => hw g 0 (by omega)) (by rw [heq]; rfl) (by rw [heq]; rfl) (by rw [heq]; rfl) (hcore k)
    have hP : (s.podArrived group member).fab.groupP = s.fab.groupP := by
      rw [heq]
      rfl
    rw [hP] at hp
    refine ⟨_, hgoes, hp, fun k => ?_⟩
    obtain ⟨hin, hout⟩ := hk k
    rw [hcore, hspan, hP] at hin
    rw [hcore, hspan] at hout
    refine ⟨fun hi hs => ?_, hout⟩
    have h := hin hi hs
    obtain ⟨h1, h2⟩ := doneCount_setDone_pod (s.core k) (BitVec.ofNat 32 p)
    rw [← h] at h1 h2
    exact ⟨h1, h2⟩

/-! ### The token of a gang (R217) -/

/-- The first element found is the one that satisfies the predicate. -/
theorem find?_of_unique {α : Type} {p : α → Bool} {l : List α} {x : α} (hx : x ∈ l) (hp : p x = true) (hu : ∀ y ∈ l, p y = true → y = x) :
    l.find? p = some x := by
  obtain ⟨y, hy⟩ := Option.isSome_iff_exists.mp (List.find?_isSome.mpr ⟨x, hx, hp⟩)
  rw [hy, hu y (List.mem_of_find?_eq_some hy) (List.find?_some hy)]

/-- The token moves to the next core; this one is WHITE. -/
def State.passToken (s : State) (i : Inst) (k : Fin 128) (r : Nat) : State :=
  let t := (s.core k).trm
  let dst := coreIx (i.base + (r + 1) % i.ncores)
  let s1 := setTrm s k { t with black := false, token := false, tokenBlack := false, round := false }
  setTrm s1 dst { (s1.core dst).trm with
    token := true, tokenBlack := if r = 0 then false else t.tokenBlack || t.black, round := decide ((r + 1) % i.ncores = 0) }

theorem goes_trmTokenPass_away {i : Inst} (hi : s.inst? i.ctxid = some i) {j : Nat} (hj : j < i.ncores)
    (h : (s.core (coreIx (i.base + j))).inst ≠ some i.ctxid) : Goes (.trmTokenPass i.ctxid) s s := by
  have hi' : s.cmd.insts.find? (·.ctxid == i.ctxid) = some i := hi
  show execTrmTokenPass i.ctxid s = _
  unfold execTrmTokenPass
  rw [hi']
  dsimp only
  rw [if_pos]
  rw [Bool.not_eq_true', List.all_eq_false]
  exact ⟨_, Inst.coreIx_mem_cores hj, by simpa using h⟩

/-- The token is at rank `r` of a gang on its cores. -/
theorem execTrmTokenPass_eq {i : Inst} {r : Nat} (hi : s.inst? i.ctxid = some i) (hr : r < i.ncores)
    (hgang : ∀ j, j < i.ncores → (s.core (coreIx (i.base + j))).inst = some i.ctxid ∧ (s.core (coreIx (i.base + j))).disp.grank.toNat = j ∧
      ((s.core (coreIx (i.base + j))).trm.token = true ↔ j = r)) :
    let k := coreIx (i.base + r)
    let x := (s.core k).trm
    execTrmTokenPass i.ctxid s = if (x.busy || x.term) = true then .next s
      else if r = 0 ∧ x.round = true ∧ x.tokenBlack = false ∧ x.black = false then
        .next (s.updCores i.cores fun c => { c with trm := { c.trm with term := true } })
      else .next (s.passToken i k r) := by
  intro k x
  have hi' : s.cmd.insts.find? (·.ctxid == i.ctxid) = some i := hi
  have hon : (i.cores.all fun j => (s.core j).inst == some i.ctxid) = true := by
    rw [List.all_eq_true]
    intro c hc
    obtain ⟨j, hj, rfl⟩ := List.mem_map.mp hc
    simpa using (hgang j (List.mem_range.mp hj)).1
  have htok : i.cores.find? (fun j => (s.core j).trm.token) = some k := by
    refine find?_of_unique (Inst.coreIx_mem_cores hr) ((hgang r hr).2.2.mpr rfl) fun c hc ht => ?_
    obtain ⟨j, hj, rfl⟩ := List.mem_map.mp hc
    rw [(hgang j (List.mem_range.mp hj)).2.2.mp ht]
  unfold execTrmTokenPass
  rw [hi']
  change (if (!(i.cores.all fun j => (s.core j).inst == some i.ctxid)) = true then Host.Outcome.next s else
    match i.cores.find? fun j => (s.core j).trm.token with | none => _ | some k => _) = _
  rw [hon, htok]
  simp only [Bool.not_true, Bool.false_eq_true, if_false]
  rw [(hgang r hr).2.1]
  rfl

theorem State.passToken_eq {i : Inst} {r : Nat} (hr : r < i.ncores) (hn : 2 ≤ i.ncores) (hfit : i.base + i.ncores ≤ 128) :
    let k := coreIx (i.base + r)
    let x := (s.core k).trm
    let dst := (r + 1) % i.ncores
    let d := coreIx (i.base + dst)
    s.passToken i k r = (s.setCore k { s.core k with
        trm := { x with black := false, token := false, tokenBlack := false, round := false } }).setCore d
      { s.core d with trm := { (s.core d).trm with
        token := true, tokenBlack := if r = 0 then false else x.tokenBlack || x.black, round := decide (dst = 0) } } := by
  intro k x dst d
  have hdst : dst < i.ncores := Nat.mod_lt _ (by omega)
  have hne : dst ≠ r := by
    rcases Nat.lt_or_ge (r + 1) i.ncores with h | h
    · have : dst = r + 1 := Nat.mod_eq_of_lt h
      omega
    · have hr1 : r + 1 = i.ncores := by omega
      have : dst = 0 := by simp [dst, hr1]
      omega
  have hd : d ≠ k := by
    simp only [d, k, coreIx, ne_eq, Fin.ext_iff, Fin.val_ofNat]
    omega
  unfold State.passToken setTrm
  dsimp only
  rw [State.setCore_core_ne _ _ hd]

theorem trmTokenPass_clauses {i : Inst} {r : Nat} (hi : s.inst? i.ctxid = some i) (hr : r < i.ncores) (hfit : i.base + i.ncores ≤ 128)
    (hgang : ∀ j, j < i.ncores → (s.core (coreIx (i.base + j))).inst = some i.ctxid ∧ (s.core (coreIx (i.base + j))).disp.grank.toNat = j ∧
      ((s.core (coreIx (i.base + j))).trm.token = true ↔ j = r)) :
    let at_ (j : Nat) : Fin 128 := coreIx (i.base + j)
    let x := (s.core (at_ r)).trm
    (x.busy = true ∨ x.term = true → Goes (.trmTokenPass i.ctxid) s s) ∧
    (x.busy = false → x.term = false →
      let white : Prop := r = 0 ∧ x.round = true ∧ x.tokenBlack = false ∧ x.black = false
      let dst := (r + 1) % i.ncores
      (white → ∃ t, Goes (.trmTokenPass i.ctxid) s t ∧ (∀ j, j < i.ncores → t.core (at_ j) = { s.core (at_ j) with
          trm := { (s.core (at_ j)).trm with term := true } }) ∧
        ∀ k : Fin 128, (k.val < i.base ∨ i.base + i.ncores ≤ k.val) → t.core k = s.core k) ∧
      (¬ white → 2 ≤ i.ncores → Goes (.trmTokenPass i.ctxid) s
        ((s.setCore (at_ r) { s.core (at_ r) with
            trm := { x with black := false, token := false, tokenBlack := false, round := false } }).setCore (at_ dst)
          { s.core (at_ dst) with trm := { (s.core (at_ dst)).trm with
            token := true, tokenBlack := if r = 0 then false else x.tokenBlack || x.black, round := decide (dst = 0) } }))) := by
  intro at_ x
  have he : exec (.trmTokenPass i.ctxid) s = _ := execTrmTokenPass_eq hi hr hgang
  refine ⟨fun hb => he.trans (if_pos (by simpa using hb)), fun hb ht => ?_⟩
  have hidle : ¬ (x.busy || x.term) = true := by simp [hb, ht]
  rw [if_neg hidle] at he
  intro white dst
  refine ⟨fun hw => ?_, fun hw hn => ?_⟩
  · rw [if_pos hw] at he
    obtain ⟨-, hout, hin⟩ := s.updCores_spec i.cores fun c => { c with trm := { c.trm with term := true } }
    exact ⟨_, he, fun j hj => hin (Inst.cores_nodup hfit) _ (Inst.coreIx_mem_cores hj), fun k hk => hout k (Inst.not_mem_cores hfit hk)⟩
  · rw [if_neg hw, State.passToken_eq hr hn hfit] at he
    exact he

end

end Sys2Proof.Machine

namespace Sys2Proof.Machine
open Sys2Proof.Safety

/-! ### Rows of 32-bit elements (R27) -/

theorem leBytesOf_append {a v : Nat} (b w : Nat) (h : v < 256 ^ a) : leBytesOf (a + b) (v + 256 ^ a * w) = leBytesOf a v ++ leBytesOf b w := by
  induction a generalizing v with
  | zero =>
    have hv : v = 0 := by simpa using h
    simp [hv, leBytesOf]
  | succ a ih =>
    have hq : v / 256 < 256 ^ a := by
      rw [Nat.pow_succ] at h
      omega
    have he : v + 256 ^ (a + 1) * w = v + 256 * (256 ^ a * w) := by ring
    have hhead : BitVec.ofNat 8 (v + 256 * (256 ^ a * w)) = BitVec.ofNat 8 v := by
      apply BitVec.eq_of_toNat_eq
      simp only [BitVec.toNat_ofNat]
      omega
    have htail : (v + 256 * (256 ^ a * w)) / 256 = v / 256 + 256 ^ a * w := by omega
    rw [show a + 1 + b = (a + b) + 1 by omega, leBytesOf, leBytesOf, he, hhead, htail, ih hq, List.cons_append]

/-- The elements of a row, each with its place. -/
def rowNum (l : List Nat) : Nat := putElems 32 0 (l.zipIdx.map fun p => (p.2, p.1))

theorem rowNum_append (l : List Nat) (x : Nat) (h : rowNum l < 256 ^ (4 * l.length)) :
    rowNum (l ++ [x]) = rowNum l + 256 ^ (4 * l.length) * (x % 2 ^ 32) := by
  have hp : (256 : Nat) ^ (4 * l.length) = 2 ^ (l.length * 32) := by
    rw [show (256 : Nat) = 2 ^ 8 from rfl, ← Nat.pow_mul]
    congr 1
    omega
  have hz : elemOf (rowNum l) 32 l.length = 0 := by
    unfold elemOf bitsNat
    rw [Nat.div_eq_of_lt (by rwa [← hp]), Nat.zero_mod]
  unfold rowNum putElems at *
  rw [List.zipIdx_append, List.map_append, List.foldl_append]
  simp only [List.zipIdx_cons, List.zipIdx_nil, List.map_cons, List.map_nil, List.foldl_cons, List.foldl_nil, Nat.zero_add]
  rw [hz, hp]
  ring_nf
  omega

theorem rowNum_bytes (l : List Nat) : rowNum l < 256 ^ (4 * l.length) ∧ leBytesOf (4 * l.length) (rowNum l) = l.flatMap fun v => leBytesOf 4 (v % 2 ^ 32) := by
  induction l using List.reverseRecOn with
  | nil => exact ⟨by simp [rowNum, putElems], rfl⟩
  | append_singleton l x ih =>
    obtain ⟨hlt, hb⟩ := ih
    have hlen : 4 * (l ++ [x]).length = 4 * l.length + 4 := by simp; omega
    rw [rowNum_append l x hlt, hlen]
    constructor
    · have hx : x % 2 ^ 32 ≤ 256 ^ 4 - 1 := by omega
      calc rowNum l + 256 ^ (4 * l.length) * (x % 2 ^ 32) < 256 ^ (4 * l.length) + 256 ^ (4 * l.length) * (x % 2 ^ 32) := by omega
        _ ≤ 256 ^ (4 * l.length) + 256 ^ (4 * l.length) * (256 ^ 4 - 1) := Nat.add_le_add_left (Nat.mul_le_mul_left _ hx) _
        _ = 256 ^ (4 * l.length + 4) := by rw [Nat.pow_add]; ring
    · rw [leBytesOf_append 4 _ hlt, hb, List.flatMap_append]
      simp

theorem packRow_words (l : List Nat) : packRow 32 l = l.flatMap fun v => leBytesOf 4 (v % 2 ^ 32) := by
  rw [← (rowNum_bytes l).2]
  unfold packRow rowNum
  rw [show (l.length * 32 + 7) / 8 = 4 * l.length by omega]

/-! ### CRING (R369, R370) -/

section
variable {s : State} {c : Coll} {core : Nat} {ec : Fin 32}

theorem State.failColl_core (t : Trap) (hc : c.core = some (core, ec)) : s.failColl c t =
    (s.setFab { s.fab with colls := s.fab.colls.filter fun y => y.id != c.id }).raise (coreIx core) 5 c.upc t := by
  unfold State.failColl
  dsimp only
  rw [hc]

/-- The collective here becomes another one. -/
def State.keepColl (s : State) (c d : Coll) : State :=
  s.setFab { s.fab with colls := updFirst (fun y => y.id == c.id) (fun _ => d) s.fab.colls }

theorem updFirst_eq_const {α : Type} {p : α → Bool} (f : α → α) {l : List α} {x : α} (h : l.find? p = some x) :
    updFirst p f l = updFirst p (fun _ => f x) l := by
  induction l with
  | nil => rfl
  | cons y l ih =>
    unfold updFirst
    cases hy : p y with
    | true =>
      obtain rfl : y = x := by simpa [hy] using h
      rfl
    | false =>
      have h' : l.find? p = some x := by simpa [hy] using h
      simp [ih h']

theorem State.updColl_eq (f : Coll → Coll) (hfind : s.fab.colls.find? (fun y => y.id == c.id) = some c) :
    s.updColl c.id f = s.keepColl c (f c) := by
  unfold State.updColl State.keepColl
  rw [updFirst_eq_const f hfind]

theorem State.find?_keepColl {d : Coll} (hfind : s.fab.colls.find? (fun y => y.id == c.id) = some c) (hd : d.id = c.id) :
    (s.keepColl c d).fab.colls.find? (fun y => y.id == c.id) = some d :=
  find?_updFirst (f := fun _ => d) hfind (by simp [hd])

/-- The requests left of the word of a collective that has its results. -/
def collReqs (s : State) (c : Coll) (ws : List (W64 × List Byte)) (tell st : List ReqKind) : List Req :=
  let writes : List ReqKind := ws.map fun w => .write w.1 w.2 []
  (writes ++ tell ++ [ReqKind.collEnd c.id] ++ st).map (s.newReq c.cls)

/-- The word of a collective that has its results: its writes, the end of the collective, and its status. -/
def Flight.collEnds (id : Nat) (fl : W32) (reqs : List Req) (f : Flight) : Flight :=
  if f.wait = .coll id then { f with wait := .none, flags := f.flags ||| fl, reqs := f.reqs ++ reqs } else f

/-- The status of a collective goes to a register of its core. -/
def statusReqs (ec : Fin 32) : Option W64 → List ReqKind
  | some v => [.setE ec v]
  | none => []

theorem State.endColl_core (ws : CollWrites) (fl : Fl) (status : Option W64) (hc : c.core = some (core, ec)) : s.endColl c ws fl status =
    s.setEng (coreIx core) .c { s.eng (coreIx core) .c with
      flight := (s.eng (coreIx core) .c).flight.map (Flight.collEnds c.id fl (collReqs s c ws (if c.drift.isSome then [.collTell c.id] else [])
        (statusReqs ec status))) } := by
  unfold State.endColl
  rw [hc]
  cases status with
  | some v => rfl
  | none => rfl

theorem State.groupColl_group {group : Nat} (hg : s.groupColl group = some c) : c.group = group := by
  simpa using List.find?_some hg

theorem goes_ringChunk_stale {group member inc : Nat} {y : RingTerms} {b : Bool} (h : inc ≠ s.cmd.incarn) :
    Goes (.ringChunkReceive group ⟨member, inc⟩ y b) s (s.send (.resetNak (s.memberPkg group member) s.cmd.incarn)) :=
  congrArg Host.Outcome.next (State.fromPeer_stale h)

theorem goes_ringChunk_early {group member : Nat} {y : RingTerms} {b : Bool} (hg : s.groupColl group = none) :
    Goes (.ringChunkReceive group ⟨member, s.cmd.incarn⟩ y b) s s := by
  show execRingChunkReceive group ⟨member, s.cmd.incarn⟩ y b s = _
  unfold execRingChunkReceive
  dsimp only
  rw [State.fromPeer_here]
  rw [hg]

theorem goes_ringChunk_fails {group member : Nat} {x : RingRun} {y : RingTerms} {b : Bool} (hg : s.groupColl group = some c)
    (hc : c.core = some (core, ec)) (hx : c.ring = some x)
    (hbad : b = false ∨ member ≠ (c.rank + c.nmem) % (c.nmem + 1) ∨ y.elems.length ≠ x.n ∨ c.nmem < y.rank) :
    Goes (.ringChunkReceive group ⟨member, s.cmd.incarn⟩ y b) s
      ((s.setFab { s.fab with colls := s.fab.colls.filter fun y => y.id != c.id }).raise (coreIx core) 5 c.upc ⟨.channel, 0, 0xFF⟩) := by
  show execRingChunkReceive group ⟨member, s.cmd.incarn⟩ y b s = _
  unfold execRingChunkReceive
  dsimp only
  rw [State.fromPeer_here]
  rw [hg]
  dsimp only
  rw [hx]
  dsimp only
  rw [if_pos hbad, State.failColl_core _ hc]
  rfl

/-- This package once terms have been kept, and have gone on to the east. -/
def State.termsKept (s : State) (group : Nat) (c : Coll) (x : RingRun) (y : RingTerms) : State :=
  let t := s.keepColl c { c with ring := some { x with terms := x.terms ++ [y] } }
  let east := (c.rank + 1) % (c.nmem + 1)
  if y.rank = east then t else t.send (.ringTerms group east (s.incOf (s.memberPkg group east)) y)

theorem goes_ringChunk {group : Nat} {x : RingRun} {y : RingTerms} (hg : s.groupColl group = some c)
    (hfind : s.fab.colls.find? (fun y => y.id == c.id) = some c) (hx : c.ring = some x) (hlen : y.elems.length = x.n) (hrank : y.rank ≤ c.nmem)
    (hnew : ∀ z ∈ x.terms, z.rank ≠ y.rank) : Goes (.ringChunkReceive group ⟨(c.rank + c.nmem) % (c.nmem + 1), s.cmd.incarn⟩ y true) s
      ((s.termsKept group c x y).ringProgress c.id) := by
  show execRingChunkReceive group ⟨(c.rank + c.nmem) % (c.nmem + 1), s.cmd.incarn⟩ y true s = _
  unfold execRingChunkReceive
  dsimp only
  rw [State.fromPeer_here]
  rw [hg]
  dsimp only
  rw [hx]
  dsimp only
  have hno : ¬ (x.terms.any fun z => z.rank == y.rank) = true := by simpa using hnew
  have hfine : ¬ (true = false ∨ (c.rank + c.nmem) % (c.nmem + 1) ≠ (c.rank + c.nmem) % (c.nmem + 1) ∨ y.elems.length ≠ x.n ∨ c.nmem < y.rank) := by
    simp [hlen, hrank]
  rw [if_neg hfine, if_neg hno, State.updColl_eq _ hfind]
  refine congrArg (fun u => Host.Outcome.next (State.ringProgress u c.id)) ?_
  unfold State.termsKept
  dsimp only
  split
  · rfl
  · rename_i hne
    have hmem : c.nmem ≠ 0 := by
      intro h0
      rw [h0] at hne hrank
      rw [Nat.mod_one] at hne
      omega
    unfold State.sendEast
    dsimp only
    rw [if_neg hmem, State.groupColl_group hg]
    rfl

theorem State.termsKept_colls {group : Nat} {x : RingRun} {y : RingTerms} (hfind : s.fab.colls.find? (fun y => y.id == c.id) = some c) :
    (s.termsKept group c x y).fab.colls.find? (fun y => y.id == c.id) = some { c with ring := some { x with terms := x.terms ++ [y] } } := by
  unfold State.termsKept
  dsimp only
  split
  · exact State.find?_keepColl hfind rfl
  · exact State.find?_keepColl hfind rfl

theorem State.termsKept_frame (s : State) (group : Nat) (c : Coll) (x : RingRun) (y : RingTerms) :
    (∀ k e, (s.termsKept group c x y).eng k e = s.eng k e) ∧ (s.termsKept group c x y).newReq = s.newReq := by
  unfold State.termsKept
  dsimp only
  split <;> exact ⟨fun _ _ => rfl, rfl⟩

/-- The word of a CRING is left with its one write once the terms of every member are here. -/
theorem State.ringProgress_of_find {d : Coll} {x : RingRun} (hfind : s.fab.colls.find? (fun y => y.id == c.id) = some d) (hx : d.ring = some x) :
    s.ringProgress c.id = if (List.range (d.nmem + 1)).all (fun r => x.terms.any (·.rank == r)) = true then
      s.endColl d [(x.dst, (ringResult x (d.nmem + 1)).1)] (ringResult x (d.nmem + 1)).2 none else s := by
  unfold State.ringProgress
  rw [hfind]
  dsimp only
  rw [hx]

/-- Whether the terms of every member are here with those that come in. -/
theorem ringAll_iff {nmem : Nat} {x : RingRun} {y : RingTerms} :
    ((List.range (nmem + 1)).all fun r => (x.terms ++ [y]).any (·.rank == r)) = true ↔ ∀ r, r ≤ nmem → r = y.rank ∨ ∃ z ∈ x.terms, z.rank = r := by
  simp only [List.all_eq_true, List.mem_range, List.any_append, Bool.or_eq_true, List.any_eq_true, beq_iff_eq, List.mem_singleton, exists_eq_left,
    Nat.lt_succ_iff]
  refine forall₂_congr fun r _ => ?_
  rw [or_comm, eq_comm]

end

/-! ### The values of two members -/

section
variable {a y : RingTerms} {x : RingRun}

/-- The terms of two members in the order of their ranks. -/
theorem ringTermsOf_pair (ha : a.rank ≤ 1) (hy : y.rank ≤ 1) (hne : a.rank ≠ y.rank) :
    ringTermsOf [a, y] 2 = if y.rank = 0 then [y.elems, a.elems] else [a.elems, y.elems] := by
  unfold ringTermsOf
  rcases Nat.le_one_iff_eq_zero_or_eq_one.mp hy with h | h
  · have h' : a.rank = 1 := by omega
    simp [h, h', List.range_succ, List.find?_cons]
  · have h' : a.rank = 0 := by omega
    simp [h, h', List.range_succ, List.find?_cons]

theorem convert_int32 (b : W32) : convert ringEnv .int32 .int32 .rne false b.toNat = (b.toNat, 0) := by
  have h : b.toNat % 2 ^ Fmt.int32.width = b.toNat := Nat.mod_eq_of_lt b.isLt
  unfold convert
  rw [if_pos (by decide), h]

/-- The bytes of INT32 values at the destination are those of the values, and they raise no flags. -/
theorem packRow_int32 (l : List W32) : packRow Fmt.int32.width ((l.map fun b => convert ringEnv .int32 .int32 .rne false b.toNat).map (·.1)) =
    l.flatMap fun v => leBytesOf 4 v.toNat := by
  have h : (l.map fun b => convert ringEnv .int32 .int32 .rne false b.toNat).map (·.1) = l.map BitVec.toNat := by
    rw [List.map_map]
    exact List.map_congr_left fun b _ => congrArg Prod.fst (convert_int32 b)
  rw [h]
  refine (packRow_words _).trans ?_
  rw [List.flatMap_map]
  refine List.flatMap_congr fun v _ => ?_
  rw [Nat.mod_eq_of_lt v.isLt]

theorem foldl_or_zero {α : Type} (l : List α) (f : α → W32) (h : ∀ a ∈ l, f a = 0) (v : W32) : l.foldl (fun h e => h ||| f e) v = v :=
  foldl_keep (fun u => u = v) _ l v rfl fun u b hb hu => by simp [h b hb, hu]

theorem sat32_value (i : Int) : (sat32 i).1 = BitVec.ofInt 32 (max (-2 ^ 31) (min (2 ^ 31 - 1) i)) := by
  unfold sat32
  split
  · rw [show max (-2 ^ 31) (min (2 ^ 31 - 1) i) = -2 ^ 31 by omega]
    rfl
  · split
    · rw [show max (-2 ^ 31) (min (2 ^ 31 - 1) i) = 2 ^ 31 - 1 by omega]
      rfl
    · rw [show max (-2 ^ 31) (min (2 ^ 31 - 1) i) = i by omega]

/-- The running values of two members. -/
theorem ringResult_pair {t0 t1 : List W32} (hs : x.fs = .int32) (hd : x.fd = .int32) (ht : ringTermsOf x.terms 2 = [t0, t1]) :
    (ringResult x 2).1 = ((t0.zip t1).map fun p => (ringStep x.op .int32 p.1 p.2).1).flatMap fun v => leBytesOf 4 v.toNat := by
  unfold ringResult
  rw [ht]
  dsimp only
  rw [hs, hd]
  simp only [beq_self_eq_true, if_true, ringFold]
  rw [packRow_int32, List.map_map]
  rfl

theorem ringResult_bcast {t0 t1 : List W32} (hs : x.fs = .int32) (hd : x.fd = .int32) (hop : x.op = 2) (hl : t0.length = t1.length)
    (ht : ringTermsOf x.terms 2 = [t0, t1]) : ringResult x 2 = (t0.flatMap fun v => leBytesOf 4 v.toNat, 0) := by
  refine Prod.ext ?_ ?_
  · rw [ringResult_pair hs hd ht, hop]
    have : ((t0.zip t1).map fun p => (ringStep 2 .int32 p.1 p.2).1) = t0 := by
      simp only [ringStep, if_true]
      exact List.map_fst_zip (by omega)
    rw [this]
  · unfold ringResult
    rw [ht]
    dsimp only
    rw [hs, hd, hop]
    simp only [beq_self_eq_true, if_true, ringFold]
    rw [foldl_or_zero]
    · rw [foldl_or_zero]
      intro p hp
      obtain ⟨q, -, rfl⟩ := List.mem_map.mp hp
      rfl
    · intro p hp
      obtain ⟨q, -, rfl⟩ := List.mem_map.mp hp
      rw [convert_int32]

theorem ringResult_sum {t0 t1 : List W32} (hs : x.fs = .int32) (hd : x.fd = .int32) (hop : x.op = 0) (ht : ringTermsOf x.terms 2 = [t0, t1]) :
    (ringResult x 2).1 = (t0.zip t1).flatMap fun p =>
      leBytesOf 4 (BitVec.ofInt 32 (max (-2 ^ 31) (min (2 ^ 31 - 1) (p.1.toInt + p.2.toInt)))).toNat := by
  rw [ringResult_pair hs hd ht, hop, List.flatMap_map]
  refine List.flatMap_congr fun p _ => ?_
  have : (ringStep 0 .int32 p.1 p.2).1 = (sat32 (p.1.toInt + p.2.toInt)).1 := by simp [ringStep]
  rw [this, sat32_value]

end

end Sys2Proof.Machine

namespace Sys2Proof.Machine
open Sys2Proof.Safety

section
variable {s : State} {c : Coll} {core : Nat} {ec : Fin 32}

/-- The word of core `k` is left with what a collective that has its results leaves it. -/
def State.collEnded (s t : State) (k : Fin 128) (c : Coll) (ws : List (W64 × List Byte)) (fl : W32) (tell st : List ReqKind) : State :=
  t.setEng k .c { s.eng k .c with flight := (s.eng k .c).flight.map (Flight.collEnds c.id fl (collReqs s c ws tell st)) }

section
variable {group : Nat} {x : RingRun} {y : RingTerms} (hg : s.groupColl group = some c)
  (hfind : s.fab.colls.find? (fun y => y.id == c.id) = some c) (hc : c.core = some (core, ec)) (hx : c.ring = some x) (hdrift : c.drift = none)
  (hlen : y.elems.length = x.n) (hrank : y.rank ≤ c.nmem) (hnew : ∀ z ∈ x.terms, z.rank ≠ y.rank)
include hg hfind hc hx hdrift hlen hrank hnew

/-- CRING: what a chunk from the west comes to, by what is here already. -/
theorem goes_ringChunk_progress :
    let all : Prop := ∀ r, r ≤ c.nmem → r = y.rank ∨ ∃ z ∈ x.terms, z.rank = r
    let out := ringResult { x with terms := x.terms ++ [y] } (c.nmem + 1)
    (¬ all → Goes (.ringChunkReceive group ⟨(c.rank + c.nmem) % (c.nmem + 1), s.cmd.incarn⟩ y true) s (s.termsKept group c x y)) ∧
    (all → Goes (.ringChunkReceive group ⟨(c.rank + c.nmem) % (c.nmem + 1), s.cmd.incarn⟩ y true) s
      (s.collEnded (s.termsKept group c x y) (coreIx core) c [(x.dst, out.1)] out.2 [] [])) := by
  intro all out
  have hgo := goes_ringChunk hg hfind hx hlen hrank hnew
  have hp := State.ringProgress_of_find (State.termsKept_colls (group := group) (x := x) (y := y) hfind) rfl
  refine ⟨fun hn => ?_, fun ha => ?_⟩
  · rw [hp, if_neg (mt ringAll_iff.mp hn)] at hgo
    exact hgo
  · have hcore : ({ c with ring := some { x with terms := x.terms ++ [y] } } : Coll).core = some (core, ec) := hc
    rw [hp, if_pos (ringAll_iff.mpr ha), State.endColl_core _ _ _ hcore] at hgo
    have hd : ({ c with ring := some { x with terms := x.terms ++ [y] } } : Coll).drift.isSome = false := by
      show c.drift.isSome = false
      rw [hdrift]
      rfl
    have hreqs : collReqs (s.termsKept group c x y) { c with ring := some { x with terms := x.terms ++ [y] } } [(x.dst, out.1)] [] [] =
        collReqs s c [(x.dst, out.1)] [] [] := by
      unfold collReqs
      rw [(s.termsKept_frame group c x y).2]
    rw [hd, (s.termsKept_frame group c x y).1] at hgo
    simp only [Bool.false_eq_true, if_false, statusReqs] at hgo
    rw [hreqs] at hgo
    exact hgo

/-- With the terms of both of two members: a broadcast takes those of rank 0, and the sum of INT32 saturates. -/
theorem goes_ringChunk_pair {a b : RingTerms} (hn : c.nmem = 1) (ht : x.terms = [a]) (hne : a.rank ≠ y.rank) (hb : b = if y.rank = 0 then y else a)
    (hal : a.elems.length = x.n) (ha : a.rank ≤ 1) (hs : x.fs = .int32) (hd : x.fd = .int32) :
    let e := if y.rank = 0 then a else y
    (x.op = 2 → Goes (.ringChunkReceive group ⟨(c.rank + c.nmem) % (c.nmem + 1), s.cmd.incarn⟩ y true) s
      (s.collEnded (s.termsKept group c x y) (coreIx core) c [(x.dst, b.elems.flatMap fun v => leBytesOf 4 v.toNat)] 0 [] [])) ∧
    (x.op = 0 → ∃ fl, Goes (.ringChunkReceive group ⟨(c.rank + c.nmem) % (c.nmem + 1), s.cmd.incarn⟩ y true) s
      (s.collEnded (s.termsKept group c x y) (coreIx core) c [(x.dst, (b.elems.zip e.elems).flatMap fun p =>
        leBytesOf 4 (BitVec.ofInt 32 (max (-2 ^ 31) (min (2 ^ 31 - 1) (p.1.toInt + p.2.toInt)))).toNat)] fl [] [])) := by
  intro e
  have hall : ∀ r, r ≤ c.nmem → r = y.rank ∨ ∃ z ∈ x.terms, z.rank = r := by
    intro r hr
    rw [ht]
    simp only [List.mem_singleton, exists_eq_left]
    omega
  have hgo := (goes_ringChunk_progress hg hfind hc hx hdrift hlen hrank hnew).2 hall
  have htwo : c.nmem + 1 = 2 := by omega
  rw [htwo] at hgo ⊢
  have hterms : ringTermsOf ({ x with terms := x.terms ++ [y] } : RingRun).terms 2 = [b.elems, e.elems] := by
    show ringTermsOf (x.terms ++ [y]) 2 = _
    rw [ht, List.singleton_append, ringTermsOf_pair ha (by omega) hne, hb]
    by_cases h : y.rank = 0
    · simp [e, h]
    · simp [e, h]
  have heq : b.elems.length = e.elems.length := by
    rw [hb]
    by_cases h : y.rank = 0
    · simp [e, h, hlen, hal]
    · simp [e, h, hlen, hal]
  refine ⟨fun hop => ?_, fun hop => ⟨(ringResult { x with terms := x.terms ++ [y] } 2).2, ?_⟩⟩
  · have hr : ringResult { x with terms := x.terms ++ [y] } 2 = _ := ringResult_bcast hs hd hop heq hterms
    simp only [hr] at hgo
    exact hgo
  · have hr : (ringResult { x with terms := x.terms ++ [y] } 2).1 = _ := ringResult_sum hs hd hop hterms
    simp only [hr] at hgo
    exact hgo

end

/-! ### Drift (R374, R375, R377) -/

theorem driftEvent_stale {group member inc : Nat} {f : State → Coll → DriftRun → State} (h : inc ≠ s.cmd.incarn) :
    driftEvent group ⟨member, inc⟩ s f = .next (s.send (.resetNak (s.memberPkg group member) s.cmd.incarn)) :=
  congrArg Host.Outcome.next (State.fromPeer_stale h)

theorem driftEvent_early {group member : Nat} {f : State → Coll → DriftRun → State} (hg : s.groupColl group = none) :
    driftEvent group ⟨member, s.cmd.incarn⟩ s f = .next s := by
  unfold driftEvent
  rw [State.fromPeer_here, hg]

theorem driftEvent_acts {group member : Nat} {x : DriftRun} {f : State → Coll → DriftRun → State} (hg : s.groupColl group = some c)
    (hx : c.drift = some x) (hself : member ≠ c.rank) (hmem : member ≤ c.nmem) :
    driftEvent group ⟨member, s.cmd.incarn⟩ s f = .next (f s c x) := by
  unfold driftEvent
  rw [State.fromPeer_here, hg]
  dsimp only
  rw [hx]
  exact congrArg Host.Outcome.next (if_neg (by omega))

/-- A word that does not stand at the end of a collective is not settled. -/
theorem State.settleWord_none {k : Fin 128} {id : Nat} (h : ∀ f ∈ (s.eng k .c).flight, ∀ r ∈ f.reqs, r.kind ≠ .collEnd id) :
    s.settleWord k id = s := by
  unfold State.settleWord
  extract_lets ends
  have hn : (s.eng k .c).flight.findIdx? (fun f => f.reqs.any ends) = none := by
    rw [List.findIdx?_eq_none_iff]
    intro f hf
    rw [List.any_eq_false]
    intro r hr he
    simp only [ends] at he
    split at he
    · rename_i n hk
      exact h f hf r hr (by rw [hk, beq_iff_eq.mp he])
    · cases he
  rw [hn]

theorem State.collProgress_none {d : Coll} (hfind : s.fab.colls.find? (fun y => y.id == c.id) = some d) (hc : d.core = some (core, ec))
    (h : ∀ f ∈ (s.eng (coreIx core) .c).flight, ∀ r ∈ f.reqs, r.kind ≠ .collEnd c.id) : s.collProgress c.id = s := by
  unfold State.collProgress
  rw [hfind]
  dsimp only
  rw [hc]
  exact State.settleWord_none h

/-- A change of the exchange that completes no step of it is kept, and nothing else happens. -/
theorem State.driftMove_kept {x z : DriftRun} (hfind : s.fab.colls.find? (fun y => y.id == c.id) = some c) (hc : c.core = some (core, ec))
    (hflight : ∀ f ∈ (s.eng (coreIx core) .c).flight, ∀ r ∈ f.reqs, r.kind ≠ .collEnd c.id)
    (hl : (z.allLoads (c.nmem + 1) && !x.allLoads (c.nmem + 1)) = false)
    (ho : (z.allOffers (c.nmem + 1) c.rank && !x.allOffers (c.nmem + 1) c.rank) = false)
    (hd : (z.complete (c.nmem + 1) c.rank && !x.complete (c.nmem + 1) c.rank) = false) :
    s.driftMove c x z = s.keepColl c { c with drift := some z } := by
  unfold State.driftMove
  dsimp only
  rw [hl, ho, hd]
  simp only [Bool.false_eq_true, if_false]
  rw [State.updColl_eq _ hfind]
  exact State.collProgress_none (State.find?_keepColl (d := { c with drift := some z }) hfind rfl) hc hflight

/-- The last change of the exchange: the word is left with its writes and its status. -/
theorem State.driftMove_complete {x z : DriftRun} (hfind : s.fab.colls.find? (fun y => y.id == c.id) = some c) (hc : c.core = some (core, ec))
    (hl : (z.allLoads (c.nmem + 1) && !x.allLoads (c.nmem + 1)) = false)
    (ho : (z.allOffers (c.nmem + 1) c.rank && !x.allOffers (c.nmem + 1) c.rank) = false)
    (hd : (z.complete (c.nmem + 1) c.rank && !x.complete (c.nmem + 1) c.rank) = true) :
    s.driftMove c x z = s.collEnded (s.keepColl c { c with drift := some z }) (coreIx core) c (z.writes (c.nmem + 1) c.rank) 0 [.collTell c.id]
      [.setE ec (BitVec.ofNat 64 (z.status (c.nmem + 1) c.rank))] := by
  unfold State.driftMove
  dsimp only
  rw [hl, ho, hd]
  simp only [Bool.false_eq_true, if_false, if_true]
  have hcore : ({ c with drift := some z } : Coll).core = some (core, ec) := hc
  rw [State.updColl_eq _ hfind, State.endColl_core _ _ _ hcore]
  rfl

/-- The exchange is not complete while a member has not replied. -/
theorem DriftRun.complete_of_silent {x : DriftRun} {members q member : Nat} (hm : member < members) (hself : member ≠ q)
    (h : ∀ o ∈ x.replies, o.member ≠ member) : x.complete members q = false := by
  unfold DriftRun.complete
  rw [Bool.and_eq_false_iff]
  refine .inr (List.all_eq_false.mpr ⟨member, List.mem_range.mpr hm, ?_⟩)
  have hno : x.replies.any (·.member == member) = false := by simpa using h
  simp [hself, hno]

theorem DriftRun.allOffers_of_loads {x : DriftRun} {members q : Nat} (h : x.allLoads members = false) : x.allOffers members q = false := by
  unfold DriftRun.allOffers
  rw [h, Bool.false_and]

theorem DriftRun.complete_of_offers {x : DriftRun} {members q : Nat} (h : x.allOffers members q = false) : x.complete members q = false := by
  unfold DriftRun.complete
  rw [h, Bool.false_and]

/-- No entry of a table has the key. -/
theorem not_any_of_ne {α : Type} {l : List (Nat × α)} {a : Nat} (h : ∀ e ∈ l, e.1 ≠ a) : ¬ (l.any fun e => e.1 == a) = true := by
  intro he
  obtain ⟨e, hl, ha⟩ := List.any_eq_true.mp he
  exact h e hl (beq_iff_eq.mp ha)

/-- The exchange once a member has said what it refuses, without records. -/
def DriftRun.replied (x : DriftRun) (member refused : Nat) (ov bad wr : Bool) : DriftRun :=
  { x with
    replies := x.replies ++ [⟨member, refused, ov, bad⟩]
    written := if wr = true ∧ member ∉ x.written then x.written ++ [member] else x.written }

/-- What this package sends a member that has said what it refuses: the records that it accepts. -/
def State.sendAccepted (s : State) (group : Nat) (c : Coll) (x : DriftRun) (member refused : Nat) : State :=
  let out := x.toSend (c.nmem + 1) c.rank member refused
  if out = [] then s else s.send (.driftRecords group member (s.incOf (s.memberPkg group member)) out)

theorem State.sendAccepted_frame (s : State) (group : Nat) (c : Coll) (x : DriftRun) (member refused : Nat) :
    (s.sendAccepted group c x member refused).fab = s.fab ∧ (∀ k e, (s.sendAccepted group c x member refused).eng k e = s.eng k e) ∧
      (s.sendAccepted group c x member refused).newReq = s.newReq := by
  unfold State.sendAccepted
  dsimp only
  split <;> exact ⟨rfl, fun _ _ => rfl, rfl⟩

theorem State.tellMember_open {member : Nat} {m : Nat → OutMsg} (h : s.fab.portsDown = []) :
    s.tellMember c member m = s.send (m (s.incOf (s.memberPkg c.group member))) := by
  unfold State.tellMember State.sendOut
  exact if_pos (State.portOpen_iff .. |>.mpr (.inr (.inl (by simp [h]))))

section
variable {group member : Nat} {x : DriftRun} (hg : s.groupColl group = some c) (hx : c.drift = some x) (hself : member ≠ c.rank)
  (hmem : member ≤ c.nmem)
include hg hx hself hmem

theorem goes_driftRecords {refused : Nat} {ov bad wr : Bool} (hall : x.allLoads (c.nmem + 1) = true)
    (hnew : ∀ o ∈ x.replies, o.member ≠ member) (hports : s.fab.portsDown = []) :
    Goes (.driftRecordsReceive group ⟨member, s.cmd.incarn⟩ [] refused ⟨ov, bad⟩ wr) s
      ((s.sendAccepted group c x member refused).driftMove c x (x.replied member refused ov bad wr)) := by
  have hno : x.replies.any (·.member == member) = false := by simpa using hnew
  have hsent : (if (true && !(x.toSend (c.nmem + 1) c.rank member refused).isEmpty) = true then
      s.tellMember c member fun i => .driftRecords group member i (x.toSend (c.nmem + 1) c.rank member refused) else s) =
      s.sendAccepted group c x member refused := by
    unfold State.sendAccepted
    rw [State.tellMember_open hports, State.groupColl_group hg]
    dsimp only
    by_cases h : x.toSend (c.nmem + 1) c.rank member refused = []
    · simp [h]
    · simp [h]
  have hwritten : (if (wr && !x.written.contains member) = true then x.written ++ [member] else x.written) =
      if wr = true ∧ member ∉ x.written then x.written ++ [member] else x.written := by simp
  show execDriftRecordsReceive group ⟨member, s.cmd.incarn⟩ [] refused ⟨ov, bad⟩ wr s = _
  unfold execDriftRecordsReceive
  dsimp only
  rw [driftEvent_acts hg hx hself hmem, hno, hall, Bool.not_false, hsent, hwritten]
  simp only [Bool.not_true, Bool.false_eq_true, if_false, if_true, List.filter_nil, List.take_nil, List.append_nil]
  rfl

variable (hc : c.core = some (core, ec))
include hc

theorem goes_driftLoads_fails {loads : List Nat} {b : Bool}
    (hbad : b = false ∨ loads.length ≠ (if x.desc.kmode = 3 then 0 else x.desc.bins)) :
    Goes (.driftLoadsReceive group ⟨member, s.cmd.incarn⟩ loads b) s
      ((s.setFab { s.fab with colls := s.fab.colls.filter fun y => y.id != c.id }).raise (coreIx core) 5 c.upc ⟨.channel, 0, 0xFF⟩) := by
  show execDriftLoadsReceive group ⟨member, s.cmd.incarn⟩ loads b s = _
  unfold execDriftLoadsReceive
  rw [driftEvent_acts hg hx hself hmem, if_pos hbad, State.failColl_core _ hc]
  rfl

variable (hfind : s.fab.colls.find? (fun y => y.id == c.id) = some c)
  (hflight : ∀ f ∈ (s.eng (coreIx core) .c).flight, ∀ r ∈ f.reqs, r.kind ≠ .collEnd c.id)
include hfind hflight

theorem goes_driftLoads {loads : List Nat} (hlen : loads.length = if x.desc.kmode = 3 then 0 else x.desc.bins) (hnew : ∀ l ∈ x.loads, l.1 ≠ member)
    (hmore : ({ x with loads := x.loads ++ [(member, loads)] } : DriftRun).allLoads (c.nmem + 1) = false) :
    Goes (.driftLoadsReceive group ⟨member, s.cmd.incarn⟩ loads true) s
      (s.keepColl c { c with drift := some { x with loads := x.loads ++ [(member, loads)] } }) := by
  show execDriftLoadsReceive group ⟨member, s.cmd.incarn⟩ loads true s = _
  unfold execDriftLoadsReceive
  have hno : ¬ (x.loads.any fun l => l.1 == member) = true := not_any_of_ne hnew
  have hoff := DriftRun.allOffers_of_loads (q := c.rank) hmore
  rw [driftEvent_acts hg hx hself hmem, if_neg (by simp [hlen]), if_neg hno, State.driftMove_kept hfind hc hflight]
  · rw [hmore, Bool.false_and]
  · rw [hoff, Bool.false_and]
  · rw [DriftRun.complete_of_offers hoff, Bool.false_and]

theorem goes_driftOffer {n : Nat} (hnew : ∀ o ∈ x.offers, o.1 ≠ member)
    (hmore : ({ x with offers := x.offers ++ [(member, n)] } : DriftRun).allOffers (c.nmem + 1) c.rank = false) :
    Goes (.driftOfferReceive group ⟨member, s.cmd.incarn⟩ n) s
      (s.keepColl c { c with drift := some { x with offers := x.offers ++ [(member, n)] } }) := by
  show execDriftOfferReceive group ⟨member, s.cmd.incarn⟩ n s = _
  unfold execDriftOfferReceive
  have hno : ¬ (x.offers.any fun o => o.1 == member) = true := not_any_of_ne hnew
  rw [driftEvent_acts hg hx hself hmem, if_neg hno, State.driftMove_kept hfind hc hflight]
  · exact Bool.and_not_self _
  · rw [hmore, Bool.false_and]
  · rw [DriftRun.complete_of_offers hmore, Bool.false_and]

theorem driftRecords_clauses {refused : Nat} {ov bad wr : Bool} (hall : x.allLoads (c.nmem + 1) = true) (hnew : ∀ o ∈ x.replies, o.member ≠ member) (hports : s.fab.portsDown = []) :
    let z := x.replied member refused ov bad wr
    let t := (s.keepColl c { c with drift := some z }).sendAccepted group c x member refused
    (z.complete (c.nmem + 1) c.rank = false → Goes (.driftRecordsReceive group ⟨member, s.cmd.incarn⟩ [] refused ⟨ov, bad⟩ wr) s t) ∧
    (z.complete (c.nmem + 1) c.rank = true → Goes (.driftRecordsReceive group ⟨member, s.cmd.incarn⟩ [] refused ⟨ov, bad⟩ wr) s
      (s.collEnded t (coreIx core) c (z.writes (c.nmem + 1) c.rank) 0 [.collTell c.id]
        [.setE ec (BitVec.ofNat 64 (z.status (c.nmem + 1) c.rank))])) := by
  intro z t
  have hgo := goes_driftRecords (refused := refused) (ov := ov) (bad := bad) (wr := wr) hg hx hself hmem hall hnew hports
  have hl : (z.allLoads (c.nmem + 1) && !x.allLoads (c.nmem + 1)) = false := Bool.and_not_self _
  have ho : (z.allOffers (c.nmem + 1) c.rank && !x.allOffers (c.nmem + 1) c.rank) = false := Bool.and_not_self _
  have hsilent : x.complete (c.nmem + 1) c.rank = false := DriftRun.complete_of_silent (by omega) hself hnew
  have ht : (s.sendAccepted group c x member refused).keepColl c { c with drift := some z } = t := by
    unfold State.sendAccepted t State.sendAccepted
    dsimp only
    split
    · rfl
    · rfl
  obtain ⟨hfab, heng, hreq⟩ := s.sendAccepted_frame group c x member refused
  have hfind' : (s.sendAccepted group c x member refused).fab.colls.find? (fun y => y.id == c.id) = some c := by
    rw [hfab]
    exact hfind
  refine ⟨fun hz => ?_, fun hz => ?_⟩
  · rw [State.driftMove_kept hfind' hc (by rw [heng]; exact hflight) hl ho (by rw [hz, Bool.false_and]), ht] at hgo
    exact hgo
  · rw [State.driftMove_complete hfind' hc hl ho (by rw [hz, hsilent]; rfl), ht] at hgo
    unfold State.collEnded collReqs at hgo ⊢
    rw [heng, hreq] at hgo
    exact hgo

end

theorem State.collDone_iff {x : DriftRun} (hfind : s.fab.colls.find? (fun y => y.id == c.id) = some c) (hx : c.drift = some x) :
    s.collDone c.id = true ↔ x.told = true ∧ ∀ r, r ≤ c.nmem → r ≠ c.rank → r ∈ x.written := by
  unfold State.collDone
  rw [hfind]
  dsimp only
  rw [hx]
  simp [or_iff_not_imp_left]

/-- What a member accepts of the ranks below `n` is at most what its buffers hold, and at most what they offer. -/
theorem DriftRun.accepted_sum (x : DriftRun) (members q n : Nat) :
    ((List.range n).map (x.accepted members q)).foldl (· + ·) 0 = min (x.before members q n) (x.desc.rcap + x.desc.ocap) := by
  induction n with
  | zero => simp [DriftRun.before]
  | succ n ih =>
    have hb : x.before members q (n + 1) = x.before members q n + x.offer members q n := by
      unfold DriftRun.before
      rw [List.range_succ, List.map_append, List.foldl_append]
      rfl
    rw [List.range_succ, List.map_append, List.foldl_append, ih, hb]
    simp only [List.map_cons, List.map_nil, List.foldl_cons, List.foldl_nil, DriftRun.accepted]
    omega

end

end Sys2Proof.Machine

namespace Sys2Proof.Machine
open Sys2Proof.Safety

/-! ### COLL nodes (R119, R372, R429) -/

/-- The ranges of a descriptor lie apart where none of them overlaps another. -/
theorem rangesOverlap_eq_false {l : List LeaseRange} :
    rangesOverlap l = false ↔ l.Pairwise fun a b => a.base + a.len ≤ b.base ∨ b.base + b.len ≤ a.base := by
  induction l with
  | nil => simp [rangesOverlap]
  | cons r l ih =>
    rw [rangesOverlap, Bool.or_eq_false_iff, ih, List.pairwise_cons]
    refine and_congr_left fun _ => ?_
    rw [List.any_eq_false]
    refine forall₂_congr fun x _ => ?_
    simp only [Bool.and_eq_true, decide_eq_true_eq]
    omega

theorem Record.bytes_length (r : Record) : r.bytes.length = 64 := by
  unfold Record.bytes
  simp only [List.length_append, leBytesOf_length]

theorem Record.bytes_drop (r : Record) : r.bytes.drop 56 = leBytesOf 8 r.info := by
  unfold Record.bytes
  exact List.drop_left' (by simp [leBytesOf_length])

theorem Record.bytes_take {r : Record} (hp : r.primary = true) (hs : r.step = false) (hr : r.resumed = false) :
    r.bytes.take 4 = [BitVec.ofNat 8 r.code, BitVec.ofNat 8 r.agent, 1, 0] := by
  have h1 (v : Nat) : leBytesOf 1 v = [BitVec.ofNat 8 v] := rfl
  have h2 : leBytesOf 2 1 = [1, 0] := by decide
  unfold Record.bytes
  rw [hp, hs, hr]
  simp [h1, h2]

/-- An entry of a descriptor as a range. -/
def collEntry (v i : Nat) : Option LeaseRange :=
  let e := bitsNat v (256 + 64 * i) 64
  if e / 2 ^ 41 % 2 ^ 22 = 0 then none else some ⟨e % 2 ^ 41 * 65536, e / 2 ^ 41 % 2 ^ 22 * 65536, e / 2 ^ 63 == 1⟩

/-- What a descriptor must be. -/
def CollFine (v : Nat) : Prop :=
  (v % 256 = 0xCC ∨ v % 256 = 0xCD) ∧ bitsNat v 24 40 = 0 ∧
    ((List.range 4).filterMap (collEntry v)).Pairwise fun a b => a.base + a.len ≤ b.base ∨ b.base + b.len ≤ a.base

theorem collRanges_cases (v : Nat) :
    (CollFine v → collRanges v = some ((List.range 4).filterMap (collEntry v))) ∧ (¬ CollFine v → collRanges v = none) := by
  have he : ((List.range 4).map fun i => leaseEntry (bitsNat v (8 * 0x20 + 64 * i) 64)) = (List.range 4).map (collEntry v) :=
    List.map_congr_left fun i _ => leaseEntry_of_lt (bitsNat_lt _ _ 64)
  have hrs : ((List.range 4).map fun i => leaseEntry (bitsNat v (8 * 0x20 + 64 * i) 64)).filterMap id = (List.range 4).filterMap (collEntry v) := by
    rw [he, List.filterMap_map]
    rfl
  have hbad : ((bitsNat v 0 8 ≠ 0xCC ∧ bitsNat v 0 8 ≠ 0xCD) ∨ bitsNat v 24 40 ≠ 0 ∨
      rangesOverlap ((List.range 4).filterMap (collEntry v)) = true) ↔ ¬ CollFine v := by
    rw [CollFine, ← rangesOverlap_eq_false, bitsNat_zero, show (2 : Nat) ^ 8 = 256 from rfl, ← Bool.not_eq_true]
    tauto
  unfold collRanges
  dsimp only
  rw [hrs]
  exact ⟨fun h => if_neg (by rw [hbad]; exact not_not_intro h), fun h => if_pos (hbad.mpr h)⟩

/-- What becomes of a COLL node whose descriptor has been asked for. -/
def State.collDesc (s : State) (q idx : Nat) : Fetch → Out
  | .got v t => match collRanges v with
    | none => .next (t.completeNode q idx (.status! stBadRecord))
    | some rs => .next ((t.updNode q idx fun x => { x with desc := v }).toLease q idx rs)
  | _ => .next (s.completeNode q idx (.status! stTranslation))

/-- A collective of a node has begun, or its node faults. -/
def State.collStart (s : State) (q idx pasid : Nat) : Except Trap State → Out
  | .error t => .next (s.failNode q idx pasid t)
  | .ok t => .next t

section
variable {s u : State} {q idx flat : Nat} {n : Node} (h : s.node? q idx = some n) (hk : n.cmd.kind = 4)
include h hk

theorem execColl_due (hp : n.phase = .due) : execColl q idx s =
    if bitsNat n.cmd.payload 0 64 % 64 ≠ 0 then .next (s.completeNode q idx (.status! stBadRecord))
    else s.collDesc q idx (s.fetchOwn n.pasid (bitsNat n.cmd.payload 0 64) 64) := by
  unfold execColl
  rw [h]
  dsimp only
  rw [if_neg (not_not_intro hk), hp]
  dsimp only
  split
  · rfl
  · cases s.fetchOwn n.pasid (bitsNat n.cmd.payload 0 64) 64 with
    | got v t =>
      unfold State.collDesc
      cases collRanges v with
      | none => rfl
      | some rs => rfl
    | missing a => rfl
    | failed => rfl

/-- The descriptor of a COLL node that is due. -/
theorem goes_coll_due (hp : n.phase = .due) :
    (bitsNat n.cmd.payload 0 64 % 64 ≠ 0 → Goes (.coll q idx) s (s.completeNode q idx ⟨6, 0, 0, 0⟩)) ∧
    (∀ e, bitsNat n.cmd.payload 0 64 % 64 = 0 → s.ownDests n.pasid (bitsNat n.cmd.payload 0 64) 64 .read = .error e →
      Goes (.coll q idx) s (s.completeNode q idx ⟨11, 0, 0, 0⟩)) ∧
    (bitsNat n.cmd.payload 0 64 % 64 = 0 → OwnAt s n.pasid (bitsNat n.cmd.payload 0 64) 64 .read flat u →
      (¬ CollFine (leNum (u.mem.read flat 64)) → Goes (.coll q idx) s (u.completeNode q idx ⟨6, 0, 0, 0⟩)) ∧
      (CollFine (leNum (u.mem.read flat 64)) → Goes (.coll q idx) s (u.updNode q idx fun x => { x with
        desc := leNum (u.mem.read flat 64), phase := .leasing
        ranges := (List.range 4).filterMap (collEntry (leNum (u.mem.read flat 64))), walk := .start }))) := by
  have hexec : exec (.coll q idx) s = _ := execColl_due h hk hp
  refine ⟨fun ha => hexec.trans (if_pos ha), fun e ha he => ?_, fun ha hat => ?_⟩
  · have hf : s.ownRead n.pasid (bitsNat n.cmd.payload 0 64) 64 = .error e := by
      unfold State.ownRead
      rw [he]
    rw [if_neg (not_not_intro ha)] at hexec
    refine hexec.trans ?_
    unfold State.collDesc State.fetchOwn
    rw [hf]
    cases e with
    | refused va w => rfl
    | missing va w => cases w with
      | true => rfl
      | false => rfl
  · have hf : s.fetchOwn n.pasid (bitsNat n.cmd.payload 0 64) 64 = .got (leNum (u.mem.read flat 64)) u := by
      unfold State.fetchOwn
      rw [State.ownRead_of_ownAt hat]
    rw [if_neg (not_not_intro ha), hf] at hexec
    generalize leNum (u.mem.read flat 64) = v at hexec ⊢
    unfold State.collDesc at hexec
    dsimp only at hexec
    obtain ⟨hgood, hbad⟩ := collRanges_cases v
    refine ⟨fun hn => hexec.trans (by rw [hbad hn]; rfl), fun hn => hexec.trans ?_⟩
    rw [hgood hn]
    exact congrArg Host.Outcome.next (State.updNode_updNode u q idx _ _ fun _ => rfl)

/-- A COLL node with its lease: the collective begins unless the package parks. -/
theorem goes_coll_ready {since : Nat} (hp : n.phase = .ready since) :
    (s.mgmt.pstate ≠ .active → Goes (.coll q idx) s s) ∧
    (s.mgmt.pstate = .active → ∀ t, s.beginColl n = .ok t → Goes (.coll q idx) s t) ∧
    (∀ x, s.mgmt.pstate = .active → s.beginColl n = .error x → Goes (.coll q idx) s (s.failNode q idx n.pasid x)) := by
  have he : execColl q idx s = if (s.mgmt.pstate != .active) = true then .next s else s.collStart q idx n.pasid (s.beginColl n) := by
    unfold execColl
    rw [h]
    dsimp only
    rw [if_neg (not_not_intro hk), hp]
    dsimp only
    split
    · rfl
    · cases s.beginColl n with
      | error e => rfl
      | ok t => rfl
  refine ⟨fun hn => he.trans (if_pos (by simpa using hn)), fun ha t ht => he.trans ?_, fun x ha hx => he.trans ?_⟩
  · rw [if_neg (by simp [ha]), ht, State.collStart]
  · rw [if_neg (by simp [ha]), hx, State.collStart]

omit hk in
/-- The record of a node that faults while the ring is full waits. -/
theorem State.failNode_waits {pasid : Nat} {x : Trap} (hw : s.cmd.frwait = []) (hon : s.cmd.frcfg.getLsbD 0 = true)
    (hsize : bitsNat s.cmd.frcfg.toNat 4 4 ≤ 10) (hfull : (s.cmd.frtail - s.cmd.frhead).toNat = 2 ^ (bitsNat s.cmd.frcfg.toNat 4 4 + 6)) :
    ∃ r, (s.failNode q idx pasid x).node? q idx = some { n with phase := .faulted ⟨1, x.code.toNat, 0, 0⟩ } ∧
      (s.failNode q idx pasid x).cmd.frwait = [r] ∧ r.who = .node q idx ∧ r.bytes.length = 64 ∧
      r.bytes.take 4 = [BitVec.ofNat 8 x.code.toNat, 8, 1, 0] ∧ r.bytes.drop 56 = leBytesOf 8 x.info.toNat := by
  unfold State.failNode
  extract_lets r
  have hpost (t : State) (ht : t.cmd = (s.setPhase q idx (.faulted ⟨stFault, x.code.toNat, 0, 0⟩)).cmd) :
      t.postRecords [⟨.node q idx, true, r.bytes⟩] = t.setCmd { t.cmd with frwait := [⟨.node q idx, true, r.bytes⟩] } := by
    have h0 : t.cmd.frwait = [] := by
      rw [ht]
      exact hw
    have hoff : (t.setCmd { t.cmd with frwait := [⟨.node q idx, true, r.bytes⟩] }).ringOff = false := by
      unfold State.ringOff
      rw [State.setCmd_cmd]
      dsimp only
      rw [ht]
      show (bitsNat s.cmd.frcfg.toNat 0 1 == 0 || decide (10 < bitsNat s.cmd.frcfg.toNat 4 4)) = false
      have hbit : bitsNat s.cmd.frcfg.toNat 0 1 ≠ 0 := by
        rw [bitsNat_zero]
        have : s.cmd.frcfg.toNat.testBit 0 = true := hon
        rw [Nat.testBit_zero, decide_eq_true_eq] at this
        omega
      simp [hbit, hsize]
    unfold State.postRecords
    rw [h0]
    dsimp only [List.nil_append, State.setCmd_cmd, List.length_cons, List.length_nil]
    unfold State.drainRecords
    dsimp only [State.setCmd_cmd]
    rw [hoff]
    simp only [Bool.false_eq_true, if_false]
    refine if_pos ?_
    rw [ht]
    exact hfull
  rw [hpost _ rfl]
  refine ⟨_, ?_, rfl, rfl, ?_, ?_, ?_⟩
  · have his : n.is q idx = true := List.find?_some (p := fun m : Node => m.is q idx) h
    exact find?_updFirst (f := fun m : Node => { m with phase := .faulted ⟨stFault, x.code.toNat, 0, 0⟩ }) h his
  · exact r.bytes_length
  · exact Record.bytes_take rfl rfl rfl
  · exact r.bytes_drop

end

end Sys2Proof.Machine

open Sys2Proof.Machine Sys2Proof.Safety in
/-- Settles O49: each message of a member, and each step of a COLL node, has its lemma. -/
theorem barriersAndCollectivesOfThePod : Obligations.BarriersAndCollectivesOfThePod := by
  refine ⟨?members, ?nodes⟩
  case members =>
    intro s group member hg now stale
    refine ⟨fun inc hinc => ⟨goes_podArrival_stale hg hinc, fun x b => goes_ringChunk_stale hinc, fun l b => driftEvent_stale hinc,
      fun n => driftEvent_stale hinc, fun l n b d w => driftEvent_stale hinc⟩, ?pod, ?token,
      fun hno => ⟨fun x b => goes_ringChunk_early hno, fun l b => driftEvent_early hno, fun n => driftEvent_early hno,
        fun l n b d w => driftEvent_early hno⟩, ?colls⟩
    case pod =>
      intro w members span all p _
      exact podArrival_clauses hg
    case token =>
      intro i r hi hr hfit at_ x
      exact ⟨fun ⟨j, hj, h⟩ => goes_trmTokenPass_away hi hj h, fun hgang => trmTokenPass_clauses hi hr hfit hgang⟩
    case colls =>
      intro c core ec hgc hfind hc k fails kept ends
      refine ⟨fun x y hx hdrift => ⟨?ringFails, ?ringDisagrees, ?ringGoes⟩,
        fun x hx hself hmem hflight => ⟨?loads, ?offers, ?records, ?done, ?accepts⟩⟩
      case ringFails => exact fun hbad => goes_ringChunk_fails hgc hc hx (.inr hbad)
      case ringDisagrees => exact goes_ringChunk_fails hgc hc hx (.inl rfl)
      case ringGoes =>
        intro hm hlen hrank hnew d t east u all
        subst hm
        exact ⟨(goes_ringChunk_progress hgc hfind hc hx hdrift hlen hrank hnew).1, fun a b hn ht hne hb hal ha hs hd =>
          goes_ringChunk_pair hgc hfind hc hx hdrift hlen hrank hnew hn ht hne hb hal ha hs hd⟩
      case loads =>
        intro loads
        exact ⟨goes_driftLoads_fails hgc hx hself hmem hc (.inl rfl), fun hbad => goes_driftLoads_fails hgc hx hself hmem hc (.inr hbad),
          fun hlen hnew hmore => goes_driftLoads hgc hx hself hmem hc hfind hflight hlen hnew hmore⟩
      case offers => exact fun n hnew hmore => goes_driftOffer hgc hx hself hmem hc hfind hflight hnew hmore
      case records =>
        intro refused ov bad wr hall hnew hports
        exact driftRecords_clauses hgc hx hself hmem hc hfind hflight hall hnew hports
      case done => exact State.collDone_iff hfind hx
      case accepts =>
        rw [DriftRun.accepted_sum]
        exact Nat.min_le_right ..
  case nodes =>
    intro s u q idx flat n h hk va bad
    refine ⟨fun hp => goes_coll_due h hk hp, fun since hp => ?_⟩
    obtain ⟨hparks, hbegins, hfails⟩ := goes_coll_ready h hk hp
    refine ⟨hparks, hbegins, fun x ha hx hw hon hsize hfull => ?_⟩
    obtain ⟨r, hr⟩ := State.failNode_waits h hw hon hsize hfull
    exact ⟨_, r, hfails x ha hx, hr⟩

end

section

/-! # Firn's words (O34)

How CSTASH, CUNST and CSDROP issue (R336 to R338), how Firn answers CUNST by the state of the slot (R337), and what ends its writes
and its fills (R169). -/

set_option Elab.async false

namespace Sys2Proof.Machine
open Sys2Proof.Safety

/-! ### Issuing a copy word (R318, R319) -/

section
variable {s : State} {k : Fin 128} {w : CgWord} {d : Core}

/-- Consuming tokens changes nothing but the token counters. -/
theorem core_of_issues {e : Engine} {t : Tok} (h : Issues s k e t d) : d = { s.core k with tok := d.tok } := by
  obtain ⟨-, hd⟩ := h
  rw [Core.consume_inv hd]
  exact Core.subToks_eq ..

/-- A word without a hazard is not held behind the words in flight (R319). -/
theorem copyHeld_of_noHazard {e : Engine} {t : Tok} (h : Issues s k e t d) {c : CDeps} (hz : NoHazard s k c.rd c.wr c.re c.we) :
    copyHeld d c = false := by
  have hc : d.c = s.eng k .c := eng_of_issues h .c
  unfold copyHeld
  rw [hc, List.any_eq_false]
  intro f hf
  rcases hz f hf with hdone | ⟨hreqs, hrd, hre, hwr, hwe⟩
  · simp [hdone]
  · have hheld : heldBy f c = false := by
      simpa [heldBy, or_imp, forall_and] using ⟨⟨⟨hrd, hre⟩, fun t ht => (hwr t ht).1, fun t ht => (hwr t ht).2⟩, hwe⟩
    have hstage : f.reqs.any (·.waitsAtStage) = false := by simpa using hreqs
    simp [hheld, hstage]

/-- A copy word that passes its checks issues with its requests. -/
theorem copyWord_issues (h : Issues s k .c w.tok d) {deps : Issue → CDeps} {body : Issue → State → CIss} {c : Core} {fl : Fl}
    {kinds : List ReqKind} {rd wr : List Nat} {re we : List (Fin 32)} (hdeps : deps (engIssue s k .c d) = ⟨rd, wr, re, we⟩)
    (hz : NoHazard s k rd wr re we) (hb : body (engIssue s k .c d) (s.setCore k d) = .go c fl (kinds.map (mkReq w.mod))) :
    copyWord w s deps body = .next (issued s k .c c { Flight.plain (engIssue s k .c d).upc w.tok.pt with
      cls := w.mod.oc.val, rd := rd, wr := wr, we := we.map (·.val), flags := fl, reqs := kinds.map (s.newReq w.mod.oc.val) } 0) := by
  have hheld : copyHeld (engIssue s k .c d).c (deps (engIssue s k .c d)) = false := by
    rw [hdeps]
    exact copyHeld_of_noHazard h hz
  have hreqs : kinds.map (s.newReq w.mod.oc.val) = (kinds.map (mkReq w.mod)).map fun r => { r with stamp := s.mem.mphase } := by
    rw [List.map_map]
    rfl
  refine engWord_issued h rfl ?_
  dsimp only
  rw [if_neg (by simp [hheld]), hb, hdeps, hreqs]
  dsimp only
  rw [show (engIssue s k .c d).k = k from rfl, State.setCore_setCore]
  rfl

/-- A Firn word that passes its checks changes what Firn holds and is in flight without requests. -/
theorem firnWord_issues (h : Issues s k .c w.tok d) {deps : Issue → CDeps} {body : Issue → State → Option Stages} {x : Stages}
    {rd : List Nat} (hdeps : deps (engIssue s k .c d) = { rd := rd }) (hz : NoHazard s k rd [] [] [])
    (hu : unstashing d w.mod.cx.val = false) (hb : body (engIssue s k .c d) (s.setCore k d) = some x) :
    firnWord w s deps body = .next (issued (s.setStages x) k .c d { Flight.plain (engIssue s k .c d).upc w.tok.pt with rd := rd } 0) := by
  have hheld : copyHeld (engIssue s k .c d).c (deps (engIssue s k .c d)) = false := by
    rw [hdeps]
    exact copyHeld_of_noHazard h hz
  have hu' : unstashing (engIssue s k .c d).c w.mod.cx.val = false := hu
  unfold firnWord
  rw [engWord_issues h (s1 := (s.setCore k d).setStages x) (f := { Flight.plain (engIssue s k .c d).upc w.tok.pt with rd := rd }) rfl
    (by dsimp only; rw [if_neg (by simp [hheld, hu']), hb, hdeps])]
  have hset : (s.setCore k d).setStages x = (s.setStages x).setCore k d := rfl
  unfold issued State.setEng State.eng
  rw [hset, State.setCore_core_self, State.setCore_setCore]
  rfl

/-- The stage of a step and its slots are the same with tokens consumed. -/
theorem stepStage_of_issues {e : Engine} {t : Tok} (h : Issues s k e t d) : (s.setCore k d).stepStage k = s.stepStage k := by
  have hi : d.inst = (s.core k).inst := by rw [core_of_issues h]
  unfold State.stepStage State.stepKeyOf State.instOf
  rw [State.setCore_core_self, hi]
  rfl

theorem slotOf_of_issues {e : Engine} {t : Tok} (h : Issues s k e t d) (n : Nat) : (s.setCore k d).slotOf k n = s.slotOf k n := by
  have hi : d.inst = (s.core k).inst := by rw [core_of_issues h]
  have hd : d.disp = (s.core k).disp := by rw [core_of_issues h]
  unfold State.slotOf State.stepKeyOf State.instOf
  rw [State.setCore_core_self, hi, hd]
  rfl

end

/-! ### CSTASH (R169, R170, R336) -/

/-- Bytes that the slots of a tag hold against its reservation (R170). -/
def tagHeld (slots : List Slot) (stage tag : Nat) : Nat :=
  ((slots.filter fun x => x.stage == stage && x.tag == tag).map Slot.bound).foldl (· + ·) 0

/-- A slot is dropped: by the word's policy, or where the reservation of its tag would be exceeded (R170, R336). -/
def StashDrops (slots : List Slot) (resv stage tag size policy : Nat) : Prop := policy = 2 ∨ resv < tagHeld slots stage tag + size

/-- What a CSTASH leaves in the place of the slot that it names. -/
theorem stashSlot_spec (slots : List Slot) (resv stage tag slot grank ctxid : Nat) (rows : List (List Byte)) (policy : Nat) (bad : List Nat) :
    ∃ x, stashSlot slots resv stage tag slot grank ctxid rows policy bad = (slots.filter fun y => !y.named stage tag slot grank) ++ [x] ∧
      (x.stage = stage ∧ x.tag = tag ∧ x.slot = slot ∧ x.grank = grank) ∧ x.writer = some ctxid ∧
      (StashDrops slots resv stage tag (boundSize rows) policy → x.state = .dropped ∧ x.held.rows = []) ∧
      (¬ StashDrops slots resv stage tag (boundSize rows) policy →
        x.state = .writing ∧ x.newRows = rows ∧ x.toSpill = (policy == 1)) := by
  unfold stashSlot
  extract_lets name old held drop before new
  have hiff : drop = true ↔ StashDrops slots resv stage tag (boundSize rows) policy := by
    simp [drop, held, StashDrops, tagHeld]
  refine ⟨new, rfl, ?_⟩
  by_cases hd : StashDrops slots resv stage tag (boundSize rows) policy
  · rw [show new = _ from if_pos (hiff.mpr hd)]
    exact ⟨⟨rfl, rfl, rfl, rfl⟩, rfl, fun _ => ⟨rfl, rfl⟩, fun hn => absurd hd hn⟩
  · rw [show new = _ from if_neg (mt hiff.mp hd)]
    exact ⟨⟨rfl, rfl, rfl, rfl⟩, rfl, fun h => absurd h hd, fun _ => ⟨rfl, rfl, rfl⟩⟩

/-- A source field of whole rows: a tile, or tz. -/
def rowSource : Option (Fin 48) → TileRef
  | some t => .tile t
  | none => .tz

/-- The rows that a source holds, whole (R336). -/
def Core.wholeRows (c : Core) (t : Option (Fin 48)) (row0 n : Nat) : List (List Byte) :=
  (List.range n).map fun j => match t with
    | some t => c.tileBytes t.val (row0 + j) 0 128
    | none => List.replicate 128 0

theorem Core.wholeRows_length (c : Core) (t : Option (Fin 48)) (row0 n : Nat) : (c.wholeRows t row0 n).length = n := by
  simp [Core.wholeRows]

section
variable {s : State} {k : Fin 128} {w : CgWord} {d : Core} {st : Stage} (hst : s.stepStage k = some st) (h : Issues s k .c w.tok d)

/-- A word that names no memory, no formats and no class, whose slot is one of the 16 (R322, R336). -/
def FirnFields (m : ModCG) : Prop :=
  m.fmt = 0 ∧ m.oc = 0 ∧ m.evf = false ∧ m.ea = 0 ∧ m.eb = 0 ∧ m.cx.val ≤ 15

include hst h

theorem exec_cstash_issues {t : Option (Fin 48)} (ht : (engIssue s k .c d).opnd 1 w.ops.s1 = .ok ⟨.r, rowSource t⟩)
    (hm : FirnFields w.mod) (hec : w.mod.ec = 0) (hzp : w.mod.zp = false) (hpol : w.mod.dfmt.val ≤ 2)
    (hrow : w.mod.row.val + (engIssue s k .c d).rowoff + (w.mod.nr.val + 1) ≤ 128)
    (hz : NoHazard s k (t.map (·.val)).toList [] [] []) (hu : unstashing d w.mod.cx.val = false) :
    ∃ bad, exec (.cstash w) s = .next (issued (s.setStages { s.stages with
      slots := stashSlot s.stages.slots st.desc.resv st.key (s.core k).disp.tag.toNat w.mod.cx.val (s.core k).disp.grank.toNat
        (s.core k).disp.ctxid.toNat (d.wholeRows t (w.mod.row.val + (engIssue s k .c d).rowoff) (w.mod.nr.val + 1)) w.mod.dfmt.val bad })
      k .c d { Flight.plain (engIssue s k .c d).upc w.tok.pt with rd := (t.map (·.val)).toList } 0) := by
  obtain ⟨hfmt, hoc, hevf, hea, heb, hcx⟩ := hm
  have hdisp : (engIssue s k .c d).c.disp = (s.core k).disp := by
    show d.disp = _
    rw [core_of_issues h]
  have hdeps : fieldTiles (engIssue s k .c d) 1 w.ops.s1 = (t.map (·.val)).toList := by
    unfold fieldTiles
    rw [ht]
    cases t <;> rfl
  have hok : (!cuse { dfmt := true, nr := true, row := true } w.mod || decide (15 < w.mod.cx.val) || decide (2 < w.mod.dfmt.val) ||
      decide (128 < w.mod.row.val + (engIssue s k .c d).rowoff + (w.mod.nr.val + 1))) = false := by
    simp [cuse, hfmt, hoc, hevf, hea, heb, hec, hzp, hcx, hpol, hrow]
  rw [exec_cstash, execCstash]
  refine Exists.imp (fun bad hb => firnWord_issues h (rd := (t.map (·.val)).toList) (by rw [hdeps]) hz hu hb) ?_
  dsimp only
  rw [show (engIssue s k .c d).k = k from rfl, stepStage_of_issues h, hst, ht]
  dsimp only
  rw [hok, hdisp]
  cases t with
  | some t => exact ⟨_, rfl⟩
  | none =>
    simp only [rowSource, Core.wholeRows, List.map_const', List.length_range]
    exact ⟨_, rfl⟩

/-! ### CUNST and CSDROP (R337, R338) -/

theorem exec_cunst_issues {t : Fin 48} (ht : (engIssue s k .c d).opnd 0 w.ops.d = .ok ⟨.r, .tile t⟩) (hm : FirnFields w.mod)
    (hdfmt : w.mod.dfmt = 0) (hrow : w.mod.row.val + (engIssue s k .c d).rowoff + (w.mod.nr.val + 1) ≤ 128)
    (hshape : (shapeOf d.tshape[t]).isSome = true) (hz : NoHazard s k [] [t.val] [] [w.mod.ec]) :
    CopyIssues (.cunst w) s k w d d [] [t.val] [w.mod.ec] 0
      [.unstash w.mod.cx.val t.val (w.mod.row.val + (engIssue s k .c d).rowoff) (w.mod.nr.val + 1) w.mod.zp w.mod.ec] := by
  obtain ⟨hfmt, hoc, hevf, hea, heb, hcx⟩ := hm
  have hdeps : fieldTiles (engIssue s k .c d) 0 w.ops.d = [t.val] := by
    unfold fieldTiles
    rw [ht]
  have hok : (!cuse { ec := true, nr := true, row := true, zp := true } w.mod || decide (15 < w.mod.cx.val) ||
      decide (128 < w.mod.row.val + (engIssue s k .c d).rowoff + (w.mod.nr.val + 1)) ||
      (shapeOf (engIssue s k .c d).c.tshape[t]).isNone) = false := by
    have hsome : (shapeOf (engIssue s k .c d).c.tshape[t]).isNone = false := Option.isNone_eq_false_iff.mpr hshape
    rw [hsome]
    simp [cuse, hfmt, hoc, hevf, hea, heb, hcx, hdfmt, hrow]
  rw [CopyIssues, exec_cunst, execCunst]
  refine copyWord_issues h (re := []) ?_ hz ?_
  · exact congrArg (CDeps.mk [] · [] [w.mod.ec]) hdeps
  · dsimp only
    rw [show (engIssue s k .c d).k = k from rfl, stepStage_of_issues h, hst, ht]
    dsimp only
    rw [hok]
    rfl

/-- CSDROP changes what Firn holds by its mark alone, and only where the slot holds something (R338). -/
theorem exec_csdrop_issues (hm : FirnFields w.mod) (hdfmt : w.mod.dfmt = 0) (hec : w.mod.ec = 0) (hzp : w.mod.zp = false)
    (hnr : w.mod.nr = 0) (hrow : w.mod.row = 0) (hz : NoHazard s k [] [] [] []) (hu : unstashing d w.mod.cx.val = false) :
    exec (.csdrop w) s = .next (issued (s.setStages
      (if (s.slotOf k w.mod.cx.val).any (·.state != .empty) then { s.stages with marks := s.stages.marks ++
        [⟨(s.core k).disp.ctxid.toNat, st.key, (s.core k).disp.tag.toNat, w.mod.cx.val, (s.core k).disp.grank.toNat⟩] }
      else s.stages)) k .c d (Flight.plain (engIssue s k .c d).upc w.tok.pt) 0) := by
  obtain ⟨hfmt, hoc, hevf, hea, heb, hcx⟩ := hm
  have hdisp : (engIssue s k .c d).c.disp = (s.core k).disp := by
    show d.disp = _
    rw [core_of_issues h]
  have hok : (!cuse {} w.mod || decide (15 < w.mod.cx.val)) = false := by
    simp [cuse, hfmt, hoc, hevf, hea, heb, hec, hzp, hcx, hdfmt, hnr, hrow]
  rw [exec_csdrop, execCsdrop]
  refine firnWord_issues h (rd := []) rfl hz hu ?_
  dsimp only
  rw [show (engIssue s k .c d).k = k from rfl, stepStage_of_issues h, slotOf_of_issues h, hst]
  dsimp only
  rw [hok, hdisp]
  exact (apply_ite some _ _ _).symm

end

theorem slotHolds_iff {o : Option Slot} : o.any (·.state != .empty) = true ↔ ∃ x, o = some x ∧ x.state ≠ .empty := by
  cases o <;> simp

/-! ### Firn answers CUNST (R169, R301, R337) -/

section
variable {s : State} {k : Fin 128} {idx n row slot : Nat} {a : ReqAt} {t : Fin 48} {zp : Bool} {ec : Fin 32}

/-- A request for a slot that may be performed is answered by what Firn holds. -/
theorem exec_copyDataReturn_unstash (h : Performs s k idx a (.unstash slot t.val row n zp ec)) :
    exec (.copyDataReturn k.val idx) s = .next (s.unstash k a slot t.val row n zp ec) := by
  obtain ⟨hfault, hreq, hfree, hasks⟩ := h
  have hkind : a.req.kind = .unstash slot t.val row n zp ec := by rw [hasks]
  have hfix : State.fixBefore k a (copyReqs (s.eng k .c)).length s = (s, true) := by
    cases (copyReqs (s.eng k .c)).length <;> simp [State.fixBefore, hfree]
  simp only [exec_copyDataReturn, execCopyDataReturn, coreIx_val, k.isLt, hfault, hreq, hkind, hfix, State.returnData]
  rfl

theorem State.unstash_gone (h : ∀ x, s.slotOf k slot = some x → x.state = .empty) :
    s.unstash k a slot t.val row n zp ec = s.raise k 5 a.flight.upc ⟨.stashGone, 0, BitVec.ofNat 64 slot⟩ := by
  unfold State.unstash
  cases hx : s.slotOf k slot with
  | none => rfl
  | some x =>
    simp only [h x hx]
    rfl

variable {x : Slot} (hx : s.slotOf k slot = some x)
include hx

theorem State.unstash_writing (hw : x.state = .writing) : s.unstash k a slot t.val row n zp ec = s := by
  simp only [State.unstash, hx, hw]

theorem State.unstash_dropped (hd : x.state = .dropped) :
    s.unstash k a slot t.val row n zp ec = performed (s.setCore k { s.core k with e := (s.core k).e.set ec 1 }) k a := by
  simp only [State.unstash, hx, hd]
  rfl

/-- What Firn answers where the slot holds data: the rows come from their pool. -/
def State.unstashHeld (s : State) (k : Fin 128) (a : ReqAt) (x : Slot) (t row n : Nat) (zp : Bool) (ec : Fin 32) : State :=
  match s.readSlot x with
  | .error tr => s.raise k 5 a.flight.upc tr
  | .ok (rows, bad, s1) =>
    match zp, bad.find? fun b => decide (b.1 < n) with
    | false, some (_, p) => s1.raise k 5 a.flight.upc (poisonTrap (w64 (s.slotVa x)) p)
    | _, _ =>
      let s2 := s1.unstashRows k a.f t row n rows bad
      performed (s2.setCore k (setE (s2.core k) ec 0)) k a

theorem State.unstash_held (hd : x.state ∈ [SlotState.kept, .spilled, .filling]) :
    s.unstash k a slot t.val row n zp ec = s.unstashHeld k a x t.val row n zp ec := by
  simp only [List.mem_cons, List.not_mem_nil, or_false] at hd
  unfold State.unstash State.unstashHeld
  rw [hx]
  rcases hd with hd | hd | hd <;> simp only [hd] <;> rfl

omit hx in
/-- A row that the tile takes comes from a poisoned sector (R301). -/
theorem State.unstashHeld_poisoned {rows : List (List Byte)} {j p : Nat} {bad : List (Nat × Nat)} {u : State} (hj : j < n)
    (hr : s.readSlot x = .ok (rows, (j, p) :: bad, u)) :
    s.unstashHeld k a x t.val row n false ec = u.raise k 5 a.flight.upc (poisonTrap (BitVec.ofNat 64 (s.slotVa x)) p) := by
  simp only [State.unstashHeld, hr, List.find?_cons, hj, decide_true]
  rfl

end

/-- Rows of 128 bytes go to a tile, zeros where there is none. -/
def Core.fillRows (c : Core) (t row n : Nat) (rows : List (List Byte)) : Core :=
  (List.range n).foldl (fun d i => d.setTileBytes t (row + i) 0 ((rows[i]?).getD (List.replicate 128 0))) c

theorem Core.fillRows_succ (c : Core) (t row n : Nat) (rows : List (List Byte)) : c.fillRows t row (n + 1) rows =
    (c.fillRows t row n rows).setTileBytes t (row + n) 0 ((rows[n]?).getD (List.replicate 128 0)) := by
  simp [Core.fillRows, List.range_succ]

theorem Core.fillRows_eq (c : Core) (t row n : Nat) (rows : List (List Byte)) :
    c.fillRows t row n rows = { c with tiles := (c.fillRows t row n rows).tiles } := by
  induction n with
  | zero => rfl
  | succ n ih =>
    rw [Core.fillRows_succ, ih]
    rfl

/-- Rows without poison fill the tile of the core and nothing else. -/
theorem State.unstashRows_sound (s : State) (k : Fin 128) (f t row n : Nat) (rows : List (List Byte)) :
    s.unstashRows k f t row n rows [] = s.setCore k ((s.core k).fillRows t row n rows) := by
  unfold State.unstashRows Core.fillRows
  induction n with
  | zero => simp
  | succ n ih =>
    rw [List.range_succ, List.foldl_append, List.foldl_append, ih]
    simp

/-- A byte of a tile after a write of a whole row. -/
theorem Core.tileByte_setTileBytes (c : Core) {t t' row r j : Nat} {bs : List Byte} (hbs : bs.length = 128) (hrow : row < 128)
    (hr : r < 128) (hj : j < 128) :
    (c.setTileBytes t row 0 bs).tileByte t' r j = if t' = t ∧ r = row then nth 0 bs j else c.tileByte t' r j := by
  unfold Core.setTileBytes Core.tileByte
  split_ifs with h
  · obtain ⟨rfl, rfl⟩ := h
    have hkey : tileKey t' r j = tileKey t' r 0 + j := by unfold tileKey; omega
    rw [hkey, sget_ssetRun _ _ _ _ _ (hbs ▸ hj)]
    simp [nth, hbs, hj]
  · refine sget_ssetRun_ne _ _ _ _ _ ?_
    rw [hbs]
    unfold tileKey
    omega

theorem Core.tileByte_fillRows (c : Core) {t row n : Nat} {rows : List (List Byte)} (hrows : ∀ bs ∈ rows, bs.length = 128)
    (hrow : row + n ≤ 128) {t' r j : Nat} (hr : r < 128) (hj : j < 128) :
    (c.fillRows t row n rows).tileByte t' r j =
      if t' = t ∧ row ≤ r ∧ r < row + n then nth 0 ((rows[r - row]?).getD []) j else c.tileByte t' r j := by
  induction n with
  | zero => rw [if_neg (by omega)]; rfl
  | succ n ih =>
    have hlen : ((rows[n]?).getD (List.replicate 128 0)).length = 128 := by
      cases h : rows[n]? with
      | none => simp
      | some bs => exact hrows bs (List.mem_of_getElem? h)
    rw [Core.fillRows_succ, Core.tileByte_setTileBytes _ hlen (by omega) hr hj, ih (by omega)]
    by_cases hhere : t' = t ∧ r = row + n
    · obtain ⟨rfl, rfl⟩ := hhere
      rw [if_pos ⟨rfl, rfl⟩, if_pos ⟨rfl, by omega, by omega⟩, Nat.add_sub_cancel_left]
      cases rows[n]? with
      | none => simp only [nth, Option.getD_none, List.getElem?_replicate_of_lt hj, Option.getD_some, List.getElem?_nil]
      | some bs => rfl
    · have hiff : (t' = t ∧ row ≤ r ∧ r < row + (n + 1)) ↔ (t' = t ∧ row ≤ r ∧ r < row + n) := by omega
      rw [if_neg hhere]
      simp only [hiff]

section
variable {s : State} {k : Fin 128} {n row : Nat} {a : ReqAt} {t : Fin 48} {zp : Bool} {ec : Fin 32} {x : Slot}

/-- The core whose tile has taken rows for which the word then reports success (R337). -/
def Core.restored (c : Core) (t row n : Nat) (rows : List (List Byte)) (ec : Fin 32) : Core := setE (c.fillRows t row n rows) ec 0

theorem Core.restored_eq (c : Core) (t row n : Nat) (rows : List (List Byte)) (ec : Fin 32) :
    c.restored t row n rows ec = { c with tiles := (c.restored t row n rows ec).tiles, e := c.e.set ec 0 } := by
  rw [Core.restored, Core.fillRows_eq]
  rfl

theorem State.unstashHeld_sound {rows : List (List Byte)} {u : State} (hr : s.readSlot x = .ok (rows, [], u)) :
    s.unstashHeld k a x t.val row n zp ec = performed (u.setCore k ((u.core k).restored t.val row n rows ec)) k a := by
  have hput : s.unstashHeld k a x t.val row n zp ec = performed ((u.unstashRows k a.f t.val row n rows []).setCore k
      (setE ((u.unstashRows k a.f t.val row n rows []).core k) ec 0)) k a := by
    simp only [State.unstashHeld, hr, List.find?_nil]
  rw [hput, State.unstashRows_sound, State.setCore_core_self, State.setCore_setCore]
  rfl

end

/-! ### Firn ends its writes and fills (R169, R301) -/

section
variable {s : State} {j : Nat} {x : Slot} (hx : s.stages.slots[j]? = some x)
include hx

theorem exec_firnWriteDone_idle (hw : x.state ≠ .writing) : exec (.firnWriteDone j) s = .next s := by
  simp only [exec_firnWriteDone, execFirnWriteDone, hx, hw]
  rfl

variable {g : Stage} (hg : s.stageOf x.stage = some g)
include hg

theorem exec_firnFillDone_idle (hf : x.state ≠ .filling) : exec (.firnFillDone j) s = .next s := by
  simp only [exec_firnFillDone, execFirnFillDone, hx, Option.bind_some, hg, hf]
  rfl

/-- New rows take the place of the old in the pool that `goesToSpill` names. -/
theorem exec_firnWriteDone_stores (hw : x.state = .writing) {h : Held} {u : State}
    (hput : s.putRows s.stages.slots g (s.goesToSpill g.desc x) x.newRows [] = .ok (h, u)) :
    ∃ b, exec (.firnWriteDone j) s = .next (u.setStages { u.stages with slots := u.stages.slots.set j { x with
      state := if s.goesToSpill g.desc x = true then .spilled else .kept, held := h, newRows := [], before := b } }) := by
  simp only [exec_firnWriteDone, execFirnWriteDone, hx, hw, hg, hput]
  exact ⟨_, rfl⟩

theorem exec_firnFillDone_fills (hf : x.state = .filling) {rows : List (List Byte)} {bad : List (Nat × Nat)} {u v : State}
    (hr : s.readSlot x = .ok (rows, bad, u)) (hput : u.storeRows g.pasid g.desc.kpool x.held.keep rows (bad.map (·.1)) = .ok v) :
    exec (.firnFillDone j) s = .next (v.setStages { v.stages with
      slots := v.stages.slots.set j { x with state := .kept, held := { x.held with rows := rows, spill := [] } } }) := by
  simp only [exec_firnFillDone, execFirnFillDone, hx, Option.bind_some, hg, hf, hr, hput]
  rfl

end

/-- By a slot's policy where the spill pool has room, else where the keep pool has none (R169). -/
theorem State.goesToSpill_eq (s : State) (d : StageDesc) (x : Slot) : s.goesToSpill d x =
    if x.toSpill = true then decide (runsLength (poolRuns s.stages.slots x.stage).2 + storedSize x.newRows ≤ d.slen)
    else decide (d.klen < runsLength (poolRuns s.stages.slots x.stage).1 + storedSize x.newRows) := rfl

end Sys2Proof.Machine

open Sys2Proof.Machine in
/-- Settles O34: each word issues with what its rule gives it to do, and Firn's answers follow the state of the slot. -/
theorem firnWords : Obligations.FirnWords := by
  unfold Obligations.FirnWords
  intro s k st hst own named
  refine ⟨fun w d h => ?words, fun idx n row slot a t zp ec h hrow => ?answers, fun j x g hd u hx hg => ?ends⟩
  case words =>
    intro i m n row0 field plain
    refine ⟨fun t ht hm hec hzp hpol hfit hz hu => ?stash, fun t ht hm hdfmt hfit hshape hz => ?unstash,
      fun hm hdfmt hec hzp hnr hr hz hu => ?drop⟩
    case stash =>
      intro rows held
      have hsrc : i.opnd 1 w.ops.s1 = .ok ⟨.r, rowSource t⟩ := by cases t <;> exact ht
      have hrows : d.wholeRows t row0 n = rows := rfl
      obtain ⟨bad, hexec⟩ := exec_cstash_issues hst h hsrc hm hec hzp hpol hfit hz hu
      obtain ⟨x, hx, hname, hwriter, hdrop, hkeep⟩ := stashSlot_spec s.stages.slots st.desc.resv st.key own.tag.toNat m.cx.val
        own.grank.toNat own.ctxid.toNat (d.wholeRows t row0 n) m.dfmt.val bad
      rw [boundSize, Core.wholeRows_length] at hdrop hkeep
      exact ⟨x, _, rfl, hname, hwriter, hdrop, hkeep, hx ▸ hexec⟩
    case unstash => exact exec_cunst_issues hst h ht hm hdfmt hfit hshape hz
    case drop =>
      have hexec := exec_csdrop_issues hst h hm hdfmt hec hzp hnr hr hz hu
      refine ⟨fun hx => ?_, fun hx => ?_⟩
      · rwa [if_pos (slotHolds_iff.mpr hx)] at hexec
      · rwa [if_neg (mt slotHolds_iff.mp fun ⟨x, hs, hne⟩ => hne (hx x hs))] at hexec
  case answers =>
    intro go
    have hanswer : ∀ y, s.unstash k a slot t.val row n zp ec = y → go y :=
      fun y hy => (exec_copyDataReturn_unstash h).trans (congrArg Host.Outcome.next hy)
    refine ⟨fun hx => hanswer _ (State.unstash_gone hx), fun x hx hs => hanswer _ (State.unstash_writing hx hs),
      fun x hx hs => hanswer _ (State.unstash_dropped hx hs), fun x tr hx hs hr => hanswer _ ?unread,
      fun x rows j p bad u hx hs hzp hj hr => hanswer _ ?poisoned, fun x rows u hx hs hr hlen => ?sound⟩
    case unread =>
      rw [State.unstash_held hx hs, State.unstashHeld, hr]
    case poisoned =>
      rw [State.unstash_held hx hs, hzp]
      exact State.unstashHeld_poisoned hj hr
    case sound =>
      refine ⟨_, hanswer _ ((State.unstash_held hx hs).trans (State.unstashHeld_sound hr)), Core.restored_eq .., fun t' r b hr' hb => ?_⟩
      refine (Core.tileByte_fillRows (u.core k) hlen hrow hr' hb).trans ?_
      simp only [Fin.ext_iff]
      cases rows[r - row]? <;> rfl
  case ends =>
    intro used size sp
    have hsp : s.goesToSpill g.desc x = sp := s.goesToSpill_eq g.desc x
    refine ⟨fun hw hput => ?_, fun rows bad v hf hr hput => exec_firnFillDone_fills hx hg hf hr hput,
      exec_firnWriteDone_idle hx, exec_firnFillDone_idle hx hg⟩
    rw [← hsp] at hput ⊢
    exact exec_firnWriteDone_stores hx hg hw hput

end

section

/-! # The microbatch scheduler (O43)

What an evaluation chooses and starts (R161 to R163), and how the members of a stage that spans packages report, take picks and start
them, and lose one another (R176). -/

set_option Elab.async false

namespace Sys2Proof.Machine
open Sys2Proof.Safety

/-! ### The stage of a key -/

section
variable {s : State} {key : Nat} {st : Stage} {f g : Stage → Stage}

theorem State.stageOf_key (h : s.stageOf key = some st) : st.key = key := by
  simpa using List.find?_some h

theorem State.stageOf_updStage (h : s.stageOf key = some st) (hf : (f st).key = st.key) :
    (s.updStage key f).stageOf key = some (f st) :=
  find?_updFirst h (by simp [hf, State.stageOf_key h])

theorem State.updStage_updStage (hg : ∀ x, (g x).key = x.key) :
    (s.updStage key g).updStage key f = s.updStage key fun x => f (g x) :=
  congrArg (fun l => s.setStages { s.stages with list := l }) (updFirst_updFirst (p := (·.key == key)) s.stages.list fun x => by rw [hg])

/-- A stage of one package reports to nobody (R176). -/
theorem State.report_alone (h : s.stageOf key = some st) (hs : st.spans = false) : s.report key = s := by
  simp only [State.report, h, hs, Bool.false_and, Bool.false_eq_true, if_false]

end

/-- A stage whose evaluation is done. -/
def Stage.settled (st : Stage) : Stage := { st with dirty := false }

/-! ### Queues and the bookkeeping of a pick (R159, R163) -/

section
variable (st : Stage) (p : SpanPick) (q : Nat) (l : List Entry)

/-- The entries of a queue change nothing but the queues. -/
theorem Stage.setEntries_eq : st.setEntries q l = { st with
    newQ := (st.setEntries q l).newQ, fwdQ := (st.setEntries q l).fwdQ, bwdQ := (st.setEntries q l).bwdQ
    wgtQ := (st.setEntries q l).wgtQ } := by
  unfold Stage.setEntries
  split <;> rfl

theorem Stage.entries_setEntries : (st.setEntries q l).entries q = l :=
  match q with
  | 0 => rfl
  | 1 => rfl
  | 2 => rfl
  | _ + 3 => rfl

theorem Stage.take_eq : st.take p = { st with
    newQ := (st.take p).newQ, fwdQ := (st.take p).fwdQ, bwdQ := (st.take p).bwdQ, wgtQ := (st.take p).wgtQ
    lastphase := some p.phase
    tags := if p.phase = 0 then st.tags ++ [⟨p.tag, false, true, p.var, p.wver⟩] else st.tags
    hold := if st.desc.latest || p.phase == 0 then st.hold.modify p.wver (· + 1) else st.hold
    adv := if p.adv then some p.tag else st.adv } := by
  unfold Stage.take
  dsimp only
  rw [Stage.setEntries_eq]

theorem Stage.take_key : (st.take p).key = st.key := by rw [Stage.take_eq]

theorem Stage.take_spans : (st.take p).spans = st.spans := by
  rw [Stage.take_eq]
  rfl

theorem Stage.setEntries_settled : st.settled.setEntries q l = (st.setEntries q l).settled :=
  match q with
  | 0 => rfl
  | 1 => rfl
  | 2 => rfl
  | _ + 3 => rfl

theorem Stage.take_settled : (st.settled.take p).settled = (st.take p).settled := by
  unfold Stage.take
  dsimp only
  rw [Stage.setEntries_settled]
  rfl

/-- The entry of the pick is taken, and the others of its queue stay. -/
theorem Stage.take_entries : (st.take p).entries (st.queueOf p.phase) =
    (st.entries (st.queueOf p.phase)).map fun e => if e.tag = p.tag then { e with taken := true } else e :=
  Stage.entries_setEntries st _ _

end

/-! ### Choosing (R161, R162) -/

section
variable {st : Stage} {now : Nat}

theorem Stage.choose_none (h : ∀ r ∈ st.rows, st.rowHolds r = false) : st.choose now = none := by
  have hno : ∀ p : PolicyRow → Bool, (st.rows.find? fun r => p r && st.rowHolds r) = none := fun p =>
    List.find?_eq_none.mpr fun r hr => by simp [h r hr]
  unfold Stage.choose
  rw [hno]
  exact hno _

/-- The first raised row that holds, else the first other that holds. -/
theorem Stage.choose_first {l1 l2 : List PolicyRow} {r : PolicyRow} (hrows : st.rows = l1 ++ r :: l2) (hr : st.rowHolds r = true)
    (hraised : st.raised now r = true → ∀ x ∈ l1, st.raised now x = true → st.rowHolds x = false)
    (hother : st.raised now r = false → (∀ x ∈ st.rows, st.raised now x = true → st.rowHolds x = false) ∧
      ∀ x ∈ l1, st.rowHolds x = false) : st.choose now = some r := by
  have hfirst : ∀ p : PolicyRow → Bool, p r = true → (∀ x ∈ l1, p x = true → st.rowHolds x = false) →
      (st.rows.find? fun x => p x && st.rowHolds x) = some r := fun p hp hl => by
    have hnone : (l1.find? fun x => p x && st.rowHolds x) = none :=
      List.find?_eq_none.mpr fun x hx => by simpa using hl x hx
    rw [hrows, List.find?_append, hnone]
    simp [hp, hr]
  unfold Stage.choose
  cases hc : st.raised now r with
  | true => rw [hfirst _ hc (hraised hc)]
  | false =>
    obtain ⟨hall, hl⟩ := hother hc
    have hnone : (st.rows.find? fun x => st.raised now x && st.rowHolds x) = none :=
      List.find?_eq_none.mpr fun x hx => by simpa using hall x hx
    rw [hnone]
    exact hfirst (fun x => !st.raised now x) (by simp [hc]) fun x hx _ => hl x hx

end

theorem oldestOf_mem {l : List Entry} {e : Entry} (h : oldestOf l = some e) : e ∈ l := by
  induction l generalizing e with
  | nil => cases h
  | cons y l ih =>
    cases ho : oldestOf l with
    | none =>
      simp only [oldestOf, ho, Option.some.injEq] at h
      exact h ▸ List.mem_cons_self
    | some x =>
      simp only [oldestOf, ho] at h
      split at h <;> cases h
      · exact List.mem_cons_of_mem _ (ih ho)
      · exact List.mem_cons_self

/-- The oldest entry is the one before every other by time, then by tag (R160). -/
theorem oldestOf_eq {l : List Entry} {e : Entry} (he : e ∈ l)
    (hmin : ∀ x ∈ l, x ≠ e → e.time < x.time ∨ e.time = x.time ∧ e.tag < x.tag) : oldestOf l = some e := by
  have hfirst : ∀ x ∈ l, x ≠ e → older e x = true ∧ older x e = false := fun x hx hne => by
    have := hmin x hx hne
    simp only [older, Bool.or_eq_true, Bool.and_eq_true, decide_eq_true_eq, beq_iff_eq, Bool.or_eq_false_iff, Bool.and_eq_false_imp,
      decide_eq_false_iff_not]
    omega
  have hself : older e e = false := by simp [older]
  induction l with
  | nil => cases he
  | cons y l ih =>
    have htail : e ∈ l → oldestOf l = some e := fun hm =>
      ih hm (fun x hx => hmin x (List.mem_cons_of_mem _ hx)) fun x hx => hfirst x (List.mem_cons_of_mem _ hx)
    by_cases hy : y = e
    · subst hy
      cases ho : oldestOf l with
      | none => simp only [oldestOf, ho]
      | some x =>
        have hx : older x y = false := by
          by_cases hxy : x = y
          · rw [hxy, hself]
          · exact (hfirst x (List.mem_cons_of_mem _ (oldestOf_mem ho)) hxy).2
        simp only [oldestOf, ho, hx, Bool.false_eq_true, if_false]
    · have hm : e ∈ l := (List.mem_cons.mp he).resolve_left (Ne.symm hy)
      simp only [oldestOf, htail hm, (hfirst y List.mem_cons_self hy).1, if_true]

/-! ### A step is dispatched (R161, R163) -/

theorem State.CoresOnly.stages {s t : State} (h : s.CoresOnly t) : t.stages = s.stages := by rw [h]

theorem State.clearQuads_stages (s : State) (ks : List (Fin 128)) (pasid : Nat) : (s.clearQuads ks pasid).stages = s.stages :=
  foldl_keep (fun t : State => t.stages = s.stages) _ _ s rfl fun t q _ h => by
    unfold clearQuad
    dsimp only
    split <;> exact h

/-- Launching an instance of a record with its own trip count: what the command processor and the stages are then. -/
theorem State.launch_keeps (s : State) {i : Inst} (h : i.trec.tripmem = false) (hnew : ∀ j ∈ s.cmd.insts, j.ctxid ≠ i.ctxid) :
    (s.launch i).cmd = { s.cmd with insts := s.cmd.insts ++ [i.begun i.trec.trip.toNat] } ∧ (s.launch i).stages = s.stages := by
  obtain ⟨-, hcmd, -⟩ := (s.setCmd { s.cmd with insts := s.cmd.insts ++ [i] }).clearQuads_keeps i.cores i.pasid
  have hstages := (s.setCmd { s.cmd with insts := s.cmd.insts ++ [i] }).clearQuads_stages i.cores i.pasid
  rw [State.launch, State.begin_eq _ h]
  generalize (s.setCmd { s.cmd with insts := s.cmd.insts ++ [i] }).clearQuads i.cores i.pasid = t at *
  have honly := (((t.updInst i.ctxid fun x => x.begun i.trec.trip.toNat).placeCores_spec { i with trip := i.trec.trip.toNat }).1.trans
    (State.joinSpans_spec _ i.cores).1).trans (State.updCores_spec _ i.cores fun c => c.startPart i.trec t.time).1
  refine ⟨honly.cmd.trans ?_, honly.stages.trans hstages⟩
  rw [State.updInst, State.setCmd_cmd, hcmd, State.setCmd_cmd,
    updFirst_append_last (fun j hj => beq_eq_false_iff_ne.mpr (hnew j hj)) (beq_self_eq_true _)]

/-- The step of a pick is the newest instance, of the pick's record and on the pick's gang. -/
def StartsStep (s t : State) (st : Stage) (p : SpanPick) : Prop :=
  ∃ i, t.cmd.insts = s.cmd.insts ++ [i] ∧ i.ctxid = s.cmd.nextCtx ∧ i.stage = some (st.key, p.gang) ∧ i.node = none ∧ i.tag = p.tag ∧
    i.phase = p.phase ∧ i.wver = p.wver ∧ i.var = p.var ∧ i.run = p.run ∧ i.pasid = st.pasid ∧ i.state = .running ∧
    ∃ r g, st.record p = some r ∧ st.gangs[p.gang]? = some g ∧ i.trec = { r with level := g.level, count := g.count } ∧ i.base = g.base

/-- A pick can start: its gang and its record are there, the record has its own trip count, and the next CTXID is not in use. -/
def Startable (s : State) (st : Stage) (p : SpanPick) (g : Gang) : Prop :=
  st.gangs[p.gang]? = some g ∧ (∀ j ∈ s.cmd.insts, j.ctxid ≠ s.cmd.nextCtx) ∧ ∃ r, st.record p = some r ∧ r.tripmem = false

theorem State.dispatchStep_starts {s : State} {st : Stage} {p : SpanPick} {g : Gang} (h : s.stageOf st.key = some st)
    (hp : Startable s st p g) : StartsStep s (s.dispatchStep st.key p) st p ∧ (s.dispatchStep st.key p).stages = s.stages := by
  obtain ⟨hg, hnew, r, hr, htrip⟩ := hp
  unfold State.dispatchStep
  rw [h]
  dsimp only
  rw [hr, hg]
  dsimp only
  exact ⟨⟨_, congrArg CmdProc.insts (State.launch_keeps _ htrip hnew).1,
      rfl, rfl, rfl, rfl, rfl, rfl, rfl, rfl, rfl, rfl, r, g, hr, hg, rfl, rfl⟩,
    (State.launch_keeps _ htrip hnew).2⟩

/-! ### A pick of a stage of one package (R161 to R163) -/

/-- What a pick of an entry by a row runs with (R163). -/
def Stage.pickOf (st : Stage) (r : PolicyRow) (e : Entry) (g : Nat) : SpanPick where
  gang := g
  tag := e.tag
  phase := r.ph
  wver := if r.adv = true ∨ st.desc.latest = true ∨ r.ph = 0 then st.cur else ((st.tagState e.tag).map (·.ver)).getD st.cur
  var := if r.ph = 0 then st.current.1 else ((st.tagState e.tag).map (·.var)).getD 0
  start := 0
  adv := r.adv
  run := st.nextRun e.tag r.ph

/-- Starting a step notes the pick, dispatches the step, and then prefetches. -/
theorem State.start_alone {s : State} {st : Stage} (hs : st.spans = false) (r : PolicyRow) (e : Entry) (g : Nat) : s.start st r e g =
    ((s.updStage st.key fun x => x.take (st.pickOf r e g)).dispatchStep st.key (st.pickOf r e g)).prefetch st.key r.ph r.pref := by
  unfold State.start
  extract_lets var ver v p s1
  have hvar : var = (st.pickOf r e g).var := by
    simp only [var, Stage.pickOf]
    cases st.tagState e.tag <;> rfl
  have hver : v = (st.pickOf r e g).wver := by
    simp only [v, ver, Stage.pickOf, Bool.or_eq_true, beq_iff_eq, or_assoc]
    cases st.tagState e.tag <;> rfl
  have hp : p = st.pickOf r e g := by
    simp only [p, hvar, hver]
    rfl
  simp only [s1, hp, State.startStep, hs, Bool.false_eq_true, if_false]

theorem State.prefetchSlots_keeps (st : Stage) (tags : List Nat) (reserved fuel n : Nat) (s : State) :
    (State.prefetchSlots st tags reserved fuel n s).cmd = s.cmd ∧
    (State.prefetchSlots st tags reserved fuel n s).stages.list = s.stages.list := by
  induction fuel generalizing n s with
  | zero => exact ⟨rfl, rfl⟩
  | succ fuel ih =>
    unfold State.prefetchSlots
    refine (ih (n + 1) _).imp (·.trans ?_) (·.trans ?_)
    all_goals
      split
      · dsimp only
        split <;> rfl
      · rfl

theorem State.prefetch_keeps (s : State) (key phase pref : Nat) :
    (s.prefetch key phase pref).cmd = s.cmd ∧ (s.prefetch key phase pref).stages.list = s.stages.list := by
  unfold State.prefetch
  split
  · exact ⟨rfl, rfl⟩
  · exact State.prefetchSlots_keeps ..

theorem State.stageOf_congr {s t : State} (h : t.stages.list = s.stages.list) (key : Nat) : t.stageOf key = s.stageOf key :=
  congrArg (List.find? fun st : Stage => st.key == key) h

theorem State.start_starts {s : State} {st : Stage} {r : PolicyRow} {e : Entry} {g : Nat} {x : Gang} (h : s.stageOf st.key = some st)
    (hs : st.spans = false) (hp : Startable s st (st.pickOf r e g) x) :
    StartsStep s (s.start st r e g) st (st.pickOf r e g) ∧
    (s.start st r e g).stageOf st.key = some (st.take (st.pickOf r e g)) := by
  have hkey := st.take_key (st.pickOf r e g)
  have htake : (s.updStage st.key fun x => x.take (st.pickOf r e g)).stageOf st.key = some (st.take (st.pickOf r e g)) :=
    State.stageOf_updStage h hkey
  have hp' : Startable (s.updStage st.key fun x => x.take (st.pickOf r e g)) (st.take (st.pickOf r e g)) (st.pickOf r e g) x := by
    rw [Stage.take_eq]
    exact hp
  obtain ⟨hstarts, hstages⟩ := State.dispatchStep_starts (hkey.symm ▸ htake) hp'
  rw [hkey] at hstarts hstages
  rw [State.start_alone hs]
  obtain ⟨hcmd, hlist⟩ := State.prefetch_keeps ((s.updStage st.key fun x => x.take (st.pickOf r e g)).dispatchStep st.key
    (st.pickOf r e g)) st.key r.ph r.pref
  refine ⟨?_, (State.stageOf_congr (hlist.trans (congrArg Stages.list hstages)) _).trans htake⟩
  unfold StartsStep at hstarts ⊢
  rw [hcmd]
  rw [Stage.take_eq] at hstarts
  exact hstarts

/-! ### An evaluation of a stage of one package (R161) -/

theorem oldestSuspended_none {l : List Inst} (h : ∀ i ∈ l, i.since = none) : oldestSuspended l = none := by
  induction l with
  | nil => rfl
  | cons i l ih =>
    simp only [oldestSuspended, h i List.mem_cons_self]
    exact ih fun j hj => h j (List.mem_cons_of_mem _ hj)

theorem State.resumes_none {l : List Inst} (h : ∀ i ∈ l, i.since = none) (fuel key : Nat) (s : State) :
    State.resumes fuel s l key = s := by
  cases fuel with
  | zero => rfl
  | succ fuel => simp only [State.resumes, oldestSuspended_none h]

theorem State.picks_idle {s : State} {key : Nat} {st : Stage} (h : s.stageOf key = some st)
    (hidle : s.freeGang st = none ∨ st.choose s.time = none) (fuel : Nat) : State.picks fuel s key = s := by
  cases fuel with
  | zero => rfl
  | succ fuel =>
    simp only [State.picks, h]
    rcases hidle with hidle | hidle
    · rw [hidle]
    · rw [hidle]
      cases s.freeGang st <;> rfl

section
variable {s : State} {st : Stage} (hst : s.stageOf st.key = some st) (hend : st.ending = none) (harm : st.armed = true)
  (hspan : st.spans = false) (hact : s.mgmt.pstate = .active) (hre : st.reissues = [])
  (hsusp : ∀ i ∈ s.cmd.insts, ∀ g, i.stage = some (st.key, g) → ∀ t0, i.state ≠ .suspended t0)
include hst hend harm hspan hact hre hsusp

/-- With nothing to restart and nothing suspended an evaluation makes picks. -/
theorem State.evaluate_alone : s.evaluate st.key =
    (((s.updStage st.key Stage.settled).picks st.gangs.length st.key).updStage st.key Stage.settled).report st.key := by
  have hmine : ∀ i ∈ s.cmd.insts.filter (fun i => i.stage.any fun g => g.1 == st.key), i.since = none := fun i hi => by
    obtain ⟨hi, hkey⟩ := List.mem_filter.mp hi
    obtain ⟨⟨key, g⟩, hs, hk⟩ := Option.any_eq_true _ _ |>.mp hkey
    obtain rfl : key = st.key := by simpa using hk
    cases hx : i.state <;> simp only [Inst.since, hx]
    exact absurd hx (hsusp i hi g hs _)
  have hdecides : s.decides st = true := by simp [State.decides, hspan]
  unfold State.evaluate
  rw [hst]
  dsimp -zeta only
  extract_lets s0 s1 mine s2 s3
  have h1 : s1 = s0 := by
    simp only [s1, hdecides, if_true, hre]
    rfl
  have h2 : s2 = s0 := by
    simp only [s2, mine, h1]
    exact State.resumes_none hmine _ _ _
  have h3 : s3 = s0.picks st.gangs.length st.key := by
    simp only [s3, h2, hdecides, Bool.and_true]
    exact if_pos (beq_iff_eq.mpr hact)
  rw [if_neg (by simp [harm, hend]), if_neg (by simp [hact]), h3]
  rfl

/-- Where no pick can be made, the evaluation is over. -/
theorem State.evaluate_idle (hidle : s.freeGang st = none ∨ ∀ r ∈ st.rows, st.rowHolds r = false) :
    s.evaluate st.key = s.updStage st.key Stage.settled := by
  have hsettled : (s.updStage st.key Stage.settled).stageOf st.key = some st.settled := State.stageOf_updStage hst rfl
  have hnone : (s.updStage st.key Stage.settled).freeGang st.settled = none ∨
      st.settled.choose (s.updStage st.key Stage.settled).time = none := hidle.imp id Stage.choose_none
  rw [State.evaluate_alone hst hend harm hspan hact hre hsusp, State.picks_idle hsettled hnone,
    State.updStage_updStage (g := Stage.settled) fun _ => rfl]
  exact State.report_alone hsettled hspan

/-- With the stage's one gang free the row that is chosen gives its oldest entry, which becomes a step. -/
theorem State.evaluate_picks {r : PolicyRow} {e : Entry} {g : Gang} (hgangs : st.gangs = [g]) (hfree : s.freeGang st = some 0)
    (hrow : st.choose s.time = some r) (he : oldestOf (st.eligible r.q) = some e) (hp : Startable s st (st.pickOf r e 0) g) :
    StartsStep s (s.evaluate st.key) st (st.pickOf r e 0) ∧
    (s.evaluate st.key).stageOf st.key = some (st.take (st.pickOf r e 0)).settled := by
  have hsettled : (s.updStage st.key Stage.settled).stageOf st.key = some st.settled := State.stageOf_updStage hst rfl
  obtain ⟨hstarts, htaken⟩ := State.start_starts (s := s.updStage st.key Stage.settled) (st := st.settled) (r := r) (e := e) (g := 0)
    hsettled hspan hp
  have hpicks : (s.updStage st.key Stage.settled).picks st.gangs.length st.key =
      (s.updStage st.key Stage.settled).start st.settled r e 0 := by
    have hfree' : (s.updStage st.key Stage.settled).freeGang st.settled = some 0 := hfree
    have hrow' : st.settled.choose (s.updStage st.key Stage.settled).time = some r := hrow
    have he' : oldestOf (st.settled.eligible r.q) = some e := he
    rw [hgangs]
    simp only [List.length_cons, List.length_nil, State.picks, hsettled, hfree', hrow', he']
  have hdone : (((s.updStage st.key Stage.settled).start st.settled r e 0).updStage st.key Stage.settled).stageOf st.key =
      some (st.take (st.pickOf r e 0)).settled :=
    (State.stageOf_updStage htaken rfl).trans (congrArg some (Stage.take_settled ..))
  rw [State.evaluate_alone hst hend harm hspan hact hre hsusp, hpicks, State.report_alone hdone ((Stage.take_spans ..).trans hspan)]
  exact ⟨hstarts, hdone⟩

end

/-! ### Rows that are raised (R161) -/

theorem exec_starveExpiry_row {s : State} {st : Stage} (h : s.stageOf st.key = some st) {j : Nat} {y : PolicyRow}
    (hy : st.rows[j]? = some y) :
    exec (.starveExpiry st.key j) s = .next (if st.raised s.time y then s.evaluate st.key else s) := by
  simp only [exec_starveExpiry, execStarveExpiry, h, hy]

/-! ### Member 0 takes reports (R176, R389) -/

section
variable {s : State} {st : Stage} {m inc : Nat} {fwd bwd retired free : List Nat} (hmember : s.member st = some 0) (hm : 0 < m)
  (hlen : m < st.desc.span.length)
include hmember hm hlen

theorem State.takesReport : (s.member st != some 0 || m == 0 || decide (st.desc.span.length ≤ m)) = false := by
  simp only [hmember, bne_self_eq_false, Bool.false_or, Bool.or_eq_false_iff, beq_eq_false_iff_ne, decide_eq_false_iff_not]
  omega

variable (hspan : s.spanStage st.desc.num = some st)
include hspan

theorem exec_spanReportReceive_stale (hinc : inc ≠ s.cmd.incarn) (faulted : List Nat) :
    exec (.spanReportReceive st.desc.num ⟨m, inc⟩ fwd bwd ⟨retired, faulted⟩ free) s =
      .next (s.send (.resetNak (nth 0 st.desc.span m) s.cmd.incarn)) := by
  simp only [exec_spanReportReceive, execSpanReportReceive, hspan, State.takesReport hmember hm hlen, State.fromPeer_stale hinc]
  rfl

/-- A report without faults takes the place of the member's last; with nothing that waits for every member it has no further effect. -/
theorem exec_spanReportReceive_here (hret : st.spanRetired = []) :
    exec (.spanReportReceive st.desc.num ⟨m, s.cmd.incarn⟩ fwd bwd ⟨retired, []⟩ free) s =
      .next (s.updStage st.key fun x => { x with
        dirty := true, reports := x.reports.filter (fun r => r.member != m) ++ [⟨m, fwd, bwd, retired, [], free⟩] }) := by
  simp only [exec_spanReportReceive, execSpanReportReceive, hspan, State.takesReport hmember hm hlen, State.fromPeer_here, hret,
    List.filter_nil, List.foldl_nil, List.length_nil, State.applySpan]
  rfl

end

/-! ### Picks that are to start (R176, R429) -/

/-- A bound gang that no step and no pick takes, and none of whose quads is held, is free (R161, R384). -/
theorem State.mem_freeGangs {s : State} {st : Stage} {n : Nat} {g : Gang} (hg : st.gangs[n]? = some g) (hb : g.bound = true)
    (ht : s.gangTaken st n = false) (hq : ∀ j, j < gangSize g.level g.count → s.quadHeld (g.base + j) = false) : n ∈ s.freeGangs st := by
  refine List.mem_map.mpr ⟨(g, n), List.mem_filter.mpr ⟨List.mk_mem_zipIdx_iff_getElem?.mpr hg, ?_⟩, rfl⟩
  have hquads : ((List.range (gangSize g.level g.count)).any fun j => s.quadHeld (g.base + j)) = false :=
    List.any_eq_false.mpr fun j hj => by simp [hq j (List.mem_range.mp hj)]
  simp [hb, ht, hquads]

/-- The stage with what keeps its gangs from picks left out: a gang is then taken by a step that holds its cores alone. -/
def Stage.unpicked (st : Stage) : Stage := { st with picks := [], spanRetired := [] }

theorem State.gangTaken_unpicked {s : State} {st : Stage} {n : Nat}
    (h : ∀ i ∈ s.cmd.insts, ¬ (i.stage = some (st.key, n) ∧ i.holdsCores = true)) : s.gangTaken st.unpicked n = false := by
  have hinsts : (s.cmd.insts.any fun i => i.stage == some (st.key, n) && i.holdsCores) = false :=
    List.any_eq_false.mpr fun i hi => by simpa using fun hs => by simpa [hs] using h i hi
  simp only [State.gangTaken, Stage.unpicked, hinsts, List.any_nil, Bool.and_false, Bool.or_self]

section
variable {s : State} {key : Nat} {st : Stage} (h : s.stageOf key = some st) {p : SpanPick} (hp : st.picks = [p])
include h hp

theorem State.startDue_early (hearly : s.time < p.start ∨ s.mgmt.pstate = .parked) : s.startDue 1 key = s := by
  have hno : (decide (p.start ≤ s.time) && (s.freeGangs st.unpicked).contains p.gang && s.mgmt.pstate != .parked) = false := by
    rcases hearly with hearly | hearly
    · simp [Nat.not_le.mpr hearly]
    · simp [hearly]
  simp only [Stage.unpicked] at hno
  simp only [State.startDue, h, hp, List.find?_cons, hno, List.find?_nil]

theorem State.startDue_due (htime : p.start ≤ s.time) (hpark : s.mgmt.pstate ≠ .parked) (hfree : p.gang ∈ s.freeGangs st.unpicked) :
    s.startDue 1 key = (s.updStage key fun x => { x with picks := x.picks.filter (· != p) }).dispatchStep key p := by
  have hgo : (decide (p.start ≤ s.time) && (s.freeGangs st.unpicked).contains p.gang && s.mgmt.pstate != .parked) = true := by
    simp [htime, hpark, hfree]
  simp only [Stage.unpicked] at hgo
  simp only [State.startDue, h, hp, List.find?_cons, hgo]

theorem exec_spanStartTime_one (hend : st.ending = none) : exec (.spanStartTime key) s = .next (s.startDue 1 key) := by
  simp only [exec_spanStartTime, execSpanStartTime, h, hend, hp]
  rfl

end

/-- A pick whose time has come becomes a step, and waits no more. -/
theorem State.startDue_starts {s : State} {st : Stage} (h : s.stageOf st.key = some st) {p : SpanPick} (hp : st.picks = [p])
    (htime : p.start ≤ s.time) (hpark : s.mgmt.pstate ≠ .parked) {g : Gang} (hs : Startable s st p g) (hb : g.bound = true)
    (hq : ∀ n, n < gangSize g.level g.count → s.quadHeld (g.base + n) = false)
    (ht : ∀ i ∈ s.cmd.insts, ¬ (i.stage = some (st.key, p.gang) ∧ i.holdsCores = true)) :
    StartsStep s (s.startDue 1 st.key) st p ∧ (s.startDue 1 st.key).stageOf st.key = some { st with picks := [] } := by
  rw [State.startDue_due h hp htime hpark (State.mem_freeGangs hs.1 hb (State.gangTaken_unpicked ht) hq)]
  have hrest : (s.updStage st.key fun x => { x with picks := x.picks.filter (· != p) }).stageOf st.key = some { st with picks := [] } := by
    refine (State.stageOf_updStage h rfl).trans ?_
    simp [hp]
  obtain ⟨hstarts, hstages⟩ := State.dispatchStep_starts (st := { st with picks := [] }) hrest hs
  exact ⟨hstarts, (State.stageOf_congr (congrArg Stages.list hstages) _).trans hrest⟩

/-! ### Another member takes a pick (R176, R389) -/

theorem State.takesPick {s : State} {st : Stage} {j : Nat} (hmember : s.member st = some j) (hj : j ≠ 0) (harm : st.armed = true) :
    (!(s.member st).any (· != 0) || !st.armed) = false := by simp [hmember, hj, harm]

theorem exec_spanPickReceive_stale {s : State} {st : Stage} (hspan : s.spanStage st.desc.num = some st) {gang tag phase wver var t j : Nat}
    {adv : Bool} (hmember : s.member st = some j) (hj : j ≠ 0) (harm : st.armed = true) {inc : Nat} (hinc : inc ≠ s.cmd.incarn) :
    exec (.spanPickReceive st.desc.num inc gang tag ⟨phase, wver, var⟩ t adv) s =
      .next (s.send (.resetNak (nth 0 st.desc.span 0) s.cmd.incarn)) := by
  simp only [exec_spanPickReceive, execSpanPickReceive, hspan, State.takesPick hmember hj harm, State.fromPeer_stale hinc]
  rfl

/-- The books of a member that takes a pick: it waits to start, and a first run is noted like a pick of the member's own. -/
def Stage.receivePick (st x : Stage) (p : SpanPick) : Stage :=
  let y := (if p.run = 1 then { x.take p with cur := if p.phase = 0 || st.desc.latest then p.wver else x.cur } else x).countRun p
  { y with picks := y.picks.filter (fun r => !(r.tag == p.tag && r.phase == p.phase)) ++ [p] }

theorem exec_spanPickReceive_here {s : State} {st : Stage} (hspan : s.spanStage st.desc.num = some st) {j : Nat}
    (hmember : s.member st = some j) (hj : j ≠ 0) (harm : st.armed = true) (gang tag phase wver var t : Nat) (adv : Bool) :
    exec (.spanPickReceive st.desc.num s.cmd.incarn gang tag ⟨phase, wver, var⟩ t adv) s =
      .next (((s.dropStep st tag phase).updStage st.key fun x =>
        st.receivePick x ⟨gang, tag, phase, wver, var, t, adv, st.nextRun tag phase⟩).startDue (st.picks.length + 1) st.key) := by
  simp only [exec_spanPickReceive, execSpanPickReceive, hspan, State.takesPick hmember hj harm, State.fromPeer_here]
  rfl

/-- The first pick of a step, where no other waits. -/
def Stage.takeFirst (st : Stage) (p : SpanPick) : Stage :=
  { st.take p with
    cur := if p.phase = 0 ∨ st.desc.latest = true then p.wver else st.cur
    runs := sset 0 st.runs (tagKey p.tag p.phase) p.run
    picks := [p] }

theorem Stage.receivePick_first {st : Stage} (hpicks : st.picks = []) {p : SpanPick} (hrun : p.run = 1) :
    st.receivePick st p = st.takeFirst p := by
  unfold Stage.receivePick Stage.takeFirst
  rw [if_pos hrun, Stage.take_eq]
  simp [Stage.countRun, hpicks]

theorem State.dropStep_none {s : State} {st : Stage} {tag phase : Nat}
    (h : ∀ i ∈ s.cmd.insts, ∀ g, ¬ (i.stage = some (st.key, g) ∧ i.tag = tag ∧ i.phase = phase)) : s.dropStep st tag phase = s := by
  have hnone : (s.cmd.insts.filter fun i => (i.stage.any fun g => g.1 == st.key) && i.tag == tag && i.phase == phase) = [] := by
    refine List.filter_eq_nil_iff.mpr fun i hi hit => ?_
    simp only [Bool.and_eq_true, beq_iff_eq, Option.any_eq_true] at hit
    obtain ⟨⟨⟨⟨key, g⟩, hs, rfl⟩, htag⟩, hphase⟩ := hit
    exact h i hi g ⟨hs, htag, hphase⟩
  rw [State.dropStep, hnone, List.foldl_nil]

/-- A first pick that is to start later waits, and the stage keeps the books of it. -/
theorem exec_spanPickReceive_first {s : State} {st : Stage} (hspan : s.spanStage st.desc.num = some st)
    (hst : s.stageOf st.key = some st) {gang tag phase wver var t j : Nat} {adv : Bool} (hmember : s.member st = some j) (hj : j ≠ 0)
    (harm : st.armed = true) (hpicks : st.picks = []) (htime : s.time < t) (hruns : sget 0 st.runs (tagKey tag phase) = 0)
    (hnone : ∀ i ∈ s.cmd.insts, ∀ g, ¬ (i.stage = some (st.key, g) ∧ i.tag = tag ∧ i.phase = phase)) :
    ∃ f, exec (.spanPickReceive st.desc.num s.cmd.incarn gang tag ⟨phase, wver, var⟩ t adv) s = .next (s.updStage st.key f) ∧
      (s.updStage st.key f).stageOf st.key = some (st.takeFirst ⟨gang, tag, phase, wver, var, t, adv, 1⟩) := by
  have hrun : st.nextRun tag phase = 1 := congrArg (· + 1) hruns
  have hbooks : (s.updStage st.key fun x => st.receivePick x ⟨gang, tag, phase, wver, var, t, adv, 1⟩).stageOf st.key =
      some (st.takeFirst ⟨gang, tag, phase, wver, var, t, adv, 1⟩) := by
    rw [← Stage.receivePick_first hpicks rfl]
    refine State.stageOf_updStage hst ?_
    rw [Stage.receivePick_first hpicks rfl]
    exact Stage.take_key ..
  have hwaits := State.startDue_early hbooks (p := ⟨gang, tag, phase, wver, var, t, adv, 1⟩) rfl (.inl htime)
  refine ⟨_, ?_, hbooks⟩
  rw [exec_spanPickReceive_here hspan hmember hj harm, State.dropStep_none hnone, hrun, hpicks]
  exact congrArg Host.Outcome.next hwaits

/-! ### A member is lost (R176, R382) -/

/-- With the fault ring full a record waits (R382). -/
theorem State.postRecords_full {s : State} (hw : s.cmd.frwait = []) (hon : s.cmd.frcfg.getLsbD 0 = true)
    (hsize : bitsNat s.cmd.frcfg.toNat 4 4 ≤ 10)
    (hfull : (s.cmd.frtail - s.cmd.frhead).toNat = 2 ^ (bitsNat s.cmd.frcfg.toNat 4 4 + 6)) (r : PendingRecord) :
    s.postRecords [r] = s.setCmd { s.cmd with frwait := [r] } := by
  have hbit : bitsNat s.cmd.frcfg.toNat 0 1 ≠ 0 := by
    have hodd : s.cmd.frcfg.toNat.testBit 0 = true := hon
    rw [Nat.testBit_zero, decide_eq_true_eq] at hodd
    rw [bitsNat_zero]
    omega
  have hoff : (s.setCmd { s.cmd with frwait := [r] }).ringOff = false := by
    simp only [State.ringOff, State.setCmd_cmd, beq_eq_false_iff_ne.mpr hbit, Bool.false_or]
    exact decide_eq_false (by omega)
  have hdrain : State.drainRecords 1 (s.setCmd { s.cmd with frwait := [r] }) = s.setCmd { s.cmd with frwait := [r] } := by
    simp only [State.drainRecords, State.setCmd_cmd, hoff, Bool.false_eq_true, if_false]
    exact if_pos hfull
  unfold State.postRecords
  rw [hw]
  exact hdrain

/-- A stage that ends while the ring is full keeps its ending, and its record waits. -/
theorem State.failStage_full {s : State} {st : Stage} (hst : s.stageOf st.key = some st) (hend : st.ending = none)
    (hw : s.cmd.frwait = []) (hon : s.cmd.frcfg.getLsbD 0 = true) (hsize : bitsNat s.cmd.frcfg.toNat 4 4 ≤ 10)
    (hfull : (s.cmd.frtail - s.cmd.frhead).toNat = 2 ^ (bitsNat s.cmd.frcfg.toNat 4 4 + 6)) (tag : Nat) (x : Trap) :
    ∃ r, (s.failStage st tag x).stageOf st.key = some { st with ending := some ⟨1, x.code.toNat, 0, 0⟩ } ∧
      (s.failStage st tag x).cmd = { s.cmd with frwait := [r] } ∧ r.who = .stage st.key ∧ r.bytes.length = 64 ∧
      r.bytes.take 4 = [BitVec.ofNat 8 x.code.toNat, 8, 1, 0] ∧ r.bytes.drop 56 = leBytesOf 8 x.info.toNat := by
  unfold State.failStage
  extract_lets r s1
  rw [if_neg (by simp [hend]), State.postRecords_full (s := s1) hw hon hsize hfull]
  exact ⟨_, State.stageOf_updStage hst rfl, rfl, rfl, r.bytes_length, Record.bytes_take rfl rfl rfl, r.bytes_drop⟩

theorem exec_spanMemberLost_other {s : State} {st : Stage} (hst : s.stageOf st.key = some st) (hspans : st.spans = true) {m pkg : Nat}
    (hpkg : st.desc.span[m]? = some pkg) (hm : s.member st ≠ some m) : exec (.spanMemberLost st.key m) s =
      .next (s.failStage st 0 ⟨.remoteLost, 0, BitVec.ofNat 64 (pkg * 2 ^ 32 + s.incOf pkg)⟩) := by
  have hgo : (st.spans && s.member st != some m) = true := by simp [hspans, hm]
  simp only [exec_spanMemberLost, execSpanMemberLost, hst, hpkg, hgo]
  rfl

end Sys2Proof.Machine

open Sys2Proof.Machine Sys2Proof.Safety in
/-- Settles O43: an evaluation settles the stage and makes its one pick; between the members of a spanning stage each message takes the
branch of its rule. -/
theorem schedulerSteps : Obligations.SchedulerSteps := by
  unfold Obligations.SchedulerSteps
  intro s st hst hend key num spans started startable
  refine ⟨fun harm hspan hact hre hsusp => ?evaluation, fun j y hy hraised => ?notRaised,
    fun m inc fwd bwd retired free hspans hspan hmember hm hlen => ⟨?reports, fun faulted hinc =>
      exec_spanReportReceive_stale hmember hm hlen hspan hinc faulted⟩,
    fun inc gang tag phase wver var t adv j hspans hspan hmember hj harm => ⟨exec_spanPickReceive_stale hspan hmember hj harm, ?picks⟩,
    fun p g hp => ⟨fun htime hpark hs hb hq ht => ?starts, fun hearly => ?early⟩,
    fun m pkg hspans hpkg hm hw hon hsize hfull => ?lost⟩
  case evaluation =>
    have halone : st.spans = false := Bool.eq_false_iff.mpr hspan
    refine ⟨fun hidle => congrArg Host.Outcome.next (State.evaluate_idle hst hend harm halone hact hre hsusp hidle),
      fun l1 l2 r e g hgangs hfree hrows hr hraised hother he hmin => ?_⟩
    intro mine ver var p q hs
    obtain ⟨hstarts, hstage⟩ := State.evaluate_picks hst hend harm halone hact hre hsusp hgangs hfree
      (Stage.choose_first hrows hr hraised hother) (oldestOf_eq he hmin) hs
    refine ⟨s.evaluate key, _, rfl, fun j y hy hup => (exec_starveExpiry_row hst hy).trans ?_, hstarts, hstage, rfl,
      st.take_entries p, ?_, ?_, ?_⟩
    · rw [hup]
      rfl
    · exact congrArg Stage.tags (st.take_eq p)
    · refine (congrArg Stage.hold (st.take_eq p)).trans ?_
      simp [p]
    · exact congrArg Stage.adv (st.take_eq p)
  case notRaised =>
    refine (exec_starveExpiry_row hst hy).trans ?_
    rw [hraised]
    rfl
  case reports =>
    rintro rfl hret
    exact exec_spanReportReceive_here hmember hm hlen hspan hret
  case picks =>
    rintro rfl hpicks htime hruns hnone
    obtain ⟨f, hgo, hstage⟩ := exec_spanPickReceive_first (gang := gang) (wver := wver) (var := var) (adv := adv) hspan hst hmember hj
      harm hpicks htime hruns hnone
    exact ⟨_, _, hgo, rfl, hstage, rfl, rfl, st.take_entries ⟨gang, tag, phase, wver, var, t, adv, 1⟩, rfl,
      congrArg Stage.adv (st.take_eq ⟨gang, tag, phase, wver, var, t, adv, 1⟩)⟩
  case starts =>
    obtain ⟨hstarts, hstage⟩ := State.startDue_starts hst hp htime hpark hs hb hq ht
    exact ⟨_, _, exec_spanStartTime_one hst hp hend, hstarts, hstage, rfl⟩
  case early =>
    exact (exec_spanStartTime_one hst hp hend).trans (congrArg Host.Outcome.next (State.startDue_early hst hp hearly))
  case lost =>
    obtain ⟨r, hstage, hcmd, hwho, hlen, htake, hdrop⟩ := State.failStage_full hst hend hw hon hsize hfull 0
      ⟨.remoteLost, 0, BitVec.ofNat 64 (pkg * 2 ^ 32 + s.incOf pkg)⟩
    exact ⟨_, _, r, exec_spanMemberLost_other hst hspans hpkg hm, hstage, rfl, hcmd, hwho, hlen, htake, hdrop⟩

end

section

/-! # Arithmetic, compares and branches of the control core (O1, O2)

Each word writes one register or predicate and goes on, or sets the pc; the values are those of the laws of the arithmetic
(R192 to R197). -/

set_option Elab.async false

namespace Sys2Proof.Machine

open Sys2Proof.Safety

/-! ### Values (R192, R194 to R196) -/

theorem aluR_runs {s : State} {k : Fin 128} {c : CtxId} {g : Guard} (h : Runs s k c g) (f : W64 → W64 → W64) (rd ra rb : Fin 32) :
    aluR f g rd ra rb s = .next (s.retX k c rd (f ((s.ctx k c).getX ra) ((s.ctx k c).getX rb))) := ctlX_runs h ..

theorem aluI_runs {s : State} {k : Fin 128} {c : CtxId} {g : Guard} (h : Runs s k c g) (f : W64 → W64 → W64) (rd ra : Fin 32)
    (imm : BitVec 12) : aluI f g rd ra imm s = .next (s.retX k c rd (f ((s.ctx k c).getX ra) (imm.signExtend 64))) := ctlX_runs h ..

/-- Number of one bits (R192). -/
theorem popc64_eq (a : W64) : popc64 a = BitVec.ofNat 64 ((List.range 64).countP a.getLsbD) := by
  rw [List.countP_eq_length_filter]
  rfl

/-- When a condition holds (R196). -/
def CondTrue (cd : Cond) (a b : W64) : Prop :=
  match cd with
  | .eq => a = b
  | .ne => a ≠ b
  | .lt => a.toInt < b.toInt
  | .ge => b.toInt ≤ a.toInt
  | .ltu => a.toNat < b.toNat
  | .geu => b.toNat ≤ a.toNat

theorem condHolds_iff (cd : Cond) (a b : W64) : condHolds cd a b = true ↔ CondTrue cd a b := by
  cases cd <;> simp [condHolds, CondTrue, BitVec.slt, BitVec.ult]

/-- PLOG looks its bit up by the two predicates (R196, log entry 32). -/
theorem plogBit_eq (tab : BitVec 4) (pa pb : Bool) : plogBit tab pa pb = tab.getLsbD (2 * pa.toNat + pb.toNat) := by
  cases pa <;> cases pb <;> rfl

end Sys2Proof.Machine

open Sys2Proof.Machine in
/-- Settles O1: each word is one of the shared forms that write a register or a predicate, with the value of its law. -/
theorem aluAndCompareResults : Obligations.AluAndCompareResults := by
  unfold Obligations.AluAndCompareResults
  refine ⟨fun s k c g rd ra rb h => ?registers, fun s k c g rd ra imm n up h => ?immediates,
    fun s k c g pd pa pb q rd ra rb imm tab h => ?predicates⟩
  case registers =>
    intro a b sh gives
    obtain ⟨n, hclz, hn⟩ := clz_spec a
    have hcount : gives (.clz g rd ra) (BitVec.ofNat 64 n) := by
      simp only [gives, exec_clz, execClz, aluR1, ctlX_runs h, hclz, a]
    simp only [gives, exec_add, execAdd, exec_sub, execSub, exec_and, execAnd, exec_or, execOr, exec_xor, execXor, exec_andn, execAndn,
      exec_sll, execSll, exec_srl, execSrl, exec_sra, execSra, exec_mul, execMul, exec_mulh, execMulh, exec_mulhu, execMulhu,
      exec_div, execDiv, exec_divu, execDivu, exec_rem, execRem, exec_remu, execRemu, exec_min, execMin, exec_max, execMax,
      exec_minu, execMinu, exec_maxu, execMaxu, exec_popc, execPopc, aluR1, ctlX_runs h, aluR_runs h, shAmt, mulHigh_eq, mulHighU_eq,
      divS_eq, divU_eq, remS_eq, remU_eq, minS_eq, maxS_eq, minU_eq, maxU_eq, popc64_eq, a, b, sh, true_and, and_true]
    exact ⟨n, hcount, hn⟩
  case immediates =>
    intro a gives
    simp only [gives, exec_addi, execAddi, exec_andi, execAndi, exec_ori, execOri, exec_xori, execXori, exec_slli, execSlli,
      exec_srli, execSrli, exec_srai, execSrai, exec_liu, execLiu, exec_addpc, execAddpc, aluI_runs h, ctlX_runs h, immU, a, and_self]
  case predicates =>
    intro x holds
    refine ⟨fun cd => ⟨_, condHolds_iff cd _ _, ?_⟩, fun cd => ⟨_, condHolds_iff cd _ _, ?_⟩, ?_, ?_⟩
    · rw [exec_cmp, execCmp, ctlP_runs h]
    · rw [exec_cmpi, execCmpi, ctlP_runs h]
      rfl
    · rw [exec_plog, execPlog, ctlP_runs h, plogBit_eq]
    · rw [exec_sel, execSel, ctlX_runs h]

namespace Sys2Proof.Machine

open Sys2Proof.Safety

/-! ### Branches, traps and the ends of parts -/

theorem immB_eq (off : BitVec 22) : immB off = 4 * off.signExtend 64 := by
  unfold immB
  bv_omega

section
variable {s : State} {k : Fin 128} {c : CtxId} {g : Guard} (h : Runs s k c g)

include h

theorem exec_br_runs (off : BitVec 22) :
    exec (.br g off) s = .next (s.setCtx k c ((s.ctx k c).setPc ((s.ctx k c).pc + 4 * off.signExtend 64))) := by
  rw [exec_br, execBr, ctl_runs h, immB_eq]

theorem exec_jal_runs (off : BitVec 22) : exec (.jal g off) s =
    .next (s.setCtx k c (((s.ctx k c).setX 31 ((s.ctx k c).pc + 4)).setPc ((s.ctx k c).pc + 4 * off.signExtend 64))) := by
  rw [exec_jal, execJal, ctl_runs h, immB_eq]

theorem exec_jalr_aligned (rd : Fin 32) {ra : Fin 32} {imm : BitVec 12} (ha : ((s.ctx k c).getX ra + imm64 imm).toNat % 4 = 0) :
    exec (.jalr g rd ra imm) s =
      .next (s.setCtx k c (((s.ctx k c).setX rd ((s.ctx k c).pc + 4)).setPc ((s.ctx k c).getX ra + imm64 imm))) := by
  rw [exec_jalr, execJalr, ctl_runs h]
  simp only [isAligned, ha]
  rfl

theorem exec_jalr_misaligned (rd : Fin 32) {ra : Fin 32} {imm : BitVec 12} (ha : ((s.ctx k c).getX ra + imm64 imm).toNat % 4 ≠ 0) :
    exec (.jalr g rd ra imm) s = .next (s.raiseCtx k c (.at .align ((s.ctx k c).getX ra + imm64 imm))) := by
  rw [exec_jalr, execJalr, ctl_runs h]
  simp only [isAligned, beq_eq_false_iff_ne.mpr ha]
  rfl

theorem exec_trap_takes (code : BitVec 12) (hf : (s.core k).fault = none) : ∃ t, exec (.trap g code) s = .next t ∧
    TakesFault s t k (ctxAgent c) (s.ctx k c).pc ⟨.trap, 0, code.setWidth 64⟩ := by
  refine ⟨s.raiseCtx k c ⟨.trap, 0, code.setWidth 64⟩, ?_, s.raise_takes k _ _ _ hf⟩
  rw [exec_trap, execTrap, ctl_runs h]

theorem exec_yield_runs : exec (.yield g) s =
    .next (if (s.core k).part = .epilogue then s.raiseCtx k c (.plain .illegalOperand) else endPart s k c) := by
  rw [exec_yield, execYield, ctl_runs h]
  by_cases hp : (s.core k).part = .epilogue <;> simp [hp]

theorem exec_done_runs : exec (.done g) s =
    .next (if (s.core k).part = .epilogue then endPart s k c else s.raiseCtx k c (.plain .illegalOperand)) := by
  rw [exec_done, execDone, ctl_runs h]
  by_cases hp : (s.core k).part = .epilogue <;> simp [hp]

end

end Sys2Proof.Machine

open Sys2Proof.Machine in
/-- Settles O2: a branch sets the pc, TRAP raises its fault, and the part decides between YIELD and DONE. -/
theorem branchesTrapsAndPartEnds : Obligations.BranchesTrapsAndPartEnds := by
  unfold Obligations.BranchesTrapsAndPartEnds
  refine ⟨fun s k c g off rd ra imm h => ⟨exec_br_runs h off, exec_jal_runs h off, exec_jalr_aligned h rd, exec_jalr_misaligned h rd⟩,
    fun s k c g code h => ?_⟩
  intro ended illegal agent
  have hagent : agent = ctxAgent c := by cases c <;> rfl
  refine ⟨fun hf => hagent ▸ exec_trap_takes h code hf, fun hp => ?other, fun hp => ?epilogue⟩
  case other => exact ⟨by rw [exec_yield_runs h, if_neg hp]; rfl, by rw [exec_done_runs h, if_neg hp]⟩
  case epilogue => exact ⟨by rw [exec_yield_runs h, if_pos hp], by rw [exec_done_runs h, if_pos hp]; rfl⟩

end

section

/-! # Loads and stores of the control core (O4, O5)

What the checks of an access answer where its bytes lie in a scratchpad or in the data L1, and then the words (R188 to R198). -/

set_option Elab.async false

namespace Sys2Proof.Machine

open Sys2Proof.Safety

section
variable {s : State} {k : Fin 128} {c : CtxId}

/-! ### Stores under way (R203, R346) -/

theorem storesPending_iff (s : State) (k : Fin 128) (c : CtxId) (has : Nat → Bool) : storesPending s k c has = true ↔
    ∃ r ∈ s.fab.remote, r.core = k.val ∧ r.who = .context c ∧ r.write = true ∧ has r.cls = true := by
  simp [storesPending, and_assoc]

theorem noStores_iff {cls : Nat} : NoStores s k c cls ↔ storesPending s k c (· == cls) = false := by
  rw [← Bool.not_eq_true, storesPending_iff]
  simp [NoStores]

theorem not_noStores_iff {cls : Nat} : ¬ NoStores s k c cls ↔ storesPending s k c (· == cls) = true := by
  rw [noStores_iff, Bool.not_eq_false]

/-! ### Bytes of a scratchpad (R189) -/

section
variable {ea : W64} {q : Fin 32} {off cls n : Nat}

theorem fifoOf_of_padAt (h : PadAt s k ea n q off) (hn : 0 < n) : s.fifoOf q off = none := by
  have hf := padAt_notFifo h hn
  obtain ⟨-, hg, -⟩ := h
  rw [hg, Bool.true_and] at hf
  rw [State.fifoOf, hf]
  rfl

theorem loadBytes_waits (hr : (s.ctx k c).remote = none) (hw : ¬ NoStores s k c cls) (ea : W64) (n : Nat) :
    s.loadBytes k c ea cls n = .wait s := by
  simp only [State.loadBytes, hr, not_noStores_iff.mp hw, if_true]

theorem storeBytes_waits (hw : ¬ NoStores s k c cls) (ea : W64) (bs : List Byte) : s.storeBytes k c ea cls bs = .wait s := by
  simp only [State.storeBytes, not_noStores_iff.mp hw, if_true]

theorem loadBytes_pad (hr : (s.ctx k c).remote = none) (hw : NoStores s k c cls) (h : PadAt s k ea n q off) (hn : 0 < n)
    (hp : s.mem.poisonedAt (sramFlat q off) n = none) : s.loadBytes k c ea cls n = .ok (s.mem.read (sramFlat q off) n) s := by
  simp [State.loadBytes, hr, noStores_iff.mp hw, h.1, fifoOf_of_padAt h hn, padAt_check h hn, hp]

theorem storeBytes_pad (hw : NoStores s k c cls) {bs : List Byte} (h : PadAt s k ea bs.length q off) (hn : 0 < bs.length) :
    s.storeBytes k c ea cls bs = .ok () (s.setMem (s.mem.write (sramFlat q off) bs)) := by
  simp [State.storeBytes, noStores_iff.mp hw, h.1, fifoOf_of_padAt h hn, padAt_check h hn]

end

/-! ### Bytes of the virtual space, through the data L1 (R190) -/

section
variable {ea : W64} {cls n flat : Nat} {u : State}

theorem loadBytes_here (hr : (s.ctx k c).remote = none) (hw : NoStores s k c cls) (h : HereAt s k ea n .read flat u) :
    s.loadBytes k c ea cls n = match u.l1Load k ea flat n with
      | .ok (bs, t) => .ok bs t
      | .trap t => .trap t
      | .wait => .wait u := by
  obtain ⟨host, m, l, hs, hv⟩ := h
  simp only [State.loadBytes, hr, noStores_iff.mp hw, hs, hv]
  rfl

theorem storeBytes_here (hw : NoStores s k c cls) {bs : List Byte} (h : HereAt s k ea bs.length .write flat u) :
    s.storeBytes k c ea cls bs = match u.l1Store k ea flat bs with
      | .ok t => .ok () t
      | .trap t => .trap t
      | .wait => .wait u := by
  obtain ⟨host, m, l, hs, hv⟩ := h
  simp only [State.storeBytes, noStores_iff.mp hw, hs, hv]
  rfl

theorem hereAt_onlyTlb {need : Need} (h : HereAt s k ea n need flat u) : OnlyTlb s u := by
  obtain ⟨_, _, _, -, hv⟩ := h
  exact virtual_onlyTlb hv

/-- A line that has no place in the data L1 holds a load up, and a store. -/
theorem l1Load_noRoom (hl : flat % 128 + n ≤ 128) (hr : (u.core k).hasRoom (flat / 128 * 128) = false) (va : W64) :
    u.l1Load k va flat n = .wait := by
  rw [State.l1Load, if_pos (by omega), State.l1Part]
  rw [hr]
  rfl

theorem l1Store_noRoom {bs : List Byte} (hl : flat % 128 + bs.length ≤ 128) (hr : (u.core k).hasRoom (flat / 128 * 128) = false)
    (va : W64) : u.l1Store k va flat bs = .wait := by
  rw [State.l1Store, if_pos (by omega), State.l1Put]
  rw [hr]
  rfl

end

/-! ### The words (R198) -/

section
variable {g : Guard} {rd rs ra : Fin 32} {cls : Fin 16} {imm : BitVec 8} {i : Instr} {n : Nat} {ext : Nat → W64} (h : Runs s k c g)

include h

section
variable (hi : exec i s = loadWord n ext g rd ra cls imm s)

include hi

theorem exec_load_misaligned (ha : (eaM (s.ctx k c) ra imm n).toNat % n ≠ 0) :
    exec i s = .next (s.raiseCtx k c (.at .align (eaM (s.ctx k c) ra imm n))) := by
  simp [hi, loadWord, ctl_runs h, isAligned, ha]

theorem exec_load_aligned (ha : (eaM (s.ctx k c) ra imm n).toNat % n = 0) : exec i s =
    (s.loadBytes k c (eaM (s.ctx k c) ra imm n) cls.val n).run s k c fun bs t => .next (t.retX k c rd (ext (leNum bs))) := by
  simp [hi, loadWord, ctl_runs h, isAligned, ha]

/-- A load from a scratchpad (R189). -/
theorem exec_load_pad (hn : 0 < n) (q : Fin 32) (off : Nat) :
    let ea := eaM (s.ctx k c) ra imm n
    (ea.toNat % n ≠ 0 → exec i s = .next (s.raiseCtx k c (.at .align ea))) ∧
    (ea.toNat % n = 0 → (s.ctx k c).remote = none → ¬ NoStores s k c cls.val → exec i s = .next s) ∧
    (ea.toNat % n = 0 → (s.ctx k c).remote = none → NoStores s k c cls.val → PadAt s k ea n q off →
      s.mem.poisonedAt (sramFlat q off) n = none → exec i s = .next (s.retX k c rd (ext (s.mem.num (sramFlat q off) n)))) := by
  refine ⟨exec_load_misaligned h hi, fun ha hr hw => ?_, fun ha hr hw hp hpoison => ?_⟩
  · rw [exec_load_aligned h hi ha, loadBytes_waits hr hw]
    rfl
  · rw [exec_load_aligned h hi ha, loadBytes_pad hr hw hp hn hpoison]
    rfl

/-- A load through the data L1 (R190). -/
theorem exec_load_virtual (hn : 0 < n) (hmax : n ≤ 128) (flat : Nat) (u : State) :
    let ea := eaM (s.ctx k c) ra imm n
    ea.toNat % n = 0 → (s.ctx k c).remote = none → NoStores s k c cls.val → HereAt s k ea n .read flat u →
      (flat % 128 + n ≤ 128 → (u.core k).hasRoom (flat / 128 * 128) = false → exec i s = .next u) ∧
      (NoPoison u k flat n → Room u k flat n → ∃ t, exec i s = .next (t.retX k c rd (ext (seenNum u k flat n))) ∧ OnlyL1 u t k ∧
        t.mem = u.mem ∧ (∀ a, seen t k a = seen s k a) ∧ (∀ a, t.mem.byte a = s.mem.byte a)) := by
  intro ea ha hr hw hv
  rw [exec_load_aligned h hi ha, loadBytes_here hr hw hv]
  refine ⟨fun hl hroom => ?_, fun hpoison hroom => ?_⟩
  · rw [l1Load_noRoom hl hroom]
    rfl
  · obtain ⟨t, hload, honly, hmem, hseen⟩ := l1Load_ok u k ea flat n hn hmax hpoison hroom
    rw [hload]
    refine ⟨t, rfl, honly, hmem, fun a => (hseen a).trans (onlyTlb_seen (hereAt_onlyTlb hv) k a), fun a => ?_⟩
    rw [hmem, onlyTlb_byte (hereAt_onlyTlb hv)]

end

section
variable (hi : exec i s = storeWord n g rs ra cls imm s)

include hi

theorem exec_store_misaligned (ha : (eaM (s.ctx k c) ra imm n).toNat % n ≠ 0) :
    exec i s = .next (s.raiseCtx k c (.at .align (eaM (s.ctx k c) ra imm n))) := by
  simp [hi, storeWord, ctl_runs h, isAligned, ha]

theorem exec_store_aligned (ha : (eaM (s.ctx k c) ra imm n).toNat % n = 0) : exec i s =
    (s.storeBytes k c (eaM (s.ctx k c) ra imm n) cls.val (leBytesOf n ((s.ctx k c).getX rs).toNat)).run s k c
      fun _ t => .next (t.advance k c) := by
  simp [hi, storeWord, ctl_runs h, isAligned, ha]

/-- A store changes exactly its own bytes, in a scratchpad or in what the core sees (R189, R190). -/
theorem exec_store (hn : 0 < n) (hmax : n ≤ 128) (q : Fin 32) (off flat : Nat) (u : State) :
    let v := (s.ctx k c).getX rs
    let ea := eaM (s.ctx k c) ra imm n
    (ea.toNat % n ≠ 0 → exec i s = .next (s.raiseCtx k c (.at .align ea))) ∧
    (ea.toNat % n = 0 → ¬ NoStores s k c cls.val → exec i s = .next s) ∧
    (ea.toNat % n = 0 → NoStores s k c cls.val → PadAt s k ea n q off → ∃ m, exec i s = .next ((s.setMem m).advance k c) ∧
      ∀ a, m.byte a = if sramFlat q off ≤ a ∧ a < sramFlat q off + n then v.extractLsb' (8 * (a - sramFlat q off)) 8 else s.mem.byte a) ∧
    (ea.toNat % n = 0 → NoStores s k c cls.val → HereAt s k ea n .write flat u → flat % 128 + n ≤ 128 →
      (u.core k).hasRoom (flat / 128 * 128) = false → exec i s = .next u) ∧
    (ea.toNat % n = 0 → NoStores s k c cls.val → HereAt s k ea n .write flat u → Room u k flat n →
      ∃ t, exec i s = .next (t.advance k c) ∧ OnlyL1 u t k ∧ (∀ a, t.mem.byte a = s.mem.byte a) ∧
      ∀ a, seen t k a = if flat ≤ a ∧ a < flat + n then v.extractLsb' (8 * (a - flat)) 8 else seen s k a) := by
  intro v ea
  have hlen : (leBytesOf n v.toNat).length = n := leBytesOf_length ..
  refine ⟨exec_store_misaligned h hi, fun ha hw => ?waits, fun ha hw hp => ?pad, fun ha hw hv hl hroom => ?noRoom,
    fun ha hw hv hroom => ?stored⟩ <;> rw [exec_store_aligned h hi ha]
  case waits =>
    rw [storeBytes_waits hw]
    rfl
  case pad =>
    rw [storeBytes_pad hw (hlen.symm ▸ hp) (hlen.symm ▸ hn)]
    exact ⟨_, rfl, fun a => s.mem.store_byte ..⟩
  case noRoom =>
    rw [storeBytes_here hw (hlen.symm ▸ hv), l1Store_noRoom (hlen.symm ▸ hl) hroom]
    rfl
  case stored =>
    obtain ⟨t, hstore, honly, hmem, hseen⟩ := l1Store_ok u k ea flat (leBytesOf n v.toNat) (hlen.symm ▸ hmax) (hlen.symm ▸ hroom)
    rw [storeBytes_here hw (hlen.symm ▸ hv), hstore]
    refine ⟨t, rfl, honly, fun a => by rw [hmem, onlyTlb_byte (hereAt_onlyTlb hv)], fun a => ?_⟩
    rw [hseen, onlyTlb_seen (hereAt_onlyTlb hv)]
    simp only [hlen]
    split
    · exact leBytesOf_byte ..
    · rfl

end

end

end

end Sys2Proof.Machine

open Sys2Proof.Machine in
/-- Settles O4: each load is `loadWord` with its size and extension. -/
theorem loadResults : Obligations.LoadResults := by
  unfold Obligations.LoadResults
  refine ⟨fun s k c g rd ra cls imm q off h => ?pad, fun s k c g rd ra cls imm flat u h => ?virtual⟩
  case pad =>
    intro gives
    have loads (i : Sys2Proof.Instr) (n : Nat) (ext : Nat → Sys2Proof.W64) (hn : 0 < n)
        (hi : exec i s = loadWord n ext g rd ra cls imm s) : gives i n ext := exec_load_pad h hi hn q off
    clear_value gives
    exact ⟨loads _ 1 _ (by decide) (by rw [exec_ldb]; rfl), loads _ 2 _ (by decide) (by rw [exec_ldh]; rfl),
      loads _ 4 _ (by decide) (by rw [exec_ldw]; rfl), loads _ 8 _ (by decide) (by rw [exec_ldd]; rfl),
      loads _ 1 _ (by decide) (by rw [exec_ldbu]; rfl), loads _ 2 _ (by decide) (by rw [exec_ldhu]; rfl),
      loads _ 4 _ (by decide) (by rw [exec_ldwu]; rfl)⟩
  case virtual =>
    intro gives
    have loads (i : Sys2Proof.Instr) (n : Nat) (ext : Nat → Sys2Proof.W64) (hn : 0 < n ∧ n ≤ 128)
        (hi : exec i s = loadWord n ext g rd ra cls imm s) : gives i n ext := exec_load_virtual h hi hn.1 hn.2 flat u
    clear_value gives
    exact ⟨loads _ 1 _ (by decide) (by rw [exec_ldb]; rfl), loads _ 2 _ (by decide) (by rw [exec_ldh]; rfl),
      loads _ 4 _ (by decide) (by rw [exec_ldw]; rfl), loads _ 8 _ (by decide) (by rw [exec_ldd]; rfl),
      loads _ 1 _ (by decide) (by rw [exec_ldbu]; rfl), loads _ 2 _ (by decide) (by rw [exec_ldhu]; rfl),
      loads _ 4 _ (by decide) (by rw [exec_ldwu]; rfl)⟩

open Sys2Proof.Machine in
/-- Settles O5: each store is `storeWord` with its size. -/
theorem storeResults : Obligations.StoreResults := by
  unfold Obligations.StoreResults
  intro s k c g rs ra cls imm q off flat u h v gives
  have stores (i : Sys2Proof.Instr) (n : Nat) (hn : 0 < n ∧ n ≤ 128) (hi : exec i s = storeWord n g rs ra cls imm s) : gives i n :=
    exec_store h hi hn.1 hn.2 q off flat u
  clear_value gives
  exact ⟨stores _ 1 (by decide) (by rw [exec_stb, execStb]), stores _ 2 (by decide) (by rw [exec_sth, execSth]),
    stores _ 4 (by decide) (by rw [exec_stw, execStw]), stores _ 8 (by decide) (by rw [exec_std, execStd])⟩

end

section

/-! # A waiting load at an odd offset of its granule (O6)

FEQ.set satisfies every LDFE.w that waits on the granule (R200). The state of a context names the offset at which it waits, and
nothing says that this is a multiple of 8; from the last byte of a granule the 8 bytes run into the next sector. Where that
sector is poisoned, the load that is satisfied raises its poison (R301) and returns nothing. -/

set_option Elab.async false

namespace Sys2Proof.Machine

open Sys2Proof.Safety

/-- The last granule of sector 0 of the scratchpad of the core's own quad. -/
def lastGranule : W64 := 0xFE00000000000030

/-- LD of core 0 waits, by an LDFE.w of x1, at the last byte of the granule. -/
def oddWaiter : Ctx := { Ctx.reset with waits := some (.load 0 63 0xFE0000000000003F 1) }

/-- Bank 0 of quad 0 is in scratchpad mode, sector 1 of it poisoned and the granule empty; LD of core 0 is `oddWaiter`, and CP runs
with the granule's address in x2. -/
def poisonedNext : State :=
  let s := { State.reset with cur := .context 0 .cp }
  (((s.setMem { s.mem with poison := [sramFlat 0 64 / 64] }).setQuad 0 { Quad.reset with mode := 1 }).setCtx 0 .cp
    (Ctx.reset.setX 2 lastGranule)).setCtx 0 .ld oddWaiter

/-- The checks of R189 pass for the 8 bytes of the granule. -/
theorem padAt_lastGranule : PadAt poisonedNext 0 lastGranule 8 0 48 := by
  refine ⟨by decide +kernel, by decide +kernel, by decide, fun b _ hb => ?_⟩
  obtain rfl : b = 0 := by omega
  decide +kernel

/-- FEQ.set of the granule leaves the waiting context at its word. -/
theorem fillOwnGranule_poisons : ∃ t, exec fillOwnGranule poisonedNext = .next t ∧ (t.ctx 0 .ld).pc = 0 := by
  have h : (match exec fillOwnGranule poisonedNext with
    | .next t => (t.ctx 0 .ld).pc
    | _ => 4) = 0 := by decide +kernel
  split at h
  case h_1 t ht => exact ⟨t, ht, h⟩
  case h_2 => cases h

theorem oddWaiter_step_pc (v : W64) : ((({ oddWaiter with waits := none } : Ctx).setX 1 v).step).pc = 4 := rfl

end Sys2Proof.Machine

open Sys2Proof.Machine Sys2Proof.Safety in
/-- Refutes O6: in `poisonedNext` the word `fillOwnGranule` satisfies the LDFE.w of LD, which meets poison and does not go on. -/
theorem not_fifoAndFullEmptyAccesses : ¬ Obligations.FifoAndFullEmptyAccesses := by
  unfold Obligations.FifoAndFullEmptyAccesses
  rintro ⟨-, hfull⟩
  have hruns : Runs poisonedNext 0 .cp { gs := false, gp := 0 } := ⟨rfl, by decide +kernel⟩
  obtain ⟨-, -, -, -, -, -, -, -, -, hset⟩ := hfull poisonedNext 0 .cp _ 0 2 0 0 0 48 hruns (by decide +kernel)
    (fun _ hr => nomatch hr) padAt_lastGranule (by decide +kernel)
  obtain ⟨t, ht, hld⟩ := hset 0 .ld 63 _ 1 (by decide) (by decide +kernel) (by decide +kernel) (by rfl) (by decide)
  obtain ⟨t', ht', hpc⟩ := fillOwnGranule_poisons
  obtain rfl : t = t' := Host.Outcome.next.inj (ht.symm.trans ht')
  have hstep : (t.ctx 0 .ld).pc = 4 := hld ▸ oddWaiter_step_pc _
  exact absurd (hpc.symm.trans hstep) (by decide)

end

section

/-! # Ranges of the data L1, and fences (O7)

Each word writes lines back and drops lines (`flushLines_ok`); the words differ in which lines they name (R201, R203). -/

set_option Elab.async false

namespace Sys2Proof.Machine

open Sys2Proof.Safety

/-! ### The lines that a range names (R201, log entry 20) -/

theorem lineOverlaps_iff (a n : Nat) (l : DLine) : lineOverlaps a n l = true ↔ Overlaps a n l := by
  simp [lineOverlaps, Overlaps, and_assoc]

theorem lineInside_iff (a n : Nat) (l : DLine) : lineInside a n l = true ↔ Inside a n l := by
  simp [lineInside, Inside]

theorem partlyInside_iff (a n : Nat) (l : DLine) :
    (lineOverlaps a n l && !lineInside a n l) = true ↔ Overlaps a n l ∧ ¬ Inside a n l := by
  rw [Bool.and_eq_true, Bool.not_eq_true', ← Bool.not_eq_true, lineOverlaps_iff, lineInside_iff]

/-- Where every line that is written back is dropped too, the lines that stay are those that were not named, as they were. -/
theorem flushLines_mem {s : State} {k : Fin 128} {p q : DLine → Bool} (hpq : ∀ l, p l = true → q l = true) (l : DLine) :
    l ∈ ((s.flushLines k p q).core k).dl1 ↔ l ∈ (s.core k).dl1 ∧ ¬ q l = true := by
  have hkept : ∀ x ∈ (s.core k).dl1.filter (fun l => !q l), (if p x then x.clean else x) = x := fun x hx => by
    have hq : ¬ q x = true := by simpa using (List.mem_filter.mp hx).2
    rw [if_neg fun hp => hq (hpq x hp)]
  rw [(flushLines_ok s k p q).2.2, List.map_congr_left hkept, List.map_id', List.mem_filter, Bool.not_eq_true', ← Bool.not_eq_true]

/-- With none dropped, the lines named are clean and hold what they held. -/
theorem flushLines_keeps (s : State) (k : Fin 128) (p : DLine → Bool) :
    ((s.flushLines k p fun _ => false).core k).dl1 = (s.core k).dl1.map fun l => if p l then l.clean else l := by
  have hall : (s.core k).dl1.filter (fun _ => !false) = (s.core k).dl1 := List.filter_eq_self.mpr fun _ _ => rfl
  rw [(flushLines_ok s k p _).2.2, hall]

theorem dropL1_dl1 (s : State) (k : Fin 128) : ((s.dropL1 k).core k).dl1 = [] := by
  rw [State.dropL1, (flushLines_ok s k _ _).2.2, List.filter_eq_nil_iff.mpr fun _ _ => by decide, List.map_nil]

theorem DLine.clean_pa (l : DLine) : l.clean.pa = l.pa := rfl

theorem DLine.clean_values (l : DLine) : l.clean.bytes.map (fun p => (p.1, p.2.1)) = l.bytes.map fun p => (p.1, p.2.1) := by
  simp [DLine.clean]

theorem DLine.clean_not_dirty (l : DLine) : ∀ p ∈ l.clean.bytes, p.2.2 = false := by
  intro p hp
  obtain ⟨b, -, rfl⟩ := List.mem_map.mp hp
  rfl

section
variable {s : State} {k : Fin 128} {c : CtxId} {g : Guard} (h : Runs s k c g)

include h

/-! ### The range words (R201) -/

theorem rangeOp_runs (ra rb : Fin 32) (wb drop : Nat → Nat → DLine → Bool) : rangeOp g ra rb wb drop s =
    .next ((s.flushLines k (wb ((s.ctx k c).getX ra).toNat ((s.ctx k c).getX rb).toNat)
      (drop ((s.ctx k c).getX ra).toNat ((s.ctx k c).getX rb).toNat)).advance k c) := by
  rw [rangeOp, ctl_runs h]

/-- A word that drops every line it overlaps and writes some of these back. -/
theorem rangeOp_drops (ra rb : Fin 32) {wb : Nat → Nat → DLine → Bool} {P : Nat → Nat → DLine → Prop}
    (hP : ∀ a n l, wb a n l = true ↔ P a n l) (hover : ∀ a n l, P a n l → Overlaps a n l) :
    let a := ((s.ctx k c).getX ra).toNat
    let n := ((s.ctx k c).getX rb).toNat
    ∃ t, rangeOp g ra rb wb lineOverlaps s = .next (t.advance k c) ∧ OnlyL1 s t k ∧ WrittenBack s t k (P a n) ∧
      ∀ l, l ∈ (t.core k).dl1 ↔ l ∈ (s.core k).dl1 ∧ ¬ Overlaps a n l := by
  intro a n
  obtain ⟨honly, hback, -⟩ := flushLines_ok s k (wb a n) (lineOverlaps a n)
  refine ⟨_, rangeOp_runs h .., honly, writtenBack_congr (hP a n) hback, fun l => ?_⟩
  rw [flushLines_mem fun l hl => (lineOverlaps_iff a n l).mpr (hover a n l ((hP a n l).mp hl)), lineOverlaps_iff]

theorem exec_wbr_keeps (ra rb : Fin 32) :
    let a := ((s.ctx k c).getX ra).toNat
    let n := ((s.ctx k c).getX rb).toNat
    ∃ t, exec (.wbr g ra rb) s = .next (t.advance k c) ∧ OnlyL1 s t k ∧ WrittenBack s t k (Overlaps a n) ∧
      (t.core k).dl1.map (fun l => (l.pa, l.bytes.map fun p => (p.1, p.2.1))) =
        (s.core k).dl1.map (fun l => (l.pa, l.bytes.map fun p => (p.1, p.2.1))) ∧
      (∀ l ∈ (t.core k).dl1, Overlaps a n l → ∀ p ∈ l.bytes, p.2.2 = false) := by
  intro a n
  obtain ⟨honly, hback, -⟩ := flushLines_ok s k (lineOverlaps a n) fun _ => false
  refine ⟨_, by rw [exec_wbr, execWbr, rangeOp_runs h], honly, writtenBack_congr (lineOverlaps_iff a n) hback, ?_, fun l hl ho => ?_⟩
  · rw [flushLines_keeps, List.map_map]
    refine List.map_congr_left fun l _ => ?_
    rw [Function.comp_apply]
    split
    · rw [DLine.clean_pa, DLine.clean_values]
    · rfl
  · rw [flushLines_keeps] at hl
    obtain ⟨b, -, rfl⟩ := List.mem_map.mp hl
    by_cases hb : lineOverlaps a n b = true
    · rw [if_pos hb]
      exact b.clean_not_dirty
    · rw [if_neg hb] at ho
      exact absurd ((lineOverlaps_iff a n b).mpr ho) hb

theorem exec_invi_runs : exec (.invi g) s = .next ((s.setCore k (dropIL1 (s.core k))).advance k c) := by
  rw [exec_invi, execInvi, ctl_runs h]

/-! ### The fences (R203) -/

theorem fence_waits {has : Nat → Bool} (f : State → Fin 128 → State) (hs : storesPending s k c has = true) :
    fence g has f s = .next s := by
  rw [fence, ctl_runs h, if_pos hs]

theorem fence_acts {has : Nat → Bool} (f : State → Fin 128 → State) (hs : ¬ storesPending s k c has = true) :
    fence g has f s = .next ((f s k).advance k c) := by
  rw [fence, ctl_runs h, if_neg hs]

end

theorem maskHas_false_iff (mask : BitVec 16) (cls : Nat) : maskHas false mask cls = true ↔ mask.getLsbD cls = true := by
  simp [maskHas]

theorem maskHas_true_iff (mask : BitVec 16) (cls : Nat) : maskHas true mask cls = true ↔ mask = 0 ∨ mask.getLsbD cls = true := by
  simp [maskHas]

theorem atLeastQuad_iff (sc : Scope) : atLeastQuad sc = true ↔ sc ≠ .core := by
  cases sc <;> simp [atLeastQuad]

/-- A release writes every dirty line back. -/
theorem relLines_ok {sc : Scope} (hsc : sc ≠ .core) (s : State) (k : Fin 128) : OnlyL1 s (relLines sc s k) k ∧
    WrittenBack s (relLines sc s k) k (fun _ => True) ∧ ((relLines sc s k).core k).dl1 = (s.core k).dl1.map DLine.clean := by
  obtain ⟨honly, hback, -⟩ := flushLines_ok s k (fun _ => true) fun _ => false
  rw [relLines, if_pos ((atLeastQuad_iff sc).mpr hsc)]
  exact ⟨honly, writtenBack_congr (fun _ => by simp) hback, flushLines_keeps s k fun _ => true⟩

/-- An acquire also drops every line. -/
theorem acqLines_ok {sc : Scope} (hsc : sc ≠ .core) (s : State) (k : Fin 128) : OnlyL1 s (acqLines sc s k) k ∧
    WrittenBack s (acqLines sc s k) k (fun _ => True) ∧ ((acqLines sc s k).core k).dl1 = [] := by
  obtain ⟨honly, hback, -⟩ := flushLines_ok s k (fun _ => true) fun _ => true
  rw [acqLines, if_pos ((atLeastQuad_iff sc).mpr hsc)]
  exact ⟨honly, writtenBack_congr (fun _ => by simp) hback, dropL1_dl1 s k⟩

/-- A fence of core scope does nothing to the data L1. -/
theorem relLines_core (s : State) (k : Fin 128) : relLines .core s k = s := rfl

theorem acqLines_core (s : State) (k : Fin 128) : acqLines .core s k = s := rfl

end Sys2Proof.Machine

open Sys2Proof.Machine Sys2Proof.Safety in
/-- Settles O7: each word is a range operation or a fence over the lines of the core. -/
theorem cacheRangesAndFences : Obligations.CacheRangesAndFences := by
  unfold Obligations.CacheRangesAndFences
  refine ⟨fun s k c g ra rb h => ?ranges, fun s k c g sc mask h => ?fences⟩
  case ranges =>
    refine ⟨?_, ?_, exec_wbr_keeps h ra rb, _, exec_invi_runs h, rfl, fun x => by cases x <;> rfl, rfl⟩
    · exact rangeOp_drops h ra rb partlyInside_iff fun _ _ _ hl => hl.1
    · exact rangeOp_drops h ra rb lineOverlaps_iff fun _ _ _ hl => hl
  case fences =>
    intro mine clsHeld relHeld
    have hcls : clsHeld ↔ storesPending s k c (maskHas false mask) = true := by
      simp only [storesPending_iff, maskHas_false_iff, clsHeld, mine, and_assoc]
    have hrel : relHeld ↔ storesPending s k c (maskHas true mask) = true := by
      simp only [storesPending_iff, maskHas_true_iff, relHeld, mine, and_assoc]
    have hnone : ¬ storesPending s k c (fun _ => false) = true := by simp [storesPending_iff]
    refine ⟨fun hw => fence_waits h (fun s _ => s) (hcls.mp hw), fun hw => fence_acts h (fun s _ => s) (hcls.not.mp hw),
      fun hw => ⟨fence_waits h _ (hrel.mp hw), fence_waits h _ (hrel.mp hw)⟩, fun hw hsc => ?_,
      fun hw hsc => ⟨_, fence_acts h _ (hrel.not.mp hw), relLines_ok hsc s k⟩,
      fun hw hsc => ⟨_, fence_acts h _ (hrel.not.mp hw), acqLines_ok hsc s k⟩, fun hsc => ?_,
      fun hsc => ⟨_, fence_acts h _ hnone, acqLines_ok hsc s k⟩⟩
    · subst hsc
      exact ⟨fence_acts h _ (hrel.not.mp hw), fence_acts h _ (hrel.not.mp hw)⟩
    · subst hsc
      exact fence_acts h _ hnone

end

section

/-! # Atomics and reductions (O8)

Each word is `atomic` with its operator: it acts once at the port of its operand, and the words differ in the value they leave
and in whether they return the old one (R204 to R206). -/

set_option Elab.async false

namespace Sys2Proof.Machine

open Sys2Proof.Safety

/-! ### The port (R205) -/

/-- The bytes of the operand of an atomic, of 4 bytes or of 8. -/
def atomicBytes (dbl : Bool) : Nat := if dbl then 8 else 4

theorem atomicBytes_pos (dbl : Bool) : 0 < atomicBytes dbl := by cases dbl <;> decide

theorem atomicDest_of_atomicAt {s u : State} {k : Fin 128} {ea : W64} {n flat : Nat} (hn : 0 < n) (h : AtomicAt s k ea n flat u) :
    atomicDest s k ea n = .ok flat u := by
  rcases h with ⟨q, off, hpad, rfl, rfl⟩ | ⟨m, l, hspace, hvirt⟩
  · simp only [atomicDest, hpad.1, padAt_check hpad hn]
  · simp only [atomicDest, hspace, hvirt]

section
variable {s : State} {k : Fin 128} {c : CtxId} {g : Guard} {ra rb : Fin 32} {cls : Fin 4} {dbl : Bool} {op : AtomicOp} {exp : Ctx → Nat}
  {ret : State → Fin 128 → CtxId → Nat → State} (h : Runs s k c g)

include h

theorem atomic_misaligned (ha : ((s.ctx k c).getX ra).toNat % atomicBytes dbl ≠ 0) :
    atomic op g ra rb cls dbl exp s ret = .next (s.raiseCtx k c (.at .align ((s.ctx k c).getX ra))) := by
  rw [atomicBytes] at ha
  simp [atomic, ctl_runs h, isAligned, ha]

theorem atomic_waits (ha : ((s.ctx k c).getX ra).toNat % atomicBytes dbl = 0) (hw : ¬ NoStores s k c cls.val) :
    atomic op g ra rb cls dbl exp s ret = .next s := by
  rw [atomicBytes] at ha
  simp [atomic, ctl_runs h, isAligned, ha, not_noStores_iff.mp hw]

/-- The one action on memory, once the line of the data L1 that holds the operand is dropped. -/
theorem atomic_acts {flat : Nat} {u : State} (ha : ((s.ctx k c).getX ra).toNat % atomicBytes dbl = 0) (hw : NoStores s k c cls.val)
    (hat : AtomicAt s k ((s.ctx k c).getX ra) (atomicBytes dbl) flat u)
    (hp : (dropLineAt u k flat (atomicBytes dbl)).mem.poisonedAt flat (atomicBytes dbl) = none) :
    let u' := dropLineAt u k flat (atomicBytes dbl)
    let old := u'.mem.num flat (atomicBytes dbl)
    atomic op g ra rb cls dbl exp s ret = .next (ret (u'.setMem (u'.mem.setNum flat (atomicBytes dbl)
      (atomicOp op (8 * atomicBytes dbl) old ((s.ctx k c).getX rb).toNat (exp (s.ctx k c))))) k c old) := by
  have hdest := atomicDest_of_atomicAt (atomicBytes_pos dbl) hat
  rw [atomicBytes] at ha hdest hp ⊢
  simp only [atomic, ctl_runs h, isAligned, ha, noStores_iff.mp hw, hdest, Got.run, hp]
  rfl

end

/-! ### The operators (R204) -/

/-- Only CAS looks at the value it expects. -/
theorem atomicOp_ignores {op : AtomicOp} (hop : op ≠ .cas) (w m b e e' : Nat) : atomicOp op w m b e = atomicOp op w m b e' := by
  cases op with
  | cas => exact absurd rfl hop
  | _ => rfl

section
variable {w : Nat} (x y : BitVec w)

theorem min_eq_toInt : (if y.slt x then y else x) = if x.toInt ≤ y.toInt then x else y := by
  simp only [BitVec.slt, decide_eq_true_eq, ← Int.not_lt, ite_not]

theorem max_eq_toInt : (if x.slt y then y else x) = if x.toInt ≤ y.toInt then y else x := by
  simp only [BitVec.slt, decide_eq_true_eq]
  by_cases hlt : x.toInt < y.toInt
  · rw [if_pos hlt, if_pos hlt.le]
  · rw [if_neg hlt]
    split
    case isTrue hle => exact BitVec.eq_of_toInt_eq (by omega)
    case isFalse => rfl

theorem minu_eq_le : (if y.ult x then y else x) = if x ≤ y then x else y := by
  simp only [BitVec.ult_iff_lt, ← BitVec.not_lt, ite_not]

theorem maxu_eq_le : (if x.ult y then y else x) = if x ≤ y then y else x := by
  simp only [BitVec.ult_iff_lt]
  by_cases hlt : x < y
  · rw [if_pos hlt, if_pos (BitVec.le_of_lt hlt)]
  · rw [if_neg hlt]
    split
    case isTrue hle => exact BitVec.le_antisymm hle (BitVec.not_lt.mp hlt)
    case isFalse => rfl

end

/-- FADD takes single operands, of 4 bytes. -/
theorem atomicOp_fadd (m b e : Nat) : atomicOp .fadd 32 m b e = (BitVec.ofNat 32 (portFadd
    (BitVec.ofNat 32 (BitVec.ofNat 32 m).toNat) (BitVec.ofNat 32 (BitVec.ofNat 32 b).toNat)).toNat).toNat := by
  simp only [atomicOp, BitVec.ofNat_toNat, BitVec.setWidth_eq]

theorem atomicOp_cas (w m b e : Nat) : atomicOp .cas w m b e =
    (if BitVec.ofNat w m = BitVec.ofNat w e then BitVec.ofNat w b else BitVec.ofNat w m).toNat := by
  simp [atomicOp]

/-! ### The words -/

/-- What O8 says of an atomic and its reduction: `new` gives the value they leave. -/
def AtomicActs (s : State) (k : Fin 128) (c : CtxId) (rd ra rb : Fin 32) (cls : Fin 4) (flat : Nat) (u : State) (d : Bool)
    (amo red : Option Instr) (new : (w : Nat) → BitVec w → BitVec w → BitVec w) : Prop :=
  let x := s.ctx k c
  let ea := x.getX ra
  let n := if d then 8 else 4
  let u' := dropLineAt u k flat n
  let old := u'.mem.num flat n
  let v := u'.setMem (u'.mem.setNum flat n (new (8 * n) (BitVec.ofNat (8 * n) old) (BitVec.ofNat (8 * n) (x.getX rb).toNat)).toNat)
  (ea.toNat % n ≠ 0 → ∀ i, amo = some i ∨ red = some i → exec i s = .next (s.raiseCtx k c (.at .align ea))) ∧
  (ea.toNat % n = 0 → ¬ NoStores s k c cls.val → ∀ i, amo = some i ∨ red = some i → exec i s = .next s) ∧
  (ea.toNat % n = 0 → NoStores s k c cls.val → AtomicAt s k ea n flat u → u'.mem.poisonedAt flat n = none →
    (∀ i, amo = some i → exec i s = .next (v.retX k c rd (BitVec.ofNat 64 old))) ∧
    (∀ i, red = some i → exec i s = .next (v.advance k c)))

section
variable {s u : State} {k : Fin 128} {c : CtxId} {g : Guard} {rd ra rb : Fin 32} {cls : Fin 4} {flat : Nat} {d : Bool} {A R : Instr}
  {op : AtomicOp} {new : (w : Nat) → BitVec w → BitVec w → BitVec w} (h : Runs s k c g)
  (hA : exec A s = amo op g rd ra rb cls d s)
  (hnew : ∀ m b, atomicOp op (8 * atomicBytes d) m b ((s.ctx k c).getX rd).toNat =
    (new (8 * atomicBytes d) (BitVec.ofNat _ m) (BitVec.ofNat _ b)).toNat)

include h hA hnew

/-- An atomic without a reduction. -/
theorem atomicActs_alone : AtomicActs s k c rd ra rb cls flat u d (some A) none new := by
  refine ⟨fun ha i hi => ?_, fun ha hw i hi => ?_, fun ha hw hat hp => ⟨fun i hi => ?_, fun i hi => ?_⟩⟩
  · obtain rfl : A = i := by simpa using hi
    rw [hA, amo, atomic_misaligned h ha]
  · obtain rfl : A = i := by simpa using hi
    rw [hA, amo, atomic_waits h ha hw]
  · obtain rfl : A = i := by simpa using hi
    rw [hA, amo, atomic_acts h ha hw hat hp, hnew]
    rfl
  · cases hi

/-- An atomic and its reduction. -/
theorem atomicActs_pair (hop : op ≠ .cas) (hR : exec R s = red op g ra rb cls d s) :
    AtomicActs s k c rd ra rb cls flat u d (some A) (some R) new := by
  obtain ⟨hmis, hwait, hact⟩ := atomicActs_alone (flat := flat) (u := u) h hA hnew
  refine ⟨fun ha i hi => ?_, fun ha hw i hi => ?_, fun ha hw hat hp => ⟨(hact ha hw hat hp).1, fun i hi => ?_⟩⟩
  · rcases hi with hi | hi
    · exact hmis ha i (.inl hi)
    · obtain rfl : R = i := by simpa using hi
      rw [hR, red, atomic_misaligned h ha]
  · rcases hi with hi | hi
    · exact hwait ha hw i (.inl hi)
    · obtain rfl : R = i := by simpa using hi
      rw [hR, red, atomic_waits h ha hw]
  · obtain rfl : R = i := by simpa using hi
    rw [hR, red, atomic_acts h ha hw hat hp, atomicOp_ignores hop _ _ _ _ ((s.ctx k c).getX rd).toNat, hnew]
    rfl

end

end Sys2Proof.Machine

open Sys2Proof.Machine Sys2Proof.Safety in
/-- Settles O8: each word is `atomic` with its operator. -/
theorem atomicResults : Obligations.AtomicResults := by
  unfold Obligations.AtomicResults
  intro s k c g rd ra rb cls dbl flat u h x ea acts fadd
  have alone {d A op new} (hA : exec A s = amo op g rd ra rb cls d s)
      (hnew : ∀ m b, atomicOp op (8 * atomicBytes d) m b (x.getX rd).toNat =
        (new (8 * atomicBytes d) (BitVec.ofNat _ m) (BitVec.ofNat _ b)).toNat) :
      acts d (some A) none new := atomicActs_alone h hA hnew
  have pair {d A R op new} (hA : exec A s = amo op g rd ra rb cls d s) (hR : exec R s = red op g ra rb cls d s) (hop : op ≠ .cas)
      (hnew : ∀ m b, atomicOp op (8 * atomicBytes d) m b (x.getX rd).toNat =
        (new (8 * atomicBytes d) (BitVec.ofNat _ m) (BitVec.ofNat _ b)).toNat) :
      acts d (some A) (some R) new := atomicActs_pair h hA hnew hop hR
  clear_value acts
  refine ⟨alone (exec_amoSwap ..) ?swap, pair (exec_amoAdd ..) (exec_redAdd ..) nofun ?add, pair (exec_amoAnd ..) (exec_redAnd ..) nofun ?and,
    pair (exec_amoOr ..) (exec_redOr ..) nofun ?or, pair (exec_amoXor ..) (exec_redXor ..) nofun ?xor,
    pair (exec_amoMin ..) (exec_redMin ..) nofun ?min, pair (exec_amoMax ..) (exec_redMax ..) nofun ?max,
    pair (exec_amoMinu ..) (exec_redMinu ..) nofun ?minu, pair (exec_amoMaxu ..) (exec_redMaxu ..) nofun ?maxu,
    pair (exec_amoFadd ..) (exec_redFadd ..) nofun ?fadd, alone (exec_amoCas ..) ?cas⟩
  case min => exact fun _ _ => congrArg BitVec.toNat (min_eq_toInt _ _)
  case max => exact fun _ _ => congrArg BitVec.toNat (max_eq_toInt _ _)
  case minu => exact fun _ _ => congrArg BitVec.toNat (minu_eq_le _ _)
  case maxu => exact fun _ _ => congrArg BitVec.toNat (maxu_eq_le _ _)
  case fadd => exact fun m b => atomicOp_fadd m b _
  case cas => exact fun m b => atomicOp_cas _ m b _
  all_goals exact fun _ _ => rfl

end

section

/-! # Software queues and role rings (O9)

A queue operation reads its descriptor once the checks of R189 pass; a ring word reads its layout. What each then does is one
action (R207 to R210). -/

set_option Elab.async false

namespace Sys2Proof.Machine

open Sys2Proof.Safety

/-! ### Checks of an access that must lie in scratchpad space (R189) -/

theorem inPadSpace_of_spaceOf {k : Fin 128} {ea : W64} {q : Fin 32} {off : Nat} (h : spaceOf k ea = some (.sram q off)) :
    inPadSpace ea = true := by
  rw [spaceOf] at h
  split at h
  · cases h
  · split at h
    · simp_all [inPadSpace]
    · split at h
      · simp_all [inPadSpace]
      · cases h

theorem padAccess_pad {s : State} {k : Fin 128} {c : CtxId} {ea : W64} {n size off : Nat} {q : Fin 32} (hsize : 0 < size)
    (ha : ea.toNat % n = 0) (h : PadAt s k ea size q off) (body : Fin 32 → Nat → Out) : padAccess s k c ea n size body = body q off := by
  have hspace := h.1
  simp only [padAccess, inPadSpace_of_spaceOf hspace, isAligned, ha, hspace, padAt_check h hsize]
  rfl

/-! ### Queues (R207, R208) -/

/-- A descriptor at a flat address that keeps R207. -/
def QueueValid (m : MemSide) (a : Nat) : Prop :=
  bitsNat (m.num (a + 8) 4) 29 3 = 0 ∧ bitsNat (m.num (a + 8) 4) 20 4 = 0 ∧ m.num (a + 12) 4 = 0 ∧
    bitsNat (m.num (a + 8) 4) 24 5 ≤ 17 ∧ bitsNat (m.num (a + 8) 4) 0 20 % 8 = 0 ∧
    bitsNat (m.num (a + 8) 4) 0 20 + 8 * 2 ^ bitsNat (m.num (a + 8) 4) 24 5 ≤ 2 ^ 20

theorem readQDesc_valid {m : MemSide} {a : Nat} (h : QueueValid m a) : readQDesc m a = some ⟨BitVec.ofNat 32 (m.num a 4),
    BitVec.ofNat 32 (m.num (a + 4) 4), 2 ^ bitsNat (m.num (a + 8) 4) 24 5, bitsNat (m.num (a + 8) 4) 0 20⟩ := by
  refine if_neg ?_
  rw [QueueValid] at h
  omega

theorem readQDesc_invalid {m : MemSide} {a : Nat} (h : ¬ QueueValid m a) : readQDesc m a = none := by
  refine if_pos ?_
  rw [QueueValid] at h
  omega

/-! ### Layouts and sides of rings (R209, R210) -/

/-- A layout that keeps R209, in the e register of its ring. -/
def LayoutValid (v : Nat) : Prop :=
  bitsNat v 40 24 = 0 ∧ bitsNat v 25 7 = 0 ∧ bitsNat v 36 4 ≤ 6 ∧ 4 ≤ bitsNat v 32 4 ∧
    bitsNat v 0 25 % 2 ^ bitsNat v 32 4 = 0 ∧ bitsNat v 0 25 + 2 ^ bitsNat v 36 4 * 2 ^ bitsNat v 32 4 ≤ 2 ^ 25

theorem ringLayout_valid {e : W64} (hv : LayoutValid e.toNat) :
    ringLayout e = some (2 ^ bitsNat e.toNat 36 4, bitsNat e.toNat 32 4, bitsNat e.toNat 0 25) := by
  refine if_neg ?_
  rw [LayoutValid] at hv
  omega

theorem ringLayout_invalid {e : W64} (hv : ¬ LayoutValid e.toNat) : ringLayout e = none := by
  refine if_pos ?_
  rw [LayoutValid] at hv
  omega

theorem ringAllowed_producer (n : Fin 4) (c : CtxId) : ringAllowed n false c = true ↔ (n = 0 → c = .ld) ∧ (n = 1 → c = .cp) := by
  cases c <;> decide +revert

theorem ringAllowed_consumer (n : Fin 4) (c : CtxId) : ringAllowed n true c = true ↔ (n = 0 → c = .cp) ∧ (n = 1 → c = .st) := by
  cases c <;> decide +revert

section
variable {s : State} {k : Fin 128} {c : CtxId} {g : Guard} (h : Runs s k c g)

include h

section
variable {ra : Fin 32} {cls : Fin 16} {q : Fin 32} {off : Nat} (ha : ((s.ctx k c).getX ra).toNat % 16 = 0) (hw : NoStores s k c cls.val)
  (hpad : PadAt s k ((s.ctx k c).getX ra) 16 q off) (hp : s.mem.poisonedAt (sramFlat q off) 16 = none)
  (f : Fin 128 → CtxId → Ctx → Nat → QDesc → (Nat → Nat) → Out)

include ha hw hpad hp

theorem queueOp_invalid (hq : ¬ QueueValid s.mem (sramFlat q off)) :
    queueOp g ra cls s f = .next (s.raiseCtx k c (.plain .illegalOperand)) := by
  simp only [queueOp, ctl_runs h, noStores_iff.mp hw, padAccess_pad (by decide : 0 < 16) ha hpad, hp, readQDesc_invalid hq]
  rfl

theorem queueOp_valid (hq : QueueValid s.mem (sramFlat q off)) :
    let m := s.mem
    let a := sramFlat q off
    let log := bitsNat (m.num (a + 8) 4) 24 5
    let slots := bitsNat (m.num (a + 8) 4) 0 20
    queueOp g ra cls s f = f k c (s.ctx k c) a ⟨BitVec.ofNat 32 (m.num a 4), BitVec.ofNat 32 (m.num (a + 4) 4), 2 ^ log, slots⟩
      fun i => sramFlat q (off / 2 ^ 20 * 2 ^ 20 + slots + 8 * (i % 2 ^ log)) := by
  simp only [queueOp, ctl_runs h, noStores_iff.mp hw, padAccess_pad (by decide : 0 < 16) ha hpad, hp, readQDesc_valid hq]
  rfl

end

/-! ### Ring words -/

section
variable {n : Fin 4} {side : Bool}

theorem ringOp_illegal (f : Fin 128 → CtxId → Ring → Nat × Nat × Nat → Out)
    (hno : ¬ (LayoutValid ((s.core k).e[28 + n.val]'(by omega)).toNat ∧ ringAllowed n side c = true)) :
    ringOp g n side s f = .next (s.raiseCtx k c (.plain .illegalOperand)) := by
  rw [ringOp, ctl_runs h]
  by_cases hside : ringAllowed n side c = true
  · simp only [hside, ringLayout_invalid fun hv => hno ⟨hv, hside⟩]
    rfl
  · simp only [Bool.not_eq_true _ ▸ hside]
    rfl

theorem ringOp_legal (f : Fin 128 → CtxId → Ring → Nat × Nat × Nat → Out)
    (hv : LayoutValid ((s.core k).e[28 + n.val]'(by omega)).toNat) (hside : ringAllowed n side c = true) :
    let v := ((s.core k).e[28 + n.val]'(by omega)).toNat
    ringOp g n side s f = f k c (s.core k).rings[n] (2 ^ bitsNat v 36 4, bitsNat v 32 4, bitsNat v 0 25) := by
  simp only [ringOp, ctl_runs h, hside, ringLayout_valid hv]
  rfl

section
variable (hv : LayoutValid ((s.core k).e[28 + n.val]'(by omega)).toNat)

include hv

theorem exec_racqP_legal (rd : Fin 32) (hside : ringAllowed n false c = true) :
    let v := ((s.core k).e[28 + n.val]'(by omega)).toNat
    let r := (s.core k).rings[n]
    exec (.racqP g rd n) s = racq s k c rd n false (2 ^ bitsNat v 36 4 - (r.pacq - r.crel).toNat)
      (slotAddr (bitsNat v 32 4) (bitsNat v 0 25) (r.pacq.toNat % 2 ^ bitsNat v 36 4)) { r with pacq := r.pacq + 1 } := by
  rw [exec_racqP, execRacqP, ringOp_legal h _ hv hside]

theorem exec_racqC_legal (rd : Fin 32) (hside : ringAllowed n true c = true) :
    let v := ((s.core k).e[28 + n.val]'(by omega)).toNat
    let r := (s.core k).rings[n]
    exec (.racqC g rd n) s = racq s k c rd n true ((r.prel - r.cacq).toInt.toNat)
      (slotAddr (bitsNat v 32 4) (bitsNat v 0 25) (r.cacq.toNat % 2 ^ bitsNat v 36 4)) { r with cacq := r.cacq + 1 } := by
  rw [exec_racqC, execRacqC, ringOp_legal h _ hv hside]

theorem exec_rrelP_legal (hside : ringAllowed n false c = true) :
    let r := (s.core k).rings[n]
    exec (.rrelP g n) s = rrel s k c n (r.prel == r.pacq) { r with prel := r.prel + 1 } := by
  rw [exec_rrelP, execRrelP, ringOp_legal h _ hv hside]

theorem exec_rrelC_legal (hside : ringAllowed n true c = true) :
    let r := (s.core k).rings[n]
    exec (.rrelC g n) s = rrel s k c n (r.crel == r.cacq) { r with crel := r.crel + 1 } := by
  rw [exec_rrelC, execRrelC, ringOp_legal h _ hv hside]

end

end

end

section
variable {s : State} {k : Fin 128} {c : CtxId} {n : Fin 4} {side none_ : Bool} {rd : Fin 32} {avail : Nat} {addr : W64} {r : Ring}

theorem racq_takes (hl : (s.core k).lowerWaits c n side < avail) : racq s k c rd n side avail addr r =
    .next ((setRing s k n r).setCtx k c (({ s.ctx k c with waits := none } : Ctx).setX rd addr).step) := if_pos hl

theorem racq_waits (hl : avail ≤ (s.core k).lowerWaits c n side) : racq s k c rd n side avail addr r =
    .next (s.setCtx k c { s.ctx k c with waits := some (.ring n side) }) := if_neg (by omega)

theorem rrel_illegal (hn : none_ = true) : rrel s k c n none_ r = .next (s.raiseCtx k c (.plain .illegalOperand)) := if_pos hn

theorem rrel_waits (hn : none_ = false) (hs : storesPending s k c (fun _ => true) = true) : rrel s k c n none_ r = .next s := by
  simp only [rrel, hn, hs]
  rfl

theorem rrel_advances (hn : none_ = false) (hs : ¬ storesPending s k c (fun _ => true) = true) :
    rrel s k c n none_ r = .next ((setRing s k n r).advance k c) := by
  simp only [rrel, hn, hs]
  rfl

end

end Sys2Proof.Machine

open Sys2Proof.Machine Sys2Proof.Safety in
/-- Settles O9: past their checks, a queue word acts on its descriptor and a ring word on its ring. -/
theorem softwareQueuesAndRings : Obligations.SoftwareQueuesAndRings := by
  unfold Obligations.SoftwareQueuesAndRings
  refine ⟨fun s k c g rd ra rb pd cls q off h => ?queues, fun s k c g rd n h => ?rings⟩
  case queues =>
    intro x ea m a head tail log slots slot valid ha hw hpad hp
    refine ⟨fun hv => ⟨?_, ?_⟩, fun hv hroom => ?_, fun hv hfull => ?_, fun hv hempty => ?_, fun hv hsome hpoison => ?_⟩
    · rw [exec_qpush, execQpush, queueOp_invalid h ha hw hpad hp _ hv]
    · rw [exec_qpop, execQpop, queueOp_invalid h ha hw hpad hp _ hv]
    · rw [exec_qpush, execQpush, queueOp_valid h ha hw hpad hp _ hv]
      exact if_pos hroom
    · rw [exec_qpush, execQpush, queueOp_valid h ha hw hpad hp _ hv]
      exact if_neg (Nat.not_lt.mpr hfull)
    · rw [exec_qpop, execQpop, queueOp_valid h ha hw hpad hp _ hv]
      exact if_neg (not_not.mpr hempty)
    · rw [exec_qpop, execQpop, queueOp_valid h ha hw hpad hp _ hv]
      refine (if_pos hsome).trans ?_
      rw [hpoison]
      rfl
  case rings =>
    intro r v slots size base slot set takes waits lower stored layout illegal produces consumes
    have hstored : stored ↔ storesPending s k c (fun _ => true) = true := by simp [storesPending_iff, stored]
    have hprod : produces ↔ ringAllowed n false c = true := (ringAllowed_producer n c).symm
    have hcons : consumes ↔ ringAllowed n true c = true := (ringAllowed_consumer n c).symm
    simp only [hprod, hcons, illegal]
    refine ⟨fun hno => ⟨?_, ?_⟩, fun hno => ⟨?_, ?_⟩, fun hv hp => ⟨fun hl => ?_, fun hl => ?_, fun he => ?_, fun hne hs => ?_, fun hne hs => ?_⟩,
      fun hv hc => ⟨fun hl => ?_, fun hl => ?_, fun he => ?_, fun hne hs => ?_, fun hne hs => ?_⟩⟩
    · rw [exec_racqP, execRacqP, ringOp_illegal h _ hno]
    · rw [exec_rrelP, execRrelP, ringOp_illegal h _ hno]
    · rw [exec_racqC, execRacqC, ringOp_illegal h _ hno]
    · rw [exec_rrelC, execRrelC, ringOp_illegal h _ hno]
    · rw [exec_racqP_legal h hv rd hp, racq_takes (Nat.lt_sub_iff_add_lt.mpr hl)]
      rfl
    · rw [exec_racqP_legal h hv rd hp, racq_waits (Nat.sub_le_iff_le_add.mpr hl)]
    · rw [exec_rrelP_legal h hv hp, rrel_illegal (beq_iff_eq.mpr he)]
    · rw [exec_rrelP_legal h hv hp, rrel_waits (beq_eq_false_iff_ne.mpr hne) (hstored.mp hs)]
    · rw [exec_rrelP_legal h hv hp, rrel_advances (beq_eq_false_iff_ne.mpr hne) (hstored.not.mp hs)]
      rfl
    · rw [exec_racqC_legal h hv rd hc, racq_takes (Int.lt_toNat.mpr hl)]
      rfl
    · rw [exec_racqC_legal h hv rd hc, racq_waits (Int.toNat_le.mpr hl)]
    · rw [exec_rrelC_legal h hv hc, rrel_illegal (beq_iff_eq.mpr he)]
    · rw [exec_rrelC_legal h hv hc, rrel_waits (beq_eq_false_iff_ne.mpr hne) (hstored.mp hs)]
    · rw [exec_rrelC_legal h hv hc, rrel_advances (beq_eq_false_iff_ne.mpr hne) (hstored.not.mp hs)]
      rfl

end

section

/-! # Barriers, and termination detection by a core (O11)

An arrival counts at the core and, where it is the last, at every core of the scope (R216); what a barrier word then does rests on
the counts alone. -/

set_option Elab.async false

namespace Sys2Proof.Machine

open Sys2Proof.Safety

/-! ### The counts of a core (R216) -/

@[simp] theorem arriveCount_setArrive (x : Core) (c : CtxId) (sc : Scope) (v : W32) : arriveCount (setArrive x c sc v) c sc = v := by
  cases sc <;> cases c <;> simp [arriveCount, setArrive, Core.setCtx, Core.ctx]

@[simp] theorem doneCount_setArrive (x : Core) (c : CtxId) (sc sc' : Scope) (v : W32) :
    doneCount (setArrive x c sc v) sc' = doneCount x sc' := by
  cases sc <;> cases c <;> cases sc' <;> rfl

@[simp] theorem arriveCount_setDone (x : Core) (c : CtxId) (sc sc' : Scope) (v : W32) :
    arriveCount (setDone x sc v) c sc' = arriveCount x c sc' := by
  cases sc <;> cases sc' <;> cases c <;> rfl

@[simp] theorem doneCount_setDone (x : Core) (sc : Scope) (v : W32) : doneCount (setDone x sc v) sc = v := by
  cases sc <;> simp [doneCount, setDone]

@[simp] theorem setDone_setDone (x : Core) (sc : Scope) (v : W32) : setDone (setDone x sc v) sc v = setDone x sc v := by
  cases sc <;> simp [setDone]

/-- From quad scope on, a core has one arrival count for its contexts. -/
theorem arriveCount_ctx (x : Core) (c c' : CtxId) {sc : Scope} (h : sc ≠ .core) : arriveCount x c sc = arriveCount x c' sc := by
  cases sc with
  | core => exact absurd rfl h
  | _ => rfl

@[simp] theorem setArrive_inst (x : Core) (c : CtxId) (sc : Scope) (v : W32) : (setArrive x c sc v).inst = x.inst := by
  cases sc <;> cases c <;> rfl

@[simp] theorem setArrive_run (x : Core) (c c' : CtxId) (sc : Scope) (v : W32) : ((setArrive x c sc v).ctx c').run = (x.ctx c').run := by
  cases sc <;> cases c <;> cases c' <;> rfl

/-! ### Cores of a scope -/

/-- Setting cores by a change that does nothing more the second time. -/
theorem State.core_updCores {f : Core → Core} (hf : ∀ x, f (f x) = f x) (ks : List (Fin 128)) (s : State) (j : Fin 128) :
    (s.updCores ks f).core j = if j ∈ ks then f (s.core j) else s.core j := by
  induction ks generalizing s with
  | nil => rfl
  | cons k ks ih =>
    have hcons : s.updCores (k :: ks) f = (s.setCore k (f (s.core k))).updCores ks f := rfl
    rw [hcons, ih]
    rcases eq_or_ne j k with rfl | hne
    · simp [hf]
    · simp [State.setCore_core_ne _ _ hne, hne]

theorem instOf_setCore {s : State} {k : Fin 128} {x : Core} (hx : x.inst = (s.core k).inst) : (s.setCore k x).instOf k = s.instOf k := by
  rw [State.instOf, State.setCore_core_self, hx]
  rfl

theorem gangOf_setCore {s : State} {k : Fin 128} {x : Core} (hx : x.inst = (s.core k).inst) : (s.setCore k x).gangOf k = s.gangOf k := by
  rw [State.gangOf, instOf_setCore hx, State.gangOf]

theorem scopeCores_setCore {s : State} {k : Fin 128} {x : Core} (hx : x.inst = (s.core k).inst) (sc : Scope) :
    (s.setCore k x).scopeCores k sc = s.scopeCores k sc := by
  rw [State.scopeCores, gangOf_setCore hx, State.scopeCores]

theorem partContexts_setCore {s : State} {k : Fin 128} {x : Core} (hx : x.inst = (s.core k).inst)
    (hrun : ∀ c, (x.ctx c).run = ((s.core k).ctx c).run) : (s.setCore k x).partContexts k = s.partContexts k := by
  have hruns (c : CtxId) : ((s.setCore k x).ctx k c).run = (s.ctx k c).run := by
    rw [State.ctx, State.setCore_core_self, hrun]
    rfl
  simp only [State.partContexts, instOf_setCore hx, hruns]

/-! ### Completing a phase (R216) -/

/-- Every participant of the barrier of a core has arrived at the phase after its completed count. -/
def PhaseDone (s : State) (k : Fin 128) (sc : Scope) : Prop :=
  if sc = .core then ∀ x ∈ s.partContexts k, (doneCount (s.core k) sc + 1).toNat ≤ (arriveCount (s.core k) x sc).toNat
  else ∀ i ∈ s.scopeCores k sc, (doneCount (s.core k) sc + 1).toNat ≤ (arriveCount (s.core i) .ld sc).toNat

open Classical in
theorem completePhase_eq (s : State) (k : Fin 128) (sc : Scope) : s.completePhase k sc =
    if PhaseDone s k sc then s.updCores (s.scopeCores k sc) (setDone · sc (doneCount (s.core k) sc + 1)) else s := by
  cases sc <;> exact if_congr (by simp [PhaseDone]) rfl rfl

open Classical in
theorem completePhase_core (s : State) (k j : Fin 128) (sc : Scope) : (s.completePhase k sc).core j =
    if PhaseDone s k sc ∧ j ∈ s.scopeCores k sc then setDone (s.core j) sc (doneCount (s.core k) sc + 1) else s.core j := by
  rw [completePhase_eq]
  by_cases hd : PhaseDone s k sc
  · simp only [hd, if_true, true_and]
    exact State.core_updCores (fun x => setDone_setDone x sc _) ..
  · simp only [hd, if_false, false_and]

theorem arriveCount_completePhase (s : State) (k j : Fin 128) (c : CtxId) (sc : Scope) :
    arriveCount ((s.completePhase k sc).core j) c sc = arriveCount (s.core j) c sc := by
  rw [completePhase_core]
  split
  · exact arriveCount_setDone ..
  · rfl

/-! ### An arrival -/

/-- The arrival is counted; the phase is as it was. -/
def State.counted (s : State) (k : Fin 128) (c : CtxId) (sc : Scope) : State :=
  s.setCore k (setArrive (s.core k) c sc (arriveCount (s.core k) c sc + 1))

theorem arrive_eq_completePhase {sc : Scope} (h : sc ≠ .pod) (s : State) (k : Fin 128) (c : CtxId) :
    s.arrive k c sc = (s.counted k c sc).completePhase k sc := by
  cases sc with
  | pod => exact absurd rfl h
  | _ => rfl

section
variable (s : State) (k : Fin 128) (c : CtxId) (sc : Scope)

theorem arriveCount_counted : arriveCount ((s.counted k c sc).core k) c sc = arriveCount (s.core k) c sc + 1 := by
  rw [State.counted, State.setCore_core_self, arriveCount_setArrive]

theorem doneCount_counted (j : Fin 128) : doneCount ((s.counted k c sc).core j) sc = doneCount (s.core j) sc := by
  rw [State.counted]
  rcases eq_or_ne j k with rfl | hne
  · rw [State.setCore_core_self, doneCount_setArrive]
  · rw [State.setCore_core_ne _ _ hne]

theorem scopeCores_counted : (s.counted k c sc).scopeCores k sc = s.scopeCores k sc := scopeCores_setCore (setArrive_inst ..) sc

theorem partContexts_counted : (s.counted k c sc).partContexts k = s.partContexts k :=
  partContexts_setCore (setArrive_inst ..) fun _ => setArrive_run ..

/-- The completed count of a core of the scope after an arrival, `Q` being that the phase is complete. -/
theorem doneCount_arrive {sc : Scope} (h : sc ≠ .pod) {Q : Prop} [Decidable Q] (hQ : PhaseDone (s.counted k c sc) k sc ↔ Q) {j : Fin 128}
    (hj : j ∈ s.scopeCores k sc) :
    doneCount ((s.arrive k c sc).core j) sc = if Q then doneCount (s.core k) sc + 1 else doneCount (s.core j) sc := by
  rw [arrive_eq_completePhase h, completePhase_core, scopeCores_counted]
  by_cases hd : Q
  · rw [if_pos ⟨hQ.mpr hd, hj⟩, if_pos hd, doneCount_setDone, doneCount_counted]
  · rw [if_neg fun hd' => hd (hQ.mp hd'.1), if_neg hd, doneCount_counted]

theorem phaseDone_counted {sc : Scope} (hpod : sc ≠ .pod) (hcore : sc ≠ .core) : PhaseDone (s.counted k c sc) k sc ↔
    ∀ i ∈ s.scopeCores k sc, (doneCount (s.core k) sc + 1).toNat ≤ (arriveCount ((s.arrive k c sc).core i) c sc).toNat := by
  simp only [PhaseDone, if_neg hcore, scopeCores_counted, doneCount_counted, arrive_eq_completePhase hpod, arriveCount_completePhase,
    arriveCount_ctx _ c .ld hcore]

theorem phaseDone_counted_core {sc : Scope} (hcore : sc = .core) : PhaseDone (s.counted k c sc) k sc ↔ ∀ x ∈ s.partContexts k,
    (doneCount (s.core k) sc + 1).toNat ≤ (arriveCount ((s.arrive k c sc).core k) x .core).toNat := by
  subst hcore
  simp only [PhaseDone, if_true, partContexts_counted, doneCount_counted, arrive_eq_completePhase (by decide : Scope.core ≠ .pod),
    arriveCount_completePhase]

end

/-! ### Pod scope (R359): telling the other members and completing the phase leave the arrival counts -/

theorem State.sendOut_core (s : State) (fb : Bool) (target : Nat) (m : OutMsg) (j : Fin 128) :
    (s.sendOut fb target m).core j = s.core j := by
  rw [State.sendOut]
  split <;> rfl

theorem State.tellSpan_core (s : State) (fb : Bool) (key rank : Nat) (sp : PodSpan) (j : Fin 128) :
    (s.tellSpan fb key rank sp).core j = s.core j :=
  foldl_keep (fun t : State => t.core j = s.core j) _ _ s rfl fun t _ _ ht => (t.sendOut_core ..).trans ht

theorem State.beginPhase_core (s : State) (key : Nat) (j : Fin 128) : (s.beginPhase key).core j = s.core j := by
  rw [State.beginPhase]
  split <;> rfl

theorem arriveCount_completeSpan (s : State) (key members : Nat) (sp : PodSpan) (j : Fin 128) (c : CtxId) (sc : Scope) :
    arriveCount ((s.completeSpan key members sp).core j) c sc = arriveCount (s.core j) c sc := by
  by_cases hall : ∀ r, r < members → key * 4096 + r ∈ s.fab.arrived
  · obtain ⟨hin, hout⟩ := (State.completeSpan_all (sp := sp) hall).2 j
    by_cases hj : (s.core j).inst ≠ none ∧ s.podSpan j = sp
    · rw [hin hj.1 hj.2, arriveCount_setDone]
    · rw [hout (by tauto)]
  · rw [State.completeSpan_some hall]

theorem arriveCount_podArrive (s : State) (k j : Fin 128) (key rank cores : Nat) (sp : PodSpan) (c : CtxId) (sc : Scope) :
    arriveCount ((s.podArrive k key rank cores sp).core j) c sc = arriveCount (s.core j) c sc := by
  rw [State.podArrive]
  split
  · rw [arriveCount_completeSpan, State.tellSpan_core, State.setFab_core, State.setFab_core, State.beginPhase_core]
  · rw [State.setFab_core, State.beginPhase_core]

/-- An arrival counts once, whatever it completes. -/
theorem arriveCount_arrive (s : State) (k : Fin 128) (c : CtxId) (sc : Scope) :
    arriveCount ((s.arrive k c sc).core k) c sc = arriveCount (s.core k) c sc + 1 := by
  by_cases hpod : sc = .pod
  · subst hpod
    rw [← arriveCount_counted, State.arrive]
    split
    · split
      · exact arriveCount_podArrive ..
      · rfl
    · split
      · exact arriveCount_podArrive ..
      · rfl
    · rfl
  · rw [arrive_eq_completePhase hpod, arriveCount_completePhase, arriveCount_counted]

/-! ### The words -/

theorem mustWait_iff (x : Core) (c : CtxId) (sc : Scope) : mustWait x c sc = true ↔ arriveCount x c sc = doneCount x sc + 1 := beq_iff_eq

theorem passed_iff (x : Core) (c : CtxId) (sc : Scope) : passed x c sc = true ↔ (arriveCount x c sc).toNat ≤ (doneCount x sc).toNat :=
  decide_eq_true_iff

section
variable {s : State} {k : Fin 128} {c : CtxId} {g : Guard} (h : Runs s k c g) {sc : Scope}

include h

theorem barrier_refused (hr : sc = .pod ∧ s.spanRefused k = true) (body : Fin 128 → CtxId → Ctx → Scope → Out) :
    barrier s g sc body = .next (s.raiseCtx k c ⟨.channel, 0, 0xFF⟩) := by
  simp only [barrier, ctl_runs h, hr]
  rfl

theorem barrier_acts (hr : ¬ (sc = .pod ∧ s.spanRefused k = true)) (body : Fin 128 → CtxId → Ctx → Scope → Out) :
    barrier s g sc body = body k c (s.ctx k c) (s.actScope k sc) := by
  rw [barrier, ctl_runs h, if_neg (by simpa using hr)]

/-- BAR.arrive.wait before its arrival. -/
theorem exec_barAw_fresh (hr : ¬ (sc = .pod ∧ s.spanRefused k = true)) (hat : (s.ctx k c).arrived = false) :
    exec (.barAw g sc) s = if mustWait (s.core k) c (s.actScope k sc) then .next s
      else if passed ((s.arrive k c (s.actScope k sc)).core k) c (s.actScope k sc) then
        .next ((s.arrive k c (s.actScope k sc)).advance k c)
      else .next ((s.arrive k c (s.actScope k sc)).setCtx k c { (s.arrive k c (s.actScope k sc)).ctx k c with arrived := true }) := by
  rw [exec_barAw, execBarAw, barrier_acts h hr, hat]
  rfl

/-- BAR.arrive.wait once it has arrived. -/
theorem exec_barAw_arrived (hr : ¬ (sc = .pod ∧ s.spanRefused k = true)) (hat : (s.ctx k c).arrived = true) :
    exec (.barAw g sc) s = if passed (s.core k) c (s.actScope k sc) then
      .next ((s.setCtx k c { s.ctx k c with arrived := false }).advance k c) else .next s := by
  rw [exec_barAw, execBarAw, barrier_acts h hr, hat]
  rfl

theorem trmDo_runs (f : Fin 128 → CtxId → Ctx → Trm → Out) : trmDo g s f = f k c (s.ctx k c) (s.core k).trm := by
  rw [trmDo, ctl_runs h]

end

/-- The scope at which a barrier acts: pod without a span is package (R216). -/
theorem actScope_eq (s : State) (k : Fin 128) (sc : Scope) :
    s.actScope k sc = if sc = .pod ∧ s.podSpan k = .package then .package else sc := by
  rw [State.actScope]
  exact if_congr (by simp) rfl rfl

end Sys2Proof.Machine

open Sys2Proof.Machine Sys2Proof.Safety in
/-- Settles O11: a barrier word acts by the counts of its core, a TRM word by its termination state. -/
theorem barriersAndTermination : Obligations.BarriersAndTermination := by
  unfold Obligations.BarriersAndTermination
  refine ⟨fun s k c g sc0 pd h => ?barriers, fun s k c g ra pd h => ?termination⟩
  case barriers =>
    intro sc A P held ready t refused faults
    have hsc : s.actScope k sc0 = sc := actScope_eq s k sc0
    refine ⟨fun hr => ⟨?_, ?_, ?_, ?_⟩, fun hr => ⟨fun hheld => ?_, fun hheld => ?_, arriveCount_arrive s k c sc, fun j hj hpod hcore => ?_,
      fun j hj hcore => ?_, fun hready => ?_, fun hready => ?_, ⟨passed (s.core k) c sc, passed_iff .., ?_⟩, fun hat hheld => ?_,
      fun hat hheld hready => ?_, fun hat hheld hready => ?_, fun hat hready => ?_, fun hat hready => ?_⟩⟩
    · exact (exec_barA ..).trans (barrier_refused h hr _)
    · exact (exec_barW ..).trans (barrier_refused h hr _)
    · exact (exec_barAw ..).trans (barrier_refused h hr _)
    · exact (exec_barTry ..).trans (barrier_refused h hr _)
    · rw [exec_barA, execBarA, barrier_acts h hr, hsc]
      exact if_pos ((mustWait_iff ..).mpr hheld)
    · rw [exec_barA, execBarA, barrier_acts h hr, hsc]
      exact if_neg ((mustWait_iff ..).not.mpr hheld)
    · exact doneCount_arrive s k c hpod (phaseDone_counted s k c hpod hcore) hj
    · exact doneCount_arrive s k c (by rw [hcore]; decide) (phaseDone_counted_core s k c hcore) hj
    · rw [exec_barW, execBarW, barrier_acts h hr, hsc]
      exact if_pos ((passed_iff ..).mpr hready)
    · rw [exec_barW, execBarW, barrier_acts h hr, hsc]
      exact if_neg ((passed_iff ..).not.mpr hready)
    · rw [exec_barTry, execBarTry, barrier_acts h hr, hsc]
    · rw [exec_barAw_fresh h hr hat, hsc]
      exact if_pos ((mustWait_iff ..).mpr hheld)
    · rw [exec_barAw_fresh h hr hat, hsc]
      exact (if_neg ((mustWait_iff ..).not.mpr hheld)).trans (if_pos ((passed_iff ..).mpr hready))
    · rw [exec_barAw_fresh h hr hat, hsc]
      exact (if_neg ((mustWait_iff ..).not.mpr hheld)).trans (if_neg ((passed_iff ..).not.mpr hready))
    · rw [exec_barAw_arrived h hr hat, hsc]
      exact if_pos ((passed_iff ..).mpr hready)
    · rw [exec_barAw_arrived h hr hat, hsc]
      exact if_neg ((passed_iff ..).not.mpr hready)
  case termination =>
    intro n t set
    refine ⟨fun hn => ?_, fun hn ht hlt => ?_, fun hn hno => ?_, fun ht => ⟨?_, ?_⟩, fun ht => ⟨?_, ?_⟩, ?_⟩
    · rw [exec_trmSend, execTrmSend, trmDo_runs h]
      exact if_pos hn
    · rw [exec_trmSend, execTrmSend, trmDo_runs h]
      exact (if_neg (Nat.not_le.mpr hn)).trans (if_pos (by simp [ht, hlt, t, n]))
    · rw [exec_trmSend, execTrmSend, trmDo_runs h]
      refine (if_neg (Nat.not_le.mpr hn)).trans (if_neg fun hsends => ?_)
      obtain ⟨hterm, hlower⟩ : t.term = false ∧ n < (s.core k).disp.grank.toNat := by simpa using hsends
      exact hno.elim (Nat.not_le.mpr hlower) (ne_true_of_eq_false hterm)
    · rw [exec_trmIdle, execTrmIdle, trmDo_runs h, if_neg (ne_true_of_eq_false ht)]
      rfl
    · rw [exec_trmBusy, execTrmBusy, trmDo_runs h, if_neg (ne_true_of_eq_false ht)]
      rfl
    · rw [exec_trmIdle, execTrmIdle, trmDo_runs h, if_pos ht]
    · rw [exec_trmBusy, execTrmBusy, trmDo_runs h, if_pos ht]
    · rw [exec_trmTest, execTrmTest, trmDo_runs h]

end

section

/-! # The bytes that stores, atomics and reductions leave (O14)

Faults, waits, registers and requests to other packages are quiet: they change no byte of memory and no line of a data L1. What is
left is the one write of a store, and the line written back and the one write of an atomic (R198, R199, R204, R205). -/

set_option Elab.async false

namespace Sys2Proof.Machine

open Sys2Proof.Safety

/-! ### Steps that touch no byte -/

/-- No byte of memory and no line of a data L1 differs. -/
def Quiet (s t : State) : Prop := (∀ a, t.mem.byte a = s.mem.byte a) ∧ ∀ j, (t.core j).dl1 = (s.core j).dl1

namespace Quiet

theorem refl (s : State) : Quiet s s := ⟨fun _ => rfl, fun _ => rfl⟩

theorem trans {s t u : State} (h : Quiet s t) (h' : Quiet t u) : Quiet s u :=
  ⟨fun a => (h'.1 a).trans (h.1 a), fun j => (h'.2 j).trans (h.2 j)⟩

theorem seen_eq {s t : State} (h : Quiet s t) (k : Fin 128) (a : Nat) : seen t k a = seen s k a := by
  rw [seen, Core.dline, h.2, h.1]
  rfl

theorem of_onlyTlb {s t : State} (h : OnlyTlb s t) : Quiet s t := ⟨onlyTlb_byte h, fun j => by rw [h.core j]⟩

variable (s : State)

theorem setCore {k : Fin 128} {x : Core} (h : x.dl1 = (s.core k).dl1) : Quiet s (s.setCore k x) := by
  refine ⟨fun _ => rfl, fun j => ?_⟩
  rcases eq_or_ne j k with rfl | hne
  · rw [State.setCore_core_self, h]
  · rw [State.setCore_core_ne _ _ hne]

theorem setCtx (k : Fin 128) (c : CtxId) (x : Ctx) : Quiet s (s.setCtx k c x) := setCore s (by cases c <;> rfl)

theorem advance (k : Fin 128) (c : CtxId) : Quiet s (s.advance k c) := setCtx ..

theorem retX (k : Fin 128) (c : CtxId) (rd : Fin 32) (v : W64) : Quiet s (s.retX k c rd v) := setCtx ..

theorem setQuad (q : Fin 32) (x : Quad) : Quiet s (s.setQuad q x) := ⟨fun _ => rfl, fun _ => rfl⟩

theorem raiseCtx (k : Fin 128) (c : CtxId) (tr : Trap) : Quiet s (s.raiseCtx k c tr) := by
  rcases s.raise_cases k (ctxAgent c) (s.ctx k c).pc tr with h | h <;> rw [State.raiseCtx, h]
  · exact refl s
  · exact setCore s rfl

theorem sendOut (fb : Bool) (target : Nat) (m : OutMsg) : Quiet s (s.sendOut fb target m) := by
  refine ⟨fun a => ?_, fun j => by rw [State.sendOut_core]⟩
  rw [State.sendOut]
  split <;> rfl

theorem sendRemote (k : Fin 128) (who : RemoteFor) (loc ea : W64) (cls target inc addr len : Nat)
    (data : Option (List Byte × List (Nat × Nat))) : Quiet s (s.sendRemote k who loc ea cls target inc addr len data).2 := by
  unfold State.sendRemote
  extract_lets id x r f u
  have hu : Quiet s u := ⟨fun _ => rfl, fun _ => rfl⟩
  exact hu.trans (sendOut ..)

/-! The loads that a full granule satisfies -/

theorem feRead (k : Fin 128) (c : CtxId) (ea : W64) (q : Fin 32) (off : Nat) (rd : Fin 32) : Quiet s (feRead s k c ea q off rd) := by
  rw [Machine.feRead]
  split
  · exact raiseCtx ..
  · exact setCtx ..

theorem serveLoad (k : Fin 128) (c : CtxId) : Quiet s (serveLoad s k c) := by
  rw [Machine.serveLoad]
  split
  · exact feRead ..
  · exact refl s

theorem fillGranule (q : Fin 32) (off : Nat) : Quiet s (s.fillGranule q off) := by
  rw [State.fillGranule]
  split
  · exact setQuad ..
  · exact foldl_keep (Quiet s) _ _ _ (setQuad ..) fun t _ _ ht => ht.trans (serveLoad t _ _)

end Quiet

/-- A word under a guard passes, or its body runs. -/
theorem ctl_of_cur {s t : State} {k : Fin 128} {c : CtxId} {g : Guard} {body : Fin 128 → CtxId → Ctx → Out} (hc : s.cur = .context k c)
    (h : ctl s g body = .next t) : t = s.advance k c ∨ body k c (s.ctx k c) = .next t := by
  obtain ⟨k', c', hc', hbody⟩ := ctl_cases h
  obtain ⟨rfl, rfl⟩ : k = k' ∧ c = c' := by simpa using hc.symm.trans hc'
  exact hbody.imp And.right And.right

/-! ### What a store leaves (R198, R199) -/

/-- A store of `n` bytes at `ea` by core `k` spares the other bytes, in memory and as the core sees them. -/
def SparesOthers (s t : State) (k : Fin 128) (ea : W64) (n : Nat) : Prop :=
  ∀ a, (∀ q off, spaceOf k ea = some (.sram q off) → a < sramFlat q off ∨ sramFlat q off + n ≤ a) →
    t.mem.byte a = s.mem.byte a ∧ ((∀ flat u, HereAt s k ea n .write flat u → a < flat ∨ flat + n ≤ a) → seen t k a = seen s k a)

section
variable {s t u : State} {k : Fin 128} {c : CtxId} {ea va : W64} {n flat : Nat} {bs : List Byte}

theorem Quiet.spares (h : Quiet s t) : SparesOthers s t k ea n := fun a _ => ⟨h.1 a, fun _ => h.seen_eq k a⟩

theorem SparesOthers.quiet (h : SparesOthers s t k ea n) (h' : Quiet t u) : SparesOthers s u k ea n := fun a ha => by
  obtain ⟨hb, hs⟩ := h a ha
  exact ⟨(h'.1 a).trans hb, fun hf => (h'.seen_eq k a).trans (hs hf)⟩

theorem write_byte_outside (m : MemSide) {a b : Nat} (h : b < a ∨ a + bs.length ≤ b) : (m.write a bs).byte b = m.byte b := by
  rw [MemSide.write_byte, dif_neg (by omega)]

theorem write_spares {q : Fin 32} {off : Nat} (hspace : spaceOf k ea = some (.sram q off)) :
    SparesOthers s (s.setMem (s.mem.write (sramFlat q off) bs)) k ea bs.length := fun a ha => by
  have hbyte : (s.mem.write (sramFlat q off) bs).byte a = s.mem.byte a := write_byte_outside _ (ha q off hspace)
  refine ⟨hbyte, fun _ => ?_⟩
  rw [seen, State.setMem_core, State.setMem_mem, hbyte]
  rfl

/-- A store through the data L1 leaves memory, and what the core sees of the other bytes. -/
theorem l1Put_frame (h : s.l1Put k va flat bs = .ok t) (hl : flat % 128 + bs.length ≤ 128) :
    t.mem = s.mem ∧ ∀ a, a < flat ∨ flat + bs.length ≤ a → seen t k a = seen s k a := by
  by_cases hroom : (s.core k).hasRoom (flat / 128 * 128) = true
  · rw [l1Put_ok s k va flat bs hroom] at h
    cases h
    exact ⟨rfl, fun a ha => by rw [l1Put_seen s k va flat bs hl, dif_neg (by omega)]⟩
  · rw [Bool.not_eq_true] at hroom
    rw [State.l1Put, hroom] at h
    cases h

theorem l1Store_frame (h : s.l1Store k va flat bs = .ok t) (hn : bs.length ≤ 128) :
    t.mem = s.mem ∧ ∀ a, a < flat ∨ flat + bs.length ≤ a → seen t k a = seen s k a := by
  unfold State.l1Store at h
  extract_lets m at h
  split at h
  case isTrue hl => exact l1Put_frame h (by omega)
  case isFalse hl =>
    have htake : (bs.take m).length = m := by rw [List.length_take]; omega
    have hdrop : (bs.drop m).length = bs.length - m := List.length_drop
    cases hfirst : s.l1Put k va flat (bs.take m) with
    | ok u =>
      rw [hfirst] at h
      obtain ⟨hmem, hseen⟩ := l1Put_frame hfirst (by omega)
      obtain ⟨hmem', hseen'⟩ := l1Put_frame h (by omega)
      exact ⟨hmem'.trans hmem, fun a ha => (hseen' a (by omega)).trans (hseen a (by omega))⟩
    | trap _ => rw [hfirst] at h; cases h
    | wait => rw [hfirst] at h; cases h

theorem store_spares (hhere : HereAt s k ea bs.length .write flat u) (h : u.l1Store k va flat bs = .ok t) (hn : bs.length ≤ 128) :
    SparesOthers s t k ea bs.length := fun a _ => by
  have htlb := hereAt_onlyTlb hhere
  obtain ⟨hmem, hseen⟩ := l1Store_frame h hn
  exact ⟨by rw [hmem, onlyTlb_byte htlb], fun hf => (hseen a (hf flat u hhere)).trans (onlyTlb_seen htlb k a)⟩

end

/-- The state of an access that is performed or waits spares the bytes outside it. -/
def Got.Spares {α : Type} (s : State) (k : Fin 128) (ea : W64) (n : Nat) : Got α → Prop
  | .ok _ t => SparesOthers s t k ea n
  | .trap _ => True
  | .wait t => Quiet s t

theorem spaceOf_virt {k : Fin 128} {ea : W64} {va : Nat} (h : spaceOf k ea = some (.virt va)) : va = ea.toNat := by
  rw [spaceOf] at h
  split at h
  · cases h
    rfl
  · split at h
    · split at h <;> cases h
    · split at h
      · split at h <;> cases h
      · cases h

section
variable {s t : State} {k : Fin 128} {c : CtxId} {g : Guard}

theorem storeBytes_spares (s : State) (k : Fin 128) (c : CtxId) (ea : W64) (cls : Nat) {bs : List Byte} (hn : bs.length ≤ 128) :
    (s.storeBytes k c ea cls bs).Spares s k ea bs.length := by
  rw [State.storeBytes]
  split
  case isTrue => exact .refl s
  case isFalse =>
    split
    case h_1 => trivial
    case h_2 q off hspace =>
      split
      · extract_lets x
        split
        · trivial
        split
        · trivial
        split
        · exact .refl s
        · exact (Quiet.setQuad ..).spares
      · split
        · trivial
        · exact .refl s
        · exact write_spares hspace
    case h_3 va hspace =>
      obtain rfl := spaceOf_virt hspace
      split
      case h_1 => trivial
      case h_2 ds u hvirt =>
        have htlb := Quiet.of_onlyTlb (virtual_onlyTlb hvirt)
        split
        · rename_i flat host m l
          have hhere : HereAt s k ea bs.length .write flat u := ⟨host, m, l, hspace, hvirt⟩
          split
          case h_1 hstore => exact store_spares hhere hstore hn
          case h_2 => trivial
          case h_3 => exact htlb
        · split
          · exact htlb
          · exact (htlb.trans (Quiet.sendRemote ..)).spares
        · exact htlb.spares

/-- A store word, whatever becomes of it. -/
theorem storeWord_spares {n : Nat} {rs ra : Fin 32} {cls : Fin 16} {imm : BitVec 8} (hc : s.cur = .context k c) (hn : n ≤ 128)
    (h : storeWord n g rs ra cls imm s = .next t) : SparesOthers s t k (eaM (s.ctx k c) ra imm n) n := by
  rcases ctl_of_cur hc h with rfl | hbody
  · exact (Quiet.advance ..).spares
  · extract_lets ea at hbody
    split at hbody
    · cases hbody
      exact (Quiet.raiseCtx ..).spares
    · have hlen : (leBytesOf n ((s.ctx k c).getX rs).toNat).length = n := leBytesOf_length ..
      have hspares := storeBytes_spares s k c ea cls.val (bs := leBytesOf n ((s.ctx k c).getX rs).toNat) (hlen.trans_le hn)
      rw [hlen] at hspares
      generalize s.storeBytes k c ea cls.val (leBytesOf n ((s.ctx k c).getX rs).toNat) = got at hbody hspares
      cases got with
      | ok _ u =>
        cases hbody
        exact hspares.quiet (Quiet.advance ..)
      | trap tr =>
        cases hbody
        exact (Quiet.raiseCtx ..).spares
      | wait u =>
        cases hbody
        exact hspares.spares

/-- A full-empty access is refused or waits, or its body runs at the scratchpad bytes of its address. -/
theorem feAccess_cases {ra : Fin 32} {cls : Fin 16} {imm : BitVec 6} {body : Fin 128 → CtxId → Ctx → W64 → Fin 32 → Nat → Out}
    (hc : s.cur = .context k c) (h : feAccess s g ra cls imm body = .next t) : Quiet s t ∨
      ∃ q off, spaceOf k (eaFE (s.ctx k c) ra imm) = some (.sram q off) ∧ body k c (s.ctx k c) (eaFE (s.ctx k c) ra imm) q off = .next t := by
  rcases ctl_of_cur hc h with rfl | hbody
  · exact .inl (Quiet.advance ..)
  · extract_lets ea at hbody
    split at hbody
    · cases hbody
      exact .inl (Quiet.raiseCtx ..)
    split at hbody
    · cases hbody
      exact .inl (Quiet.refl s)
    rw [padAccess] at hbody
    split at hbody
    · cases hbody
      exact .inl (Quiet.raiseCtx ..)
    split at hbody
    case h_1 q off hspace =>
      split at hbody
      · cases hbody
        exact .inl (Quiet.raiseCtx ..)
      · cases hbody
        exact .inl (Quiet.refl s)
      · exact .inr ⟨q, off, hspace, hbody⟩
    case h_2 =>
      cases hbody
      exact .inl (Quiet.raiseCtx ..)

theorem feStore_spares {ea : W64} {x : Ctx} {q : Fin 32} {off : Nat} {rs : Fin 32} (hspace : spaceOf k ea = some (.sram q off))
    (h : feStore s k c x q off rs = .next t) : SparesOthers s t k ea 8 := by
  cases h
  have hwrite : SparesOthers s (s.setMem (s.mem.write (sramFlat q off) (leBytesOf 8 (x.getX rs).toNat))) k ea 8 := by
    simpa only [leBytesOf_length] using write_spares (bs := leBytesOf 8 (x.getX rs).toNat) hspace
  exact hwrite.quiet ((Quiet.setCtx ..).trans (Quiet.fillGranule ..))

theorem exec_stfeF_spares {rs ra : Fin 32} {cls : Fin 16} {imm : BitVec 6} (hc : s.cur = .context k c)
    (h : exec (.stfeF g rs ra cls imm) s = .next t) : SparesOthers s t k (eaFE (s.ctx k c) ra imm) 8 := by
  rw [exec_stfeF, execStfeF] at h
  rcases feAccess_cases hc h with hq | ⟨q, off, hspace, hbody⟩
  · exact hq.spares
  · exact feStore_spares hspace hbody

theorem exec_stfeWe_spares {rs ra : Fin 32} {cls : Fin 16} {imm : BitVec 6} (hc : s.cur = .context k c)
    (h : exec (.stfeWe g rs ra cls imm) s = .next t) : SparesOthers s t k (eaFE (s.ctx k c) ra imm) 8 := by
  rw [exec_stfeWe, execStfeWe] at h
  rcases feAccess_cases hc h with hq | ⟨q, off, hspace, hbody⟩
  · exact hq.spares
  · split at hbody
    · cases hbody
      exact (Quiet.setCtx ..).spares
    · exact feStore_spares hspace hbody

/-- Every word that stores, by its effective address. -/
theorem storeAt_spares {i : Instr} {ea : W64} {n : Nat} (hc : s.cur = .context k c) (hi : storeAt i (s.ctx k c) = some (ea, n))
    (h : exec i s = .next t) : SparesOthers s t k ea n := by
  unfold storeAt at hi
  split at hi <;> cases hi
  · exact storeWord_spares (n := 1) hc (by decide) h
  · exact storeWord_spares (n := 2) hc (by decide) h
  · exact storeWord_spares (n := 4) hc (by decide) h
  · exact storeWord_spares (n := 8) hc (by decide) h
  · exact exec_stfeF_spares hc h
  · exact exec_stfeWe_spares hc h

/-! ### What an atomic leaves (R204, R205) -/

theorem bankRange_mem {off last b : Nat} (h : off / 2 ^ 20 ≤ b) (h' : b ≤ last / 2 ^ 20) :
    b ∈ (List.range (bankOf last - bankOf off + 1)).map fun i => bankOf off + i := by
  simp only [bankOf]
  exact List.mem_map.mpr ⟨b - off / 2 ^ 20, List.mem_range.mpr (by omega), by omega⟩

/-- The checks of R189 pass only where the bytes lie in banks in scratchpad mode. -/
theorem padAt_of_check {ea : W64} {n off : Nat} {q : Fin 32} (hspace : spaceOf k ea = some (.sram q off))
    (h : s.padCheck k ea q off n = .ok ()) : PadAt s k ea n q off := by
  unfold State.padCheck at h
  extract_lets x last banks at h
  split at h
  case isTrue => cases h
  case isFalse hgang =>
    split at h
    case isTrue => cases h
    case isFalse hlast =>
      split at h
      case isTrue => cases h
      case isFalse hswitch =>
        split at h
        case h_1 => cases h
        case h_2 hmode =>
          refine ⟨hspace, by simpa using hgang, by omega, fun b hb hb' => ?_⟩
          have hmem : b ∈ banks := bankRange_mem hb hb'
          rw [Bool.not_eq_true, List.any_eq_false] at hswitch
          have hpad := List.find?_eq_none.mp hmode b hmem
          exact ⟨by simpa using hswitch b hmem, by simpa [Quad.bankMode, modePad] using hpad⟩

/-- Where an atomic acts, or that it does not. -/
theorem atomicDest_cases (s : State) (k : Fin 128) (ea : W64) (n : Nat) :
    (∃ flat u, atomicDest s k ea n = .ok flat u ∧ AtomicAt s k ea n flat u) ∨ (∃ tr, atomicDest s k ea n = .trap tr) ∨
      atomicDest s k ea n = .wait s := by
  rw [atomicDest]
  split
  case h_1 => exact .inr (.inl ⟨_, rfl⟩)
  case h_2 q off hspace =>
    split
    case h_1 tr _ => exact .inr (.inl ⟨tr, rfl⟩)
    case h_2 => exact .inr (.inr rfl)
    case h_3 hcheck => exact .inl ⟨_, _, rfl, .inl ⟨q, off, padAt_of_check hspace hcheck, rfl, rfl⟩⟩
  case h_3 va hspace =>
    obtain rfl := spaceOf_virt hspace
    split
    case h_1 tr _ => exact .inr (.inl ⟨tr, rfl⟩)
    case h_2 ds u hvirt =>
      split
      · rename_i flat m l
        exact .inl ⟨flat, u, rfl, .inr ⟨m, l, hspace, hvirt⟩⟩
      · exact .inr (.inl ⟨_, rfl⟩)

theorem atomicAt_quiet {ea : W64} {n flat : Nat} {u : State} (h : AtomicAt s k ea n flat u) : Quiet s u := by
  rcases h with ⟨_, _, _, _, rfl⟩ | ⟨_, _, _, hvirt⟩
  · exact .refl u
  · exact .of_onlyTlb (virtual_onlyTlb hvirt)

/-- A byte of memory that no dirty line that holds the operand has at its address stays. -/
theorem dropLineAt_byte (s : State) (k : Fin 128) (flat n : Nat) {a : Nat}
    (h : ∀ l ∈ (s.core k).dl1, l.pa < flat + n → flat < l.pa + 128 → ∀ v, ¬ DirtyAt l a v) :
    (dropLineAt s k flat n).mem.byte a = s.mem.byte a := by
  obtain ⟨-, ⟨hkeeps, -⟩, -⟩ := flushLines_ok s k (fun l => decide (l.pa < flat + n) && decide (flat < l.pa + 128))
    fun l => decide (l.pa < flat + n) && decide (flat < l.pa + 128)
  refine hkeeps a ?_
  rintro ⟨l, hl, v, hp, hd⟩
  obtain ⟨hlt, hlt'⟩ : l.pa < flat + n ∧ flat < l.pa + 128 := by simpa using hp
  exact h l hl hlt hlt' v hd

/-- The word is `atomic` at the address in `ra`, and what it gives back touches no byte. -/
def IsAtomic (i : Instr) (s : State) (ra : Fin 32) (dbl : Bool) : Prop :=
  ∃ op g rb cls exp ret, exec i s = atomic op g ra rb cls dbl exp s ret ∧ ∀ u k c m, Quiet u (ret u k c m)

theorem isAtomic_of_amo {i : Instr} {op : AtomicOp} {rd ra rb : Fin 32} {cls : Fin 4} {dbl : Bool}
    (h : exec i s = amo op g rd ra rb cls dbl s) : IsAtomic i s ra dbl := ⟨_, _, _, _, _, _, h, fun _ _ _ _ => Quiet.retX ..⟩

theorem isAtomic_of_red {i : Instr} {op : AtomicOp} {ra rb : Fin 32} {cls : Fin 4} {dbl : Bool}
    (h : exec i s = red op g ra rb cls dbl s) : IsAtomic i s ra dbl := ⟨_, _, _, _, _, _, h, fun _ _ _ _ => Quiet.advance ..⟩

theorem isAtomic_of_atomicAddr {i : Instr} {ra : Fin 32} {n : Nat} (hi : atomicAddr i = some (ra, n)) :
    ∃ dbl, IsAtomic i s ra dbl ∧ n = atomicBytes dbl := by
  unfold atomicAddr at hi
  split at hi <;> cases hi
  · exact ⟨_, isAtomic_of_amo (exec_amoSwap ..), rfl⟩
  · exact ⟨_, isAtomic_of_amo (exec_amoAdd ..), rfl⟩
  · exact ⟨_, isAtomic_of_amo (exec_amoAnd ..), rfl⟩
  · exact ⟨_, isAtomic_of_amo (exec_amoOr ..), rfl⟩
  · exact ⟨_, isAtomic_of_amo (exec_amoXor ..), rfl⟩
  · exact ⟨_, isAtomic_of_amo (exec_amoMin ..), rfl⟩
  · exact ⟨_, isAtomic_of_amo (exec_amoMax ..), rfl⟩
  · exact ⟨_, isAtomic_of_amo (exec_amoMinu ..), rfl⟩
  · exact ⟨_, isAtomic_of_amo (exec_amoMaxu ..), rfl⟩
  · exact ⟨_, isAtomic_of_amo (exec_amoCas ..), rfl⟩
  · exact ⟨false, isAtomic_of_amo (exec_amoFadd ..), rfl⟩
  · exact ⟨_, isAtomic_of_red (exec_redAdd ..), rfl⟩
  · exact ⟨_, isAtomic_of_red (exec_redAnd ..), rfl⟩
  · exact ⟨_, isAtomic_of_red (exec_redOr ..), rfl⟩
  · exact ⟨_, isAtomic_of_red (exec_redXor ..), rfl⟩
  · exact ⟨_, isAtomic_of_red (exec_redMin ..), rfl⟩
  · exact ⟨_, isAtomic_of_red (exec_redMax ..), rfl⟩
  · exact ⟨_, isAtomic_of_red (exec_redMinu ..), rfl⟩
  · exact ⟨_, isAtomic_of_red (exec_redMaxu ..), rfl⟩
  · exact ⟨false, isAtomic_of_red (exec_redFadd ..), rfl⟩

/-- A byte that is neither of the operand nor dirty in a line that holds the operand. -/
def SparedByAtomic (s : State) (k : Fin 128) (ea : W64) (n a : Nat) : Prop :=
  ∀ flat u, AtomicAt s k ea n flat u →
    (a < flat ∨ flat + n ≤ a) ∧ ∀ l ∈ (s.core k).dl1, l.pa < flat + n → flat < l.pa + 128 → ∀ v, ¬ DirtyAt l a v

theorem atomic_byte {op : AtomicOp} {ra rb : Fin 32} {cls : Fin 4} {dbl : Bool} {exp : Ctx → Nat} {ret : State → Fin 128 → CtxId → Nat → State}
    (hret : ∀ u k c m, Quiet u (ret u k c m)) (hc : s.cur = .context k c) (h : atomic op g ra rb cls dbl exp s ret = .next t) {a : Nat}
    (ha : SparedByAtomic s k ((s.ctx k c).getX ra) (atomicBytes dbl) a) : t.mem.byte a = s.mem.byte a := by
  rcases ctl_of_cur hc h with rfl | hbody
  · exact (Quiet.advance ..).1 a
  · extract_lets n ea at hbody
    have ha : SparedByAtomic s k ea n a := ha
    split at hbody
    · cases hbody
      exact (Quiet.raiseCtx ..).1 a
    split at hbody
    · cases hbody
      rfl
    rcases atomicDest_cases s k ea n with ⟨flat, u, hdest, hat⟩ | ⟨tr, hdest⟩ | hdest <;> rw [hdest] at hbody
    · obtain ⟨hout, hdirty⟩ := ha flat u hat
      have hdrop : (dropLineAt u k flat n).mem.byte a = s.mem.byte a := by
        rw [dropLineAt_byte u k flat n ((atomicAt_quiet hat).2 k ▸ hdirty), (atomicAt_quiet hat).1]
      dsimp only [Got.run] at hbody
      split at hbody
      · cases hbody
        exact (Quiet.raiseCtx ..).1 a
      · cases hbody
        rw [(hret ..).1 a, ← hdrop]
        refine write_byte_outside _ ?_
        rwa [leBytesOf_length]
    · cases hbody
      exact (Quiet.raiseCtx ..).1 a
    · cases hbody
      rfl

end

end Sys2Proof.Machine

open Sys2Proof.Machine Sys2Proof.Safety in
/-- Settles O14: the one write of a store and of an atomic, and the lines that an atomic writes back, are all that changes bytes. -/
theorem storeAndAtomicFrame : Obligations.StoreAndAtomicFrame := by
  unfold Obligations.StoreAndAtomicFrame
  refine ⟨fun i s t k c n ea hc hi h => ?stores, fun i s t k c n ra hc hi h a ha => ?atomics⟩
  case stores =>
    have hspares := storeAt_spares hc hi h
    exact ⟨fun a hout => (hspares a hout).1, fun a hout => (hspares a hout).2⟩
  case atomics =>
    obtain ⟨dbl, ⟨op, g, rb, cls, exp, ret, hexec, hret⟩, rfl⟩ := isAtomic_of_atomicAddr (s := s) hi
    exact atomic_byte hret hc (hexec.symm.trans h) ha

end

section

/-! # The requests of copy words and of drains (O30)

What a tile row holds once a row has come in, what a port answers that leads to one run of bytes of this package, and then what
performing a request does (R241, R300, R301, R318 to R324, R330). -/

set_option Elab.async false

namespace Sys2Proof.Machine

open Sys2Proof.Safety

/-! ### Rows of tiles (R63, R326) -/

/-- Looking up a value by its position among the numbered values. -/
theorem find?_indexed (l : List Nat) (i : Nat) : (l.zipIdx.map fun p => (p.2, p.1)).find? (·.1 == i) = l[i]?.map (i, ·) := by
  have hfrom : ∀ m, m ≤ i → ((l.zipIdx m).map fun p => (p.2, p.1)).find? (·.1 == i) = l[i - m]?.map (i, ·) := by
    induction l with
    | nil => intro m _; rfl
    | cons x l ih =>
      intro m hm
      rw [List.zipIdx_cons, List.map_cons]
      rcases Nat.eq_or_lt_of_le hm with rfl | hlt
      · rw [List.find?_cons_of_pos (by simp), Nat.sub_self]
        rfl
      · rw [List.find?_cons_of_neg (by simp [hlt.ne]), show i - m = i - (m + 1) + 1 by omega, List.getElem?_cons_succ, ih (m + 1) hlt]
  exact hfrom 0 i.zero_le

/-- A row whose first elements take new values, bit by bit. -/
theorem putElems_indexed_testBit {w : Nat} (hw : 0 < w) (row : Nat) (l : List Nat) (b : Nat) :
    (putElems w row (l.zipIdx.map fun p => (p.2, p.1))).testBit b =
      if b < l.length * w then (nth 0 l (b / w)).testBit (b % w) else row.testBit b := by
  have hnodup : ((l.zipIdx.map fun p => (p.2, p.1)).map (·.1)).Nodup := by
    rw [List.map_map]
    exact (List.zipIdx_map_snd 0 l).symm ▸ List.nodup_range'
  rw [putElems_testBit w row _ b hw hnodup, find?_indexed, nth]
  by_cases hb : b < l.length * w
  · rw [if_pos hb, List.getElem?_eq_getElem ((Nat.div_lt_iff_lt_mul hw).mpr hb)]
    rfl
  · rw [if_neg hb, List.getElem?_eq_none (Nat.not_lt.mp fun h => hb ((Nat.div_lt_iff_lt_mul hw).mp h))]
    rfl

/-- Nothing of the core changes but the row of the tile, whose first elements are then the values put. -/
theorem putRow_spec (c : Core) (t : Fin 48) {row : Nat} (hrow : row < 128) (f : Fmt) (l : List Nat) :
    c.putRow t.val row f l = { c with tiles := (c.putRow t.val row f l).tiles } ∧
    ∀ (t' : Fin 48) (row' b : Nat), row' < 128 → b < 1024 → ((c.putRow t.val row f l).rowBits t'.val row').testBit b =
      if t' = t ∧ row' = row ∧ b < l.length * f.width then (nth 0 l (b / f.width)).testBit (b % f.width)
      else (c.rowBits t'.val row').testBit b := by
  refine ⟨setRowBits_core .., fun t' row' b hrow' hb => ?_⟩
  rw [Core.putRow]
  by_cases hsame : t' = t ∧ row' = row
  · obtain ⟨rfl, rfl⟩ := hsame
    rw [setRowBits_self _ _ _ _ _ hb, putElems_indexed_testBit (fmt_width_pos f)]
    exact if_congr (by simp) rfl rfl
  · have hne : (t'.val, row') ≠ (t.val, row) := fun e => hsame ⟨Fin.ext (congrArg Prod.fst e), congrArg Prod.snd e⟩
    rw [setRowBits_ne _ _ _ _ _ _ hne hrow hrow', if_neg fun hall => hsame ⟨hall.1, hall.2.1⟩]

/-- A row of converted elements. -/
theorem nth_converted {w n j : Nat} (bs : List Byte) (conv : Nat → Nat × Fl) (hj : j < n) :
    nth 0 (((unpackRow w n bs).map conv).map (·.1)) j = (conv (elemOf (leNum bs) w j)).1 := by
  simp [nth, unpackRow, hj]

/-- The flags of a converted row. -/
theorem flags_converted {w n : Nat} (bs : List Byte) (conv : Nat → Nat × Fl) (b : Nat) :
    (((unpackRow w n bs).map conv).foldl (fun h e => h ||| e.2) (0 : Fl)).getLsbD b = true ↔
      ∃ j, j < n ∧ (conv (elemOf (leNum bs) w j)).2.getLsbD b = true := by
  rw [foldl_or_bit]
  simp [unpackRow]

/-- Flags gathered after others. -/
theorem foldl_or_start {α : Type} (l : List α) (g : α → Fl) (x : Fl) : l.foldl (fun h e => h ||| g e) x = x ||| l.foldl (fun h e => h ||| g e) 0 := by
  refine BitVec.eq_of_getLsbD_eq fun b _ => ?_
  rw [Bool.eq_iff_iff, BitVec.getLsbD_or, Bool.or_eq_true, foldl_or_bit, foldl_or_bit]
  simp

/-! ### Data that has come in (R301, R320) -/

/-- A row that came in whole: the tile takes its converted elements and the word their flags. -/
theorem placeData_row (s : State) (k : Fin 128) (a : ReqAt) (ea : W64) (len : Nat) (zp : Bool) (bs : List Byte) (bad : List (Nat × Nat))
    (t : Fin 48) {row : Nat} (hrow : row < 128) (n : Nat) (f g : Fmt) (rm : Rm) (sat : Bool) (env : NumEnv) : ∃ c fl,
    let elt (j : Nat) : Nat × Fl := convert env f g rm sat (elemOf (leNum bs) f.width j)
    s.placeData k a ea len zp (.row t.val row n f g rm sat env) bs bad none =
      performed ((s.setCore k c).updFlight k a.f fun y => { y with flags := y.flags ||| fl }) k a ∧
    c = { s.core k with tiles := c.tiles } ∧
    (∀ (t' : Fin 48) (row' b : Nat), row' < 128 → b < 1024 → (c.rowBits t'.val row').testBit b =
      if t' = t ∧ row' = row ∧ b < n * g.width then (elt (b / g.width)).1.testBit (b % g.width)
      else ((s.core k).rowBits t'.val row').testBit b) ∧
    (∀ b, fl.getLsbD b = true ↔ ∃ j, j < n ∧ (elt j).2.getLsbD b = true) := by
  let es := (unpackRow f.width n bs).map (convert env f g rm sat)
  obtain ⟨honly, hbits⟩ := putRow_spec (s.core k) t hrow g (es.map (·.1))
  refine ⟨(s.core k).putRow t.val row g (es.map (·.1)), es.foldl (fun (h : Fl) (e : Nat × Fl) => h ||| e.2) 0, ?_, honly, fun t' row' b hrow' hb => ?_,
    flags_converted bs _⟩
  · have hflags : (fun y : Flight => { y with flags := es.foldl (fun (h : Fl) (e : Nat × Fl) => h ||| e.2) y.flags }) =
        fun y => { y with flags := y.flags ||| es.foldl (fun (h : Fl) (e : Nat × Fl) => h ||| e.2) 0 } :=
      funext fun y => by rw [foldl_or_start]
    rw [← hflags]
    rfl
  · have hlen : (es.map (·.1)).length = n := by simp [es, unpackRow]
    rw [hbits t' row' b hrow' hb, hlen]
    by_cases hin : t' = t ∧ row' = row ∧ b < n * g.width
    · rw [if_pos hin, if_pos hin, nth_converted bs _ ((Nat.div_lt_iff_lt_mul (fmt_width_pos g)).mpr hin.2.2)]
    · rw [if_neg hin, if_neg hin]

/-- A row with a poisoned sector under `.zp`: zeros, counted. -/
theorem placeData_row_zeroed (s : State) (k : Fin 128) (a : ReqAt) (ea : W64) (len : Nat) (bs : List Byte) (bad : List (Nat × Nat)) (p : Nat)
    (t : Fin 48) {row : Nat} (hrow : row < 128) (n : Nat) (f g : Fmt) (rm : Rm) (sat : Bool) (env : NumEnv) : ∃ c,
    s.placeData k a ea len true (.row t.val row n f g rm sat env) bs bad (some p) = performed ((s.setCore k c).zeroRow k a.f row p) k a ∧
    c = { s.core k with tiles := c.tiles } ∧
    ∀ (t' : Fin 48) (row' b : Nat), row' < 128 → b < 1024 → (c.rowBits t'.val row').testBit b =
      if t' = t ∧ row' = row ∧ b < n * g.width then false else ((s.core k).rowBits t'.val row').testBit b := by
  obtain ⟨honly, hbits⟩ := putRow_spec (s.core k) t hrow g (List.replicate n 0)
  refine ⟨_, rfl, honly, fun t' row' b hrow' hb => ?_⟩
  rw [hbits t' row' b hrow' hb, List.length_replicate]
  have hzero (i : Nat) : nth 0 (List.replicate n 0) i = 0 := by
    rw [nth, List.getElem?_replicate]
    split <;> rfl
  rw [hzero, Nat.zero_testBit]

/-- A transform whose result lies outside its source: no byte of it is free. -/
theorem openOverlap_apart (s : State) (x : Xfer) {src len dst : Nat} {data : List Byte} (h : dst + data.length ≤ src ∨ src + len ≤ dst) :
    s.openOverlap x src len dst data = (data, s) := by
  have hnone : (overlapOf src len dst data.length).2 = 0 := by
    simp only [overlapOf]
    omega
  simp [State.openOverlap, hnone]

theorem placeData_xfer {s : State} {ea : W64} {len : Nat} {bs : List Byte} {x : Xfer} {r : XferOut} (hr : runXfer x bs [] = r)
    (h : r.dst.toNat + r.data.length ≤ ea.toNat ∨ ea.toNat + len ≤ r.dst.toNat) (k : Fin 128) (a : ReqAt) (zp : Bool) :
    s.placeData k a ea len zp (.xfer x) bs [] none =
      ((s.updFlight k a.f fun y => { y with flags := y.flags ||| r.flags }).replaceReq k a
        ((if r.data = [] then [] else [.write r.dst r.data r.bad]) ++
          match r.status with
          | some (e, v) => [.setE e v]
          | none => [])).settle k a.f := by
  have hover : s.openOverlap x ea.toNat len (runXfer x bs []).dst.toNat (runXfer x bs []).data = (r.data, s) := by
    rw [hr]
    exact openOverlap_apart s x h
  have hempty (l : List ReqKind) : (if r.data.isEmpty = true then [] else l) = if r.data = [] then [] else l :=
    if_congr List.isEmpty_iff rfl rfl
  unfold State.placeData
  dsimp only
  rw [hover, hr]
  dsimp only
  rw [hempty] <;> rfl

/-! ### One run of bytes of this package (R189, R301) -/

section
variable {s u : State} {k : Fin 128} {ea : W64} {len flat : Nat}

theorem poisonRuns_none {m : MemSide} (h : m.poisonedAt flat len = none) : poisonRuns m [(.here flat false, len)] 0 = [] := by
  have hnone : m.poison.filter (fun p => decide (flat < p * 64 + 64) && decide (p * 64 < flat + len)) = [] :=
    List.filter_eq_nil_iff.mpr (List.find?_eq_none.mp h)
  simp only [poisonRuns, hnone, List.map_nil, List.append_nil]

theorem readReq_here {a : ReqAt} (hbad : a.req.bad = []) (h : EngineAt s k ea len .read flat u) :
    s.readReq k a ea len = .all (u.mem.read flat len) (poisonRuns u.mem [(.here flat false, len)] 0) (u.mem.poisonedAt flat len) u := by
  rw [EngineAt] at h
  have hsec : firstPoison u.mem [(.here flat false, len)] = u.mem.poisonedAt flat len := by
    rw [firstPoison]
    split <;> simp_all [firstPoison]
  simp only [State.readReq, h, hbad, firstMissing, gatherPieces, hsec, List.append_nil, List.isEmpty_nil, if_true]
  cases u.mem.poisonedAt flat len <;> rfl

/-- The memory that a write of clean data leaves. -/
theorem portWrite_here {data : List Byte} (h : EngineAt s k ea data.length .write flat u) (loc : W64) (cls : Nat) :
    s.portWrite k loc ea cls data [] = .ok [] (u.setMem (u.mem.write flat data)) := by
  rw [EngineAt] at h
  simp [State.portWrite, h, State.writePieces, runsIn, sectorsOf]

theorem write_wrote (m : MemSide) (flat : Nat) (data : List Byte) : Wrote m (m.write flat data) flat data := by
  refine ⟨rfl, fun a => ?_, fun p => ?_⟩
  · rw [MemSide.write_byte]
    by_cases hin : flat ≤ a ∧ a < flat + data.length
    · rw [dif_pos hin, if_pos hin, nth, List.getElem?_eq_getElem]
      rfl
    · rw [dif_neg hin, if_neg hin]
  · simp only [MemSide.write, coversSector, List.mem_filter, Bool.not_eq_true', Bool.and_eq_false_iff, decide_eq_false_iff_not]
    exact and_congr_right fun _ => by omega

/-- No request to another package leaves in an access of this one. -/
theorem sentBetween_here {n : Nat} {need : Need} (h : EngineAt s k ea n need flat u) (m : MemSide) : sentBetween s (u.setMem m) = [] := by
  rw [sentBetween, State.setMem_fab, State.portAt_fab h, Nat.sub_self]
  rfl

end

/-! ### Performing a request (R320, R324) -/

theorem State.updFlight_same (s : State) (k : Fin 128) (f : Nat) {g : Flight → Flight} (hg : ∀ y, g y = y) : s.updFlight k f g = s := by
  have hid : g = id := funext hg
  rw [State.updFlight, hid, List.modify_id]
  exact s.setCore_self k

theorem fixBefore_free {s : State} {k : Fin 128} {a : ReqAt} (h : reqBlocked s k a = false) (n : Nat) :
    State.fixBefore k a n s = (s, true) := by
  cases n <;> simp [State.fixBefore, h]

section
variable {s u : State} {k : Fin 128} {idx : Nat} {a : ReqAt} {ea : W64} {len flat : Nat} {zp : Bool} {pl : Place}

/-- A read that may perform returns its data. -/
theorem exec_copyDataReturn_read (h : Performs s k idx a (.read ea len zp pl)) (hw : a.req.isWindow = false)
    (hat : EngineAt s k ea len .read flat u) : exec (.copyDataReturn k.val idx) s =
      .next (u.placeData k a ea len zp pl (u.mem.read flat len) (poisonRuns u.mem [(.here flat false, len)] 0) (u.mem.poisonedAt flat len)) := by
  obtain ⟨hfault, hreq, hfree, hasks⟩ := h
  have hkind : a.req.kind = .read ea len zp pl := by rw [hasks]
  have hbad : a.req.bad = [] := by rw [hasks]
  simp only [exec_copyDataReturn, execCopyDataReturn, coreIx_val, k.isLt, hfault, hreq, hkind, fixBefore_free hfree, State.returnData, hw,
    readReq_here hbad hat]
  rfl

theorem exec_copyDataReturn_fixed {bs : List Byte} {bad : List (Nat × Nat)} {sec : Option Nat} (hfault : (s.core k).fault = none)
    (hreq : (copyReqs (s.eng k .c))[idx]? = some a) (hkind : a.req.kind = .fixed ea len zp pl bs bad sec) :
    exec (.copyDataReturn k.val idx) s = .next (s.placeData k a ea len zp pl bs bad sec) := by
  simp only [exec_copyDataReturn, execCopyDataReturn, coreIx_val, k.isLt, hfault, hreq, hkind, State.returnData]
  rfl

theorem isWindow_row {t : Fin 48} {row n : Nat} {f g : Fmt} {rm : Rm} {sat : Bool} {env : NumEnv}
    (h : Asks a.req (.read ea len zp (.row t.val row n f g rm sat env))) : a.req.isWindow = false := by
  rw [h]
  rfl

theorem isWindow_xfer {x : Xfer} (h : Asks a.req (.read ea len zp (.xfer x))) : a.req.isWindow = false := by
  rw [h]
  rfl

/-- A write that may perform is accepted by its port. -/
theorem exec_copyWriteAccept_write {data : List Byte} (h : Performs s k idx a (.write ea data [])) :
    exec (.copyWriteAccept k.val idx) s = .next (s.acceptWrite k a) := by
  obtain ⟨hfault, hreq, hfree, hasks⟩ := h
  have hkind : a.req.kind = .write ea data [] := by rw [hasks]
  simp only [exec_copyWriteAccept, execCopyWriteAccept, coreIx_val, k.isLt, hfault, hreq, hfree, hkind]
  rfl

theorem acceptWrite_here {data : List Byte} (hkind : a.req.kind = .write ea data []) (hat : EngineAt s k ea data.length .write flat u) :
    s.acceptWrite k a = performed (u.setMem (u.mem.write flat data)) k a := by
  simp only [State.acceptWrite, hkind, portWrite_here hat, sentBetween_here hat, List.append_nil, List.isEmpty_nil, if_true]
  rw [State.updFlight_same _ _ _ fun _ => rfl]
  rfl

theorem acceptWrite_trap {data : List Byte} {tr : Trap} (hkind : a.req.kind = .write ea data [])
    (hat : s.portAt k ea data.length .write = .trap tr) : s.acceptWrite k a = s.raise k 5 a.flight.upc tr := by
  simp only [State.acceptWrite, hkind, State.portWrite, hat]

/-- A request that is held back and whose row is not fixed waits for what stands before it (R324). -/
theorem exec_copyDataReturn_held (hfault : (s.core k).fault = none) (hreq : (copyReqs (s.eng k .c))[idx]? = some a)
    (hheld : reqBlocked s k a = true) (hfixed : ∀ e n z p bs bad sec, a.req.kind ≠ .fixed e n z p bs bad sec)
    (hbefore : ∀ b, s.firstBefore k a = some b → ∀ e n z t r c f g rm sat env, b.req.kind ≠ .read e n z (.row t r c f g rm sat env)) :
    exec (.copyDataReturn k.val idx) s = .next s := by
  have hfix (n : Nat) : State.fixBefore k a n s = (s, false) := by
    cases n with
    | zero => simp [State.fixBefore, hheld]
    | succ n =>
      simp only [State.fixBefore, hheld, Bool.not_true, Bool.false_eq_true, if_false]
      split
      case h_1 => rfl
      case h_2 b hb =>
        split
        · rename_i hkind
          exact absurd hkind (hbefore b hb _ _ _ _ _ _ _ _ _ _ _)
        · rfl
  simp only [exec_copyDataReturn, execCopyDataReturn, coreIx_val, k.isLt, hfault, hreq, hfix, and_self, if_true, Bool.not_false]

theorem exec_copyWriteAccept_held (hfault : (s.core k).fault = none) (hreq : (copyReqs (s.eng k .c))[idx]? = some a)
    (hheld : reqBlocked s k a = true) : exec (.copyWriteAccept k.val idx) s = .next s := by
  simp only [exec_copyWriteAccept, execCopyWriteAccept, coreIx_val, k.isLt, hfault, hreq, hheld]
  rfl

/-! ### The rows of ADRAINM (R241) -/

theorem acceptRows_here {r : Req} {data : List Byte} (hkind : r.kind = .write ea data []) (hat : EngineAt s k ea data.length .write flat u)
    (upc : W64) : acceptRows s k upc [r] = (u.setMem (u.mem.write flat data), [], none) := by
  simp only [acceptRows, hkind, portWrite_here hat]

theorem exec_adrainmStoresAccepted_last {f : Flight} {r : Req} {data : List Byte} (hfault : (s.core k).fault = none)
    (hf : (s.eng k .a).flight.find? (fun f => !f.reqs.isEmpty) = some f) (hreqs : f.reqs = [r]) (hkind : r.kind = .write ea data [])
    (hat : EngineAt s k ea data.length .write flat u) : exec (.adrainmStoresAccepted k.val) s =
      .next ((u.setMem (u.mem.write flat data)).setEng k .a { u.eng k .a with
        flight := updFirst (fun g => !g.reqs.isEmpty) (fun g => { g with reqs := [] }) (u.eng k .a).flight }) := by
  simp only [exec_adrainmStoresAccepted, execAdrainmStoresAccepted, coreIx_val, k.isLt, hfault, hf, hreqs, acceptRows_here hkind hat,
    sentBetween_here hat, List.append_nil]
  rfl

end

end Sys2Proof.Machine

open Sys2Proof.Machine Sys2Proof.Safety in
/-- Settles O30: what a request does is what its port answers, and the data that came in is put where it goes. -/
theorem copyRequests : Obligations.CopyRequests := by
  unfold Obligations.CopyRequests
  intro s u k idx a ea len flat data zp raised
  refine ⟨fun hfault hreq hheld => ?held, fun t row n f g rm sat env hfault hreq hkind hrow => ?fixed,
    fun t row n f g rm sat env h hat hrow => ?row, fun x h hat hclean => ?transform, fun h hat => ?write, fun t h hat => ?fault,
    fun f cls hfault hf ⟨r, hreqs, hkind, _⟩ hat => ?drain⟩
  case held =>
    exact ⟨exec_copyWriteAccept_held hfault hreq hheld, exec_copyDataReturn_held hfault hreq hheld⟩
  case fixed =>
    rw [exec_copyDataReturn_fixed hfault hreq hkind]
    obtain ⟨c, fl, hplace, hrest⟩ := placeData_row s k a ea len zp data [] t hrow n f g rm sat env
    exact ⟨c, fl, congrArg _ hplace, hrest⟩
  case row =>
    intro elt
    rw [exec_copyDataReturn_read h (isWindow_row h.2.2.2) hat]
    refine ⟨fun hclean => ?_, fun p hp hzp => ?_, fun p hp hzp => ?_⟩
    · rw [hclean]
      obtain ⟨c, fl, hplace, hrest⟩ := placeData_row u k a ea len zp (u.mem.read flat len) (poisonRuns u.mem [(.here flat false, len)] 0)
        t hrow n f g rm sat env
      exact ⟨c, fl, congrArg _ hplace, hrest⟩
    · rw [hp, hzp]
      rfl
    · rw [hp, hzp]
      obtain ⟨c, hplace, hrest⟩ := placeData_row_zeroed u k a ea len (u.mem.read flat len) (poisonRuns u.mem [(.here flat false, len)] 0)
        p t hrow n f g rm sat env
      exact ⟨c, congrArg _ hplace, hrest⟩
  case transform =>
    intro r hapart
    rw [exec_copyDataReturn_read h (isWindow_xfer h.2.2.2) hat, hclean, poisonRuns_none hclean]
    exact congrArg _ (placeData_xfer rfl hapart k a zp)
  case write =>
    have hkind : a.req.kind = .write ea data [] := by rw [h.2.2.2]
    refine ⟨_, write_wrote u.mem flat data, ?_⟩
    rw [exec_copyWriteAccept_write h, acceptWrite_here hkind hat]
  case fault =>
    have hkind : a.req.kind = .write ea data [] := by rw [h.2.2.2]
    rw [exec_copyWriteAccept_write h, acceptWrite_trap hkind hat]
  case drain =>
    exact ⟨_, write_wrote u.mem flat data, exec_adrainmStoresAccepted_last hfault hf hreqs hkind hat⟩

end
